-- ==== Sys2Proof/Word.lean ====
section
/-! DEFINITION. The word types of the LZ9 and their plainest arithmetic: bytes, 32-bit register words,
frame numbers and generations. -/

namespace Sys2Proof

/-- One byte of a record, a descriptor, a frame or of device DRAM. -/
abbrev Byte := BitVec 8

/-- A 32-bit register of BAR0 (R40). -/
abbrev Word := BitVec 32

/-- A frame number or a generation: 32 bits, wrapping, compared under R6. -/
abbrev FrameNo := BitVec 32

/-- 1 for true, 0 for false. -/
def b2n (b : Bool) : Nat := if b then 1 else 0

end Sys2Proof
end

