-- ==== Sys2Proof/Messages.lean ====
section
/-! DEFINITION. PTP messages by the fields IEEE 1588-2019 gives them (R383); their byte layout is that standard's. -/

namespace Sys2Proof

/-- The header fields of a PTP message that the LZ9 uses. `corr` is the correctionField, in 2^-16 ns. -/
structure PtpHeader where
  domain : Nat := 0
  seq : Nat := 0
  corr : Int := 0
  clock : Nat := 0
  port : Nat := 1
  twoStep : Bool := false
  logInterval : Int := 0
  deriving DecidableEq, Repr

/-- What an Announce message says of its grandmaster. -/
structure GmInfo where
  priority1 : Nat := 128
  clockClass : Nat := 248
  accuracy : Nat := 0xFE
  variance : Nat := 0xFFFF
  priority2 : Nat := 128
  identity : Nat := 0
  steps : Nat := 0
  deriving DecidableEq, Repr

/-- The bodies of the messages of R383. Time-stamps are in ns. -/
inductive PtpBody where
  | sync (origin : Nat)
  | followUp (origin : Nat)
  | delayReq
  | delayResp (receipt reqClock reqPort : Nat)
  | pdelayReq
  | pdelayResp (receipt reqClock reqPort : Nat)
  | pdelayRespFollowUp (origin reqClock reqPort : Nat)
  | announce (gm : GmInfo)
  | signaling
  | management
  deriving DecidableEq, Repr

/-- A PTP message. -/
structure PtpMsg where
  header : PtpHeader := {}
  body : PtpBody := .management
  deriving DecidableEq, Repr

/-- R341: what the patterns show of one lens: its place in its region's lens grid, its emitters, and the phase differences
δ in x and y, in 1/16 emitter pitch, from each position that sees it (none: unseen). -/
structure LensObs where
  region : Nat := 0
  ix : Int := 0
  iy : Int := 0
  emitters : List Nat := []
  dx : List Int := []
  dy : List Int := []
  deriving DecidableEq, Repr

/-- R342: what the patterns show of one emitter: its colour and its responses at LOW_LEVEL and HIGH_LEVEL. -/
structure EmitterObs where
  emitter : Nat := 0
  colour : Nat := 0
  low : Nat := 0
  high : Nat := 0
  deriving DecidableEq, Repr

/-- R328, R463: what a calibration run commits or applies: post-blend tables by channel, missing nozzles with their bars,
shifts S_b by bar, bar-offset slew targets with their rates, axis moves in 2^-16 axis units, ray residuals and emitter gains
by emitter. `cleared` are the bars whose list CLEAR_LIST empties first (R347), a mask. -/
structure CalImage where
  cleared : Nat := 0
  tables : List (Nat × List Nat) := []
  missing : List (Nat × Nat) := []
  shifts : List (Nat × Int) := []
  slews : List (Nat × Int × Nat) := []
  moves : List (Nat × Int) := []
  residuals : Option (List (Nat × Int × Int)) := none
  gains : Option (List (Nat × Nat × Int)) := none
  deriving DecidableEq, Repr

/-- R439, R440: one conversion of a housekeeping round: channel, raw code, the value in the channel's unit, and whether the
bias check of its input passed. -/
structure AdcReading where
  chan : Nat := 0
  raw : Nat := 0
  value : Int := 0
  bias : Bool := true
  deriving DecidableEq, Repr

/-- R425, R426: a read of up to 256 bytes that waits at a channel: its port, its deadline and arrival in ns, its device DRAM
address, the bank and row it activates, the lanes of each of its bursts whose read CRC failed (R410), for a feeder the bar
and the offset in the slot of its band, or the offset in the frame store, and for ports 51 and 52 the key of the requester whose
admitted rate it moves under (R431). -/
structure MemReq where
  port : Nat := 0
  deadline : Nat := 0
  arrival : Nat := 0
  addr : Nat := 0
  act : Option (Nat × Nat) := none
  bad : List (List Nat) := []
  bar : Nat := 0
  off : Nat := 0
  key : Nat := 0
  deriving DecidableEq, Repr

end Sys2Proof
end

