-- ==== Sys2Proof/Syntax.lean ====
section
/-! DEFINITION. The commands of the LZ9: one constructor per row of spec/opcode_table.json.
A row of the opcode catalogue (R71) names the execution slot that holds its fetched descriptor (R49, R51);
an event row carries what arrives from outside. -/

namespace Sys2Proof


/-- One constructor per row of the table of operations and events. -/
inductive Instr where
  /-- POWER_ON (R494). VDD_AON enters its range: the always-on domain starts, straps are sampled and attempt counter and trip info are cleared. -/
  | powerOn (straps : BitVec 2)
  /-- PORST_ASSERT (R21). Assertion of PORST_N takes any state except TRIPPED to RESET. -/
  | porstAssert (straps : BitVec 2)
  /-- SYSRST_ASSERT (R21). External assertion of SYSRST_N takes any state except TRIPPED to RESET without sampling straps. -/
  | sysrstAssert
  /-- RESET_RELEASE (R21). Reset pins released with supplies in range: RESET to BOOT, fuses sensed with parity check, OTP read, SRAM wiped. -/
  | resetRelease (parityOk : Bool)
  /-- BOOT_IMAGE_VERIFIED (R499). Verification of an image from SPI slot A, slot B or host push completes; pass starts firmware, failure tries the next source, waits for a push or enters FAULT. -/
  | bootImageVerified (image : List Byte)
  /-- BOOT_DDR_TRAINED (R420). Boot training of each present channel ends, falling back through lower rates or leaving the channel OFFLINE; with no channel left the LZ9 enters FAULT. -/
  | bootDdrTrained (ch : Nat) (eyes : List Nat) (temp : Int)
  /-- READY (R503). The DRAM wipe completes and the LZ9 goes from BOOT to IDLE, placing the READY event in the backlog. -/
  | ready
  /-- INTERNAL_RESET (R493). The LZ9 records the reset cause and drives SYSRST_N low for 10 µs to perform an LC_TRANSITION or OPEN reset. -/
  | internalReset
  /-- WATCHDOG_EXPIRY (R12). A control core fails to service its 10 ms watchdog; the LZ9 enters Halter and then FAULT with cause WATCHDOG. -/
  | watchdogExpiry
  /-- CLOCK_FAULT (R20). A reference clock absent or more than 1 % off for 10 µs: REFCLK or SERDES_REFCLK leads to Halter and FAULT, PCIE_REFCLK to PCIe link down. -/
  | clockFault (ref : Nat)
  /-- DIE_TRIP (R451). The hotspot comparator reaches 120 °C: THERM_TRIP_N asserted, head-power enables removed, Halter forced, HALTER blocks sent, clocks stopped and state TRIPPED. -/
  | dieTrip (hotspot : Int)
  /-- TRIP_HOLD_EXPIRY (R452). The die stays below 95 °C for 30 s in TRIPPED and the LZ9 enters RESET for a TRIP_RESTART boot. -/
  | tripHoldExpiry
  /-- FLR (R44). PCIe function-level reset: fetching stops, outputs enter Halter, commands abort, jobs and scans close, rings disabled and window wiped. -/
  | flr
  /-- HOT_RESET (R43). A PCIe Hot Reset, or assertion of PCIE_PERST_N, has the effect of an FLR. -/
  | hotReset
  /-- PCIE_LINK_DOWN (R43). Loss of the PCIe link takes ARMED or RUN to HALTER with cause PCIE_DOWN and leaves other states unchanged. -/
  | pcieLinkDown
  /-- D3HOT_ENTRY (R43). Entry into D3hot takes ARMED or RUN to HALTER with cause PCIE_DOWN. -/
  | d3hotEntry
  /-- BAR0_BAD_ACCESS (R40). A BAR0 access that is not an aligned full 32-bit access is completed as Unsupported Request or discarded and logged in AER. -/
  | bar0BadAccess (write : Bool)
  /-- BAR2_WRITE (R46). A host write through BAR2 stores bytes in read-write regions and discards the rest, counting WIN_DROP. -/
  | bar2Write (offset : Nat) (bytes : List Byte)
  /-- BAR2_READ (R41). A host read through BAR2 returns device DRAM, with a poisoned completion for uncorrectable data. -/
  | bar2Read (offset : Nat) (len : Nat)
  /-- REGISTER_WRITE (R74). A write to a register field with no row of its own: applied, ignored and counted in TOP.REG_CONFLICT, or discarded at an unassigned offset. -/
  | registerWrite (off : Nat) (v : Word)
  /-- READ_CLEAR (R8). A read of a register with an RC field returns the value and then clears the field. -/
  | readClear (off : Nat)
  /-- LATCHED_LO_READ (R535). A read of an LO register fills the shared latch of its HI and associated registers. -/
  | latchedLoRead (off : Nat)
  /-- W1C_WRITE (R8). A write to a W1C field clears each bit written 1. -/
  | w1cWrite (off : Nat) (v : Word)
  /-- HPEN_CTRL_WRITE (R525). A write of TOP.HPEN_CTRL.ENABLE sets the head-power enables in the states that allow them. -/
  | hpenCtrlWrite (v : Word)
  /-- CAP_POP (R406). Writing 1 to TIME.CAP_POP removes the oldest stamp from a capture unit's FIFO. -/
  | capPop (c : Nat) (v : Word)
  /-- CMD_RING_ENABLE (R47). CMD.CR_CFG.ENABLE 0 to 1 enables a command ring and sets HEAD to 0. -/
  | cmdRingEnable (n : Nat) (v : Word)
  /-- CMD_RING_DISABLE (R47). CMD.CR_CFG.ENABLE 1 to 0 stops fetching from a command ring while fetched commands complete. -/
  | cmdRingDisable (n : Nat) (v : Word)
  /-- CMD_RING_RESIZE (R47). A write of CR_CFG.LOG2_ENTRIES sets the ring size, or is ignored and counted if enabled or out of range. -/
  | cmdRingResize (n : Nat) (v : Word)
  /-- CR_DOORBELL (R49). A write of CMD.CR_DOORBELL.TAIL makes descriptors visible, or is ignored and counted if out of range or the ring is disabled. -/
  | crDoorbell (n : Nat) (v : Word)
  /-- DESCRIPTOR_FETCH (R49). The LZ9 fetches the descriptor at HEAD into an execution slot when one is free, clearing OWN, or stops at OWN = 0. -/
  | descriptorFetch
  /-- CPL_RING_ENABLE (R56). CPL_CFG.ENABLE 0 to 1 enables a completion ring, zeroing HEAD and TAIL and setting phase 1, and writes waiting records. -/
  | cplRingEnable (n : Nat) (v : Word)
  /-- CPL_RING_DISABLE (R57). CPL_CFG.ENABLE 1 to 0 stops writing a completion ring; records of consumed commands wait. -/
  | cplRingDisable (n : Nat) (v : Word)
  /-- CPL_RING_CONFIG (R47). A write of CPL_CFG size, vector or coalescing fields, or ignored and counted under R47. -/
  | cplRingConfig (n : Nat) (v : Word)
  /-- EVT_RING_ENABLE (R56). EVT_CFG.ENABLE 0 to 1 enables the event ring and starts draining the backlog. -/
  | evtRingEnable (v : Word)
  /-- EVT_RING_DISABLE (R59). EVT_CFG.ENABLE 1 to 0 disables the event ring; later events wait in the backlog. -/
  | evtRingDisable (v : Word)
  /-- EVT_RING_CONFIG (R47). A write of EVT_CFG size, vector or coalescing fields, or ignored and counted under R47. -/
  | evtRingConfig (v : Word)
  /-- CPL_PTR_HEAD_WRITE (R57). The host writes CMD.CPL_PTR.HEAD to release completion records, or the write is ignored and counted if out of range. -/
  | cplPtrHeadWrite (n : Nat) (v : Word)
  /-- EVT_PTR_HEAD_WRITE (R57). The host writes CMD.EVT_PTR.HEAD to release event records, or the write is ignored and counted if out of range. -/
  | evtPtrHeadWrite (v : Word)
  /-- COMPLETION_RECORD_WRITE (R55). A completed command's record is written to its completion ring once there is room and the ring is enabled. -/
  | completionRecordWrite (n : Nat)
  /-- EVENT_BACKLOG_DRAIN (R59). A waiting event is written from the backlog into the event ring once it is enabled and has room. -/
  | eventBacklogDrain
  /-- COALESCE_TIMER_EXPIRY (R62). The oldest unreleased record has waited COALESCE_TIME and the ring raises its MSI-X vector. -/
  | coalesceTimerExpiry (n : Nat)
  /-- SYS_NOP (R71). Completes with ST_OK and the number of commands executing. -/
  | sysNop (slot : Nat)
  /-- SYS_QUERY (R71). Returns the queried item such as firmware version or free handles. -/
  | sysQuery (slot : Nat)
  /-- SYS_SET_MODE (R35). Selects print or light-field mode in IDLE, partitions the band store, allocates the host area and goes to ARMED. -/
  | sysSetMode (slot : Nat)
  /-- SYS_PULL (R70). Copies host memory into a FILLING buffer through admitted BULK, optionally making it READY. -/
  | sysPull (slot : Nat)
  /-- HOST_READ_COMPLETION (R70). A PCIe completion for a SYS_PULL read arrives; data is written, or a timeout, poison or error ends the pull with ST_HW_FAULT. -/
  | hostReadCompletion (slot : Nat) (status : Nat) (bytes : List Byte)
  /-- SYS_HALTER (R21). Urgent: every output enters Halter and the device state becomes HALTER. -/
  | sysHalter (slot : Nat)
  /-- SYS_RESUME (R22). Leaves HALTER for ARMED or RUN, resuming output from the first frame whose cutoff lies after the resume. -/
  | sysResume (slot : Nat)
  /-- SYS_BUF_DEFINE (R68). DEFINE, READY or RECLAIM action on a buffer handle. -/
  | sysBufDefine (slot : Nat)
  /-- SYS_BUF_FREE (R69). Frees a buffer, or makes it RELEASE_PENDING with ST_DEFERRED while pinned. -/
  | sysBufFree (slot : Nat)
  /-- SYS_EVENT_MASK (R60). Enables or disables a range of event codes of one source. -/
  | sysEventMask (slot : Nat)
  /-- WEB_CONFIG (R99). Configures a feedback channel's mode, role and parameters and restarts its index check. -/
  | webConfig (slot : Nat)
  /-- WEB_BAR_OFFSET (R100). Sets a bar offset at once (IMMEDIATE) or sets a slew target. -/
  | webBarOffset (slot : Nat)
  /-- WEB_LIMITS (R101). Sets gait limits and enables line-tick generators. -/
  | webLimits (slot : Nat)
  /-- WEB_REREFERENCE (R102). SET_POSITION sets P and HWM, or REALIGN_INDEX arms index realignment. -/
  | webRereference (slot : Nat)
  /-- WEB_QUERY (R103). Snapshots the WEB registers in one 1 ns sample. -/
  | webQuery (slot : Nat)
  /-- ENCODER_EDGE (R78). An accepted change of a quadrature input counts P, updates HWM and drives line ticks, gait and doubt. The
  latest `samples` samples of 1 ns (R77) found A at `a` and B at `b`. -/
  | encoderEdge (ch : Nat) (a : Bool) (b : Bool) (samples : Nat)
  /-- HALL_EDGE (R80). An accepted change of a Hall channel input moves its count or is judged illegal. The
  latest `samples` samples of 1 ns (R77) found U, V and W so. -/
  | hallEdge (ch : Nat) (u : Bool) (v : Bool) (w : Bool) (samples : Nat)
  /-- INDEX_EVENT (R83). An accepted index pulse corrects W, counts a slip or raises INDEX_MISMATCH. The latest `samples` samples of
  1 ns (R77) found FBn_Z at `z`. -/
  | indexEvent (ch : Nat) (z : Bool) (samples : Nat)
  /-- INDEX_MISSING (R84). P moves 1.5 × CPR since the last index event; INDEX_MISSING is raised and a doubt started. -/
  | indexMissing (ch : Nat)
  /-- WEB_CHECK_SPAN (R86). Net master travel reaches CHECK_SPAN and the master is compared with the check channel. -/
  | webCheckSpan
  /-- REG_DOUBT_END (R98). DOUBT_REMAIN counts down to 0 and REG_DOUBT ended is raised. -/
  | regDoubtEnd
  /-- SSI_READ_DONE (R81). An SSI word read completes and extends the channel position and speed. -/
  | ssiReadDone (ch : Nat) (word : Nat)
  /-- GAIT_EVAL (R89). The 1 µs evaluation updates speed and gait and raises GAIT_CHANGE. -/
  | gaitEval
  /-- STANDSTILL_TIMEOUT (R87). STANDSTILL_MS passes without an edge; speed becomes 0 and the channel stops. -/
  | standstillTimeout (ch : Nat)
  /-- PRN_JOB_OPEN (R133). Opens a print job, sets N_first and removes every layer binding. -/
  | prnJobOpen (slot : Nat)
  /-- PRN_LAYER_BIND (R145). Stages a BIND, UNBIND or REBIND_BUFFER of a print layer. -/
  | prnLayerBind (slot : Nat)
  /-- PRN_TONE_LOAD (R151). Copies pre-blend, post-blend or compensation tables into the PRN set. -/
  | prnToneLoad (slot : Nat)
  /-- PRN_SCREEN_LOAD (R158). Stages a threshold array, the default array or screen parameters. -/
  | prnScreenLoad (slot : Nat)
  /-- PRN_COMMIT (R139). Commits the PRN and FIRE sets as one generation to an applied frame. -/
  | prnCommit (slot : Nat)
  /-- PRN_JOB_CLOSE (R136). Sets the last frame of the open job. -/
  | prnJobClose (slot : Nat)
  /-- PRN_ABORT (R138). Urgent: cuts the job's frames short under R131. -/
  | prnAbort (slot : Nat)
  /-- FIRE_MAP_LOAD (R168). Checks and stages a bar map. -/
  | fireMapLoad (slot : Nat)
  /-- FIRE_MASK_LOAD (R170). Stages a column-mask pattern or stitch tile, or a default. -/
  | fireMaskLoad (slot : Nat)
  /-- FIRE_NOZZLE_STATE (R173). Loads or sets nozzle records of a node. -/
  | fireNozzleState (slot : Nat)
  /-- FIRE_TIMING (R197). Stages the firing timing of a bar. -/
  | fireTiming (slot : Nat)
  /-- FIRE_SPIT_CONFIG (R190). Stages a spit window or starts a purge of a bar. -/
  | fireSpitConfig (slot : Nat)
  /-- PURGE_DONE (R192). A purge completes or is aborted by Halter and PURGE_DONE is raised. -/
  | purgeDone (bar : Nat)
  /-- FRAME_CUTOFF (R118). A frame's cutoff passes: generation and readiness fixed, buffers pinned, content check started, banks and holds decided. -/
  | frameCutoff
  /-- BANK_WRITE_START (R176). Once the last line of the frame that last used a bank has fired, the LZ9 writes it by control frames. -/
  | bankWriteStart (node : Nat)
  /-- BAND_DISPATCH (R161). The dispatcher gives a free engine the waiting band with the earliest fetch point and tags it. -/
  | bandDispatch (engine : Nat)
  /-- BAND_RENDER_END (R119). An engine finishes a band; its tag is checked and the band kept or discarded. -/
  | bandRenderEnd (engine : Nat)
  /-- BAND_FETCH_POINT (R18). A band reaches its fetch or read point and is fetched or replaced by its substitute. -/
  | bandFetchPoint (bar : Nat)
  /-- CONTENT_CHECK_DONE (R125). A CRC content check of a buffer completes and sets CONTENT_CHANGED on mismatch. -/
  | contentCheckDone (frame : FrameNo) (handle : Nat)
  /-- FRAME_COMPLETE (R108). A frame's last band has left the feeders of every consumer; pins are released and a closing job or stopping scan may end. -/
  | frameComplete (frame : FrameNo)
  /-- FRAME_RECORD (R127). The frame record is written once the frame is COMPLETE and both content checks have finished. -/
  | frameRecord (frame : FrameNo)
  /-- LAST_TICK_TIMEOUT (R221). 2 ms after the tick of LAST, a node that has not reported counts one blank. -/
  | lastTickTimeout (node : Nat)
  /-- REIN_LINK_STATE (R231). Brings links UP, DOWN or RELEASEs their nodes. -/
  | reinLinkState (slot : Nat)
  /-- ADAPTATION_DONE (R227). Lane adaptation reaches the minimum eye and block lock; the link becomes LOCKED. -/
  | adaptationDone (link : Nat) (eye : Nat)
  /-- ADAPTATION_TIMEOUT (R227). 100 ms without adaptation and lock; the link becomes FAILED. -/
  | adaptationTimeout (link : Nat)
  /-- BLOCK_LOCK_LOST (R227). A link loses block lock and starts relock. -/
  | blockLockLost (link : Nat)
  /-- REIN_ENUMERATE (R232). Counts, checks and claims or observes the nodes of the named links. -/
  | reinEnumerate (slot : Nat)
  /-- ENUM_COLLECT_EXPIRY (R228). The 100 µs ENUM_RESP window ends; hops are judged, positions assigned and cable delays measured. -/
  | enumCollectExpiry (slot : Nat) (rx : List (Nat × List Byte)) (rtts : List (Nat × Nat × Nat))
  /-- REIN_NODE_READ (R234). Reads words from a node register space. -/
  | reinNodeRead (slot : Nat)
  /-- REIN_NODE_WRITE (R234). Writes words into a node register space. -/
  | reinNodeWrite (slot : Nat)
  /-- CTRL_RESP_RX (R223). A CTRL_RESP arrives and completes its request. -/
  | ctrlRespRx (link : Nat) (bytes : List Byte)
  /-- CTRL_RETRY_TIMEOUT (R223). No valid response 20 µs after a CTRL_REQ; it is sent again or the request fails. -/
  | ctrlRetryTimeout (node : Nat) (tag : Nat)
  /-- STATUS_FRAME_RX (R221). A node status frame arrives; blanks are mapped, claims compared and node state updated. -/
  | statusFrameRx (link : Nat) (bytes : List Byte)
  /-- NODE_SILENT (R236). No valid status frame from a node for 3 ms. -/
  | nodeSilent (node : Nat)
  /-- HALTER_REPEAT (R218). A HALTER block is sent again at least every 10 µs to nodes that are to be in Halter. -/
  | halterRepeat (node : Nat)
  /-- NODE_DOWNSTREAM_FRAME (R211). A node receives a valid frame addressed to it and applies the claim rule. -/
  | nodeDownstreamFrame (node : Nat) (portB : Bool) (bytes : List Byte)
  /-- NODE_CTRL_REQ (R222). A node executes a CTRL_REQ, or resends the stored response for a repeated TAG. -/
  | nodeCtrlReq (node : Nat) (portB : Bool) (bytes : List Byte)
  /-- NODE_TICK (R214). A node obeys a TICK block from its holder port and fires or drives the line or row. -/
  | nodeTick (node : Nat) (portB : Bool) (bytes : List Byte) (tRx : Int)
  /-- NODE_HALTER_BLOCK (R212). A node accepts a HALTER block and enters Halter. -/
  | nodeHalterBlock (node : Nat) (portB : Bool) (bytes : List Byte)
  /-- NODE_RUN_BLOCK (R217). A node accepts a RUN block and leaves Halter unless OVERTEMP or SUPPLY_FAULT is set. -/
  | nodeRunBlock (node : Nat) (portB : Bool) (bytes : List Byte)
  /-- NODE_ECHO (R207). A node receiving an ECHO with matching hop sends an ECHO_REPLY. -/
  | nodeEcho (node : Nat) (portB : Bool) (bytes : List Byte)
  /-- NODE_LINK_LOSS (R217). A node's holder port has no lock or no block for LINK_LOSS_US and the node enters Halter. -/
  | nodeLinkLoss (node : Nat) (lockLost : Bool)
  /-- NODE_STATUS_TIMER (R220). A node sends a status frame every STATUS_US or after a blank or LAST tick. -/
  | nodeStatusTimer (node : Nat) (temps : List Nat) (mv : Nat) (cur : Nat) (nhFail : Nat) (overtemp : Bool) (supplyFault : Bool)
  /-- NODE_KEEP_WARM_IDLE (R189). No tick for KW_IDLE_US and the node runs pre-heat sequences at KW_RATE_HZ. -/
  | nodeKeepWarmIdle (node : Nat)
  /-- LFR_SCENE_BIND (R243). Stages a plane binding or scene parameters in the LFR set. -/
  | lfrSceneBind (slot : Nat)
  /-- LFR_RAYMAP_LOAD (R247). Checks and stages a ray map. -/
  | lfrRaymapLoad (slot : Nat)
  /-- LFR_EMITTER_CAL_LOAD (R249). Stages a gain and offset table or UNITY. -/
  | lfrEmitterCalLoad (slot : Nat)
  /-- LFR_LUT_LOAD (R254). Stages a linearising or gamma table. -/
  | lfrLutLoad (slot : Nat)
  /-- SCAN_TIMING (R272). Sets scan timing (TIMING) or loads a panel map (PANEL_MAP). -/
  | scanTiming (slot : Nat)
  /-- SCAN_COMMIT (R285). UPDATE commits, START begins a scan, STOP ends it at a frame. -/
  | scanCommit (slot : Nat)
  /-- SCAN_POWER_POLICY (R289). Stages REFRESH_DIV and STATIC_FRAMES. -/
  | scanPowerPolicy (slot : Nat)
  /-- SCAN_SPLIT_CONFIG (R294). Configures or removes the split-panel partner. -/
  | scanSplitConfig (slot : Nat)
  /-- ROW_TICK (R269). A row tick of a group is due and TICK blocks are sent on its links with the row frames. -/
  | rowTick (groupB : Bool)
  /-- SPLIT_READY_RX (R296). A partner's SPLIT_READY arrives and the frame is delivered or repeated. -/
  | splitReadyRx (bytes : List Byte)
  /-- SPLIT_WAIT_EXPIRY (R296). SPLIT_WAIT_US after the cutoff with no partner message; the frame is repeated or delivered alone. -/
  | splitWaitExpiry (frame : FrameNo)
  /-- CAM_CONTEXT (R301). Configures or releases a port, stream or context. -/
  | camContext (slot : Nat)
  /-- CAM_SETTINGS (R310). Checks a settings image and makes or merges the stream's pending state. -/
  | camSettings (slot : Nat)
  /-- CAM_OUTPUT (R316). Binds an output of a context with BULK admission. -/
  | camOutput (slot : Nat)
  /-- CAM_START (R314). Checks pipeline load and starts contexts. -/
  | camStart (slot : Nat)
  /-- CAM_STOP (R315). Urgent: stops contexts and masks their triggers. -/
  | camStop (slot : Nat)
  /-- CSI_FRAME_START (R303). An FS packet increments CAM_SEQ and pairs the frame with an exposure entry. -/
  | csiFrameStart (port : Nat) (vc : Nat) (ecc : Nat) (deskew : Bool)
  /-- CSI_LINE_PACKET (R313). A long packet arrives, is checked, and may abandon the lowest-priority frame in progress. -/
  | csiLinePacket (port : Nat) (vc : Nat) (dt : Nat) (payload : List Byte) (ecc : Nat) (crcOk : Bool)
  /-- CAM_FRAME_DONE (R317). A frame ends; its outputs and metadata are written and buffers made READY, or it is dropped. -/
  | camFrameDone (port : Nat) (vc : Nat) (ecc : Nat)
  /-- SCRIPT_WRITE_START (R312). A pending settings script starts on its I2C bus once it fits the window, or slips to the next FS. -/
  | scriptWriteStart (port : Nat)
  /-- SCRIPT_WRITE_DONE (R312). A settings script completes or is NAKed and SETTINGS_DONE is raised. -/
  | scriptWriteDone (port : Nat) (nak : Option Nat)
  /-- STROBE_END (R302). STROBE_WIDTH_US elapses and the strobe goes low. -/
  | strobeEnd (band : Nat)
  /-- CAL_TARGETS (R345). Copies a calibration target image. -/
  | calTargets (slot : Nat)
  /-- CAL_RUN (R347). Requests a run, joining one in progress, or clears the missing-nozzle list. -/
  | calRun (slot : Nat)
  /-- CAL_POLICY (R346). Sets the policy of a calibration instance and takes or releases its resources. -/
  | calPolicy (slot : Nat)
  /-- CAL_QUERY (R348). Returns the quality and run state of an instance. -/
  | calQuery (slot : Nat)
  /-- CAL_RUN_START (R325). A pending run starts once the current run has ended and its preconditions hold. -/
  | calRunStart (calId : Nat)
  /-- CAL_PERIODIC_TIMER (R324). PERIOD ms pass for a DDR or SERDES instance and a run is triggered. -/
  | calPeriodicTimer (calId : Nat)
  /-- CAL_COMPUTE_DONE (R328). A run's computation finishes and its result is committed or applied, raising CAL_DONE. -/
  | calComputeDone (calId : Nat) (eye : Nat) (found : Bool) (lenses : List LensObs) (photo : List EmitterObs)
  /-- CAL_TIMEOUT (R326). A run's timeout expires and it completes with ST_CAL_FAILED TIMEOUT. -/
  | calTimeout (calId : Nat)
  /-- CAL_SETTLE_EXPIRY (R339). SETTLE_MS passes at a gantry position and the test patterns start. -/
  | calSettleExpiry (calId : Nat)
  /-- AXIS_CONFIG (R377). ENGINE, AXIS, SWITCHES, GROUP or CLEAR_FAULT configuration of the motion engine. -/
  | axisConfig (slot : Nat)
  /-- AXIS_HOME (R368). Runs a homing method on an axis. -/
  | axisHome (slot : Nat)
  /-- AXIS_MOVE (R361). Plans or replans a single-axis jerk-limited move. -/
  | axisMove (slot : Nat)
  /-- AXIS_GROUP_MOVE (R363). Moves every axis of a group in a straight line. -/
  | axisGroupMove (slot : Nat)
  /-- AXIS_STOP (R373). Urgent: stops named axes CONTROLLED, QUICK or by DISABLE. -/
  | axisStop (slot : Nat)
  /-- AXIS_BUS_REPLY (R359). A drive reply frame arrives and gives the axis its actual position and status. -/
  | axisBusReply (bus : Nat) (bytes : List Byte) (startNs : Nat)
  /-- AXIS_REPLY_WINDOW_END (R359). A slot's reply window closes without a valid reply; BUS_MISS counted and DRIVE_SILENT after three. -/
  | axisReplyWindowEnd (bus : Nat) (slotNo : Nat)
  /-- SWITCH_CHANGE (R364). A sample of an axis switch input, in which it can accept a new level; limits, homing and chatter act. -/
  | switchChange (axis : Nat) (input : Nat) (level : Bool)
  /-- TIME_PORT_CONFIG (R401). Configures an Ethernet port's PTP operation or the clock parameters. -/
  | timePortConfig (slot : Nat)
  /-- TIME_TRIGGER (R402). ARM, DISARM or OUTPUT of a trigger unit. -/
  | timeTrigger (slot : Nat)
  /-- TIME_CAPTURE (R403). Arms or disarms a capture unit. -/
  | timeCapture (slot : Nat)
  /-- TIME_HITCH (R404). Joins or leaves a hitch. -/
  | timeHitch (slot : Nat)
  /-- TRIGGER_FIRE (R390). A trigger unit fires at T_k, drives its pin and starts its holder's action. -/
  | triggerFire (unit : Nat) (adc : List AdcReading)
  /-- TRIGGER_PULSE_END (R390). WIDTH_NS after a firing the trigger pin returns inactive. -/
  | triggerPulseEnd (unit : Nat)
  /-- CAPTURE_EDGE (R394). An edge of a capture unit's source is stamped into its FIFO. -/
  | captureEdge (source : Nat) (index : Nat) (level : Bool) (samples : Nat)
  /-- PTP_MESSAGE_RX (R383). A PTP message is received, time-stamped, forwarded or used by the servo. -/
  | ptpMessageRx (port : Nat) (msg : PtpMsg) (tBoundary : Int)
  /-- SYNC_TIMEOUT (R388). No Sync for 3 intervals from LOCKED; the servo enters HOLDOVER. -/
  | syncTimeout
  /-- ARP_REQUEST_RX (R382). An ARP request for the port's address is answered. -/
  | arpRequestRx (port : Nat) (target : Nat) (senderMac : Nat) (senderIp : Nat)
  /-- HITCH_HELLO_TIMER (R396). A joined member multicasts HELLO every 1 ms. -/
  | hitchHelloTimer
  /-- HITCH_HELLO_RX (R396). A HELLO arrives and member presence or conflict is updated. -/
  | hitchHelloRx (bytes : List Byte)
  /-- HITCH_PRESENCE_TIMEOUT (R396). No HELLO from a member for 3 ms and it is lost. -/
  | hitchPresenceTimeout (member : Nat)
  /-- PROPOSE_RX (R397). A PROPOSE arrives; the leader decides once it holds every proposal. -/
  | proposeRx (bytes : List Byte)
  /-- PROPOSE_REPEAT (R397). A pending hitch commit multicasts PROPOSE again every 100 µs. -/
  | proposeRepeat
  /-- DECIDE_RX (R397). A DECIDE arrives and the member assigns its hitch commit or records divergence. -/
  | decideRx (bytes : List Byte)
  /-- ABORT_RX (R397). An ABORT arrives and the hitch commit completes with ST_TIMEOUT. -/
  | abortRx (bytes : List Byte)
  /-- HITCH_WAIT_EXPIRY (R397). The leader lacks proposals WAIT_US after the first and multicasts ABORT. -/
  | hitchWaitExpiry (frame : FrameNo)
  /-- HITCH_COMMIT_TIMEOUT (R397). A member has neither DECIDE nor ABORT WAIT_US + 2 ms after proposing and times out. -/
  | hitchCommitTimeout
  /-- WEB_SAMPLE_TIMER (R399). At each whole millisecond a print member latches HWM and sends WEB_SAMPLE. -/
  | webSampleTimer
  /-- WEB_SAMPLE_RX (R399). A WEB_SAMPLE from WEB_SOURCE is compared and a mismatch starts a doubt. -/
  | webSampleRx (bytes : List Byte)
  /-- MEM_QOS (R433). Sets BULK_BUDGET and PULL_RATE. -/
  | memQos (slot : Nat)
  /-- MEM_ERROR_POLICY (R434). Sets parity policy, row threshold, MIN_EYE and scrub period. -/
  | memErrorPolicy (slot : Nat)
  /-- MEM_RETRAIN (R435). Retrains channels or changes their data rate. -/
  | memRetrain (slot : Nat)
  /-- MEM_QUERY (R436). Returns memory capacity, rate, eye, online mask or BULK held. -/
  | memQuery (slot : Nat)
  /-- MEM_GRANT (R426). A channel serves its first waiting request in arbitration order. -/
  | memGrant (ch : Nat) (reqs : List MemReq)
  /-- CORRECTED_REWRITE (R412). A corrected burst is rewritten in class SCRUB. -/
  | correctedRewrite (ch : Nat)
  /-- PATROL_SCRUB_READ (R414). The patrol scrub reads the next burst when the channel is otherwise idle. -/
  | patrolScrubRead (ch : Nat) (bad : List Nat)
  /-- SCRUB_LATE (R414). SCRUB_HOURS elapse before the pass completes. -/
  | scrubLate (ch : Nat)
  /-- NEIGHBOUR_REFRESH (R416). A required neighbour refresh is issued ahead of every request. -/
  | neighbourRefresh (ch : Nat)
  /-- REFRESH_DUE (R417). A same-bank refresh falls due and is issued or postponed. -/
  | refreshDue (ch : Nat) (postpone : Bool)
  /-- MR4_READ (R417). Every 8 ms MR4 of every rank is read, refresh rate set and DEVICE_HOT raised. -/
  | mr4Read (ch : Nat) (codes : List Nat)
  /-- PARITY_ALERT (R418). ALERT_N signals a parity or write-CRC failure and commands are replayed or memory frozen. -/
  | parityAlert (ch : Nat) (sub : Nat) (writeCrc : Bool) (passed : Nat)
  /-- FEED_WINDOW_END (R430). A 10 µs FEED demand window closes and overload is counted. -/
  | feedWindowEnd (ch : Nat)
  /-- TRAINING_STEP_DONE (R421). A training step of at most 200 µs ends and the run proceeds, applies or falls back. -/
  | trainingStepDone (ch : Nat) (last : Bool) (best : Nat) (stored : Nat)
  /-- TRAINING_STEP_ABANDON (R489). A step that cannot finish in 200 µs is abandoned and restarted after panic ends. -/
  | trainingStepAbandon (ch : Nat)
  /-- RATE_CHANGE_START (R489). A pending frequency change begins once no feeder of the channel is in panic, at most 1 ms late. -/
  | rateChangeStart (ch : Nat)
  /-- RATE_CHANGE_DONE (R422). A channel finishes retraining at its new rate and leaves CHANGING. -/
  | rateChangeDone (ch : Nat) (eye : Nat)
  /-- THM_THRESHOLDS (R454). Sets zone thresholds, or ROUND_MS and THROTTLE_GRACE_MS. -/
  | thmThresholds (slot : Nat)
  /-- THM_ZONE_MAP (R455). Defines or removes a thermal zone. -/
  | thmZoneMap (slot : Nat)
  /-- THM_ACK (R456). RELEASE_SENSOR or CLEAR_STOP of a zone. -/
  | thmAck (slot : Nat)
  /-- LEVEL_CHANGE (R442). A threshold crossing is confirmed up after 2 rounds or down after DWELL rounds. -/
  | levelChange (zone : Nat) (threshold : Nat)
  /-- RATE_OVER (R443). A zone's rate of rise exceeds RATE_LIMIT in 2 rounds, or clears after DWELL rounds. -/
  | rateOver (zone : Nat)
  /-- THROTTLE_LEVEL_STEP (R444). A zone's throttle level rises or falls by one after its dwell. -/
  | throttleLevelStep (zone : Nat)
  /-- THROTTLE_GRACE_EXPIRY (R447). THROTTLE_GRACE_MS passes and a pending head-supply step is applied. -/
  | throttleGraceExpiry (bar : Nat)
  /-- SENSOR_STATE (R440). A sensor becomes failed, or valid after 16 good rounds. -/
  | sensorState (code : Nat)
  /-- ORDERLY_STOP_TARGET_HALT (R449). A target bar or group reaches its planned stop point and enters Halter; HALTER follows when all have. -/
  | orderlyStopTargetHalt (target : Nat)
  /-- TAN_CONFIG (R461). Makes the LZ9 a tandem member in PAIRING. -/
  | tanConfig (slot : Nat)
  /-- TAN_DRILL (R472). Announces a drill at frame F, or starts a takeover by command. -/
  | tanDrill (slot : Nat)
  /-- TAN_RELEASE (R475). LEAVE the tandem or RELEASE_CLAIMS of a holder. -/
  | tanRelease (slot : Nat)
  /-- HEARTBEAT_TIMER (R462). A tandem member sends HEARTBEAT every 100 µs. -/
  | heartbeatTimer
  /-- HEARTBEAT_RX (R465). A partner heartbeat arrives; pairing, MIRROR_OK and takeover request are evaluated. -/
  | heartbeatRx (bytes : List Byte)
  /-- TANDEM_ALIVE_EDGE (R460). An edge on TANDEM_ALIVE_IN resets its age counter. -/
  | tandemAliveEdge
  /-- TANDEM_ALIVE_TOGGLE (R460). TANDEM_ALIVE_OUT toggles every 100 µs while healthy. -/
  | tandemAliveToggle
  /-- CAL_MIRROR_RX (R463). A CAL_MIRROR message arrives and the standby commits the mirrored result. -/
  | calMirrorRx (number : Nat) (applied : FrameNo) (image : CalImage)
  /-- DRILL_RX (R472). A DRILL message announces frame F and the new claim to the standby. -/
  | drillRx (bytes : List Byte)
  /-- TAKEOVER_CHECK (R467). The 10 µs check starts a takeover on loss of partner or TAKEOVER_REQ. -/
  | takeoverCheck (far : List (Nat × Nat))
  /-- TAKEOVER_BANKS_WRITTEN (R468). Both banks of every head node are written and RUN or HALTER blocks are sent. -/
  | takeoverBanksWritten
  /-- DRILL_TIMEOUT (R474). A node does not report the new claim within 5 ms and the drill fails and is reversed. -/
  | drillTimeout (node : Nat)
  /-- LCS_CHALLENGE (R507). Draws a nonce and consumes an attempt. -/
  | lcsChallenge (slot : Nat)
  /-- LCS_RESPONSE (R508). Verifies a field-access response and on success performs the OPEN reset. -/
  | lcsResponse (slot : Nat)
  /-- LCS_OTP_WRITE (R510). Burns a customer record or commits the anti-rollback counter. -/
  | lcsOtpWrite (slot : Nat)
  /-- LCS_TRANSITION (R506). Burns a life-cycle bit and performs the LC_TRANSITION reset. -/
  | lcsTransition (slot : Nat)
  /-- NONCE_EXPIRY (R507). A nonce becomes invalid 60 s after LCS_CHALLENGE. -/
  | nonceExpiry
  /-- PUSH_CHUNK (R501). LCS.PUSH_CTRL with WORDS copies an image chunk from the aperture. -/
  | pushChunk (v : Word)
  /-- PUSH_FINAL_CHUNK (R501). LCS.PUSH_CTRL with LAST copies the final chunk and starts verification. -/
  | pushFinalChunk (v : Word)
  /-- PUSH_PROVISIONAL_RECORD (R502). LCS.PUSH_CTRL with PROV accepts or rejects a provisional customer record. -/
  | pushProvisionalRecord (v : Word)
  /-- PUSH_APERTURE_WRITE (R537). A write to the push aperture is stored while READY and otherwise discarded. -/
  | pushApertureWrite (off : Nat) (v : Word)
  /-- JTAG_BOUNDARY_SCAN (R512). A boundary-scan instruction executes, EXTEST and CLAMP only in RESET. -/
  | jtagBoundaryScan (instr : Nat)
  /-- JTAG_CORE_DEBUG (R513). CORE_DEBUG gives core access in open life-cycle states, else BYPASS. -/
  | jtagCoreDebug
  /-- JTAG_LCS_MAILBOX (R513). The mailbox carries a challenge or response sharing nonce and attempt count. -/
  | jtagLcsMailbox (resp : Option (List Byte))
  /-- BUS_MASTER_ENABLE_WRITE (R42). A PCIe configuration write of Bus Master Enable stops or lets through the LZ9's own requests, so that waiting completion records, event records and SYS_PULL transfers resume when it is set. -/
  | busMasterEnableWrite (on : Bool)
  /-- PCIE_LINK_UP (R494). The PCIe link finishes training after a reset or a link loss, so BAR and configuration accesses and the LZ9's own requests can flow again. -/
  | pcieLinkUp
  /-- FLR_WIPE_DONE (R44). The wipe of the exchange window after an FLR ends, at most 30 ms later, and BAR accesses are accepted again. -/
  | flrWipeDone
  /-- ANNOUNCE_RECEIPT_TIMEOUT (R383). No Announce arrives on a port for ANNOUNCE_TIMEOUT intervals, so BMCA changes the port state and may make this LZ9 grandmaster. -/
  | announceReceiptTimeout (port : Nat)
  /-- PTP_TRANSMIT_INTERVAL (R383). The interval given by LOG_SYNC, LOG_ANNOUNCE or LOG_DELAY_REQ elapses on a port, which then sends its Sync, Announce, Delay_Req or Pdelay_Req message, time-stamped under R385 and R386. -/
  | ptpTransmitInterval (port : Nat)
  /-- PCS_LINK_CHANGE (R405). An Ethernet port's PCS link goes up or down, PORT_STATE is raised and TIME.PORT_STAT.LINK_UP follows. -/
  | pcsLinkChange (port : Nat) (up : Bool)
  /-- REFRESH_WINDOW_END (R415). A 32 ms refresh window ends and every bank's activate table and FLOOR are cleared. -/
  | refreshWindowEnd (ch : Nat)
  /-- TANDEM_PARTNER_LOST (R467). A holder in ACTIVE finds that the partner's heartbeat and TANDEM_ALIVE_IN edges have been absent for HB_TIMEOUT_US, becomes ALONE and raises PAIR_STATE with cause partner lost. -/
  | tandemPartnerLost
  deriving DecidableEq, Repr

end Sys2Proof
end

