-- ==== Sys2Proof/Machine/Bits.lean ====
section
/-! DEFINITION. The comparison of frame numbers (R6), saturating counters, bit fields and two's complement. -/

namespace Sys2Proof

/-- R6: `f` is later than `g` when `(f - g)` modulo 2^32 lies from 1 to 2,147,483,647. -/
def FrameNo.later (f g : FrameNo) : Bool :=
  decide (1 ≤ (f - g).toNat ∧ (f - g).toNat ≤ 2147483647)

/-- R6: `f` is not earlier than `g`: the same value, or later. -/
def FrameNo.notBefore (f g : FrameNo) : Bool := decide (f = g) || FrameNo.later f g

/-- R6: the two values lie 2^31 apart, which the host must never name. -/
def FrameNo.tooFar (f g : FrameNo) : Bool := decide ((f - g).toNat = 2147483648)

/-- A counter that stops at its largest value. -/
def satAdd (top a n : Nat) : Nat := Nat.min top (a + n)

/-- The value of the low `w` bits of `n` read as signed two's complement. -/
def signed (w n : Nat) : Int :=
  let m := n % 2 ^ w
  if m < 2 ^ (w - 1) then Int.ofNat m else Int.ofNat m - Int.ofNat (2 ^ w)

/-- The low `w` bits of the two's complement of `i`, as a natural number. -/
def unsigned (w : Nat) (i : Int) : Nat := (i % Int.ofNat (2 ^ w)).toNat

/-- Bits `lo` to `lo + len - 1` of `n`. -/
def bitsAt (n lo len : Nat) : Nat := (n / 2 ^ lo) % 2 ^ len

/-- One bit of `n`. -/
def bitAt (n i : Nat) : Bool := (n / 2 ^ i) % 2 == 1

end Sys2Proof
end

