-- ==== Sys2Proof/Machine/Tab.lean ====
section
/-! DEFINITION. Sparse tables in one canonical form (keys strictly rising, no entry equal to the default), byte
memories as such tables with default 0, little-endian byte strings (R4), and the CRC-32 of R67. -/

namespace Sys2Proof.Machine

/-- A sparse table: an unlisted key holds the default value. -/
abbrev Tab (α : Type) := List (Nat × α)

/-- The value at a key, the default where the key is not listed. -/
def Tab.get {α : Type} (d : α) : Tab α → Nat → α
  | [], _ => d
  | (k', v') :: t, k => if k = k' then v' else Tab.get d t k

/-- Enter a value at a key of a table in rising order, in place of the one that stands there. -/
def Tab.enter {α : Type} : Tab α → Nat → α → Tab α
  | [], k, v => [(k, v)]
  | (k', v') :: t, k, v =>
    if k < k' then (k, v) :: (k', v') :: t else if k = k' then (k, v) :: t else (k', v') :: Tab.enter t k v

/-- Store a value at a key, keeping the canonical form: the default value is stored by dropping the key. -/
def Tab.put {α : Type} [DecidableEq α] (d : α) : Tab α → Nat → α → Tab α
  | [], k, v => if v = d then [] else [(k, v)]
  | e :: t, k, v => if v = d then (e :: t).filter fun x => decide (x.1 ≠ k) else Tab.enter (e :: t) k v

/-- Apply a function to the value at a key. -/
def Tab.upd {α : Type} [DecidableEq α] (d : α) (m : Tab α) (k : Nat) (f : α → α) : Tab α :=
  Tab.put d m k (f (Tab.get d m k))

/-- Apply a function to every listed value, dropping results equal to the default. -/
def Tab.mapv {α : Type} [DecidableEq α] (d : α) (f : Nat → α → α) : Tab α → Tab α
  | [] => []
  | e :: t =>
    let u := (Tab.mapv d f t).filter fun x => decide (x.1 ≠ e.1)
    if f e.1 e.2 = d then u else (e.1, f e.1 e.2) :: u

/-- The canonical form: keys strictly rising, no entry equal to the default. -/
abbrev Tab.wf {α : Type} [DecidableEq α] (d : α) (m : Tab α) : Prop :=
  m.Pairwise (fun a b => a.1 < b.1) ∧ ∀ e ∈ m, e.2 ≠ d

/-- A byte memory: device DRAM, or the bytes the LZ9 has written to host memory. -/
abbrev Memory := Tab Byte

/-- R495: memory is wiped to zero before it can be read, so an unlisted address reads 0. -/
abbrev Memory.unlisted : Byte := 0

/-- The canonical form of a byte memory. -/
abbrev Memory.wf (m : Memory) : Prop := Tab.wf Memory.unlisted m

/-- One byte. -/
def Memory.byte (m : Memory) (a : Nat) : Byte := Tab.get Memory.unlisted m a

/-- Store one byte. -/
def Memory.setByte (m : Memory) (a : Nat) (b : Byte) : Memory := Tab.put Memory.unlisted m a b

/-- `n` bytes from address `a` upward. -/
def Memory.bytes (m : Memory) (a : Nat) : Nat → List Byte
  | 0 => []
  | n + 1 => m.byte a :: Memory.bytes m (a + 1) n

/-- Store a byte string from address `a` upward. -/
def Memory.setBytes (m : Memory) (a : Nat) : List Byte → Memory
  | [] => m
  | b :: bs => (m.setByte a b).setBytes (a + 1) bs

/-- Write zero to the `n` bytes from `a` upward: the listed entries there are removed. -/
def Memory.wipe (m : Memory) (a n : Nat) : Memory := m.filter fun e => !(decide (a ≤ e.1) && decide (e.1 < a + n))

/-- R4: the `n` low bytes of `v`, least significant first. -/
def le : Nat → Nat → List Byte
  | 0, _ => []
  | n + 1, v => BitVec.ofNat 8 v :: le n (v / 256)

/-- The `n` low bytes of `v`, most significant first. -/
def be (n v : Nat) : List Byte := (le n v).reverse

/-- R4: the value of a little-endian byte string. -/
def ofLe : List Byte → Nat
  | [] => 0
  | b :: bs => b.toNat + 256 * ofLe bs

/-- The value of a big-endian byte string. -/
def ofBe (bs : List Byte) : Nat := ofLe bs.reverse

/-- A little-endian unsigned number in memory. -/
def Memory.num (m : Memory) (a n : Nat) : Nat := ofLe (m.bytes a n)

/-- One shift of a reflected CRC register with polynomial `poly`. -/
def crcBitR (poly c : Nat) : Nat := if c % 2 = 1 then Nat.xor (c / 2) poly else c / 2

/-- Eight shifts. -/
def crcByteR (poly c : Nat) (b : Byte) : Nat :=
  let s := crcBitR poly
  s (s (s (s (s (s (s (s (Nat.xor c b.toNat))))))))

/-- CRC-32 (IEEE 802.3 polynomial), as R67 and R504 use it. -/
def crc32 (bs : List Byte) : Nat := Nat.xor (bs.foldl (crcByteR 0xEDB88320) 0xFFFFFFFF) 0xFFFFFFFF

/-- One shift of an unreflected 8-bit CRC register. -/
def crcBit8 (poly c : Nat) : Nat := if c ≥ 128 then Nat.xor (c * 2 % 256) poly else c * 2 % 256

/-- Eight shifts of an unreflected 8-bit CRC register after one byte. -/
def crcByte8 (poly c : Nat) (b : Byte) : Nat :=
  let s := crcBit8 poly
  s (s (s (s (s (s (s (s (Nat.xor c b.toNat))))))))

/-- Every natural number below `n` in rising order. -/
def upTo (n : Nat) : List Nat := List.range n

/-- The byte at index `i` of a byte string, 0 past its end. -/
def byteAt (bs : List Byte) (i : Nat) : Nat := (bs.getD i 0).toNat

/-- A little-endian number of `n` bytes at index `i` of a byte string. -/
def numAt (bs : List Byte) (i n : Nat) : Nat := ofLe ((bs.drop i).take n)

end Sys2Proof.Machine
end

