-- ==== Sys2Proof/Machine/BlockAxis.lean ====
section
/-! DEFINITION. State of the motion engine (R351 to R381). -/

namespace Sys2Proof.Machine

/-- R360: a part of a profile: `jerk` in 2^-16 AU/s³ for `ns` nanoseconds. -/
structure Seg where
  jerk : Int := 0
  ns : Nat := 0
  deriving DecidableEq, Repr

/-- R360, R361: a leg: its segments, at whose end the axis rests at `stop` (2^-16 AU). -/
structure Leg where
  segs : List Seg := []
  stop : Int := 0
  deriving DecidableEq, Repr

/-- The commanded state of a path: position in 2^-16 AU × 6·10^27, velocity in 2^-16 AU/s × 2·10^18, acceleration in
2^-16 AU/s² × 10^9, so that every value at a whole nanosecond is exact. -/
structure Motn where
  x : Int := 0
  v : Int := 0
  a : Int := 0
  deriving DecidableEq, Repr

/-- R377: AXIS_CONFIG action AXIS. -/
structure AxisCfg where
  given : Bool := false
  bus : Bool := false
  index : Nat := 0
  feedback : Nat := 0
  fbCh : Nat := 0
  invert : Bool := false
  enLow : Bool := false
  stallDisable : Bool := false
  feCount : Nat := 4
  outNum : Nat := 1
  outDen : Nat := 1
  fbNum : Nat := 1
  fbDen : Nat := 1
  vmax : Nat := 1
  amax : Nat := 1
  dmax : Nat := 1
  jerk : Nat := 1
  qstop : Nat := 1
  feWindow : Nat := 0
  softMin : Int := 0
  softMax : Int := 0
  stepWidth : Nat := 100
  dirSetup : Nat := 200
  deriving DecidableEq, Repr

/-- R364, R377: one switch input: pin 0xFF none, the accepted active state, the consecutive samples at the other level so far
and the axis position at the first of them, when it was last sampled, the times of accepted changes of the last CHATTER_MS, and the
latest LIMIT_CHANGE. -/
structure SwitchIn where
  pin : Nat := 0xFF
  low : Bool := false
  active : Bool := false
  run : Nat := 0
  firstPos : Int := 0
  sampledAt : Option Nat := none
  changes : List Nat := []
  evtAt : Option Nat := none
  deriving DecidableEq, Repr

/-- R371: axis faults. -/
inductive AxFault where
  | none | stall | limitChatter | homingLimit | driveSilent | driveFault
  deriving DecidableEq, Repr

/-- Code of an axis fault (R371). -/
def AxFault.code : AxFault → Nat
  | .none => 0 | .stall => 1 | .limitChatter => 2 | .homingLimit => 3 | .driveSilent => 4 | .driveFault => 5

/-- R368, R369: phases of a homing. -/
inductive HomePhase where
  | none | search | searchStop | limStop | reverse | latch | index | finish | lost
  deriving DecidableEq, Repr

/-- R379: a homing under way, from `origin`. -/
structure Homing where
  phase : HomePhase := .none
  method : Nat := 0
  neg : Bool := false
  homePos : Int := 0
  searchV : Nat := 0
  latchV : Nat := 0
  travel : Nat := 0
  origin : Int := 0
  deriving DecidableEq, Repr

/-- What an axis is doing (R381). -/
inductive AxMode where
  | rest | move | group | home | stopping
  deriving DecidableEq, Repr

/-- One axis. `cmd` is the commanded state for the next trigger, `prev` that of the latest trigger (2^-16 AU). `slot` and
`id` name the command that moves it, `cal` that a calibration run does; `held` that one holds it (R375). `off` is what homings have added to every position, `group` the running group
move (7: none). `stepAt` is where a step output stands, in steps, `dirNeg` its direction and `dirAt` when that changed, `stepRise` when its
latest pulse began (R354). -/
structure Axis where
  cfg : AxisCfg := {}
  enabled : Bool := false
  lp : SwitchIn := {}
  ln : SwitchIn := {}
  hm : SwitchIn := {}
  revSearch : Bool := false
  filterUs : Nat := 10
  chatterCount : Nat := 8
  chatterMs : Nat := 100
  homed : Bool := false
  mode : AxMode := .rest
  fault : AxFault := .none
  cmd : Motn := {}
  prev : Int := 0
  legs : List Leg := []
  actual : Int := 0
  fe : Int := 0
  target : Int := 0
  feRun : Nat := 0
  feHold : Nat := 0
  busMiss : Nat := 0
  missRun : Nat := 0
  replied : Bool := true
  slot : Nat := 0
  id : Nat := 0
  cal : Bool := false
  held : Bool := false
  flags : Nat := 0
  homing : Homing := {}
  clearFault : Bool := false
  off : Int := 0
  group : Nat := 7
  stepAt : Int := 0
  dirNeg : Bool := false
  dirAt : Nat := 0
  stepRise : Option Nat := none
  deriving DecidableEq, Repr

/-- R363: a running group move: the path parameter σ in units of 2^-48, start and distance of each axis (2^-16 AU). -/
structure GroupMove where
  axes : List (Nat × Int × Int) := []
  path : Motn := {}
  legs : List Leg := []
  slot : Nat := 0
  id : Nat := 0
  cal : Bool := false
  deriving DecidableEq, Repr

/-- The AXIS block. `lastTrig` is the device time of the latest servo trigger; `stops` are AXIS_STOP commands that wait,
as slot, id and axes; `calLost` that a calibration run has lost its axis (R375). -/
structure Motion where
  trigger : Option Nat := none
  periodUs : Nat := 0
  running : Bool := false
  periodNo : Nat := 0
  lastTrig : Nat := 0
  axes : Tab Axis := []
  groups : Tab (List Nat) := []
  moves : Tab GroupMove := []
  crcErr : Tab Nat := []
  stops : List (Nat × Nat × List Nat) := []
  calLost : Bool := false
  deriving DecidableEq, Repr

end Sys2Proof.Machine
end

