-- ==== Sys2Proof/Machine/BlockCam.lean ====
section
/-! DEFINITION. State of the inspection camera pipeline (R300 to R322). -/

namespace Sys2Proof.Machine

/-- R301: a CSI-2 port; `hsAt` is when high-speed data last arrived. -/
structure CamPort where
  lanes : Nat := 0
  laneMap : Nat := 0
  polarity : Nat := 0
  i2cSpeed : Nat := 0
  mbps : Nat := 0
  hsAt : Option Nat := none
  deskew : Bool := false
  typeDrop : Nat := 0
  deriving DecidableEq, Repr

/-- R309: one I2C write of a settings script. -/
structure ScriptEntry where
  reg : Nat := 0
  regBytes : Nat := 1
  data : Nat := 0
  dataBytes : Nat := 1
  deriving DecidableEq, Repr

/-- R306, R308: the ISP tables of a context. `grid` holds the gains that differ from 4,096, at 289 ph + 17 j + i. -/
structure Isp where
  bl : List Nat := [0, 0, 0, 0]
  blScale : List Nat := [4096, 4096, 4096, 4096]
  dpcThresh : Nat := 0
  dpcMode : Nat := 0
  matrix : List Int := [4096, 0, 0, 0, 4096, 0, 0, 0, 4096]
  off : List Int := [0, 0, 0]
  grid : Tab Nat := []
  defects : List (Nat × Nat) := []
  sat : Nat := 65535
  deriving DecidableEq, Repr

/-- R308: the ISP parts that a settings image changes, none where a part keeps the value in force. -/
structure IspParts where
  black : Option (List Nat × List Nat) := none
  dpc : Option (Nat × Nat) := none
  matrix : Option (List Int × List Int) := none
  shading : Option (Tab Nat) := none
  defects : Option (List (Nat × Nat)) := none
  sat : Option Nat := none
  deriving DecidableEq, Repr

/-- R311, R312: a settings state of a stream on its way. `n0` is N before any slip, `tFs` the device time of FS N while
the write waits for the bus, `pre` a state that was pending when its stream started; `cmd` the latest CAM_SETTINGS. -/
structure CamState where
  id : Nat := 0
  cmd : Nat := 0
  parts : Tab IspParts := []
  script : List ScriptEntry := []
  n0 : Option FrameNo := none
  slips : Nat := 0
  tFs : Option Nat := none
  pre : Bool := false
  deriving DecidableEq, Repr

/-- A settings state that has been written and comes into force at frame `first`; frames from `slipFrom` to there carry
SLIPPED. -/
structure CamDue where
  id : Nat := 0
  parts : Tab IspParts := []
  slipFrom : FrameNo := 0
  first : FrameNo := 0
  deriving DecidableEq, Repr

/-- R302: an exposure entry: band (0x0F none), firing time, HWM, whether Halter suppressed the strobe, and the light-field frame with
the latest frame tick (R319). -/
structure Exposure where
  band : Nat := 0x0F
  time : Nat := 0
  hwm : Int := 0
  suppressed : Bool := false
  frame : Option FrameNo := none
  deriving DecidableEq, Repr

/-- R316: an output binding of a context: `last` is the index of the handle used last, none before the first. -/
structure CamOut where
  handles : List Nat := []
  format : Nat := 0
  scale : Nat := 0
  x : Nat := 0
  y : Nat := 0
  w : Nat := 0
  h : Nat := 0
  last : Option Nat := none
  deriving DecidableEq, Repr

/-- A camera frame in progress (R303, R304, R319): what its FS fixed, and its lines so far as samples. `ctx` is none for a
frame that no context takes; `lfFrame` the light-field frame at T_REF; `taken` the handle that each output writes, with its buffer's
base and size. -/
structure CamFrame where
  seq : FrameNo := 0
  ctx : Option Nat := none
  band : Nat := 0x0F
  tSof : Nat := 0
  tRef : Nat := 0
  hwm : Int := 0
  unpaired : Bool := false
  lfFrame : Option FrameNo := none
  taken : Tab (Option (Nat × Nat × Nat)) := []
  suppressed : Bool := false
  slipped : Bool := false
  overrate : Bool := false
  corrupt : Bool := false
  abandoned : Bool := false
  id : Nat := 0
  isp : Isp := {}
  outs : Tab CamOut := []
  rects : List (Nat × Nat × Nat × Nat) := []
  lines : List (List Nat) := []
  lastLine : Option Nat := none
  ecc : Nat := 0
  crc : Nat := 0
  deriving DecidableEq, Repr

/-- R301 to R304: a stream. `camSeq` is that of the latest FS, `seen` whether there was one. -/
structure CamStream where
  set : Bool := false
  port : Nat := 0
  vc : Nat := 0
  i2cAddr : Nat := 0
  latency : Nat := 1
  trigger : Nat := 0xFF
  strobeCount : Nat := 0
  strobeSeq : Nat := 0
  format : Nat := 0x2A
  windowUs : Nat := 50
  sofMaxUs : Nat := 1
  width : Nat := 16
  height : Nat := 8
  viewOffset : Int := 0
  viewLines : Nat := 1
  maxLineRate : Nat := 1
  cfa : Nat := 0
  strobeDelay : Nat := 0
  strobeWidthUs : Nat := 1
  camSeq : FrameNo := 0
  seen : Bool := false
  seqPos : Nat := 0
  entries : List Exposure := []
  pending : Option CamState := none
  writing : Option CamState := none
  due : List CamDue := []
  id : Nat := 0
  overrate : Nat := 0
  orphan : Nat := 0
  unpaired : Nat := 0
  frame : Option CamFrame := none
  deriving DecidableEq, Repr

/-- R301: states of a context. -/
inductive CtxState where
  | unconfigured | configured | started
  deriving DecidableEq, Repr

/-- Code of a context's state (R322). -/
def CtxState.code : CtxState → Nat
  | .unconfigured => 0 | .configured => 1 | .started => 2

/-- A context (R301, R316, R321). `outs` and `rects` are the bindings in force, `staged` and `stagedRects` those that the
next FS takes; `halted` marks a context that CAM_STOP or FAULT has stopped (R315); `dropped` counts since the latest delivered frame, `evtDrops` since the latest FRAME_DROPPED. -/
structure CamCtx where
  state : CtxState := .unconfigured
  stream : Nat := 0
  band : Nat := 0
  priority : Nat := 0
  dropCorrupt : Bool := false
  halted : Bool := false
  isp : Isp := {}
  outs : Tab CamOut := []
  staged : Tab CamOut := []
  rects : List (Nat × Nat × Nat × Nat) := []
  stagedRects : List (Nat × Nat × Nat × Nat) := []
  calRects : Bool := false
  dropped : Nat := 0
  dropEvt : Option Nat := none
  evtDrops : Nat := 0
  eccCorr : Nat := 0
  crcErr : Nat := 0
  arbDrop : Nat := 0
  corruptDrop : Nat := 0
  outLost : Nat := 0
  corruptSent : Nat := 0
  lastId : Nat := 0
  lastSeq : FrameNo := 0
  deriving DecidableEq, Repr

/-- A strobe output (R302): its pulses that have not ended, each with the times at which it drives the output high and no longer. -/
structure Strobe where
  pulses : List (Nat × Nat) := []
  deriving DecidableEq, Repr

/-- The CAM block. `waiting` holds the lines in the input stores as context, stream, arrival and cost; `freeAt` is when
the pipeline has finished the line it took; `busy` its busy spans of the last 100 ms; `noCtx` is the FRAME_DROPPED count
of frames without a context, with its limiter. -/
structure Cam where
  ports : Tab CamPort := []
  streams : Tab CamStream := []
  ctxs : Tab CamCtx := []
  strobes : Tab Strobe := []
  waiting : List (Nat × Nat × Nat × Nat) := []
  freeAt : Nat := 0
  busy : List (Nat × Nat) := []
  noCtx : Nat := 0
  noCtxEvt : Option Nat := none
  deriving DecidableEq, Repr

end Sys2Proof.Machine
end

