-- ==== Sys2Proof/Machine/BlockCal.lean ====
section
/-! DEFINITION. State of the calibration engine (R323 to R350). -/

namespace Sys2Proof.Machine

/-- R323: the kinds of calibration. -/
inductive CalKind where
  | colour | health | registration | lfRay | lfPhoto | ddr | serdes
  deriving DecidableEq, Repr

/-- Code of a kind (R323). -/
def CalKind.code : CalKind → Nat
  | .colour => 1 | .health => 2 | .registration => 3 | .lfRay => 4 | .lfPhoto => 5 | .ddr => 6 | .serdes => 7

/-- R323: the kind of a register slot. -/
def CalKind.ofSlot (s : Nat) : CalKind :=
  if s = 0 then .colour else if s = 1 then .health else if s = 2 then .registration else if s = 3 then .lfRay
  else if s = 4 then .lfPhoto else if s < 9 then .ddr else .serdes

/-- R325: run states; PENDING is `pend` of an instance. -/
inductive RunState where
  | idle | acquiring | computing | committing
  deriving DecidableEq, Repr

/-- Code of a run state (R350). -/
def RunState.code : RunState → Nat
  | .idle => 0 | .acquiring => 2 | .computing => 3 | .committing => 4

/-- R346: a policy. -/
structure CalPolicy where
  enable : Bool := false
  periodic : Bool := false
  temperature : Bool := false
  period : Nat := 0
  dt : Nat := 0
  sensor : Nat := 0
  timeoutMs : Nat := 0
  qualLimit : Nat := 0
  staleLimit : Nat := 0
  chMask : Nat := 0
  gain : Nat := 0
  slewRate : Nat := 0
  maxStep : Nat := 0
  barMask : Nat := 0
  deriving DecidableEq, Repr

/-- R345: a target record: its 16 bytes as a number. -/
abbrev CalRec := BitVec 128

/-- R345: a target image as loaded: the header and the records. -/
structure CalTargets where
  head : BitVec 512 := 0
  recs : List CalRec := []
  deriving DecidableEq, Repr

/-- R330, R331: a capture: its copy, its frame, the stream's geometry, the lines and the output frame in view. -/
structure CalShot where
  copy : Nat := 0
  frame : CamFrame := {}
  width : Nat := 0
  height : Nat := 0
  cfa : Nat := 0
  bits : Nat := 8
  viewLines : Nat := 1
  first : Int := 0
  last : Int := 0
  out : FrameNo := 0
  ok : Bool := false
  deriving DecidableEq, Repr

/-- R339: where a light-field run stands. -/
inductive LfStage where
  | none | moving | settling | showing
  deriving DecidableEq, Repr

/-- One instance (R323 to R350). `policy` is none while the Init policy stands, `run` is the policy of the current run; `trig` the trigger of the run and `pend` of the
pending one (1 COMMAND, 2 PERIODIC, 3 TEMPERATURE); `waiters` and `pendWaiters` are the CAL_RUN commands that wait, as slot
and id. `staleCount` are the frames since the latest success, `staleCause` why it is stale, `clearAt` the applied frame
that ends it. `ladder` is a run's health frame, `shot` the next exposure as frame and copy. `startRef` is the time of entry
into ACQUIRING, `goodQuality` the quality of the latest success. A light-field run is at POSITION record `pos`, pattern
`pattern`, of which `shown` frames have been shown; `wanted` are frames whose capture it still needs. -/
structure CalInst where
  state : RunState := .idle
  pend : Option Nat := none
  policy : Option CalPolicy := none
  run : CalPolicy := {}
  targets : Option CalTargets := none
  trig : Nat := 0
  waiters : List (Nat × Nat) := []
  pendWaiters : List (Nat × Nat) := []
  startRef : Nat := 0
  lastStart : Nat := 0
  startTemp : Option Int := none
  settingsId : Nat := 0
  stale : Bool := false
  staleCount : Nat := 0
  staleCause : Nat := 0
  clearAt : Option FrameNo := none
  outOfLimit : Bool := false
  lastStatus : Nat := 0
  lastDetail : Nat := 0
  quality : Nat := 0
  goodQuality : Nat := 0xFFFF
  tGood : Option Int := none
  count : Nat := 0
  coalesced : Nat := 0
  used : Nat := 0
  rejected : Nat := 0
  runUsed : Nat := 0
  runRejected : Nat := 0
  gen : FrameNo := 0
  frame : FrameNo := 0
  holds : Bool := false
  ladder : Option FrameNo := none
  shot : Option (FrameNo × Nat) := none
  shots : List CalShot := []
  result : CalImage := {}
  stage : LfStage := .none
  pos : Nat := 0
  pattern : Nat := 0
  shown : Nat := 0
  settleAt : Nat := 0
  wanted : List FrameNo := []
  firstPattern : Option FrameNo := none
  lastPattern : FrameNo := 0
  deriving DecidableEq, Repr

/-- The CAL block. `insts` by register slot; `fails` the fail counts by node × 32,768 + nozzle (R336); `heldMap` and
`heldTable` that a frame in CUT is marked under R253 for its ray map or its emitter table; `clears` the CLEAR_LIST commands
that wait for their commit, as slot, id and bars; `lfRun` that a light-field run is executing (R252, R343). -/
structure Calib where
  lfRun : Bool := false
  insts : Tab CalInst := []
  resid : Tab (Nat × Nat) := []
  barErr : Tab (Int × Int) := []
  fails : Tab Nat := []
  heldMap : Bool := false
  heldTable : Bool := false
  clears : List (Nat × Nat × Nat) := []
  deriving DecidableEq, Repr

end Sys2Proof.Machine
end

