-- ==== Sys2Proof/Machine/BlockPrint.lean ====
section
/-! DEFINITION. The print configuration: PRN, FIRE and CAL shadow sets (R109, R133 to R199). -/

namespace Sys2Proof.Machine

/-- R121: readiness policies. -/
inductive Policy where
  | modeDefault | holdPrevious | dropLayer | skipFrame
  deriving DecidableEq, Repr

/-- A policy from its code. -/
def Policy.ofCode : Nat → Policy
  | 1 => .holdPrevious | 2 => .dropLayer | 3 => .skipFrame | _ => .modeDefault

/-- R145: one print layer. `vtaps` is the vertical tap count in use after R126, 0 for the filter's own. -/
structure Layer where
  bound : Bool := false
  z : Nat := 0
  overlay : Bool := false
  policy : Policy := .modeDefault
  allowReduce : Bool := false
  repeatX : Bool := false
  repeatY : Bool := false
  handle : Nat := 0
  scaleX : Nat := 1
  scaleY : Nat := 1
  filter : Nat := 0
  covChannel : Nat := 0
  xOrigin : Int := 0
  yOrigin : Int := 0
  coverage : Nat := 0
  chMap : Nat := 0
  vtaps : Nat := 0
  deriving DecidableEq, Repr

/-- A loaded table, array, pattern or tile: the number of the load, and its entries. Load 0 is IDENTITY or DEFAULT and
takes no slot of the pool (R159). -/
structure Loaded where
  id : Nat := 0
  data : List Nat := []
  deriving DecidableEq, Repr

/-- R158: screen parameters with their Init values. -/
structure Screen where
  phaseX : Nat := 0
  phaseY : Nat := 0
  stepX : Nat := 0
  stepY : Nat := 0
  gain : Nat := 256
  reach : Nat := 2
  deriving DecidableEq, Repr

/-- R165: a node entry of a bar map. -/
structure MapNode where
  node : Nat := 0
  reversed : Bool := false
  supply : Nat := 0
  supplyIndex : Nat := 0
  first : Nat := 0
  count : Nat := 0
  frac : Nat := 0
  pattern : Nat := 0
  lowRamp : Nat := 0
  highRamp : Nat := 0
  deriving DecidableEq, Repr

/-- R165: a column segment. -/
structure MapSeg where
  first : Nat := 0
  count : Nat := 0
  col : Int := 0
  falling : Bool := false
  deriving DecidableEq, Repr

/-- R165: a bar map; no node entry means no map is loaded. -/
structure BarMap where
  nodes : List MapNode := []
  segs : List MapSeg := []
  positions : Nat := 0
  columns : Nat := 0
  deriving DecidableEq, Repr

/-- R197: FIRE_TIMING with its Init values. -/
structure Timing where
  groups : Nat := 16
  stride : Nat := 1
  kwOn : Bool := true
  preBase : Nat := 100
  preStep : Nat := 10
  preGap : Nat := 100
  mainLow : Nat := 700
  mainNom : Nat := 800
  mainHigh : Nat := 900
  slotGuard : Nat := 50
  whipStep : Nat := 0
  seqGuard : Nat := 200
  colBDelay : Nat := 0
  kwIdleUs : Nat := 1000
  kwRate : Nat := 1000
  deriving DecidableEq, Repr

/-- R190: spit window with its Init values. -/
structure Spit where
  lines : Nat := 0
  idleLines : Nat := 100000
  dot : Nat := 1
  deriving DecidableEq, Repr

/-- R173: the record every nozzle starts with: class 0, trim 8, AUTO. -/
def nozzleDefault : Nat := 8 * 64

/-- One print configuration: everything a generation holds. Nozzle records and the missing list are keyed by
node ID × 32,768 + nozzle. -/
structure PrintCfg where
  layers : Tab Layer := []
  pre : Tab Loaded := []
  post : Tab Loaded := []
  comp : Tab Loaded := []
  arrays : Tab Loaded := []
  screens : Tab Screen := []
  maps : Tab BarMap := []
  patterns : Tab Loaded := []
  stitch : Tab Loaded := []
  nozzles : Tab Nat := []
  timing : Tab Timing := []
  spit : Tab Spit := []
  missing : Tab Bool := []
  shift : Tab Int := []
  deriving DecidableEq, Repr

/-- R163: why a job closed. -/
inductive CloseReason where
  | close | frameCount | abort | flr
  deriving DecidableEq, Repr

/-- Code of a close reason (R163). -/
def CloseReason.code : CloseReason → Nat
  | .close => 0 | .frameCount => 1 | .abort => 2 | .flr => 3

/-- The print job (R133 to R138, R164). -/
structure Job where
  isOpen : Bool := false
  closing : Bool := false
  lastFrame : FrameNo := 0
  reason : CloseReason := .close
  jobId : Nat := 0
  firstFrame : FrameNo := 0
  nFirst : Int := 0
  frameLines : Nat := 0
  stripK : Nat := 16
  bars : Nat := 0
  marginUs : Nat := 0
  barChannel : Nat := 0
  delivered : Option FrameNo := none
  deriving DecidableEq, Repr

/-- The PRN block's counters and registers (R164). `colourHeld` is the mask of channels whose post-blend table COLOUR
holds (R152, R334). -/
structure Prn where
  job : Job := {}
  nextLoad : Nat := 1
  slackLog : List (Nat × Int) := []
  decodeErr : Nat := 0
  spreadLost : Nat := 0
  bandqSlots : Nat := 0
  bandqUnits : Nat := 0
  barLate : Tab Nat := []
  marginEvt : Tab Nat := []
  decodeSeen : List (Nat × Nat × Nat) := []
  colourHeld : Nat := 0
  busyLog : List (Nat × Nat) := []
  deriving DecidableEq, Repr

/-- R446: a bank switch of a bar under a head-supply step: its number, the latest frame cut when the step was applied, and
the bank that each node switches to. -/
structure HeadSwitch where
  no : Nat := 0
  frame : FrameNo := 0
  banks : List (Nat × Nat) := []
  deriving DecidableEq, Repr

/-- FIRE state of one bar (R182, R192, R193, R199). `purgeAborted` holds the pulses fired by a purge that Halter ended. `oldTerms` are the period terms of earlier frames, each with the frame's last line and the longest firing delay and sequence time of the
bar's nodes there. `switches` are the bank switches of head-supply steps not yet complete (R446), `downHold` an earlier term
that stands until the last line fed with the old bank, once that is known, has ticked. `ticks` are the bar's latest ticks, each with its
line, the corrected time t_eff of R186 and its period. `halted`: an orderly stop holds the bar
in Halter; `resumeFrom` is the first frame printed after a Halter (R450). -/
structure FireBar where
  purging : Bool := false
  purgeCount : Nat := 0
  purgeRate : Nat := 0
  purgeStart : Nat := 0
  purgeAborted : Option Nat := none
  missing : Nat := 0
  dead : Nat := 0
  shift : Int := 0
  sel : Nat := 0
  selFrame : Option FrameNo := none
  selCount : Nat := 0
  selNode : Nat := 0
  oldTerms : List (Int × (Nat × Nat) × Nat) := []
  headNo : Nat := 0
  switches : List HeadSwitch := []
  downHold : Option (Nat × Option Int) := none
  ticks : List (Int × Int × Nat) := []
  halted : Bool := false
  resumeFrom : Option FrameNo := none
  deriving DecidableEq, Repr

/-- One line of one bar in a feeder's FIFO (R178): its payloads by node and selection bank. `need` are the 256-byte blocks of the
band's slot that it still waits for, with the time from which each may be read (R428): the line is whole without any. -/
structure FifoLine where
  bar : Nat := 0
  line : Int := 0
  frame : FrameNo := 0
  band : Nat := 0
  need : List (Nat × Nat) := []
  lastLine : Bool := false
  spit : Option Nat := none
  poisoned : Bool := false
  payloads : List (Nat × Nat × List Byte) := []
  deriving DecidableEq, Repr

/-- A feeder (R178, R179, R199). -/
structure Feeder where
  fifo : List FifoLine := []
  underrun : Nat := 0
  pendingUnder : Nat := 0
  underEvt : Option Nat := none
  deriving DecidableEq, Repr

/-- R175, R225: the content of a selection bank, by its registers. -/
structure BankContent where
  timing : List Byte := []
  pattern : List Byte := []
  nozzles : List Byte := []
  deriving DecidableEq, Repr

/-- R176, R446: a bank write on its way: the frame that first uses it, none for the write of a head-supply step's switch
`head`, the frame whose last line must have fired, with the delay and sequence time it fires with, and the TAGs not yet
acknowledged once it has started. -/
structure BankWrite where
  bank : Nat := 0
  frame : Option FrameNo := none
  head : Nat := 0
  content : BankContent := {}
  after : Option FrameNo := none
  span : Nat × Nat := (0, 0)
  started : Bool := false
  left : List Nat := []
  deriving DecidableEq, Repr

/-- R176: the LZ9's view of one node's banks: the bank of the latest frame cut, the content meant for both, the frame that
last used each, and the writes on their way, oldest first. -/
structure NodeBanks where
  cur : Nat := 1
  bank0 : BankContent := {}
  bank1 : BankContent := {}
  used0 : Option FrameNo := none
  used1 : Option FrameNo := none
  writes : List BankWrite := []
  deriving DecidableEq, Repr

/-- The FIRE block. -/
structure Fire where
  bars : Tab FireBar := []
  feeders : Tab Feeder := []
  banks : Tab NodeBanks := []
  deriving DecidableEq, Repr

end Sys2Proof.Machine
end

