-- ==== Sys2Proof/Machine/BlockLf.lean ====
section
/-! DEFINITION. The light-field configuration (LFR, SCAN and CAL sets) and the scan (R238 to R299). -/

namespace Sys2Proof.Machine

/-- R243: one plane; 0 to 63 depth planes, 64 to 67 overlay planes. `vtaps` is the vertical tap count in use after
R126, 0 for the filter's own. -/
structure Plane where
  bound : Bool := false
  policy : Nat := 0
  allowReduce : Bool := false
  handle : Nat := 0
  width : Nat := 4
  height : Nat := 4
  cubic : Bool := false
  order : Nat := 0
  depth : Int := 0
  a00 : Int := 0
  a01 : Int := 0
  a10 : Int := 0
  a11 : Int := 0
  a02 : Int := 0
  a12 : Int := 0
  vtaps : Nat := 0
  deriving DecidableEq, Repr

/-- R246: a region entry of a ray map. -/
structure Region where
  x0 : Int := 0
  y0 : Int := 0
  pLx : Nat := 1
  pLy : Nat := 0
  slant : Int := 0
  dx0 : Int := 0
  dy0 : Int := 0
  kx : Int := 0
  ky : Int := 0
  resX : Nat := 8
  resY : Nat := 8
  deriving DecidableEq, Repr

/-- R246, R247: a ray map: its load number (0: none), buffer binding, header and region table. -/
structure RayMap where
  load : Nat := 0
  handle : Nat := 0
  offset : Nat := 0
  subpix : Nat := 1
  cols : Nat := 0
  rows : Nat := 0
  colBase : Int := 0
  recordOff : Nat := 0
  pos : List (Int × Int) := []
  regions : List Region := []
  deriving DecidableEq, Repr

/-- R249: a gain and offset table: its load number, its buffer binding and the emitters it covers. `table` is false
for UNITY. -/
structure GainTable where
  load : Nat := 0
  table : Bool := false
  handle : Nat := 0
  offset : Nat := 0
  count : Nat := 0
  deriving DecidableEq, Repr

/-- One light-field configuration: everything a generation holds. `residuals` are in force while `resCal` is set, `gains`
while `gainCal` is (R251); both are keyed by emitter. -/
structure LfCfg where
  planes : Tab Plane := []
  bgR : Nat := 0
  bgG : Nat := 0
  bgB : Nat := 0
  temporal : Bool := true
  marginUs : Nat := 0
  map : RayMap := {}
  gain : GainTable := {}
  lin : Tab Loaded := []
  gamma : Tab Loaded := []
  resCal : Bool := false
  residuals : Tab (Int × Int) := []
  gainCal : Bool := false
  gains : Tab (Nat × Int) := []
  offsetA : Nat := 0
  offsetB : Nat := 0
  refreshDiv : Nat := 1
  staticFrames : Nat := 8
  deriving DecidableEq, Repr

/-- The bound planes, with their buffers and policy codes. -/
def LfCfg.handles (c : LfCfg) : List (Nat × Nat × Nat) :=
  (List.range 68).filterMap fun n =>
    let p := Tab.get {} c.planes n
    if p.bound then some (n, p.handle, p.policy) else none

/-- Emitters of a ray map (R246). -/
def RayMap.emitters (m : RayMap) : Nat := m.cols * m.rows * m.subpix

/-- R272: the timing of the scan. -/
structure ScanTiming where
  given : Bool := false
  depth : Nat := 0
  nCut : Nat := 0
  trigger : Nat := 0
  frameNs : Nat := 0
  frameFrac : Nat := 0
  rowsActive : Nat := 0
  rowsBlank : Nat := 0
  fifoBands : Nat := 2
  panicRows : Nat := 4
  deriving DecidableEq, Repr

/-- R274: a node entry of the panel map. -/
structure PanelNode where
  node : Nat := 0
  colRev : Bool := false
  subRev : Bool := false
  cols : Nat := 0
  first : Nat := 0
  deriving DecidableEq, Repr

/-- R274: the panel map; no node entry means none is loaded. -/
structure PanelMap where
  subpix : Nat := 1
  cols : Nat := 0
  nodes : List PanelNode := []
  deriving DecidableEq, Repr

/-- R288, R299: states of the scan. `draining`: T_A has passed, and the frames before A have yet to become COMPLETE; it reads as
STOPPING. -/
inductive ScanPhase where
  | stopped | starting | scanning | stopping | draining
  deriving DecidableEq, Repr

/-- Code of a scan state (R299). -/
def ScanPhase.code : ScanPhase → Nat
  | .stopped => 0 | .starting => 1 | .scanning => 2 | .stopping => 3 | .draining => 3

/-- R296: states of the split-panel lock. -/
inductive SplitState where
  | off | waiting | locked | alone
  deriving DecidableEq, Repr

/-- Code of a split state (R299). -/
def SplitState.code : SplitState → Nat
  | .off => 0 | .waiting => 1 | .locked => 2 | .alone => 3

/-- R178, R271: one row in a link's FIFO: its payload by node, and the nodes whose strip is poisoned. `need` are the 256-byte blocks
of the frame store that it still waits for, with the time from which each may be read (R428): the row is whole without any. -/
structure ScanRow where
  frame : FrameNo := 0
  row : Nat := 0
  need : List (Nat × Nat) := []
  lastRow : Bool := false
  payloads : List (Nat × List Byte) := []
  poisoned : List Nat := []
  deriving DecidableEq, Repr

/-- The feeder of one link in light-field mode (R283, R284, R299). -/
structure ScanFeeder where
  fifo : List ScanRow := []
  underrun : Nat := 0
  pendingUnder : Nat := 0
  underEvt : Option Nat := none
  deriving DecidableEq, Repr

/-- R294 to R296: the split-panel lock. `inbox` holds the partner's messages by frame, `due` the frames whose decision is
open with the device time of their cutoff and the body sent for them. -/
structure Split where
  partner : Option Nat := none
  waitUs : Nat := 100
  miss : Nat := 3
  state : SplitState := .off
  misses : Nat := 0
  repeats : Nat := 0
  skewOwn : Int := 0
  skewPartner : Int := 0
  inbox : List (Nat × List Byte) := []
  holderInbox : List (Nat × List Byte) := []
  due : List (Nat × Nat × List Byte) := []
  deriving DecidableEq, Repr

/-- The SCAN block. `tickA` and `tickB` are the next tick of each group as frame and row, `delivered` the content of each
band most recently delivered, `deliveredBad` the keys of its poisoned emitters (R284), `holder` the frame-store buffer it lies in plus one, `order` the buffers, least recently
taken first, `run` and `static` the counts of R291, `genStart` the first frame of the generation in force and `lastBad` the
latest frame that spoils `static`. -/
structure Scan where
  timing : ScanTiming := {}
  map : PanelMap := {}
  phase : ScanPhase := .stopped
  first : FrameNo := 0
  start : Nat := 0
  stop : Option FrameNo := none
  tickA : Nat × Nat := (0, 0)
  tickB : Nat × Nat := (0, 0)
  haltedA : Bool := false
  haltedB : Bool := false
  resumeA : Option FrameNo := none
  resumeB : Option FrameNo := none
  feeders : Tab ScanFeeder := []
  delivered : Tab (List (List Nat)) := []
  deliveredBad : Tab (List Nat) := []
  holder : Tab Nat := []
  order : List Nat := []
  holdOn : Bool := false
  heldLatest : Bool := false
  divLatest : Nat := 0
  heldCount : Nat := 0
  static : Nat := 0
  run : Nat := 0
  genStart : FrameNo := 0
  lastBad : Option FrameNo := none
  split : Split := {}
  loadEst : Nat := 0
  bandCycles : Nat := 0
  early : Nat := 0
  visits : Nat := 0
  mapLoad : Nat := 1
  deriving DecidableEq, Repr

end Sys2Proof.Machine
end

