-- ==== Sys2Proof/Machine/BlockFrames.lean ====
section
/-! DEFINITION. State of the frame machinery, one output in either mode (R106 to R132). -/

namespace Sys2Proof.Machine

/-- R108: the phases of a frame. -/
inductive FramePhase where
  | opened | cut | delivering | complete
  deriving DecidableEq, Repr

/-- Frame flag bits (R128). -/
inductive Flag where
  | lineSkipped | lineBlanked | bandLate | layerDropped | layerHeld | contentChanged | calStale | tandemGap
  | throttled | registrationUncertain | pairedRepeat | frameSkipped | dataPoisoned | halted | aborted
  deriving DecidableEq, Repr

/-- Bit number of a frame flag (R128). -/
def Flag.bit : Flag → Nat
  | .lineSkipped => 0 | .lineBlanked => 1 | .bandLate => 2 | .layerDropped => 3 | .layerHeld => 4
  | .contentChanged => 5 | .calStale => 6 | .tandemGap => 7 | .throttled => 8 | .registrationUncertain => 9
  | .pairedRepeat => 10 | .frameSkipped => 11 | .dataPoisoned => 12 | .halted => 13 | .aborted => 14

/-- R335: a health ladder: the bars that print it, S, DOT, LINE0 and BAR_STEP. -/
structure Ladder where
  mask : Nat := 0
  spacing : Nat := 5
  dot : Nat := 1
  line0 : Nat := 0
  step : Nat := 0
  deriving DecidableEq, Repr

/-- A frame that has left OPEN, or has ticked (R108, R118, R127). `barsLeft` are bars whose LAST tick has not passed,
`nodesLeft` nodes that have not reported it with the tick's time, `checks` content checks not yet finished.
Light-field only: `map` and `gain` the ray map and table the frame uses, `lfHeld` held under R291, `repeated` a
PAIRED_REPEAT, `awaiting` a split decision open, `notReady` not READY under R295, `buffer` its frame-store buffer, `lum`
its luminance steps plus 1,024 times the test pattern it shows (R340; 0: none), `early` and `visits` the counts of
LFR.TERM. `cutAt` is when the frame entered CUT, `ladder` the health ladder it prints (R335), `badRows` the lines or rows counted in
LINES_POISONED. -/
structure Frame where
  phase : FramePhase := .opened
  gen : FrameNo := 0
  ready : Nat := 0
  skipped : Bool := false
  bufs : List (Nat × Nat) := []
  pins : List Nat := []
  flags : Nat := 0
  bandsLate : Nat := 0
  throttleMax : Nat := 0
  tStart : Option Nat := none
  tEnd : Nat := 0
  linesSkipped : Nat := 0
  linesBlanked : Nat := 0
  linesPoisoned : Nat := 0
  maskDropped : Nat := 0
  maskHeld : Nat := 0
  changed : Nat := 0xFFFF
  posStart : Int := 0
  checks : List (Nat × Nat) := []
  barsLeft : List Nat := []
  nodesLeft : List (Nat × Nat) := []
  banks : List (Nat × Nat) := []
  map : RayMap := {}
  gain : GainTable := {}
  lfHeld : Bool := false
  repeated : Bool := false
  awaiting : Bool := false
  notReady : Bool := false
  buffer : Option Nat := none
  lum : Nat := 0
  early : Nat := 0
  visits : Nat := 0
  cutAt : Nat := 0
  ladder : Option Ladder := none
  badRows : List Nat := []
  deriving DecidableEq, Repr

/-- Life of a band in the queue (R119, R160). -/
inductive BandPhase where
  | queued | rendering | complete
  deriving DecidableEq, Repr

/-- R160: the STATE of a slot that holds a band: 0 is EMPTY. -/
def BandPhase.code : BandPhase → Nat
  | .queued => 3 | .rendering => 1 | .complete => 2

/-- A band in flight (R119, R160). In light-field mode `bar` is 0. `lines` holds one value per position or emitter. `cost` is
its rendering in cycles (R161, R262), `work` what of it was done at `workAt`, in 1/16,000 cycle (R445), `renderEnd` the device time at
which rendering finished. A band that is `queued` was discarded and waits to be rendered again. -/
structure Band where
  frame : FrameNo := 0
  bar : Nat := 0
  band : Nat := 0
  gen : FrameNo := 0
  mask : Nat := 0
  phase : BandPhase := .queued
  engine : Nat := 0
  renderStart : Nat := 0
  lines : List (List Nat) := []
  poisoned : List Nat := []
  faultLayers : Nat := 0
  fetched : Bool := false
  lum : Nat := 0
  early : Nat := 0
  visits : Nat := 0
  cost : Nat := 0
  work : Nat := 0
  workAt : Nat := 0
  renderEnd : Nat := 0
  deriving DecidableEq, Repr

/-- The whole configuration of an output. -/
structure OutCfg where
  prn : PrintCfg := {}
  lf : LfCfg := {}
  deriving DecidableEq, Repr

/-- A commit that has been assigned (R112): its generation, applied frame, opcode, configuration and HITCH_SEQ (0: not
a hitch commit). -/
structure Commit where
  gen : FrameNo := 0
  applied : FrameNo := 0
  opcode : Nat := 0
  cfg : OutCfg := {}
  hitch : Nat := 0
  deriving DecidableEq, Repr

/-- A hitch commit of this LZ9 in progress (R397): its slot, what it asks for, and the configuration staged when it began
(R64); `stop` marks a STOP of the scan. -/
structure HitchCommit where
  slot : Nat := 0
  id : Nat := 0
  opcode : Nat := 0
  stop : Bool := false
  frame : FrameNo := 0
  start : Nat := 0
  lastSent : Nat := 0
  cfg : OutCfg := {}
  deriving DecidableEq, Repr

/-- The frame machinery of the output. `base` is the configuration in force before the commits listed. `fetch` holds,
per bar, the next band to reach its fetch point as frame and band; `next` the next band not yet in the queue. `baseGen`
is the generation of `base` (0: no commit yet), `baseHost` that a host commit of the job or scan lies in it.
`past` keeps generation, flags and CUT time of the frames recorded (R319, R331). -/
structure Frames where
  openFirst : FrameNo := 0
  frameLast : FrameNo := 0
  genLast : FrameNo := 0
  genCut : FrameNo := 0
  nCut : Nat := 0
  staged : OutCfg := {}
  base : OutCfg := {}
  baseGen : FrameNo := 0
  baseHost : Bool := false
  baseHitch : Nat := 0
  commits : List Commit := []
  prevApplied : Option FrameNo := none
  rollBands : Nat := 0
  rollCommits : Nat := 0
  lastFlags : Nat := 0
  recs : Tab Frame := []
  bands : List Band := []
  fetch : Tab (Nat × Nat) := []
  next : Tab (Nat × Nat) := []
  heldBufs : Tab (Nat × Nat) := []
  hitch : List HitchCommit := []
  heldMap : RayMap := {}
  heldGain : GainTable := {}
  past : Tab (Nat × Nat × Nat) := []
  deriving DecidableEq, Repr

end Sys2Proof.Machine
end

