-- ==== Sys2Proof/Config.lean ====
section
/-! DEFINITION. What one LZ9 fixes for its whole life: its part number, the fuse and
OTP values written by Avporel, and the free values the manual leaves open, each an opaque constant. -/

namespace Sys2Proof

/-- The twelve part numbers (R1, R26). -/
inductive Part where
  | p16 | p16t | p32 | p32t | p64 | p64t | l08 | l16 | l32 | l32s | x64 | x64e
  deriving DecidableEq, Repr

namespace Config

/-- The part number the fuses of this die give (R26). DESIGN CHOICE (log 2): the model's reset state is an
LZ9-X64, which has every block; the statements hold for every part. -/
def part : Part := .x64

/-- TOP.ID.STEPPING (R30): a fuse value; any. -/
opaque stepping : BitVec 4

/-- TOP.DEVICE_ID (R30): a fuse value, unique to each die. -/
opaque deviceId : BitVec 64

/-- SHA-384 of a byte string (R499, R508): FIPS 180-4, left uninterpreted. -/
opaque sha384 : List Byte → BitVec 384

/-- ECDSA P-384 verification of a signature by a public key over a digest (R499, R508), left uninterpreted. -/
opaque ecdsaOk : (key : List Byte) → (digest : BitVec 384) → (sig : List Byte) → Bool

/-- The image key hashes of OTP slots 0 to 2 (R499), written by Avporel. -/
opaque imageKeyHash : Nat → BitVec 384

/-- R228: F, the LZ9's own factory-measured echo latency in ps. -/
opaque reinLatency : Nat

/-- R385: RX_FIXED of an Ethernet port in ps, by its SPEED code: the LZ9's own latency, reported in TIME.PORT_LAT. -/
opaque rxFixed : Nat → BitVec 16

/-- R385: TX_FIXED of an Ethernet port in ps, by its SPEED code. -/
opaque txFixed : Nat → BitVec 16

/-- R339 to R342: the pattern generator: the panel value of emitter `emitter` of row `row` in a test pattern, numbered
from 1 over both light-field kinds. -/
opaque testPattern : (pattern row emitter : Nat) → BitVec 16

/-- R341, R342: how many test patterns LF_RAY (kind 4) and LF_PHOTO (kind 5) show at a position, less one. -/
opaque patternCount : (kind : Nat) → Nat

/-- CIEDE2000 × 100, rounded (R332): the colour difference between the CIELAB value of an XYZ under the D50 white, each
component a numerator over a denominator, and a target in hundredths; left uninterpreted. -/
opaque deltaE : (x y z : Int × Nat) → (l a b : Int) → Nat

/-- R324: the on-die sensor that the LZ9 assigns to the block calibrated in a CAL register slot. -/
opaque ownSensor : (slot : Nat) → Nat

/-- R409: the subchannel in which a 256-byte block of device DRAM lies: the rule leaves the choice open. -/
opaque blockSub : (block : Nat) → BitVec 1

/-- R417: an MR4 refresh-rate code reports a temperature above the device's operating range (JESD79-5). -/
opaque mr4Hot : Nat → Bool

/-- R440: the upper temperature edge, in 1/16 °C, of the range that an MR4 refresh-rate code reports (JESD79-5). -/
opaque mr4Edge : Nat → Int

/-- A free value: what the manual leaves unstated. The argument is State.free, which a use advances. -/
opaque freeWord : Nat → BitVec 64

end Config

end Sys2Proof
end

