-- ==== Sys2Proof/Machine/Parts.lean ====
section
/-! DEFINITION. What each part number has (R26, R27, R30). -/

namespace Sys2Proof

namespace Part

/-- R30, table "Part codes". -/
def code : Part → Nat
  | p16 => 0x01 | p16t => 0x02 | p32 => 0x03 | p32t => 0x04 | p64 => 0x05 | p64t => 0x06
  | l08 => 0x11 | l16 => 0x12 | l32 => 0x13 | l32s => 0x14 | x64 => 0x21 | x64e => 0x22

/-- Print mode can be selected (R26). -/
def print : Part → Bool
  | p16 | p16t | p32 | p32t | p64 | p64t | x64 | x64e => true
  | l08 | l16 | l32 | l32s => false

/-- Light-field mode can be selected (R26). -/
def lightfield : Part → Bool
  | l08 | l16 | l32 | l32s | x64 | x64e => true
  | p16 | p16t | p32 | p32t | p64 | p64t => false

/-- The TAN block is present (R26). -/
def tandem : Part → Bool
  | p16t | p32t | p64t | x64 | x64e => true
  | p16 | p32 | p64 | l08 | l16 | l32 | l32s => false

/-- The split-panel lock is present (R26). -/
def splitLock : Part → Bool
  | l32s | x64 | x64e => true
  | p16 | p16t | p32 | p32t | p64 | p64t | l08 | l16 | l32 => false

/-- Light-field frames are held whole in the band store (R26). -/
def wholeFrame : Part → Bool
  | l08 | l16 => true
  | p16 | p16t | p32 | p32t | p64 | p64t | l32 | l32s | x64 | x64e => false

/-- Light-field frames are held in DRAM (R26). -/
def dramFrame : Part → Bool
  | l32 | l32s | x64 | x64e => true
  | p16 | p16t | p32 | p32t | p64 | p64t | l08 | l16 => false

/-- Extended junction-temperature grade (R26). -/
def extTj : Part → Bool
  | x64e => true
  | p16 | p16t | p32 | p32t | p64 | p64t | l08 | l16 | l32 | l32s | x64 => false

/-- Package A (R26). -/
def pkgA : Part → Bool
  | p64 | p64t | l32 | l32s | x64 | x64e => true
  | p16 | p16t | p32 | p32t | l08 | l16 => false

/-- Render engines present (R26). -/
def engines : Part → Nat
  | p16 | p16t | l08 => 8
  | p32 | p32t | l16 => 12
  | p64 | p64t | l32 | l32s | x64 | x64e => 16

/-- Rein links present (R26). -/
def links : Part → Nat
  | p16 | p16t | l08 => 8
  | p32 | p32t | l16 => 16
  | p64 | p64t | l32 | l32s | x64 | x64e => 32

/-- DDR5 channels present (R26). -/
def ddrChannels (p : Part) : Nat := if p.pkgA then 4 else 2

/-- CSI-2 receivers and camera buses present (R26, R27). -/
def cameraPorts (p : Part) : Nat := if p.pkgA then 4 else 2

/-- Axes present (R26). -/
def axes (p : Part) : Nat := if p.pkgA then 16 else 8

/-- RS-485 axis buses present (R27). -/
def axisBuses (p : Part) : Nat := if p.pkgA then 2 else 1

/-- MFIO pins present (R27). -/
def mfio (p : Part) : Nat := if p.pkgA then 64 else 32

/-- TOP.NOZZLE_LIMIT (R26, R30): 0 where print is absent. -/
def nozzleLimit : Part → Nat
  | p16 | p16t => 393216
  | p32 | p32t => 786432
  | p64 | p64t | x64 | x64e => 1572864
  | l08 | l16 | l32 | l32s => 0

/-- TOP.EMITTER_LIMIT (R26, R30): 0 where light-field is absent. -/
def emitterLimit : Part → Nat
  | l08 => 8388608
  | l16 => 16777216
  | l32 | l32s | x64 | x64e => 33554432
  | p16 | p16t | p32 | p32t | p64 | p64t => 0

/-- TOP.GRADE.TJ_MIN (R26, R30), degrees. -/
def tjMin (p : Part) : Int := if p.extTj then -40 else -20

/-- TOP.GRADE.TJ_MAX (R26, R30), degrees. -/
def tjMax (p : Part) : Nat := if p.extTj then 110 else 105

/-- TOP.GRADE.POWER_MAX (R26, R30), watts. -/
def powerMax : Part → Nat
  | p16 | p16t => 28
  | p32 | p32t => 40
  | p64 | p64t | l32 | l32s => 58
  | l08 => 26
  | l16 => 38
  | x64 | x64e => 60

/-- R27: Rein link `l` (of the die's 32) is present. -/
def hasLink (p : Part) (l : Nat) : Bool :=
  match p.links with
  | 32 => decide (l < 32)
  | 16 => decide (l < 8 ∨ (16 ≤ l ∧ l < 24))
  | _ => decide (l < 4 ∨ (16 ≤ l ∧ l < 20))

/-- R27: node ID `n` lies on a link that is present. -/
def hasNode (p : Part) (n : Nat) : Bool := p.hasLink (n / 8)

/-- R51/R164: screening capacity in dots per second at the full render clock (R26: engines × 8 × 1.25 GHz). -/
def dotsPerNs (p : Part) : Nat := p.engines * 10

end Part

end Sys2Proof
end

