-- ==== Sys2Proof/Machine/BlockHost.lean ====
section
/-! DEFINITION. State of the host link: device state, rings, execution slots, records, buffers, registers of TOP and
CMD, the PCIe function, and the life-cycle block. Every default value is the value right after reset. -/

namespace Sys2Proof.Machine

/-- R21, table "Device states". -/
inductive DevState where
  | reset | boot | idle | armed | run | halter | fault | tripped
  deriving DecidableEq, Repr

/-- The code of a device state. -/
def DevState.code : DevState → Nat
  | .reset => 0 | .boot => 1 | .idle => 2 | .armed => 3 | .run => 4 | .halter => 5 | .fault => 6 | .tripped => 7

/-- R25, table "Transition causes". -/
inductive Cause where
  | none | hostHalter | flr | tandemGap | orderlyStop | memFreeze | watchdog | imageRejected | clockLoss
  | pcieDown | thermalTrip | hostResume | fatalBlock
  deriving DecidableEq, Repr

/-- The code of a transition cause. -/
def Cause.code : Cause → Nat
  | .none => 0 | .hostHalter => 1 | .flr => 2 | .tandemGap => 3 | .orderlyStop => 4 | .memFreeze => 5
  | .watchdog => 6 | .imageRejected => 7 | .clockLoss => 8 | .pcieDown => 9 | .thermalTrip => 10
  | .hostResume => 11 | .fatalBlock => 12

/-- TOP.CAPABILITY.ACTIVE_MODE (R30). -/
inductive Mode where
  | none | print | lightfield
  deriving DecidableEq, Repr

/-- The code of the active mode. -/
def Mode.code : Mode → Nat
  | .none => 0 | .print => 1 | .lightfield => 2

/-- The fuses as sensed on leaving RESET (R29, R30). -/
structure Fuses where
  part : Part := Config.part
  stepping : BitVec 4 := Config.stepping
  deviceId : BitVec 64 := Config.deviceId
  deriving DecidableEq, Repr

/-- The TOP block. -/
structure Top where
  dev : DevState := .reset
  prev : DevState := .reset
  cause : Cause := .none
  mode : Mode := .none
  conflicts : Nat := 0
  lastDword : Nat := 0
  hpen : Nat := 0
  deriving DecidableEq, Repr

/-- One command ring (R47 to R52). CR_STATUS.WAIT_SLOT is no field: `State.waitsSlot` computes it. -/
structure CmdRing where
  enable : Bool := false
  log2 : Nat := 4
  tail : Nat := 0
  head : Nat := 0
  waitOwn : Bool := false
  ownMiss : Nat := 0
  deriving DecidableEq, Repr

/-- A completion record that waits for its ring (R55). -/
structure CplRec where
  slot : Nat := 0
  id : Nat := 0
  seq : Nat := 0
  opcode : Nat := 0
  status : Nat := 0
  ring : Nat := 0
  detail : Nat := 0
  index : Nat := 0
  frame : Option FrameNo := none
  time : Nat := 0
  result : Nat := 0
  deriving DecidableEq, Repr

/-- A completion ring or the event ring (R47, R56, R57, R62). `times` holds when each unreleased record since the
last interrupt was written, the oldest first. -/
structure RecRing where
  base : Nat := 0
  enable : Bool := false
  log2 : Nat := 4
  vector : Nat := 0
  coalCount : Nat := 0
  coalTime : Nat := 0
  head : Nat := 0
  tail : Nat := 0
  phase : Bool := true
  times : List Nat := []
  waiting : List CplRec := []
  deriving DecidableEq, Repr

/-- An event that has its EVT_SEQ (R58). `data` starts with byte 16; `after` is the command whose completion record
must come first (R63 item 5), `before` the command whose completion record must come later (R126), 0 for none. -/
structure EventRec where
  time : Nat
  source : Nat
  code : Nat
  seq : Nat
  data : List Byte
  frame : Bool := false
  after : Nat := 0
  before : Nat := 0
  deriving DecidableEq, Repr

/-- What an execution slot holds (R51). -/
inductive SlotPhase where
  | free | fetched | executing | done
  deriving DecidableEq, Repr

/-- An execution slot: a descriptor as fetched, with its ring, index and order number. -/
structure Slot where
  phase : SlotPhase := .free
  id : Nat := 0
  ring : Nat := 0
  index : Nat := 0
  raw : BitVec 512 := 0
  deriving DecidableEq, Repr

/-- R67: state of a buffer. -/
inductive BufState where
  | free | filling | ready | releasePending
  deriving DecidableEq, Repr

/-- A buffer-table entry (R67). `releaseCmd` is the SYS_BUF_FREE that awaits the pins (R63 item 5). -/
structure BufEntry where
  base : Nat := 0
  size : Nat := 0
  state : BufState := .free
  lz9 : Bool := false
  crcEn : Bool := false
  gen : FrameNo := 0
  pins : Nat := 0
  crc : Nat := 0
  lastPin : FrameNo := 0
  releaseCmd : Nat := 0
  deriving DecidableEq, Repr

/-- A SYS_PULL in progress (R70), keyed by its slot; `len` 0 means none, `asked` that a read request is outstanding. -/
structure Pull where
  handle : Nat := 0
  host : Nat := 0
  offset : Nat := 0
  len : Nat := 0
  copied : Nat := 0
  makeReady : Bool := false
  asked : Bool := false
  deriving DecidableEq, Repr

/-- The CMD block (R45 to R75). -/
structure Cmd where
  winDrop : Nat := 0
  hostBase : Nat := 0
  hostSize : Nat := 0
  rings : Tab CmdRing := []
  rrNext : Nat := 1
  slots : Tab Slot := []
  nextId : Nat := 1
  cpl : Tab RecRing := []
  evt : RecRing := {}
  lostAll : Nat := 0
  lostFrame : Nat := 0
  backlog : List EventRec := []
  evtSeq : BitVec 32 := 0
  masked : List (Nat × Nat × Nat) := []
  bufs : Tab BufEntry := []
  pulls : Tab Pull := []
  deriving DecidableEq, Repr

/-- An entry of the MSI-X table, four words (R39, PCIe's own layout). -/
structure MsixEntry where
  addrLo : Nat := 0
  addrHi : Nat := 0
  data : Nat := 0
  ctrl : Nat := 1
  deriving DecidableEq, Repr

/-- What the latest host read returned. -/
inductive ReadReply where
  | none
  | bar0 (offset : Nat) (value : Word)
  | bar2 (offset : Nat) (bytes : List Byte) (poisoned : Bool)
  | unsupported
  deriving DecidableEq, Repr

/-- The PCIe function (R39 to R44) and the latches of R535. `maxPayload` and `maxReadRequest` are the sizes in force, in bytes:
at reset the values of PCIe itself (PRESUMED, log 61). `aerUr`, `aerPoison`, `aerEcrc` and `aerTimeout` are the errors logged in AER. -/
structure Pcie where
  linkUp : Bool := false
  d3hot : Bool := false
  bme : Bool := false
  maxPayload : Nat := 128
  maxReadRequest : Nat := 512
  aerUr : Bool := false
  aerPoison : Bool := false
  aerEcrc : Bool := false
  aerTimeout : Bool := false
  wiping : Bool := false
  reply : ReadReply := .none
  msix : Tab MsixEntry := []
  pba : Nat := 0
  latches : Tab Nat := []
  deriving DecidableEq, Repr

/-- The fields of a customer record (R504) in force. -/
structure CustRec where
  windowGib : Nat := 2
  ddrOrg : Nat := 0
  rateMax : Nat := 32
  mac0 : Nat := 0
  mac1 : Nat := 0
  slotB : Nat := 0x01000000
  debugKey : BitVec 384 := 0
  deriving DecidableEq, Repr

/-- The life-cycle and security block (R490 to R514): OTP bits, always-on registers and boot state. `records` are the
customer record generations burned, the oldest first; `pendingReset` is the reset kind that the command `pendingId` is to
bring about (0: none); `tap` the boundary-scan instruction in force (R512). -/
structure Lcs where
  blank : Bool := false
  secured : Bool := false
  retired : Bool := false
  opened : Bool := false
  attempts : Nat := 0
  records : List (List Byte) := []
  rollback : Nat := 0
  inForce : CustRec := {}
  recGen : Nat := 0
  recProv : Bool := false
  fwRollback : Nat := 0
  fwVersion : Nat := 0
  straps : Nat := 0
  source : Nat := 0
  slotA : Nat := 0
  slotB : Nat := 0
  pushed : Nat := 0
  waitPush : Bool := false
  imageOk : Bool := false
  cause : Nat := 1
  held : Bool := false
  count : Nat := 0
  pushReady : Bool := false
  verifying : Bool := false
  rejected : Bool := false
  aperture : Memory := []
  image : List Byte := []
  imageChunks : Nat := 0
  nonce : Option (List Byte) := none
  nonceTime : Nat := 0
  pendingReset : Nat := 0
  pendingId : Nat := 0
  tap : Nat := 0
  deriving DecidableEq, Repr

/-- R183, R186: one nozzle's pulses in a sequence: its slot, the width of its pre-heat pulse (0 for none), its dot, and the edges
of both pulses in ns from the start of its slot: the main pulse is there where the dot is not 0. -/
structure Pulse where
  slot : Nat
  nozzle : Nat
  pre : Nat
  dot : Nat
  preOn : Nat := 0
  preOff : Nat := 0
  mainOn : Nat := 0
  mainOff : Nat := 0
  deriving DecidableEq, Repr

/-- What the LZ9 sends out of the chip: interrupts, Rein blocks and frames, Ethernet frames, bus messages;
`step` is a pulse of `width` ns, `rs485` a frame with the span of AXBn_DE (R356);
and what a node of a chain sends itself (`reinUp`), forwards (`reinOn`, R202) and does with its emitters. -/
inductive Out where
  | msix (vector : Nat)
  | hostRead (slot addr len : Nat)
  | reinBlock (link : Nat) (bytes : List Byte)
  | reinFrame (link : Nat) (bytes : List Byte)
  | reinUp (node : Nat) (port : Nat) (bytes : List Byte)
  | reinOn (node : Nat) (port : Nat) (bytes : List Byte)
  | eth (port : Nat) (bytes : List Byte)
  | ptp (port : Nat) (msg : PtpMsg) (tTx : Int)
  | pin (mfio : Nat) (level : Bool)
  | strobe (band : Nat) (at' : Nat) (on : Bool)
  | ssiClock (ch bits kHz : Nat)
  | step (output : Nat) (at' width : Nat)
  | stepDir (output : Nat) (at' : Nat) (level : Bool)
  | stepEnable (output : Nat) (level : Bool)
  | i2c (bus addr : Nat) (bytes : List Byte)
  | rs485 (bus deOn start : Nat) (bytes : List Byte) (deOff : Nat)
  | hostWrite (addr : Nat) (bytes : List Byte)
  | jtag (value : Nat)
  | spiSfdp (kHz : Nat)
  | spiRead (addr kHz : Nat)
  | sysrst
  | mirror (number applied : Nat) (image : CalImage)
  | sequence (node col : Nat) (line start : Int) (tSlot : Nat) (pulses : List Pulse)
  | row (node row : Nat) (start : Int) (period : Nat) (data : List Byte)
  deriving DecidableEq, Repr

end Sys2Proof.Machine
end

