-- ==== Sys2Proof/Machine/BlockMem.lean ====
section
/-! DEFINITION. State of the memory system (R407 to R438). -/

namespace Sys2Proof.Machine

/-- R438: states of a channel. -/
inductive ChanState where
  | absent | training | online | changing | offline | frozen
  deriving DecidableEq, Repr

/-- Code of a channel state (R438). -/
def ChanState.code : ChanState → Nat
  | .absent => 0 | .training => 1 | .online => 2 | .changing => 3 | .offline => 4 | .frozen => 5

/-- R415: the activate table of a bank (row and count, at most 16) and FLOOR. -/
structure ActTable where
  rows : List (Nat × Nat) := []
  floor : Nat := 0
  deriving DecidableEq, Repr

/-- R422: a frequency change on its way: to `rate` (MT/s ÷ 100) from `old`; `fallback` of R423; `slot` and `id` of the
MEM_RETRAIN that asked for it. `begun` once the channel is CHANGING. -/
structure RateChange where
  rate : Nat := 0
  old : Nat := 0
  fallback : Bool := false
  since : Nat := 0
  begun : Bool := false
  slot : Nat := 0
  id : Nat := 0
  deriving DecidableEq, Repr

/-- A DDR5 channel. Rates are in MT/s ÷ 100. `stored` are the eyes of the stored settings by rate. `rewrites` are
corrected bursts to be rewritten (R412), `neighbours` the refreshes required under R415 with their times, `owed` how often the
refresh that is due has been postponed (R417), `mr4` the latest codes by rank, whose refresh rate is in force, `retry` the retry
buffer of each subchannel, oldest first: a command's device DRAM address and its replays (R418). `stepAt` is when the training step
that gathers data began, `abandonAt` since when a discarded step has seen no feeder in panic (R489). `window` is the FEED demand of the 10 µs window
that began at `windowAt`, `windows` the latest 100; `mr4At` and `refAt` are the times of the latest MR4 reading and 32 ms
window; `robin` is the BULK port served last, `flight` the requests in flight (R427), the latest admitted last. -/
structure MemChan where
  state : ChanState := .absent
  flight : List MemReq := []
  inMap : Bool := false
  rate : Nat := 0
  eye : Nat := 0
  stored : Tab Nat := []
  corrected : Nat := 0
  uncorrected : Nat := 0
  corrNew : Nat := 0
  corrEvt : Option Nat := none
  rewrites : List Nat := []
  ueAddr : Nat := 0
  alerts : Nat := 0
  replayed3 : Nat := 0
  retry : Tab (List (Nat × Nat)) := []
  latMax : Nat := 0
  late : Nat := 0
  refreshes : Nat := 0
  tables : Tab ActTable := []
  neighbours : List (Nat × Nat × Nat) := []
  owed : Nat := 0
  mr4 : List Nat := []
  window : Nat := 0
  windows : List Nat := []
  windowAt : Nat := 0
  mr4At : Nat := 0
  refAt : Nat := 0
  robin : Nat := 50
  peak : Nat := 0
  beyond : Nat := 0
  worst : Nat := 0
  feedEvt : Option Nat := none
  scrubPos : Nat := 0
  passes : Nat := 0
  passStart : Nat := 0
  lateRaised : Bool := false
  run : Bool := false
  steps : Nat := 0
  abandonAt : Option Nat := none
  gathering : Bool := false
  stepAt : Nat := 0
  change : Option RateChange := none
  deriving DecidableEq, Repr

/-- R435: a MEM_RETRAIN that waits for its channels. -/
structure Retrain where
  slot : Nat := 0
  id : Nat := 0
  mask : Nat := 0
  failed : Nat := 0
  deriving DecidableEq, Repr

/-- The MEM block. `held` are the rates admitted (R431) by requester; `paces` what each requester has moved beyond its rate, in
10⁻⁹ bytes, and when that was reckoned (R431); `delay` is in ns; `scrubPart` the bursts of port 53 that make no whole unit yet; the four freeze fields are MEM.FREEZE (R419). -/
structure Mem where
  budget : Nat := 0
  pullRate : Nat := 40
  held : List (Nat × Nat) := []
  grant : Tab Nat := []
  delay : Tab Nat := []
  refuse : Tab Nat := []
  paces : Tab (Nat × Nat) := []
  scrubPart : Nat := 0
  chans : Tab MemChan := []
  freezeParity : Bool := false
  rowThresh : Nat := 2048
  minEye : Nat := 150
  scrubHours : Nat := 24
  frozen : Bool := false
  freezeChan : Nat := 0
  freezeSub : Nat := 0
  freezeCause : Nat := 0
  freezeDepth : Nat := 0
  freezeAddr : Nat := 0
  retrains : List Retrain := []
  deriving DecidableEq, Repr

end Sys2Proof.Machine
end

