-- ==== Sys2Proof/Machine/BlockRein.lean ====
section
/-! DEFINITION. State of the Rein links at the LZ9 and of the nodes of the chains (R200 to R237). -/

namespace Sys2Proof.Machine

/-- R227: link states. -/
inductive LinkState where
  | down | adapting | locked | observing | claimed | failed
  deriving DecidableEq, Repr

/-- Code of a link state (R227). -/
def LinkState.code : LinkState → Nat
  | .down => 0 | .adapting => 1 | .locked => 2 | .observing => 3 | .claimed => 4 | .failed => 5

/-- One Rein link at the LZ9 (R227, R237). `relock` marks a lock that was lost, `leftAt` is when it left
CLAIMED. -/
structure Link where
  state : LinkState := .down
  endB : Bool := false
  nodes : Nat := 0
  enumErr : Nat := 0
  claim : Nat := 0
  eye : Nat := 0
  errBlocks : Nat := 0
  errFrames : Nat := 0
  ctrlRetry : Nat := 0
  ctrlNoResp : Nat := 0
  lastFar : Option Nat := none
  ticks : Nat := 0
  adaptStart : Nat := 0
  relock : Bool := false
  leftAt : Nat := 0
  deriving DecidableEq, Repr

/-- A CTRL_REQ awaiting its response (R223). `owner` says who asked: 0 the LZ9 itself, 1 a bank
write, otherwise slot + 2. -/
structure CtrlReq where
  tag : Nat := 0
  write : Bool := false
  addr : Nat := 0
  words : Nat := 1
  data : List Byte := []
  sent : Nat := 0
  tries : Nat := 1
  onWire : Bool := false
  owner : Nat := 0
  deriving DecidableEq, Repr

/-- The LZ9's view of one node (R221, R236, R237). `panelAck` is the PANEL_CTRL value that it acknowledged last. -/
structure NodeView where
  kind : Nat := 0
  present : Bool := false
  silent : Bool := false
  halter : Bool := false
  hold : Bool := false
  held : Nat := 0
  flags : Nat := 0
  emitters : Nat := 0
  temps : List Nat := []
  supplyMv : Nat := 0
  supplyCur : Nat := 0
  cable : Nat := 0
  blank : Nat := 0
  vendorModel : Nat := 0
  holdCap : Bool := false
  tempSensors : Nat := 1
  maxRow : Nat := 0
  serial : Nat := 0
  lastStatus : Nat := 0
  statusTime : Nat := 0
  toHalter : Bool := true
  lastHalter : Nat := 0
  ticksSent : Nat := 0
  tickLog : List (Nat × Option FrameNo) := []
  ticksSeen : Nat := 0
  reqs : List CtrlReq := []
  nextTag : Nat := 0
  spits : Nat := 0
  nhFail : Nat := 0
  panelAck : Nat := 0
  deriving DecidableEq, Repr

/-- A REIN_ENUMERATE in progress (R228, R232): the command's slot, what it named, and the links it could not reach. -/
structure EnumRun where
  slot : Nat := 0
  id : Nat := 0
  mask : Nat := 0
  failed : Nat := 0
  claim : Bool := false
  cls : Nat := 0
  linkLossUs : Nat := 20
  statusUs : Nat := 1000
  start : Nat := 0
  deriving DecidableEq, Repr

/-- A REIN_LINK_STATE UP in progress (R231). -/
structure UpRun where
  slot : Nat := 0
  id : Nat := 0
  mask : Nat := 0
  pendingMask : Nat := 0
  failed : Nat := 0
  deriving DecidableEq, Repr

/-- A REIN_NODE_READ or REIN_NODE_WRITE in progress (R234), keyed by its slot. -/
structure Transfer where
  id : Nat := 0
  node : Nat := 0
  write : Bool := false
  addr : Nat := 0
  words : Nat := 0
  doneWords : Nat := 0
  handle : Nat := 0
  offset : Nat := 0
  value : Nat := 0
  deriving DecidableEq, Repr

/-- The REIN block. -/
structure Rein where
  links : Tab Link := []
  nodes : Tab NodeView := []
  enums : List EnumRun := []
  ups : List UpRun := []
  transfers : Tab Transfer := []
  deriving DecidableEq, Repr

/-! ### Nodes -/

/-- R224: NODE_STATE. -/
inductive NodeRun where
  | halter | run | hold
  deriving DecidableEq, Repr

/-- Code of NODE_STATE (R224). -/
def NodeRun.code : NodeRun → Nat
  | .halter => 0 | .run => 1 | .hold => 2

/-- A line buffered in a head node (R186, R209). -/
structure NodeLine where
  tickId : Nat := 0
  bank : Nat := 0
  lastLine : Bool := false
  spit : Option Nat := none
  frame : FrameNo := 0
  payload : List Byte := []
  deriving DecidableEq, Repr

/-- A segment of a row received by a panel node (R210). -/
structure RowSeg where
  tickId : Nat := 0
  row : Nat := 0
  seg : Nat := 0
  segs : Nat := 1
  lastRow : Bool := false
  frame : FrameNo := 0
  payload : List Byte := []
  deriving DecidableEq, Repr

/-- A blank log entry (R209). -/
structure BlankEntry where
  ticks : Nat
  reason : Nat
  deriving DecidableEq, Repr

/-- A node of a chain, keyed by 8 × link + place counted from the A end (R211 to R226). The maker's values are named by
the model (log 12). `holder` is none, some false for port A, some true for port B. `heardAt` is when its holder port last passed a
block, `lineBase` turns a line number into one that no RUN sets back, `end0` and `end1` are when the latest sequence of each bank
ends, `purgeLeft` and `purgeAt` the pulses a purge still owes and when the next is due, and `rowTime`, `frameRows` and `rowAt` the rate
a panel node last used, the rows of a frame and when its next row in Halter is due. -/
structure ChainNode where
  kind : Nat := 1
  vendorModel : Nat := 0
  emitters : Nat := 32768
  tempSensors : Nat := 1
  maxRow : Nat := 0
  serial : Nat := 0
  assigned : Bool := false
  position : Nat := 0
  link : Nat := 0
  held : Nat := 0
  holder : Option Bool := none
  run : NodeRun := .halter
  lockA : Bool := true
  lockB : Bool := false
  cableA : Nat := 0
  cableB : Nat := 0
  linkLossUs : Nat := 20
  statusUs : Nat := 1000
  purgeCount : Nat := 0
  purgeDot : Nat := 0
  purgeGo : Bool := false
  purgeRate : Nat := 0
  hold : Bool := false
  groupB : Bool := false
  depth : Nat := 10
  activeRows : Nat := 0
  bank0 : Memory := []
  bank1 : Memory := []
  vendorWords : Nat := 0
  vendor : Tab Nat := []
  lines : List NodeLine := []
  history : List (Int × NodeLine) := []
  rows : List RowSeg := []
  store : Tab (List Byte) := []
  curRow : Nat := 0
  frameSeen : Bool := false
  latestBank : Nat := 0
  lineNo : Int := 0
  ticksSeen : Nat := 0
  lastTick : Option Nat := none
  crcInInterval : Bool := false
  lastStatusTime : Nat := 0
  statusDue : Bool := false
  endA : Int := 0
  endB : Int := 0
  crcErr : Nat := 0
  dataLate : Nat := 0
  missedTick : Nat := 0
  squeeze : Nat := 0
  claimReject : Nat := 0
  blockErr : Nat := 0
  spits : Nat := 0
  nhFail : Nat := 0
  log : List BlankEntry := []
  logOvf : Bool := false
  statusSeq : Nat := 0
  claimConflict : Bool := false
  idMismatch : Bool := false
  overtemp : Bool := false
  supplyFault : Bool := false
  tags : List (Nat × List Byte) := []
  lastMain : Tab Nat := []
  tickAt : Nat := 0
  kwAt : Nat := 0
  status : List Byte := []
  heardAt : Nat := 0
  lineBase : Int := 0
  end0 : Int := 0
  end1 : Int := 0
  purgeLeft : Nat := 0
  purgeAt : Nat := 0
  rowTime : Nat := 0
  frameRows : Nat := 0
  rowAt : Nat := 0
  deriving DecidableEq, Repr

end Sys2Proof.Machine
end

