-- ==== Sys2Proof/Machine/BlockTan.lean ====
section
/-! DEFINITION. State of the tandem block (R459 to R477). -/

namespace Sys2Proof.Machine

/-- R459: tandem states. -/
inductive TanState where
  | off | pairing | active | shadow | alone | takingOver | deposed
  deriving DecidableEq, Repr

/-- Code of a tandem state. -/
def TanState.code : TanState → Nat
  | .off => 0 | .pairing => 1 | .active => 2 | .shadow => 3 | .alone => 4 | .takingOver => 5 | .deposed => 6

/-- R462: the body of a HEARTBEAT as received. -/
structure Heartbeat where
  tan : Nat := 0
  dev : Nat := 0
  bits : Nat := 0
  frameLast : FrameNo := 0
  deliv : FrameNo := 0
  ref : Int := 0
  digest : Nat := 0
  claim : Nat := 0
  fw : Nat := 0
  job : Nat := 0
  sender : Nat := 0
  deriving DecidableEq, Repr

/-- R472 to R474: a drill at frame `frame` with `claim` (0: none is left). `standby`: this LZ9 is the standby; `running`
since the cutoff; `sent` is when the first line or row of the frame went to each node, plus 1; `back` the claim with which
the holder takes the nodes back from the next frame on (0: it does not). -/
structure Drill where
  frame : FrameNo := 0
  claim : Nat := 0
  standby : Bool := false
  running : Bool := false
  sent : Tab Nat := []
  back : Nat := 0
  deriving DecidableEq, Repr

/-- The TAN block. Times are `uptime`. `nodes` are the nodes found on each tandem link at TAN_CONFIG, `beat` the partner's
latest heartbeat, `beatAt` and `aliveAt` when it and the latest edge of TANDEM_ALIVE_IN came, `partnerClaim` the latest
claim it named. `resume`: at a takeover's end RUN blocks go out; `held`: they did not. `lossSeen`: a condition for a takeover
has been met and acted on. `skipTo` is the partner's FRAME_LAST at a takeover; `gapFrom` since when the output is held,
`mirrorWait` the mirrored results that wait for a place (R114). -/
structure Tandem where
  state : TanState := .off
  linkMask : Nat := 0
  endB : Bool := false
  autoTakeover : Bool := true
  id : Nat := 0
  hbTimeoutUs : Nat := 1500
  passTimeoutUs : Nat := 1500
  posTol : Nat := 0
  nodes : Tab Nat := []
  sentSeq : Nat := 0
  hbSent : Nat := 0
  aliveOut : Bool := false
  aliveSent : Nat := 0
  beat : Option Heartbeat := none
  beatAt : Option Nat := none
  aliveAt : Option Nat := none
  partnerClaim : Nat := 0
  lastClaim : Nat := 0
  fwSeen : Bool := false
  released : Bool := false
  mirrorOk : Bool := false
  drill : Option Drill := none
  lossSeen : Bool := false
  resume : Bool := false
  held : Bool := false
  skipTo : Option FrameNo := none
  gapFrom : Option Nat := none
  gapUs : Nat := 0
  takeovers : Nat := 0
  late : Nat := 0
  digestDiff : Nat := 0
  mirrorNo : Nat := 0
  mirrorWait : List (FrameNo × CalImage) := []
  deriving DecidableEq, Repr

end Sys2Proof.Machine
end

