-- ==== Sys2Proof/Machine/BlockThm.lean ====
section
/-! DEFINITION. State of temperature and throttling (R439 to R458). -/

namespace Sys2Proof.Machine

/-- R440, R448: a sensor, keyed by its sensor code. `bad` is the cause of the failure seen in the latest round (0: none),
`good` counts rounds without one, `same` rounds with the same raw code, `cause` is why it last failed. -/
structure Sensor where
  value : Option Int := none
  raw : Option Nat := none
  bias : Bool := true
  same : Nat := 0
  bad : Nat := 0
  good : Nat := 0
  failed : Bool := false
  cause : Nat := 0
  excluded : Bool := false
  deriving DecidableEq, Repr

/-- R449: a stop that a zone's orderly stop has planned for a target, a bar or 16 + group: after a line of the bar, or after
the last row of frame `frame`. -/
structure StopPlan where
  target : Nat := 0
  line : Int := 0
  frame : FrameNo := 0
  deriving DecidableEq, Repr

/-- A zone (R441 to R450). Thresholds 0 WARN, 1 THROTTLE, 2 ORDERLY_STOP; `above`, `up` and `dn` by threshold. `hist` are
the temperatures of the last 16 rounds, oldest first, `rateNum` is T less T₁₆ times 1,000, `blind` that no sensor is valid,
`levelAt` the round of the latest change of level (0: none), `calm` the rounds without a condition since then; `holding` are
the sensors that hold the level until RELEASE_SENSOR, `plans` the stops not yet made. -/
structure Zone where
  defined : Bool := false
  kind : Nat := 0
  target : Nat := 0
  sensors : List Nat := []
  thr : List (Option Int) := [none, none, none]
  rateLimit : Nat := 0
  hyst : Nat := 48
  dwell : Nat := 4
  margin : Nat := 5
  above : List Bool := [false, false, false]
  up : List Nat := [0, 0, 0]
  dn : List Nat := [0, 0, 0]
  rateOver : Bool := false
  rateUp : Nat := 0
  rateDn : Nat := 0
  hist : List Int := []
  temp : Int := 0
  rateNum : Int := 0
  blind : Bool := false
  level : Nat := 0
  levelAt : Nat := 0
  calm : Nat := 0
  holding : List Nat := []
  stopped : Bool := false
  plans : List StopPlan := []
  ceil : Option Int := none
  deriving DecidableEq, Repr

/-- R446, R447: the head-supply step of a bar: in force, and pending with the time since when. -/
structure HeadStep where
  step : Nat := 0
  pending : Option (Nat × Nat) := none
  deriving DecidableEq, Repr

/-- The THM block. `heads` are the bars' head-supply steps, `lumStop` the groups whose frames are rendered black for a stop,
`round` the housekeeping rounds so far, `adc` the raw code and value of each channel, `supplyBad` the rounds that a supply
monitor has been out of range. `trips` and `hotspot` are in the always-on domain, and so are
`tripLinks`, the links that were CLAIMED at a trip and their claim classes, for the HALTER blocks of R451, and
`tripPins` and `tripEn`, the inactive levels at which R524 holds the MFIO outputs and the SDk_EN outputs. -/
structure Thermal where
  renderStep : Nat := 0
  lumStep : Tab Nat := []
  heads : Tab HeadStep := []
  lumStop : Tab Bool := []
  roundMs : Nat := 4
  graceMs : Nat := 500
  round : Nat := 0
  sensors : Tab Sensor := []
  adc : Tab (Nat × Int) := []
  supplyBad : Tab Nat := []
  zones : Tab Zone := []
  hotspot : Int := 0
  trips : Nat := 0
  tripLinks : List (Nat × Nat) := []
  tripPins : List (Nat × Bool) := []
  tripEn : List (Nat × Bool) := []
  deriving DecidableEq, Repr

end Sys2Proof.Machine
end

