-- ==== Sys2Proof/Machine/BlockTime.lean ====
section
/-! DEFINITION. State of the timebase, the Ethernet ports, trigger and capture units and the hitch (R382 to R406). -/

namespace Sys2Proof.Machine

/-- R388: servo states. -/
inductive Servo where
  | free | acquiring | locked | holdover | grandmaster
  deriving DecidableEq, Repr

/-- Code of a servo state (R388). -/
def Servo.code : Servo → Nat
  | .free => 0 | .acquiring => 1 | .locked => 2 | .holdover => 3 | .grandmaster => 4

/-- IEEE 1588-2019 port states that the LZ9 reports (R405, R406). -/
inductive PortState where
  | initializing | faulty | disabled | listening | preMaster | master | passive | uncalibrated | slave
  deriving DecidableEq, Repr

/-- portState code of IEEE 1588-2019 (PRESUMED, log 20); 0 before a port has ever run. -/
def PortState.code : PortState → Nat
  | .initializing => 1 | .faulty => 2 | .disabled => 3 | .listening => 4 | .preMaster => 5 | .master => 6
  | .passive => 7 | .uncalibrated => 8 | .slave => 9

/-- R401: the configuration of an Ethernet port. -/
structure PortCfg where
  speed : Nat := 0
  role : Nat := 0
  transport : Nat := 1
  delay : Nat := 1
  profile : Nat := 1
  domain : Nat := 0
  pflags : Nat := 0
  priority1 : Nat := 128
  priority2 : Nat := 128
  logSync : Int := -3
  logAnnounce : Int := 0
  logDelayReq : Int := -3
  announceTimeout : Nat := 3
  vlan : Nat := 0
  ipv4 : Nat := 0
  ingressPs : Int := 0
  egressPs : Int := 0
  delayAsym : Int := 0
  deriving DecidableEq, Repr

/-- One Ethernet port (R382 to R386). `gm` is the best Announce held, `pend` a two-step Sync awaiting its Follow_Up with
its receive time in ps and its correction, `delayTx` and `pdTx` the sequence and sending time of the latest request,
`pdT` the receive time of a Pdelay_Resp awaiting its Follow_Up with the request-receipt time. -/
structure Port where
  cfg : PortCfg := {}
  linkUp : Bool := false
  ptp : Option PortState := none
  drop : Nat := 0
  mac : Nat := 0
  gm : Option GmInfo := none
  gmFrom : Nat × Nat := (0, 0)
  annAt : Nat := 0
  syncAt : Nat := 0
  syncLog : Int := -3
  seqSync : Nat := 0
  seqAnn : Nat := 0
  seqDelay : Nat := 0
  pend : Option (Nat × Int × Int) := none
  lastSync : Option (Int × Int) := none
  delayTx : Option (Nat × Int) := none
  pdTx : Option (Nat × Int) := none
  pdT : Option (Int × Int) := none
  pathPs : Int := 0
  sentSync : Nat := 0
  sentAnn : Nat := 0
  sentDelay : Nat := 0
  residence : List (Nat × Int) := []
  deriving DecidableEq, Repr

/-- R391: holders of a trigger unit. -/
inductive TrigHolder where
  | none | host | scan | camera | calibration | motion | housekeeping
  deriving DecidableEq, Repr

/-- Code of a holder (R391). -/
def TrigHolder.code : TrigHolder → Nat
  | .none => 0 | .host => 1 | .scan => 2 | .camera => 3 | .calibration => 4 | .motion => 5 | .housekeeping => 6

/-- R391: the opcode that DETAIL names for a holder. -/
def TrigHolder.opcode : TrigHolder → Nat
  | .none => 0 | .host => 0x0B01 | .scan => 0x0701 | .camera => 0x0803 | .calibration => 0x0902 | .motion => 0x0A00
  | .housekeeping => 0x0D00

/-- R390: a schedule; `k` is the next firing. `made` and `missed` count its own firings. -/
structure Sched where
  t0 : Nat := 0
  ns : Nat := 0
  frac : Nat := 0
  count : Nat := 0
  k : Nat := 0
  made : Nat := 0
  missed : Nat := 0
  event : Bool := false
  deriving DecidableEq, Repr

/-- A trigger unit (R390 to R393). `saved` is the schedule of the holder it was taken from (R481). -/
structure Trigger where
  holder : TrigHolder := .none
  running : Bool := false
  sched : Sched := {}
  saved : Option (TrigHolder × Sched) := none
  pin : Nat := 0xFF
  activeLow : Bool := false
  halterHold : Bool := false
  width : Nat := 0
  active : Bool := false
  offAt : Nat := 0
  count : Nat := 0
  missed : Nat := 0
  deriving DecidableEq, Repr

/-- A capture unit (R394, R403). `level` is the accepted level of the input it watches, none until the first sample, and `run` the
samples at the other level so far (R77). -/
structure Capture where
  level : Option Bool := none
  run : Nat := 0
  armed : Bool := false
  source : Nat := 0
  index : Nat := 0
  edge : Nat := 0
  filterNs : Nat := 0
  event : Bool := false
  oneShot : Bool := false
  fifo : List (Nat × Nat) := []
  overflow : Nat := 0
  evtAt : Option Nat := none
  deriving DecidableEq, Repr

/-- A proposal held for a hitch commit (R397): member, E and the applied frame of its previous commit. -/
structure Proposal where
  member : Nat := 0
  frame : Nat := 0
  earliest : Nat := 0
  prev : Nat := 0
  deriving DecidableEq, Repr

/-- The hitch (R395 to R399, R404). `proposals` and `firstAt` are what the leader holds, `decided` the latest decisions as
frame, applied frame and number, `again` the DECIDEs to be sent again, as the time, the decision and how often, `timedOut` the frames whose commits ended under step 5 of R397. -/
structure Hitch where
  joined : Bool := false
  member : Nat := 0
  port : Nat := 0
  mask : Nat := 0
  etherType : Nat := 0x88B5
  hitchId : Nat := 0
  dest : Nat := 0x0048395A4C03
  waitUs : Nat := 500
  leadUs : Nat := 1000
  webCheck : Bool := false
  webSource : Nat := 0
  webTol : Nat := 4
  sentSeq : Nat := 0
  present : List Nat := []
  lastHello : Tab Nat := []
  devIds : Tab Nat := []
  conflict : Bool := false
  applied : Nat := 0
  seen : Nat := 0
  diverge : Nat := 0
  helloAt : Nat := 0
  proposals : List Proposal := []
  firstAt : Tab Nat := []
  decided : List (Nat × Nat × Nat) := []
  timedOut : List Nat := []
  again : List (Nat × (Nat × Nat × Nat) × Nat) := []
  sampleAt : Nat := 0
  ownSamples : List (Nat × Int) := []
  srcSamples : List (Nat × Int) := []
  base : Option (Int × Int) := none
  deriving DecidableEq, Repr

/-- The TIME block. `sub` is device time below 1 ns, in 2^-40 ns; `rates` the RATE_ADJ at the last Sync messages. -/
structure Timebase where
  now : Nat := 0
  sub : Nat := 0
  rateAdj : Int := 0
  servo : Servo := .free
  stepBlocked : Bool := false
  clockClass : Nat := 248
  stepNs : Nat := 100000
  lockNs : Nat := 100
  tauS : Nat := 8
  offset : Int := 0
  pathDelay : Int := 0
  inside : Nat := 0
  outside : Nat := 0
  rates : List Int := []
  gm : Nat := 0
  ports : Tab Port := []
  trigs : Tab Trigger := []
  caps : Tab Capture := []
  hitch : Hitch := {}
  deriving DecidableEq, Repr

end Sys2Proof.Machine
end

