-- ==== Sys2Proof/Machine/BlockWeb.lean ====
section
/-! DEFINITION. State of the position and tick unit (R76 to R105). -/

namespace Sys2Proof.Machine

/-- R76: channel modes. -/
inductive ChMode where
  | off | quadrature | hall | ssi
  deriving DecidableEq, Repr

/-- Code of a channel mode (R76). -/
def ChMode.code : ChMode → Nat
  | .off => 0 | .quadrature => 1 | .hall => 2 | .ssi => 3

/-- R99: channel roles. -/
inductive ChRole where
  | axis | webMaster | webCheck
  deriving DecidableEq, Repr

/-- Code of a channel role (R99). -/
def ChRole.code : ChRole → Nat
  | .axis => 0 | .webMaster => 1 | .webCheck => 2

/-- R89: gaits. -/
inductive Gait where
  | standstill | creep | run | overspeed | reverse
  deriving DecidableEq, Repr

/-- Code of a gait (WEB.GAIT_STAT). -/
def Gait.code : Gait → Nat
  | .standstill => 0 | .creep => 1 | .run => 2 | .overspeed => 3 | .reverse => 4

/-- An exact quotient: speeds in counts per second. The denominator is never 0 in use. -/
structure Ratio where
  num : Int := 0
  den : Nat := 1
  deriving DecidableEq, Repr

/-- One feedback channel (R76 to R87, R543). `lineA`, `lineB` and `lineZ` are the accepted levels of the inputs (acc of R77),
`runA`, `runB` and `runZ` the samples at the other level so far (run of R77); `ssiStart` is when the SSI read in progress began. -/
structure Channel where
  mode : ChMode := .off
  role : ChRole := .axis
  filterNs : Nat := 0
  invert : Bool := false
  indexEn : Bool := false
  indexLow : Bool := false
  ssiGray : Bool := false
  ssiBits : Nat := 0
  ssiClock : Nat := 0
  cpr : Nat := 0
  indexPos : Nat := 0
  idxTol : Nat := 2
  speedAvg : Nat := 2
  standstillMs : Nat := 100
  lineA : Bool := false
  lineB : Bool := false
  lineZ : Bool := false
  runA : Nat := 0
  runB : Nat := 0
  runZ : Nat := 0
  p : Int := 0
  w : Int := 0
  lastChange : Option Nat := none
  hist : List Nat := []
  nEdges : Nat := 0
  edgeSpeed : Ratio := {}
  speed : Ratio := {}
  stopped : Bool := true
  lastDir : Int := 0
  dirRev : Bool := false
  tLast : Nat := 0
  illegal : Bool := false
  overrate : Bool := false
  illegalCount : Nat := 0
  illegalPending : Nat := 0
  illegalEvt : Option Nat := none
  overrateEvt : Option Nat := none
  lastErr : Int := 0
  slips : Nat := 0
  mismatch : Bool := false
  realign : Bool := false
  missing : Bool := false
  lastIndexPos : Int := 0
  ssiWord : Option Nat := none
  ssiTime : Nat := 0
  ssiStart : Option Nat := none
  deriving DecidableEq, Repr

/-- One line-tick generator (R92 to R97, R100). `slewCmd` is the SLEW whose completion record precedes
BAR_OFFSET_REACHED, 0 when none is under way; `lp` is LP_b as HWM last advanced (R117); `slews` are the line spans in which the offset has moved (R331), the latest
last. -/
structure WebBar where
  enabled : Bool := false
  offset : Int := 0
  target : Int := 0
  slewRate : Nat := 0
  slewing : Bool := false
  slewCmd : Nat := 0
  slews : List (Int × Int) := []
  nl : Int := 0
  lp : Int := 0
  skips : Nat := 0
  tickId : Nat := 0
  phase : Nat := 0
  skipped : Bool := false
  minPeriod : Nat := 0
  lastFired : Int := 0
  lastValid : Bool := false
  deriving DecidableEq, Repr

/-- The WEB block. -/
structure Web where
  chans : Tab Channel := []
  bars : Tab WebBar := []
  master : Option Nat := none
  check : Option Nat := none
  gait : Gait := .standstill
  reverse : Bool := false
  hwm : Int := 0
  linesNum : Nat := 0
  linesDen : Nat := 1
  backlash : Nat := 8
  checkSpan : Nat := 0
  checkWindow : Nat := 0
  checkNum : Nat := 0
  checkDen : Nat := 1
  dm : Int := 0
  dc : Int := 0
  checkMismatch : Bool := false
  doubtRemain : Nat := 0
  doubtSpan : Nat := 0
  doubtOpen : Bool := false
  runMin : Nat := 1000
  runExit : Nat := 800
  slowOn : Nat := 97
  slowOff : Nat := 95
  snapshot : Tab Nat := []
  deriving DecidableEq, Repr

end Sys2Proof.Machine
end

