-- ==== Sys2Proof/Machine/State.lean ====
section
/-! DEFINITION. The whole state of the LZ9 as plain data, its stops, and the state after reset. -/

namespace Sys2Proof.Machine

/-- Why the machine stops. -/
inductive Fault where
  /-- Raised by BAR2_READ and BAR2_WRITE for an access that reaches past the exchange window: BAR2 decodes no such
  address (R39, R45). Safe: nothing is claimed of such an access. -/
  | noAddress
  deriving DecidableEq, Repr

/-- Why a command has no meaning here. -/
inductive Refusal where
  /-- Raised by the dispatcher for a command that has no meaning yet. Safe: it stops. -/
  | notModelled (mnemonic : String)
  deriving DecidableEq, Repr

/-- Everything the manual gives the LZ9. `pending` is the queue of commands, `uptime` the nanoseconds since the latest
reset, `wall` the nanoseconds that the nodes of the chains count, which no reset of the LZ9 touches, `free` the counter behind the free values, `out` what has left the chip, oldest first. -/
structure State where
  pending : List Instr := []
  uptime : Nat := 0
  wall : Nat := 0
  free : Nat := 0
  out : List Out := []
  fuse : Fuses := {}
  top : Top := {}
  cmd : Cmd := {}
  pcie : Pcie := {}
  lcs : Lcs := {}
  dram : Memory := []
  poison : Tab Bool := []
  hostMem : Memory := []
  time : Timebase := {}
  web : Web := {}
  axis : Motion := {}
  frames : Frames := {}
  prn : Prn := {}
  fire : Fire := {}
  rein : Rein := {}
  chain : Tab ChainNode := []
  tan : Tandem := {}
  thm : Thermal := {}
  cal : Calib := {}
  scan : Scan := {}
  cam : Cam := {}
  mem : Mem := {}
  deriving DecidableEq, Repr

/-- The machine right after a POWER_ON reset, in device state RESET with its pins still held. -/
def State.reset : State := {}

end Sys2Proof.Machine
end

