-- ==== Sys2Proof/Machine/Ops.lean ====
section
/-! DEFINITION. The operations every command shares: free values, events and their backlog (R58 to R60), completions
(R55 to R57), interrupts (R61, R62), device-state changes (R21), device DRAM and buffers. -/

namespace Sys2Proof.Machine

/-! ### Event sources and status codes -/

namespace Src
/-- Event sources (R58): the block codes of the opcode catalogue. -/
def top : Nat := 0x00
def sys : Nat := 0x01
def web : Nat := 0x02
def prn : Nat := 0x03
def fire : Nat := 0x04
def rein : Nat := 0x05
def lfr : Nat := 0x06
def scan : Nat := 0x07
def cam : Nat := 0x08
def cal : Nat := 0x09
def axis : Nat := 0x0A
def time : Nat := 0x0B
def mem : Nat := 0x0C
def thm : Nat := 0x0D
def tan : Nat := 0x0E
def lcs : Nat := 0x0F
end Src

namespace St
/-- Status codes (R72). -/
def ok : Nat := 0x00
def deferred : Nat := 0x01
def late : Nat := 0x02
def partialDone : Nat := 0x03
def badOpcode : Nat := 0x10
def badParam : Nat := 0x11
def wrongState : Nat := 0x12
def notFused : Nat := 0x13
def resourceBusy : Nat := 0x14
def noBandwidth : Nat := 0x15
def bufPinned : Nat := 0x16
def locked : Nat := 0x17
def timeout : Nat := 0x20
def calFailed : Nat := 0x21
def hwFault : Nat := 0x30
def aborted : Nat := 0x31
end St

namespace Rsn
/-- Parameter reasons (R72). -/
def range : Nat := 0x01
def reserved : Nat := 0x02
def align : Nat := 0x03
def handle : Nat := 0x04
def bufState : Nat := 0x05
def overlap : Nat := 0x06
def limit : Nat := 0x07
def ring : Nat := 0x08
def linebuf : Nat := 0x09
def frame : Nat := 0x0A
end Rsn

/-! ### Free values -/

/-- The free value a step reads now; `State.useFree` then advances the counter. -/
def State.freeNat (s : State) (w : Nat) : Nat := (Config.freeWord s.free).toNat % 2 ^ w

/-- Advance the counter behind the free values. -/
def State.useFree (s : State) : State := { s with free := s.free + 1 }

/-! ### Output -/

/-- Record what leaves the chip. -/
def State.emit (o : Out) (s : State) : State := { s with out := s.out ++ [o] }

/-! ### Interrupts -/

/-- R503: FAULT entered from BOOT: no firmware runs and no ring is served. -/
def State.bootFault (s : State) : Bool := s.top.dev == .fault && s.top.prev == .boot

/-- R42: the LZ9 can issue requests on the link. -/
def State.canRequest (s : State) : Bool := s.pcie.bme && s.pcie.linkUp && !s.pcie.d3hot && !s.bootFault

/-- R61: raise an MSI-X vector; one that is masked or cannot be sent sets its pending bit (PCIe's own rule). -/
def raiseMsix (v : Nat) (s : State) : State :=
  if (Tab.get {} s.pcie.msix v).ctrl % 2 = 1 ∨ s.canRequest = false then
    { s with pcie := { s.pcie with pba := Nat.lor s.pcie.pba (2 ^ v) } }
  else s.emit (.msix v)

/-! ### Record rings -/

/-- Entries of a record ring (R47). -/
def RecRing.entries (r : RecRing) : Nat := 2 ^ r.log2

/-- Unreleased records in the ring (R57). -/
def RecRing.unreleased (r : RecRing) : Nat := (r.tail + r.entries - r.head) % r.entries

/-- R57: at most entries − 1 unreleased records. -/
def RecRing.room (r : RecRing) (n : Nat) : Bool := decide (r.unreleased + n ≤ r.entries - 1)

/-- R56: the 32 bytes of a record, byte 31 bit 7 the phase. -/
def recordBytes (phase : Bool) (body : List Byte) : List Byte :=
  (body ++ List.replicate (31 - body.length) 0).take 31 ++ [if phase then 0x80 else 0x00]

/-- One entry further: the tail wraps and the phase then flips (R56). -/
def RecRing.advance (r : RecRing) (now : Nat) : RecRing :=
  { r with
    tail := (r.tail + 1) % r.entries
    phase := if r.tail + 1 < r.entries then r.phase else !r.phase
    times := r.times ++ [now] }

/-- R62: the ring's vector is due. A COALESCE_COUNT lowered to the records already there is seen at the next record (DESIGN
CHOICE, log 61). -/
def RecRing.irqDue (r : RecRing) (immediate : Bool) : Bool :=
  immediate || decide (Nat.max 1 r.coalCount ≤ r.times.length)

/-- Store bytes in host memory. -/
def hostStore (addr : Nat) (bs : List Byte) (s : State) : State :=
  { s with hostMem := s.hostMem.setBytes addr bs }

/-- Completion ring `n`. -/
def State.cplRing (s : State) (n : Nat) : RecRing := Tab.get {} s.cmd.cpl n

/-- Set completion ring `n`. -/
def State.setCpl (s : State) (n : Nat) (r : RecRing) : State :=
  { s with cmd := { s.cmd with cpl := Tab.put {} s.cmd.cpl n r } }

/-- Set the event ring. -/
def State.setEvt (s : State) (r : RecRing) : State := { s with cmd := { s.cmd with evt := r } }

/-! ### Events -/

/-- R58: the body of the first record of an event, bytes 0 to 30. -/
def EventRec.head (e : EventRec) : List Byte :=
  le 8 e.time ++ [BitVec.ofNat 8 e.source] ++ [BitVec.ofNat 8 ((e.data.length - 15 + 30) / 31)] ++
    le 2 e.code ++ le 4 e.seq ++ e.data.take 15

/-- Split the data after byte 30 into continuation records of 31 bytes. -/
def chunk31 : Nat → List Byte → List (List Byte)
  | 0, _ => []
  | n + 1, bs => if bs.isEmpty then [] else bs.take 31 :: chunk31 n (bs.drop 31)

/-- R58: the bodies of an event's records, at most 3 continuations. -/
def EventRec.bodies (e : EventRec) : List (List Byte) := e.head :: chunk31 3 (e.data.drop 15)

/-- Records an event takes. -/
def EventRec.records (e : EventRec) : Nat := e.bodies.length

/-- Records waiting in the backlog. -/
def backlogRecords (l : List EventRec) : Nat := l.foldl (fun n e => n + e.records) 0

/-- R63 item 5: the completion record this event must follow has not been written yet. -/
def State.recordWaits (s : State) (id : Nat) : Bool :=
  id != 0 && s.cmd.cpl.any fun e => e.2.waiting.any fun r => r.id == id

/-- The event ring can take this event now (R42, R57, R63). -/
def State.evtReady (s : State) (e : EventRec) : Bool :=
  s.cmd.evt.enable && s.canRequest && s.cmd.evt.room e.records && !s.recordWaits e.after

/-- R62: raise the event ring's vector if it is due. -/
def evtInterrupt (s : State) : State :=
  if s.cmd.evt.irqDue false then raiseMsix s.cmd.evt.vector (s.setEvt { s.cmd.evt with times := [] }) else s

/-- R56, R62: write one record into the event ring. -/
def writeEvtRecord (s : State) (body : List Byte) : State :=
  let r := s.cmd.evt
  evtInterrupt ((hostStore (r.base + 32 * r.tail) (recordBytes r.phase body) s).setEvt (r.advance s.uptime))

/-- Write the records of one event into the event ring, consecutively (R56, R58). -/
def writeEvent (e : EventRec) (s : State) : State := e.bodies.foldl writeEvtRecord s

/-- Frame-record code of PRN and SCAN (R127). -/
def frameRecordCode : Nat := 0x0100

/-- R60: TOP events, frame records and CPL_RING_DISABLED cannot be disabled. -/
def unmaskable (src code : Nat) : Bool :=
  src == Src.top || ((src == Src.prn || src == Src.scan) && code == frameRecordCode) ||
    (src == Src.sys && code == 0x0002)

/-- R60: the event is disabled. -/
def State.evtMasked (s : State) (src code : Nat) : Bool :=
  !unmaskable src code && s.cmd.masked.any fun m => m.1 == src && decide (m.2.1 ≤ code) && decide (code ≤ m.2.2)

/-- R59: write the event, or keep it in the backlog, or discard and count it. -/
def placeEvent (e : EventRec) (s : State) : State :=
  if s.cmd.backlog.isEmpty && s.evtReady e then writeEvent e s
  else if backlogRecords s.cmd.backlog + e.records ≤ 4096 then
    { s with cmd := { s.cmd with backlog := s.cmd.backlog ++ [e] } }
  else
    { s with cmd := { s.cmd with
        lostAll := satAdd 65535 s.cmd.lostAll 1
        lostFrame := satAdd 65535 s.cmd.lostFrame (b2n e.frame) } }

/-- R75, R503: READY is the first event after every reset: no event is raised before it. -/
def State.beforeReady (s : State) : Bool := s.top.dev == .reset || s.top.dev == .boot || s.top.dev == .tripped

/-- R58 to R60: raise an event after the completion record of command `after` and before that of command `before` (0: none). -/
def raiseBetween (after before src code : Nat) (data : List Byte) (s : State) : State :=
  if s.evtMasked src code || s.beforeReady then s
  else
    placeEvent
      { time := s.time.now, source := src, code := code, seq := s.cmd.evtSeq.toNat, data := data,
        frame := (src == Src.prn || src == Src.scan) && code == frameRecordCode, after := after, before := before }
      { s with cmd := { s.cmd with evtSeq := s.cmd.evtSeq + 1 } }

/-- R63 item 5: raise an event after the completion record of command `after` (0: none). -/
def raiseAfter (after src code : Nat) (data : List Byte) (s : State) : State := raiseBetween after 0 src code data s

/-- Raise an event (R58 to R60). -/
def raise (src code : Nat) (data : List Byte) (s : State) : State := raiseAfter 0 src code data s

/-! ### Device state -/

/-- R21, R58: change the device state; the TOP event STATE_CHANGE reports it, except into RESET and TRIPPED, and from BOOT
(R503) unless it names a block (R29, R420). `extra` are further data bytes from byte 19 on. -/
def setDevWith (new : DevState) (c : Cause) (extra : List Byte) (s : State) : State :=
  let s1 := { s with top := { s.top with dev := new, prev := s.top.dev, cause := c } }
  if new = .reset ∨ new = .tripped ∨ (s.top.dev = .boot ∧ extra = []) then s1
  else raise Src.top 0x0001
    ([BitVec.ofNat 8 s.top.dev.code, BitVec.ofNat 8 new.code, BitVec.ofNat 8 c.code] ++ extra) s1

/-- R21: change the device state. -/
def setDev (new : DevState) (c : Cause) (s : State) : State := setDevWith new c [] s

/-- R74: an ignored register write at BAR0 offset `off` is counted. -/
def regConflict (off : Nat) (s : State) : State :=
  { s with top := { s.top with conflicts := satAdd 1023 s.top.conflicts 1, lastDword := off / 4 } }

/-! ### Execution slots and descriptors -/

/-- A field of `n` bytes at byte `off` of a descriptor (R4, R53). -/
def Slot.u (d : Slot) (off n : Nat) : Nat := (d.raw.toNat / 2 ^ (8 * off)) % 2 ^ (8 * n)

/-- A signed field. -/
def Slot.i (d : Slot) (off n : Nat) : Int := signed (8 * n) (d.u off n)

/-- OPCODE (R53). -/
def Slot.opcode (d : Slot) : Nat := d.u 0 2
/-- The block byte of the opcode. -/
def Slot.block (d : Slot) : Nat := d.u 1 1
/-- FENCE (R53). -/
def Slot.fence (d : Slot) : Bool := bitAt (d.u 2 1) 1
/-- QUIET (R53). -/
def Slot.quiet (d : Slot) : Bool := bitAt (d.u 2 1) 2
/-- CPL_RING (R53). -/
def Slot.cplRing (d : Slot) : Nat := d.u 3 1
/-- SEQ (R53). -/
def Slot.seq (d : Slot) : Nat := d.u 4 4

/-- Execution slot `k`. -/
def State.slot (s : State) (k : Nat) : Slot := Tab.get {} s.cmd.slots k

/-- Set execution slot `k`. -/
def State.setSlot (s : State) (k : Nat) (d : Slot) : State :=
  { s with cmd := { s.cmd with slots := Tab.put {} s.cmd.slots k d } }

/-- The command of slot `k` is executing, not yet completed. -/
def Slot.live (d : Slot) : Bool := d.phase == .fetched || d.phase == .executing

/-- R51: commands executing (CMD.STATUS.INFLIGHT). -/
def State.inflight (s : State) : Nat := s.cmd.slots.length

/-- Command `id` still executes in slot `k`. -/
def State.running (s : State) (k id : Nat) : Bool :=
  (s.slot k).phase == .executing && (s.slot k).id == id

/-- R63: earlier command `e` of the same ring holds back `d`. -/
def holdsBack (e d : Slot) : Bool :=
  e.live && e.ring == d.ring && decide (e.id < d.id) && (e.block == d.block || d.fence)

/-- R63: command `d` can start. R63 stands for the urgent commands too: a second AXIS_STOP of ring 0 waits for the first one,
although R66 wants it in effect within 50 µs (DESIGN CHOICE, log 61). -/
def State.canStart (s : State) (d : Slot) : Bool := !s.cmd.slots.any fun e => holdsBack e.2 d

/-- R55, R57: the record of a command waits for its ring; a QUIET command that ends with ST_OK writes none and frees
its slot. -/
def completeRaw (k status detail result : Nat) (frame : Option FrameNo) (s : State) : State :=
  let d := s.slot k
  if d.quiet && status == St.ok then s.setSlot k {}
  else
    let r := s.cplRing (d.cplRing % 8)
    let rec' : CplRec :=
      { slot := k, id := d.id, seq := d.seq, opcode := d.opcode, status := status, ring := d.ring, detail := detail,
        index := d.index, frame := frame, time := s.time.now, result := result }
    (s.setCpl (d.cplRing % 8) { r with waiting := r.waiting ++ [rec'] }).setSlot k { d with phase := .done }

/-- R71: the opcodes of the catalogue. -/
def opcodeCatalogue : List (Nat × Nat) :=
  [(0x01, 9), (0x02, 5), (0x03, 7), (0x04, 5), (0x05, 4), (0x06, 4), (0x07, 4), (0x08, 5), (0x09, 4), (0x0A, 5),
   (0x0B, 4), (0x0C, 4), (0x0D, 3), (0x0E, 3), (0x0F, 4)]

/-- R71: the opcode is in the catalogue. -/
def knownOpcode (op : Nat) : Bool := opcodeCatalogue.any fun b => b.1 == op / 256 && decide (op % 256 < b.2)

/-- R65: the urgent opcodes. -/
def urgentOpcode (op : Nat) : Bool := [0x0100, 0x0104, 0x0306, 0x0A04, 0x0804].contains op

/-- A fetched command whose opcode is not in the catalogue and which can start. -/
def State.badOpcodeDue (s : State) : Option Nat :=
  (s.cmd.slots.find? fun e => e.2.phase == .fetched && !knownOpcode e.2.opcode && s.canStart e.2).map (·.1)

/-- R31 item 1: complete the fetched commands whose opcode is not in the catalogue, once R63 lets them start. -/
def sweepBad : Nat → State → State
  | 0, s => s
  | n + 1, s =>
    match s.badOpcodeDue with
    | none => s
    | some k => sweepBad n (completeRaw k St.badOpcode 0 0 none s)

/-- R55: a command completes. -/
def complete (k status detail result : Nat) (frame : Option FrameNo) (s : State) : State :=
  sweepBad s.cmd.slots.length (completeRaw k status detail result frame s)

/-- Completion with ST_OK. FRAME and FRAME_VALID are 0, also for a command that stages: its frame is not known until a commit
takes it (DESIGN CHOICE, log 61). -/
def done (k : Nat) (s : State) : State := complete k St.ok 0 0 none s

/-- Completion with ST_OK and RESULT. -/
def doneWith (k result : Nat) (s : State) : State := complete k St.ok 0 result none s

/-- Completion with ST_BAD_PARAM (R72): byte offset and reason. -/
def badParam (k off reason : Nat) (s : State) : State := complete k St.badParam (off + 256 * reason) 0 none s

/-- Completion with ST_BAD_PARAM and RESULT (R541). -/
def badImage (k off reason result : Nat) (s : State) : State :=
  complete k St.badParam (off + 256 * reason) result none s

/-- Completion with ST_WRONG_STATE where the mode plays no part (R36, R72). -/
def wrongState (k : Nat) (s : State) : State := complete k St.wrongState s.top.dev.code 0 none s

/-- Completion with ST_RESOURCE_BUSY (R72): the opcode of the holding command. -/
def resourceBusy (k opcode : Nat) (s : State) : State := complete k St.resourceBusy opcode 0 none s

/-! ### Parameter checks (R539 to R542) -/

/-- A parameter fault: byte offset and reason, or none. -/
abbrev PF := Option (Nat × Nat)

/-- R539: the fault at the lowest byte offset; among equals, the first listed. -/
def lowest : List PF → PF
  | [] => none
  | none :: t => lowest t
  | some a :: t =>
    match lowest t with
    | none => some a
    | some b => if b.1 < a.1 then some b else some a

/-- A fault with reason `rsn` unless `ok`. -/
def need (ok : Bool) (off rsn : Nat) : PF := if ok then none else some (off, rsn)

/-- The value lies from `lo` to `hi`. -/
def inR (off v lo hi : Nat) : PF := need (decide (lo ≤ v) && decide (v ≤ hi)) off Rsn.range

/-- R540: the field is reserved and must be 0. -/
def rz (off v : Nat) : PF := need (v == 0) off Rsn.reserved

/-- R540: the first non-zero reserved byte from `a` up to, not including, `b`. -/
def rzb (d : Slot) (a b : Nat) : PF :=
  ((List.range (b - a)).find? fun i => d.u (a + i) 1 != 0).map fun i => (a + i, Rsn.reserved)

/-- The first fault of a list, in the list's own order (selector fields, R539). -/
def firstOf : List PF → PF
  | [] => none
  | none :: t => firstOf t
  | some a :: _ => some a

/-- Buffer-table entry of a handle. -/
def State.buf (s : State) (h : Nat) : BufEntry := Tab.get {} s.cmd.bufs h

/-- Set a buffer-table entry. -/
def State.setBuf (s : State) (h : Nat) (b : BufEntry) : State :=
  { s with cmd := { s.cmd with bufs := Tab.put {} s.cmd.bufs h b } }

/-- R542: the handle names a buffer in state `st`. -/
def bufIs (s : State) (off h : Nat) (st : BufState) : PF :=
  if 4095 < h then some (off, Rsn.range)
  else if (s.buf h).state = .free then some (off, Rsn.handle)
  else if (s.buf h).state = st then none
  else some (off, Rsn.bufState)

/-- A span of a buffer lies inside it. -/
def bufSpan (s : State) (h off len offField : Nat) : PF := need (decide (off + len ≤ (s.buf h).size)) offField Rsn.range

/-- Bytes of a buffer. -/
def State.bufBytes (s : State) (h off n : Nat) : List Byte := s.dram.bytes ((s.buf h).base + off) n

/-! ### Missing capabilities (R32) -/

namespace Cap
/-- Missing-capability codes with the instance in bits [15:8] (R32). -/
def print : Nat := 0xFF01
def lightfield : Nat := 0xFF02
def tandem : Nat := 0xFF03
def splitLock : Nat := 0xFF04
def link (l : Nat) : Nat := 0x10 + 256 * l
def ddr (c : Nat) : Nat := 0x11 + 256 * c
def csi (p : Nat) : Nat := 0x12 + 256 * p
def axis (a : Nat) : Nat := 0x13 + 256 * a
def axisBus (b : Nat) : Nat := 0x14 + 256 * b
def i2c (b : Nat) : Nat := 0x15 + 256 * b
def mfio (m : Nat) : Nat := 0x16 + 256 * m
end Cap

/-- R33: an instance that the die has and the part lacks. -/
def absent (inDie onPart : Bool) (code : Nat) : Option Nat := if inDie && !onPart then some code else none

/-- The first missing capability of a list. -/
def firstCap : List (Option Nat) → Option Nat
  | [] => none
  | none :: t => firstCap t
  | some a :: _ => some a

/-- R34: the mode whose capability the opcode needs by its block. -/
def opMode (op : Nat) : Mode :=
  if op / 256 = 0x03 ∨ op / 256 = 0x04 ∨ (0x0201 ≤ op ∧ op ≤ 0x0203) then .print
  else if op / 256 = 0x06 ∨ (0x0700 ≤ op ∧ op ≤ 0x0702) then .lightfield
  else .none

/-- R31 item 2, R34: the block capability that is missing. -/
def State.capMissing (s : State) (op : Nat) (m : Mode) : Option Nat :=
  if m = .print && !s.fuse.part.print then some Cap.print
  else if m = .lightfield && !s.fuse.part.lightfield then some Cap.lightfield
  else if op / 256 = 0x0E && !s.fuse.part.tandem then some Cap.tandem
  else none

/-- R36: the detail of a mode refusal, if the mode does not allow the command. `m` is the mode the command needs; the
commands of R34 without a mode of their own (TAN) need some mode. -/
def State.modeRefusal (s : State) (op : Nat) (m : Mode) : Option Nat :=
  if m = .none then
    (if op / 256 = 0x0E && s.top.mode = .none then some (0x0100 + s.top.dev.code) else none)
  else if s.top.mode = .none then some (0x0100 + s.top.dev.code)
  else if s.top.mode = m then none
  else some (0x0200 + s.top.dev.code)

/-- R21, R73: the commands that run in FAULT. -/
def faultOpcode (op : Nat) : Bool := [0x0100, 0x0101, 0x0204, 0x0903, 0x0C03].contains op

/-- The shape of a command's checks (R31): the mode it needs, the instances it needs, the device states that allow it,
and its parameter check. `anyMode`: the command needs a selected mode (R310, R314). `reads` are the spans of buffers, as
handle, offset and length, from which it copies a table or an image (R413). -/
structure Checks where
  anyMode : Bool := false
  mode : Slot → State → Mode := fun d _ => opMode d.opcode
  fused : Slot → State → Option Nat := fun _ _ => none
  allowed : Slot → State → Bool := fun _ _ => true
  selector : Slot → State → PF := fun _ _ => none
  params : Slot → State → List PF := fun _ _ => []
  reads : Slot → State → List (Nat × Nat × Nat) := fun _ _ => []

/-- R9, R53: the reserved bits of FLAGS and CPL_RING. -/
def headerFaults (d : Slot) : List PF :=
  [need (d.u 2 1 < 8) 2 Rsn.reserved, need (d.u 3 1 < 8) 3 Rsn.reserved]

/-- R31: the status and detail of the first check that fails. -/
def firstFailure (c : Checks) (d : Slot) (s : State) : Option (Nat × Nat) :=
  match s.capMissing d.opcode (c.mode d s) with
  | some det => some (St.notFused, det)
  | none =>
  match c.fused d s with
  | some det => some (St.notFused, det)
  | none =>
  if c.anyMode && s.top.mode = .none then some (St.wrongState, 0x0100 + s.top.dev.code)
  else
  match s.modeRefusal d.opcode (c.mode d s) with
  | some det => some (St.wrongState, det)
  | none =>
  if s.top.dev = .fault && !faultOpcode d.opcode then some (St.wrongState, s.top.dev.code)
  else if !c.allowed d s then some (St.wrongState, s.top.dev.code)
  else if d.ring == 0 && !urgentOpcode d.opcode then some (St.badParam, 256 * Rsn.ring)
  else
  match firstOf [c.selector d s, lowest (headerFaults d ++ c.params d s)] with
  | some f => some (St.badParam, f.1 + 256 * f.2)
  | none => none

/-- The command in slot `k` is a fetched command of opcode `op` that R63 lets start. -/
def State.startable (s : State) (op k : Nat) : Bool :=
  (s.slot k).phase == .fetched && (s.slot k).opcode == op && s.canStart (s.slot k)

/-- R411, R413: a poisoned burst lies in the `n` bytes from `addr` on. -/
def State.poisoned (s : State) (addr n : Nat) : Bool :=
  s.poison.any fun e => decide (64 * e.1 < addr + n) && decide (addr < 64 * e.1 + 64)

/-- Run a command of the catalogue from its slot: checks (R31), then its effect. A slot that does not hold such a
command ready to start is left alone (log 5). -/
def runCmd (op k : Nat) (c : Checks) (body : Nat → Slot → State → State) (s : State) :
    Host.Outcome State Fault Refusal :=
  if s.startable op k then
    let d := s.slot k
    let s1 := s.setSlot k { d with phase := .executing }
    match firstFailure c d s with
    | some (st, det) => .next (complete k st det 0 none s1)
    | none =>
      if (c.reads d s).any fun r => s.poisoned ((s.buf r.1).base + r.2.1) r.2.2 then
        .next (complete k St.hwFault 0x0C01 0 none s1)
      else .next (body k d s1)
  else .next s

/-! ### Integer roots -/

/-- The integer square root of `n`, from bit `b` downward, above `r`. -/
def sqrtFrom (n : Nat) : Nat → Nat → Nat
  | 0, r => if (r + 1) * (r + 1) ≤ n then r + 1 else r
  | b + 1, r => sqrtFrom n b (if (r + 2 ^ (b + 1)) * (r + 2 ^ (b + 1)) ≤ n then r + 2 ^ (b + 1) else r)

/-- The integer square root. -/
def isqrt (n : Nat) : Nat := sqrtFrom n (n.log2 / 2 + 1) 0

/-! ### Device DRAM -/

/-- Size of the exchange window (R45, R504). -/
def State.windowSize (s : State) : Nat := s.lcs.inForce.windowGib * 2 ^ 30

/-- R411: store bytes in device DRAM; only a write of a whole burst ends its poison. -/
def dramStore (addr : Nat) (bs : List Byte) (s : State) : State :=
  { s with dram := s.dram.setBytes addr bs
           poison := s.poison.filter fun e => !(decide (addr ≤ 64 * e.1) && decide (64 * e.1 + 64 ≤ addr + bs.length)) }

/-- R411: a burst becomes poisoned. -/
def poisonBurst (burst : Nat) (s : State) : State := { s with poison := Tab.put false s.poison burst true }

end Sys2Proof.Machine
end

