-- ==== Sys2Proof/Machine/AxisPlan.lean ====
section
/-! DEFINITION. Jerk-limited profiles (R352, R360, R361, R363). Within a path every value at a whole nanosecond is exact;
switching instants are whole nanoseconds and a leg ends exactly at its target (DESIGN CHOICE, log 30). -/

namespace Sys2Proof.Machine

/-- The scale of positions, velocities and accelerations (`Motn`). -/
def xScale : Int := 6 * 10 ^ 27
/-- The scale of velocities. -/
def vScale : Int := 2 * 10 ^ 18
/-- The scale of accelerations. -/
def aScale : Int := 10 ^ 9

/-- A path at rest. -/
def Motn.atRest (p : Int) : Motn := { x := p * xScale }

/-- The position, rounded down. -/
def Motn.pos (m : Motn) : Int := Int.fdiv m.x xScale

/-- The path after `t` ns at jerk `j`. -/
def Motn.after (m : Motn) (j : Int) (t : Nat) : Motn :=
  let n := Int.ofNat t
  { x := m.x + 3 * m.v * n + 3 * m.a * n * n + j * n * n * n
    v := m.v + 2 * m.a * n + j * n * n
    a := m.a + j * n }

/-- The path after some segments. -/
def Motn.through (m : Motn) (l : List Seg) : Motn := l.foldl (fun a s => a.after s.jerk s.ns) m

/-- Follow legs for `t` ns: the path and what is left of the legs. `n` bounds the segments and legs passed. -/
def follow : Nat → Nat → Motn → List Leg → Motn × List Leg
  | 0, _, m, ls => (m, ls)
  | _ + 1, _, m, [] => (m, [])
  | n + 1, t, m, l :: ls =>
    match l.segs with
    | [] => follow n t (Motn.atRest l.stop) ls
    | s :: ss =>
      if s.ns ≤ t then follow n (t - s.ns) (m.after s.jerk s.ns) ({ l with segs := ss } :: ls)
      else (m.after s.jerk t, { l with segs := { s with ns := s.ns - t } :: ss } :: ls)

/-- Parts of legs, as a bound for `follow`. -/
def legParts (ls : List Leg) : Nat := ls.foldl (fun a l => a + l.segs.length + 2) 1

/-- Limits of a move in the scales of `Motn`: speed, acceleration, deceleration and jerk. -/
structure Limits where
  v : Int
  a : Int
  d : Int
  j : Int
  deriving DecidableEq, Repr

/-- Whole nanoseconds, never negative. -/
def nsOf (i : Int) : Nat := i.toNat

/-- R360: the time-optimal change from (v, a) to (vf, 0) with acceleration at most `lim`. -/
def ramp (m : Motn) (vf lim j : Int) : List Seg :=
  let dv := vf - m.v
  let s : Int := if 0 ≤ dv * j - m.a * Int.ofNat m.a.natAbs then 1 else -1
  let sa := s * m.a
  if lim < sa then
    [{ jerk := -s * j, ns := nsOf ((sa - lim) / j) }, { jerk := 0, ns := nsOf ((s * dv - m.a * m.a / j) / (2 * lim)) },
     { jerk := -s * j, ns := nsOf (lim / j) }]
  else
    let ap := Int.ofNat (isqrt ((j * s * dv + m.a * m.a) / 2).toNat)
    if ap ≤ lim then [{ jerk := s * j, ns := nsOf ((ap - sa) / j) }, { jerk := -s * j, ns := nsOf (ap / j) }]
    else
      [{ jerk := s * j, ns := nsOf ((lim - sa) / j) },
       { jerk := 0, ns := nsOf ((s * dv * j - (2 * lim * lim - m.a * m.a)) / (2 * j * lim)) },
       { jerk := -s * j, ns := nsOf (lim / j) }]

/-- R360: up to peak speed `vp` and down to rest, in the direction of the move, from a path whose position is 0. -/
def upDown (m : Motn) (vp : Int) (l : Limits) : List Seg × List Seg × Int :=
  let up := ramp m vp (if m.v ≤ vp then l.a else l.d) l.j
  let top : Motn := { v := vp }
  let down := ramp top 0 l.d l.j
  (up, down, (m.through up).x + (top.through down).x)

/-- R360: halve the range of the peak speed `n` times. -/
def findPeak (m : Motn) (dist : Int) (l : Limits) : Nat → Int → Int → Int
  | 0, lo, _ => lo
  | n + 1, lo, hi =>
    let mid := (lo + hi) / 2
    if (upDown m mid l).2.2 ≤ dist then findPeak m dist l n mid hi else findPeak m dist l n lo mid

/-- R360: the segments from a path whose position is 0 to rest at `dist` ahead. -/
def planAhead (m : Motn) (dist : Int) (l : Limits) : List Seg :=
  let vp := if (upDown m l.v l).2.2 ≤ dist then l.v else findPeak m dist l 96 0 l.v
  let u := upDown m vp l
  let cruise : Seg := { ns := if vp ≤ 0 then 0 else nsOf ((dist - u.2.2) / (3 * vp)) }
  (u.1 ++ [cruise] ++ u.2.1).filter fun s => s.ns != 0

/-- A path seen in direction `dir`, from position 0. -/
def Motn.along (m : Motn) (dir : Int) : Motn := { v := dir * m.v, a := dir * m.a }

/-- Segments turned back from direction `dir`. -/
def turn (dir : Int) (l : List Seg) : List Seg := l.map fun s => { s with jerk := dir * s.jerk }

/-- The direction of motion: of the velocity, or of the acceleration at rest. -/
def Motn.dir (m : Motn) : Int := if m.v < 0 ∨ (m.v = 0 ∧ m.a < 0) then -1 else 1

/-- The path moves. -/
def Motn.moves (m : Motn) : Bool := m.v != 0 || m.a != 0

/-- A stop with a deceleration and a jerk: the leg that ends at rest where the profile ends. -/
def stopLeg (m : Motn) (d j : Int) : Leg :=
  let segs := turn m.dir (ramp (m.along m.dir) 0 d j)
  { segs := segs, stop := (m.through segs).pos }

/-- R360: the leg from a path to a target. -/
def legTo (m : Motn) (target : Int) (l : Limits) : Leg :=
  let d : Int := if m.moves then m.dir else if target * xScale < m.x then -1 else 1
  { segs := turn d (planAhead (m.along d) (d * (target * xScale - m.x)) l), stop := target }

/-- R361: the legs of a move to a target, and its flags REPLANNED and REVERSED. -/
def planMove (m : Motn) (target : Int) (l : Limits) : List Leg × Nat :=
  if !m.moves then ([legTo m target l], 0)
  else
    let st := stopLeg m l.d l.j
    let rest := (m.through st.segs).x
    if m.dir * rest < m.dir * (target * xScale) then ([legTo m target l], 1)
    else if st.stop = target then ([st], 1)
    else ([st, legTo (Motn.atRest st.stop) target l], 3)

/-- R368: a search at a constant speed (signed), without end. -/
def jogLeg (m : Motn) (v : Int) (l : Limits) : Leg :=
  let d : Int := if v < 0 then -1 else 1
  let lim := if (m.along d).v ≤ d * v then l.a else l.d
  { segs := turn d (ramp (m.along d) (d * v) lim l.j) ++ [{ ns := 10 ^ 18 }], stop := m.pos }

/-- Limits of an axis from AU units. -/
def limitsOf (v a d j : Nat) : Limits :=
  { v := Int.ofNat v * 65536 * vScale, a := Int.ofNat a * 65536 * aScale, d := Int.ofNat d * 65536 * aScale
    j := Int.ofNat j * 65536 }

/-- The least of a list above 0. -/
def leastOf (l : List Nat) : Nat := match l with
  | [] => 1
  | a :: t => Nat.max 1 (t.foldl Nat.min a)

/-- R363: limits of the path parameter, in units of 2^-48; `axes` are limits (AU) with distances (2^-16 AU). -/
def groupLimits (axes : List (Nat × Nat × Nat × Nat × Int)) : Limits :=
  let moving := axes.filter fun e => e.2.2.2.2 != 0
  let per := fun (f : Nat × Nat × Nat × Nat × Int → Nat) => leastOf (moving.map fun e => f e * 65536 * 2 ^ 48 / e.2.2.2.2.natAbs)
  { v := Int.ofNat (per (·.1)) * vScale, a := Int.ofNat (per (·.2.1)) * aScale, d := Int.ofNat (per (·.2.2.1)) * aScale
    j := Int.ofNat (per (·.2.2.2.1)) }

end Sys2Proof.Machine
end

