-- ==== Sys2Proof/Machine/WebCore.lean ====
section
/-! DEFINITION. Position, speed, gait and doubt of the position and tick unit (R77 to R104), without the ticks. -/

namespace Sys2Proof.Machine

/-! ### Access -/

/-- Feedback channel `n`. -/
def State.chan (s : State) (n : Nat) : Channel := Tab.get {} s.web.chans n

/-- Set feedback channel `n`. -/
def State.setChan (s : State) (n : Nat) (c : Channel) : State :=
  { s with web := { s.web with chans := Tab.put {} s.web.chans n c } }

/-- Line-tick generator of bar `b`. -/
def State.webBar (s : State) (b : Nat) : WebBar := Tab.get {} s.web.bars b

/-- Set the line-tick generator of bar `b`. -/
def State.setWebBar (s : State) (b : Nat) (x : WebBar) : State :=
  { s with web := { s.web with bars := Tab.put {} s.web.bars b x } }

/-- Change the WEB block. -/
def State.withWeb (s : State) (f : Web → Web) : State := { s with web := f s.web }

/-- A value as a 64-bit two's complement count (R5). -/
def w64 (i : Int) : Int := signed 64 (unsigned 64 i)

/-- The bars 0 to 15. -/
def allBars : List Nat := List.range 16

/-- The web master's channel, if one is assigned. -/
def State.masterChan (s : State) : Option Channel := s.web.master.map s.chan

/-- The web position: P of the web master (R82), 0 without one. -/
def State.webPos (s : State) : Int := (s.masterChan.map (·.p)).getD 0

/-! ### Speed (R87) -/

/-- Compare two ratios. -/
def Ratio.lt (a b : Ratio) : Bool := decide (a.num * Int.ofNat b.den < b.num * Int.ofNat a.den)

/-- The lesser of the magnitude of `a` and `b`, with the sign of `a`. -/
def Ratio.bound (a b : Ratio) : Ratio :=
  if Ratio.lt b { num := Int.ofNat a.num.natAbs, den := a.den } then
    { num := if a.num < 0 then -b.num else b.num, den := b.den }
  else a

/-- A ratio times 16, truncated toward zero, as the speed registers hold it (R105). -/
def Ratio.x16 (a : Ratio) : Int := Int.tdiv (a.num * 16) (Int.ofNat a.den)

/-- R87: on a count change at edge time `t` in direction `d`. -/
def Channel.edge (c : Channel) (t : Nat) (d : Int) : Channel :=
  if c.stopped || c.lastDir != d then
    { c with lastDir := d, stopped := false, nEdges := 1, hist := [t], edgeSpeed := {}, tLast := t }
  else
    let n := Nat.min c.nEdges (2 ^ c.speedAvg)
    let h := (t :: c.hist).take 65
    let span := t - h.getD n t
    { c with
      hist := h
      edgeSpeed := { num := d * Int.ofNat (n * 10 ^ 9), den := Nat.max 1 span }
      nEdges := Nat.min (c.nEdges + 1) 64
      tLast := t }

/-- R87: the reported speed at `now`. -/
def Channel.speedAt (c : Channel) (now : Nat) : Channel :=
  if c.tLast + c.standstillMs * 10 ^ 6 ≤ now then { c with stopped := true, speed := {} }
  else
    let dt := now - c.tLast
    if dt = 0 then { c with speed := c.edgeSpeed }
    else { c with speed := Ratio.bound c.edgeSpeed { num := 10 ^ 9, den := dt } }

/-- R83: W counts with P and wraps at CPR. -/
def Channel.count (c : Channel) (d : Int) : Channel :=
  { c with
    p := w64 (c.p + d)
    w := if c.cpr = 0 || c.mode != .quadrature then c.w else (c.w + d) % Int.ofNat c.cpr
    dirRev := decide (d < 0) }

/-! ### Line rate and gait (R87, R89, R91, R96) -/

/-- The web line rate: speed × LINES_NUM / LINES_DEN (R87). -/
def State.lineRate (s : State) : Ratio :=
  match s.masterChan with
  | none => {}
  | some c => { num := c.speed.num * Int.ofNat s.web.linesNum, den := c.speed.den * Nat.max 1 s.web.linesDen }

/-- R96: WEB.MAX_LINE_RATE, 10^9 over the largest BAR_MIN_PERIOD of the enabled bars, rounded to nearest. -/
def State.maxLineRate (s : State) : Nat :=
  let m := allBars.foldl (fun a b => if (s.webBar b).enabled then Nat.max a (s.webBar b).minPeriod else a) 0
  if m = 0 then 0 else (2 * 10 ^ 9 + m) / (2 * m)

/-- `r × k ≥ v` for an exact rate. -/
def Ratio.geScaled (r : Ratio) (k v : Nat) : Bool := decide (Int.ofNat (v * r.den) ≤ r.num * Int.ofNat k)

/-- R89: the gait the present motion selects. -/
def State.gaitNow (s : State) : Gait :=
  let rate := s.lineRate
  let mx := s.maxLineRate
  if s.web.reverse then .reverse
  else if rate.num ≤ 0 then .standstill
  else if decide (0 < mx) && (rate.geScaled 100 (s.web.slowOn * mx) ||
      (s.web.gait == .overspeed && rate.geScaled 100 (s.web.slowOff * mx))) then .overspeed
  else if rate.geScaled 1 s.web.runMin ||
      ((s.web.gait == .run || s.web.gait == .overspeed) && rate.geScaled 1 s.web.runExit) then .run
  else .creep

/-- R97: last_valid is cleared on every bar. -/
def clearLastValid (s : State) : State :=
  { s with web := { s.web with bars := Tab.mapv {} (fun _ b => { b with lastValid := false }) s.web.bars } }

/-- R89, R97, R104: evaluate the gait; a change raises GAIT_CHANGE. -/
def evalGait (s : State) : State :=
  let g := s.gaitNow
  if g = s.web.gait then s
  else
    let s1 := s.withWeb fun w => { w with gait := g }
    let s2 := if g = .standstill ∨ g = .reverse then clearLastValid s1 else s1
    raise Src.web 0x0001 (le 1 s.web.gait.code ++ le 1 g.code ++ le 8 (unsigned 64 s.web.hwm)) s2

/-! ### Registration doubt (R98) -/

/-- R98: causes of a doubt. -/
inductive Doubt where
  | illegal | overrate | indexMismatch | indexMissing | checkMismatch | hitchCheck
  deriving DecidableEq, Repr

/-- Code of a doubt's cause (R104). -/
def Doubt.code : Doubt → Nat
  | .illegal => 1 | .overrate => 2 | .indexMismatch => 3 | .indexMissing => 4 | .checkMismatch => 5 | .hitchCheck => 6

/-- R98: REG_DOUBT ended, with its cause. -/
def endDoubt (cause : Nat) (s : State) : State :=
  if s.web.doubtOpen then
    raise Src.web 0x0008 (le 1 0 ++ le 1 cause) (s.withWeb fun w => { w with doubtOpen := false })
  else s

/-- R98: a cause sets the doubt counter to DOUBT_SPAN. -/
def startDoubt (c : Doubt) (s : State) : State :=
  let s0 := if s.web.doubtRemain = 0 then endDoubt 0x00 s else s
  let s1 := s0.withWeb fun w => { w with doubtRemain := w.doubtSpan }
  if s.web.doubtRemain = 0 && decide (0 < s.web.doubtSpan) then
    raise Src.web 0x0008 (le 1 1 ++ le 1 c.code) (s1.withWeb fun w => { w with doubtOpen := true })
  else s1

/-- Rounded-up quotient. -/
def ceilDiv (a b : Nat) : Nat := (a + b - 1) / b

/-- R98: DOUBT_SPAN from the offsets and targets of the enabled bars. -/
def State.doubtSpanOf (s : State) : Nat :=
  let vals := allBars.flatMap fun b => if (s.webBar b).enabled then [(s.webBar b).offset, (s.webBar b).target] else []
  match vals with
  | [] => ceilDiv s.web.linesDen (Nat.max 1 s.web.linesNum)
  | v :: vs =>
    let e := (vs.foldl max v - vs.foldl min v).toNat
    ceilDiv ((e + 256) * s.web.linesDen) (256 * Nat.max 1 s.web.linesNum)

/-- R98: recompute DOUBT_SPAN; a running counter is unchanged. -/
def recomputeSpan (s : State) : State := s.withWeb fun w => { w with doubtSpan := s.doubtSpanOf }

/-! ### Line position (R92) -/

/-- R92: WLP, the exact line position of HWM in 1/256 line. -/
def State.wlp (s : State) : Int :=
  Int.fdiv (s.web.hwm * Int.ofNat (s.web.linesNum * 256)) (Int.ofNat (Nat.max 1 s.web.linesDen))

/-- R92: LP of a bar. -/
def State.lpOf (s : State) (b : Nat) : Int := w64 (s.wlp + (s.webBar b).offset)

/-- R92: NL is set to floor(LP / 256) + 1. A line position that has fallen leaves no cutoff passed (R117). -/
def resetNl (b : Nat) (s : State) : State :=
  let x := s.webBar b
  s.setWebBar b { x with lp := min x.lp (s.lpOf b), nl := Int.fdiv (s.lpOf b) 256 + 1 }

/-- R92: every NL. -/
def resetAllNl (s : State) : State := allBars.foldl (fun st b => resetNl b st) s

/-! ### Once per millisecond (R104) -/

/-- A rate limiter: a millisecond has passed since the latest event. -/
def msPassed (last : Option Nat) (now : Nat) : Bool :=
  match last with
  | none => true
  | some t => decide (t + 10 ^ 6 ≤ now)

/-- R78, R98, R104: an illegal transition of channel `n`. -/
def illegalEdge (n : Nat) (s : State) : State :=
  let c := s.chan n
  let c1 := { c with illegal := true, illegalCount := satAdd 65535 c.illegalCount 1, illegalPending := c.illegalPending + 1 }
  let s1 := if s.web.master = some n then startDoubt .illegal (s.setChan n c1) else s.setChan n c1
  if msPassed c.illegalEvt s.uptime then
    raise Src.web 0x0005 (le 1 n ++ le 2 c1.illegalPending)
      (s1.setChan n { c1 with illegalPending := 0, illegalEvt := some s.uptime })
  else s1

/-- R79, R98, R104: note an accepted change at edge time `t`; two fewer than 40 ns apart set OVERRATE. -/
def noteChange (n t : Nat) (s : State) : State :=
  let c := s.chan n
  let fast := match c.lastChange with
    | none => false
    | some u => decide (t < u + 40)
  let c1 := { c with lastChange := some t, overrate := c.overrate || fast }
  if !fast then s.setChan n c1
  else
    let s1 := if s.web.master = some n then startDoubt .overrate (s.setChan n c1) else s.setChan n c1
    if msPassed c.overrateEvt s.uptime then
      raise Src.web 0x0006 (le 1 n) (s1.setChan n { c1 with overrateEvt := some s.uptime })
    else s1

/-! ### WEB commands without ticks -/

/-- Read an unsigned 16-bit flag image. -/
def webFlags (d : Slot) : Nat := d.u 12 1

/-- R99: parameter selectors of WEB_CONFIG. -/
def webConfigSel (d : Slot) : PF := firstOf [need (d.u 9 1 ≤ 3) 9 Rsn.range, need (d.u 10 1 ≤ 2) 10 Rsn.range]

/-- R85: the role asked for breaks the rule of one master and one check. -/
def State.roleConflict (s : State) (ch role mode : Nat) : Bool :=
  (role != 0 && mode != 1) ||
  (role == 1 && (s.web.master.any fun m => m != ch)) ||
  (role == 2 && ((s.web.check.any fun m => m != ch) || s.web.master.isNone || s.web.master == some ch)) ||
  (role != 1 && s.web.master == some ch && s.web.check.isSome)

/-- A field that is reserved unless `used`, and then lies from `lo` to `hi` (R539, R540). -/
def fieldIf (used : Bool) (off v lo hi : Nat) : PF := if used then inR off v lo hi else rz off v

/-- R99: parameters of WEB_CONFIG. -/
def webConfigParams (d : Slot) (s : State) : List PF :=
  let ch := d.u 8 1
  let mode := d.u 9 1
  let role := d.u 10 1
  let dflt := bitAt (webFlags d) 4
  let cpr := d.u 16 4
  let num := d.u 28 2
  let den := d.u 30 2
  [inR 8 ch 0 7,
   need (!s.roleConflict ch role mode) 10 Rsn.range,
   need (webFlags d < 32) 12 Rsn.reserved,
   fieldIf (mode == 3) 13 (d.u 13 1) 8 32,
   fieldIf (mode == 3) 14 (d.u 14 2) 100 10000,
   if cpr = 0 then rz 20 (d.u 20 4) else inR 20 (d.u 20 4) 0 (cpr - 1),
   fieldIf (!dflt) 24 (d.u 24 2) 0 1000,
   fieldIf (role == 1 && !dflt) 26 (d.u 26 2) 0 65535,
   if role = 1 then
     need (1 ≤ num && 1 ≤ den && 3 * num ≤ 2 * den && den ≤ 256 * num) 28 Rsn.range
   else rz 28 num,
   if role = 1 then none else rz 30 den,
   fieldIf (role == 2 && !dflt) 32 (d.u 32 4) 1000 (10 ^ 9),
   fieldIf (role == 2 && !dflt) 36 (d.u 36 2) 1 65535,
   fieldIf (role == 2) 38 (d.u 38 2) 1 65535,
   fieldIf (role == 2) 40 (d.u 40 2) 1 65535,
   fieldIf (!dflt) 42 (d.u 42 1) 0 6,
   rzb d 43 44,
   fieldIf (!dflt) 44 (d.u 44 2) 1 10000,
   rzb d 46 64]

/-- R76: a mode from its code. -/
def ChMode.ofCode : Nat → ChMode
  | 1 => .quadrature | 2 => .hall | 3 => .ssi | _ => .off

/-- R99: a role from its code. -/
def ChRole.ofCode : Nat → ChRole
  | 1 => .webMaster | 2 => .webCheck | _ => .axis

/-- R99, R543: the channel after WEB_CONFIG. A CPR of 0 leaves W as it is, and the previous SSI word stays also where SSI_BITS or the
mode changes (DESIGN CHOICE, log 62). -/
def Channel.configure (c : Channel) (d : Slot) : Channel :=
  let dflt := bitAt (webFlags d) 4
  let cpr := d.u 16 4
  let c1 := { c with
    mode := ChMode.ofCode (d.u 9 1), role := ChRole.ofCode (d.u 10 1), filterNs := d.u 11 1
    invert := bitAt (webFlags d) 0, indexEn := bitAt (webFlags d) 1, indexLow := bitAt (webFlags d) 2
    ssiGray := bitAt (webFlags d) 3, ssiBits := d.u 13 1, ssiClock := d.u 14 2, ssiStart := none
    runA := 0, runB := 0, runZ := 0
    cpr := cpr, indexPos := d.u 20 4
    idxTol := if dflt then 2 else d.u 24 2
    speedAvg := if dflt then 2 else d.u 42 1
    standstillMs := if dflt then 100 else d.u 44 2 }
  if c1.mode = .quadrature then
    { c1 with
      mismatch := false, realign := false, missing := false, lastErr := 0, lastIndexPos := c1.p
      w := if cpr ≠ c.cpr ∧ cpr ≠ 0 then c1.p % Int.ofNat cpr else c1.w }
  else c1

/-- R85, R88, R92, R99: the roles after WEB_CONFIG. One that names the present web master assigns it anew (DESIGN CHOICE, log 62). -/
def applyRole (ch : Nat) (d : Slot) (s : State) : State :=
  let role := d.u 10 1
  let dflt := bitAt (webFlags d) 4
  let w0 := s.web
  let w1 := { w0 with
    master := if role = 1 then some ch else if w0.master = some ch then none else w0.master
    check := if role = 2 then some ch else if w0.check = some ch then none else w0.check }
  let w2 := if role = 1 then
      { w1 with backlash := if dflt then 8 else d.u 26 2, linesNum := d.u 28 2, linesDen := d.u 30 2
                hwm := (s.chan ch).p, reverse := false, dm := 0, dc := 0 }
    else w1
  let mcpr := (w2.master.map fun m => (s.chan m).cpr).getD 0
  let span := if dflt then (if mcpr = 0 then 40000 else mcpr) else d.u 32 4
  let w3 := if role = 2 then
      { w2 with checkSpan := span, checkWindow := if dflt then ceilDiv span 1000 else d.u 36 2
                checkNum := d.u 38 2, checkDen := d.u 40 2, dm := 0, dc := 0, checkMismatch := false }
    else w2
  let s1 := { s with web := w3 }
  if role = 1 then recomputeSpan (resetAllNl s1) else s1

/-- R480: an enabled axis reads channel `ch`. -/
def State.axisReads (s : State) (ch : Nat) : Bool :=
  s.axis.axes.any fun e => e.2.enabled && e.2.cfg.feedback == 1 && e.2.cfg.fbCh == ch

/-- Checks of WEB_CONFIG (R34, R99). -/
def webConfigChecks : Checks where
  mode := fun d _ => if d.u 10 1 = 1 ∨ d.u 10 1 = 2 then .print else .none
  allowed := fun d s =>
    !(s.top.dev == .run && (d.u 10 1 == 1 || d.u 10 1 == 2 || s.web.master == some (d.u 8 1) || s.web.check == some (d.u 8 1)))
  selector := fun d _ => webConfigSel d
  params := webConfigParams

/-- WEB_CONFIG (R99, R478, R480, R543). -/
def execWebConfig (slot : Nat) (s : State) : Host.Outcome State Fault Refusal :=
  runCmd 0x0200 slot webConfigChecks (fun k d st =>
    let ch := d.u 8 1
    let c := st.chan ch
    if st.axisReads ch && (c.mode.code != d.u 9 1 || c.role.code != d.u 10 1) then resourceBusy k 0x0A00 st
    else done k (evalGait (applyRole ch d (st.setChan ch (c.configure d))))) s

/-- Checks of WEB_BAR_OFFSET (R100). -/
def webBarOffsetChecks : Checks where
  selector := fun d _ => inR 9 (d.u 9 1) 1 2
  allowed := fun d s => !(d.u 9 1 == 1 && s.top.dev == .run)
  params := fun d _ =>
    [inR 8 (d.u 8 1) 0 15, fieldIf (d.u 9 1 == 2) 10 (d.u 10 1) 1 64, rzb d 11 12, rzb d 16 64]

/-- WEB_BAR_OFFSET (R94, R98, R100). -/
def execWebBarOffset (slot : Nat) (s : State) : Host.Outcome State Fault Refusal :=
  runCmd 0x0201 slot webBarOffsetChecks (fun k d st =>
    let b := d.u 8 1
    let x := st.webBar b
    let o := d.i 12 4
    if d.u 9 1 = 1 then
      let s1 := st.setWebBar b { x with offset := o, target := o, slewing := false, slewCmd := 0 }
      let s2 := s1.setWebBar b { s1.webBar b with lp := s1.lpOf b }
      doneWith k (unsigned 32 o) (recomputeSpan s2)
    else
      let s1 := recomputeSpan (st.setWebBar b
        { x with target := o, slewRate := d.u 10 1, slewing := decide (x.offset ≠ o), slewCmd := d.id })
      let s2 := doneWith k (unsigned 32 x.offset) s1
      if x.offset = o then raiseAfter d.id Src.web 0x0007 (le 1 b ++ le 4 (unsigned 32 o)) s2 else s2) s

/-- Checks of WEB_LIMITS (R101). -/
def webLimitsChecks : Checks where
  params := fun d _ =>
    [inR 8 (d.u 8 4) 1 (10 ^ 6), need (d.u 12 4 < d.u 8 4) 12 Rsn.range, inR 16 (d.u 16 1) 50 99,
     need (40 ≤ d.u 17 1 && d.u 17 1 < d.u 16 1) 17 Rsn.range, rzb d 20 64]

/-- R92, R97, R101: enable or disable the line-tick generator of bar `b`. -/
def enableBar (mask b : Nat) (s : State) : State :=
  let x := s.webBar b
  let on := bitAt mask b
  if on && !x.enabled then resetNl b (s.setWebBar b { x with enabled := true, lastValid := false })
  else s.setWebBar b { x with enabled := on }

/-- WEB_LIMITS (R89, R96, R98, R101). -/
def execWebLimits (slot : Nat) (s : State) : Host.Outcome State Fault Refusal :=
  runCmd 0x0202 slot webLimitsChecks (fun k d st =>
    let s1 := st.withWeb fun w =>
      { w with runMin := d.u 8 4, runExit := d.u 12 4, slowOn := d.u 16 1, slowOff := d.u 17 1 }
    let s2 := allBars.foldl (fun x b => enableBar (d.u 18 2) b x) s1
    done k (evalGait (recomputeSpan s2))) s

/-- Checks of WEB_REREFERENCE (R102). -/
def webRereferenceChecks : Checks where
  selector := fun d s => firstOf [inR 8 (d.u 8 1) 1 2, need s.web.master.isSome 8 Rsn.range]
  allowed := fun d s => !(d.u 8 1 == 1 && s.top.dev == .run)
  params := fun d _ => [rzb d 9 16, if d.u 8 1 = 2 then rz 16 (d.u 16 8) else none, rzb d 24 64]

/-- R102, R543: set P of the web master and HWM to a position. -/
def setPosition (m : Nat) (pos : Int) (s : State) : State :=
  let c := s.chan m
  let s1 := s.setChan m { c with p := pos, lastIndexPos := w64 (c.lastIndexPos + (pos - c.p)) }
  let s2 := s1.withWeb fun w => { w with hwm := pos, reverse := false, doubtRemain := 0 }
  evalGait (resetAllNl (clearLastValid (endDoubt (if s.web.doubtRemain = 0 then 0x00 else 0x07) s2)))

/-- WEB_REREFERENCE (R102, R543). -/
def execWebRereference (slot : Nat) (s : State) : Host.Outcome State Fault Refusal :=
  runCmd 0x0203 slot webRereferenceChecks (fun k d st =>
    match st.web.master with
    | none => badParam k 8 Rsn.range st
    | some m =>
      if d.u 8 1 = 1 then done k (setPosition m (d.i 16 8) st)
      else done k (st.setChan m { st.chan m with realign := true })) s

/-! ### Index, check span and timed evaluations -/

/-- R83: the index error, brought into the range of half a turn. -/
def Channel.indexErr (c : Channel) : Int :=
  let h := Int.ofNat (c.cpr / 2)
  let e := c.w - Int.ofNat c.indexPos
  let e1 := if h ≤ e then e - Int.ofNat c.cpr else e
  if e1 < -h then e1 + Int.ofNat c.cpr else e1

/-- R83: the channel after an index event with error `e`. -/
def Channel.index (c : Channel) (e : Int) : Channel :=
  let c1 :=
    if c.realign then { c with w := Int.ofNat c.indexPos, realign := false, mismatch := false }
    else if e.natAbs ≤ c.idxTol then
      { c with slips := if e = 0 then c.slips else satAdd 65535 c.slips 1, w := Int.ofNat c.indexPos, mismatch := false }
    else { c with mismatch := true }
  { c1 with lastErr := e, lastIndexPos := c.p, missing := false }

/-- R83: this index event raises INDEX_MISMATCH. -/
def Channel.indexNews (c : Channel) (e : Int) : Bool :=
  !c.realign && decide (c.idxTol < e.natAbs) && (!c.mismatch || decide (c.idxTol < (e - c.lastErr).natAbs))

/-- R83, R98, R104: an index event of channel `n`. -/
def indexEvent (n : Nat) (s : State) : State :=
  let c := s.chan n
  let e := c.indexErr
  let s1 := s.setChan n (c.index e)
  if c.indexNews e then
    let s2 := raise Src.web 0x0002 (le 1 n ++ le 4 (unsigned 32 e) ++ le 8 (unsigned 64 c.p)) s1
    if s.web.master = some n then startDoubt .indexMismatch s2 else s2
  else s1

/-- R83: the channel checks its index. -/
def Channel.indexed (c : Channel) : Bool := c.mode == .quadrature && c.indexEn && decide (0 < c.cpr)

/-- INDEX_MISSING (R84, R104). -/
def execIndexMissing (ch : Nat) (s : State) : Host.Outcome State Fault Refusal :=
  let c := s.chan ch
  if c.indexed && !c.missing && decide (3 * c.cpr ≤ 2 * (c.p - c.lastIndexPos).natAbs) then
    let s1 := raise Src.web 0x0003 (le 1 ch ++ le 8 (unsigned 64 c.p)) (s.setChan ch { c with missing := true })
    .next (if s.web.master = some ch then startDoubt .indexMissing s1 else s1)
  else .next s

/-- WEB_CHECK_SPAN (R86, R104). -/
def execWebCheckSpan (s : State) : Host.Outcome State Fault Refusal :=
  if s.web.check.isSome && s.web.master.isSome && decide (s.web.checkSpan ≤ s.web.dm.natAbs) then
    let w := s.web
    let diff := w.dm - Int.tdiv (w.dc * Int.ofNat w.checkNum) (Int.ofNat w.checkDen)
    let s1 := s.withWeb fun w => { w with dm := 0, dc := 0, checkMismatch := decide (w.checkWindow < diff.natAbs) }
    if w.checkWindow < diff.natAbs then
      let s2 := if w.checkMismatch then s1
        else raise Src.web 0x0004 (le 4 (unsigned 32 diff) ++ le 8 (unsigned 64 s.webPos)) s1
      .next (startDoubt .checkMismatch s2)
    else .next s1
  else .next s

/-- REG_DOUBT_END (R98): the counter has come down to 0. -/
def execRegDoubtEnd (s : State) : Host.Outcome State Fault Refusal :=
  if s.web.doubtRemain = 0 then .next (endDoubt 0x00 s) else .next s

/-- R87, R89: the evaluation made every microsecond. -/
def evalSpeeds (s : State) : State :=
  let upd := fun (_ : Nat) (c : Channel) =>
    if c.mode = .quadrature ∨ c.mode = .hall then c.speedAt s.time.now else c
  { s with web := { s.web with chans := Tab.mapv {} upd s.web.chans } }

/-- GAIT_EVAL (R87, R89). -/
def execGaitEval (s : State) : Host.Outcome State Fault Refusal :=
  .next (if s.web.master.isSome then evalGait (evalSpeeds s) else evalSpeeds s)

/-- STANDSTILL_TIMEOUT (R87): STANDSTILL_MS without an edge of channel `ch`. -/
def execStandstillTimeout (ch : Nat) (s : State) : Host.Outcome State Fault Refusal :=
  let c := s.chan ch
  if (c.mode = .quadrature ∨ c.mode = .hall) ∧ c.tLast + c.standstillMs * 10 ^ 6 ≤ s.time.now then
    let s1 := s.setChan ch (c.speedAt s.time.now)
    .next (if s.web.master = some ch then evalGait s1 else s1)
  else .next s

/-- R81: Gray to binary over `n` bits. -/
def grayToBin : Nat → Nat → Nat
  | 0, g => g
  | n + 1, g => Nat.xor g (grayToBin n (g / 2))

/-- R81: the shortest signed difference of two words of `bits` bits; exactly half the range counts as negative (DESIGN CHOICE,
log 62). -/
def shortest (bits a b : Nat) : Int := signed bits (unsigned bits (Int.ofNat a - Int.ofNat b))

end Sys2Proof.Machine
end

