-- ==== Sys2Proof/Machine/Feed.lean ====
section
/-! DEFINITION. The FIFO of a feeder and its reads, in either mode: 512 KiB for each link, blocks of 256 bytes in class FEED, paced
outside panic (R178, R179, R283, R428). -/

namespace Sys2Proof.Machine

/-- R178: bytes of a feeder's FIFO. -/
def fifoBytes : Nat := 524288

/-- R178, R279: the 256-byte blocks that hold bytes `a` to `b`. -/
def blockSpan (a b : Nat) : List Nat := (List.range (b / 256 + 1 - a / 256)).map (a / 256 + ·)

/-- R428: the reads of one band from time `now` on, spread evenly over `span` ns: block and time. -/
def pacedReads (now span : Nat) (blocks : List Nat) : List (Nat × Nat) :=
  blocks.zipIdx.map fun e => (e.1, now + e.2 * span / Nat.max 1 blocks.length)

/-- The reads of a band that one line or row of it waits for. -/
def needOf (reads : List (Nat × Nat)) (blocks : List Nat) : List (Nat × Nat) := reads.filter fun e => blocks.contains e.1

/-- R178: the entries at the head of a FIFO for which there is room; the others wait for a place (DESIGN CHOICE, log 63). -/
def fifoRoom {α : Type} (bytes : α → Nat) : Nat → List α → List α
  | _, [] => []
  | room, x :: t => if bytes x ≤ room then x :: fifoRoom bytes (room - bytes x) t else []

/-- R178, R209: bytes of a line's frames. -/
def FifoLine.bytes (x : FifoLine) : Nat := x.payloads.foldl (fun a e => a + 8 * (3 + ceilDiv e.2.2.length 8)) 0

/-- R178, R210: bytes of a row's frames. -/
def ScanRow.bytes (x : ScanRow) : Nat :=
  x.payloads.foldl (fun a e => a + 24 * ceilDiv e.2.length 8192 + 8 * ceilDiv e.2.length 8) 0

/-- The lines that have a place in the FIFO. -/
def Feeder.placed (x : Feeder) : List FifoLine := fifoRoom FifoLine.bytes fifoBytes x.fifo

/-- R179: the lines whose frames are whole in the FIFO. -/
def Feeder.whole (x : Feeder) : List FifoLine := x.placed.filter fun e => e.need.isEmpty

/-- R179: a fetch of the link is not complete. -/
def Feeder.fetching (x : Feeder) : Bool := x.fifo.any fun e => !e.need.isEmpty

/-- The rows that have a place in the FIFO. -/
def ScanFeeder.placed (x : ScanFeeder) : List ScanRow := fifoRoom ScanRow.bytes fifoBytes x.fifo

/-- R284: the rows whose frames are whole in the FIFO. -/
def ScanFeeder.whole (x : ScanFeeder) : List ScanRow := x.placed.filter fun e => e.need.isEmpty

/-- R283: a read of the link is not complete. -/
def ScanFeeder.fetching (x : ScanFeeder) : Bool := x.fifo.any fun e => !e.need.isEmpty

/-- R179: the reads of a print feeder are in panic. -/
def Feeder.panic (x : Feeder) : Bool := decide (x.whole.length < 4) && x.fetching

/-- R283: the reads of a light-field feeder are in panic. -/
def ScanFeeder.panic (x : ScanFeeder) (panicRows : Nat) : Bool := decide (x.whole.length < panicRows) && x.fetching

/-- R178, R428: the band of which the feeder would now read block `k` of the slot of bar `b`: its frame and its number. Outside
panic a block's time must have come. -/
def Feeder.reads (x : Feeder) (b k now : Nat) : Option (FrameNo × Nat) :=
  (x.placed.find? fun e => e.bar == b && e.need.any fun r => r.1 == k && (x.panic || decide (r.2 ≤ now))).map
    fun e => (e.frame, e.band)

/-- R178: block `k` of a band has been read. -/
def Feeder.got (x : Feeder) (b : Nat) (f : FrameNo) (n k : Nat) : Feeder :=
  { x with fifo := x.fifo.map fun e =>
      if e.bar = b ∧ e.frame = f ∧ e.band = n then { e with need := e.need.filter fun r => r.1 != k } else e }

/-- R283, R428: the frame and the band of which the feeder would now read block `k` of the frame store. -/
def ScanFeeder.reads (x : ScanFeeder) (panicRows k now : Nat) : Option (FrameNo × Nat) :=
  (x.placed.find? fun e => e.need.any fun r => r.1 == k && (x.panic panicRows || decide (r.2 ≤ now))).map
    fun e => (e.frame, e.row / 8)

/-- R283: block `k` of band `n` of frame `f` has been read. -/
def ScanFeeder.got (x : ScanFeeder) (f : FrameNo) (n k : Nat) : ScanFeeder :=
  { x with fifo := x.fifo.map fun e =>
      if e.frame = f ∧ e.row / 8 = n then { e with need := e.need.filter fun r => r.1 != k } else e }

end Sys2Proof.Machine
end

