-- ==== Sys2Proof/Machine/Proto.lean ====
section
/-! DEFINITION. The Rein protocol's blocks and frames (R206 to R210), and the LZ9's control requests (R222, R223). -/

namespace Sys2Proof.Machine

/-! ### Blocks -/

/-- R93, R97, R186: a number of 1/256 lines as a time, to the nearest ns: the worked examples have 5,259 for phase 106 and 3,870 for
phase 78 at 12,700 ns (DEDUCED, log 62). -/
def phaseTime (phase period : Nat) : Nat := (phase * period + 128) / 256

/-- R206: CRC-8 with x^8 + x^2 + x + 1, initial value 0, unreflected. -/
def crc8 (bs : List Byte) : Nat := bs.foldl (crcByte8 0x07) 0

/-- Byte `i` of a block with its HOP field taken as 0 (R206, R207). -/
def hopless (ty i : Nat) (b : Byte) : Byte :=
  if ty = 0x4B ∧ i = 2 then b &&& 0x8F#8
  else if ty = 0x55 ∧ i = 2 then b &&& 0xF8#8
  else if ty = 0x66 ∧ i = 1 then b &&& 0xF8#8
  else b

/-- R206: the CRC-8 of the six bytes after the type. -/
def blockCrc (ty : Nat) (six : List Byte) : Nat := crc8 (six.mapIdx fun i b => hopless ty (i + 1) b)

/-- A control block: its type, six bytes and the CRC-8. -/
def ctrlBlock (ty : Nat) (six : List Byte) : List Byte :=
  let b := (six ++ List.replicate (6 - six.length) 0).take 6
  BitVec.ofNat 8 ty :: b ++ [BitVec.ofNat 8 (blockCrc ty b)]

/-- R206: a received block of type `ty` passes its check. -/
def blockOk (ty : Nat) (bs : List Byte) : Bool :=
  bs.length == 8 && byteAt bs 0 == ty && byteAt bs 7 == blockCrc ty ((bs.drop 1).take 6)

/-- R207: a TICK block as sent, HOP 0. -/
def tickBlock (tickId : Nat) (flag rowKind : Bool) (bar phase period : Nat) : List Byte :=
  ctrlBlock 0x4B
    ([BitVec.ofNat 8 (tickId % 64 + 64 * b2n flag + 128 * b2n rowKind), BitVec.ofNat 8 (bar % 16), BitVec.ofNat 8 phase] ++
      le 3 period)

/-- R206: a HALTER or RUN block. -/
def holdBlock (ty claim node : Nat) (all : Bool) : List Byte :=
  ctrlBlock ty (le 2 claim ++ [BitVec.ofNat 8 node, BitVec.ofNat 8 (b2n all), 0, 0])

/-- R206: an ECHO block as sent, HOP 0. -/
def echoBlock (target sq : Nat) : List Byte := ctrlBlock 0x55 [BitVec.ofNat 8 target, 0, BitVec.ofNat 8 sq, 0, 0, 0]

/-- R206: an ECHO_REPLY block. -/
def echoReplyBlock (hop sq : Nat) : List Byte := ctrlBlock 0x66 [BitVec.ofNat 8 hop, 0, BitVec.ofNat 8 sq, 0, 0, 0]

/-! ### Frames -/

namespace FType
/-- Frame types (R209). -/
def line : Nat := 0x01
def row : Nat := 0x02
def ctrlReq : Nat := 0x03
def ctrlResp : Nat := 0x04
def status : Nat := 0x05
def release : Nat := 0x06
def enum : Nat := 0x07
def enumResp : Nat := 0x08
end FType

/-- Pad to whole 8-byte blocks with zeros (R209). -/
def padBlocks (bs : List Byte) : List Byte := bs ++ List.replicate ((8 - bs.length % 8) % 8) 0

/-- R208: the CRC-32 of a frame: START bytes 1 to 7 with HOP taken as 0, then the data. -/
def frameCrc (start7 data : List Byte) : Nat :=
  crc32 (start7.take 6 ++ [BitVec.ofNat 8 (byteAt start7 6) &&& 0xF8#8] ++ data)

/-- R208, R209: a frame: START, data blocks, TERM. -/
def mkFrame (ftype node claim flags : Nat) (data : List Byte) : List Byte :=
  let d := padBlocks data
  let st := [BitVec.ofNat 8 ftype, BitVec.ofNat 8 node] ++ le 2 claim ++ le 2 (d.length / 8) ++ [BitVec.ofNat 8 flags]
  (0x78#8 :: st) ++ d ++ (0x87#8 :: le 4 (frameCrc st d)) ++ [0, 0, 0]

/-- A frame as received, after R208. -/
structure RxFrame where
  ftype : Nat
  node : Nat
  claim : Nat
  len : Nat
  hop : Nat
  seamless : Bool
  all : Bool
  data : List Byte
  deriving DecidableEq, Repr

/-- R208: the frame in a byte string, none where its length or its CRC fails. -/
def parseFrame (bs : List Byte) : Option RxFrame :=
  let len := numAt bs 5 2
  let data := (bs.drop 8).take (8 * len)
  if byteAt bs 0 = 0x78 ∧ 1 ≤ len ∧ len ≤ 1100 ∧ bs.length = 8 * (len + 2) ∧ byteAt bs (8 * (len + 1)) = 0x87 ∧
      numAt bs (8 * (len + 1) + 1) 4 = frameCrc ((bs.drop 1).take 7) data then
    some { ftype := byteAt bs 1, node := byteAt bs 2, claim := numAt bs 3 2, len := len, hop := byteAt bs 7 % 8
           seamless := bitAt (byteAt bs 7) 3, all := bitAt (byteAt bs 7) 4, data := data }
  else none

/-- R209: data block 0 of a LINE frame. -/
def lineHeader (f : FrameNo) (tickId bank : Nat) (last : Bool) (spit : Option Nat) : List Byte :=
  le 4 f.toNat ++ [BitVec.ofNat 8 (tickId % 64 + 64 * bank + 128 * b2n last)] ++
    le 2 (match spit with | none => 0 | some k => 0x8000 + k % 1024) ++ [0]

/-- R209, R210: data block 0 of a ROW frame. -/
def rowHeader (f : FrameNo) (row : Nat) (last : Bool) (seg segs : Nat) : List Byte :=
  le 4 f.toNat ++ [BitVec.ofNat 8 (row % 64 + 128 * b2n last)] ++ le 2 (row % 4096) ++
    [BitVec.ofNat 8 (seg + 4 * (segs - 1))]

/-- R209: data block 0 of a CTRL_REQ or CTRL_RESP. -/
def ctrlHeader (op tag words addr : Nat) : List Byte :=
  [BitVec.ofNat 8 op, BitVec.ofNat 8 tag] ++ le 2 words ++ le 3 addr ++ [0]

/-- R209: the ENUM frame. -/
def enumFrame (claim : Nat) (assign : Bool) (link : Nat) (endB : Bool) (n : Nat) : List Byte :=
  mkFrame FType.enum 0 claim 0x10
    [if assign then 2 else 1, BitVec.ofNat 8 link, BitVec.ofNat 8 (b2n endB), BitVec.ofNat 8 (if assign then n else 0),
     0, 0, 0, 0]

/-- R209: a RELEASE addressed to every node. -/
def releaseFrame (claim : Nat) : List Byte := mkFrame FType.release 0 claim 0x10 (List.replicate 8 0)

/-! ### Links and nodes as the LZ9 sees them -/

/-- Rein link `l`. -/
def State.link (s : State) (l : Nat) : Link := Tab.get {} s.rein.links l

/-- Set Rein link `l`. -/
def State.setLink (s : State) (l : Nat) (x : Link) : State :=
  { s with rein := { s.rein with links := Tab.put {} s.rein.links l x } }

/-- The LZ9's view of node `n`. -/
def State.node (s : State) (n : Nat) : NodeView := Tab.get {} s.rein.nodes n

/-- Set the LZ9's view of node `n`. -/
def State.setNode (s : State) (n : Nat) (x : NodeView) : State :=
  { s with rein := { s.rein with nodes := Tab.put {} s.rein.nodes n x } }

/-- This LZ9 holds the claim of the nodes of link `l`. -/
def State.claimed (s : State) (l : Nat) : Bool := (s.link l).state == .claimed

/-- The links 0 to 31. -/
def allLinks : List Nat := List.range 32

/-- The nodes 0 to 255. -/
def allNodes : List Nat := List.range 256

/-- The node IDs of a link found by enumeration, in chain order. -/
def State.linkNodes (s : State) (l : Nat) : List Nat :=
  ((List.range 8).map fun p => 8 * l + p).filter fun n => (s.node n).present

/-- Send a control block on a link. -/
def sendBlock (l : Nat) (bs : List Byte) (s : State) : State := s.emit (.reinBlock l bs)

/-- Send a frame on a link. -/
def sendFrame (l : Nat) (bs : List Byte) (s : State) : State := s.emit (.reinFrame l bs)

/-- R218: send a HALTER or RUN block to node `n`. -/
def sendHold (ty n : Nat) (s : State) : State :=
  let l := n / 8
  if s.claimed l then sendBlock l (holdBlock ty (s.link l).claim n false) s else s

/-! ### Control requests (R222, R223) -/

/-- The CTRL_REQ frame of a request. -/
def CtrlReq.frame (r : CtrlReq) (node claim : Nat) : List Byte :=
  mkFrame FType.ctrlReq node claim 0
    (ctrlHeader (if r.write then 2 else 1) r.tag r.words r.addr ++ (if r.write then r.data else []))

/-- R205, R229: the LZ9 may send this request on the link: one that is CLAIMED, or a write of a cable delay. -/
def State.mayRequest (s : State) (l : Nat) (r : CtrlReq) : Bool :=
  s.claimed l || (r.write && r.words == 1 && (r.addr == 0x108 || r.addr == 0x10C))

/-- R205, R223: send a request, unless the link has left CLAIMED: it then ends without a response. -/
def sendReq (n : Nat) (r : CtrlReq) (s : State) : State :=
  if s.mayRequest (n / 8) r then sendFrame (n / 8) (r.frame n (s.link (n / 8)).claim) s else s

/-- R223: put on the wire the requests of node `n` that fit among 8 outstanding. -/
def pumpReqs (n : Nat) (s : State) : State :=
  let v := s.node n
  let out := (v.reqs.filter (·.onWire)).length
  let ready := (v.reqs.filter fun r => !r.onWire).take (8 - out)
  let reqs := v.reqs.map fun r => if ready.any (·.tag == r.tag) then { r with onWire := true, sent := s.uptime } else r
  ready.foldl (fun st r => sendReq n r st) (s.setNode n { v with reqs := reqs })

/-- R223: queue a control request to node `n` under the next TAG. -/
def ctrlRequest (n : Nat) (write : Bool) (addr words : Nat) (data : List Byte) (owner : Nat) (s : State) : State :=
  let v := s.node n
  let r : CtrlReq := { tag := v.nextTag, write := write, addr := addr, words := words, data := data, owner := owner }
  pumpReqs n (s.setNode n { v with reqs := v.reqs ++ [r], nextTag := (v.nextTag + 1) % 256 })

/-- Write bytes, a multiple of 4 of them, to a node from address `addr` on in requests of at most 256 words. -/
def ctrlWriteAll : Nat → Nat → Nat → List Byte → Nat → State → State
  | 0, _, _, _, _, s => s
  | fuel + 1, n, addr, bs, owner, s =>
    if bs.isEmpty then s
    else
      let part := bs.take 1024
      ctrlWriteAll fuel n (addr + 1024) (bs.drop 1024) owner (ctrlRequest n true addr (part.length / 4) part owner s)

/-- Owner codes of the LZ9's own requests: a bank write, and any other. Commands own slot + 2. -/
def ownSelf : Nat := 0
/-- Owner of a selection-bank write. -/
def ownBank : Nat := 1

/-- Write one register word of a node on the LZ9's own account. -/
def nodeRegWrite (n addr v : Nat) (s : State) : State := ctrlRequest n true addr 1 (le 4 v) ownSelf s

end Sys2Proof.Machine
end

