-- ==== Sys2Proof/Machine/TanCore.lean ====
section
/-! DEFINITION. What the feeders and the links use of the tandem block (R205, R464, R468, R469, R473, R474). -/

namespace Sys2Proof.Machine

/-- Change the tandem block. -/
def State.withTan (s : State) (f : Tandem → Tandem) : State := { s with tan := f s.tan }

/-- Link `l` is a tandem link. -/
def State.tanLink (s : State) (l : Nat) : Bool := s.tan.state != .off && bitAt s.tan.linkMask l

/-- R464: this LZ9 renders and discards. -/
def State.shadow (s : State) : Bool := s.tan.state == .shadow

/-- R473: a drill whose handover has started and which concerns link `l`. -/
def State.drillOn (s : State) (l : Nat) : Option Drill :=
  match s.tan.drill with
  | some d => if d.running && s.tanLink l then some d else none
  | none => none

/-- R209: FLAGS of a frame with SEAMLESS set. -/
def seamlessFlag : Nat := 8

/-- R205, R473, R474: with what claim and FLAGS the line or row frames of frame `f` go to node `n`, if they go. -/
def State.sendAs (s : State) (n : Nat) (f : FrameNo) : Option (Nat × Nat) :=
  let l := n / 8
  let plain := if s.claimed l then some ((s.link l).claim, 0) else none
  match s.drillOn l with
  | none => plain
  | some d =>
    let held := (s.node n).held
    if d.standby then
      if FrameNo.later d.frame f || decide (d.claim < held) then none else some (d.claim, seamlessFlag)
    else if d.back ≠ 0 && FrameNo.later f d.frame then some (d.back, seamlessFlag)
    else if held = d.claim then none
    else plain

/-- R95, R205, R473: tick blocks go out on link `l` at a line or row of frame `f`. -/
def State.ticksOn (s : State) (l : Nat) (f : Option FrameNo) : Bool :=
  s.claimed l ||
    match s.drillOn l, f with
    | some d, some g =>
      if d.standby then !FrameNo.later d.frame g else d.back != 0 && FrameNo.later g d.frame
    | _, _ => false

/-- R474: the first line or row of the drill's frame has gone to node `n`. -/
def noteDrill (n : Nat) (f : FrameNo) (s : State) : State :=
  match s.drillOn (n / 8) with
  | some d =>
    if d.frame = f ∧ Tab.get 0 d.sent n = 0 then
      s.withTan fun t => { t with drill := some { d with sent := Tab.put 0 d.sent n (s.uptime + 1) } }
    else s
  | none => s

/-- R469: the first tick after a takeover ends its gap. -/
def endGap (s : State) : State :=
  match s.tan.gapFrom with
  | some t =>
    if s.tan.state = .takingOver || s.tan.held then s
    else s.withTan fun x => { x with gapFrom := none, gapUs := Nat.min 65535 ((s.uptime - t) / 1000) }
  | none => s

/-- R468: nodes of link `l` are not let out of Halter: a takeover is under way, or it ended HELD. -/
def State.tanHolds (s : State) (l : Nat) : Bool := s.tanLink l && (s.tan.state == .takingOver || s.tan.held)

end Sys2Proof.Machine
end

