-- ==== Sys2Proof/Machine/ThmCore.lean ====
section
/-! DEFINITION. What other blocks use of the thermal supervisor: sensors, zones and steps (R440, R441, R445, R449, R450,
R454). -/

namespace Sys2Proof.Machine

/-- Change the thermal supervisor. -/
def State.withThm (s : State) (f : Thermal → Thermal) : State := { s with thm := f s.thm }

/-- R440: a sensor by its code. -/
def State.sensor (s : State) (code : Nat) : Sensor := Tab.get {} s.thm.sensors code

/-- Set a sensor. -/
def State.setSensor (s : State) (code : Nat) (x : Sensor) : State :=
  s.withThm fun t => { t with sensors := Tab.put {} t.sensors code x }

/-- R440, R448: the value of a sensor by its code, none while it is failed or excluded. -/
def State.sensorVal (s : State) (code : Nat) : Option Int :=
  let x := s.sensor code
  if x.failed || x.excluded || x.bad != 0 then none else x.value

/-- The highest of a list of values. -/
def highest : List Int → Option Int
  | [] => none
  | a :: t => some (t.foldl max a)

/-! ### Zones -/

/-- R441, R454: zone `z` at READY: zone 0 is the die zone, every other is undefined. -/
def State.initZone (s : State) (z : Nat) : Zone :=
  if z = 0 then
    let t := Int.ofNat s.fuse.part.tjMax
    { defined := true, sensors := (List.range 24).map (0x100 + ·), thr := [some (16 * (t - 10)), some (16 * (t - 5)), some (16 * t)]
      rateLimit := 80 }
  else {}

/-- Zone `z`. -/
def State.zone (s : State) (z : Nat) : Zone := Tab.get (s.initZone z) s.thm.zones z

/-- Set zone `z`. -/
def State.setZone (s : State) (z : Nat) (x : Zone) : State :=
  s.withThm fun t => { t with zones := Tab.put (s.initZone z) t.zones z x }

/-- The zones 0 to 15. -/
def allZones : List Nat := List.range 16

/-- R450: STOP_REQ under the orderly stops: some zone's stop has not been cleared. -/
def State.stopReq (s : State) : Bool := allZones.any fun z => (s.zone z).stopped

/-- R441, R449: the bars that an orderly stop of the zone stops. -/
def Zone.bars (x : Zone) : List Nat :=
  if x.kind = 3 then (List.range 16).filter fun b => bitAt x.target b else if x.kind = 4 then [] else List.range 16

/-- R441, R449: the groups that an orderly stop of the zone stops. -/
def Zone.groups (x : Zone) : List Nat :=
  if x.kind = 4 then (List.range 2).filter fun g => bitAt x.target g else if x.kind = 3 then [] else List.range 2

/-! ### Steps -/

/-- R445: the head-supply step in force at bar `b`. -/
def State.headStep (s : State) (b : Nat) : Nat := (Tab.get {} s.thm.heads b).step

/-- R447: some head-supply step is pending: the throttle request of R91. -/
def State.throttleReq (s : State) : Bool := s.thm.heads.any fun e => e.2.pending.isSome

/-- R445: the luminance step in force at a group. -/
def State.lumStep (s : State) (g : Nat) : Nat := Tab.get 0 s.thm.lumStep g

/-- R445, R449: the luminance step with which a frame that enters CUT now is rendered at a group: 16, a factor of 0, for the
last frame before an orderly stop. -/
def State.lumNow (s : State) (g : Nat) : Nat := if Tab.get false s.thm.lumStop g then 16 else s.lumStep g

/-- R445: the step of every limit of the zone kinds that `sel` picks out: the highest level among the zones that drive it. -/
def State.stepOf (s : State) (sel : Zone → Bool) : Nat :=
  allZones.foldl (fun a z => if (s.zone z).defined && sel (s.zone z) then Nat.max a (s.zone z).level else a) 0

/-! ### Planned stops (R449) -/

/-- R449: a planned stop lets no line of bar `b` from `n` on leave its feeders. -/
def State.muted (s : State) (b : Nat) (n : Int) : Bool :=
  allZones.any fun z => (s.zone z).plans.any fun p => p.target == b && decide (p.line < n)

/-- R445: the highest step of the render clock and the luminance of the groups given. -/
def State.lfThrottle (s : State) (groups : List Nat) : Nat :=
  groups.foldl (fun a g => Nat.max a (s.lumStep g)) s.thm.renderStep

end Sys2Proof.Machine
end

