-- ==== Sys2Proof/Machine/Output.lean ====
section
/-! DEFINITION. Frames, commits and run-ahead of the output, in either mode (R106 to R132). -/

namespace Sys2Proof.Machine

/-! ### Access -/

/-- Change the frame machinery. -/
def State.withFrames (s : State) (f : Frames → Frames) : State := { s with frames := f s.frames }

/-- The print configuration that commands stage into. -/
def State.staged (s : State) : PrintCfg := s.frames.staged.prn

/-- Change the staged print configuration (R109). -/
def State.stage (s : State) (f : PrintCfg → PrintCfg) : State :=
  s.withFrames fun x => { x with staged := { x.staged with prn := f x.staged.prn } }

/-- The record kept of frame `f`. -/
def State.frame (s : State) (f : FrameNo) : Frame := Tab.get {} s.frames.recs f.toNat

/-- Set the record kept of frame `f`. -/
def State.setFrame (s : State) (f : FrameNo) (r : Frame) : State :=
  s.withFrames fun x => { x with recs := Tab.put {} x.recs f.toNat r }

/-- Change the record kept of frame `f`. -/
def State.updFrame (s : State) (f : FrameNo) (g : Frame → Frame) : State := s.setFrame f (g (s.frame f))

/-- Set a flag of a frame's record (R128). -/
def Frame.mark (fl : Flag) (r : Frame) : Frame := { r with flags := Nat.lor r.flags (2 ^ fl.bit) }

/-- A flag of a frame's record is set. -/
def Frame.marked (fl : Flag) (r : Frame) : Bool := bitAt r.flags fl.bit

/-- R180, R284: a line or row that holds poisoned data is counted once for the frame and its bar, on however many links it is
sent. -/
def notePoisonedRow (y : Nat) (r : Frame) : Frame :=
  if r.badRows.contains y then r.mark .dataPoisoned
  else { r.mark .dataPoisoned with linesPoisoned := r.linesPoisoned + 1, badRows := r.badRows ++ [y] }

/-- R108: the phase of a frame. A frame earlier than the earliest OPEN one that has no record left is complete. -/
def State.phase (s : State) (f : FrameNo) : FramePhase :=
  if FrameNo.notBefore f s.frames.openFirst then .opened
  else
    match (s.frame f).phase with
    | .opened => .complete
    | p => p

/-! ### Generations (R109, R118) -/

/-- The last commit whose applied frame is not later than `f`; `base` where none of the list is. -/
def Frames.commitAt (x : Frames) (f : FrameNo) : Commit :=
  match x.commits.reverse.find? fun c => FrameNo.notBefore f c.applied with
  | some c => c
  | none => { gen := x.baseGen, cfg := x.base, opcode := if x.baseHost then 0x0304 else 0 }

/-- R119: gen_of. -/
def State.genOf (s : State) (f : FrameNo) : FrameNo := (s.frames.commitAt f).gen

/-- The configuration of frame `f`. -/
def State.cfgOf (s : State) (f : FrameNo) : OutCfg := (s.frames.commitAt f).cfg

/-- The opcode is a host commit (R110). -/
def hostCommit (op : Nat) : Bool := op == 0x0304 || op == 0x0701

/-- R135: a host commit of this job or scan is in force at frame `f`. -/
def State.hostCommitted (s : State) (f : FrameNo) : Bool :=
  s.frames.baseHost || s.frames.commits.any fun c => hostCommit c.opcode && FrameNo.notBefore f c.applied

/-- R193: a host commit of this job or scan has been assigned a frame. -/
def Frames.anyHost (x : Frames) : Bool := x.baseHost || x.commits.any fun c => hostCommit c.opcode

/-- R114: commits whose applied frame has not reached CUT. -/
def State.pendingCommits (s : State) : List Commit :=
  s.frames.commits.filter fun c => FrameNo.notBefore c.applied s.frames.openFirst

/-- The configuration of the latest commit assigned. -/
def Frames.latest (x : Frames) : OutCfg := (x.commits.getLast?.map (·.cfg)).getD x.base

/-! ### Readiness (R121, R122) -/

/-- A layer that a frame uses: its index, its buffer and its policy. -/
structure LayerUse where
  idx : Nat
  handle : Nat
  policy : Policy
  deriving DecidableEq, Repr

/-- R121: the policy of a print layer. -/
def Layer.effPolicy (l : Layer) : Policy :=
  match l.policy with
  | .modeDefault => if l.overlay then .dropLayer else .skipFrame
  | .holdPrevious => .holdPrevious
  | .dropLayer => .dropLayer
  | .skipFrame => .skipFrame

/-- R121: the policy of a depth or overlay plane. -/
def planePolicy (code : Nat) : Policy :=
  match Policy.ofCode code with
  | .modeDefault => .holdPrevious
  | .holdPrevious => .holdPrevious
  | .dropLayer => .dropLayer
  | .skipFrame => .skipFrame

/-- The layers a configuration uses, by mode. Light-field overlay plane n has index 64 + n. -/
def OutCfg.uses (c : OutCfg) (m : Mode) : List LayerUse :=
  match m with
  | .print =>
    (List.range 8).filterMap fun n =>
      let l := Tab.get {} c.prn.layers n
      if l.bound then some { idx := n, handle := l.handle, policy := l.effPolicy } else none
  | .lightfield => c.lf.handles.map fun e => { idx := e.1, handle := e.2.1, policy := planePolicy e.2.2 }
  | .none => []

/-- What readiness decides for a frame. `bufs` are the layers rendered, with the buffers they read; layer 68 is the ray
map and 69 the emitter table (R253), which `map` and `gain` bind. -/
structure Readiness where
  mask : Nat := 0
  bufs : List (Nat × Nat) := []
  dropped : Nat := 0
  held : Nat := 0
  skip : Bool := false
  stale : Bool := false
  notReady : Bool := false
  map : RayMap := {}
  gain : GainTable := {}
  deriving DecidableEq, Repr

/-- R121: the buffer is READY with PIN_COUNT above 0. -/
def State.holdable (s : State) (h : Nat) : Bool := (s.buf h).state == .ready && decide (0 < (s.buf h).pins)

/-- R121: the buffer of the latest earlier frame in which the layer was ready, if it can still be held. -/
def State.heldFor (s : State) (idx : Nat) : Option Nat :=
  let h := Tab.get (0, 0) s.frames.heldBufs idx
  if h.1 = 1 ∧ s.holdable h.2 then some h.2 else none

/-- R121: one layer. -/
def decideLayer (s : State) (r : Readiness) (u : LayerUse) : Readiness :=
  let drop := { r with dropped := Nat.lor r.dropped (2 ^ u.idx) }
  if (s.buf u.handle).state = .ready then
    { r with mask := Nat.lor r.mask (2 ^ u.idx), bufs := r.bufs ++ [(u.idx, u.handle)] }
  else
    match u.policy with
    | .skipFrame => { r with skip := true, notReady := true }
    | .holdPrevious =>
      match s.heldFor u.idx with
      | some h => { r with held := Nat.lor r.held (2 ^ u.idx), bufs := r.bufs ++ [(u.idx, h)], notReady := true }
      | none => { drop with notReady := true }
    | .dropLayer => { drop with notReady := true }
    | .modeDefault => { drop with notReady := true }

/-- R253: the ray map of a frame. -/
def decideMap (s : State) (m : RayMap) (r : Readiness) : Readiness :=
  let h := s.frames.heldMap
  if m.load = 0 then r
  else if (s.buf m.handle).state = .ready then
    { r with mask := Nat.lor r.mask (2 ^ 68), bufs := r.bufs ++ [(68, m.handle)], map := m }
  else if h.load ≠ 0 ∧ s.holdable h.handle ∧ h.emitters = m.emitters then
    { r with bufs := r.bufs ++ [(68, h.handle)], map := h, stale := true, notReady := true }
  else { r with skip := true, notReady := true }

/-- R251, R253: the emitter table of a frame. -/
def decideGain (s : State) (c : LfCfg) (r : Readiness) : Readiness :=
  let h := s.frames.heldGain
  if !c.gain.table || c.gainCal then r
  else if (s.buf c.gain.handle).state = .ready then
    { r with mask := Nat.lor r.mask (2 ^ 69), bufs := r.bufs ++ [(69, c.gain.handle)], gain := c.gain }
  else if h.table && s.holdable h.handle && h.count == c.gain.count then
    { r with bufs := r.bufs ++ [(69, h.handle)], gain := h, stale := true, notReady := true }
  else { r with skip := true, notReady := true }

/-- R121, R253: the readiness of a configuration as things stand. -/
def State.readyCfg (s : State) (c : OutCfg) : Readiness :=
  let r := (c.uses s.top.mode).foldl (decideLayer s) {}
  if s.top.mode = .lightfield then decideGain s c.lf (decideMap s c.lf.map r) else r

/-- R295: no readiness policy is applied, because the split-panel lock is LOCKED. -/
def State.paired (s : State) : Bool := s.top.mode == .lightfield && s.scan.split.state == .locked

/-- R121, R122, R135, R295: the readiness of frame `f` as things stand. -/
def State.readiness (s : State) (f : FrameNo) : Readiness :=
  let r := s.readyCfg (s.cfgOf f)
  if s.paired && r.notReady then { notReady := true }
  else if r.skip || !s.hostCommitted f then { skip := true, notReady := true }
  else r

/-- R119: ready_of. -/
def State.readyOf (s : State) (f : FrameNo) : Nat :=
  if s.phase f = .opened then (s.readiness f).mask else (s.frame f).ready

/-- The layers frame `f` renders and the buffers they read. -/
def State.bufsOf (s : State) (f : FrameNo) : List (Nat × Nat) :=
  if s.phase f = .opened then (s.readiness f).bufs else (s.frame f).bufs

/-- R445: the luminance steps of groups A and B with which frame `f` is rendered: those in force at its cutoff, or now
while it is OPEN. -/
def State.lumOf (s : State) (f : FrameNo) : Nat :=
  if s.top.mode ≠ .lightfield then 0
  else if s.phase f = .opened then s.lumNow 0 + 32 * s.lumNow 1
  else (s.frame f).lum

/-- R119: the band's tag is current for its frame. -/
def State.tagOk (s : State) (x : Band) : Bool :=
  x.gen == s.genOf x.frame && x.mask == s.readyOf x.frame && x.lum == s.lumOf x.frame

/-! ### Rollback (R119, R120) -/

/-- R119: the band is complete, of a frame in OPEN or CUT, and no longer valid. -/
def State.stale (s : State) (x : Band) : Bool :=
  x.phase == .complete && (s.phase x.frame == .opened || s.phase x.frame == .cut) && !s.tagOk x

/-- R119, R120, R132: discard the bands no longer valid; they wait for rendering again. `event` is 1 at a commit or a cutoff, which
is then counted, and 0 at the end of a rendering. -/
def discardStale (event : Nat) (s : State) : State :=
  let n := (s.frames.bands.filter s.stale).length
  if n = 0 then s
  else
    s.withFrames fun x =>
      { x with
        bands := x.bands.map fun b => if s.stale b then { b with phase := .queued, lines := [] } else b
        rollBands := satAdd 65535 x.rollBands n
        rollCommits := satAdd 65535 x.rollCommits event }

/-- R119: the check at a commit and at a cutoff. -/
def rollback (s : State) : State := discardStale 1 s

/-- R119: the check at the end of a rendering. -/
def recheck (s : State) : State := discardStale 0 s

/-! ### Pins (R69, R123) -/

/-- R123: frame `f` pins a buffer. -/
def pinBuf (f : FrameNo) (s : State) (h : Nat) : State :=
  let b := s.buf h
  s.setBuf h { b with pins := satAdd 65535 b.pins 1, lastPin := f }

/-- R67: a handle becomes FREE. -/
def BufEntry.freed (b : BufEntry) : BufEntry := { gen := b.gen, lastPin := b.lastPin }

/-- R69, R123: a frame releases a buffer; a RELEASE_PENDING one with no pin left becomes FREE. -/
def unpinBuf (s : State) (h : Nat) : State :=
  let b := s.buf h
  if b.state = .releasePending ∧ b.pins ≤ 1 then
    raiseAfter b.releaseCmd Src.sys 0x0001 (le 2 h ++ le 4 b.gen.toNat) (s.setBuf h b.freed)
  else s.setBuf h { b with pins := b.pins - 1 }

/-! ### Content checks (R125) -/

/-- R125: the handles a frame uses whose content is checked. -/
def State.checkedBufs (s : State) (hs : List Nat) : List Nat := hs.filter fun h => (s.buf h).crcEn

/-- R125: start a check of every checked buffer of frame `f`; `which` is 1 or 2. -/
def startChecks (f : FrameNo) (which : Nat) (s : State) : State :=
  let r := s.frame f
  s.setFrame f { r with checks := r.checks ++ (s.checkedBufs r.pins).map fun h => (h, which) }

/-- R125, R413: a check of buffer `h` for frame `f` ends. -/
def contentChecked (f : FrameNo) (h : Nat) (s : State) : State :=
  let r := s.frame f
  match r.checks.find? fun c => c.1 == h with
  | none => s
  | some c =>
    let b := s.buf h
    let poison := s.poisoned b.base b.size
    let bad := poison || crc32 (s.dram.bytes b.base b.size) != b.crc
    let r1 := { r with checks := r.checks.erase c }
    let r2 := if poison then r1.mark .dataPoisoned else r1
    s.setFrame f (if bad then { r2.mark .contentChanged with changed := Nat.min r2.changed h } else r2)

/-- CONTENT_CHECK_DONE (R125). -/
def execContentCheckDone (f : FrameNo) (handle : Nat) (s : State) : Host.Outcome State Fault Refusal :=
  .next (contentChecked f handle s)

/-! ### The cutoff (R118) -/

/-- R118: steps 1 to 4 and the entry of frame `f` into CUT. The layers that are ready in `f` are what a later HOLD_PREVIOUS uses,
though `f` itself be skipped (R121). -/
def enterCut (f : FrameNo) (s : State) : State :=
  let d := s.readiness f
  let full := s.readyCfg (s.cfgOf f)
  let pins := if d.skip then [] else (d.bufs.map (·.2)).eraseDups
  let g := s.genOf f
  let r0 := s.frame f
  let r1 := { r0 with
    phase := .cut, gen := g, ready := d.mask, skipped := d.skip, bufs := d.bufs, pins := pins
    maskDropped := Nat.lor r0.maskDropped d.dropped, maskHeld := d.held, map := d.map, gain := d.gain
    notReady := d.notReady, lum := s.lumOf f, cutAt := s.uptime }
  let r2a := if d.skip then r1.mark .frameSkipped else r1
  let r2 := if d.stale then r2a.mark .calStale else r2a
  let r3 := if d.dropped ≠ 0 then r2.mark .layerDropped else r2
  let r4 := if d.held ≠ 0 then r3.mark .layerHeld else r3
  let ready := full.bufs.filter fun e => bitAt full.mask e.1
  let s1 := pins.foldl (pinBuf f) (s.setFrame f r4)
  let s2 := s1.withFrames fun x =>
    { x with openFirst := f + 1, genCut := g
             heldBufs := ready.foldl (fun t e => Tab.put (0, 0) t e.1 (1, e.2)) x.heldBufs
             heldMap := if bitAt full.mask 68 then full.map else x.heldMap
             heldGain := if bitAt full.mask 69 then full.gain else x.heldGain }
  rollback (startChecks f 1 s2)

/-! ### Commits (R112 to R115) -/

/-- R112: the applied frame of a commit. -/
def Frames.applied (x : Frames) (nextOpen : Bool) (target : FrameNo) : FrameNo :=
  let req := if nextOpen then x.openFirst else target
  let a := if FrameNo.later x.openFirst req then x.openFirst else req
  match x.prevApplied with
  | none => a
  | some p => if FrameNo.later p a then p else a

/-- R109, R112: take the next generation number for configuration `cfg` at applied frame `a`. -/
def assignAt (op : Nat) (a : FrameNo) (cfg : OutCfg) (s : State) (hitch : Nat := 0) : State :=
  rollback (s.withFrames fun x =>
    { x with
      genLast := x.genLast + 1
      commits := x.commits ++ [{ gen := x.genLast + 1, applied := a, opcode := op, cfg := cfg, hitch := hitch }]
      prevApplied := some a })

/-- R115 item 1: the first buffer that a commit must refuse, with its reason. -/
def State.badBuffer (s : State) (us : List LayerUse) : Option (Nat × Nat) :=
  (us.find? fun u => (s.buf u.handle).state == .free || (s.buf u.handle).state == .releasePending).map fun u =>
    (u.handle, if (s.buf u.handle).state = .free then Rsn.handle else Rsn.bufState)

/-! ### Completion and the record (R108, R123, R127) -/

/-- R123: release the pins of frame `f` and make it COMPLETE. -/
def completeFrame (f : FrameNo) (s : State) : State :=
  let r := s.frame f
  let s1 := r.pins.foldl unpinBuf s
  s1.updFrame f fun r => { r with phase := .complete, pins := [], tEnd := s.time.now, barsLeft := [], nodesLeft := [] }

/-- The frames that have left OPEN and have no record yet, in frame order. -/
def State.liveFrames (s : State) : List FrameNo :=
  let ks := (s.frames.recs.filter fun e => e.2.phase != .opened).map (·.1)
  let older := ks.filter fun k => s.frames.openFirst.toNat ≤ k
  let newer := ks.filter fun k => k < s.frames.openFirst.toNat
  (older ++ newer).map (BitVec.ofNat 32)

/-- Commits that no frame still to be completed needs are folded into `base`. -/
def pruneCommits (s : State) : State :=
  let busy := s.liveFrames.find? fun f => s.phase f != .complete
  let oldest := busy.getD s.frames.openFirst
  let keep := s.frames.commits.filter fun c => !FrameNo.notBefore oldest c.applied
  let gone := s.frames.commits.filter fun c => FrameNo.notBefore oldest c.applied
  match gone.getLast? with
  | none => s
  | some c => s.withFrames fun x =>
    { x with commits := keep, base := c.cfg, baseGen := c.gen
             baseHitch := gone.foldl (fun a c => if c.hitch = 0 then a else c.hitch) x.baseHitch
             baseHost := x.baseHost || gone.any fun c => hostCommit c.opcode }

/-- R127: the data bytes of a frame record. -/
def Frame.recordData (f : FrameNo) (r : Frame) : List Byte :=
  let ov := bitsAt r.maskDropped 64 4 + 16 * bitsAt r.maskHeld 64 4
  le 4 f.toNat ++ le 4 r.flags ++ le 4 r.gen.toNat ++ le 2 (Nat.min 65535 r.bandsLate) ++ le 1 r.throttleMax ++
  le 8 (r.tStart.getD 0) ++ le 8 r.tEnd ++ le 4 (Nat.min (2 ^ 32 - 1) r.linesSkipped) ++
    le 4 (Nat.min (2 ^ 32 - 1) r.linesBlanked) ++ le 4 (Nat.min (2 ^ 32 - 1) r.linesPoisoned) ++ le 3 0 ++
  le 8 (r.maskDropped % 2 ^ 64) ++ le 8 (r.maskHeld % 2 ^ 64) ++ le 1 ov ++ le 2 r.changed ++
    le 8 (unsigned 64 r.posStart) ++ le 4 0

/-- R127: the record of frame `f` can be written: the frame is COMPLETE, its checks are finished, and no earlier frame
waits for its record. -/
def State.recordDue (s : State) (f : FrameNo) : Bool :=
  let r := s.frame f
  r.phase == .complete && r.checks.isEmpty && s.liveFrames.head? == some f

/-- R291: the flags that end the count static. -/
def spoils (r : Frame) : Bool :=
  r.marked .bandLate || r.marked .lineBlanked || r.marked .frameSkipped || r.marked .pairedRepeat ||
    r.marked .contentChanged || r.marked .dataPoisoned || r.marked .halted

/-- R291: the latest frame of the scan that spoils the count static, once the record of frame `f` has its flags. -/
def noteBad (f : FrameNo) (r : Frame) (s : State) : State :=
  let later := match s.scan.lastBad with
    | none => true
    | some g => FrameNo.later f g
  if spoils r && later && FrameNo.notBefore f s.scan.first then
    { s with scan := { s.scan with lastBad := some f } }
  else s

/-- R127, R130: write the record of frame `f` (`quiet`: a standby writes none), and forget the frame. -/
def writeFrameRecord (quiet : Bool) (f : FrameNo) (s0 : State) : State :=
  let r := s0.frame f
  let r1 := if 0 < r.throttleMax then r.mark .throttled else r
  let s := noteBad f r1 s0
  let s1 := (s.setFrame f {}).withFrames fun x =>
    { x with past := Tab.put (0, 0, 0) x.past f.toNat (r1.gen.toNat, r1.flags, r1.cutAt) }
  if quiet then s1
  else
    raise (if s.top.mode = .lightfield then Src.scan else Src.prn) frameRecordCode (r1.recordData f)
      (s1.withFrames fun x => { x with frameLast := f, lastFlags := r1.flags })

end Sys2Proof.Machine
end

