-- ==== Sys2Proof/Machine/Render.lean ====
section
/-! DEFINITION. The print render pipeline (R140 to R157, R166 to R172): LTC-L decoding, resampling, compositing, tone,
spreading, nozzle choice and screening of one band of one bar. -/

namespace Sys2Proof.Machine

/-! ### LTC-L (R141 to R144) -/

/-- The fields of an LTC-L header. -/
structure LtcHeader where
  depth : Nat
  channels : Nat
  width : Nat
  height : Nat
  tilesX : Nat
  tilesY : Nat
  indexOff : Nat
  dataOff : Nat
  deriving DecidableEq, Repr

/-- R141, R142: the header, unless it breaks R141 or the tile index leaves the buffer. `img` is the buffer's content. -/
def ltcHeader (img : List Byte) : Option LtcHeader :=
  let h : LtcHeader :=
    { depth := byteAt img 5, channels := byteAt img 6, width := numAt img 8 4, height := numAt img 12 4
      tilesX := numAt img 16 4, tilesY := numAt img 20 4, indexOff := numAt img 24 8, dataOff := numAt img 32 8 }
  if numAt img 0 4 = 0x4C43544C ∧ byteAt img 4 = 1 ∧ (h.depth = 8 ∨ h.depth = 16) ∧ 1 ≤ h.channels ∧ h.channels ≤ 16 ∧
      byteAt img 7 = 0 ∧ 1 ≤ h.width ∧ h.width ≤ 262144 ∧ 1 ≤ h.height ∧ h.height ≤ 67108864 ∧
      h.tilesX = (h.width + 63) / 64 ∧ h.tilesY = (h.height + 63) / 64 ∧ h.indexOff % 8 = 0 ∧ 64 ≤ h.indexOff ∧
      h.dataOff % 4 = 0 ∧ numAt img 40 24 = 0 ∧
      h.indexOff + 8 * (h.tilesX * h.tilesY * h.channels) ≤ img.length then some h
  else none

/-- A bit reader over a stream: the bits still to come, and how many (R143). -/
structure Bits where
  value : Nat
  left : Nat
  deriving DecidableEq, Repr

/-- R143: read(n). -/
def Bits.read (n : Nat) (b : Bits) : Option (Nat × Bits) :=
  if n ≤ b.left then some (b.value % 2 ^ n, { value := b.value / 2 ^ n, left := b.left - n }) else none

/-- R143: the run of ones that gives q, at most `fuel`. -/
def Bits.unary : Nat → Nat → Bits → Option (Nat × Bits)
  | 0, q, b => some (q, b)
  | fuel + 1, q, b =>
    match b.read 1 with
    | none => none
    | some (1, b') => Bits.unary fuel (q + 1) b'
    | some (_, b') => some (q, b')

/-- R143: one residual code. -/
def residual (depth k : Nat) (b : Bits) : Option (Nat × Bits) :=
  match b.unary 24 0 with
  | none => none
  | some (q, b1) =>
    if q < 24 then (b1.read k).map fun p => (q * 2 ^ k + p.1, p.2) else b1.read depth

/-- R143: the predictor from the samples to the left, above and above left. -/
def predict (a b c : Int) : Int :=
  if max a b ≤ c then min a b else if c ≤ min a b then max a b else a + b - c

/-- R143: decode `fuel` samples of a tile of width `w`, `acc` holding those done, newest first. -/
def codedSamples (depth w : Nat) : Nat → Nat → List Nat → Bits → Option (List Nat)
  | 0, _, acc, _ => some acc.reverse
  | fuel + 1, k0, acc, b =>
    let i := acc.length
    let kb : Option (Nat × Bits) := if i % 16 = 0 then b.read 5 else some (k0, b)
    match kb with
    | none => none
    | some (k, b1) =>
      if depth < k then none
      else
        match residual depth k b1 with
        | none => none
        | some (u, b2) =>
          if 2 ^ depth ≤ u then none
          else
            let r : Int := if u % 2 = 0 then Int.ofNat (u / 2) else -Int.ofNat ((u + 1) / 2)
            let left := Int.ofNat (acc.getD 0 0)
            let up := Int.ofNat (acc.getD (w - 1) 0)
            let upLeft := Int.ofNat (acc.getD w 0)
            let p : Int :=
              if i = 0 then Int.ofNat (2 ^ (depth - 1))
              else if i < w then left
              else if i % w = 0 then up
              else predict left up upLeft
            let s := unsigned depth (p + r)
            codedSamples depth w fuel k (s :: acc) b2

/-- R142: samples of a RAW stream. -/
def rawSamples (depth : Nat) : Nat → Bits → Option (List Nat)
  | 0, _ => some []
  | n + 1, b =>
    match b.read depth with
    | none => none
    | some (v, b') => (rawSamples depth n b').map (v :: ·)

/-- R142: a tile-index entry. -/
def tileEntry (h : LtcHeader) (img : List Byte) (ty tx ch : Nat) : Nat :=
  numAt img (h.indexOff + 8 * ((ty * h.tilesX + tx) * h.channels + ch)) 8

/-- R142, R143: the samples of a tile in raster order; none where the tile is malformed. -/
def tileSamples (h : LtcHeader) (img : List Byte) (ty tx ch : Nat) : Option (List Nat) :=
  let w := Nat.min 64 (h.width - 64 * tx)
  let ht := Nat.min 64 (h.height - 64 * ty)
  let e := tileEntry h img ty tx ch
  let mode := bitsAt e 62 2
  if mode = 1 then
    let v := bitsAt e 40 16
    if bitsAt e 56 6 = 0 ∧ bitsAt e 0 40 = 0 ∧ v < 2 ^ h.depth then some (List.replicate (w * ht) v) else none
  else if mode = 3 then none
  else
    let off := bitsAt e 0 40
    let len := 4 * bitsAt e 40 22
    if off % 4 = 0 ∧ h.dataOff + off + len ≤ img.length then
      let bits : Bits := { value := numAt img (h.dataOff + off) len, left := 8 * len }
      if mode = 0 then rawSamples h.depth (w * ht) bits else codedSamples h.depth w (w * ht) 0 [] bits
    else none

/-- R143: a source sample widened to 16 bits; none where its tile is malformed. -/
def ltcSample (h : LtcHeader) (img : List Byte) (ch x y : Nat) : Option Nat :=
  (tileSamples h img (y / 64) (x / 64) ch).map fun l =>
    let w := Nat.min 64 (h.width - 64 * (x / 64))
    let s := l.getD ((y % 64) * w + x % 64) 0
    if h.depth = 8 then s * 257 else s

/-! ### Resampling (R147) -/

/-- One axis of a layer's geometry: its origin, scale, extent and repetition. -/
structure LayerAxis where
  origin : Int
  scale : Nat
  size : Nat
  rep : Bool
  deriving DecidableEq, Repr

/-- R147: the layer covers coordinate `c` on this axis. -/
def LayerAxis.covers (a : LayerAxis) (c : Int) : Bool :=
  a.rep || (decide (0 ≤ c - a.origin) && decide (c - a.origin < Int.ofNat (a.size * a.scale)))

/-- R147: a source index outside the image takes the nearest edge sample, or wraps under repetition. -/
def LayerAxis.index (a : LayerAxis) (i : Int) : Nat :=
  if a.rep then (i % Int.ofNat (Nat.max 1 a.size)).toNat
  else if i < 0 then 0 else Nat.min i.toNat (a.size - 1)

/-- R147: the taps of one direction as source index and weight in units of 1/4,096. The source position in eighths of a
sample makes every weight exact. `taps` is 1, 2, 3 or 4. -/
def LayerAxis.taps (a : LayerAxis) (taps : Nat) (c : Int) : List (Nat × Int) :=
  let d := c - a.origin
  let x8 := (2 * d + 1 - Int.ofNat a.scale) * Int.ofNat (4 / a.scale)
  let i := Int.fdiv x8 8
  let f := Int.fmod x8 8
  match taps with
  | 1 => [(a.index (Int.fdiv d (Int.ofNat a.scale)), 4096)]
  | 2 => [(a.index i, 4096 - 512 * f), (a.index (i + 1), 512 * f)]
  | 3 =>
    let r := Int.fdiv (x8 + 4) 8
    let g := x8 - 8 * r
    [(a.index (r - 1), 32 * (4 - g) * (4 - g)), (a.index r, 3072 - 64 * g * g), (a.index (r + 1), 32 * (4 + g) * (4 + g))]
  | _ =>
    [(a.index (i - 1), -4 * f * f * f + 64 * f * f - 256 * f),
     (a.index i, 12 * f * f * f - 160 * f * f + 4096),
     (a.index (i + 1), -12 * f * f * f + 128 * f * f + 256 * f),
     (a.index (i + 2), 4 * f * f * f - 32 * f * f)]

/-- R147: horizontal taps of a filter. -/
def filterH (f : Nat) : Nat := if f = 0 then 1 else if f = 1 then 2 else 4

/-- R126, R147: vertical taps in use. -/
def Layer.v (l : Layer) : Nat := if l.vtaps = 0 then filterH l.filter else l.vtaps

/-- R147: the horizontal axis of a layer. -/
def Layer.axisX (l : Layer) (h : LtcHeader) : LayerAxis := ⟨l.xOrigin, l.scaleX, h.width, l.repeatX⟩

/-- R147: the vertical axis of a layer. -/
def Layer.axisY (l : Layer) (h : LtcHeader) : LayerAxis := ⟨l.yOrigin, l.scaleY, h.height, l.repeatY⟩

/-- R147: the layer covers column `c` and frame line `y`. -/
def Layer.coversAt (l : Layer) (h : LtcHeader) (c y : Int) : Bool := (l.axisX h).covers c && (l.axisY h).covers y

/-- Round a sum of products of two weights, ties upward, and clamp to 16 bits (R147). -/
def roundClamp (acc : Int) : Nat := Nat.min 65535 (Int.fdiv (acc + 2 ^ 23) (2 ^ 24)).toNat

/-- R147: the sample of source channel `ch` at (c, y); none where a needed tile is malformed. -/
def layerSample (l : Layer) (h : LtcHeader) (img : List Byte) (ch : Nat) (c y : Int) : Option Nat :=
  let ys := (l.axisY h).taps l.v y
  let xs := (l.axisX h).taps (filterH l.filter) c
  let sum := ys.foldl (fun (acc : Option Int) ty =>
    xs.foldl (fun (a : Option Int) tx =>
      match a, ltcSample h img ch tx.1 ty.1 with
      | some v, some s => some (v + ty.2 * tx.2 * Int.ofNat s)
      | _, _ => none) acc) (some 0)
  sum.map roundClamp

/-- R144: the malformed tiles a sample needs, as tile numbers. -/
def sampleFaults (l : Layer) (h : LtcHeader) (img : List Byte) (ch : Nat) (c y : Int) : List Nat :=
  ((l.axisY h).taps l.v y).flatMap fun ty =>
    ((l.axisX h).taps (filterH l.filter) c).flatMap fun tx =>
      if (tileSamples h img (ty.1 / 64) (tx.1 / 64) ch).isNone then [(ty.1 / 64) * h.tilesX + tx.1 / 64] else []

/-! ### Tone (R150) -/

/-- R150: map a value by a table; an empty table is IDENTITY. -/
def toneMap (t : Loaded) (v : Nat) : Nat :=
  if t.data.isEmpty then v
  else if v = 65535 then t.data.getD 1024 0
  else
    let i := v / 64
    let f := v % 64
    let a := Int.ofNat (t.data.getD i 0)
    let d := Int.ofNat (t.data.getD (i + 1) 0) - a
    (a + Int.fdiv (d * Int.ofNat f + 32) 64).toNat

/-! ### Layers in a band -/

/-- COVERAGE mode of a layer for an ink channel (R145). -/
def Layer.mode (l : Layer) (ch : Nat) : Nat := bitsAt l.coverage (2 * ch) 2

/-- CH_MAP entry of a layer for an ink channel (R145). -/
def Layer.source (l : Layer) (ch : Nat) : Nat := bitsAt l.chMap (8 * ch) 8

/-- A layer that takes part in a band: its number, the handle it reads, and the buffer's content. -/
structure Source where
  num : Nat
  layer : Layer
  handle : Nat
  img : List Byte
  deriving DecidableEq, Repr

/-- R145: the bound layers, in ascending Z. -/
def boundLayers (cfg : PrintCfg) : List (Nat × Layer) :=
  (List.range 8).flatMap fun z => cfg.layers.filter fun e => e.2.bound && e.2.z == z

/-- R145: the bound layers that print the ink channel, in ascending Z. -/
def layersFor (cfg : PrintCfg) (ch : Nat) : List (Nat × Layer) :=
  (boundLayers cfg).filter fun e => e.2.mode ch != 0

/-- R148: composite one layer's sample. -/
def compositeOne (mode acc s a : Nat) : Nat :=
  if mode = 1 then (acc * (65535 - a) + s * a + 32767) / 65535
  else
    let s' := (s * a + 32767) / 65535
    Nat.min 65535 (acc + s' - (acc * s' + 32767) / 65535)

/-- R148: composite every layer at (c, y). A layer that cannot be decoded is transparent (R144). -/
def composite (cfg : PrintCfg) (ch : Nat) (srcs : List Source) (c y : Int) : Nat :=
  srcs.foldl (fun acc s =>
    match ltcHeader s.img with
    | none => acc
    | some h =>
      if !s.layer.coversAt h c y then acc
      else
        let a := if s.layer.covChannel = 0xFF then some 65535 else layerSample s.layer h s.img s.layer.covChannel c y
        match layerSample s.layer h s.img (s.layer.source ch) c y, a with
        | some v, some a => compositeOne (s.layer.mode ch) acc (toneMap (Tab.get {} cfg.pre (s.num * 16 + ch)) v) a
        | _, _ => acc) 0

/-! ### Positions and nozzles (R166, R167, R171) -/

/-- The node entry of a position. -/
def BarMap.nodeOf (m : BarMap) (p : Nat) : Option MapNode :=
  m.nodes.find? fun n => decide (n.first ≤ p) && decide (p < n.first + n.count)

/-- R167: the map column of a position. -/
def BarMap.mapCol (m : BarMap) (p : Nat) : Option Int :=
  (m.segs.find? fun g => decide (g.first ≤ p) && decide (p < g.first + g.count)).map fun g =>
    g.col + (if g.falling then -1 else 1) * Int.ofNat (p - g.first)

/-- R166: the node-local index of a position. -/
def MapNode.localIdx (n : MapNode) (p : Nat) : Nat := if n.reversed then n.first + n.count - 1 - p else p - n.first

/-- R173: nozzle `j` of node `n` is missing. -/
def PrintCfg.isMissing (c : PrintCfg) (n j : Nat) : Bool :=
  let r := Tab.get nozzleDefault c.nozzles (n * 32768 + j)
  match bitsAt r 10 2 with
  | 1 => true
  | 2 => false
  | _ => Tab.get false c.missing (n * 32768 + j)

/-- R171: a position is working when one of its nozzles is not missing. -/
def PrintCfg.working (c : PrintCfg) (m : BarMap) (p : Nat) : Bool :=
  match m.nodeOf p with
  | none => false
  | some n => !(c.isMissing n.node (2 * n.localIdx p) && c.isMissing n.node (2 * n.localIdx p + 1))

/-- The positions that share a map column with `p`. -/
def BarMap.partners (m : BarMap) (p : Nat) : List Nat :=
  (List.range m.positions).filter fun q => q != p && (m.mapCol q).isSome && m.mapCol q == m.mapCol p

/-- R169, R171: the place of `p` in its ramp run: whether it is in the LOW_RAMP, the run's length, and k. -/
def BarMap.ramp (m : BarMap) (n : MapNode) (p : Nat) : Bool × Nat × Nat :=
  let cols := (List.range n.count).filterMap fun i => m.mapCol (n.first + i)
  let lo := cols.foldl min ((m.mapCol p).getD 0)
  let hi := cols.foldl max ((m.mapCol p).getD 0)
  let c := (m.mapCol p).getD 0
  if c - lo < Int.ofNat n.lowRamp then (true, n.lowRamp, (c - lo).toNat)
  else (false, n.highRamp, (c - (hi - Int.ofNat n.highRamp + 1)).toNat)

/-- R156: the ordered-dither value B. -/
def ditherB (x y : Nat) : Nat :=
  let bit := fun (v k : Nat) => (v / 2 ^ k) % 2
  (List.range 4).foldl (fun acc k =>
    acc + 2 ^ (7 - (2 * k + 1)) * ((bit x k + bit y k) % 2) + 2 ^ (7 - 2 * k) * bit y k) 0

/-- R170: a cell of the stitch tile. -/
def stitchCell (t : Loaded) (x y : Nat) : Nat :=
  if t.data.isEmpty then ditherB (x % 16) (y % 16) else t.data.getD (64 * y + x) 0

/-- R170: a cell of a column-mask pattern: 1 selects column B. -/
def patternCell (t : Loaded) (x y : Nat) : Nat :=
  if t.data.isEmpty then (x + y) % 2 else (t.data.getD (8 * y + x / 8) 0 / 2 ^ (x % 8)) % 2

/-- R171: what prints a dot at a position. -/
inductive Select where
  | suppress | a | b
  deriving DecidableEq, Repr

/-- R171, R172: the pattern's choice of column for position `p` on line `nl`. -/
def patternChoice (c : PrintCfg) (bar : Nat) (n : MapNode) (p : Nat) (nl : Int) : Nat :=
  patternCell (Tab.get {} c.patterns (bar * 16 + n.pattern)) (n.localIdx p % 64) (nl % 64).toNat

/-- R171: the selection for position `p` on line `nl`. -/
def selectNozzle (c : PrintCfg) (bar : Nat) (m : BarMap) (p : Nat) (nl : Int) : Select :=
  match m.nodeOf p, m.mapCol p with
  | some n, some mc =>
    let col := mc + Tab.get 0 c.shift bar
    if col < 0 ∨ Int.ofNat m.columns ≤ col then .suppress
    else
      let stitched := (m.partners p).any fun q => c.working m q
      let r := m.ramp n p
      let w := (256 * (2 * r.2.2 + 1)) / (2 * Nat.max 1 r.2.1)
      let t := stitchCell (Tab.get {} c.stitch bar) (col % 64).toNat (nl % 64).toNat
      if !c.working m p then .suppress
      else if stitched && !(if r.1 then decide (t < w) else decide (w ≤ t)) then .suppress
      else
        let pick := patternChoice c bar n p nl
        let j := 2 * n.localIdx p + pick
        let col' := if c.isMissing n.node j then 1 - pick else pick
        if col' = 0 then .a else .b
  | _, _ => .suppress

/-! ### Spreading (R154) -/

/-- R154: the columns of the bar with the positions that map to them. -/
def barColumns (c : PrintCfg) (bar : Nat) (m : BarMap) : List (Nat × Nat) :=
  (List.range m.positions).filterMap fun p =>
    match m.mapCol p with
    | none => none
    | some mc =>
      let col := mc + Tab.get 0 c.shift bar
      if 0 ≤ col ∧ col < Int.ofNat m.columns then some (col.toNat, p) else none

/-- R154: a column of the bar is dead when no position that maps to it works. -/
def deadColumn (c : PrintCfg) (m : BarMap) (cols : List (Nat × Nat)) (col : Nat) : Bool :=
  !cols.any fun e => e.1 == col && c.working m e.2

/-- R154: where a share from dead column `col` goes in one direction, at most `steps` further columns away. -/
def shareTarget (isCol dead : Int → Bool) (dir : Int) : Nat → Int → Option Int
  | 0, n => if isCol n && !dead n then some n else none
  | steps + 1, n => if isCol n && dead n then shareTarget isCol dead dir steps (n + dir)
      else if isCol n then some n else none

/-- R154: spread the values of one line. `v` is keyed by column; the result adds the lost shares. add[c] is the 18-bit number that the
pseudocode declares: sums beyond it wrap (DEDUCED, log 65). -/
def spread (sc : Screen) (cols : List Nat) (dead : Nat → Bool) (v : Tab Nat) : Tab Nat × Nat :=
  let isCol := fun (i : Int) => decide (0 ≤ i) && cols.contains i.toNat
  let isDead := fun (i : Int) => dead i.toNat
  let step := fun (acc : Tab Nat × Nat) (e : Nat × Int) =>
    let share := (Tab.get 0 v e.1 * sc.gain) / 512
    match shareTarget isCol isDead e.2 (sc.reach - 1) (Int.ofNat e.1 + e.2) with
    | some n => (Tab.upd 0 acc.1 n.toNat (fun a => (a + share) % 2 ^ 18), acc.2)
    | none => (acc.1, acc.2 + if 0 < share then 1 else 0)
  let deadCols := cols.filter dead
  let r := (deadCols.flatMap fun c => [(c, (-1 : Int)), (c, 1)]).foldl step ([], 0)
  (cols.foldl (fun t c => Tab.put 0 t c (if dead c then 0 else Nat.min 65535 (Tab.get 0 v c + Tab.get 0 r.1 c))) [], r.2)

/-! ### Screening (R155 to R157) -/

/-- R155, R156: the three thresholds of a cell. -/
def thresholds (a : Loaded) (x y : Nat) : Nat × Nat × Nat :=
  if a.data.isEmpty then
    let t := 256 * ditherB (x % 16) (y % 16)
    (t, t, 65535)
  else
    let i := 3 * (256 * y + x)
    (a.data.getD i 0, a.data.getD (i + 1) 0, a.data.getD (i + 2) 0)

/-- R155: the dot for a value. -/
def screenDot (a : Loaded) (x y v : Nat) : Nat :=
  let t := thresholds a x y
  b2n (t.1 < v) + b2n (t.2.1 < v) + b2n (t.2.2 < v)

/-- R157: the phase of frame F. -/
def framePhase (phase step : Nat) (f first : FrameNo) : Nat := (phase + (f - first).toNat * step) % 256

/-! ### One band (R140) -/

/-- What a band renders to: its lines of 4-bit position records, the malformed tiles met as layer, handle, source channel
and tile number, and the lost shares. -/
structure Rendered where
  lines : List (List Nat) := []
  faults : List (Nat × Nat × Nat × Nat) := []
  lost : Nat := 0
  deriving DecidableEq, Repr

/-- Tile number that DECODE_ERROR gives for a header fault (R144). -/
def headerTile : Nat := 0xFFFFFFFF

/-- R144: the mark of a source channel not below CHANNELS; its event names the same tile number as a header's. -/
def channelTile : Nat := 0x100000000

/-- R144: the faults that make a source transparent in this band: a missing channel only where the layer covers the band. -/
def sourceFaults (ch : Nat) (s : Source) (pts : List (Int × Int)) : List (Nat × Nat × Nat × Nat) :=
  let chans := s.layer.source ch :: (if s.layer.covChannel = 0xFF then [] else [s.layer.covChannel])
  match ltcHeader s.img with
  | none => [(s.num, s.handle, s.layer.source ch, headerTile)]
  | some h =>
    match chans.find? fun c => decide (h.channels ≤ c) with
    | some c => if pts.any fun pt => s.layer.coversAt h pt.1 pt.2 then [(s.num, s.handle, c, channelTile)] else []
    | none =>
      (pts.flatMap fun pt =>
        if s.layer.coversAt h pt.1 pt.2 then
          chans.flatMap fun c => (sampleFaults s.layer h s.img c pt.1 pt.2).map fun t => (s.num, s.handle, c, t)
        else []).eraseDups

/-- R140: render 32 lines of a bar. `line0` is the first line's number, `y0` its line within the frame, `srcs` the layers
that take part, in ascending Z. -/
def renderPrint (cfg : PrintCfg) (bar ch : Nat) (srcs : List Source) (f first : FrameNo) (line0 : Int) (y0 : Nat) :
    Rendered :=
  let m := Tab.get {} cfg.maps bar
  let colPos := barColumns cfg bar m
  let cols := (colPos.map (·.1)).eraseDups
  let dead := deadColumn cfg m colPos
  let pts := (List.range 32).flatMap fun l => cols.map fun c => (Int.ofNat c, Int.ofNat (y0 + l))
  let faults := srcs.flatMap fun s => sourceFaults ch s pts
  let good := srcs.filter fun s => !faults.any fun e => e.1 == s.num
  let sc := Tab.get {} cfg.screens ch
  let arr := Tab.get {} cfg.arrays ch
  let post := Tab.get {} cfg.post ch
  let px := framePhase sc.phaseX sc.stepX f first
  let py := framePhase sc.phaseY sc.stepY f first
  let line := fun (l : Nat) =>
    let y := y0 + l
    let nl := line0 + Int.ofNat l
    let v := cols.foldl (fun t c => Tab.put 0 t c (toneMap post (composite cfg ch good (Int.ofNat c) (Int.ofNat y)))) []
    let sp := spread sc cols dead v
    let recs := (List.range m.positions).map fun p =>
      match m.nodeOf p, m.mapCol p with
      | some n, some mc =>
        let col := (mc + Tab.get 0 cfg.shift bar).toNat
        match selectNozzle cfg bar m p nl with
        | .suppress => 4 * patternChoice cfg bar n p nl
        | sel =>
          let b := if sel = .b then 1 else 0
          let j := 2 * n.localIdx p + b
          let cls := bitsAt (Tab.get nozzleDefault cfg.nozzles (n.node * 32768 + j)) 0 6
          let v' := toneMap (Tab.get {} cfg.comp (ch * 64 + cls)) (Tab.get 0 sp.1 col)
          screenDot arr ((col + px) % 256) ((y + py) % 256) v' + 4 * b
      | _, _ => 0
    (recs, sp.2)
  let ls := (List.range 32).map line
  { lines := ls.map (·.1), faults := faults, lost := ls.foldl (fun n x => n + x.2) 0 }

end Sys2Proof.Machine
end

