-- ==== Sys2Proof/Machine/LfRender.lean ====
section
/-! DEFINITION. The light-field computation per emitter (R238 to R242, R251, R255 to R259). Numbers are exact integers; a
product of R257 is taken modulo 2^64 as a signed number (log 21). -/

namespace Sys2Proof.Machine

/-- An arithmetic shift right: toward minus infinity. -/
def sar (x : Int) (n : Nat) : Int := Int.fdiv x (2 ^ n)

/-- A value of signed 64-bit arithmetic. -/
def wrap64 (x : Int) : Int := signed 64 (unsigned 64 x)

/-! ### LTC-B (R241, R242) -/

/-- R241: the 128-bit block that holds texel (x, y) of a plane stored from address `base` on. -/
def ltcbBlock (m : Memory) (base width x y : Nat) : Nat := m.num (base + 16 * ((y / 4) * (width / 4) + x / 4)) 16

/-- R242: component `c` (0 red, 1 green, 2 blue, 3 alpha) of texel `k` of a block. -/
def ltcbTexel (block k c : Nat) : Nat :=
  let e0 := bitsAt block (8 * c) 8
  let e1 := bitsAt block (32 + 8 * c) 8
  let i := bitsAt block (64 + 4 * k) 4
  (e0 * (15 - i) + e1 * i + 7) / 15

/-- A plane with the address of its content. -/
structure PlaneUse where
  num : Nat
  plane : Plane
  base : Nat

/-- R255: the linearising table of a plane. -/
def linMap (t : Loaded) (ch c : Nat) : Nat := if t.id = 0 then c * 257 else t.data.getD (256 * ch + c) 0

/-- R257: the premultiplied colour and the alpha, 16 bits each, of a texel; 0 outside the plane. -/
def texel16 (m : Memory) (lin : Tab Loaded) (u : PlaneUse) (ch : Nat) (x y : Int) : Nat × Nat :=
  if x < 0 ∨ y < 0 ∨ Int.ofNat u.plane.width ≤ x ∨ Int.ofNat u.plane.height ≤ y then (0, 0)
  else
    let b := ltcbBlock m u.base u.plane.width x.toNat y.toNat
    let k := 4 * (y.toNat % 4) + x.toNat % 4
    let a := ltcbTexel b k 3 * 257
    ((linMap (Tab.get {} lin u.num) ch (ltcbTexel b k ch) * a + 32767) / 65535, a)

/-! ### Sampling (R257, R258) -/

/-- R257: the texel position of a point in a plane, Q24.8. -/
def Plane.pos (p : Plane) (px py : Int) : Int × Int :=
  (sar (wrap64 (wrap64 (p.a00 * px) + wrap64 (p.a01 * py))) 20 + p.a02,
   sar (wrap64 (wrap64 (p.a10 * px) + wrap64 (p.a11 * py))) 20 + p.a12)

/-- R257: the point falls outside the plane: no taps, not a visit. -/
def Plane.misses (p : Plane) (iu iv : Int) : Bool :=
  decide (iu < -1) || decide (Int.ofNat p.width ≤ iu) || decide (iv < -1) || decide (Int.ofNat p.height ≤ iv)

/-- R257: the bilinear sample of a plane at texel position (u, v), none where it has no taps. -/
def sampleBilinear (m : Memory) (lin : Tab Loaded) (p : PlaneUse) (ch : Nat) (u v : Int) : Option (Nat × Nat) :=
  let iu := sar (u - 128) 8
  let iv := sar (v - 128) 8
  let fu := ((u - 128) % 256).toNat
  let fv := ((v - 128) % 256).toNat
  if p.plane.misses iu iv then none
  else
    let sum := [(0, 0), (1, 0), (0, 1), (1, 1)].foldl (fun (acc : Nat × Nat) d =>
      let w := (if d.1 = 1 then fu else 256 - fu) * (if d.2 = 1 then fv else 256 - fv)
      let t := texel16 m lin p ch (iu + Int.ofNat d.1) (iv + Int.ofNat d.2)
      (acc.1 + w * t.1, acc.2 + w * t.2)) (0, 0)
    some ((sum.1 + 32768) / 65536, (sum.2 + 32768) / 65536)

/-- Round to the nearest, ties upward. -/
def roundDiv (n d : Int) : Int := Int.fdiv (2 * n + d) (2 * d)

/-- R147, R258: the taps of one direction at texel position `u`, with weights in units of 1/4,096 that sum to 4,096. -/
def kernelTaps (taps : Nat) (u : Int) : List (Int × Int) :=
  let i := sar (u - 128) 8
  let f := (u - 128) % 256
  match taps with
  | 2 => [(i, 4096 - 16 * f), (i + 1, 16 * f)]
  | 3 =>
    let r := sar u 8
    let g := u - 128 - 256 * r
    let a := roundDiv ((128 - g) * (128 - g)) 32
    let b := roundDiv ((128 + g) * (128 + g)) 32
    [(r - 1, a), (r, 4096 - a - b), (r + 1, b)]
  | _ =>
    let a := roundDiv (-f * f * f + 512 * f * f - 65536 * f) 8192
    let b := roundDiv (3 * f * f * f - 1280 * f * f + 33554432) 8192
    let c := roundDiv (-3 * f * f * f + 1024 * f * f + 65536 * f) 8192
    let d := roundDiv (f * f * f - 256 * f * f) 8192
    if f ≤ 128 then [(i - 1, a), (i, 4096 - a - c - d), (i + 1, c), (i + 2, d)]
    else [(i - 1, a), (i, b), (i + 1, 4096 - a - b - d), (i + 2, d)]

/-- R126, R258: vertical taps of an overlay plane. -/
def Plane.v (p : Plane) : Nat := if p.vtaps = 0 then (if p.cubic then 4 else 2) else p.vtaps

/-- R258: the cubic sample of an overlay plane. -/
def sampleCubic (m : Memory) (lin : Tab Loaded) (p : PlaneUse) (ch : Nat) (u v : Int) : Option (Nat × Nat) :=
  if p.plane.misses (sar (u - 128) 8) (sar (v - 128) 8) then none
  else
    let sum := (kernelTaps p.plane.v v).foldl (fun (acc : Int × Int) ty =>
      (kernelTaps 4 u).foldl (fun (acc : Int × Int) tx =>
        let t := texel16 m lin p ch tx.1 ty.1
        (acc.1 + tx.2 * ty.2 * Int.ofNat t.1, acc.2 + tx.2 * ty.2 * Int.ofNat t.2)) acc) (0, 0)
    some (roundClamp sum.1, roundClamp sum.2)

/-! ### Walking the planes (R257, R258) -/

/-- What the plane walk gathers. -/
structure Walk where
  c : Nat := 0
  a : Nat := 0
  visits : Nat := 0
  early : Bool := false

/-- R257: walk the depth planes front to back. -/
def walkPlanes (m : Memory) (lin : Tab Loaded) (ch : Nat) (x y dx dy : Int) : List PlaneUse → Walk → Walk
  | [], w => w
  | p :: ps, w =>
    let px := x + sar (p.plane.depth * dx) 28
    let py := y + sar (p.plane.depth * dy) 28
    let uv := p.plane.pos px py
    match sampleBilinear m lin p ch uv.1 uv.2 with
    | none => walkPlanes m lin ch x y dx dy ps w
    | some (c, a) =>
      let w1 := { w with
        c := w.c + ((65535 - w.a) * c + 32767) / 65535, a := w.a + ((65535 - w.a) * a + 32767) / 65535
        visits := w.visits + 1 }
      if 0xFF00 ≤ w1.a then { w1 with early := true } else walkPlanes m lin ch x y dx dy ps w1

/-- R258: lay the overlay planes over the result, in ascending ORDER. -/
def layOver (m : Memory) (lin : Tab Loaded) (ch : Nat) (x y : Int) : List PlaneUse → Nat → Nat
  | [], r => r
  | p :: ps, r =>
    let uv := p.plane.pos x y
    let s := if p.plane.cubic then sampleCubic m lin p ch uv.1 uv.2 else sampleBilinear m lin p ch uv.1 uv.2
    match s with
    | none => layOver m lin ch x y ps r
    | some (c, a) => layOver m lin ch x y ps (Nat.min 65535 (c + ((65535 - a) * r + 32767) / 65535))

/-- R258, R262: the taps and the overlay planes that have taps at a point. -/
def overlayWork (x y : Int) : List PlaneUse → Nat × Nat
  | [] => (0, 0)
  | p :: ps =>
    let uv := p.plane.pos x y
    let r := overlayWork x y ps
    if p.plane.misses (sar (uv.1 - 128) 8) (sar (uv.2 - 128) 8) then r
    else (r.1 + (if p.plane.cubic then 4 * p.plane.v else 4), r.2 + 1)

/-! ### One emitter (R256 to R259) -/

/-- Everything a band is rendered from. -/
structure LfScene where
  cfg : LfCfg
  map : RayMap
  mem : Memory
  records : Nat
  gainAt : Option Nat
  planes : List PlaneUse
  overlays : List PlaneUse
  depth : Nat
  frame : FrameNo

/-- R256: the ray slope of an emitter. -/
def raySlope (rg : Region) (x y : Int) (rx ry : Int) : Int × Int :=
  let tx := x - rg.x0 + sar (rg.slant * (y - rg.y0)) 24
  let wx := Int.fdiv (tx * 4096) (Int.ofNat rg.pLx) % 4096 - 2048
  let wy := if rg.pLy = 0 then 0 else Int.fdiv ((y - rg.y0) * 4096) (Int.ofNat rg.pLy) % 4096 - 2048
  let sat := fun (v : Int) => max (-(2 ^ 31 : Int)) (min (2 ^ 31 - 1 : Int) v)
  (sat (rg.dx0 + sar (rg.kx * wx) 12 + rx * 2 ^ (24 - rg.resX)), sat (rg.dy0 + sar (rg.ky * wy) 12 + ry * 2 ^ (24 - rg.resY)))

/-- R259: the drive word from the linear value. `lum` is the luminance factor in 1/256 (R445). -/
def driveWord (sc : LfScene) (lum : Nat) (e ch col row r : Nat) : Nat :=
  let g0 := toneMap (Tab.get {} sc.cfg.gamma ch) r
  let g := (g0 * lum + 128) / 256
  let go : Nat × Int :=
    if sc.cfg.gainCal then Tab.get (16384, 0) sc.cfg.gains e
    else
      match sc.gainAt with
      | none => (16384, 0)
      | some a => (sc.mem.num (a + 4 * e) 2, signed 16 (sc.mem.num (a + 4 * e + 2) 2))
  let v := (max 0 (min 65535 (Int.ofNat ((g * go.1 + 8192) / 16384) + go.2))).toNat
  let s := v * (2 ^ sc.depth - 1)
  let q := s / 65535
  let f := (s % 65535) * 65536 / 65535
  let thr := if sc.cfg.temporal then
      ((ditherB (col % 16) (row % 16) + 17 * ch + 89 * (sc.frame.toNat % 256)) % 256) * 256 + 128
    else 32768
  q + b2n (decide (thr ≤ f))

/-- What rendering one emitter gives: the value, the depth-plane visits and whether the walk ended early (R257), and the
overlay taps and samples (R262). -/
structure EmitterOut where
  value : Nat := 0
  visits : Nat := 0
  early : Bool := false
  taps : Nat := 0
  samples : Nat := 0

/-- R248, R256 to R259: emitter `e`. A record with DARK or a reserved bit set is driven 0, as is one with no colour or region. -/
def renderEmitter (sc : LfScene) (lum : Nat → Nat) (e : Nat) : EmitterOut :=
  let m := sc.map
  let pix := e / Nat.max 1 m.subpix
  let sp := e % Nat.max 1 m.subpix
  let col := pix % Nat.max 1 m.cols
  let row := pix / Nat.max 1 m.cols
  let rec' := sc.mem.num (sc.records + 4 * e) 4
  let ch := bitsAt rec' 24 2
  let reg := bitsAt rec' 16 8
  if ch = 3 ∨ m.regions.length ≤ reg then {}
  else
    let rg := m.regions.getD reg {}
    let d := m.pos.getD sp (0, 0)
    let x := (m.colBase + Int.ofNat col) * 4096 + 2048 + d.1
    let y := Int.ofNat row * 4096 + 2048 + d.2
    let res := if sc.cfg.resCal then Tab.get (0, 0) sc.cfg.residuals e
      else (signed 10 (bitsAt rec' 0 10), signed 6 (bitsAt rec' 10 6))
    let s := raySlope rg x y res.1 res.2
    let w := walkPlanes sc.mem sc.cfg.lin ch x y s.1 s.2 sc.planes {}
    let bg := if ch = 0 then sc.cfg.bgR else if ch = 1 then sc.cfg.bgG else sc.cfg.bgB
    let r0 := Nat.min 65535 (w.c + ((65535 - Nat.min w.a 65535) * bg + 32767) / 65535)
    let r := layOver sc.mem sc.cfg.lin ch x y sc.overlays r0
    let ow := overlayWork x y sc.overlays
    { taps := ow.1, samples := ow.2, value := if bitsAt rec' 26 6 ≠ 0 then 0 else driveWord sc (lum col) e ch col row r, visits := w.visits, early := w.early }

/-- What rendering a band gives: 8 rows of values in logical order, the counts of LFR.TERM, and the overlay taps and samples
of R262. -/
structure LfRendered where
  rows : List (List Nat) := []
  early : Nat := 0
  visits : Nat := 0
  taps : Nat := 0
  samples : Nat := 0

/-- R260: render band `k`. Until a ray map is in force every emitter renders 0 (R248). -/
def renderLf (sc : LfScene) (lum : Nat → Nat) (k : Nat) : LfRendered :=
  let w := sc.map.cols * sc.map.subpix
  let rows := (List.range 8).map fun i => (List.range w).map fun j => renderEmitter sc lum ((8 * k + i) * w + j)
  { rows := rows.map fun r => r.map fun o => o.value
    early := rows.foldl (fun a r => a + (r.filter fun o => o.early).length) 0
    visits := rows.foldl (fun a r => r.foldl (fun b o => b + o.visits) a) 0
    taps := rows.foldl (fun a r => r.foldl (fun b o => b + o.taps) a) 0
    samples := rows.foldl (fun a r => r.foldl (fun b o => b + o.samples) a) 0 }

/-- R239: depth planes front to back. -/
def LfCfg.depthOrder (c : LfCfg) : List Nat :=
  let insert := fun (l : List Nat) (n : Nat) =>
    let d := (Tab.get {} c.planes n).depth
    (l.takeWhile fun k => decide (d ≤ (Tab.get {} c.planes k).depth)) ++
      n :: l.dropWhile fun k => decide (d ≤ (Tab.get {} c.planes k).depth)
  ((List.range 64).filter fun n => (Tab.get {} c.planes n).bound).foldl insert []

/-- R239: overlay planes in ascending ORDER. -/
def LfCfg.overlayOrder (c : LfCfg) : List Nat :=
  (List.range 4).filterMap fun o =>
    ((List.range 4).map (64 + ·)).find? fun n => (Tab.get {} c.planes n).bound && (Tab.get {} c.planes n).order == o

end Sys2Proof.Machine
end

