-- ==== Sys2Proof/Machine/Taint.lean ====
section
/-! DEFINITION. What a computed position or emitter has read, as address ranges in device DRAM, so that R413 can carry poison
from sources to rendered blocks. -/

namespace Sys2Proof.Machine

/-! ### Print (R140 to R154) -/

/-- The ranges, within its image, that a tile takes: its index entry and its data. -/
def tileReads (h : LtcHeader) (img : List Byte) (ty tx ch : Nat) : List (Nat × Nat) :=
  let e := tileEntry h img ty tx ch
  let mode := bitsAt e 62 2
  (h.indexOff + 8 * ((ty * h.tilesX + tx) * h.channels + ch), 8) ::
    (if mode = 0 ∨ mode = 2 then [(h.dataOff + bitsAt e 0 40, 4 * bitsAt e 40 22)] else [])

/-- The ranges, within its buffer, that a source reads for column `c` and frame line `y` of ink channel `ch`. -/
def Source.reads (s : Source) (ch : Nat) (c y : Int) : List (Nat × Nat) :=
  match ltcHeader s.img with
  | none => [(0, 64)]
  | some h =>
    if !s.layer.coversAt h c y then [(0, 64)]
    else
      let chans := s.layer.source ch :: (if s.layer.covChannel = 0xFF then [] else [s.layer.covChannel])
      (0, 64) :: ((s.layer.axisY h).taps s.layer.v y).flatMap fun ty =>
        ((s.layer.axisX h).taps (filterH s.layer.filter) c).flatMap fun tx =>
          chans.flatMap fun k => tileReads h s.img (ty.1 / 64) (tx.1 / 64) k

/-- The columns whose value reaches column `c`: its own, and the dead columns within REACH of it (R154). -/
def sharedColumns (cols : List Nat) (dead : Nat → Bool) (reach c : Nat) : List Nat :=
  cols.filter fun k => k == c || (dead k && decide (k ≤ c + reach) && decide (c ≤ k + reach))

/-- The key of position `p` of line `l` in `Band.poisoned`; also of emitter `p` of row `l`. -/
def poisonKey (l p : Nat) : Nat := l * 2 ^ 24 + p

/-- R413: the positions of a print band that lie in a 256-byte block whose computation read poison. `bad` says whether a
range of a buffer is poisoned. -/
def printTaint (cfg : PrintCfg) (bar ch : Nat) (srcs : List Source) (y0 : Nat) (bad : Nat → Nat → Nat → Bool) : List Nat :=
  let m := Tab.get {} cfg.maps bar
  let colPos := barColumns cfg bar m
  let cols := (colPos.map (·.1)).eraseDups
  let dead := deadColumn cfg m colPos
  let reach := (Tab.get {} cfg.screens ch).reach
  let stride := 32 * ((m.positions + 63) / 64)
  let block := fun (l p : Nat) => (256 + l * stride + 4 * (p / 8)) / 256
  let hit := fun (l c : Nat) =>
    (sharedColumns cols dead reach c).any fun k =>
      srcs.any fun s => (s.reads ch (Int.ofNat k) (Int.ofNat (y0 + l))).any fun r => bad s.handle r.1 r.2
  let column := fun (p : Nat) => (m.mapCol p).map fun mc => (mc + Tab.get 0 cfg.shift bar).toNat
  let all := (List.range 32).flatMap fun l => (List.range m.positions).map fun p => (l, p)
  let blocks := (all.filterMap fun e => match column e.2 with
    | some c => if hit e.1 c then some (block e.1 e.2) else none
    | none => none).eraseDups
  (all.filter fun e => blocks.contains (block e.1 e.2)).map fun e => poisonKey e.1 e.2

/-! ### Light-field (R256 to R259) -/

/-- The address of the block of a texel, none outside the plane. -/
def PlaneUse.texelAt (u : PlaneUse) (x y : Int) : List Nat :=
  if x < 0 ∨ y < 0 ∨ Int.ofNat u.plane.width ≤ x ∨ Int.ofNat u.plane.height ≤ y then []
  else [u.base + 16 * ((y.toNat / 4) * (u.plane.width / 4) + x.toNat / 4)]

/-- The blocks a bilinear sample reads. -/
def PlaneUse.bilinear (u : PlaneUse) (uv : Int × Int) : List Nat :=
  let iu := sar (uv.1 - 128) 8
  let iv := sar (uv.2 - 128) 8
  if u.plane.misses iu iv then []
  else [(0, 0), (1, 0), (0, 1), (1, 1)].flatMap fun (d : Int × Int) => u.texelAt (iu + d.1) (iv + d.2)

/-- The blocks a cubic sample reads. -/
def PlaneUse.cubic (u : PlaneUse) (uv : Int × Int) : List Nat :=
  if u.plane.misses (sar (uv.1 - 128) 8) (sar (uv.2 - 128) 8) then []
  else (kernelTaps u.plane.v uv.2).flatMap fun ty => (kernelTaps 4 uv.1).flatMap fun tx => u.texelAt tx.1 ty.1

/-- R257: the blocks that the walk of the depth planes reads. -/
def walkReads (m : Memory) (lin : Tab Loaded) (ch : Nat) (x y dx dy : Int) : List PlaneUse → Walk → List Nat
  | [], _ => []
  | p :: ps, w =>
    let uv := p.plane.pos (x + sar (p.plane.depth * dx) 28) (y + sar (p.plane.depth * dy) 28)
    let w1 := walkPlanes m lin ch x y dx dy [p] w
    p.bilinear uv ++ (if w1.early then [] else walkReads m lin ch x y dx dy ps w1)

/-- The ranges that emitter `e` reads: its record, its gain and offset, and its texels. -/
def emitterReads (sc : LfScene) (e : Nat) : List (Nat × Nat) :=
  let m := sc.map
  let pix := e / Nat.max 1 m.subpix
  let sp := e % Nat.max 1 m.subpix
  let rec' := sc.mem.num (sc.records + 4 * e) 4
  let ch := bitsAt rec' 24 2
  let reg := bitsAt rec' 16 8
  let own := [(sc.records + 4 * e, 4)]
  if ch = 3 ∨ m.regions.length ≤ reg then own
  else
    let d := m.pos.getD sp (0, 0)
    let x := (m.colBase + Int.ofNat (pix % Nat.max 1 m.cols)) * 4096 + 2048 + d.1
    let y := Int.ofNat (pix / Nat.max 1 m.cols) * 4096 + 2048 + d.2
    let res := if sc.cfg.resCal then Tab.get (0, 0) sc.cfg.residuals e
      else (signed 10 (bitsAt rec' 0 10), signed 6 (bitsAt rec' 10 6))
    let s := raySlope (m.regions.getD reg {}) x y res.1 res.2
    let above := sc.overlays.flatMap fun p =>
      let uv := p.plane.pos x y
      if p.plane.cubic then p.cubic uv else p.bilinear uv
    own ++ (match sc.gainAt with
      | some a => if sc.cfg.gainCal then [] else [(a + 4 * e, 4)]
      | none => []) ++
      (walkReads sc.mem sc.cfg.lin ch x y s.1 s.2 sc.planes {} ++ above).map fun a => (a, 16)

/-- R279, R413: the emitters of a light-field band that lie in a 256-byte block of the band whose computation read poison. -/
def lfTaint (sc : LfScene) (band : Nat) (bad : Nat → Nat → Bool) : List Nat :=
  let w := sc.map.cols * sc.map.subpix
  let block := fun (e : Nat) => e * sc.depth / 2048
  let blocks := ((List.range (8 * w)).filterMap fun e =>
    if (emitterReads sc (8 * band * w + e)).any fun q => bad q.1 q.2 then some (block e) else none).eraseDups
  ((List.range (8 * w)).filter fun e => blocks.contains (block e)).map fun e => poisonKey (e / w) (e % w)

end Sys2Proof.Machine
end

