-- ==== Sys2Proof/Machine/FireMap.lean ====
section
/-! DEFINITION. Bar maps and their checks (R165 to R169), firing arithmetic (R181 to R185, R193), and the content of
selection banks (R175, R225). -/

namespace Sys2Proof.Machine

/-! ### Access -/

/-- FIRE state of bar `b`. -/
def State.fireBar (s : State) (b : Nat) : FireBar := Tab.get {} s.fire.bars b

/-- Set FIRE state of bar `b`. -/
def State.setFireBar (s : State) (b : Nat) (x : FireBar) : State :=
  { s with fire := { s.fire with bars := Tab.put {} s.fire.bars b x } }

/-- Feeder of link `l`. -/
def State.feeder (s : State) (l : Nat) : Feeder := Tab.get {} s.fire.feeders l

/-- Set the feeder of link `l`. -/
def State.setFeeder (s : State) (l : Nat) (x : Feeder) : State :=
  { s with fire := { s.fire with feeders := Tab.put {} s.fire.feeders l x } }

/-- The LZ9's view of the banks of node `n`. -/
def State.banks (s : State) (n : Nat) : NodeBanks := Tab.get {} s.fire.banks n

/-- Set the view of the banks of node `n`. -/
def State.setBanks (s : State) (n : Nat) (x : NodeBanks) : State :=
  { s with fire := { s.fire with banks := Tab.put {} s.fire.banks n x } }

/-- The bars of the job (R133). -/
def State.jobBars (s : State) : List Nat :=
  if s.prn.job.isOpen then allBars.filter fun b => bitAt s.prn.job.bars b else []

/-- The bar map of bar `b` in a configuration. -/
def PrintCfg.map (c : PrintCfg) (b : Nat) : BarMap := Tab.get {} c.maps b

/-- The firing timing of bar `b` in a configuration. -/
def PrintCfg.timingOf (c : PrintCfg) (b : Nat) : Timing := Tab.get {} c.timing b

/-- A map is loaded for the bar. -/
def PrintCfg.hasMap (c : PrintCfg) (b : Nat) : Bool := !(c.map b).nodes.isEmpty

/-! ### Firing arithmetic -/

/-- R183: PRE_MAX. -/
def Timing.preMax (t : Timing) : Nat := t.preBase + 7 * t.preStep

/-- R183: T_slot. -/
def Timing.tSlot (t : Timing) : Nat := t.preMax + t.preGap + t.mainHigh + t.slotGuard

/-- R182, R445: G_eff under head-supply step `step`. -/
def Timing.gEff (t : Timing) (step : Nat) : Nat :=
  (([8, 12, 16, 24, 32, 48, 64] : List Nat).find? fun g => decide (t.groups * 16 ≤ g * (16 - step))).getD 64

/-- R177: payload bytes of a node per line. -/
def MapNode.payload (n : MapNode) : Nat := ceilDiv n.count 4

/-- The node entries on link `l`, of every bar. -/
def PrintCfg.onLink (c : PrintCfg) (l : Nat) : List MapNode :=
  c.maps.flatMap fun e => e.2.nodes.filter fun n => n.node / 8 == l

/-- R177: payload bytes per line on a link. -/
def PrintCfg.linkBytes (c : PrintCfg) (l : Nat) : Nat := (c.onLink l).foldl (fun a n => a + n.payload) 0

/-- The bar whose map names a node. -/
def PrintCfg.barOf (c : PrintCfg) (n : Nat) : Option Nat := (c.maps.find? fun e => e.2.nodes.any fun k => k.node == n).map (·.1)

/-- R181: TX_NS. -/
def PrintCfg.txNs (c : PrintCfg) (l : Nat) : Nat :=
  let ns := c.onLink l
  if ns.isEmpty then 0
  else ceilDiv (64 * ns.foldl (fun a n => a + (3 + ceilDiv n.payload 8)) 0) 10 + 100

/-- The links that carry nodes of a bar. -/
def BarMap.links (m : BarMap) : List Nat := (m.nodes.map fun n => n.node / 8).eraseDups

/-- R193: the term of a bar. -/
def PrintCfg.barTerm (c : PrintCfg) (b step : Nat) : Nat :=
  let t := c.timingOf b
  (c.map b).links.foldl (fun a l => Nat.max a (c.txNs l)) (t.gEff step * t.tSlot + t.seqGuard)

/-! ### Reading a bar map image (R165) -/

/-- A node entry. -/
def readMapNode (img : List Byte) (o : Nat) : MapNode :=
  { node := byteAt img o, reversed := bitAt (byteAt img (o + 1)) 0, supply := byteAt img (o + 2)
    supplyIndex := byteAt img (o + 3), first := numAt img (o + 4) 4, count := numAt img (o + 8) 2
    frac := byteAt img (o + 10), pattern := byteAt img (o + 11), lowRamp := numAt img (o + 12) 2
    highRamp := numAt img (o + 14) 2 }

/-- A column segment. -/
def readMapSeg (img : List Byte) (o : Nat) : MapSeg :=
  { first := numAt img o 4, count := numAt img (o + 4) 4, col := signed 32 (numAt img (o + 8) 4)
    falling := byteAt img (o + 12) == 0xFF }

/-- Offsets of the node entries. -/
def mapNodeOffs (img : List Byte) : List Nat := (List.range (byteAt img 5)).map fun i => 32 + 16 * i

/-- Offsets of the segments. -/
def mapSegOffs (img : List Byte) : List Nat :=
  (List.range (numAt img 6 2)).map fun i => 32 + 16 * byteAt img 5 + 16 * i

/-- The map of an image. -/
def readMap (img : List Byte) : BarMap :=
  { nodes := (mapNodeOffs img).map (readMapNode img), segs := (mapSegOffs img).map (readMapSeg img)
    positions := numAt img 8 4, columns := numAt img 12 4 }

/-- Bytes of a map image by its header. -/
def mapLength (img : List Byte) : Nat := 32 + 16 * byteAt img 5 + 16 * numAt img 6 2

/-- The first non-zero byte of an image from `a` up to `b`. -/
def imgZero (img : List Byte) (a b : Nat) : PF :=
  ((List.range (b - a)).find? fun i => byteAt img (a + i) != 0).map fun i => (a + i, Rsn.reserved)

/-- R168: faults of the header, then of the entries, field by field. -/
def mapFieldFault (img : List Byte) : PF :=
  let head := firstOf
    [need (numAt img 0 4 == 0x4D415042) 0 Rsn.range, need (byteAt img 4 == 1) 4 Rsn.range,
     inR 5 (byteAt img 5) 1 64, inR 6 (numAt img 6 2) 1 1024, inR 8 (numAt img 8 4) 1 262144,
     inR 12 (numAt img 12 4) 1 262144, imgZero img 16 32]
  let node := fun o => firstOf
    [need (byteAt img (o + 1) < 2) (o + 1) Rsn.reserved, inR (o + 2) (byteAt img (o + 2)) 0 63,
     inR (o + 3) (byteAt img (o + 3)) 0 7, inR (o + 8) (numAt img (o + 8) 2) 1 16384,
     inR (o + 11) (byteAt img (o + 11)) 0 15, inR (o + 12) (numAt img (o + 12) 2) 0 1024,
     inR (o + 14) (numAt img (o + 14) 2) 0 1024]
  let seg := fun o => firstOf
    [need (1 ≤ numAt img (o + 4) 4) (o + 4) Rsn.range,
     need (byteAt img (o + 12) == 1 || byteAt img (o + 12) == 0xFF) (o + 12) Rsn.range, imgZero img (o + 13) (o + 16)]
  match head with
  | some f => some f
  | none => firstOf ((mapNodeOffs img).map node ++ (mapSegOffs img).map seg)

/-! ### Checks of a map as a whole (R168, R169) -/

/-- The first position not covered exactly once by ranges of first and count, or covered past the end. -/
def coverFault (rs : List (Nat × Nat)) (p : Nat) : Option Nat :=
  let top := rs.foldl (fun a r => Nat.max a (r.1 + r.2)) p
  (List.range top).find? fun q =>
    (rs.filter fun r => decide (r.1 ≤ q) && decide (q < r.1 + r.2)).length != (if q < p then 1 else 0)

/-- R168: the first node that enumeration does not back, or that another bar's map names. -/
def nodeFault (s : State) (bar : Nat) (m : BarMap) : Option Nat :=
  (m.nodes.find? fun n =>
    let v := s.node n.node
    !v.present || v.kind != 1 || decide (v.emitters < 2 * n.count) ||
      (s.staged.maps.any fun e => e.1 != bar && e.2.nodes.any fun k => k.node == n.node)).map (·.node)

/-- R168: the first position whose map column is shared too often. -/
def columnFault (m : BarMap) : Option Nat :=
  (List.range m.positions).find? fun p =>
    let qs := m.partners p
    decide (1 < qs.length) || qs.any fun q => m.nodeOf q == m.nodeOf p

/-- R168, R185: the first node that shares its supply place, or whose WHIP_DELAY is too long. -/
def supplyFault (whip : Nat) (m : BarMap) : Option Nat :=
  (m.nodes.find? fun n =>
    decide (150 < n.supplyIndex * whip) ||
      (m.nodes.any fun k => k.node != n.node && k.supply == n.supply && k.supplyIndex == n.supplyIndex)).map (·.node)

/-- R168: the node at which a link's line payload passes 8,192 bytes. -/
def payloadFault (c : PrintCfg) (m : BarMap) : Option Nat :=
  (m.nodes.find? fun n => decide (8192 < c.linkBytes (n.node / 8))).map (·.node)

/-- R169: the ramp of a position: none, LOW (its length), HIGH (its length). A ramp is that many positions of the node at its low or
high column end, however its columns lie. -/
def BarMap.inRamp (m : BarMap) (p : Nat) : Option (Bool × Nat) :=
  match m.nodeOf p, m.mapCol p with
  | some n, some c =>
    let cols := (List.range n.count).filterMap fun i => m.mapCol (n.first + i)
    if (cols.filter fun x => decide (x < c)).length < n.lowRamp then some (true, n.lowRamp)
    else if (cols.filter fun x => decide (c < x)).length < n.highRamp then some (false, n.highRamp)
    else none
  | _, _ => none

/-- R169: the columns that the nodes of positions `p` and `q` share. -/
def BarMap.shared (m : BarMap) (p q : Nat) : List Int :=
  match m.nodeOf p, m.nodeOf q with
  | some a, some b =>
    (List.range a.count).filterMap fun i =>
      if (m.partners (a.first + i)).any fun r => decide (b.first ≤ r) && decide (r < b.first + b.count) then m.mapCol (a.first + i)
      else none
  | _, _ => none.toList

/-- R169: a list of different columns forms one run of `n` columns. -/
def oneRun (n : Nat) : List Int → Bool
  | [] => n == 0
  | c :: cs => cs.length + 1 == n && (cs.foldl max c - cs.foldl min c + 1 == Int.ofNat n)

/-- R169: the first position that breaks the stitch rules: one outside the ramps that shares its column, one in a ramp that does
not, or one whose two nodes share columns that are not one run, the HIGH ramp of one node and the LOW ramp of the other. -/
def stitchFault (m : BarMap) : Option Nat :=
  (List.range m.positions).find? fun p =>
    match m.inRamp p, m.partners p with
    | none, qs => !qs.isEmpty
    | some _, [] => true
    | some r, q :: _ => m.inRamp q != some (!r.1, r.2) || !oneRun r.2 (m.shared p q)

/-- R168: the first whole-map fault, as RESULT. `c` is the configuration with the new map in place. -/
def mapFault (s : State) (c : PrintCfg) (bar : Nat) (m : BarMap) : Option Nat :=
  firstCap
    [coverFault (m.nodes.map fun n => (n.first, n.count)) m.positions,
     coverFault (m.segs.map fun g => (g.first, g.count)) m.positions,
     nodeFault s bar m, columnFault m, supplyFault (c.timingOf bar).whipStep m, payloadFault c m, stitchFault m]

/-- R168: nozzles that the maps of a configuration place. -/
def PrintCfg.nozzleCount (c : PrintCfg) : Nat := c.maps.foldl (fun a e => a + 2 * e.2.positions) 0

/-- R196: two maps agree in what a job fixes: P, the set of node IDs, and each node's FIRST_POS and COUNT. -/
def BarMap.sameShape (m k : BarMap) : Bool :=
  let parts := fun (x : BarMap) => x.nodes.map fun n => (n.node, n.first, n.count)
  m.positions == k.positions && (parts m).length == (parts k).length && (parts m).all fun e => (parts k).contains e

/-! ### Selection banks (R175, R225) -/

/-- R225: the timing block of a node. -/
def timingBlock (c : PrintCfg) (b step : Nat) (n : MapNode) : List Byte :=
  let t := c.timingOf b
  let sp := Tab.get {} c.spit b
  le 1 b ++ le 1 (t.gEff step) ++ le 1 t.stride ++ le 1 (b2n t.kwOn) ++ le 2 t.preBase ++ le 1 t.preStep ++ le 1 t.preGap ++
  le 2 t.preMax ++ le 2 t.mainLow ++ le 2 t.mainNom ++ le 2 t.mainHigh ++ le 1 t.slotGuard ++ le 1 n.frac ++
  le 1 (n.supplyIndex * t.whipStep) ++ le 1 0 ++ le 2 t.tSlot ++ le 2 t.colBDelay ++ le 2 t.kwIdleUs ++ le 2 t.kwRate ++
  le 2 n.count ++ le 2 sp.lines ++ le 4 sp.idleLines ++ le 1 sp.dot ++ le 27 0

/-- R170: the 512 bytes of a pattern. -/
def patternBytes (t : Loaded) : List Byte :=
  (List.range 512).map fun i =>
    if t.data.isEmpty then
      BitVec.ofNat 8 ((List.range 8).foldl (fun a x => a + 2 ^ x * ((8 * (i % 8) + x + i / 8) % 2)) 0)
    else BitVec.ofNat 8 (t.data.getD i 0)

/-- R175: one byte per nozzle: the effective missing state and the trim. -/
def nozzleBytes (c : PrintCfg) (n : MapNode) : List Byte :=
  (List.range (2 * n.count)).map fun j =>
    BitVec.ofNat 8 (b2n (c.isMissing n.node j) + 2 * bitsAt (Tab.get nozzleDefault c.nozzles (n.node * 32768 + j)) 6 4)

/-- R175, R176: the bank content of a node of bar `b`. -/
def bankContent (c : PrintCfg) (b step : Nat) (n : MapNode) : BankContent :=
  { timing := timingBlock c b step n, pattern := patternBytes (Tab.get {} c.patterns (b * 16 + n.pattern))
    nozzles := nozzleBytes c n }

/-- R182, R185, R186: from a timing block: the delay of column B, in 1/256 line, and WHIP_DELAY with the time of a sequence, in ns. -/
def fireSpan (t : List Byte) : Nat × Nat := (byteAt t 17 + numAt t 22 2, byteAt t 18 + byteAt t 1 * numAt t 20 2)

/-- The longer of two spans, each part by itself. -/
def spanMax (a b : Nat × Nat) : Nat × Nat := (Nat.max a.1 b.1, Nat.max a.2 b.2)

/-- The bank in use changes for frame `f`: the other bank takes the content, and its write waits for the frame that last
used it (R176). -/
def NodeBanks.switch (x : NodeBanks) (f : FrameNo) (k : BankContent) : NodeBanks :=
  let o := 1 - x.cur
  let w : BankWrite := { bank := o, frame := some f, content := k, after := if o = 0 then x.used0 else x.used1
                         span := fireSpan (if o = 0 then x.bank0 else x.bank1).timing }
  { x with
    cur := o, writes := x.writes ++ [w]
    bank0 := if o = 0 then k else x.bank0, bank1 := if o = 1 then k else x.bank1
    used0 := if o = 0 then some f else x.used0, used1 := if o = 1 then some f else x.used1 }

/-- R176: SEL_BANK_DECIDE for one node: keep the bank when the content is that of the frame before, or switch. -/
def NodeBanks.use (x : NodeBanks) (f : FrameNo) (k : BankContent) : NodeBanks :=
  if (if x.cur = 0 then x.bank0 else x.bank1) = k then
    { x with used0 := if x.cur = 0 then some f else x.used0, used1 := if x.cur = 1 then some f else x.used1 }
  else x.switch f k

/-- R464: a standby writes no bank. -/
def NodeBanks.writesOff (x : NodeBanks) (off : Bool) : NodeBanks := if off then { x with writes := [] } else x

/-- R176: decide the banks of frame `f` for every node of every bar of the job. -/
def decideBanks (f : FrameNo) (s : State) : State :=
  let c := (s.cfgOf f).prn
  let step := fun (st : State) (e : Nat × MapNode) =>
    let x := ((st.banks e.2.node).use f (bankContent c e.1 (s.headStep e.1) e.2)).writesOff s.shadow
    (st.setBanks e.2.node x).updFrame f fun r => { r with banks := r.banks ++ [(e.2.node, x.cur)] }
  (s.jobBars.flatMap fun b => (c.map b).nodes.map fun n => (b, n)).foldl step s

/-- R176, R446: the write of the bank that frame `f` uses at node `n` has been acknowledged. -/
def State.bankReady (s : State) (f : FrameNo) (n : Nat) : Bool :=
  let use := (s.frame f).banks.find? fun e => e.1 == n
  !(s.banks n).writes.any fun w => w.frame == some f || (w.frame.isNone && use == some (n, w.bank))

/-- R134: the first line of frame `f`. -/
def State.frameLine (s : State) (f : FrameNo) : Int :=
  s.prn.job.nFirst + Int.ofNat ((f - s.prn.job.firstFrame).toNat * s.prn.job.frameLines)

/-- R186: line `m` has fired in both columns at bar `b`, by a node with the span given: the tick on which column B fires it has been
sent, and the sequence it starts is over. A tick no longer listed is long past. -/
def State.lineFired (s : State) (b : Nat) (m : Int) (span : Nat × Nat) : Bool :=
  let n := m + Int.ofNat (span.1 / 256)
  decide (n < (s.webBar b).nl) &&
    match (s.fireBar b).ticks.find? fun e => e.1 == n with
    | none => true
    | some e =>
      decide (e.2.1 + Int.ofNat (if e.2.2 = 0 then 0 else phaseTime (256 + span.1 % 256) e.2.2) + Int.ofNat span.2 ≤ Int.ofNat s.uptime)

/-- R134: the last line of frame `f`. -/
def State.lastLineOf (s : State) (f : FrameNo) : Int := s.frameLine f + Int.ofNat s.prn.job.frameLines - 1

/-- Words of a bank write: the timing block and pattern, then one byte per nozzle padded to whole words (R225). -/
def sendBank (n : Nat) (w : BankWrite) (s : State) : State :=
  let base := 0x100000 + 0x80000 * w.bank
  let nz := w.content.nozzles ++ List.replicate ((4 - w.content.nozzles.length % 4) % 4) 0
  ctrlWriteAll 40 n (base + 0x400) nz ownBank (ctrlWriteAll 1 n base (w.content.timing ++ w.content.pattern) ownBank s)

/-- R176: start the oldest bank write of node `n` of bar `b`. -/
def startBankWrite (b n : Nat) (s : State) : State :=
  let x := s.banks n
  match x.writes with
  | [] => s
  | w :: ws =>
    let free := match w.after with
      | none => true
      | some f => s.lineFired b (s.lastLineOf f) w.span
    if w.started || !free || !s.claimed (n / 8) then s
    else
      let before := (s.node n).reqs.map (·.tag)
      let s1 := sendBank n w s
      let tags := ((s1.node n).reqs.map (·.tag)).filter fun t => !before.contains t
      s1.setBanks n { x with writes := { w with started := true, left := tags } :: ws }

/-- BANK_WRITE_START (R176): node `n` of a bar of the job. -/
def execBankWriteStart (node : Nat) (s : State) : Host.Outcome State Fault Refusal :=
  match s.frames.latest.prn.barOf node with
  | none => .next s
  | some b => .next (startBankWrite b node s)

/-! ### The minimum line period (R193) -/

/-- R193: the configuration whose terms a bar of the job takes, if any is in force. -/
def State.termCfg (s : State) : Option PrintCfg :=
  if s.prn.job.isOpen && s.frames.anyHost then
    some (if s.frames.openFirst = s.prn.job.firstFrame then s.frames.latest.prn else (s.cfgOf (s.frames.openFirst - 1)).prn)
  else none

/-- R199: the configuration whose timing is in force: that of `termCfg`, and with no job or before its first commit that of the
latest commit (DEDUCED, log 16). -/
def State.timingCfg (s : State) : Option PrintCfg :=
  match s.termCfg with
  | some c => some c
  | none => if s.frames.genLast = 0 then none else some s.frames.latest.prn

/-- R193: BAR_MIN_PERIOD of bar `b`. -/
def State.minPeriodOf (s : State) (b : Nat) : Nat :=
  match s.termCfg with
  | none => 0
  | some c =>
    if s.jobBars.contains b then
      let x := s.fireBar b
      (x.oldTerms.filter fun e => !s.lineFired b e.1 e.2.1).foldl (fun a e => Nat.max a e.2.2) (Nat.max (c.barTerm b (s.headStep b)) ((x.downHold.map (·.1)).getD 0))
    else 0

/-- R96, R193: firmware writes BAR_MIN_PERIOD of every bar. -/
def refreshPeriods (s : State) : State :=
  allBars.foldl (fun st b => st.setWebBar b { st.webBar b with minPeriod := s.minPeriodOf b }) s

/-- R193: the term `t` of frame `f` at bar `b`, kept until its last line has fired at every node of the bar. -/
def State.heldTerm (s : State) (b : Nat) (f : FrameNo) (t : Nat) : Int × (Nat × Nat) × Nat :=
  let c := (s.cfgOf f).prn
  (s.lastLineOf f, (c.map b).nodes.foldl (fun a n => spanMax a (fireSpan (timingBlock c b (s.headStep b) n))) (0, 0), t)

/-- R193: before frame `f` enters CUT, the bars keep the terms of the frame before it until its last line has fired. -/
def keepOldTerms (f : FrameNo) (s : State) : State :=
  match s.termCfg with
  | none => s
  | some old =>
    if f = s.prn.job.firstFrame then s
    else
      s.jobBars.foldl (fun st b =>
        let x := st.fireBar b
        let t := old.barTerm b (st.headStep b)
        if t = (s.cfgOf f).prn.barTerm b (st.headStep b) then st
        else st.setFireBar b { x with oldTerms := x.oldTerms ++ [st.heldTerm b (f - 1) t] }) s

end Sys2Proof.Machine
end

