-- ==== Sys2Proof/Machine/TimeCore.lean ====
section
/-! DEFINITION. What other blocks use of the timebase: its units, the hitch envelope, captures (R388 to R395). -/

namespace Sys2Proof.Machine

/-! ### Access -/

/-- Change the timebase. -/
def State.withTime (s : State) (f : Timebase → Timebase) : State := { s with time := f s.time }

/-- Ethernet port `p`. -/
def State.port (s : State) (p : Nat) : Port := Tab.get {} s.time.ports p

/-- Set Ethernet port `p`. -/
def State.setPort (s : State) (p : Nat) (x : Port) : State :=
  s.withTime fun t => { t with ports := Tab.put {} t.ports p x }

/-- Trigger unit `u`. -/
def State.trig (s : State) (u : Nat) : Trigger := Tab.get {} s.time.trigs u

/-- Set trigger unit `u`. -/
def State.setTrig (s : State) (u : Nat) (x : Trigger) : State :=
  s.withTime fun t => { t with trigs := Tab.put {} t.trigs u x }

/-- Capture unit `c`. -/
def State.cap (s : State) (c : Nat) : Capture := Tab.get {} s.time.caps c

/-- Set capture unit `c`. -/
def State.setCap (s : State) (c : Nat) (x : Capture) : State :=
  s.withTime fun t => { t with caps := Tab.put {} t.caps c x }

/-- Change the hitch. -/
def State.withHitch (s : State) (f : Hitch → Hitch) : State := s.withTime fun t => { t with hitch := f t.hitch }

/-- R388: TIME_OK. -/
def State.timeOk (s : State) : Bool :=
  (s.time.servo == .locked && decide (s.time.offset.natAbs ≤ 20)) || s.time.servo == .grandmaster

/-- A signed value saturated to `w` bits. -/
def saturate (w : Nat) (i : Int) : Int := max (-(2 ^ (w - 1) : Int)) (min (2 ^ (w - 1) - 1 : Int) i)

/-! ### Triggers (R390, R391) -/

/-- R390: T_k. -/
def Sched.time (c : Sched) (k : Nat) : Nat := c.t0 + k * (c.ns * 2 ^ 32 + c.frac) / 2 ^ 32

/-- Firings remain. -/
def Sched.left (c : Sched) : Bool := c.count == 0 || decide (c.k < c.count)

/-- R391: the opcode of the holder that keeps unit `u` from holder `h`, if any. -/
def State.trigBusy (s : State) (u : Nat) (h : TrigHolder) : Option Nat :=
  if (s.trig u).holder = .none ∨ (s.trig u).holder = h then none else some (s.trig u).holder.opcode

/-- R391: holder `h` takes unit `u` with a schedule. -/
def takeTrig (u : Nat) (h : TrigHolder) (c : Sched) (s : State) : State :=
  s.setTrig u { s.trig u with holder := h, running := true, sched := c }

/-- R391: unit `u` becomes free; no firing remains. -/
def freeTrig (u : Nat) (s : State) : State := s.setTrig u { s.trig u with holder := .none, running := false }

/-! ### Captures (R394) -/

/-- R394: capture unit `c` stamps an event of device time `t`. -/
def stampUnit (t tag : Nat) (s : State) (c : Nat) : State :=
  let u := s.cap c
  if 16 ≤ u.fifo.length then s.setCap c { u with overflow := satAdd 65535 u.overflow 1 }
  else
    let u1 := { u with fifo := u.fifo ++ [(t, tag % 2 ^ 32)], armed := !u.oneShot }
    let due := match u.evtAt with
      | none => true
      | some t => decide (t + 100000 ≤ s.uptime)
    if u.event && due then
      raise Src.time 0x0005 (le 1 c ++ le 8 t ++ le 4 tag) (s.setCap c { u1 with evtAt := some s.uptime })
    else s.setCap c u1

/-- The capture units armed for a source and an index. -/
def State.capsOn (s : State) (source index : Nat) : List Nat :=
  (List.range 16).filter fun c =>
    let u := s.cap c
    u.armed && u.source == source && u.index == index

/-- R394: an event, now, of a capture source that has no edges. -/
def stamp (source index tag : Nat) (s : State) : State := (s.capsOn source index).foldl (stampUnit s.time.now tag) s

/-- R77: one input line after `n` more samples of 1 ns at one level, `same` when that is the accepted level: its `run`, and, where
the samples make the line accept the level, how many ns ago the first sample at it was. -/
def filterLine (filterNs run n : Nat) (same : Bool) : Nat × Option Nat :=
  if same then (0, none) else if filterNs < run + n then (0, some (run + n - 1)) else (run + n, none)

/-- R77, R394, R403: unit `c` sees its input `samples` times at `level`, through a filter of `filterNs`; an accepted edge of the kind
it is armed for is stamped with the time at which the input crossed. The first samples after ARM give the level alone (DESIGN
CHOICE, log 70). -/
def captureSample (filterNs tag samples : Nat) (level : Bool) (s : State) (c : Nat) : State :=
  let u := s.cap c
  match u.level with
  | none => s.setCap c { u with level := some level, run := 0 }
  | some old =>
    let r := filterLine filterNs u.run samples (level == old)
    match r.2 with
    | none => s.setCap c { u with run := r.1 }
    | some age =>
      let s1 := s.setCap c { u with run := r.1, level := some level }
      if u.edge = 3 ∨ u.edge = (if level then 1 else 2) then stampUnit (s.time.now - age) tag s1 c else s1

/-! ### Hitch messages (R395) -/

/-- R486: a tandem member that is not the one at work receives hitch messages and sends none (DEDUCED, log 72: R487 has it use one). -/
def State.hitchMuted (s : State) : Bool :=
  s.tan.state == .pairing || s.tan.state == .shadow || s.tan.state == .deposed

/-- R382, R395: the header of an Ethernet frame from port `p`. -/
def ethHeader (x : Port) (dest etherType : Nat) : List Byte :=
  le 6 dest ++ le 6 x.mac ++ (if bitAt x.cfg.pflags 3 then be 2 0x8100 ++ be 2 x.cfg.vlan else []) ++ be 2 etherType

/-- R395: pad to 64 bytes, of which the MAC adds the last four. -/
def ethPad (bs : List Byte) : List Byte := bs ++ List.replicate (60 - bs.length) 0

/-- R395: multicast a hitch message. -/
def sendHitch (ty : Nat) (body : List Byte) (s : State) : State :=
  let h := s.time.hitch
  if !h.joined || s.hitchMuted then s
  else
    let sq := (h.sentSeq + 1) % 65536
    let env := [1#8, BitVec.ofNat 8 ty] ++ le 2 body.length ++ le 4 h.hitchId ++ le 1 h.member ++ le 1 0 ++ le 2 sq ++
      le 8 s.time.now
    (s.withHitch fun x => { x with sentSeq := sq }).emit
      (.eth h.port (ethPad (ethHeader (s.port h.port) h.dest h.etherType ++ env ++ body)))

/-- R395: the body of the DECIDE of a decision: frame, applied frame and number. -/
def decideBody (d : Nat × Nat × Nat) : List Byte := le 4 d.1 ++ le 4 d.2.1 ++ le 4 d.2.2

/-- R397: the DECIDEs whose 50 µs have passed are sent again. -/
def hitchAgain (s : State) : State :=
  let due := s.time.hitch.again.filter fun e => decide (e.1 ≤ s.uptime)
  let left := s.time.hitch.again.filterMap fun e =>
    if s.uptime < e.1 then some e else if e.2.2 ≤ 1 then none else some (e.1 + 50000, e.2.1, e.2.2 - 1)
  due.foldl (fun st e => sendHitch 0x11 (decideBody e.2.1) st) (s.withHitch fun h => { h with again := left })

/-- A hitch message as received: its type, sender and body. -/
structure HitchMsg where
  ty : Nat
  sender : Nat
  body : List Byte
  deriving DecidableEq, Repr

/-- R295, R395: the length of a hitch message's body by its type; 0 for a type that is none. -/
def hitchBody : Nat → Nat
  | 0x01 => 28 | 0x10 => 12 | 0x11 => 12 | 0x12 => 6 | 0x20 => 32 | 0x30 => 17 | _ => 0

/-- R395: the message in an envelope, none where VERSION, HITCH_ID, LENGTH or SENDER is wrong. -/
def State.hitchMsg (s : State) (env : List Byte) : Option HitchMsg :=
  let h := s.time.hitch
  let len := numAt env 2 2
  if byteAt env 0 = 1 ∧ numAt env 4 4 = h.hitchId ∧ len = hitchBody (byteAt env 1) ∧ 20 + len ≤ env.length ∧ bitAt h.mask (byteAt env 8) ∧ byteAt env 8 < 16 then
    some { ty := byteAt env 1, sender := byteAt env 8, body := (env.drop 20).take len }
  else none

/-- R382, R395: a frame that port `p` discards is counted. -/
def ethDrop (p : Nat) (s : State) : State :=
  let x := s.port p
  s.setPort p { x with drop := satAdd 65535 x.drop 1 }

/-- R395: run the effect of a hitch message of type `ty`; a wrong one is discarded and counted. -/
def onHitch (ty : Nat) (env : List Byte) (f : HitchMsg → State → State) (s : State) : State :=
  let h := s.time.hitch
  if !h.joined then s
  else
    match s.hitchMsg env with
    | none => ethDrop h.port s
    | some m => if m.ty = ty then f m s else s

end Sys2Proof.Machine
end

