-- ==== Sys2Proof/Machine/Bands.lean ====
section
/-! DEFINITION. Bands of the print output: dispatch, rendering, fetch points, line frames and ticks (R18, R92 to R98,
R116 to R119, R134, R160 to R162, R176 to R180). -/

namespace Sys2Proof.Machine

/-! ### Lines and frames (R107, R134) -/

/-- The frame is produced: not after the last frame of a closing job (R136). -/
def State.produced (s : State) (f : FrameNo) : Bool :=
  s.prn.job.isOpen && !(s.prn.job.closing && FrameNo.later f s.prn.job.lastFrame)

/-- Bands of a frame (R107). -/
def State.frameBands (s : State) : Nat := s.prn.job.frameLines / 32

/-- The frame of the job that a line belongs to. -/
def State.lineFrame (s : State) (n : Int) : Option FrameNo :=
  if !s.prn.job.isOpen || decide (n < s.prn.job.nFirst) then none
  else
    let f := s.prn.job.firstFrame + BitVec.ofNat 32 ((n - s.prn.job.nFirst).toNat / Nat.max 1 s.prn.job.frameLines)
    if s.produced f then some f else none

/-- R134: the largest LP among the bars of the job that are enabled. -/
def State.lpMax (s : State) (bars : List Nat) : Int :=
  match bars.filter fun b => (s.webBar b).enabled with
  | [] => 0
  | b :: bs => bs.foldl (fun a c => max a (s.lpOf c)) (s.lpOf b)

/-- R116, R117: the largest LP among the bars of the job that are enabled, as HWM last advanced. -/
def State.lpCut (s : State) : Option Int :=
  match s.jobBars.filter fun b => (s.webBar b).enabled with
  | [] => none
  | b :: bs => some (bs.foldl (fun a c => max a (s.webBar c).lp) (s.webBar b).lp)

/-- R116, R117: the print cutoff of frame `f` has been reached, as HWM advanced. -/
def State.printCutoffDue (s : State) (f : FrameNo) : Bool :=
  s.produced f && (match s.lpCut with
    | none => false
    | some lp => decide ((s.frameLine f - 32 * Int.ofNat (s.frames.nCut + 1)) * 256 ≤ lp))

/-- R116: how far bar `b` is from the fetch point of a band, in 1/256 line. -/
def State.fetchDistance (s : State) (b : Nat) (f : FrameNo) (k : Nat) : Int :=
  (s.frameLine f + 32 * Int.ofNat k - 32) * 256 - s.lpOf b

/-- The distance of a fetch point as a time at the present line rate (R162), at most 0x7FFFFFFF ns: the largest at
standstill. -/
def State.slackNs (s : State) (dist : Int) : Int :=
  let r := s.lineRate
  if r.num ≤ 0 then (if dist < 0 then -1 else 0x7FFFFFFF)
  else max (-0x80000000) (min 0x7FFFFFFF (Int.tdiv (dist * 1000000000 * Int.ofNat r.den) (256 * r.num)))

/-! ### Dispatch (R119, R160, R161) -/

/-- The band after a band of the job. -/
def State.bandAfter (s : State) (p : Nat × Nat) : Nat × Nat :=
  if p.2 + 1 < s.frameBands then (p.1, p.2 + 1) else ((BitVec.ofNat 32 p.1 + 1).toNat, 0)

/-- Bands in flight: rendering, or complete and not yet fetched. -/
def State.inFlight (s : State) : Nat := (s.frames.bands.filter fun x => x.phase != .queued).length

/-- R160: bands of one bar in flight. -/
def State.barInFlight (s : State) (b : Nat) : Nat :=
  (s.frames.bands.filter fun x => x.bar == b && x.phase != .queued).length

/-- R160: bands of one bar that may be in flight. -/
def State.barLimit (s : State) : Nat := 128 / Nat.max 1 s.jobBars.length

/-- The bands that could be rendered now: those that wait again after a discard, and the next band of each bar, with the
distance of their fetch points. -/
def State.waitingBands (s : State) : List (Int × Band) :=
  let again := s.frames.bands.filter fun x => x.phase == .queued
  let fresh := s.jobBars.filterMap fun b =>
    let p := Tab.get (0, 0) s.frames.next b
    if s.produced (BitVec.ofNat 32 p.1) then some { frame := BitVec.ofNat 32 p.1, bar := b, band := p.2 : Band } else none
  ((again ++ fresh).filter fun x => decide (s.barInFlight x.bar < s.barLimit)).map fun x =>
    (s.fetchDistance x.bar x.frame x.band, x)

/-- R161: the earliest fetch point; among equal ones the lower bar. -/
def earliest : List (Int × Band) → Option (Int × Band)
  | [] => none
  | e :: t =>
    match earliest t with
    | none => some e
    | some g => if e.1 < g.1 ∨ (e.1 = g.1 ∧ e.2.bar ≤ g.2.bar) then some e else some g

/-- The same band of the same frame and bar. -/
def Band.same (x y : Band) : Bool := x.frame == y.frame && x.bar == y.bar && x.band == y.band

/-- R119: a band starts rendering on an engine, with its tag. -/
def startRender (engine : Nat) (x : Band) (s : State) : State :=
  let y := { x with phase := .rendering, engine := engine, gen := s.genOf x.frame, mask := s.readyOf x.frame, lum := s.lumOf x.frame
                    renderStart := s.uptime, work := 0, workAt := s.uptime, fetched := false }
  let was := s.frames.bands.any fun z => z.phase == .queued && z.same x
  s.withFrames fun fr =>
    if was then { fr with bands := fr.bands.map fun z => if z.phase = .queued ∧ z.same x then y else z }
    else { fr with bands := fr.bands ++ [y]
                   next := Tab.put (0, 0) fr.next x.bar (s.bandAfter (x.frame.toNat, x.band)) }

/-- The engine is present and idle. -/
def State.engineFree (s : State) (e : Nat) : Bool :=
  decide (e < s.fuse.part.engines) && !s.frames.bands.any fun x => x.phase == .rendering && x.engine == e

/-! ### Rendering (R119, R140, R144, R162) -/

/-- Layers of a frame with their buffers' content; a layer that the frame's readiness has dropped takes no part. -/
def State.asSources (s : State) (f : FrameNo) (ls : List (Nat × Layer)) : List Source :=
  let bufs := s.bufsOf f
  ls.filterMap fun e =>
    (bufs.find? fun u => u.1 == e.1).map fun u =>
      { num := e.1, layer := e.2, handle := u.2, img := s.bufBytes u.2 0 (s.buf u.2).size }

/-- The layers of a print band, in ascending Z, with their buffers' content. -/
def State.sources (s : State) (c : PrintCfg) (f : FrameNo) (ch : Nat) : List Source := s.asSources f (layersFor c ch)

/-- R133: the ink channel of a bar. -/
def State.barChannel (s : State) (b : Nat) : Nat := bitsAt s.prn.job.barChannel (4 * b) 4

/-- R140: render a print band with the configuration of its frame. -/
def State.renderBand (s : State) (x : Band) : Rendered :=
  let c := (s.cfgOf x.frame).prn
  let ch := s.barChannel x.bar
  renderPrint c x.bar ch (s.sources c x.frame ch) x.frame s.prn.job.firstFrame
    (s.frameLine x.frame + 32 * Int.ofNat x.band) (32 * x.band)

/-- R413: the positions of a print band that its render engine writes poisoned. -/
def State.bandTaint (s : State) (x : Band) : List Nat :=
  if s.poison.isEmpty then []
  else
    let c := (s.cfgOf x.frame).prn
    let ch := s.barChannel x.bar
    printTaint c x.bar ch (s.sources c x.frame ch) (32 * x.band) fun h off n => s.poisoned ((s.buf h).base + off) n

/-- R144, R164: raise DECODE_ERROR once per tile and frame; for a header once per frame, whatever channel met it, and for a missing
channel once per frame and channel. An event that SYS_EVENT_MASK keeps from being raised is not counted. -/
def decodeError (f : FrameNo) (s : State) (e : Nat × Nat × Nat × Nat) : State :=
  let key := (f.toNat, e.2.1, (if e.2.2.2 = headerTile then 0xFF else e.2.2.1) * 2 ^ 33 + e.2.2.2)
  if s.prn.decodeSeen.contains key then s
  else
    raise Src.prn 0x0002 (le 2 e.2.1 ++ le 1 e.1 ++ le 1 e.2.2.1 ++ le 4 (Nat.min headerTile e.2.2.2) ++ le 4 f.toNat)
      { s with prn := { s.prn with
          decodeSeen := s.prn.decodeSeen ++ [key]
          decodeErr := if s.evtMasked Src.prn 0x0002 then s.prn.decodeErr else satAdd (2 ^ 32 - 1) s.prn.decodeErr 1 } }

/-- R162, R163: slack of a band that has just been completed. -/
def noteSlack (x : Band) (s : State) : State :=
  let slack := s.slackNs (s.fetchDistance x.bar x.frame x.band)
  let log := (s.prn.slackLog.filter fun e => decide (s.uptime < e.1 + 10 ^ 8)) ++ [(s.uptime, slack)]
  let s1 := { s with prn := { s.prn with slackLog := log } }
  let last := Tab.get 0 s.prn.marginEvt x.bar
  if 0 < s.prn.job.marginUs ∧ slack < 1000 * Int.ofNat s.prn.job.marginUs ∧ (last = 0 ∨ last + 10 ^ 6 ≤ s.uptime + 1) then
    raise Src.prn 0x0003 (le 1 x.bar ++ le 4 x.frame.toNat ++ le 4 x.band ++ le 4 (unsigned 32 slack))
      { s1 with prn := { s1.prn with marginEvt := Tab.put 0 s1.prn.marginEvt x.bar (s.uptime + 1) } }
  else s1

/-- R164: the time an engine was busy. -/
def noteBusy (x : Band) (s : State) : State :=
  { s with prn := { s.prn with busyLog :=
      (s.prn.busyLog.filter fun e => decide (s.uptime < e.2 + 10 ^ 8)) ++ [(x.renderStart, s.uptime)] } }

/-- R445: a band of frame `f` has been rendered under the render clock's step. -/
def noteRender (f : FrameNo) (s : State) : State :=
  if s.thm.renderStep = 0 then s else s.updFrame f fun r => { r with throttleMax := Nat.max r.throttleMax s.thm.renderStep }

/-- Layers made transparent, as a mask (R144). -/
def faultMask (fs : List (Nat × Nat × Nat × Nat)) : Nat := fs.foldl (fun a e => Nat.lor a (2 ^ e.1)) 0

/-- BAND_RENDER_END in print (R119, R144, R162): the band on the engine ends; it is kept when its tag is still current,
dropped when its fetch point has passed, its slack then being negative, and otherwise waits for rendering again. -/
def endPrintRender (x0 : Band) (s0 : State) : State :=
  let x := { x0 with renderEnd := s0.time.now }
  let s := noteBusy x s0
  let others := s.frames.bands.filter fun z => !(z.same x && z.phase == .rendering)
  if x.fetched then recheck (noteSlack x (s.withFrames fun fr => { fr with bands := others }))
  else if s.tagOk x then
    let r := s.renderBand x
    let y := { x with phase := .complete, lines := r.lines, poisoned := s.bandTaint x, faultLayers := faultMask r.faults }
    let s1 := noteRender x.frame (s.withFrames fun fr => { fr with bands := others ++ [y] })
    let s2 := { s1 with prn := { s1.prn with spreadLost := satAdd (2 ^ 32 - 1) s1.prn.spreadLost r.lost } }
    recheck (noteSlack x (r.faults.foldl (decodeError x.frame) s2))
  else if s.phase x.frame = .opened ∨ s.phase x.frame = .cut then
    recheck (s.withFrames fun fr =>
      { fr with bands := others ++ [{ x with phase := .queued }], rollBands := satAdd 65535 fr.rollBands 1 })
  else recheck (noteSlack x (s.withFrames fun fr => { fr with bands := others ++ [{ x with phase := .complete }] }))

/-! ### Fetch points (R18, R176, R178, R180) -/

/-- The band that bar `b` fetches next. -/
def State.nextFetch (s : State) (b : Nat) : FrameNo × Nat :=
  let p := Tab.get (0, 0) s.frames.fetch b
  (BitVec.ofNat 32 p.1, p.2)

/-- R116: the next band of bar `b` has reached its fetch point. -/
def State.fetchDue (s : State) (b : Nat) : Bool :=
  let p := s.nextFetch b
  s.jobBars.contains b && s.produced p.1 && s.phase p.1 != .opened && decide (s.fetchDistance b p.1 p.2 ≤ 0)

/-- R177: a node's payload from the position records of a line. -/
def nodePayload (n : MapNode) (recs : List Nat) : List Byte :=
  let dot := fun (i : Nat) =>
    if i < n.count then recs.getD (if n.reversed then n.first + n.count - 1 - i else n.first + i) 0 % 4 else 0
  (List.range n.payload).map fun k =>
    BitVec.ofNat 8 (dot (4 * k) + 4 * dot (4 * k + 1) + 16 * dot (4 * k + 2) + 64 * dot (4 * k + 3))

/-- R190: the spit window index of line `y` of a frame. -/
def spitIndex (sp : Spit) (frameLines y : Nat) : Option Nat :=
  let w := Nat.min sp.lines frameLines
  if frameLines - w ≤ y ∧ y < frameLines then some (y - (frameLines - w)) else none

/-- R177: the nodes of link `l` in chain order. -/
def BarMap.onLink (m : BarMap) (l : Nat) : List MapNode :=
  (List.range 8).flatMap fun p => m.nodes.filter fun n => n.node == 8 * l + p

/-- R160: LINE_STRIDE. -/
def BarMap.stride (m : BarMap) : Nat := 32 * ceilDiv m.positions 64

/-- R160: the header of the slot that holds band `x`. -/
def State.slotHeader (s : State) (x : Band) : List Byte :=
  let m := (s.cfgOf x.frame).prn.map x.bar
  le 4 x.frame.toNat ++ le 4 x.gen.toNat ++ le 1 x.mask ++ le 1 x.bar ++ le 1 x.phase.code ++ le 1 0 ++ le 4 x.band ++
    le 8 (unsigned 64 (s.frameLine x.frame + 32 * Int.ofNat x.band)) ++ le 4 m.positions ++ le 4 m.stride ++
    le 8 x.renderEnd ++ le 216 0

/-- R160: the slot that holds band `x`: its header, then line by line the 4-bit records, eight to a word. -/
def State.slotBytes (s : State) (x : Band) : List Byte :=
  let w := ((s.cfgOf x.frame).prn.map x.bar).stride / 4
  s.slotHeader x ++ (List.range 32).flatMap fun l =>
    let recs := x.lines.getD l []
    (List.range w).flatMap fun k => le 4 ((List.range 8).foldl (fun a i => a + 16 ^ i * (recs.getD (8 * k + i) 0 % 16)) 0)

/-- R160, R178: the blocks of a band's slot that hold the records of link `l` for line `i`. -/
def BarMap.lineBlocks (m : BarMap) (l i : Nat) : List Nat :=
  let at' := fun (p : Nat) => 256 + i * m.stride + 4 * (p / 8)
  ((m.onLink l).flatMap fun n => blockSpan (at' n.first) (at' (n.first + n.count - 1) + 3)).eraseDups

/-- R178, R180: the 32 lines of a band for one link. `recs` is empty for a band replaced by lines with every dot off, which needs
no reads; `bad` are the keys of poisoned positions. The reads are paced over 24 × BAR_MIN_PERIOD (R428). -/
def feedLines (s : State) (c : PrintCfg) (l b : Nat) (f : FrameNo) (k : Nat) (recs : List (List Nat)) (bad : List Nat) :
    List FifoLine :=
  let m := c.map b
  let ns := m.onLink l
  let reads := if recs.isEmpty then []
    else pacedReads s.uptime (24 * (s.webBar b).minPeriod) ((List.range 32).flatMap (m.lineBlocks l)).eraseDups
  let hurt := fun (i : Nat) (n : MapNode) => bad.any fun q =>
    q / 2 ^ 24 == i && decide (n.first ≤ q % 2 ^ 24) && decide (q % 2 ^ 24 < n.first + n.count)
  let banks := (s.frame f).banks
  (List.range 32).map fun i =>
    let y := 32 * k + i
    { bar := b, line := s.frameLine f + Int.ofNat y, frame := f, band := k, need := needOf reads (m.lineBlocks l i), lastLine := y + 1 == s.prn.job.frameLines
      spit := spitIndex (Tab.get {} c.spit b) s.prn.job.frameLines y, poisoned := ns.any (hurt i)
      payloads := ns.map fun n =>
        let bank := ((banks.find? fun e => e.1 == n.node).map (·.2)).getD (s.banks n.node).cur
        (n.node, bank, nodePayload n (if hurt i n then [] else recs.getD i [])) }

/-- R18, R176: the banks of the frame are in place at every node of the bar. -/
def State.barBanksReady (s : State) (c : PrintCfg) (f : FrameNo) (b : Nat) : Bool :=
  s.shadow || s.tan.state == .takingOver || (c.map b).nodes.all fun n => s.bankReady f n.node

/-- R176, R198: raise SEL_LATE for the frame a bar has replaced bands of, if any. -/
def selLate (b : Nat) (s : State) : State :=
  let x := s.fireBar b
  match x.selFrame with
  | none => s
  | some f =>
    raise Src.fire 0x0001 (le 1 b ++ le 1 x.selNode ++ le 4 f.toNat ++ le 2 x.selCount)
      (s.setFireBar b { x with selFrame := none, selCount := 0 })

/-- R176: a band of frame `f` is replaced at bar `b` because a bank is not in place. -/
def noteSelLate (c : PrintCfg) (f : FrameNo) (b k : Nat) (s : State) : State :=
  let x := s.fireBar b
  let late := ((c.map b).nodes.find? fun n => !s.bankReady f n.node).map (·.node)
  let s1 := s.setFireBar b
    { x with sel := satAdd 65535 x.sel 1, selFrame := some f, selCount := satAdd 65535 x.selCount 1
             selNode := if x.selFrame = some f then x.selNode else late.getD 0 }
  if k + 1 = s.frameBands then selLate b s1 else s1

/-- R21: the first band of a committed frame takes ARMED to RUN. -/
def firstRelease (f : FrameNo) (s : State) : State :=
  if s.top.dev = .armed && s.hostCommitted f then setDev .run .none s else s

/-- R218: leave Halter: one RUN block to each node of the list that is kept in Halter. Its ticks are counted from here. -/
def runNodes (ns : List Nat) (s : State) : State :=
  ns.foldl (fun st n =>
    let v := st.node n
    if v.toHalter && st.claimed (n / 8) && !st.tanHolds (n / 8) then
      sendHold 0x33 n (st.setNode n { v with toHalter := false, ticksSent := 0, tickLog := [], ticksSeen := 0 })
    else st) s

/-- R218: put nodes in Halter: one HALTER block each at entry. -/
def haltNodes (ns : List Nat) (s : State) : State :=
  ns.foldl (fun st n =>
    sendHold 0x2D n (st.setNode n { st.node n with toHalter := true, lastHalter := st.uptime })) s

/-- R108: the frame is DELIVERING from the first fetch on, when the second content check starts (R125). -/
def startDelivery (f : FrameNo) (s : State) : State :=
  if s.phase f = .cut then
    let st := startChecks f 2 (s.updFrame f fun r => { r with phase := .delivering })
    { st with prn := { st.prn with job := { st.prn.job with delivered := some f } } }
  else s

/-- Advance the fetch cursor of bar `b`. -/
def advanceFetch (b : Nat) (s : State) : State :=
  s.withFrames fun fr => { fr with fetch := Tab.put (0, 0) fr.fetch b (s.bandAfter (Tab.get (0, 0) fr.fetch b)) }

/-- R119, R178: the band that has reached its fetch point leaves the queue; one still rendering is dropped at its end. -/
def takeBand (f : FrameNo) (b k : Nat) (s : State) : State :=
  let key : Band := { frame := f, bar := b, band := k }
  s.withFrames fun fr =>
    { fr with
      bands := (fr.bands.filter fun z => !(z.same key && z.phase != .rendering)).map fun z =>
        if z.same key then { z with fetched := true } else z
      next := if Tab.get (0, 0) fr.next b = (f.toNat, k) then Tab.put (0, 0) fr.next b (s.bandAfter (f.toNat, k))
        else fr.next }

/-- R18, R119, R176: the content a bar fetches: the band if it is valid, none for the substitute. -/
def State.validBand (s : State) (f : FrameNo) (b k : Nat) : Option Band :=
  s.frames.bands.find? fun z => z.same { frame := f, bar := b, band := k } && z.phase == .complete && s.tagOk z

/-- R464: a standby counts a band that would have been replaced. -/
def shadowLate (s : State) : State := s.withTan fun t => { t with late := satAdd 65535 t.late 1 }

/-- R18: a band is replaced; the frame and the bar count it. -/
def noteLate (f : FrameNo) (b : Nat) (s : State) : State :=
  if s.shadow then shadowLate s else
  let s1 := s.updFrame f fun r => { r.mark .bandLate with bandsLate := satAdd 65535 r.bandsLate 1 }
  { s1 with prn := { s1.prn with barLate := Tab.put 0 s1.prn.barLate b (satAdd 65535 (Tab.get 0 s1.prn.barLate b) 1) } }

/-- R144, R180: what a fetched band leaves in its frame's record. -/
def noteBand (f : FrameNo) (x : Band) (s : State) : State :=
  s.updFrame f fun r =>
    let r1 := if x.faultLayers = 0 then r
      else { r.mark .layerDropped with maskDropped := Nat.lor r.maskDropped x.faultLayers }
    (x.poisoned.map fun q => x.bar * 2 ^ 26 + 32 * x.band + q / 2 ^ 24).foldl (fun r y => notePoisonedRow y r) r1

/-- Put the lines of a band into the FIFOs of the links of its bar (R178). -/
def feedBand (c : PrintCfg) (b : Nat) (f : FrameNo) (k : Nat) (recs : List (List Nat)) (bad : List Nat) (s : State) : State :=
  (c.map b).links.foldl (fun st l =>
    let x := st.feeder l
    st.setFeeder l { x with fifo := x.fifo ++ feedLines s c l b f k recs bad }) s

/-- R335: the records of line `y` of a frame, line `nl` of the web, at bar `b` under a ladder: stage 8 is replaced. -/
def Ladder.apply (ld : Ladder) (c : PrintCfg) (b : Nat) (nl : Int) (y : Nat) (recs : List Nat) : List Nat :=
  let m := c.map b
  let y0 := ld.line0 + b * ld.step
  if bitAt ld.mask b && decide (y0 ≤ y) && decide (y < y0 + 2 * ld.spacing) then
    (List.range recs.length).map fun p =>
      let r := recs.getD p 0 / 4 * 4
      match selectNozzle c b m p nl, m.mapCol p with
      | .suppress, _ => r
      | _, some mc =>
        r + (if (mc + Tab.get 0 c.shift b) % Int.ofNat ld.spacing = Int.ofNat ((y - y0) % ld.spacing) then ld.dot else 0)
      | _, none => r
  else recs

/-- R335: the lines of band `k` of frame `f` at bar `b`, with the frame's ladder. -/
def State.withLadder (s : State) (c : PrintCfg) (f : FrameNo) (b k : Nat) (lines : List (List Nat)) : List (List Nat) :=
  match (s.frame f).ladder with
  | none => lines
  | some ld => (List.range lines.length).map fun i =>
      ld.apply c b (s.frameLine f + Int.ofNat (32 * k + i)) (32 * k + i) (lines.getD i [])

/-- R23, R131: bar `b` is in Halter. -/
def State.barHalted (s : State) (b : Nat) : Bool := (s.fireBar b).halted || s.top.dev == .halter || s.top.dev == .fault

/-- R135: the configuration whose maps a frame's lines go by: before the job's first commit that of the latest commit, whose
nodes the ticks reach (DEDUCED, log 23). -/
def State.lineCfg (s : State) (f : FrameNo) : PrintCfg :=
  if s.hostCommitted f then (s.cfgOf f).prn else s.frames.latest.prn

/-- BAND_FETCH_POINT in print (R18, R119, R176, R178). A bar in Halter counts no late band. -/
def printFetch (b : Nat) (s0 : State) : State :=
  let p := s0.nextFetch b
  let f := p.1
  let k := p.2
  let s := startDelivery f s0
  let c := s.lineCfg f
  let halted := s.barHalted b
  let s1 := if halted then s else runNodes ((c.map b).nodes.map (·.node)) s
  let s2 :=
    if (s.frame f).skipped then feedBand c b f k [] [] s1
    else if !s.barBanksReady c f b then
      feedBand c b f k [] [] (if halted then s1 else noteSelLate c f b k (noteLate f b s1))
    else
      match s.validBand f b k with
      | some x => feedBand c b f k (s1.withLadder c f b k x.lines) x.poisoned (noteBand f x s1)
      | none => feedBand c b f k [] [] (if halted then s1 else noteLate f b s1)
  firstRelease f (advanceFetch b (takeBand f b k s2))

/-! ### Ticks and line frames (R92 to R98, R179) -/

/-- R93: the line period in ns, to the nearest as the table beside R97 has it (DEDUCED, log 62): 0 when the web does not move forward or the period exceeds 24 bits. -/
def State.linePeriod (s : State) : Nat :=
  let r := s.lineRate
  if r.num ≤ 0 then 0
  else
    let p := (2 * 10 ^ 9 * r.den + r.num.toNat) / (2 * r.num.toNat)
    if 16777215 < p then 0 else p

/-- R96, R97: the skip decision of a bar for a tick of effective time `tEff`; none is skipped while no maximum is in force. -/
def State.tooSoon (s : State) (x : WebBar) (tEff : Int) : Bool :=
  s.maxLineRate != 0 && x.lastValid && decide (tEff - x.lastFired < Int.ofNat x.minPeriod)

/-- The links that carry nodes of bar `b`, in ascending order: those of the latest committed map. -/
def State.barLinks (s : State) (b : Nat) : List Nat :=
  let ls := (s.frames.latest.prn.map b).links
  allLinks.filter fun l => ls.contains l

/-- R95: send a TICK block on a link and count it there and for the bar's nodes. -/
def sendTick (b : Nat) (blk : List Byte) (f : Option FrameNo) (s : State) (l : Nat) : State :=
  if !s.ticksOn l f then s
  else
    let x := s.link l
    let s1 := sendBlock l blk (s.setLink l { x with ticks := (x.ticks + 1) % 2 ^ 32 })
    let ns := ((s.frames.latest.prn.map b).nodes.filter fun n => n.node / 8 == l).map (·.node)
    ns.foldl (fun st n =>
      let v := st.node n
      let log := if v.tickLog.getLast?.map Prod.snd = some f then v.tickLog else v.tickLog ++ [(v.ticksSent, f)]
      st.setNode n { v with ticksSent := v.ticksSent + 1, tickLog := log.drop (log.length - 64) }) s1

/-- R177, R209: the LINE frames of a line, one for each node in chain order. -/
def sendLine (l : Nat) (x : FifoLine) (s : State) : State :=
  x.payloads.foldl (fun st e =>
    match st.sendAs e.1 x.frame with
    | none => st
    | some a =>
      noteDrill e.1 x.frame (sendFrame l (mkFrame FType.line e.1 a.1 a.2
        (lineHeader x.frame (x.line % 64).toNat e.2.1 x.lastLine x.spit ++ e.2.2)) st)) s

/-- R450: R21: the frame came before the one with which bar `b` resumes; its lines are not delivered. -/
def State.beforeResume (s : State) (b : Nat) (f : FrameNo) : Bool :=
  match (s.fireBar b).resumeFrom with
  | none => false
  | some g => FrameNo.later g f

/-- R179: the frames of line `n` of bar `b` on link `l`: sent whole, or counted as an underrun. -/
def feedLink (b : Nat) (n : Int) (s : State) (l : Nat) : State :=
  let x := s.feeder l
  let kept := { x with fifo := x.fifo.filter fun e => !(e.bar == b && decide (e.line ≤ n)) }
  match x.whole.find? fun e => e.bar == b && e.line == n with
  | some e =>
    let s1 := s.setFeeder l kept
    if s.barHalted b || s.beforeResume b e.frame then s1 else sendLine l e s1
  | none =>
    let x1 := { kept with underrun := satAdd 65535 x.underrun 1, pendingUnder := satAdd 65535 x.pendingUnder 1 }
    if msPassed x.underEvt s.uptime then
      raise Src.fire 0x0002 (le 1 l ++ le 8 (unsigned 64 n) ++ le 2 x1.pendingUnder)
        (s.setFeeder l { x1 with pendingUnder := 0, underEvt := some s.uptime })
    else s.setFeeder l x1

/-- R179: after the tick of line `n - 1` the feeders send line `n` of the bar, where the job prints one. -/
def sendNextLine (b : Nat) (n : Int) (s : State) : State :=
  match s.lineFrame n with
  | none => s
  | some f =>
    if s.jobBars.contains b && s.phase f != .opened && !s.muted b n then ((s.lineCfg f).map b).links.foldl (feedLink b n) s else s

/-- R445: the highest step of the render clock and the head supplies of the job's bars. -/
def State.printThrottle (s : State) : Nat := s.jobBars.foldl (fun a b => Nat.max a (s.headStep b)) s.thm.renderStep

/-- R128, R131, R445: marks that a tick of frame `f` leaves: the first tick's time and position, a doubt, a skipped line,
throttle steps, and Halter. -/
def markTick (f : FrameNo) (b : Nat) (t : Nat) (skip doubt : Bool) (s : State) : State :=
  s.updFrame f fun r =>
    let r0 := if r.tStart.isNone then { r with tStart := some t, posStart := s.web.hwm } else r
    let r1 := if doubt then r0.mark .registrationUncertain else r0
    let r2 := if skip then { r1.mark .lineSkipped with linesSkipped := r1.linesSkipped + 1 } else r1
    let r3 := { r2 with throttleMax := Nat.max r2.throttleMax s.printThrottle }
    if s.barHalted b || s.beforeResume b f then r3.mark .halted else r3

/-- R108, R221: the last line of frame `f` has ticked at bar `b`: its nodes have yet to report it. -/
def lastTick (f : FrameNo) (b : Nat) (s : State) : State :=
  let ns := ((s.lineCfg f).map b).nodes.map (·.node)
  let live := ns.filter fun n => s.claimed (n / 8) && !(s.node n).toHalter
  s.updFrame f fun r =>
    { r with barsLeft := r.barsLeft.filter (· != b), nodesLeft := r.nodesLeft ++ live.map fun n => (n, s.uptime) }

/-- R186, R193: bar `b` has ticked: the tick is listed, the latest 40 being kept, and terms whose last line has fired fall away. -/
def listTick (b : Nat) (n tEff : Int) (period : Nat) (s : State) : State :=
  let x := s.fireBar b
  let s1 := s.setFireBar b { x with ticks := (x.ticks ++ [(n, tEff, period)]).drop (x.ticks.length - 39) }
  if x.oldTerms.isEmpty then s1
  else refreshPeriods (s1.setFireBar b { s1.fireBar b with oldTerms := x.oldTerms.filter fun e => !s1.lineFired b e.1 e.2.1 })

/-- R331: line `n` ticked while the bar slewed. The latest 64 spans are kept. -/
def noteSlew (n : Int) (l : List (Int × Int)) : List (Int × Int) :=
  match l.getLast? with
  | some e => if e.2 + 1 = n then l.dropLast ++ [(e.1, n)] else (l ++ [(n, n)]).drop (l.length - 63)
  | none => [(n, n)]

/-- R94, R100: after the tick, the offset moves toward its target. -/
def slewBar (b : Nat) (s : State) : State :=
  let x := s.webBar b
  if !x.slewing then s
  else
    let d := x.target - x.offset
    let step := max (-Int.ofNat x.slewRate) (min (Int.ofNat x.slewRate) d)
    let o := x.offset + step
    let s1 := s.setWebBar b { x with offset := o, slewing := decide (o ≠ x.target), slews := noteSlew (x.nl - 1) x.slews }
    let s2 := s1.setWebBar b { s1.webBar b with lp := s1.lpOf b }
    if o = x.target then raiseAfter x.slewCmd Src.web 0x0007 (le 1 b ++ le 4 (unsigned 32 o)) s2 else s2

/-- R446: the old bank's lines of bar `b` have all ticked: its shorter period stands. -/
def endDown (b : Nat) (n : Int) (s : State) : State :=
  let x := s.fireBar b
  match x.downHold with
  | some (_, some last) => if last ≤ n then refreshPeriods (s.setFireBar b { x with downHold := none }) else s
  | _ => s

/-- R92, R93, R95, R97, R98, R394: the tick of bar `b` at edge time `t`, its line having been reached. The frames of the next line
follow in `advanceHwm`. -/
def barTick (b t : Nat) (s : State) : State :=
  let x := s.webBar b
  let lp := s.lpOf b
  let n := x.nl
  let phase := unsigned 8 (lp - n * 256)
  let period := s.linePeriod
  let tEff := Int.ofNat t - Int.ofNat (phaseTime phase period)
  let skip := s.tooSoon x tEff
  let f := s.lineFrame n
  let doubt := decide (0 < s.web.doubtRemain)
  let x1 := { x with
    lp := lp, nl := n + 1, tickId := (n % 64).toNat, phase := phase, skipped := skip
    skips := (x.skips + b2n skip) % 2 ^ 32, lastFired := if skip then x.lastFired else tEff
    lastValid := x.lastValid || !skip }
  let s1 := stamp 0x04 b (unsigned 32 n) (s.setWebBar b x1)
  let s2 := (s.barLinks b).foldl (sendTick b (tickBlock (n % 64).toNat skip false b phase period) f) s1
  let s3 := match f with
    | some g => if s.jobBars.contains b then
        let s' := markTick g b t skip doubt s2
        let sh := s'.setFireBar b { s'.fireBar b with shift := Tab.get 0 (s'.cfgOf g).prn.shift b }
        if s.lineFrame (n + 1) = some g then sh else lastTick g b sh
      else if doubt then s2.updFrame g fun r => r.mark .registrationUncertain
      else s2
    | none => s2
  slewBar b (endGap (endDown b n (listTick b n (Int.ofNat s.uptime - Int.ofNat (phaseTime phase period)) period s3)))

/-- R92: the line position of bar `b` has reached its next line. -/
def State.tickDue (s : State) (b : Nat) : Bool := (s.webBar b).enabled && decide ((s.webBar b).nl * 256 ≤ s.lpOf b)

/-- R92: a bar ticks when its line position has reached its next line. -/
def tickIfDue (t : Nat) (s : State) (b : Nat) : State :=
  if s.tickDue b then barTick b t s
  else if (s.webBar b).enabled then s.setWebBar b { s.webBar b with lp := s.lpOf b }
  else s

/-- R88, R92, R95, R98, R179: one count of HWM advance: the ticks of every bar back to back, then the line frames of the bars that
have ticked, then the doubt counter. -/
def advanceHwm (t : Nat) (s : State) : State :=
  let due := (allBars.filter s.tickDue).map fun b => (b, (s.webBar b).nl + 1)
  let s1 := due.foldl (fun st e => sendNextLine e.1 e.2 st) (allBars.foldl (tickIfDue t) s)
  s1.withWeb fun w => { w with doubtRemain := w.doubtRemain - 1 }

end Sys2Proof.Machine
end

