-- ==== Sys2Proof/Machine/Cost.lean ====
section
/-! DEFINITION. What rendering a band costs (R161, R262), and how far a rendering band has come under the steps of the render
clock (R445). -/

namespace Sys2Proof.Machine

/-! ### The print path (R161) -/

/-- R161: a tile is FLAT in every channel the layer uses through CH_MAP or COV_CHANNEL. -/
def tileFlat (l : Layer) (h : LtcHeader) (img : List Byte) (tx ty : Nat) : Bool :=
  let chans := ((List.range 16).map l.source ++ [l.covChannel]).filter fun c => c != 0xFF && decide (c < h.channels)
  chans.all fun c => bitsAt (tileEntry h img ty tx c) 62 2 == 1

/-- R161: the distinct source indices of one axis that coordinates sample by REPLICATE, counted by tile. -/
def sitesByTile (a : LayerAxis) (cs : List Int) : Tab Nat :=
  let seen : Tab Bool := cs.foldr (fun c t => Tab.put false t ((a.taps 1 c).headD (0, 0)).1 true) []
  seen.foldr (fun e t => Tab.upd 0 t (e.1 / 64) (· + 1)) []

/-- R161: the covered pairs of a layer with H, and four times its coded sites plus its flat sites. -/
def layerCost (cols : List Int) (lines : List Int) (s : Source) : Nat × Nat :=
  match ltcHeader s.img with
  | none => (0, 0)
  | some h =>
    let cs := cols.filter (s.layer.axisX h).covers
    let ls := lines.filter (s.layer.axisY h).covers
    let xs := sitesByTile (s.layer.axisX h) cs
    (cs.length * ls.length * filterH s.layer.filter,
     (sitesByTile (s.layer.axisY h) ls).foldl (fun a y => xs.foldl (fun b x =>
       b + x.2 * y.2 * if tileFlat s.layer h s.img x.1 y.1 then 1 else 4) a) 0)

/-- R161: the render-domain cycles of a print band. `y0` is its first line within the frame. -/
def printCost (cfg : PrintCfg) (bar : Nat) (srcs : List Source) (y0 : Nat) : Nat :=
  let m := Tab.get {} cfg.maps bar
  let cols := (List.range m.positions).filterMap fun p =>
    (m.mapCol p).map fun c => c + Tab.get 0 cfg.shift bar
  let lines := (List.range 32).map fun i => Int.ofNat (y0 + i)
  let sum := srcs.foldl (fun (a : Nat × Nat) s => let c := layerCost cols lines s; (a.1 + c.1, a.2 + c.2)) (0, 0)
  2048 + Nat.max (ceilDiv (32 * m.positions) 8) (Nat.max (ceilDiv sum.1 16) (ceilDiv sum.2 64))

/-- R161: what a print band costs as things stand: every layer of the frame counts, also one that prints nothing in the bar's ink. -/
def State.printCost (s : State) (x : Band) : Nat :=
  let c := (s.cfgOf x.frame).prn
  Machine.printCost c x.bar (s.asSources x.frame (boundLayers c)) (32 * x.band)

/-! ### The light-field path (R262) -/

/-- R262: the cycles of a light-field band of `e` emitters. -/
def lfCycles (taps visits e : Nat) : Nat :=
  4096 + Nat.max (ceilDiv taps 16) (Nat.max (ceilDiv visits 8) (ceilDiv e 8))

/-! ### Progress under the render clock (R445) -/

/-- R445: what an engine does in 1 ns, in 1/16,000 cycle: 1.25 GHz less a sixteenth a step. -/
def renderRate (step : Nat) : Nat := 20000 - 1250 * step

/-- What has been done on a rendering band by now, in 1/16,000 cycle. -/
def State.workDone (s : State) (x : Band) : Nat := x.work + (s.uptime - x.workAt) * renderRate s.thm.renderStep

/-- R161, R262: the engine is through with the band. -/
def State.renderDue (s : State) (x : Band) : Bool := decide (16000 * x.cost ≤ s.workDone x)

/-- R445: bring what has been done up to date, before the render clock's step changes. -/
def settleWork (s : State) : State :=
  s.withFrames fun fr => { fr with bands := fr.bands.map fun x =>
    if x.phase = .rendering then { x with work := s.workDone x, workAt := s.uptime } else x }

end Sys2Proof.Machine
end

