-- ==== Sys2Proof/Machine/PrintJob.lean ====
section
/-! DEFINITION. The PRN commands but the commit, and the life of a print job (R133 to R138, R145 to R159). -/

namespace Sys2Proof.Machine

/-! ### The pool (R159) -/

/-- R159: every print configuration that a staged set or, with a job open, a frame in OPEN, CUT or DELIVERING refers to: those in
force at the oldest such frame and from each later applied frame on. -/
def State.liveCfgs (s : State) : List PrintCfg :=
  let oldest := (s.liveFrames.find? fun f => s.phase f != .complete).getD s.frames.openFirst
  let fs := oldest :: (s.frames.commits.map (·.applied)).filter fun f => FrameNo.later f oldest
  s.staged :: if s.prn.job.isOpen then fs.map fun f => (s.cfgOf f).prn else []

/-- The loads of a list of tables. -/
def loads (t : Tab Loaded) : List Nat := (t.map fun e => e.2.id).filter (· != 0)

/-- R159: threshold-array slots in use. -/
def State.arraysUsed (s : State) : Nat := (s.liveCfgs.flatMap fun c => loads c.arrays).eraseDups.length

/-- R159: table slots in use; a pattern takes one and a stitch tile two. -/
def State.tablesUsed (s : State) : Nat :=
  (s.liveCfgs.flatMap fun c => loads c.pre ++ loads c.post ++ loads c.comp ++ loads c.patterns).eraseDups.length +
    2 * (s.liveCfgs.flatMap fun c => loads c.stitch).eraseDups.length

/-- R159: free threshold-array slots. -/
def State.arraysFree (s : State) : Nat := 40 - s.arraysUsed

/-- R159: free table slots. -/
def State.tablesFree (s : State) : Nat := 3584 - s.tablesUsed

/-- The next load's number. -/
def newLoads (n : Nat) (s : State) : State := { s with prn := { s.prn with nextLoad := s.prn.nextLoad + n } }

/-! ### PRN_LAYER_BIND (R145, R146) -/

/-- A scale from its code. -/
def dpiScale (c : Nat) : Nat := if c = 1 then 1 else if c = 2 then 2 else 4

/-- The handle is not FREE (R145, R542). -/
def bufDefined (s : State) (off h : Nat) : PF :=
  if 4095 < h then some (off, Rsn.range) else if (s.buf h).state = .free then some (off, Rsn.handle) else none

/-- R145: parameters of PRN_LAYER_BIND. A source channel is 0 to 15, as for COV_CHANNEL (DEDUCED, log 26). -/
def layerBindParams (d : Slot) (s : State) : List PF :=
  let act := d.u 9 1
  let layer := inR 8 (d.u 8 1) 0 7
  if act = 2 then [layer, rzb d 10 64]
  else if act = 3 then
    [layer, need (Tab.get {} s.staged.layers (d.u 8 1)).bound 8 Rsn.range, rzb d 10 14, bufDefined s 14 (d.u 14 2),
     rzb d 16 64]
  else
    let chans := (List.range 16).map fun i =>
      need ((d.u (32 + i) 1 ≤ 15 || d.u (32 + i) 1 == 0xFF) &&
        (d.u (32 + i) 1 == 0xFF) == (bitsAt (d.u 28 4) (2 * i) 2 == 0)) (32 + i) Rsn.range
    [layer, inR 10 (d.u 10 1) 0 7, inR 12 (d.u 12 1) 0 3, need (d.u 13 1 < 8) 13 Rsn.reserved,
     bufDefined s 14 (d.u 14 2), inR 16 (d.u 16 1) 1 3, inR 17 (d.u 17 1) 1 3, inR 18 (d.u 18 1) 0 2,
     need (d.u 19 1 ≤ 15 || d.u 19 1 == 0xFF) 19 Rsn.range,
     need ((List.range 16).all fun i => bitsAt (d.u 28 4) (2 * i) 2 != 3) 28 Rsn.range] ++ chans ++ [rzb d 48 64]

/-- R145: the layer a BIND describes. -/
def bindLayer (d : Slot) : Layer :=
  { bound := true, z := d.u 10 1, overlay := d.u 11 1 == 1, policy := Policy.ofCode (d.u 12 1)
    allowReduce := bitAt (d.u 13 1) 0, repeatX := bitAt (d.u 13 1) 1, repeatY := bitAt (d.u 13 1) 2, handle := d.u 14 2
    scaleX := dpiScale (d.u 16 1), scaleY := dpiScale (d.u 17 1), filter := d.u 18 1, covChannel := d.u 19 1
    xOrigin := d.i 20 4, yOrigin := d.i 24 4, coverage := d.u 28 4, chMap := d.u 32 16 }

/-- R146: bind a layer; another layer that holds its Z takes the Z it had, or becomes unbound. -/
def bindInto (n : Nat) (l : Layer) (t : Tab Layer) : Tab Layer :=
  let old := Tab.get {} t n
  let t1 := Tab.mapv {} (fun k m =>
    if k != n && m.bound && m.z == l.z then (if old.bound then { m with z := old.z } else {}) else m) t
  Tab.put {} t1 n l

/-- Checks of PRN_LAYER_BIND. -/
def layerBindChecks : Checks where
  selector := fun d _ => firstOf [inR 9 (d.u 9 1) 1 3, if d.u 9 1 = 1 then inR 11 (d.u 11 1) 0 1 else none]
  params := layerBindParams

/-- PRN_LAYER_BIND (R145, R146). -/
def execPrnLayerBind (slot : Nat) (s : State) : Host.Outcome State Fault Refusal :=
  runCmd 0x0301 slot layerBindChecks (fun k d st =>
    let n := d.u 8 1
    done k (st.stage fun c =>
      { c with layers :=
          if d.u 9 1 = 1 then bindInto n (bindLayer d) c.layers
          else if d.u 9 1 = 2 then Tab.put {} c.layers n {}
          else Tab.upd {} c.layers n fun l => { l with handle := d.u 14 2 } })) s

/-! ### Tables and arrays (R150 to R152, R155 to R158) -/

/-- Little-endian 16-bit values. -/
def halfwords : List Byte → List Nat
  | a :: b :: t => (a.toNat + 256 * b.toNat) :: halfwords t
  | _ => []

/-- R151: parameters of PRN_TONE_LOAD. -/
def toneParams (d : Slot) (s : State) : List PF :=
  let kind := d.u 8 1
  let ident := bitAt (d.u 13 1) 0
  let cnt := d.u 12 1
  [fieldIf (kind == 1) 9 (d.u 9 1) 0 7, inR 10 (d.u 10 1) 0 15, fieldIf (kind == 3) 11 (d.u 11 1) 0 63,
   if kind = 3 then need (1 ≤ cnt && d.u 11 1 + cnt ≤ 64) 12 Rsn.range else need (cnt == 1) 12 Rsn.range,
   need (d.u 13 1 < 2) 13 Rsn.reserved,
   if ident then rz 14 (d.u 14 2) else bufIs s 14 (d.u 14 2) .ready,
   if ident then rz 16 (d.u 16 8)
   else firstOf [need (d.u 16 8 % 4 == 0) 16 Rsn.align, bufSpan s (d.u 14 2) (d.u 16 8) (2052 * cnt) 16],
   rzb d 24 64]

/-- R150, R541: the first reserved byte that is set in `n` consecutive images. -/
def toneReserved (bs : List Byte) (n : Nat) : PF :=
  firstOf ((List.range n).map fun i => imgZero bs (2052 * i + 2050) (2052 * i + 2052))

/-- R151: put `n` tables, from load number `id` on, at keys from `key` on. -/
def putTables (key n id : Nat) (bs : List Byte) (ident : Bool) (t : Tab Loaded) : Tab Loaded :=
  (List.range n).foldl (fun t i =>
    Tab.put {} t (key + i)
      (if ident then {} else { id := id + i, data := halfwords ((bs.drop (2052 * i)).take 2050) })) t

/-- Checks of PRN_TONE_LOAD. -/
def toneChecks : Checks where
  selector := fun d _ => inR 8 (d.u 8 1) 1 3
  params := toneParams
  reads := fun d _ => if bitAt (d.u 13 1) 0 then [] else [(d.u 14 2, d.u 16 8, 2052 * d.u 12 1)]

/-- PRN_TONE_LOAD (R151, R152, R159, R541). -/
def execPrnToneLoad (slot : Nat) (s : State) : Host.Outcome State Fault Refusal :=
  runCmd 0x0302 slot toneChecks (fun k d st =>
    let kind := d.u 8 1
    let ch := d.u 10 1
    let n := d.u 12 1
    let ident := bitAt (d.u 13 1) 0
    let bs := st.bufBytes (d.u 14 2) (d.u 16 8) (2052 * n)
    if kind = 2 && bitAt st.prn.colourHeld ch then resourceBusy k 0x0902 st
    else
      match (if ident then none else toneReserved bs n) with
      | some f => badImage k 16 f.2 f.1 st
      | none =>
        if !ident && decide (st.tablesFree < n) then resourceBusy k 0x0304 st
        else
          let id := st.prn.nextLoad
          done k ((newLoads n st).stage fun c =>
            if kind = 1 then { c with pre := putTables (d.u 9 1 * 16 + ch) 1 id bs ident c.pre }
            else if kind = 2 then { c with post := putTables ch 1 id bs ident c.post }
            else { c with comp := putTables (ch * 64 + d.u 11 1) n id bs ident c.comp })) s

/-- R158: parameters of PRN_SCREEN_LOAD. -/
def screenParams (d : Slot) (s : State) : List PF :=
  let act := d.u 9 1
  let par := act == 3
  [inR 8 (d.u 8 1) 0 15,
   if act = 1 then bufIs s 10 (d.u 10 2) .ready else rz 10 (d.u 10 2), rzb d 12 16,
   if act = 1 then firstOf [need (d.u 16 8 % 4 == 0) 16 Rsn.align, bufSpan s (d.u 10 2) (d.u 16 8) 393216 16]
   else rz 16 (d.u 16 8),
   fieldIf par 24 (d.u 24 1) 0 255, fieldIf par 25 (d.u 25 1) 0 255, fieldIf par 26 (d.u 26 1) 0 255,
   fieldIf par 27 (d.u 27 1) 0 255, fieldIf par 28 (d.u 28 2) 0 512, fieldIf par 30 (d.u 30 1) 1 3, rzb d 31 64]

/-- R158: the first cell that breaks t1 ≤ t2 ≤ t3. -/
def badCell : Nat → List Nat → Option Nat
  | i, a :: b :: c :: t => if a ≤ b ∧ b ≤ c then badCell (i + 1) t else some i
  | _, _ => none

/-- Checks of PRN_SCREEN_LOAD. -/
def screenChecks : Checks where
  selector := fun d _ => inR 9 (d.u 9 1) 1 3
  params := screenParams
  reads := fun d _ => if d.u 9 1 = 1 then [(d.u 10 2, d.u 16 8, 393216)] else []

/-- PRN_SCREEN_LOAD (R155, R156, R158, R159). -/
def execPrnScreenLoad (slot : Nat) (s : State) : Host.Outcome State Fault Refusal :=
  runCmd 0x0303 slot screenChecks (fun k d st =>
    let ch := d.u 8 1
    if d.u 9 1 = 1 then
      let cells := halfwords (st.bufBytes (d.u 10 2) (d.u 16 8) 393216)
      match badCell 0 cells with
      | some i => badImage k 16 Rsn.range i st
      | none =>
        if st.arraysFree = 0 then resourceBusy k 0x0304 st
        else
          let id := st.prn.nextLoad
          done k ((newLoads 1 st).stage fun c => { c with arrays := Tab.put {} c.arrays ch { id := id, data := cells } })
    else if d.u 9 1 = 2 then done k (st.stage fun c => { c with arrays := Tab.put {} c.arrays ch {} })
    else
      let p : Screen := { phaseX := d.u 24 1, phaseY := d.u 25 1, stepX := d.u 26 1, stepY := d.u 27 1
                          gain := d.u 28 2, reach := d.u 30 1 }
      done k (st.stage fun c => { c with screens := Tab.put {} c.screens ch p })) s

/-! ### Opening a job (R133 to R135) -/

/-- R116: N_cut in use. -/
def nCutOf (v : Nat) : Nat := if v = 0 then 4 else v

/-- The whole-line part of the largest LP among the named bars (R134). -/
def State.nowLine (s : State) (mask : Nat) : Int := Int.fdiv (s.lpMax (allBars.filter fun b => bitAt mask b)) 256

/-- R134: N_first. -/
def State.firstLine (s : State) (d : Slot) : Int :=
  let now := s.nowLine (d.u 32 2)
  if d.u 29 1 = 0 then 32 * (-Int.fdiv (-(now + 32 * Int.ofNat (nCutOf (d.u 28 1) + 2))) 32) else d.i 16 8

/-- R133, R134: parameters of PRN_JOB_OPEN. -/
def jobOpenParams (d : Slot) (s : State) : List PF :=
  let fl := d.u 24 4
  let mask := d.u 32 2
  let line := d.i 16 8
  [if d.u 29 1 = 0 then rz 16 (d.u 16 8)
   else need (line % 32 == 0 && decide (s.nowLine mask < line - 32 * Int.ofNat (nCutOf (d.u 28 1) + 1))) 16 Rsn.range,
   need (32 ≤ fl && fl ≤ 67108864 && fl % 32 == 0) 24 Rsn.range,
   need (d.u 28 1 == 0 || (2 ≤ d.u 28 1 && d.u 28 1 ≤ 16)) 28 Rsn.range, inR 30 (d.u 30 1) 0 16, rz 31 (d.u 31 1),
   need (mask != 0 && allBars.all fun b => !bitAt mask b || (s.webBar b).enabled) 32 Rsn.range, rzb d 48 64]

/-- Checks of PRN_JOB_OPEN. -/
def jobOpenChecks : Checks where
  allowed := fun _ s => s.top.dev == .armed && !s.prn.job.isOpen
  selector := fun d _ => inR 29 (d.u 29 1) 0 1
  params := jobOpenParams

/-- R160: slot size of the band queue, in units of 256 bytes, for the largest bar. -/
def State.slotUnits (s : State) (mask : Nat) : Nat :=
  let p := allBars.foldl (fun a b => if bitAt mask b then Nat.max a (s.staged.map b).positions else a) 0
  1 + 4 * ceilDiv p 64

/-- R133, R135, R137: the job as PRN_JOB_OPEN sets it. -/
def newJob (d : Slot) (s : State) : Job :=
  let cnt := d.u 44 4
  { isOpen := true, closing := decide (0 < cnt), reason := if 0 < cnt then .frameCount else .close
    lastFrame := BitVec.ofNat 32 (d.u 12 4) + BitVec.ofNat 32 cnt - 1, jobId := d.u 8 4
    firstFrame := BitVec.ofNat 32 (d.u 12 4), nFirst := s.firstLine d, frameLines := d.u 24 4
    stripK := if d.u 30 1 = 0 then 16 else d.u 30 1, bars := d.u 32 2, marginUs := d.u 34 2, barChannel := d.u 36 8 }

/-- The configuration without layer bindings (R135). -/
def OutCfg.noLayers (c : OutCfg) : OutCfg := { c with prn := { c.prn with layers := [] } }

/-- R133 to R135: a job opens. -/
def openJob (d : Slot) (s : State) : State :=
  let j := newJob d s
  let bars := allBars.filter fun b => bitAt j.bars b
  let start : Tab (Nat × Nat) := bars.foldl (fun t b => Tab.put (0, 0) t b (j.firstFrame.toNat, 0)) []
  let s1 := s.withFrames fun x =>
    { x with
      openFirst := j.firstFrame, nCut := nCutOf (d.u 28 1), staged := x.staged.noLayers, base := x.latest.noLayers
      baseGen := 0, baseHost := false, commits := [], past := [], prevApplied := none, bands := [], fetch := start, next := start
      heldBufs := [] }
  let clean := Tab.mapv {} (fun _ x => { x with oldTerms := [], switches := [], downHold := none, resumeFrom := none }) s1.fire.bars
  let free := Tab.mapv {} (fun _ x => { x with used0 := none, used1 := none }) s1.fire.banks
  refreshPeriods { s1 with fire := { s1.fire with bars := clean, banks := free }, prn := { s1.prn with
    job := j, bandqSlots := 128 / Nat.max 1 bars.length + 2, bandqUnits := s.slotUnits j.bars, decodeSeen := [] } }

/-- PRN_JOB_OPEN (R133 to R135, R137). -/
def execPrnJobOpen (slot : Nat) (s : State) : Host.Outcome State Fault Refusal :=
  runCmd 0x0300 slot jobOpenChecks (fun k d st =>
    complete k St.ok 0 (unsigned 32 (st.firstLine d)) (some (BitVec.ofNat 32 (d.u 12 4))) (openJob d st)) s

/-! ### Closing a job (R136 to R138) -/

/-- The staged table on top of a new one: the keys staged anew keep what was staged. -/
def Tab.rebase {α : Type} [DecidableEq α] (d : α) (old stg new : Tab α) : Tab α :=
  ((stg ++ old).map (·.1)).foldl (fun t k => if Tab.get d stg k = Tab.get d old k then t else Tab.put d t k (Tab.get d stg k))
    new

/-- R64, R111: the staged configuration once commits have been dropped: what the host has staged stays staged, and what the
calibration engine committed with them is gone. -/
def PrintCfg.rebase (old stg new : PrintCfg) : PrintCfg :=
  { stg with
    post := Tab.rebase {} old.post stg.post new.post
    missing := Tab.rebase false old.missing stg.missing new.missing
    shift := Tab.rebase 0 old.shift stg.shift new.shift }

/-- R136: pending commits whose applied frame lies after `last`. -/
def State.beyond (s : State) (last : FrameNo) : Nat :=
  (s.frames.commits.filter fun c => FrameNo.later c.applied last).length

/-- R136: commits after the last frame never take effect, and its bands are not produced. -/
def dropBeyond (last : FrameNo) (s : State) : State :=
  let old := s.frames.latest.prn
  let s1 := s.withFrames fun x =>
    { x with commits := x.commits.filter fun c => !FrameNo.later c.applied last
             bands := x.bands.filter fun b => !FrameNo.later b.frame last }
  if s.beyond last = 0 then s1
  else
    s1.withFrames fun x => { x with staged := { x.staged with prn := PrintCfg.rebase old x.staged.prn x.latest.prn } }

/-- R136: set the last frame of the job. -/
def setLast (last : FrameNo) (why : CloseReason) (s : State) : State :=
  dropBeyond last
    { s with prn := { s.prn with job := { s.prn.job with closing := true, lastFrame := last, reason := why } } }

/-- R136, R163: the job is no longer open; JOB_CLOSED follows the completion record of command `after`. -/
def closeJob (after : Nat) (last : FrameNo) (why : CloseReason) (s : State) : State :=
  let j := s.prn.job
  let s1 := s.withFrames fun x =>
    { x with base := x.latest, baseGen := 0, baseHost := false, commits := [], bands := [], fetch := [], next := [] }
  let s2 := { s1 with
    prn := { s1.prn with job := { j with isOpen := false, closing := false } }
    fire := { s1.fire with feeders := Tab.mapv {} (fun _ x => { x with fifo := [] }) s1.fire.feeders } }
  let s3 := raiseAfter after Src.prn 0x0001 (le 4 j.jobId ++ le 4 last.toNat ++ le 1 why.code) (refreshPeriods s2)
  if s3.top.dev = .run then setDev .armed .none s3 else s3

/-- R136: the checks that PRN_JOB_CLOSE and PRN_ABORT share. -/
def jobIdFault (off : Nat) (d : Slot) (s : State) : PF := need (d.u off 4 == s.prn.job.jobId) off Rsn.range

/-- Checks of PRN_JOB_CLOSE. -/
def jobCloseChecks : Checks where
  allowed := fun _ s => s.prn.job.isOpen
  params := fun d s =>
    [jobIdFault 8 d s, if bitAt (d.u 16 1) 0 then rz 12 (d.u 12 4) else none, need (d.u 16 1 < 2) 16 Rsn.reserved,
     rzb d 17 64]

/-- R136: a frame of the job has left OPEN. -/
def State.anyCut (s : State) : Bool := s.frames.openFirst != s.prn.job.firstFrame

/-- R136: the close takes effect when the last frame has already been produced. -/
def closeIfDone (after : Nat) (s : State) : State :=
  let j := s.prn.job
  if j.isOpen && j.closing && s.phase j.lastFrame == .complete then closeJob after j.lastFrame j.reason s else s

/-- PRN_JOB_CLOSE (R136, R137). -/
def execPrnJobClose (slot : Nat) (s : State) : Host.Outcome State Fault Refusal :=
  runCmd 0x0305 slot jobCloseChecks (fun k d st =>
    let j := st.prn.job
    let atCut := bitAt (d.u 16 1) 0
    let named := BitVec.ofNat 32 (d.u 12 4)
    let cut := st.frames.openFirst - 1
    if !st.anyCut && (atCut || FrameNo.later j.firstFrame named) then
      let before := j.firstFrame - 1
      let s1 := complete k St.ok (st.beyond before) 0 none (dropBeyond before st)
      closeJob d.id before .close s1
    else
      let late := !atCut && FrameNo.later cut named && st.anyCut
      let want := if atCut || late then cut else named
      let s1 := if j.closing && FrameNo.later want j.lastFrame then st else setLast want .close st
      let n := st.beyond s1.prn.job.lastFrame
      closeIfDone d.id
        (complete k (if late then St.late else St.deferred) n 0 (some s1.prn.job.lastFrame) s1)) s

/-- Checks of PRN_ABORT. -/
def abortChecks : Checks where
  allowed := fun _ s => s.prn.job.isOpen
  params := fun d s => [jobIdFault 8 d s, rzb d 12 64]

/-- R131: cut one frame short. -/
def abortFrame (s : State) (f : FrameNo) : State :=
  match s.phase f with
  | .delivering => completeFrame f (s.updFrame f fun r => r.mark .aborted)
  | .cut => completeFrame f (s.updFrame f fun r => (r.mark .aborted).mark .frameSkipped)
  | .opened => s
  | .complete => s

/-- R131: forget what an OPEN frame has gathered. -/
def dropOpen (s : State) : State :=
  s.withFrames fun x => { x with recs := x.recs.filter fun e => e.2.phase != .opened }

/-- R131: cut every frame of the output short. -/
def abortFrames (s : State) : State := dropOpen (s.liveFrames.foldl abortFrame s)

/-- The latest frame that had reached DELIVERING, as JOB_CLOSED names it (R163). -/
def State.lastDelivered (s : State) : FrameNo := s.prn.job.delivered.getD (s.prn.job.firstFrame - 1)

/-- PRN_ABORT (R131, R138). -/
def execPrnAbort (slot : Nat) (s : State) : Host.Outcome State Fault Refusal :=
  runCmd 0x0306 slot abortChecks (fun k d st =>
    let s1 := abortFrames st
    closeJob d.id s1.lastDelivered .abort (complete k St.ok 0 0 st.prn.job.delivered s1)) s

/-! ### Cutoff and completion of a print frame -/

/-- R154: dead columns of a bar in a configuration. -/
def deadCount (c : PrintCfg) (b : Nat) : Nat :=
  let m := c.map b
  let cols := barColumns c b m
  ((cols.map (·.1)).eraseDups.filter fun x => deadColumn c m cols x).length

/-- R199: missing nozzles of a bar in a configuration. -/
def missingCount (c : PrintCfg) (b : Nat) : Nat :=
  (c.map b).nodes.foldl (fun a n => a + ((List.range (2 * n.count)).filter fun j => c.isMissing n.node j).length) 0

/-- R199: FIRE.BAR_NOZZLES of the bars of the job from the generation that has just reached CUT. -/
def refreshNozzles (c : PrintCfg) (s : State) : State :=
  s.jobBars.foldl (fun st b => st.setFireBar b
    { st.fireBar b with missing := Nat.min 65535 (missingCount c b), dead := Nat.min 65535 (deadCount c b) }) s

/-- R131: part of the print output is in Halter. -/
def State.printHalted (s : State) : Bool :=
  s.top.dev == .halter || s.top.dev == .fault || (s.jobBars.any fun b => (s.fireBar b).halted) ||
    s.jobBars.any fun b => (s.frames.latest.prn.map b).links.any fun l =>
      !((s.link l).state == .claimed || (s.link l).state == .observing)

/-- R118, R176, R193: the cutoff of frame `f` of a print job. -/
def printCutoff (f : FrameNo) (s : State) : State :=
  let s1 := enterCut f (keepOldTerms f s)
  let s2 := s1.updFrame f fun r =>
    let r1 := { r with barsLeft := s1.jobBars }
    if s1.printHalted then r1.mark .halted else r1
  let s3 := if s.hostCommitted f then decideBanks f s2 else s2
  refreshPeriods (refreshNozzles (s.cfgOf f).prn s3)

/-- R108, R131: frame `f` has left the feeders of every bar. -/
def State.printDone (s : State) (f : FrameNo) : Bool :=
  let r := s.frame f
  (r.phase == .delivering || r.phase == .cut) && r.barsLeft.isEmpty && (r.nodesLeft.isEmpty || s.printHalted)

/-- R108, R123, R136: frame `f` becomes COMPLETE. -/
def finishPrintFrame (f : FrameNo) (s : State) : State :=
  let s1 := pruneCommits (completeFrame f s)
  closeIfDone 0
    { s1 with prn := { s1.prn with decodeSeen := s1.prn.decodeSeen.filter fun e => e.1 != f.toNat } }

/-- R221: a node has not reported the last line of a frame 2 ms after its tick. -/
def lastTimeout (n : Nat) (r : Frame) (now : Nat) : Frame :=
  if r.nodesLeft.any fun e => e.1 == n && decide (e.2 + 2 * 10 ^ 6 ≤ now) then
    { r.mark .lineBlanked with
      linesBlanked := r.linesBlanked + 1
      nodesLeft := r.nodesLeft.filter fun e => !(e.1 == n && decide (e.2 + 2 * 10 ^ 6 ≤ now)) }
  else r

/-- LAST_TICK_TIMEOUT (R221). -/
def execLastTickTimeout (node : Nat) (s : State) : Host.Outcome State Fault Refusal :=
  .next (s.withFrames fun x => { x with recs := Tab.mapv {} (fun _ r => lastTimeout node r s.uptime) x.recs })

end Sys2Proof.Machine
end

