-- ==== Sys2Proof/Machine/LfCmd.lean ====
section
/-! DEFINITION. The light-field commands that stage or configure: LFR_SCENE_BIND, LFR_RAYMAP_LOAD, LFR_EMITTER_CAL_LOAD,
LFR_LUT_LOAD, SCAN_TIMING, SCAN_POWER_POLICY and SCAN_SPLIT_CONFIG (R238 to R255, R265, R272 to R276, R289, R294). -/

namespace Sys2Proof.Machine

/-! ### Access -/

/-- The light-field configuration that commands stage into. -/
def State.stagedLf (s : State) : LfCfg := s.frames.staged.lf

/-- Change the staged light-field configuration (R109). -/
def State.stageLf (s : State) (f : LfCfg → LfCfg) : State :=
  s.withFrames fun x => { x with staged := { x.staged with lf := f x.staged.lf } }

/-- Change the scan. -/
def State.withScan (s : State) (f : Scan → Scan) : State := { s with scan := f s.scan }

/-- A scan is running. -/
def State.scanning (s : State) : Bool := s.scan.phase != .stopped

/-! ### LFR_SCENE_BIND (R243, R244) -/

/-- R241: bytes of a plane. -/
def planeBytes (w h : Nat) : Nat := 16 * (w / 4) * (h / 4)

/-- R244: the buffer of a plane is defined and large enough. -/
def planeBuffer (s : State) (off h sizeOff w ht : Nat) : List PF :=
  [bufDefined s off h, need (decide (planeBytes w ht ≤ (s.buf h).size)) sizeOff Rsn.range]

/-- R244: parameters of LFR_SCENE_BIND. -/
def sceneParams (d : Slot) (s : State) : List PF :=
  let act := d.u 9 1
  let pl := d.u 8 1
  let ov := 64 ≤ pl
  let plane := need (pl ≤ 67) 8 Rsn.range
  let p := Tab.get {} s.stagedLf.planes pl
  if act = 4 then
    [need (pl == 0xFF) 8 Rsn.range, rzb d 10 24, inR 30 (d.u 30 1) 0 1, rz 31 (d.u 31 1), rzb d 34 64]
  else if act = 2 then [plane, rzb d 10 64]
  else if act = 3 then
    [plane, need (p.bound || decide (67 < pl)) 8 Rsn.range, rzb d 10 12, rzb d 14 64] ++
      planeBuffer s 12 (d.u 12 2) 14 p.width p.height
  else
    let wMax := if ov then 16384 else 4096
    let hMax := if ov then 8192 else 4096
    [plane, inR 10 (d.u 10 1) 0 3, need (d.u 11 1 < 2) 11 Rsn.reserved, need (ov || d.u 11 1 != 1) 11 Rsn.range,
     need (d.u 14 2 % 4 == 0) 14 Rsn.range, inR 14 (d.u 14 2) 4 wMax,
     need (d.u 16 2 % 4 == 0) 16 Rsn.range, inR 16 (d.u 16 2) 4 hMax,
     inR 18 (d.u 18 1) 1 2, need (ov || d.u 18 1 != 2) 18 Rsn.range, fieldIf ov 19 (d.u 19 1) 0 3,
     if ov then rz 20 (d.u 20 4) else none, need (!ov || d.u 28 4 == 0) 28 Rsn.range,
     need (!ov || d.u 32 4 == 0) 32 Rsn.range, rzb d 48 64] ++
      planeBuffer s 12 (d.u 12 2) 14 (d.u 14 2) (d.u 16 2)

/-- R243: the plane a BIND describes. -/
def bindPlane (d : Slot) : Plane :=
  { bound := true, policy := d.u 10 1, allowReduce := bitAt (d.u 11 1) 0, handle := d.u 12 2, width := d.u 14 2
    height := d.u 16 2, cubic := d.u 18 1 == 2, order := d.u 19 1, depth := d.i 20 4, a00 := d.i 24 4, a01 := d.i 28 4
    a10 := d.i 32 4, a11 := d.i 36 4, a02 := d.i 40 4, a12 := d.i 44 4 }

/-- R240, R243: bind a plane; another overlay plane that holds its ORDER takes the order it had, or becomes unbound. -/
def bindPlaneInto (n : Nat) (p : Plane) (t : Tab Plane) : Tab Plane :=
  let old := Tab.get {} t n
  let t1 := if n < 64 then t
    else Tab.mapv {} (fun k m =>
      if decide (64 ≤ k) && k != n && m.bound && m.order == p.order then
        (if old.bound then { m with order := old.order } else {})
      else m) t
  Tab.put {} t1 n p

/-- Checks of LFR_SCENE_BIND. -/
def sceneChecks : Checks where
  selector := fun d _ => inR 9 (d.u 9 1) 1 4
  params := sceneParams

/-- LFR_SCENE_BIND (R238, R240, R243, R244). -/
def execLfrSceneBind (slot : Nat) (s : State) : Host.Outcome State Fault Refusal :=
  runCmd 0x0600 slot sceneChecks (fun k d st =>
    let n := d.u 8 1
    done k (st.stageLf fun c =>
      if d.u 9 1 = 1 then { c with planes := bindPlaneInto n (bindPlane d) c.planes }
      else if d.u 9 1 = 2 then { c with planes := Tab.put {} c.planes n {} }
      else if d.u 9 1 = 3 then { c with planes := Tab.upd {} c.planes n fun p => { p with handle := d.u 12 2 } }
      else { c with bgR := d.u 24 2, bgG := d.u 26 2, bgB := d.u 28 2, temporal := d.u 30 1 == 1, marginUs := d.u 32 2 }))
    s

/-! ### The pool (R265) -/

/-- Every light-field configuration that a staged set or a frame not yet complete refers to. -/
def State.liveLf (s : State) : List LfCfg :=
  s.stagedLf :: s.frames.base.lf :: s.frames.commits.map fun c => c.cfg.lf

/-- R265: LIN slots in use. -/
def State.linUsed (s : State) : Nat := (s.liveLf.flatMap fun c => loads c.lin).eraseDups.length

/-- R265: gamma slots in use. -/
def State.gammaUsed (s : State) : Nat := (s.liveLf.flatMap fun c => loads c.gamma).eraseDups.length

/-- R265: region-table slots in use. -/
def State.regionsUsed (s : State) : Nat :=
  (((s.liveLf.map fun c => c.map.load) ++ s.frames.recs.map fun e => e.2.map.load).filter (· != 0)).eraseDups.length

/-! ### LFR_RAYMAP_LOAD (R246, R247, R250) -/

/-- R247: parameters of LFR_RAYMAP_LOAD. -/
def rayMapParams (d : Slot) (s : State) : List PF :=
  [bufIs s 8 (d.u 8 2) .ready, rzb d 10 16, need (d.u 16 8 % 8 == 0) 16 Rsn.align, rzb d 24 64]

/-- R246: offset of region `i` in an image. -/
def regionOff (img : List Byte) (i : Nat) : Nat := numAt img 16 4 + 48 * i

/-- A signed little-endian number of `n` bytes of an image. -/
def intAt (img : List Byte) (i n : Nat) : Int := signed (8 * n) (numAt img i n)

/-- R246: a region entry. -/
def readRegion (img : List Byte) (o : Nat) : Region :=
  { x0 := intAt img o 4, y0 := intAt img (o + 4) 4, pLx := numAt img (o + 8) 4, pLy := numAt img (o + 12) 4
    slant := intAt img (o + 16) 4, dx0 := intAt img (o + 20) 4, dy0 := intAt img (o + 24) 4, kx := intAt img (o + 28) 4
    ky := intAt img (o + 32) 4, resX := byteAt img (o + 36), resY := byteAt img (o + 37) }

/-- R246: the ray map of an image, without its load number. -/
def readRayMap (img : List Byte) (handle offset : Nat) : RayMap :=
  { handle := handle, offset := offset, subpix := byteAt img 5, cols := numAt img 8 4, rows := numAt img 12 4
    colBase := intAt img 20 4, recordOff := numAt img 24 8
    pos := (List.range (byteAt img 5)).map fun i => (intAt img (32 + 4 * i) 2, intAt img (34 + 4 * i) 2)
    regions := (List.range (numAt img 6 2)).map fun i => readRegion img (regionOff img i) }

/-- R246, R247: faults of the fields that say how many emitters there are, in the order of their bytes. -/
def rayCountFault (img : List Byte) : PF :=
  firstOf [need (numAt img 0 4 == 0x50414D52) 0 Rsn.range, need (byteAt img 4 == 1) 4 Rsn.range, inR 5 (byteAt img 5) 1 4,
    inR 6 (numAt img 6 2) 1 256, inR 8 (numAt img 8 4) 1 16384, inR 12 (numAt img 12 4) 8 8192,
    need (numAt img 12 4 % 8 == 0) 12 Rsn.range]

/-- R246, R247: faults of the rest of the header, in the order of its bytes; both tables must lie inside `room` bytes. -/
def rayHeaderFault (img : List Byte) (m : RayMap) (room : Nat) : PF :=
  let at' := numAt img 16 4
  firstOf ([need (at' % 8 == 0 && decide (64 ≤ at') && decide (at' + 48 * m.regions.length ≤ room)) 16 Rsn.range,
    need (m.recordOff % 4 == 0 && decide (m.recordOff + 4 * m.emitters ≤ room)) 24 Rsn.range] ++
    ((List.range 4).map fun i => need (decide (i < m.subpix) || numAt img (32 + 4 * i) 4 == 0) (32 + 4 * i) Rsn.range) ++
    [imgZero img 48 64])

/-- R246, R247: faults of the region table. -/
def regionFault (img : List Byte) : PF :=
  firstOf ((List.range (numAt img 6 2)).map fun i =>
    let o := regionOff img i
    firstOf [need (numAt img (o + 8) 4 != 0) (o + 8) Rsn.range, inR (o + 36) (byteAt img (o + 36)) 8 24,
      inR (o + 37) (byteAt img (o + 37)) 8 24, imgZero img (o + 38) (o + 48)])

/-- R246, R247: the first fault among the emitter records, at the byte of its field. -/
def recordsFault (img : List Byte) (m : RayMap) : PF :=
  (List.range m.emitters).findSome? fun e =>
    let o := m.recordOff + 4 * e
    let r := numAt img o 4
    if m.regions.length ≤ bitsAt r 16 8 then some (o + 2, Rsn.range)
    else if bitsAt r 24 2 = 3 then some (o + 3, Rsn.range)
    else if bitsAt r 27 5 ≠ 0 then some (o + 3, Rsn.reserved)
    else none

/-- R247: the one of two faults that comes first in the image. -/
def earlierFault (a b : PF) : PF :=
  match a, b with
  | some x, some y => if y.1 < x.1 then some y else some x
  | some x, none => some x
  | none, b => b

/-- R247, R250: stage a ray map; a changed number of emitters also stages UNITY. The calibration gives way when the map is committed
(`LfCfg.keepCal`). -/
def stageRayMap (m : RayMap) (s : State) : State :=
  let n := s.scan.mapLoad
  (s.withScan fun x => { x with mapLoad := n + 2 }).stageLf fun c =>
    let c1 := { c with map := { m with load := n } }
    if c.map.emitters = m.emitters then c1 else { c1 with gain := { load := n + 1 } }

/-- R252: an LF_RAY or LF_PHOTO run holds the ray map and the emitter table. -/
def State.lfHeldByRun (s : State) : Bool := s.cal.lfRun

/-- Checks of LFR_RAYMAP_LOAD. -/
def rayMapChecks : Checks where
  params := rayMapParams
  reads := fun d s => [(d.u 8 2, d.u 16 8, (s.buf (d.u 8 2)).size - d.u 16 8)]

/-- LFR_RAYMAP_LOAD (R246, R247, R250, R252, R265). The number of emitters is judged once the fields that give it are in their
ranges (log 66). -/
def execLfrRaymapLoad (slot : Nat) (s : State) : Host.Outcome State Fault Refusal :=
  runCmd 0x0601 slot rayMapChecks (fun k d st =>
    let h := d.u 8 2
    let off := d.u 16 8
    let img := st.bufBytes h off ((st.buf h).size - off)
    let m := readRayMap img h off
    if st.lfHeldByRun then resourceBusy k 0x0901 st
    else
      match rayCountFault img with
      | some f => badImage k 16 f.2 f.1 st
      | none =>
        if st.fuse.part.emitterLimit < m.emitters then badImage k 16 Rsn.limit 0 st
        else
          match firstOf [rayHeaderFault img m img.length, earlierFault (regionFault img) (recordsFault img m)] with
          | some f => badImage k 16 f.2 f.1 st
          | none => if 8 ≤ st.regionsUsed then resourceBusy k 0x0701 st else done k (stageRayMap m st)) s

/-! ### LFR_EMITTER_CAL_LOAD (R249) -/

/-- R249: parameters of LFR_EMITTER_CAL_LOAD. -/
def emitterCalParams (d : Slot) (s : State) : List PF :=
  let tab := d.u 8 1 == 1
  let m := s.stagedLf.map
  [rz 9 (d.u 9 1), if tab then bufIs s 10 (d.u 10 2) .ready else rz 10 (d.u 10 2), rzb d 12 16,
   if tab then firstOf [need (d.u 16 8 % 4 == 0) 16 Rsn.align, need (m.load != 0) 16 Rsn.range,
     bufSpan s (d.u 10 2) (d.u 16 8) (4 * m.emitters) 16]
   else rz 16 (d.u 16 8), rzb d 24 64]

/-- Checks of LFR_EMITTER_CAL_LOAD. -/
def emitterCalChecks : Checks where
  selector := fun d _ => inR 8 (d.u 8 1) 1 2
  params := emitterCalParams

/-- LFR_EMITTER_CAL_LOAD (R249, R251, R252). -/
def execLfrEmitterCalLoad (slot : Nat) (s : State) : Host.Outcome State Fault Refusal :=
  runCmd 0x0602 slot emitterCalChecks (fun k d st =>
    if st.lfHeldByRun then resourceBusy k 0x0901 st
    else
      let n := st.scan.mapLoad
      let g : GainTable := if d.u 8 1 = 1 then
          { load := n, table := true, handle := d.u 10 2, offset := d.u 16 8, count := st.stagedLf.map.emitters }
        else { load := n }
      done k ((st.withScan fun x => { x with mapLoad := n + 1 }).stageLf fun c => { c with gain := g })) s

/-! ### LFR_LUT_LOAD (R254, R255) -/

/-- R255: bytes of a table image. -/
def lutBytes (kind : Nat) : Nat := if kind = 1 then 1536 else 2052

/-- R254: parameters of LFR_LUT_LOAD. -/
def lutParams (d : Slot) (s : State) : List PF :=
  let lin := d.u 8 1 == 1
  let ident := bitAt (d.u 11 1) 0
  [fieldIf lin 9 (d.u 9 1) 0 67, fieldIf (!lin) 10 (d.u 10 1) 0 2, need (d.u 11 1 < 2) 11 Rsn.reserved,
   if ident then rz 12 (d.u 12 2) else bufIs s 12 (d.u 12 2) .ready, rzb d 14 16,
   if ident then rz 16 (d.u 16 8)
   else firstOf [need (d.u 16 8 % 4 == 0) 16 Rsn.align, bufSpan s (d.u 12 2) (d.u 16 8) (lutBytes (d.u 8 1)) 16],
   rzb d 24 64]

/-- Checks of LFR_LUT_LOAD. -/
def lutChecks : Checks where
  selector := fun d _ => inR 8 (d.u 8 1) 1 2
  params := lutParams
  reads := fun d _ => if bitAt (d.u 11 1) 0 then [] else [(d.u 12 2, d.u 16 8, lutBytes (d.u 8 1))]

/-- LFR_LUT_LOAD (R254, R255, R265). -/
def execLfrLutLoad (slot : Nat) (s : State) : Host.Outcome State Fault Refusal :=
  runCmd 0x0603 slot lutChecks (fun k d st =>
    let lin := d.u 8 1 == 1
    let ident := bitAt (d.u 11 1) 0
    let bs := st.bufBytes (d.u 12 2) (d.u 16 8) (lutBytes (d.u 8 1))
    match (if ident || lin then none else imgZero bs 2050 2052) with
    | some f => badImage k 16 f.2 f.1 st
    | none =>
      if !ident && (if lin then decide (512 ≤ st.linUsed) else decide (48 ≤ st.gammaUsed)) then resourceBusy k 0x0701 st
      else
        let t : Loaded := if ident then {} else
          { id := st.prn.nextLoad, data := halfwords (if lin then bs else bs.take 2050) }
        done k ((newLoads 1 st).stageLf fun c =>
          if lin then { c with lin := Tab.put {} c.lin (d.u 9 1) t } else { c with gamma := Tab.put {} c.gamma (d.u 10 1) t }))
    s

/-! ### SCAN_TIMING (R272, R273) -/

/-- R272: rows of a frame. -/
def ScanTiming.total (t : ScanTiming) : Nat := t.rowsActive + t.rowsBlank

/-- T_frame in 2^-32 ns. -/
def ScanTiming.frame (t : ScanTiming) : Nat := t.frameNs * 2 ^ 32 + t.frameFrac

/-- `rows` row times in ns, truncated (R268). -/
def ScanTiming.rowsNs (t : ScanTiming) (rows : Nat) : Nat := rows * t.frame / (2 ^ 32 * Nat.max 1 t.total)

/-- T_row rounded to the nearest ns (R269). -/
def ScanTiming.rowNs (t : ScanTiming) : Nat := (2 * t.frame + 2 ^ 32 * t.total) / (2 ^ 33 * Nat.max 1 t.total)

/-- The timing that a TIMING action names (R272). -/
def readScanTiming (d : Slot) : ScanTiming :=
  { given := true, depth := d.u 9 1, nCut := if d.u 10 1 = 0 then 4 else d.u 10 1, trigger := d.u 11 1
    frameNs := d.u 12 4, frameFrac := d.u 16 4, rowsActive := d.u 20 2, rowsBlank := d.u 22 2
    fifoBands := if d.u 24 1 = 0 then 2 else d.u 24 1, panicRows := if d.u 25 1 = 0 then 4 else d.u 25 1 }

/-- R209, R210: bytes of one row of a node. -/
def PanelNode.rowBytes (n : PanelNode) (subpix depth : Nat) : Nat := ceilDiv (n.cols * subpix * depth) 8

/-- R210: the lengths of the segments of a row payload of `p` bytes. -/
def segments (p : Nat) : List Nat := (List.range (ceilDiv p 8192)).map fun i => Nat.min 8192 (p - 8192 * i)

/-- R273: blocks in the row frames of one active row for a node. -/
def PanelNode.blocks (n : PanelNode) (subpix depth : Nat) : Nat :=
  (segments (n.rowBytes subpix depth)).foldl (fun a b => a + 3 + ceilDiv b 8) 0

/-- R273: blocks in the row frames of one active row on a link. -/
def PanelMap.linkBlocks (m : PanelMap) (depth l : Nat) : Nat :=
  (m.nodes.filter fun n => n.node / 8 == l).foldl (fun a n => a + n.blocks m.subpix depth) 0

/-- R273: TX_ROW of link `l` is at most T_row − 500 ns. -/
def txFitsOn (t : ScanTiming) (m : PanelMap) (l : Nat) : Bool :=
  decide ((64 * m.linkBlocks t.depth l + 1000) * (2 ^ 32 * t.total) + 5000 * (2 ^ 32 * t.total) ≤ 10 * t.frame) ||
    m.linkBlocks t.depth l == 0

/-- R273: TX_ROW of every link is at most T_row − 500 ns. -/
def txFits (t : ScanTiming) (m : PanelMap) : Bool := allLinks.all (txFitsOn t m)

/-- R273: 8 × (L + 1) rows of link `l` fit its FIFO. -/
def fifoFitsOn (t : ScanTiming) (m : PanelMap) (l : Nat) : Bool :=
  decide (8 * (t.fifoBands + 1) * (8 * m.linkBlocks t.depth l) ≤ 524288)

/-- R273: 8 × (L + 1) rows of every link fit its FIFO. -/
def fifoFits (t : ScanTiming) (m : PanelMap) : Bool := allLinks.all (fifoFitsOn t m)

/-- R15, R272, R273: parameters of TIMING; a panel map in force must stay within the emitter limit. -/
def scanTimingParams (d : Slot) (s : State) : List PF :=
  let t := readScanTiming d
  let m := s.scan.map
  let row := t.frame / (2 ^ 32 * Nat.max 1 t.total)
  let off := fun (o : Nat) => need (decide (d.u o 4 ≤ row - 1)) o Rsn.range
  [inR 9 t.depth 8 12, inR 10 t.nCut 2 16, inR 11 t.trigger 0 15, inR 12 t.frameNs 4000000 100000000,
   need (decide (1000 ≤ row) && (m.nodes.isEmpty || txFits t m)) 12 Rsn.range,
   inR 20 t.rowsActive 8 4096, need (t.rowsActive % 8 == 0) 20 Rsn.range,
   need (m.nodes.isEmpty || decide (m.cols * m.subpix * t.rowsActive ≤ s.fuse.part.emitterLimit)) 20 Rsn.limit, inR 22 t.rowsBlank 8 1024,
   inR 24 t.fifoBands 1 4, need (m.nodes.isEmpty || fifoFits t m) 24 Rsn.range, inR 25 t.panicRows 2 16, rz 26 (d.u 26 2),
   off 28, off 32, rzb d 36 64]

/-- R274: nodes of a panel map image. -/
def panelNodes (img : List Byte) : List PanelNode :=
  (List.range (numAt img 6 2)).map fun i =>
    let o := 16 + 8 * i
    { node := byteAt img o, colRev := bitAt (byteAt img (o + 1)) 0, subRev := bitAt (byteAt img (o + 1)) 1
      cols := numAt img (o + 2) 2, first := numAt img (o + 4) 4 }

/-- R274, R541: field faults of a panel map image. -/
def panelFieldFault (img : List Byte) : PF :=
  firstOf ([need (numAt img 0 4 == 0x4E504D50) 0 Rsn.range, need (byteAt img 4 == 1) 4 Rsn.range, inR 5 (byteAt img 5) 1 4,
    inR 6 (numAt img 6 2) 1 256, inR 8 (numAt img 8 4) 1 16384, imgZero img 12 16] ++
    (List.range (numAt img 6 2)).map fun i =>
      let o := 16 + 8 * i
      firstOf [need (byteAt img (o + 1) < 4) (o + 1) Rsn.reserved, inR (o + 2) (numAt img (o + 2) 2) 1 4096])

/-- R276: the first column that no strip covers, or that two cover, and columns beyond the panel. -/
def stripFault (m : PanelMap) : Option Nat :=
  let hits := fun (c : Nat) => (m.nodes.filter fun n => decide (n.first ≤ c) && decide (c < n.first + n.cols)).length
  let bad := (List.range m.cols).find? fun c => hits c != 1
  match bad with
  | some c => some c
  | none => (m.nodes.find? fun n => decide (m.cols < n.first + n.cols)).map fun _ => m.cols

/-- R276: the first node that breaks a rule of the map. -/
def panelNodeFault (s : State) (m : PanelMap) : Option Nat :=
  let t := s.scan.timing
  let twice := (m.nodes.find? fun n => decide (1 < (m.nodes.filter fun k => k.node == n.node).length)).map (·.node)
  let bad := (m.nodes.find? fun n =>
    let v := s.node n.node
    !(v.present && v.kind == 2 && v.holdCap) || decide (v.maxRow * 64 < n.cols * m.subpix) ||
      decide (v.emitters < n.cols * m.subpix * t.rowsActive)).map (·.node)
  let late := if t.given then (m.nodes.find? fun n =>
    !(txFitsOn t m (n.node / 8) && fifoFitsOn t m (n.node / 8))).map (·.node) else none
  firstCap [twice, bad, late]

/-- R272, R276: parameters of PANEL_MAP. -/
def panelMapParams (d : Slot) (s : State) : List PF :=
  [rzb d 9 12, bufIs s 12 (d.u 12 2) .ready, rzb d 14 16,
   firstOf [need (d.u 16 8 % 8 == 0) 16 Rsn.align, bufSpan s (d.u 12 2) (d.u 16 8) 16 16], rzb d 24 64]

/-- R273: the unstaged fields of a TIMING are those in force. -/
def sameTiming (d : Slot) (s : State) : Bool := readScanTiming d == s.scan.timing

/-- Checks of SCAN_TIMING. -/
def scanTimingChecks : Checks where
  allowed := fun d s => !s.scanning || (d.u 8 1 != 2 && (d.u 8 1 != 1 || sameTiming d s))
  selector := fun d _ => inR 8 (d.u 8 1) 1 2
  params := fun d s => if d.u 8 1 = 1 then scanTimingParams d s else panelMapParams d s
  reads := fun d s => if d.u 8 1 = 1 then [] else
    [(d.u 12 2, d.u 16 8, Nat.min (16 + 8 * numAt (s.bufBytes (d.u 12 2) (d.u 16 8) 16) 6 2) ((s.buf (d.u 12 2)).size - d.u 16 8))]

/-- SCAN_TIMING (R15, R272 to R276). -/
def execScanTiming (slot : Nat) (s : State) : Host.Outcome State Fault Refusal :=
  runCmd 0x0700 slot scanTimingChecks (fun k d st =>
    if d.u 8 1 = 1 then
      let t := readScanTiming d
      done k (((st.withScan fun x => { x with timing := t }).withFrames fun x => { x with nCut := t.nCut }).stageLf fun c =>
        { c with offsetA := d.u 28 4, offsetB := d.u 32 4 })
    else
      let h := d.u 12 2
      let off := d.u 16 8
      let head := st.bufBytes h off 16
      let img := st.bufBytes h off (Nat.min (16 + 8 * numAt head 6 2) ((st.buf h).size - off))
      let m : PanelMap := { subpix := byteAt img 5, cols := numAt img 8 4, nodes := panelNodes img }
      match panelFieldFault img with
      | some f => badImage k 16 f.2 f.1 st
      | none =>
        if img.length < 16 + 8 * numAt img 6 2 then badImage k 16 Rsn.range 6 st
        else
          match firstCap [stripFault m, panelNodeFault st m] with
          | some r => badImage k 16 Rsn.range r st
          | none =>
            if st.fuse.part.emitterLimit < m.cols * m.subpix * st.scan.timing.rowsActive then badImage k 16 Rsn.limit 0 st
            else done k (st.withScan fun x => { x with map := m })) s

/-! ### SCAN_POWER_POLICY and SCAN_SPLIT_CONFIG (R289, R294) -/

/-- Checks of SCAN_POWER_POLICY. -/
def powerPolicyChecks : Checks where
  params := fun d _ => [inR 8 (d.u 8 1) 1 4, rz 9 (d.u 9 1), inR 10 (d.u 10 2) 1 1000, rzb d 12 64]

/-- SCAN_POWER_POLICY (R289). -/
def execScanPowerPolicy (slot : Nat) (s : State) : Host.Outcome State Fault Refusal :=
  runCmd 0x0702 slot powerPolicyChecks (fun k d st =>
    done k (st.stageLf fun c => { c with refreshDiv := d.u 8 1, staticFrames := d.u 10 2 })) s

/-- R294: the partner is a hitch member other than this LZ9. -/
def splitPartnerOk (d : Slot) (s : State) : Bool :=
  let h := s.time.hitch
  decide (d.u 9 1 < 16) && h.joined && bitAt h.mask (d.u 9 1) && d.u 9 1 != h.member

/-- Checks of SCAN_SPLIT_CONFIG (R34, R36, R294): PARTNER needs light-field mode and the split-panel lock. On a part that lacks
both capabilities LIGHTFIELD is reported, the first that R34 names (DESIGN CHOICE, log 61). -/
def splitChecks : Checks where
  mode := fun d _ => if d.u 8 1 = 1 then .lightfield else .none
  fused := fun d s => if d.u 8 1 = 1 && !s.fuse.part.splitLock then some Cap.splitLock else none
  allowed := fun _ s => !s.scanning
  selector := fun d _ => inR 8 (d.u 8 1) 1 2
  params := fun d s =>
    [if d.u 8 1 = 2 then rz 9 (d.u 9 1) else need (splitPartnerOk d s) 9 Rsn.range,
     need (d.u 10 2 == 0 || (10 ≤ d.u 10 2 && d.u 10 2 ≤ 1000)) 10 Rsn.range,
     inR 12 (d.u 12 1) 0 16, rzb d 13 64]

/-- SCAN_SPLIT_CONFIG (R294). -/
def execScanSplitConfig (slot : Nat) (s : State) : Host.Outcome State Fault Refusal :=
  runCmd 0x0703 slot splitChecks (fun k d st =>
    done k (st.withScan fun x =>
      let old : Split :=
        if d.u 8 1 = 2 then { skewOwn := x.split.skewOwn, skewPartner := x.split.skewPartner, repeats := x.split.repeats }
        else { x.split with partner := some (d.u 9 1) }
      { x with split := { old with
          waitUs := if d.u 10 2 = 0 then 100 else d.u 10 2
          miss := if d.u 12 1 = 0 then 3 else d.u 12 1 } })) s

end Sys2Proof.Machine
end

