-- ==== Sys2Proof/Machine/CalBase.lean ====
section
/-! DEFINITION. The framework of the calibrations: identities, policies, sensors, the start and end of a run, triggers
and staleness (R323 to R329, R346). -/

namespace Sys2Proof.Machine

/-! ### Instances (R323) -/

/-- Change the CAL block. -/
def State.withCal (s : State) (f : Calib → Calib) : State := { s with cal := f s.cal }

/-- The instance of a register slot. -/
def State.calInst (s : State) (n : Nat) : CalInst := Tab.get {} s.cal.insts n

/-- Set the instance of a register slot. -/
def State.setCal (s : State) (n : Nat) (x : CalInst) : State := s.withCal fun c => { c with insts := Tab.put {} c.insts n x }

/-- Change the instance of a register slot. -/
def State.updCal (s : State) (n : Nat) (f : CalInst → CalInst) : State := s.setCal n (f (s.calInst n))

/-- The register slots. -/
def calSlots : List Nat := List.range 43

/-- R323: the register slot of a CAL_ID, if it is in the table. -/
def calSlot (id : Nat) : Option Nat :=
  let kind := id % 256
  let i := id / 256
  if 1 ≤ kind ∧ kind ≤ 5 ∧ i = 0 then some (kind - 1)
  else if kind = 6 ∧ i < 4 then some (5 + i)
  else if kind = 7 ∧ i < 34 then some (9 + i)
  else none

/-- R323: the CAL_ID of a register slot. -/
def calIdOf (n : Nat) : Nat := if n < 5 then n + 1 else if n < 9 then 6 + 256 * (n - 5) else 7 + 256 * (n - 9)

/-- The print kinds. -/
def printKinds : List Nat := [0, 1, 2]

/-- The slot is that of a print kind. -/
def isPrintCal (n : Nat) : Bool := decide (n < 3)

/-- The slot is that of a light-field kind. -/
def isLfCal (n : Nat) : Bool := n == 3 || n == 4

/-- R323: the mode of a slot's kind. -/
def calMode (n : Nat) : Mode := if n < 3 then .print else if n < 5 then .lightfield else .none

/-- R346: the Init policy of a slot's kind. -/
def initPolicy (n : Nat) : CalPolicy :=
  match CalKind.ofSlot n with
  | .colour =>
    { periodic := true, temperature := true, period := 1, dt := 48, sensor := 0x0500, timeoutMs := 10000, qualLimit := 300
      staleLimit := 16, gain := 128, maxStep := 1024 }
  | .health =>
    { periodic := true, period := 100, dt := 48, sensor := 0x0500, timeoutMs := 10000, qualLimit := 200, staleLimit := 300 }
  | .registration =>
    { periodic := true, temperature := true, period := 1, dt := 48, sensor := 0x0500, timeoutMs := 10000, qualLimit := 64
      staleLimit := 16, gain := 128, slewRate := 4 }
  | .lfRay => { dt := 48, sensor := 0x0500, timeoutMs := 900000, qualLimit := 100 }
  | .lfPhoto => { dt := 48, sensor := 0x0500, timeoutMs := 900000, qualLimit := 100 }
  | .ddr => { enable := true, temperature := true, dt := 48, sensor := 0x0600, timeoutMs := 50, qualLimit := 250 }
  | .serdes => { enable := true, temperature := true, dt := 48, sensor := 0x0600, timeoutMs := 100, qualLimit := 300 }

/-- R346: the policy of a slot. -/
def State.calPolicy (s : State) (n : Nat) : CalPolicy := (s.calInst n).policy.getD (initPolicy n)

/-! ### Sensors (R324, R440) -/

/-- The nodes of the open job's bars, or of the panel map. -/
def State.outputNodes (s : State) : List Nat :=
  if s.top.mode = .lightfield then s.scan.map.nodes.map (·.node)
  else if !s.prn.job.isOpen then []
  else
    let maps := ((s.frames.commits.getLast?.map (·.cfg)).getD s.frames.base).prn.maps
    (maps.filter fun e => bitAt s.prn.job.bars e.1).flatMap fun e => e.2.nodes.map (·.node)

/-- R324: the value of a SENSOR code for slot `n`, none while the sensor is failed. -/
def State.calSensor (s : State) (n code : Nat) : Option Int :=
  match code / 256 with
  | 5 => highest (s.outputNodes.filterMap fun k => s.sensorVal (0x300 + k))
  | 6 => s.sensorVal (0x100 + Config.ownSensor n % 24)
  | _ => s.sensorVal code

/-- R324: the temperature trigger of slot `n` is due. -/
def State.tempDue (s : State) (n : Nat) : Bool :=
  let p := s.calPolicy n
  match s.calSensor n p.sensor, (s.calInst n).tGood with
  | some t, some g => decide (Int.ofNat p.dt < Int.ofNat (t - g).natAbs)
  | _, _ => false

/-! ### Waiting commands (R347, R435) -/

/-- R435: channel `ch` has finished for the MEM_RETRAIN of slot `k`, which completes when every named channel has. -/
def retrainDone (k ch : Nat) (ok : Bool) (s : State) : State :=
  match s.mem.retrains.find? fun r => r.slot == k with
  | none => s
  | some r =>
    let r1 := { r with mask := r.mask &&& (15 - 2 ^ ch), failed := if ok then r.failed else r.failed ||| 2 ^ ch }
    let rest := s.mem.retrains.filter fun q => q.slot != k
    if r1.mask = 0 then
      let s1 := { s with mem := { s.mem with retrains := rest } }
      if !s.running k r.id then s1
      else if r1.failed = 0 then done k s1
      else complete k St.partialDone ((List.range 4).filter fun c => bitAt r1.failed c).length r1.failed none s1
    else { s with mem := { s.mem with retrains := rest ++ [r1] } }

/-- R326, R328, R347, R435: the CAL_RUN and MEM_RETRAIN commands that wait for slot `n`'s run complete. -/
def endWaiters (n : Nat) (ws : List (Nat × Nat)) (status detail result : Nat) (frame : Option FrameNo) (s : State) : State :=
  ws.foldl (fun st w =>
    if !st.running w.1 w.2 then st
    else if (st.slot w.1).opcode = 0x0C02 ∧ 5 ≤ n then retrainDone w.1 (n - 5) (status == St.ok) st
    else complete w.1 status detail result frame st) s

/-! ### Events (R349) -/

/-- A value of `w` bits that an event reports of a run that has none: the `i`-th of a row of free values. -/
def orFree (w i : Nat) (v : Option Nat) (s : State) : Nat := v.getD ((Config.freeWord (s.free + i)).toNat % 2 ^ w)

/-- R349: CAL_DONE of slot `n`. The fields that a run has no value for hold free values. -/
def calDone (n outcome detail : Nat) (quality : Option Nat) (frame gen : Option FrameNo) (s : State) : State :=
  let x := s.calInst n
  let lf := fun (f : FrameNo) => if isLfCal n then some f.toNat else none
  let head := le 2 (calIdOf n) ++ le 1 outcome ++ le 2 detail ++ le 2 (orFree 16 0 quality s) ++
    le 4 (orFree 32 1 (frame.map (·.toNat)) s) ++ le 1 x.trig ++ le 3 0
  raise Src.cal 0x0001 (head ++ le 4 (orFree 32 2 (gen.map (·.toNat)) s) ++ le 4 (orFree 32 3 (x.firstPattern.bind lf) s) ++
    le 4 (orFree 32 4 (lf x.lastPattern) s) ++ le 4 x.runUsed ++ le 4 x.runRejected) { s with free := s.free + 5 }

/-- R349: CAL_STALE of CAL_ID `id`. -/
def calStale (id : Nat) (up : Bool) (cause : Nat) (f : FrameNo) (s : State) : State :=
  raise Src.cal 0x0002 (le 2 id ++ le 1 (b2n up) ++ le 1 cause ++ le 4 f.toNat) s

/-- R329: slot `n`, an enabled print or light-field kind, becomes stale; one that is stale already stays so beyond the
applied frame of its last success. A failed run names the earliest OPEN frame (DESIGN CHOICE, log 68). -/
def becomeStale (n cause : Nat) (f : FrameNo) (s : State) : State :=
  let x := s.calInst n
  if 5 ≤ n ∨ !(s.calPolicy n).enable then s
  else if x.stale then s.setCal n { x with clearAt := none }
  else calStale (calIdOf n) true cause f (s.setCal n { x with stale := true, staleCause := cause })

/-- R329: slot `n` stops being stale. -/
def endStale (n cause : Nat) (f : FrameNo) (s : State) : State :=
  let x := s.calInst n
  if x.stale then calStale (calIdOf n) false cause f (s.setCal n { x with stale := false, staleCause := 0, clearAt := none })
  else s

/-! ### The start and the end of a run (R325 to R329) -/

/-- R252, R343: a light-field run is executing. -/
def noteLfRun (s : State) : State :=
  s.withCal fun c => { c with lfRun := [3, 4].any fun n => (Tab.get {} c.insts n).state != .idle }

/-- R325: a run of slot `n` enters ACQUIRING under trigger `trig`, for the commands `ws`. -/
def beginRun (n trig : Nat) (ws : List (Nat × Nat)) (s : State) : State :=
  let p := s.calPolicy n
  let x := s.calInst n
  let stream : CamStream := match x.targets with
    | some t => Tab.get {} s.cam.streams (t.head.toNat / 2 ^ 64 % 256)
    | none => {}
  noteLfRun (s.setCal n { x with
    state := .acquiring, run := p, trig := trig, waiters := ws, startRef := s.uptime, lastStart := s.uptime
    startTemp := s.calSensor n p.sensor, settingsId := stream.id, runUsed := 0, runRejected := 0, ladder := none
    shot := none, shots := [], result := {}, stage := .none, pos := 0, pattern := 0, shown := 0, wanted := []
    firstPattern := none, lastPattern := 0 })

/-- R375: the axes that a light-field run has held are free. -/
def freeAxes (n : Nat) (s : State) : State :=
  if isLfCal n then
    { s with axis := { s.axis with axes := Tab.mapv {} (fun _ a => { a with held := false }) s.axis.axes } }
  else s

/-- The run of slot `n` is over; its captures and its result are dropped. -/
def clearRun (n : Nat) (s : State) : State :=
  noteLfRun (freeAxes n (s.updCal n fun x =>
    { x with state := .idle, waiters := [], shots := [], shot := none, ladder := none, result := {}, stage := .none
             wanted := [] }))

/-- R326, R329: the run of slot `n` ends with ST_CAL_FAILED; `quality` is its figure, if it has one. -/
def failRun (n detail : Nat) (quality : Option Nat) (s : State) : State :=
  let x := s.calInst n
  let s1 := calDone n 1 detail quality none none
    (s.setCal n { x with lastStatus := St.calFailed, lastDetail := detail, quality := quality.getD x.quality })
  let s2 := endWaiters n x.waiters St.calFailed detail 0 none (clearRun n s1)
  becomeStale n 1 s2.frames.openFirst s2

/-- R340, R346: the run of slot `n` ends without a result; `op` is what ended it. -/
def abortRun (n op : Nat) (s : State) : State :=
  let x := s.calInst n
  if x.state = .idle then s
  else
    let s1 := calDone n 2 op none none none (s.setCal n { x with lastStatus := St.aborted, lastDetail := op })
    endWaiters n x.waiters St.aborted op 0 none (clearRun n s1)

/-- R340, R346: the pending run of slot `n` is dropped. -/
def dropPending (n op : Nat) (s : State) : State :=
  let x := s.calInst n
  endWaiters n x.pendWaiters St.aborted op 0 none (s.setCal n { x with pend := none, pendWaiters := [] })

/-- R327: a loop of slot `n` has measured its quality, before it corrects: a figure worse than QUAL_LIMIT raises
QUALITY_WARN and sets OUT_OF_LIMIT. -/
def measured (n quality : Nat) (s : State) : State :=
  let x := s.calInst n
  let bad := decide (x.run.qualLimit < quality)
  let s1 := s.setCal n { x with quality := quality, outOfLimit := bad }
  let f := (x.shots.head?.map (·.out)).getD 0
  if bad then raise Src.cal 0x0004 (le 2 (calIdOf n) ++ le 2 quality ++ le 4 f.toNat) s1 else s1

/-- R325: the run of slot `n` passes to state `r`. -/
def passTo (n : Nat) (r : RunState) (s : State) : State := s.updCal n fun x => { x with state := r }

/-- R328, R329, R423: the run of slot `n`, in COMMITTING, has succeeded, with DETAIL `detail`: its result holds from frame `a`
on, under generation `gen` where it was committed. -/
def succeedRun (n detail quality : Nat) (a : Option FrameNo) (gen : Option FrameNo) (s : State) : State :=
  let x := s.calInst n
  let s1 := s.setCal n { x with
    lastStatus := St.ok, lastDetail := detail, quality := quality, goodQuality := quality, tGood := x.startTemp
    count := satAdd 65535 x.count 1, staleCount := 0, clearAt := if x.stale then a else none
    gen := gen.getD x.gen, frame := if gen.isSome then a.getD x.frame else x.frame }
  let s3 := calDone n 0 detail (some quality) a gen s1
  endWaiters n x.waiters St.ok detail quality a (clearRun n s3)

/-- R325, R328: the result of a DDR or SERDES run of slot `n`, whose computation ends, is applied directly: the run passes
through COMMITTING in this step, since the application takes no time of its own (DEDUCED, log 68). -/
def applyResult (n detail quality : Nat) (s : State) : State :=
  succeedRun n detail (Nat.min 65535 quality) none none (passTo n .committing s)

/-- R327: the figure of a DDR or SERDES run is worse than QUAL_LIMIT. -/
def eyeTooNarrow (p : CalPolicy) (eye : Nat) : Bool := decide (eye < p.qualLimit)

end Sys2Proof.Machine
end

