-- ==== Sys2Proof/Machine/FireCmd.lean ====
section
/-! DEFINITION. The FIRE commands and purging (R165 to R173, R190 to R198). -/

namespace Sys2Proof.Machine

/-- R196 and the text before it: the bar named has a loaded map. A bar number out of range is left to the parameters. -/
def barMapped (d : Slot) (s : State) : Bool := decide (15 < d.u 8 1) || s.staged.hasMap (d.u 8 1)

/-! ### FIRE_MAP_LOAD (R165 to R169, R196) -/

/-- Parameters of FIRE_MAP_LOAD. -/
def mapLoadParams (d : Slot) (s : State) : List PF :=
  [inR 8 (d.u 8 1) 0 15, rzb d 9 12, bufIs s 12 (d.u 12 2) .ready, rzb d 14 16,
   firstOf [need (d.u 16 8 % 4 == 0) 16 Rsn.align, bufSpan s (d.u 12 2) (d.u 16 8) 32 16], rzb d 24 64]

/-- Bytes of the image at OFFSET: as long as its header says and the buffer holds. -/
def mapExtent (d : Slot) (s : State) : Nat :=
  Nat.min (mapLength (s.bufBytes (d.u 12 2) (d.u 16 8) 32)) ((s.buf (d.u 12 2)).size - d.u 16 8)

/-- Checks of FIRE_MAP_LOAD. -/
def mapLoadChecks : Checks where
  params := mapLoadParams
  reads := fun d s => [(d.u 12 2, d.u 16 8, mapExtent d s)]

/-- The image at OFFSET. -/
def mapImage (d : Slot) (s : State) : List Byte := s.bufBytes (d.u 12 2) (d.u 16 8) (mapExtent d s)

/-- R160, R164: the slot size of the band queue follows the map of a bar of the job that is loaded after the job has opened. -/
def resizeSlots (s : State) : State :=
  if s.prn.job.isOpen then { s with prn := { s.prn with bandqUnits := s.slotUnits s.prn.job.bars } } else s

/-- FIRE_MAP_LOAD (R168, R169, R181, R196). -/
def execFireMapLoad (slot : Nat) (s : State) : Host.Outcome State Fault Refusal :=
  runCmd 0x0400 slot mapLoadChecks (fun k d st =>
    let bar := d.u 8 1
    let img := mapImage d st
    let m := readMap img
    let c := { st.staged with maps := Tab.put {} st.staged.maps bar m }
    match mapFieldFault img with
    | some f => badImage k 16 f.2 f.1 st
    | none =>
      if img.length < mapLength img then badImage k 16 Rsn.range 5 st
      else
        match mapFault st c bar m with
        | some r => badImage k 16 Rsn.range r st
        | none =>
          if st.fuse.part.nozzleLimit < c.nozzleCount then badImage k 16 Rsn.limit c.nozzleCount st
          else if st.jobBars.contains bar && st.staged.hasMap bar && !(st.staged.map bar).sameShape m then
            wrongState k st
          else doneWith k c.nozzleCount (resizeSlots (st.stage fun _ => c))) s

/-! ### FIRE_MASK_LOAD (R170) -/

/-- Parameters of FIRE_MASK_LOAD. -/
def maskLoadParams (d : Slot) (s : State) : List PF :=
  let kind := d.u 9 1
  let data := kind == 1 || kind == 2
  [inR 8 (d.u 8 1) 0 15, fieldIf (kind == 1 || kind == 3) 10 (d.u 10 1) 0 15, rz 11 (d.u 11 1),
   if data then bufIs s 12 (d.u 12 2) .ready else rz 12 (d.u 12 2), rzb d 14 16,
   if data then
     firstOf [need (d.u 16 8 % 4 == 0) 16 Rsn.align, bufSpan s (d.u 12 2) (d.u 16 8) (if kind = 1 then 512 else 4096) 16]
   else rz 16 (d.u 16 8), rzb d 24 64]

/-- Checks of FIRE_MASK_LOAD. -/
def maskLoadChecks : Checks where
  allowed := barMapped
  selector := fun d _ => inR 9 (d.u 9 1) 1 4
  params := maskLoadParams
  reads := fun d _ => if d.u 9 1 = 1 then [(d.u 12 2, d.u 16 8, 512)] else if d.u 9 1 = 2 then [(d.u 12 2, d.u 16 8, 4096)] else []

/-- FIRE_MASK_LOAD (R159, R170). -/
def execFireMaskLoad (slot : Nat) (s : State) : Host.Outcome State Fault Refusal :=
  runCmd 0x0401 slot maskLoadChecks (fun k d st =>
    let bar := d.u 8 1
    let key := bar * 16 + d.u 10 1
    let id := st.prn.nextLoad
    let load := fun n => ({ id := id, data := (st.bufBytes (d.u 12 2) (d.u 16 8) n).map (·.toNat) } : Loaded)
    if d.u 9 1 = 1 then
      if st.tablesFree < 1 then resourceBusy k 0x0304 st
      else done k ((newLoads 1 st).stage fun c => { c with patterns := Tab.put {} c.patterns key (load 512) })
    else if d.u 9 1 = 2 then
      if st.tablesFree < 2 then resourceBusy k 0x0304 st
      else done k ((newLoads 1 st).stage fun c => { c with stitch := Tab.put {} c.stitch bar (load 4096) })
    else if d.u 9 1 = 3 then done k (st.stage fun c => { c with patterns := Tab.put {} c.patterns key {} })
    else done k (st.stage fun c => { c with stitch := Tab.put {} c.stitch bar {} })) s

/-! ### FIRE_NOZZLE_STATE (R173) -/

/-- The node entry of a node in the staged maps. -/
def PrintCfg.entryOf (c : PrintCfg) (n : Nat) : Option MapNode :=
  (c.maps.flatMap fun e => e.2.nodes).find? fun k => k.node == n

/-- R173: the fault of a record. -/
def recordFault (r : Nat) : Option Nat :=
  if bitsAt r 12 4 ≠ 0 then some Rsn.reserved else if bitsAt r 10 2 = 3 then some Rsn.range else none

/-- Parameters of FIRE_NOZZLE_STATE. A faulty record of SET, at byte 16, comes before the bytes after it; the command itself reports
it with its RESULT. -/
def nozzleParams (d : Slot) (s : State) : List PF :=
  let load := d.u 9 1 == 1
  let cnt := d.u 14 2
  let e := s.staged.entryOf (d.u 8 1)
  [need e.isSome 8 Rsn.range, rzb d 10 12,
   need (1 ≤ cnt && cnt ≤ 32768 && d.u 12 2 + cnt ≤ 2 * ((e.map (·.count)).getD 0)) 14 Rsn.range] ++
   if !load && (recordFault (d.u 16 2)).isSome then []
   else
     [if load then rz 16 (d.u 16 2) else none,
      if load then bufIs s 18 (d.u 18 2) .ready else rz 18 (d.u 18 2), rzb d 20 24,
      if load then firstOf [need (d.u 24 8 % 4 == 0) 24 Rsn.align, bufSpan s (d.u 18 2) (d.u 24 8) (2 * cnt) 24]
      else rz 24 (d.u 24 8), rzb d 32 64]

/-- Checks of FIRE_NOZZLE_STATE. -/
def nozzleChecks : Checks where
  fused := fun d s => absent true (s.fuse.part.hasNode (d.u 8 1)) (Cap.link (d.u 8 1 / 8))
  selector := fun d _ => inR 9 (d.u 9 1) 1 2
  params := nozzleParams
  reads := fun d _ => if d.u 9 1 = 1 then [(d.u 18 2, d.u 24 8, 2 * d.u 14 2)] else []

/-- FIRE_NOZZLE_STATE (R173). -/
def execFireNozzleState (slot : Nat) (s : State) : Host.Outcome State Fault Refusal :=
  runCmd 0x0402 slot nozzleChecks (fun k d st =>
    let n := d.u 8 1
    let first := d.u 12 2
    let cnt := d.u 14 2
    let load := d.u 9 1 == 1
    let recs := if load then halfwords (st.bufBytes (d.u 18 2) (d.u 24 8) (2 * cnt)) else List.replicate cnt (d.u 16 2)
    match (List.range cnt).find? fun i => (recordFault (recs.getD i 0)).isSome with
    | some i =>
      badImage k (if load then 24 else 16) ((recordFault (recs.getD i 0)).getD 0) (first + i) st
    | none =>
      done k (st.stage fun c =>
        { c with nozzles := (List.range cnt).foldl (fun t i =>
            Tab.put nozzleDefault t (n * 32768 + first + i) (recs.getD i 0)) c.nozzles })) s

/-! ### FIRE_TIMING (R182 to R185, R197) -/

/-- The timing a descriptor gives. -/
def readTiming (d : Slot) : Timing :=
  { groups := d.u 9 1, stride := d.u 10 1, kwOn := d.u 11 1 == 1, preBase := d.u 12 2, preStep := d.u 14 1
    preGap := d.u 15 1, mainLow := d.u 16 2, mainNom := d.u 18 2, mainHigh := d.u 20 2, slotGuard := d.u 22 1
    whipStep := d.u 23 1, seqGuard := d.u 24 2, colBDelay := d.u 26 2, kwIdleUs := d.u 28 2, kwRate := d.u 30 2 }

/-- Parameters of FIRE_TIMING. -/
def timingParams (d : Slot) (s : State) : List PF :=
  let t := readTiming d
  [inR 8 (d.u 8 1) 0 15, need ([8, 12, 16, 24, 32].contains t.groups) 9 Rsn.range,
   need (1 ≤ t.stride && t.stride ≤ 63 && (t.stride % 6 == 1 || t.stride % 6 == 5)) 10 Rsn.range,
   inR 11 (d.u 11 1) 0 1, inR 12 t.preBase 0 400, need (t.preStep ≤ 50 && t.preMax ≤ 400) 14 Rsn.range,
   inR 16 t.mainLow 500 1000, need (500 ≤ t.mainNom && t.mainNom ≤ 1000 && t.mainLow ≤ t.mainNom) 18 Rsn.range,
   need (500 ≤ t.mainHigh && t.mainHigh ≤ 1000 && t.mainNom ≤ t.mainHigh) 20 Rsn.range,
   need (t.whipStep ≤ 150 && (s.staged.map (d.u 8 1)).nodes.all fun n => n.supplyIndex * t.whipStep ≤ 150) 23 Rsn.range,
   inR 24 t.seqGuard 0 2000, inR 26 t.colBDelay 0 8191, inR 28 t.kwIdleUs 100 65535, inR 30 t.kwRate 0 20000,
   rzb d 32 64]

/-- Checks of FIRE_TIMING. -/
def timingChecks : Checks where
  allowed := barMapped
  params := timingParams

/-- FIRE_TIMING (R197). -/
def execFireTiming (slot : Nat) (s : State) : Host.Outcome State Fault Refusal :=
  runCmd 0x0403 slot timingChecks (fun k d st =>
    done k (st.stage fun c => { c with timing := Tab.put {} c.timing (d.u 8 1) (readTiming d) })) s

/-! ### FIRE_SPIT_CONFIG and purging (R190, R192) -/

/-- Parameters of FIRE_SPIT_CONFIG. -/
def spitParams (d : Slot) (_s : State) : List PF :=
  let win := d.u 9 1 == 1
  [inR 8 (d.u 8 1) 0 15, fieldIf win 10 (d.u 10 2) 0 1024, fieldIf win 12 (d.u 12 4) 1 1000000,
   fieldIf win 16 (d.u 16 1) 1 3, rzb d 17 20, fieldIf (!win) 20 (d.u 20 4) 1 65535,
   fieldIf (!win) 24 (d.u 24 2) 100 20000, fieldIf (!win) 26 (d.u 26 1) 1 3, rzb d 27 64]

/-- Checks of FIRE_SPIT_CONFIG: a purge needs ARMED, but a bar of an open job is busy (R192). -/
def spitChecks : Checks where
  allowed := fun d s => barMapped d s &&
    (d.u 9 1 != 2 || s.top.dev == .armed || s.jobBars.contains (d.u 8 1))
  selector := fun d _ => inR 9 (d.u 9 1) 1 2
  params := spitParams

/-- R192, R224: start a purge of bar `b`: its nodes are kept in Halter and told to purge. -/
def startPurge (b cnt rate dot : Nat) (s : State) : State :=
  let ns := ((s.staged.map b).nodes.map (·.node)).filter fun n => s.claimed (n / 8)
  let s1 := s.setFireBar b { s.fireBar b with
    purging := true, purgeCount := cnt, purgeRate := rate, purgeStart := s.uptime, purgeAborted := none }
  ns.foldl (fun st n => nodeRegWrite n 0x300 (cnt + dot * 2 ^ 16 + 2 ^ 31) (nodeRegWrite n 0x304 rate st)) (haltNodes ns s1)

/-- FIRE_SPIT_CONFIG (R190, R192). -/
def execFireSpitConfig (slot : Nat) (s : State) : Host.Outcome State Fault Refusal :=
  runCmd 0x0404 slot spitChecks (fun k d st =>
    let b := d.u 8 1
    if d.u 9 1 = 1 then
      let w : Spit := { lines := d.u 10 2, idleLines := d.u 12 4, dot := d.u 16 1 }
      done k (st.stage fun c => { c with spit := Tab.put {} c.spit b w })
    else if st.jobBars.contains b then resourceBusy k 0x0300 st
    else if (st.fireBar b).purging then resourceBusy k 0x0404 st
    else complete k St.deferred 0 0 none (startPurge b (d.u 20 4) (d.u 24 2) (d.u 26 1) st)) s

/-- R192: sequences that a purge has fired by now. -/
def FireBar.pulses (x : FireBar) (now : Nat) : Nat := Nat.min x.purgeCount ((now - x.purgeStart) * x.purgeRate / 10 ^ 9)

/-- R192: entry into Halter ends the purge of a bar. -/
def abortPurge (b : Nat) (s : State) : State :=
  let x := s.fireBar b
  if x.purging && x.purgeAborted.isNone then
    let ns := ((s.staged.map b).nodes.map (·.node)).filter fun n => s.claimed (n / 8)
    ns.foldl (fun st n => nodeRegWrite n 0x300 0 st) (s.setFireBar b { x with purgeAborted := some (x.pulses s.uptime) })
  else s

/-- PURGE_DONE (R192, R198): the purge of bar `b` is complete, or Halter has ended it. The nodes themselves clear PURGE_GO. -/
def execPurgeDone (bar : Nat) (s : State) : Host.Outcome State Fault Refusal :=
  let x := s.fireBar bar
  let ended := x.purging && (x.purgeAborted.isSome || x.pulses s.uptime == x.purgeCount)
  if !ended then .next s
  else
    .next (raise Src.fire 0x0003
      (le 1 bar ++ le 1 (b2n x.purgeAborted.isSome) ++ le 4 (x.purgeAborted.getD x.purgeCount))
      (s.setFireBar bar { x with purging := false, purgeAborted := none }))

end Sys2Proof.Machine
end

