-- ==== Sys2Proof/Machine/HeadStep.lean ====
section
/-! DEFINITION. Head-supply steps at the heads: bank switches and line periods (R445 to R447, R484). -/

namespace Sys2Proof.Machine

/-- The content a write carries is that of its frame, with the timing block `f` gives. -/
def NodeBanks.carry (x : NodeBanks) (f : BankWrite → List Byte) : NodeBanks :=
  let ws := x.writes.map fun w => if w.started then w else { w with content := { w.content with timing := f w } }
  let meant := fun (i : Nat) (old : BankContent) =>
    ((ws.reverse.find? fun w => w.bank == i && !w.started).map (·.content)).getD old
  { x with writes := ws, bank0 := meant 0 x.bank0, bank1 := meant 1 x.bank1 }

/-- R446: the bank not in use takes the content in use with another timing block. -/
def NodeBanks.headSwitch (x : NodeBanks) (no : Nat) (f : FrameNo) (timing : List Byte) : NodeBanks :=
  let o := 1 - x.cur
  let k := { (if x.cur = 0 then x.bank0 else x.bank1) with timing := timing }
  { x with
    cur := o
    writes := x.writes ++ [{ bank := o, head := no, content := k, after := if o = 0 then x.used0 else x.used1
                             span := fireSpan (if o = 0 then x.bank0 else x.bank1).timing }]
    bank0 := if o = 0 then k else x.bank0, bank1 := if o = 1 then k else x.bank1
    used0 := if o = 0 then some f else x.used0, used1 := if o = 1 then some f else x.used1 }

/-- R446: one node of bar `b`: a write that has not started carries the new timing block, else the banks switch. -/
def stepNode (b no : Nat) (f : FrameNo) (c : PrintCfg) (s : State) (n : MapNode) : State :=
  let x := s.banks n.node
  let block := fun (g : PrintCfg) => timingBlock g b (s.headStep b) (((g.map b).nodes.find? fun m => m.node == n.node).getD n)
  if x.writes.any fun w => !w.started then
    s.setBanks n.node (x.carry fun w => block (match w.frame with
      | some g => (s.cfgOf g).prn
      | none => c))
  else if (x.used0.isNone && x.used1.isNone) || (if x.cur = 0 then x.bank0 else x.bank1).timing = block c then s
  else
    let y := (x.headSwitch no f (block c)).writesOff s.shadow
    let z := s.fireBar b
    let banks := ((z.switches.find? fun h => h.no == no).map (·.banks)).getD []
    (s.setBanks n.node y).setFireBar b { z with
      switches := (z.switches.filter fun h => h.no != no) ++ [{ no := no, frame := f, banks := banks ++ [(n.node, y.cur)] }] }

/-- R446: the step that bar `b` has just taken, `old` before it, reaches its nodes and its line period: a longer period at
once, a shorter one after the last line fired with the old bank. -/
def reachHeads (b old : Nat) (s : State) : State :=
  match s.termCfg with
  | none => s
  | some c =>
    if s.frames.openFirst = s.prn.job.firstFrame || !s.jobBars.contains b then refreshPeriods s
    else
      let f := s.frames.openFirst - 1
      let no := (s.fireBar b).headNo + 1
      let s1 := (c.map b).nodes.foldl (stepNode b no f c) (s.setFireBar b { s.fireBar b with headNo := no })
      let was := c.barTerm b old
      let z := s1.fireBar b
      let carried := (c.map b).nodes.flatMap fun n =>
        (s1.banks n.node).writes.filterMap fun w => if w.started then none else w.frame
      let z1 := if c.barTerm b (s1.headStep b) < was then
          { z with
            oldTerms := z.oldTerms ++ carried.eraseDups.map fun g => s1.heldTerm b (g - 1) was
            downHold := if z.switches.isEmpty then z.downHold
              else some (Nat.max was ((z.downHold.map (·.1)).getD 0), none) }
        else z
      refreshPeriods (s1.setFireBar b z1)

/-- R446: the last line of bar `b` that waits in a feeder. -/
def State.lastFed (s : State) (b : Nat) : Int :=
  let ls := allLinks.flatMap fun l => ((s.feeder l).fifo.filter fun e => e.bar == b).map (·.line)
  ls.foldl max ((s.webBar b).nl - 1)

/-- R446: the frame still has bands to fetch at bar `b`, and its lines from there on use the new banks. -/
def State.movesBank (s : State) (b : Nat) (h : HeadSwitch) (f : FrameNo) : Bool :=
  !FrameNo.later f h.frame && (s.phase f == .cut || s.phase f == .delivering) &&
    !FrameNo.later (BitVec.ofNat 32 (Tab.get (0, 0) s.frames.fetch b).1) f

/-- R176, R446: the latest frame that still uses bank `k` of node `n`. -/
def State.bankUser (s : State) (n k : Nat) : Option FrameNo :=
  (s.liveFrames.filter fun f => s.phase f != .complete && (s.frame f).banks.contains (n, k)).getLast?

/-- R446: the old bank of node `n` after a switch. -/
def releaseOld (s : State) (e : Nat × Nat) : State :=
  let x := s.banks e.1
  let k := 1 - e.2
  let u := s.bankUser e.1 k
  s.setBanks e.1 { x with
    used0 := if k = 0 then u else x.used0, used1 := if k = 1 then u else x.used1
    writes := x.writes.map fun w => if w.bank = k && !w.started then { w with after := u } else w }

/-- R446: every node of bar `b` has acknowledged switch `h`: lines fetched from now on use the new banks. -/
def finishSwitch (b : Nat) (h : HeadSwitch) (s : State) : State :=
  let fs := s.liveFrames.filter (s.movesBank b h)
  let s1 := fs.foldl (fun st f => st.updFrame f fun r =>
    { r with banks := r.banks.map fun e => (h.banks.find? fun g => g.1 == e.1).getD e }) s
  let s2 := h.banks.foldl releaseOld s1
  let x := s2.fireBar b
  let left := x.switches.filter fun g => g.no != h.no
  let s3 := s2.setFireBar b { x with
    switches := left
    downHold := if left.isEmpty then x.downHold.map fun d => (d.1, some (s.lastFed b)) else x.downHold }
  endDown b ((s3.webBar b).nl - 1) s3

/-- R446: node `n` of bar `b` has acknowledged a write of switch `no`. -/
def switchAcked (b no : Nat) (s : State) : State :=
  match (s.fireBar b).switches.find? fun h => h.no == no with
  | none => s
  | some h =>
    if h.banks.any fun e => (s.banks e.1).writes.any fun w => w.head == no then s else finishSwitch b h s

end Sys2Proof.Machine
end

