-- ==== Sys2Proof/Machine/Rein.lean ====
section
/-! DEFINITION. The REIN block of the LZ9: link states, enumeration, control requests and status frames (R211 to R236). -/

namespace Sys2Proof.Machine

/-! ### Links (R227, R235) -/

/-- Causes of LINK_STATE (R235). -/
inductive LinkCause where
  | command | lockLost | adaptTimeout | claimLost | enumError
  deriving DecidableEq, Repr

/-- Code of a cause of LINK_STATE. -/
def LinkCause.code : LinkCause → Nat
  | .command => 0 | .lockLost => 1 | .adaptTimeout => 2 | .claimLost => 3 | .enumError => 4

/-- R227, R235: a link changes state; LINK_STATE reports it. -/
def setLinkState (l : Nat) (new : LinkState) (c : LinkCause) (s : State) : State :=
  let x := s.link l
  if x.state = new then s
  else
    raise Src.rein 0x0001
      (le 1 l ++ le 1 x.state.code ++ le 1 new.code ++ le 1 c.code ++ le 1 x.enumErr)
      (s.setLink l { x with
        state := new, claim := if new = .claimed then x.claim else 0
        leftAt := if x.state = .claimed then s.uptime else x.leftAt })

/-- The links a mask names. -/
def maskLinks (m : Nat) : List Nat := allLinks.filter fun l => bitAt m l

/-- R231, R232, R478: the holder of a link that refuses to have it taken down or enumerated. -/
def State.linkHolder (s : State) (l : Nat) : Option Nat :=
  if s.jobBars.any fun b => (s.staged.map b).links.contains l || (s.frames.latest.prn.map b).links.contains l then
    some 0x0300
  else if s.scan.phase != .stopped && s.scan.map.nodes.any fun n => n.node / 8 == l then some 0x0701
  else if s.tan.state != .off && bitAt s.tan.linkMask l then some 0x0E00
  else none

/-- The first link of a mask that a holder keeps, with the holder's opcode. -/
def State.linksHeld (s : State) (m : Nat) : Option Nat := firstCap ((maskLinks m).map s.linkHolder)

/-- The states in which the REIN link commands run (R231). -/
def reinAllowed (s : State) : Bool := s.top.dev == .armed || s.top.dev == .run || s.top.dev == .halter

/-- R33: the first absent link of a mask. -/
def absentLink (m : Nat) (s : State) : Option Nat :=
  firstCap ((maskLinks m).map fun l => absent true (s.fuse.part.hasLink l) (Cap.link l))

/-- Checks of REIN_LINK_STATE (R231). -/
def linkStateChecks : Checks where
  fused := fun d s => absentLink (d.u 8 4) s
  allowed := fun _ s => reinAllowed s
  selector := fun d _ => inR 12 (d.u 12 1) 1 3
  params := fun d _ =>
    [need (d.u 8 4 != 0) 8 Rsn.range, fieldIf (d.u 12 1 == 1) 13 (d.u 13 1) 0 1, rzb d 14 64]

/-- R231: the completion of a link command: links that failed, as a mask. -/
def linkDone (k failed : Nat) (s : State) : State :=
  if failed = 0 then done k s else complete k St.partialDone (maskLinks failed).length failed none s

/-- R344: the SERDES run of link `l` adapts its receiver; one that is executing goes on. -/
def serdesBegin (l : Nat) (s : State) : State :=
  let x := s.calInst (9 + l)
  if x.state = .idle then beginRun (9 + l) 1 x.pendWaiters (s.setCal (9 + l) { x with pend := none, pendWaiters := [] }) else s

/-- R344: the SERDES run of link `l` ends: with its eye, with TIMEOUT, or because the link was taken down. -/
def serdesEnd (l : Nat) (eye : Option Nat) (s : State) : State :=
  if (s.calInst (9 + l)).state = .idle then s
  else
    match eye with
    | some e => applyResult (9 + l) 0 e (passTo (9 + l) .computing s)
    | none => failRun (9 + l) 1 none s

/-- R227, R231: UP of one link. -/
def linkUp (endB : Bool) (s : State) (l : Nat) : State :=
  let x := s.link l
  if x.state = .down ∨ x.state = .failed then
    serdesBegin l (setLinkState l .adapting .command
      (s.setLink l { x with endB := endB, adaptStart := s.uptime, relock := false, enumErr := 0 }))
  else s

/-- R231: a link that UP commands wait for has come up, or failed. -/
def settleUps (l : Nat) (ok : Bool) (s : State) : State :=
  let ups := s.rein.ups.map fun u =>
    if bitAt u.pendingMask l then
      { u with pendingMask := u.pendingMask - 2 ^ l, failed := if ok then u.failed else Nat.lor u.failed (2 ^ l) }
    else u
  let beyond := ups.filter (·.pendingMask == 0)
  let s1 := { s with rein := { s.rein with ups := ups.filter (·.pendingMask != 0) } }
  beyond.foldl (fun st u => if st.running u.slot u.id then linkDone u.slot u.failed st else st) s1

/-- R227, R231: DOWN of one link: an UP of another ring that waits for it has failed there. -/
def linkDown (s : State) (l : Nat) : State := settleUps l false (setLinkState l .down .command (abortRun (9 + l) 0x0503 s))

/-- R227, R231: RELEASE of one link. -/
def linkRelease (s : State) (l : Nat) : State :=
  let x := s.link l
  let s1 := if x.state = .claimed then sendFrame l (releaseFrame x.claim) s else s
  if x.state = .claimed ∨ x.state = .locked then setLinkState l .observing .command s1 else s

/-- A mask from the links of a list. -/
def linkMask (ls : List Nat) : Nat := ls.foldl (fun a l => Nat.lor a (2 ^ l)) 0

/-- REIN_LINK_STATE (R227, R231). -/
def reinLinkState (k : Nat) (d : Slot) (s : State) : State :=
  let m := d.u 8 4
  let act := d.u 12 1
  match (if act = 1 then none else s.linksHeld m) with
  | some op => resourceBusy k op s
  | none =>
    let ls := maskLinks m
    if act = 1 then
      let s1 := ls.foldl (linkUp (d.u 13 1 == 1)) s
      let pend := ls.filter fun l => (s1.link l).state == .adapting
      if pend.isEmpty then done k s1
      else { s1 with rein := { s1.rein with
        ups := s1.rein.ups ++ [{ slot := k, id := d.id, mask := m, pendingMask := linkMask pend }] } }
    else if act = 2 then done k (ls.foldl linkDown s)
    else
      let s1 := ls.foldl linkRelease s
      linkDone k (linkMask (ls.filter fun l => (s1.link l).state != .observing)) s1

/-- REIN_LINK_STATE (R231). -/
def execReinLinkState (slot : Nat) (s : State) : Host.Outcome State Fault Refusal :=
  runCmd 0x0503 slot linkStateChecks reinLinkState s

/-- R227: adaptation and block lock are there; `eye` in UI/1000. -/
def linkLocked (l eye : Nat) (s : State) : State :=
  let x := s.link l
  settleUps l true <| serdesEnd l (some eye)
    (setLinkState l .locked (if x.relock then .lockLost else .command) (s.setLink l { x with eye := eye, relock := false }))

/-- ADAPTATION_TIMEOUT (R227): 100 ms without adaptation and lock. -/
def execAdaptationTimeout (link : Nat) (s : State) : Host.Outcome State Fault Refusal :=
  let x := s.link link
  if x.state = .adapting ∧ x.adaptStart + 10 ^ 8 ≤ s.uptime then
    .next (settleUps link false (serdesEnd link none (setLinkState link .failed .adaptTimeout s)))
  else .next s

/-- ADAPTATION_DONE (R227, R344): a link that adapts has block lock and an eye of `eye`; a narrower eye than the
adaptation minimum, or one that comes after 100 ms, leaves it adapting. -/
def execAdaptationDone (link eye : Nat) (s : State) : Host.Outcome State Fault Refusal :=
  let x := s.link link
  if x.state = .adapting ∧ s.uptime ≤ x.adaptStart + 10 ^ 8 ∧ !eyeTooNarrow (s.calPolicy (9 + link)) eye then
    .next (linkLocked link eye s)
  else .next s

/-- R131: the frames being delivered are marked HALTED. -/
def markHalted (s : State) : State :=
  s.withFrames fun x =>
    { x with recs := Tab.mapv {} (fun _ r => if r.phase = .delivering then r.mark .halted else r) x.recs }

/-- R61: part of the outputs enters Halter: the frames being delivered are marked, and vector 0 is raised. -/
def partialHalter (s : State) : State := raiseMsix 0 (markHalted s)

/-- BLOCK_LOCK_LOST (R61, R227): relock starts; the nodes of an output in RUN that the link carries are in Halter (R131). -/
def execBlockLockLost (link : Nat) (s : State) : Host.Outcome State Fault Refusal :=
  let x := s.link link
  if x.state = .locked ∨ x.state = .observing ∨ x.state = .claimed then
    let s1 := serdesBegin link (setLinkState link .adapting .lockLost (s.setLink link { x with relock := true, adaptStart := s.uptime }))
    .next (if x.state = .claimed ∧ s.top.dev = .run ∧ (s.linkHolder link).isSome then partialHalter s1 else s1)
  else .next s

/-! ### Enumeration (R228, R232, R233) -/

/-- Checks of REIN_ENUMERATE. -/
def enumerateChecks : Checks where
  fused := fun d s => absentLink (d.u 8 4) s
  allowed := fun _ s => reinAllowed s
  selector := fun d _ => inR 12 (d.u 12 1) 1 2
  params := fun d _ =>
    let claim := d.u 12 1 == 2
    [need (d.u 8 4 != 0) 8 Rsn.range, fieldIf claim 13 (d.u 13 1) 1 15,
     if claim then need (d.u 14 2 == 0 || (2 ≤ d.u 14 2 && d.u 14 2 ≤ 1000)) 14 Rsn.range else rz 14 (d.u 14 2),
     if claim then need (d.u 16 2 == 0 || (100 ≤ d.u 16 2 && d.u 16 2 ≤ 1000)) 16 Rsn.range else rz 16 (d.u 16 2),
     rzb d 18 64]

/-- R232: the link can be enumerated. -/
def Link.enumerable (x : Link) : Bool := x.state == .locked || x.state == .observing || x.state == .claimed

/-- REIN_ENUMERATE (R228, R232): ENUM COUNT goes out on every named link. -/
def execReinEnumerate (slot : Nat) (s : State) : Host.Outcome State Fault Refusal :=
  runCmd 0x0500 slot enumerateChecks (fun k d st =>
    let m := d.u 8 4
    match st.linksHeld m with
    | some op => resourceBusy k op st
    | none =>
      let ls := maskLinks m
      let good := ls.filter fun l => (st.link l).enumerable
      let run : EnumRun :=
        { slot := k, id := d.id, mask := m, failed := linkMask (ls.filter fun l => !(st.link l).enumerable)
          claim := d.u 12 1 == 2, cls := d.u 13 1, linkLossUs := if d.u 14 2 = 0 then 20 else d.u 14 2
          statusUs := if d.u 16 2 = 0 then 1000 else d.u 16 2, start := st.uptime }
      let s1 := good.foldl (fun x l => sendFrame l (enumFrame (x.link l).claim false l (x.link l).endB 0) x) st
      { s1 with rein := { s1.rein with enums := s1.rein.enums ++ [run] } }) s

/-- R209: an ENUM_RESP as read. -/
structure EnumResp where
  hop : Nat
  position : Nat
  held : Nat
  regs : List Byte
  deriving DecidableEq, Repr

/-- R209: the ENUM_RESP frames that arrived on link `l`. -/
def respsOf (l : Nat) (rx : List (Nat × List Byte)) : List EnumResp :=
  rx.filterMap fun e =>
    if e.1 = l then
      match parseFrame e.2 with
      | some f =>
        if f.ftype = FType.enumResp ∧ f.len = 4 then
          some { hop := byteAt f.data 0, position := numAt f.data 2 2, held := numAt f.data 4 2, regs := f.data.drop 8 }
        else none
      | none => none
    else none

/-- The NODE_TYPE of a reply. -/
def EnumResp.kind (r : EnumResp) : Nat := byteAt r.regs 4

/-- R228 item 1: the ENUM_ERR of a link, 0 for none. -/
def enumFault (m : Mode) (rs : List EnumResp) : Nat :=
  let n := rs.length
  let want := if m = .print then 1 else 2
  if 8 < n then 1
  else if !((List.range n).all fun h => (rs.filter fun r => r.hop == h).length == 1) then 2
  else if !(rs.all fun r => r.kind == want) then 4
  else 0

/-- R228 item 2: the claim that a CLAIM takes, from every HELD_CLAIM found; none where a higher class is held. -/
def claimEpoch (cls : Nat) (held : List Nat) : Option Nat :=
  if held.any fun h => decide (cls < h / 4096) then none
  else
    let e := (held.filter fun h => h / 4096 == cls).map (· % 4096)
    match e with
    | [] => some 1
    | a :: t => some (t.foldl Nat.max a + 1)

/-- R228: the chain position of a hop. -/
def hopPosition (endB : Bool) (n hop : Nat) : Nat := if endB then n - 1 - hop else hop

/-- R228 item 4: C_h from a round trip in ps. -/
def cableDelay (hop rtt : Nat) : Nat := (rtt - (2 * hop + 1) * 12800 - Config.reinLatency) / 2

/-- What enumeration tells the LZ9 of a node (R237). -/
def foundNode (r : EnumResp) (held cable : Nat) (now time : Nat) (v : NodeView) : NodeView :=
  let cap := numAt r.regs 12 4
  { v with
    kind := r.kind, present := true, silent := false, held := held, vendorModel := numAt r.regs 0 4
    emitters := numAt r.regs 8 3, holdCap := bitAt cap 0, tempSensors := bitsAt cap 1 2 + 1, maxRow := bitsAt cap 8 8
    serial := numAt r.regs 16 8, cable := cable, lastStatus := now, statusTime := time, toHalter := true
    lastHalter := now }

/-- R228 item 4, R229: write the measured delay to the node. -/
def writeCable (endB : Bool) (n c : Nat) (s : State) : State := nodeRegWrite n (if endB then 0x10C else 0x108) (c % 2 ^ 20) s

/-- R237: the nodes of link `l` that satisfy `gone` are not found by the latest enumeration. Requests to them go unanswered. -/
def notFound (l : Nat) (gone : Nat → Bool) (s : State) : State :=
  { s with rein := { s.rein with
    nodes := Tab.mapv {} (fun k v => if k / 8 = l ∧ gone k then { v with present := false, kind := 0 } else v) s.rein.nodes } }

/-- R228 items 2 to 5, R235: one link that passed item 1. `claim` is the claim to take, none to OBSERVE; `rtts` are the
echo round trips measured, by hop. The nodes of a link that is claimed are to be in Halter (R218). -/
def enumerateLink (run : EnumRun) (claim : Option Nat) (rs : List EnumResp) (rtts : List (Nat × Nat)) (l : Nat)
    (s : State) : State :=
  let x := s.link l
  let n := rs.length
  let s1 := match claim with
    | some c => sendFrame l (enumFrame c true l x.endB n) s
    | none => s
  let s2 := (List.range n).foldl (fun st h => sendBlock l (echoBlock h h) st) s1
  if !((List.range n).all fun h => rtts.any fun e => e.1 == h) then
    let s3 := s2.setLink l { s2.link l with enumErr := 5, nodes := n }
    if x.state = .claimed then s3 else setLinkState l .failed .enumError s3
  else
    let s3 := notFound l (fun _ => true) s2
    let s4 := s3.setLink l { s3.link l with enumErr := 0, nodes := n, claim := claim.getD 0 }
    let s5 := rs.foldl (fun st r =>
      let p := hopPosition x.endB n r.hop
      let id := 8 * l + p
      let c := cableDelay r.hop (((rtts.find? fun e => e.1 == r.hop).map (·.2)).getD 0)
      let st1 := st.setNode id (foundNode r (claim.getD r.held) c st.uptime st.time.now (st.node id))
      let st2 := if claim.isSome then st1.setBanks id {} else st1
      let st3 := writeCable x.endB id c st2
      if claim.isSome then nodeRegWrite id 0x110 (run.linkLossUs + run.statusUs * 2 ^ 16) st3
      else if r.position % 8 = p then st3
      else raise Src.rein 0x0005 (le 1 l ++ le 1 r.hop ++ le 1 p ++ le 1 (r.position % 8)) st3) s4
    let s6 := setLinkState l (if claim.isSome then .claimed else .observing) .command s5
    if claim.isSome then haltNodes (s6.linkNodes l) s6 else s6

/-- R228, R232, R233: the collection window of an enumeration ends. A link that has left the states of R232 meanwhile has failed. -/
def finishEnum (run : EnumRun) (rx : List (Nat × List Byte)) (rtts : List (Nat × Nat × Nat)) (s0 : State) : State :=
  let s := { s0 with rein := { s0.rein with enums := s0.rein.enums.filter fun r => r.slot != run.slot } }
  let ls := (maskLinks run.mask).filter fun l => !bitAt run.failed l && (s.link l).enumerable
  let held := ls.flatMap fun l => (respsOf l rx).map (·.held)
  match (if run.claim then (claimEpoch run.cls held).map some else some none) with
  | none => complete run.slot St.resourceBusy 0x0500 0 none s
  | some e =>
    if e.any fun v => decide (4095 < v) then badParam run.slot 13 Rsn.limit s
    else
      let claim := e.map fun v => run.cls * 4096 + v
      let s1 := ls.foldl (fun st l =>
        let rs := respsOf l rx
        let err := enumFault st.top.mode rs
        if err ≠ 0 then
          let st1 := notFound l (fun k => !rs.any fun r => hopPosition (st.link l).endB rs.length r.hop == k % 8)
            (st.setLink l { st.link l with enumErr := err, nodes := Nat.min 8 rs.length })
          if (st.link l).state = .claimed then st1 else setLinkState l .failed .enumError st1
        else
          enumerateLink run claim rs ((rtts.filter fun r => r.1 == l).map fun r => (r.2.1, r.2.2)) l st) s
      let good := ls.filter fun l => (s1.link l).enumErr == 0 && (s1.link l).state != .failed
      let found := good.foldl (fun a l => a + (s1.link l).nodes) 0
      if good.length = (maskLinks run.mask).length then complete run.slot St.ok found run.mask none s1
      else complete run.slot St.partialDone ((maskLinks run.mask).length - good.length) (linkMask good) none s1

/-- ENUM_COLLECT_EXPIRY (R228): the 100 µs window of the REIN_ENUMERATE in slot `slot` ends. `rx` are the frames that
arrived, by link, and `rtts` the echo round trips, by link and hop, in ps. -/
def execEnumCollectExpiry (slot : Nat) (rx : List (Nat × List Byte)) (rtts : List (Nat × Nat × Nat)) (s : State) :
    Host.Outcome State Fault Refusal :=
  match s.rein.enums.find? fun r => r.slot == slot && decide (r.start + 10 ^ 5 ≤ s.uptime) with
  | some r => .next (finishEnum r rx rtts s)
  | none => .next s

/-! ### REIN_NODE_READ and REIN_NODE_WRITE (R234) -/

/-- R234: the LZ9 alone writes this word. -/
def ownWord (a : Nat) : Bool :=
  (decide (a < 0x100000) && !(([0x110, 0x300, 0x304, 0x400] : List Nat).contains a)) || (decide (0x100000 ≤ a) && decide (a < 0x200000))

/-- Parameters of REIN_NODE_READ and REIN_NODE_WRITE. -/
def nodeXferParams (write : Bool) (d : Slot) (s : State) : List PF :=
  let w := d.u 10 2
  let a := d.u 12 4
  let many := decide (1 < w)
  [need (s.node (d.u 8 1)).present 8 Rsn.range, rz 9 (d.u 9 1), inR 10 w 1 4096,
   firstOf [need (a < 2 ^ 24) 12 Rsn.reserved, need (a % 4 == 0) 12 Rsn.align,
     need (a + 4 * w ≤ 2 ^ 24 && !(write && (List.range w).any fun i => ownWord (a + 4 * i))) 12 Rsn.range],
   if many then bufIs s 16 (d.u 16 2) (if write then .ready else .filling) else rz 16 (d.u 16 2), rzb d 18 24,
   if many then firstOf [need (d.u 24 8 % 4 == 0) 24 Rsn.align, bufSpan s (d.u 16 2) (d.u 24 8) (4 * w) 24]
   else rz 24 (d.u 24 8),
   if write && !many then none else rz 32 (d.u 32 4), rzb d 36 64]

/-- Checks of REIN_NODE_READ and REIN_NODE_WRITE. -/
def nodeXferChecks (write : Bool) : Checks where
  fused := fun d s => absentLink (2 ^ (d.u 8 1 / 8)) s
  allowed := fun d s => s.claimed (d.u 8 1 / 8)
  params := nodeXferParams write
  reads := fun d _ => if write && decide (1 < d.u 10 2) then [(d.u 16 2, d.u 24 8, 4 * d.u 10 2)] else []

/-- The transfer of slot `k`. -/
def State.transfer (s : State) (k : Nat) : Transfer := Tab.get {} s.rein.transfers k

/-- Set the transfer of slot `k`. -/
def State.setTransfer (s : State) (k : Nat) (t : Transfer) : State :=
  { s with rein := { s.rein with transfers := Tab.put {} s.rein.transfers k t } }

/-- R234: ask for the next part of a transfer, at most 256 words. -/
def nextPart (k : Nat) (s : State) : State :=
  let t := s.transfer k
  let n := Nat.min 256 (t.words - t.doneWords)
  let data := if !t.write then [] else if t.words = 1 then le 4 t.value
    else s.bufBytes t.handle (t.offset + 4 * t.doneWords) (4 * n)
  ctrlRequest t.node t.write (t.addr + 4 * t.doneWords) n data (k + 2) s

/-- R234: a node transfer starts. -/
def startTransfer (write : Bool) (k : Nat) (d : Slot) (s : State) : State :=
  nextPart k (s.setTransfer k
    { id := d.id, node := d.u 8 1, write := write, addr := d.u 12 4, words := d.u 10 2, handle := d.u 16 2
      offset := d.u 24 8, value := d.u 32 4 })

/-- REIN_NODE_READ (R234). -/
def execReinNodeRead (slot : Nat) (s : State) : Host.Outcome State Fault Refusal :=
  runCmd 0x0501 slot (nodeXferChecks false) (startTransfer false) s

/-- REIN_NODE_WRITE (R234). -/
def execReinNodeWrite (slot : Nat) (s : State) : Host.Outcome State Fault Refusal :=
  runCmd 0x0502 slot (nodeXferChecks true) (startTransfer true) s

/-- R234: the transfer of slot `k` gets the response `rstatus` with data. -/
def transferResp (k rstatus words : Nat) (data : List Byte) (s : State) : State :=
  let t := s.transfer k
  if !s.running k t.id then s.setTransfer k {}
  else if rstatus = 1 ∨ rstatus = 2 then
    if t.doneWords = 0 then badParam k 12 Rsn.range (s.setTransfer k {})
    else complete k St.partialDone rstatus t.doneWords none (s.setTransfer k {})
  else
    let dn := t.doneWords + words
    let s1 := if t.write || t.words == 1 then s
      else dramStore ((s.buf t.handle).base + t.offset + 4 * t.doneWords) (data.take (4 * words)) s
    if dn < t.words then nextPart k (s1.setTransfer k { t with doneWords := dn })
    else
      doneWith k (if t.write then 0 else if t.words = 1 then numAt data 0 4 else 0) (s1.setTransfer k {})

/-- R176: a request of a bank write has been acknowledged; when all are, the write is over and SEL_LATE reports the bands
replaced meanwhile. -/
def bankAck (n tag : Nat) (s : State) : State :=
  let x := s.banks n
  match x.writes with
  | [] => s
  | w :: ws =>
    if !w.started then s
    else
      let left := w.left.filter (· != tag)
      if !left.isEmpty then s.setBanks n { x with writes := { w with left := left } :: ws }
      else
        let s0 := s.setBanks n { x with writes := ws }
        let s1 := match s.frames.latest.prn.barOf n with
          | none => s0
          | some b => if w.head = 0 then s0 else switchAcked b w.head s0
        match s.frames.latest.prn.barOf n with
        | none => s1
        | some b =>
          match (s1.fireBar b).selFrame with
          | none => s1
          | some f => if s1.barBanksReady (s1.cfgOf f).prn f b then selLate b s1 else s1

/-- R234: a request of slot `k` ended without a response, or with BUSY every time. -/
def transferFailed (k n : Nat) (s : State) : State :=
  let t := s.transfer k
  let s1 := s.setTransfer k {}
  if s.running k t.id then complete k St.timeout n 0 none s1 else s1

/-- R209, R223: a CTRL_RESP frame that matches an outstanding request of node `n`. A BUSY response leaves the request
outstanding, so that it is sent again. -/
def ctrlResponse (n : Nat) (f : RxFrame) (s : State) : State :=
  let v := s.node n
  let st := byteAt f.data 0
  let tag := byteAt f.data 1
  match v.reqs.find? fun r => r.onWire && r.tag == tag with
  | none => s
  | some r =>
    if st = 3 then s
    else
      let s1 := pumpReqs n (s.setNode n { v with reqs := v.reqs.filter fun q => q.tag != tag })
      if r.owner = ownBank then bankAck n tag s1
      else if r.owner = ownSelf then
        if st = 0 ∧ r.addr = 0x400 then s1.setNode n { s1.node n with panelAck := numAt r.data 0 4 } else s1
      else transferResp (r.owner - 2) st r.words (f.data.drop 8) s1

/-- R206: a control block that passes its check. -/
def goodBlock (bytes : List Byte) : Bool := [0x4B, 0x2D, 0x33, 0x55, 0x66].any fun ty => blockOk ty bytes

/-- R206, R208: what came in is no good frame. It is counted: as a block that failed R206 where it does not begin with a
START block, else as a frame that failed R208. -/
def badFrame (l : Nat) (bytes : List Byte) (s : State) : State :=
  let x := s.link l
  if byteAt bytes 0 = 0x78 then s.setLink l { x with errFrames := satAdd 65535 x.errFrames 1 }
  else if goodBlock bytes || byteAt bytes 0 == 0x1E then s
  else s.setLink l { x with errBlocks := satAdd 65535 x.errBlocks 1 }

/-- CTRL_RESP_RX (R208, R223): the bytes of a frame received on a link; a part without the link receives none (R28). -/
def execCtrlRespRx (link : Nat) (bytes : List Byte) (s : State) : Host.Outcome State Fault Refusal :=
  if !s.fuse.part.hasLink link then .next s
  else
  match parseFrame bytes with
  | none => .next (badFrame link bytes s)
  | some f => .next (if f.ftype = FType.ctrlResp ∧ f.node / 8 = link then ctrlResponse f.node f s else s)

/-- R176: a bank write that a node never acknowledged starts afresh. -/
def bankRetry (n : Nat) (s : State) : State :=
  let x := s.banks n
  match x.writes with
  | [] => s
  | w :: ws => s.setBanks n { x with writes := { w with started := false, left := [] } :: ws }

/-- CTRL_RETRY_TIMEOUT (R205, R223): 20 µs without a valid response to the request with TAG `tag` of a node. It is sent again only
while the link may carry it. -/
def execCtrlRetryTimeout (node tag : Nat) (s : State) : Host.Outcome State Fault Refusal :=
  let v := s.node node
  let l := node / 8
  match v.reqs.find? fun r => r.onWire && r.tag == tag && decide (r.sent + 20000 ≤ s.uptime) with
  | none => .next s
  | some r =>
    let x := s.link l
    if r.tries < 4 ∧ s.mayRequest l r then
      let r1 := { r with tries := r.tries + 1, sent := s.uptime }
      let s1 := s.setNode node { v with reqs := v.reqs.map fun q => if q.tag = tag then r1 else q }
      .next (sendFrame l (r.frame node x.claim) (s1.setLink l { x with ctrlRetry := satAdd 65535 x.ctrlRetry 1 }))
    else
      let s1 := s.setLink l { x with ctrlNoResp := satAdd 65535 x.ctrlNoResp 1 }
      let s2 := pumpReqs node (s1.setNode node { v with reqs := v.reqs.filter fun q => q.tag != tag })
      .next (if r.owner = ownBank then bankRetry node s2
        else if r.owner = ownSelf then s2
        else transferFailed (r.owner - 2) node s2)

/-! ### Status frames (R213, R221, R235, R236) -/

/-- R221: the frame of a tick, by its number counted from 1 since the node's RUN. -/
def NodeView.frameOfTick (v : NodeView) (k : Nat) : Option FrameNo :=
  ((v.tickLog.reverse.find? fun e => decide (e.1 < k)).map (·.2)).getD none

/-- R221: the number of a tick from its low 16 bits: the latest one sent. -/
def NodeView.tickOf (v : NodeView) (low : Nat) : Nat :=
  let d := (v.ticksSent % 65536 + 65536 - low % 65536) % 65536
  v.ticksSent - d

/-- R220, R221: the number of ticks that a wrapping 32-bit TICKS_SEEN stands for, next to those sent. -/
def NodeView.seenOf (v : NodeView) (body : Nat) : Nat :=
  let d := (v.ticksSent + 2 ^ 32 - body) % 2 ^ 32
  if d < 2 ^ 31 then v.ticksSent - d else v.ticksSent + (2 ^ 32 - d)

/-- R221: a blank of node `n` at tick `k` is counted in its frame. -/
def countBlank (n k : Nat) (s : State) : State :=
  let v := s.node n
  let s1 := s.setNode n { v with blank := satAdd (2 ^ 32 - 1) v.blank 1 }
  match v.frameOfTick k with
  | none => s1
  | some f =>
    if s.phase f = .opened ∨ (s.phase f = .complete ∧ (s.frame f).phase ≠ .complete) then s1
    else s1.updFrame f fun r => { r.mark .lineBlanked with linesBlanked := r.linesBlanked + 1 }

/-- R221: mark LINE_BLANKED in every frame that ticks `a + 1` to `b` of node `n` touch. -/
def markOverflow (n a b : Nat) (s : State) : State :=
  let v := s.node n
  let touched := (v.tickLog.mapIdx fun i e =>
    let stop := ((v.tickLog[i + 1]?).map (·.1)).getD v.ticksSent
    if e.1 < b ∧ a < stop then e.2 else none).filterMap id
  touched.foldl (fun st f =>
    if (st.frame f).phase = .opened then st else st.updFrame f fun r => r.mark .lineBlanked) s

/-- R108, R221: the number of the tick of LAST of frame `f` at a node. -/
def NodeView.lastTickOf (v : NodeView) (f : FrameNo) : Nat :=
  match v.tickLog.findIdx? fun e => e.2 == some f with
  | none => 0
  | some i => ((v.tickLog[i + 1]?).map (·.1)).getD v.ticksSent

/-- R108: node `n` has reported LAST of the frames its TICKS_SEEN includes. -/
def reportLast (n : Nat) (s : State) : State :=
  let v := s.node n
  s.withFrames fun x =>
    { x with recs := Tab.mapv {} (fun k r =>
        { r with nodesLeft := r.nodesLeft.filter fun e =>
            !(e.1 == n && decide (v.lastTickOf (BitVec.ofNat 32 k) ≤ v.ticksSeen)) }) x.recs }

/-- R210: the signed values of TEMP, with the sensors that exist. -/
def statusTemps (body : List Byte) : List Nat := (List.range 4).map fun i => numAt body (8 + 2 * i) 2

/-- R237: the LZ9's view of a node after a status frame. -/
def NodeView.status (v : NodeView) (body : List Byte) (now time : Nat) : NodeView :=
  let fl := numAt body 0 2
  { v with
    flags := fl, held := numAt body 2 2, ticksSeen := v.seenOf (numAt body 4 4), temps := statusTemps body
    supplyMv := numAt body 16 2, supplyCur := numAt body 18 2, spits := numAt body 32 4, nhFail := numAt body 36 4
    halter := bitAt fl 0, hold := bitAt fl 1, silent := false, lastStatus := now, statusTime := time }

/-- R213: claims compared on a link that is CLAIMED. -/
def compareClaims (n : Nat) (s : State) : State :=
  let v := s.node n
  let l := n / 8
  let x := s.link l
  if x.state != .claimed || (s.drillOn l).isSome then s
  else if x.claim < v.held then
    setLinkState l .observing .claimLost (raise Src.rein 0x0004 (le 1 n ++ le 2 v.held) s)
  else if v.held = x.claim ∧ bitAt v.flags (if x.endB then 2 else 3) then
    raise Src.rein 0x0003 (le 1 n ++ le 2 v.held) s
  else s

/-- R235: NODE_FAULT when OVERTEMP or SUPPLY_FAULT becomes set. -/
def nodeFaultEvent (n old new : Nat) (s : State) : State :=
  if (bitAt new 9 && !bitAt old 9) || (bitAt new 10 && !bitAt old 10) then
    raise Src.rein 0x0006 (le 1 n ++ le 2 new) s
  else s

/-- R61, R449: node `n` has stopped itself for its temperature: the frames whose lines or rows it should drive are HALTED, and vector
0 is raised where it has `just` done so. -/
def overtempHalts (n : Nat) (just : Bool) (s0 : State) : State :=
  let s := if just then raiseMsix 0 s0 else s0
  let fs := s.liveFrames.filter fun f => s.phase f == .delivering &&
    (if s.top.mode = .lightfield then s.scan.map.nodes.any fun m => m.node == n
     else s.jobBars.any fun b => (((s.cfgOf f).prn.map b).nodes).any fun m => m.node == n)
  fs.foldl (fun st f => st.updFrame f fun r => r.mark .halted) s

/-- R221, R235, R236: what a status frame of node `n` tells; the claims are compared last. -/
def statusFrame (n : Nat) (body : List Byte) (s : State) : State :=
  let old := s.node n
  let s1 := s.setNode n (old.status body s.uptime s.time.now)
  let entries := (List.range 4).filterMap fun i =>
    if byteAt body (40 + 4 * i + 2) = 0 then none else some (numAt body (40 + 4 * i) 2)
  let s2 := entries.foldl (fun st t => countBlank n ((st.node n).tickOf t) st) s1
  let fl := numAt body 0 2
  let s3 := if bitAt fl 11 then markOverflow n old.ticksSeen (s1.node n).ticksSeen s2 else s2
  let s4 := if bitAt fl 9 then overtempHalts n (!bitAt old.flags 9) s3 else s3
  compareClaims n (nodeFaultEvent n old.flags fl (reportLast n s4))

/-- NODE_SILENT (R236): 3 ms without a valid status frame. -/
def execNodeSilent (node : Nat) (s : State) : Host.Outcome State Fault Refusal :=
  let v := s.node node
  if v.present && !v.silent && decide (v.lastStatus + 3 * 10 ^ 6 ≤ s.uptime) then
    .next (raise Src.rein 0x0002 (le 1 node ++ le 8 v.statusTime) (s.setNode node { v with silent := true }))
  else .next s

/-- HALTER_REPEAT (R218): a HALTER block again, at least every 10 µs, to a node that is to be in Halter. -/
def execHalterRepeat (node : Nat) (s : State) : Host.Outcome State Fault Refusal :=
  let v := s.node node
  if v.present && v.toHalter && decide (v.lastHalter + 10000 ≤ s.uptime) then
    .next (sendHold 0x2D node (s.setNode node { v with lastHalter := s.uptime }))
  else .next s

end Sys2Proof.Machine
end

