-- ==== Sys2Proof/Machine/LfScan.lean ====
section
/-! DEFINITION. The light-field scan: its schedule, bands and frame store, held frames, row ticks and row frames
(R239, R253, R260 to R264, R268 to R271, R278 to R293). -/

namespace Sys2Proof.Machine

/-! ### The schedule (R116, R268, R280) -/

/-- R288: the scan runs and T_A has not passed. -/
def State.ticking (s : State) : Bool := s.scanning && s.scan.phase != .draining

/-- R268: T_F. -/
def State.frameTime (s : State) (f : FrameNo) : Int :=
  Int.ofNat (s.scan.start + (f - s.scan.first).toNat * s.scan.timing.frame / 2 ^ 32)

/-- R116: T_F − T_frame. -/
def State.prevTime (s : State) (f : FrameNo) : Int :=
  Int.ofNat s.scan.start + Int.fdiv ((Int.ofNat (f - s.scan.first).toNat - 1) * Int.ofNat s.scan.timing.frame) (2 ^ 32)

/-- R273, R293: OFFSET_A or OFFSET_B in force at frame `f`. -/
def State.groupOffset (s : State) (b : Bool) (f : FrameNo) : Nat :=
  if b then (s.cfgOf f).lf.offsetB else (s.cfgOf f).lf.offsetA

/-- R268: R_g(F, r). -/
def State.rowTime (s : State) (b : Bool) (f : FrameNo) (r : Nat) : Int :=
  s.frameTime f + Int.ofNat (s.scan.timing.rowsNs r) + Int.ofNat (s.groupOffset b f)

/-- The present device time. -/
def State.clock (s : State) : Int := Int.ofNat s.time.now

/-- R116: the cutoff of frame `f`. -/
def State.lfCutoffTime (s : State) (f : FrameNo) : Int :=
  let t := s.scan.timing
  if s.fuse.part.wholeFrame then s.prevTime f - Int.ofNat (t.rowsNs (8 * t.nCut))
  else s.frameTime f - Int.ofNat (t.rowsNs (t.rowsBlank + 8 * t.nCut))

/-- R280: the read point of band `k` of frame `f`. -/
def State.readPoint (s : State) (f : FrameNo) (k : Nat) : Int :=
  let t := s.scan.timing
  let blank := s.frameTime f - Int.ofNat (t.rowsNs t.rowsBlank)
  if k = 0 then blank
  else
    let at' := if k ≤ t.fifoBands then s.frameTime f - Int.ofNat (t.rowsNs (8 * (t.fifoBands - k)))
      else s.frameTime f + Int.ofNat (t.rowsNs (8 * (k - t.fifoBands)))
    max blank at'

/-- R107: bands of a light-field frame. -/
def State.lfBands (s : State) : Nat := s.scan.timing.rowsActive / 8

/-- R275: a node of the map belongs to group B. -/
def nodeGroupB (n : Nat) : Bool := decide (16 ≤ n / 8)

/-- The links of a group that carry a node of the panel map (R269). -/
def State.groupLinks (s : State) (b : Bool) : List Nat :=
  (allLinks.filter fun l => (decide (16 ≤ l)) == b).filter fun l => s.scan.map.nodes.any fun n => n.node / 8 == l

/-- The groups that carry a node of the panel map: 0 A, 1 B. -/
def State.mapGroups (s : State) : List Nat := (List.range 2).filter fun g => !(s.groupLinks (g == 1)).isEmpty

/-- A group of the panel is in Halter. -/
def State.groupHalted (s : State) (b : Bool) : Bool :=
  s.top.dev == .halter || s.top.dev == .fault || (if b then s.scan.haltedB else s.scan.haltedA)

/-- R128: no group of the panel runs, so that a band replaced now reaches no node. -/
def State.lfStill (s : State) : Bool :=
  let used := [false, true].filter fun b => !(s.groupLinks b).isEmpty
  used.all fun b => s.groupHalted b || (s.groupLinks b).all fun l =>
    !((s.link l).state == .claimed || (s.link l).state == .observing)

/-- R131: part of the light-field output is in Halter. -/
def State.lfHalted (s : State) : Bool :=
  let used := [false, true].filter fun b => !(s.groupLinks b).isEmpty
  (used.any s.groupHalted) || used.any fun b => (s.groupLinks b).any fun l =>
    !((s.link l).state == .claimed || (s.link l).state == .observing)

/-! ### PANEL_CTRL (R224, R278, R290) -/

/-- R224: the PANEL_CTRL value of a map node. -/
def State.panelCtrl (s : State) (n : Nat) (hold : Bool) : Nat :=
  b2n hold + 2 * b2n (nodeGroupB n) + 256 * s.scan.timing.depth + 4096 * s.scan.timing.rowsActive

/-- R278, R290: write PANEL_CTRL of every map node. -/
def writePanels (hold : Bool) (s : State) : State :=
  s.scan.map.nodes.foldl (fun st n => nodeRegWrite n.node 0x400 (s.panelCtrl n.node hold) st)
    (s.withScan fun x => { x with holdOn := hold })

/-- R291: every map node has acknowledged HOLD = 1. -/
def State.holdAcked (s : State) : Bool :=
  s.scan.holdOn && s.scan.map.nodes.all fun n => (s.node n.node).panelAck == s.panelCtrl n.node true

/-! ### Held frames (R291, R292) -/

/-- R291: the latest frame before `f` that spoils the count. -/
def State.latestBad (s : State) (f : FrameNo) : Option FrameNo :=
  match (s.liveFrames.filter fun g => FrameNo.later f g && spoils (s.frame g)).getLast? with
  | some g => some g
  | none => s.scan.lastBad

/-- R291: static at frame `f` of generation `g`. -/
def State.staticOf (s : State) (f : FrameNo) : Nat :=
  if s.genOf f ≠ s.genOf (f - 1) ∨ !FrameNo.later f s.scan.first then 0
  else
    let a := s.scan.genStart
    let b := match s.latestBad f with
      | some g => if FrameNo.notBefore g a then g + 1 else a
      | none => a
    (f - b).toNat

/-- R340: a light-field calibration run is ACQUIRING. -/
def State.lfAcquiring (s : State) : Bool :=
  [3, 4].any fun n => (Tab.get {} s.cal.insts n).state == .acquiring

/-- R291: frame `f` would be held, but for what a partner says. -/
def State.wouldHold (s : State) (f : FrameNo) : Bool :=
  let c := (s.cfgOf f).lf
  decide (1 < c.refreshDiv) && FrameNo.later f s.scan.first && s.genOf f == s.genOf (f - 1) &&
    !s.lfAcquiring && decide (c.staticFrames ≤ s.staticOf f) && !(s.readyCfg (s.cfgOf f)).notReady && decide (s.scan.run < c.refreshDiv - 1) &&
    s.holdAcked

/-! ### The frame store (R279, R281, R282) -/

/-- R279: frame-store buffers. -/
def State.storeBuffers (s : State) : Nat := if s.fuse.part.wholeFrame then 2 else 3

/-- R281: frame `f` takes a buffer, if it has none. -/
def takeBuffer (f : FrameNo) (s : State) : State :=
  if (s.frame f).buffer.isSome then s
  else
    match s.scan.order with
    | [] => s
    | b :: bs => (s.updFrame f fun r => { r with buffer := some b }).withScan fun x => { x with order := bs ++ [b] }

/-- R281: frame `f` gives back its buffer; the bands rendered into it are discarded and counted (R120). -/
def giveBack (f : FrameNo) (s : State) : State :=
  let n := (s.frames.bands.filter fun x => x.frame == f && x.phase == .complete).length
  let s1 := match (s.frame f).buffer with
    | none => s
    | some b => (s.updFrame f fun r => { r with buffer := none }).withScan fun x =>
        { x with order := b :: x.order.filter (· != b) }
  s1.withFrames fun x =>
    { x with
      bands := (x.bands.filter fun z => z.frame != f || z.phase == .rendering).map fun z =>
        if z.frame = f then { z with fetched := true } else z
      rollBands := satAdd 65535 x.rollBands n, rollCommits := satAdd 65535 x.rollCommits (if n = 0 then 0 else 1) }

/-- Band `k` of frame `f` has been delivered. -/
def State.bandDelivered (s : State) (f : FrameNo) (k : Nat) : Bool :=
  let p := Tab.get (0, 0) s.frames.fetch 0
  let g : FrameNo := BitVec.ofNat 32 p.1
  FrameNo.later g f || (g == f && decide (k < p.2))

/-- R281: the buffer that frame `f` has, or would take. -/
def State.bufferFor (s : State) (f : FrameNo) : Option Nat :=
  match (s.frame f).buffer with
  | some b => some b
  | none => s.scan.order.head?

/-- R281: band `k` of frame `f` can be written into its buffer now. -/
def State.writable (s : State) (f : FrameNo) (k : Nat) : Bool :=
  match s.bufferFor f with
  | none => false
  | some b =>
    Tab.get 0 s.scan.holder k != b + 1 &&
      !(s.frames.recs.any fun e =>
        let g : FrameNo := BitVec.ofNat 32 e.1
        FrameNo.later f g && e.2.buffer == some b && !s.bandDelivered g k) &&
      (!s.fuse.part.wholeFrame || decide (s.prevTime f ≤ s.clock))

/-! ### Dispatch (R119, R161, R281, R292) -/

/-- R281, R292: frame `f` is rendered at all as things stand. -/
def State.rendersFrame (s : State) (f : FrameNo) : Bool :=
  if s.phase f = .opened then !s.wouldHold f
  else
    let r := s.frame f
    !(r.lfHeld || r.skipped || r.repeated || (s.paired && r.notReady)) && (r.phase == .cut || r.phase == .delivering)

/-- The band after a band of the scan. -/
def State.lfBandAfter (s : State) (p : Nat × Nat) : Nat × Nat :=
  if p.2 + 1 < s.lfBands then (p.1, p.2 + 1) else ((BitVec.ofNat 32 p.1 + 1).toNat, 0)

/-- The next band not yet in the queue: the frames that take no buffer are passed over. -/
def nextRendered (s : State) : Nat → Nat × Nat → Option (Nat × Nat)
  | 0, _ => none
  | n + 1, p =>
    let f : FrameNo := BitVec.ofNat 32 p.1
    if s.phase f = .opened then (if s.rendersFrame f then some p else none)
    else if s.rendersFrame f then some p
    else nextRendered s n ((f + 1).toNat, 0)

/-- R161: the bands that could be rendered now, earliest read point first among the queue. -/
def State.lfWaiting (s : State) : List (Int × Band) :=
  let again := s.frames.bands.filter fun x => x.phase == .queued
  let fresh := match nextRendered s (s.frames.recs.length + 1) (Tab.get (0, 0) s.frames.next 0) with
    | none => []
    | some p => [({ frame := BitVec.ofNat 32 p.1, bar := 0, band := p.2 } : Band)]
  ((again ++ fresh).filter fun x => decide (s.inFlight < 128) && s.writable x.frame x.band && s.rendersFrame x.frame).map
    fun x => (s.readPoint x.frame x.band, x)

/-! ### Rendering (R239, R253, R260) -/

/-- The planes of a list that a frame uses, with the address of their content. -/
def planeUses (s : State) (c : LfCfg) (bufs : List (Nat × Nat)) (ns : List Nat) : List PlaneUse :=
  ns.filterMap fun n => (bufs.find? fun u => u.1 == n).map fun u =>
    { num := n, plane := Tab.get {} c.planes n, base := (s.buf u.2).base }

/-- R251, R253: the ray map and the emitter table of a frame. -/
def State.lfTables (s : State) (f : FrameNo) : RayMap × GainTable :=
  if s.phase f = .opened then ((s.readiness f).map, (s.readiness f).gain) else ((s.frame f).map, (s.frame f).gain)

/-- The scene that frame `f` shows. -/
def State.scene (s : State) (f : FrameNo) : LfScene :=
  let c := (s.cfgOf f).lf
  let bufs := s.bufsOf f
  let t := s.lfTables f
  { cfg := c, map := t.1, mem := s.dram, records := (s.buf t.1.handle).base + t.1.offset + t.1.recordOff
    gainAt := if t.2.table then some ((s.buf t.2.handle).base + t.2.offset) else none
    planes := planeUses s c bufs c.depthOrder, overlays := planeUses s c bufs c.overlayOrder
    depth := s.scan.timing.depth, frame := f }

/-- R445: the luminance factor, in 1/256, of a column under the steps of a tag. -/
def State.lumFactor (s : State) (lum col : Nat) : Nat :=
  let inB := (s.scan.map.nodes.find? fun n => decide (n.first ≤ col) && decide (col < n.first + n.cols)).map fun n =>
    nodeGroupB n.node
  256 - 16 * (if inB = some true then lum / 32 % 32 else lum % 32)

/-- A band of zeros (R248, R282). -/
def State.zeroBand (s : State) : List (List Nat) :=
  List.replicate 8 (List.replicate (s.scan.map.cols * s.scan.map.subpix) 0)

/-- R340: the rows of band `k` from the pattern generator. -/
def State.patternBand (s : State) (pattern k : Nat) : List (List Nat) :=
  let w := s.scan.map.cols * s.scan.map.subpix
  (List.range 8).map fun i => (List.range w).map fun e => (Config.testPattern pattern (8 * k + i) e).toNat % 2 ^ s.scan.timing.depth

/-- R248, R260, R340: render a light-field band. -/
def State.renderLfBand (s : State) (x : Band) : LfRendered :=
  let sc := s.scene x.frame
  if 1024 ≤ x.lum then { rows := s.patternBand (x.lum / 1024) x.band }
  else if sc.map.load = 0 then { rows := s.zeroBand } else renderLf sc (s.lumFactor x.lum) x.band

/-- R262: what a light-field band costs as things stand. -/
def State.lfCost (s : State) (x : Band) : Nat :=
  let r := s.renderLfBand x
  lfCycles (4 * r.visits + r.taps) (r.visits + r.samples) (8 * (s.scan.map.cols * s.scan.map.subpix))

/-- R119, R281: a light-field band starts rendering on an engine. -/
def startLfRender (engine : Nat) (x : Band) (s0 : State) : State :=
  let s := takeBuffer x.frame s0
  let y := { x with phase := .rendering, engine := engine, gen := s.genOf x.frame, mask := s.readyOf x.frame
                    lum := s.lumOf x.frame, renderStart := s.uptime, work := 0, workAt := s.uptime
                    cost := s.lfCost { x with lum := s.lumOf x.frame }, fetched := false }
  let was := s.frames.bands.any fun z => z.phase == .queued && z.same x
  s.withFrames fun fr =>
    if was then { fr with bands := fr.bands.map fun z => if z.phase = .queued ∧ z.same x then y else z }
    else { fr with bands := fr.bands ++ [y]
                   next := Tab.put (0, 0) fr.next 0 (s.lfBandAfter (x.frame.toNat, x.band)) }

/-- R413: the emitters of a light-field band that its render engine writes poisoned. -/
def State.lfBandTaint (s : State) (x : Band) : List Nat :=
  if s.poison.isEmpty || decide (1024 ≤ x.lum) || (s.scene x.frame).map.load == 0 then []
  else lfTaint (s.scene x.frame) x.band s.poisoned

/-- R264, R266: slack of a light-field band that has just been completed. -/
def noteLfSlack (x : Band) (s : State) : State :=
  let slack := max (-0x80000000) (min 0x7FFFFFFF (s.readPoint x.frame x.band - s.clock))
  let log := (s.prn.slackLog.filter fun e => decide (s.uptime < e.1 + 10 ^ 8)) ++ [(s.uptime, slack)]
  let s1 := { s with prn := { s.prn with slackLog := log } }
  let margin := (s.cfgOf x.frame).lf.marginUs
  let last := Tab.get 0 s.prn.marginEvt 0
  if 0 < margin ∧ slack < 1000 * Int.ofNat margin ∧ (last = 0 ∨ last + 10 ^ 6 ≤ s.uptime + 1) then
    raise Src.lfr 0x0002 (le 4 x.frame.toNat ++ le 4 x.band ++ le 4 (unsigned 32 slack))
      { s1 with prn := { s1.prn with marginEvt := Tab.put 0 s1.prn.marginEvt 0 (s.uptime + 1) } }
  else s1

/-- BAND_RENDER_END in light-field mode (R119, R260, R264, R282): a band that ends after its read point is dropped, with its slack
noted (R162). -/
def endLfRender (x : Band) (s0 : State) : State :=
  let s := noteBusy x s0
  let others := s.frames.bands.filter fun z => !(z.same x && z.phase == .rendering)
  if x.fetched then
    let s1 := s.withFrames fun fr => { fr with bands := others }
    let r := s.frame x.frame
    recheck (if r.lfHeld || r.skipped || r.repeated then s1 else noteLfSlack x s1)
  else if s.tagOk x then
    let r := s.renderLfBand x
    let y := { x with phase := .complete, lines := r.rows, poisoned := s.lfBandTaint x, early := r.early, visits := r.visits }
    recheck (noteLfSlack x (noteRender x.frame (s.withFrames fun fr => { fr with bands := others ++ [y] })))
  else
    recheck (s.withFrames fun fr =>
      { fr with bands := others ++ [{ x with phase := .queued }], rollBands := satAdd 65535 fr.rollBands 1 })

/-! ### Feeding the links (R271, R275, R282 to R284) -/

/-- R275: the emitters of a node's row, in the node's own order. -/
def PanelNode.order (n : PanelNode) (subpix : Nat) (row : List Nat) : List Nat :=
  (List.range (n.cols * subpix)).map fun k =>
    let i := k / Nat.max 1 subpix
    let s' := k % Nat.max 1 subpix
    let col := if n.colRev then n.first + n.cols - 1 - i else n.first + i
    row.getD (col * subpix + (if n.subRev then subpix - 1 - s' else s')) 0

/-- R210: pack emitter values of `d` bits each from bit 0 of byte 0 on. -/
def packBits (d : Nat) (vs : List Nat) : List Byte :=
  le (ceilDiv (vs.length * d) 8) (vs.foldr (fun v a => v % 2 ^ d + 2 ^ d * a) 0)

/-- R279: BAND_BYTES. -/
def State.bandBytes (s : State) : Nat := 256 * ceilDiv (s.scan.map.cols * s.scan.map.subpix * s.scan.timing.depth) 256

/-- R279: where band `k` of buffer `b` lies in the frame store: the buffers follow one another. -/
def State.storeAt (s : State) (b k : Nat) : Nat := (b * s.lfBands + k) * s.bandBytes

/-- R209, R275: the nodes of link `l` in chain order. -/
def PanelMap.onLink (m : PanelMap) (l : Nat) : List PanelNode :=
  (List.range 8).flatMap fun p => m.nodes.filter fun n => n.node == 8 * l + p

/-- R279, R283: the blocks of the frame store that hold the strips of link `l` in row `i` of a band that lies at `base`. -/
def State.rowBlocks (s : State) (l base i : Nat) : List Nat :=
  let m := s.scan.map
  let w := m.cols * m.subpix
  let d := s.scan.timing.depth
  ((m.onLink l).flatMap fun n =>
    blockSpan (base + (i * w + n.first * m.subpix) * d / 8)
      (base + ((i * w + (n.first + n.cols) * m.subpix) * d - 1) / 8)).eraseDups

/-- R283, R428: the reads of a band that lies at `at'`, outside the DRAM variants and for a band of zeros none. -/
def State.bandReads (s : State) (l : Nat) (at' : Option Nat) : List (Nat × Nat) :=
  match at' with
  | none => []
  | some base =>
    if s.fuse.part.wholeFrame then []
    else pacedReads s.uptime (s.scan.timing.rowsNs 6) ((List.range 8).flatMap (s.rowBlocks l base)).eraseDups

/-- R271, R275, R283, R284: the 8 rows of a band for one link; `bad` are the keys of poisoned emitters, `at'` is where in the frame
store the band lies. -/
def feedRows (s : State) (l : Nat) (f : FrameNo) (k : Nat) (rows : List (List Nat)) (bad : List Nat) (at' : Option Nat) :
    List ScanRow :=
  let m := s.scan.map
  let ns := m.onLink l
  let reads := s.bandReads l at'
  (List.range 8).map fun i =>
    { frame := f, row := 8 * k + i, need := needOf reads (s.rowBlocks l (at'.getD 0) i), lastRow := 8 * k + i + 1 == s.scan.timing.rowsActive
      payloads := ns.map fun n => (n.node, packBits s.scan.timing.depth (n.order m.subpix (rows.getD i [])))
      poisoned := (ns.filter fun n => bad.any fun q => q / 2 ^ 24 == i && decide (n.first * m.subpix ≤ q % 2 ^ 24) &&
        decide (q % 2 ^ 24 < (n.first + n.cols) * m.subpix)).map (·.node) }

/-- The feeder of link `l`. -/
def State.scanFeeder (s : State) (l : Nat) : ScanFeeder := Tab.get {} s.scan.feeders l

/-- Set the feeder of link `l`. -/
def State.setScanFeeder (s : State) (l : Nat) (x : ScanFeeder) : State :=
  s.withScan fun c => { c with feeders := Tab.put {} c.feeders l x }

/-- R283: put a band's rows into the FIFOs of every link of the map. -/
def feedLf (f : FrameNo) (k : Nat) (rows : List (List Nat)) (bad : List Nat) (at' : Option Nat) (s : State) : State :=
  (s.groupLinks false ++ s.groupLinks true).foldl (fun st l =>
    let x := st.scanFeeder l
    st.setScanFeeder l { x with fifo := x.fifo ++ feedRows s l f k rows bad at' }) s

/-- R282: what replaces band `k`: the content most recently delivered, or zeros. -/
def State.repeatBand (s : State) (k : Nat) : List (List Nat) :=
  if Tab.get 0 s.scan.holder k = 0 then s.zeroBand else Tab.get [] s.scan.delivered k

/-- R282, R284: what is poisoned of the content that replaces band `k`. -/
def State.repeatBad (s : State) (k : Nat) : List Nat :=
  if Tab.get 0 s.scan.holder k = 0 then [] else Tab.get [] s.scan.deliveredBad k

/-- R279, R282: where the content lies that replaces band `k`; zeros lie nowhere. -/
def State.repeatAt (s : State) (k : Nat) : Option Nat :=
  if Tab.get 0 s.scan.holder k = 0 then none else some (s.storeAt (Tab.get 0 s.scan.holder k - 1) k)

/-- R283: send band `k` of frame `f` from the content most recently delivered. -/
def feedRepeat (f : FrameNo) (k : Nat) (s : State) : State := feedLf f k (s.repeatBand k) (s.repeatBad k) (s.repeatAt k) s

/-- R282: band `k` of frame `f` has been delivered with this content; it lies in the frame's buffer, or stays where the
content most recently delivered lies. -/
def noteDelivered (f : FrameNo) (k : Nat) (rows : List (List Nat)) (bad : List Nat) (s : State) : State :=
  match (s.frame f).buffer with
  | none => s
  | some b => s.withScan fun x =>
    { x with delivered := Tab.put [] x.delivered k rows, deliveredBad := Tab.put [] x.deliveredBad k bad
             holder := Tab.put 0 x.holder k (b + 1) }

/-- R108, R125: a light-field frame is DELIVERING from the fetch point of its first band on. -/
def startLfDelivery (f : FrameNo) (s : State) : State :=
  if s.phase f = .cut then startChecks f 2 (s.updFrame f fun r => { r with phase := .delivering })
  else s

/-- R108, R116, R280: on a whole-frame part the fetch point of band 0 lies at T_F − T_frame, before its read point. -/
def openDelivery (s : State) : State :=
  if !s.fuse.part.wholeFrame || !s.scanning then s
  else (s.liveFrames.filter fun f => decide (s.prevTime f ≤ s.clock)).foldl (fun st f => startLfDelivery f st) s

/-- The frame whose band is read next, and the band. -/
def State.nextRead (s : State) : FrameNo × Nat :=
  let p := Tab.get (0, 0) s.frames.fetch 0
  (BitVec.ofNat 32 p.1, p.2)

/-- R280: the next band has reached its read point. -/
def State.readDue (s : State) : Bool :=
  let p := s.nextRead
  s.scanning && (s.phase p.1 == .cut || s.phase p.1 == .delivering) && !(s.frame p.1).awaiting && decide (s.readPoint p.1 p.2 ≤ s.clock)

/-- R286: at the read point of band 0 of a scan's first frame, and whenever a group leaves Halter, its nodes get RUN. -/
def runPanels (s : State) : State :=
  runNodes ((s.scan.map.nodes.filter fun n => !s.groupHalted (nodeGroupB n.node)).map (·.node)) s

/-- What a delivered band leaves in its frame's record. -/
def noteLfBand (f : FrameNo) (x : Band) (s : State) : State :=
  s.updFrame f fun r => { r with early := r.early + x.early, visits := r.visits + x.visits }

/-- R119, R282: the band leaves the queue. -/
def takeLfBand (f : FrameNo) (k : Nat) (s : State) : State :=
  let key : Band := { frame := f, bar := 0, band := k }
  let p := Tab.get (0, 0) s.frames.next 0
  s.withFrames fun fr =>
    { fr with
      bands := (fr.bands.filter fun z => !(z.same key && z.phase != .rendering)).map fun z =>
        if z.same key then { z with fetched := true } else z
      next := if p = (f.toNat, k) ∨ FrameNo.later f (BitVec.ofNat 32 p.1) then
          Tab.put (0, 0) fr.next 0 (s.lfBandAfter (f.toNat, k))
        else fr.next }

/-- BAND_FETCH_POINT in light-field mode (R18, R119, R280, R282, R286, R291, R292): the read point of a band. A band is late for
any group that runs, and BANDS_LATE counts it once for the panel (DESIGN CHOICE, log 63). -/
def lfFetch (s0 : State) : State :=
  let p := s0.nextRead
  let f := p.1
  let k := p.2
  let s1 := runPanels (startLfDelivery f s0)
  let r := s1.frame f
  let bufferless := r.lfHeld || r.skipped || r.repeated
  let s2 :=
    if bufferless then
      if r.lfHeld || s1.holdAcked then s1 else feedRepeat f k s1
    else
      match s1.validBand f 0 k with
      | some x =>
        noteDelivered f k x.lines x.poisoned
          (feedLf f k x.lines x.poisoned (r.buffer.map fun b => s1.storeAt b k) (noteLfBand f x s1))
      | none =>
        let s' := takeBuffer f s1
        let s'' := if s'.shadow then shadowLate s' else if s'.lfStill then s' else s'.updFrame f fun r =>
          { r.mark .bandLate with bandsLate := satAdd 65535 r.bandsLate 1 }
        noteDelivered f k (s1.repeatBand k) (s1.repeatBad k) (feedRepeat f k s'')
  let s3 := takeLfBand f k s2
  firstRelease f (s3.withFrames fun fr =>
    { fr with fetch := Tab.put (0, 0) fr.fetch 0 (s3.lfBandAfter (f.toNat, k)) })

/-! ### Row ticks and row frames (R269, R271, R284) -/

/-- R209, R210: the ROW frames of a row for one node. -/
def rowFrames (claim flags : Nat) (x : ScanRow) (n : Nat) (payload : List Byte) : List (List Byte) :=
  let segs := segments payload.length
  (List.range segs.length).map fun i =>
    mkFrame FType.row n claim flags
      (rowHeader x.frame x.row x.lastRow i segs.length ++ ((payload.drop (8192 * i)).take 8192))

/-- R284: a row is sent on a link, but for the nodes whose strip is poisoned. -/
def sendRow (l : Nat) (x : ScanRow) (s : State) : State :=
  let s1 := (x.payloads.filter fun e => !x.poisoned.contains e.1).foldl (fun st e =>
    match st.sendAs e.1 x.frame with
    | none => st
    | some a => noteDrill e.1 x.frame ((rowFrames a.1 a.2 x e.1 e.2).foldl (fun st b => sendFrame l b st) st)) s
  if x.poisoned.isEmpty then s1 else s1.updFrame x.frame (notePoisonedRow x.row)

/-- R219, R282, R292: nothing is sent for frame `f`, whose nodes drive their stored rows. -/
def State.nothingSent (s : State) (f : FrameNo) : Bool :=
  let r := s.frame f
  r.lfHeld || ((r.skipped || r.repeated) && s.holdAcked)

/-- R450: R21: the frame came before the one with which a group resumes; its rows are not delivered. -/
def State.rowBeforeResume (s : State) (b : Bool) (f : FrameNo) : Bool :=
  match (if b then s.scan.resumeB else s.scan.resumeA) with
  | none => false
  | some g => FrameNo.later g f

/-- R271, R284: send active row `r` of frame `f` on link `l`, or count an underrun. -/
def feedRow (b : Bool) (f : FrameNo) (r : Nat) (s : State) (l : Nat) : State :=
  let x := s.scanFeeder l
  let kept := { x with fifo := x.fifo.filter fun e => !(e.frame == f && decide (e.row ≤ r)) }
  match x.whole.find? fun e => e.frame == f && e.row == r with
  | some e =>
    let s1 := s.setScanFeeder l kept
    if s.groupHalted b || s.rowBeforeResume b e.frame then s1 else sendRow l e s1
  | none =>
    if s.nothingSent f || s.groupHalted b then s.setScanFeeder l kept
    else
      let x1 := { kept with underrun := satAdd 65535 x.underrun 1, pendingUnder := satAdd 65535 x.pendingUnder 1 }
      let s1 := s.updFrame f fun q => q.mark .lineBlanked
      if msPassed x.underEvt s.uptime then
        raise Src.scan 0x0001 (le 1 l ++ le 4 f.toNat ++ le 2 r ++ le 2 x1.pendingUnder)
          (s1.setScanFeeder l { x1 with pendingUnder := 0, underEvt := some s.uptime })
      else s1.setScanFeeder l x1

/-- R269: the TICK block of row `r` of a group on one link, counted for the nodes it carries. -/
def sendRowTick (b : Bool) (f : FrameNo) (r : Nat) (s : State) (l : Nat) : State :=
  if !s.ticksOn l (some f) then s
  else
    let x := s.link l
    let s1 := sendBlock l (tickBlock (r % 64) (r == 0) true (b2n b) 0 s.scan.timing.rowNs)
      (s.setLink l { x with ticks := (x.ticks + 1) % 2 ^ 32 })
    let g : Option FrameNo := if r < s.scan.timing.rowsActive then some f else none
    let ns := (s.scan.map.nodes.filter fun n => n.node / 8 == l).map (·.node)
    ns.foldl (fun st n =>
      let v := st.node n
      let log := if v.tickLog.getLast?.map Prod.snd = some g then v.tickLog else v.tickLog ++ [(v.ticksSent, g)]
      st.setNode n { v with ticksSent := v.ticksSent + 1, tickLog := log.drop (log.length - 64) }) s1

/-- R108, R221: the last active row of frame `f` has ticked in a group: its nodes have yet to report it. -/
def lastRowTick (b : Bool) (f : FrameNo) (s : State) : State :=
  let ns := (s.scan.map.nodes.map (·.node)).filter fun n => nodeGroupB n == b && s.claimed (n / 8) && !(s.node n).toHalter
  let left := if s.nothingSent f then [] else ns.map fun n => (n, s.uptime)
  s.updFrame f fun r => { r with barsLeft := r.barsLeft.filter (· != b2n b), nodesLeft := r.nodesLeft ++ left }

/-- R127, R131: what the tick of row 0, or a tick in Halter, leaves in a frame's record. -/
def markRowTick (b : Bool) (f : FrameNo) (r : Nat) (s : State) : State :=
  s.updFrame f fun q =>
    let q1 := if r = 0 ∧ q.tStart.isNone then { q with tStart := some s.time.now } else q
    let q2 := if r < s.scan.timing.rowsActive then { q1 with throttleMax := Nat.max q1.throttleMax (s.lfThrottle s.mapGroups) } else q1
    if s.groupHalted b || s.rowBeforeResume b f then q2.mark .halted else q2

/-- The tick cursor of a group. -/
def State.tickCursor (s : State) (b : Bool) : FrameNo × Nat :=
  let p := if b then s.scan.tickB else s.scan.tickA
  (BitVec.ofNat 32 p.1, p.2)

/-- The row after a row. -/
def State.rowAfter (s : State) (p : FrameNo × Nat) : FrameNo × Nat :=
  if p.2 + 1 < s.scan.timing.total then (p.1, p.2 + 1) else (p.1 + 1, 0)

/-- R288: the scan has reached the tick at which it stops. -/
def State.stopsAt (s : State) (f : FrameNo) : Bool :=
  match s.scan.stop with
  | none => false
  | some a => FrameNo.notBefore f a

/-- R269: the next row tick of a group is due. -/
def State.rowTickDue (s : State) (b : Bool) : Bool :=
  let p := s.tickCursor b
  s.scanning && !s.stopsAt p.1 && decide (s.rowTime b p.1 p.2 ≤ s.clock)

/-- R269, R271: the row tick of a group, then the row frames of the next active row. No tick precedes row 0 of the scan's first
frame: its row frames go out just before its tick block (DESIGN CHOICE, log 63). -/
def rowTick (b : Bool) (s00 : State) : State :=
  let p := s00.tickCursor b
  let s := if p = (s00.scan.first, 0) then (s00.groupLinks b).foldl (feedRow b p.1 0) s00 else s00
  let q := s.rowAfter p
  let s1 := endGap ((s.groupLinks b).foldl (sendRowTick b p.1 p.2) s)
  let s2 := markRowTick b p.1 p.2 s1
  let s3 := if p.2 + 1 = s.scan.timing.rowsActive then lastRowTick b p.1 s2 else s2
  let s4 := if q.2 < s.scan.timing.rowsActive && s.phase q.1 != .opened && !s.stopsAt q.1 then
      (s.groupLinks b).foldl (feedRow b q.1 q.2) s3
    else s3
  s4.withScan fun x =>
    let c := (q.1.toNat, q.2)
    { x with tickA := if b then x.tickA else c, tickB := if b then c else x.tickB
             phase := if x.phase = .starting then .scanning else x.phase }

/-- ROW_TICK (R205, R269, R271, R284): the row tick of group A or B that is due. -/
def execRowTick (groupB : Bool) (s : State) : Host.Outcome State Fault Refusal :=
  .next (if s.rowTickDue groupB then rowTick groupB s else s)

/-! ### Stopping (R131, R288) -/

/-- R131, R269: a frame's last tick, or R108 its last band, has passed in light-field mode. -/
def State.lfDone (s : State) (f : FrameNo) : Bool :=
  let r := s.frame f
  (r.phase == .delivering || r.phase == .cut) && r.barsLeft.isEmpty && (r.nodesLeft.isEmpty || s.lfHalted)

/-- R267: LFR.TERM of a frame that took a buffer. -/
def noteTerm (f : FrameNo) (s : State) : State :=
  let r := s.frame f
  let n := r.map.emitters
  if r.buffer.isNone ∨ n = 0 then s
  else s.withScan fun x => { x with early := r.early * 1000 / n, visits := Nat.min 65535 (r.visits * 256 / n) }


/-- R218, R288: HALTER with ALL to every map node. -/
def haltPanels (s : State) : State :=
  let s1 := (s.groupLinks false ++ s.groupLinks true).foldl (fun st l =>
    if st.claimed l then sendBlock l (holdBlock 0x2D (st.link l).claim 0 true) st else st) s
  s1.scan.map.nodes.foldl (fun st n => st.setNode n.node { st.node n.node with toHalter := true, lastHalter := st.uptime }) s1

/-- The scan no longer runs: its trigger is free, its frame store is freed, the lock is off (R279, R288). -/
def scanGone (s : State) : State :=
  let s1 := if (s.trig s.scan.timing.trigger).holder = .scan then freeTrig s.scan.timing.trigger s else s
  (s1.withFrames fun x =>
    { x with base := x.latest, baseGen := 0, baseHost := false, baseHitch := 0, commits := [], bands := [], fetch := []
             next := [] }).withScan fun x =>
    { x with phase := .stopped, stop := none, delivered := [], deliveredBad := [], holder := [], order := [], run := 0
             lastBad := none, holdOn := false, resumeA := none, resumeB := none
             feeders := Tab.mapv {} (fun _ y => { y with fifo := [] }) x.feeders
             split := { x.split with state := .off, misses := 0, inbox := [], holderInbox := [], due := [] } }

/-- R340: the light-field runs end when the scan stops. -/
def endLfRuns (s : State) : State := [3, 4].foldl (fun st n => abortRun n 0x0701 st) s

/-- R288: a stopping scan whose frames are all COMPLETE is over: SCAN_STATE, and state ARMED. -/
def settleStop (s : State) : State :=
  if s.scan.phase ≠ .draining || s.liveFrames.any (fun f => s.phase f != .complete) then s
  else
    let s1 := raise Src.scan 0x0002 (le 1 0 ++ le 4 ((s.scan.stop.getD 0).toNat)) (scanGone s)
    if s1.top.dev = .run then setDev .armed .none s1 else s1

/-- R131, R288: the frames from `a` on are cut short; those before complete as otherwise. -/
def abortFrom (a : FrameNo) (s : State) : State :=
  dropOpen ((s.liveFrames.filter fun f => FrameNo.notBefore f a).foldl abortFrame s)

/-- R288: at T_A the ticks stop, the panels get HALTER, and the frames from A on end. The trigger unit is free from here (DESIGN
CHOICE, log 63). -/
def stopScan (a : FrameNo) (s0 : State) : State :=
  let s1 := abortFrom a (haltPanels (endLfRuns s0))
  let s2 := if (s1.trig s1.scan.timing.trigger).holder = .scan then freeTrig s1.scan.timing.trigger s1 else s1
  settleStop (s2.withScan fun x => { x with phase := .draining })

/-- R108, R123, R288: a light-field frame becomes COMPLETE. -/
def finishLfFrame (f : FrameNo) (s : State) : State := settleStop (pruneCommits (completeFrame f (noteTerm f s)))

/-- R268, R288: what the frame tick of the scan's trigger does: the scan stops at T_A. -/
def frameTick (f : FrameNo) (s : State) : State :=
  let s1 := stamp 0x06 0 f.toNat s
  if s1.ticking && s1.stopsAt f then stopScan f s1 else s1

end Sys2Proof.Machine
end

