-- ==== Sys2Proof/Machine/Rings.lean ====
section
/-! DEFINITION. Rings, doorbells, the descriptor fetch and the writing of records (R47 to R62). -/

namespace Sys2Proof.Machine

/-! ### Register offsets of the CMD block -/

/-- BAR0 offset of CMD.CR_CFG of ring `n`. -/
def crCfgOff (n : Nat) : Nat := 0x00101000 + 0x40 * n
/-- BAR0 offset of CMD.CPL_CFG of ring `n`. -/
def cplCfgOff (n : Nat) : Nat := 0x00102008 + 0x40 * n
/-- BAR0 offset of CMD.EVT_CFG. -/
def evtCfgOff : Nat := 0x00103008

/-- Registers other than TOP and LCS answer (R533). -/
def State.blocksAnswer (s : State) : Bool :=
  match s.top.dev with
  | .idle | .armed | .run | .halter | .fault => !s.pcie.wiping
  | .reset | .boot | .tripped => false

/-- Command ring `n`. -/
def State.cmdRing (s : State) (n : Nat) : CmdRing := Tab.get {} s.cmd.rings n

/-- Set command ring `n`. -/
def State.setCmdRing (s : State) (n : Nat) (r : CmdRing) : State :=
  { s with cmd := { s.cmd with rings := Tab.put {} s.cmd.rings n r } }

/-- R47: a write of CMD.CR_CFG. A LOG2_ENTRIES outside its range voids the whole write; while the ring is enabled a
different LOG2_ENTRIES is ignored and counted, ENABLE is still written (log 7). -/
def writeCrCfg (n : Nat) (v : Word) (s : State) : State :=
  if !s.blocksAnswer || decide (7 < n) then s
  else
    let r := s.cmdRing n
    let en := bitAt v.toNat 0
    let lg := bitsAt v.toNat 4 4
    if lg < 4 ∨ 12 < lg then regConflict (crCfgOff n) s
    else if r.enable then
      let s1 := s.setCmdRing n { r with enable := en }
      if lg = r.log2 then s1 else regConflict (crCfgOff n) s1
    else if en then
      s.setCmdRing n { r with enable := true, log2 := lg, head := 0, tail := 0, waitOwn := false }
    else s.setCmdRing n { r with log2 := lg }

/-- CMD_RING_ENABLE (R47). -/
def execCmdRingEnable (n : Nat) (v : Word) (s : State) : Host.Outcome State Fault Refusal := .next (writeCrCfg n v s)

/-- CMD_RING_DISABLE (R47). -/
def execCmdRingDisable (n : Nat) (v : Word) (s : State) : Host.Outcome State Fault Refusal := .next (writeCrCfg n v s)

/-- CMD_RING_RESIZE (R47). -/
def execCmdRingResize (n : Nat) (v : Word) (s : State) : Host.Outcome State Fault Refusal := .next (writeCrCfg n v s)

/-- CR_DOORBELL (R49, R50). -/
def execCrDoorbell (n : Nat) (v : Word) (s : State) : Host.Outcome State Fault Refusal :=
  if !s.blocksAnswer || decide (7 < n) then .next s
  else
    let r := s.cmdRing n
    let t := bitsAt v.toNat 0 12
    if !r.enable || decide (2 ^ r.log2 ≤ t) then .next (regConflict (crCfgOff n + 4) s)
    else .next (s.setCmdRing n { r with tail := t, waitOwn := false })

/-! ### Descriptor fetch -/

/-- Address of a descriptor in the exchange window (R45). -/
def descAddr (n i : Nat) : Nat := n * 0x40000 + 64 * i

/-- A descriptor is waiting in ring `n` and the ring may be fetched (R49). -/
def State.ringWaits (s : State) (n : Nat) : Bool :=
  let r := s.cmdRing n
  r.enable && r.head != r.tail && !r.waitOwn

/-- R52: ring 0 first, then rings 1 to 7 in turn from `rrNext`. -/
def State.nextRing (s : State) : Option Nat :=
  if s.bootFault then none
  else if s.ringWaits 0 then some 0
  else ((List.range 7).map fun i => 1 + (s.cmd.rrNext - 1 + i) % 7).find? fun n => s.ringWaits n

/-- R51: the slot for a command of ring `n`: ring 0 the reserved slots 0 to 7, then a shared one; others a shared one. -/
def State.freeSlot (s : State) (n : Nat) : Option Nat :=
  let isFree := fun k => (s.slot k).phase == .free
  if n = 0 then (List.range 128).find? isFree
  else ((List.range 120).map (· + 8)).find? isFree

/-- R51: CR_STATUS.WAIT_SLOT: descriptors wait in ring `n` and no slot is free for it. -/
def State.waitsSlot (s : State) (n : Nat) : Bool := s.ringWaits n && (s.freeSlot n).isNone

/-- R52: the turn goes to the next of rings 1 to 7. -/
def advanceTurn (n : Nat) (s : State) : State :=
  if n = 0 then s else { s with cmd := { s.cmd with rrNext := 1 + n % 7 } }

/-- R49: clear OWN of a descriptor and advance HEAD. -/
def consumeDescriptor (n : Nat) (s : State) : State :=
  let r := s.cmdRing n
  let a := descAddr n r.head
  let b := s.dram.byte (a + 2)
  (s.setCmdRing n { r with head := (r.head + 1) % 2 ^ r.log2 }) |>
    dramStore (a + 2) [b &&& 0xFE#8]

/-- R49 to R54: fetch the descriptor at HEAD of ring `n`. -/
def fetchFrom (n : Nat) (s : State) : State :=
  let r := s.cmdRing n
  let raw := s.dram.num (descAddr n r.head) 64
  let d : Slot := { phase := .fetched, id := s.cmd.nextId, ring := n, index := r.head, raw := BitVec.ofNat 512 raw }
  if !bitAt (d.u 2 1) 0 then
    s.setCmdRing n { r with waitOwn := true, ownMiss := satAdd 255 r.ownMiss 1 }
  else if !(s.cplRing (d.cplRing % 8)).enable then
    raise Src.sys 0x0002 (le 1 n ++ le 2 r.head ++ le 2 d.opcode) (advanceTurn n (consumeDescriptor n s))
  else
    match s.freeSlot n with
    | none => s
    | some k =>
      let d' := { d with raw := BitVec.ofNat 512 (raw - 2 ^ 16) }
      let s1 := (advanceTurn n (consumeDescriptor n s)).setSlot k d'
      let s2 := { s1 with cmd := { s1.cmd with nextId := s1.cmd.nextId + 1 } }
      sweepBad 1 s2

/-- DESCRIPTOR_FETCH (R49, R51 to R54). -/
def execDescriptorFetch (s : State) : Host.Outcome State Fault Refusal :=
  match s.nextRing with
  | none => .next s
  | some n => .next (fetchFrom n s)

/-! ### Completion rings -/

/-- R55 to R57, R62: the body of a completion record, bytes 0 to 30. -/
def CplRec.body (r : CplRec) : List Byte :=
  le 4 r.seq ++ le 2 r.opcode ++ le 1 r.status ++ le 1 (b2n r.frame.isSome + 2 * r.ring) ++ le 2 r.detail ++
    le 2 r.index ++ le 4 (r.frame.getD 0).toNat ++ le 8 r.time ++ le 4 r.result ++ le 3 0

/-- R126: the backlog holds an event that must be written before this record. -/
def State.eventOwed (s : State) (c : CplRec) : Bool := s.cmd.backlog.any fun e => e.before != 0 && e.before == c.id

/-- Completion ring `n` can take a record now (R42, R57, R126). -/
def State.cplReady (s : State) (n : Nat) : Bool :=
  let r := s.cplRing n
  r.enable && s.canRequest && r.room 1 &&
    match r.waiting with
    | [] => false
    | c :: _ => !s.eventOwed c

/-- R55 to R57, R62: write the oldest waiting record of ring `n` and free its slot. -/
def writeCompletion (n : Nat) (s : State) : State :=
  let r := s.cplRing n
  match r.waiting with
  | [] => s
  | c :: rest =>
    let s1 := hostStore (r.base + 32 * r.tail) (recordBytes r.phase c.body) s
    let r1 := { r.advance s.uptime with waiting := rest }
    let imm := c.status != St.ok || c.ring == 0
    let s2 := s1.setSlot c.slot {}
    if r1.irqDue imm then raiseMsix r1.vector (s2.setCpl n { r1 with times := [] })
    else s2.setCpl n r1

/-- Write waiting records of ring `n` while it has room. -/
def flushCpl (n : Nat) : Nat → State → State
  | 0, s => s
  | k + 1, s => if s.cplReady n then flushCpl n k (writeCompletion n s) else s

/-- COMPLETION_RECORD_WRITE (R55): the oldest waiting record of completion ring `n`. -/
def execCompletionRecordWrite (n : Nat) (s : State) : Host.Outcome State Fault Refusal :=
  if decide (n < 8) && s.cplReady n then .next (writeCompletion n s) else .next s

/-- The fields of CPL_CFG and EVT_CFG other than ENABLE and LOG2_ENTRIES. -/
def cfgFields (v : Word) (r : RecRing) : RecRing :=
  { r with vector := bitsAt v.toNat 8 6, coalCount := bitsAt v.toNat 16 8, coalTime := bitsAt v.toNat 24 8 }

/-- R47, R56: a record ring after a write of its configuration register, and whether the write is counted under R47.
`lo` and `hi` bound LOG2_ENTRIES. -/
def cfgRing (lo hi : Nat) (v : Word) (r : RecRing) : RecRing × Bool :=
  let en := bitAt v.toNat 0
  let lg := bitsAt v.toNat 4 4
  if lg < lo ∨ hi < lg then (r, true)
  else if r.enable then ({ cfgFields v r with enable := en }, lg != r.log2)
  else if en then
    ({ cfgFields v r with enable := true, log2 := lg, head := 0, tail := 0, phase := true, times := [] }, false)
  else ({ cfgFields v r with log2 := lg }, false)

/-- A write of CMD.CPL_CFG of ring `n`. -/
def writeCplCfg (n : Nat) (v : Word) (s : State) : State :=
  if !s.blocksAnswer || decide (7 < n) then s
  else
    let q := cfgRing 4 12 v (s.cplRing n)
    let s1 := s.setCpl n q.1
    let s2 := if q.2 then regConflict (cplCfgOff n) s1 else s1
    if !(s.cplRing n).enable && q.1.enable then flushCpl n q.1.waiting.length s2 else s2

/-- CPL_RING_ENABLE (R56, R57). -/
def execCplRingEnable (n : Nat) (v : Word) (s : State) : Host.Outcome State Fault Refusal := .next (writeCplCfg n v s)

/-- CPL_RING_DISABLE (R57). -/
def execCplRingDisable (n : Nat) (v : Word) (s : State) : Host.Outcome State Fault Refusal := .next (writeCplCfg n v s)

/-- CPL_RING_CONFIG (R47). -/
def execCplRingConfig (n : Nat) (v : Word) (s : State) : Host.Outcome State Fault Refusal := .next (writeCplCfg n v s)

/-! ### The event ring -/

/-- A write of CMD.EVT_CFG. -/
def writeEvtCfg (v : Word) (s : State) : State :=
  if !s.blocksAnswer then s
  else
    let q := cfgRing 6 14 v s.cmd.evt
    let s1 := s.setEvt q.1
    if q.2 then regConflict evtCfgOff s1 else s1

/-- R59: write the oldest backlogged event if the ring can take it. -/
def drainOne (s : State) : State :=
  match s.cmd.backlog with
  | [] => s
  | e :: rest => if s.evtReady e then writeEvent e { s with cmd := { s.cmd with backlog := rest } } else s

/-- EVT_RING_ENABLE (R56, R59): the backlog starts draining. -/
def execEvtRingEnable (v : Word) (s : State) : Host.Outcome State Fault Refusal := .next (drainOne (writeEvtCfg v s))

/-- EVT_RING_DISABLE (R59). -/
def execEvtRingDisable (v : Word) (s : State) : Host.Outcome State Fault Refusal := .next (writeEvtCfg v s)

/-- EVT_RING_CONFIG (R47). -/
def execEvtRingConfig (v : Word) (s : State) : Host.Outcome State Fault Refusal := .next (writeEvtCfg v s)

/-- EVENT_BACKLOG_DRAIN (R59). -/
def execEventBacklogDrain (s : State) : Host.Outcome State Fault Refusal := .next (drainOne s)

/-- R57: a write of HEAD releases records; out of range it changes nothing. -/
def releaseHead (h : Nat) (r : RecRing) : RecRing :=
  let r1 := { r with head := h }
  { r1 with times := r1.times.drop (r1.times.length - r1.unreleased) }

/-- CPL_PTR_HEAD_WRITE (R57). -/
def execCplPtrHeadWrite (n : Nat) (v : Word) (s : State) : Host.Outcome State Fault Refusal :=
  if !s.blocksAnswer || decide (7 < n) then .next s
  else
    let r := s.cplRing n
    let h := bitsAt v.toNat 0 14
    if r.entries ≤ h then .next (regConflict (cplCfgOff n + 4) s)
    else .next (s.setCpl n (releaseHead h r))

/-- EVT_PTR_HEAD_WRITE (R57). -/
def execEvtPtrHeadWrite (v : Word) (s : State) : Host.Outcome State Fault Refusal :=
  if !s.blocksAnswer then .next s
  else
    let h := bitsAt v.toNat 0 14
    if s.cmd.evt.entries ≤ h then .next (regConflict (evtCfgOff + 4) s)
    else .next (s.setEvt (releaseHead h s.cmd.evt))

/-- R62: the oldest record since the last interrupt has waited COALESCE_TIME microseconds. -/
def RecRing.timerDue (r : RecRing) (now : Nat) : Bool :=
  match r.times with
  | [] => false
  | t :: _ => r.coalTime != 0 && decide (t + 1000 * r.coalTime ≤ now)

/-- COALESCE_TIMER_EXPIRY (R62): completion ring 0 to 7, or 8 for the event ring. -/
def execCoalesceTimerExpiry (n : Nat) (s : State) : Host.Outcome State Fault Refusal :=
  if n < 8 then
    let r := s.cplRing n
    if r.timerDue s.uptime then .next (raiseMsix r.vector (s.setCpl n { r with times := [] })) else .next s
  else if n = 8 && s.cmd.evt.timerDue s.uptime then
    .next (raiseMsix s.cmd.evt.vector (s.setEvt { s.cmd.evt with times := [] }))
  else .next s

end Sys2Proof.Machine
end

