-- ==== Sys2Proof/Machine/TimeCmd.lean ====
section
/-! DEFINITION. Device time and its steps, the TIME commands and the simple TIME events (R389 to R394, R400 to R404). -/

namespace Sys2Proof.Machine

/-! ### The servo and steps of device time (R388, R389, R392) -/

/-- R388: change the servo state; each change raises SERVO_STATE. -/
def setServo (v : Servo) (s : State) : State :=
  if s.time.servo = v then s
  else
    raise Src.time 0x0001 ([BitVec.ofNat 8 s.time.servo.code, BitVec.ofNat 8 v.code] ++ le 4 (unsigned 32 (saturate 32 s.time.offset)))
      (s.withTime fun t =>
        { t with servo := v, inside := 0, outside := 0
                 rateAdj := if v = .grandmaster then 0
                   else if v = .holdover then (t.rates.foldl (· + ·) 0) / Int.ofNat (Nat.max 1 t.rates.length) else t.rateAdj })

/-- R389: a stream of the camera runs. -/
def State.camRunning (s : State) : Bool := s.cam.ctxs.any fun e => e.2.state == .started

/-- R389: device time can be stepped. -/
def State.stepAllowed (s : State) : Bool :=
  !s.scanning && !s.camRunning && !s.axis.axes.any fun e => e.2.enabled

/-- R392: the first firing of a schedule at or after time `now`, at most `n` firings ahead of `k`. -/
def Sched.skipTo (c : Sched) (now : Nat) : Nat :=
  if now ≤ c.time c.k then c.k
  else
    let per := c.ns * 2 ^ 32 + c.frac
    let j := if per = 0 then c.k + 1 else ((now - c.t0) * 2 ^ 32 + per - 1) / per
    let j1 := if now ≤ c.time (j - 1) then j - 1 else if now ≤ c.time j then j else j + 1
    if c.count = 0 then j1 else Nat.min c.count (Nat.max (c.k + 1) j1)

/-- R402: after the last firing the unit of a HOST schedule is free, and TRIGGER_DONE is raised if asked for. -/
def trigDone (u : Nat) (s : State) : State :=
  let x := s.trig u
  if x.sched.left then s
  else
    let s1 := s.setTrig u { x with running := false, holder := if x.holder = .host then .none else x.holder }
    if x.sched.event then raise Src.time 0x0003 (le 1 u ++ le 4 x.sched.made ++ le 4 x.sched.missed) s1 else s1

/-- R392: after a forward step unit `u` does not make the firings whose time has passed. -/
def missFirings (s : State) (u : Nat) : State :=
  let x := s.trig u
  let k := x.sched.skipTo s.time.now
  if !x.running || k ≤ x.sched.k then s
  else
    let n := k - x.sched.k
    let s1 := s.setTrig u { x with
      sched := { x.sched with k := k, missed := x.sched.missed + n }, missed := satAdd 65535 x.missed n }
    trigDone u (raise Src.time 0x0004 (le 1 u ++ le 4 n) s1)

/-- R389, R392: step device time by `d` ns, or find the step blocked; it is then slewed at a free rate. -/
def stepTime (d : Int) (s : State) : State :=
  if s.stepAllowed then
    let s1 := s.withTime fun t => { t with now := (max 0 (Int.ofNat t.now + d)).toNat, stepBlocked := false }
    let s2 := raise Src.time 0x0002 (le 8 (unsigned 64 d) ++ le 1 1) s1
    if 0 < d then (List.range 16).foldl missFirings s2 else s2
  else
    let r := max (-549755814 : Int) (min 549755814 (signed 32 (s.freeNat 32)))
    let s1 := s.useFree.withTime fun t => { t with stepBlocked := true, rateAdj := r }
    if s.time.stepBlocked then s1 else raise Src.time 0x0002 (le 8 (unsigned 64 d) ++ le 1 0) s1

/-! ### Ports (R405) -/

/-- R405: PORT_STATE of port `p`. -/
def portEvent (p : Nat) (s : State) : State :=
  let x := s.port p
  raise Src.time 0x0006 (le 1 p ++ le 1 (b2n x.linkUp) ++ le 1 ((x.ptp.map PortState.code).getD 0)) s

/-- Change the PTP state of port `p`; a change raises PORT_STATE. -/
def setPtp (p : Nat) (v : PortState) (s : State) : State :=
  let x := s.port p
  if x.ptp = some v then s else portEvent p (s.setPort p { x with ptp := some v })

/-- A port that runs PTP as master, slave or on the way there. -/
def State.ptpIs (s : State) (v : PortState) : Bool := [0, 1].any fun p => (s.port p).ptp == some v

/-! ### TIME_PORT_CONFIG (R401) -/

/-- R400: the states in which TIME commands run. -/
def timeStates (s : State) : Bool :=
  s.top.dev == .idle || s.top.dev == .armed || s.top.dev == .run || s.top.dev == .halter

/-- R401: parameters for a port. The pairing of TRANSPARENT and BOUNDARY across the two ports is judged when both ports
run PTP. -/
def portParams (d : Slot) (s : State) : List PF :=
  let role := d.u 10 1
  let udp := d.u 11 1 == 2
  let gptp := d.u 13 1 == 2
  let other := (s.port (1 - d.u 8 1)).cfg
  [inR 9 (d.u 9 1) 0 2,
   need (role ≤ 3 && !(2 ≤ role && (other.role == 1 || (2 ≤ other.role && other.role != role))) &&
     !(role == 1 && 1 ≤ other.role)) 10 Rsn.range,
   inR 11 (d.u 11 1) 1 2, inR 12 (d.u 12 1) 1 2, inR 13 (d.u 13 1) 1 2,
   need (!(gptp && udp)) 11 Rsn.range, need (!(gptp && d.u 12 1 == 1)) 12 Rsn.range,
   need (!(gptp && d.u 14 1 != 0)) 14 Rsn.range, inR 14 (d.u 14 1) 0 127,
   need (d.u 15 1 < 16) 15 Rsn.reserved,
   need (decide (-7 ≤ d.i 18 1) && decide (d.i 18 1 ≤ 4)) 18 Rsn.range,
   need (decide (-3 ≤ d.i 19 1) && decide (d.i 19 1 ≤ 4)) 19 Rsn.range,
   need (decide (-7 ≤ d.i 20 1) && decide (d.i 20 1 ≤ 6)) 20 Rsn.range,
   inR 21 (d.u 21 1) 2 10,
   need (!bitAt (d.u 22 2) 12) 22 Rsn.reserved,
   need (decide (d.u 22 2 % 4096 ≤ 4094) && (!bitAt (d.u 15 1) 3 || decide (1 ≤ d.u 22 2 % 4096))) 22 Rsn.range,
   if udp then none else rz 24 (d.u 24 4),
   need (decide ((d.i 28 4).natAbs ≤ 100000)) 28 Rsn.range, need (decide ((d.i 32 4).natAbs ≤ 100000)) 32 Rsn.range,
   rzb d 44 64]

/-- R401: parameters for the clock. -/
def clockParams (d : Slot) : List PF :=
  [rzb d 9 12, inR 12 (d.u 12 4) 1000 (10 ^ 9), inR 16 (d.u 16 2) 10 10000, inR 18 (d.u 18 1) 1 64, rzb d 20 24, rzb d 32 64]

/-- Checks of TIME_PORT_CONFIG. -/
def timePortChecks : Checks where
  allowed := fun d s => timeStates s &&
    !(d.u 8 1 == 0xFF && d.u 24 8 != 0 && !(s.time.servo == .free || s.time.servo == .grandmaster))
  selector := fun d _ => need (d.u 8 1 ≤ 1 || d.u 8 1 == 0xFF) 8 Rsn.range
  params := fun d s => if d.u 8 1 = 0xFF then clockParams d else portParams d s

/-- The port configuration of a descriptor. -/
def portCfgOf (d : Slot) : PortCfg :=
  { speed := d.u 9 1, role := d.u 10 1, transport := d.u 11 1, delay := d.u 12 1, profile := d.u 13 1, domain := d.u 14 1
    pflags := d.u 15 1, priority1 := d.u 16 1, priority2 := d.u 17 1, logSync := d.i 18 1, logAnnounce := d.i 19 1
    logDelayReq := d.i 20 1, announceTimeout := d.u 21 1, vlan := d.u 22 2, ipv4 := d.u 24 4, ingressPs := d.i 28 4
    egressPs := d.i 32 4, delayAsym := d.i 36 8 }

/-- R388: no port is slave and none is master: the servo is FREE. A transparent clock whose link is up follows a master without
being its slave (DEDUCED from R384, log 70). -/
def freeServo (s : State) : State :=
  if s.ptpIs .slave || s.ptpIs .master || [0, 1].any fun p => (s.port p).cfg.role == 3 && (s.port p).linkUp
    then s else setServo .free s

/-- R401, R405: port `p` starts again with a new configuration. Its PCS link is lost when the rate changes. -/
def configurePort (p : Nat) (c : PortCfg) (s : State) : State :=
  let x := s.port p
  let up := x.linkUp && c.speed == x.cfg.speed && c.speed != 0
  let st : PortState := if c.role = 0 ∨ c.speed = 0 then .disabled else if up then .listening else .initializing
  let y : Port := { cfg := c, linkUp := up, ptp := some st, drop := x.drop, mac := x.mac, annAt := s.uptime, syncAt := s.uptime
                    seqSync := x.seqSync, seqAnn := x.seqAnn, seqDelay := x.seqDelay }
  let s1 := s.setPort p y
  freeServo (if x.linkUp = up ∧ x.ptp = some st then s1 else portEvent p s1)

/-- TIME_PORT_CONFIG (R389, R401, R478). -/
def execTimePortConfig (slot : Nat) (s : State) : Host.Outcome State Fault Refusal :=
  runCmd 0x0B00 slot timePortChecks (fun k d st =>
    if d.u 8 1 = 0xFF then
      let s1 := st.withTime fun t =>
        { t with stepNs := d.u 12 4, lockNs := d.u 16 2, tauS := d.u 18 1, clockClass := d.u 19 1 }
      done k (if d.u 24 8 = 0 then s1 else stepTime (Int.ofNat (d.u 24 8) - Int.ofNat s1.time.now) s1)
    else
      let p := d.u 8 1
      let c := portCfgOf d
      let old := (st.port p).cfg
      let changes := c.speed != old.speed || c.role != old.role
      if changes && st.time.hitch.joined && st.time.hitch.port == p then resourceBusy k 0x0B03 st
      else if changes && p == 1 && st.tan.state != .off then resourceBusy k 0x0E00 st
      else done k (configurePort p c st)) s

/-! ### TIME_TRIGGER (R402) -/

/-- An MFIO pin that the die has and the part lacks. -/
def mfioMissing (s : State) (pin : Nat) : Option Nat :=
  absent (decide (pin < 64)) (decide (pin < s.fuse.part.mfio)) (Cap.mfio pin)

/-- Checks of TIME_TRIGGER. -/
def timeTriggerChecks : Checks where
  allowed := fun _ s => timeStates s
  fused := fun d s => if d.u 9 1 = 3 then mfioMissing s (d.u 10 1) else none
  selector := fun d _ => inR 9 (d.u 9 1) 1 3
  params := fun d s =>
    let act := d.u 9 1
    let unit := inR 8 (d.u 8 1) 0 15
    if act = 3 then
      [unit, need (d.u 10 1 < 64 || d.u 10 1 == 0xFF) 10 Rsn.range, need (d.u 11 1 < 4) 11 Rsn.reserved,
       inR 12 (d.u 12 4) 10 (10 ^ 9), rzb d 16 64]
    else if act = 1 then
      let per := d.u 24 4 * 2 ^ 32 + d.u 28 4
      [unit, rz 10 (d.u 10 1), need (d.u 11 1 == 0 || d.u 11 1 == 4) 11 Rsn.reserved, rz 12 (d.u 12 4),
       need (decide (s.time.now + 1000 ≤ d.u 16 8)) 16 Rsn.range,
       need (if d.u 24 4 = 0 then d.u 32 4 == 1
         else decide (100 ≤ d.u 24 4) && decide (d.u 24 4 ≤ 4 * 10 ^ 9) &&
           decide (2 * (s.trig (d.u 8 1)).width * 2 ^ 32 ≤ per)) 24 Rsn.range,
       rzb d 36 64]
    else [unit, rz 10 (d.u 10 1), rz 11 (d.u 11 1), rzb d 12 64]

/-- R480: a trigger unit other than `u` drives MFIO pin `pin`. -/
def State.pinDriven (s : State) (u pin : Nat) : Bool := s.time.trigs.any fun e => e.1 != u && e.2.pin == pin

/-- R480: an axis switch reads MFIO pin `pin`. -/
def State.pinRead (s : State) (pin : Nat) : Bool :=
  s.axis.axes.any fun e => e.2.lp.pin == pin || e.2.ln.pin == pin || e.2.hm.pin == pin

/-- The level of a pin that unit `x` drives inactive or active. -/
def Trigger.level (x : Trigger) (active : Bool) : Bool := active != x.activeLow

/-- TIME_TRIGGER (R390, R391, R402, R478, R480). -/
def execTimeTrigger (slot : Nat) (s : State) : Host.Outcome State Fault Refusal :=
  runCmd 0x0B01 slot timeTriggerChecks (fun k d st =>
    let u := d.u 8 1
    let x := st.trig u
    if d.u 9 1 = 3 then
      let pin := d.u 10 1
      if x.running then resourceBusy k x.holder.opcode st
      else if pin ≠ 0xFF ∧ st.pinDriven u pin then resourceBusy k 0x0B01 st
      else if pin ≠ 0xFF ∧ st.pinRead pin then resourceBusy k 0x0A00 st
      else
        let y := { x with pin := pin, activeLow := bitAt (d.u 11 1) 0, halterHold := bitAt (d.u 11 1) 1, width := d.u 12 4
                          active := false }
        let s1 := st.setTrig u y
        done k (if pin = 0xFF then s1 else s1.emit (.pin pin (y.level false)))
    else if d.u 9 1 = 1 then
      match st.trigBusy u .host with
      | some op => resourceBusy k op st
      | none =>
        done k (takeTrig u .host
          { t0 := d.u 16 8, ns := d.u 24 4, frac := d.u 28 4, count := d.u 32 4, event := bitAt (d.u 11 1) 2 } st)
    else if x.holder = .host then done k (freeTrig u st)
    else resourceBusy k x.holder.opcode st) s

/-! ### TIME_CAPTURE and the captures (R394, R403) -/

/-- R394: the largest INDEX of a capture source. -/
def captureTop : Nat → Nat
  | 1 => 63 | 2 => 23 | 3 => 7 | 4 => 15 | 5 => 7 | 7 => 15 | _ => 0

/-- Checks of TIME_CAPTURE. -/
def timeCaptureChecks : Checks where
  allowed := fun _ s => timeStates s
  fused := fun d s => if d.u 9 1 = 1 ∧ d.u 10 1 = 1 then mfioMissing s (d.u 11 1) else none
  selector := fun d _ => inR 9 (d.u 9 1) 1 2
  params := fun d _ =>
    let unit := inR 8 (d.u 8 1) 0 15
    if d.u 9 1 = 1 then
      [unit, inR 10 (d.u 10 1) 1 7, inR 11 (d.u 11 1) 0 (captureTop (d.u 10 1)),
       fieldIf (d.u 10 1 ≤ 2) 12 (d.u 12 1) 1 3, fieldIf (d.u 10 1 == 1) 13 (d.u 13 1) 0 255,
       need (d.u 14 1 < 4) 14 Rsn.reserved, rzb d 15 64]
    else [unit, rzb d 10 64]

/-- TIME_CAPTURE (R394, R403). -/
def execTimeCapture (slot : Nat) (s : State) : Host.Outcome State Fault Refusal :=
  runCmd 0x0B02 slot timeCaptureChecks (fun k d st =>
    let c := d.u 8 1
    let x := st.cap c
    done k (if d.u 9 1 = 1 then
      st.setCap c { x with armed := true, source := d.u 10 1, index := d.u 11 1, edge := d.u 12 1, filterNs := d.u 13 1
                           event := bitAt (d.u 14 1) 0, oneShot := bitAt (d.u 14 1) 1, fifo := [], evtAt := none
                           level := none, run := 0 }
      else st.setCap c { x with armed := false })) s

/-- CAPTURE_EDGE (R77, R394): MFIO pin `index` (source 1), or feedback line `index` (source 2), has been sampled `samples` times at
`level`. A pin passes the filter of each unit that captures it, a feedback line that of its channel. -/
def execCaptureEdge (source index : Nat) (level : Bool) (samples : Nat) (s : State) : Host.Outcome State Fault Refusal :=
  let c := s.chan (index / 3)
  if source = 1 then .next ((s.capsOn 1 index).foldl (fun st u => captureSample (s.cap u).filterNs 0 samples level st u) s)
  else if source = 2 then .next ((s.capsOn 2 index).foldl (captureSample c.filterNs (unsigned 32 c.p) samples level) s)
  else .next s

/-- CAP_POP (R406): a write of CAP_POP of capture unit `c`. -/
def execCapPop (c : Nat) (v : Word) (s : State) : Host.Outcome State Fault Refusal :=
  if s.blocksAnswer && decide (c < 16) && v == 1 then
    let x := s.cap c
    .next (s.setCap c { x with fifo := x.fifo.drop 1 })
  else .next s

/-- TRIGGER_PULSE_END (R390): WIDTH_NS after a firing. -/
def execTriggerPulseEnd (unit : Nat) (s : State) : Host.Outcome State Fault Refusal :=
  let x := s.trig unit
  if x.active && decide (x.offAt ≤ s.time.now) then
    .next ((s.setTrig unit { x with active := false }).emit (.pin x.pin (x.level false)))
  else .next s

/-! ### TIME_HITCH (R404) -/

/-- R404: parameters of JOIN. -/
def joinParams (d : Slot) (s : State) : List PF :=
  let m := d.u 9 1
  let mask := d.u 12 2
  let check := d.u 30 1 == 1
  [inR 9 m 0 15, need (d.u 10 1 ≤ 1 && (s.port (d.u 10 1)).cfg.speed != 0) 10 Rsn.range, rzb d 11 12,
   need (bitAt mask m && mask != 2 ^ m) 12 Rsn.range,
   need (d.u 20 6 == 0 || bitAt (d.u 20 1) 0) 20 Rsn.range,
   need (d.u 26 2 == 0 || (100 ≤ d.u 26 2 && d.u 26 2 ≤ 50000)) 26 Rsn.range,
   need (d.u 28 2 == 0 || (200 ≤ d.u 28 2 && d.u 28 2 ≤ 50000)) 28 Rsn.range,
   need (d.u 30 1 ≤ 1 && !(check && s.top.mode == .lightfield)) 30 Rsn.range,
   if check then need (d.u 31 1 < 16 && d.u 31 1 != m && bitAt mask (d.u 31 1)) 31 Rsn.range else rz 31 (d.u 31 1),
   fieldIf check 32 (d.u 32 4) 1 65535, rzb d 36 64]

/-- Checks of TIME_HITCH. -/
def timeHitchChecks : Checks where
  allowed := fun d s => timeStates s && !s.prn.job.isOpen && !s.scanning && !(d.u 8 1 == 1 && s.time.hitch.joined)
  selector := fun d _ => inR 8 (d.u 8 1) 1 2
  params := fun d s => if d.u 8 1 = 1 then joinParams d s else [inR 9 (d.u 9 1) 0 15, rzb d 10 64]

/-- R404: a value of 0 selects the default. -/
def orDefault (v dflt : Nat) : Nat := if v = 0 then dflt else v

/-- R404: a hitch commit that is waiting ends. -/
def dropHitchCommits (status detail : Nat) (keep : HitchCommit → Bool) (s : State) : State :=
  let gone := s.frames.hitch.filter fun c => !keep c
  gone.foldl (fun st c => if st.running c.slot c.id then complete c.slot status detail 0 none st else st)
    (s.withFrames fun x => { x with hitch := x.hitch.filter keep })

/-- TIME_HITCH (R404, R478). -/
def execTimeHitch (slot : Nat) (s : State) : Host.Outcome State Fault Refusal :=
  runCmd 0x0B03 slot timeHitchChecks (fun k d st =>
    let h := st.time.hitch
    if d.u 8 1 = 2 then
      let s1 := dropHitchCommits St.aborted 0x0B03 (fun _ => false) st
      done k (s1.withHitch fun x =>
        { sentSeq := x.sentSeq, applied := x.applied, seen := x.seen, diverge := x.diverge })
    else if d.u 10 1 = 1 ∧ st.tan.state ≠ .off then resourceBusy k 0x0E00 st
    else
      let m := d.u 9 1
      done k (st.withHitch fun _ =>
        { joined := true, member := m, port := d.u 10 1, mask := d.u 12 2, etherType := orDefault (d.u 14 2) 0x88B5
          hitchId := d.u 16 4, dest := orDefault (d.u 20 6) 0x0048395A4C03, waitUs := orDefault (d.u 26 2) 500
          leadUs := orDefault (d.u 28 2) 1000, webCheck := d.u 30 1 == 1, webSource := d.u 31 1
          webTol := if d.u 30 1 = 1 then d.u 32 4 else 4, sentSeq := h.sentSeq, applied := h.applied, seen := h.seen
          diverge := h.diverge, present := [m], devIds := Tab.put 0 [] m (st.fuse.deviceId.toNat + 1), helloAt := st.uptime
          sampleAt := st.time.now })) s

end Sys2Proof.Machine
end

