-- ==== Sys2Proof/Machine/AxisRun.lean ====
section
/-! DEFINITION. The motion engine at work: servo periods, buses, switches, homing, faults, stops and Halter (R351 to R359,
R364 to R375). -/

namespace Sys2Proof.Machine

/-! ### Access -/

/-- Change the AXIS block. -/
def State.withAxis (s : State) (f : Motion → Motion) : State := { s with axis := f s.axis }

/-- Axis `a`. -/
def State.ax (s : State) (a : Nat) : Axis := Tab.get {} s.axis.axes a

/-- Set axis `a`. -/
def State.setAx (s : State) (a : Nat) (x : Axis) : State := s.withAxis fun m => { m with axes := Tab.put {} m.axes a x }

/-- The axes 0 to 15. -/
def allAxes : List Nat := List.range 16

/-- The running group move of group `g`. -/
def State.move (s : State) (g : Nat) : GroupMove := Tab.get {} s.axis.moves g

/-- Set the running group move of group `g`. -/
def State.setMove (s : State) (g : Nat) (m : GroupMove) : State := s.withAxis fun x => { x with moves := Tab.put {} x.moves g m }

/-- Configured limits of an axis. -/
def AxisCfg.limits (c : AxisCfg) : Limits := limitsOf c.vmax c.amax c.dmax c.jerk

/-- Limits of a quick stop. -/
def AxisCfg.quick (c : AxisCfg) : Int := Int.ofNat c.qstop * 65536 * aScale

/-- R352: position in whole AU. -/
def wholeAu (p : Int) : Int := Int.fdiv p 65536

/-- R352: the output position in steps or drive counts. -/
def Axis.outCount (x : Axis) (p : Int) : Int := Int.fdiv ((p - x.off) * Int.ofNat x.cfg.outNum) (65536 * Int.ofNat x.cfg.outDen)

/-- R352: a position from drive counts. -/
def Axis.fromOut (x : Axis) (n : Int) : Int :=
  -Int.fdiv (-(n * 65536 * Int.ofNat x.cfg.outDen)) (Int.ofNat (Nat.max 1 x.cfg.outNum)) + x.off

/-- R352: a position from feedback counts. -/
def Axis.fromFb (x : Axis) (n : Int) : Int :=
  Int.fdiv (n * 65536 * Int.ofNat x.cfg.fbDen) (Int.ofNat (Nat.max 1 x.cfg.fbNum)) + x.off

/-- R381: the opcode of the command that moves an axis; 0 none. -/
def Axis.moverOp (x : Axis) : Nat :=
  if x.cal || x.held then 0x0901 else match x.mode with
    | .move => 0x0A02 | .group => 0x0A03 | .home => 0x0A01 | .rest => 0 | .stopping => 0

/-! ### Step outputs (R354) -/

/-- R354: SDk_EN of the step output of axis `a` shows whether the axis is enabled, with the polarity of EN_LOW. -/
def driveEnable (a : Nat) (s : State) : State :=
  let x := s.ax a
  if x.cfg.given && !x.cfg.bus then s.emit (.stepEnable x.cfg.index (x.enabled != x.cfg.enLow)) else s

/-- R352, R354: the floor of the position to which the output has moved by now, in steps: linear, over the period, between the
output positions of the previous set-point and of the new one. -/
def State.stepGoal (s : State) (x : Axis) : Int :=
  let per := 1000 * s.axis.periodUs
  let t := Nat.min per (s.time.now - s.axis.lastTrig)
  let a := x.outCount x.prev
  let b := x.outCount x.cmd.pos
  if per = 0 then b else a + Int.fdiv ((b - a) * Int.ofNat t) (Int.ofNat per)

/-- R354: step output of axis `a` at this nanosecond: SDk_DIR turns as soon as the next step is in the new direction; a step waits
until DIR has stood for DIR_SETUP_NS and SDk_STEP has been low for STEP_WIDTH_NS. SDk_DIR is high for negative motion, or for
positive motion with INVERT_DIR (DESIGN CHOICE, log 69). -/
def stepOut (s : State) (a : Nat) : State :=
  let x := s.ax a
  let goal := s.stepGoal x
  if !x.enabled || x.cfg.bus || s.top.dev == .tripped || goal == x.stepAt then s
  else
    let neg := decide (goal < x.stepAt)
    if x.dirNeg != neg then
      (s.setAx a { x with dirNeg := neg, dirAt := s.uptime }).emit (.stepDir x.cfg.index s.time.now (neg != x.cfg.invert))
    else
      let low := match x.stepRise with
        | some r => decide (r + 2 * x.cfg.stepWidth ≤ s.uptime)
        | none => true
      if decide (s.uptime < x.dirAt + x.cfg.dirSetup) || !low then s
      else
        (s.setAx a { x with stepAt := x.stepAt + (if neg then -1 else 1), stepRise := some s.uptime }).emit
          (.step x.cfg.index s.time.now x.cfg.stepWidth)

/-- R354: what the step outputs do in this nanosecond. -/
def stepOutputs (s : State) : State := allAxes.foldl stepOut s

/-- R371, R374: where an axis that stops at once stands: at the position of its last step, or of its last set-point. -/
def Axis.standing (x : Axis) : Int :=
  if x.cfg.bus || x.outCount x.cmd.pos == x.stepAt then x.cmd.pos else x.fromOut x.stepAt

/-- R352, R364: the position of axis `a` now: that of its counting feedback, that of the latest period, or without feedback the
commanded position, linear over the period. -/
def State.axisPos (s : State) (a : Nat) : Int :=
  let x := s.ax a
  let ch := s.chan x.cfg.fbCh
  let per := 1000 * s.axis.periodUs
  if x.cfg.feedback = 1 ∧ ch.mode ≠ .ssi then x.fromFb ch.p
  else if x.cfg.feedback ≠ 0 then x.actual
  else if per = 0 ∨ !x.enabled then x.cmd.pos
  else x.prev + Int.fdiv ((x.cmd.pos - x.prev) * Int.ofNat (Nat.min per (s.time.now - s.axis.lastTrig))) (Int.ofNat per)

/-! ### The end of commands -/

/-- The command that moves axis `a` completes; the axis stops or rests. -/
def endAxisCmd (a status detail result : Nat) (mode : AxMode) (s : State) : State :=
  let x := s.ax a
  let s1 := s.setAx a { x with mode := mode, slot := 0, id := 0, cal := false, flags := 0, homing := {} }
  let s2 := if x.cal && status != St.ok then s1.withAxis fun m => { m with calLost := true } else s1
  if x.id != 0 && s2.running x.slot x.id then complete x.slot status detail result none s2 else s2

/-- The axes of the running move of group `g` leave it. -/
def dissolveMove (g : Nat) (mode : AxMode) (s : State) : State :=
  (s.move g).axes.foldl (fun st e =>
    let x := st.ax e.1
    if x.mode = .group ∧ x.group = g then st.setAx e.1 { x with mode := mode, group := 7, cal := false } else st)
    (s.setMove g {})

/-- The command of the running move of group `g` completes; its axes stop along the path. -/
def endMoveCmd (g status detail : Nat) (s : State) : State :=
  let m := s.move g
  let s1 := s.setMove g { m with slot := 0, id := 0, cal := false }
  let s2 := if m.cal && status != St.ok then s1.withAxis fun x => { x with calLost := true } else s1
  if m.id != 0 && s2.running m.slot m.id then complete m.slot status detail 0 none s2 else s2

/-- R371: every axis of group `g` stops together along its path; the command ends with a status. -/
def stopMove (g status detail : Nat) (s : State) : State :=
  let m := s.move g
  let per := m.axes.map fun e =>
    let c := (s.ax e.1).cfg
    (1, 1, c.qstop, c.jerk, e.2.2)
  let l := groupLimits per
  endMoveCmd g status detail (s.setMove g { m with legs := [stopLeg m.path l.d l.j] })

/-- Axis `a` comes to a stop with a deceleration. -/
def brake (a : Nat) (decel : Int) (s : State) : State :=
  let x := s.ax a
  if x.cmd.moves then s.setAx a { x with legs := [stopLeg x.cmd decel x.cfg.limits.j] }
  else s.setAx a { x with legs := [], mode := if x.mode = .home then .home else .rest }

/-- R353, R391: with no axis enabled the engine gives its trigger unit back. -/
def settleEngine (s : State) : State :=
  if s.axis.running && !s.axis.axes.any fun e => e.2.enabled then
    let s1 := s.withAxis fun m => { m with running := false }
    match s.axis.trigger with
    | some u => if (s.trig u).holder = .motion then freeTrig u s1 else s1
    | none => s1
  else s

/-- The axis stops where it is and is disabled. -/
def disableAxis (a : Nat) (s : State) : State :=
  let x := s.ax a
  let p := x.standing
  settleEngine (driveEnable a (s.setAx a
    { x with enabled := false, legs := [], cmd := Motn.atRest p, prev := p, mode := .rest, group := 7 }))

/-! ### Faults (R371) -/

/-- R371: axis `a` takes a fault: its command ends, the reaction applies, AXIS_FAULT is raised. -/
def axisFault (a : Nat) (f : AxFault) (s : State) : State :=
  let x := s.ax a
  if x.fault ≠ .none then s
  else
    let s1 := s.setAx a { x with fault := f }
    let g := x.group
    let s2 := if x.mode = .group then stopMove g St.hwFault f.code s1
      else endAxisCmd a St.hwFault f.code 0 .stopping s1
    let off := f = .driveSilent ∨ f = .driveFault ∨ (f = .stall ∧ x.cfg.stallDisable)
    let s3 := if off then
        let st := if x.mode = .group then
            s2.setMove g { s2.move g with axes := (s2.move g).axes.filter fun e => e.1 != a }
          else s2
        disableAxis a st
      else if x.mode = .group then s2
      else brake a x.cfg.quick s2
    raise Src.axis 0x0001 (le 1 a ++ le 2 f.code ++ le 4 (unsigned 32 (wholeAu x.cmd.pos)) ++ le 4 (unsigned 32 (wholeAu x.actual))) s3

/-! ### Homing (R368, R369) -/

/-- The direction of a homing's search. -/
def Homing.dir (h : Homing) : Int := if h.neg then -1 else 1

/-- A homing goes on at a constant speed, in AU/s. -/
def homeJog (a : Nat) (ph : HomePhase) (v : Int) (s : State) : State :=
  let x := s.ax a
  s.setAx a { x with homing := { x.homing with phase := ph }, legs := [jogLeg x.cmd (v * 65536 * vScale) x.cfg.limits] }

/-- R368: a homing ends with the axis stopped. -/
def homeStop (a : Nat) (ph : HomePhase) (decel : Int) (s : State) : State :=
  let x := s.ax a
  brake a decel (s.setAx a { x with homing := { x.homing with phase := ph } })

/-- R368: every position of axis `a` moves by `d` (2^-16 AU). -/
def shiftAxis (a : Nat) (d : Int) (s : State) : State :=
  let x := s.ax a
  s.setAx a { x with
    cmd := { x.cmd with x := x.cmd.x + d * xScale }, prev := x.prev + d, actual := x.actual + d, target := x.target + d
    legs := x.legs.map fun l => { l with stop := l.stop + d }, off := x.off + d
    homing := { x.homing with origin := x.homing.origin + d }
    lp := { x.lp with firstPos := x.lp.firstPos + d }, ln := { x.ln with firstPos := x.ln.firstPos + d }
    hm := { x.hm with firstPos := x.hm.firstPos + d } }

/-- R368: the position `p` is latched: it becomes HOME_POS, HOMED is set, and the axis stops. -/
def latchHome (a : Nat) (p : Int) (s : State) : State :=
  let x := s.ax a
  let s1 := shiftAxis a (x.homing.homePos * 65536 - p) s
  homeStop a .finish (s1.ax a).cfg.limits.d (s1.setAx a { s1.ax a with homed := true })

/-- R368: the reference input of a homing: 0 LIMIT_POS, 1 LIMIT_NEG, 2 HOME. -/
def Homing.refInput (h : Homing) : Nat := if h.method = 3 then (if h.neg then 1 else 0) else 2

/-- A switch input of an axis. -/
def Axis.input (x : Axis) (i : Nat) : SwitchIn := match i with
  | 0 => x.lp | 1 => x.ln | _ => x.hm

/-- Set a switch input of an axis. -/
def Axis.setInput (x : Axis) (i : Nat) (w : SwitchIn) : Axis := match i with
  | 0 => { x with lp := w } | 1 => { x with ln := w } | _ => { x with hm := w }

/-- R369: the limit in DIR is met during the search. -/
def homeLimit (a : Nat) (s : State) : State :=
  let x := s.ax a
  if x.revSearch then homeStop a .limStop x.cfg.quick s else axisFault a .homingLimit s

/-- R368, R369: an accepted change of an input during a homing. -/
def homeSwitch (a i : Nat) (active : Bool) (p : Int) (s : State) : State :=
  let x := s.ax a
  let h := x.homing
  let inDir := if h.neg then 1 else 0
  let slow := -h.dir * Int.ofNat h.latchV
  if i = h.refInput then
    match h.phase with
    | .search => if active then homeStop a .searchStop x.cfg.limits.d s else s
    | .reverse => if active then homeJog a .latch slow s else s
    | .latch =>
      if active then s
      else if h.method = 2 then s.setAx a { x with homing := { h with phase := .index } }
      else latchHome a p s
    | .searchStop => s
    | .limStop => s
    | .index => s
    | .finish => s
    | .lost => s
    | .none => s
  else if i < 2 ∧ active then
    if h.method = 3 then axisFault a .homingLimit s
    else if i = inDir then (if h.phase = .search then homeLimit a s else s)
    else if h.phase = .reverse then axisFault a .homingLimit s
    else s
  else s

/-- R368: the axis of a homing has come to rest. -/
def homeRest (a : Nat) (s : State) : State :=
  let x := s.ax a
  let h := x.homing
  match h.phase with
  | .searchStop => homeJog a .latch (-h.dir * Int.ofNat h.latchV) s
  | .limStop =>
    if (x.input h.refInput).active then homeJog a .latch (-h.dir * Int.ofNat h.latchV) s
    else homeJog a .reverse (-h.dir * Int.ofNat h.searchV) s
  | .finish => endAxisCmd a St.ok 0 (unsigned 32 (wholeAu x.cmd.pos)) .rest s
  | .lost => endAxisCmd a St.hwFault 8 0 .rest s
  | .search => s
  | .reverse => s
  | .latch => s
  | .index => s
  | .none => s

/-- R368: the axis has travelled more than MAX_TRAVEL. -/
def homeTravel (a : Nat) (s : State) : State :=
  let x := s.ax a
  let h := x.homing
  if x.mode = .home ∧ 0 < h.travel ∧ h.phase ≠ .lost ∧ h.phase ≠ .finish ∧
      Int.ofNat (h.travel * 65536) < Int.ofNat (x.cmd.pos - h.origin).natAbs then
    homeStop a .lost x.cfg.limits.d s
  else s

/-- R368: an index event of feedback channel `ch` ends a homing that waits for it. -/
def homeIndex (ch : Nat) (s : State) : State :=
  allAxes.foldl (fun st a =>
    let x := st.ax a
    if x.mode = .home ∧ x.homing.phase = .index ∧ x.cfg.feedback = 1 ∧ x.cfg.fbCh = ch then latchHome a (x.fromFb (st.chan ch).p) st
    else st) s

/-! ### Limits (R365, R366) -/

/-- R365: the direction in which an axis moves; 0 at rest. -/
def Axis.heading (x : Axis) : Int :=
  if x.cmd.v < 0 then -1 else if 0 < x.cmd.v then 1
  else if x.legs.isEmpty then 0 else if x.target * xScale < x.cmd.x then -1 else 1

/-- R365: the direction of an axis in the running move of group `g`. -/
def State.groupHeading (s : State) (g a : Nat) : Int :=
  match (s.move g).axes.find? fun e => e.1 == a with
  | some e => if e.2.2 < 0 then -1 else if 0 < e.2.2 then 1 else 0
  | none => 0

/-- R365: limit input `i` of axis `a` becomes active outside homing. -/
def tripLimit (a i : Nat) (s : State) : State :=
  let x := s.ax a
  let dir : Int := if i = 0 then 1 else -1
  let code := if i = 0 then 6 else 7
  match x.mode with
  | .move => if x.heading = dir then brake a x.cfg.quick (endAxisCmd a St.hwFault code 0 .stopping s) else s
  | .group => if s.groupHeading x.group a = dir then stopMove x.group St.hwFault code s else s
  | .stopping => if x.heading = dir then brake a x.cfg.quick s else s
  | .rest => s
  | .home => s

/-- R366: changes of an input in the last CHATTER_MS. -/
def Axis.chatter (x : Axis) (now : Nat) (w : SwitchIn) : Nat :=
  (w.changes.filter fun t => decide (now < t + x.chatterMs * 10 ^ 6)).length

/-- R364 to R366, R369, R380: an accepted change of input `i` of axis `a`; `p` is the position latched (2^-16 AU). -/
def switchChange (a i : Nat) (active : Bool) (p : Int) (s : State) : State :=
  let x := s.ax a
  let w := x.input i
  if w.pin = 0xFF ∨ w.active = active then s
  else
    let due := match w.evtAt with
      | none => true
      | some t => decide (t + 10 ^ 6 ≤ s.uptime)
    let w1 := { w with
      active := active, changes := (w.changes.filter fun t => decide (s.uptime < t + x.chatterMs * 10 ^ 6)) ++ [s.uptime]
      evtAt := if due then some s.uptime else w.evtAt }
    let s1 := s.setAx a (x.setInput i w1)
    let s2 := if due then raise Src.axis 0x0002 (le 1 a ++ le 1 i ++ le 1 (b2n active) ++ le 4 (unsigned 32 (wholeAu p))) s1 else s1
    let s3 := if x.mode = .home then homeSwitch a i active p s2 else if i < 2 ∧ active then tripLimit a i s2 else s2
    if i < 2 ∧ x.chatterCount < (s3.ax a).chatter s.uptime w1 then axisFault a .limitChatter s3 else s3

/-- R364: a sample of input `i` of axis `a`, taken every 1 µs, at `level`; FILTER_US consecutive samples at the other level make
a change, whose position is that at the first of them. -/
def switchSample (a i : Nat) (level : Bool) (s : State) : State :=
  let x := s.ax a
  let w := x.input i
  let early := match w.sampledAt with
    | some t => decide (s.uptime < t + 1000)
    | none => false
  if decide (2 < i) || w.pin == 0xFF || early then s
  else
    let w0 := { w with sampledAt := some s.uptime }
    if (level != w.low) == w.active then s.setAx a (x.setInput i { w0 with run := 0 })
    else
      let p := if w.run = 0 then s.axisPos a else w.firstPos
      if w.run + 1 < x.filterUs then s.setAx a (x.setInput i { w0 with run := w.run + 1, firstPos := p })
      else switchChange a i (level != w.low) p (s.setAx a (x.setInput i { w0 with run := 0, firstPos := p }))

/-! ### Following error (R370) -/

/-- The device is in Halter. -/
def State.inHalter (s : State) : Bool := s.top.dev == .halter || s.top.dev == .fault

/-- R353, R370: axis `a` has its sample of the period: the following error and its count. -/
def sampleAxis (a : Nat) (act : Int) (s : State) : State :=
  let x := s.ax a
  let fe := x.prev - act
  let x1 := { x with actual := act, fe := fe }
  let checked := x.enabled && x.cfg.feedback != 0 && decide (0 < x.cfg.feWindow) && x.feHold == 0 && !s.inHalter
  let beyond := decide (Int.ofNat (x.cfg.feWindow * 65536) < Int.ofNat fe.natAbs)
  let n := if checked && beyond then x.feRun + 1 else 0
  let s1 := s.setAx a { x1 with feRun := n, feHold := if s.inHalter then x.cfg.feCount else x.feHold - 1 }
  if x.cfg.feCount ≤ n then axisFault a .stall s1 else s1

/-! ### Buses (R356 to R359) -/

/-- R356: CRC-16 with polynomial 0x1021 from 0xFFFF. -/
def crc16 (bs : List Byte) : Nat :=
  bs.foldl (fun c b => (List.range 8).foldl (fun c _ => if c ≥ 32768 then Nat.xor (c * 2 % 65536) 0x1021 else c * 2 % 65536)
    (Nat.xor c (b.toNat * 256))) 0xFFFF

/-- The axis configured on a slot of a bus. -/
def State.slotAxis (s : State) (bus k : Nat) : Option Nat :=
  allAxes.find? fun a => let c := (s.ax a).cfg; c.given && c.bus && c.index == k + 8 * bus

/-- R356: n, the highest configured slot of a bus plus 1. -/
def State.busSlots (s : State) (bus : Nat) : Nat :=
  (List.range 8).foldl (fun m k => if (s.slotAxis bus k).isSome then k + 1 else m) 0

/-- R358: T_bus in units of 0.1 µs. -/
def busCycle (n : Nat) : Nat := if n = 0 then 0 else 52 + 130 * n

/-- R374: HOLD of a bus axis. -/
def State.holdBit (s : State) (x : Axis) : Bool := x.enabled && (s.top.dev == .halter || s.top.dev == .fault) && x.mode == .rest

/-- R356: the set-point frame of a bus. -/
def State.setpoints (s : State) (bus : Nat) : List Byte :=
  let body := [0x51#8] ++ le 1 (s.axis.periodNo % 256) ++ (List.range (s.busSlots bus)).flatMap fun k =>
    match s.slotAxis bus k with
    | none => List.replicate 5 0
    | some a =>
      let x := s.ax a
      le 4 (unsigned 32 (x.outCount x.cmd.pos)) ++
        le 1 (b2n x.enabled + 2 * b2n (s.holdBit x) + 4 * b2n x.clearFault)
  body ++ le 2 (crc16 body)

/-- R356: the time that `n` characters take, in ns. -/
def charsNs (n : Nat) : Nat := 800 * n

/-- R356, R357: the set-point frame of a bus goes out: it begins 1.0 µs after the trigger, and AXBn_DE is asserted from 0.5 µs
before it until 0.5 µs after it. -/
def sendSetpoints (bus : Nat) (s : State) : State :=
  let f := s.setpoints bus
  let t := s.axis.lastTrig + 1000
  s.emit (.rs485 bus (t - 500) t f (t + charsNs f.length + 500))

/-- R357, R359: the reply window of slot `k` of a bus has closed. -/
def State.windowOver (s : State) (bus k : Nat) : Bool :=
  decide (s.axis.lastTrig + 1000 + charsNs (4 + 5 * s.busSlots bus) + 3000 + 9000 * k ≤ s.time.now)

/-- R356, R359: send the set-point frame of a bus; every configured drive owes a reply. -/
def sendBus (s : State) (bus : Nat) : State :=
  if s.busSlots bus = 0 then s
  else
    let s1 := sendSetpoints bus s
    allAxes.foldl (fun st a =>
      let x := st.ax a
      if x.cfg.given && x.cfg.bus && x.cfg.index / 8 == bus then st.setAx a { x with replied := false, clearFault := false } else st) s1

/-- R352: a 32-bit count as the full count nearest to `near`. -/
def unwrap32 (near : Int) (n : Nat) : Int := near + signed 32 (unsigned 32 (Int.ofNat n - near))

/-- R357, R359: a reply that begins `startNs` after the set-point frame; the axis it serves and whether it was good. -/
def busReply (bus : Nat) (bs : List Byte) (startNs : Nat) (s : State) : State :=
  if bs.length ≠ 10 ∨ numAt bs 8 2 ≠ crc16 (bs.take 8) then
    s.withAxis fun m => { m with crcErr := Tab.upd 0 m.crcErr bus fun n => satAdd 65535 n 1 }
  else
    let k := byteAt bs 2
    match s.slotAxis bus k with
    | none => s
    | some a =>
      let x := s.ax a
      let at' := 2000 + 9000 * k
      if byteAt bs 0 ≠ 0x52 ∨ byteAt bs 1 ≠ s.axis.periodNo % 256 ∨ at' + 1000 < startNs ∨ startNs + 1000 < at' ∨ x.replied then s
      else
        let s1 := s.setAx a { x with replied := true, missRun := 0 }
        let act := x.fromOut (unwrap32 (x.outCount x.prev) (numAt bs 3 4))
        let s2 := if x.cfg.feedback = 2 then sampleAxis a act s1 else s1
        if bitAt (byteAt bs 7) 1 then axisFault a .driveFault s2 else s2

/-- R359: the reply window of a slot closes. -/
def windowEnd (bus k : Nat) (s : State) : State :=
  match s.slotAxis bus k with
  | none => s
  | some a =>
    let x := s.ax a
    if x.replied || !s.windowOver bus k then s
    else
      let hold := if s.inHalter then x.cfg.feCount else x.feHold - 1
      let s1 := s.setAx a { x with
        replied := true, feHold := if x.cfg.feedback = 2 then hold else x.feHold, busMiss := satAdd 65535 x.busMiss 1, missRun := x.missRun + 1 }
      if 3 ≤ x.missRun + 1 ∧ x.enabled then axisFault a .driveSilent s1 else s1

/-! ### The servo period (R353, R354) -/

/-- R81, R353: the trigger begins an SSI read: SSI_BITS bits are clocked out of the channel at SSI_CLOCK_KHZ. -/
def startSsi (ch : Nat) (s : State) : State :=
  let c := s.chan ch
  (s.setChan ch { c with ssiStart := some s.time.now }).emit (.ssiClock ch c.ssiBits c.ssiClock)

/-- R353: sample an axis at the trigger. An axis with an SSI channel begins its read, and it or a drive has its sample later. -/
def sampleNow (s : State) (a : Nat) : State :=
  let x := s.ax a
  if !x.enabled then s
  else if x.cfg.feedback = 0 then sampleAxis a x.prev s
  else if x.cfg.feedback = 1 ∧ (s.chan x.cfg.fbCh).mode ≠ .ssi then sampleAxis a (x.fromFb (s.chan x.cfg.fbCh).p) s
  else if x.cfg.feedback = 1 then startSsi x.cfg.fbCh s
  else s

/-- R353: the commanded position for this trigger. -/
def beginPeriod (s : State) (a : Nat) : State :=
  let x := s.ax a
  s.setAx a { x with prev := x.cmd.pos }

/-- R361, R368: an axis whose legs have ended rests. -/
def restAxis (s : State) (a : Nat) : State :=
  let x := s.ax a
  if !x.legs.isEmpty || x.cmd.moves then s
  else
    match x.mode with
    | .move => endAxisCmd a St.ok x.flags (unsigned 32 (wholeAu x.cmd.pos)) .rest s
    | .home => homeRest a s
    | .stopping => s.setAx a { x with mode := .rest }
    | .rest => s
    | .group => s

/-- R353: an axis moves on to its next set-point. -/
def advanceAxis (s : State) (a : Nat) : State :=
  let x := s.ax a
  if !x.enabled then s
  else
    let r := if x.mode = .group then (x.cmd, x.legs) else follow (legParts x.legs) (1000 * s.axis.periodUs) x.cmd x.legs
    homeTravel a (s.setAx a { x with cmd := r.1, legs := r.2 })

/-- R363: a group moves on along its path. -/
def advanceMove (s : State) (g : Nat) : State :=
  let m := s.move g
  if m.axes.isEmpty then s
  else if m.legs.isEmpty then
    dissolveMove g .rest (endMoveCmd g St.ok 0 s)
  else
    let r := follow (legParts m.legs) (1000 * s.axis.periodUs) m.path m.legs
    let m1 := { m with path := r.1, legs := r.2 }
    m.axes.foldl (fun st e =>
      let x := st.ax e.1
      let at' := e.2.1 + Int.fdiv (e.2.2 * r.1.pos) (2 ^ 48)
      st.setAx e.1 { x with cmd := { x := at' * xScale, v := Int.fdiv (e.2.2 * r.1.v) (2 ^ 48), a := Int.fdiv (e.2.2 * r.1.a) (2 ^ 48) } })
      (s.setMove g m1)

/-- R373: an AXIS_STOP whose axes all rest completes. -/
def settleStops (s : State) : State :=
  let rests := fun (a : Nat) => (s.ax a).mode == .rest || !(s.ax a).enabled
  let beyond := s.axis.stops.filter fun e => e.2.2.all rests
  beyond.foldl (fun st e => if st.running e.1 e.2.1 then done e.1 st else st)
    (s.withAxis fun m => { m with stops := m.stops.filter fun e => !e.2.2.all rests })

/-- R353: one servo trigger. -/
def servoPeriod (s : State) : State :=
  if !s.axis.running then s
  else
    let en := allAxes.filter fun a => (s.ax a).enabled
    let s0 := en.foldl beginPeriod (s.withAxis fun m => { m with periodNo := m.periodNo + 1, lastTrig := s.time.now })
    let s1 := en.foldl sampleNow s0
    let s2 := en.foldl restAxis s1
    let s3 := (List.range 4).foldl advanceMove s2
    let s4 := en.foldl advanceAxis s3
    settleStops ([0, 1].foldl sendBus s4)

/-! ### Halter (R374) -/

/-- R374: axis `a` enters Halter. -/
def haltAxis (detail : Nat) (s : State) (a : Nat) : State :=
  let x := s.ax a
  if !x.enabled then s
  else
    let p := x.standing
    let s1 := if x.mode = .group then endMoveCmd x.group St.aborted detail s else endAxisCmd a St.aborted detail 0 .rest s
    s1.setAx a { s1.ax a with cmd := Motn.atRest p, prev := p, legs := [], mode := .rest, group := 7, feRun := 0, feHold := x.cfg.feCount }

/-- R374: the device state becomes HALTER or FAULT. -/
def haltAxes (cause : Cause) (s : State) : State :=
  let s1 := allAxes.foldl (haltAxis (0xFF00 + cause.code)) s
  settleStops (s1.withAxis fun m => { m with moves := [] })

end Sys2Proof.Machine
end

