-- ==== Sys2Proof/Machine/AxisCmd.lean ====
section
/-! DEFINITION. The AXIS commands (R353, R355, R358, R361 to R363, R365, R367, R372, R373, R375 to R379). -/

namespace Sys2Proof.Machine

/-! ### Shared checks -/

/-- R33: axis `a` is absent from the part. -/
def axisMissing (s : State) (a : Nat) : Option Nat :=
  absent (decide (a < 16)) (decide (a < s.fuse.part.axes)) (Cap.axis a)

/-- R376: the states in which AXIS_CONFIG and AXIS_STOP run. -/
def axisStates (s : State) : Bool :=
  s.top.dev == .idle || s.top.dev == .armed || s.top.dev == .run || s.top.dev == .halter

/-- R376: the states in which moves run. -/
def moveStates (s : State) : Bool := s.top.dev == .armed || s.top.dev == .run || s.top.dev == .halter

/-- R363: the opcode of the command that still moves axis `a`; an AXIS_STOP where one brings it to rest, else 0. -/
def State.movingOp (s : State) (a : Nat) : Nat :=
  let x := s.ax a
  if x.moverOp = 0 ∧ x.mode = .stopping ∧ s.axis.stops.any (fun e => e.2.2.contains a) then 0x0A04 else x.moverOp

/-- The axis rests and no command or calibration run has it. -/
def Axis.idle (x : Axis) : Bool := x.mode == .rest && !x.cal && !x.held

/-- R358: a servo period (0.1 µs) leaves room for `n` slots. -/
def busFits (periodUs n : Nat) : Bool := n == 0 || decide (busCycle n + 50 ≤ 10 * periodUs)

/-- R353: the SSI read of channel `c` ends before the next trigger. -/
def Channel.ssiFits (c : Channel) (periodUs : Nat) : Bool :=
  c.mode != .ssi || decide (c.ssiBits * 10 ^ 6 + 20000 * c.ssiClock < 1000 * periodUs * c.ssiClock)

/-! ### AXIS_CONFIG (R353, R355, R358, R362, R372, R377) -/

/-- The axis configuration of a descriptor (R377). -/
def axisCfgOf (d : Slot) : AxisCfg :=
  let step := d.u 10 1 == 1
  { given := true, bus := !step, index := d.u 11 1, feedback := d.u 12 1, fbCh := d.u 13 1, invert := bitAt (d.u 14 1) 1
    enLow := bitAt (d.u 14 1) 2, stallDisable := bitAt (d.u 14 1) 3, feCount := orDefault (d.u 15 1) 4
    outNum := d.u 16 2, outDen := d.u 18 2, fbNum := d.u 20 2, fbDen := d.u 22 2, vmax := d.u 24 4, amax := d.u 28 4
    dmax := d.u 32 4, jerk := d.u 36 4, qstop := d.u 40 4, feWindow := d.u 44 4, softMin := d.i 48 4, softMax := d.i 52 4
    stepWidth := if step then orDefault (d.u 56 2) 100 else 0, dirSetup := if step then orDefault (d.u 58 2) 200 else 0 }

/-- R351, R377: another axis uses output `index`. -/
def State.outputUsed (s : State) (a : Nat) (bus : Bool) (index : Nat) : Bool :=
  allAxes.any fun b => let c := (s.ax b).cfg; b != a && c.given && c.bus == bus && c.index == index

/-- R377, R478: another enabled axis uses feedback channel `ch`. -/
def State.feedbackUsed (s : State) (a ch : Nat) : Bool :=
  allAxes.any fun b => let x := s.ax b; b != a && x.enabled && x.cfg.feedback == 1 && x.cfg.fbCh == ch

/-- R358: n of a bus once axis `a` has slot `k` on it. -/
def State.slotsWith (s : State) (a bus k : Nat) : Nat :=
  allAxes.foldl (fun m b =>
    let c := (s.ax b).cfg
    if b ≠ a ∧ c.given ∧ c.bus ∧ c.index / 8 = bus then Nat.max m (c.index % 8 + 1) else m) (k + 1)

/-- R377: parameters of ACTION AXIS. -/
def axisParams (d : Slot) (s : State) : List PF :=
  let a := d.u 9 1
  let c := axisCfgOf d
  let ch := s.chan (d.u 13 1)
  let fb := d.u 12 1 == 1
  let top := 2 ^ 31 - 1
  [inR 9 a 0 15, inR 10 (d.u 10 1) 1 2,
   need (if c.bus then d.u 11 1 < 16 else d.u 11 1 < 8) 11 (if c.bus then Rsn.reserved else Rsn.range),
   need (!s.outputUsed a c.bus c.index) 11 Rsn.range,
   need (!c.bus || s.axis.periodUs == 0 || busFits s.axis.periodUs (s.slotsWith a (c.index / 8) (c.index % 8))) 11 Rsn.range,
   need (d.u 12 1 ≤ 1 || (d.u 12 1 == 2 && c.bus)) 12 Rsn.range,
   if fb then
     need (decide (d.u 13 1 < 8) && ch.role == .axis && ch.mode != .off && !s.feedbackUsed a (d.u 13 1) &&
       (s.axis.periodUs == 0 || ch.ssiFits s.axis.periodUs)) 13 Rsn.range
   else rz 13 (d.u 13 1),
   need (d.u 14 1 < 16) 14 Rsn.reserved, need (!bitAt (d.u 14 1) 0 || s.axis.trigger.isSome) 14 Rsn.range,
   inR 16 (d.u 16 2) 1 65535, inR 18 (d.u 18 2) 1 65535, fieldIf fb 20 (d.u 20 2) 1 65535, fieldIf fb 22 (d.u 22 2) 1 65535,
   inR 24 c.vmax 1 top,
   need (c.bus || (decide (c.vmax * c.outNum ≤ 5000000 * c.outDen) &&
     decide (c.vmax * c.outNum * 2 * c.stepWidth ≤ 10 ^ 9 * c.outDen))) 24 Rsn.range,
   inR 28 c.amax 1 top, inR 32 c.dmax 1 top, inR 36 c.jerk 1 top, need (decide (c.dmax ≤ c.qstop)) 40 Rsn.range,
   need (decide (c.softMin < c.softMax)) 52 Rsn.range,
   if c.bus then rz 56 (d.u 56 2) else need (d.u 56 2 == 0 || (20 ≤ d.u 56 2 && d.u 56 2 ≤ 10000)) 56 Rsn.range,
   if c.bus then rz 58 (d.u 58 2) else need (d.u 58 2 ≤ 10000) 58 Rsn.range, rzb d 60 64]

/-- A pin field: an MFIO number or none. -/
def pinField (d : Slot) (off : Nat) : PF := need (d.u off 1 < 64 || d.u off 1 == 0xFF) off Rsn.range

/-- The used axis numbers of ACTION GROUP. -/
def Slot.groupAxes (d : Slot) : List Nat := ((List.range 4).map fun i => d.u (10 + i) 1).filter fun a => a != 0xFF

/-- R362, R377: parameters of ACTION GROUP. -/
def groupParams (d : Slot) (s : State) : List PF :=
  let e := fun (i : Nat) => d.u (10 + i) 1
  let entry := fun (i : Nat) =>
    let a := e i
    if a = 0xFF then need (i != 0) (10 + i) Rsn.range
    else
      need (decide (a < 16) && (i == 0 || e (i - 1) != 0xFF) && (s.ax a).enabled &&
        !((List.range i).any fun k => e k == a) &&
        !((List.range 4).any fun g => g != d.u 9 1 && (Tab.get [] s.axis.groups g).contains a)) (10 + i) Rsn.range
  [inR 9 (d.u 9 1) 0 3] ++ (List.range 4).map entry ++ [rzb d 14 64]

/-- R377: parameters of AXIS_CONFIG. -/
def axisConfigParams (d : Slot) (s : State) : List PF :=
  match d.u 8 1 with
  | 1 =>
    let us := d.u 10 2
    [inR 9 (d.u 9 1) 0 15, inR 10 us 50 1000, need (us % 10 == 0) 10 Rsn.range,
     need ([0, 1].all fun b => busFits us (s.busSlots b)) 10 Rsn.range,
     need (allAxes.all fun a => let c := (s.ax a).cfg; !c.given || c.feedback != 1 || (s.chan c.fbCh).ssiFits us) 10 Rsn.range,
     rzb d 12 64]
  | 2 => axisParams d s
  | 3 =>
    [inR 9 (d.u 9 1) 0 15, pinField d 10, pinField d 11, pinField d 12, need (d.u 13 1 < 16) 13 Rsn.reserved,
     need (d.u 16 2 ≤ 10000) 16 Rsn.range, rzb d 18 64]
  | 4 => groupParams d s
  | _ => [inR 9 (d.u 9 1) 0 15, rzb d 10 64]

/-- R33: what AXIS_CONFIG needs and the part lacks. -/
def axisConfigFused (d : Slot) (s : State) : Option Nat :=
  match d.u 8 1 with
  | 2 => firstCap [axisMissing s (d.u 9 1),
      if d.u 10 1 = 2 then absent (decide (d.u 11 1 < 16)) (decide (d.u 11 1 / 8 < s.fuse.part.axisBuses)) (Cap.axisBus (d.u 11 1 / 8))
      else none]
  | 3 => firstCap ([axisMissing s (d.u 9 1)] ++ [10, 11, 12].map fun o => mfioMissing s (d.u o 1))
  | 4 => firstCap (d.groupAxes.map (axisMissing s))
  | 5 => axisMissing s (d.u 9 1)
  | _ => none

/-- Checks of AXIS_CONFIG. -/
def axisConfigChecks : Checks where
  allowed := fun _ s => axisStates s
  fused := axisConfigFused
  selector := fun d _ => inR 8 (d.u 8 1) 1 5
  params := axisConfigParams

/-- R353, R391: the engine takes its trigger unit. -/
def startEngine (u : Nat) (s : State) : State :=
  let per := 1000 * s.axis.periodUs
  takeTrig u .motion { t0 := s.time.now + per, ns := per } (s.withAxis fun m => { m with running := true, lastTrig := s.time.now })

/-- R377: axis `a` becomes enabled; its step output stands at the commanded position. -/
def enableAxis (a : Nat) (s : State) : State :=
  let x := s.ax a
  let act := if x.cfg.feedback = 1 then x.fromFb (s.chan x.cfg.fbCh).p else x.actual
  let y := if x.cfg.feedback = 0 then { x with cmd := Motn.atRest x.cmd.pos } else { x with cmd := Motn.atRest act, actual := act }
  s.setAx a { y with enabled := true, mode := .rest, legs := [], target := y.cmd.pos, prev := y.cmd.pos, feRun := 0
                     feHold := y.cfg.feCount, missRun := 0, stepAt := y.outCount y.cmd.pos }

/-- R354, R377: ACTION AXIS. A step output that the axis leaves is disabled. -/
def configAxis (k : Nat) (d : Slot) (s : State) : State :=
  let a := d.u 9 1
  let x := s.ax a
  let on := bitAt (d.u 14 1) 0
  if x.moverOp ≠ 0 then resourceBusy k x.moverOp s
  else
    let c := axisCfgOf d
    let y := { x with cfg := c }
    let s0 := if x.cfg.given && !x.cfg.bus && (c.bus || c.index != x.cfg.index) then s.emit (.stepEnable x.cfg.index x.cfg.enLow) else s
    let s1 := s0.setAx a { y with stepAt := y.outCount x.cmd.pos }
    if !on then done k (if x.enabled then settleStops (disableAxis a s1) else driveEnable a s1)
    else if x.enabled then done k (driveEnable a s1)
    else if s.axis.running then done k (driveEnable a (enableAxis a s1))
    else
      match s.axis.trigger with
      | none => done k s1
      | some u =>
        match s.trigBusy u .motion with
        | some op => resourceBusy k op s
        | none => done k (startEngine u (driveEnable a (enableAxis a s1)))

/-- R364, R377: a switch input assigned anew. -/
def SwitchIn.assign (w : SwitchIn) (pin : Nat) (low : Bool) : SwitchIn :=
  if w.pin = pin ∧ w.low = low then w else { pin := pin, low := low }

/-- R377, R480: ACTION SWITCHES. -/
def configSwitches (k : Nat) (d : Slot) (s : State) : State :=
  let a := d.u 9 1
  let x := s.ax a
  if x.moverOp ≠ 0 then resourceBusy k x.moverOp s
  else if [10, 11, 12].any (fun o => d.u o 1 != 0xFF && s.pinDriven 16 (d.u o 1)) then resourceBusy k 0x0B01 s
  else
    let f := d.u 13 1
    done k (s.setAx a { x with
      lp := x.lp.assign (d.u 10 1) (bitAt f 0), ln := x.ln.assign (d.u 11 1) (bitAt f 1), hm := x.hm.assign (d.u 12 1) (bitAt f 2)
      revSearch := bitAt f 3, filterUs := d.u 14 1, chatterCount := orDefault (d.u 15 1) 8, chatterMs := orDefault (d.u 16 2) 100 })

/-- R362: ACTION GROUP. -/
def configGroup (k : Nat) (d : Slot) (s : State) : State :=
  let g := d.u 9 1
  let concerned := Tab.get [] s.axis.groups g ++ d.groupAxes
  match concerned.find? fun a => !(s.ax a).idle with
  | some a => resourceBusy k (s.movingOp a) s
  | none => done k (s.withAxis fun m => { m with groups := Tab.put [] m.groups g d.groupAxes })

/-- R366, R372: a limit input of axis `x` chatters still. -/
def State.chatters (s : State) (x : Axis) : Bool :=
  [x.lp, x.ln].any fun w => decide (x.chatterCount < x.chatter s.uptime w)

/-- R372: ACTION CLEAR_FAULT. -/
def clearAxisFault (k a : Nat) (s : State) : State :=
  let x := s.ax a
  if x.fault = .limitChatter ∧ s.chatters x then complete k St.hwFault x.fault.code 0 none s
  else
    let s1 := s.setAx a { x with fault := .none, clearFault := x.cfg.given && x.cfg.bus }
    done k (if x.fault = .none then s1 else raise Src.axis 0x0003 (le 1 a ++ le 2 x.fault.code) s1)

/-- AXIS_CONFIG (R353, R358, R362, R372, R377). -/
def execAxisConfig (slot : Nat) (s : State) : Host.Outcome State Fault Refusal :=
  runCmd 0x0A00 slot axisConfigChecks (fun k d st =>
    match d.u 8 1 with
    | 1 =>
      if st.axis.axes.any fun e => e.2.enabled then resourceBusy k 0x0A00 st
      else done k (st.withAxis fun m => { m with trigger := some (d.u 9 1), periodUs := d.u 10 2 })
    | 2 => configAxis k d st
    | 3 => configSwitches k d st
    | 4 => configGroup k d st
    | _ => clearAxisFault k (d.u 9 1) st) s

/-! ### Moves (R361, R363, R365, R367, R371, R375, R376, R378) -/

/-- R365, R367: axis `a` may be sent to `target` (2^-16 AU). -/
def Axis.reachable (x : Axis) (target : Int) : Bool :=
  (!x.homed || (decide (x.cfg.softMin * 65536 ≤ target) && decide (target ≤ x.cfg.softMax * 65536))) &&
    !(x.lp.active && decide (x.cmd.pos < target)) && !(x.ln.active && decide (target < x.cmd.pos))

/-- R378: the target of a move: `v` AU, as a distance where RELATIVE is set. -/
def Axis.targetOf (x : Axis) (relative : Bool) (v : Int) : Int :=
  v * 65536 + (if relative then (if x.mode = .move then x.target else x.cmd.pos) else 0)

/-- Checks of AXIS_MOVE. -/
def axisMoveChecks : Checks where
  allowed := fun _ s => moveStates s
  fused := fun d s => axisMissing s (d.u 8 1)
  params := fun d s =>
    let x := s.ax (d.u 8 1)
    [inR 8 (d.u 8 1) 0 15, need x.enabled 8 Rsn.range, need (d.u 9 1 < 2) 9 Rsn.reserved, rzb d 10 12,
     need (x.reachable (x.targetOf (bitAt (d.u 9 1) 0) (d.i 12 4))) 12 Rsn.range,
     need (d.u 16 4 ≤ x.cfg.vmax) 16 Rsn.range, need (d.u 20 4 ≤ x.cfg.amax) 20 Rsn.range,
     need (d.u 24 4 ≤ x.cfg.dmax) 24 Rsn.range, need (d.u 28 4 ≤ x.cfg.jerk) 28 Rsn.range, rzb d 32 64]

/-- R361: axis `a` sets out for a target for the command in slot `slot`, or for a calibration run (`id` 0). -/
def startMove (a : Nat) (target : Int) (l : Limits) (slot id : Nat) (s : State) : State :=
  let x := s.ax a
  let p := planMove x.cmd target l
  s.setAx a { x with mode := .move, legs := p.1, flags := p.2, target := target, slot := slot, id := id, cal := id == 0 }

/-- AXIS_MOVE (R361, R365, R367, R371, R375, R376, R378). -/
def execAxisMove (slot : Nat) (s : State) : Host.Outcome State Fault Refusal :=
  runCmd 0x0A02 slot axisMoveChecks (fun k d st =>
    let a := d.u 8 1
    let x := st.ax a
    let c := x.cfg
    if x.fault ≠ .none then complete k St.hwFault x.fault.code 0 none st
    else if x.moverOp ≠ 0 ∧ x.moverOp ≠ 0x0A02 then resourceBusy k x.moverOp st
    else
      let l := limitsOf (orDefault (d.u 16 4) c.vmax) (orDefault (d.u 20 4) c.amax) (orDefault (d.u 24 4) c.dmax)
        (orDefault (d.u 28 4) c.jerk)
      let target := x.targetOf (bitAt (d.u 9 1) 0) (d.i 12 4)
      let s1 := if x.mode = .move then endAxisCmd a St.aborted 0x0A02 0 .move st else st
      startMove a target l k d.id s1) s

/-- R363: the axes of group `g` with the targets of a descriptor (2^-16 AU). -/
def State.groupTargets (s : State) (d : Slot) (g : Nat) : List (Nat × Int) :=
  let l := Tab.get [] s.axis.groups g
  (List.range l.length).map fun i =>
    let a := l.getD i 0
    (a, (s.ax a).targetOf (bitAt (d.u 9 1) 0) (d.i (12 + 4 * i) 4))

/-- Checks of AXIS_GROUP_MOVE. -/
def axisGroupMoveChecks : Checks where
  allowed := fun _ s => moveStates s
  params := fun d s =>
    let g := d.u 8 1
    let l := Tab.get [] s.axis.groups g
    [inR 8 g 0 3, need (!l.isEmpty && l.all fun a => (s.ax a).enabled) 8 Rsn.range, need (d.u 9 1 < 2) 9 Rsn.reserved, rzb d 10 12,
     need ((s.groupTargets d g).all fun e => (s.ax e.1).reachable e.2) 12 Rsn.range] ++
    ([1, 2, 3].map fun i => if i < l.length then none else rz (12 + 4 * i) (d.u (12 + 4 * i) 4)) ++ [rzb d 28 64]

/-- R363: a group sets out in a straight line for the command in slot `slot`, or for a calibration run (`id` 0). -/
def startGroup (g : Nat) (targets : List (Nat × Int)) (slot id : Nat) (s : State) : State :=
  let axes := targets.map fun e => (e.1, (s.ax e.1).cmd.pos, e.2 - (s.ax e.1).cmd.pos)
  let l := groupLimits (axes.map fun e => let c := (s.ax e.1).cfg; (c.vmax, c.amax, c.dmax, c.jerk, e.2.2))
  let legs := if axes.all fun e => e.2.2 == 0 then [] else [legTo {} (2 ^ 48) l]
  let s1 := s.setMove g { axes := axes, path := {}, legs := legs, slot := slot, id := id, cal := id == 0 }
  targets.foldl (fun st e => st.setAx e.1 { st.ax e.1 with mode := .group, group := g, target := e.2 }) s1

/-- AXIS_GROUP_MOVE (R363, R367, R371, R375, R376, R378). -/
def execAxisGroupMove (slot : Nat) (s : State) : Host.Outcome State Fault Refusal :=
  runCmd 0x0A03 slot axisGroupMoveChecks (fun k d st =>
    let g := d.u 8 1
    let l := Tab.get [] st.axis.groups g
    match l.find? fun a => (st.ax a).fault != .none with
    | some a => complete k St.hwFault (st.ax a).fault.code 0 none st
    | none =>
      match l.find? fun a => !(st.ax a).idle with
      | some a => resourceBusy k (st.movingOp a) st
      | none => startGroup g (st.groupTargets d g) k d.id st) s

/-! ### AXIS_HOME (R368, R369, R379) -/

/-- R368, R379: parameters of AXIS_HOME. SEARCH_V and LATCH_V are 1 to VMAX, and a METHOD without its input or index gives RANGE
at byte 9 (DEDUCED, log 69). -/
def axisHomeParams (d : Slot) (s : State) : List PF :=
  let x := s.ax (d.u 8 1)
  let m := d.u 9 1
  let here := m == 4
  let ch := s.chan x.cfg.fbCh
  let input : SwitchIn := if m = 3 then (if d.u 10 1 = 1 then x.ln else x.lp) else x.hm
  [inR 8 (d.u 8 1) 0 15, need x.enabled 8 Rsn.range, inR 9 m 1 4,
   need (here || input.pin != 0xFF) 9 Rsn.range,
   need (m != 2 || (x.cfg.feedback == 1 && ch.mode == .quadrature && ch.indexEn)) 9 Rsn.range,
   if here then rz 10 (d.u 10 1) else inR 10 (d.u 10 1) 0 1, rz 11 (d.u 11 1),
   if here then rzb d 16 28 else none,
   need (here || (decide (1 ≤ d.u 16 4) && decide (d.u 16 4 ≤ x.cfg.vmax))) 16 Rsn.range,
   need (here || (decide (1 ≤ d.u 20 4) && decide (d.u 20 4 ≤ x.cfg.vmax))) 20 Rsn.range, rzb d 28 64]

/-- Checks of AXIS_HOME. -/
def axisHomeChecks : Checks where
  allowed := fun _ s => moveStates s
  fused := fun d s => axisMissing s (d.u 8 1)
  params := axisHomeParams

/-- R368, R369: a homing begins. -/
def startHoming (a : Nat) (s : State) : State :=
  let x := s.ax a
  let h := x.homing
  let inDir := if h.neg then x.ln else x.lp
  if h.method = 4 then latchHome a (s.axisPos a) s
  else if (x.input h.refInput).active then homeJog a .latch (-h.dir * Int.ofNat h.latchV) s
  else if h.method ≠ 3 ∧ inDir.active then homeLimit a (s.setAx a { x with homing := { h with phase := .search } })
  else homeJog a .search (h.dir * Int.ofNat h.searchV) s

/-- AXIS_HOME (R368, R369, R371, R375, R376, R379). -/
def execAxisHome (slot : Nat) (s : State) : Host.Outcome State Fault Refusal :=
  runCmd 0x0A01 slot axisHomeChecks (fun k d st =>
    let a := d.u 8 1
    let x := st.ax a
    if x.fault ≠ .none then complete k St.hwFault x.fault.code 0 none st
    else if x.moverOp ≠ 0 then resourceBusy k x.moverOp st
    else
      startHoming a (st.setAx a { x with
        homed := false, mode := .home, slot := k, id := d.id
        homing := { method := d.u 9 1, neg := d.u 10 1 == 1, homePos := d.i 12 4, searchV := d.u 16 4, latchV := d.u 20 4
                    travel := d.u 24 4, origin := x.cmd.pos } })) s

/-! ### AXIS_STOP (R373, R375, R379) -/

/-- Checks of AXIS_STOP. -/
def axisStopChecks : Checks where
  allowed := fun _ s => axisStates s
  fused := fun d s => firstCap (allAxes.map fun a => if bitAt (d.u 8 2) a then axisMissing s a else none)
  selector := fun d _ => inR 10 (d.u 10 1) 1 3
  params := fun d _ => [rzb d 11 64]

/-- R371, R373: axis `a` begins its stop. -/
def stopAxis (mode : Nat) (s : State) (a : Nat) : State :=
  let x := s.ax a
  if !x.enabled then s
  else if x.mode = .group then
    let s1 := stopMove x.group St.aborted 0x0A04 s
    if mode = 3 then
      disableAxis a (s1.setMove x.group { s1.move x.group with axes := (s1.move x.group).axes.filter fun e => e.1 != a })
    else s1
  else
    let s1 := if x.mode = .move ∨ x.mode = .home then endAxisCmd a St.aborted 0x0A04 0 .stopping s else s
    if mode = 3 then disableAxis a s1
    else if x.mode = .rest then s1
    else brake a (if mode = 1 then x.cfg.limits.d else x.cfg.quick) s1

/-- The effect of AXIS_STOP (R373, R375): a calibration run that holds a named axis has lost it; the command completes once every named axis rests, or at once for DISABLE. -/
def axisStop (k : Nat) (d : Slot) (s : State) : State :=
  let named := allAxes.filter fun a => bitAt (d.u 8 2) a
  let s0 := if named.any fun a => (s.ax a).held then s.withAxis fun m => { m with calLost := true } else s
  let s1 := named.foldl (stopAxis (d.u 10 1)) s0
  if d.u 10 1 = 3 then done k (settleStops s1)
  else settleStops (s1.withAxis fun m => { m with stops := m.stops ++ [(k, d.id, named)] })

end Sys2Proof.Machine
end

