-- ==== Sys2Proof/Machine/MemCore.lean ====
section
/-! DEFINITION. What other blocks use of buffers and memory: the READY action (R68), BULK admission (R431), the data
area (R45). -/

namespace Sys2Proof.Machine

/-! ### Buffers (R45, R67, R68) -/

/-- R45: the start of the data area. -/
def dataArea : Nat := 0x00400000

/-- The range lies in the data area of the exchange window. -/
def State.inDataArea (s : State) (base size : Nat) : Bool := decide (dataArea ≤ base) && decide (base + size ≤ s.windowSize)

/-- The range lies in the host area. -/
def State.inHostArea (s : State) (base size : Nat) : Bool :=
  decide (s.cmd.hostBase ≤ base) && decide (base + size ≤ s.cmd.hostBase + s.cmd.hostSize)

/-- R68: the READY action on a FILLING buffer. -/
def readyBuf (h : Nat) (s : State) : State :=
  let b := s.buf h
  s.setBuf h { b with state := .ready, lz9 := true, gen := b.gen + 1
                      crc := if b.crcEn then crc32 (s.dram.bytes b.base b.size) else 0 }

/-- A channel stops all traffic: requests to it wait (R419, R422). -/
def State.memStalled (s : State) : Bool :=
  s.mem.chans.any fun e => e.2.state == .changing || e.2.state == .frozen

/-! ### BULK admission (R431) -/

/-- R431: rates held, bytes per second. -/
def State.bulkHeld (s : State) : Nat := s.mem.held.foldl (fun a e => a + e.2) 0

/-- R431: the rate still free, in units of 100 MB/s. -/
def State.bulkFree (s : State) : Nat := Nat.min 65535 ((s.mem.budget * 10 ^ 8 - s.bulkHeld) / 10 ^ 8)

/-- R431: requester `key` gives its rate back. -/
def releaseRate (key : Nat) (s : State) : State :=
  { s with mem := { s.mem with held := s.mem.held.filter fun e => e.1 != key } }

/-- R431: the rate of requester `key` fits, its earlier rate given back. -/
def State.admits (s : State) (key rate : Nat) : Bool :=
  decide ((releaseRate key s).bulkHeld + rate ≤ s.mem.budget * 10 ^ 8)

/-- R431: requester `key` holds a rate. -/
def holdRate (key rate : Nat) (s : State) : State :=
  let s1 := releaseRate key s
  { s1 with mem := { s1.mem with held := s1.mem.held ++ [(key, rate)] } }

/-- R431: the command of slot `k` is refused at port `port`. -/
def noBandwidth (k port : Nat) (s : State) : State :=
  complete k St.noBandwidth s.bulkFree 0 none
    { s with mem := { s.mem with refuse := Tab.upd 0 s.mem.refuse port fun n => satAdd (2 ^ 32 - 1) n 1 } }

end Sys2Proof.Machine
end

