-- ==== Sys2Proof/Machine/CamIsp.lean ====
section
/-! DEFINITION. The correction pipeline, its outputs and statistics, and the settings image (R306, R308, R309, R316,
R318). -/

namespace Sys2Proof.Machine

/-! ### Single samples (R306, stages 1 to 3) -/

/-- R306: bits of a RAW data type. -/
def rawBits (format : Nat) : Nat := 8 + 2 * (format - 0x2A)

/-- A rounded quotient. -/
def roundQuot (a b : Nat) : Nat := if b = 0 then 0 else (2 * a + b) / (2 * b)

/-- The rounded mean of a list. -/
def roundMean (l : List Nat) : Nat := roundQuot (l.foldl (· + ·) 0) l.length

/-- A list in rising order. -/
def insertSort : List Nat → List Nat
  | [] => []
  | a :: t =>
    let r := insertSort t
    r.takeWhile (· < a) ++ a :: r.dropWhile (· < a)

/-- R306: the median; of an even count the rounded mean of the two middle values. -/
def median (l : List Nat) : Nat :=
  let r := insertSort l
  let n := r.length
  if n % 2 = 1 then r.getD (n / 2) 0 else roundQuot (r.getD (n / 2 - 1) 0 + r.getD (n / 2) 0) 2

/-- A frame as its context sees it: the sizes, the colour filter and the tables. -/
structure IspView where
  width : Nat
  height : Nat
  cfa : Nat
  bits : Nat
  isp : Isp
  lines : List (List Nat)
  deriving DecidableEq, Repr

/-- A raw sample, 0 where the frame has none. -/
def IspView.sample (v : IspView) (x y : Nat) : Nat := (v.lines.getD y []).getD x 0

/-- R306: the sample in 16 bits. -/
def IspView.raw (v : IspView) (x y : Nat) : Nat := v.sample x y * 2 ^ (16 - v.bits) % 65536

/-- R306: ph. -/
def IspView.phase (v : IspView) (x y : Nat) : Nat := if v.cfa = 0 then 0 else 2 * (y % 2) + x % 2

/-- R306: the pixel is saturated. -/
def IspView.satd (v : IspView) (x y : Nat) : Bool := decide (v.isp.sat ≤ v.raw x y)

/-- R306, stage 1. -/
def IspView.stage1 (v : IspView) (x y : Nat) : Nat :=
  let ph := v.phase x y
  Nat.min 65535 (((v.raw x y - v.isp.bl.getD ph 0) * v.isp.blScale.getD ph 4096 + 2048) / 4096)

/-- R306: the neighbours of stage 2 as offsets inside the frame. -/
def IspView.near (v : IspView) (x y : Nat) : List (Nat × Nat) :=
  let d : Int := if v.cfa = 0 then 1 else 2
  let offs := [-d, 0, d].flatMap fun dx => [-d, 0, d].map fun dy => (Int.ofNat x + dx, Int.ofNat y + dy)
  offs.filterMap fun p =>
    if 0 ≤ p.1 ∧ p.1 < Int.ofNat v.width ∧ 0 ≤ p.2 ∧ p.2 < Int.ofNat v.height ∧ p ≠ (Int.ofNat x, Int.ofNat y) then
      some (p.1.toNat, p.2.toNat) else none

/-- R306, stage 2. -/
def IspView.stage2 (v : IspView) (x y : Nat) : Nat :=
  let b := v.stage1 x y
  let n := v.near x y
  let vals := n.map fun p => v.stage1 p.1 p.2
  if 1 ≤ v.isp.dpcMode ∧ v.isp.defects.contains (x, y) then
    roundMean ((n.filter fun p => p.1 == x || p.2 == y).map fun p => v.stage1 p.1 p.2)
  else if v.isp.dpcMode = 2 ∧ (vals.foldl Nat.max 0 + v.isp.dpcThresh < b ∨
      b + v.isp.dpcThresh < vals.foldl Nat.min 65536) then median vals
  else b

/-- R306, stage 3: a gain of the grid. -/
def Isp.gain (p : Isp) (ph j i : Nat) : Nat := Tab.get 4096 p.grid (289 * ph + 17 * j + i)

/-- R306, stage 3. -/
def IspView.stage3 (v : IspView) (x y : Nat) : Nat :=
  let ph := v.phase x y
  let fx := x * 65536 / (v.width - 1)
  let fy := y * 65536 / (v.height - 1)
  let i := Nat.min (fx / 4096) 15
  let j := Nat.min (fy / 4096) 15
  let ax := fx - i * 4096
  let ay := fy - j * 4096
  let g := (v.isp.gain ph j i * (4096 - ax) * (4096 - ay) + v.isp.gain ph j (i + 1) * ax * (4096 - ay) +
    v.isp.gain ph (j + 1) i * (4096 - ax) * ay + v.isp.gain ph (j + 1) (i + 1) * ax * ay + 2 ^ 23) / 2 ^ 24
  Nat.min 65535 ((v.stage2 x y * g + 2048) / 4096)

/-! ### Colours (R306, stages 4 to 6) -/

/-- R301: the colours of a filter by phase: 0 R, 1 G, 2 B. -/
def cfaColours : Nat → List Nat
  | 1 => [0, 1, 1, 2] | 2 => [1, 0, 2, 1] | 3 => [1, 2, 0, 1] | _ => [2, 1, 1, 0]

/-- The colour of a pixel. -/
def IspView.colour (v : IspView) (x y : Nat) : Nat := (cfaColours v.cfa).getD (2 * (y % 2) + x % 2) 1

/-- R306, stage 4: one colour of a pixel. -/
def IspView.demosaic (v : IspView) (x y c : Nat) : Nat :=
  if v.cfa = 0 ∨ v.colour x y = c then v.stage3 x y
  else
    let nb := ([-1, 0, 1] : List Int).flatMap fun dx => ([-1, 0, 1] : List Int).map fun dy => (Int.ofNat x + dx, Int.ofNat y + dy)
    let inside := nb.filter fun p => decide (0 ≤ p.1 ∧ p.1 < Int.ofNat v.width ∧ 0 ≤ p.2 ∧ p.2 < Int.ofNat v.height)
    let same := inside.filter fun p => v.colour p.1.toNat p.2.toNat == c && p != (Int.ofNat x, Int.ofNat y)
    roundMean (same.map fun p => v.stage3 p.1.toNat p.2.toNat)

/-- A value clamped to 16 bits. -/
def clamp16 (i : Int) : Nat := (max 0 (min 65535 i)).toNat

/-- A pixel after stage 5, with its saturation. -/
structure Pix where
  r : Nat
  g : Nat
  b : Nat
  sat : Bool
  deriving DecidableEq, Repr

/-- R306, stage 5. -/
def IspView.pixel (v : IspView) (x y : Nat) : Pix :=
  let m := fun (k : Nat) => v.isp.matrix.getD k 0
  let sat := v.satd x y
  if v.cfa = 0 then
    let s := Int.ofNat (v.stage3 x y)
    let yv := clamp16 (Int.fdiv (m 4 * s + 2048) 4096 + v.isp.off.getD 1 0)
    ⟨yv, yv, yv, sat⟩
  else
    let r := Int.ofNat (v.demosaic x y 0)
    let g := Int.ofNat (v.demosaic x y 1)
    let b := Int.ofNat (v.demosaic x y 2)
    let c := fun (i : Nat) =>
      clamp16 (Int.fdiv (m (3 * i) * r + m (3 * i + 1) * g + m (3 * i + 2) * b + 2048) 4096 + v.isp.off.getD i 0)
    ⟨c 0, c 1, c 2, sat⟩

/-- R306, stage 6: luminance. -/
def Pix.lum (p : Pix) : Nat := (77 * p.r + 150 * p.g + 29 * p.b + 128) / 256

/-- The pixels of a rectangle, row by row. -/
def IspView.rect (v : IspView) (x0 y0 w h : Nat) : List Pix :=
  (List.range h).flatMap fun j => (List.range w).map fun i => v.pixel (x0 + i) (y0 + j)

/-! ### Outputs (R316, R318) -/

/-- A pixel row padded to a multiple of 64 bytes. -/
def padRow (bs : List Byte) : List Byte := bs ++ List.replicate ((64 - bs.length % 64) % 64) 0

/-- R316: the bytes of a CROP output. -/
def IspView.crop (v : IspView) (o : CamOut) : List Byte :=
  (List.range o.h).flatMap fun j => padRow ((List.range o.w).flatMap fun i =>
    let x := o.x + i
    let y := o.y + j
    if o.format = 0 then le 2 (v.stage3 x y)
    else
      let p := v.pixel x y
      if o.format = 1 then le 2 p.r ++ le 2 p.g ++ le 2 p.b else le 2 p.lum)

/-- R316: a component of a PREVIEW pixel. -/
def previewByte (l : List Nat) : List Byte := le 1 (Nat.min 255 ((roundMean l + 128) / 256))

/-- R316: the bytes of a PREVIEW output. -/
def IspView.preview (v : IspView) (o : CamOut) : List Byte :=
  (List.range (v.height / o.scale)).flatMap fun j => padRow ((List.range (v.width / o.scale)).flatMap fun i =>
    let px := v.rect (o.scale * i) (o.scale * j) o.scale o.scale
    if o.format = 0x10 then previewByte (px.map (·.r)) ++ previewByte (px.map (·.g)) ++ previewByte (px.map (·.b))
    else previewByte (px.map (·.lum)))

/-- R316: the bytes of an output, without metadata. -/
def outSize (st : CamStream) (kind : Nat) (o : CamOut) : Nat :=
  let stride := fun (n : Nat) => (n + 63) / 64 * 64
  match kind with
  | 1 => stride (o.w * (if o.format = 1 then 6 else 2)) * o.h
  | 2 => stride (st.width / Nat.max 1 o.scale * (if o.format = 0x10 then 3 else 1)) * (st.height / Nat.max 1 o.scale)
  | _ => 7168

/-- R318: what a patch measures. -/
structure Patch where
  r : Nat := 0
  g : Nat := 0
  b : Nat := 0
  sd : Nat := 0
  count : Nat := 0
  sat : Nat := 0
  clipped : Bool := false
  deriving DecidableEq, Repr

/-- The part of a rectangle inside the frame, as x, y, width and height. -/
def IspView.clip (v : IspView) (q : Nat × Nat × Nat × Nat) : Nat × Nat × Nat × Nat :=
  (q.1, q.2.1, Nat.min q.2.2.1 (v.width - q.1), Nat.min q.2.2.2 (v.height - q.2.1))

/-- R318: the patch record of a rectangle. -/
def IspView.patch (v : IspView) (q : Nat × Nat × Nat × Nat) : Patch :=
  let c := v.clip q
  let px := v.rect c.1 c.2.1 c.2.2.1 c.2.2.2
  let n := px.length
  let ys := px.map (·.lum)
  let sum := ys.foldl (· + ·) 0
  let sq := ys.foldl (fun a y => a + y * y) 0
  let var := n * sq - sum * sum
  { r := roundMean (px.map (·.r)), g := roundMean (px.map (·.g)), b := roundMean (px.map (·.b))
    sd := if n = 0 then 0 else (isqrt (4 * var) + n) / (2 * n)
    count := n, sat := Nat.min 65535 (px.filter (·.sat)).length
    clipped := decide (v.width < q.1 + q.2.2.1) || decide (v.height < q.2.1 + q.2.2.2) }

/-- Bytes of a patch record. -/
def Patch.bytes (p : Patch) : List Byte :=
  le 2 p.r ++ le 2 p.g ++ le 2 p.b ++ le 2 p.sd ++ le 4 p.count ++ le 2 p.sat ++ le 1 (b2n p.clipped) ++ le 1 0

/-- R318: the bytes of a PATCHES output. -/
def IspView.patches (v : IspView) (rects : List (Nat × Nat × Nat × Nat)) : List Byte :=
  let ys := (v.rect 0 0 v.width v.height).map fun p => p.lum / 256
  let zone := fun (j i : Nat) =>
    let x0 := i * v.width / 16
    let y0 := j * v.height / 16
    let px := v.rect x0 y0 ((i + 1) * v.width / 16 - x0) ((j + 1) * v.height / 16 - y0)
    le 2 (roundMean (px.map (·.r))) ++ le 2 (roundMean (px.map (·.g))) ++ le 2 (roundMean (px.map (·.b))) ++
      le 2 (Nat.min 65535 (px.filter (·.sat)).length)
  ((List.range 256).flatMap fun k => match rects[k]? with
    | some q => (v.patch q).bytes
    | none => List.replicate 16 0) ++
  (List.range 256).flatMap (fun k => le 4 (ys.filter (· == k)).length) ++
  (List.range 16).flatMap fun j => (List.range 16).flatMap fun i => zone j i

/-- The bytes of output `kind`. -/
def IspView.output (v : IspView) (kind : Nat) (o : CamOut) (rects : List (Nat × Nat × Nat × Nat)) : List Byte :=
  match kind with
  | 1 => v.crop o
  | 2 => v.preview o
  | _ => v.patches rects

/-! ### The settings image (R308, R309) -/

/-- A settings image as read. -/
structure Settings where
  parts : IspParts := {}
  script : List ScriptEntry := []
  deriving DecidableEq, Repr

/-- R308: the bytes of an image that its flags and counts say are used. -/
def settingsExtent (parts script defects : Nat) : Nat :=
  let f := fun (i e : Nat) => if bitAt parts i then e else 64
  [f 0 80, f 1 83, f 2 120, f 3 2440, f 5 (2448 + 8 * script), f 4 (2960 + 4 * defects)].foldl Nat.max 64

/-- R308, R309: the offset of the first faulty field of an image, if any. `g` reads bytes of it. -/
def settingsFault (g : Nat → Nat → Nat) : Option Nat :=
  let parts := g 5 1
  let nScript := g 6 2
  let nDef := g 8 4
  let ext := settingsExtent parts nScript nDef
  let zeros := fun (a b : Nat) => (List.range (b - a)).map fun i => need (ext ≤ a + i || g (a + i) 1 == 0) (a + i) 1
  let head := [need (g 0 4 == 0x53544553) 0 1, need (g 4 1 == 1) 4 1, need (!bitAt parts 7) 5 1, need (nScript ≤ 64) 6 1,
    need (nDef ≤ 4096) 8 1]
  let entry := fun (k : Nat) =>
    let b := g (2448 + 8 * k + 2) 1
    [need ((b % 4 == 1 || b % 4 == 2) && (b / 4 % 8 == 1 || b / 4 % 8 == 2 || b / 4 % 8 == 4) && b / 32 == 0) (2448 + 8 * k + 2) 1,
     need (g (2448 + 8 * k + 3) 1 == 0) (2448 + 8 * k + 3) 1]
  match lowest head with
  | some f => some f.1
  | none =>
    (lowest (zeros 14 64 ++ [need (!bitAt parts 1 || g 82 1 ≤ 2) 82 1] ++ zeros 83 96 ++ zeros 120 128 ++ zeros 2440 2448 ++
      (if bitAt parts 5 then (List.range nScript).flatMap entry else []))).map (·.1)

/-- R308, R309: the parts of a faultless image. -/
def settingsOf (g : Nat → Nat → Nat) : Settings :=
  let parts := g 5 1
  let ifPart := fun {α : Type} (i : Nat) (v : α) => if bitAt parts i then some v else none
  { parts :=
      { sat := ifPart 6 (g 12 2)
        black := ifPart 0 ((List.range 4).map fun i => g (64 + 2 * i) 2, (List.range 4).map fun i => g (72 + 2 * i) 2)
        dpc := ifPart 1 (g 80 2, g 82 1)
        matrix := ifPart 2 ((List.range 9).map fun i => signed 16 (g (96 + 2 * i) 2),
          (List.range 3).map fun i => signed 16 (g (114 + 2 * i) 2))
        shading := ifPart 3 ((List.range 1156).foldl (fun t i => Tab.put 4096 t i (g (128 + 2 * i) 2)) [])
        defects := ifPart 4 ((List.range (g 8 4)).map fun k => (g (2960 + 4 * k) 2, g (2962 + 4 * k) 2)) }
    script := if bitAt parts 5 then (List.range (g 6 2)).map fun k =>
        let a := 2448 + 8 * k
        { reg := g a 2, regBytes := g (a + 2) 1 % 4, dataBytes := g (a + 2) 1 / 4 % 8, data := g (a + 4) 4 }
      else [] }

/-- R311: the parts of a newer image replace those of an older one. -/
def IspParts.above (new old : IspParts) : IspParts :=
  { black := new.black.or old.black, dpc := new.dpc.or old.dpc, matrix := new.matrix.or old.matrix
    shading := new.shading.or old.shading, defects := new.defects.or old.defects, sat := new.sat.or old.sat }

/-- R308: the tables after the parts of an image. -/
def Isp.apply (p : Isp) (n : IspParts) : Isp :=
  { bl := (n.black.map (·.1)).getD p.bl, blScale := (n.black.map (·.2)).getD p.blScale
    dpcThresh := (n.dpc.map (·.1)).getD p.dpcThresh, dpcMode := (n.dpc.map (·.2)).getD p.dpcMode
    matrix := (n.matrix.map (·.1)).getD p.matrix, off := (n.matrix.map (·.2)).getD p.off
    grid := n.shading.getD p.grid, defects := n.defects.getD p.defects, sat := n.sat.getD p.sat }

/-- R309: the bytes of a script entry on the bus, after the address byte. -/
def ScriptEntry.bytes (e : ScriptEntry) : List Byte := be e.regBytes e.reg ++ be e.dataBytes e.data

/-- R309: bit time at an I2C_SPEED, ns. -/
def i2cBit : Nat → Nat
  | 0 => 10000 | 1 => 2500 | _ => 1000

/-- R309: the predicted time of a script, ns. -/
def scriptTime (speed : Nat) (l : List ScriptEntry) : Nat :=
  l.foldl (fun a e => a + (9 * (1 + e.regBytes + e.dataBytes) + 2) * i2cBit speed) 0

/-- R313: pipeline cycles of a line. -/
def lineCost (width : Nat) : Nat := (width + 3) / 4 + 8

end Sys2Proof.Machine
end

