-- ==== Sys2Proof/Machine/CamCmd.lean ====
section
/-! DEFINITION. The CAM commands (R301, R310, R311, R314 to R316, R481). -/

namespace Sys2Proof.Machine

/-! ### Access -/

/-- Change the CAM block. -/
def State.withCam (s : State) (f : Cam → Cam) : State := { s with cam := f s.cam }

/-- Camera port `p`. -/
def State.camPort (s : State) (p : Nat) : CamPort := Tab.get {} s.cam.ports p

/-- Set camera port `p`. -/
def State.setCamPort (s : State) (p : Nat) (x : CamPort) : State := s.withCam fun c => { c with ports := Tab.put {} c.ports p x }

/-- Stream `n`. -/
def State.stream (s : State) (n : Nat) : CamStream := Tab.get {} s.cam.streams n

/-- Set stream `n`. -/
def State.setStream (s : State) (n : Nat) (x : CamStream) : State :=
  s.withCam fun c => { c with streams := Tab.put {} c.streams n x }

/-- Context `n`. -/
def State.ctx (s : State) (n : Nat) : CamCtx := Tab.get {} s.cam.ctxs n

/-- Set context `n`. -/
def State.setCtx (s : State) (n : Nat) (x : CamCtx) : State := s.withCam fun c => { c with ctxs := Tab.put {} c.ctxs n x }

/-- The streams and the contexts, 0 to 7. -/
def eight : List Nat := List.range 8

/-- The contexts of stream `n`. -/
def State.ctxsOf (s : State) (n : Nat) : List Nat :=
  eight.filter fun c => (s.ctx c).state != .unconfigured && (s.ctx c).stream == n

/-- R301: stream `n` runs. -/
def State.streamRuns (s : State) (n : Nat) : Bool := (s.ctxsOf n).any fun c => (s.ctx c).state == .started

/-- R301: the strobe bands of a stream. -/
def CamStream.bands (x : CamStream) : List Nat := (List.range x.strobeCount).map fun k => bitsAt x.strobeSeq (4 * k) 4

/-- The key under which an output of a context holds its BULK rate. -/
def outKey (ctx kind : Nat) : Nat := 0x1000 + 4 * ctx + kind

/-! ### CAM_CONTEXT (R301) -/

/-- A camera port that the die has and the part lacks. -/
def camPortMissing (s : State) (p : Nat) : Option Nat := absent (decide (p < 4)) (decide (p < s.fuse.part.cameraPorts)) (Cap.csi p)

/-- R301: parameters of PORT. -/
def camPortParams (d : Slot) : List PF :=
  [inR 9 (d.u 9 1) 0 3, inR 10 (d.u 10 1) 1 4, need (d.u 12 1 < 32) 12 Rsn.reserved, inR 13 (d.u 13 1) 0 2,
   inR 14 (d.u 14 2) 80 2500, rzb d 16 64]

/-- R301: parameters of STREAM. -/
def camStreamParams (d : Slot) (s : State) : List PF :=
  let n := d.u 15 1
  let nib := fun (k : Nat) => bitsAt (d.u 16 3) (4 * k) 4
  [inR 9 (d.u 9 1) 0 7, need (d.u 10 1 ≤ 3 && (s.camPort (d.u 10 1)).lanes != 0) 10 Rsn.range,
   need (d.u 11 1 ≤ 15 && !eight.any fun i =>
     i != d.u 9 1 && (s.stream i).set && (s.stream i).port == d.u 10 1 && (s.stream i).vc == d.u 11 1) 11 Rsn.range,
   need (d.u 12 1 < 128) 12 Rsn.reserved, inR 13 (d.u 13 1) 1 3, need (d.u 14 1 ≤ 15 || d.u 14 1 == 0xFF) 14 Rsn.range,
   if d.u 14 1 = 0xFF then rz 15 n else inR 15 n 0 6,
   need ((List.range 6).all fun k => n ≤ k || nib k ≤ 5) 16 Rsn.range,
   need ((List.range 6).all fun k => k < n || nib k == 0) 16 Rsn.reserved,
   inR 19 (d.u 19 1) 0x2A 0x2D, inR 20 (d.u 20 2) 50 65535, inR 22 (d.u 22 2) 1 65535, inR 24 (d.u 24 2) 16 8192,
   inR 26 (d.u 26 2) 8 8192, inR 32 (d.u 32 4) 1 1048576, inR 36 (d.u 36 4) 1 1000000, inR 40 (d.u 40 1) 0 4, rzb d 41 44,
   inR 44 (d.u 44 4) 0 1000000, inR 48 (d.u 48 2) 1 10000, rzb d 50 64]

/-- R301: parameters of CONTEXT. -/
def camCtxParams (d : Slot) (s : State) : List PF :=
  let others := eight.filter fun c => c != d.u 9 1 && (s.ctx c).state != .unconfigured
  [inR 9 (d.u 9 1) 0 7, need (d.u 10 1 ≤ 7 && (s.stream (d.u 10 1)).set) 10 Rsn.range,
   need ((d.u 11 1 == 0x0F || (s.stream (d.u 10 1)).bands.contains (d.u 11 1)) &&
     !others.any fun c => (s.ctx c).stream == d.u 10 1 && (s.ctx c).band == d.u 11 1) 11 Rsn.range,
   need (d.u 12 1 ≤ 7 && !others.any fun c => (s.ctx c).priority == d.u 12 1) 12 Rsn.range,
   need (d.u 13 1 < 2) 13 Rsn.reserved, rzb d 14 64]

/-- R301: parameters of RELEASE. -/
def camReleaseParams (d : Slot) : List PF :=
  [inR 9 (d.u 9 1) 0 7, inR 10 (d.u 10 1) 1 2, rzb d 11 64]

/-- Checks of CAM_CONTEXT. -/
def camContextChecks : Checks where
  selector := fun d _ => inR 8 (d.u 8 1) 1 4
  fused := fun d s =>
    if d.u 8 1 = 1 then camPortMissing s (d.u 9 1) else if d.u 8 1 = 2 then camPortMissing s (d.u 10 1) else none
  params := fun d s => match d.u 8 1 with
    | 1 => camPortParams d
    | 2 => camStreamParams d s
    | 3 => camCtxParams d s
    | _ => camReleaseParams d

/-- The stream of a descriptor; counters and settings stay. -/
def streamOf (d : Slot) (x : CamStream) : CamStream :=
  { x with
    set := true, port := d.u 10 1, vc := d.u 11 1, i2cAddr := d.u 12 1, latency := d.u 13 1, trigger := d.u 14 1
    strobeCount := d.u 15 1, strobeSeq := d.u 16 3, format := d.u 19 1, windowUs := d.u 20 2, sofMaxUs := d.u 22 2
    width := d.u 24 2, height := d.u 26 2, viewOffset := d.i 28 4, viewLines := d.u 32 4, maxLineRate := d.u 36 4
    cfa := d.u 40 1, strobeDelay := d.u 44 4, strobeWidthUs := d.u 48 2, seqPos := 0, entries := [] }

/-- R301: a context is released: its outputs are unbound. -/
def releaseCtx (c : Nat) (s : State) : State :=
  let s1 := [1, 2, 3].foldl (fun st k => releaseRate (outKey c k) st) s
  s1.setCtx c { isp := (s.ctx c).isp }

/-- CAM_CONTEXT (R33, R301). -/
def execCamContext (slot : Nat) (s : State) : Host.Outcome State Fault Refusal :=
  runCmd 0x0800 slot camContextChecks (fun k d st =>
    let n := d.u 9 1
    match d.u 8 1 with
    | 1 =>
      if eight.any fun i => (st.stream i).set && (st.stream i).port == n && st.streamRuns i then resourceBusy k 0x0803 st
      else
        done k (st.setCamPort n { st.camPort n with
          lanes := d.u 10 1, laneMap := d.u 11 1, polarity := d.u 12 1, i2cSpeed := d.u 13 1, mbps := d.u 14 2
          deskew := false })
    | 2 => if st.streamRuns n then resourceBusy k 0x0803 st else done k (st.setStream n (streamOf d (st.stream n)))
    | 3 =>
      if (st.ctx n).state = .started then resourceBusy k 0x0803 st
      else
        done k (st.setCtx n { st.ctx n with
          state := .configured, halted := false, stream := d.u 10 1, band := d.u 11 1, priority := d.u 12 1
          dropCorrupt := bitAt (d.u 13 1) 0 })
    | _ =>
      if d.u 10 1 = 1 then
        if (st.ctx n).state = .started then resourceBusy k 0x0803 st else done k (releaseCtx n st)
      else if st.streamRuns n then resourceBusy k 0x0803 st
      else if !(st.ctxsOf n).isEmpty then resourceBusy k 0x0800 st
      else done k (st.setStream n {})) s

/-! ### CAM_SETTINGS (R308 to R311) -/

/-- R310: checks of CAM_SETTINGS. -/
def camSettingsChecks : Checks where
  anyMode := true
  allowed := fun d s => !(d.u 8 1 < 8 && (s.ctx (d.u 8 1)).state == .unconfigured)
  params := fun d s =>
    [inR 8 (d.u 8 1) 0 7, rzb d 9 10, inR 10 (d.u 10 2) 1 65535, bufIs s 12 (d.u 12 2) .ready, rzb d 14 16,
     need (d.u 16 8 % 4 == 0) 16 Rsn.align, need (decide (d.u 16 8 + 64 ≤ (s.buf (d.u 12 2)).size)) 16 Rsn.range, rzb d 24 64]
  reads := fun d s =>
    let g := fun (off n : Nat) => s.dram.num ((s.buf (d.u 12 2)).base + d.u 16 8 + off) n
    [(d.u 12 2, d.u 16 8, Nat.min (settingsExtent (g 5 1) (g 6 2) (g 8 4)) ((s.buf (d.u 12 2)).size - d.u 16 8))]

/-- R321: SETTINGS_DONE. -/
def settingsDone (after stream id outcome : Nat) (n first : FrameNo) (slips entry : Nat) (s : State) : State :=
  raiseAfter after Src.cam 0x0002
    (le 1 stream ++ le 2 id ++ le 1 outcome ++ le 4 n.toNat ++ le 4 first.toNat ++ le 1 (Nat.min 255 slips) ++ le 1 entry) s

/-- R311: a new settings state of stream `st`, or the merge into the pending one. -/
def stageSettings (k : Nat) (d : Slot) (im : Settings) (s : State) : State :=
  let c := d.u 8 1
  let n := (s.ctx c).stream
  let x := s.stream n
  match x.pending with
  | none =>
    let p : CamState := { id := d.u 10 2, cmd := d.id, parts := [(c, im.parts)], script := im.script }
    complete k St.deferred 0 0 none (s.setStream n { x with pending := some p })
  | some p =>
    if 64 < p.script.length + im.script.length then badParam k 12 Rsn.range s
    else
      let q := { p with
        id := d.u 10 2, cmd := d.id, parts := Tab.put {} p.parts c (im.parts.above (Tab.get {} p.parts c))
        script := p.script ++ im.script }
      let s1 := complete k St.deferred 0 0 none (s.setStream n { x with pending := some q })
      settingsDone p.cmd n p.id 1 0 0 p.slips 0 s1

/-- CAM_SETTINGS (R308 to R311). -/
def execCamSettings (slot : Nat) (s : State) : Host.Outcome State Fault Refusal :=
  runCmd 0x0801 slot camSettingsChecks (fun k d st =>
    let base := (st.buf (d.u 12 2)).base + d.u 16 8
    let g := fun (off n : Nat) => st.dram.num (base + off) n
    match settingsFault g with
    | some f => badImage k 16 Rsn.range f st
    | none =>
      if (st.buf (d.u 12 2)).size < d.u 16 8 + settingsExtent (g 5 1) (g 6 2) (g 8 4) then badParam k 16 Rsn.range st
      else stageSettings k d (settingsOf g) st) s

/-! ### CAM_START and CAM_STOP (R314, R315, R481) -/

/-- R314: the contexts named by a mask. -/
def maskCtxs (m : Nat) : List Nat := eight.filter fun c => bitAt m c

/-- R314: the load of a set of started contexts, cycles per second. -/
def State.camLoad (s : State) (started : List Nat) : Nat :=
  let low := started.foldl (fun a c => match a with
    | none => some c
    | some b => if (s.ctx b).priority < (s.ctx c).priority then some c else a) none
  let left := match low with
    | none => none
    | some c =>
      if started.any fun b => b != c && (s.ctx b).stream == (s.ctx c).stream then none else some (s.ctx c).stream
  eight.foldl (fun a n =>
    if (started.any fun c => (s.ctx c).stream == n) && left != some n then
      a + lineCost (s.stream n).width * (s.stream n).maxLineRate
    else a) 0

/-- The contexts now started. -/
def State.startedCtxs (s : State) : List Nat := eight.filter fun c => (s.ctx c).state == .started

/-- A list of numbers as a mask. -/
def maskOf (l : List Nat) : Nat := l.foldl (fun a c => Nat.lor a (2 ^ c)) 0

/-- Checks of CAM_START. -/
def camStartChecks : Checks where
  anyMode := true
  allowed := fun _ s => s.top.dev == .armed || s.top.dev == .run || s.top.dev == .halter
  params := fun d s =>
    [need ((maskCtxs (d.u 8 1)).all fun c => (s.ctx c).state != .unconfigured) 8 Rsn.range, rzb d 9 64]

/-- R391, R481: the unit of a stream is taken for CAMERA; its schedule stays. -/
def takeCamUnit (s : State) (n : Nat) : State :=
  let u := (s.stream n).trigger
  if u = 0xFF then s else s.setTrig u { s.trig u with holder := .camera }

/-- R312: a state pending when its stream starts is written first, without a window. -/
def armPending (s : State) (n : Nat) : State :=
  let x := s.stream n
  let y := { x with pending := x.pending.map fun p => { p with pre := true, tFs := some s.time.now, n0 := none }, seqPos := 0
                    entries := [] }
  s.setStream n y

/-- CAM_START (R314, R391, R478, R481). The load is judged before a held trigger unit: R31 does not place ST_RESOURCE_BUSY, and its
parameter errors come first here (DESIGN CHOICE, log 67). -/
def execCamStart (slot : Nat) (s : State) : Host.Outcome State Fault Refusal :=
  runCmd 0x0803 slot camStartChecks (fun k d st =>
    let cs := maskCtxs (d.u 8 1)
    let started := eight.filter fun c => cs.contains c || (st.ctx c).state == .started
    let fresh := eight.filter fun n => !st.streamRuns n && cs.any fun c => (st.ctx c).stream == n
    let units := (fresh.map fun n => (st.stream n).trigger).filter (· != 0xFF)
    let load := st.camLoad started
    if 10 ^ 9 < load then badImage k 8 Rsn.range (load / 10 ^ 6) st
    else
      match units.find? fun u => !((st.trig u).holder == .none || (st.trig u).holder == .host || (st.trig u).holder == .camera) with
      | some u => resourceBusy k (st.trig u).holder.opcode st
      | none =>
        let s1 := (fresh.foldl takeCamUnit st)
        let s2 := fresh.foldl armPending s1
        let s3 := cs.foldl (fun x c => x.setCtx c { x.ctx c with state := .started, halted := false }) s2
        doneWith k (maskOf started) s3) s

/-- R315: a stream with no started context left releases its unit. -/
def releaseCamUnit (s : State) (n : Nat) : State :=
  let u := (s.stream n).trigger
  if s.streamRuns n || u == 0xFF || (s.trig u).holder != .camera then s
  else if eight.any fun m => s.streamRuns m && (s.stream m).trigger == u then s
  else freeTrig u s

/-- R315: the contexts named stop. -/
def stopCtxs (cs : List Nat) (s : State) : State :=
  let run := cs.filter fun c => (s.ctx c).state == .started
  let s1 := run.foldl (fun x c => x.setCtx c { x.ctx c with state := .configured, halted := true }) s
  (run.map fun c => (s.ctx c).stream).foldl releaseCamUnit s1

/-- Checks of CAM_STOP. -/
def camStopChecks : Checks where
  params := fun d _ => [rzb d 9 64]

/-- CAM_STOP (R315, R479). -/
def execCamStop (slot : Nat) (s : State) : Host.Outcome State Fault Refusal :=
  runCmd 0x0804 slot camStopChecks (fun k d st => done k (stopCtxs (maskCtxs (d.u 8 1)) st)) s

/-! ### CAM_OUTPUT (R316) -/

/-- The output of a descriptor. -/
def camOutOf (d : Slot) (old : CamOut) : CamOut :=
  { handles := (List.range (d.u 20 1)).map fun i => d.u (22 + 2 * i) 2, format := d.u 10 1, scale := d.u 11 1
    x := d.u 12 2, y := d.u 14 2, w := d.u 16 2, h := d.u 18 2
    last := if old.handles = (List.range (d.u 20 1)).map (fun i => d.u (22 + 2 * i) 2) then old.last else none }

/-- R316: a listed handle can take the output. -/
def outHandle (s : State) (off h size : Nat) : PF :=
  let b := s.buf h
  if 4095 < h then some (off, Rsn.range)
  else if b.state = .free then some (off, Rsn.handle)
  else need (s.inDataArea b.base b.size && decide (256 + size ≤ b.size)) off Rsn.range

/-- R316: parameters of CAM_OUTPUT. The fields of the kind are checked whatever COUNT is; a rectangle without pixels passes only where
COUNT 0 unbinds the output (log 67). -/
def camOutputParams (d : Slot) (s : State) : List PF :=
  let x := s.stream (s.ctx (d.u 8 1)).stream
  let kind := d.u 9 1
  let n := d.u 20 1
  let o := camOutOf d {}
  let size := outSize x kind o
  let rc := d.u 38 2
  let base := [inR 8 (d.u 8 1) 0 7, need ((s.ctx (d.u 8 1)).state != .unconfigured) 8 Rsn.range, inR 20 n 0 8, rzb d 21 22,
    rzb d 42 48, rzb d 56 64]
  let crop := kind == 1
  base ++
    [match kind with
      | 1 => inR 10 (d.u 10 1) 0 2
      | 2 => inR 10 (d.u 10 1) 0x10 0x11
      | _ => rz 10 (d.u 10 1),
     if kind = 2 then need (d.u 11 1 == 2 || d.u 11 1 == 4 || d.u 11 1 == 8) 11 Rsn.range else rz 11 (d.u 11 1),
     if crop then need (decide (o.x < x.width)) 12 Rsn.range else rz 12 o.x,
     if crop then need (decide (o.y < x.height)) 14 Rsn.range else rz 14 o.y,
     if crop then need ((n == 0 || decide (1 ≤ o.w)) && decide (o.x + o.w ≤ x.width)) 16 Rsn.range else rz 16 o.w,
     if crop then need ((n == 0 || decide (1 ≤ o.h)) && decide (o.y + o.h ≤ x.height)) 18 Rsn.range else rz 18 o.h,
     fieldIf (kind == 3) 38 rc 0 256,
     if kind = 3 ∧ 0 < rc then bufIs s 40 (d.u 40 2) .ready else rz 40 (d.u 40 2),
     if kind = 3 ∧ 0 < rc then need (d.u 48 8 % 4 == 0) 48 Rsn.align else rz 48 (d.u 48 8),
     if kind = 3 ∧ 0 < rc then bufSpan s (d.u 40 2) (d.u 48 8) (8 * rc) 48 else none] ++
    (List.range 8).map fun i =>
      if i < n then outHandle s (22 + 2 * i) (d.u (22 + 2 * i) 2) size else rz (22 + 2 * i) (d.u (22 + 2 * i) 2)

/-- Checks of CAM_OUTPUT. -/
def camOutputChecks : Checks where
  selector := fun d _ => inR 9 (d.u 9 1) 1 3
  params := camOutputParams
  reads := fun d _ => if d.u 9 1 = 3 ∧ 0 < d.u 38 2 then [(d.u 40 2, d.u 48 8, 8 * d.u 38 2)] else []

/-- R316: the rectangles of an image. -/
def rectsAt (s : State) (base n : Nat) : List (Nat × Nat × Nat × Nat) :=
  (List.range n).map fun i =>
    let g := fun (o : Nat) => s.dram.num (base + 8 * i + o) 2
    (g 0, g 2, g 4, g 6)

/-- CAM_OUTPUT (R316, R431, R478). -/
def execCamOutput (slot : Nat) (s : State) : Host.Outcome State Fault Refusal :=
  runCmd 0x0802 slot camOutputChecks (fun k d st =>
    let c := d.u 8 1
    let kind := d.u 9 1
    let x := st.ctx c
    let sm := st.stream x.stream
    let o := camOutOf d (Tab.get {} x.staged kind)
    let rc := d.u 38 2
    let rects := rectsAt st ((st.buf (d.u 40 2)).base + d.u 48 8) rc
    let rate := ceilDiv (outSize sm kind o * sm.maxLineRate) sm.height
    if kind = 3 ∧ 0 < rc ∧ x.calRects then resourceBusy k 0x0902 st
    else
      match (List.range rc).find? fun i => (rects.getD i (0, 0, 1, 1)).2.2.1 == 0 || (rects.getD i (0, 0, 1, 1)).2.2.2 == 0 with
      | some i => badImage k 48 Rsn.range (8 * i + (if (rects.getD i (0, 0, 1, 1)).2.2.1 = 0 then 4 else 6)) st
      | none =>
        let y := { x with stagedRects := if 0 < rc then rects else x.stagedRects }
        if d.u 20 1 = 0 then done k (releaseRate (outKey c kind) (st.setCtx c { y with staged := Tab.put {} y.staged kind {} }))
        else if !st.admits (outKey c kind) rate then noBandwidth k 52 st
        else done k (holdRate (outKey c kind) rate (st.setCtx c { y with staged := Tab.put {} y.staged kind o }))) s

end Sys2Proof.Machine
end

