-- ==== Sys2Proof/Machine/CamFrame.lean ====
section
/-! DEFINITION. Exposures, camera frames, the settings scripts and the strobes (R302 to R305, R312, R313, R317 to R320). -/

namespace Sys2Proof.Machine

/-! ### Exposures and strobes (R302) -/

/-- The output is in Halter. -/
def State.outHalted (s : State) : Bool := s.top.dev == .halter || s.top.dev == .fault

/-- R319: the light-field frame with the latest frame tick at or before a time; none before the first. -/
def State.tickFrame (s : State) (t : Nat) : Option FrameNo :=
  let p := s.scan.timing.frame
  if !s.scanning || t < s.scan.start || p == 0 then none
  else
    let k := (t - s.scan.start) * 2 ^ 32 / p
    let k1 := if s.scan.start + (k + 1) * p / 2 ^ 32 ≤ t then k + 1 else k
    some (s.scan.first + BitVec.ofNat 32 k1)

/-- R302: a pulse of a strobe, beside those that have not ended; the output rises where none of them holds it high already. -/
def strobePulse (band on off : Nat) (s : State) : State :=
  let x : Strobe := Tab.get {} s.cam.strobes band
  let s1 := s.withCam fun c => { c with strobes := Tab.put {} c.strobes band { x with
    pulses := if x.pulses.contains (on, off) then x.pulses else x.pulses ++ [(on, off)] } }
  if x.pulses.any fun p => decide (p.1 ≤ on) && decide (on ≤ p.2) then s1 else s1.emit (.strobe band on true)

/-- R312: a settings state pending when stream `n` started has not yet been written: the first trigger waits for it (DEDUCED,
log 67). -/
def CamStream.unwritten (x : CamStream) : Bool := x.pending.any (·.pre) || x.writing.any (·.pre)

/-- R302: a firing of the unit of running stream `n` records an exposure entry and drives the strobe. -/
def expose (s : State) (n : Nat) : State :=
  let x := s.stream n
  if !s.streamRuns n || x.unwritten then s
  else
    let band := if x.strobeCount = 0 then 0x0F else bitsAt x.strobeSeq (4 * (x.seqPos % x.strobeCount)) 4
    let e : Exposure := { band := band, time := s.time.now, hwm := s.web.hwm, suppressed := s.outHalted && band != 0x0F
                          frame := s.tickFrame s.time.now }
    let s1 := s.setStream n { x with entries := x.entries ++ [e], seqPos := if x.strobeCount = 0 then 0 else (x.seqPos + 1) % x.strobeCount }
    if band = 0x0F ∨ s.outHalted then s1
    else
      let on := s.time.now + x.strobeDelay
      strobePulse band on (on + 1000 * x.strobeWidthUs) s1

/-- R312, R315: the output of unit `u`, held for a camera or lent to calibration, is masked: none of the streams that name it runs, or
a settings state must be written before its first trigger. -/
def State.camMasked (s : State) (u : Nat) : Bool :=
  let ns := eight.filter fun n => (s.stream n).set && (s.stream n).trigger == u
  ((s.trig u).holder == .camera || (s.trig u).holder == .calibration) && !ns.isEmpty &&
    ns.all fun n => !s.streamRuns n || (s.stream n).unwritten

/-- R302: the firing of trigger unit `u` as the camera sees it. -/
def exposeUnit (u : Nat) (s : State) : State := (eight.filter fun n => (s.stream n).set && (s.stream n).trigger == u).foldl expose s

/-- STROBE_END (R302): the pulses that are over end; the output falls where no other pulse of the band holds it high. -/
def execStrobeEnd (band : Nat) (s : State) : Host.Outcome State Fault Refusal :=
  let x : Strobe := Tab.get {} s.cam.strobes band
  let ended := x.pulses.filter fun p => decide (p.2 ≤ s.time.now)
  let rest := x.pulses.filter fun p => !decide (p.2 ≤ s.time.now)
  let s1 := s.withCam fun c => { c with strobes := Tab.put {} c.strobes band { x with pulses := rest } }
  .next (ended.foldl (fun st p =>
    if x.pulses.any fun q => decide (q.1 ≤ p.2) && decide (p.2 < q.2) then st else st.emit (.strobe band p.2 false)) s1)

/-- R66: every strobe goes off at once. -/
def strobesOff (s : State) : State :=
  s.cam.strobes.foldl (fun st e => st.emit (.strobe e.1 st.time.now false)) (s.withCam fun c => { c with strobes := [] })

/-! ### The pipeline (R313) -/

/-- The priority of a waiting line. -/
def State.linePrio (s : State) (e : Nat × Nat × Nat × Nat) : Nat := (s.ctx e.1).priority

/-- R313: of the lines that had arrived by `start`, the oldest of the highest-priority context. -/
def State.nextLine (s : State) (start : Nat) : Option (Nat × Nat × Nat × Nat) :=
  s.cam.waiting.foldl (fun a e =>
    if start < e.2.2.1 then a
    else match a with
      | none => some e
      | some b => if s.linePrio e < s.linePrio b then some e else a) none

/-- R313: the pipeline takes the lines it has had time for. -/
def drainPipe : Nat → State → State
  | 0, s => s
  | n + 1, s =>
    match s.cam.waiting with
    | [] => s
    | h :: _ =>
      let start := Nat.max s.cam.freeAt h.2.2.1
      if s.uptime < start then s
      else
        match s.nextLine start with
        | none => s
        | some e =>
          drainPipe n (s.withCam fun c =>
            { c with waiting := c.waiting.erase e, freeAt := start + e.2.2.2
                     busy := (c.busy.filter fun b => decide (s.uptime < b.2 + 10 ^ 8)) ++ [(start, start + e.2.2.2)] })

/-! ### Drops (R305, R313, R321) -/

/-- R321: FRAME_DROPPED at most once per context per 100 ms. -/
def dropEvent (c : Nat) (seq : FrameNo) (reason : Nat) (s : State) : State :=
  let x := s.ctx c
  let n := x.evtDrops + 1
  let due := match x.dropEvt with
    | none => true
    | some t => decide (t + 10 ^ 8 ≤ s.uptime)
  if due then
    raise Src.cam 0x0003 (le 1 c ++ le 4 seq.toNat ++ le 1 reason ++ le 4 n) (s.setCtx c { x with evtDrops := 0, dropEvt := some s.uptime })
  else s.setCtx c { x with evtDrops := n }

/-- R303, R321: a frame without a context. -/
def dropNoCtx (seq : FrameNo) (s : State) : State :=
  let n := s.cam.noCtx + 1
  let due := match s.cam.noCtxEvt with
    | none => true
    | some t => decide (t + 10 ^ 8 ≤ s.uptime)
  if due then
    raise Src.cam 0x0003 (le 1 0xFF ++ le 4 seq.toNat ++ le 1 3 ++ le 4 n) (s.withCam fun c => { c with noCtx := 0, noCtxEvt := some s.uptime })
  else s.withCam fun c => { c with noCtx := n }

/-- The contexts with a frame in progress, as context and stream. -/
def State.ctxFrames (s : State) : List (Nat × Nat) :=
  eight.filterMap fun n => match (s.stream n).frame with
    | some f => if f.abandoned then none else f.ctx.map fun c => (c, n)
    | none => none

/-- R313: abandon the frame in progress of the lowest-priority context that has one. -/
def abandonLowest (s : State) : State :=
  let low := s.ctxFrames.foldl (fun a e => match a with
    | none => some e
    | some b => if (s.ctx b.1).priority < (s.ctx e.1).priority then some e else a) none
  match low with
  | none => s
  | some (c, n) =>
    let x := s.stream n
    match x.frame with
    | none => s
    | some f =>
      let s1 := (s.setStream n { x with frame := some { f with abandoned := true, lines := [] } }).withCam fun m =>
        { m with waiting := m.waiting.filter fun e => e.1 != c }
      let y := s1.ctx c
      dropEvent c f.seq 1 (s1.setCtx c { y with arbDrop := satAdd 65535 y.arbDrop 1, dropped := y.dropped + 1 })

/-! ### Metadata (R319, R320) -/

/-- R320: the print lines in view at a web position: first and last. -/
def State.linesInView (s : State) (x : CamStream) (hwm : Int) : Int × Int :=
  let lp := Int.fdiv (hwm * Int.ofNat (s.web.linesNum * 256)) (Int.ofNat (Nat.max 1 s.web.linesDen)) + x.viewOffset
  let last := Int.fdiv lp 256
  (last - Int.ofNat x.viewLines + 1, last)

/-- R319: generation of a frame fixed at its cutoff; 0 if it has not reached CUT. -/
def State.outGen (s : State) (f : FrameNo) : Nat :=
  if s.phase f = .opened then 0
  else if (s.frame f).phase = .opened then (Tab.get (0, 0, 0) s.frames.past f.toNat).1
  else (s.frame f).gen.toNat

/-- What the metadata says of the output (R319, R320). -/
structure InView where
  frame : FrameNo := 0
  gen : Nat := 0
  first : Int := 0
  last : Int := 0
  none : Bool := false
  spans : Bool := false
  deriving DecidableEq, Repr

/-- R319, R320: the output that a camera frame shows. -/
def State.inView (s : State) (x : CamStream) (f : CamFrame) : InView :=
  if s.top.mode = .lightfield then
    match f.lfFrame with
    | some g => { frame := g, gen := s.outGen g }
    | none => { none := true }
  else
    let v := s.linesInView x f.hwm
    match s.lineFrame v.1 with
    | none => { first := v.1, last := v.2, none := true }
    | some g =>
      { frame := g, gen := s.outGen g, first := v.1, last := v.2
        spans := decide (s.frameLine g + Int.ofNat s.prn.job.frameLines ≤ v.2) }

/-- R319: MFLAGS. -/
def camFlags (f : CamFrame) (v : InView) : Nat :=
  b2n f.corrupt + 2 * b2n f.slipped + 4 * b2n f.unpaired + 8 * b2n f.suppressed + 16 * b2n v.none + 32 * b2n v.spans +
    64 * b2n f.overrate

/-- R319: the metadata block of an output. -/
def metadata (n c kind dropped : Nat) (hwm : Int) (f : CamFrame) (v : InView) : List Byte :=
  let b := le 4 f.seq.toNat ++ le 1 c ++ le 1 n ++ le 1 f.band ++ le 1 kind ++ le 2 f.id ++ le 2 (camFlags f v) ++
    le 4 dropped ++ le 8 f.tSof ++ le 8 f.tRef ++ le 8 (unsigned 64 hwm) ++ le 4 v.frame.toNat ++ le 4 v.gen ++
    le 8 (unsigned 64 v.first) ++ le 8 (unsigned 64 v.last) ++ le 2 (Nat.min 65535 f.ecc) ++ le 2 (Nat.min 65535 f.crc)
  b ++ List.replicate (256 - b.length) 0

/-! ### The end of a frame (R304, R305, R317) -/

/-- R304: a line as its frame uses it: padded with 0 or cut to WIDTH. -/
def fitLine (w : Nat) (l : List Nat) : List Nat := (l ++ List.replicate (w - l.length) 0).take w

/-- The frame as the pipeline sees it. -/
def viewOf (x : CamStream) (f : CamFrame) : IspView :=
  { width := x.width, height := x.height, cfa := x.cfa, bits := rawBits x.format, isp := f.isp, lines := f.lines }

/-- R317: the index of the next FILLING handle of an output, after the one used last; a binding begins with its first handle. -/
def State.nextHandle (s : State) (o : CamOut) : Option Nat :=
  let from' := match o.last with
    | none => 0
    | some k => k + 1
  ((List.range o.handles.length).map fun i => (from' + i) % o.handles.length).find? fun i =>
    (s.buf (o.handles.getD i 0)).state == .filling

/-- R317: at its FS a frame takes a handle for each bound output; none where no listed buffer is FILLING. -/
def takeHandles (c : Nat) (outs : Tab CamOut) (s : State) : State × Tab (Option (Nat × Nat × Nat)) :=
  outs.foldl (fun (a : State × Tab (Option (Nat × Nat × Nat))) e =>
    if e.2.handles.isEmpty then a
    else
      match a.1.nextHandle e.2 with
      | none => a
      | some i =>
        let h := e.2.handles.getD i 0
        let b := a.1.buf h
        let mark := fun (t : Tab CamOut) => Tab.upd {} t e.1 fun p => if p.handles = e.2.handles then { p with last := some i } else p
        let y := a.1.ctx c
        (a.1.setCtx c { y with outs := mark y.outs, staged := mark y.staged }, Tab.put none a.2 e.1 (some (h, b.base, b.size))))
    (s, [])

/-- R317: write output `kind` of a frame; the handle used, or 0xFFFF. It is lost where no handle was FILLING, or the host has freed or
reclaimed the buffer since. -/
def writeOutput (n c kind : Nat) (f : CamFrame) (v : InView) (dropped : Nat) (hwm : Int) (s : State) : State × Nat :=
  let o := Tab.get {} f.outs kind
  let y := s.ctx c
  let lost := (s.setCtx c { y with outLost := satAdd 65535 y.outLost 1 }, 0xFFFF)
  if o.handles.isEmpty then (s, 0xFFFF)
  else
    match Tab.get none f.taken kind with
    | none => lost
    | some e =>
      let b := s.buf e.1
      if b.state ≠ .filling ∨ b.base ≠ e.2.1 ∨ b.size ≠ e.2.2 then lost
      else
        let data := (viewOf (s.stream n) f).output kind o f.rects
        (readyBuf e.1 (dramStore b.base (metadata n c kind dropped hwm f v ++ data) s), e.1)

/-- R305, R317, R319, R321: deliver a frame to context `c` of stream `n`. -/
def deliverFrame (n c : Nat) (f : CamFrame) (s : State) : State :=
  let x := s.stream n
  let v := s.inView x f
  let y := s.ctx c
  let hwm := if s.top.mode = .lightfield then 0 else f.hwm
  let y1 := { y with
    eccCorr := satAdd 65535 y.eccCorr f.ecc, crcErr := satAdd 65535 y.crcErr f.crc
    corruptSent := satAdd 65535 y.corruptSent (b2n f.corrupt), dropped := 0, lastId := f.id, lastSeq := f.seq }
  let s1 := s.setCtx c y1
  let o1 := writeOutput n c 1 f v y.dropped hwm s1
  let o2 := writeOutput n c 2 f v y.dropped hwm o1.1
  let o3 := writeOutput n c 3 f v y.dropped hwm o2.1
  raise Src.cam 0x0001 (le 1 c ++ le 4 f.seq.toNat ++ le 2 o1.2 ++ le 2 o2.2 ++ le 2 o3.2 ++ le 2 (camFlags f v) ++ le 2 f.id) o3.1

/-- R304, R305: the frame in progress of stream `n` ends; the frame as delivered, if it was. -/
def endFrame (n : Nat) (s : State) : State × Option CamFrame :=
  let x := s.stream n
  match x.frame with
  | none => (s, none)
  | some f0 =>
    let f := { f0 with
      corrupt := f0.corrupt || f0.lines.length != x.height
      lines := f0.lines ++ List.replicate (x.height - f0.lines.length) [] }
    let s1 := s.setStream n { x with frame := none }
    match f.ctx with
    | none => (s1, none)
    | some c =>
      let y := s1.ctx c
      if f0.abandoned then
        (s1.setCtx c { y with eccCorr := satAdd 65535 y.eccCorr f.ecc, crcErr := satAdd 65535 y.crcErr f.crc }, none)
      else if f.corrupt && y.dropCorrupt then
        (dropEvent c f.seq 2 (s1.setCtx c { y with
          eccCorr := satAdd 65535 y.eccCorr f.ecc, crcErr := satAdd 65535 y.crcErr f.crc
          corruptDrop := satAdd 65535 y.corruptDrop 1, dropped := y.dropped + 1 }), none)
      else (deliverFrame n c f s1, some f)

/-! ### Frame starts (R303, R312, R316) -/

/-- R308, R312: the settings states due by frame `seq` come into force. -/
def applyDue (n : Nat) (seq : FrameNo) (s : State) : State :=
  let x := s.stream n
  let now := x.due.filter fun e => FrameNo.notBefore seq e.first
  let s1 := s.setStream n { x with
    due := x.due.filter fun e => !FrameNo.notBefore seq e.first, id := (now.getLast?.map (·.id)).getD x.id }
  now.foldl (fun st e => e.parts.foldl (fun t p => t.setCtx p.1 { t.ctx p.1 with isp := (t.ctx p.1).isp.apply p.2 }) st) s1

/-- R312: the frame carries SLIPPED: it would carry a new ID but for a slip. -/
def CamStream.slippedAt (x : CamStream) (seq : FrameNo) : Bool :=
  let late := fun (p : CamState) => match p.n0 with
    | some n => decide (0 < p.slips) && FrameNo.notBefore seq (n + BitVec.ofNat 32 x.latency)
    | none => false
  (x.pending.any late) || (x.writing.any late) ||
    x.due.any fun e => e.slipFrom != e.first && FrameNo.notBefore seq e.slipFrom && !FrameNo.notBefore seq e.first

/-- R312: what an FS of a running stream does to the pending state. -/
def CamState.atFs (p : CamState) (seq : FrameNo) (now : Nat) : CamState :=
  match p.n0 with
  | none => { p with n0 := some seq, tFs := some now, pre := false }
  | some _ => { p with slips := p.slips + b2n p.tFs.isSome, tFs := some now }

/-- R303: pair an FS with the exposure entries: the entry taken, those that remain, and the orphans. -/
def pairEntry (now sofMax : Nat) (l : List Exposure) : Option Exposure × List Exposure × Nat :=
  let old := l.filter fun e => decide (e.time + sofMax < now)
  let rest := l.filter fun e => !decide (e.time + sofMax < now)
  (rest.head?, rest.drop 1, old.length)

/-- R303: the started context that takes a frame of band `band`. -/
def State.takes (s : State) (n band : Nat) : Option Nat :=
  (s.ctxsOf n).find? fun c => (s.ctx c).state == .started && (s.ctx c).band == band

/-- R315: a frame that no started context takes is discarded without being counted: its context has been stopped, or with it the whole
stream. -/
def State.silentStop (s : State) (n band : Nat) : Bool :=
  (s.ctxsOf n).any fun c => (s.ctx c).halted && ((s.ctx c).band == band || !s.streamRuns n)

/-- R316: staged outputs take effect. -/
def adoptOutputs (n : Nat) (s : State) : State :=
  (s.ctxsOf n).foldl (fun st c =>
    let y := st.ctx c
    st.setCtx c { y with outs := y.staged, rects := if y.calRects then y.rects else y.stagedRects }) s

/-- R303, R312, R316: an FS on stream `n`, the frame before it having ended. -/
def startFrame (n : Nat) (ecc : Nat) (s0 : State) : State :=
  let x0 := s0.stream n
  let seq := if x0.seen then x0.camSeq + 1 else x0.camSeq
  let s1 := applyDue n seq (adoptOutputs n (s0.setStream n { x0 with camSeq := seq, seen := true }))
  let x := s1.stream n
  let e := pairEntry s1.time.now (1000 * x.sofMaxUs) x.entries
  let band := (e.1.map (·.band)).getD 0x0F
  let c := s1.takes n band
  let atFs := fun (p : CamState) => if s1.streamRuns n then p.atFs seq s1.time.now else p
  let f : CamFrame :=
    { seq := seq, ctx := c, band := band, tSof := s1.time.now, tRef := (e.1.map (·.time)).getD s1.time.now
      hwm := (e.1.map (·.hwm)).getD s1.web.hwm, unpaired := e.1.isNone, suppressed := (e.1.map (·.suppressed)).getD false
      lfFrame := match e.1 with
        | some z => z.frame
        | none => s1.tickFrame s1.time.now
      slipped := CamStream.slippedAt { x with pending := x.pending.map atFs } seq
      id := x.id, isp := (c.map fun c => (s1.ctx c).isp).getD {}, outs := (c.map fun c => (s1.ctx c).outs).getD []
      rects := (c.map fun c => (s1.ctx c).rects).getD [], ecc := ecc }
  let s2 := s1.setStream n { x with
    entries := e.2.1, orphan := satAdd 65535 x.orphan e.2.2, unpaired := satAdd 65535 x.unpaired (b2n e.1.isNone)
    pending := x.pending.map atFs, frame := some f }
  let s3 := stamp 0x05 n seq.toNat s2
  match c with
  | some k =>
    let r := takeHandles k f.outs s3
    r.1.setStream n { r.1.stream n with frame := some { f with taken := r.2 } }
  | none => if s3.silentStop n band then s3 else dropNoCtx seq s3

/-! ### Lines (R300, R304, R313) -/

/-- CSI-2 pixel packing of the RAW types: `bits` per sample, the high eight bits of each sample first, then the low bits
packed together. -/
def unpackRaw (bits : Nat) (bs : List Byte) : List Nat :=
  let per := match bits with
    | 8 => 1 | 10 => 4 | 12 => 2 | _ => 4
  let low := bits - 8
  let group := per + per * low / 8
  (List.range (bs.length / group)).flatMap fun g =>
    let tail := numAt bs (g * group + per) (group - per)
    (List.range per).map fun i => byteAt bs (g * group + i) * 2 ^ low + bitsAt tail (low * i) low

/-- R300: a RAW data type. -/
def rawType (t : Nat) : Bool := decide (0x2A ≤ t) && decide (t ≤ 0x2D)

/-- The stream of a port and a virtual channel. -/
def State.streamAt (s : State) (port vc : Nat) : Option Nat :=
  eight.find? fun n => (s.stream n).set && (s.stream n).port == port && (s.stream n).vc == vc

/-- R300, R304: a packet of a port is discarded. -/
def dropPacket (port : Nat) (s : State) : State :=
  let p := s.camPort port
  s.setCamPort port { p with typeDrop := satAdd 65535 p.typeDrop 1 }

/-- R300, R322: data arrived at a port. -/
def seenPort (port : Nat) (deskew : Bool) (s : State) : State :=
  let p := s.camPort port
  s.setCamPort port { p with hsAt := some s.uptime, deskew := p.deskew || deskew }

/-- R304, R313: a line of the frame in progress of stream `n`. `ecc` is 1 for a corrected header. -/
def addLine (n : Nat) (dt : Nat) (payload : List Byte) (ecc : Nat) (crcOk : Bool) (s0 : State) : State :=
  let s := drainPipe s0.cam.waiting.length s0
  let full := eight.any fun m => decide (6 ≤ (s.cam.waiting.filter fun e => e.2.1 == m).length)
  let s1 := if full then abandonLowest s else s
  let x := s1.stream n
  match x.frame with
  | none => s1
  | some f =>
    let samples := unpackRaw (rawBits x.format) payload
    let fast := match f.lastLine with
      | some t => decide ((s1.uptime - t) * x.maxLineRate < 10 ^ 9)
      | none => false
    let bad := dt != x.format || samples.length != x.width || !crcOk || decide (x.height ≤ f.lines.length)
    let f1 := { f with
      ecc := f.ecc + b2n (ecc == 1), crc := f.crc + b2n (!crcOk), corrupt := f.corrupt || bad
      overrate := f.overrate || fast, lastLine := some s1.uptime
      lines := if f.abandoned || decide (x.height ≤ f.lines.length) then f.lines else f.lines ++ [fitLine x.width samples] }
    let s2 := s1.setStream n { x with
      frame := some f1, overrate := if fast && !f.overrate then satAdd 255 x.overrate 1 else x.overrate }
    match f.ctx with
    | none => s2
    | some c =>
      if f.abandoned || decide (x.height ≤ f.lines.length) then s2
      else s2.withCam fun m => { m with waiting := m.waiting ++ [(c, n, s1.uptime, lineCost x.width)] }

/-- R304: a header that cannot be corrected: its packet is discarded. -/
def badHeader (port vc : Nat) (s : State) : State :=
  match s.streamAt port vc with
  | none => dropPacket port s
  | some n =>
    let x := s.stream n
    match x.frame with
    | some f => s.setStream n { x with frame := some { f with crc := f.crc + 1, corrupt := true } }
    | none => dropPacket port s

/-- R304: a packet that carries no line is charged to the frame it belongs to: a corrected header, and a payload that failed its CRC. -/
def chargePacket (port vc ecc : Nat) (crcOk : Bool) (s : State) : State :=
  match s.streamAt port vc with
  | none => s
  | some n =>
    let x := s.stream n
    match x.frame with
    | none => s
    | some f => s.setStream n { x with frame := some { f with
        ecc := f.ecc + ecc, crc := f.crc + b2n (!crcOk), corrupt := f.corrupt || !crcOk } }

/-- R300: Line Start and Line End. -/
def lineSync (t : Nat) : Bool := t == 0x02 || t == 0x03

/-- CSI_LINE_PACKET (R300, R304, R313): `ecc` is 0 for a faultless header, 1 for a corrected one, 2 for one beyond
correction. Line Start and Line End are ignored, every other packet that is no RAW line is counted and discarded; short packets, whose
data type is below 0x10, have no CRC. -/
def execCsiLinePacket (port vc dt : Nat) (payload : List Byte) (ecc : Nat) (crcOk : Bool) (s : State) :
    Host.Outcome State Fault Refusal :=
  if (s.camPort port).lanes = 0 then .next s
  else
    let s1 := seenPort port false s
    if 1 < ecc then .next (badHeader port vc s1)
    else if lineSync dt then .next (chargePacket port vc ecc true s1)
    else if !rawType dt then .next (dropPacket port (chargePacket port vc ecc (crcOk || decide (dt < 0x10)) s1))
    else
      match s1.streamAt port vc with
      | none => .next (dropPacket port s1)
      | some n => .next (if (s1.stream n).frame.isNone then dropPacket port s1 else addLine n dt payload ecc crcOk s1)

/-! ### Scripts (R309, R312) -/

/-- R312, R315: the running streams of a port that wait for its bus, earliest FS first. -/
def State.scriptNext (s : State) (port : Nat) : Option (Nat × CamState × Nat) :=
  (eight.filter fun n => (s.stream n).set && (s.stream n).port == port && s.streamRuns n).foldl (fun a n =>
    match (s.stream n).pending with
    | some p =>
      match p.tFs, a with
      | some t, none => some (n, p, t)
      | some t, some b => if t < b.2.2 then some (n, p, t) else a
      | none, _ => a
    | none => a) none

/-- SCRIPT_WRITE_START (R309, R312): bus `port` is idle and the earliest waiting state starts, or slips. -/
def execScriptWriteStart (port : Nat) (s : State) : Host.Outcome State Fault Refusal :=
  if eight.any fun n => (s.stream n).set && (s.stream n).port == port && (s.stream n).writing.isSome then .next s
  else
    match s.scriptNext port with
    | none => .next s
    | some (n, p, t) =>
      let x := s.stream n
      if p.pre || decide (s.time.now + scriptTime (s.camPort port).i2cSpeed p.script ≤ t + 1000 * x.windowUs) then
        .next (s.setStream n { x with pending := none, writing := some p })
      else .next (s.setStream n { x with pending := some { p with tFs := none, slips := p.slips + 1 } })

/-- SCRIPT_WRITE_DONE (R309, R312): the script on bus `port` ends, its entries sent, or it stops at entry `nak`, which is not
acknowledged. -/
def execScriptWriteDone (port : Nat) (nak : Option Nat) (s : State) : Host.Outcome State Fault Refusal :=
  match eight.find? fun n => (s.stream n).set && (s.stream n).port == port && (s.stream n).writing.isSome with
  | none => .next s
  | some n =>
    let x := s.stream n
    match x.writing with
    | none => .next s
    | some p =>
      let next : FrameNo := if x.seen then x.camSeq + 1 else x.camSeq
      let n0 := p.n0.getD next
      let nn := if p.pre then next else n0 + BitVec.ofNat 32 p.slips
      let late := match p.tFs with
        | some t => decide (t + 1000 * x.windowUs < s.time.now)
        | none => false
      let first := if p.pre then next else nn + BitVec.ofNat 32 (x.latency + b2n late)
      let sent := fun (es : List ScriptEntry) (st : State) => es.foldl (fun st e => st.emit (.i2c port x.i2cAddr e.bytes)) st
      match nak with
      | some i =>
        .next (settingsDone p.cmd n p.id 2 nn 0 p.slips i (sent (p.script.take (i + 1)) (s.setStream n { x with writing := none })))
      | none =>
        let e : CamDue := { id := p.id, parts := p.parts
                            slipFrom := if p.pre || p.slips = 0 then first else n0 + BitVec.ofNat 32 x.latency, first := first }
        .next (settingsDone p.cmd n p.id 0 nn first p.slips 0
          (sent p.script (s.setStream n { x with writing := none, due := x.due ++ [e] })))

end Sys2Proof.Machine
end

