-- ==== Sys2Proof/Machine/LfSplit.lean ====
section
/-! DEFINITION. The cutoff of a light-field frame and the split-panel lock (R118, R131, R290 to R296, R486, R487). -/

namespace Sys2Proof.Machine

/-! ### Held frames (R291, R292) -/

/-- R291, R292: whether frame `f` is held is settled. -/
def settleHeld (f : FrameNo) (held : Bool) (s : State) : State :=
  let was := s.scan.heldLatest
  let s1 := s.updFrame f fun r => { r with lfHeld := held }
  let s2 := if held then giveBack f s1 else s1
  let s3 := s2.withScan fun x =>
    { x with heldLatest := held, run := if held then x.run + 1 else 0
             heldCount := satAdd 65535 x.heldCount (b2n held) }
  if held = was then s3 else raise Src.scan 0x0004 (le 1 (b2n held) ++ le 4 f.toNat) s3

/-! ### SPLIT_READY (R295) -/

/-- R295: the number of the latest hitch commit whose applied frame is not later than `f`. -/
def State.hitchSeqAt (s : State) (f : FrameNo) : Nat :=
  ((s.frames.commits.filter fun c => c.hitch != 0 && FrameNo.notBefore f c.applied).getLast?.map (·.hitch)).getD
    s.frames.baseHitch

/-- R295: the body of SPLIT_READY for frame `f`, whose readiness and holding are given. -/
def State.splitBody (s : State) (f : FrameNo) (ready hold : Bool) : List Byte :=
  let t := s.scan.timing
  le 4 f.toNat ++ le 8 (unsigned 64 (s.frameTime f)) ++ le 4 (s.hitchSeqAt f) ++
    le 1 (b2n ready + 2 * b2n hold + 4 * b2n s.timeOk) ++ le 1 t.depth ++ le 4 t.frameNs ++ le 4 t.frameFrac ++
    le 2 t.rowsActive ++ le 2 t.rowsBlank ++ le 2 (unsigned 16 (saturate 16 s.time.offset))

/-- R296: every timing field of two messages is equal. -/
def sameSplitTiming (a b : List Byte) : Bool := numAt a 4 8 == numAt b 4 8 && ((a.drop 17).take 13 == (b.drop 17).take 13)

/-- A bit of VERDICT. -/
def verdict (m : List Byte) (i : Nat) : Bool := bitAt (byteAt m 16) i

/-! ### The decision (R296, R487) -/

/-- R296: change the split state; SPLIT_STATE reports it. -/
def setSplit (new : SplitState) (cause : Nat) (f : FrameNo) (s : State) : State :=
  let old := s.scan.split.state
  raise Src.scan 0x0003 (le 1 old.code ++ le 1 new.code ++ le 1 cause ++ le 4 f.toNat)
    (s.withScan fun x => { x with split := { x.split with state := new } })

/-- R122, R296: frame `f` is repeated: it takes no buffer and pins none. -/
def repeatFrame (f : FrameNo) (s : State) : State :=
  let s1 := (s.frame f).pins.foldl unpinBuf s
  let s2 := s1.updFrame f fun r => { r.mark .pairedRepeat with pins := [], repeated := true, awaiting := false }
  settleHeld f false ((giveBack f s2).withScan fun x =>
    { x with split := { x.split with repeats := satAdd 65535 x.split.repeats 1 } })

/-- R296: decide frame `f` from the message that stands for this side and the partner's, where they arrived. -/
def decideSplit (f : FrameNo) (mine theirs : Option (List Byte)) (s : State) : State :=
  let both := match mine, theirs with
    | some a, some b => some (a, b)
    | _, _ => none
  let isMatch := match both with
    | some (a, b) => sameSplitTiming a b && verdict a 2 && verdict b 2
    | none => false
  let cause := match both with
    | none => 1
    | some (a, b) => if !sameSplitTiming a b then 2 else 3
  let sp := s.scan.split
  let s0 := s.withScan fun x => { x with split := { x.split with
    due := x.split.due.filter fun e => e.1 != f.toNat
    inbox := x.split.inbox.filter fun e => FrameNo.later (BitVec.ofNat 32 e.1) f
    holderInbox := x.split.holderInbox.filter fun e => FrameNo.later (BitVec.ofNat 32 e.1) f } }
  if sp.state = .locked then
    let good := match both with
      | some (a, b) => isMatch && verdict a 0 && verdict b 0 && numAt a 12 4 == numAt b 12 4
      | none => false
    if good then
      let hold := match both with
        | some (a, b) => verdict a 1 && verdict b 1
        | none => false
      settleHeld f hold ((s0.updFrame f fun r => { r with awaiting := false }).withScan fun x =>
        { x with split := { x.split with misses := 0 } })
    else
      let misses := if isMatch then sp.misses else sp.misses + 1
      let s1 := (repeatFrame f s0).withScan fun x => { x with split := { x.split with misses := misses } }
      if sp.miss ≤ misses ∨ (both.isSome ∧ !isMatch) then setSplit .alone cause f s1 else s1
  else if isMatch then setSplit .locked 0 f (s0.withScan fun x => { x with split := { x.split with misses := 0 } })
  else s0

/-- R296, R487: the message that stands for this side. -/
def State.splitMine (s : State) (f : FrameNo) (own : List Byte) : Option (List Byte) :=
  if s.tan.state = .shadow then (s.scan.split.holderInbox.find? fun e => e.1 == f.toNat).map (·.2) else some own

/-- R296: decide every frame whose messages have arrived. -/
def settleSplit (s : State) : State :=
  s.scan.split.due.foldl (fun st e =>
    let f : FrameNo := BitVec.ofNat 32 e.1
    let theirs := (st.scan.split.inbox.find? fun m => m.1 == e.1).map (·.2)
    let mine := st.splitMine f e.2.2
    if theirs.isSome && mine.isSome then decideSplit f mine theirs st else st) s

/-- SPLIT_READY_RX (R295, R296, R487): a hitch message of type 0x20. -/
def execSplitReadyRx (bytes : List Byte) (s : State) : Host.Outcome State Fault Refusal :=
  let h := s.time.hitch
  let sp := s.scan.split
  if !h.joined || sp.state == .off then .next s
  else
    match s.hitchMsg bytes with
    | none => .next (ethDrop h.port s)
    | some m =>
      let f := numAt m.body 0 4
      if m.ty ≠ 0x20 then .next s
      else if some m.sender = sp.partner then
        .next (settleSplit (s.withScan fun x => { x with split := { x.split with
          inbox := x.split.inbox ++ [(f, m.body)], skewPartner := signed 16 (numAt m.body 30 2) } }))
      else if m.sender = h.member ∧ s.tan.state = .shadow then
        .next (settleSplit (s.withScan fun x => { x with split := { x.split with
          holderInbox := x.split.holderInbox ++ [(f, m.body)] } }))
      else .next s

/-- SPLIT_WAIT_EXPIRY (R296, R487): SPLIT_WAIT_US after the cutoff of frame `f` without the message. -/
def execSplitWaitExpiry (frame : FrameNo) (s : State) : Host.Outcome State Fault Refusal :=
  match s.scan.split.due.find? fun e => e.1 == frame.toNat && decide (e.2.1 + 1000 * s.scan.split.waitUs ≤ s.time.now) with
  | none => .next s
  | some e =>
    let theirs := (s.scan.split.inbox.find? fun m => m.1 == e.1).map (·.2)
    .next (decideSplit frame (s.splitMine frame e.2.2) theirs s)

/-! ### The cutoff (R118, R290, R291, R295) -/

/-- R116: the cutoff of the earliest OPEN frame of a scan has been reached. -/
def State.lfCutoffDue (s : State) : Bool :=
  s.ticking && decide (s.lfCutoffTime s.frames.openFirst ≤ s.clock)

/-- R290: HOLD follows the REFRESH_DIV of the generation of frame `f`. -/
def followRefresh (f : FrameNo) (s : State) : State :=
  let div := (s.cfgOf f).lf.refreshDiv
  let s1 := s.withScan fun x => { x with divLatest := div, static := Nat.min 65535 (s.staticOf f) }
  if (decide (1 < div)) = s.scan.holdOn then s1 else writePanels (decide (1 < div)) s1

/-- R295: send SPLIT_READY for frame `f` and open its decision. -/
def sendSplit (f : FrameNo) (hold : Bool) (s : State) : State :=
  let body := s.splitBody f (!(s.frame f).notReady) hold
  settleSplit ((sendHitch 0x20 body s).withScan fun x => { x with split := { x.split with
    due := x.split.due ++ [(f.toNat, s.time.now, body)], skewOwn := saturate 16 s.time.offset } })

/-- R118, R253, R290 to R295: the cutoff of frame `f` of a scan. -/
def lfCutoff (f : FrameNo) (s : State) : State :=
  let fresh := f == s.scan.first || s.genOf f != s.genOf (f - 1)
  let s0 := s.withScan fun x => { x with genStart := if fresh then f else x.genStart }
  let hold := s0.wouldHold f
  let s1 := enterCut f s0
  let groups := [false, true].filter fun b => !(s1.groupLinks b).isEmpty
  let s2 := s1.updFrame f fun r =>
    let r1 := { r with barsLeft := groups.map b2n }
    if s1.lfHalted then r1.mark .halted else r1
  let s3 := if (s2.frame f).skipped then giveBack f s2 else s2
  let s4 := followRefresh f s3
  match s4.scan.split.state with
  | .off => settleHeld f (hold && !(s4.frame f).skipped) s4
  | .locked => sendSplit f hold (s4.updFrame f fun r => { r with awaiting := true })
  | .waiting => sendSplit f hold (settleHeld f (hold && !(s4.frame f).skipped) s4)
  | .alone => sendSplit f hold (settleHeld f (hold && !(s4.frame f).skipped) s4)

end Sys2Proof.Machine
end

