-- ==== Sys2Proof/Machine/Commit.lean ====
section
/-! DEFINITION. Commits: PRN_COMMIT and SCAN_COMMIT, the line-buffer fit, the load estimate, the commits of the
calibration engine, and the assignment of hitch commits (R109 to R115, R126, R139, R149, R261 to R263, R277, R285 to
R288, R297, R397, R398, R485). -/

namespace Sys2Proof.Machine

/-! ### Line-buffer fit (R126, R149, R261) -/

/-- R126: what the fit of one layer comes to: it fits, it is lowered to fewer taps, or it does not fit. -/
inductive Fit where
  | fits | lowered (want used : Nat) | fails
  deriving DecidableEq, Repr

/-- R126: a layer of width `w` and `v` vertical taps. -/
def fitOf (w v : Nat) (reduce : Bool) : Fit :=
  if w * v ≤ 32768 then .fits
  else if reduce && decide (2 ≤ 32768 / Nat.max 1 w) then .lowered v (32768 / Nat.max 1 w)
  else .fails

/-- R126: the vertical taps that a fit leaves in use; 0 for the filter's own. -/
def Fit.taps : Fit → Nat
  | .fits => 0 | .lowered _ u => u | .fails => 0

/-- R149: the fit of a print layer for a strip of `k` × 1,024 columns. -/
def Layer.fit (l : Layer) (k : Nat) : Fit :=
  let h := filterH l.filter
  fitOf (ceilDiv (k * 1024) (Nat.max 1 l.scaleX) + h - 1) h l.allowReduce

/-- R261: the fit of an overlay plane. -/
def Plane.fit (p : Plane) : Fit :=
  let h := if p.cubic then 4 else 2
  fitOf (Nat.min (ceilDiv (4096 * p.a00.natAbs) 65536) p.width + h - 1) h p.allowReduce

/-- R126: the fits of every layer or overlay plane that a configuration binds, in order of their index. -/
def State.fits (s : State) (c : OutCfg) : List (Nat × Fit) :=
  match s.top.mode with
  | .print =>
    (List.range 8).filterMap fun n =>
      let l := Tab.get {} c.prn.layers n
      if l.bound then some (n, l.fit s.prn.job.stripK) else none
  | .lightfield =>
    ((List.range 4).map (64 + ·)).filterMap fun n =>
      let p := Tab.get {} c.lf.planes n
      if p.bound then some (n, p.fit) else none
  | .none => []

/-- R126: the configuration with the vertical taps that its fits leave. -/
def OutCfg.withTaps (c : OutCfg) (m : Mode) (fs : List (Nat × Fit)) : OutCfg :=
  if m = .print then
    { c with prn := { c.prn with layers := fs.foldl (fun t e =>
        Tab.upd {} t e.1 fun l => { l with vtaps := e.2.taps }) c.prn.layers } }
  else
    { c with lf := { c.lf with planes := fs.foldl (fun t e =>
        Tab.upd {} t e.1 fun p => { p with vtaps := e.2.taps }) c.lf.planes } }

/-- R126: TAPS_REDUCED for each layer lowered, before the completion record of command `id`. -/
def tapsReduced (id : Nat) (fs : List (Nat × Fit)) (s : State) : State :=
  fs.foldl (fun st e =>
    match e.2 with
    | .lowered want used =>
      raiseBetween 0 id (if st.top.mode = .print then Src.prn else Src.lfr) 0x0102 (le 1 e.1 ++ le 1 want ++ le 1 used) st
    | .fits => st
    | .fails => st) s

/-! ### Load estimate (R262, R263) -/

/-- R262: worst-case render cycles of a band of a configuration. -/
def LfCfg.bandCycles (c : LfCfg) : Nat :=
  let e := 8 * c.map.cols * c.map.subpix
  let depth := ((List.range 64).filter fun n => (Tab.get {} c.planes n).bound).length
  let ovs := ((List.range 4).map fun i => Tab.get {} c.planes (64 + i)).filter (·.bound)
  let taps := 4 * depth + ovs.foldl (fun a p => a + (if p.cubic then 4 else 2) * p.v) 0
  4096 + Nat.max (ceilDiv (e * taps) 16) (Nat.max (ceilDiv (e * (depth + ovs.length)) 8) (ceilDiv e 8))

/-- R263: the worst-case load in 1/1,000, to the nearest. -/
def State.loadOf (s : State) (c : LfCfg) : Nat :=
  let t := s.scan.timing
  let d := t.frame * s.fuse.part.engines
  if d = 0 then 0 else (2 * (c.bandCycles * (t.rowsActive / 8) * 800 * 2 ^ 32) + d) / (2 * d)

/-- R263: note the load of a new generation. -/
def noteLoad (g : FrameNo) (c : LfCfg) (s : State) : State :=
  if s.top.mode ≠ .lightfield then s
  else
    let l := Nat.min (2 ^ 32 - 1) (s.loadOf c)
    let s1 := s.withScan fun x => { x with loadEst := l, bandCycles := c.bandCycles }
    if 1000 < l then raise Src.lfr 0x0001 (le 4 g.toNat ++ le 2 (Nat.min 65535 l) ++ le 4 c.bandCycles) s1 else s1

/-! ### Checks of a commit's new configuration (R114, R115, R277) -/

/-- R250, R251: which calibration results a host commit leaves in force, by the order of commits: those in force before it, but where
it brings a new ray map or a new emitter table, none of the kind that this replaces; a map with another number of emitters clears
both. -/
def LfCfg.keepCal (old new : LfCfg) : LfCfg :=
  let newMap := decide (new.map.load ≠ old.map.load)
  let cleared := newMap && decide (new.map.emitters ≠ old.map.emitters)
  { new with
    resCal := !newMap && old.resCal, residuals := if cleared then [] else old.residuals
    gainCal := !cleared && decide (new.gain.load = old.gain.load) && old.gainCal, gains := if cleared then [] else old.gains }

/-- R251: a host's configuration with the calibration results it leaves in force. -/
def State.calKept (s : State) (c : OutCfg) : OutCfg := { c with lf := s.frames.latest.lf.keepCal c.lf }

/-- R64: the configuration that a commit beginning now would make. -/
def State.newCfg (s : State) : OutCfg := s.calKept s.frames.staged

/-- R112: the ray map and the emitter table are buffers that a light-field configuration names too. -/
def OutCfg.named (c : OutCfg) (m : Mode) : List LayerUse :=
  c.uses m ++
    (if m = .lightfield then
      (if c.lf.map.load = 0 then [] else [{ idx := 68, handle := c.lf.map.handle, policy := .skipFrame }]) ++
        (if c.lf.gain.table && !c.lf.gainCal then [{ idx := 69, handle := c.lf.gain.handle, policy := .skipFrame }] else [])
    else [])

/-- R277: the ray map of the new generation does not agree with the panel map and the timing. -/
def State.mapDiffers (s : State) (c : LfCfg) : Bool :=
  s.top.mode == .lightfield && c.map.load != 0 &&
    !(c.map.cols == s.scan.map.cols && c.map.subpix == s.scan.map.subpix && c.map.rows == s.scan.timing.rowsActive)

/-- R114: the opcode of the commit that holds the oldest of the 16 places, if none is free. -/
def State.placesFull (s : State) : Option Nat :=
  match s.pendingCommits with
  | [] => none
  | p :: ps => if 16 ≤ ps.length + 1 then some p.opcode else none

/-- R114, R115, R277: the status, DETAIL and RESULT with which a commit fails, if it does. -/
def State.commitFailure (s : State) (c : OutCfg) : Option (Nat × Nat × Nat) :=
  match s.badBuffer (c.named s.top.mode) with
  | some b => some (St.badParam, 256 * b.2, b.1)
  | none =>
    match (s.fits c).find? fun e => e.2 == .fails with
    | some e => some (St.badParam, 256 * Rsn.linebuf, e.1)
    | none =>
      if s.mapDiffers c.lf then some (St.badParam, 256 * Rsn.range, 68)
      else s.placesFull.map fun op => (St.resourceBusy, op, 0)

/-! ### Assignment (R109, R112) -/

/-- R112, R126, R263: command `id` takes a generation for `cfg` at frame `a`; everything staged has been taken. -/
def assignCommit (id op : Nat) (a : FrameNo) (cfg0 : OutCfg) (hitch : Nat) (s : State) : State :=
  let cfg := s.calKept cfg0
  let fs := s.fits cfg
  let c := cfg.withTaps s.top.mode fs
  let s1 := assignAt op a c (tapsReduced id fs s) hitch
  refreshPeriods (noteLoad s1.frames.genLast c.lf s1)

/-- R64, R109: the hitch commits that `older` picks began before the commit now assigned, which holds all they staged: what is in force
when they are assigned is its configuration. -/
def overtake (older : HitchCommit → Bool) (cfg : OutCfg) (s : State) : State :=
  s.withFrames fun x => { x with hitch := x.hitch.map fun c => if older c then { c with cfg := cfg } else c }

/-- R112: a host commit that runs at once: its completion carries FRAME and the generation. -/
def commitNow (k op : Nat) (nextOpen : Bool) (target : FrameNo) (s : State) : State :=
  let c := s.newCfg
  match s.commitFailure c with
  | some f => complete k f.1 f.2.1 f.2.2 none s
  | none =>
    let a := s.frames.applied nextOpen target
    let s1 := overtake (fun _ => true) c (assignCommit (s.slot k).id op a c 0 s)
    complete k (if nextOpen || a == target then St.ok else St.late) 0 s1.frames.genLast.toNat (some a) s1

/-! ### Hitch commits (R397, R398) -/

/-- R397: an estimate of the time from now to the cutoff of frame `f`, in ns; none while the web does not move. -/
def State.cutoffIn (s : State) (f : FrameNo) : Option Int :=
  if s.top.mode = .lightfield then some (s.lfCutoffTime f - s.clock)
  else
    let r := s.lineRate
    let dist := (s.frameLine f - 32 * Int.ofNat (s.frames.nCut + 1)) * 256 - s.lpMax s.jobBars
    if r.num ≤ 0 then none else some (Int.tdiv (dist * 1000000000 * Int.ofNat r.den) (256 * r.num))

/-- R397: E: the earliest OPEN frame whose cutoff lies at least LEAD_US ahead. -/
def State.earliestLead (s : State) : FrameNo :=
  let lead : Int := Int.ofNat (1000 * s.time.hitch.leadUs)
  let cand := (List.range 4096).map fun i => s.frames.openFirst + BitVec.ofNat 32 i
  (cand.find? fun f => match s.cutoffIn f with
    | none => true
    | some t => decide (lead ≤ t)).getD (s.frames.openFirst + 4096)

/-- R397: the body of a PROPOSE for frame `f`. -/
def State.proposal (s : State) (f : FrameNo) : Proposal :=
  { member := s.time.hitch.member, frame := f.toNat, earliest := s.earliestLead.toNat
    prev := (s.frames.prevApplied.getD f).toNat }

/-- Bytes of a PROPOSE. -/
def Proposal.body (p : Proposal) : List Byte := le 4 p.frame ++ le 4 p.earliest ++ le 4 p.prev

/-- R397, R486: the leader: the lowest-indexed present member of MEMBER_MASK, of a tandem pair the controller that sends. -/
def State.hitchLeader (s : State) : Bool :=
  let h := s.time.hitch
  !s.hitchMuted && !((List.range h.member).any fun m => bitAt h.mask m && h.present.contains m)

/-- R288: of two stops the earlier one holds. -/
def earlierStop (old : Option FrameNo) (a : FrameNo) : FrameNo := match old with
  | none => a
  | some b => if FrameNo.later a b then b else a

/-- R114, R397, R398: this member learns A of frame `f`: its commit is assigned, or the divergence is recorded. A commit whose
job or scan has ended meanwhile completes with ST_WRONG_STATE (log 22). One that finds no place completes under R114, and the
divergence is reported with no applied frame (DESIGN CHOICE, log 63). -/
def applyDecide (f a : FrameNo) (sq : Nat) (s0 : State) : State :=
  let s := s0.withHitch fun h => { h with seen := Nat.max h.seen sq }
  let diverged := fun (at' : Nat) (st : State) =>
    raise Src.time 0x0012 (le 4 sq ++ le 4 a.toNat ++ le 4 at')
      (st.withHitch fun h => { h with diverge := satAdd (2 ^ 32 - 1) h.diverge 1 })
  match s.frames.hitch.find? fun c => c.frame == f with
  | some c =>
    if !s.prn.job.isOpen && !s.scanning then
      let s1 := s.withFrames fun x => { x with hitch := x.hitch.filter fun d => d.frame != f }
      if s1.running c.slot c.id then complete c.slot St.wrongState s.top.dev.code 0 none s1 else s1
    else if !c.stop && s.placesFull.isSome then
      let s1 := s.withFrames fun x => { x with hitch := x.hitch.filter fun d => d.frame != f }
      diverged 0 (if s1.running c.slot c.id then complete c.slot St.resourceBusy (s.placesFull.getD 0) 0 none s1 else s1)
    else
    let at' := s.frames.applied false a
    let before := s.frames.hitch.takeWhile fun d => d.frame != f
    let s1 := (s.withFrames fun x => { x with hitch := x.hitch.filter fun d => d.frame != f }).withHitch fun h =>
      { h with applied := sq }
    let s2 := if c.stop then s1.withScan fun x => { x with stop := some (earlierStop x.stop at'), phase := .stopping }
      else overtake before.contains c.cfg (assignCommit c.id c.opcode at' c.cfg sq s1)
    let st := if at' = f then St.ok else St.late
    let s3 := if s2.running c.slot c.id then
        complete c.slot st 0 (if c.stop then 0 else s2.frames.genLast.toNat) (some at') s2
      else s2
    let s4 := raise Src.time 0x0011 (le 4 sq ++ le 4 f.toNat ++ le 4 a.toNat) s3
    if at' = a then s4 else diverged at'.toNat s4
  | none =>
    if s.time.hitch.timedOut.contains f.toNat then
      diverged 0 (s.withHitch fun h => { h with timedOut := h.timedOut.filter (· != f.toNat) })
    else s

/-- R397: a DECIDE goes out three times, 50 µs apart: now and twice more. -/
def sendDecide (f a : FrameNo) (sq : Nat) (s : State) : State :=
  (sendHitch 0x11 (decideBody (f.toNat, a.toNat, sq)) s).withHitch fun h =>
    { h with again := h.again ++ [(s.uptime + 50000, (f.toNat, a.toNat, sq), 2)] }

/-- R397: the later of two frame numbers. -/
def laterOf (a b : FrameNo) : FrameNo := if FrameNo.later b a then b else a

/-- R397: the leader decides frame `f` once it holds every proposal. -/
def leaderDecide (f : FrameNo) (s : State) : State :=
  let h := s.time.hitch
  let ps := h.proposals.filter fun p => p.frame == f.toNat
  let all := (List.range 16).all fun m => !bitAt h.mask m || ps.any fun p => p.member == m
  if !s.hitchLeader || !all || ps.isEmpty then s
  else
    let a := ps.foldl (fun a p => laterOf (laterOf a (BitVec.ofNat 32 p.earliest)) (BitVec.ofNat 32 p.prev)) f
    let sq := h.seen + 1
    let s1 := s.withHitch fun h =>
      { h with seen := sq, proposals := h.proposals.filter fun p => p.frame != f.toNat
               firstAt := Tab.put 0 h.firstAt f.toNat 0, decided := (h.decided ++ [(f.toNat, a.toNat, sq)]).drop
                 ((h.decided.length + 1) - 16) }
    applyDecide f a sq (sendDecide f a sq s1)

/-- R397: hold a proposal. `firstAt` is the time of the first proposal for its frame, plus one. -/
def holdProposal (p : Proposal) (s : State) : State :=
  leaderDecide (BitVec.ofNat 32 p.frame) (s.withHitch fun h =>
    { h with
      proposals := (h.proposals.filter fun q => !(q.member == p.member && q.frame == p.frame)) ++ [p]
      firstAt := if Tab.get 0 h.firstAt p.frame = 0 then Tab.put 0 h.firstAt p.frame (s.uptime + 1) else h.firstAt })

/-- R397: send PROPOSE for frame `f`, and hold it here too. -/
def propose (f : FrameNo) (s : State) : State :=
  let p := s.proposal f
  holdProposal p (sendHitch 0x10 p.body s)

/-- R64, R397: a hitch commit begins. -/
def startHitchCommit (k op : Nat) (stop : Bool) (f : FrameNo) (s : State) : State :=
  let c := s.newCfg
  match (if stop then none else s.commitFailure c) with
  | some e => complete k e.1 e.2.1 e.2.2 none s
  | none =>
    propose f (s.withFrames fun x =>
      { x with hitch := x.hitch ++
          [{ slot := k, id := (s.slot k).id, opcode := op, stop := stop, frame := f, start := s.uptime, lastSent := s.uptime
             cfg := c }] })

/-! ### The commit commands (R110, R139, R285 to R288, R297) -/

/-- R110: NEXT_OPEN. -/
def Slot.nextOpen (d : Slot) : Bool := bitAt (d.u 12 1) 0
/-- R110: HITCH. -/
def Slot.hitch (d : Slot) : Bool := bitAt (d.u 12 1) 1
/-- R110: TARGET_FRAME. -/
def Slot.target (d : Slot) : FrameNo := BitVec.ofNat 32 (d.u 8 4)

/-- R110, R112, R397: the parameters that both commit commands share. -/
def commitParams (d : Slot) (s : State) : List PF :=
  [if d.nextOpen then rz 8 (d.u 8 4) else need (!FrameNo.tooFar d.target s.frames.openFirst) 8 Rsn.frame,
   need (d.u 12 1 < 4) 12 Rsn.reserved, need (!(d.hitch && d.nextOpen)) 12 Rsn.range, rzb d 13 16]

/-- R396, R397: a hitch commit needs a joined hitch without CONFLICT. -/
def hitchAllowed (d : Slot) (s : State) : Bool := !d.hitch || (s.time.hitch.joined && !s.time.hitch.conflict)

/-- Checks of PRN_COMMIT (R139). -/
def prnCommitChecks : Checks where
  allowed := fun d s => s.prn.job.isOpen && hitchAllowed d s
  params := fun d s =>
    commitParams d s ++
      [need (d.nextOpen || !(s.prn.job.closing && FrameNo.later d.target s.prn.job.lastFrame)) 8 Rsn.frame,
       jobIdFault 16 d s, rzb d 20 64]

/-- PRN_COMMIT (R109, R110, R112 to R115, R126, R139, R397). -/
def execPrnCommit (slot : Nat) (s : State) : Host.Outcome State Fault Refusal :=
  runCmd 0x0304 slot prnCommitChecks (fun k d st =>
    if d.hitch then startHitchCommit k 0x0304 false d.target st else commitNow k 0x0304 d.nextOpen d.target st) s

/-- R286: START can run. -/
def State.startAllowed (s : State) : Bool :=
  s.top.dev == .armed && !s.scanning && s.scan.timing.given && !s.scan.map.nodes.isEmpty &&
    s.scan.map.nodes.all fun n => s.claimed (n.node / 8)

/-- The state as it would be with the scan's first frame and start time set. -/
def State.withStart (s : State) (first : FrameNo) (start : Nat) : State :=
  s.withScan fun x => { x with first := first, start := start }

/-- R286, R294: parameters of START. -/
def startParams (d : Slot) (s : State) : List PF :=
  let first : FrameNo := BitVec.ofNat 32 (d.u 20 4)
  let s1 := s.withStart first (d.u 24 8)
  let t := s.scan.timing
  [need (!d.nextOpen && d.target == first) 8 Rsn.range,
   need (s.scan.split.partner.isNone || decide (1000 * s.scan.split.waitUs < t.rowsNs (8 * t.nCut))) 10 Rsn.range,
   need (d.u 12 1 < 4) 12 Rsn.reserved, rzb d 13 16, rzb d 17 20,
   need (decide (s.clock + 1000000 ≤ s1.lfCutoffTime first)) 24 Rsn.range, rzb d 32 64]

/-- R285, R297: parameters of UPDATE and STOP. -/
def updateParams (d : Slot) (s : State) : List PF :=
  commitParams d s ++
    [need (s.scan.split.state == .off || d.hitch) 12 Rsn.range, rzb d 17 64]

/-- Checks of SCAN_COMMIT. -/
def scanCommitChecks : Checks where
  allowed := fun d s =>
    hitchAllowed d s && (if d.u 16 1 = 1 then s.startAllowed else if d.u 16 1 = 0 ∨ d.u 16 1 = 2 then s.ticking else true)
  selector := fun d _ => inR 16 (d.u 16 1) 0 2
  params := fun d s => if d.u 16 1 = 1 then startParams d s else updateParams d s

/-- R268, R278, R279, R286: a scan starts. -/
def startScan (k : Nat) (d : Slot) (s : State) : State :=
  let first : FrameNo := BitVec.ofNat 32 (d.u 20 4)
  let t := s.scan.timing
  let c := s.newCfg
  match s.trigBusy t.trigger .scan with
  | some op => resourceBusy k op s
  | none =>
    match s.commitFailure c with
    | some f => complete k f.1 f.2.1 f.2.2 none s
    | none =>
      let s1 := s.withFrames fun x =>
        { x with
          openFirst := first, nCut := t.nCut, base := x.latest, baseGen := 0, baseHost := false, baseHitch := 0
          commits := [], past := [], prevApplied := none, bands := [], fetch := Tab.put (0, 0) [] 0 (first.toNat, 0)
          next := Tab.put (0, 0) [] 0 (first.toNat, 0), heldBufs := [], heldMap := {}, heldGain := {} }
      let s2 := s1.withScan fun x =>
        { x with
          phase := .starting, first := first, start := d.u 24 8, stop := none, tickA := (first.toNat, 0)
          tickB := (first.toNat, 0), delivered := [], deliveredBad := [], holder := [], order := List.range s.storeBuffers, run := 0
          genStart := first, lastBad := none
          split := { x.split with state := if x.split.partner.isSome then .waiting else .off, misses := 0 } }
      let s3 := assignCommit (s.slot k).id 0x0701 first c 0 s2
      let s4 := takeTrig t.trigger .scan { t0 := d.u 24 8, ns := t.frameNs, frac := t.frameFrac } (writePanels false s3)
      raise Src.scan 0x0002 (le 1 1 ++ le 4 first.toNat)
        (complete k St.ok 0 s4.frames.genLast.toNat (some first) s4)

/-- R288: a STOP that runs at once. -/
def stopNow (k : Nat) (d : Slot) (s : State) : State :=
  let a := s.frames.applied d.nextOpen d.target
  let keep := earlierStop s.scan.stop a
  complete k (if d.nextOpen || a == d.target then St.ok else St.late) 0 0 (some keep)
    (s.withScan fun x => { x with stop := some keep, phase := .stopping })

/-- SCAN_COMMIT (R109 to R115, R261 to R263, R277, R278, R285 to R288, R297, R397). -/
def execScanCommit (slot : Nat) (s : State) : Host.Outcome State Fault Refusal :=
  runCmd 0x0701 slot scanCommitChecks (fun k d st =>
    if d.u 16 1 = 1 then startScan k d st
    else if d.u 16 1 = 2 then
      if d.hitch then startHitchCommit k 0x0701 true d.target st else stopNow k d st
    else if d.hitch then startHitchCommit k 0x0701 false d.target st
    else commitNow k 0x0701 d.nextOpen d.target st) s

/-! ### Commits of the calibration engine (R111, R485) -/

/-- R111, R463, R485: commit a change of the CAL set to frame `target`, or to the earliest OPEN frame; what the host has
staged stays staged. With no output running the change is simply in force (log 22). -/
def calCommit (op : Nat) (target : Option FrameNo) (f : OutCfg → OutCfg) (s : State) : State :=
  let s1 := s.withFrames fun x =>
    { x with staged := f x.staged, hitch := x.hitch.map fun c => { c with cfg := f c.cfg } }
  if s.prn.job.isOpen || s.scanning then
    let c := f s.frames.latest
    let s2 := assignAt op (s.frames.applied target.isNone (target.getD 0)) c s1
    noteLoad s2.frames.genLast c.lf s2
  else s1.withFrames fun x => { x with base := f x.base }

end Sys2Proof.Machine
end

