-- ==== Sys2Proof/Machine/Delivery.lean ====
section
/-! DEFINITION. The bands and frames of the output in either mode: dispatch, render end, fetch point and completion
(R18, R108, R119, R161, R281). -/

namespace Sys2Proof.Machine

/-- BAND_DISPATCH (R119, R161, R281, R292): a free engine takes the waiting band with the earliest fetch point. -/
def execBandDispatch (engine : Nat) (s : State) : Host.Outcome State Fault Refusal :=
  if !s.engineFree engine then .next s
  else if s.prn.job.isOpen then
    match earliest s.waitingBands with
    | none => .next s
    | some e => .next (startRender engine { e.2 with cost := s.printCost e.2 } s)
  else if s.scanning then
    match earliest s.lfWaiting with
    | none => .next s
    | some e => .next (startLfRender engine e.2 s)
  else .next s

/-- BAND_RENDER_END (R119, R140, R161, R162, R260, R262, R264, R422): the engine has done its band's cycles; not while a channel of
the map makes its requests wait. -/
def execBandRenderEnd (engine : Nat) (s : State) : Host.Outcome State Fault Refusal :=
  match s.frames.bands.find? fun x => x.phase == .rendering && x.engine == engine with
  | none => .next s
  | some x =>
    if s.memStalled || !s.renderDue x then .next s else .next (if s.top.mode = .lightfield then endLfRender x s else endPrintRender x s)

/-- BAND_FETCH_POINT (R18, R108, R116, R119, R176, R178, R280, R282): the next band of a bar, or of the scan, reaches its fetch or
read point; the feeders' reads begin. On a whole-frame part a frame's first fetch point comes before its read point. -/
def execBandFetchPoint (bar : Nat) (s : State) : Host.Outcome State Fault Refusal :=
  if s.fetchDue bar then .next (printFetch bar s)
  else
    let s1 := openDelivery s
    if s1.readDue then .next (lfFetch s1) else .next s1

/-- FRAME_COMPLETE (R108, R123, R136): the frame's last band has left the feeders of every consumer. -/
def execFrameComplete (frame : FrameNo) (s : State) : Host.Outcome State Fault Refusal :=
  if s.prn.job.isOpen then .next (if s.printDone frame then finishPrintFrame frame s else s)
  else if s.scanning then .next (if s.lfDone frame then finishLfFrame frame s else s)
  else .next s

end Sys2Proof.Machine
end

