-- ==== Sys2Proof/Machine/CalMath.lean ====
section
/-! DEFINITION. What calibration runs measure and compute (R331 to R333, R336, R338, R341, R342, R345). -/

namespace Sys2Proof.Machine

/-! ### Target images (R345) -/

/-- A field of the header. -/
def CalTargets.u (t : CalTargets) (off n : Nat) : Nat := t.head.toNat / 2 ^ (8 * off) % 2 ^ (8 * n)

/-- A signed field of the header. -/
def CalTargets.i (t : CalTargets) (off n : Nat) : Int := signed (8 * n) (t.u off n)

/-- A field of a record. -/
def recU (r : CalRec) (off n : Nat) : Nat := r.toNat / 2 ^ (8 * off) % 2 ^ (8 * n)

/-- A signed field of a record. -/
def recI (r : CalRec) (off n : Nat) : Int := signed (8 * n) (recU r off n)

/-- The rectangle of a record. -/
def recRect (r : CalRec) : Nat × Nat × Nat × Nat := (recU r 4 2, recU r 6 2, recU r 8 2, recU r 10 2)

/-- The records of a type. -/
def CalTargets.ofType (t : CalTargets) (k : Nat) : List CalRec := t.recs.filter fun r => recU r 0 1 == k

/-- STREAM. -/
def CalTargets.stream (t : CalTargets) : Nat := t.u 8 1

/-- The contexts of CTX_MASK, one for each copy. -/
def CalTargets.ctxs (t : CalTargets) : List Nat := maskCtxs (t.u 9 1)

/-- COPIES. -/
def CalTargets.copies (t : CalTargets) : Nat := t.u 10 1

/-- The rectangles of the targets (R330). -/
def CalTargets.rects (t : CalTargets) : List (Nat × Nat × Nat × Nat) :=
  (t.recs.filter fun r => [1, 2, 3, 5, 6].contains (recU r 0 1)).map recRect

/-- R330: the line, from N_F, at which copy `k` is exposed. -/
def CalTargets.copyLine (t : CalTargets) (k : Nat) : Int := t.i 24 4 + Int.ofNat (k * t.u 28 4)

/-! ### Rounding -/

/-- The nearest integer to a quotient with a positive divisor. -/
def roundRat (a : Int) (b : Nat) : Int := Int.fdiv (2 * a + Int.ofNat b) (2 * Int.ofNat b)

/-- The nearest integer to a quotient of integers. -/
def roundQuotI (a b : Int) : Int := if b < 0 then roundRat (-a) b.natAbs else roundRat a b.natAbs

/-- The largest of a list of natural numbers. -/
def maxOf (l : List Nat) : Nat := l.foldl Nat.max 0

/-! ### Captures (R331) -/

/-- The capture as the correction pipeline shows it. -/
def CalShot.view (c : CalShot) : IspView :=
  { width := c.width, height := c.height, cfa := c.cfa, bits := c.bits, isp := c.frame.isp, lines := c.frame.lines }

/-- R331: the line that camera row `r` views, as a numerator over 2 × HEIGHT. -/
def CalShot.rowLine (c : CalShot) (last : Bool) (r : Nat) : Int :=
  let half := Int.ofNat ((2 * r + 1) * c.viewLines)
  let h := 2 * Int.ofNat c.height
  if last then h * c.last - half else h * c.first + half

/-- R331: camera x of print column `c`, Q16.16. -/
def CalTargets.camX (t : CalTargets) (c : Nat) : Int := t.i 16 4 + Int.ofNat c * t.i 20 4

/-- A colour of a patch mean. -/
def Patch.mean (p : Patch) (c : Nat) : Nat := if c = 0 then p.r else if c = 1 then p.g else p.b

/-- R332: the WHITE mean of a capture in a colour. -/
def whiteMean (t : CalTargets) (c : CalShot) (col : Nat) : Nat :=
  match t.ofType 2 with
  | w :: _ => (c.view.patch (recRect w)).mean col
  | [] => 0

/-! ### Density (R332) -/

/-- The least `e` above `lo`, found in `n` halvings of `2 ^ n`, at which `ok` holds. -/
def bisect (ok : Nat → Bool) : Nat → Nat → Nat
  | 0, lo => if ok lo then lo else lo + 1
  | n + 1, lo => if ok (lo + 2 ^ n - 1) then bisect ok n lo else bisect ok n (lo + 2 ^ n)

/-- R332: `10 ^ (-(2 d + 1) / 2000)` is at most p / q, with d = e - 5000. -/
def densityAtMost (p q e : Nat) : Bool :=
  let k := 2 * Int.ofNat e + 1 - 10000
  if 0 ≤ k then decide ((q ^ 200) ^ 10 ≤ (p ^ 200) ^ 10 * 10 ^ k.toNat) else decide ((q ^ 200) ^ 10 * 10 ^ k.natAbs ≤ (p ^ 200) ^ 10)

/-- R332: round(-1000 log10(max(p / q, 0.0001))). -/
def density (p q : Nat) : Int :=
  let r := if 10000 * p < q then (1, 10000) else (p, q)
  Int.ofNat (bisect (densityAtMost r.1 r.2) 14 0) - 5000

/-! ### COLOUR (R332, R333) -/

/-- The capture of a copy. -/
def shotOf (shots : List CalShot) (copy : Nat) : CalShot := (shots.find? fun c => c.copy == copy).getD {}

/-- R332: the reflectance of a rectangle in a copy and a colour, as patch mean and WHITE mean. -/
def reflectance (t : CalTargets) (shots : List CalShot) (rect : Nat × Nat × Nat × Nat) (copy col : Nat) : Nat × Nat :=
  let c := shotOf shots copy
  ((c.view.patch rect).mean col, whiteMean t c col)

/-- The sum of two fractions. -/
def addFrac (a b : Int × Nat) : Int × Nat := (a.1 * Int.ofNat b.2 + b.1 * Int.ofNat a.2, a.2 * b.2)

/-- R332: a component of the XYZ of a CHECK patch. -/
def checkXyz (t : CalTargets) (shots : List CalShot) (rect : Nat × Nat × Nat × Nat) (row : Nat) : Int × Nat :=
  let rows := (t.ofType 4).filter fun r => recU r 1 1 == row
  rows.foldl (fun a r => (List.range 6).foldl (fun b j =>
    let i := recU r 2 1 + j
    if t.copies * 3 ≤ i then b
    else
      let v := reflectance t shots rect (i / 3) (i % 3)
      addFrac b (recI r (4 + 2 * j) 2 * Int.ofNat v.1, 4096 * v.2)) a) (0, 1)

/-- R332: the quality of a COLOUR run. -/
def colourQuality (t : CalTargets) (shots : List CalShot) : Nat :=
  Nat.min 65535 (maxOf ((t.ofType 3).map fun r =>
    let x := checkXyz t shots (recRect r)
    Config.deltaE (x 0) (x 1) (x 2) (Int.ofNat (recU r 2 2)) (recI r 12 2) (recI r 14 2)))

/-- An entry of a post-blend table. -/
def toneEntry (e : Loaded) (i : Nat) : Nat := if e.data.isEmpty then Nat.min 65535 (64 * i) else e.data.getD i 0

/-- A list of integers rises strictly. -/
def rising : List Int → Bool
  | a :: b :: l => decide (a < b) && rising (b :: l)
  | _ => true

/-- R333: a correction at value `v`, linear between the steps, and that of the last step beyond it. -/
def corrAt (xs corr : List Int) (v : Int) : Int :=
  let k := ((List.range xs.length).find? fun i => decide (v ≤ xs.getD i 0)).getD (xs.length)
  if k = 0 then corr.getD 0 0
  else if xs.length ≤ k then corr.getLast?.getD 0
  else
    let x0 := xs.getD (k - 1) 0
    let c0 := corr.getD (k - 1) 0
    c0 + Int.tdiv ((corr.getD k 0 - c0) * (v - x0)) (xs.getD k 0 - x0)

/-- R333: the new table of a channel from the entries `e`, inputs, targets and densities (index 0 is 0), with the largest
correction; none where it fails with MODEL. Products are exact: those of values in range fit (DEDUCED, log 68). -/
def colourUpdate (p : CalPolicy) (e : Loaded) (xs ts ds : List Int) : Option (List Nat × Nat) :=
  let os := 0 :: (xs.drop 1).map fun x => Int.ofNat (toneMap e x.toNat)
  if !rising os || !rising ds then none
  else
    let n := xs.length - 1
    let corr := (List.range (n + 1)).map fun k =>
      if k = 0 then 0
      else
        let tk := ts.getD k 0
        let j := ((List.range n).map (· + 1)).find? (fun i => decide (tk ≤ ds.getD i 0)) |>.getD n
        let oStar := os.getD (j - 1) 0 +
          Int.tdiv ((tk - ds.getD (j - 1) 0) * (os.getD j 0 - os.getD (j - 1) 0)) (ds.getD j 0 - ds.getD (j - 1) 0)
        max (-Int.ofNat p.maxStep) (min (Int.ofNat p.maxStep) (Int.tdiv ((oStar - os.getD k 0) * Int.ofNat p.gain) 256))
    let table := (List.range 1025).foldl (fun (l : List Nat × Nat) i =>
      let v := Nat.min 65535 (64 * i)
      let w := (max 0 (min 65535 (Int.ofNat (toneEntry e i) + corrAt xs corr (Int.ofNat v)))).toNat
      let w1 := Nat.max w l.2
      (w1 :: l.1, w1)) ([], 0)
    some (table.1.reverse, maxOf (corr.map Int.natAbs))

/-- R333: a channel of a COLOUR run: its largest deviation |t[k] − d[k]|, none where it has not been measured, and what
the update makes. -/
def colourChannel (t : CalTargets) (p : CalPolicy) (e : Loaded) (shots : List CalShot) (ch : Nat) :
    Option Nat × Option (List Nat × Nat) :=
  let read := t.u (40 + ch) 1
  let recs := (List.range (t.u 36 1)).map fun k => (t.ofType 1).find? fun r => recU r 1 1 == ch && recU r 2 1 == k + 1
  if recs.any (·.isNone) then (none, none)
  else
    let rs := recs.filterMap id
    let refl := rs.map fun r => reflectance t shots (recRect r) (read % 8) (read / 8 % 4)
    if refl.any fun v => v.2 == 0 then (none, none)
    else
      let ts := rs.map fun r => Int.ofNat (recU r 14 2)
      let ds := refl.map fun v => density v.1 v.2
      (some (maxOf ((ts.zip ds).map fun e => (e.1 - e.2).natAbs)),
        colourUpdate p e (0 :: rs.map fun r => Int.ofNat (recU r 12 2)) (0 :: ts) (0 :: ds))

/-! ### NOZZLE_HEALTH (R336) -/

/-- R336: the pixels within half a column and half a line of the dot of column `col` in line `line`. -/
def dotPixels (t : CalTargets) (c : CalShot) (col : Nat) (line : Int) : List Pix :=
  let last := t.u 11 1 == 1
  let x := 2 * t.camX col
  let xs := (List.range c.width).filter fun i => decide ((Int.ofNat ((2 * i + 1) * 65536) - x).natAbs ≤ (t.i 20 4).natAbs)
  let ys := (List.range c.height).filter fun r =>
    decide ((c.rowLine last r - 2 * Int.ofNat c.height * line).natAbs ≤ c.height)
  ys.flatMap fun y => xs.map fun i => c.view.pixel i y

/-- R336: dens: the density in the darkest camera colour; none where the view has no pixel of the dot or WHITE is dark. -/
def dotDensity (t : CalTargets) (c : CalShot) (col : Nat) (line : Int) : Option Int :=
  let px := dotPixels t c col line
  let w := (List.range 3).map (whiteMean t c)
  if px.isEmpty || w.any (· == 0) then none
  else
    let d := fun (m k : Nat) => density m (w.getD k 1)
    some (max (d (roundMean (px.map (·.r))) 0) (max (d (roundMean (px.map (·.g))) 1) (d (roundMean (px.map (·.b))) 2)))

/-- R336: the verdict on a nozzle. -/
inductive Verdict where
  | pass | fail | untested
  deriving DecidableEq, Repr

/-- R336: column `col` lies in the view. -/
def inCamera (t : CalTargets) (c : CalShot) (col : Nat) : Bool :=
  decide (0 ≤ t.camX col) && decide (t.camX col < Int.ofNat (c.width * 65536))

/-- R335, R336: the verdicts on the two nozzles of position `p` of bar `b`, with the densities of their PASS dots. The
nozzles are keyed by node × 32,768 + nozzle. -/
def judgePosition (t : CalTargets) (cfg : PrintCfg) (c : CalShot) (nf : Int) (b p : Nat) : List (Nat × Verdict × List Int) :=
  let m := cfg.map b
  match m.nodeOf p, m.mapCol p with
  | some n, some mc =>
    let col := (mc + Tab.get 0 cfg.shift b).toNat
    let s := t.u 36 1
    let line := fun (k : Nat) => nf + Int.ofNat (t.u 38 2 + b * t.u 40 2 + k)
    [Select.a, Select.b].map fun sel =>
      let key := n.node * 32768 + 2 * n.localIdx p + (if sel = .b then 1 else 0)
      let ls := (List.range (2 * s)).filter fun k => selectNozzle cfg b m p (line k) == sel
      let ds := (ls.filterMap fun k => dotDensity t c col (line k)).filter fun d => decide (Int.ofNat (t.u 42 2) ≤ d)
      (key, if ls.isEmpty || !inCamera t c col then .untested else if ds.isEmpty then .fail else .pass, ds)
  | _, _ => []

/-- R336: the figure of a bar: the largest difference between a PASS dot and their mean. -/
def healthSpread (ds : List Int) : Nat :=
  let n := ds.length
  let sum := ds.foldl (· + ·) 0
  if n = 0 then 0 else maxOf (ds.map fun d => (roundRat (d * Int.ofNat n - sum) n).natAbs)

/-! ### REGISTRATION (R338) -/

/-- R338: the errors of a mark, down-web in 1/256 line and cross-web in 1/256 column; none where no pixel of it is dark. -/
def markError (t : CalTargets) (nf : Int) (shots : List CalShot) (r : CalRec) : Option (Int × Int) :=
  let c := shotOf shots (recU r 1 1 / 16)
  let q := c.view.clip (recRect r)
  let dark := (List.range q.2.2.2).flatMap fun j => (List.range q.2.2.1).filterMap fun i =>
    if (c.view.pixel (q.1 + i) (q.2.1 + j)).lum < t.u 38 2 then some (q.1 + i, q.2.1 + j) else none
  let n := dark.length
  let kx := t.i 20 4
  if n = 0 ∨ kx = 0 then none
  else
    let sumX := dark.foldl (fun a e => a + (2 * e.1 + 1)) 0
    let line := dark.foldl (fun a e => a + c.rowLine (t.u 11 1 == 1) e.2) 0
    let e := roundRat (256 * line) (2 * n * c.height) - (256 * nf + recI r 12 4)
    let x := roundQuotI (2 ^ 24 * (8 * Int.ofNat sumX - Int.ofNat (n * recU r 2 2))) (16 * Int.ofNat n * kx)
    some (e, x)

/-- R338: the mark of bar `b`, or the FABRIC record for 0xFF. Of several marks of one bar the first gives its errors (DEDUCED,
log 68). -/
def CalTargets.mark (t : CalTargets) (b : Nat) : Option CalRec :=
  if b = 0xFF then (t.ofType 6).head? else (t.ofType 5).find? fun r => recU r 1 1 % 16 == b

/-- R338: what is corrected at a bar: its errors against the reference, the offset change, the shift in columns and what is
left for the axis, in 2^-16 axis units. -/
structure BarFix where
  bar : Nat := 0
  err : Int := 0
  cross : Int := 0
  offset : Int := 0
  cols : Int := 0
  move : Int := 0
  deriving DecidableEq, Repr

/-- R338: the corrections of a run; none where it fails with MODEL. -/
def barFixes (t : CalTargets) (p : CalPolicy) (nf : Int) (shots : List CalShot) : Option (List BarFix) :=
  let ref := t.u 36 1
  let err := fun (b : Nat) => (t.mark b).bind (markError t nf shots)
  let bars := (List.range 16).filter fun b => bitAt p.barMask b && b != ref
  let blank := (t.ofType 5).any fun r => bitAt p.barMask (recU r 1 1 % 16) && (markError t nf shots r).isNone
  match err ref with
  | none => none
  | some r =>
    if blank || bars.any fun b => (err b).isNone then none
    else
      some (bars.map fun b =>
        let e := (err b).getD (0, 0)
        let dx := Int.tdiv ((e.2 - r.2) * Int.ofNat p.gain) 256
        let n := roundRat dx 256
        { bar := b, err := e.1 - r.1, cross := e.2 - r.2, offset := Int.tdiv ((e.1 - r.1) * Int.ofNat p.gain) 256, cols := n
          move := -Int.tdiv ((dx - 256 * n) * Int.ofNat (t.u 56 4)) 256 })

/-! ### LF_RAY (R341) -/

/-- The mean of differences in 1/16 pitch as a numerator over a denominator, none of no values. -/
def meanOf (l : List Int) : Option (Int × Nat) :=
  if l.isEmpty then none else some (l.foldl (· + ·) 0, l.length)

/-- R341: a phase difference (1/16 pitch, a fraction) as a residual: KX / P_LX, in the residual unit. -/
def residualOf (d : Int × Nat) (k : Int) (pitch shift : Nat) : Int :=
  if pitch = 0 then 0 else roundRat (d.1 * k * 4096 * 2 ^ shift) (d.2 * 16 * pitch * 2 ^ 24)

/-- The mean of a list of integers, to the nearest. -/
def meanInt (l : List Int) : Int := if l.isEmpty then 0 else roundRat (l.foldl (· + ·) 0) l.length

/-- R341: the residual of a lens that is seen. -/
def lensResidual (m : RayMap) (o : LensObs) : Option (Int × Int) :=
  let rg := m.regions.getD o.region {}
  (meanOf o.dx).map fun d =>
    (residualOf d rg.kx rg.pLx rg.resX, residualOf ((meanOf o.dy).getD (0, 1)) rg.ky rg.pLy rg.resY)

/-- R341: the residuals by emitter; a lens not seen takes the mean of its seen neighbours within 4 lenses, and one without any
free values of `fill`, since the rule states none there (log 68). -/
def lensResiduals (fill : Nat → Int × Int) (m : RayMap) (os : List LensObs) : Tab (Int × Int) :=
  os.foldl (fun t o =>
    let r := match lensResidual m o with
      | some r => r
      | none =>
        let near := (os.filter fun q => q.region == o.region && decide ((q.ix - o.ix).natAbs ≤ 4) &&
          decide ((q.iy - o.iy).natAbs ≤ 4)).filterMap (lensResidual m)
        if near.isEmpty then fill (o.emitters.headD 0) else (meanInt (near.map (·.1)), meanInt (near.map (·.2)))
    o.emitters.foldl (fun u e => Tab.put (0, 0) u e r) t) []

/-- R341: more than 10 % of the lenses are unseen. -/
def tooFewLenses (os : List LensObs) : Bool :=
  decide (os.length < 10 * (os.filter fun o => o.dx.isEmpty).length) || os.isEmpty

/-- The root mean square of fractions in 1/16, in 1/1,000, to the nearest. -/
def rms16 (l : List (Int × Nat)) : Nat :=
  if l.isEmpty then 0
  else
    let q := l.foldl (fun (a : Int × Nat) (b : Int × Nat) => addFrac a (b.1 * b.1, b.2 * b.2)) (0, 1)
    Nat.min 65535 ((isqrt (4 * q.1.natAbs * 10 ^ 6 / (256 * q.2 * l.length)) + 1) / 2)

/-- R341: the quality of an LF_RAY run: the differences that its mean leaves. -/
def rayQuality (os : List LensObs) : Nat :=
  let left := fun (l : List Int) => match meanOf l with
    | none => []
    | some m => l.map fun d => (d * Int.ofNat m.2 - m.1, m.2)
  rms16 (os.flatMap fun o => left o.dx ++ left o.dy)

/-! ### LF_PHOTO (R342) -/

/-- R342: the target luminance of a colour, times 65,536. -/
def photoTarget (t : CalTargets) (os : List EmitterObs) (colour : Nat) : Nat :=
  t.u 24 2 * median ((os.filter fun o => o.colour == colour).map (·.high))

/-- R342: gain and offset of an emitter; none where its responses do not rise. -/
def photoGain (t : CalTargets) (target : Nat) (o : EmitterObs) : Option (Nat × Int) :=
  let low := t.u 26 2
  let high := t.u 28 2
  if o.high ≤ o.low ∨ high ≤ low then none
  else
    let dm := o.high - o.low
    let g := Nat.min 65535 (roundQuot (target * (high - low) * 2 ^ 14) (65536 * high * dm))
    let off := roundRat ((Int.ofNat low * 2 ^ 14 - Int.ofNat (g * low)) * Int.ofNat (65536 * high * dm) +
        (Int.ofNat (target * low) - Int.ofNat (o.low * 65536 * high)) * Int.ofNat ((high - low) * 2 ^ 14))
      (2 ^ 14 * 65536 * high * dm)
    some (g, off)

/-- R342: the predicted deviation of an emitter from its target at HIGH_LEVEL, over the target: a fraction. -/
def photoError (t : CalTargets) (target : Nat) (o : EmitterObs) (g : Nat × Int) : Int × Nat :=
  let low := Int.ofNat (t.u 26 2)
  let high := Int.ofNat (t.u 28 2)
  let drive := Int.ofNat g.1 * high + g.2 * 2 ^ 14
  let num := Int.ofNat o.low * 2 ^ 14 * (high - low) + (drive - low * 2 ^ 14) * Int.ofNat (o.high - o.low)
  let den := 2 ^ 14 * (t.u 28 2 - t.u 26 2)
  (num * 65536 - Int.ofNat (target * den), Nat.max 1 (target * den))

/-- R342: the gains of every emitter read, and the quality; none where a response does not rise. -/
def photoResult (t : CalTargets) (os : List EmitterObs) : Option (Tab (Nat × Int) × Nat) :=
  let targets := (List.range 3).map (photoTarget t os)
  let gs := os.map fun o => (o, targets.getD o.colour 0, photoGain t (targets.getD o.colour 0) o)
  if os.isEmpty || gs.any fun g => g.2.2.isNone then none
  else
    let errs := gs.map fun g => photoError t g.2.1 g.1 (g.2.2.getD (0, 0))
    some (gs.foldl (fun u g => Tab.put (16384, 0) u g.1.emitter (g.2.2.getD (16384, 0))) [],
      rms16 (errs.map fun e => (16 * e.1, e.2)))

end Sys2Proof.Machine
end

