-- ==== Sys2Proof/Machine/FeedRead.lean ====
section
/-! DEFINITION. The feeders' reads from DRAM: which are due, when they are in panic, and what they bring (R178 to R180, R283, R284,
R413, R428). -/

namespace Sys2Proof.Machine

/-- R179, R283: the reads of link `l`'s feeder are in panic. PANIC_ROWS has no effect on a whole-frame part. -/
def State.feedPanic (s : State) (l : Nat) : Bool :=
  if s.top.mode = .lightfield then !s.fuse.part.wholeFrame && (s.scanFeeder l).panic s.scan.timing.panicRows
  else (s.feeder l).panic

/-- R178, R283: the band for which the feeder of link `l` would now read the block at `off`. -/
def State.feedBand? (s : State) (l b off : Nat) : Option (FrameNo × Nat) :=
  if s.top.mode = .lightfield then (s.scanFeeder l).reads s.scan.timing.panicRows (off / 256) s.uptime
  else (s.feeder l).reads b (off / 256) s.uptime

/-- R178, R283: the block has come into the FIFO of link `l`. -/
def feedGot (l b off : Nat) (s : State) : State :=
  match s.feedBand? l b off with
  | none => s
  | some p =>
    if s.top.mode = .lightfield then s.setScanFeeder l ((s.scanFeeder l).got p.1 p.2 (off / 256))
    else s.setFeeder l ((s.feeder l).got b p.1 p.2 (off / 256))

/-- R160: the line and position keys of a print band that lie in burst `k` of its slot. -/
def BarMap.burstKeys (m : BarMap) (k : Nat) : List Nat :=
  (List.range 32).flatMap fun l =>
    ((List.range m.positions).filter fun p => (256 + l * m.stride + 4 * (p / 8)) / 64 = k).map fun p => poisonKey l p

/-- R180: poison in these positions of a line: every dot of the nodes that need them is off. -/
def FifoLine.spoil (m : BarMap) (frameLine0 : Int) (keys : List Nat) (x : FifoLine) : FifoLine :=
  let i := ((x.line - frameLine0) % 32).toNat
  let hurt := fun (node : Nat) => m.nodes.any fun n => n.node == node && keys.any fun q =>
    q / 2 ^ 24 == i && decide (n.first ≤ q % 2 ^ 24) && decide (q % 2 ^ 24 < n.first + n.count)
  if x.payloads.any fun e => hurt e.1 then
    { x with
      poisoned := true
      payloads := x.payloads.map fun e => if hurt e.1 then (e.1, e.2.1, List.replicate e.2.2.length 0) else e }
  else x

/-- R180, R413: the feeder of link `l` has read poison in burst `k` of the slot of band `n` of frame `f` at bar `b`. -/
def poisonLines (l b : Nat) (f : FrameNo) (n k : Nat) (s : State) : State :=
  let m := (s.lineCfg f).map b
  let keys := m.burstKeys k
  let x := s.feeder l
  let mine := fun (e : FifoLine) => e.bar == b && e.frame == f && e.band == n
  let fifo := x.fifo.map fun e => if mine e then e.spoil m (s.frameLine f) keys else e
  let bad := (fifo.filter fun e => mine e && e.poisoned).map fun e => b * 2 ^ 26 + (e.line - s.frameLine f).toNat
  (s.setFeeder l { x with fifo := fifo }).updFrame f fun r => bad.foldl (fun r y => notePoisonedRow y r) r

/-- R279: the keys of the emitters that lie in burst `k` of a light-field band. -/
def State.burstEmitters (s : State) (k : Nat) : List Nat :=
  let w := s.scan.map.cols * s.scan.map.subpix
  let d := Nat.max 1 s.scan.timing.depth
  ((List.range ((512 * k + 511) / d + 1 - 512 * k / d)).map (512 * k / d + ·)).filterMap fun e =>
    if e < 8 * w then some (poisonKey (e / w) (e % w)) else none

/-- R284: poison in these emitters of a row: the strips of the nodes that need them are poisoned. -/
def ScanRow.spoil (m : PanelMap) (keys : List Nat) (x : ScanRow) : ScanRow :=
  let hurt := fun (n : PanelNode) => keys.any fun q => q / 2 ^ 24 == x.row % 8 &&
    decide (n.first * m.subpix ≤ q % 2 ^ 24) && decide (q % 2 ^ 24 < (n.first + n.cols) * m.subpix)
  { x with poisoned := (x.poisoned ++ ((m.nodes.filter hurt).map (·.node)).filter fun n =>
      x.payloads.any fun e => e.1 == n).eraseDups }

/-- R284, R413: the feeder of link `l` has read poison in the burst at `off` of the frame store, of band `n` of frame `f`. What lies
there stays poisoned when it is sent again. -/
def poisonRows (l : Nat) (f : FrameNo) (n off : Nat) (s : State) : State :=
  let keys := s.burstEmitters (off % Nat.max 1 s.bandBytes / 64)
  let x := s.scanFeeder l
  let fifo := x.fifo.map fun e => if e.frame = f ∧ e.row / 8 = n then e.spoil s.scan.map keys else e
  (s.setScanFeeder l { x with fifo := fifo }).withScan fun c =>
    { c with deliveredBad := Tab.put [] c.deliveredBad n ((Tab.get [] c.deliveredBad n ++ keys).eraseDups) }

/-- R180, R284, R413: the feeder of link `l` has read poison in the burst at `off`. -/
def poisonFeed (l b off : Nat) (s : State) : State :=
  match s.feedBand? l b off with
  | none => s
  | some p => if s.top.mode = .lightfield then poisonRows l p.1 p.2 off s else poisonLines l b p.1 p.2 (off / 64) s

end Sys2Proof.Machine
end

