-- ==== Sys2Proof/Machine/Halter.lean ====
section
/-! DEFINITION. Entry into Halter, of every output or of a part, and into FAULT (R21 to R23, R61, R66, R73, R131, R192,
R217, R218, R374, R393). -/

namespace Sys2Proof.Machine

/-- The CLAIMED links. -/
def State.claimedLinks (s : State) : List Nat := allLinks.filter s.claimed

/-- R218: HALTER with ALL on every CLAIMED link; its nodes are to be in Halter from now on. -/
def haltLinks (s : State) : State :=
  let s1 := s.claimedLinks.foldl (fun st l => sendBlock l (holdBlock 0x2D (st.link l).claim 0 true) st) s
  { s1 with rein := { s1.rein with nodes := Tab.mapv {} (fun n v =>
      if v.present && s.claimed (n / 8) then { v with toHalter := true, lastHalter := s.uptime } else v) s1.rein.nodes } }

/-- R393: units with HALTER_HOLD drive their pins inactive. -/
def safePins (s : State) : State :=
  s.time.trigs.foldl (fun st e =>
    if e.2.halterHold && e.2.pin != 0xFF then
      (st.setTrig e.1 { e.2 with active := false }).emit (.pin e.2.pin (e.2.level false))
    else st) s

/-- R61, R66, R131, R192, R218, R374, R393: every output enters Halter. -/
def haltOutputs (cause : Cause) (s : State) : State :=
  haltAxes cause (safePins (strobesOff (allBars.foldl (fun st b => abortPurge b st) (markHalted (haltLinks s)))))

/-- R21: the device state becomes HALTER, every output in Halter. -/
def enterHalter (cause : Cause) (s : State) : State :=
  if s.top.dev = .armed ∨ s.top.dev = .run then raiseMsix 0 (setDev .halter cause (haltOutputs cause s)) else s

/-- R51, R73: the commands in execution slots that FAULT aborts, started or not. -/
def State.faultAborted (s : State) : List Nat :=
  (s.cmd.slots.filter fun e => e.2.live && !faultOpcode e.2.opcode).map (·.1)

/-- R73: they complete with ST_ABORTED; what they had under way is dropped. -/
def abortCommands (cause : Cause) (s : State) : State :=
  let ks := s.faultAborted
  let s1 := ks.foldl (fun st k => releaseRate k (complete k St.aborted (0xFF00 + cause.code) 0 none st)) s
  { s1 with
    cmd := { s1.cmd with pulls := s1.cmd.pulls.filter fun e => !ks.contains e.1 }
    rein := { s1.rein with transfers := s1.rein.transfers.filter fun e => !ks.contains e.1, enums := [], ups := [] }
    mem := { s1.mem with retrains := [] }
    axis := { s1.axis with stops := [] }
    frames := { s1.frames with hitch := [] }
    cal := { s1.cal with clears := [] } }

/-- R466: a tandem holder releases the claims of its tandem links. -/
def tandemFaultRelease (s : State) : State :=
  (s.claimedLinks.filter s.tanLink).foldl (fun st l =>
    setLinkState l .observing .claimLost (sendFrame l (releaseFrame (st.link l).claim) st)) s

/-- R21, R22, R73, R315: the device state becomes FAULT. `block` is the block that a FATAL_BLOCK names (log 19). -/
def enterFault (cause : Cause) (block : List Byte) (s : State) : State :=
  if s.top.dev = .boot ∨ s.top.dev = .idle ∨ s.top.dev = .armed ∨ s.top.dev = .run ∨ s.top.dev = .halter then
    raiseMsix 0 (abortCommands cause (stopCtxs (List.range 8)
      (setDevWith .fault cause block (haltOutputs cause (tandemFaultRelease s)))))
  else s

/-- R413, R424: a fatal fault of block MEM. -/
def memFatal (s : State) : State := enterFault .fatalBlock [BitVec.ofNat 8 Src.mem] s

end Sys2Proof.Machine
end

