-- ==== Sys2Proof/Machine/MemRun.lean ====
section
/-! DEFINITION. What the DDR5 channels do: the map, arbitration, errors, row disturbance, refresh, command faults and FEED
demand (R409 to R419, R425 to R430). -/

namespace Sys2Proof.Machine

/-! ### Channels and the map (R407 to R409) -/

/-- Channel `c`. -/
def State.ddr (s : State) (c : Nat) : MemChan := Tab.get {} s.mem.chans c

/-- Set channel `c`. -/
def State.setDdr (s : State) (c : Nat) (x : MemChan) : State :=
  { s with mem := { s.mem with chans := Tab.put {} s.mem.chans c x } }

/-- The channels in the map, ascending (R409). -/
def State.mapChans (s : State) : List Nat := (List.range 4).filter fun c => (s.ddr c).inMap

/-- R407: the data capacity of a channel, MiB, by the memory fields of a customer record. -/
def ddrMib (org : Nat) : Nat :=
  if bitAt org 0 then
    match bitsAt org 1 2 with
    | 0 => if bitAt org 3 then 16384 else 8192
    | 1 => 12288
    | _ => 16384
  else 16384

/-- R409: the capacity of a channel in the map, MiB. -/
def State.chanMib (s : State) (c : Nat) : Nat := if (s.ddr c).inMap then ddrMib s.lcs.inForce.ddrOrg - 1 else 0

/-- R409: the map capacity, MiB. -/
def State.mapMib (s : State) : Nat := (s.mapChans.map s.chanMib).foldl (· + ·) 0

/-- R409: the channel of a device DRAM address. -/
def State.chanOf (s : State) (addr : Nat) : Option Nat :=
  match s.mapChans with
  | [] => none
  | cs => cs[(addr / 256) % cs.length]?

/-- R407, R433: the raw bandwidth of the map, in 100 MB/s. -/
def State.mapRaw (s : State) : Nat := (s.mapChans.map fun c => (s.ddr c).rate * 8).foldl (· + ·) 0

/-! ### Events (R437) -/

/-- CHANNEL_STATE: channel `c` goes from `old` to its present state. -/
def chanEvent (c : Nat) (old : ChanState) (rate lost cause : Nat) (s : State) : State :=
  raise Src.mem 0x0004 ([BitVec.ofNat 8 c, BitVec.ofNat 8 old.code, BitVec.ofNat 8 (s.ddr c).state.code,
    BitVec.ofNat 8 rate] ++ le 4 lost ++ le 1 cause) s

/-- R412, R437: CORRECTED, at most once per channel per second. -/
def correctedEvent (c sub lane : Nat) (s : State) : State :=
  let x := s.ddr c
  let due := match x.corrEvt with
    | none => true
    | some t => decide (t + 10 ^ 9 ≤ s.uptime)
  if due then
    raise Src.mem 0x0001 ([BitVec.ofNat 8 c, BitVec.ofNat 8 sub, BitVec.ofNat 8 lane] ++ le 4 x.corrNew)
      (s.setDdr c { x with corrNew := 0, corrEvt := some s.uptime })
  else s

/-! ### The check code (R410 to R413) -/

/-- R410: what a read of a burst gives. -/
inductive BurstRead where
  | clean | corrected (lane : Nat) | poisoned
  deriving DecidableEq, Repr

/-- R410, R411: a burst with the failed lanes `bad`; a burst that holds poison stays poisoned. -/
def readBurst (poison : Bool) (bad : List Nat) : BurstRead :=
  if poison then .poisoned
  else
    match bad with
    | [] => .clean
    | [l] => .corrected l
    | _ => .poisoned

/-- The subchannel of the block that holds a device DRAM address: R409 leaves the choice open, so it is a free value (log 40). -/
def subOf (addr : Nat) : Nat := (Config.blockSub (addr / 256)).toNat

/-- R418: a command of channel `c` goes into the retry buffer of its subchannel, which holds 32. -/
def issueCmd (c addr : Nat) (s : State) : State :=
  let x := s.ddr c
  s.setDdr c { x with retry := Tab.upd [] x.retry (subOf addr) fun l => (l ++ [(addr, 0)]).drop (l.length - 31) }

/-- R412: a corrected burst is counted and is to be rewritten. -/
def noteCorrected (c burst lane : Nat) (s : State) : State :=
  let x := s.ddr c
  correctedEvent c (subOf (64 * burst)) lane (s.setDdr c
    { x with corrected := satAdd 65535 x.corrected 1, corrNew := x.corrNew + 1
             rewrites := if x.rewrites.contains burst then x.rewrites else x.rewrites ++ [burst] })

/-- R413: an uncorrectable burst is counted and reported; `how` is 1 for a consumer's read, 2 for the scrub's. -/
def noteUncorrectable (c port burst how : Nat) (s : State) : State :=
  let x := s.ddr c
  raise Src.mem 0x0002 ([BitVec.ofNat 8 c, BitVec.ofNat 8 port] ++ le 8 (64 * burst) ++ le 1 how)
    (s.setDdr c { x with uncorrected := satAdd 65535 x.uncorrected 1, ueAddr := 64 * burst })

/-- R413: a consumer has read the poisoned burst. -/
def consumePoison (r : MemReq) (j : Nat) (s : State) : State :=
  if r.port < 32 then poisonFeed r.port r.bar (r.off / 256 * 256 + 64 * j) s
  else
    let s1 := poisonBurst (r.addr / 64 + j) s
    if r.port = 49 then memFatal s1 else s1

/-- R410 to R413: burst `j` of a request is read. -/
def serveBurst (c : Nat) (r : MemReq) (s : State) (j : Nat) : State :=
  let burst := r.addr / 64 + j
  match readBurst (Tab.get false s.poison burst) (r.bad.getD j []).eraseDups with
  | .clean => s
  | .corrected l => noteCorrected c burst l s
  | .poisoned => consumePoison r j (noteUncorrectable c r.port burst 1 s)

/-! ### Row disturbance (R415, R416) -/

/-- The index of the smallest count, the lowest on ties. -/
def smallestAt (l : List (Nat × Nat)) : Nat :=
  (l.zipIdx.foldl (fun (b : Nat × Nat) e => if e.1.2 < b.1 then (e.1.2, e.2) else b) ((l.headD (0, 0)).2, 0)).2

/-- R415: an activate of row `r`: the table afterwards, and whether the row has reached the threshold. -/
def ActTable.activate (thresh : Nat) (t : ActTable) (r : Nat) : ActTable × Bool :=
  let placed : List (Nat × Nat) × Nat × Nat :=
    match t.rows.findIdx? fun e => e.1 == r with
    | some i => (t.rows, i, t.floor)
    | none =>
      if t.rows.length < 16 then (t.rows ++ [(r, 0)], t.rows.length, t.floor)
      else
        let i := smallestAt t.rows
        let cnt := (t.rows.getD i (0, 0)).2
        (t.rows.set i (r, cnt), i, Nat.max t.floor cnt)
  let cnt := satAdd 65535 (placed.1.getD placed.2.1 (0, 0)).2 1
  if thresh ≤ cnt then ({ rows := placed.1.set placed.2.1 (r, placed.2.2), floor := placed.2.2 }, true)
  else ({ rows := placed.1.set placed.2.1 (r, cnt), floor := placed.2.2 }, false)

/-- R415: the neighbours of row `r` that exist; rows have 18 bits. -/
def neighbourRows (r : Nat) : List Nat :=
  [Int.ofNat r - 2, Int.ofNat r - 1, Int.ofNat r + 1, Int.ofNat r + 2].filterMap fun k =>
    if 0 ≤ k ∧ k < 2 ^ 18 then some k.toNat else none

/-- R415: row `r` of bank `b` of channel `c` is activated. -/
def activateRow (c b r : Nat) (s : State) : State :=
  let x := s.ddr c
  let t := (Tab.get {} x.tables b : ActTable).activate s.mem.rowThresh r
  s.setDdr c { x with
    tables := Tab.put {} x.tables b t.1
    neighbours := if t.2 then x.neighbours ++ (neighbourRows r).map fun k => (b, k, s.uptime) else x.neighbours }

/-! ### Arbitration (R426 to R429, R432) -/

/-- R425: the class of a port. -/
inductive MemClass where
  | feed | render | bulk | scrub | training
  deriving DecidableEq, Repr

/-- The code of a class (R438). -/
def MemClass.code : MemClass → Nat
  | .feed => 0 | .render => 1 | .bulk => 2 | .scrub => 3 | .training => 4

/-- R425: port `p`. -/
def portClass (p : Nat) : MemClass :=
  if p < 32 then .feed else if p < 50 then .render else if p < 53 then .bulk else if p = 53 then .scrub else .training

/-- R426: the rank of a request among those below the refreshes. -/
def State.reqRank (s : State) (r : MemReq) : Nat :=
  match portClass r.port with
  | .feed => if s.feedPanic r.port then 0 else 1
  | .training => 2
  | .render => 3
  | .bulk => 4
  | .scrub => 5

/-- R426: the turn of a BULK port in the round robin after `last`. -/
def bulkTurn (last p : Nat) : Nat := (p + 2 - last % 3) % 3

/-- R426: `a` stands before `b`; the list's own order settles the rest. -/
def State.reqBefore (s : State) (last : Nat) (a b : MemReq) : Bool :=
  if s.reqRank a != s.reqRank b then decide (s.reqRank a < s.reqRank b)
  else
    match portClass a.port with
    | .render => if a.deadline != b.deadline then decide (a.deadline < b.deadline) else decide (a.arrival < b.arrival)
    | .bulk =>
      if a.port != b.port then decide (bulkTurn last a.port < bulkTurn last b.port) else decide (a.arrival < b.arrival)
    | _ => decide (a.arrival < b.arrival)

/-- R426: the request that a channel serves first. -/
def State.firstRequest (s : State) (last : Nat) : List MemReq → Option MemReq
  | [] => none
  | r :: t =>
    match s.firstRequest last t with
    | none => some r
    | some b => if s.reqBefore last b r then some b else some r

/-- R427: a request finds a place among those in flight on a channel: 64 in all, 16 of them for FEED alone. The 256 of a package A part
are those of its four channels together (DEDUCED, log 71). -/
def flightRoom (r : MemReq) (flight : List MemReq) : Bool :=
  decide (flight.length < 64) && (decide (r.port < 32) || decide ((flight.filter fun q => decide (32 ≤ q.port)).length < 48))

/-- R426, R427: the requests that wait go into flight in their order, as long as there are places. -/
def State.intoFlight (s : State) (last : Nat) : Nat → List MemReq → List MemReq → List MemReq
  | 0, _, flight => flight
  | n + 1, ws, flight =>
    match s.firstRequest last ws with
    | none => flight
    | some r => s.intoFlight last n (ws.erase r) (if flightRoom r flight then flight ++ [r] else flight)

/-- R178, R283, R409, R425: a request that waits at channel `ch` now: of a feeder, a read that it makes; of another port, at an
address of the channel. -/
def State.validReq (s : State) (ch : Nat) (r : MemReq) : Bool :=
  decide (r.port < 55) && decide (r.arrival ≤ s.uptime) && s.chanOf r.addr == some ch &&
    (decide (32 ≤ r.port) || (s.feedBand? r.port r.bar r.off).isSome)

/-- R431: what requester `key` has moved beyond its admitted rate, in 10⁻⁹ bytes, now. -/
def State.paceNow (s : State) (key : Nat) : Nat :=
  let p : Nat × Nat := Tab.get (0, 0) s.mem.paces key
  p.1 - ((s.mem.held.find? fun e => e.1 == key).map (·.2)).getD 0 * (s.uptime - p.2)

/-- R431: ports 51 and 52 are held to the rate admitted to the requester, with 64 KiB of allowance; a transfer that is not admitted
(R431's last sentence) has no rate to be held to. -/
def State.paceOk (s : State) (r : MemReq) : Bool :=
  !(r.port == 51 || r.port == 52) || !s.mem.held.any (fun e => e.1 == r.key) ||
    decide (s.paceNow r.key + 256 * 10 ^ 9 ≤ 65536 * 10 ^ 9)

/-- R431: a request of an admitted requester has moved 256 bytes. -/
def countPace (r : MemReq) (s : State) : State :=
  if (r.port == 51 || r.port == 52) && s.mem.held.any (fun e => e.1 == r.key) then
    { s with mem := { s.mem with paces := Tab.put (0, 0) s.mem.paces r.key (s.paceNow r.key + 256 * 10 ^ 9, s.uptime) } }
  else s

/-- R429: the bound of a FEED read is exceeded; `rate` is in MT/s ÷ 100. -/
def feedLate (rate latency : Nat) : Bool := decide (400 * rate + 51200 < latency * rate)

/-- R430, R432, R438: the counters of a request served by channel `c`. -/
def countGrant (c : Nat) (r : MemReq) (s : State) : State :=
  let wait := s.uptime - r.arrival
  let x := s.ddr c
  let top := 2 ^ 32 - 1
  let y := if r.port < 32 then
      { x with latMax := Nat.max x.latMax (Nat.min 65535 wait), window := x.window + 256
               late := if feedLate x.rate wait then satAdd 65535 x.late 1 else x.late }
    else x
  let z := if portClass r.port = .bulk then { y with robin := r.port } else y
  let s1 := s.setDdr c z
  let g := Tab.upd 0 s1.mem.grant r.port fun n => satAdd top n 1
  let d := Tab.upd 0 s1.mem.delay r.port fun n => n + wait
  { s1 with mem := { s1.mem with grant := g, delay := d } }

/-- R426: a postponed refresh stands before the request: before every one but the FEED reads in panic. -/
def State.refreshFirst (s : State) (x : MemChan) (r : MemReq) : Bool := decide (0 < x.owed) && s.reqRank r != 0

/-- R178, R410 to R418, R431: channel `ch` serves request `r`. -/
def serveReq (ch : Nat) (r : MemReq) (s : State) : State :=
  let s1 := countPace r (countGrant ch r s)
  let s2 := match r.act with
    | some a => activateRow ch a.1 (a.2 % 2 ^ 18) s1
    | none => s1
  let s3 := (List.range 4).foldl (fun st j => serveBurst ch r (issueCmd ch (r.addr / 64 * 64 + 64 * j) st) j) s2
  if r.port < 32 then feedGot r.port r.bar r.off s3 else s3

/-- MEM_GRANT (R178, R283, R410 to R413, R415, R425 to R431): the requests that wait at the channel go into flight, and it serves
the first of those in flight. A neighbour refresh or a refresh that can no longer be postponed holds every request back; a
postponed one is issued before the request unless that is a FEED read in panic. A request of port 51 or 52 waits for its pace. -/
def execMemGrant (ch : Nat) (reqs : List MemReq) (s : State) : Host.Outcome State Fault Refusal :=
  let x := s.ddr ch
  if x.state != .online || !x.neighbours.isEmpty || decide (4 ≤ x.owed) then .next s
  else
    let kept := x.flight.filter fun r => decide (32 ≤ r.port) || (s.feedBand? r.port r.bar r.off).isSome
    let flight := s.intoFlight x.robin reqs.length (reqs.filter fun r => s.validReq ch r && !kept.contains r) kept
    match s.firstRequest x.robin (flight.filter s.paceOk) with
    | none => .next (s.setDdr ch { x with flight := flight })
    | some r =>
      if s.refreshFirst x r then .next (s.setDdr ch { x with flight := flight, owed := 0 })
      else .next (serveReq ch r (s.setDdr ch { x with flight := flight.erase r }))

/-- R426: nothing stands before a request of class SCRUB: no refresh, and no request in flight. -/
def MemChan.scrubTurn (x : MemChan) : Bool := x.state == .online && x.neighbours.isEmpty && x.owed == 0 && x.flight.isEmpty

/-- R426, R432: a burst of port 53 is served: a unit of 256 bytes is four. -/
def countScrub (ch burst : Nat) (s : State) : State :=
  let s1 := issueCmd ch (64 * burst) s
  let m := s1.mem
  if m.scrubPart < 3 then { s1 with mem := { m with scrubPart := m.scrubPart + 1 } }
  else { s1 with mem := { m with scrubPart := 0, grant := Tab.upd 0 m.grant 53 fun n => satAdd (2 ^ 32 - 1) n 1 } }

/-- CORRECTED_REWRITE (R412, R426): the channel rewrites its oldest corrected burst. -/
def execCorrectedRewrite (ch : Nat) (s : State) : Host.Outcome State Fault Refusal :=
  let x := s.ddr ch
  match x.rewrites with
  | [] => .next s
  | burst :: rest => if !x.scrubTurn then .next s else .next (countScrub ch burst (s.setDdr ch { x with rewrites := rest }))

/-! ### The patrol scrub (R414) -/

/-- The bursts of a channel in the map. -/
def State.chanBursts (s : State) (c : Nat) : Nat := s.chanMib c * 2 ^ 14

/-- The number of the burst at place `k` of a channel (R409). -/
def State.burstAt (s : State) (c k : Nat) : Nat :=
  ((k / 4) * s.mapChans.length + s.mapChans.idxOf c) * 4 + k % 4

/-- R414: the pass of a channel has taken SCRUB_HOURS. -/
def State.scrubOverdue (s : State) (c : Nat) : Bool :=
  s.mem.scrubHours != 0 && decide ((s.ddr c).passStart + s.mem.scrubHours * 3600 * 10 ^ 9 ≤ s.uptime)

/-- R414: the scrub has read a burst; a pass that is complete gives way to the next. -/
def scrubOn (c : Nat) (s : State) : State :=
  let x := s.ddr c
  if x.scrubPos + 1 < s.chanBursts c then s.setDdr c { x with scrubPos := x.scrubPos + 1 }
  else s.setDdr c { x with scrubPos := 0, passes := (x.passes + 1) % 65536, passStart := s.uptime, lateRaised := false }

/-- PATROL_SCRUB_READ (R412 to R414): the scrub reads its next burst, whose lanes `bad` fail. -/
def execPatrolScrubRead (ch : Nat) (bad : List Nat) (s : State) : Host.Outcome State Fault Refusal :=
  let x := s.ddr ch
  if !x.scrubTurn || !x.inMap || s.mem.scrubHours == 0 then .next s
  else
    let burst := s.burstAt ch x.scrubPos
    let s0 := countScrub ch burst s
    let s1 := match readBurst (Tab.get false s.poison burst) bad.eraseDups with
      | .clean => s0
      | .corrected l => noteCorrected ch burst l s0
      | .poisoned => poisonBurst burst (noteUncorrectable ch 53 burst 2 s0)
    .next (scrubOn ch s1)

/-- SCRUB_LATE (R414): once for a pass that SCRUB_HOURS have overtaken. -/
def execScrubLate (ch : Nat) (s : State) : Host.Outcome State Fault Refusal :=
  let x := s.ddr ch
  if !x.inMap || x.lateRaised || !s.scrubOverdue ch then .next s
  else
    .next (raise Src.mem 0x0006 (le 1 ch ++ le 2 (x.scrubPos * 1000 / Nat.max 1 (s.chanBursts ch)))
      (s.setDdr ch { x with lateRaised := true }))

/-! ### Refresh (R415 to R417) -/

/-- NEIGHBOUR_REFRESH (R416): the channel issues the oldest neighbour refresh required. -/
def execNeighbourRefresh (ch : Nat) (s : State) : Host.Outcome State Fault Refusal :=
  let x := s.ddr ch
  match x.neighbours with
  | [] => .next s
  | _ :: rest =>
    if x.state != .online then .next s
    else .next (s.setDdr ch { x with neighbours := rest, refreshes := satAdd (2 ^ 32 - 1) x.refreshes 1 })

/-- REFRESH_DUE (R417): a same-bank refresh is issued, with those it owes, or postponed, at most 4 times. When the LZ9 postpones one
R417 leaves open, so `postpone` says it (log 71). -/
def execRefreshDue (ch : Nat) (postpone : Bool) (s : State) : Host.Outcome State Fault Refusal :=
  let x := s.ddr ch
  if x.state != .online then .next s
  else if postpone && decide (x.owed < 4) then .next (s.setDdr ch { x with owed := x.owed + 1 })
  else .next (s.setDdr ch { x with owed := 0 })

/-- The ranks of a channel. -/
def State.ranks (s : State) : Nat := if bitAt s.lcs.inForce.ddrOrg 3 then 2 else 1

/-- MR4_READ (R417): every 8 ms the refresh-rate codes of a channel's ranks, whose refresh rate is then in force; a rank that is too hot raises DEVICE_HOT. -/
def execMr4Read (ch : Nat) (codes : List Nat) (s : State) : Host.Outcome State Fault Refusal :=
  let x := s.ddr ch
  if x.state != .online || decide (s.uptime < x.mr4At + 8000000) || codes.length != s.ranks then .next s
  else
    let s1 := s.setDdr ch { x with mr4 := codes, mr4At := s.uptime }
    .next (codes.zipIdx.foldl (fun st e =>
      if Config.mr4Hot e.1 then raise Src.mem 0x0007 (le 1 ch ++ le 1 e.2 ++ le 1 e.1) st else st) s1)

/-- REFRESH_WINDOW_END (R415): a 32 ms window ends; every activate table of the channel is cleared. -/
def execRefreshWindowEnd (ch : Nat) (s : State) : Host.Outcome State Fault Refusal :=
  let x := s.ddr ch
  if x.state = .absent ∨ s.uptime < x.refAt + 32000000 then .next s
  else .next (s.setDdr ch { x with tables := [], refAt := s.uptime })

/-! ### Command faults (R418, R419) -/

/-- R419: every channel stops, and the LZ9 goes to FAULT. -/
def freezeMemory (ch sub cause depth addr : Nat) (s : State) : State :=
  let s1 := { s with mem := { s.mem with
    frozen := true, freezeChan := ch, freezeSub := sub, freezeCause := cause, freezeDepth := depth, freezeAddr := addr
    chans := Tab.mapv {} (fun _ x => if x.state = .absent then x else { x with state := .frozen }) s.mem.chans } }
  let s2 := (List.range 4).foldl (fun st c =>
    if (s.ddr c).state = .absent ∨ (s.ddr c).state = .frozen then st
    else chanEvent c (s.ddr c).state (s.ddr c).rate 0 4 st) s1
  enterFault .memFreeze [] s2

/-- PARITY_ALERT (R418, R419): subchannel `sub` signals a failure; the devices have passed the `passed` oldest commands of its retry
buffer. Every command from the oldest not yet passed on is issued again, unless the memory freezes. -/
def execParityAlert (ch sub : Nat) (writeCrc : Bool) (passed : Nat) (s : State) : Host.Outcome State Fault Refusal :=
  let x := s.ddr ch
  let left : List (Nat × Nat) := (Tab.get [] x.retry sub).drop passed
  match left with
  | [] => .next s
  | (addr, n) :: rest =>
  if x.state != .online && x.state != .training then .next s
  else
    let frz := s.mem.freezeParity || decide (3 ≤ n)
    let after := if frz then n else n + 1
    let y := { x with
      alerts := satAdd 65535 x.alerts 1
      replayed3 := if !frz && after == 3 then satAdd 65535 x.replayed3 1 else x.replayed3
      retry := Tab.put [] x.retry sub ((addr, after) :: rest) }
    let s1 := raise Src.mem 0x0003 ([BitVec.ofNat 8 ch, BitVec.ofNat 8 sub, BitVec.ofNat 8 (b2n frz), BitVec.ofNat 8 after,
      BitVec.ofNat 8 (if writeCrc then 2 else 1)]) (s.setDdr ch y)
    let cause := if s.mem.freezeParity then (if writeCrc then 3 else 1) else 2
    .next (if frz then freezeMemory ch sub cause left.length addr s1 else s1)

/-! ### FEED demand (R430) -/

/-- R430, R438: FEED demand of `bytes` in `us` microseconds, in 1/1,000 of the raw bandwidth. -/
def feedShare (rate bytes us : Nat) : Nat := Nat.min 1023 (bytes * 1000 / Nat.max 1 (rate * 800 * us))

/-- FEED_WINDOW_END (R430): a 10 µs window of a channel ends. -/
def execFeedWindowEnd (ch : Nat) (s : State) : Host.Outcome State Fault Refusal :=
  let x := s.ddr ch
  if x.state = .absent ∨ s.uptime < x.windowAt + 10000 then .next s
  else
    let share := feedShare x.rate x.window 10
    let beyond := decide (400 * (x.rate * 8000) < x.window * 1000)
    let y := { x with
      windowAt := s.uptime - (s.uptime - x.windowAt) % 10000, window := 0, windows := (x.window :: x.windows).take 100, peak := Nat.max x.peak share
      beyond := if beyond then satAdd 4095 x.beyond 1 else x.beyond
      worst := if beyond then Nat.max x.worst share else x.worst }
    let due := beyond && (match x.feedEvt with
      | none => true
      | some t => decide (t + 10 ^ 9 ≤ s.uptime))
    if due then
      .next (raise Src.mem 0x0005 (le 1 ch ++ le 2 y.worst) (s.setDdr ch { y with worst := 0, feedEvt := some s.uptime }))
    else .next (s.setDdr ch y)

end Sys2Proof.Machine
end

