-- ==== Sys2Proof/Machine/MemTrain.lean ====
section
/-! DEFINITION. DDR5 training: steps, frequency changes, fallback and boot (R420 to R424, R489). -/

namespace Sys2Proof.Machine

/-- The CAL register slot of channel `c`'s training. -/
def ddrSlot (c : Nat) : Nat := 5 + c

/-- R421: the preconditions of a DDR run. -/
def State.ddrReady (s : State) (c : Nat) : Bool :=
  (s.ddr c).state == .online && (s.ddr c).change.isNone && s.top.dev != .fault

/-- R421: a run of channel `c` starts with its first step. -/
def startDdr (c trig : Nat) (ws : List (Nat × Nat)) (s : State) : State :=
  let s1 := beginRun (ddrSlot c) trig ws s
  s1.setDdr c { s1.ddr c with run := true, steps := 0, gathering := true, stepAt := s.uptime, abandonAt := none }

/-- The run of channel `c` is over for the channel. -/
def endDdr (c : Nat) (s : State) : State :=
  s.setDdr c { s.ddr c with run := false, gathering := false, abandonAt := none }

/-- R424: channel `c` goes OFFLINE, and the LZ9 to FAULT. -/
def loseChannel (c : Nat) (s : State) : State :=
  let x := s.ddr c
  let s1 := s.setDdr c { x with state := .offline, run := false, gathering := false, change := none }
  let s2 := chanEvent c x.state x.rate (s.chanMib c) 3 s1
  memFatal (abortRun (ddrSlot c) (0xFF00 + Cause.code .fatalBlock) s2)

/-- R325, R327, R423: the run of channel `c`, in COMPUTING, has found `best`; the stored setting measures `stored`. A run that
falls back stays in COMPUTING until its channel has retrained. Where a SET_RATE of the channel waits, it comes first (R422), and the run
measures again at the new rate (DEDUCED, log 71). -/
def judgeDdr (c best stored : Nat) (s : State) : State :=
  let x := s.ddr c
  let p := (s.calInst (ddrSlot c)).run
  if p.qualLimit ≤ best then
    let s1 := s.setDdr c { x with stored := Tab.put 0 x.stored x.rate best, eye := best }
    applyResult (ddrSlot c) 0 best (endDdr c s1)
  else if s.mem.minEye ≤ stored then failRun (ddrSlot c) 4 (some (Nat.min 65535 best)) (endDdr c s)
  else if 32 < x.rate then
    if x.change.isSome then passTo (ddrSlot c) .acquiring s
    else s.setDdr c { x with
      gathering := false, change := some { rate := x.rate - 4, old := x.rate, fallback := true, since := s.uptime } }
  else loseChannel c s

/-- R428, R489: a feeder is in panic. Bands and frame stores spread over every channel of the map (R409, R424), so its reads go to
each. -/
def State.anyPanic (s : State) : Bool := (List.range 32).any s.feedPanic

/-- R421, R489: the training of one channel as time passes. A step that has not ended within 200 µs is abandoned; it starts again
once no feeder has been in panic for 10 µs. A run that a frequency change held up goes on after it. -/
def MemChan.trainTick (now : Nat) (panic : Bool) (x : MemChan) : MemChan :=
  if !x.run then x
  else if x.gathering then
    if x.stepAt + 200000 < now then { x with gathering := false, abandonAt := some now } else x
  else
    match x.abandonAt with
    | some t =>
      if panic then { x with abandonAt := some now }
      else if t + 10000 ≤ now && x.state == .online && x.change.isNone then
        { x with gathering := true, stepAt := now, abandonAt := none }
      else x
    | none => if x.state == .online && x.change.isNone then { x with gathering := true, stepAt := now } else x

/-- R421, R489: the training runs as time passes. -/
def trainTick (s : State) : State :=
  if s.mem.chans.any fun e => e.2.run then
    { s with mem := { s.mem with chans := Tab.mapv {} (fun _ x => x.trainTick s.uptime s.anyPanic) s.mem.chans } }
  else s

/-- TRAINING_STEP_DONE (R421, R423, R489): a step ends; after the `last` the run is judged on the best eye found and the eye
of the stored setting. -/
def execTrainingStepDone (ch : Nat) (last : Bool) (best stored : Nat) (s : State) : Host.Outcome State Fault Refusal :=
  let x := s.ddr ch
  if !x.run || x.state != .online || !x.gathering then .next s
  else
    let s1 := s.setDdr ch { x with steps := x.steps + 1, gathering := !last && x.change.isNone, stepAt := s.uptime }
    if last then .next (judgeDdr ch best stored (passTo (ddrSlot ch) .computing s1)) else .next s1

/-- TRAINING_STEP_ABANDON (R489): a step that cannot finish in 200 µs: its data are discarded; it starts again once no feeder has been in panic for
10 µs. -/
def execTrainingStepAbandon (ch : Nat) (s : State) : Host.Outcome State Fault Refusal :=
  let x := s.ddr ch
  if !x.run || !x.gathering then .next s
  else .next (s.setDdr ch { x with gathering := false, abandonAt := some s.uptime })

/-- RATE_CHANGE_START (R422, R489): the change due begins once no step gathers data; a fallback waits for its feeders to
leave panic, at most 1 ms. -/
def execRateChangeStart (ch : Nat) (s : State) : Host.Outcome State Fault Refusal :=
  let x := s.ddr ch
  match x.change with
  | none => .next s
  | some r =>
    if r.begun || x.state != .online || x.gathering then .next s
    else if r.fallback && s.anyPanic && decide (s.uptime < r.since + 1000000) then .next s
    else
      let s1 := s.setDdr ch { x with state := .changing, change := some { r with begun := true, since := s.uptime } }
      .next (chanEvent ch x.state r.rate 0 (if r.fallback then 2 else 1) s1)

/-- R422: channel `c` is ONLINE again at `rate` with the eye `eye`. CHANNEL_STATE has reported the change when it began
(R423). -/
def backOnline (c rate eye : Nat) (s : State) : State :=
  let x := s.ddr c
  s.setDdr c { x with
    state := .online, rate := rate, eye := eye, stored := Tab.put 0 x.stored rate eye, change := none }

/-- RATE_CHANGE_DONE (R422, R423, R435): the channel has retrained at its new rate, with the narrowest eye `eye`. -/
def execRateChangeDone (ch eye : Nat) (s : State) : Host.Outcome State Fault Refusal :=
  let x := s.ddr ch
  match x.change with
  | none => .next s
  | some r =>
    if !r.begun || x.state != .changing then .next s
    else
      let n := ddrSlot ch
      let good := decide ((s.calPolicy n).qualLimit ≤ eye)
      let back := fun st => backOnline ch r.old (Tab.get 0 x.stored r.old) st
      if r.fallback then
        if (s.calInst n).state = .idle then .next (back s)
        else if good then
          .next (applyResult n 0x0100 eye (endDdr ch (backOnline ch r.rate eye s)))
        else .next (loseChannel ch s)
      else if good then .next (retrainDone r.slot ch true (backOnline ch r.rate eye s))
      else .next (retrainDone r.slot ch false (back s))

/-- R326, R489: the run of channel `c` has timed out: a change not begun is dropped. -/
def timeoutDdr (c : Nat) (s : State) : State :=
  let x := s.ddr c
  let s1 := match x.change with
    | some r => if r.fallback && !r.begun then s.setDdr c { x with change := none } else s
    | none => s
  failRun (ddrSlot c) 1 none (endDdr c s1)

/-! ### Boot (R420) -/

/-- R420: the rates of boot training, highest first, MT/s ÷ 100. -/
def bootRates (rateMax : Nat) : List Nat := (List.range ((rateMax - 32) / 4 + 1)).map fun i => rateMax - 4 * i

/-- R420: channel `c` trains in BOOT; `eyes` are the eyes that its rates give, highest rate first, and `temp` its
temperature. CHANNEL_STATE follows READY for a channel left out. -/
def bootTrain (c : Nat) (eyes : List Nat) (temp : Int) (s : State) : State :=
  let n := ddrSlot c
  let lim := (s.calPolicy n).qualLimit
  match ((bootRates s.lcs.inForce.rateMax).zip eyes).find? fun e => decide (lim ≤ e.2) with
  | some e =>
    let s1 := s.setDdr c { s.ddr c with
      state := .online, inMap := true, rate := e.1, eye := e.2, stored := Tab.put 0 [] e.1 e.2, passStart := s.uptime }
    s1.updCal n fun x =>
      { x with tGood := some temp, startTemp := some temp, count := satAdd 65535 x.count 1, quality := Nat.min 65535 e.2
               goodQuality := Nat.min 65535 e.2 }
  | none => s.setDdr c { s.ddr c with state := .offline, inMap := false, rate := 32 }

/-- R420, R437: CHANNEL_STATE for a channel `c` that boot training has left out of the map. -/
def bootChanEvent (s : State) (c : Nat) : State :=
  let x := s.ddr c
  if x.state = .offline then chanEvent c .training x.rate (ddrMib s.lcs.inForce.ddrOrg - 1) 0 s else s

end Sys2Proof.Machine
end

