-- ==== Sys2Proof/Machine/CalRun.lean ====
section
/-! DEFINITION. Calibration runs: their start, exposures and captures, patterns, results and commits (R324 to R343, R463,
R485, R488). -/

namespace Sys2Proof.Machine

/-! ### Preconditions (R325) -/

/-- R325: the preconditions of the print kinds. -/
def State.printCalReady (s : State) : Bool :=
  s.prn.job.isOpen && s.hostCommitted (s.frames.openFirst - 1) && (s.web.gait == .run || s.web.gait == .overspeed)

/-- R344: the lane of a SERDES slot can adapt. -/
def State.serdesReady (s : State) (n : Nat) : Bool :=
  if n < 41 then
    let x := (s.link (n - 9)).state
    x == .locked || x == .observing || x == .claimed
  else (s.port (n - 41)).linkUp

/-- R325: the preconditions of slot `n`. -/
def State.calReady (s : State) (n : Nat) : Bool :=
  if n < 3 then s.printCalReady
  else if n < 5 then s.scanning && s.scan.split.state == .off
  else if n < 9 then s.ddrReady (n - 5)
  else s.serdesReady n

/-- The targets of a slot. -/
def State.calT (s : State) (n : Nat) : CalTargets := (s.calInst n).targets.getD {}

/-! ### Exposures of print kinds (R330) -/

/-- R87, R330: the web position that the master's speed predicts for now, as a quotient of counts: HWM, and what the web has
moved since the latest edge while it runs forward. -/
def State.hwmAhead (s : State) : Int × Nat :=
  match s.web.master with
  | none => (s.web.hwm, 1)
  | some m =>
    let c := (s.chan m).speedAt s.time.now
    if s.web.reverse || decide (c.speed.num ≤ 0) || c.speed.den == 0 then (s.web.hwm, 1)
    else (s.web.hwm * Int.ofNat (c.speed.den * 10 ^ 9) + c.speed.num * Int.ofNat (s.time.now - c.tLast), c.speed.den * 10 ^ 9)

/-- R320, R330: twice the line that stands at the centre of a stream's view, as the speed predicts it. -/
def State.viewCentre (s : State) (st : Nat) : Int :=
  let x := s.stream st
  let h := s.hwmAhead
  let lp := Int.fdiv (h.1 * Int.ofNat (s.web.linesNum * 256)) (Int.ofNat (h.2 * Nat.max 1 s.web.linesDen)) + x.viewOffset
  let last := Int.fdiv lp 256
  2 * last - Int.ofNat x.viewLines + 1

/-- R330: the first frame of the job whose copy 0 has not passed the centre of the view. -/
def State.firstShot (s : State) (t : CalTargets) : FrameNo × Nat :=
  let d := s.viewCentre t.stream - 2 * (s.prn.job.nFirst + t.copyLine 0)
  let i := -Int.fdiv (-d) (2 * Int.ofNat (Nat.max 1 s.prn.job.frameLines))
  (s.prn.job.firstFrame + BitVec.ofNat 32 (max 0 i).toNat, 0)

/-- R330, R335, R488: the exposure after `e`; a health run exposes its ladder frame only. -/
def nextShot (n : Nat) (t : CalTargets) (e : FrameNo × Nat) : Option (FrameNo × Nat) :=
  if e.2 + 1 < t.copies then some (e.1, e.2 + 1) else if n = 1 then none else some (e.1 + 1, 0)

/-- R330: slot `n` has an exposure due on trigger unit `u`. -/
def State.shotDue (s : State) (u n : Nat) : Bool :=
  let x := s.calInst n
  let t := s.calT n
  match x.shot with
  | none => false
  | some e =>
    x.state == .acquiring && (s.stream t.stream).trigger == u &&
      decide (2 * (s.frameLine e.1 + t.copyLine e.2) ≤ s.viewCentre t.stream)

/-- R330: the kind whose exposure the next firing of unit `u` makes. -/
def State.shotOn (s : State) (u : Nat) : Option Nat := printKinds.find? (s.shotDue u)

/-- R330: the firing of unit `u` for slot `n`. -/
def takeShot (n : Nat) (s : State) : State :=
  s.updCal n fun x => { x with shot := x.shot.bind (nextShot n (s.calT n)) }

/-! ### Light-field positions (R339, R375) -/

/-- R345: the POSITION records of a slot. -/
def State.positions (s : State) (n : Nat) : List CalRec := (s.calT n).ofType 7

/-- R339: the group of a light-field run. -/
def State.calGroup (s : State) (n : Nat) : Nat := (s.calT n).u 16 1

/-- R339: the targets of the axes 0, 1 and 2 of the group at position `i`, in 2^-16 axis units. -/
def State.gantryTargets (s : State) (n i : Nat) : List (Nat × Int) :=
  let r := (s.positions n).getD i 0
  (Tab.get [] s.axis.groups (s.calGroup n)).zipIdx.map fun e =>
    (e.1, if e.2 < 3 then (if e.2 = 2 then Int.ofNat (recU r 12 4) else recI r (4 + 4 * e.2) 4) * 65536 else (s.ax e.1).cmd.pos)

/-- R339, R371: an axis can take a calibration move to a target. -/
def Axis.calFree (x : Axis) (target : Int) : Bool :=
  x.enabled && x.fault == .none && (x.mode == .rest || (x.cal && x.mode == .move)) && x.reachable target

/-- R339: the run moves its gantry to its next position, or fails with AXIS. -/
def goToPosition (n : Nat) (s : State) : State :=
  let ts := s.gantryTargets n (s.calInst n).pos
  if ts.length < 3 || ts.any fun e => !(s.ax e.1).calFree e.2 then failRun n 5 none s
  else
    let s1 := ts.foldl (fun st e => st.setAx e.1 { st.ax e.1 with held := true }) s
    let s2 := s1.withAxis fun m => { m with calLost := false }
    startGroup (s.calGroup n) ts 0 0 (s2.updCal n fun x => { x with stage := .moving, pattern := 1, shown := 0, wanted := [] })

/-- R339, R375: the gantry of slot `n` has come to rest, or the run has lost it. -/
def gantryStep (s : State) (n : Nat) : State :=
  let x := s.calInst n
  if x.state ≠ .acquiring then s
  else
    let ts := s.gantryTargets n x.pos
    if s.axis.calLost || ts.any fun e => (s.ax e.1).fault != .none then failRun n 5 none s
    else if x.stage = .moving ∧ ts.all fun e => (s.ax e.1).mode == .rest then
      s.setCal n { x with stage := .settling, settleAt := s.uptime + (s.calT n).u 18 2 * 10 ^ 6 }
    else s

/-- R339: what a servo period shows of the gantries. -/
def gantrySteps (s : State) : State := [3, 4].foldl gantryStep s

/-- CAL_SETTLE_EXPIRY (R339): SETTLE_MS have passed at a position and the test patterns start. -/
def execCalSettleExpiry (calId : Nat) (s : State) : Host.Outcome State Fault Refusal :=
  match calSlot calId with
  | none => .next s
  | some n =>
    let x := s.calInst n
    if x.state = .acquiring ∧ x.stage = .settling ∧ x.settleAt ≤ s.uptime then
      .next (s.setCal n { x with stage := .showing, pattern := 1, shown := 0, wanted := [] })
    else .next s

/-- R341, R342: how many patterns a light-field kind shows at a position. -/
def patternsOf (n : Nat) : Nat := Config.patternCount (n + 1) + 1

/-- The number of pattern `p` of slot `n` over both kinds, from 1. -/
def patternNumber (n p : Nat) : Nat := if n = 4 then patternsOf 3 + p else p

/-- R339: every pattern of the position has been shown. -/
def CalInst.shownAll (x : CalInst) (n : Nat) : Bool := x.stage == .showing && decide (patternsOf n < x.pattern)

/-- R339: the captures of a position are complete: the run goes to the next position, or computes. -/
def positionDone (n : Nat) (s : State) : State :=
  let x := s.calInst n
  if !x.shownAll n || !x.wanted.isEmpty then s
  else if x.pos + 1 < (s.positions n).length then goToPosition n (s.setCal n { x with pos := x.pos + 1 })
  else s.setCal n { x with state := .computing, stage := .none }

/-- R339, R340: frame `f` enters CUT while slot `n` acquires: it shows the pattern generator. -/
def patternFrame (f : FrameNo) (s : State) (n : Nat) : State :=
  let x := s.calInst n
  if x.state ≠ .acquiring then s
  else
    let p := Nat.min x.pattern (patternsOf n)
    let last := decide ((s.calT n).u 17 1 ≤ x.shown + 1)
    let showing := x.stage == .showing && decide (x.pattern ≤ patternsOf n)
    let y := { x with
      firstPattern := some (x.firstPattern.getD f)
      lastPattern := f
      pattern := if showing && last then x.pattern + 1 else x.pattern
      shown := if showing then (if last then 0 else x.shown + 1) else 0
      wanted := if showing && last then x.wanted ++ [f] else x.wanted }
    rollback ((s.setCal n y).updFrame f fun r => { r with lum := r.lum % 1024 + 1024 * patternNumber n p })

/-! ### Starting a run (R324, R325) -/

/-- R325: slot `n`, whose preconditions hold, starts a run. -/
def startRun (n trig : Nat) (ws : List (Nat × Nat)) (s : State) : State :=
  if 5 ≤ n ∧ n < 9 then startDdr (n - 5) trig ws s
  else
    let s1 := beginRun n trig ws s
    if n = 1 then s1
    else if n < 3 then s1.updCal n fun x => { x with shot := some (s1.firstShot (s1.calT n)) }
    else if n < 5 then goToPosition n s1
    else s1

/-- R324, R325: trigger `trig` fires for slot `n`. -/
def calTrigger (n trig : Nat) (s : State) : State :=
  let x := s.calInst n
  if x.pend.isSome then s.setCal n { x with coalesced := satAdd 65535 x.coalesced 1 }
  else if x.state = .idle ∧ s.calReady n ∧ (5 ≤ n ∨ x.targets.isSome) then startRun n trig [] s
  else s.setCal n { x with pend := some trig }

/-- CAL_RUN_START (R325): a pending run starts. -/
def execCalRunStart (calId : Nat) (s : State) : Host.Outcome State Fault Refusal :=
  match calSlot calId with
  | none => .next s
  | some n =>
    let x := s.calInst n
    match x.pend with
    | none => .next s
    | some tr =>
      if x.state = .idle ∧ s.calReady n ∧ (5 ≤ n ∨ x.targets.isSome) then
        .next (startRun n tr x.pendWaiters (s.setCal n { x with pend := none, pendWaiters := [] }))
      else .next s

/-- CAL_PERIODIC_TIMER (R324): PERIOD ms since the latest run of a DDR or SERDES instance started. A trigger that finds no
run to start counts its PERIOD anew (DESIGN CHOICE, log 68). -/
def execCalPeriodicTimer (calId : Nat) (s : State) : Host.Outcome State Fault Refusal :=
  match calSlot calId with
  | none => .next s
  | some n =>
    let p := s.calPolicy n
    if 5 ≤ n ∧ p.periodic ∧ 0 < p.period ∧ (s.calInst n).lastStart + p.period * 10 ^ 6 ≤ s.uptime then
      .next (calTrigger n 2 (s.updCal n fun x => { x with lastStart := s.uptime }))
    else .next s

/-- R324: the temperature triggers at a housekeeping round. -/
def temperatureTriggers (s : State) : State :=
  calSlots.foldl (fun st n =>
    let p := st.calPolicy n
    if p.temperature && (p.enable || decide (5 ≤ n)) && st.tempDue n then calTrigger n 3 st else st) s

/-! ### Captures (R331, R488) -/

/-- R129: the frame flags that make a frame defective. -/
def defectMask : Nat :=
  [Flag.lineSkipped, .lineBlanked, .bandLate, .frameSkipped, .dataPoisoned, .halted, .aborted, .tandemGap,
   .registrationUncertain].foldl (fun a f => a + 2 ^ f.bit) 0

/-- The generation and the CUT time of a frame that has entered CUT. -/
def State.cutOf (s : State) (f : FrameNo) : Option (FrameNo × Nat) :=
  if (s.frame f).phase ≠ .opened then some ((s.frame f).gen, (s.frame f).cutAt)
  else (s.frames.past.find? fun e => e.1 == f.toNat).map fun e => (BitVec.ofNat 32 e.2.1, e.2.2.2)

/-- R331: MFLAGS that make a capture invalid. -/
def badCapture (f : CamFrame) (v : InView) : Bool :=
  f.corrupt || f.slipped || f.unpaired || f.suppressed || v.none || v.spans || f.overrate

/-- R331: the target lines of slot `n` in a capture of copy `k` of the frame that starts at line `nf`. -/
def State.targetLines (s : State) (n k : Nat) (nf : Int) : List Int :=
  let t := s.calT n
  let p := (s.calInst n).run
  if n = 1 then
    ((List.range 16).filter fun b => bitAt p.barMask b).flatMap fun b =>
      (List.range (2 * t.u 36 1)).map fun i => nf + Int.ofNat (t.u 38 2 + b * t.u 40 2 + i)
  else if n = 2 then
    ((t.ofType 5).filter fun r => recU r 1 1 / 16 == k && bitAt p.barMask (recU r 1 1 % 16)).map fun r =>
      nf + Int.fdiv (recI r 12 4) 256
  else [nf + t.copyLine k]

/-- R331: a bar of a mark of copy `k` was slewing while the lines of the mark were printed. -/
def State.slewedMarks (s : State) (n k : Nat) (c : CalShot) : Bool :=
  let t := s.calT n
  let p := (s.calInst n).run
  (t.ofType 5).any fun r =>
    let b := recU r 1 1 % 16
    let q := recRect r
    let a := c.rowLine (t.u 11 1 == 1) q.2.1
    let z := c.rowLine (t.u 11 1 == 1) (q.2.1 + q.2.2.2 - 1)
    let h := 2 * Int.ofNat (Nat.max 1 c.height)
    let lo := Int.fdiv (min a z) h
    let hi := Int.fdiv (max a z) h
    recU r 1 1 / 16 == k && bitAt p.barMask b && (s.webBar b).slews.any fun e => decide (e.1 ≤ hi) && decide (lo ≤ e.2)

/-- R331: the capture of copy `k` for slot `n`; `ok` but for the frame record still awaited. -/
def State.shotOfFrame (s : State) (n k st : Nat) (f : CamFrame) : CalShot :=
  let x := s.stream st
  let i := s.calInst n
  let v := s.inView x f
  let nf := s.frameLine v.frame
  let guard := Int.ofNat ((s.calT n).u 32 2)
  let c : CalShot :=
    { copy := k, frame := f, width := x.width, height := x.height, cfa := x.cfa, bits := rawBits x.format
      viewLines := x.viewLines, first := v.first, last := v.last, out := v.frame }
  let fresh := match s.cutOf v.frame with
    | some g => decide (i.startRef ≤ g.2) && (i.gen == 0 || FrameNo.notBefore g.1 i.gen)
    | none => false
  let inside := (s.targetLines n k nf).all fun l => decide (v.first + guard ≤ l) && decide (l ≤ v.last - guard)
  { c with ok := !badCapture f v && f.id == i.settingsId && fresh && inside && !(n == 2 && s.slewedMarks n k c) }

/-- R331, R488: captures of slot `n` are rejected. -/
def rejectShots (n k : Nat) (s : State) : State :=
  s.updCal n fun x => { x with rejected := satAdd 65535 x.rejected k, runRejected := x.runRejected + k }

/-- R488: frames of which slot `n` holds captures. -/
def CalInst.sets (x : CalInst) : List FrameNo := (x.shots.map (·.out)).eraseDups

/-- R488: the captures of a set. -/
def CalInst.setOf (x : CalInst) (f : FrameNo) : List CalShot := x.shots.filter fun c => c.out == f

/-- R488: the set of frame `f` is discarded whole. -/
def dropSet (n : Nat) (f : FrameNo) (s : State) : State :=
  let x := s.calInst n
  rejectShots n (x.setOf f).length (s.setCal n { x with shots := x.shots.filter fun c => c.out != f })

/-- R331, R488: a complete set of frame `f` meets the frame's record, if it has been written. -/
def judgeSet (n : Nat) (s : State) (f : FrameNo) : State :=
  let x := s.calInst n
  let set := x.setOf f
  if x.state ≠ .acquiring ∨ set.length < (s.calT n).copies then s
  else if set.any fun c => !c.ok then dropSet n f s
  else
    match s.frames.past.find? fun e => e.1 == f.toNat with
    | none => s
    | some e =>
      if e.2.2.1 &&& defectMask ≠ 0 then dropSet n f s
      else s.setCal n { x with
        state := .computing, shots := set, shot := none, used := satAdd 65535 x.used set.length
        runUsed := x.runUsed + set.length }

/-- R331: what the frame records and captures so far make of the sets of slot `n`. -/
def judgeSets (s : State) (n : Nat) : State := (s.calInst n).sets.foldl (judgeSet n) s

/-- R488: a capture joins its set; earlier sets that lack one are discarded. -/
def addShot (n : Nat) (c : CalShot) (s : State) : State :=
  let copies := (s.calT n).copies
  let old := ((s.calInst n).sets.filter fun f => f != c.out && decide (((s.calInst n).setOf f).length < copies))
  let s1 := old.foldl (fun st f => dropSet n f st) s
  let x := s1.calInst n
  let twice := x.shots.any fun d => d.out == c.out && d.copy == c.copy
  if twice then rejectShots n 1 s1
  else judgeSets (s1.setCal n { x with shots := x.shots ++ [c] }) n

/-- R330: a frame of stream `st` as a print kind takes it. -/
def captureFor (st : Nat) (f : CamFrame) (s : State) (n : Nat) : State :=
  let t := s.calT n
  if (s.calInst n).state ≠ .acquiring ∨ t.stream ≠ st then s
  else
    match f.ctx.bind fun c => t.ctxs.findIdx? (· == c) with
    | none => s
    | some k => addShot n (s.shotOfFrame n k st f) s

/-- R339: a frame of stream `st` as a light-field kind takes it. A capture whose flags would spoil it for a print kind is
rejected here too (DESIGN CHOICE, log 68: R331 speaks of print kinds). -/
def patternShot (st : Nat) (f : CamFrame) (s : State) (n : Nat) : State :=
  let x := s.calInst n
  let v := s.inView (s.stream st) f
  if x.state ≠ .acquiring ∨ (s.calT n).stream ≠ st ∨ !x.wanted.contains v.frame then s
  else if badCapture f v || f.id != x.settingsId then rejectShots n 1 s
  else
    positionDone n (s.setCal n { x with
      wanted := x.wanted.filter (· != v.frame), used := satAdd 65535 x.used 1, runUsed := x.runUsed + 1 })

/-- R330, R331, R339: a delivered camera frame reaches the calibration engine. -/
def calCapture (st : Nat) (f : CamFrame) (s : State) : State :=
  [3, 4].foldl (patternShot st f) (printKinds.foldl (captureFor st f) s)

/-- R331: a frame record has been written. -/
def calRecord (s : State) : State := printKinds.foldl judgeSets s

/-! ### Results (R328, R333, R334, R336, R338, R341, R342, R463) -/

/-- The image changes the CAL set. -/
def imageCommits (r : CalImage) : Bool :=
  r.cleared != 0 || !r.tables.isEmpty || !r.missing.isEmpty || !r.shifts.isEmpty || r.residuals.isSome || r.gains.isSome

/-- R347: CLEAR_LIST for the bars of `mask`. -/
def clearList (mask : Nat) (c : OutCfg) : OutCfg :=
  let nodes := ((List.range 16).filter fun b => bitAt mask b).flatMap fun b => (c.prn.map b).nodes.map (·.node)
  { c with prn := { c.prn with missing := c.prn.missing.filter fun e => !nodes.contains (e.1 / 32768) } }

/-- The CAL set with an image; tables take load numbers from `load` on. -/
def imageApply (r : CalImage) (load : Nat) (c0 : OutCfg) : OutCfg :=
  let c := clearList r.cleared c0
  let post := r.tables.zipIdx.foldl (fun t e => Tab.put {} t e.1.1 ({ id := load + e.2, data := e.1.2 } : Loaded)) c.prn.post
  let missing := r.missing.foldl (fun t e => Tab.put false t e.2 true) c.prn.missing
  let shift := r.shifts.foldl (fun t e => Tab.put 0 t e.1 e.2) c.prn.shift
  let lf1 := match r.residuals with
    | some x => { c.lf with resCal := true, residuals := x }
    | none => c.lf
  let lf2 := match r.gains with
    | some x => { lf1 with gainCal := true, gains := x }
    | none => lf1
  { c with prn := { c.prn with post := post, missing := missing, shift := shift }, lf := lf2 }

/-- R94, R98, R338: the slews of an image. -/
def imageSlew (r : CalImage) (s : State) : State :=
  recomputeSpan (r.slews.foldl (fun st e =>
    let x := st.webBar e.1
    st.setWebBar e.1 { x with target := e.2.1, slewRate := e.2.2, slewing := decide (x.offset ≠ e.2.1), slewCmd := 0 }) s)

/-- R338: the axis moves of an image. -/
def imageMove (r : CalImage) (s : State) : State :=
  r.moves.foldl (fun st e =>
    let x := st.ax e.1
    startMove e.1 ((if x.mode = .move then x.target else x.cmd.pos) + e.2) x.cfg.limits 0 0 st) s

/-- R463: the holder mirrors a result to its standby. -/
def mirrorResult (applied : FrameNo) (r : CalImage) (s : State) : State :=
  if s.tan.state = .active then
    ({ s with tan := { s.tan with mirrorNo := s.tan.mirrorNo + 1 } }).emit (.mirror (s.tan.mirrorNo + 1) applied.toNat r)
  else s

/-- R328, R463: commit an image at frame `target`, or at the earliest OPEN frame. -/
def commitImage (target : Option FrameNo) (r : CalImage) (s : State) : State :=
  newLoads r.tables.length (imageSlew r (calCommit 0x0901 target (imageApply r s.prn.nextLoad) s))

/-- R114: another commit is allowed. -/
def State.commitRoom (s : State) : Bool := decide (s.pendingCommits.length < 16)

/-- R336, R349: NOZZLE_CHANGE for each bar whose list has grown. -/
def nozzleChanges (r : CalImage) (a : FrameNo) (s : State) : State :=
  ((r.missing.map (·.1)).eraseDups).foldl (fun st b =>
    let ks := (r.missing.filter fun e => e.1 == b).map (·.2)
    let k := ks.headD 0
    raise Src.cal 0x0003 (le 1 b ++ le 2 ks.length ++ le 4 a.toNat ++ le 1 (k / 32768) ++ le 2 (k % 32768)) st) s

/-- R328: slot `n`, in COMMITTING, commits its result, or waits. -/
def tryCommit (s : State) (n : Nat) : State :=
  let x := s.calInst n
  if x.state ≠ .committing then s
  else if !imageCommits x.result then
    let s1 := mirrorResult s.frames.openFirst x.result (imageMove x.result (imageSlew x.result s))
    succeedRun n 0 x.quality (some s1.frames.openFirst) none (if x.result.slews.isEmpty then s else s1)
  else if !s.commitRoom then s
  else
    let s1 := imageMove x.result (commitImage none x.result s)
    let a := (s1.frames.commits.getLast?.map (·.applied)).getD s1.frames.openFirst
    succeedRun n 0 x.quality (some a) (some s1.frames.genLast) (nozzleChanges x.result a (mirrorResult a x.result s1))

/-- R328: slot `n` has its result, of quality `q`: it enters COMMITTING. -/
def haveResult (n q : Nat) (r : CalImage) (s : State) : State :=
  tryCommit ((passTo n .committing s).updCal n fun x => { x with quality := q, result := r }) n

/-- The configuration that the frame of a run's captures used. -/
def State.shotCfg (s : State) (n : Nat) : PrintCfg :=
  (s.cfgOf (((s.calInst n).shots.head?.map (·.out)).getD s.frames.openFirst)).prn

/-- R332, R333: a COLOUR run computes. -/
def computeColour (s : State) : State :=
  let x := s.calInst 0
  let t := s.calT 0
  let chans := (List.range 16).filter fun c => bitAt x.run.chMask c
  let post := (s.shotCfg 0).post
  let res := chans.map fun c => (c, colourChannel t x.run (Tab.get {} post c) x.shots c)
  let note := fun (u : Tab (Nat × Nat)) (e : Nat × Option Nat × Option (List Nat × Nat)) =>
    let old := Tab.get (0, 0) u e.1
    Tab.put (0, 0) u e.1 (Nat.min 65535 (e.2.1.getD old.1), Nat.min 65535 ((e.2.2.map (·.2)).getD old.2))
  let q := colourQuality t x.shots
  let s1 := measured 0 q (s.withCal fun c => { c with resid := res.foldl note c.resid })
  if res.any fun e => e.2.2.isNone then failRun 0 3 (some q) s1
  else if s1.tablesFree < chans.length then failRun 0 6 (some q) s1
  else haveResult 0 q { tables := res.filterMap fun e => e.2.2.map fun v => (e.1, v.1) } s1

/-- R336: a NOZZLE_HEALTH run computes. A nozzle joins the list at the FAIL that brings its count to FAIL_COUNT or more; the
counts outlive CLEAR_LIST, and the lines of a nozzle are all in which stage 6 selects it, as the rule has it (DEDUCED,
log 68). -/
def computeHealth (s : State) : State :=
  let x := s.calInst 1
  let t := s.calT 1
  let cfg := s.shotCfg 1
  let c := x.shots.headD {}
  let bars := (List.range 16).filter fun b => bitAt x.run.barMask b
  let verdicts := bars.map fun b =>
    (b, (List.range (cfg.map b).positions).flatMap (judgePosition t cfg c (s.frameLine c.out) b))
  let fails := verdicts.foldl (fun u e => e.2.foldl (fun v w => match w.2.1 with
    | .pass => Tab.put 0 v w.1 0
    | .fail => Tab.upd 0 v w.1 (· + 1)
    | .untested => v) u) s.cal.fails
  let listed := s.frames.latest.prn.missing
  let added := verdicts.flatMap fun e => (e.2.filter fun w =>
    w.2.1 == .fail && decide (t.u 44 1 ≤ Tab.get 0 fails w.1) && !Tab.get false listed w.1).map fun w => (e.1, w.1)
  let q := Nat.min 65535 (maxOf (verdicts.map fun e => healthSpread (e.2.flatMap fun w => w.2.2)))
  haveResult 1 q { missing := added } (measured 1 q (s.withCal fun k => { k with fails := fails }))

/-- R350: a cross-web error in 1/16 column, saturated to 16 bits. -/
def crossField (x : Int) : Int := max (-32768) (min 32767 (Int.tdiv x 16))

/-- R338: a REGISTRATION run computes. -/
def computeRegistration (s : State) : State :=
  let x := s.calInst 2
  let t := s.calT 2
  let nf := s.frameLine ((x.shots.head?.map (·.out)).getD 0)
  match barFixes t x.run nf x.shots with
  | none => failRun 2 3 none s
  | some fs =>
    let q := Nat.min 65535 (maxOf (fs.map fun f => f.err.natAbs))
    let s1 := measured 2 q <| s.withCal fun c => { c with barErr := fs.foldl (fun u f => Tab.put (0, 0) u f.bar (f.err, crossField f.cross)) c.barErr }
    let moves := (fs.filter fun f => t.u (40 + f.bar) 1 != 0xFF && f.move != 0).map fun f => (t.u (40 + f.bar) 1, f.move)
    let stuck := moves.any fun m =>
      let a := s1.ax m.1
      !a.calFree ((if a.mode = .move then a.target else a.cmd.pos) + m.2)
    if stuck then failRun 2 5 (some q) s1
    else
      let base := s1.frames.latest.prn.shift
      haveResult 2 q
        { shifts := (fs.filter fun f => f.cols != 0).map fun f =>
            (f.bar, max (-512) (min 512 (Tab.get 0 base f.bar + f.cols)))
          slews := fs.map fun f => (f.bar, (s1.webBar f.bar).offset + f.offset, x.run.slewRate)
          moves := moves } s1

/-- R327: a light-field result of quality `q`. -/
def lfResult (n q : Nat) (r : CalImage) (s : State) : State :=
  if (s.calInst n).run.qualLimit < q then failRun n 4 (some q) s else haveResult n q r s

/-- R341: the free residuals of a lens that has no seen neighbour: bytes of the free values from `k` on. -/
def freeResidual (k e : Nat) : Int × Int :=
  let w := (Config.freeWord (k + e)).toNat
  (signed 8 (w % 256), signed 8 (w / 256 % 256))

/-- R341, R342: a light-field run computes from what its captures show; `found` that every pattern was found. -/
def computeLf (n : Nat) (found : Bool) (lenses : List LensObs) (photo : List EmitterObs) (s : State) : State :=
  let c := s.frames.latest.lf
  if !found then failRun n 3 none s
  else if n = 3 then
    if tooFewLenses lenses then failRun n 2 none s
    else
      lfResult n (rayQuality lenses) { residuals := some (lensResiduals (freeResidual s.free) c.map lenses) }
        { s with free := s.free + c.map.emitters }
  else
    match photoResult (s.calT n) photo with
    | none => failRun n 3 none s
    | some r => lfResult n r.2 { gains := some r.1 } s

/-- CAL_COMPUTE_DONE (R326 to R328, R332 to R344): the computation of a run ends. `eye` is what a SERDES run has found;
`found`, `lenses` and `photo` are what the captures of a light-field run show. -/
def execCalComputeDone (calId eye : Nat) (found : Bool) (lenses : List LensObs) (photo : List EmitterObs) (s : State) :
    Host.Outcome State Fault Refusal :=
  match calSlot calId with
  | none => .next s
  | some n =>
    let x := s.calInst n
    if 9 ≤ n then
      if x.state ≠ .acquiring ∨ !s.serdesReady n then .next s
      else if eyeTooNarrow x.run eye then .next (failRun n 4 (some (Nat.min 65535 eye)) (passTo n .computing s))
      else .next (applyResult n 0 eye (passTo n .computing s))
    else if x.state ≠ .computing then .next s
    else if n = 0 then .next (computeColour s)
    else if n = 1 then .next (computeHealth s)
    else if n = 2 then .next (computeRegistration s)
    else .next (computeLf n found lenses photo s)

/-- CAL_TIMEOUT (R326): the timeout of a run expires. The adaptation of a link that is not up ends under R227. -/
def execCalTimeout (calId : Nat) (s : State) : Host.Outcome State Fault Refusal :=
  match calSlot calId with
  | none => .next s
  | some n =>
    let x := s.calInst n
    if x.state = .idle ∨ s.uptime < x.startRef + x.run.timeoutMs * 10 ^ 6 then .next s
    else if 5 ≤ n ∧ n < 9 then .next (timeoutDdr (n - 5) s)
    else if 9 ≤ n ∧ !s.serdesReady n then .next s
    else .next (failRun n 1 none s)

/-! ### At a cutoff (R253, R324, R328, R329, R335, R340) -/

/-- R347, R463: the CLEAR_LIST commands that wait commit while R114 allows, and are mirrored. -/
def tryClears : List (Nat × Nat × Nat) → State → State
  | [], s => s
  | e :: rest, s =>
    if !s.commitRoom then s
    else
      let s1 := s.withCal fun c => { c with clears := rest }
      let r : CalImage := { cleared := e.2.2 }
      let s0 := commitImage none r s1
      let a := (s0.frames.commits.getLast?.map (·.applied)).getD s0.frames.openFirst
      let s2 := mirrorResult a r s0
      tryClears rest (if s2.running e.1 e.2.1 then complete e.1 St.ok 0 0 (some a) s2 else s2)

/-- R114, R463: the mirrored results that wait commit while R114 allows; one of slews alone takes no generation, as at the
holder (R328). -/
def tryMirrors : List (FrameNo × CalImage) → State → State
  | [], s => s
  | e :: rest, s =>
    let s1 := { s with tan := { s.tan with mirrorWait := rest } }
    if !imageCommits e.2 then tryMirrors rest (imageSlew e.2 s1)
    else if !s.commitRoom then s
    else tryMirrors rest (commitImage (some e.1) e.2 s1)

/-- R253, R349: a frame begins or ceases to be marked for its ray map or its emitter table. -/
def heldEvents (f : FrameNo) (s : State) : State :=
  if s.top.mode ≠ .lightfield then s
  else
    let r := s.frame f
    let c := (s.cfgOf f).lf
    let m := r.bufs.any fun e => e.1 == 68 && e.2 != c.map.handle
    let g := r.bufs.any fun e => e.1 == 69 && e.2 != c.gain.handle
    let s1 := if m = s.cal.heldMap then s else calStale 0x0004 m 3 f s
    let s2 := if g = s.cal.heldTable then s1 else calStale 0x0005 g 3 f s1
    s2.withCal fun x => { x with heldMap := m, heldTable := g }

/-- R329: staleness of slot `n` at the cutoff of frame `f`, before the frame is marked. -/
def clearAtCutoff (f : FrameNo) (s : State) (n : Nat) : State :=
  let x := s.calInst n
  match x.clearAt with
  | some a => if FrameNo.notBefore f a then endStale n x.staleCause f s else s
  | none => s

/-- R329: slot `n` counts the frame. -/
def countAtCutoff (f : FrameNo) (s : State) (n : Nat) : State :=
  let p := s.calPolicy n
  if !p.enable then s
  else
    let k := (s.calInst n).staleCount + 1
    let s1 := s.updCal n fun x => { x with staleCount := k }
    if 0 < p.staleLimit ∧ p.staleLimit ≤ k then becomeStale n 2 f s1 else s1

/-- R324: the PERIODIC trigger of slot `n` at frame `f`. -/
def periodicAtCutoff (f : FrameNo) (s : State) (n : Nat) : State :=
  let p := s.calPolicy n
  let first := if s.top.mode = .lightfield then s.scan.first else s.prn.job.firstFrame
  if p.enable && p.periodic && decide (0 < p.period) && (f - first).toNat % Nat.max 1 p.period == 0 then calTrigger n 2 s else s

/-- R335: the first frame to enter CUT in a health run prints its ladder. -/
def ladderAtCutoff (f : FrameNo) (s : State) : State :=
  let x := s.calInst 1
  if x.state ≠ .acquiring ∨ x.ladder.isSome then s
  else
    let t := s.calT 1
    let ld : Ladder := { mask := x.run.barMask, spacing := t.u 36 1, dot := t.u 37 1, line0 := t.u 38 2, step := t.u 40 2 }
    (s.setCal 1 { x with ladder := some f, shot := some (f, 0) }).updFrame f fun r => { r with ladder := some ld }

/-- What the calibration engine does at the cutoff of frame `f`, which has entered CUT. -/
def calCutoff (f : FrameNo) (s : State) : State :=
  let ks := if s.top.mode = .lightfield then [3, 4] else printKinds
  let s1 := heldEvents f (ks.foldl (clearAtCutoff f) s)
  let s2 := if ks.any fun n => (s1.calInst n).stale then s1.updFrame f (Frame.mark .calStale) else s1
  let s3 := ladderAtCutoff f (ks.foldl (periodicAtCutoff f) (ks.foldl (countAtCutoff f) s2))
  let s4 := if s3.top.mode = .lightfield then [3, 4].foldl (patternFrame f) s3 else s3
  let s5 := ks.foldl tryCommit s4
  let s6 := tryClears s5.cal.clears s5
  tryMirrors s6.tan.mirrorWait s6

end Sys2Proof.Machine
end

