-- ==== Sys2Proof/Machine/Tan.lean ====
section
/-! DEFINITION. Tandem controllers: the tandem link, takeovers, drills and leaving (R459 to R477). -/

namespace Sys2Proof.Config

/-- R462: the generation digest: firmware's CRC-32 over its own canonical image of a configuration and of the buffers it
binds, as handle, size, and CRC plus 1 (0 without CRC_EN). The image is nowhere given. -/
opaque genDigest : Machine.OutCfg → List (Nat × Nat × Nat) → BitVec 32

end Sys2Proof.Config

namespace Sys2Proof.Machine

/-! ### The partner (R462, R465) -/

/-- The tandem links. -/
def State.tanLinks (s : State) : List Nat := allLinks.filter s.tanLink

/-- R459: this LZ9 holds the claims, or is to. -/
def State.tanHolder (s : State) : Bool :=
  s.tan.state == .active || s.tan.state == .alone || s.tan.state == .takingOver || (s.tan.state == .pairing && !s.tan.endB)

/-- R462: the generation digest of frame `f`. -/
def State.digest (s : State) (f : FrameNo) : Nat :=
  let c := s.cfgOf f
  let hs := ((c.uses s.top.mode).map (·.handle) ++ (if s.top.mode = .lightfield then [c.lf.map.handle, c.lf.gain.handle] else [])).eraseDups
  (Config.genDigest c (hs.map fun h => (h, (s.buf h).size, if (s.buf h).crcEn then (s.buf h).crc + 1 else 0))).toNat

/-- The latest frame in DELIVERING. -/
def State.delivering (s : State) : Option FrameNo := (s.liveFrames.filter fun f => s.phase f == .delivering).getLast?

/-- R462: DELIV_REF of a frame: POS_START in print, T_F in light-field mode. -/
def State.delivRef (s : State) (f : FrameNo) : Int :=
  if s.top.mode = .lightfield then s.frameTime f else (s.frame f).posStart

/-- R462: the claim held on the tandem links, or 0. -/
def State.tanClaim (s : State) : Nat :=
  (s.tanLinks.filter s.claimed).foldl (fun a l => Nat.max a (s.link l).claim) 0

/-- JOB_ID of the open job, or 0. -/
def State.jobId (s : State) : Nat := if s.prn.job.isOpen then s.prn.job.jobId else 0

/-- R467: a tandem link has been out of CLAIMED, other than by command, for 1 ms. -/
def State.takeoverReq (s : State) : Bool :=
  (s.tan.state == .active || s.tan.state == .alone) && !s.tan.released &&
    s.tanLinks.any fun l => !s.claimed l && decide ((s.link l).leftAt + 1000000 ≤ s.uptime)

/-- R462: the body of a HEARTBEAT. -/
def State.heartbeat (s : State) (left : Bool) : List Byte :=
  let f := s.delivering.getD 0
  let has := s.delivering.isSome
  le 1 s.tan.state.code ++ le 1 s.top.dev.code ++
  le 1 (b2n s.tan.mirrorOk + 2 * b2n s.tan.released + 4 * b2n s.takeoverReq + 8 * b2n left) ++ le 1 0 ++
  le 4 s.frames.openFirst.toNat ++ le 4 s.frames.frameLast.toNat ++ le 4 f.toNat ++
  le 8 (if has then unsigned 64 (s.delivRef f) else 0) ++ le 4 (if has then s.digest f else 0) ++ le 2 s.tanClaim ++ le 2 0 ++
  le 4 s.lcs.fwVersion ++ le 4 s.jobId

/-- R462: DEST_MAC of tandem messages, first octet lowest. -/
def tanMac : Nat := 0x0054395A4C03

/-- R395, R462: send a tandem message on port 1. -/
def sendTan (ty : Nat) (body : List Byte) (s : State) : State :=
  let sq := (s.tan.sentSeq + 1) % 65536
  let env := [1#8, BitVec.ofNat 8 ty] ++ le 2 body.length ++ le 4 s.tan.id ++ le 1 (b2n s.tan.endB) ++ le 1 0 ++ le 2 sq ++
    le 8 s.time.now
  (s.withTan fun t => { t with sentSeq := sq }).emit (.eth 1 (ethPad (ethHeader (s.port 1) tanMac 0x88B5 ++ env ++ body)))

/-- HEARTBEAT_TIMER (R462): a member sends HEARTBEAT every 100 µs. -/
def execHeartbeatTimer (s : State) : Host.Outcome State Fault Refusal :=
  if s.tan.state = .off || decide (s.uptime < s.tan.hbSent + 100000) then .next s
  else .next (sendTan 0x40 (s.heartbeat false) (s.withTan fun t => { t with hbSent := s.uptime }))

/-- R460: TANDEM_ALIVE_OUT toggles. -/
def State.aliveAllowed (s : State) : Bool :=
  s.fuse.part.tandem && (s.top.dev == .idle || s.top.dev == .armed || s.top.dev == .run || s.top.dev == .halter)

/-- R460: the level of TANDEM_ALIVE_OUT: low wherever it does not toggle. The expiry of a control core's watchdog ends in FAULT (R12). -/
def State.aliveLevel (s : State) : Bool := s.tan.aliveOut && s.aliveAllowed

/-- TANDEM_ALIVE_TOGGLE (R460). -/
def execTandemAliveToggle (s : State) : Host.Outcome State Fault Refusal :=
  if s.aliveAllowed && decide (s.tan.aliveSent + 100000 ≤ s.uptime) then
    .next (s.withTan fun t => { t with aliveOut := !t.aliveOut, aliveSent := s.uptime })
  else .next s

/-- TANDEM_ALIVE_EDGE (R29, R460): ignored on a part without Tandem. -/
def execTandemAliveEdge (s : State) : Host.Outcome State Fault Refusal :=
  .next (if s.fuse.part.tandem then s.withTan fun t => { t with aliveAt := some s.uptime } else s)

/-- A time of the past lies HB_TIMEOUT_US back, or there is none. -/
def State.hbOld (s : State) (at' : Option Nat) : Bool :=
  match at' with
  | none => true
  | some t => decide (t + 1000 * s.tan.hbTimeoutUs ≤ s.uptime)

/-- The partner's heartbeat is lost: no HEARTBEAT and no edge of TANDEM_ALIVE_IN for HB_TIMEOUT_US. -/
def State.partnerLost (s : State) : Bool := s.hbOld s.tan.beatAt && s.hbOld s.tan.aliveAt

/-- R476: the tandem state changes; PAIR_STATE reports it. -/
def setPair (new : TanState) (cause : Nat) (s : State) : State :=
  raise Src.tan 0x0001 (le 1 s.tan.state.code ++ le 1 new.code ++ le 1 cause) (s.withTan fun t => { t with state := new })

/-- R462: a tandem message of type `ty`; another is discarded and counted. -/
def onTan (ty : Nat) (env : List Byte) (f : Nat → List Byte → State → State) (s : State) : State :=
  let len := numAt env 2 2
  if s.tan.state = .off then s
  else if numAt env 4 4 ≠ s.tan.id ∨ env.length < 20 + len then ethDrop 1 s
  else if byteAt env 1 = ty then f (byteAt env 8) ((env.drop 20).take len) s
  else s

/-- R462: the body of a HEARTBEAT from `sender`. -/
def readBeat (sender : Nat) (b : List Byte) : Heartbeat :=
  { tan := byteAt b 0, dev := byteAt b 1, bits := byteAt b 2, frameLast := BitVec.ofNat 32 (numAt b 8 4)
    deliv := BitVec.ofNat 32 (numAt b 12 4), ref := signed 64 (numAt b 16 8), digest := numAt b 24 4, claim := numAt b 28 2
    fw := numAt b 32 4, job := numAt b 36 4, sender := sender }

/-- R461: the partner has the role of a standby. -/
def Heartbeat.standby (b : Heartbeat) : Bool := b.tan == 3 || (b.tan == 1 && b.sender == 1)

/-- R461: the partner has the role of a holder. -/
def Heartbeat.holder (b : Heartbeat) : Bool := b.tan == 2 || b.tan == 4 || b.tan == 5 || (b.tan == 1 && b.sender == 0)

/-- R465: the first condition of MIRROR_OK that fails, 0 where none does. -/
def State.mirrorFault (s : State) (b : Heartbeat) : Nat :=
  let r := s.frame b.deliv
  let none' := b.deliv == 0 && r.phase == .opened
  let near := if s.top.mode = .lightfield then s.frameTime b.deliv == b.ref
    else r.tStart.isSome && decide ((r.posStart - b.ref).natAbs ≤ s.tan.posTol)
  if b.dev ≠ s.top.dev.code ∨ b.job ≠ s.jobId then 1
  else if !none' && s.digest b.deliv != b.digest then 2
  else if !none' && !near then 3
  else if s.tanLinks.all fun l => (s.link l).state == .observing && (s.link l).nodes == Tab.get 0 s.tan.nodes l then 0
  else 4

/-- R465, R477: MIRROR_OK and the count of differing digests at a heartbeat. -/
def judgeMirror (b : Heartbeat) (s : State) : State :=
  let c := s.mirrorFault b
  let off := (b.deliv != 0 || (s.frame b.deliv).phase != .opened) && s.digest b.deliv != b.digest
  let s1 := s.withTan fun t => { t with mirrorOk := c == 0, digestDiff := satAdd 65535 t.digestDiff (b2n off) }
  if s.tan.mirrorOk = (c == 0) then s1
  else raise Src.tan 0x0004 (le 1 (b2n (c == 0)) ++ le 1 c ++ le 4 b.deliv.toNat) s1

/-- R461, R468, R475: pairing at a heartbeat. -/
def pairOn (b : Heartbeat) (s : State) : State :=
  let sameFw := b.fw == s.lcs.fwVersion
  let role := if s.tan.endB then b.holder else b.standby
  if bitAt b.bits 3 then
    match s.tan.state with
    | .active => setPair .alone 2 s
    | .pairing => setPair (if s.tan.endB then .off else .alone) 2 s
    | .shadow | .deposed => setPair .off 2 s
    | .off | .alone | .takingOver => s
  else
    match s.tan.state with
    | .pairing =>
      if !sameFw then (if s.tan.fwSeen then s else setPair .pairing 1 (s.withTan fun t => { t with fwSeen := true }))
      else if role then setPair (if s.tan.endB then .shadow else .active) 0 s
      else s
    | .alone => if sameFw && b.standby then setPair .active 0 s else s
    | _ => s

/-- HEARTBEAT_RX (R461, R462, R465, R475): the bytes of a tandem message from its envelope on. -/
def execHeartbeatRx (bytes : List Byte) (s : State) : Host.Outcome State Fault Refusal :=
  .next (onTan 0x40 bytes (fun sender body st =>
    let b := readBeat sender body
    let s1 := pairOn b (st.withTan fun t =>
      { t with beat := some b, beatAt := some st.uptime, partnerClaim := if b.claim = 0 then t.partnerClaim else b.claim })
    if s1.shadow then judgeMirror b s1 else s1) s)

/-- TANDEM_PARTNER_LOST (R467, R476): a holder whose partner is lost stands alone. -/
def execTandemPartnerLost (s : State) : Host.Outcome State Fault Refusal :=
  .next (if s.tan.state = .active && s.partnerLost then setPair .alone 3 s else s)

/-- CAL_MIRROR_RX (R111, R114, R463): the standby commits a result of its holder's calibration engine. One for which R114 has no
place waits for one, as at the holder (R328). -/
def execCalMirrorRx (number : Nat) (applied : FrameNo) (image : CalImage) (s : State) : Host.Outcome State Fault Refusal :=
  .next (if s.shadow then
      let s1 := s.withTan fun t => { t with mirrorNo := number, mirrorWait := t.mirrorWait ++ [(applied, image)] }
      tryMirrors s1.tan.mirrorWait s1
    else s)

/-! ### Takeovers (R466 to R470) -/

/-- R468: the claim after a claim, none where class and epoch are used up. -/
def nextClaim (c : Nat) : Option Nat :=
  if c % 4096 < 4095 then some (c + 1) else if c / 4096 < 15 then some ((c / 4096 + 1) * 4096 + 1) else none

/-- LINK_PASS of link `l` in ns, saturating. -/
def State.linkPass (s : State) (l : Nat) : Nat :=
  match (s.link l).lastFar with
  | none => 2 ^ 32 - 1
  | some t => Nat.min (2 ^ 32 - 1) (s.uptime - t)

/-- The far end has abandoned link `l`. -/
def State.abandoned (s : State) (l : Nat) : Bool :=
  let ns := s.linkNodes l
  decide (1000 * s.tan.passTimeoutUs < s.linkPass l) ||
    (!ns.isEmpty && ns.all fun n => (s.node n).held == 0 && decide (s.tan.beatAt.getD 0 < (s.node n).lastStatus))

/-- R468: both banks of a head node are written with the content that this LZ9's frames assign to them. -/
def writeBanks (s : State) (n : Nat) : State :=
  let x := s.banks n
  let w := fun (i : Nat) (k : BankContent) => if k.timing.isEmpty then [] else [({ bank := i, content := k } : BankWrite)]
  let s1 := s.setBanks n { x with writes := w 0 x.bank0 ++ w 1 x.bank1 }
  startBankWrite ((s.frames.latest.prn.barOf n).getD 0) n s1

/-- R227, R468: link `l`, LOCKED or OBSERVING, is claimed from the B end: its nodes change holder and enter Halter. -/
def claimLink (claim : Nat) (s : State) (l : Nat) : State :=
  if (s.link l).state != .locked && (s.link l).state != .observing then s
  else
  let s1 := sendFrame l (enumFrame claim true l true (s.link l).nodes) s
  let s2 := setLinkState l .claimed .command (s1.setLink l { s1.link l with claim := claim })
  haltNodes (s.linkNodes l) s2

/-- R470: a frame that had left CUT counts from here only what this LZ9 sends. -/
def gapFrame (s : State) (f : FrameNo) : State :=
  s.updFrame f fun r =>
    { r with
      flags := Nat.lor (r.flags - Nat.land r.flags 7) (2 ^ Flag.tandemGap.bit)
      bandsLate := 0, linesSkipped := 0, linesBlanked := 0, linesPoisoned := 0 }

/-- R476: the event TAKEOVER; its gap is not known yet. -/
def takeoverEvent (cause held claim : Nat) (last : FrameNo) (s : State) : State :=
  raise Src.tan 0x0002 (le 1 cause ++ le 1 held ++ le 2 claim ++ le 4 (s.freeNat 32) ++ le 4 last.toNat) s.useFree

/-- R468 to R470: a takeover starts (causes 1 LOST, 2 REQUEST, 3 COMMAND). -/
def startTakeover (cause : Nat) (s : State) : State :=
  let last := (s.tan.beat.map (·.frameLast)).getD 0
  match nextClaim s.tan.partnerClaim with
  | none => takeoverEvent 4 1 0 last s
  | some c =>
    let go := s.tan.mirrorOk && s.top.dev == .run
    let far := s.tanLinks.foldl (fun a l => Nat.max a ((s.link l).lastFar.getD 0)) 0
    let s1 := s.withTan fun t =>
      { t with
        state := .takingOver, lastClaim := c, resume := go, held := false, skipTo := some last, drill := none
        mirrorOk := false, takeovers := satAdd 65535 t.takeovers 1
        gapFrom := some (if cause = 1 then far else s.uptime) }
    let s2 := takeoverEvent cause (b2n !go) c last s1
    let fs := s.liveFrames.filter fun f =>
      (s.phase f == .delivering || s.phase f == .complete) && FrameNo.later f last
    let s3 := fs.foldl gapFrame (s2.tanLinks.foldl (claimLink c) s2)
    let heads := (s3.tanLinks.flatMap s3.linkNodes).filter fun n => (s3.node n).kind == 1
    heads.foldl writeBanks s3

/-- R467: what a standby with AUTO_TAKEOVER finds: 1 LOST, 2 REQUEST, 0 neither. -/
def State.takeoverCause (s : State) : Nat :=
  let bits := (s.tan.beat.map (·.bits)).getD 0
  if !s.shadow || !s.tan.autoTakeover || bitAt bits 1 || bitAt bits 3 then 0
  else if s.partnerLost && s.tanLinks.all s.abandoned then 1
  else if bitAt bits 2 then 2
  else 0

/-- TAKEOVER_CHECK (R467): the 10 µs check. `far` gives, by link, the ns since the latest downstream block of the far-end
controller. -/
def execTakeoverCheck (far : List (Nat × Nat)) (s : State) : Host.Outcome State Fault Refusal :=
  let s1 := far.foldl (fun st e => st.setLink e.1 { st.link e.1 with lastFar := some (st.uptime - e.2) }) s
  let c := s1.takeoverCause
  let s2 := s1.withTan fun t => { t with lossSeen := c != 0 }
  .next (if c ≠ 0 && !s.tan.lossSeen then startTakeover c s2 else s2)

/-- TAKEOVER_BANKS_WRITTEN (R468): both banks of every head node are written. -/
def execTakeoverBanksWritten (s : State) : Host.Outcome State Fault Refusal :=
  let ns := s.tanLinks.flatMap s.linkNodes
  if s.tan.state ≠ .takingOver || ns.any fun n => !(s.banks n).writes.isEmpty then .next s
  else
    let go := s.tan.resume && s.top.dev == .run
    let s1 := s.withTan fun t => { t with state := .alone, resume := false, held := !go }
    .next (if go then runNodes ns s1 else ns.foldl (fun st n => sendHold 0x2D n st) s1)

/-- R471: a holder has lost link `l` other than in a drill. -/
def deposed (s : State) : State :=
  let fs := s.liveFrames.filter fun f => s.phase f == .delivering
  let s1 := fs.foldl (fun st f => st.updFrame f fun r => (r.mark .tandemGap).mark .halted) (s.withTan fun t => { t with state := .deposed })
  if s1.tanLinks.any s1.claimed then s1 else enterHalter .tandemGap s1

/-! ### Drills (R472 to R474) -/

/-- R476: the event DRILL_DONE. -/
def drillDone (outcome mask : Nat) (d : Drill) (s : State) : State :=
  let s1 := s.withTan fun t => { t with drill := none }
  if d.standby then s1
  else raise Src.tan 0x0003 (le 1 outcome ++ le 4 d.frame.toNat ++ le 4 mask ++ le 2 d.claim) s1

/-- The output is in Halter in some part. -/
def State.outputHalted (s : State) : Bool := if s.top.mode = .lightfield then s.lfHalted else s.printHalted

/-- R473: the checks at the cutoff of frame `f`, but for the digests of `f`. -/
def State.drillReady (s : State) (d : Drill) : Bool :=
  let mirror := if d.standby then s.tan.mirrorOk else bitAt ((s.tan.beat.map (·.bits)).getD 0) 0
  let banks := d.standby || s.top.mode == .lightfield ||
    s.jobBars.all fun b => s.barBanksReady (s.cfgOf d.frame).prn d.frame b
  mirror && d.claim != 0 && !s.outputHalted && banks

/-- R473: at the cutoff of a drill's frame. How the other controller's digest of the frame is known is not said: the
outcome of that comparison is a free value. -/
def tanCutoff (f : FrameNo) (s : State) : State :=
  match s.tan.drill with
  | none => s
  | some d =>
    if d.frame ≠ f ∨ d.running then s
    else if s.drillReady d && s.freeNat 1 == 1 then
      let s1 := s.useFree.withTan fun t => { t with drill := some { d with running := true } }
      if d.standby then
        (s1.tanLinks.flatMap s1.linkNodes).foldl (fun st n => st.setNode n
          { st.node n with toHalter := false, ticksSent := 0, tickLog := [], ticksSeen := 0 }) s1
      else s1
    else drillDone 2 0 d s.useFree

/-- R221: a node has just taken this LZ9's drill claim: its ticks are counted on from those it has seen. -/
def alignTicks (n : Nat) (s : State) : State :=
  let v := s.node n
  let off := v.ticksSeen - v.ticksSent
  s.setNode n { v with ticksSent := v.ticksSent + off, tickLog := v.tickLog.map fun e => (e.1 + off, e.2) }

/-- R473, R474: a drill goes on at the standby: links whose every node has taken the claim are CLAIMED; nodes that the
former holder takes back are let go. -/
def drillStandby (d : Drill) (s : State) : State :=
  let step := fun (st : State) (l : Nat) =>
    let ns := st.linkNodes l
    if (st.link l).state = .observing ∧ ns.all fun n => (st.node n).held == d.claim then
      setLinkState l .claimed .command (st.setLink l { st.link l with claim := d.claim })
    else if st.claimed l ∧ ns.any fun n => decide (d.claim < (st.node n).held) then setLinkState l .observing .claimLost st
    else st
  let s1 := s.tanLinks.foldl step s
  let ns := s1.tanLinks.flatMap s1.linkNodes
  if s1.tanLinks.all s1.claimed then
    s1.withTan fun t => { t with state := .active, lastClaim := d.claim, drill := none, mirrorOk := false }
  else if (ns.any fun n => decide (d.claim < (s1.node n).held)) && !ns.any fun n => (s1.node n).held == d.claim then
    drillDone 1 0 d s1
  else s1

/-- R473, R474: a drill goes on at the former holder. -/
def drillHolder (d : Drill) (s : State) : State :=
  if d.back = 0 then
    let step := fun (st : State) (l : Nat) =>
      if st.claimed l ∧ (st.linkNodes l).all fun n => (st.node n).held == d.claim then setLinkState l .observing .claimLost st
      else st
    let s1 := s.tanLinks.foldl step s
    if s1.tanLinks.any s1.claimed then s1 else drillDone 0 0 d (s1.withTan fun t => { t with state := .shadow })
  else
    let step := fun (st : State) (l : Nat) =>
      if (st.link l).claim ≠ d.back ∧ (st.linkNodes l).all fun n => (st.node n).held == d.back then
        setLinkState l .claimed .command (st.setLink l { st.link l with claim := d.back })
      else st
    let s1 := s.tanLinks.foldl step s
    if s1.tanLinks.all fun l => s1.claimed l && (s1.link l).claim == d.back then
      s1.withTan fun t => { t with drill := none, lastClaim := d.back }
    else s1

/-- R471, R473: what a status frame of node `n` means to the tandem. `before` is the state before it. -/
def tanStatus (n : Nat) (before s : State) : State :=
  let l := n / 8
  match s.drillOn l with
  | some d =>
    let s1 := if d.standby && (before.node n).held != d.claim && (s.node n).held == d.claim then alignTicks n s else s
    if d.standby then drillStandby d s1 else drillHolder d s1
  | none =>
    if s.tanLink l && before.claimed l && !s.claimed l && (s.tanHolder || s.tan.state == .deposed) then deposed s else s

/-- DRILL_TIMEOUT (R474): a node has not reported the new claim 5 ms after its first line or row of the drill's frame. -/
def execDrillTimeout (node : Nat) (s : State) : Host.Outcome State Fault Refusal :=
  match s.drillOn (node / 8) with
  | none => .next s
  | some d =>
    let due := fun n => Tab.get 0 d.sent n != 0 && decide (Tab.get 0 d.sent n + 5000000 ≤ s.uptime + 1) && (s.node n).held != d.claim
    if d.standby || d.back != 0 || !due node then .next s
    else
      let mask := linkMask (s.tanLinks.filter fun l => (s.linkNodes l).any due)
      let s1 := drillDone 1 mask d s
      .next (match nextClaim d.claim with
        | none => s1
        | some c => s1.withTan fun t => { t with drill := some { d with back := c } })

/-- DRILL_RX (R472): the bytes of a tandem message from its envelope on: F in bytes 0–3 of the body, the claim in 4–5. -/
def execDrillRx (bytes : List Byte) (s : State) : Host.Outcome State Fault Refusal :=
  .next (onTan 0x42 bytes (fun _ body st =>
    if st.shadow && st.tan.drill.isNone then
      st.withTan fun t =>
        { t with drill := some { frame := BitVec.ofNat 32 (numAt body 0 4), claim := numAt body 4 2, standby := true } }
    else st) s)

/-! ### Commands (R461, R472, R475) -/

/-- Parameters of TAN_CONFIG. -/
def tanConfigParams (d : Slot) (s : State) : List PF :=
  let ls := maskLinks (d.u 12 4)
  let fit := ls.all fun l => if d.u 8 1 = 1 then s.claimed l && !(s.link l).endB
    else (s.link l).state == .observing && (s.link l).endB
  [need (d.u 9 1 < 2) 9 Rsn.reserved, rzb d 10 12, need (!ls.isEmpty && fit) 12 Rsn.range,
   inR 20 (d.u 20 2) 200 1990, inR 22 (d.u 22 2) 200 1990,
   if s.top.mode = .lightfield then rz 24 (d.u 24 4) else inR 24 (d.u 24 4) 0 65535, rzb d 28 64]

/-- Checks of TAN_CONFIG. A deposed controller comes back only as STANDBY (R471): as PRIMARY it is refused (DEDUCED, log 72). -/
def tanConfigChecks : Checks where
  fused := fun d s => absentLink (d.u 12 4) s
  allowed := fun d s => s.top.dev == .armed && !s.prn.job.isOpen && !s.scanning && !(s.tan.state == .deposed && d.u 8 1 == 1)
  selector := fun d _ => inR 8 (d.u 8 1) 1 2
  params := tanConfigParams

/-- TAN_CONFIG (R461). -/
def execTanConfig (slot : Nat) (s : State) : Host.Outcome State Fault Refusal :=
  runCmd 0x0E00 slot tanConfigChecks (fun k d st =>
    let h := st.time.hitch
    if (st.port 1).cfg.speed = 0 || (h.joined && h.port == 1) then resourceBusy k 0x0B03 st
    else
      let ls := maskLinks (d.u 12 4)
      let s1 := st.withTan fun t =>
        { t with
          state := .pairing, linkMask := d.u 12 4, endB := d.u 8 1 == 2, autoTakeover := bitAt (d.u 9 1) 0, id := d.u 16 4
          hbTimeoutUs := d.u 20 2, passTimeoutUs := d.u 22 2, posTol := d.u 24 4
          nodes := ls.foldl (fun u l => Tab.put 0 u l (st.link l).nodes) [], beat := none, beatAt := none
          fwSeen := false, released := false, mirrorOk := false, drill := none, lossSeen := false, held := false, skipTo := none
          gapFrom := none }
      done k (s1.withTan fun t => { t with lastClaim := if s1.tanClaim = 0 then t.lastClaim else s1.tanClaim })) s

/-- Checks of TAN_DRILL. -/
def tanDrillChecks : Checks where
  allowed := fun d s =>
    !((d.u 8 1 == 1 && s.tan.state != .active) || (d.u 8 1 == 2 && s.tan.state != .shadow))
  selector := fun d _ => inR 8 (d.u 8 1) 1 2
  params := fun d s =>
    let f : FrameNo := BitVec.ofNat 32 (d.u 12 4)
    [rzb d 9 12,
     if d.u 8 1 = 1 then need ((s.prn.job.isOpen || s.scanning) && s.phase f == .opened) 12 Rsn.frame else rz 12 (d.u 12 4),
     rzb d 16 64]

/-- TAN_DRILL (R467, R472). -/
def execTanDrill (slot : Nat) (s : State) : Host.Outcome State Fault Refusal :=
  runCmd 0x0E01 slot tanDrillChecks (fun k d st =>
    let f : FrameNo := BitVec.ofNat 32 (d.u 12 4)
    if d.u 8 1 = 2 then done k (startTakeover 3 st)
    else if st.tan.drill.isSome then resourceBusy k 0x0E01 st
    else
      let c := (nextClaim st.tanClaim).getD 0
      let s1 := st.withTan fun t => { t with drill := some { frame := f, claim := c } }
      complete k St.deferred 0 0 (some f) (sendTan 0x42 (le 4 f.toNat ++ le 2 c) s1)) s

/-- Checks of TAN_RELEASE. -/
def tanReleaseChecks : Checks where
  allowed := fun d s =>
    !(d.u 8 1 == 1 && s.tan.state == .off) &&
    !(d.u 8 1 == 2 && (!s.tanHolder || (s.top.dev != .armed && s.top.dev != .halter)))
  selector := fun d _ => inR 8 (d.u 8 1) 1 2
  params := fun d _ => [rzb d 9 64]

/-- TAN_RELEASE (R475). -/
def execTanRelease (slot : Nat) (s : State) : Host.Outcome State Fault Refusal :=
  runCmd 0x0E02 slot tanReleaseChecks (fun k d st =>
    if d.u 8 1 = 1 then
      let s1 := (List.range 3).foldl (fun w _ => sendTan 0x40 (w.heartbeat true) w) st
      done k (s1.withTan fun t => { t with state := .off, drill := none, mirrorOk := false, mirrorWait := [], beat := none, beatAt := none })
    else
      let s1 := st.tanLinks.foldl linkRelease st
      done k (s1.withTan fun t => { t with released := true })) s

end Sys2Proof.Machine
end

