-- ==== Sys2Proof/Machine/Thm.lean ====
section
/-! DEFINITION. The thermal supervisor: crossings, levels, steps and orderly stops (R442 to R450, R484). -/

namespace Sys2Proof.Machine

/-! ### Sensors of a zone (R441, R448) -/

/-- R441: the sensors of zone `z`; code 0x0500 stands for every node of the maps loaded for the target bars, or of the panel map. -/
def State.zoneSensors (s : State) (z : Nat) : List Nat :=
  let x := s.zone z
  (x.sensors.flatMap fun c =>
    if c ≠ 0x500 then [c]
    else if x.kind = 3 then
      (s.staged.maps.filter fun e => bitAt x.target e.1).flatMap fun e => e.2.nodes.map (0x300 + ·.node)
    else s.scan.map.nodes.map (0x300 + ·.node)).eraseDups

/-- R440, R448: the sensor is failed or excluded. -/
def Sensor.out (x : Sensor) : Bool := x.failed || x.excluded

/-- R448: the level of zone `z` cannot fall. -/
def State.zoneHeld (s : State) (z : Nat) : Bool :=
  !(s.zone z).holding.isEmpty || (s.zoneSensors z).any fun c => (s.sensor c).failed && !(s.sensor c).excluded

/-- R448: every sensor of zone `z` is failed or excluded. -/
def State.zoneLost (s : State) (z : Nat) : Bool :=
  !(s.zoneSensors z).isEmpty && (s.zoneSensors z).all fun c => (s.sensor c).out

/-! ### Orderly stops (R449, R450) -/

/-- The bars whose line ticks an output uses: those of the open job, else every enabled bar. -/
def State.printBars (s : State) : List Nat :=
  if s.prn.job.isOpen then s.jobBars else allBars.filter fun b => (s.webBar b).enabled

/-- R449: every output is held in Halter by orderly stops. -/
def State.allStopped (s : State) : Bool :=
  match s.top.mode with
  | .print => s.printBars.all fun b => (s.fireBar b).halted
  | .lightfield => s.mapGroups.all fun g => if g = 1 then s.scan.haltedB else s.scan.haltedA
  | .none => true

/-- Nodes of the bars and groups given. -/
def State.targetNodes (s : State) (bars groups : List Nat) : List Nat :=
  (bars.flatMap fun b => (s.frames.latest.prn.map b).nodes.map (·.node)) ++
    (s.scan.map.nodes.map (·.node)).filter fun n => groups.contains (b2n (nodeGroupB n))

/-- R23, R61, R192, R217, R449: bars and groups enter Halter, which raises vector 0 where one
was not in Halter before; once every output has stopped the device does. -/
def haltTargets (bars groups : List Nat) (s : State) : State :=
  let s1 := bars.foldl (fun st b => abortPurge b (st.setFireBar b { st.fireBar b with halted := true })) s
  let s2 := s1.withScan fun x =>
    { x with haltedA := x.haltedA || groups.contains 0, haltedB := x.haltedB || groups.contains 1 }
  let s3 := haltNodes ((s2.targetNodes bars groups).filter fun n => !(s2.node n).toHalter) s2
  let s4 := s3.withThm fun t => { t with
    lumStop := groups.foldl (fun u g => Tab.put false u g false) t.lumStop
    zones := Tab.mapv {} (fun _ z => { z with plans := z.plans.filter fun p =>
      !(bars.contains p.target || groups.any fun g => p.target == 16 + g) }) t.zones }
  let fresh := bars.any (fun b => !(s.fireBar b).halted) || groups.any fun g => !(if g = 1 then s.scan.haltedB else s.scan.haltedA)
  if !fresh || (s4.top.dev != .armed && s4.top.dev != .run) then s4
  else if s4.allStopped then enterHalter .orderlyStop s4
  else partialHalter s4

/-- R449: t_left in ns: the time to CEIL at the present rate of rise, of at least 0.1 °C/s. -/
def State.timeLeft (s : State) (x : Zone) (ceil : Int) : Nat :=
  let num := if 128 * Int.ofNat s.thm.roundMs ≤ 5 * x.rateNum then x.rateNum else 0
  if num = 0 then ((ceil - x.temp) * 625000000).toNat
  else ((ceil - x.temp) * 16000000000 * Int.ofNat s.thm.roundMs / num).toNat

/-- R449: the time until line `n` of bar `b` fires at the present line rate, none at standstill or in reverse. -/
def State.timeToLine (s : State) (b : Nat) (n : Int) : Option Nat :=
  let r := s.lineRate
  if r.num ≤ 0 || s.web.gait == .reverse then none
  else some (((n * 256 - s.lpOf b) * 1000000000 * Int.ofNat r.den / (256 * r.num)).toNat)

/-- The last line of frame `f`. -/
def State.frameEnd (s : State) (f : FrameNo) : Int := s.frameLine f + Int.ofNat s.prn.job.frameLines - 1

/-- R449: the last line of the band in progress at bar `b`, none before the first line of the job. -/
def State.bandEnd (s : State) (b : Nat) : Option Int :=
  let n := (s.webBar b).nl - 1 - s.prn.job.nFirst
  if n < 0 then none else some (s.prn.job.nFirst + 32 * (n / 32) + 31)

/-- R449: the event ORDERLY_STOP: how, the frame, and t_left. -/
def orderlyEvent (z how : Nat) (f : FrameNo) (left : Option Nat) (s : State) : State :=
  let ms := match left with
    | some l => Nat.min 65535 (l / 1000000)
    | none => s.freeNat 16
  raise Src.thm 0x0004 (le 1 z ++ le 1 how ++ le 4 f.toNat ++ le 1 1 ++ le 2 ms) (if left.isNone then s.useFree else s)

/-- R108, R449: frame `f` is in DELIVERING at bar `b`: a band of it has reached its fetch point there, and its last line has not
fired. -/
def State.deliveringAt (s : State) (b : Nat) (f : FrameNo) : Bool :=
  let c : Nat × Nat := Tab.get (0, 0) s.frames.fetch b
  s.phase f == .delivering && (FrameNo.later (BitVec.ofNat 32 c.1) f || (c.1 == f.toNat && decide (0 < c.2))) &&
    decide ((s.webBar b).nl ≤ s.frameEnd f)

/-- R449: the print targets of zone `z` stop. `left` is none where T is not known. -/
def stopPrint (z : Nat) (left : Option Nat) (s : State) : State :=
  let x := s.zone z
  let run := x.bars.filter s.jobBars.contains
  let idle := x.bars.filter fun b => !s.jobBars.contains b
  let f := (s.liveFrames.filter fun f => run.any fun b => s.deliveringAt b f).getLast?
  let inTime := match f, left with
    | some g, some l => run.all fun b => match s.timeToLine b (s.frameEnd g) with
        | some t => decide (t ≤ l)
        | none => false
    | _, _ => false
  let ends : List (Nat × Option Int) := run.map fun b => (b, if inTime then f.map s.frameEnd else s.bandEnd b)
  let plans : List StopPlan := ends.filterMap fun e => e.2.map fun n => { target := e.1, line := n }
  let atOnce := (ends.filter fun e => e.2.isNone).map (·.1)
  let how := if left.isNone then 4 else if plans.isEmpty then 3 else if inTime then 1 else 2
  haltTargets (idle ++ atOnce) [] (orderlyEvent z how (f.getD 0) left (s.setZone z { x with plans := plans }))

/-- R449: the light-field targets of zone `z` stop. -/
def stopPanels (z : Nat) (left : Option Nat) (s : State) : State :=
  let x := s.zone z
  let k := s.frames.openFirst
  let run := if s.scanning && !s.stopsAt k then x.groups.filter s.mapGroups.contains else []
  let inTime := match left with
    | some l => !run.isEmpty && run.all fun g =>
        decide (s.rowTime (g == 1) k (s.scan.timing.rowsActive - 1) - s.clock ≤ Int.ofNat l)
    | none => false
  let late := if inTime then run else []
  let how := if left.isNone then 4 else if inTime then 1 else 3
  let s1 := s.setZone z { x with plans := late.map fun g => { target := 16 + g, frame := k } }
  let s2 := s1.withThm fun t => { t with lumStop := late.foldl (fun u g => Tab.put false u g true) t.lumStop }
  haltTargets [] (x.groups.filter fun g => !late.contains g)
    (rollback (orderlyEvent z how (if s.scanning then k else 0) left s2))

/-- R448, R449: zone `z` starts an orderly stop; `known`: its temperature is. -/
def startStop (z : Nat) (known : Bool) (s : State) : State :=
  let x := s.zone z
  if x.stopped then s
  else
    let top := ((x.thr.getD 2 none).map fun o => o + 16 * Int.ofNat x.margin)
    let ceil := if z = 0 then top.map (min (118 * 16)) else top
    let left := if known then ceil.map (s.timeLeft x) else none
    let s1 := s.setZone z { x with stopped := true, ceil := ceil, plans := [] }
    if s.top.mode = .lightfield then stopPanels z left s1 else stopPrint z left s1

/-- R449: the planned stop of a target is due: its last line has fired in both columns, or its last row has been driven. -/
def State.stopDue (s : State) (p : StopPlan) : Bool :=
  if p.target < 16 then
    let d := (s.frames.latest.prn.timingOf p.target).colBDelay
    !s.jobBars.contains p.target || decide (p.line + Int.ofNat (ceilDiv d 256) + 1 < (s.webBar p.target).nl)
  else
    let c := s.tickCursor (p.target == 17)
    let past := FrameNo.later c.1 p.frame || (c.1 == p.frame && decide (s.scan.timing.rowsActive ≤ c.2))
    !s.scanning || (past && !(s.frame p.frame).nodesLeft.any fun e => b2n (nodeGroupB e.1) + 16 == p.target)

/-- ORDERLY_STOP_TARGET_HALT (R449): a target, a bar or 16 + group, reaches its planned stop. -/
def execOrderlyStopTargetHalt (target : Nat) (s : State) : Host.Outcome State Fault Refusal :=
  if allZones.any fun z => (s.zone z).plans.any fun p => p.target == target && s.stopDue p then
    .next (if target < 16 then haltTargets [target] [] s else haltTargets [] [target - 16] s)
  else .next s

/-- R449: the zone has reached CEIL: its planned stops are made at once. -/
def ceilReached (s : State) (z : Nat) : State :=
  let x := s.zone z
  let hot := match x.ceil with
    | some c => decide (c ≤ x.temp)
    | none => false
  if x.plans.isEmpty || x.blind || !hot then s
  else
    haltTargets ((x.plans.filter fun p => p.target < 16).map (·.target))
      ((x.plans.filter fun p => 16 ≤ p.target).map fun p => p.target - 16) s

/-- R450: zone `z`'s stop is cleared: its targets that no other zone has stopped resume. -/
def clearStop (z : Nat) (s : State) : State :=
  let x := s.zone z
  if !x.stopped then s
  else
    let s1 := s.setZone z { x with stopped := false, plans := [] }
    let kept := fun (sel : Zone → List Nat) (t : Nat) =>
      allZones.any fun y => (s1.zone y).stopped && (sel (s1.zone y)).contains t
    let bars := x.bars.filter fun b => !kept Zone.bars b
    let groups := x.groups.filter fun g => !kept Zone.groups g
    let running := s.top.dev == .run
    let from' : Option FrameNo := if running then some s.frames.openFirst else none
    let s2 := bars.foldl (fun st b =>
      let y := st.fireBar b
      if y.halted then st.setFireBar b { y with halted := false, resumeFrom := from' } else st) s1
    let s3 := s2.withScan fun y =>
      { y with
        resumeA := if groups.contains 0 && y.haltedA then from' else y.resumeA
        resumeB := if groups.contains 1 && y.haltedB then from' else y.resumeB
        haltedA := y.haltedA && !groups.contains 0, haltedB := y.haltedB && !groups.contains 1 }
    let s4 := s3.withThm fun t => { t with lumStop := groups.foldl (fun u g => Tab.put false u g false) t.lumStop }
    rollback (if running then runNodes (s4.targetNodes (bars.filter s.jobBars.contains) groups) s4 else s4)

/-! ### Steps (R445 to R447, R484) -/

/-- R457: the event THROTTLE_STEP. -/
def stepEvent (limit unit old new how rate : Nat) (s : State) : State :=
  raise Src.thm 0x0002 (le 1 limit ++ le 1 unit ++ le 1 old ++ le 1 new ++ le 1 how ++ le 4 rate) s

/-- R445: the render clock takes its step. -/
def stepRender (s : State) : State :=
  let new := s.stepOf fun z => decide (z.kind ≤ 2)
  if new = s.thm.renderStep then s
  else stepEvent 1 0xFF s.thm.renderStep new 0 0 ((settleWork s).withThm fun t => { t with renderStep := new })

/-- R120, R445: a group's luminance takes its step; bands of OPEN frames rendered with another are discarded. -/
def stepLum (s : State) (g : Nat) : State :=
  let new := s.stepOf fun z => z.kind == 4 && bitAt z.target g
  if new = s.lumStep g then s
  else
    rollback (stepEvent 3 g (s.lumStep g) new 0 0 (s.withThm fun t => { t with lumStep := Tab.put 0 t.lumStep g new }))

/-- Set the head-supply step of bar `b`. -/
def State.setHead (s : State) (b : Nat) (x : HeadStep) : State := s.withThm fun t => { t with heads := Tab.put {} t.heads b x }

/-- R96, R447: WEB.MAX_LINE_RATE with bar `b` at a step. -/
def State.maxRateAt (s : State) (b step : Nat) : Nat := (refreshPeriods (s.setHead b { step := step })).maxLineRate

/-- R447: a step of bar `b` would not make the maximum lower than the web line rate: it leaves the maximum at that rate or
above, or does not lower it (DEDUCED, log 39). -/
def State.stepFits (s : State) (b step : Nat) : Bool :=
  let m := s.maxRateAt b step
  m == 0 || (s.maxLineRate != 0 && decide (s.maxLineRate ≤ m)) || decide (s.lineRate.num ≤ Int.ofNat (m * s.lineRate.den))

/-- R446, R447, R484: a head-supply step is applied; `how` is the event's status. The event carries the maximum that the step
gives, where a lowered step is still to reach it. -/
def applyHead (b step how : Nat) (s : State) : State :=
  let old := s.headStep b
  let s1 := evalGait (reachHeads b old (s.setHead b { step := step }))
  stepEvent 2 b old step how (s.maxRateAt b step) s1

/-- R447: the head-supply step of bar `b` follows its zones: applied, pending or withdrawn. -/
def stepHead (s : State) (b : Nat) : State :=
  let new := s.stepOf fun z => z.kind == 3 && bitAt z.target b
  let h : HeadStep := Tab.get {} s.thm.heads b
  let lost := match h.pending with
    | some p => decide (new < p.1)
    | none => false
  let s1 := if lost then
      stepEvent 2 b h.step ((h.pending.map (·.1)).getD 0) 3 0 (s.setHead b { h with pending := none })
    else s
  let h1 : HeadStep := Tab.get {} s1.thm.heads b
  if new = h1.step || h1.pending.map (·.1) == some new then s1
  else if s1.stepFits b new then applyHead b new 0 s1
  else
    stepEvent 2 b h1.step new 1 (s1.maxRateAt b new)
      (s1.setHead b { h1 with pending := some (new, ((h1.pending.map (·.2)).getD s.uptime)) })

/-- R445: every limit follows the levels of the zones. -/
def applyLevels (s : State) : State := allBars.foldl stepHead ((List.range 2).foldl stepLum (stepRender s))

/-- R447: at a round, a pending step is applied if the line rate has come down. -/
def tryPending (s : State) (b : Nat) : State :=
  match (Tab.get {} s.thm.heads b : HeadStep).pending with
  | none => s
  | some p => if s.stepFits b p.1 then applyHead b p.1 0 s else s

/-- THROTTLE_GRACE_EXPIRY (R447): THROTTLE_GRACE_MS after it became pending, the step of a bar is applied. -/
def execThrottleGraceExpiry (bar : Nat) (s : State) : Host.Outcome State Fault Refusal :=
  match (Tab.get {} s.thm.heads bar : HeadStep).pending with
  | none => .next s
  | some p => .next (if p.2 + s.thm.graceMs * 10 ^ 6 ≤ s.uptime then applyHead bar p.1 2 s else s)

/-! ### Crossings (R442, R443, R457) -/

/-- R443: the rate of rise in 1/16 °C/s, toward zero. -/
def State.zoneRate (s : State) (x : Zone) : Int := Int.tdiv x.rateNum (Int.ofNat (16 * Nat.max 1 s.thm.roundMs))

/-- R457: the event LEVEL_CHANGE. -/
def levelEvent (z thr : Nat) (up : Bool) (s : State) : State :=
  let x := s.zone z
  raise Src.thm 0x0001 (le 1 z ++ le 1 thr ++ le 1 (b2n up) ++ le 2 (unsigned 16 x.temp) ++
    le 2 (unsigned 16 (saturate 16 (s.zoneRate x)))) s

/-- A list with entry `i` replaced. -/
def putAt {α : Type} (l : List α) (i : Nat) (v : α) : List α := l.set i v

/-- LEVEL_CHANGE (R442, R449): a crossing of threshold `threshold` (1 WARN, 2 THROTTLE, 3 ORDERLY_STOP) of a zone is
confirmed. -/
def execLevelChange (zone threshold : Nat) (s : State) : Host.Outcome State Fault Refusal :=
  let x := s.zone zone
  let i := threshold - 1
  let is := x.above.getD i false
  if zone > 15 || threshold = 0 || threshold > 3 || !x.defined then .next s
  else if !is && decide (2 ≤ x.up.getD i 0) then
    let s1 := levelEvent zone threshold true (s.setZone zone { x with above := putAt x.above i true, dn := putAt x.dn i 0 })
    .next (if i = 2 then startStop zone true s1 else s1)
  else if is && decide (x.dwell ≤ x.dn.getD i 0) then
    .next (levelEvent zone threshold false (s.setZone zone { x with above := putAt x.above i false, up := putAt x.up i 0 }))
  else .next s

/-- RATE_OVER (R443): RATE_OVER of a zone is set or clears. -/
def execRateOver (zone : Nat) (s : State) : Host.Outcome State Fault Refusal :=
  let x := s.zone zone
  if zone > 15 || !x.defined || x.rateLimit = 0 then .next s
  else if !x.rateOver && decide (2 ≤ x.rateUp) then
    .next (levelEvent zone 4 true (s.setZone zone { x with rateOver := true, rateDn := 0 }))
  else if x.rateOver && decide (x.dwell ≤ x.rateDn) then
    .next (levelEvent zone 4 false (s.setZone zone { x with rateOver := false, rateUp := 0 }))
  else .next s

/-- R444: THROTTLE or RATE_OVER holds. -/
def Zone.hot (x : Zone) : Bool := x.above.getD 1 false || x.rateOver

/-- R447: a step that zone `x` drives is pending. -/
def State.zonePending (s : State) (x : Zone) : Bool :=
  x.kind == 3 && s.thm.heads.any fun e => bitAt x.target e.1 && e.2.pending.isSome

/-- THROTTLE_LEVEL_STEP (R444, R445, R448): the level of a zone rises or falls by one. -/
def execThrottleLevelStep (zone : Nat) (s : State) : Host.Outcome State Fault Refusal :=
  let x := s.zone zone
  let rested := x.levelAt == 0 || decide (x.levelAt + x.dwell ≤ s.thm.round)
  let set := fun l => applyLevels (s.setZone zone { x with level := l, levelAt := s.thm.round, calm := 0 })
  if zone > 15 || !x.defined || !rested then .next s
  else if x.hot && decide (x.level < 8) && !s.zonePending x then .next (set (x.level + 1))
  else if !x.hot && decide (0 < x.level) && decide (x.dwell ≤ x.calm) && !s.zoneHeld zone then .next (set (x.level - 1))
  else .next s

/-! ### Sensors (R440, R448) -/

/-- R448: sensor `code` of zone `z` has failed: it holds the zone's level; with no sensor left the zone stops. -/
def sensorLost (code : Nat) (s : State) (z : Nat) : State :=
  let x := s.zone z
  if !x.defined || !(s.zoneSensors z).contains code then s
  else
    let s1 := if (s.sensor code).excluded then s
      else s.setZone z { x with holding := (x.holding ++ [code]).eraseDups }
    if s1.zoneLost z then startStop z false s1 else s1

/-- R457: the event SENSOR_STATE. -/
def sensorEvent (code st cause : Nat) (s : State) : State := raise Src.thm 0x0003 (le 2 code ++ le 1 st ++ le 1 cause) s

/-- SENSOR_STATE (R440, R448): a sensor becomes failed, or valid after 16 rounds without a failure. -/
def execSensorState (code : Nat) (s : State) : Host.Outcome State Fault Refusal :=
  let x := s.sensor code
  if !x.failed && x.bad != 0 then
    .next (allZones.foldl (sensorLost code) (sensorEvent code 1 x.bad (s.setSensor code { x with failed := true, cause := x.bad })))
  else if x.failed && decide (16 ≤ x.good) then .next (sensorEvent code 0 0 (s.setSensor code { x with failed := false }))
  else .next s

/-! ### The housekeeping round (R439 to R443) -/

/-- R440: what a round finds of a sensor: the cause of a failure (0: none), and its value. A failure stands until SENSOR_STATE reports
it, later rounds or not. -/
def noteSensor (code cause : Nat) (v : Option Int) (s : State) : State :=
  let x := s.sensor code
  s.setSensor code { x with
    bad := if cause = 0 ∧ !x.failed then x.bad else cause, value := if cause = 0 then v else x.value, good := if cause = 0 then Nat.min 16 (x.good + 1) else 0 }

/-- R440: the value lies outside −55 to 150 °C. -/
def outside (v : Int) : Bool := decide (v < -880) || decide (2400 < v)

/-- R440: an on-die sensor or remote diode after its conversion. -/
def noteAdcSensor (code : Nat) (r : AdcReading) (s : State) : State :=
  let x := s.sensor code
  let same := if x.raw = some r.raw then Nat.min 16 (x.same + 1) else 1
  let cause := if !r.bias || decide (r.raw < 64) || decide (4031 < r.raw) then 1
    else if outside r.value then 2 else if 16 ≤ same then 3 else 0
  noteSensor code cause (some r.value) (s.setSensor code { x with raw := some r.raw, same := same, bias := r.bias })

/-- R521: the range of a supply monitor, in mV. -/
def railRange (c : Nat) : Int × Int :=
  if c < 28 then (728, 772) else if c = 28 then (776, 824) else if c = 29 then (760, 840) else if c = 30 then (1710, 1890)
  else if c = 31 then (3135, 3465) else if c < 36 then (1067, 1133) else if c = 38 then (1164, 1236) else (873, 927)

/-- R439, R457: a supply monitor outside its rail's range for 2 rounds raises SUPPLY_ALERT. -/
def noteSupply (c : Nat) (v : Int) (s : State) : State :=
  let r := railRange c
  let n := if v < r.1 ∨ r.2 < v then Nat.min 3 (Tab.get 0 s.thm.supplyBad c + 1) else 0
  let s1 := s.withThm fun t => { t with supplyBad := Tab.put 0 t.supplyBad c n }
  if n = 2 then raise Src.thm 0x0005 (le 1 c ++ le 2 (unsigned 16 v)) s1 else s1

/-- R439, R521: one conversion. A monitor of a rail that the part lacks reads 0. -/
def noteAdc (s : State) (r : AdcReading) : State :=
  let lacks := decide (32 ≤ r.chan) && decide (r.chan < 36) && decide (s.fuse.part.ddrChannels ≤ r.chan - 32)
  let store := fun (raw : Nat) (v : Int) => s.withThm fun t => { t with adc := Tab.put (0, 0) t.adc r.chan (raw % 4096, v) }
  if 63 < r.chan then s
  else if lacks then store 0 0
  else
    let s1 := store r.raw r.value
    if r.chan < 24 then noteAdcSensor (0x100 + r.chan) r s1
    else if r.chan < 40 then noteSupply r.chan r.value s1
    else if r.chan < 44 then noteAdcSensor (0x200 + r.chan - 40) r s1
    else s1

/-- R440: a node's sensor: the highest TEMP of its latest status frame. -/
def noteNode (s : State) (n : Nat) : State :=
  let v := s.node n
  let code := 0x300 + n
  let named := allZones.any fun z => (s.zone z).defined && (s.zoneSensors z).contains code
  let ts := (v.temps.filter (· != 0x8000)).map (signed 16)
  if v.temps.isEmpty && !named then s
  else if v.temps.isEmpty || v.silent then noteSensor code 4 none s
  else
    match highest ts with
    | none => noteSensor code 2 none s
    | some t => noteSensor code (if outside t then 2 else 0) (some t) s

/-- R440: the sensor of a DRAM rank, by 2 × channel + rank. -/
def noteRank (s : State) (k : Nat) : State :=
  let c : MemChan := Tab.get {} s.mem.chans (k / 2)
  if s.fuse.part.ddrChannels ≤ k / 2 then s
  else noteSensor (0x400 + k) (if c.state = .online then 0 else 5) ((c.mr4[k % 2]?).map Config.mr4Edge) s

/-- R442, R443: a counter of consecutive rounds: one that has reached the rounds asked stands until the crossing is confirmed. -/
def countRounds (need : Nat) (holds : Bool) (n : Nat) : Nat :=
  if need ≤ n then n else if holds then Nat.min 255 (n + 1) else 0

/-- R442, R443: zone `z` at a round. -/
def judgeZone (s : State) (z : Nat) : State :=
  let x := s.zone z
  let calm := if x.hot then 0 else Nat.min 255 (x.calm + 1)
  if !x.defined then s
  else
    match highest ((s.zoneSensors z).filterMap s.sensorVal) with
    | none => s.setZone z { x with
        blind := true, hist := [], rateNum := 0, up := x.up.map (countRounds 2 false), dn := x.dn.map (countRounds x.dwell false)
        rateUp := countRounds 2 false x.rateUp, rateDn := countRounds x.dwell false x.rateDn, calm := calm }
    | some t =>
      let rate := if x.hist.length < 16 then 0 else (t - x.hist.headD 0) * 1000
      let per := 16 * Int.ofNat s.thm.roundMs
      let count := fun (i : Nat) (up : Bool) (n : Nat) =>
        match x.thr.getD i none with
        | none => 0
        | some v =>
          if x.above.getD i false == up then n
          else if up then countRounds 2 (decide (v ≤ t)) n
          else countRounds x.dwell (decide (t < v - Int.ofNat x.hyst)) n
      let tooFast := decide (0 < x.rateLimit) && decide (Int.ofNat x.rateLimit * per < rate)
      let under := decide (rate < (Int.ofNat x.rateLimit - 16) * per)
      s.setZone z { x with
        blind := false, temp := t, rateNum := rate, hist := (x.hist ++ [t]).drop (x.hist.length - 15)
        up := (List.range 3).map fun i => count i true (x.up.getD i 0)
        dn := (List.range 3).map fun i => count i false (x.dn.getD i 0)
        rateOver := x.rateOver && x.rateLimit != 0
        rateUp := if x.rateOver then x.rateUp else countRounds 2 tooFast x.rateUp
        rateDn := if !x.rateOver then x.rateDn else countRounds x.dwell under x.rateDn
        calm := calm }

/-- R439: one housekeeping round. -/
def housekeeping (adc : List AdcReading) (s : State) : State :=
  let s1 := (List.range 8).foldl noteRank (allNodes.foldl noteNode (adc.foldl noteAdc s))
  let s2 := allZones.foldl judgeZone (s1.withThm fun t => { t with round := t.round + 1 })
  allBars.foldl tryPending (allZones.foldl ceilReached s2)

end Sys2Proof.Machine
end

