-- ==== Sys2Proof/Machine/WebEdge.lean ====
section
/-! DEFINITION. What the feedback inputs bring about: counts, index events and SSI words, with the line ticks, the gait and
the samples of axes that follow from them (R77 to R98, R104). -/

namespace Sys2Proof.Machine

/-! ### Counting (R78 to R80, R82, R87, R88) -/

/-- R78: the place of A,B in the Gray sequence 00, 01, 11, 10. -/
def grayPlace (a b : Bool) : Nat := if a then (if b then 2 else 3) else b2n b

/-- R80: the place of U,V,W in the sequence 001, 011, 010, 110, 100, 101; none for 000 and 111. -/
def hallPlace (u v w : Bool) : Option Nat :=
  match u, v, w with
  | false, false, true => some 0
  | false, true, true => some 1
  | false, true, false => some 2
  | true, true, false => some 3
  | true, false, false => some 4
  | true, false, true => some 5
  | false, false, false => none
  | true, true, true => none

/-- R79: the direction as counted, INVERT_DIR exchanging forward and reverse. -/
def Channel.sense (c : Channel) (forward : Bool) : Int := if forward != c.invert then 1 else -1

/-- R88, R89, R92: the web master has counted at edge time `t`. -/
def masterCount (t : Nat) (s : State) : State :=
  let p := s.webPos
  let up := decide (s.web.hwm < p)
  let rev := s.web.reverse || (!up && decide (p < s.web.hwm - Int.ofNat s.web.backlash))
  let s1 := s.withWeb fun w => { w with hwm := if up then p else w.hwm, reverse := rev && decide (p < if up then p else w.hwm) }
  evalGait (if up then advanceHwm t s1 else s1)

/-- R82, R83, R86, R87: channel `n` counts by `d` at edge time `t`. -/
def countEdge (n : Nat) (d : Int) (t : Nat) (s : State) : State :=
  let c := ((s.chan n).edge t d).count d
  let s1 := s.setChan n (c.speedAt s.time.now)
  if s.web.master = some n then masterCount t (s1.withWeb fun w => { w with dm := w.dm + d })
  else if s.web.check = some n then s1.withWeb fun w => { w with dc := w.dc + d }
  else s1

/-- R79: `k` input lines of channel `n` have changed at edge time `t`. -/
def noteChanges (n t k : Nat) (s : State) : State := (List.range k).foldl (fun st _ => noteChange n t st) s

/-- Insert an age into a list without repeats, the greatest first. -/
def insertAge (x : Nat) : List Nat → List Nat
  | [] => [x]
  | y :: t => if x = y then y :: t else if y < x then x :: y :: t else y :: insertAge x t

/-- R77: the moments at which lines accept their new level, as ages, the earliest first. -/
def acceptAges (ages : List (Option Nat)) : List Nat := (ages.filterMap id).foldr insertAge []

/-- R77: the level of a line once the moment of age `x` has come. -/
def levelAt (x : Nat) (age : Option Nat) (old new : Bool) : Bool :=
  match age with
  | some y => if x ≤ y then new else old
  | none => old

/-- R78, R79, R82, R87 to R89, R92, R98: A and B of channel `ch` are accepted as `a` and `b` at edge time `t`, one or both of them
new. A change of both is illegal first, and as two changes 0 ns apart OVERRATE after that (DESIGN CHOICE, log 32). -/
def quadratureChange (ch t : Nat) (a b : Bool) (s : State) : State :=
  let c := s.chan ch
  let s1 := s.setChan ch { c with lineA := a, lineB := b }
  if a != c.lineA && b != c.lineB then noteChanges ch t 2 (illegalEdge ch s1)
  else if a != c.lineA || b != c.lineB then
    countEdge ch (c.sense ((grayPlace c.lineA c.lineB + 1) % 4 == grayPlace a b)) t (noteChanges ch t 1 s1)
  else s1

/-- ENCODER_EDGE (R77 to R79, R82, R87 to R89, R92, R98): A and B of a channel have been sampled `samples` times at these levels. -/
def execEncoderEdge (ch : Nat) (a b : Bool) (samples : Nat) (s : State) : Host.Outcome State Fault Refusal :=
  let c := s.chan ch
  if c.mode ≠ .quadrature then .next s
  else
    let fa := filterLine c.filterNs c.runA samples (a == c.lineA)
    let fb := filterLine c.filterNs c.runB samples (b == c.lineB)
    .next ((acceptAges [fa.2, fb.2]).foldl (fun st x =>
      quadratureChange ch (s.time.now - x) (levelAt x fa.2 c.lineA a) (levelAt x fb.2 c.lineB b) st)
      (s.setChan ch { c with runA := fa.1, runB := fb.1 }))

/-- R79, R80, R82, R87: U, V and W of channel `ch` are accepted as `u`, `v` and `w` at edge time `t`. A change to the opposite state,
three steps away, is illegal too (DESIGN CHOICE, log 62). -/
def hallChange (ch t : Nat) (u v w : Bool) (s : State) : State :=
  let c := s.chan ch
  let k := b2n (u != c.lineA) + b2n (v != c.lineB) + b2n (w != c.lineZ)
  let s1 := noteChanges ch t k (s.setChan ch { c with lineA := u, lineB := v, lineZ := w })
  match hallPlace c.lineA c.lineB c.lineZ, hallPlace u v w with
  | some p, some q =>
    if (p + 1) % 6 = q then countEdge ch (c.sense true) t s1
    else if (q + 1) % 6 = p then countEdge ch (c.sense false) t s1
    else illegalEdge ch s1
  | none, some _ => s1
  | some _, none => illegalEdge ch s1
  | none, none => illegalEdge ch s1

/-- HALL_EDGE (R77, R79, R80, R82, R87): U, V and W of a channel have been sampled `samples` times at these levels. -/
def execHallEdge (ch : Nat) (u v w : Bool) (samples : Nat) (s : State) : Host.Outcome State Fault Refusal :=
  let c := s.chan ch
  if c.mode ≠ .hall then .next s
  else
    let fa := filterLine c.filterNs c.runA samples (u == c.lineA)
    let fb := filterLine c.filterNs c.runB samples (v == c.lineB)
    let fz := filterLine c.filterNs c.runZ samples (w == c.lineZ)
    .next ((acceptAges [fa.2, fb.2, fz.2]).foldl (fun st x =>
      hallChange ch (s.time.now - x) (levelAt x fa.2 c.lineA u) (levelAt x fb.2 c.lineB v) (levelAt x fz.2 c.lineZ w) st)
      (s.setChan ch { c with runA := fa.1, runB := fb.1, runZ := fz.1 }))

/-- INDEX_EVENT (R77, R83, R368): FBn_Z of a channel has been sampled `samples` times at level `z`; accepted, a change to the active
level is an index event. -/
def execIndexEvent (ch : Nat) (z : Bool) (samples : Nat) (s : State) : Host.Outcome State Fault Refusal :=
  let c := s.chan ch
  if c.mode ≠ .quadrature then .next s
  else
    let f := filterLine c.filterNs c.runZ samples (z == c.lineZ)
    let s1 := s.setChan ch { c with runZ := f.1, lineZ := levelAt 0 f.2 c.lineZ z }
    .next (if f.2.isSome && z != c.indexLow && c.indexed then homeIndex ch (indexEvent ch s1) else s1)

/-! ### SSI (R81, R353) -/

/-- R81: a word clocked in from channel `ch`. -/
def ssiWord (ch word : Nat) (s : State) : State :=
  let c := s.chan ch
  if c.mode = .ssi then
    let raw := word % 2 ^ c.ssiBits
    let v := if c.ssiGray then grayToBin c.ssiBits raw % 2 ^ c.ssiBits else raw
    match c.ssiWord with
    | none => (s.setChan ch { c with ssiWord := some v, ssiTime := s.time.now })
    | some old =>
      let diff := shortest c.ssiBits v old
      let diff' := if c.invert then -diff else diff
      let dt := s.time.now - c.ssiTime
      let sp : Ratio := if dt = 0 then c.speed else { num := diff' * 10 ^ 9, den := dt }
      (s.setChan ch
        { c with p := w64 (c.p + diff'), ssiWord := some v, ssiTime := s.time.now, speed := sp
                 stopped := decide (diff' = 0), dirRev := if diff' = 0 then c.dirRev else decide (diff' < 0) })
  else s

/-- R353: the word is the sample of the period for the axes that read channel `ch`. -/
def ssiSamples (ch : Nat) (s : State) : State :=
  allAxes.foldl (fun st a =>
    let x := st.ax a
    if x.enabled ∧ x.cfg.feedback = 1 ∧ x.cfg.fbCh = ch then sampleAxis a (x.fromFb (st.chan ch).p) st else st) s

/-- R81: the read in progress of the channel has clocked all its bits. -/
def Channel.ssiDue (c : Channel) (now : Nat) : Bool :=
  c.mode == .ssi && match c.ssiStart with
    | none => false
    | some t => decide (c.ssiBits * 10 ^ 6 ≤ (now - t) * c.ssiClock)

/-- SSI_READ_DONE (R81, R353): the read that the trigger started ends with this word. -/
def execSsiReadDone (ch word : Nat) (s : State) : Host.Outcome State Fault Refusal :=
  let c := s.chan ch
  if c.ssiDue s.time.now then .next (ssiSamples ch (ssiWord ch word (s.setChan ch { c with ssiStart := none }))) else .next s

end Sys2Proof.Machine
end

