-- ==== Sys2Proof/Machine/Events.lean ====
section
/-! DEFINITION. Events in which several blocks have a part: cutoffs, frame records, status frames, camera frames, trigger
firings, and the events of the axes. -/

namespace Sys2Proof.Machine

/-! ### Axes (R356 to R373) -/

/-- AXIS_STOP (R371, R373, R375, R379). -/
def execAxisStop (slot : Nat) (s : State) : Host.Outcome State Fault Refusal :=
  runCmd 0x0A04 slot axisStopChecks axisStop s

/-- SWITCH_CHANGE (R364 to R366, R368, R369, R380): a sample of the input, at `level`. -/
def execSwitchChange (axis input : Nat) (level : Bool) (s : State) : Host.Outcome State Fault Refusal :=
  .next (switchSample axis input level s)

/-- AXIS_BUS_REPLY (R356, R357, R359): a reply that begins `startNs` after the set-point frame. -/
def execAxisBusReply (bus : Nat) (bytes : List Byte) (startNs : Nat) (s : State) : Host.Outcome State Fault Refusal :=
  .next (busReply bus bytes startNs s)

/-- AXIS_REPLY_WINDOW_END (R359, R371). -/
def execAxisReplyWindowEnd (bus slotNo : Nat) (s : State) : Host.Outcome State Fault Refusal :=
  .next (windowEnd bus slotNo s)

/-! ### Frames (R116, R118, R127) -/

/-- FRAME_CUTOFF (R116, R118): the cutoff of the earliest OPEN frame has been reached. -/
def execFrameCutoff (s : State) : Host.Outcome State Fault Refusal :=
  let f := s.frames.openFirst
  if s.top.mode = .print ∧ s.printCutoffDue f then .next (tanCutoff f (calCutoff f (printCutoff f s)))
  else if s.top.mode = .lightfield ∧ s.lfCutoffDue then .next (tanCutoff f (calCutoff f (lfCutoff f s)))
  else .next s

/-- R464, R468: the record of frame `f` is not written here: the partner has written it. -/
def State.recordQuiet (s : State) (f : FrameNo) : Bool :=
  s.shadow || match s.tan.skipTo with
    | some g => !FrameNo.later g f
    | none => false

/-- R464: a standby keeps what it needs of a frame until its partner's FRAME_LAST covers it. -/
def State.partnerWrote (s : State) (f : FrameNo) : Bool :=
  match s.tan.beat with
  | some b => !FrameNo.later b.frameLast f
  | none => false

/-- FRAME_RECORD (R127 to R130, R331, R464). -/
def execFrameRecord (frame : FrameNo) (s : State) : Host.Outcome State Fault Refusal :=
  if s.recordDue frame && (!s.shadow || s.partnerWrote frame) then
    .next (calRecord (writeFrameRecord (s.recordQuiet frame) frame s))
  else .next s

/-! ### Status frames (R208, R213, R221, R471, R473) -/

/-- STATUS_FRAME_RX (R208, R221): the bytes of a status frame received on a link; a part without the link receives none (R28). -/
def execStatusFrameRx (link : Nat) (bytes : List Byte) (s : State) : Host.Outcome State Fault Refusal :=
  if !s.fuse.part.hasLink link then .next s
  else
  match parseFrame bytes with
  | none => .next (badFrame link bytes s)
  | some f =>
    if f.ftype = FType.status ∧ f.node / 8 = link then .next (tanStatus f.node s (statusFrame f.node f.data s)) else .next s

/-! ### Camera frames (R303 to R305, R330, R331) -/

/-- R305, R331: the frame in progress of stream `n` ends and, where it is delivered, reaches the calibration engine. -/
def closeFrame (n : Nat) (s : State) : State :=
  let r := endFrame n s
  match r.2 with
  | some f => calCapture n f r.1
  | none => r.1

/-- A camera packet for a stream; `act` is what it brings about. -/
def onStream (port vc ecc : Nat) (deskew : Bool) (act : Nat → State → State) (s : State) : State :=
  if (s.camPort port).lanes = 0 then s
  else
    let s1 := seenPort port deskew s
    if 1 < ecc then badHeader port vc s1
    else
      match s1.streamAt port vc with
      | none => dropPacket port s1
      | some n => act n s1

/-- CSI_FRAME_START (R303, R304, R312, R316). -/
def execCsiFrameStart (port vc ecc : Nat) (deskew : Bool) (s : State) : Host.Outcome State Fault Refusal :=
  .next (onStream port vc ecc deskew (fun n st => startFrame n ecc (closeFrame n st)) s)

/-- CAM_FRAME_DONE (R304, R305, R317, R319): an FE. -/
def execCamFrameDone (port vc ecc : Nat) (s : State) : Host.Outcome State Fault Refusal :=
  .next (onStream port vc ecc false (fun n st =>
    match (st.stream n).frame with
    | none => st
    | some f => closeFrame n (st.setStream n { st.stream n with frame := some { f with ecc := f.ecc + ecc } })) s)

/-! ### Trigger units (R390 to R394) -/

/-- R390, R393, R394: unit `u` fires: its pin, its counts and the capture units that stamp it. -/
def firePin (u : Nat) (s : State) : State :=
  let x := s.trig u
  let c := { x.sched with k := x.sched.k + 1, made := x.sched.made + 1 }
  let on := x.pin != 0xFF && !(x.halterHold && s.outHalted) && !s.camMasked u
  let s1 := s.setTrig u { x with
    sched := c, count := (x.count + 1) % 2 ^ 32, active := x.active || on
    offAt := if !on then x.offAt else (if x.holder = .calibration then s.time.now else x.sched.time x.sched.k) + x.width }
  let s2 := if on then s1.emit (.pin x.pin (x.level true)) else s1
  stamp 0x07 u (x.sched.k % 2 ^ 32) s2

/-- R390, R391: the action of the holder of unit `u` at firing `k`. -/
def holderAction (u k : Nat) (adc : List AdcReading) (s : State) : State :=
  match (s.trig u).holder with
  | .none => s
  | .host => s
  | .scan => frameTick (s.scan.first + BitVec.ofNat 32 k) s
  | .camera => exposeUnit u s
  | .calibration =>
    match s.shotOn u with
    | some n => exposeUnit u (takeShot n s)
    | none => s
  | .motion => gantrySteps (servoPeriod s)
  | .housekeeping => temperatureTriggers (housekeeping adc s)

/-- R330, R390: unit `u` fires now. A unit held for calibration fires for its exposures. -/
def State.fireDue (s : State) (u : Nat) : Bool :=
  let x := s.trig u
  s.top.dev != .tripped &&
    (if x.holder = .calibration then (s.shotOn u).isSome
     else x.running && x.sched.left && decide (x.sched.time x.sched.k ≤ s.time.now))

/-- TRIGGER_FIRE (R390 to R394): unit `unit` fires; `adc` are the readings of the housekeeping converter, where the unit
holds the housekeeping rounds. -/
def execTriggerFire (unit : Nat) (adc : List AdcReading) (s : State) : Host.Outcome State Fault Refusal :=
  if s.fireDue unit then
    let k := (s.trig unit).sched.k
    let s1 := holderAction unit k adc (firePin unit s)
    .next (if (s1.trig unit).running then trigDone unit s1 else s1)
  else .next s

end Sys2Proof.Machine
end

