-- ==== Sys2Proof/Machine/Hitch.lean ====
section
/-! DEFINITION. The hitch events: presence, proposals and decisions, the web cross-check (R395 to R399). -/

namespace Sys2Proof.Machine

/-! ### Presence (R396) -/

/-- R395: the body of a HELLO. -/
def State.helloBody (s : State) : List Byte :=
  le 8 s.fuse.deviceId.toNat ++ le 1 s.top.dev.code ++ le 1 s.time.servo.code ++ le 2 (unsigned 16 (saturate 16 s.time.offset)) ++
    le 8 s.time.gm ++ le 4 s.time.hitch.applied ++
    le 4 (if s.prn.job.isOpen || s.scanning then s.frames.openFirst.toNat else 0)

/-- HITCH_HELLO_TIMER (R396). -/
def execHitchHelloTimer (s : State) : Host.Outcome State Fault Refusal :=
  let h := s.time.hitch
  if h.joined && decide (h.helloAt ≤ s.uptime) then
    .next ((sendHitch 0x01 s.helloBody s).withHitch fun x => { x with helloAt := s.uptime + 1000000 })
  else .next s

/-- R396: HITCH_MEMBER. -/
def memberEvent (m kind : Nat) (s : State) : State := raise Src.time 0x0010 (le 1 m ++ le 1 kind) s

/-- R396, R486: a HELLO has been heard; under its own index a muted controller hears its tandem partner. -/
def heardHello (m : HitchMsg) (s : State) : State :=
  let h := s.time.hitch
  let id := numAt m.body 0 8
  let known := Tab.get 0 h.devIds m.sender
  if s.hitchMuted && m.sender == h.member then s
  else if known ≠ 0 ∧ known ≠ id + 1 then
    let s1 := s.withHitch fun x => { x with conflict := true }
    if h.conflict then s1 else memberEvent m.sender 2 s1
  else if m.sender = h.member then s
  else
    let s1 := s.withHitch fun x =>
      { x with devIds := Tab.put 0 x.devIds m.sender (id + 1), lastHello := Tab.put 0 x.lastHello m.sender (s.uptime + 1)
               seen := Nat.max x.seen (numAt m.body 20 4)
               present := if x.present.contains m.sender then x.present else x.present ++ [m.sender] }
    if h.present.contains m.sender then s1 else memberEvent m.sender 1 s1

/-- HITCH_HELLO_RX (R395, R396). -/
def execHitchHelloRx (bytes : List Byte) (s : State) : Host.Outcome State Fault Refusal :=
  .next (onHitch 0x01 bytes heardHello s)

/-- HITCH_PRESENCE_TIMEOUT (R396): no HELLO from a member for 3 ms. -/
def execHitchPresenceTimeout (member : Nat) (s : State) : Host.Outcome State Fault Refusal :=
  let h := s.time.hitch
  if h.present.contains member && member != h.member &&
      decide (Tab.get 0 h.lastHello member + 3000000 ≤ s.uptime + 1) then
    .next (memberEvent member 0 (s.withHitch fun x => { x with present := x.present.filter (· != member) }))
  else .next s

/-! ### Hitch commits (R397, R398) -/

/-- R397: a PROPOSE has been heard: the decision again, or the proposal is held. -/
def heardPropose (m : HitchMsg) (s : State) : State :=
  let f := numAt m.body 0 4
  match s.time.hitch.decided.find? fun d => d.1 == f with
  | some d => if s.hitchLeader then sendHitch 0x11 (decideBody d) s else s
  | none => holdProposal { member := m.sender, frame := f, earliest := numAt m.body 4 4, prev := numAt m.body 8 4 } s

/-- PROPOSE_RX (R395, R397). -/
def execProposeRx (bytes : List Byte) (s : State) : Host.Outcome State Fault Refusal :=
  .next (onHitch 0x10 bytes heardPropose s)

/-- PROPOSE_REPEAT (R397): 100 µs after the latest PROPOSE of a waiting commit. -/
def execProposeRepeat (s : State) : Host.Outcome State Fault Refusal :=
  let due := s.frames.hitch.filter fun c => decide (c.lastSent + 100000 ≤ s.uptime)
  let s1 := s.withFrames fun x =>
    { x with hitch := x.hitch.map fun c => if c.lastSent + 100000 ≤ s.uptime then { c with lastSent := s.uptime } else c }
  .next (due.foldl (fun st c => if st.frames.hitch.any fun e => e.id == c.id then propose c.frame st else st) s1)

/-- DECIDE_RX (R395, R397, R398). -/
def execDecideRx (bytes : List Byte) (s : State) : Host.Outcome State Fault Refusal :=
  .next (onHitch 0x11 bytes (fun m st =>
    applyDecide (BitVec.ofNat 32 (numAt m.body 0 4)) (BitVec.ofNat 32 (numAt m.body 4 4)) (numAt m.body 8 4) st) s)

/-- R397: every commit for frame `f` ends with ST_TIMEOUT and the mask of missing members. -/
def abortHitch (f missing : Nat) (s : State) : State :=
  dropHitchCommits St.timeout missing (fun c => c.frame.toNat != f) s

/-- ABORT_RX (R395, R397). -/
def execAbortRx (bytes : List Byte) (s : State) : Host.Outcome State Fault Refusal :=
  .next (onHitch 0x12 bytes (fun m st => abortHitch (numAt m.body 0 4) (numAt m.body 4 2) st) s)

/-- HITCH_WAIT_EXPIRY (R397): the leader lacks proposals for `frame` WAIT_US after the first. -/
def execHitchWaitExpiry (frame : FrameNo) (s : State) : Host.Outcome State Fault Refusal :=
  let h := s.time.hitch
  let f := frame.toNat
  let t := Tab.get 0 h.firstAt f
  if h.joined && s.hitchLeader && t != 0 && decide (t + 1000 * h.waitUs ≤ s.uptime + 1) then
    let held := (h.proposals.filter fun p => p.frame == f).map (·.member)
    let missing := (List.range 16).foldl (fun a m => if bitAt h.mask m && !held.contains m then a + 2 ^ m else a) 0
    let s1 := s.withHitch fun x =>
      { x with proposals := x.proposals.filter fun p => p.frame != f, firstAt := Tab.put 0 x.firstAt f 0 }
    .next (abortHitch f missing (sendHitch 0x12 (le 4 f ++ le 2 missing) s1))
  else .next s

/-- HITCH_COMMIT_TIMEOUT (R397): WAIT_US + 2 ms after the first PROPOSE of a commit. -/
def execHitchCommitTimeout (s : State) : Host.Outcome State Fault Refusal :=
  let beyond := fun (c : HitchCommit) => decide (c.start + 1000 * s.time.hitch.waitUs + 2000000 ≤ s.uptime)
  let gone := (s.frames.hitch.filter beyond).map (·.frame.toNat)
  .next (dropHitchCommits St.timeout 0 (fun c => !beyond c) (s.withHitch fun h =>
    { h with timedOut := (h.timedOut ++ gone).drop ((h.timedOut ++ gone).length - 16) }))

/-! ### The web cross-check (R399) -/

/-- R399: compare own and source samples of time `t` where both are at hand. -/
def crossCheck (t : Nat) (s : State) : State :=
  let h := s.time.hitch
  match h.ownSamples.find? (fun e => e.1 == t), h.srcSamples.find? (fun e => e.1 == t) with
  | some o, some r =>
    match h.base with
    | none => s.withHitch fun x => { x with base := some (r.2, o.2) }
    | some b =>
      let diff := w64 ((r.2 - b.1) - (o.2 - b.2))
      if h.webTol < diff.natAbs then
        startDoubt .hitchCheck (raise Src.time 0x0013 (le 1 h.webSource ++ le 8 (unsigned 64 diff)) s)
      else s
  | _, _ => s

/-- The last 16 samples. -/
def addSample (l : List (Nat × Int)) (e : Nat × Int) : List (Nat × Int) := (l ++ [e]).drop (l.length + 1 - 16)

/-- WEB_SAMPLE_TIMER (R399): a device time that is a multiple of 1 ms. -/
def execWebSampleTimer (s : State) : Host.Outcome State Fault Refusal :=
  let h := s.time.hitch
  let t := s.time.now - s.time.now % 1000000
  if h.joined && h.webCheck && s.top.mode == .print && decide (h.sampleAt < t) then
    let s1 := s.withHitch fun x => { x with sampleAt := t, ownSamples := addSample x.ownSamples (t, s.web.hwm) }
    .next (crossCheck t (sendHitch 0x30 (le 8 t ++ le 8 (unsigned 64 s.web.hwm) ++ le 1 s.web.gait.code) s1))
  else .next s

/-- WEB_SAMPLE_RX (R395, R399). -/
def execWebSampleRx (bytes : List Byte) (s : State) : Host.Outcome State Fault Refusal :=
  .next (onHitch 0x30 bytes (fun m st =>
    let h := st.time.hitch
    if h.webCheck && m.sender == h.webSource then
      let t := numAt m.body 0 8
      crossCheck t (st.withHitch fun x => { x with srcSamples := addSample x.srcSamples (t, signed 64 (numAt m.body 8 8)) })
    else st) s)

end Sys2Proof.Machine
end

