-- ==== Sys2Proof/Machine/HostCmd.lean ====
section
/-! DEFINITION. The SYS commands (R35 to R37, R60, R65 to R70), the transfers of SYS_PULL, and Bus Master Enable (R42). -/

namespace Sys2Proof.Machine

/-! ### SYS_NOP, SYS_QUERY -/

/-- Checks of a command without parameters. -/
def noParams : Checks where
  params := fun d _ => [rzb d 8 64]

/-- SYS_NOP: RESULT is the number of commands executing, itself included. -/
def execSysNop (slot : Nat) (s : State) : Host.Outcome State Fault Refusal :=
  runCmd 0x0100 slot noParams (fun k _ st => doneWith k st.inflight st) s

/-- Checks of SYS_QUERY. -/
def sysQueryChecks : Checks where
  selector := fun d _ => inR 8 (d.u 8 2) 1 5
  params := fun d _ => [rzb d 10 64]

/-- Buffer handles in state FREE. -/
def State.freeHandles (s : State) : Nat := ((List.range 4096).filter fun h => (s.buf h).state == .free).length

/-- The table "Query items". -/
def queryItem (item : Nat) (s : State) : Nat :=
  match item with
  | 1 => s.lcs.fwVersion
  | 2 => s.lcs.rollback
  | 3 => s.freeHandles
  | 4 => backlogRecords s.cmd.backlog
  | _ => s.lcs.inForce.windowGib * 1024

/-- SYS_QUERY. -/
def execSysQuery (slot : Nat) (s : State) : Host.Outcome State Fault Refusal :=
  runCmd 0x0101 slot sysQueryChecks (fun k d st => doneWith k (queryItem (d.u 8 2) st) st) s

/-! ### SYS_SET_MODE (R13, R14, R35 to R37) -/

/-- Checks of SYS_SET_MODE. -/
def setModeChecks : Checks where
  fused := fun d s =>
    if d.u 8 1 = 1 ∧ s.fuse.part.print = false then some Cap.print
    else if d.u 8 1 = 2 ∧ s.fuse.part.lightfield = false then some Cap.lightfield
    else none
  allowed := fun _ s => s.top.dev == .idle
  selector := fun d _ => inR 8 (d.u 8 1) 1 2
  params := fun d _ => [rzb d 9 64]

/-- R37: the opcode of the oldest CAM or CAL command executing. -/
def State.oldestCamCal (s : State) : Option Nat :=
  ((s.cmd.slots.filter fun e => e.2.phase == .executing && (e.2.block == 8 || e.2.block == 9)).foldl
    (fun (best : Option Slot) e =>
      match best with
      | none => some e.2
      | some b => if e.2.id < b.id then some e.2 else best) none).map Slot.opcode

/-- The units of 256 bytes of device DRAM above the exchange window. -/
def State.hostUnits (s : State) : Nat := (s.mapMib * 2 ^ 20 - s.windowSize) / 256

/-- The host area that firmware sets aside, base and size: any range above the window, in units of 256 bytes. -/
def State.pickHostArea (s : State) : Nat × Nat :=
  let a := (Config.freeWord s.free).toNat % (s.hostUnits + 1)
  let n := (Config.freeWord (s.free + 1)).toNat % (s.hostUnits - a + 1)
  (s.windowSize + 256 * a, 256 * n)

/-- R13, R21, R35: the mode is selected and the device state becomes ARMED. -/
def selectMode (m : Mode) (s : State) : State :=
  let area := s.pickHostArea
  setDev .armed .none { s with
    free := s.free + 2
    top := { s.top with mode := m }
    cmd := { s.cmd with hostBase := area.1, hostSize := area.2 } }

/-- SYS_SET_MODE (R35, R37). -/
def execSysSetMode (slot : Nat) (s : State) : Host.Outcome State Fault Refusal :=
  runCmd 0x0102 slot setModeChecks (fun k d st =>
    match s.oldestCamCal with
    | some op => resourceBusy k op st
    | none => done k (selectMode (if d.u 8 1 = 1 then .print else .lightfield) st)) s

/-! ### SYS_PULL (R70, R431) -/

/-- Checks of SYS_PULL. -/
def sysPullChecks : Checks where
  params := fun d s =>
    [need (d.u 8 8 % 4 == 0) 8 Rsn.align, bufIs s 16 (d.u 16 2) .filling, need (d.u 18 1 < 2) 18 Rsn.reserved,
     rzb d 19 24, need (d.u 24 8 % 4 == 0) 24 Rsn.align, need (d.u 32 8 % 4 == 0) 32 Rsn.align,
     need (decide (4 ≤ d.u 32 8) && decide (d.u 24 8 + d.u 32 8 ≤ (s.buf (d.u 16 2)).size)) 32 Rsn.range, rzb d 40 64]

/-- The pull of slot `k`. -/
def State.pull (s : State) (k : Nat) : Pull := Tab.get {} s.cmd.pulls k

/-- Set the pull of slot `k`. -/
def State.setPull (s : State) (k : Nat) (p : Pull) : State :=
  { s with cmd := { s.cmd with pulls := Tab.put {} s.cmd.pulls k p } }

/-- Bytes of the next read request of a pull: at most 512 and at most Max_Read_Request_Size (R39). -/
def Pull.ask (p : Pull) (max : Nat) : Nat := Nat.min (Nat.min 512 max) (p.len - p.copied)

/-- R39, R42: the next read request of the pull of slot `k`, once the LZ9 can issue it. -/
def askPull (k : Nat) (s : State) : State :=
  let p := s.pull k
  if s.canRequest && !p.asked && decide (p.copied < p.len) then
    (s.setPull k { p with asked := true }).emit (.hostRead k (p.host + p.copied) (p.ask s.pcie.maxReadRequest))
  else s

/-- The pull of slot `k` is over and gives its rate back. -/
def endPull (k : Nat) (s : State) : State := releaseRate k (s.setPull k {})

/-- R70: the pulls into buffer `h`, other than that of slot `but`, end because command `op` takes the buffer from them. -/
def abortPulls (h but op : Nat) (s : State) : State :=
  (s.cmd.pulls.filter fun e => e.2.handle == h && e.1 != but).foldl
    (fun st e => complete e.1 St.aborted op 0 none (endPull e.1 st)) s

/-- SYS_PULL (R70). -/
def execSysPull (slot : Nat) (s : State) : Host.Outcome State Fault Refusal :=
  runCmd 0x0103 slot sysPullChecks (fun k d st =>
    if st.admits k (st.mem.pullRate * 10 ^ 8) then
      askPull k ((holdRate k (st.mem.pullRate * 10 ^ 8) st).setPull k
        { handle := d.u 16 2, host := d.u 8 8, offset := d.u 24 8, len := d.u 32 8, makeReady := bitAt (d.u 18 1) 0 })
    else noBandwidth k 51 st) s

/-- R70: the whole length has been copied. -/
def finishPull (k : Nat) (s : State) : State :=
  let p := s.pull k
  if p.makeReady then
    let s1 := readyBuf p.handle (abortPulls p.handle k 0x0103 (endPull k s))
    doneWith k (s1.buf p.handle).crc s1
  else done k (endPull k s)

/-- R39: a completion timeout and a poisoned completion are logged in AER. -/
def noteReadError (status : Nat) (s : State) : State :=
  { s with pcie := { s.pcie with
      aerTimeout := s.pcie.aerTimeout || status == 1
      aerPoison := s.pcie.aerPoison || status == 2 } }

/-- HOST_READ_COMPLETION (R70): the host answers the read request of the pull of slot `slot`: `status` 0 with its bytes,
1 for a timeout, 2 for a poisoned completion, 3 for Unsupported Request or Completer Abort. -/
def execHostReadCompletion (slot status : Nat) (bytes : List Byte) (s : State) : Host.Outcome State Fault Refusal :=
  let p := s.pull slot
  if !p.asked || decide (3 < status) || (status == 0 && bytes.length != p.ask s.pcie.maxReadRequest) then .next s
  else if status = 0 then
    let s1 := (dramStore ((s.buf p.handle).base + p.offset + p.copied) bytes s).setPull slot
      { p with copied := p.copied + bytes.length, asked := false }
    .next (if p.len ≤ p.copied + bytes.length then finishPull slot s1 else askPull slot s1)
  else .next (complete slot St.hwFault status 0 none (endPull slot (noteReadError status s)))

/-! ### SYS_HALTER, SYS_RESUME (R21, R22, R65, R66, R450) -/

/-- Checks of SYS_HALTER. -/
def sysHalterChecks : Checks where
  allowed := fun _ s => s.top.dev == .armed || s.top.dev == .run || s.top.dev == .halter
  selector := fun d _ => need (d.u 8 1 == 0) 8 Rsn.range
  params := fun d _ => [rzb d 9 64]

/-- SYS_HALTER (R21, R66). In HALTER every output is put into Halter again. -/
def execSysHalter (slot : Nat) (s : State) : Host.Outcome State Fault Refusal :=
  runCmd 0x0104 slot sysHalterChecks (fun k _ st =>
    let s1 := { st with tan := { st.tan with held := false } }
    done k (if st.top.dev = .halter then haltOutputs .hostHalter s1 else enterHalter .hostHalter s1)) s

/-- Checks of SYS_RESUME (R21, R450). -/
def sysResumeChecks : Checks where
  allowed := fun _ s => s.top.dev == .halter && !s.stopReq
  params := fun d _ => [rzb d 8 64]

/-- R21: output resumes with the first frame whose cutoff lies after the resume. -/
def resumeOutputs (s : State) : State :=
  let f := some s.frames.openFirst
  let s1 := if s.prn.job.isOpen then
      s.jobBars.foldl (fun st b => st.setFireBar b { st.fireBar b with resumeFrom := f }) s else s
  let s2 := if s.scanning then s1.withScan fun x => { x with resumeA := f, resumeB := f } else s1
  rollback (runNodes (s2.targetNodes (if s.prn.job.isOpen then s.jobBars else []) (if s.scanning then [0, 1] else [])) s2)

/-- SYS_RESUME (R21). -/
def execSysResume (slot : Nat) (s : State) : Host.Outcome State Fault Refusal :=
  runCmd 0x0105 slot sysResumeChecks (fun k _ st =>
    done k (if st.prn.job.isOpen || st.scanning then resumeOutputs (setDev .run .hostResume st)
      else setDev .armed .hostResume st)) s

/-! ### Buffers (R67 to R69) -/

/-- R68: the range lies in one of the two areas. -/
def State.inSomeArea (s : State) (base size : Nat) : Bool := s.inDataArea base size || s.inHostArea base size

/-- R68: the range overlaps a buffer that is not FREE. -/
def State.bufOverlap (s : State) (base size : Nat) : Bool :=
  s.cmd.bufs.any fun e => e.2.state != .free && decide (base < e.2.base + e.2.size) && decide (e.2.base < base + size)

/-- R68: the handle is in one of the states given. -/
def handleState (s : State) (h : Nat) (sts : List BufState) : PF :=
  if 4095 < h then some (8, Rsn.range) else need (sts.contains (s.buf h).state) 8 Rsn.bufState

/-- R68: parameters of SYS_BUF_DEFINE. -/
def bufDefineParams (d : Slot) (s : State) : List PF :=
  let h := d.u 8 2
  if d.u 10 1 = 1 then
    let base := d.u 16 8
    let size := d.u 24 8
    let sizeOk := decide (256 ≤ size) && decide (size ≤ 16 * 2 ^ 30) && size % 256 == 0
    [handleState s h [.free], need (d.u 11 1 < 2) 11 Rsn.reserved, rzb d 12 16, need (base % 256 == 0) 16 Rsn.align,
     need (!sizeOk || s.inSomeArea base size) 16 Rsn.range, need (!sizeOk || !s.bufOverlap base size) 16 Rsn.overlap,
     need (size % 256 == 0) 24 Rsn.align, inR 24 size 256 (16 * 2 ^ 30), rzb d 32 64]
  else
    [handleState s h (if d.u 10 1 = 2 then [.filling] else [.ready]), rz 11 (d.u 11 1), rzb d 12 16,
     rz 16 (d.u 16 8), rz 24 (d.u 24 8), rzb d 32 64]

/-- Checks of SYS_BUF_DEFINE. -/
def bufDefineChecks : Checks where
  selector := fun d _ => inR 10 (d.u 10 1) 1 3
  params := bufDefineParams

/-- SYS_BUF_DEFINE (R68). -/
def execSysBufDefine (slot : Nat) (s : State) : Host.Outcome State Fault Refusal :=
  runCmd 0x0106 slot bufDefineChecks (fun k d st =>
    let h := d.u 8 2
    let b := st.buf h
    if d.u 10 1 = 1 then
      done k (st.setBuf h { gen := b.gen, lastPin := b.lastPin, base := d.u 16 8, size := d.u 24 8, state := .filling
                            crcEn := bitAt (d.u 11 1) 0 })
    else if d.u 10 1 = 2 then
      let s1 := readyBuf h (abortPulls h 128 0x0106 st)
      doneWith k (s1.buf h).crc s1
    else if b.pins ≠ 0 then complete k St.bufPinned b.pins 0 none st
    else done k (st.setBuf h { b with state := .filling, lz9 := false })) s

/-- Checks of SYS_BUF_FREE. -/
def bufFreeChecks : Checks where
  params := fun d s => [handleState s (d.u 8 2) [.filling, .ready], rzb d 10 64]

/-- SYS_BUF_FREE (R69). -/
def execSysBufFree (slot : Nat) (s : State) : Host.Outcome State Fault Refusal :=
  runCmd 0x0107 slot bufFreeChecks (fun k d st =>
    let h := d.u 8 2
    let b := st.buf h
    if b.state = .ready ∧ b.pins ≠ 0 then
      complete k St.deferred 0 0 none (st.setBuf h { b with state := .releasePending, releaseCmd := d.id })
    else done k ((abortPulls h 128 0x0107 st).setBuf h b.freed)) s

/-! ### SYS_EVENT_MASK (R60) -/

/-- Checks of SYS_EVENT_MASK. -/
def eventMaskChecks : Checks where
  params := fun d _ =>
    [inR 8 (d.u 8 1) 0 15, inR 9 (d.u 9 1) 0 1, need (decide (d.u 10 2 ≤ d.u 12 2)) 12 Rsn.range, rzb d 14 64]

/-- A masked range of source `src` without the codes `lo` to `hi`. -/
def cutRange (src lo hi : Nat) (m : Nat × Nat × Nat) : List (Nat × Nat × Nat) :=
  if m.1 != src || decide (hi < m.2.1) || decide (m.2.2 < lo) then [m]
  else
    (if m.2.1 < lo then [(src, m.2.1, lo - 1)] else []) ++ (if hi < m.2.2 then [(src, hi + 1, m.2.2)] else [])

/-- R60: how many codes from `lo` to `hi` cannot be disabled. -/
def fixedCodes (src lo hi : Nat) : Nat :=
  if src = Src.top then hi - lo + 1
  else if src = Src.prn ∨ src = Src.scan then b2n (decide (lo ≤ frameRecordCode) && decide (frameRecordCode ≤ hi))
  else if src = Src.sys then b2n (decide (lo ≤ 2) && decide (2 ≤ hi))
  else 0

/-- SYS_EVENT_MASK (R60). A DETAIL of 65,536 does not fit its field and is a free value. -/
def execSysEventMask (slot : Nat) (s : State) : Host.Outcome State Fault Refusal :=
  runCmd 0x0108 slot eventMaskChecks (fun k d st =>
    let src := d.u 8 1
    let kept := st.cmd.masked.flatMap (cutRange src (d.u 10 2) (d.u 12 2))
    let n := fixedCodes src (d.u 10 2) (d.u 12 2)
    if d.u 9 1 = 1 then done k { st with cmd := { st.cmd with masked := kept } }
    else
      let s1 := { st with cmd := { st.cmd with masked := kept ++ [(src, d.u 10 2, d.u 12 2)] } }
      if n = 0 then done k s1
      else if n < 65536 then complete k St.partialDone n 0 none s1
      else complete k St.partialDone (s1.freeNat 16) 0 none s1.useFree) s

/-! ### Requests on the link (R42) -/

/-- The MSI-X vectors that are pending and no longer masked are sent (PCIe's own rule). -/
def sendPending (s : State) : State :=
  if s.canRequest then
    (List.range 64).foldl (fun st v =>
      if bitAt st.pcie.pba v && (Tab.get {} st.pcie.msix v).ctrl % 2 == 0 then
        { st with pcie := { st.pcie with pba := st.pcie.pba - 2 ^ v } }.emit (.msix v)
      else st) s
  else s

/-- R42: the LZ9 can issue requests again. -/
def resumeRequests (s : State) : State := (s.cmd.pulls.map (·.1)).foldl (fun st k => askPull k st) (sendPending s)

/-- BUS_MASTER_ENABLE_WRITE (R42). Setting it also ends D3hot. -/
def execBusMasterEnableWrite (on : Bool) (s : State) : Host.Outcome State Fault Refusal :=
  if s.top.dev = .reset ∨ s.top.dev = .tripped ∨ s.pcie.linkUp = false then .next s
  else
    let s1 := { s with pcie := { s.pcie with bme := on, d3hot := s.pcie.d3hot && !on } }
    .next (if on then resumeRequests s1 else s1)

end Sys2Proof.Machine
end

