-- ==== Sys2Proof/Machine/Lcs.lean ====
section
/-! DEFINITION. Life cycle: customer records (R504), field access (R507 to R509), OTP (R500, R510, R511), transitions
(R506), the image push (R501, R502, R537) and JTAG (R512, R513). -/

namespace Sys2Proof.Machine

/-- Change the life-cycle block. -/
def State.withLcs (s : State) (f : Lcs → Lcs) : State := { s with lcs := f s.lcs }

/-! ### Customer records (R504) -/

/-- R407: the DDR_ORG values supported: x8 16 Gb, x16 16 Gb with one or two ranks, x16 24 Gb, x16 32 Gb. -/
def ddrOrgs : List Nat := [0x0, 0x1, 0x9, 0x3, 0x5]

/-- R407: a supported RATE_MAX. -/
def rateMaxOk (rate : Nat) : Bool := decide (32 ≤ rate) && decide (rate ≤ 64) && rate % 4 == 0

/-- R407: the memory fields of a record describe a supported configuration. -/
def memFieldsOk (window org rate : Nat) : Bool := [1, 2, 4].contains window && ddrOrgs.contains org && rateMaxOk rate

/-- R504: MAGIC, VERSION and CRC are correct and the memory fields are supported. -/
def recordValid (r : List Byte) : Bool :=
  numAt r 0 4 == 0x47435543 && byteAt r 4 == 1 && memFieldsOk (byteAt r 5) (byteAt r 6) (byteAt r 7) &&
    numAt r 252 4 == crc32 (r.take 252)

/-- The fields of a record. -/
def recordFields (r : List Byte) : CustRec :=
  { windowGib := byteAt r 5, ddrOrg := byteAt r 6, rateMax := byteAt r 7, mac0 := numAt r 8 6, mac1 := numAt r 14 6
    slotB := numAt r 20 4, debugKey := BitVec.ofNat 384 (ofBe ((r.drop 24).take 48)) }

/-- R504: the defaults: MAC0 is 02, device ID bytes 0 to 3, 00; MAC1 the same, ending 01. -/
def defaultRecord (id : BitVec 64) : CustRec :=
  { mac0 := 2 + 256 * (id.toNat % 2 ^ 32), mac1 := 2 + 256 * (id.toNat % 2 ^ 32) + 2 ^ 40 }

/-- R504: the valid generation with the highest number. -/
def bestRecord : Nat → List (List Byte) → Option (Nat × List Byte)
  | _, [] => none
  | n, r :: rs =>
    match bestRecord (n + 1) rs with
    | some x => some x
    | none => if recordValid r then some (n, r) else none

/-- R504: the record in force is taken from OTP. -/
def loadRecord (s : State) : State :=
  match bestRecord 1 s.lcs.records with
  | some (n, r) => s.withLcs fun x => { x with inForce := recordFields r, recGen := n, recProv := false }
  | none => s.withLcs fun x => { x with inForce := defaultRecord s.fuse.deviceId, recGen := 0, recProv := false }

/-! ### Life-cycle states -/

/-- The codes of the table "Life-cycle states". -/
def Lcs.state (x : Lcs) : Nat :=
  if x.retired then 4 else if x.secured then (if x.opened then 3 else 2) else if x.blank then 1 else 0

/-- Internal debug is open. -/
def Lcs.debugOpen (x : Lcs) : Bool := x.state == 0 || x.state == 1 || x.state == 3

namespace LockedBy
/-- ST_LOCKED details. -/
def lcState : Nat := 1
def gateLocked : Nat := 2
def noKey : Nat := 3
def noNonce : Nat := 4
def badResponse : Nat := 5
def otpFull : Nat := 6
end LockedBy

/-- A command refused by the life-cycle gate. -/
def locked (k detail result : Nat) (s : State) : State := complete k St.locked detail result none s

/-- R506: TARGET is in the "Leaves to" column. -/
def leavesTo (state target : Nat) : Bool :=
  match state with
  | 0 => target == 1
  | 1 => target == 2 || target == 4
  | 2 => target == 4
  | 3 => target == 2 || target == 4
  | _ => false

/-- Device states that LCS_OTP_WRITE and LCS_TRANSITION accept. -/
def otpStates (s : State) : Bool := s.top.dev == .idle || s.top.dev == .armed || s.top.dev == .halter

/-- Checks of LCS_TRANSITION. -/
def lcsTransitionChecks : Checks where
  allowed := fun _ s => otpStates s
  selector := fun d _ => need ([1, 2, 4].contains (d.u 8 1)) 8 Rsn.range
  params := fun d s => [rzb d 9 12, need (d.u 12 4 == s.fuse.deviceId.toNat % 2 ^ 32) 12 Rsn.range, rzb d 16 64]

/-- LCS_TRANSITION (R506). A burned bit stays; the reset follows its completion record. -/
def execLcsTransition (slot : Nat) (s : State) : Host.Outcome State Fault Refusal :=
  runCmd 0x0F03 slot lcsTransitionChecks (fun k d st =>
    let t := d.u 8 1
    if leavesTo st.lcs.state t then
      done k (st.withLcs fun x =>
        { x with blank := x.blank || t == 1, secured := x.secured || t == 2, retired := x.retired || t == 4
                 pendingReset := 5, pendingId := d.id })
    else locked k LockedBy.lcState 0 st) s

/-! ### Field access (R507 to R509) -/

/-- R509: the gate is locked. -/
def Lcs.gateLocked (x : Lcs) : Bool := decide (8 ≤ x.attempts)

/-- R507 to R509: why a challenge is refused. -/
def Lcs.challengeRefused (x : Lcs) : Option Nat :=
  if x.state ≠ 2 then some LockedBy.lcState
  else if x.gateLocked then some LockedBy.gateLocked
  else if x.inForce.debugKey = 0 then some LockedBy.noKey
  else none

/-- 32 bytes from the random source. -/
def drawNonce (s : State) : List Byte := (List.range 4).flatMap fun i => le 8 (Config.freeWord (s.free + i)).toNat

/-- R507: a challenge is drawn. -/
def challenge (s : State) : State :=
  { s.withLcs fun x => { x with nonce := some (drawNonce s), nonceTime := s.uptime, attempts := x.attempts + 1 } with
    free := s.free + 4 }

/-- LCS_CHALLENGE (R507, R509). -/
def execLcsChallenge (slot : Nat) (s : State) : Host.Outcome State Fault Refusal :=
  runCmd 0x0F00 slot noParams (fun k _ st =>
    match st.lcs.challengeRefused with
    | some det => locked k det 0 st
    | none => doneWith k (8 - (challenge st).lcs.attempts) (challenge st)) s

/-- R507: a valid nonce. -/
def State.validNonce (s : State) : Option (List Byte) :=
  if s.uptime ≤ s.lcs.nonceTime + 60 * 10 ^ 9 then s.lcs.nonce else none

/-- R508: the response `r` (key, then r and s of the signature) answers the nonce. -/
def responseOk (nonce r : List Byte) (s : State) : Bool :=
  Config.sha384 (r.take 97) == s.lcs.inForce.debugKey &&
    Config.ecdsaOk (r.take 97) (Config.sha384 (nonce ++ le 8 s.fuse.deviceId.toNat)) ((r.drop 97).take 96)

/-- R508: the outcome of a response: 0 for success, otherwise the ST_LOCKED detail. The nonce is spent. -/
def response (r : List Byte) (id : Nat) (s : State) : Nat × State :=
  let s1 := s.withLcs fun x => { x with nonce := none }
  match s.validNonce with
  | none => (LockedBy.noNonce, s1)
  | some n =>
    if responseOk n r s then
      (0, s1.withLcs fun x => { x with attempts := 0, pendingReset := 6, pendingId := id })
    else (LockedBy.badResponse, s1)

/-- Checks of LCS_RESPONSE. -/
def lcsResponseChecks : Checks where
  params := fun d s =>
    [bufIs s 8 (d.u 8 2) .ready, rzb d 10 16, need (d.u 16 8 % 4 == 0) 16 Rsn.align, bufSpan s (d.u 8 2) (d.u 16 8) 193 16,
     rzb d 24 64]
  reads := fun d _ => [(d.u 8 2, d.u 16 8, 193)]

/-- LCS_RESPONSE (R508). -/
def execLcsResponse (slot : Nat) (s : State) : Host.Outcome State Fault Refusal :=
  runCmd 0x0F01 slot lcsResponseChecks (fun k d st =>
    let a := response (st.bufBytes (d.u 8 2) (d.u 16 8) 193) d.id st
    if a.1 = 0 then done k a.2 else locked k a.1 0 a.2) s

/-- NONCE_EXPIRY (R507). -/
def execNonceExpiry (s : State) : Host.Outcome State Fault Refusal :=
  if s.lcs.nonce.isSome && decide (s.lcs.nonceTime + 60 * 10 ^ 9 ≤ s.uptime) then
    .next (s.withLcs fun x => { x with nonce := none })
  else .next s

/-! ### OTP (R510, R511) -/

/-- R504, R510: the first fault of a record: reason and byte offset in the record. -/
def custRecordFault (r : List Byte) : Option (Nat × Nat) :=
  let bad := fun (ok : Bool) (off rsn : Nat) => if ok then none else some (rsn, off)
  firstOf
    [bad (numAt r 0 4 == 0x47435543) 0 Rsn.range, bad (byteAt r 4 == 1) 4 Rsn.range,
     bad ([1, 2, 4].contains (byteAt r 5)) 5 Rsn.range,
     bad (ddrOrgs.contains (byteAt r 6)) 6 Rsn.range, bad (rateMaxOk (byteAt r 7)) 7 Rsn.range,
     bad (numAt r 20 4 % 65536 == 0) 20 Rsn.range,
     ((List.range 180).find? fun i => byteAt r (72 + i) != 0).map fun i => (Rsn.reserved, 72 + i),
     bad (numAt r 252 4 == crc32 (r.take 252)) 252 Rsn.range]

/-- Checks of LCS_OTP_WRITE. -/
def lcsOtpWriteChecks : Checks where
  allowed := fun _ s => otpStates s
  selector := fun d _ => inR 8 (d.u 8 1) 1 2
  params := fun d s =>
    if d.u 8 1 = 1 then
      [rzb d 9 10, bufIs s 10 (d.u 10 2) .ready, rzb d 12 16, bufSpan s (d.u 10 2) (d.u 16 8) 256 16, rzb d 24 64]
    else [rzb d 9 64]
  reads := fun d _ => if d.u 8 1 = 1 then [(d.u 10 2, d.u 16 8, 256)] else []

/-- R510, R511: a record is burned into the lowest empty generation; whether the read-back passes is a free value. -/
def burnRecord (k : Nat) (r : List Byte) (s : State) : State :=
  let ok := s.freeNat 1 == 1
  let s1 := s.useFree.withLcs fun x => { x with records := x.records ++ [if ok then r else []] }
  if ok then doneWith k s1.lcs.records.length s1 else complete k St.hwFault 0x0F01 0 none s1

/-- LCS_OTP_WRITE (R500, R510). -/
def execLcsOtpWrite (slot : Nat) (s : State) : Host.Outcome State Fault Refusal :=
  runCmd 0x0F02 slot lcsOtpWriteChecks (fun k d st =>
    if d.u 8 1 = 2 then
      let s1 := st.withLcs fun x => { x with rollback := Nat.max x.rollback x.fwRollback }
      doneWith k s1.lcs.rollback s1
    else if st.lcs.state = 2 ∨ st.lcs.state = 4 then locked k LockedBy.lcState 0 st
    else
      let r := st.bufBytes (d.u 10 2) (d.u 16 8) 256
      match custRecordFault r with
      | some f => badImage k 16 f.1 f.2 st
      | none => if 4 ≤ st.lcs.records.length then locked k LockedBy.otpFull 0 st else burnRecord k r st) s

/-! ### The image push (R501, R502, R537) -/

/-- R501: the aperture accepts the next chunk (LCS.PUSH_STAT.READY). -/
def State.pushOpen (s : State) : Bool := s.lcs.pushReady && s.top.dev == .boot

/-- PUSH_APERTURE_WRITE (R537): a word at LCS offset 0x8_0000 + `off`. -/
def execPushApertureWrite (off : Nat) (v : Word) (s : State) : Host.Outcome State Fault Refusal :=
  if s.pushOpen && off % 4 == 0 && decide (off < 0x80000) then
    .next (s.withLcs fun x => { x with aperture := x.aperture.setBytes off (le 4 v.toNat) })
  else .next s

/-- Words of a chunk (LCS.PUSH_CTRL). -/
def chunkWords (v : Word) : Nat := bitsAt v.toNat 0 18

/-- R501: a chunk of the aperture is copied (a number of words outside LCS.PUSH_CTRL's range makes no chunk: DESIGN CHOICE, log 73); after the final one the whole image is verified. -/
def pushChunk (v : Word) (last : Bool) (s : State) : State :=
  if !s.pushOpen || chunkWords v == 0 || decide (131072 < chunkWords v) then s
  else
    s.withLcs fun x =>
      { x with
        image := x.image ++ x.aperture.bytes 0 (4 * chunkWords v)
        imageChunks := x.imageChunks + 1
        pushReady := !last, verifying := last }

/-- R502: a provisional record is accepted or rejected. -/
def pushRecord (v : Word) (s : State) : State :=
  let r := s.lcs.aperture.bytes 0 256
  if !s.pushOpen then s
  else if s.lcs.state ≤ 1 ∧ s.lcs.straps = 1 ∧ s.lcs.imageChunks = 0 ∧ chunkWords v = 64 ∧ recordValid r then
    s.withLcs fun x => { x with inForce := recordFields r, recProv := true, rejected := false }
  else s.withLcs fun x => { x with rejected := true }

/-- A write of LCS.PUSH_CTRL: PROV names a provisional record, LAST the final chunk. -/
def pushCtrl (v : Word) (s : State) : State :=
  if bitAt v.toNat 30 then pushRecord v s else pushChunk v (bitAt v.toNat 31) s

/-- PUSH_CHUNK (R501). -/
def execPushChunk (v : Word) (s : State) : Host.Outcome State Fault Refusal := .next (pushCtrl v s)

/-- PUSH_FINAL_CHUNK (R501): a write of LCS.PUSH_CTRL with LAST. -/
def execPushFinalChunk (v : Word) (s : State) : Host.Outcome State Fault Refusal := .next (pushCtrl (v ||| 0x80000000#32) s)

/-- PUSH_PROVISIONAL_RECORD (R502): a write of LCS.PUSH_CTRL with PROV. -/
def execPushProvisionalRecord (v : Word) (s : State) : Host.Outcome State Fault Refusal :=
  .next (pushCtrl (v ||| 0x40000000#32) s)

/-! ### JTAG (R512, R513) -/

/-- R512: the boundary-scan instructions, by the model's numbers: 0 BYPASS, 1 IDCODE, 2 SAMPLE/PRELOAD, 3 EXTEST, 4 CLAMP,
5 CORE_DEBUG. EXTEST and CLAMP decode as BYPASS outside RESET. -/
def tapDecode (instr : Nat) (s : State) : Nat :=
  if instr = 3 ∨ instr = 4 then (if s.top.dev = .reset then instr else 0)
  else if instr = 1 ∨ instr = 2 then instr else 0

/-- R512: IDCODE. -/
def State.idcode (s : State) : Nat := s.fuse.stepping.toNat * 2 ^ 28 + 0x4C39 * 2 ^ 12 + 0x53B * 2 + 1

/-- JTAG_BOUNDARY_SCAN (R512). IDCODE shifts the identification out. -/
def execJtagBoundaryScan (instr : Nat) (s : State) : Host.Outcome State Fault Refusal :=
  let t := tapDecode instr s
  let s1 := s.withLcs fun x => { x with tap := t }
  .next (if t = 1 then s1.emit (.jtag s.idcode) else s1)

/-- JTAG_CORE_DEBUG (R513). -/
def execJtagCoreDebug (s : State) : Host.Outcome State Fault Refusal :=
  .next (s.withLcs fun x => { x with tap := if x.debugOpen then 5 else 0 })

/-- JTAG_LCS_MAILBOX (R513): a challenge (none) or a response of 193 bytes. A challenge shifts the nonce out, a refusal its
detail. -/
def execJtagLcsMailbox (resp : Option (List Byte)) (s : State) : Host.Outcome State Fault Refusal :=
  if s.top.dev = .reset ∨ s.top.dev = .tripped then .next s
  else
    match resp with
    | none =>
      match s.lcs.challengeRefused with
      | some det => .next (s.emit (.jtag det))
      | none => .next ((challenge s).emit (.jtag (ofLe (drawNonce s))))
    | some r => .next ((response r 0 s).2.emit (.jtag (response r 0 s).1))

end Sys2Proof.Machine
end

