-- ==== Sys2Proof/Machine/ThmCmd.lean ====
section
/-! DEFINITION. The THM commands (R439, R448, R450, R454 to R456). -/

namespace Sys2Proof.Machine

/-- R439: trigger unit 15 is armed for the housekeeping rounds. -/
def armRounds (s : State) : State :=
  let ns := s.thm.roundMs * 10 ^ 6
  takeTrig 15 .housekeeping { t0 := s.time.now + ns, ns := ns } s

/-- R454: a threshold from its field. -/
def threshold (d : Slot) (off : Nat) : Option Int := if d.u off 2 = 0x7FFF then none else some (d.i off 2)

/-- R454: of the thresholds set, the one in a field must lie above an earlier one. -/
def aboveOne (d : Slot) (off low : Nat) : PF :=
  match threshold d off, threshold d low with
  | some a, some b => need (decide (b < a)) off Rsn.range
  | _, _ => none

/-- Parameters of THM_THRESHOLDS. -/
def thresholdParams (d : Slot) : List PF :=
  if d.u 8 1 = 0xFF then [rz 9 (d.u 9 1), inR 10 (d.u 10 2) 1 100, inR 12 (d.u 12 2) 0 10000, rzb d 14 64]
  else
    [rz 9 (d.u 9 1), aboveOne d 12 10, aboveOne d 14 12, aboveOne d 14 10,
     need (d.u 8 1 != 0 || decide (d.i 14 2 ≤ 115 * 16)) 14 Rsn.range,
     inR 18 (d.u 18 2) 16 320, inR 20 (d.u 20 1) 2 64, inR 21 (d.u 21 1) 1 20, rzb d 22 64]

/-- Checks of THM_THRESHOLDS. -/
def thmThresholdsChecks : Checks where
  allowed := fun _ s => timeStates s
  selector := fun d s => need (d.u 8 1 == 0xFF || (decide (d.u 8 1 < 16) && (s.zone (d.u 8 1)).defined)) 8 Rsn.range
  params := fun d _ => thresholdParams d

/-- R454: the zone with the thresholds of a descriptor; one no longer set is not crossed. -/
def Zone.configure (x : Zone) (d : Slot) : Zone :=
  let thr := [threshold d 10, threshold d 12, threshold d 14]
  { x with
    thr := thr, above := (List.range 3).map fun i => x.above.getD i false && (thr.getD i none).isSome
    rateLimit := d.u 16 2, hyst := d.u 18 2, dwell := d.u 20 1, margin := d.u 21 1 }

/-- THM_THRESHOLDS (R439, R454). -/
def execThmThresholds (slot : Nat) (s : State) : Host.Outcome State Fault Refusal :=
  runCmd 0x0D00 slot thmThresholdsChecks (fun k d st =>
    if d.u 8 1 = 0xFF then
      let s1 := st.withThm fun t => { t with roundMs := d.u 10 2, graceMs := d.u 12 2 }
      done k (if st.thm.roundMs = d.u 10 2 then s1 else armRounds s1)
    else done k (st.setZone (d.u 8 1) ((st.zone (d.u 8 1)).configure d))) s

/-- R441: a sensor code of the table "Zone sensor codes" for a zone of kind `kind`. -/
def zoneSensorOk (kind c : Nat) : Bool :=
  match c / 256 with
  | 1 => decide (c % 256 < 24)
  | 2 => decide (c % 256 < 4)
  | 3 => true
  | 4 => decide (c % 256 < 8)
  | 5 => c % 256 == 0 && (kind == 3 || kind == 4)
  | _ => false

/-- The sensor codes that a DEFINE names. -/
def zoneCodes (d : Slot) : List Nat := (List.range (Nat.min 16 (d.u 11 1))).map fun i => d.u (16 + 2 * i) 2

/-- Parameters of THM_ZONE_MAP. -/
def zoneMapParams (d : Slot) : List PF :=
  let kind := d.u 10 1
  let target := d.u 12 2
  let zone := inR 8 (d.u 8 1) 1 15
  if d.u 9 1 = 2 then [zone, rzb d 10 64]
  else
    [zone, inR 11 (d.u 11 1) 1 16, need (kind == 3 || (kind == 4 && decide (target < 4)) || target == 0) 12 Rsn.range,
     rzb d 14 16, rzb d 48 64] ++
    (List.range 16).map fun i =>
      if i < d.u 11 1 then need (zoneSensorOk kind (d.u (16 + 2 * i) 2)) (16 + 2 * i) Rsn.range
      else rz (16 + 2 * i) (d.u (16 + 2 * i) 2)

/-- R33, R441: the node's link or the DRAM channel of sensor code `c`, where the part lacks it. -/
def sensorMissing (p : Part) (c : Nat) : Option Nat :=
  if c / 256 = 3 then absent true (p.hasNode (c % 256)) (Cap.link (c % 256 / 8))
  else if c / 256 = 4 then absent (decide (c % 256 < 8)) (decide (c % 256 / 2 < p.ddrChannels)) (Cap.ddr (c % 256 / 2))
  else none

/-- R33, R455: a node's link or a DRAM channel that the part lacks. -/
def zoneAbsent (d : Slot) (s : State) : Option Nat :=
  if d.u 9 1 ≠ 1 then none else firstCap ((zoneCodes d).map (sensorMissing s.fuse.part))

/-- Checks of THM_ZONE_MAP. -/
def thmZoneMapChecks : Checks where
  fused := zoneAbsent
  allowed := fun _ s => timeStates s
  selector := fun d _ => firstOf [inR 9 (d.u 9 1) 1 2, if d.u 9 1 = 1 then inR 10 (d.u 10 1) 1 4 else none]
  params := fun d _ => zoneMapParams d

/-- R455: zone `z` afresh: level 0, no crossing. Its thresholds stay. -/
def Zone.afresh (x : Zone) : Zone :=
  { thr := x.thr, rateLimit := x.rateLimit, hyst := x.hyst, dwell := x.dwell, margin := x.margin }

/-- THM_ZONE_MAP (R441, R448, R455). -/
def execThmZoneMap (slot : Nat) (s : State) : Host.Outcome State Fault Refusal :=
  runCmd 0x0D01 slot thmZoneMapChecks (fun k d st =>
    let z := d.u 8 1
    let x := st.zone z
    if decide (0 < x.level) || x.stopped then resourceBusy k 0x0D01 st
    else if d.u 9 1 = 2 then done k (st.setZone z x.afresh)
    else
      let s1 := st.setZone z { x.afresh with
        defined := true, kind := d.u 10 1, target := d.u 12 2, sensors := (zoneCodes d).eraseDups }
      let codes := s1.zoneSensors z
      let s2 := codes.foldl (fun w c => w.setSensor c { w.sensor c with excluded := false }) s1
      let s3 := s2.setZone z { s2.zone z with holding := codes.filter fun c => (s2.sensor c).failed }
      done k (if s3.zoneLost z then startStop z false s3 else s3)) s

/-- Checks of THM_ACK. -/
def thmAckChecks : Checks where
  fused := fun d s => if d.u 8 1 = 1 then sensorMissing s.fuse.part (d.u 10 2) else none
  allowed := fun d s => timeStates s && !(d.u 8 1 == 2 && decide (d.u 9 1 < 16) && (s.zone (d.u 9 1)).above.getD 2 false)
  selector := fun d _ => inR 8 (d.u 8 1) 1 2
  params := fun d s =>
    let known := decide (d.u 9 1 < 16) && (s.zone (d.u 9 1)).defined
    [need known 9 Rsn.range,
     if d.u 8 1 = 1 then need (!known || (s.zoneSensors (d.u 9 1)).contains (d.u 10 2)) 10 Rsn.range else rz 10 (d.u 10 2),
     rzb d 12 64]

/-- R448: RELEASE_SENSOR: the sensor holds no level any more; one still failed is excluded. -/
def releaseSensor (code : Nat) (s : State) : State :=
  let x := s.sensor code
  let free := fun (z : Zone) => { z with holding := z.holding.filter (· != code) }
  if x.failed then
    let s1 := allZones.foldl (fun st z => st.setZone z (free (st.zone z))) (s.setSensor code { x with excluded := true })
    sensorEvent code 2 x.cause s1
  else s

/-- THM_ACK (R448, R450, R456). -/
def execThmAck (slot : Nat) (s : State) : Host.Outcome State Fault Refusal :=
  runCmd 0x0D02 slot thmAckChecks (fun k d st =>
    let z := d.u 9 1
    if d.u 8 1 = 2 then done k (clearStop z st)
    else
      let c := d.u 10 2
      if (st.sensor c).failed then doneWith k 1 (releaseSensor c st)
      else
        let x := st.zone z
        doneWith k 0 (st.setZone z { x with holding := x.holding.filter (· != c) })) s

end Sys2Proof.Machine
end

