-- ==== Sys2Proof/Machine/Lifecycle.lean ====
section
/-! DEFINITION. Resets, boot, READY, trips, FLR and the PCIe link (R20, R21, R39 to R46, R420, R451, R452, R490 to R505,
R525). -/

namespace Sys2Proof.Machine

/-! ### What a reset leaves (R24, R452, R494) -/

/-- R494, R495: everything outside OTP, the fuses and the always-on domain takes its Reset value. The queue of commands, what
has left the chip, the host's memory and the nodes of the chains are not part of the LZ9. -/
def volatileReset (s : State) : State :=
  { pending := s.pending, wall := s.wall, out := s.out, free := s.free, fuse := s.fuse, hostMem := s.hostMem, chain := s.chain
    lcs := { blank := s.lcs.blank, secured := s.lcs.secured, retired := s.lcs.retired, opened := s.lcs.opened
             attempts := s.lcs.attempts, records := s.lcs.records, rollback := s.lcs.rollback, straps := s.lcs.straps
             cause := s.lcs.cause, held := s.lcs.held, count := s.lcs.count, tap := s.lcs.tap }
    thm := { hotspot := s.thm.hotspot, trips := s.thm.trips } }

/-- R494: a reset of kind `cause`; `held` after the hold of R24. OPENED survives only kind OPEN. -/
def enterReset (cause : Nat) (held : Bool) (s : State) : State :=
  (volatileReset s).withLcs fun x =>
    { x with cause := cause, held := held, count := satAdd 65535 x.count 1, opened := cause == 6 }

/-- POWER_ON (R494): the always-on domain starts. -/
def execPowerOn (straps : BitVec 2) (s : State) : Host.Outcome State Fault Refusal :=
  let s1 := enterReset 1 false s
  .next { (s1.withLcs fun x => { x with count := 0, attempts := 0, straps := straps.toNat, tap := 0 }) with thm := {} }

/-- PORST_ASSERT (R21, R24, R494). -/
def execPorstAssert (straps : BitVec 2) (s : State) : Host.Outcome State Fault Refusal :=
  if s.top.dev = .tripped then .next s
  else .next ((enterReset 2 false s).withLcs fun x => { x with straps := straps.toNat })

/-- SYSRST_ASSERT (R21, R24, R494). -/
def execSysrstAssert (s : State) : Host.Outcome State Fault Refusal :=
  if s.top.dev = .tripped then .next s else .next (enterReset 3 false s)

/-- INTERNAL_RESET (R493, R506, R508): the reset that a command has asked for, once its completion record is written. -/
def execInternalReset (s : State) : Host.Outcome State Fault Refusal :=
  if s.lcs.pendingReset == 0 || s.recordWaits s.lcs.pendingId then .next s
  else .next (enterReset s.lcs.pendingReset false (s.emit .sysrst))

/-- TRIP_HOLD_EXPIRY (R21, R24, R452): the die has stayed below 95 °C for 30 s; no sooner than 30 s after the trip. -/
def execTripHoldExpiry (s : State) : Host.Outcome State Fault Refusal :=
  if s.top.dev = .tripped ∧ 30 * 10 ^ 9 ≤ s.uptime then .next (enterReset 4 true s) else .next s

/-! ### Boot (R420, R496 to R505) -/

/-- R496, R497: the boot ROM turns to the SPI NOR: SFDP at 25 MHz, then the image of slot A at 100 MHz, with 1-1-4 fast reads. -/
def readSlotA (s : State) : State :=
  if s.lcs.straps = 1 ∨ s.lcs.retired = true then s else (s.emit (.spiSfdp 25000)).emit (.spiRead 0 100000)

/-- RESET_RELEASE (R21, R29, R495, R496, R505, R512): the fuses and OTP are read; mode HOST waits for a push at once. -/
def execResetRelease (parityOk : Bool) (s : State) : Host.Outcome State Fault Refusal :=
  if s.top.dev ≠ .reset then .next s
  else
    let s1 := loadRecord { s with uptime := 0, top := { s.top with dev := .boot, prev := .reset, cause := .none } }
    let wait := parityOk && s.lcs.straps == 1 && !s.lcs.retired
    let s2 := s1.withLcs fun x =>
      { x with waitPush := wait, pushReady := wait, tap := if x.tap = 3 ∨ x.tap = 4 then 0 else x.tap }
    .next (if parityOk then readSlotA s2 else enterFault .fatalBlock [BitVec.ofNat 8 Src.lcs] s2)

/-- R499: the result code of an image (LCS.BOOT_STAT): 1 passed, otherwise the first check that failed. -/
def imageResult (rollback : Nat) (img : List Byte) : Nat :=
  let size := numAt img 8 4
  let key := (img.drop 32).take 97
  let payload := (img.drop 256).take size
  if !(numAt img 0 4 == 0x4D495A4C && byteAt img 4 == 1 && size % 256 == 0 && decide (256 ≤ size) &&
      decide (size ≤ 4 * 2 ^ 20) && decide (256 + size ≤ img.length)) then 2
  else if !(decide (byteAt img 5 ≤ 2) && Config.sha384 key == Config.imageKeyHash (byteAt img 5)) then 3
  else if !Config.ecdsaOk key (Config.sha384 (img.take 160 ++ payload)) ((img.drop 160).take 96) then 4
  else if byteAt img 16 < rollback then 5
  else 1

/-- R496: the boot source whose image is verified next: 1 slot A, 2 slot B, 3 host push. -/
def Lcs.nextSource (x : Lcs) : Option Nat :=
  if x.retired || x.imageOk then none
  else if x.verifying then some 3
  else if x.straps ≠ 1 ∧ x.slotA = 0 then some 1
  else if x.straps ≠ 1 ∧ x.slotB = 0 then some 2
  else none

/-- The channels that the part has. -/
def State.partChans (s : State) : List Nat := List.range s.fuse.part.ddrChannels

/-- R499, R420: the firmware runs, and the channels begin boot training. -/
def startFirmware (src : Nat) (img : List Byte) (s : State) : State :=
  let s1 := s.withLcs fun x =>
    { x with source := src, imageOk := true, waitPush := false, pushReady := false, verifying := false
             fwVersion := numAt img 12 4, fwRollback := byteAt img 16 }
  s1.partChans.foldl (fun st c => st.setDdr c { state := .training }) s1

/-- The result of source `src`. -/
def noteResult (src r : Nat) (s : State) : State :=
  s.withLcs fun x => if src = 1 then { x with slotA := r } else if src = 2 then { x with slotB := r } else { x with pushed := r }

/-- R496, R497: the image of source `src` has failed; after slot A slot B is read. -/
def imageFailed (src : Nat) (s : State) : State :=
  if src = 1 then s.emit (.spiRead s.lcs.inForce.slotB 100000)
  else if src = 2 ∧ s.lcs.straps = 0 then s.withLcs fun x => { x with waitPush := true, pushReady := true }
  else enterFault .imageRejected [] (s.withLcs fun x => { x with verifying := false, waitPush := false })

/-- BOOT_IMAGE_VERIFIED (R496, R499): the image of the next source, `image` where it lies in the SPI device. -/
def execBootImageVerified (image : List Byte) (s : State) : Host.Outcome State Fault Refusal :=
  match (if s.top.dev = .boot then s.lcs.nextSource else none) with
  | none => .next s
  | some src =>
    let img := if src = 3 then s.lcs.image else image
    let r := imageResult s.lcs.rollback img
    let s1 := noteResult src r s
    .next (if r = 1 then startFirmware src img s1 else imageFailed src s1)

/-- A channel is still training. -/
def State.trainingLeft (s : State) : Bool := s.partChans.any fun c => (s.ddr c).state == .training

/-- BOOT_DDR_TRAINED (R420): the boot training of channel `ch` ends. -/
def execBootDdrTrained (ch : Nat) (eyes : List Nat) (temp : Int) (s : State) : Host.Outcome State Fault Refusal :=
  if s.top.dev ≠ .boot ∨ (s.ddr ch).state ≠ .training then .next s
  else
    let s1 := bootTrain ch eyes temp s
    .next (if s1.trainingLeft || !s1.mapChans.isEmpty then s1 else memFatal s1)

/-- R503: DATA of READY. -/
def readyData (s : State) : List Byte :=
  let lost := s.partChans.any fun c => !(s.ddr c).inMap
  le 1 1 ++ le 1 2 ++ le 1 0 ++ le 1 (s.lcs.cause + 16 * b2n s.lcs.held) ++ le 1 s.lcs.source ++ le 1 s.lcs.state ++
    le 1 (if s.lcs.recProv then 0xFF else s.lcs.recGen) ++
    le 1 (b2n (decide (s.lcs.rollback < s.lcs.fwRollback)) + 2 * b2n lost) ++ le 4 s.lcs.fwVersion ++
    le 2 (Nat.min 65535 (s.uptime / 10 ^ 6)) ++ le 1 ((s.mapChans.map fun c => 2 ^ c).foldl (· + ·) 0)

/-- R44, R75: the CMD registers at READY: the Init values of the rings. -/
def initRings (s : State) : State :=
  (List.range 8).foldl (fun st n => st.setCpl n { vector := 2 + n }) (s.setEvt { log2 := 6, vector := 1 })

/-- R9: the Init values that firmware gives at READY. -/
def initRegisters (s : State) : State :=
  let s1 := initRings s
  armRounds { s1 with
    mem := { s1.mem with budget := 60 * s.mapChans.length }
    time := { s1.time with ports := [(0, { mac := s.lcs.inForce.mac0 }), (1, { mac := s.lcs.inForce.mac1 })] } }

/-- READY (R21, R420, R495, R503): DRAM is wiped and the device state becomes IDLE. READY is the first event. -/
def execReady (s : State) : Host.Outcome State Fault Refusal :=
  if s.top.dev ≠ .boot ∨ s.lcs.imageOk = false ∨ s.trainingLeft = true ∨ s.mapChans = [] then .next s
  else
    let s1 := initRegisters { s with
      dram := [], poison := [], top := { s.top with dev := .idle, prev := .boot, cause := .none } }
    .next (s1.partChans.foldl bootChanEvent (raise Src.top 0x0002 (readyData s) s1))

/-! ### Faults of the device (R12, R20, R451) -/

/-- WATCHDOG_EXPIRY (R12): in BOOT the control cores run firmware only once an image has passed. -/
def execWatchdogExpiry (s : State) : Host.Outcome State Fault Refusal :=
  if s.top.dev = .boot ∧ s.lcs.imageOk = false then .next s else .next (enterFault .watchdog [] s)

/-- R43: the host cannot be reached. -/
def pcieGone (s : State) : State := enterHalter .pcieDown s

/-- The LZ9 has lost its link. -/
def linkLost (s : State) : State := pcieGone { s with pcie := { s.pcie with linkUp := false } }

/-- What leaves on a Rein link. -/
def Out.isRein : Out → Bool
  | .reinBlock _ _ | .reinFrame _ _ => true
  | _ => false

/-- CLOCK_FAULT (R20): 0 REFCLK, 1 SERDES_REFCLK, with which nothing leaves on the Rein links, 2 PCIE_REFCLK. -/
def execClockFault (ref : Nat) (s : State) : Host.Outcome State Fault Refusal :=
  if s.top.dev = .reset ∨ s.top.dev = .tripped ∨ 2 < ref then .next s
  else if ref = 2 then .next (linkLost s)
  else
    let s1 := enterFault .clockLoss [] s
    .next (if ref = 1 then { s1 with out := s.out ++ (s1.out.drop s.out.length).filter fun o => !o.isRein } else s1)

/-- R524: the trigger outputs and their inactive levels. -/
def State.tripPins (s : State) : List (Nat × Bool) :=
  (s.time.trigs.filter fun e => e.2.pin != 0xFF).map fun e => (e.2.pin, e.2.level false)

/-- R354, R524: the step outputs configured and the level of SDk_EN that disables each. -/
def State.tripEn (s : State) : List (Nat × Bool) :=
  (s.axis.axes.filter fun e => e.2.cfg.given && !e.2.cfg.bus).map fun e => (e.2.cfg.index, e.2.cfg.enLow)

/-- R524: every trigger output and every drive enable goes to its inactive level. -/
def pinsInactive (s : State) : State :=
  let s1 := s.tripPins.foldl (fun st e => st.emit (.pin e.1 e.2)) s
  s.tripEn.foldl (fun st e => st.emit (.stepEnable e.1 e.2)) s1

/-- DIE_TRIP (R21, R451, R452): the hotspot, in 1/16 °C, is kept in the always-on domain. TRIPPED is reached at once, within the 25 µs of
R451, and `uptime` counts from it; the HALTER blocks of step 3 leave as time passes. -/
def execDieTrip (hotspot : Int) (s : State) : Host.Outcome State Fault Refusal :=
  if s.top.dev = .reset ∨ s.top.dev = .tripped then .next s
  else
    let s1 := volatileReset (pinsInactive (strobesOff s))
    .next { s1 with
      top := { s1.top with dev := .tripped, prev := s.top.dev, cause := .thermalTrip }
      thm := { s1.thm with
        hotspot := hotspot, trips := satAdd 255 s1.thm.trips 1
        tripLinks := s.claimedLinks.map fun l => (l, (s.link l).claim), tripPins := s.tripPins, tripEn := s.tripEn } }

/-! ### Function-level reset (R43, R44) -/

/-- R44 item 2: ARMED and RUN become HALTER; in HALTER and FAULT the outputs stay in Halter; every motion command ends. -/
def flrHalt (s : State) : State :=
  if s.top.dev = .armed ∨ s.top.dev = .run then enterHalter .flr s else haltAxes .flr s

/-- The PCIe function after an FLR. What AER has logged is kept, as PCIe keeps it (PRESUMED, log 61), and so is the reply to the
latest read, which is the host's. -/
def Pcie.reset (p : Pcie) : Pcie :=
  { linkUp := p.linkUp, aerUr := p.aerUr, aerPoison := p.aerPoison, aerEcrc := p.aerEcrc, aerTimeout := p.aerTimeout
    reply := p.reply, latches := p.latches }

/-- R44 items 1, 3, 5 and 6: the CMD registers, the PCIe function and the buffer table after an FLR. -/
def flrClear (s : State) : State :=
  let s1 := (s.cmd.pulls.map (·.1)).foldl (fun st k => releaseRate k st) s
  initRings { s1 with
    cmd := { hostBase := s.cmd.hostBase, hostSize := s.cmd.hostSize, nextId := s.cmd.nextId, backlog := s.cmd.backlog
             evtSeq := s.cmd.evtSeq, masked := s.cmd.masked }
    pcie := { s.pcie.reset with wiping := true }
    dram := s.dram.wipe 0 s.windowSize
    poison := s.poison.filter fun e => decide (s.windowSize ≤ 64 * e.1)
    rein := { s1.rein with transfers := [], enums := [], ups := [] }
    mem := { s1.mem with retrains := [] }
    axis := { s1.axis with stops := [] }
    frames := { s1.frames with recs := [], hitch := [] }
    cal := { s1.cal with clears := [] } }

/-- R44 item 4, R163: the job is closed and the scan stopped. -/
def flrClose (s : State) : State :=
  let s1 := if s.prn.job.isOpen then closeJob 0 s.lastDelivered .flr s else s
  if s1.scanning then
    let f := s1.freeNat 32
    (raise Src.scan 0x0002 (le 1 0 ++ le 4 f) (scanGone (endLfRuns s1))).useFree
  else s1

/-- R393: FLR disarms the units held by HOST. -/
def flrTriggers (s : State) : State :=
  (List.range 16).foldl (fun st u =>
    let x := st.trig u
    let st1 := if x.holder = .host then freeTrig u st else st
    match x.saved with
    | some (.host, _) => st1.setTrig u { st1.trig u with saved := none }
    | _ => st1) s

/-- R44: a function-level reset. In BOOT it resets the PCIe function only. -/
def functionReset (s : State) : State :=
  match s.top.dev with
  | .reset | .tripped => s
  | .boot => { s with pcie := s.pcie.reset }
  | .idle | .armed | .run | .halter | .fault =>
    flrTriggers (flrClose (flrClear (flrHalt { s with pcie := { s.pcie with bme := false } })))

/-- FLR (R44). -/
def execFlr (s : State) : Host.Outcome State Fault Refusal := .next (functionReset s)

/-- HOT_RESET (R43). -/
def execHotReset (s : State) : Host.Outcome State Fault Refusal := .next (functionReset s)

/-- FLR_WIPE_DONE (R44): BAR accesses are accepted again. -/
def execFlrWipeDone (s : State) : Host.Outcome State Fault Refusal :=
  .next { s with pcie := { s.pcie with wiping := false } }

/-! ### The PCIe link (R42, R43) -/

/-- The PCIe function is alive. -/
def State.pcieAlive (s : State) : Bool := s.top.dev != .reset && s.top.dev != .tripped

/-- PCIE_LINK_DOWN (R43). -/
def execPcieLinkDown (s : State) : Host.Outcome State Fault Refusal := .next (if s.pcieAlive then linkLost s else s)

/-- D3HOT_ENTRY (R43). -/
def execD3hotEntry (s : State) : Host.Outcome State Fault Refusal :=
  .next (if s.pcieAlive then pcieGone { s with pcie := { s.pcie with d3hot := true } } else s)

/-- PCIE_LINK_UP (R494): requests can flow again. -/
def execPcieLinkUp (s : State) : Host.Outcome State Fault Refusal :=
  .next (if s.pcieAlive then resumeRequests { s with pcie := { s.pcie with linkUp := true, d3hot := false } } else s)

/-- What configuration requests find fixed in the function (R39). -/
structure PcieIdentity where
  vendor : Nat
  device : Nat
  subsystem : Nat
  serial : BitVec 64
  functions : Nat
  bar0Size : Nat
  bar2Size : Nat
  vectors : Nat
  tableOff : Nat
  pbaOff : Nat
  payloadMax : Nat
  interruptPin : Nat
  deriving DecidableEq, Repr

/-- R39: identity, BARs, MSI-X and payload of the function; the table and pending bits of MSI-X lie in block CMD of BAR0. -/
def State.pcieIdentity (s : State) : PcieIdentity :=
  { vendor := 0x1F6A, device := 0x4C39, subsystem := s.fuse.part.code, serial := s.fuse.deviceId, functions := 1
    bar0Size := 16 * 2 ^ 20, bar2Size := s.windowSize, vectors := 64, tableOff := 0x00108000, pbaOff := 0x00109000
    payloadMax := 512, interruptPin := 0 }

/-! ### BAR accesses (R40, R41, R45, R46) -/

/-- BAR0_BAD_ACCESS (R40). -/
def execBar0BadAccess (write : Bool) (s : State) : Host.Outcome State Fault Refusal :=
  if !s.pcieAlive || s.pcie.wiping then .next s
  else .next { s with pcie := { s.pcie with aerUr := true, reply := if write then s.pcie.reply else .unsupported } }

/-- R45: the host may write this byte of the exchange window. -/
def windowWritable (a : Nat) : Bool := decide (a < 0x200000) || decide (0x400000 ≤ a)

/-- The runs of writable bytes of a write: those below the buffer table, and those in the data area. -/
def writableRuns (a : Nat) (bs : List Byte) : List (Nat × List Byte) :=
  [(a, bs.take (0x200000 - a)), (Nat.max a 0x400000, bs.drop (0x400000 - a))]

/-- BAR2_WRITE (R41, R45, R46). -/
def execBar2Write (offset : Nat) (bytes : List Byte) (s : State) : Host.Outcome State Fault Refusal :=
  if !s.blocksAnswer then .next s
  else if s.windowSize < offset + bytes.length then .fault .noAddress
  else
    let s1 := (writableRuns offset bytes).foldl (fun st r => if r.2.isEmpty then st else dramStore r.1 r.2 st) s
    let clipped := (List.range bytes.length).any fun i => !windowWritable (offset + i)
    .next (if clipped then { s1 with cmd := { s1.cmd with winDrop := satAdd 65535 s1.cmd.winDrop 1 } } else s1)

/-- R67: a buffer table entry. -/
def BufEntry.bytes (b : BufEntry) : List Byte :=
  let st : Nat := match b.state with | .free => 0 | .filling => 1 | .ready => 2 | .releasePending => 3
  le 8 b.base ++ le 8 b.size ++ le 4 (st + 4 * b2n b.lz9 + 8 * b2n b.crcEn) ++ le 4 b.gen.toNat ++ le 4 b.pins ++ le 4 b.crc ++
    le 4 b.lastPin.toNat ++ le 28 0

/-- R45: what BAR2 reads at a byte of the exchange window. -/
def windowByte (s : State) (a : Nat) : Byte :=
  if windowWritable a then s.dram.byte a
  else if a < 0x240000 then ((s.buf ((a - 0x200000) / 64)).bytes).getD (a % 64) 0
  else 0

/-- R413: a host read has met the poisoned bursts listed: each is counted and reported. -/
def notePoison (bursts : Tab Bool) (s : State) : State :=
  bursts.foldl (fun st e => noteUncorrectable ((st.chanOf (64 * e.1)).getD 0) 50 e.1 1 st) s

/-- BAR2_READ (R41, R45, R413): a read that meets poisoned data is answered with the poisoned bit set. -/
def execBar2Read (offset len : Nat) (s : State) : Host.Outcome State Fault Refusal :=
  if !s.blocksAnswer then .next s
  else if s.windowSize < offset + len then .fault .noAddress
  else
    let bs := (List.range len).map fun i => windowByte s (offset + i)
    .next (notePoison (s.poison.filter fun e => decide (64 * e.1 < offset + len) && decide (offset < 64 * e.1 + 64))
      { s with pcie := { s.pcie with reply := .bar2 offset bs (s.poisoned offset len) } })

/-! ### Head-power enables (R525) -/

/-- The HPEN balls of the package. -/
def State.hpenBalls (s : State) : Nat := if s.fuse.part.pkgA then 16 else 8

/-- R525: the levels at the HPEN balls. -/
def State.hpenLevel (s : State) : Nat :=
  match s.top.dev with
  | .idle | .armed | .run | .halter | .fault => s.top.hpen
  | .reset | .boot | .tripped => 0

/-- TOP answers (R533). -/
def State.topAnswers (s : State) : Bool := s.pcieAlive && !s.pcie.wiping

/-- HPEN_CTRL_WRITE (R525); a RETIRED LZ9 answers no write (R505). -/
def execHpenCtrlWrite (v : Word) (s : State) : Host.Outcome State Fault Refusal :=
  if s.topAnswers && !s.lcs.retired then .next { s with top := { s.top with hpen := v.toNat % 2 ^ s.hpenBalls } } else .next s

end Sys2Proof.Machine
end

