-- ==== Sys2Proof/Machine/CalCmd.lean ====
section
/-! DEFINITION. The CAL commands: CAL_TARGETS, CAL_RUN, CAL_POLICY and CAL_QUERY (R345 to R348, R330, R334, R346, R481). -/

namespace Sys2Proof.Machine

/-! ### CAL_ID (R323) -/

/-- The slot that a descriptor's CAL_ID names. -/
def Slot.calSlot (d : Slot) : Option Nat := Sys2Proof.Machine.calSlot (d.u 8 2)

/-- The slot that a descriptor's CAL_ID names, 0 where it names none. -/
def Slot.cal (d : Slot) : Nat := d.calSlot.getD 0

/-- R323: the CAL_ID is in the table. -/
def calIdKnown (d : Slot) : PF := need d.calSlot.isSome 8 Rsn.range

/-- R323, R345: the mode of the kind that a descriptor names. -/
def calModeOf (d : Slot) (_ : State) : Mode := match d.calSlot with
  | some n => calMode n
  | none => .none

/-- R33, R323: the instance is absent on the part. -/
def calMissing (d : Slot) (s : State) : Option Nat :=
  match d.calSlot with
  | none => none
  | some n =>
    if n < 5 then none
    else if n < 9 then absent true (decide (n - 5 < s.fuse.part.ddrChannels)) (Cap.ddr (n - 5))
    else if n < 41 then absent true (s.fuse.part.hasLink (n - 9)) (Cap.link (n - 9))
    else none

/-! ### CAL_TARGETS (R345) -/

/-- A rectangle lies in the stream's frame; any does while the stream has none. -/
def inFrame (x : CamStream) (r : CalRec) : Bool :=
  let q := recRect r
  !x.set || (decide (q.1 + q.2.2.1 ≤ x.width) && decide (q.2.1 + q.2.2.2 ≤ x.height))

/-- R345, R541: the first fault of a record, from its own start. Bytes that must be zero are reserved (DEDUCED, log 61). -/
def recFault (t : CalTargets) (x : CamStream) (r : CalRec) : PF :=
  let bad := fun (ok : Bool) (off : Nat) => need ok off Rsn.range
  let zero := fun (off n : Nat) => rz off (recU r off n)
  let rect := bad (inFrame x r) 4
  firstOf (match recU r 0 1 with
    | 1 => [bad (recU r 1 1 < 16) 1, bad (1 ≤ recU r 2 1 && recU r 2 1 ≤ t.u 36 1) 2, zero 3 1, rect]
    | 2 => [zero 1 3, rect, zero 12 4]
    | 3 => [zero 1 1, rect]
    | 4 => [bad (recU r 1 1 < 3) 1, bad ([0, 6, 12].contains (recU r 2 1)) 2, zero 3 1]
    | 5 => [bad (recU r 1 1 / 16 < t.copies) 1, rect]
    | 6 => [bad (recU r 1 1 % 16 == 0 && recU r 1 1 / 16 < t.copies) 1, rect]
    | 7 => [zero 1 3, bad (recU r 12 4 != 0) 12]
    | _ => [some (0, Rsn.range)])

/-- R345, R541: the bytes of the header from `a` up to `b` are reserved. -/
def headZero (t : CalTargets) (a b : Nat) : PF :=
  ((List.range (b - a)).find? fun i => t.u (a + i) 1 != 0).map fun i => (a + i, Rsn.reserved)

/-- R345, R541: the first fault of the kind section. -/
def kindFault (n : Nat) (t : CalTargets) : PF :=
  let bad := fun (ok : Bool) (off : Nat) => need ok off Rsn.range
  let chans := fun (f : Nat → Bool) => firstOf ((List.range 16).map fun i => bad (f (t.u (40 + i) 1)) (40 + i))
  firstOf (match n with
    | 0 => [bad (1 ≤ t.u 36 1 && t.u 36 1 ≤ 16) 36, headZero t 37 40,
            chans fun v => v < 32 && v % 8 < t.copies && v / 8 < 3, headZero t 56 64]
    | 1 => [bad (t.u 36 1 % 2 == 1 && 5 ≤ t.u 36 1 && t.u 36 1 ≤ 63) 36, bad (1 ≤ t.u 37 1 && t.u 37 1 ≤ 3) 37,
            bad (2 * t.u 36 1 ≤ t.u 40 2) 40, bad (1 ≤ t.u 44 1 && t.u 44 1 ≤ 8) 44, headZero t 45 64]
    | 2 => [bad (t.u 36 1 < 16 || t.u 36 1 == 0xFF) 36, headZero t 37 38, chans fun v => v < 16 || v == 0xFF, headZero t 60 64]
    | _ => [bad (t.u 16 1 < 4) 16, bad (1 ≤ t.u 17 1 && t.u 17 1 ≤ 8) 17, bad (1 ≤ t.u 18 2 && t.u 18 2 ≤ 60000) 18,
            headZero t 30 64])

/-- R345: a required record is missing. -/
def recordsMissing (n : Nat) (t : CalTargets) : Bool :=
  let patched := (List.range 16).filter fun c => (t.ofType 1).any fun r => recU r 1 1 == c
  match n with
  | 0 =>
    (t.ofType 2).length != 1 || (t.ofType 3).isEmpty ||
      [0, 1, 2].any (fun row => !(t.ofType 4).any fun r => recU r 1 1 == row) ||
      patched.any fun c => (List.range (t.u 36 1)).any fun k => !(t.ofType 1).any fun r => recU r 1 1 == c && recU r 2 1 == k + 1
  | 1 => (t.ofType 2).isEmpty
  | 2 => (t.mark (t.u 36 1)).isNone
  | _ => (t.ofType 7).isEmpty

/-- R345, R541: the byte offset of the first faulty field of an image for slot `n` and the reason, none where the layout holds.
`room` is the bytes that the buffer has from the image on. -/
def targetsFault (n : Nat) (t : CalTargets) (x : CamStream) (room : Nat) : PF :=
  let bad := fun (ok : Bool) (off : Nat) => need ok off Rsn.range
  let k := t.ctxs.length
  let own := if n = 0 ∨ n = 2 then decide (1 ≤ t.copies) && decide (t.copies ≤ 6) else t.copies == 1
  let recs := (t.recs.zipIdx.findSome? fun e => (recFault t x e.1).map fun f => (64 + 16 * e.2 + f.1, f.2))
  firstOf [bad (64 ≤ room && t.u 0 4 == 0x54475443) 0, bad (t.u 4 1 == 1) 4, bad (t.u 5 1 == n + 1) 5,
    bad (t.u 6 2 ≤ 1024 && decide (64 + 16 * t.u 6 2 ≤ room) && !recordsMissing n t) 6, bad (t.stream < 8) 8,
    bad (1 ≤ k) 9, bad (own && t.copies == k && (!x.set || t.copies == x.strobeCount)) 10,
    if n < 3 then bad (t.u 11 1 < 2) 11 else rz 11 (t.u 11 1), headZero t 12 16, kindFault n t, recs]

/-- The image at an offset of a buffer. -/
def State.targetsAt (s : State) (h off : Nat) : CalTargets :=
  let b := s.bufBytes h off 64
  let t : CalTargets := { head := BitVec.ofNat 512 (ofLe b) }
  { t with recs := (List.range (Nat.min 1024 (t.u 6 2))).map fun i =>
      BitVec.ofNat 128 (ofLe (s.bufBytes h (off + 64 + 16 * i) 16)) }

/-- Checks of CAL_TARGETS. -/
def calTargetsChecks : Checks where
  mode := calModeOf
  fused := calMissing
  params := fun d s =>
    [need (d.calSlot.any (· < 5)) 8 Rsn.range, bufIs s 10 (d.u 10 2) .ready, rzb d 12 16,
     need (d.u 16 8 % 4 == 0) 16 Rsn.align, need (decide (d.u 16 8 ≤ (s.buf (d.u 10 2)).size)) 16 Rsn.range, rzb d 24 64]
  reads := fun d s =>
    let t := s.targetsAt (d.u 10 2) (d.u 16 8)
    [(d.u 10 2, d.u 16 8, Nat.min ((s.buf (d.u 10 2)).size - d.u 16 8) (64 + 16 * t.recs.length))]

/-- CAL_TARGETS (R345). -/
def execCalTargets (slot : Nat) (s : State) : Host.Outcome State Fault Refusal :=
  runCmd 0x0900 slot calTargetsChecks (fun k d st =>
    let n := d.cal
    if (st.calInst n).state ≠ .idle then resourceBusy k 0x0901 st
    else
      let t := st.targetsAt (d.u 10 2) (d.u 16 8)
      match targetsFault n t (st.stream t.stream) ((st.buf (d.u 10 2)).size - d.u 16 8) with
      | some f => badImage k 16 f.2 f.1 st
      | none => done k (st.updCal n fun x => { x with targets := some t })) s

/-! ### CAL_RUN (R347) -/

/-- Checks of CAL_RUN. -/
def calRunChecks : Checks where
  mode := calModeOf
  fused := calMissing
  selector := fun d _ => inR 10 (d.u 10 1) 1 2
  params := fun d _ =>
    [calIdKnown d, need (d.u 10 1 == 1 || d.cal == 1) 10 Rsn.range, rz 11 (d.u 11 1),
     if d.u 10 1 = 2 then none else rz 12 (d.u 12 2), rzb d 14 64]

/-- R347: a RUN for slot `n` by the command in slot `k`: it joins, starts a run, or is refused. -/
def requestRun (n : Nat) (k id : Nat) (s : State) : Option State :=
  let x := s.calInst n
  if x.state ≠ .idle then some (s.setCal n { x with waiters := x.waiters ++ [(k, id)] })
  else if x.pend.isSome then some (s.setCal n { x with pendWaiters := x.pendWaiters ++ [(k, id)] })
  else if s.calReady n && (decide (5 ≤ n) || x.targets.isSome) then some (startRun n 1 [(k, id)] s)
  else none

/-- CAL_RUN (R325, R337, R347). -/
def execCalRun (slot : Nat) (s : State) : Host.Outcome State Fault Refusal :=
  runCmd 0x0901 slot calRunChecks (fun k d st =>
    if d.u 10 1 = 2 then
      let s1 := st.withCal fun c => { c with clears := c.clears ++ [(k, d.id, d.u 12 2)] }
      tryClears s1.cal.clears s1
    else (requestRun d.cal k d.id st).getD (wrongState k st)) s

/-! ### CAL_POLICY (R334, R346, R481) -/

/-- R324: the SENSOR code is one of the table. -/
def sensorCode (c : Nat) : Bool :=
  match c / 256 with
  | 1 => c % 256 < 24
  | 2 => c % 256 < 4
  | 3 => true
  | 5 => c % 256 == 0
  | 6 => c % 256 == 0
  | _ => false

/-- R346: parameters of CAL_POLICY. -/
def calPolicyParams (d : Slot) : List PF :=
  let n := d.cal
  let flags := d.u 10 1
  let loop := n == 0 || n == 2
  let dflt := bitAt flags 3
  [calIdKnown d, need (flags < 16) 10 Rsn.reserved, rz 11 (d.u 11 1)] ++
    (if dflt then
      [need (bitsAt flags 1 2 == 0) 10 Rsn.reserved] ++
        ([(12, 4), (16, 2), (18, 2), (20, 4), (24, 2), (26, 2), (28, 2), (30, 1), (31, 1), (32, 2), (34, 2)].map fun f =>
          rz f.1 (d.u f.1 f.2))
    else
      [inR 12 (d.u 12 4) 1 1000000, inR 16 (d.u 16 2) 1 1600, need (sensorCode (d.u 18 2)) 18 Rsn.range,
       inR 20 (d.u 20 4) 1 3600000, fieldIf (n == 0) 28 (d.u 28 2) 0 65535, fieldIf loop 30 (d.u 30 1) 1 255,
       fieldIf (n == 2) 31 (d.u 31 1) 1 64, fieldIf (n == 0) 32 (d.u 32 2) 1 65535,
       fieldIf (n == 1 || n == 2) 34 (d.u 34 2) 0 65535]) ++ [rzb d 36 64]

/-- R33, R346: the instance that CAL_ID names, or the node that SENSOR names, where the part lacks it. -/
def policyMissing (d : Slot) (s : State) : Option Nat :=
  let c := d.u 18 2
  firstCap [calMissing d s,
    if c / 256 = 3 then absent true (s.fuse.part.hasNode (c % 256)) (Cap.link (c % 256 / 8)) else none]

/-- Checks of CAL_POLICY. -/
def calPolicyChecks : Checks where
  mode := calModeOf
  fused := policyMissing
  params := fun d _ => calPolicyParams d

/-- The policy of a descriptor. -/
def policyOf (d : Slot) : CalPolicy :=
  let flags := d.u 10 1
  if bitAt flags 3 then { initPolicy d.cal with enable := bitAt flags 0 }
  else
    { enable := bitAt flags 0, periodic := bitAt flags 1, temperature := bitAt flags 2, period := d.u 12 4, dt := d.u 16 2
      sensor := d.u 18 2, timeoutMs := d.u 20 4, qualLimit := d.u 24 2, staleLimit := d.u 26 2, chMask := d.u 28 2
      gain := d.u 30 1, slewRate := d.u 31 1, maxStep := d.u 32 2, barMask := d.u 34 2 }

/-- The trigger unit of a print kind. -/
def State.calUnit (s : State) (n : Nat) : Nat := (s.stream (s.calT n).stream).trigger

/-- R346: the exposures of slots `a` and `b`, of one stream, come closer than MIN_SPACING_US of `a` at the highest rate. -/
def State.tooClose (s : State) (a b : Nat) : Bool :=
  let lines := fun (n : Nat) => (List.range (s.calT n).copies).map (s.calT n).copyLine
  let period : Int := Int.ofNat s.prn.job.frameLines
  let gap := fun (x y : Int) =>
    if s.prn.job.isOpen ∧ 0 < period then
      let m := Int.emod (x - y) period
      (min m (period - m)).natAbs
    else (x - y).natAbs
  let limit := (s.calT a).u 34 2
  (lines a).any fun x => (lines b).any fun y => decide (gap x y * 10 ^ 6 < limit * s.maxLineRate)

/-- R346, R478: why slot `n` cannot be enabled: ST_WRONG_STATE (none) or ST_RESOURCE_BUSY with the opcode. -/
def State.enableFault (s : State) (n : Nat) : Option (Option Nat) :=
  let t := s.calT n
  let u := s.calUnit n
  let h := (s.trig u).holder
  let others := printKinds.filter fun m => m != n && (s.calInst m).holds
  if (s.calInst n).targets.isNone || !(s.stream t.stream).set || u == 0xFF then some none
  else if others.any fun m => (s.calT m).stream == t.stream && s.tooClose n m then some (some 0x0902)
  else if others.any fun m => (s.calT m).ctxs.any t.ctxs.contains then some (some 0x0902)
  else if h = .none ∨ h = .host ∨ h = .camera ∨ h = .calibration then none
  else some (some h.opcode)

/-- R330, R334, R481: slot `n` takes its resources. -/
def takeResources (n : Nat) (s : State) : State :=
  let t := s.calT n
  let u := s.calUnit n
  let x := s.trig u
  let s1 :=
    if x.holder = .calibration then s
    else
      let saved := if x.holder = .none then none else some (x.holder, x.sched)
      s.setTrig u { x with holder := .calibration, running := false, sched := {}, saved := saved }
  let s2 := t.ctxs.foldl (fun st c => st.setCtx c { st.ctx c with rects := t.rects, calRects := true }) s1
  s2.updCal n fun y => { y with holds := true }

/-- R481: trigger unit `u` returns to the holder it was taken from. -/
def returnTrig (u : Nat) (s : State) : State :=
  let x := s.trig u
  match x.saved with
  | none => s.setTrig u { x with holder := .none, running := false, saved := none }
  | some (h, c) =>
    let kept := { c with k := c.skipTo s.time.now }
    if (h = .camera ∧ !s.camRunning) ∨ !kept.left then
      s.setTrig u { x with holder := .none, running := false, sched := kept, saved := none }
    else s.setTrig u { x with holder := h, running := true, sched := kept, saved := none }

/-- R334, R346, R481: slot `n` releases its resources. -/
def releaseResources (n : Nat) (s : State) : State :=
  if !(s.calInst n).holds then s
  else
    let t := s.calT n
    let u := s.calUnit n
    let s1 := s.updCal n fun y => { y with holds := false }
    let s2 := t.ctxs.foldl (fun st c => st.setCtx c { st.ctx c with rects := (st.ctx c).stagedRects, calRects := false }) s1
    let used := printKinds.any fun m => (s2.calInst m).holds && s2.calUnit m == u
    let s3 := if used then s2 else returnTrig u s2
    if n = 0 then { s3 with prn := { s3.prn with colourHeld := 0 } } else s3

/-- R346: the run of slot `n`, ACQUIRING, ends without a result. The training of a channel ends with its DDR run. -/
def disableRun (n : Nat) (s : State) : State :=
  if (s.calInst n).state ≠ .acquiring then s
  else abortRun n 0x0902 (if 5 ≤ n ∧ n < 9 then endDdr (n - 5) s else s)

/-- R346: slot `n` is disabled. -/
def disableCal (n : Nat) (s : State) : State :=
  let s1 := disableRun n s
  endStale n 4 s.frames.openFirst (releaseResources n (dropPending n 0x0902 s1))

/-- R463: this LZ9 is a standby. -/
def State.standby (s : State) : Bool := s.tan.state == .shadow || (s.tan.state == .pairing && s.tan.endB)

/-- R346: set the policy of slot `n`. -/
def setPolicy (n : Nat) (p : CalPolicy) (s : State) : State :=
  let was := (s.calPolicy n).enable
  let s1 := s.updCal n fun x => { x with policy := some p, staleCount := if p.enable && !was then 0 else x.staleCount }
  let s2 := if n = 0 ∧ p.enable then { s1 with prn := { s1.prn with colourHeld := p.chMask } } else s1
  if p.enable then (if isPrintCal n && !(s2.calInst n).holds then takeResources n s2 else s2)
  else if was then disableCal n s2 else s2

/-- CAL_POLICY (R330, R334, R346, R463, R481). -/
def execCalPolicy (slot : Nat) (s : State) : Host.Outcome State Fault Refusal :=
  runCmd 0x0902 slot calPolicyChecks (fun k d st =>
    let n := d.cal
    let p := policyOf d
    if p.enable && decide (n < 5) && st.standby then wrongState k st
    else if p.enable && isPrintCal n && !(st.calInst n).holds then
      match st.enableFault n with
      | some none => wrongState k st
      | some (some op) => resourceBusy k op st
      | none => done k (setPolicy n p st)
    else done k (setPolicy n p st)) s

/-! ### CAL_QUERY (R348) -/

/-- R350: the run state of a slot, PENDING included. -/
def CalInst.runCode (x : CalInst) : Nat := if x.state = .idle ∧ x.pend.isSome then 1 else x.state.code

/-- Checks of CAL_QUERY. -/
def calQueryChecks : Checks where
  mode := fun _ _ => .none
  fused := calMissing
  params := fun d _ => [calIdKnown d, rzb d 10 64]

/-- CAL_QUERY (R348). -/
def execCalQuery (slot : Nat) (s : State) : Host.Outcome State Fault Refusal :=
  runCmd 0x0903 slot calQueryChecks (fun k d st =>
    let x := st.calInst d.cal
    complete k St.ok (x.runCode + 8 * b2n x.stale) x.goodQuality none st) s

end Sys2Proof.Machine
end

