-- ==== Sys2Proof/Machine/MemCmd.lean ====
section
/-! DEFINITION. The MEM commands: MEM_QOS, MEM_ERROR_POLICY, MEM_RETRAIN and MEM_QUERY (R433 to R436). -/

namespace Sys2Proof.Machine

/-- R433, R434: the states in which the MEM settings change. -/
def memStates (s : State) : Bool :=
  s.top.dev == .idle || s.top.dev == .armed || s.top.dev == .run || s.top.dev == .halter

/-- Checks of MEM_QOS. -/
def memQosChecks : Checks where
  allowed := fun _ s => memStates s
  params := fun d s => [inR 8 (d.u 8 2) 0 s.mapRaw, inR 10 (d.u 10 2) 1 (d.u 8 2), rzb d 12 64]

/-- MEM_QOS (R433). -/
def execMemQos (slot : Nat) (s : State) : Host.Outcome State Fault Refusal :=
  runCmd 0x0C00 slot memQosChecks (fun k d st =>
    done k { st with mem := { st.mem with budget := d.u 8 2, pullRate := d.u 10 2 } }) s

/-- Checks of MEM_ERROR_POLICY. -/
def memErrorPolicyChecks : Checks where
  allowed := fun _ s => memStates s
  params := fun d _ =>
    [inR 8 (d.u 8 1) 1 2, rz 9 (d.u 9 1), inR 10 (d.u 10 2) 256 16384, inR 12 (d.u 12 2) 50 500, inR 14 (d.u 14 2) 0 720,
     rzb d 16 64]

/-- MEM_ERROR_POLICY (R434). -/
def execMemErrorPolicy (slot : Nat) (s : State) : Host.Outcome State Fault Refusal :=
  runCmd 0x0C01 slot memErrorPolicyChecks (fun k d st =>
    done k { st with mem := { st.mem with
      freezeParity := d.u 8 1 == 2, rowThresh := d.u 10 2, minEye := d.u 12 2, scrubHours := d.u 14 2 } }) s

/-- R435: the channels that a MEM_RETRAIN names. -/
def retrainChans (d : Slot) : List Nat := (List.range 4).filter fun c => bitAt (d.u 8 1) c

/-- Checks of MEM_RETRAIN. -/
def memRetrainChecks : Checks where
  fused := fun d s => firstCap ((retrainChans d).map fun c => absent true (decide (c < s.fuse.part.ddrChannels)) (Cap.ddr c))
  allowed := fun d s => d.u 9 1 != 2 || s.top.dev == .idle || s.top.dev == .armed || s.top.dev == .halter
  selector := fun d _ => inR 9 (d.u 9 1) 1 2
  params := fun d s =>
    [need (d.u 8 1 < 16 && (retrainChans d).all fun c => (s.ddr c).state != .offline) 8 Rsn.range,
     if d.u 9 1 = 1 then rz 10 (d.u 10 2)
     else need (decide (3200 ≤ d.u 10 2) && decide (d.u 10 2 ≤ 100 * s.lcs.inForce.rateMax) && d.u 10 2 % 400 == 0) 10 Rsn.range,
     rzb d 12 64]

/-- R435: RETRAIN of channel `c` for the command in slot `k`. -/
def retrainOne (k id : Nat) (s : State) (c : Nat) : State :=
  (requestRun (ddrSlot c) k id s).getD (retrainDone k c false s)

/-- R422, R435: SET_RATE of channel `c`, at `rate` MT/s ÷ 100, for the command in slot `k`. -/
def setRateOne (k id rate : Nat) (s : State) (c : Nat) : State :=
  let x := s.ddr c
  s.setDdr c { x with change := some { rate := rate, old := x.rate, since := s.uptime, slot := k, id := id } }

/-- MEM_RETRAIN (R422, R435). -/
def execMemRetrain (slot : Nat) (s : State) : Host.Outcome State Fault Refusal :=
  runCmd 0x0C02 slot memRetrainChecks (fun k d st =>
    let cs := retrainChans d
    let wait := { st with mem := { st.mem with retrains := st.mem.retrains ++ [{ slot := k, id := d.id, mask := d.u 8 1 }] } }
    if cs.isEmpty then done k st
    else if d.u 9 1 = 1 then cs.foldl (retrainOne k d.id) wait
    else if cs.any fun c => (st.ddr c).change.isSome then resourceBusy k 0x0C02 st
    else cs.foldl (setRateOne k d.id (d.u 10 2 / 100)) wait) s

/-- Checks of MEM_QUERY. -/
def memQueryChecks : Checks where
  fused := fun d s => absent (decide (d.u 10 1 < 4)) (decide (d.u 10 1 < s.fuse.part.ddrChannels)) (Cap.ddr (d.u 10 1))
  selector := fun d _ => inR 8 (d.u 8 2) 1 5
  params := fun d _ =>
    [need (d.u 10 1 < 4 || (d.u 10 1 == 0xFF && d.u 8 2 != 2)) 10 Rsn.range, rzb d 11 64]

/-- MEM_QUERY (R436). The eye of the whole map is a free value: R436 says of which channel only for a channel. -/
def execMemQuery (slot : Nat) (s : State) : Host.Outcome State Fault Refusal :=
  runCmd 0x0C03 slot memQueryChecks (fun k d st =>
    let c := d.u 10 1
    let all := c == 0xFF
    match d.u 8 2 with
    | 1 => doneWith k (if all then st.mapMib else st.chanMib c) st
    | 2 => doneWith k (100 * (st.ddr c).rate) st
    | 3 => if all then doneWith k (st.freeNat 16) st.useFree else doneWith k (st.ddr c).eye st
    | 4 => doneWith k (((List.range 4).filter fun i => (st.ddr i).state == .online).foldl (fun a i => a + 2 ^ i) 0) st
    | _ => doneWith k ((st.bulkHeld + 10 ^ 8 - 1) / 10 ^ 8) st) s

end Sys2Proof.Machine
end

