-- ==== Sys2Proof/Machine/Node.lean ====
section
/-! DEFINITION. The nodes of a chain: claims, blocks, frames, the register space, firing and row driving, status (R171,
R186 to R190, R206 to R226, R229, R270). -/

namespace Sys2Proof.Machine

/-! ### Access -/

/-- The node at place `n`: 8 × link + place counted from the A end. -/
def State.cnode (s : State) (n : Nat) : ChainNode := Tab.get {} s.chain n

/-- Set the node at place `n`. -/
def State.setCnode (s : State) (n : Nat) (c : ChainNode) : State := { s with chain := Tab.put {} s.chain n c }

/-- A sequence of node `n` that has not begun. -/
def Out.unstarted (n wall : Nat) : Out → Bool
  | .sequence m _ _ start _ _ => m == n && decide (Int.ofNat wall < start)
  | _ => false

/-- R217: a head node in Halter fires no image dots: its sequences that have not begun are taken back. -/
def holdFire (n : Nat) (s : State) : State :=
  if (s.cnode n).run = .halter then { s with out := s.out.filter fun o => !o.unstarted n s.wall } else s

/-- R224: NODE_ID. -/
def ChainNode.id (c : ChainNode) : Nat := 8 * c.link + c.position

/-- The node is a panel node. -/
def ChainNode.panel (c : ChainNode) : Bool := c.kind == 2

/-- R224: the value of NODE_STATE. -/
def ChainNode.stateCode (c : ChainNode) : Nat :=
  if c.run = .halter then 0 else if c.panel && c.hold then NodeRun.hold.code else NodeRun.run.code

/-- R217: the node enters Halter. A panel node keeps its stored frame. -/
def ChainNode.toHalter (c : ChainNode) : ChainNode := { c with run := .halter, lines := [], rows := [], history := [] }

/-- R217, R220: the node leaves Halter, unless a fault holds it. A purge, which runs in Halter only (R224), ends (log 64). -/
def ChainNode.toRun (c : ChainNode) : ChainNode :=
  if c.overtemp || c.supplyFault then c
  else if c.run = .halter then
    { c with run := .run, ticksSeen := 0, lastTick := none, lines := [], rows := [], history := [], frameSeen := false
             purgeGo := false, purgeLeft := 0 }
  else { c with ticksSeen := 0 }

/-- A port has block lock again: something valid has arrived on it, at time `now`. -/
def ChainNode.hear (portB : Bool) (now : Nat) (c : ChainNode) : ChainNode :=
  let c1 := if portB then { c with lockB := true } else { c with lockA := true }
  if c.holder = some portB then { c1 with heardAt := now } else c1

/-- R201: a frame of the node goes out of both ports. -/
def nodeSend (n : Nat) (bs : List Byte) (s : State) : State := (s.emit (.reinUp n 0 bs)).emit (.reinUp n 1 bs)

/-- R207, R209: add 1 to the HOP field at bits [`lo` + 2 : `lo`] of byte `i`, saturating at 7. -/
def hopUp (i lo : Nat) (bs : List Byte) : List Byte :=
  bs.mapIdx fun k b => if k = i ∧ bitsAt b.toNat lo 3 < 7 then b + BitVec.ofNat 8 (2 ^ lo) else b

/-- R202, R207 to R209: what a node makes of a block or frame that it forwards: the HOP fields of TICK, ECHO and START count up, and a
block that fails its CRC-8, which counts as IDLE (R206), stays as it came. -/
def forwarded (bs : List Byte) : List Byte :=
  if blockOk 0x4B bs then hopUp 2 4 bs
  else if blockOk 0x55 bs then hopUp 2 0 bs
  else if byteAt bs 0 = 0x78 then hopUp 7 0 bs
  else bs

/-- R202: node `n` passes on, out of its other port, what it received on port B, or on port A. -/
def nodeForward (n : Nat) (portB : Bool) (bs : List Byte) (s : State) : State := s.emit (.reinOn n (b2n (!portB)) (forwarded bs))

/-! ### Claims (R211, R212) -/

/-- R211: the claim rule: the node after it, and whether the frame is accepted. -/
def ChainNode.claimRule (c : ChainNode) (claim : Nat) (portB seamless : Bool) : ChainNode × Bool :=
  if c.held < claim then
    let c1 := if c.holder.isSome && !(seamless && c.stateCode == NodeRun.run.code) then c.toHalter else c
    ({ c1 with held := claim, holder := some portB }, true)
  else if c.held = claim ∧ 0 < claim then
    if c.holder = some portB then (c, true)
    else if portB then ({ c with claimConflict := true }, false)
    else ({ c with claimConflict := true, holder := some false }, true)
  else ({ c with claimReject := (c.claimReject + 1) % 65536 }, false)

/-- R212: a block addressed to the node under its claim, from its holder port. -/
def ChainNode.addressed (c : ChainNode) (portB : Bool) (bs : List Byte) : Bool :=
  c.holder == some portB && numAt bs 1 2 == c.held && (bitAt (byteAt bs 4) 0 || byteAt bs 3 == c.id)

/-! ### Register space (R224 to R226) -/

/-- R225: a byte of a selection bank. -/
def ChainNode.bankByte (c : ChainNode) (b o : Nat) : Nat := ((if b = 0 then c.bank0 else c.bank1).byte o).toNat

/-- R225: a little-endian field of a bank. -/
def ChainNode.bankNum (c : ChainNode) (b o n : Nat) : Nat := (if b = 0 then c.bank0 else c.bank1).num o n

/-- R224: the POSITION word. -/
def ChainNode.positionWord (c : ChainNode) : Nat :=
  c.position % 8 + 8 * (c.link % 32) + 256 * (c.id % 256) + 65536 * b2n c.assigned

/-- R224, R226: the word at an address of the node. -/
def ChainNode.readWord (c : ChainNode) (a : Nat) : Nat :=
  if 0x800000 ≤ a then Tab.get 0 c.vendor a
  else if 0x100000 ≤ a ∧ a < 0x200000 then
    if c.panel then 0 else c.bankNum (if a < 0x180000 then 0 else 1) (a % 0x80000) 4
  else if 0x200 ≤ a ∧ a < 0x240 then numAt c.status (a - 0x200) 4
  else
    match a with
    | 0x000 => c.vendorModel
    | 0x004 => c.kind + 256
    | 0x008 => c.emitters % 2 ^ 24
    | 0x00C => b2n c.panel + 2 * ((c.tempSensors - 1) % 4) + 256 * c.maxRow
    | 0x010 => c.serial % 2 ^ 32
    | 0x014 => c.serial / 2 ^ 32 % 2 ^ 32
    | 0x100 => c.positionWord
    | 0x104 => c.held + 65536 * (match c.holder with | none => 0 | some false => 1 | some true => 2)
    | 0x108 => c.cableA
    | 0x10C => c.cableB
    | 0x110 => c.linkLossUs + 65536 * c.statusUs
    | 0x114 => c.stateCode
    | 0x300 => if c.panel then 0 else c.purgeCount + 65536 * c.purgeDot + 2 ^ 31 * b2n c.purgeGo
    | 0x304 => if c.panel then 0 else c.purgeRate
    | 0x400 => b2n c.hold + 2 * b2n c.groupB + 256 * c.depth + 4096 * c.activeRows
    | _ => 0

/-- R226: a listed word with no RW field. -/
def readOnlyWord (a : Nat) : Bool :=
  decide (a < 0x18) || a == 0x100 || a == 0x104 || a == 0x114 || (decide (0x200 ≤ a) && decide (a < 0x240))

/-- R226: the address is not implemented. -/
def ChainNode.badAddr (c : ChainNode) (a : Nat) : Bool :=
  (decide (0x800000 + 4 * c.vendorWords ≤ a)) ||
    (!c.panel && decide (0x100000 ≤ a) && decide (a < 0x200000) && decide (0x400 + c.emitters ≤ a % 0x80000))

/-- R186: the delay of a column under bank `b`, in 1/256 line: NODE_FRAC, and COL_B_DELAY for column B. -/
def ChainNode.delay (c : ChainNode) (b col : Nat) : Nat := c.bankNum b 17 1 + (if col = 1 then c.bankNum b 22 2 else 0)

/-- R226: a bank is in use for a line not yet fired: one that column B has still to reach, or whose sequence has not ended. -/
def ChainNode.bankInUse (c : ChainNode) (b : Nat) (now : Nat) : Bool :=
  (c.lines.any fun l => l.bank == b) ||
    (c.history.any fun e => e.2.bank == b && decide (c.lineNo < e.1 + Int.ofNat (c.delay b 1 / 256))) ||
    decide (Int.ofNat now < (if b = 0 then c.end0 else c.end1))

/-- R224: write one word of the node. -/
def ChainNode.writeWord (c : ChainNode) (a v : Nat) : ChainNode :=
  if 0x800000 ≤ a then { c with vendor := Tab.put 0 c.vendor a v }
  else if 0x100000 ≤ a ∧ a < 0x200000 then
    if c.panel then c
    else if a < 0x180000 then { c with bank0 := c.bank0.setBytes (a % 0x80000) (le 4 v) }
    else { c with bank1 := c.bank1.setBytes (a % 0x80000) (le 4 v) }
  else
    match a with
    | 0x108 => { c with cableA := v % 2 ^ 20 }
    | 0x10C => { c with cableB := v % 2 ^ 20 }
    | 0x110 => { c with linkLossUs := v % 65536, statusUs := v / 65536 }
    | 0x300 =>
      if c.panel then c
      else
        let go := bitAt v 31 && c.run == .halter
        { c with purgeCount := v % 65536, purgeDot := bitsAt v 16 2, purgeGo := go && v % 65536 != 0
                 purgeLeft := if go then v % 65536 else 0, purgeAt := 0 }
    | 0x304 => if c.panel then c else { c with purgeRate := v % 65536 }
    | 0x400 =>
      if c.panel then
        { c with hold := bitAt v 0, groupB := bitAt v 1, depth := bitsAt v 8 4, activeRows := bitsAt v 12 16 }
      else c
    | _ => c

/-- R226: the RSTATUS of a request: 0 OK, 1 BAD_ADDR, 2 READ_ONLY, 3 BUSY. -/
def ChainNode.reqStatus (c : ChainNode) (now : Nat) (write : Bool) (addr words : Nat) : Nat :=
  let as := (List.range words).map fun i => addr + 4 * i
  if as.any c.badAddr then 1
  else if !write then 0
  else if as.any readOnlyWord then 2
  else if !c.panel && (as.any fun a => decide (0x100000 ≤ a) && decide (a < 0x200000) &&
      c.bankInUse (if a < 0x180000 then 0 else 1) now) then 3
  else 0

/-- R209, R222: a CTRL_REQ executed: the node, and its response. A request answered BUSY has not been executed, and its TAG is not
kept. -/
def ChainNode.control (c : ChainNode) (now : Nat) (data : List Byte) : ChainNode × List Byte :=
  let write := byteAt data 0 == 2
  let tag := byteAt data 1
  let words := numAt data 2 2
  let addr := numAt data 4 3
  let st := c.reqStatus now write addr words
  let c1 := if write && st == 0 then
      (List.range words).foldl (fun c i => c.writeWord (addr + 4 * i) (numAt data (8 + 4 * i) 4)) c
    else c
  let body := if write || st != 0 then [] else (List.range words).flatMap fun i => le 4 (c.readWord (addr + 4 * i))
  let resp := mkFrame FType.ctrlResp c1.id c1.held 0 (ctrlHeader st tag words addr ++ body)
  (if st = 3 then c1 else { c1 with tags := ((c1.tags ++ [(tag, resp)]).drop (c1.tags.length + 1 - 8)) }, resp)

/-- R222: a CTRL_REQ: executed, or for a repeated TAG answered again. -/
def controlReq (n : Nat) (data : List Byte) (s : State) : State :=
  let c := s.cnode n
  match c.tags.find? fun t => t.1 == byteAt data 1 with
  | some t => nodeSend n t.2 s
  | none => let r := c.control s.wall data; nodeSend n r.2 (s.setCnode n r.1)

/-! ### Frames (R208 to R211, R228, R229) -/

/-- R209: the ENUM_RESP of a node. -/
def ChainNode.enumResp (c : ChainNode) (hop : Nat) (portB : Bool) : List Byte :=
  mkFrame FType.enumResp c.id c.held 0
    (le 1 hop ++ le 1 (if portB then 2 else 1) ++ le 2 (c.positionWord % 65536) ++ le 2 c.held ++ le 2 0 ++
      (List.range 6).flatMap fun i => le 4 (c.readWord (4 * i)))

/-- R228: an accepted ASSIGN. -/
def ChainNode.assign (c : ChainNode) (data : List Byte) (hop : Nat) : ChainNode :=
  let len := byteAt data 3
  let p := if byteAt data 2 = 0 then hop else len - 1 - hop
  { c with idMismatch := c.idMismatch || (c.assigned && c.position != p), position := p, link := byteAt data 1, assigned := true }

/-- R229: a write of the cable delay of the port it arrives on. -/
def cableWrite (f : RxFrame) (portB : Bool) : Bool :=
  f.ftype == FType.ctrlReq && byteAt f.data 0 == 2 && numAt f.data 2 2 == 1 &&
    numAt f.data 4 3 == (if portB then 0x10C else 0x108)

/-- R211: what an accepted frame does. -/
def acceptFrame (n : Nat) (f : RxFrame) (s : State) : State :=
  let c := s.cnode n
  if f.ftype = FType.ctrlReq then controlReq n f.data s
  else if f.ftype = FType.release then holdFire n (s.setCnode n { c.toHalter with held := 0, holder := none })
  else if f.ftype = FType.enum then s.setCnode n (c.assign f.data f.hop)
  else if c.run = .halter then s
  else if f.ftype = FType.line ∧ !c.panel then
    let b := byteAt f.data 4
    let sp := numAt f.data 5 2
    s.setCnode n { c with lines := c.lines ++
      [{ tickId := b % 64, bank := bitsAt b 6 1, lastLine := bitAt b 7, spit := if bitAt sp 15 then some (sp % 1024) else none
         frame := BitVec.ofNat 32 (numAt f.data 0 4), payload := f.data.drop 8 }] }
  else if f.ftype = FType.row ∧ c.panel then
    let b := byteAt f.data 4
    let g := byteAt f.data 7
    s.setCnode n { c with rows := c.rows ++
      [{ tickId := b % 64, row := numAt f.data 5 2 % 4096, seg := g % 4, segs := bitsAt g 2 2 + 1, lastRow := bitAt b 7
         frame := BitVec.ofNat 32 (numAt f.data 0 4), payload := f.data.drop 8 }] }
  else s

/-- R202, R208, R211: a downstream frame arrives at a node, which forwards it, also where it is discarded; `only` restricts it to one
frame type, none to any. -/
def receiveFrame (n : Nat) (portB : Bool) (bytes : List Byte) (only : Option Nat) (s0 : State) : State :=
  let s := nodeForward n portB bytes s0
  let c := (s.cnode n).hear portB s.wall
  match parseFrame bytes with
  | none => s.setCnode n { c with crcErr := (c.crcErr + 1) % 65536, crcInInterval := true }
  | some f =>
    let s1 := s.setCnode n c
    if !(f.all || f.node == c.id) || !(only.isNone || only == some f.ftype) then s1
    else if f.ftype = FType.enum ∧ byteAt f.data 0 = 1 then nodeSend n (c.enumResp f.hop portB) s1
    else if cableWrite f portB then controlReq n f.data s1
    else
      let r := c.claimRule f.claim portB f.seamless
      let s2 := holdFire n (s1.setCnode n r.1)
      if r.2 then acceptFrame n f s2 else s2

/-- NODE_DOWNSTREAM_FRAME (R208, R211, R228, R229). -/
def execNodeDownstreamFrame (node : Nat) (portB : Bool) (bytes : List Byte) (s : State) :
    Host.Outcome State Fault Refusal := .next (receiveFrame node portB bytes none s)

/-- NODE_CTRL_REQ (R222 to R226): the frame is a CTRL_REQ. -/
def execNodeCtrlReq (node : Nat) (portB : Bool) (bytes : List Byte) (s : State) : Host.Outcome State Fault Refusal :=
  .next (receiveFrame node portB bytes (some FType.ctrlReq) s)

/-! ### Blocks (R206, R207, R212, R217) -/

/-- R206: a block that fails its check counts as IDLE. -/
def blockError (n : Nat) (s : State) : State :=
  let c := s.cnode n
  s.setCnode n { c with blockErr := (c.blockErr + 1) % 65536 }

/-- NODE_HALTER_BLOCK (R202, R212, R217). -/
def execNodeHalterBlock (node : Nat) (portB : Bool) (bytes : List Byte) (s0 : State) : Host.Outcome State Fault Refusal :=
  let s := nodeForward node portB bytes s0
  if !blockOk 0x2D bytes then .next (blockError node s)
  else
    let c := (s.cnode node).hear portB s.wall
    .next (holdFire node (s.setCnode node (if c.addressed portB bytes then c.toHalter else c)))

/-- NODE_RUN_BLOCK (R202, R212, R217, R220). -/
def execNodeRunBlock (node : Nat) (portB : Bool) (bytes : List Byte) (s0 : State) : Host.Outcome State Fault Refusal :=
  let s := nodeForward node portB bytes s0
  if !blockOk 0x33 bytes then .next (blockError node s)
  else
    let c := (s.cnode node).hear portB s.wall
    .next (s.setCnode node (if c.addressed portB bytes then c.toRun else c))

/-- NODE_ECHO (R202, R207): an ECHO is forwarded, and one whose HOP is its target is answered on the port it came by. -/
def execNodeEcho (node : Nat) (portB : Bool) (bytes : List Byte) (s0 : State) : Host.Outcome State Fault Refusal :=
  let s := nodeForward node portB bytes s0
  if !blockOk 0x55 bytes then .next (blockError node s)
  else
    let hop := byteAt bytes 2 % 8
    let s1 := s.setCnode node ((s.cnode node).hear portB s.wall)
    .next (if byteAt bytes 1 % 8 = hop then s1.emit (.reinUp node (b2n portB) (echoReplyBlock hop (byteAt bytes 3))) else s1)

/-- NODE_LINK_LOSS (R217): the holder port has no lock, or has passed no block for LINK_LOSS_US. -/
def execNodeLinkLoss (node : Nat) (lockLost : Bool) (s : State) : Host.Outcome State Fault Refusal :=
  let c := s.cnode node
  match c.holder with
  | none => .next s
  | some b =>
    if !lockLost && decide (s.wall < c.heardAt + 1000 * c.linkLossUs) then .next s
    else
    let c1 := if !lockLost then c else if b then { c with lockB := false } else { c with lockA := false }
    .next (holdFire node (s.setCnode node c1.toHalter))

/-! ### Blank log (R215, R216, R220) -/

/-- R209, R220: log a blank at the present TICKS_SEEN. -/
def ChainNode.blank (reason : Nat) (c : ChainNode) : ChainNode :=
  let c1 := { c with statusDue := true
                     crcErr := c.crcErr, dataLate := (c.dataLate + b2n (reason == 2)) % 65536
                     missedTick := (c.missedTick + b2n (reason == 3)) % 65536 }
  if c1.log.length < 4 then { c1 with log := c1.log ++ [⟨c1.ticksSeen % 65536, reason⟩] } else { c1 with logOvf := true }

/-- R216: one missing tick. -/
def ChainNode.missTick (c : ChainNode) : ChainNode :=
  ({ c with ticksSeen := (c.ticksSeen + 1) % 2 ^ 32, lineNo := c.lineNo + 1, curRow := c.curRow + 1 }).blank 3

/-- Repeat a change `n` times. -/
def ChainNode.times (f : ChainNode → ChainNode) : Nat → ChainNode → ChainNode
  | 0, c => c
  | n + 1, c => ChainNode.times f n (f c)

/-- R215, R216, R220: the tick with ID `k` is counted, after those missing before it. -/
def ChainNode.countTick (k : Nat) (c : ChainNode) : ChainNode :=
  let c1 := match c.lastTick with
    | none => { c with lineNo := Int.ofNat k - 1, curRow := 0, lineBase := c.lineBase + c.lineNo - (Int.ofNat k - 1) }
    | some j => ChainNode.times ChainNode.missTick ((k + 64 - (j + 1) % 64) % 64) c
  { c1 with ticksSeen := (c1.ticksSeen + 1) % 2 ^ 32, lastTick := some k, lineNo := c1.lineNo + 1 }

/-! ### Firing (R171, R183, R186, R189, R190) -/

/-- R183: the pre-heat width of nozzle `j` from bank `b`. -/
def ChainNode.pre (c : ChainNode) (b j : Nat) : Nat :=
  let trim := bitsAt (c.bankByte b (0x400 + j)) 1 4
  (max 0 (min 400 (Int.ofNat (c.bankNum b 4 2) + (Int.ofNat trim - 8) * Int.ofNat (c.bankByte b 6)))).toNat

/-- R171, R174, R186: the dot that nozzle `j` has on a buffered line: none where both nozzles of its position are missing. -/
def ChainNode.dot (c : ChainNode) (l : NodeLine) (j : Nat) : Nat :=
  let i := j / 2
  if c.bankNum l.bank 28 2 ≤ i then 0
  else
    let d := bitsAt (byteAt l.payload (i / 4)) (2 * (i % 4)) 2
    let pat := bitsAt (c.bankByte l.bank (0x40 + 8 * (l.tickId % 64) + (i % 64) / 8)) (i % 8) 1
    let missing := fun (col : Nat) => bitAt (c.bankByte l.bank (0x400 + 2 * i + col)) 0
    let col := if missing pat then 1 - pat else pat
    if j % 2 = col && !missing col then d else 0

/-- R190: a line as the spit rule counts it, from power-up on: a RUN starts no new count. -/
def ChainNode.everLine (c : ChainNode) (line : Int) : Int := line + c.lineBase

/-- R190: nozzle `j` fires a spit dot on a line. -/
def ChainNode.spits? (c : ChainNode) (l : NodeLine) (line : Int) (j : Nat) : Bool :=
  match l.spit with
  | none => false
  | some k =>
    let n := c.bankNum l.bank 30 2
    let last := Tab.get 0 c.lastMain j
    n != 0 && k == j % n && c.dot l j == 0 && decide (j / 2 < c.bankNum l.bank 28 2) &&
      (last == 0 || decide (Int.ofNat (c.bankNum l.bank 32 4) ≤ c.everLine line - (Int.ofNat last - 1)))

/-- R183: the pulses of nozzle `j` in slot `sl` under bank `b` with dot `dot`: the pre-heat pulse ends PRE_MAX after the slot's
start, and the main pulse starts PRE_GAP later. -/
def ChainNode.pulse (c : ChainNode) (b sl j dot : Nat) : Pulse :=
  let pre := c.pre b j
  let pm := c.bankNum b 8 2
  let on := pm + c.bankByte b 7
  let width := if dot = 0 then 0 else c.bankNum b (8 + 2 * dot) 2
  { slot := sl, nozzle := j, pre := pre, dot := dot, preOn := pm - pre, preOff := pm, mainOn := on, mainOff := on + width }

/-- R182, R186: a sequence of one column under bank `b`: the pulses of its nozzles slot by slot, `dot` giving each nozzle's dot, none
for no pulse at all. -/
def ChainNode.slots (c : ChainNode) (b col : Nat) (dot : Nat → Option Nat) : List Pulse :=
  let g := Nat.max 1 (c.bankByte b 1)
  (List.range g).flatMap fun sl =>
    let grp := sl * c.bankByte b 2 % g
    (((List.range c.emitters).filter fun j => j % 2 == col && j % g == grp)).filterMap fun j =>
      (dot j).map (c.pulse b sl j)

/-- R189: the pulses of one column on line `line`, whose frame is `l` if there is one, under bank `b`. -/
def ChainNode.pulses (c : ChainNode) (b col : Nat) (line : Int) (l : Option NodeLine) : List Pulse :=
  let kw := c.bankByte b 3 == 1
  c.slots b col fun j =>
    let dot := match l with
      | none => 0
      | some x => if c.spits? x line j then c.bankByte x.bank 36 else c.dot x j
    if dot = 0 && !kw then none else some dot

/-- R182: the time of a sequence under bank `b`. -/
def ChainNode.seqTime (c : ChainNode) (b : Nat) : Int := Int.ofNat (c.bankByte b 1 * c.bankNum b 20 2)

/-- R175, R186: fire line `m` of one column with bank `b`; `l` is its frame, none for a sequence of pre-heat pulses. -/
def fireLine (n col b : Nat) (m : Int) (l : Option NodeLine) (tEff : Int) (period : Nat) (s : State) : State :=
  let c := s.cnode n
  let whip := Int.ofNat (c.bankByte b 18)
  let start0 := if period = 0 then tEff + whip
    else tEff + Int.ofNat (phaseTime (256 + c.delay b col % 256) period) + whip
  let prevEnd := if col = 1 then c.endB else c.endA
  let late := decide (start0 < prevEnd)
  let start := if late then prevEnd else start0
  let fin := start + c.seqTime b
  let ps := c.pulses b col m l
  let fired := ps.filter fun p => p.dot != 0
  let spat := match l with
    | none => 0
    | some x => (fired.filter fun p => c.spits? x m p.nozzle).length
  let c1 := { c with
    endA := if col = 1 then c.endA else fin, endB := if col = 1 then fin else c.endB
    end0 := if b = 0 then max c.end0 fin else c.end0, end1 := if b = 0 then c.end1 else max c.end1 fin
    squeeze := (c.squeeze + b2n late) % 65536, spits := (c.spits + spat) % 2 ^ 32
    lastMain := fired.foldl (fun t p => Tab.put 0 t p.nozzle ((c.everLine m).toNat + 1)) c.lastMain }
  (s.setCnode n c1).emit (.sequence n col m start (c.bankNum b 20 2) ps)

/-- R175, R186, R188: the lines that one column fires on the tick of line `lineNo`: those whose delay, under the bank that their own
frames name, has passed. Each comes exactly once, the oldest first (DEDUCED, log 64). -/
def ChainNode.dueLines (c : ChainNode) (col : Nat) : List (Int × NodeLine) :=
  c.history.filter fun e => e.1 + Int.ofNat (c.delay e.2.bank col / 256) == c.lineNo

/-- R186, R189: fire one column on the tick of line `lineNo`: its lines that are due, else its pre-heat pulses alone under the bank
of the latest line. -/
def fireColumn (n col : Nat) (tEff : Int) (period : Nat) (s : State) : State :=
  let c := s.cnode n
  match c.dueLines col with
  | [] => fireLine n col c.latestBank (c.lineNo - Int.ofNat (c.delay c.latestBank col / 256)) none tEff period s
  | ls => ls.foldl (fun st e => fireLine n col e.2.bank e.1 (some e.2) tEff period st) s

/-- R215, R216, R186, R188: a head node's tick. `t` is t_tick in ns. -/
def headTick (n k : Nat) (skip : Bool) (phase period : Nat) (t : Int) (s : State) : State :=
  let c := (s.cnode n).countTick k
  let line := c.lines.find? fun l => l.tickId == k
  let c1 := { c with lines := [], crcInInterval := false, tickAt := s.wall }
  if skip then s.setCnode n c1
  else
    let c2 := match line with
      | none => c1.blank (if c.crcInInterval then 1 else 2)
      | some l => { c1 with history := ((c1.history ++ [(c1.lineNo, l)]).drop (c1.history.length + 1 - 36))
                            latestBank := l.bank, statusDue := c1.statusDue || l.lastLine }
    let tEff := if period = 0 then t else t - Int.ofNat (phaseTime phase period)
    fireColumn n 1 tEff period (fireColumn n 0 tEff period (s.setCnode n c2))

/-- R192, R224: a head node that purges in Halter fires every nozzle, missing ones too (R174), once more when the next sequence is
due; the node clears PURGE_GO after the last. A rate of 0 fires nothing (log 64). -/
def purgeStep (n : Nat) (s : State) : State :=
  let c := s.cnode n
  if !c.purgeGo || c.purgeRate == 0 || decide (s.wall < c.purgeAt) then s
  else
    let b := c.latestBank
    let t := Int.ofNat s.wall
    let fire := fun (col : Nat) => Out.sequence n col 0 t (c.bankNum b 20 2) (c.slots b col fun _ => some c.purgeDot)
    let c1 := { c with
      purgeLeft := c.purgeLeft - 1, purgeGo := decide (1 < c.purgeLeft), purgeAt := s.wall + 10 ^ 9 / c.purgeRate
      lastMain := (List.range c.emitters).foldl (fun t j => Tab.put 0 t j ((c.everLine c.lineNo).toNat + 1)) c.lastMain }
    ((s.setCnode n c1).emit (fire 0)).emit (fire 1)

/-! ### Row driving (R210, R215, R219, R270) -/

/-- R210: the payload of a row whose every segment has arrived, with its LAST. -/
def ChainNode.rowData (c : ChainNode) (k : Nat) : Option (List Byte × Bool) :=
  let xs := c.rows.filter fun r => r.tickId == k
  match xs with
  | [] => none
  | x :: _ =>
    let parts := (List.range x.segs).map fun i => (xs.find? fun r => r.seg == i).map (·.payload)
    if parts.all (·.isSome) then some (parts.flatMap fun p => p.getD [], x.lastRow) else none

/-- R215, R219, R270: a panel node's tick. -/
def panelTick (n k : Nat) (first : Bool) (period : Nat) (t : Int) (s : State) : State :=
  let c := (s.cnode n).countTick k
  let row := if first then 0 else c.curRow
  let data := c.rowData k
  let c1 := { c with rows := [], crcInInterval := false, tickAt := s.wall, frameSeen := c.frameSeen || first, curRow := row + 1
                     rowTime := period, frameRows := if first && c.frameSeen then c.curRow else c.frameRows }
  if !c1.frameSeen || decide (c1.activeRows ≤ row) then s.setCnode n c1
  else
    let c2 := match data with
      | none => if c1.hold then c1 else c1.blank (if c.crcInInterval then 1 else 2)
      | some d => { c1 with store := Tab.put [] c1.store row d.1, statusDue := c1.statusDue || d.2 }
    (s.setCnode n c2).emit (.row n row (t + Int.ofNat period) period (Tab.get [] c2.store row))

/-- R217: a panel node in Halter drives its stored frame row by row at the rate it last used. Its rows per frame are those between
its last two frame starts, or without them its active rows (DEDUCED, log 64). -/
def panelStep (n : Nat) (s : State) : State :=
  let c := s.cnode n
  if !c.panel || c.run != .halter || c.rowTime == 0 || decide (s.wall < c.rowAt) then s
  else
    let rows := Nat.max 1 (if c.frameRows = 0 then c.activeRows else c.frameRows)
    let row := c.curRow % rows
    let s1 := s.setCnode n { c with curRow := (row + 1) % rows, rowAt := s.wall + c.rowTime }
    if c.activeRows ≤ row then s1
    else s1.emit (.row n row (Int.ofNat s.wall + Int.ofNat c.rowTime) c.rowTime (Tab.get [] c.store row))

/-- R192, R217: what the nodes of the chains do of themselves as time passes. -/
def nodesStep (s : State) : State := s.chain.foldl (fun st e => panelStep e.1 (purgeStep e.1 st)) s

/-- R214: the tick is one that this node obeys. -/
def ChainNode.obeys (c : ChainNode) (portB : Bool) (bytes : List Byte) : Bool :=
  let kind := bitAt (byteAt bytes 1) 7
  let low := byteAt bytes 2 % 16
  c.holder == some portB && c.run == .run && kind == c.panel &&
    (if c.panel then low % 2 == b2n c.groupB else low == c.bankByte c.latestBank 0)

/-- NODE_TICK (R186, R202, R206, R207, R214 to R216, R219, R270): `tRx` is when the block's first bit reached the port, in ps. -/
def execNodeTick (node : Nat) (portB : Bool) (bytes : List Byte) (tRx : Int) (s0 : State) : Host.Outcome State Fault Refusal :=
  let s := nodeForward node portB bytes s0
  if !blockOk 0x4B bytes then .next (blockError node s)
  else
    let c := (s.cnode node).hear portB s.wall
    let s1 := s.setCnode node c
    if !c.obeys portB bytes then .next s1
    else
      let hop := bitsAt (byteAt bytes 2) 4 3
      let cable := if portB then c.cableB else c.cableA
      let t := Int.fdiv (tRx - Int.ofNat (hop * 12800) - Int.ofNat cable) 1000
      let k := byteAt bytes 1 % 64
      let flag := bitAt (byteAt bytes 1) 6
      let period := numAt bytes 4 3
      .next (if c.panel then panelTick node k flag period t s1 else headTick node k flag (byteAt bytes 3) period t s1)

/-! ### Keep-warm and status (R189, R209, R220) -/

/-- NODE_KEEP_WARM_IDLE (R189): a pre-heat sequence when no tick has come for KW_IDLE_US. -/
def execNodeKeepWarmIdle (node : Nat) (s : State) : Host.Outcome State Fault Refusal :=
  let c := s.cnode node
  let b := c.latestBank
  let rate := c.bankNum b 26 2
  if c.panel || c.bankByte b 3 != 1 || rate == 0 ||
      decide (s.wall < c.tickAt + 1000 * c.bankNum b 24 2) || decide (s.wall < c.kwAt + 10 ^ 9 / rate) then .next s
  else
    let t := Int.ofNat s.wall
    let idle := fun (col : Nat) => Out.sequence node col 0 t (c.bankNum b 20 2) (c.pulses b col 0 none)
    .next (((s.setCnode node { c with kwAt := s.wall }).emit (idle 0)).emit (idle 1))

/-- R209: FLAGS of the status body. -/
def ChainNode.flags (c : ChainNode) : Nat :=
  b2n (c.run == .halter) + 2 * b2n (c.panel && c.hold) + 4 * b2n (c.holder == some false) + 8 * b2n (c.holder == some true) +
    16 * b2n c.lockA + 32 * b2n c.lockB + 64 * c.latestBank + 128 * b2n c.claimConflict + 256 * b2n c.idMismatch +
    512 * b2n c.overtemp + 1024 * b2n c.supplyFault + 2048 * b2n c.logOvf + 4096 * b2n c.assigned

/-- R209: the status body. -/
def ChainNode.statusBody (c : ChainNode) (temps : List Nat) (mv cur : Nat) : List Byte :=
  le 2 c.flags ++ le 2 c.held ++ le 4 c.ticksSeen ++
    ((List.range 4).flatMap fun i => le 2 (if i < c.tempSensors then temps.getD i 0x8000 else 0x8000)) ++ le 2 mv ++ le 2 cur ++
    le 2 c.crcErr ++ le 2 c.dataLate ++ le 2 c.missedTick ++ le 2 c.squeeze ++ le 2 c.claimReject ++ le 2 c.blockErr ++
    le 4 c.spits ++ le 4 c.nhFail ++
    ((List.range 4).flatMap fun i => match c.log[i]? with
      | none => le 4 0
      | some e => le 2 e.ticks ++ le 1 e.reason ++ le 1 0) ++ le 4 c.statusSeq ++ le 4 0

/-- NODE_STATUS_TIMER (R209, R220, R449): the node sends a status frame with what its sensors measure. A head node that sets
OVERTEMP stops itself. -/
def execNodeStatusTimer (node : Nat) (temps : List Nat) (mv cur nhFail : Nat) (overtemp supplyFault : Bool) (s : State) :
    Host.Outcome State Fault Refusal :=
  let c0 := s.cnode node
  let c := if overtemp && !c0.panel then c0.toHalter else c0
  let c1 := { c with overtemp := overtemp, supplyFault := supplyFault, nhFail := if c.panel then 0 else nhFail % 2 ^ 32
                     statusSeq := (c.statusSeq + 1) % 2 ^ 32 }
  let body := c1.statusBody temps mv cur
  let c2 := { c1 with status := body, claimConflict := false, log := [], logOvf := false, statusDue := false
                      lastStatusTime := s.wall }
  .next (nodeSend node (mkFrame FType.status c1.id c1.held 0 body) (holdFire node (s.setCnode node c2)))

end Sys2Proof.Machine
end

