-- ==== Sys2Proof/Machine/Ptp.lean ====
section
/-! DEFINITION. PTP: time-stamps, path delay, servo input, port states and forwarding (R382 to R389). The message fields,
the comparison of masters and the port states are those of IEEE 1588-2019, which R383 takes over. -/

namespace Sys2Proof.Machine

/-! ### Units and time-stamps (R385) -/

/-- A correction in 2^-16 ns as ps. -/
def corrPs (c : Int) : Int := Int.fdiv (c * 1000) 65536

/-- ps as a correction in 2^-16 ns. -/
def psCorr (p : Int) : Int := Int.fdiv (p * 65536) 1000

/-- R385: the receive time at the balls, ps. -/
def Port.rxTime (x : Port) (tBoundary : Int) : Int :=
  tBoundary - (Int.ofNat (Config.rxFixed x.cfg.speed).toNat + x.cfg.ingressPs)

/-- R385: the transmit time at the balls of a message that crosses the boundary now, ps. -/
def State.txTime (s : State) (p : Nat) : Int :=
  Int.ofNat (1000 * s.time.now) + (Int.ofNat (Config.txFixed (s.port p).cfg.speed).toNat + (s.port p).cfg.egressPs)

/-- The clock identity of this LZ9 on a port: its MAC address as an EUI-64. -/
def State.clockId (s : State) (p : Nat) : Nat :=
  let m := (s.port p).mac
  m % 2 ^ 24 + 0xFEFF * 2 ^ 24 + m / 2 ^ 24 * 2 ^ 40

/-- Bytes first octet first, as a number to compare. -/
def octets (id : Nat) : Nat := ofBe (le 8 id)

/-- A log interval in ns. -/
def logNs (l : Int) : Nat := if l < 0 then 10 ^ 9 / 2 ^ l.natAbs else 10 ^ 9 * 2 ^ l.natAbs

/-- Send a PTP message. -/
def sendPtp (p : Nat) (m : PtpMsg) (s : State) : State := s.emit (.ptp p m (s.txTime p))

/-- The header of a message that port `p` originates. -/
def State.ptpHeader (s : State) (p sq : Nat) (corr : Int) (two : Bool) (log : Int) : PtpHeader :=
  { domain := (s.port p).cfg.domain, seq := sq % 65536, corr := corr, clock := s.clockId p, port := p + 1, twoStep := two
    logInterval := log }

/-! ### Masters (R383) -/

/-- The data set of this LZ9 as a master. -/
def State.ownGm (s : State) (p : Nat) : GmInfo :=
  let c := (s.port p).cfg
  { priority1 := c.priority1, clockClass := s.time.clockClass, priority2 := c.priority2, identity := s.clockId p }

/-- The data set comparison: the order of its fields. -/
def gmRank (g : GmInfo) : List Nat :=
  if g.identity = 0 then [] else [g.priority1, g.clockClass, g.accuracy, g.variance, g.priority2, octets g.identity, g.steps]

/-- The first list comes first in dictionary order. -/
def lexLt : List Nat → List Nat → Bool
  | _, [] => false
  | [], _ :: _ => true
  | a :: as, b :: bs => decide (a < b) || (a == b && lexLt as bs)

/-- The first master is better. -/
def gmBetter (a b : GmInfo) : Bool := lexLt (gmRank a) (gmRank b)

/-- The best Announce held on the ports that take part, with its port. -/
def State.bestGm (s : State) : Option (Nat × GmInfo) :=
  [0, 1].foldl (fun acc p =>
    match (s.port p).gm with
    | none => acc
    | some g =>
      if (s.port p).linkUp && !bitAt (s.port p).cfg.pflags 1 then
        match acc with
        | none => some (p, g)
        | some b => if gmBetter g b.2 then some (p, g) else acc
      else acc) none

/-- The port runs the best master clock algorithm. -/
def Port.runs (x : Port) : Bool := x.linkUp && x.cfg.speed != 0 && (x.cfg.role == 1 || x.cfg.role == 2)

/-- R383: the state the algorithm gives port `p`. -/
def State.recommend (s : State) (p : Nat) : PortState :=
  let x := s.port p
  let slaveOnly := bitAt x.cfg.pflags 2
  let masterOnly := bitAt x.cfg.pflags 1
  match s.bestGm with
  | none => if slaveOnly then .listening else .master
  | some (q, g) =>
    if masterOnly then .master
    else if gmBetter (s.ownGm p) g then (if slaveOnly then .listening else .master)
    else if q = p then (if x.ptp = some .slave then .slave else .uncalibrated)
    else if slaveOnly then .listening
    else
      match x.gm with
      | some e => if e.identity = g.identity then .passive else .master
      | none => .master

/-- R383, R388: run the best master clock algorithm on every port that takes part. -/
def runBmca (s : State) : State :=
  let old := s.time.gm
  let s1 := [0, 1].foldl (fun st p => if (st.port p).runs then setPtp p (st.recommend p) st else st) s
  let slave := s1.ptpIs .slave || s1.ptpIs .uncalibrated
  let gm := match s1.bestGm with
    | some (_, g) => if slave then g.identity else if s1.ptpIs .master then s1.clockId 0 else g.identity
    | none => if s1.ptpIs .master then (if (s1.port 0).runs then s1.clockId 0 else s1.clockId 1) else 0
  let s2 := if gm = old then s1 else raise Src.time 0x0007 (le 8 gm) (s1.withTime fun t => { t with gm := gm })
  if slave then freeServo s2
  else if s2.ptpIs .master then setServo .grandmaster s2
  else freeServo s2

/-! ### The servo (R388, R389) -/

/-- R388: one Sync: the offset steps, steers or locks the servo. RATE_ADJ of the PI loop is a free value. -/
def servoSync (offset : Int) (s0 : State) : State :=
  let s := s0.withTime fun t => { t with offset := saturate 32 offset }
  if s.time.stepNs < offset.natAbs ∧ (s.stepAllowed ∨ !s.time.stepBlocked) then
    let s1 := stepTime (-offset) s
    if s.stepAllowed then setServo .acquiring s1 else s1
  else
    let lim : Int := 549755814
    let r := max (-lim) (min lim (signed 32 (s.freeNat 32)))
    let near := offset.natAbs ≤ s.time.lockNs
    let steer := s.time.servo = .acquiring ∨ s.time.servo = .locked
    let s1 := (if steer then s.useFree else s).withTime fun t =>
      { t with
        rateAdj := if steer then r else t.rateAdj
        rates := if steer then (t.rates ++ [r]).drop (t.rates.length + 1 - 16) else t.rates
        inside := if near then t.inside + 1 else 0, outside := if near then 0 else t.outside + 1
        stepBlocked := t.stepBlocked && decide (t.stepNs < offset.natAbs) }
    if s1.time.servo = .locked ∧ 16 ≤ s1.time.outside then setServo .acquiring s1
    else if (s1.time.servo = .acquiring ∨ s1.time.servo = .holdover) ∧ 16 ≤ s1.time.inside then setServo .locked s1
    else s1

/-- R388: a Sync of the master of port `p`, sent at `t1` ps and received at `t2` ps, corrections and asymmetry applied. -/
def useSync (p : Nat) (t1 t2 : Int) (log : Int) (s : State) : State :=
  let x := s.port p
  let s1 := s.setPort p { x with lastSync := some (t1, t2), syncAt := s.uptime, syncLog := log }
  let s2 := if x.ptp = some .uncalibrated then setServo .acquiring (setPtp p .slave s1)
    else if x.cfg.role = 3 ∧ s1.time.servo = .free then setServo .acquiring s1 else s1
  servoSync (Int.tdiv (t2 - t1 - x.pathPs) 1000) s2

/-- The path delay of the slave port, ns (R406). -/
def setPath (p : Nat) (ps : Int) (s : State) : State :=
  (s.setPort p { s.port p with pathPs := ps }).withTime fun t => { t with pathDelay := saturate 32 (Int.tdiv ps 1000) }

/-! ### Messages (R383, R384, R386) -/

/-- Port `p` follows the sender of a message. -/
def State.follows (s : State) (p : Nat) (h : PtpHeader) : Bool :=
  let x := s.port p
  x.gmFrom == (h.clock, h.port) && (x.ptp == some .slave || x.ptp == some .uncalibrated || x.cfg.role == 3)

/-- R384, R386: forward a message through the transparent clock to the other port. `res` is the residence time, ps. The path delay
messages pass an end-to-end clock only; a peer-to-peer clock answers them itself. -/
def forward (p : Nat) (m : PtpMsg) (tRx : Int) (s : State) : State :=
  let q := 1 - p
  let x := s.port p
  let link := if x.cfg.delay = 2 then x.pathPs else 0
  let res := s.txTime q - tRx
  let addTo := fun (d : Int) => ({ m with header := { m.header with corr := m.header.corr + psCorr d } } : PtpMsg)
  match m.body with
  | .sync _ =>
    if m.header.twoStep then
      sendPtp q m (s.setPort p { x with residence := (x.residence ++ [(m.header.seq, res + link)]).drop (x.residence.length + 1 - 16) })
    else sendPtp q (addTo (res + link)) s
  | .followUp _ =>
    let d := ((x.residence.find? fun e => e.1 == m.header.seq).map (·.2)).getD 0
    sendPtp q (addTo d) (s.setPort p { x with residence := x.residence.filter fun e => e.1 != m.header.seq })
  | .delayReq => if x.cfg.delay = 1 then sendPtp q (addTo res) s else s
  | .pdelayReq => if x.cfg.delay = 1 then sendPtp q (addTo res) s else s
  | .pdelayResp _ _ _ =>
    if x.cfg.delay ≠ 1 then s
    else if m.header.twoStep then
      let k := m.header.seq + 65536
      sendPtp q m (s.setPort p { x with residence := (x.residence ++ [(k, res)]).drop (x.residence.length + 1 - 16) })
    else sendPtp q (addTo res) s
  | .pdelayRespFollowUp _ _ _ =>
    let k := m.header.seq + 65536
    let d := ((x.residence.find? fun e => e.1 == k).map (·.2)).getD 0
    if x.cfg.delay = 1 then sendPtp q (addTo d) (s.setPort p { x with residence := x.residence.filter fun e => e.1 != k }) else s
  | .delayResp _ _ _ => if x.cfg.delay = 1 then sendPtp q m s else s
  | .announce _ => sendPtp q m s
  | .signaling => sendPtp q m s
  | .management => s

/-- R383, R386: answer a Pdelay_Req received at `tRx` ps. -/
def answerPdelay (p : Nat) (h : PtpHeader) (tRx : Int) (s : State) : State :=
  let two := bitAt (s.port p).cfg.pflags 0
  let rx := Int.fdiv tRx 1000
  let turn := s.txTime p - rx * 1000
  if two then
    let s1 := sendPtp p { header := s.ptpHeader p h.seq 0 true 0x7F, body := .pdelayResp rx.toNat h.clock h.port } s
    let tx := Int.fdiv (s.txTime p) 1000
    sendPtp p { header := s.ptpHeader p h.seq (h.corr + psCorr (s.txTime p - tx * 1000 - (tRx - rx * 1000))) false 0x7F
                body := .pdelayRespFollowUp tx.toNat h.clock h.port } s1
  else sendPtp p { header := s.ptpHeader p h.seq (h.corr + psCorr turn) false 0x7F, body := .pdelayResp rx.toNat h.clock h.port } s

/-- R383: use a message on the port that receives it. `tRx` is its time-stamp, ps. -/
def usePtp (p : Nat) (m : PtpMsg) (tRx : Int) (s : State) : State :=
  let x := s.port p
  let h := m.header
  let mine := fun (c n : Nat) => c == s.clockId p && n == p + 1
  match m.body with
  | .sync origin =>
    if !s.follows p h then s
    else if h.twoStep then s.setPort p { x with pend := some (h.seq, tRx, corrPs (h.corr + x.cfg.delayAsym)) }
    else useSync p (Int.ofNat (1000 * origin) + corrPs (h.corr + x.cfg.delayAsym)) tRx h.logInterval s
  | .followUp origin =>
    match x.pend with
    | some e =>
      if s.follows p h && e.1 == h.seq then
        useSync p (Int.ofNat (1000 * origin) + e.2.2 + corrPs h.corr) e.2.1 h.logInterval (s.setPort p { x with pend := none })
      else s
    | none => s
  | .delayReq =>
    if x.ptp = some .master then
      sendPtp p { header := { s.ptpHeader p h.seq h.corr false x.cfg.logDelayReq with
                    corr := h.corr - psCorr (tRx - Int.fdiv tRx 1000 * 1000) }
                  body := .delayResp (Int.fdiv tRx 1000).toNat h.clock h.port } s
    else s
  | .delayResp receipt c n =>
    match x.delayTx, x.lastSync with
    | some e, some y =>
      if mine c n && e.1 == h.seq && s.follows p h then
        setPath p (((y.2 - y.1) + (Int.ofNat (1000 * receipt) - e.2 - corrPs h.corr)) / 2)
          (s.setPort p { x with delayTx := none })
      else s
    | _, _ => s
  | .pdelayReq => if x.cfg.delay = 2 then answerPdelay p h tRx s else s
  | .pdelayResp receipt c n =>
    match x.pdTx with
    | some e =>
      if mine c n && e.1 == h.seq then
        if h.twoStep then s.setPort p { x with pdT := some (tRx, Int.ofNat (1000 * receipt)) }
        else setPath p (((tRx - e.2) - corrPs (h.corr + x.cfg.delayAsym)) / 2) (s.setPort p { x with pdTx := none })
      else s
    | none => s
  | .pdelayRespFollowUp origin c n =>
    match x.pdTx, x.pdT with
    | some e, some y =>
      if mine c n && e.1 == h.seq then
        setPath p (((y.1 - e.2) - (Int.ofNat (1000 * origin) - y.2) - corrPs (h.corr + x.cfg.delayAsym)) / 2)
          (s.setPort p { x with pdTx := none, pdT := none })
      else s
    | _, _ => s
  | .announce g =>
    if x.cfg.role = 3 then
      let s1 := s.setPort p { x with gm := some g, gmFrom := (h.clock, h.port), annAt := s.uptime }
      if s1.time.gm = g.identity then s1
      else raise Src.time 0x0007 (le 8 g.identity) (s1.withTime fun t => { t with gm := g.identity })
    else if g.identity = s.clockId p then s
    else
      let take := match x.gm with
        | none => true
        | some b => x.gmFrom == (h.clock, h.port) || gmBetter g b
      if take then
        runBmca (s.setPort p { x with gm := some g, gmFrom := (h.clock, h.port), annAt := s.uptime
                                      lastSync := if x.gmFrom = (h.clock, h.port) then x.lastSync else none })
      else s
  | .signaling => s
  | .management => ethDrop p s

/-- PTP_MESSAGE_RX (R382 to R389): a message whose boundary time-stamp is `tBoundary` ps. One that the port takes no part in (no
role, another domain) is discarded and counted as a frame it does not receive (DEDUCED from R382, log 70). -/
def execPtpMessageRx (port : Nat) (msg : PtpMsg) (tBoundary : Int) (s : State) : Host.Outcome State Fault Refusal :=
  let x := s.port port
  if 1 < port || !x.linkUp then .next s
  else if x.cfg.role == 0 || msg.header.domain != x.cfg.domain then .next (ethDrop port s)
  else
    let tRx := x.rxTime tBoundary
    let s1 := usePtp port msg tRx s
    .next (if x.cfg.role = 3 then forward port msg tRx s1 else s1)

/-- SYNC_TIMEOUT (R388): no Sync for 3 Sync intervals from LOCKED. -/
def execSyncTimeout (s : State) : Host.Outcome State Fault Refusal :=
  let late := [0, 1].any fun p =>
    let x := s.port p
    (x.ptp == some .slave || x.cfg.role == 3) && decide (x.syncAt + 3 * logNs x.syncLog ≤ s.uptime)
  if s.time.servo = .locked ∧ late then .next (setServo .holdover s) else .next s

/-- ANNOUNCE_RECEIPT_TIMEOUT (R383, R388): no Announce on a port for ANNOUNCE_TIMEOUT intervals. -/
def execAnnounceReceiptTimeout (port : Nat) (s : State) : Host.Outcome State Fault Refusal :=
  let x := s.port port
  if decide (port < 2) && x.runs && decide (x.annAt + x.cfg.announceTimeout * logNs x.cfg.logAnnounce ≤ s.uptime) then
    .next (runBmca (s.setPort port { x with gm := none, gmFrom := (0, 0), lastSync := none, pend := none, annAt := s.uptime }))
  else .next s

/-- R386: send Sync, one-step or with its Follow_Up. -/
def transmitSync (p : Nat) (s : State) : State :=
  let x := s.port p
  let two := bitAt x.cfg.pflags 0
  let tx := s.txTime p
  let s1 := s.setPort p { x with seqSync := (x.seqSync + 1) % 65536, sentSync := s.uptime }
  if two then
    let ns := Int.fdiv tx 1000
    sendPtp p { header := s.ptpHeader p x.seqSync (psCorr (tx - ns * 1000)) false x.cfg.logSync, body := .followUp ns.toNat }
      (sendPtp p { header := s.ptpHeader p x.seqSync 0 true x.cfg.logSync, body := .sync s.time.now } s1)
  else
    sendPtp p { header := s.ptpHeader p x.seqSync (psCorr (tx - Int.ofNat (1000 * s.time.now))) false x.cfg.logSync
                body := .sync s.time.now } s1

/-- R383: send Announce. -/
def transmitAnnounce (p : Nat) (s : State) : State :=
  let x := s.port p
  let g := match s.bestGm with
    | some (_, g) => if s.ptpIs .slave then { g with steps := g.steps + 1 } else s.ownGm p
    | none => s.ownGm p
  sendPtp p { header := s.ptpHeader p x.seqAnn 0 false x.cfg.logAnnounce, body := .announce g }
    (s.setPort p { x with seqAnn := (x.seqAnn + 1) % 65536, sentAnn := s.uptime })

/-- R383: send Delay_Req or Pdelay_Req. -/
def transmitDelay (p : Nat) (s : State) : State :=
  let x := s.port p
  let sq := x.seqDelay
  let x1 := { x with seqDelay := (sq + 1) % 65536, sentDelay := s.uptime }
  let hd := s.ptpHeader p sq (-x.cfg.delayAsym) false 0x7F
  if x.cfg.delay = 2 then
    sendPtp p { header := hd, body := .pdelayReq } (s.setPort p { x1 with pdTx := some (sq, s.txTime p), pdT := none })
  else sendPtp p { header := hd, body := .delayReq } (s.setPort p { x1 with delayTx := some (sq, s.txTime p) })

/-- PTP_TRANSMIT_INTERVAL (R383, R385, R386): each message of port `p` whose interval has elapsed. -/
def execPtpTransmitInterval (port : Nat) (s : State) : Host.Outcome State Fault Refusal :=
  let x := s.port port
  if 1 < port || !x.linkUp || x.cfg.role == 0 then .next s
  else
    let master := x.ptp == some .master
    let slave := x.ptp == some .slave || x.ptp == some .uncalibrated || x.cfg.role == 3
    let s1 := if master && decide (x.sentSync + logNs x.cfg.logSync ≤ s.uptime) then transmitSync port s else s
    let s2 := if master && decide (x.sentAnn + logNs x.cfg.logAnnounce ≤ s.uptime) then transmitAnnounce port s1 else s1
    .next (if (slave || x.cfg.delay == 2) && decide (x.sentDelay + logNs x.cfg.logDelayReq ≤ s.uptime) then transmitDelay port s2
      else s2)

/-- PCS_LINK_CHANGE (R405). -/
def execPcsLinkChange (port : Nat) (up : Bool) (s : State) : Host.Outcome State Fault Refusal :=
  let x := s.port port
  let on := up && x.cfg.speed != 0
  if 1 < port || x.linkUp == on || s.beforeReady then .next s
  else
    let st : PortState := if x.cfg.role = 0 ∨ x.cfg.speed = 0 then .disabled else if on then .listening else .initializing
    let y := { x with linkUp := on, ptp := some st, gm := none, gmFrom := (0, 0), lastSync := none, pend := none
                      delayTx := none, pdTx := none, pdT := none, annAt := s.uptime, syncAt := s.uptime }
    .next (freeServo (portEvent port (s.setPort port y)))

/-- ARP_REQUEST_RX (R382): a request for `target` from `senderMac` and `senderIp`; addresses first octet lowest. -/
def execArpRequestRx (port target senderMac senderIp : Nat) (s : State) : Host.Outcome State Fault Refusal :=
  let x := s.port port
  if 1 < port || !x.linkUp then .next s
  else if x.cfg.transport = 2 ∧ target = x.cfg.ipv4 then
    .next (s.emit (.eth port (ethPad (ethHeader x senderMac 0x0806 ++ be 2 1 ++ be 2 0x0800 ++ [6#8, 4#8] ++ be 2 2 ++
      le 6 x.mac ++ le 4 x.cfg.ipv4 ++ le 6 senderMac ++ le 4 senderIp))))
  else .next (ethDrop port s)

end Sys2Proof.Machine
end

