-- ==== Sys2Proof/Machine/RegsHost.lean ====
section
/-! DEFINITION. Registers as the host reads them, first part: TOP (R25, R30, R74, R525), CMD (R45 to R57), WEB (R105), PRN
(R132, R164), FIRE (R199), REIN (R237) and LCS (R514). `o` is the offset in the block; an offset no register occupies reads 0
(R532). -/

namespace Sys2Proof.Machine

/-- A field of `w` bits at bit `lo`. -/
def fld (lo w v : Nat) : Nat := v % 2 ^ w * 2 ^ lo

/-- A signed field. -/
def sfld (lo w : Nat) (i : Int) : Nat := unsigned w i * 2 ^ lo

/-- A flag at bit `lo`. -/
def flg (lo : Nat) (b : Bool) : Nat := if b then 2 ^ lo else 0

/-- The low 32 bits. -/
def lo32 (v : Nat) : Nat := v % 2 ^ 32

/-- The high 32 bits of a 64-bit value. -/
def hi32 (v : Nat) : Nat := v / 2 ^ 32 % 2 ^ 32

/-- Index and offset of `o` in an array of `n` instances `stride` bytes apart from `base` on. -/
def inArr (base stride n o : Nat) : Option (Nat × Nat) :=
  if base ≤ o ∧ o < base + stride * n then some ((o - base) / stride, (o - base) % stride) else none

/-! ### TOP -/

/-- TOP.CAPABILITY (R30). -/
def capabilityWord (p : Part) (m : Mode) : Nat :=
  flg 0 p.print + flg 1 p.lightfield + flg 2 p.tandem + flg 3 p.splitLock + flg 4 p.wholeFrame + flg 5 p.dramFrame +
    flg 6 p.extTj + flg 7 p.pkgA + fld 8 2 m.code

/-- TOP.CAP_COUNT (R30). -/
def capCountWord (p : Part) : Nat :=
  fld 0 5 p.engines + fld 5 3 p.ddrChannels + fld 8 6 p.links + fld 14 3 p.cameraPorts + fld 17 5 p.axes + fld 22 2 2

/-- Registers of TOP. -/
def topReg (s : State) (o : Nat) : Nat :=
  let p := s.fuse.part
  match o with
  | 0x00 => 0x4C39 + fld 16 4 s.fuse.stepping.toNat + fld 20 8 p.code
  | 0x08 => capabilityWord p s.top.mode
  | 0x0C => capCountWord p
  | 0x10 => p.nozzleLimit
  | 0x14 => p.emitterLimit
  | 0x18 => sfld 0 8 p.tjMin + fld 8 8 p.tjMax + fld 16 8 p.powerMax
  | 0x20 => lo32 s.fuse.deviceId.toNat
  | 0x24 => hi32 s.fuse.deviceId.toNat
  | 0x40 => fld 0 4 s.top.dev.code + fld 4 4 s.top.prev.code + fld 8 8 s.top.cause.code
  | 0x48 => fld 0 10 s.top.conflicts + fld 10 22 s.top.lastDword
  | 0x50 => fld 0 16 s.top.hpen + fld 16 16 s.hpenLevel
  | _ => 0

/-! ### CMD -/

/-- A record ring's configuration register. -/
def recCfg (r : RecRing) : Nat :=
  flg 0 r.enable + fld 4 4 r.log2 + fld 8 6 r.vector + fld 16 8 r.coalCount + fld 24 8 r.coalTime

/-- A record ring's pointer register. -/
def recPtr (r : RecRing) : Nat := fld 0 14 r.head + fld 16 14 r.tail + flg 31 r.phase

/-- The four registers of a record ring. -/
def recReg (r : RecRing) (sub : Nat) : Nat :=
  match sub with
  | 0x0 => lo32 r.base
  | 0x4 => hi32 r.base
  | 0x8 => recCfg r
  | 0xC => recPtr r
  | _ => 0

/-- The registers of a command ring; `wait` is WAIT_SLOT. -/
def cmdRingReg (r : CmdRing) (wait : Bool) (sub : Nat) : Nat :=
  match sub with
  | 0x0 => flg 0 r.enable + fld 4 4 r.log2
  | 0x8 => fld 0 12 r.head + flg 16 r.waitOwn + flg 17 wait + fld 24 8 r.ownMiss
  | _ => 0

/-- A word of an MSI-X table entry. -/
def MsixEntry.word (e : MsixEntry) (sub : Nat) : Nat :=
  match sub with
  | 0x0 => e.addrLo
  | 0x4 => e.addrHi
  | 0x8 => e.data
  | 0xC => e.ctrl
  | _ => 0

/-- Registers of CMD. -/
def cmdReg (s : State) (o : Nat) : Nat :=
  match inArr 0x1000 0x40 8 o with
  | some (n, sub) => cmdRingReg (s.cmdRing n) (s.waitsSlot n) sub
  | none =>
  match inArr 0x2000 0x40 8 o with
  | some (n, sub) => recReg (s.cplRing n) sub
  | none =>
  match inArr 0x8000 0x10 64 o with
  | some (v, sub) => (Tab.get {} s.pcie.msix v).word sub
  | none =>
  match o with
  | 0x0000 => fld 0 8 s.inflight + fld 8 3 s.lcs.inForce.windowGib + fld 16 16 s.cmd.winDrop
  | 0x0008 => lo32 s.cmd.hostBase
  | 0x000C => hi32 s.cmd.hostBase
  | 0x0010 => lo32 s.cmd.hostSize
  | 0x0014 => hi32 s.cmd.hostSize
  | 0x3010 => fld 0 16 s.cmd.lostAll + fld 16 16 s.cmd.lostFrame
  | 0x9000 => lo32 s.pcie.pba
  | 0x9004 => hi32 s.pcie.pba
  | _ => if 0x3000 ≤ o ∧ o < 0x3010 then recReg s.cmd.evt (o - 0x3000) else 0

/-! ### WEB -/

/-- R91, R447, R524: the level of SLOW_REQ. -/
def State.slowReq (s : State) : Bool :=
  match s.top.dev with
  | .reset | .boot => false
  | .fault | .tripped => true
  | .idle | .armed | .run | .halter => s.web.gait == .overspeed || s.throttleReq

/-- R450, R524: the level of STOP_REQ. -/
def State.stopReqLevel (s : State) : Bool :=
  match s.top.dev with
  | .reset | .boot => false
  | .fault | .tripped => true
  | .idle | .armed | .run | .halter => s.stopReq

/-- The registers of a WEB channel. STOPPED says that the speed is 0, as its map has it, not that R87's variable `stopped` is set. The
LO word of P and of LP is here, the HI words are latches (R535). -/
def chanReg (c : Channel) (sub : Nat) : Nat :=
  match sub with
  | 0x00 => fld 0 2 c.mode.code + fld 2 2 c.role.code + flg 4 c.illegal + flg 5 c.overrate + flg 6 c.dirRev + flg 7 (c.speed.num == 0) +
      fld 16 16 c.illegalCount
  | 0x08 => lo32 (unsigned 64 c.p)
  | 0x0C => hi32 (unsigned 64 c.p)
  | 0x10 => unsigned 32 c.w
  | 0x14 => unsigned 32 c.speed.x16
  | 0x18 => sfld 0 16 (saturate 16 c.lastErr) + fld 16 16 c.slips
  | _ => 0

/-- The registers of a WEB bar. -/
def webBarReg (s : State) (b sub : Nat) : Nat :=
  let x := s.webBar b
  match sub with
  | 0x00 => lo32 (unsigned 64 (s.lpOf b))
  | 0x04 => hi32 (unsigned 64 (s.lpOf b))
  | 0x08 => unsigned 32 x.offset
  | 0x0C => unsigned 32 x.target
  | 0x10 => lo32 x.skips
  | 0x14 => fld 0 6 x.tickId + fld 6 8 x.phase + flg 14 x.skipped + flg 15 x.enabled
  | 0x18 => lo32 x.minPeriod
  | _ => 0

/-- Registers of WEB at 0x0000 to 0x05FF. -/
def webReg (s : State) (o : Nat) : Nat :=
  match inArr 0x0100 0x40 8 o with
  | some (n, sub) => chanReg (s.chan n) sub
  | none =>
  match inArr 0x0400 0x20 16 o with
  | some (b, sub) => webBarReg s b sub
  | none =>
  match o with
  | 0x00 =>
    let m := s.masterChan.getD {}
    fld 0 3 s.web.gait.code + flg 3 s.slowReq + flg 4 (decide (0 < s.web.doubtRemain)) + flg 5 m.mismatch + flg 6 m.missing +
      flg 7 s.web.checkMismatch + fld 8 4 (s.web.master.getD 15) + fld 12 4 (s.web.check.getD 15)
  | 0x08 => lo32 (unsigned 64 s.web.hwm)
  | 0x0C => hi32 (unsigned 64 s.web.hwm)
  | 0x10 => lo32 (unsigned 64 s.webPos)
  | 0x14 => hi32 (unsigned 64 s.webPos)
  | 0x18 => unsigned 32 s.lineRate.x16
  | 0x1C => lo32 s.maxLineRate
  | 0x20 => lo32 s.web.doubtRemain
  | _ => 0

/-- WEB with the snapshot (R536). -/
def webRegAll (s : State) (o : Nat) : Nat :=
  if 0x8000 ≤ o ∧ o < 0x8600 then Tab.get 0 s.web.snapshot (o - 0x8000) else webReg s o

/-! ### PRN, and what LFR and SCAN share with it -/

/-- R132: the frame registers at 0x0080 to 0x0098. -/
def frameReg (s : State) (o : Nat) : Nat :=
  let x := s.frames
  match o with
  | 0x80 => x.openFirst.toNat
  | 0x84 => x.frameLast.toNat
  | 0x88 => x.genLast.toNat
  | 0x8C => x.genCut.toNat
  | 0x90 => fld 0 8 s.inFlight + fld 8 5 s.pendingCommits.length + fld 13 5 x.nCut
  | 0x94 => fld 0 16 x.rollBands + fld 16 16 x.rollCommits
  | 0x98 => lo32 x.lastFlags
  | _ => 0

/-- The part of a busy span in the last 100 ms, in ns. -/
def spanBusy (now : Nat) (e : Nat × Nat) : Nat := Nat.min now e.2 - Nat.max (now - 10 ^ 8) e.1

/-- The bands being rendered. -/
def State.rendering (s : State) : List Band := s.frames.bands.filter fun b => b.phase == .rendering

/-- RENDER_LOAD: the busy fraction of the engines, and the engines rendering now. -/
def renderLoad (s : State) : Nat :=
  let spans := s.prn.busyLog ++ s.rendering.map fun b => (b.renderStart, s.uptime)
  let busy := (spans.map (spanBusy s.uptime)).foldl (· + ·) 0
  fld 0 10 (Nat.min 1000 (busy * 1000 / (s.fuse.part.engines * 10 ^ 8))) + fld 16 5 s.rendering.length

/-- SLACK_MIN: the smallest slack of the last 100 ms. -/
def slackMin (s : State) : Nat :=
  unsigned 32 (((s.prn.slackLog.filter fun e => decide (s.uptime < e.1 + 10 ^ 8)).map (·.2)).foldl min 0x7FFFFFFF)

/-- Registers of PRN. -/
def prnReg (s : State) (o : Nat) : Nat :=
  let j := s.prn.job
  match inArr 0x40 4 16 o with
  | some (b, sub) =>
    let bands := s.frames.bands.filter fun x => x.bar == b
    if sub = 0 then
      fld 0 8 (bands.filter fun x => x.phase == .complete && !x.fetched).length +
        fld 8 8 (bands.filter fun x => x.phase == .rendering).length + fld 16 16 (Tab.get 0 s.prn.barLate b)
    else 0
  | none =>
  match o with
  | 0x00 => flg 0 j.isOpen + flg 1 (j.isOpen && j.closing) +
      flg 2 (j.isOpen && s.frames.openFirst != j.firstFrame && s.hostCommitted (s.frames.openFirst - 1)) +
      fld 16 16 j.bars
  | 0x04 => lo32 j.jobId
  | 0x08 => lo32 (unsigned 64 j.nFirst)
  | 0x0C => hi32 (unsigned 64 j.nFirst)
  | 0x10 => lo32 j.frameLines
  | 0x20 => renderLoad s
  | 0x24 => slackMin s
  | 0x28 => lo32 s.prn.decodeErr
  | 0x2C => lo32 s.prn.spreadLost
  | 0x30 => fld 0 8 s.prn.bandqSlots + fld 8 24 s.prn.bandqUnits
  | 0x34 => fld 0 6 s.arraysFree + fld 16 12 s.tablesFree
  | _ => frameReg s o

/-! ### FIRE -/

/-- Registers of FIRE. -/
def fireReg (s : State) (o : Nat) : Nat :=
  match inArr 0 0x20 16 o with
  | some (b, sub) =>
    let x := s.fireBar b
    let t := s.timingCfg.map fun c => c.timingOf b
    (match sub with
    | 0x00 => fld 0 7 ((t.map fun y => y.gEff (s.headStep b)).getD 0) + fld 8 12 ((t.map Timing.tSlot).getD 0) + flg 20 x.purging
    | 0x04 => fld 0 16 (Nat.min 65535 x.missing) + fld 16 16 (Nat.min 65535 x.dead)
    | 0x08 => sfld 0 16 x.shift
    | 0x0C => fld 0 16 x.sel
    | _ => 0)
  | none =>
  match inArr 0x400 0x10 32 o with
  | some (l, sub) =>
    let x : Feeder := Tab.get {} s.fire.feeders l
    if !s.fuse.part.hasLink l then 0
    else
      (match sub with
      | 0x0 => fld 0 8 (Nat.min 255 x.whole.length) + flg 8 (s.feedPanic l) + fld 16 16 x.underrun
      | 0x4 => fld 0 16 (s.staged.linkBytes l) + fld 16 16 (s.staged.txNs l)
      | _ => 0)
  | none => 0

/-! ### REIN -/

/-- Registers of REIN. -/
def reinReg (s : State) (o : Nat) : Nat :=
  match inArr 0 0x40 32 o with
  | some (l, sub) =>
    let x := s.link l
    if !s.fuse.part.hasLink l then 0
    else
      (match sub with
      | 0x00 => fld 0 3 x.state.code + flg 3 x.endB + fld 4 4 x.nodes + fld 8 3 x.enumErr + fld 16 16 x.claim
      | 0x04 => fld 0 16 x.eye
      | 0x08 => fld 0 16 x.errBlocks + fld 16 16 x.errFrames
      | 0x0C => fld 0 16 x.ctrlRetry + fld 16 16 x.ctrlNoResp
      | 0x10 => s.linkPass l
      | 0x14 => lo32 x.ticks
      | _ => 0)
  | none =>
  match inArr 0x4000 0x20 256 o with
  | some (n, sub) =>
    let v := s.node n
    let t := s.sensor (0x300 + n)
    if !s.fuse.part.hasNode n then 0
    else
      (match sub with
      | 0x00 => fld 0 8 v.kind + flg 8 v.present + flg 9 v.silent + flg 10 v.halter + flg 11 v.hold +
          flg 12 (t.failed || t.excluded) + fld 16 16 v.held
      | 0x04 => lo32 v.emitters
      | 0x08 => sfld 0 16 ((highest ((v.temps.filter (· != 0x8000)).map (signed 16))).getD 0) + fld 16 16 v.supplyCur
      | 0x0C => lo32 v.cable
      | 0x10 => lo32 v.blank
      | _ => 0)
  | none => 0

/-! ### LCS -/

/-- Registers of LCS; the push aperture and PUSH_CTRL read 0. -/
def lcsReg (s : State) (o : Nat) : Nat :=
  let x := s.lcs
  match inArr 0x20 4 8 o with
  | some (k, sub) => if sub = 0 then numAt (x.nonce.getD []) (4 * k) 4 else 0
  | none =>
  match o with
  | 0x00 => fld 0 3 x.state + flg 3 x.debugOpen + fld 4 4 x.attempts + flg 8 x.gateLocked + fld 9 3 x.recGen + flg 12 x.recProv +
      fld 16 7 x.rollback + fld 23 7 x.fwRollback
  | 0x04 => fld 0 2 x.straps + fld 2 2 x.source + fld 4 4 x.slotA + fld 8 4 x.slotB + fld 12 4 x.pushed + flg 16 x.waitPush
  | 0x08 => fld 0 4 x.cause + flg 4 x.held + fld 8 16 x.count
  | 0x14 => flg 0 s.pushOpen + flg 1 x.verifying + flg 2 x.rejected + fld 8 24 (x.image.length / 1024)
  | _ => 0

end Sys2Proof.Machine
end

