-- ==== Sys2Proof/Machine/RegsEngines.lean ====
section
/-! DEFINITION. Registers as the host reads them, second part: LFR (R267), SCAN (R132, R299), CAM (R322), CAL (R350), AXIS
(R381), TIME (R406), MEM (R438), THM (R458) and TAN (R477). -/

namespace Sys2Proof.Machine

/-! ### LFR and SCAN -/

/-- R267: the light-field configuration of the latest frame to reach CUT. -/
def State.lfInForce (s : State) : LfCfg := (s.cfgOf (s.frames.openFirst - 1)).lf

/-- Registers of LFR. -/
def lfrReg (s : State) (o : Nat) : Nat :=
  let c := s.lfInForce
  let ps := c.handles.map (·.1)
  match o with
  | 0x00 => fld 0 7 (ps.filter (· < 64)).length + ((ps.filter (64 ≤ ·)).map fun p => 2 ^ (8 + (p - 64))).foldl (· + ·) 0 +
      flg 12 (c.map.load != 0) + flg 13 c.resCal + flg 14 c.gainCal + flg 15 c.temporal
  | 0x04 => fld 0 26 (if c.map.load = 0 then 0 else c.map.emitters)
  | 0x08 => lo32 s.scan.loadEst
  | 0x0C => lo32 s.scan.bandCycles
  | 0x20 => renderLoad s
  | 0x24 => slackMin s
  | 0x28 => fld 0 10 s.scan.early + fld 16 16 s.scan.visits
  | 0x34 => fld 0 10 (512 - s.linUsed) + fld 10 6 (48 - s.gammaUsed) + fld 16 4 (8 - s.regionsUsed)
  | _ => 0

/-- The next T_F of the running scan. -/
def State.nextTick (s : State) : Nat :=
  let x := s.trig s.scan.timing.trigger
  if s.scanning && x.holder == .scan && x.running then x.sched.time x.sched.k else 0

/-- Registers of SCAN. -/
def scanReg (s : State) (o : Nat) : Nat :=
  let x := s.scan
  let t := x.timing
  match inArr 0x400 0x10 32 o with
  | some (l, sub) =>
    let f : ScanFeeder := Tab.get {} x.feeders l
    let n := x.map.linkBlocks t.depth l
    if !s.fuse.part.hasLink l then 0
    else
      (match sub with
      | 0x0 => fld 0 8 (Nat.min 255 f.whole.length) + flg 8 (s.feedPanic l) + fld 16 16 f.underrun
      | 0x4 => fld 0 16 (8 * n) + fld 16 16 (if n = 0 then 0 else (64 * n + 1000 + 9) / 10)
      | _ => 0)
  | none =>
  match o with
  | 0x00 => fld 0 2 x.phase.code + flg 2 (s.fuse.part.dramFrame && s.top.mode == .lightfield) + flg 3 x.heldLatest +
      fld 4 4 t.trigger + fld 8 4 t.depth + fld 12 3 x.divLatest
  | 0x04 => lo32 t.frameNs
  | 0x08 => lo32 t.frameFrac
  | 0x0C => lo32 t.rowNs
  | 0x10 => fld 0 13 t.rowsActive + fld 16 11 t.rowsBlank
  | 0x18 => lo32 s.nextTick
  | 0x1C => hi32 s.nextTick
  | 0x20 => fld 0 16 x.heldCount + fld 16 16 (Nat.min 65535 x.static)
  | 0x28 => fld 0 2 x.split.state.code + fld 8 4 (x.split.partner.getD 0) + fld 16 16 x.split.repeats
  | 0x2C => sfld 0 16 x.split.skewOwn + sfld 16 16 x.split.skewPartner
  | _ => frameReg s o

/-! ### CAM -/

/-- CAM.PIPE_LOAD, with the lines that the pipeline has taken by now (R313). -/
def pipeLoad (s0 : State) : Nat :=
  let s := drainPipe s0.cam.waiting.length s0
  let busy := (s.cam.busy.map (spanBusy s.uptime)).foldl (· + ·) 0
  fld 0 10 (Nat.min 1000 (busy * 1000 / 10 ^ 8)) + fld 16 10 (Nat.min 1000 (s.camLoad s.startedCtxs / 10 ^ 6))

/-- Registers of CAM. -/
def camReg (s : State) (o : Nat) : Nat :=
  match inArr 0 0x40 4 o with
  | some (p, sub) =>
    let x := s.camPort p
    let active := match x.hsAt with
      | some t => decide (s.uptime < t + 10 ^ 8)
      | none => false
    if sub = 0 ∧ p < s.fuse.part.cameraPorts then
      fld 0 3 x.lanes + flg 3 active + flg 4 x.deskew + fld 16 16 x.typeDrop
    else 0
  | none =>
  match inArr 0x200 0x20 8 o with
  | some (n, sub) =>
    let x := s.stream n
    (match sub with
    | 0x0 => fld 0 16 ((x.pending.map (·.id)).getD 0) + flg 16 x.writing.isSome + flg 17 (s.streamRuns n) + fld 24 8 x.overrate
    | 0x4 => fld 0 16 x.orphan + fld 16 16 x.unpaired
    | 0x8 => x.camSeq.toNat
    | _ => 0)
  | none =>
  match inArr 0x400 0x40 8 o with
  | some (c, sub) =>
    let x := s.ctx c
    (match sub with
    | 0x00 => fld 0 2 x.state.code + fld 2 3 x.priority + fld 5 3 x.stream + fld 8 4 x.band + fld 16 16 x.lastId
    | 0x04 => fld 0 16 x.eccCorr + fld 16 16 x.crcErr
    | 0x08 => fld 0 16 x.arbDrop + fld 16 16 x.corruptDrop
    | 0x0C => fld 0 16 x.outLost + fld 16 16 x.corruptSent
    | 0x10 => x.lastSeq.toNat
    | _ => 0)
  | none => if o = 0x100 then pipeLoad s else 0

/-! ### CAL -/

/-- The channel or link that a CAL slot belongs to is on the part; SERDES 32 and 33 are the Ethernet ports, which every part has
(R27, R323). -/
def State.calOnPart (s : State) (n : Nat) : Bool :=
  if n < 5 then true else if n < 9 then decide (n - 5 < s.fuse.part.ddrChannels) else decide (41 ≤ n) || s.fuse.part.hasLink (n - 9)

/-- Registers of CAL. -/
def calReg (s : State) (o : Nat) : Nat :=
  match inArr 0x40 4 16 o with
  | some (ch, sub) =>
    let x := Tab.get (0, 0) s.cal.resid ch
    if sub = 0 then fld 0 16 x.1 + fld 16 16 x.2 else 0
  | none =>
  match inArr 0x80 4 16 o with
  | some (b, sub) =>
    let x := Tab.get (0, 0) s.cal.barErr b
    if sub = 0 then sfld 0 16 x.1 + sfld 16 16 x.2 else 0
  | none =>
  match inArr 0x100 0x20 43 o with
  | some (n, sub) =>
    let x := s.calInst n
    if !s.calOnPart n then 0
    else
      (match sub with
      | 0x00 => fld 0 3 x.runCode + flg 3 (s.calPolicy n).enable + flg 4 x.stale + flg 5 x.outOfLimit + flg 6 x.holds +
          flg 7 x.targets.isSome + fld 8 8 x.lastStatus + fld 16 16 x.lastDetail
      | 0x04 => fld 0 16 x.quality + fld 16 16 x.goodQuality
      | 0x08 => x.gen.toNat
      | 0x0C => x.frame.toNat
      | 0x10 => sfld 0 16 (x.tGood.getD 0) + sfld 16 16 ((s.calSensor n (s.calPolicy n).sensor).getD 0)
      | 0x14 => fld 0 16 x.count + fld 16 16 x.coalesced
      | 0x18 => fld 0 16 x.used + fld 16 16 x.rejected
      | _ => 0)
  | none =>
    if o = 0 then
      fld 0 6 (calSlots.filter fun n => (s.calInst n).state != .idle).length +
        ((List.range 5).map fun n => flg (8 + n) (s.calInst n).stale).foldl (· + ·) 0 + flg 13 (s.cal.heldMap || s.cal.heldTable)
    else 0

/-! ### AXIS -/

/-- AX_STAT.STATE. -/
def Axis.stateCode (x : Axis) : Nat :=
  if x.fault != .none then 5
  else if !x.enabled then 0
  else match x.mode with
    | .rest => 1 | .move => 2 | .group => 2 | .home => 3 | .stopping => 4

/-- The registers of an axis. -/
def axisReg (s : State) (a sub : Nat) : Nat :=
  let x := s.ax a
  match sub with
  | 0x00 => fld 0 3 x.stateCode + flg 3 x.homed + flg 4 x.lp.active + flg 5 x.ln.active + flg 6 x.hm.active +
      flg 7 (x.cal || x.held) + fld 8 3 (((List.range 4).find? fun g => (Tab.get [] s.axis.groups g).contains a).getD 7) +
      fld 16 8 x.fault.code
  | 0x04 => unsigned 32 (wholeAu x.cmd.pos)
  | 0x08 => unsigned 32 (wholeAu x.actual)
  | 0x0C => unsigned 32 (wholeAu x.fe)
  | 0x10 => unsigned 32 (Int.fdiv x.cmd.v (65536 * vScale))
  | 0x14 => unsigned 32 (wholeAu x.target)
  | 0x18 => fld 0 8 (Nat.min 255 (x.chatter s.uptime x.lp)) + fld 8 8 (Nat.min 255 (x.chatter s.uptime x.ln)) + fld 16 16 x.busMiss
  | _ => 0

/-- Registers of AXIS. -/
def axisBlockReg (s : State) (o : Nat) : Nat :=
  match inArr 0x100 0x40 16 o with
  | some (a, sub) => if a < s.fuse.part.axes then axisReg s a sub else 0
  | none =>
  match inArr 0x10 4 2 o with
  | some (b, sub) =>
    if sub = 0 ∧ b < s.fuse.part.axisBuses then
      fld 0 4 (s.busSlots b) + fld 4 12 (busCycle (s.busSlots b)) + fld 16 16 (Tab.get 0 s.axis.crcErr b)
    else 0
  | none => if o = 0 then fld 0 7 (s.axis.periodUs / 10) + flg 7 s.axis.running + fld 8 4 (s.axis.trigger.getD 0) else 0

/-! ### TIME -/

/-- The device time as TIME.NOW reports it. -/
def State.nowFrac (s : State) : Nat := s.time.sub / 2 ^ 24 % 65536

/-- The registers of a capture unit. -/
def capReg (u : Capture) (sub : Nat) : Nat :=
  let head := u.fifo.headD (0, 0)
  match sub with
  | 0x00 => fld 0 5 u.fifo.length + flg 5 u.armed + fld 8 3 u.source + fld 16 16 u.overflow
  | 0x04 => lo32 head.1
  | 0x08 => hi32 head.1
  | 0x0C => lo32 head.2
  | _ => 0

/-- The registers of a trigger unit. -/
def trigReg (x : Trigger) (sub : Nat) : Nat :=
  let t := if x.running then x.sched.time x.sched.k else 0
  match sub with
  | 0x0 => fld 0 3 x.holder.code + flg 3 x.running + flg 4 x.halterHold + fld 8 8 x.pin + fld 16 16 x.missed
  | 0x4 => lo32 t
  | 0x8 => hi32 t
  | 0xC => lo32 x.count
  | _ => 0

/-- The registers of an Ethernet port. -/
def portReg (x : Port) (sub : Nat) : Nat :=
  match sub with
  | 0x0 => fld 0 2 x.cfg.speed + flg 2 x.linkUp + fld 3 4 ((x.ptp.map PortState.code).getD 0) + fld 16 16 x.drop
  | 0x4 => if x.cfg.speed = 0 then 0 else fld 0 16 (Config.rxFixed x.cfg.speed).toNat + fld 16 16 (Config.txFixed x.cfg.speed).toNat
  | 0x8 => lo32 x.mac
  | 0xC => fld 0 16 (x.mac / 2 ^ 32)
  | _ => 0

/-- Registers of TIME. -/
def timeReg (s : State) (o : Nat) : Nat :=
  let t := s.time
  match inArr 0x100 0x80 2 o with
  | some (p, sub) => portReg (s.port p) sub
  | none =>
  match inArr 0x400 0x20 16 o with
  | some (u, sub) => trigReg (s.trig u) sub
  | none =>
  match inArr 0x800 0x20 16 o with
  | some (c, sub) => capReg (s.cap c) sub
  | none =>
  match o with
  | 0x00 => fld 0 3 t.servo.code + flg 3 t.stepBlocked + flg 4 s.timeOk + fld 8 8 t.clockClass
  | 0x08 => lo32 t.now
  | 0x0C => hi32 t.now
  | 0x10 => s.nowFrac
  | 0x14 => unsigned 32 (saturate 32 t.offset)
  | 0x18 => unsigned 32 t.rateAdj
  | 0x1C => unsigned 32 t.pathDelay
  | 0xC00 => fld 0 4 t.hitch.member + flg 4 t.hitch.joined + flg 5 (t.hitch.joined && s.hitchLeader) + flg 6 t.hitch.conflict +
      (if t.hitch.joined then fld 16 16 (maskOf t.hitch.present) else 0)
  | 0xC04 => lo32 t.hitch.applied
  | 0xC08 => lo32 t.hitch.diverge
  | _ => 0

/-! ### MEM -/

/-- The registers of a channel. -/
def memChanReg (s : State) (c sub : Nat) : Nat :=
  let x := s.ddr c
  let r := s.lcs.inForce
  match sub with
  | 0x00 => fld 0 3 x.state.code + fld 8 8 x.rate + fld 16 16 x.eye
  | 0x04 => fld 0 4 r.ddrOrg + fld 4 8 r.rateMax
  | 0x08 => fld 0 16 x.corrected + fld 16 16 x.uncorrected
  | 0x0C => fld 0 16 x.alerts + fld 16 16 x.replayed3
  | 0x10 => lo32 x.refreshes
  | 0x14 => fld 0 10 (feedShare x.rate (x.windows.foldl (· + ·) 0) 1000) + fld 10 10 x.peak + fld 20 12 x.beyond
  | 0x18 => fld 0 16 x.latMax + fld 16 16 x.late
  | 0x1C => lo32 x.ueAddr
  | 0x20 => hi32 x.ueAddr
  | 0x24 => fld 0 10 (x.scrubPos * 1000 / Nat.max 1 (s.chanBursts c)) + fld 16 16 x.passes
  | _ => 0

/-- The requester of a memory port is on the part. -/
def State.memPort (s : State) (p : Nat) : Bool :=
  if p < 32 then s.fuse.part.hasLink p else if p < 48 then decide (p - 32 < s.fuse.part.engines) else true

/-- Registers of MEM. -/
def memReg (s : State) (o : Nat) : Nat :=
  let m := s.mem
  match inArr 0x100 0x40 4 o with
  | some (c, sub) => if c < s.fuse.part.ddrChannels then memChanReg s c sub else 0
  | none =>
  match inArr 0x400 0x10 55 o with
  | some (p, sub) =>
    if !s.memPort p then 0
    else
      (match sub with
      | 0x0 => Tab.get 0 m.grant p
      | 0x4 => Nat.min (2 ^ 32 - 1) (Tab.get 0 m.delay p / 16)
      | 0x8 => Tab.get 0 m.refuse p
      | 0xC => (portClass p).code
      | _ => 0)
  | none =>
  match o with
  | 0x00 => (((List.range 4).filter fun c => (s.ddr c).state == .online).map fun c => 2 ^ c).foldl (· + ·) 0 + flg 4 m.frozen +
      flg 5 m.freezeParity + fld 6 3 s.mapChans.length
  | 0x04 => lo32 s.mapMib
  | 0x08 => fld 0 16 m.budget + fld 16 16 (ceilDiv s.bulkHeld (10 ^ 8))
  | 0x10 => fld 0 2 m.freezeChan + fld 2 1 m.freezeSub + fld 3 2 m.freezeCause + fld 5 6 m.freezeDepth
  | 0x14 => lo32 m.freezeAddr
  | 0x18 => hi32 m.freezeAddr
  | _ => 0

/-! ### THM -/

/-- Head-supply steps of eight bars from `b` on, a nibble each. -/
def headSteps (s : State) (b : Nat) : Nat := ((List.range 8).map fun k => fld (4 * k) 4 (s.headStep (b + k))).foldl (· + ·) 0

/-- The sensor is failed or excluded. -/
def State.sensorOut (s : State) (code : Nat) : Bool := (s.sensor code).out

/-- A bit for each of `n` sensors from `code` on that is failed or excluded, from bit `lo` on. -/
def failBits (s : State) (code n lo : Nat) : Nat := ((List.range n).map fun k => flg (lo + k) (s.sensorOut (code + k))).foldl (· + ·) 0

/-- The registers of a zone. -/
def zoneReg (s : State) (z sub : Nat) : Nat :=
  let x := s.zone z
  match sub with
  | 0x0 => flg 0 (x.above.getD 0 false) + flg 1 (x.above.getD 1 false) + flg 2 (x.above.getD 2 false) + flg 3 x.rateOver +
      fld 4 4 x.level + flg 8 (s.zoneHeld z) + flg 9 x.stopped + flg 10 x.defined + fld 11 3 x.kind + fld 16 16 x.target
  | 0x4 => sfld 0 16 x.temp + sfld 16 16 (saturate 16 (s.zoneRate x))
  | _ => 0

/-- Registers of THM. -/
def thmReg (s : State) (o : Nat) : Nat :=
  let t := s.thm
  match inArr 0x100 0x20 16 o with
  | some (z, sub) => zoneReg s z sub
  | none =>
  match inArr 0x400 4 64 o with
  | some (n, sub) =>
    let x := Tab.get (0, 0) t.adc n
    if sub = 0 then fld 0 12 x.1 + sfld 16 16 x.2 else 0
  | none =>
  match o with
  | 0x00 => fld 0 4 t.renderStep + flg 4 s.throttleReq + flg 5 s.stopReqLevel + fld 16 8 t.roundMs
  | 0x08 => headSteps s 0
  | 0x0C => headSteps s 8
  | 0x10 => fld 0 4 (s.lumStep 0) + fld 4 4 (s.lumStep 1)
  | 0x18 => sfld 0 16 t.hotspot + fld 16 8 t.trips
  | 0x20 => failBits s 0x100 24 0
  | 0x24 => failBits s 0x200 4 0 + failBits s 0x400 8 4 +
      fld 16 16 ((List.range 256).filter fun n => s.sensorOut (0x300 + n)).length
  | _ => 0

/-! ### TAN -/

/-- The claim held on the tandem links, or held last. -/
def State.claimShown (s : State) : Nat := if s.tanClaim = 0 then s.tan.lastClaim else s.tanClaim

/-- The age of a time in µs, saturating; 0xFFFF for none. -/
def ageUs (s : State) (t : Option Nat) : Nat :=
  match t with
  | none => 65535
  | some x => Nat.min 65535 ((s.uptime - x) / 1000)

/-- Registers of TAN. -/
def tanReg (s : State) (o : Nat) : Nat :=
  let t := s.tan
  let on := t.state != .off
  match o with
  | 0x0 => fld 0 3 t.state.code + flg 3 t.endB + flg 4 t.mirrorOk + flg 5 (on && !s.partnerLost) + flg 6 (on && !s.hbOld t.aliveAt) +
      flg 7 t.drill.isSome + fld 8 4 (s.claimShown / 4096) + fld 12 12 (s.claimShown % 4096)
  | 0x4 => fld 0 16 t.gapUs + fld 16 16 t.takeovers
  | 0x8 => fld 0 16 t.late + fld 16 16 t.digestDiff
  | 0xC => ageUs s t.beatAt +
      fld 16 16 (if s.tanLinks.isEmpty then 65535
        else (s.tanLinks.map fun l => Nat.min 65535 (s.linkPass l / 1000)).foldl Nat.max 0)
  | _ => 0

end Sys2Proof.Machine
end

