-- ==== Sys2Proof/Machine/Regs.lean ====
section
/-! DEFINITION. Reads and writes of BAR0 (R8, R28, R531 to R538), and WEB_QUERY (R103). An offset is a BAR0 byte offset; the
block is its megabyte. -/

namespace Sys2Proof.Machine

/-- R531: the block of a BAR0 offset, 0 TOP to 15 LCS. -/
def blockOf (off : Nat) : Nat := off / 2 ^ 20

/-- The offset in its block. -/
def inBlock (off : Nat) : Nat := off % 2 ^ 20

/-- R28, R531, R533, R534: the block is present and answers. -/
def State.answers (s : State) (b : Nat) : Bool :=
  match b with
  | 0 | 15 => s.topAnswers
  | 1 | 2 | 5 | 8 | 9 | 10 | 11 | 12 | 13 => s.blocksAnswer
  | 3 | 4 => s.blocksAnswer && s.fuse.part.print && s.top.mode != .lightfield
  | 6 | 7 => s.blocksAnswer && s.fuse.part.lightfield && s.top.mode != .print
  | 14 => s.blocksAnswer && s.fuse.part.tandem
  | _ => false

/-- R538: a register's value at this instant, 0 where no register lies; latches left aside. -/
def regLive (s : State) (off : Nat) : Nat :=
  let o := inBlock off
  if !s.answers (blockOf off) then 0
  else
    match blockOf off with
    | 0 => topReg s o | 1 => cmdReg s o | 2 => webRegAll s o | 3 => prnReg s o | 4 => fireReg s o | 5 => reinReg s o
    | 6 => lfrReg s o | 7 => scanReg s o | 8 => camReg s o | 9 => calReg s o | 10 => axisBlockReg s o | 11 => timeReg s o
    | 12 => memReg s o | 13 => thmReg s o | 14 => tanReg s o | 15 => lcsReg s o
    | _ => 0

/-! ### Latches (R535) -/

/-- One register of an array is at offset `sub` of its instance. -/
def isSub (base stride n o sub : Nat) : Bool := ((inArr base stride n o).map (·.2)) == some sub

/-- R535: how many registers after the one at `off` its read latches: the HI word, and NOW_FRAC or CAP_TAG. -/
def latchCount (off : Nat) : Nat :=
  let o := inBlock off
  match blockOf off with
  | 2 => b2n (o == 0x08 || o == 0x10 || isSub 0x100 0x40 8 o 0x08 || isSub 0x400 0x20 16 o 0x00)
  | 3 => b2n (o == 0x08)
  | 7 => b2n (o == 0x18)
  | 11 =>
    if o == 0x08 || isSub 0x800 0x20 16 o 0x04 then 2 else b2n (isSub 0x400 0x20 16 o 0x04)
  | 12 => b2n (o == 0x14 || isSub 0x100 0x40 4 o 0x1C)
  | _ => 0

/-- R535: the register at `off` returns a latch. -/
def isLatched (off : Nat) : Bool := decide (1 ≤ latchCount (off - 4)) || decide (2 ≤ latchCount (off - 8))

/-- R535: a read of a LO word fills the latches behind it. -/
def fillLatches (off : Nat) (s : State) : State :=
  (List.range (latchCount off)).foldl (fun st k =>
    let a := off + 4 * (k + 1)
    { st with pcie := { st.pcie with latches := Tab.put 0 st.pcie.latches a (regLive s a) } }) s

/-- What a read of `off` returns. -/
def regRead (s : State) (off : Nat) : Word :=
  BitVec.ofNat 32
    (if isLatched off then (if s.answers (blockOf off) then Tab.get 0 s.pcie.latches off else 0) else regLive s off)

/-! ### RC fields (R8) -/

/-- RC fields of CMD. -/
def clearCmd (o : Nat) (s : State) : State :=
  match inArr 0x1000 0x40 8 o with
  | some (n, 0x8) => s.setCmdRing n { s.cmdRing n with ownMiss := 0 }
  | _ =>
    if o = 0x0000 then { s with cmd := { s.cmd with winDrop := 0 } }
    else if o = 0x3010 then { s with cmd := { s.cmd with lostAll := 0, lostFrame := 0 } }
    else s

/-- RC fields of WEB. -/
def clearWeb (o : Nat) (s : State) : State :=
  match inArr 0x100 0x40 8 o with
  | some (n, 0x00) => s.setChan n { s.chan n with illegalCount := 0 }
  | some (n, 0x18) => s.setChan n { s.chan n with slips := 0 }
  | _ => s

/-- ROLLBACK, in PRN and in SCAN. -/
def clearRollback (o : Nat) (s : State) : State :=
  if o = 0x94 then s.withFrames fun x => { x with rollBands := 0, rollCommits := 0 } else s

/-- RC fields of PRN. -/
def clearPrn (o : Nat) (s : State) : State :=
  match inArr 0x40 4 16 o with
  | some (b, 0) => { s with prn := { s.prn with barLate := Tab.put 0 s.prn.barLate b 0 } }
  | _ =>
    if o = 0x28 then { s with prn := { s.prn with decodeErr := 0 } }
    else if o = 0x2C then { s with prn := { s.prn with spreadLost := 0 } }
    else clearRollback o s

/-- RC fields of FIRE. -/
def clearFire (o : Nat) (s : State) : State :=
  match inArr 0 0x20 16 o, inArr 0x400 0x10 32 o with
  | some (b, 0xC), _ => s.setFireBar b { s.fireBar b with sel := 0 }
  | _, some (l, 0x0) => s.setFeeder l { Tab.get {} s.fire.feeders l with underrun := 0 }
  | _, _ => s

/-- RC fields of REIN. -/
def clearRein (o : Nat) (s : State) : State :=
  match inArr 0 0x40 32 o, inArr 0x4000 0x20 256 o with
  | some (l, 0x08), _ => s.setLink l { s.link l with errBlocks := 0, errFrames := 0 }
  | some (l, 0x0C), _ => s.setLink l { s.link l with ctrlRetry := 0, ctrlNoResp := 0 }
  | _, some (n, 0x10) => s.setNode n { s.node n with blank := 0 }
  | _, _ => s

/-- RC fields of SCAN. -/
def clearScan (o : Nat) (s : State) : State :=
  match inArr 0x400 0x10 32 o with
  | some (l, 0x0) => s.setScanFeeder l { Tab.get {} s.scan.feeders l with underrun := 0 }
  | _ =>
    if o = 0x20 then s.withScan fun x => { x with heldCount := 0 }
    else if o = 0x28 then s.withScan fun x => { x with split := { x.split with repeats := 0 } }
    else clearRollback o s

/-- RC fields of CAM. -/
def clearCam (o : Nat) (s : State) : State :=
  match inArr 0 0x40 4 o, inArr 0x200 0x20 8 o, inArr 0x400 0x40 8 o with
  | some (p, 0x0), _, _ => s.setCamPort p { s.camPort p with typeDrop := 0 }
  | _, some (n, 0x0), _ => s.setStream n { s.stream n with overrate := 0 }
  | _, some (n, 0x4), _ => s.setStream n { s.stream n with orphan := 0, unpaired := 0 }
  | _, _, some (c, 0x04) => s.setCtx c { s.ctx c with eccCorr := 0, crcErr := 0 }
  | _, _, some (c, 0x08) => s.setCtx c { s.ctx c with arbDrop := 0, corruptDrop := 0 }
  | _, _, some (c, 0x0C) => s.setCtx c { s.ctx c with outLost := 0, corruptSent := 0 }
  | _, _, _ => s

/-- RC fields of CAL. -/
def clearCal (o : Nat) (s : State) : State :=
  match inArr 0x100 0x20 43 o with
  | some (n, 0x14) => s.updCal n fun x => { x with count := 0, coalesced := 0 }
  | some (n, 0x18) => s.updCal n fun x => { x with used := 0, rejected := 0 }
  | _ => s

/-- RC fields of AXIS. -/
def clearAxis (o : Nat) (s : State) : State :=
  match inArr 0x100 0x40 16 o, inArr 0x10 4 2 o with
  | some (a, 0x18), _ => s.setAx a { s.ax a with busMiss := 0 }
  | _, some (b, 0) => s.withAxis fun m => { m with crcErr := Tab.put 0 m.crcErr b 0 }
  | _, _ => s

/-- RC fields of TIME. -/
def clearTime (o : Nat) (s : State) : State :=
  match inArr 0x100 0x80 2 o, inArr 0x400 0x20 16 o, inArr 0x800 0x20 16 o with
  | some (p, 0x0), _, _ => s.setPort p { s.port p with drop := 0 }
  | _, some (u, 0x0), _ => s.setTrig u { s.trig u with missed := 0 }
  | _, _, some (c, 0x00) => s.setCap c { s.cap c with overflow := 0 }
  | _, _, _ => if o = 0xC08 then s.withHitch fun h => { h with diverge := 0 } else s

/-- RC fields of MEM. -/
def clearMem (o : Nat) (s : State) : State :=
  match inArr 0x100 0x40 4 o, inArr 0x400 0x10 55 o with
  | some (c, 0x08), _ => s.setDdr c { s.ddr c with corrected := 0, uncorrected := 0 }
  | some (c, 0x0C), _ => s.setDdr c { s.ddr c with alerts := 0, replayed3 := 0 }
  | some (c, 0x10), _ => s.setDdr c { s.ddr c with refreshes := 0 }
  | some (c, 0x14), _ => s.setDdr c { s.ddr c with peak := 0, beyond := 0 }
  | some (c, 0x18), _ => s.setDdr c { s.ddr c with latMax := 0, late := 0 }
  | _, some (p, 0x0) => { s with mem := { s.mem with grant := Tab.put 0 s.mem.grant p 0 } }
  | _, some (p, 0x4) => { s with mem := { s.mem with delay := Tab.put 0 s.mem.delay p 0 } }
  | _, some (p, 0x8) => { s with mem := { s.mem with refuse := Tab.put 0 s.mem.refuse p 0 } }
  | _, _ => s

/-- RC fields of TAN. -/
def clearTan (o : Nat) (s : State) : State :=
  match o with
  | 0x4 => s.withTan fun t => { t with takeovers := 0 }
  | 0x8 => s.withTan fun t => { t with late := 0, digestDiff := 0 }
  | _ => s

/-- R8: after a read, the RC fields of the register are 0. -/
def clearFields (off : Nat) (s : State) : State :=
  let o := inBlock off
  if !s.answers (blockOf off) then s
  else
    match blockOf off with
    | 0 => if o = 0x48 then { s with top := { s.top with conflicts := 0 } } else s
    | 1 => clearCmd o s | 2 => clearWeb o s | 3 => clearPrn o s | 4 => clearFire o s | 5 => clearRein o s | 7 => clearScan o s
    | 8 => clearCam o s | 9 => clearCal o s | 10 => clearAxis o s | 11 => clearTime o s | 12 => clearMem o s
    | 14 => clearTan o s
    | _ => s

/-- A read of BAR0: the reply, then the latches it fills and the fields it clears. -/
def hostRead (off : Nat) (s : State) : State :=
  clearFields off (fillLatches off { s with pcie := { s.pcie with reply := .bar0 off (regRead s off) } })

/-- A read at an offset BAR0 has; R40 for a misaligned one, and no answer in RESET and TRIPPED. -/
def readAt (off : Nat) (s : State) : Host.Outcome State Fault Refusal :=
  if 2 ^ 24 ≤ off then .fault .noAddress
  else if off % 4 ≠ 0 then execBar0BadAccess false s
  else if s.topAnswers then .next (hostRead off s)
  else .next s

/-- READ_CLEAR (R8): a read of the register at `off`. -/
def execReadClear (off : Nat) (s : State) : Host.Outcome State Fault Refusal := readAt off s

/-- LATCHED_LO_READ (R535): a read of the register at `off`. -/
def execLatchedLoRead (off : Nat) (s : State) : Host.Outcome State Fault Refusal := readAt off s

/-! ### Writes -/

/-- A base address after a write of its LO or HI word. Bits [11:0] must be 0; what they hold after another write is a free
value. -/
def newBase (hi : Bool) (v : Word) (old free12 : Nat) : Nat :=
  if hi then lo32 old + v.toNat * 2 ^ 32
  else hi32 old * 2 ^ 32 + v.toNat / 4096 * 4096 + (if v.toNat % 4096 = 0 then 0 else free12)

/-- R47: a write of a base word of a ring at BAR0 offset `off`; ignored and counted while the ring is enabled. -/
def writeBase (off : Nat) (hi : Bool) (v : Word) (r : RecRing) (set : RecRing → State → State) (s : State) : State :=
  if r.enable then regConflict off s else set { r with base := newBase hi v r.base (s.freeNat 12) } s.useFree

/-- A word of an MSI-X table entry after a write: the address is a dword address, the control word has its mask bit only. -/
def MsixEntry.setWord (e : MsixEntry) (sub : Nat) (v : Nat) : MsixEntry :=
  match sub with
  | 0x0 => { e with addrLo := v / 4 * 4 }
  | 0x4 => { e with addrHi := v }
  | 0x8 => { e with data := v }
  | _ => { e with ctrl := v % 2 }

/-- A write of the MSI-X table: an unmasked vector that is pending is sent. -/
def writeMsix (k sub : Nat) (v : Word) (s : State) : State :=
  sendPending
    { s with pcie := { s.pcie with msix := Tab.upd {} s.pcie.msix k fun e => e.setWord (sub / 4 * 4) v.toNat } }

/-- Writes of the CMD block. -/
def writeCmd (off : Nat) (v : Word) (s : State) : Host.Outcome State Fault Refusal :=
  let o := inBlock off
  match inArr 0x1000 0x40 8 o, inArr 0x2000 0x40 8 o, inArr 0x8000 0x10 64 o with
  | some (n, 0x0), _, _ => .next (writeCrCfg n v s)
  | some (n, 0x4), _, _ => execCrDoorbell n v s
  | _, some (n, 0x0), _ => .next (writeBase off false v (s.cplRing n) (fun r st => st.setCpl n r) s)
  | _, some (n, 0x4), _ => .next (writeBase off true v (s.cplRing n) (fun r st => st.setCpl n r) s)
  | _, some (n, 0x8), _ => .next (writeCplCfg n v s)
  | _, some (n, 0xC), _ => execCplPtrHeadWrite n v s
  | _, _, some (k, sub) => .next (writeMsix k sub v s)
  | _, _, _ =>
    match o with
    | 0x3000 => .next (writeBase off false v s.cmd.evt (fun r st => st.setEvt r) s)
    | 0x3004 => .next (writeBase off true v s.cmd.evt (fun r st => st.setEvt r) s)
    | 0x3008 => .next (drainOne (writeEvtCfg v s))
    | 0x300C => execEvtPtrHeadWrite v s
    | _ => .next s

/-- R8: CH_STATUS.ILLEGAL and CH_STATUS.OVERRATE are cleared by writing 1. -/
def clearW1c (off : Nat) (v : Word) (s : State) : State :=
  match inArr 0x100 0x40 8 (inBlock off) with
  | some (n, 0x00) =>
    s.setChan n { s.chan n with
      illegal := (s.chan n).illegal && !bitAt v.toNat 4
      overrate := (s.chan n).overrate && !bitAt v.toNat 5 }
  | _ => s

/-- A write of BAR0 where the block answers: fields without a write effect keep their value (R8, R532). -/
def hostWrite (off : Nat) (v : Word) (s : State) : Host.Outcome State Fault Refusal :=
  let o := inBlock off
  if !s.answers (blockOf off) then .next s
  else
    match blockOf off with
    | 0 => if o = 0x50 then execHpenCtrlWrite v s else .next s
    | 1 => writeCmd off v s
    | 2 => .next (clearW1c off v s)
    | 11 =>
      match inArr 0x800 0x20 16 o with
      | some (c, 0x10) => execCapPop c v s
      | _ => .next s
    | 15 =>
      if o = 0x10 then .next (pushCtrl v s)
      else if 0x80000 ≤ o then execPushApertureWrite (o - 0x80000) v s
      else .next s
    | _ => .next s

/-- A write at an offset BAR0 has; R40 for a misaligned one. -/
def writeAt (off : Nat) (v : Word) (s : State) : Host.Outcome State Fault Refusal :=
  if 2 ^ 24 ≤ off then .fault .noAddress
  else if off % 4 ≠ 0 then execBar0BadAccess true s
  else hostWrite off v s

/-- REGISTER_WRITE (R74, R532). -/
def execRegisterWrite (off : Nat) (v : Word) (s : State) : Host.Outcome State Fault Refusal := writeAt off v s

/-- W1C_WRITE (R8). -/
def execW1cWrite (off : Nat) (v : Word) (s : State) : Host.Outcome State Fault Refusal := writeAt off v s

/-! ### WEB_QUERY (R103) -/

/-- R103: the copy of the registers at WEB offsets 0x0000 to 0x05FF. -/
def webSnapshot (s : State) : Tab Nat :=
  ((List.range 0x180).map fun k => (4 * k, webReg s (4 * k))).filter fun e => e.2 != 0

/-- Checks of WEB_QUERY. -/
def webQueryChecks : Checks where
  params := fun d _ => [rz 8 (d.u 8 1), rzb d 9 64]

/-- WEB_QUERY. -/
def execWebQuery (slot : Nat) (s : State) : Host.Outcome State Fault Refusal :=
  runCmd 0x0204 slot webQueryChecks
    (fun k _ st => doneWith k (lo32 st.time.now) (st.withWeb fun w => { w with snapshot := webSnapshot st })) s

end Sys2Proof.Machine
end

