-- ==== Sys2Proof/Machine/Dispatch.lean ====
section
/-! DEFINITION. One arm per command: the direct call of its meaning, or a rejection by name. -/

namespace Sys2Proof.Machine

/-- The effect of a command on everything but the queue. -/
def exec (i : Instr) (s : State) : Host.Outcome State Fault Refusal :=
  match i with
  | .powerOn straps => Sys2Proof.Machine.execPowerOn straps s
  | .porstAssert straps => Sys2Proof.Machine.execPorstAssert straps s
  | .sysrstAssert => Sys2Proof.Machine.execSysrstAssert s
  | .resetRelease parityOk => Sys2Proof.Machine.execResetRelease parityOk s
  | .bootImageVerified image => Sys2Proof.Machine.execBootImageVerified image s
  | .bootDdrTrained ch eyes temp => Sys2Proof.Machine.execBootDdrTrained ch eyes temp s
  | .ready => Sys2Proof.Machine.execReady s
  | .internalReset => Sys2Proof.Machine.execInternalReset s
  | .watchdogExpiry => Sys2Proof.Machine.execWatchdogExpiry s
  | .clockFault ref => Sys2Proof.Machine.execClockFault ref s
  | .dieTrip hotspot => Sys2Proof.Machine.execDieTrip hotspot s
  | .tripHoldExpiry => Sys2Proof.Machine.execTripHoldExpiry s
  | .flr => Sys2Proof.Machine.execFlr s
  | .hotReset => Sys2Proof.Machine.execHotReset s
  | .pcieLinkDown => Sys2Proof.Machine.execPcieLinkDown s
  | .d3hotEntry => Sys2Proof.Machine.execD3hotEntry s
  | .bar0BadAccess write => Sys2Proof.Machine.execBar0BadAccess write s
  | .bar2Write offset bytes => Sys2Proof.Machine.execBar2Write offset bytes s
  | .bar2Read offset len => Sys2Proof.Machine.execBar2Read offset len s
  | .registerWrite off v => Sys2Proof.Machine.execRegisterWrite off v s
  | .readClear off => Sys2Proof.Machine.execReadClear off s
  | .latchedLoRead off => Sys2Proof.Machine.execLatchedLoRead off s
  | .w1cWrite off v => Sys2Proof.Machine.execW1cWrite off v s
  | .hpenCtrlWrite v => Sys2Proof.Machine.execHpenCtrlWrite v s
  | .capPop c v => Sys2Proof.Machine.execCapPop c v s
  | .cmdRingEnable n v => Sys2Proof.Machine.execCmdRingEnable n v s
  | .cmdRingDisable n v => Sys2Proof.Machine.execCmdRingDisable n v s
  | .cmdRingResize n v => Sys2Proof.Machine.execCmdRingResize n v s
  | .crDoorbell n v => Sys2Proof.Machine.execCrDoorbell n v s
  | .descriptorFetch => Sys2Proof.Machine.execDescriptorFetch s
  | .cplRingEnable n v => Sys2Proof.Machine.execCplRingEnable n v s
  | .cplRingDisable n v => Sys2Proof.Machine.execCplRingDisable n v s
  | .cplRingConfig n v => Sys2Proof.Machine.execCplRingConfig n v s
  | .evtRingEnable v => Sys2Proof.Machine.execEvtRingEnable v s
  | .evtRingDisable v => Sys2Proof.Machine.execEvtRingDisable v s
  | .evtRingConfig v => Sys2Proof.Machine.execEvtRingConfig v s
  | .cplPtrHeadWrite n v => Sys2Proof.Machine.execCplPtrHeadWrite n v s
  | .evtPtrHeadWrite v => Sys2Proof.Machine.execEvtPtrHeadWrite v s
  | .completionRecordWrite n => Sys2Proof.Machine.execCompletionRecordWrite n s
  | .eventBacklogDrain => Sys2Proof.Machine.execEventBacklogDrain s
  | .coalesceTimerExpiry n => Sys2Proof.Machine.execCoalesceTimerExpiry n s
  | .sysNop slot => Sys2Proof.Machine.execSysNop slot s
  | .sysQuery slot => Sys2Proof.Machine.execSysQuery slot s
  | .sysSetMode slot => Sys2Proof.Machine.execSysSetMode slot s
  | .sysPull slot => Sys2Proof.Machine.execSysPull slot s
  | .hostReadCompletion slot status bytes => Sys2Proof.Machine.execHostReadCompletion slot status bytes s
  | .sysHalter slot => Sys2Proof.Machine.execSysHalter slot s
  | .sysResume slot => Sys2Proof.Machine.execSysResume slot s
  | .sysBufDefine slot => Sys2Proof.Machine.execSysBufDefine slot s
  | .sysBufFree slot => Sys2Proof.Machine.execSysBufFree slot s
  | .sysEventMask slot => Sys2Proof.Machine.execSysEventMask slot s
  | .webConfig slot => Sys2Proof.Machine.execWebConfig slot s
  | .webBarOffset slot => Sys2Proof.Machine.execWebBarOffset slot s
  | .webLimits slot => Sys2Proof.Machine.execWebLimits slot s
  | .webRereference slot => Sys2Proof.Machine.execWebRereference slot s
  | .webQuery slot => Sys2Proof.Machine.execWebQuery slot s
  | .encoderEdge ch a b samples => Sys2Proof.Machine.execEncoderEdge ch a b samples s
  | .hallEdge ch u v w samples => Sys2Proof.Machine.execHallEdge ch u v w samples s
  | .indexEvent ch z samples => Sys2Proof.Machine.execIndexEvent ch z samples s
  | .indexMissing ch => Sys2Proof.Machine.execIndexMissing ch s
  | .webCheckSpan => Sys2Proof.Machine.execWebCheckSpan s
  | .regDoubtEnd => Sys2Proof.Machine.execRegDoubtEnd s
  | .ssiReadDone ch word => Sys2Proof.Machine.execSsiReadDone ch word s
  | .gaitEval => Sys2Proof.Machine.execGaitEval s
  | .standstillTimeout ch => Sys2Proof.Machine.execStandstillTimeout ch s
  | .prnJobOpen slot => Sys2Proof.Machine.execPrnJobOpen slot s
  | .prnLayerBind slot => Sys2Proof.Machine.execPrnLayerBind slot s
  | .prnToneLoad slot => Sys2Proof.Machine.execPrnToneLoad slot s
  | .prnScreenLoad slot => Sys2Proof.Machine.execPrnScreenLoad slot s
  | .prnCommit slot => Sys2Proof.Machine.execPrnCommit slot s
  | .prnJobClose slot => Sys2Proof.Machine.execPrnJobClose slot s
  | .prnAbort slot => Sys2Proof.Machine.execPrnAbort slot s
  | .fireMapLoad slot => Sys2Proof.Machine.execFireMapLoad slot s
  | .fireMaskLoad slot => Sys2Proof.Machine.execFireMaskLoad slot s
  | .fireNozzleState slot => Sys2Proof.Machine.execFireNozzleState slot s
  | .fireTiming slot => Sys2Proof.Machine.execFireTiming slot s
  | .fireSpitConfig slot => Sys2Proof.Machine.execFireSpitConfig slot s
  | .purgeDone bar => Sys2Proof.Machine.execPurgeDone bar s
  | .frameCutoff => Sys2Proof.Machine.execFrameCutoff s
  | .bankWriteStart node => Sys2Proof.Machine.execBankWriteStart node s
  | .bandDispatch engine => Sys2Proof.Machine.execBandDispatch engine s
  | .bandRenderEnd engine => Sys2Proof.Machine.execBandRenderEnd engine s
  | .bandFetchPoint bar => Sys2Proof.Machine.execBandFetchPoint bar s
  | .contentCheckDone frame handle => Sys2Proof.Machine.execContentCheckDone frame handle s
  | .frameComplete frame => Sys2Proof.Machine.execFrameComplete frame s
  | .frameRecord frame => Sys2Proof.Machine.execFrameRecord frame s
  | .lastTickTimeout node => Sys2Proof.Machine.execLastTickTimeout node s
  | .reinLinkState slot => Sys2Proof.Machine.execReinLinkState slot s
  | .adaptationDone link eye => Sys2Proof.Machine.execAdaptationDone link eye s
  | .adaptationTimeout link => Sys2Proof.Machine.execAdaptationTimeout link s
  | .blockLockLost link => Sys2Proof.Machine.execBlockLockLost link s
  | .reinEnumerate slot => Sys2Proof.Machine.execReinEnumerate slot s
  | .enumCollectExpiry slot rx rtts => Sys2Proof.Machine.execEnumCollectExpiry slot rx rtts s
  | .reinNodeRead slot => Sys2Proof.Machine.execReinNodeRead slot s
  | .reinNodeWrite slot => Sys2Proof.Machine.execReinNodeWrite slot s
  | .ctrlRespRx link bytes => Sys2Proof.Machine.execCtrlRespRx link bytes s
  | .ctrlRetryTimeout node tag => Sys2Proof.Machine.execCtrlRetryTimeout node tag s
  | .statusFrameRx link bytes => Sys2Proof.Machine.execStatusFrameRx link bytes s
  | .nodeSilent node => Sys2Proof.Machine.execNodeSilent node s
  | .halterRepeat node => Sys2Proof.Machine.execHalterRepeat node s
  | .nodeDownstreamFrame node portB bytes => Sys2Proof.Machine.execNodeDownstreamFrame node portB bytes s
  | .nodeCtrlReq node portB bytes => Sys2Proof.Machine.execNodeCtrlReq node portB bytes s
  | .nodeTick node portB bytes tRx => Sys2Proof.Machine.execNodeTick node portB bytes tRx s
  | .nodeHalterBlock node portB bytes => Sys2Proof.Machine.execNodeHalterBlock node portB bytes s
  | .nodeRunBlock node portB bytes => Sys2Proof.Machine.execNodeRunBlock node portB bytes s
  | .nodeEcho node portB bytes => Sys2Proof.Machine.execNodeEcho node portB bytes s
  | .nodeLinkLoss node lockLost => Sys2Proof.Machine.execNodeLinkLoss node lockLost s
  | .nodeStatusTimer node temps mv cur nhFail overtemp supplyFault => Sys2Proof.Machine.execNodeStatusTimer node temps mv cur nhFail overtemp supplyFault s
  | .nodeKeepWarmIdle node => Sys2Proof.Machine.execNodeKeepWarmIdle node s
  | .lfrSceneBind slot => Sys2Proof.Machine.execLfrSceneBind slot s
  | .lfrRaymapLoad slot => Sys2Proof.Machine.execLfrRaymapLoad slot s
  | .lfrEmitterCalLoad slot => Sys2Proof.Machine.execLfrEmitterCalLoad slot s
  | .lfrLutLoad slot => Sys2Proof.Machine.execLfrLutLoad slot s
  | .scanTiming slot => Sys2Proof.Machine.execScanTiming slot s
  | .scanCommit slot => Sys2Proof.Machine.execScanCommit slot s
  | .scanPowerPolicy slot => Sys2Proof.Machine.execScanPowerPolicy slot s
  | .scanSplitConfig slot => Sys2Proof.Machine.execScanSplitConfig slot s
  | .rowTick groupB => Sys2Proof.Machine.execRowTick groupB s
  | .splitReadyRx bytes => Sys2Proof.Machine.execSplitReadyRx bytes s
  | .splitWaitExpiry frame => Sys2Proof.Machine.execSplitWaitExpiry frame s
  | .camContext slot => Sys2Proof.Machine.execCamContext slot s
  | .camSettings slot => Sys2Proof.Machine.execCamSettings slot s
  | .camOutput slot => Sys2Proof.Machine.execCamOutput slot s
  | .camStart slot => Sys2Proof.Machine.execCamStart slot s
  | .camStop slot => Sys2Proof.Machine.execCamStop slot s
  | .csiFrameStart port vc ecc deskew => Sys2Proof.Machine.execCsiFrameStart port vc ecc deskew s
  | .csiLinePacket port vc dt payload ecc crcOk => Sys2Proof.Machine.execCsiLinePacket port vc dt payload ecc crcOk s
  | .camFrameDone port vc ecc => Sys2Proof.Machine.execCamFrameDone port vc ecc s
  | .scriptWriteStart port => Sys2Proof.Machine.execScriptWriteStart port s
  | .scriptWriteDone port nak => Sys2Proof.Machine.execScriptWriteDone port nak s
  | .strobeEnd band => Sys2Proof.Machine.execStrobeEnd band s
  | .calTargets slot => Sys2Proof.Machine.execCalTargets slot s
  | .calRun slot => Sys2Proof.Machine.execCalRun slot s
  | .calPolicy slot => Sys2Proof.Machine.execCalPolicy slot s
  | .calQuery slot => Sys2Proof.Machine.execCalQuery slot s
  | .calRunStart calId => Sys2Proof.Machine.execCalRunStart calId s
  | .calPeriodicTimer calId => Sys2Proof.Machine.execCalPeriodicTimer calId s
  | .calComputeDone calId eye found lenses photo => Sys2Proof.Machine.execCalComputeDone calId eye found lenses photo s
  | .calTimeout calId => Sys2Proof.Machine.execCalTimeout calId s
  | .calSettleExpiry calId => Sys2Proof.Machine.execCalSettleExpiry calId s
  | .axisConfig slot => Sys2Proof.Machine.execAxisConfig slot s
  | .axisHome slot => Sys2Proof.Machine.execAxisHome slot s
  | .axisMove slot => Sys2Proof.Machine.execAxisMove slot s
  | .axisGroupMove slot => Sys2Proof.Machine.execAxisGroupMove slot s
  | .axisStop slot => Sys2Proof.Machine.execAxisStop slot s
  | .axisBusReply bus bytes startNs => Sys2Proof.Machine.execAxisBusReply bus bytes startNs s
  | .axisReplyWindowEnd bus slotNo => Sys2Proof.Machine.execAxisReplyWindowEnd bus slotNo s
  | .switchChange axis input level => Sys2Proof.Machine.execSwitchChange axis input level s
  | .timePortConfig slot => Sys2Proof.Machine.execTimePortConfig slot s
  | .timeTrigger slot => Sys2Proof.Machine.execTimeTrigger slot s
  | .timeCapture slot => Sys2Proof.Machine.execTimeCapture slot s
  | .timeHitch slot => Sys2Proof.Machine.execTimeHitch slot s
  | .triggerFire unit adc => Sys2Proof.Machine.execTriggerFire unit adc s
  | .triggerPulseEnd unit => Sys2Proof.Machine.execTriggerPulseEnd unit s
  | .captureEdge source index level samples => Sys2Proof.Machine.execCaptureEdge source index level samples s
  | .ptpMessageRx port msg tBoundary => Sys2Proof.Machine.execPtpMessageRx port msg tBoundary s
  | .syncTimeout => Sys2Proof.Machine.execSyncTimeout s
  | .arpRequestRx port target senderMac senderIp => Sys2Proof.Machine.execArpRequestRx port target senderMac senderIp s
  | .hitchHelloTimer => Sys2Proof.Machine.execHitchHelloTimer s
  | .hitchHelloRx bytes => Sys2Proof.Machine.execHitchHelloRx bytes s
  | .hitchPresenceTimeout member => Sys2Proof.Machine.execHitchPresenceTimeout member s
  | .proposeRx bytes => Sys2Proof.Machine.execProposeRx bytes s
  | .proposeRepeat => Sys2Proof.Machine.execProposeRepeat s
  | .decideRx bytes => Sys2Proof.Machine.execDecideRx bytes s
  | .abortRx bytes => Sys2Proof.Machine.execAbortRx bytes s
  | .hitchWaitExpiry frame => Sys2Proof.Machine.execHitchWaitExpiry frame s
  | .hitchCommitTimeout => Sys2Proof.Machine.execHitchCommitTimeout s
  | .webSampleTimer => Sys2Proof.Machine.execWebSampleTimer s
  | .webSampleRx bytes => Sys2Proof.Machine.execWebSampleRx bytes s
  | .memQos slot => Sys2Proof.Machine.execMemQos slot s
  | .memErrorPolicy slot => Sys2Proof.Machine.execMemErrorPolicy slot s
  | .memRetrain slot => Sys2Proof.Machine.execMemRetrain slot s
  | .memQuery slot => Sys2Proof.Machine.execMemQuery slot s
  | .memGrant ch reqs => Sys2Proof.Machine.execMemGrant ch reqs s
  | .correctedRewrite ch => Sys2Proof.Machine.execCorrectedRewrite ch s
  | .patrolScrubRead ch bad => Sys2Proof.Machine.execPatrolScrubRead ch bad s
  | .scrubLate ch => Sys2Proof.Machine.execScrubLate ch s
  | .neighbourRefresh ch => Sys2Proof.Machine.execNeighbourRefresh ch s
  | .refreshDue ch postpone => Sys2Proof.Machine.execRefreshDue ch postpone s
  | .mr4Read ch codes => Sys2Proof.Machine.execMr4Read ch codes s
  | .parityAlert ch sub writeCrc passed => Sys2Proof.Machine.execParityAlert ch sub writeCrc passed s
  | .feedWindowEnd ch => Sys2Proof.Machine.execFeedWindowEnd ch s
  | .trainingStepDone ch last best stored => Sys2Proof.Machine.execTrainingStepDone ch last best stored s
  | .trainingStepAbandon ch => Sys2Proof.Machine.execTrainingStepAbandon ch s
  | .rateChangeStart ch => Sys2Proof.Machine.execRateChangeStart ch s
  | .rateChangeDone ch eye => Sys2Proof.Machine.execRateChangeDone ch eye s
  | .thmThresholds slot => Sys2Proof.Machine.execThmThresholds slot s
  | .thmZoneMap slot => Sys2Proof.Machine.execThmZoneMap slot s
  | .thmAck slot => Sys2Proof.Machine.execThmAck slot s
  | .levelChange zone threshold => Sys2Proof.Machine.execLevelChange zone threshold s
  | .rateOver zone => Sys2Proof.Machine.execRateOver zone s
  | .throttleLevelStep zone => Sys2Proof.Machine.execThrottleLevelStep zone s
  | .throttleGraceExpiry bar => Sys2Proof.Machine.execThrottleGraceExpiry bar s
  | .sensorState code => Sys2Proof.Machine.execSensorState code s
  | .orderlyStopTargetHalt target => Sys2Proof.Machine.execOrderlyStopTargetHalt target s
  | .tanConfig slot => Sys2Proof.Machine.execTanConfig slot s
  | .tanDrill slot => Sys2Proof.Machine.execTanDrill slot s
  | .tanRelease slot => Sys2Proof.Machine.execTanRelease slot s
  | .heartbeatTimer => Sys2Proof.Machine.execHeartbeatTimer s
  | .heartbeatRx bytes => Sys2Proof.Machine.execHeartbeatRx bytes s
  | .tandemAliveEdge => Sys2Proof.Machine.execTandemAliveEdge s
  | .tandemAliveToggle => Sys2Proof.Machine.execTandemAliveToggle s
  | .calMirrorRx number applied image => Sys2Proof.Machine.execCalMirrorRx number applied image s
  | .drillRx bytes => Sys2Proof.Machine.execDrillRx bytes s
  | .takeoverCheck far => Sys2Proof.Machine.execTakeoverCheck far s
  | .takeoverBanksWritten => Sys2Proof.Machine.execTakeoverBanksWritten s
  | .drillTimeout node => Sys2Proof.Machine.execDrillTimeout node s
  | .lcsChallenge slot => Sys2Proof.Machine.execLcsChallenge slot s
  | .lcsResponse slot => Sys2Proof.Machine.execLcsResponse slot s
  | .lcsOtpWrite slot => Sys2Proof.Machine.execLcsOtpWrite slot s
  | .lcsTransition slot => Sys2Proof.Machine.execLcsTransition slot s
  | .nonceExpiry => Sys2Proof.Machine.execNonceExpiry s
  | .pushChunk v => Sys2Proof.Machine.execPushChunk v s
  | .pushFinalChunk v => Sys2Proof.Machine.execPushFinalChunk v s
  | .pushProvisionalRecord v => Sys2Proof.Machine.execPushProvisionalRecord v s
  | .pushApertureWrite off v => Sys2Proof.Machine.execPushApertureWrite off v s
  | .jtagBoundaryScan instr => Sys2Proof.Machine.execJtagBoundaryScan instr s
  | .jtagCoreDebug => Sys2Proof.Machine.execJtagCoreDebug s
  | .jtagLcsMailbox resp => Sys2Proof.Machine.execJtagLcsMailbox resp s
  | .busMasterEnableWrite on => Sys2Proof.Machine.execBusMasterEnableWrite on s
  | .pcieLinkUp => Sys2Proof.Machine.execPcieLinkUp s
  | .flrWipeDone => Sys2Proof.Machine.execFlrWipeDone s
  | .announceReceiptTimeout port => Sys2Proof.Machine.execAnnounceReceiptTimeout port s
  | .ptpTransmitInterval port => Sys2Proof.Machine.execPtpTransmitInterval port s
  | .pcsLinkChange port up => Sys2Proof.Machine.execPcsLinkChange port up s
  | .refreshWindowEnd ch => Sys2Proof.Machine.execRefreshWindowEnd ch s
  | .tandemPartnerLost => Sys2Proof.Machine.execTandemPartnerLost s

end Sys2Proof.Machine
end

