-- ==== Sys2Proof/Machine/Tick.lean ====
section
/-! DEFINITION. The passing of time: one cycle of the time domain (R387), which the block makes when no command waits
(log 3). -/

namespace Sys2Proof.Machine

/-- R21: firmware and clocks run: device time counts from BOOT on. -/
def State.clocked (s : State) : Bool := s.top.dev != .reset && s.top.dev != .tripped

/-- R387: device time after one cycle: 1 ns + RATE_ADJ, where RATE_ADJ counts 2^-40 ns. -/
def tickTime (t : Timebase) : Timebase :=
  let x := Int.ofNat t.sub + 2 ^ 40 + t.rateAdj
  { t with now := (t.now + (x / 2 ^ 40).toNat) % 2 ^ 64, sub := (x % 2 ^ 40).toNat }

/-- R451 step 3: HALTER with ALL on every link that was CLAIMED, every 2 µs from 2 to 22 µs after the trip. -/
def tripHalters (s : State) : State :=
  if s.top.dev = .tripped ∧ s.uptime % 2000 = 0 ∧ 2000 ≤ s.uptime ∧ s.uptime ≤ 22000 then
    s.thm.tripLinks.foldl (fun st e => sendBlock e.1 (holdBlock 0x2D e.2 0 true) st) s
  else s

/-- One cycle of 1 ns: the nodes of the chains purge, and drive their stored frames in Halter, by their own time, and the step
outputs move (R354), training steps run out or start again (R489), and a DECIDE is sent again (R397). After a trip only HALTER blocks leave (R451). -/
def tick (s : State) : State :=
  let s1 := nodesStep { s with uptime := s.uptime + 1, wall := s.wall + 1 }
  if s.clocked then trainTick (hitchAgain (stepOutputs { s1 with time := tickTime s1.time })) else tripHalters s1

end Sys2Proof.Machine
end

