-- ==== Sys2Proof/Safety.lean ====
section
/-! DEFINITION. What the claims say of every state a step reaches: memories in their canonical form, a mode the part has, and
OTP that only ever gains burned bits. -/

namespace Sys2Proof.Machine

/-- R13, R26: the mode in force is one that the part can take. -/
def State.modeLegal (s : State) : Prop :=
  (s.top.mode = .print → s.fuse.part.print = true) ∧ (s.top.mode = .lightfield → s.fuse.part.lightfield = true)

/-- Device DRAM and the bytes written to host memory are in canonical form. -/
def State.memWf (s : State) : Prop := s.dram.wf ∧ s.hostMem.wf

/-- What every step keeps. -/
def State.inv (s : State) : Prop := s.memWf ∧ s.modeLegal

/-- R500, R506, R510, R511: OTP `b` comes from OTP `a` by burning: bits stay burned, record generations stay as burned, the
rollback count does not fall. -/
structure OtpLe (a b : Lcs) : Prop where
  blank : a.blank = true → b.blank = true
  secured : a.secured = true → b.secured = true
  retired : a.retired = true → b.retired = true
  records : a.records <+: b.records
  rollback : a.rollback ≤ b.rollback

/-- The parts of the state that a command may change, in terms of the fields of `State`: `dev` is the device state with the one
before and the cause, `conflicts` TOP.REG_CONFLICT, `rings` the command rings, `records` the completion rings, `events` the
event ring with its backlog and counters, `area` the host area, `link` the state of the PCIe function, `limits` its payload and
read request limits, `reply` what the host has read last, with the latches behind it, `aer` the error flags of AER, `clock`
device time itself. The queue, the fuses and the clock of the nodes are no part: no command changes them. -/
inductive Part where
  | uptime | free | out | dev | mode | conflicts | hpen | rings | slots | records
  | events | masked | bufs | pulls | area | winDrop | link | limits | reply | aer
  | msix | pba | otp | lcs | dram | poison | hostMem | clock | time | web
  | axis | frames | prn | fire | rein | chain | tan | thm | cal | scan
  | cam | mem
  deriving DecidableEq, Repr

/-- `t` comes from `r` by a change of the parts marked in `m` at most: the queue, the fuses and the clock of the nodes are the
same, OTP has more burned at most, and the canonical forms and the legal mode are kept. -/
structure Keeps (m : Part → Bool) (r t : State) : Prop where
  pending : t.pending = r.pending
  fuse : t.fuse = r.fuse
  wall : t.wall = r.wall
  otpLe : OtpLe r.lcs t.lcs
  dramWf : r.dram.wf → t.dram.wf
  hostWf : r.hostMem.wf → t.hostMem.wf
  modeOk : r.modeLegal → t.modeLegal
  uptime : m .uptime = false → t.uptime = r.uptime
  free : m .free = false → t.free = r.free
  out : m .out = false → t.out = r.out
  dev : m .dev = false → t.top.dev = r.top.dev ∧ t.top.prev = r.top.prev ∧ t.top.cause = r.top.cause
  mode : m .mode = false → t.top.mode = r.top.mode
  conflicts : m .conflicts = false → t.top.conflicts = r.top.conflicts ∧ t.top.lastDword = r.top.lastDword
  hpen : m .hpen = false → t.top.hpen = r.top.hpen
  rings : m .rings = false → t.cmd.rings = r.cmd.rings ∧ t.cmd.rrNext = r.cmd.rrNext ∧ t.cmd.nextId = r.cmd.nextId
  slots : m .slots = false → t.cmd.slots = r.cmd.slots
  records : m .records = false → t.cmd.cpl = r.cmd.cpl
  events : m .events = false →
    t.cmd.evt = r.cmd.evt ∧ t.cmd.backlog = r.cmd.backlog ∧ t.cmd.evtSeq = r.cmd.evtSeq ∧ t.cmd.lostAll = r.cmd.lostAll ∧ t.cmd.lostFrame = r.cmd.lostFrame
  masked : m .masked = false → t.cmd.masked = r.cmd.masked
  bufs : m .bufs = false → t.cmd.bufs = r.cmd.bufs
  pulls : m .pulls = false → t.cmd.pulls = r.cmd.pulls
  area : m .area = false → t.cmd.hostBase = r.cmd.hostBase ∧ t.cmd.hostSize = r.cmd.hostSize
  winDrop : m .winDrop = false → t.cmd.winDrop = r.cmd.winDrop
  link : m .link = false →
    t.pcie.linkUp = r.pcie.linkUp ∧ t.pcie.d3hot = r.pcie.d3hot ∧ t.pcie.bme = r.pcie.bme ∧ t.pcie.wiping = r.pcie.wiping
  limits : m .limits = false → t.pcie.maxPayload = r.pcie.maxPayload ∧ t.pcie.maxReadRequest = r.pcie.maxReadRequest
  reply : m .reply = false → t.pcie.reply = r.pcie.reply ∧ t.pcie.latches = r.pcie.latches
  aer : m .aer = false →
    t.pcie.aerUr = r.pcie.aerUr ∧ t.pcie.aerPoison = r.pcie.aerPoison ∧ t.pcie.aerEcrc = r.pcie.aerEcrc ∧ t.pcie.aerTimeout = r.pcie.aerTimeout
  msix : m .msix = false → t.pcie.msix = r.pcie.msix
  pba : m .pba = false → t.pcie.pba = r.pcie.pba
  otp : m .otp = false →
    t.lcs.blank = r.lcs.blank ∧ t.lcs.secured = r.lcs.secured ∧
      t.lcs.retired = r.lcs.retired ∧ t.lcs.records = r.lcs.records ∧ t.lcs.rollback = r.lcs.rollback
  lcs : m .lcs = false → t.lcs = r.lcs
  dram : m .dram = false → t.dram = r.dram
  poison : m .poison = false → t.poison = r.poison
  hostMem : m .hostMem = false → t.hostMem = r.hostMem
  clock : m .clock = false → t.time.now = r.time.now ∧ t.time.sub = r.time.sub
  time : m .time = false → t.time = r.time
  web : m .web = false → t.web = r.web
  axis : m .axis = false → t.axis = r.axis
  frames : m .frames = false → t.frames = r.frames
  prn : m .prn = false → t.prn = r.prn
  fire : m .fire = false → t.fire = r.fire
  rein : m .rein = false → t.rein = r.rein
  chain : m .chain = false → t.chain = r.chain
  tan : m .tan = false → t.tan = r.tan
  thm : m .thm = false → t.thm = r.thm
  cal : m .cal = false → t.cal = r.cal
  scan : m .scan = false → t.scan = r.scan
  cam : m .cam = false → t.cam = r.cam
  mem : m .mem = false → t.mem = r.mem

/-- R494, R495: what a reset leaves of the life-cycle block: OTP, and of the always-on domain the straps, the count of failed
attempts and what the reset records. -/
def Lcs.fresh (x : Lcs) (cause count straps attempts tap : Nat) (held opened : Bool) : Lcs :=
  { blank := x.blank, secured := x.secured, retired := x.retired, records := x.records, rollback := x.rollback
    cause := cause, count := count, straps := straps, attempts := attempts, tap := tap, held := held, opened := opened }

/-- R494, R495: the LZ9 with these life-cycle and thermal blocks, everything else on it at its reset value. The queue of commands,
what has left the chip, host memory, the nodes and the fuses are as before. -/
def State.fresh (s : State) (lcs : Lcs) (thm : Thermal) : State :=
  { pending := s.pending, wall := s.wall, out := s.out, free := s.free, fuse := s.fuse, hostMem := s.hostMem, chain := s.chain
    lcs := lcs, thm := thm }

/-- R40, R45: an access lies within BAR0's 16 MiB, or within the exchange window that BAR2 maps; every other command is in
reach. -/
def State.inReach (s : State) : Instr → Bool
  | .registerWrite off _ | .w1cWrite off _ | .readClear off | .latchedLoRead off => decide (off < 2 ^ 24)
  | .bar2Write off bs => decide (off + bs.length ≤ s.windowSize)
  | .bar2Read off n => decide (off + n ≤ s.windowSize)
  | _ => true

/-- R63: command `k` executing, its effect still to come. -/
def State.begun (s : State) (k : Nat) : State := s.setSlot k { s.slot k with phase := .executing }

/-- R31, R63, R413: the command in slot `k` is one of opcode `op` that can start, and no check of it fails. -/
structure Accepted (op : Nat) (c : Checks) (k : Nat) (s : State) : Prop where
  startable : s.startable op k = true
  checks : firstFailure c (s.slot k) s = none
  clean : ((c.reads (s.slot k) s).any fun r => s.poisoned ((s.buf r.1).base + r.2.1) r.2.2) = false

/-- R53, R55: in `t` the command that stood in slot `k` of `s` has its completion record, with this status, DETAIL and RESULT,
waiting for its ring; a QUIET command that ends with ST_OK has none. -/
def Completed (k : Nat) (s t : State) (status detail result : Nat) : Prop :=
  ((s.slot k).quiet = true ∧ status = St.ok) ∨
    ∃ c ∈ (t.cplRing ((s.slot k).cplRing % 8)).waiting,
      c.slot = k ∧ c.id = (s.slot k).id ∧ c.seq = (s.slot k).seq ∧ c.opcode = (s.slot k).opcode ∧ c.status = status ∧
        c.detail = detail ∧ c.result = result

/-- R58 to R60: an event of this source and code that is raised now waits in the backlog: it is not disabled, READY has been
raised, and the event ring takes no record while the backlog has room. -/
structure Queues (s : State) (src code : Nat) : Prop where
  enabled : s.evtMasked src code = false
  afterReady : s.beforeReady = false
  ringOff : s.cmd.evt.enable = false
  room : backlogRecords s.cmd.backlog + 4 ≤ 4096

/-- R58: an event of this source and code with these data bytes waits in the backlog. -/
def Waits (t : State) (src code : Nat) (data : List Byte) : Prop :=
  ∃ e ∈ t.cmd.backlog, e.source = src ∧ e.code = code ∧ e.data = data

/-- R71: the commands of the catalogue: the row, its opcode, its execution slot and its checks. -/
inductive RingRow : Instr → Nat → Nat → Checks → Prop where
  | sysNop (k : Nat) : RingRow (.sysNop k) 0x0100 k noParams
  | sysQuery (k : Nat) : RingRow (.sysQuery k) 0x0101 k sysQueryChecks
  | sysSetMode (k : Nat) : RingRow (.sysSetMode k) 0x0102 k setModeChecks
  | sysPull (k : Nat) : RingRow (.sysPull k) 0x0103 k sysPullChecks
  | sysHalter (k : Nat) : RingRow (.sysHalter k) 0x0104 k sysHalterChecks
  | sysResume (k : Nat) : RingRow (.sysResume k) 0x0105 k sysResumeChecks
  | sysBufDefine (k : Nat) : RingRow (.sysBufDefine k) 0x0106 k bufDefineChecks
  | sysBufFree (k : Nat) : RingRow (.sysBufFree k) 0x0107 k bufFreeChecks
  | sysEventMask (k : Nat) : RingRow (.sysEventMask k) 0x0108 k eventMaskChecks
  | webConfig (k : Nat) : RingRow (.webConfig k) 0x0200 k webConfigChecks
  | webBarOffset (k : Nat) : RingRow (.webBarOffset k) 0x0201 k webBarOffsetChecks
  | webLimits (k : Nat) : RingRow (.webLimits k) 0x0202 k webLimitsChecks
  | webRereference (k : Nat) : RingRow (.webRereference k) 0x0203 k webRereferenceChecks
  | webQuery (k : Nat) : RingRow (.webQuery k) 0x0204 k webQueryChecks
  | prnJobOpen (k : Nat) : RingRow (.prnJobOpen k) 0x0300 k jobOpenChecks
  | prnLayerBind (k : Nat) : RingRow (.prnLayerBind k) 0x0301 k layerBindChecks
  | prnToneLoad (k : Nat) : RingRow (.prnToneLoad k) 0x0302 k toneChecks
  | prnScreenLoad (k : Nat) : RingRow (.prnScreenLoad k) 0x0303 k screenChecks
  | prnCommit (k : Nat) : RingRow (.prnCommit k) 0x0304 k prnCommitChecks
  | prnJobClose (k : Nat) : RingRow (.prnJobClose k) 0x0305 k jobCloseChecks
  | prnAbort (k : Nat) : RingRow (.prnAbort k) 0x0306 k abortChecks
  | fireMapLoad (k : Nat) : RingRow (.fireMapLoad k) 0x0400 k mapLoadChecks
  | fireMaskLoad (k : Nat) : RingRow (.fireMaskLoad k) 0x0401 k maskLoadChecks
  | fireNozzleState (k : Nat) : RingRow (.fireNozzleState k) 0x0402 k nozzleChecks
  | fireTiming (k : Nat) : RingRow (.fireTiming k) 0x0403 k timingChecks
  | fireSpitConfig (k : Nat) : RingRow (.fireSpitConfig k) 0x0404 k spitChecks
  | reinEnumerate (k : Nat) : RingRow (.reinEnumerate k) 0x0500 k enumerateChecks
  | reinNodeRead (k : Nat) : RingRow (.reinNodeRead k) 0x0501 k (nodeXferChecks false)
  | reinNodeWrite (k : Nat) : RingRow (.reinNodeWrite k) 0x0502 k (nodeXferChecks true)
  | reinLinkState (k : Nat) : RingRow (.reinLinkState k) 0x0503 k linkStateChecks
  | lfrSceneBind (k : Nat) : RingRow (.lfrSceneBind k) 0x0600 k sceneChecks
  | lfrRaymapLoad (k : Nat) : RingRow (.lfrRaymapLoad k) 0x0601 k rayMapChecks
  | lfrEmitterCalLoad (k : Nat) : RingRow (.lfrEmitterCalLoad k) 0x0602 k emitterCalChecks
  | lfrLutLoad (k : Nat) : RingRow (.lfrLutLoad k) 0x0603 k lutChecks
  | scanTiming (k : Nat) : RingRow (.scanTiming k) 0x0700 k scanTimingChecks
  | scanCommit (k : Nat) : RingRow (.scanCommit k) 0x0701 k scanCommitChecks
  | scanPowerPolicy (k : Nat) : RingRow (.scanPowerPolicy k) 0x0702 k powerPolicyChecks
  | scanSplitConfig (k : Nat) : RingRow (.scanSplitConfig k) 0x0703 k splitChecks
  | camContext (k : Nat) : RingRow (.camContext k) 0x0800 k camContextChecks
  | camSettings (k : Nat) : RingRow (.camSettings k) 0x0801 k camSettingsChecks
  | camOutput (k : Nat) : RingRow (.camOutput k) 0x0802 k camOutputChecks
  | camStart (k : Nat) : RingRow (.camStart k) 0x0803 k camStartChecks
  | camStop (k : Nat) : RingRow (.camStop k) 0x0804 k camStopChecks
  | calTargets (k : Nat) : RingRow (.calTargets k) 0x0900 k calTargetsChecks
  | calRun (k : Nat) : RingRow (.calRun k) 0x0901 k calRunChecks
  | calPolicy (k : Nat) : RingRow (.calPolicy k) 0x0902 k calPolicyChecks
  | calQuery (k : Nat) : RingRow (.calQuery k) 0x0903 k calQueryChecks
  | axisConfig (k : Nat) : RingRow (.axisConfig k) 0x0A00 k axisConfigChecks
  | axisHome (k : Nat) : RingRow (.axisHome k) 0x0A01 k axisHomeChecks
  | axisMove (k : Nat) : RingRow (.axisMove k) 0x0A02 k axisMoveChecks
  | axisGroupMove (k : Nat) : RingRow (.axisGroupMove k) 0x0A03 k axisGroupMoveChecks
  | axisStop (k : Nat) : RingRow (.axisStop k) 0x0A04 k axisStopChecks
  | timePortConfig (k : Nat) : RingRow (.timePortConfig k) 0x0B00 k timePortChecks
  | timeTrigger (k : Nat) : RingRow (.timeTrigger k) 0x0B01 k timeTriggerChecks
  | timeCapture (k : Nat) : RingRow (.timeCapture k) 0x0B02 k timeCaptureChecks
  | timeHitch (k : Nat) : RingRow (.timeHitch k) 0x0B03 k timeHitchChecks
  | memQos (k : Nat) : RingRow (.memQos k) 0x0C00 k memQosChecks
  | memErrorPolicy (k : Nat) : RingRow (.memErrorPolicy k) 0x0C01 k memErrorPolicyChecks
  | memRetrain (k : Nat) : RingRow (.memRetrain k) 0x0C02 k memRetrainChecks
  | memQuery (k : Nat) : RingRow (.memQuery k) 0x0C03 k memQueryChecks
  | thmThresholds (k : Nat) : RingRow (.thmThresholds k) 0x0D00 k thmThresholdsChecks
  | thmZoneMap (k : Nat) : RingRow (.thmZoneMap k) 0x0D01 k thmZoneMapChecks
  | thmAck (k : Nat) : RingRow (.thmAck k) 0x0D02 k thmAckChecks
  | tanConfig (k : Nat) : RingRow (.tanConfig k) 0x0E00 k tanConfigChecks
  | tanDrill (k : Nat) : RingRow (.tanDrill k) 0x0E01 k tanDrillChecks
  | tanRelease (k : Nat) : RingRow (.tanRelease k) 0x0E02 k tanReleaseChecks
  | lcsChallenge (k : Nat) : RingRow (.lcsChallenge k) 0x0F00 k noParams
  | lcsResponse (k : Nat) : RingRow (.lcsResponse k) 0x0F01 k lcsResponseChecks
  | lcsOtpWrite (k : Nat) : RingRow (.lcsOtpWrite k) 0x0F02 k lcsOtpWriteChecks
  | lcsTransition (k : Nat) : RingRow (.lcsTransition k) 0x0F03 k lcsTransitionChecks

/-- What each row may change, as parts of the state; it leaves every other part as it is. -/
def mayChange : Instr → List Part
  | .calSettleExpiry _ => [.cal]
  | .scriptWriteStart _ => [.cam]
  | .contentCheckDone _ _ | .lastTickTimeout _ => [.frames]
  | .hpenCtrlWrite _ => [.hpen]
  | .nonceExpiry | .pushChunk _ | .pushFinalChunk _ | .pushProvisionalRecord _ | .pushApertureWrite _ _
  | .jtagCoreDebug => [.lcs]
  | .flrWipeDone => [.link]
  | .correctedRewrite _ | .neighbourRefresh _ | .refreshDue _ _ | .trainingStepAbandon _ | .refreshWindowEnd _ =>
    [.mem]
  | .tandemAliveEdge | .tandemAliveToggle => [.tan]
  | .capPop _ _ => [.time]
  | .evtRingDisable _ | .evtRingConfig _ | .evtPtrHeadWrite _ => [.conflicts, .events]
  | .cplPtrHeadWrite _ _ => [.conflicts, .records]
  | .cmdRingEnable _ _ | .cmdRingDisable _ _ | .cmdRingResize _ _ | .crDoorbell _ _ => [.conflicts, .rings]
  | .bandDispatch _ => [.frames, .scan]
  | .strobeEnd _ => [.out, .cam]
  | .nodeDownstreamFrame _ _ _ | .nodeCtrlReq _ _ _ | .nodeTick _ _ _ _ | .nodeHalterBlock _ _ _
  | .nodeRunBlock _ _ _ | .nodeEcho _ _ _ | .nodeLinkLoss _ _ | .nodeStatusTimer _ _ _ _ _ _ _ | .nodeKeepWarmIdle _ =>
    [.out, .chain]
  | .jtagBoundaryScan _ => [.out, .lcs]
  | .halterRepeat _ => [.out, .rein]
  | .heartbeatTimer => [.out, .tan]
  | .triggerPulseEnd _ | .arpRequestRx _ _ _ _ | .hitchHelloTimer | .ptpTransmitInterval _ => [.out, .time]
  | .bar0BadAccess _ => [.reply, .aer]
  | .sysNop _ | .sysQuery _ | .calQuery _ => [.slots, .records]
  | .drillRx _ => [.time, .tan]
  | .jtagLcsMailbox _ => [.free, .out, .lcs]
  | .memQuery _ => [.free, .slots, .records]
  | .bankWriteStart _ => [.out, .fire, .rein]
  | .takeoverBanksWritten => [.out, .rein, .tan]
  | .axisMove _ | .axisGroupMove _ => [.slots, .records, .axis]
  | .calTargets _ => [.slots, .records, .cal]
  | .prnLayerBind _ | .fireNozzleState _ | .fireTiming _ | .lfrSceneBind _ | .scanPowerPolicy _ =>
    [.slots, .records, .frames]
  | .lcsResponse _ => [.slots, .records, .lcs]
  | .memQos _ | .memErrorPolicy _ => [.slots, .records, .mem]
  | .scanSplitConfig _ => [.slots, .records, .scan]
  | .tanConfig _ => [.slots, .records, .tan]
  | .timeCapture _ => [.slots, .records, .time]
  | .webQuery _ => [.slots, .records, .web]
  | .bar2Write _ _ => [.winDrop, .dram, .poison]
  | .lcsChallenge _ => [.free, .slots, .records, .lcs]
  | .sysEventMask _ => [.free, .slots, .records, .masked]
  | .eventBacklogDrain => [.out, .events, .pba, .hostMem]
  | .busMasterEnableWrite _ | .pcieLinkUp => [.out, .pulls, .link, .pba]
  | .coalesceTimerExpiry _ => [.out, .records, .events, .pba]
  | .reinEnumerate _ | .reinNodeRead _ | .reinNodeWrite _ => [.out, .slots, .records, .rein]
  | .timeTrigger _ => [.out, .slots, .records, .time]
  | .camContext _ | .camOutput _ => [.slots, .records, .cam, .mem]
  | .prnToneLoad _ | .prnScreenLoad _ | .fireMapLoad _ | .fireMaskLoad _ | .lfrLutLoad _ =>
    [.slots, .records, .frames, .prn]
  | .lfrRaymapLoad _ | .lfrEmitterCalLoad _ | .scanTiming _ => [.slots, .records, .frames, .scan]
  | .lcsTransition _ => [.slots, .records, .otp, .lcs]
  | .camStart _ | .camStop _ => [.slots, .records, .time, .cam]
  | .timeHitch _ | .abortRx _ | .hitchCommitTimeout => [.slots, .records, .time, .frames]
  | .thmThresholds _ => [.slots, .records, .time, .thm]
  | .lcsOtpWrite _ => [.free, .slots, .records, .otp, .lcs]
  | .evtRingEnable _ => [.out, .conflicts, .events, .pba, .hostMem]
  | .csiLinePacket _ _ _ _ _ _ | .scriptWriteDone _ _ => [.out, .events, .pba, .hostMem, .cam]
  | .purgeDone _ => [.out, .events, .pba, .hostMem, .fire]
  | .scrubLate _ | .mr4Read _ _ | .feedWindowEnd _ | .rateChangeStart _ => [.out, .events, .pba, .hostMem, .mem]
  | .nodeSilent _ => [.out, .events, .pba, .hostMem, .rein]
  | .drillTimeout _ | .tandemPartnerLost => [.out, .events, .pba, .hostMem, .tan]
  | .rateOver _ => [.out, .events, .pba, .hostMem, .thm]
  | .captureEdge _ _ _ _ | .syncTimeout | .hitchHelloRx _ | .hitchPresenceTimeout _ | .announceReceiptTimeout _
  | .pcsLinkChange _ _ => [.out, .events, .pba, .hostMem, .time]
  | .indexMissing _ | .webCheckSpan | .regDoubtEnd | .gaitEval | .standstillTimeout _ =>
    [.out, .events, .pba, .hostMem, .web]
  | .ctrlRetryTimeout _ _ => [.out, .slots, .records, .fire, .rein]
  | .completionRecordWrite _ => [.out, .slots, .records, .pba, .hostMem]
  | .sysPull _ => [.out, .slots, .records, .pulls, .mem]
  | .axisStop _ => [.out, .slots, .records, .time, .axis]
  | .hitchWaitExpiry _ => [.out, .slots, .records, .time, .frames]
  | .sysBufDefine _ | .sysBufFree _ => [.slots, .records, .bufs, .pulls, .mem]
  | .cplRingEnable _ _ | .cplRingDisable _ _ | .cplRingConfig _ _ =>
    [.out, .conflicts, .slots, .records, .pba, .hostMem]
  | .bandRenderEnd _ => [.out, .events, .pba, .hostMem, .frames, .prn]
  | .heartbeatRx _ => [.out, .events, .pba, .hostMem, .time, .tan]
  | .webSampleTimer | .webSampleRx _ => [.out, .events, .pba, .hostMem, .time, .web]
  | .indexEvent _ _ _ => [.out, .events, .pba, .hostMem, .web, .axis]
  | .patrolScrubRead _ _ => [.out, .events, .pba, .poison, .hostMem, .mem]
  | .bar2Read _ _ => [.out, .events, .reply, .pba, .hostMem, .mem]
  | .fireSpitConfig _ => [.out, .slots, .records, .frames, .fire, .rein]
  | .prnJobOpen _ => [.slots, .records, .web, .frames, .prn, .fire]
  | .ptpMessageRx _ _ _ => [.free, .out, .events, .pba, .hostMem, .clock, .time]
  | .splitWaitExpiry _ => [.out, .events, .bufs, .pba, .hostMem, .frames, .scan]
  | .frameRecord _ => [.out, .events, .pba, .hostMem, .frames, .cal, .scan]
  | .blockLockLost _ => [.out, .events, .pba, .hostMem, .frames, .rein, .cal]
  | .throttleGraceExpiry _ => [.out, .events, .pba, .hostMem, .web, .fire, .thm]
  | .camSettings _ => [.out, .slots, .records, .events, .pba, .hostMem, .cam]
  | .webConfig _ | .webBarOffset _ | .webLimits _ | .webRereference _ =>
    [.out, .slots, .records, .events, .pba, .hostMem, .web]
  | .splitReadyRx _ => [.out, .events, .bufs, .pba, .hostMem, .time, .frames, .scan]
  | .rowTick _ => [.out, .events, .pba, .hostMem, .frames, .rein, .tan, .scan]
  | .throttleLevelStep _ => [.out, .events, .pba, .hostMem, .web, .frames, .fire, .thm]
  | .enumCollectExpiry _ _ _ => [.out, .slots, .records, .events, .pba, .hostMem, .fire, .rein]
  | .tanRelease _ => [.out, .slots, .records, .events, .pba, .hostMem, .rein, .tan]
  | .axisConfig _ | .axisHome _ | .axisBusReply _ _ _ | .axisReplyWindowEnd _ _ | .switchChange _ _ _ =>
    [.out, .slots, .records, .events, .pba, .hostMem, .time, .axis]
  | .takeoverCheck _ => [.free, .out, .events, .pba, .hostMem, .frames, .fire, .rein, .tan]
  | .timePortConfig _ => [.free, .out, .slots, .records, .events, .pba, .hostMem, .clock, .time]
  | .calMirrorRx _ _ _ => [.out, .events, .pba, .hostMem, .web, .frames, .prn, .tan, .scan]
  | .descriptorFetch => [.out, .rings, .slots, .records, .events, .pba, .dram, .poison, .hostMem]
  | .hostReadCompletion _ _ _ => [.out, .slots, .records, .bufs, .pulls, .aer, .dram, .poison, .mem]
  | .ssiReadDone _ _ => [.out, .slots, .records, .events, .pba, .hostMem, .time, .web, .axis]
  | .sysSetMode _ => [.free, .out, .dev, .mode, .slots, .records, .events, .area, .pba, .hostMem]
  | .calRunStart _ | .calPeriodicTimer _ | .calTimeout _ | .memRetrain _ =>
    [.free, .out, .slots, .records, .events, .pba, .hostMem, .axis, .cal, .mem]
  | .ready => [.out, .dev, .records, .events, .pba, .dram, .poison, .hostMem, .time, .mem]
  | .encoderEdge _ _ _ _ | .hallEdge _ _ _ _ _ =>
    [.out, .events, .pba, .hostMem, .time, .web, .frames, .fire, .rein, .tan]
  | .prnCommit _ | .proposeRx _ | .proposeRepeat | .decideRx _ =>
    [.out, .slots, .records, .events, .pba, .hostMem, .time, .web, .frames, .scan]
  | .reinLinkState _ | .adaptationDone _ _ | .adaptationTimeout _ =>
    [.free, .out, .slots, .records, .events, .pba, .hostMem, .axis, .rein, .cal, .mem]
  | .tanDrill _ => [.free, .out, .slots, .records, .events, .pba, .hostMem, .frames, .fire, .rein, .tan]
  | .bandFetchPoint _ => [.out, .dev, .events, .pba, .hostMem, .frames, .prn, .fire, .rein, .tan, .scan]
  | .sysResume _ => [.out, .dev, .slots, .records, .events, .pba, .hostMem, .frames, .fire, .rein, .scan]
  | .prnJobClose _ => [.out, .dev, .slots, .records, .events, .pba, .hostMem, .web, .frames, .prn, .fire]
  | .thmAck _ => [.out, .slots, .records, .events, .pba, .hostMem, .frames, .fire, .rein, .thm, .scan]
  | .scanCommit _ => [.out, .slots, .records, .events, .pba, .hostMem, .time, .web, .frames, .rein, .scan]
  | .frameComplete _ => [.out, .dev, .events, .bufs, .pba, .hostMem, .time, .web, .frames, .prn, .fire, .scan]
  | .prnAbort _ => [.out, .dev, .slots, .records, .events, .bufs, .pba, .hostMem, .web, .frames, .prn, .fire]
  | .ctrlRespRx _ _ =>
    [.out, .slots, .records, .events, .pba, .dram, .poison, .hostMem, .web, .frames, .fire, .rein]
  | .calPolicy _ => [.free, .out, .slots, .records, .events, .pba, .hostMem, .time, .axis, .prn, .cal, .cam, .mem]
  | .camFrameDone _ _ _ =>
    [.free, .out, .slots, .records, .events, .bufs, .pba, .dram, .poison, .hostMem, .axis, .cal, .cam, .mem]
  | .pcieLinkDown | .d3hotEntry =>
    [.out, .dev, .slots, .records, .events, .link, .pba, .hostMem, .time, .axis, .frames, .fire, .rein, .cam]
  | .sysHalter _ | .statusFrameRx _ _ =>
    [.out, .dev, .slots, .records, .events, .pba, .hostMem, .time, .axis, .frames, .fire, .rein, .tan, .cam]
  | .csiFrameStart _ _ _ _ =>
    [.free, .out, .slots, .records, .events, .bufs, .pba, .dram, .poison, .hostMem, .time, .axis, .cal, .cam, .mem]
  | .calRun _ | .calComputeDone _ _ _ _ _ =>
    [.free, .out, .slots, .records, .events, .pba, .hostMem, .web, .axis, .frames, .prn, .tan, .cal, .scan, .mem]
  | .orderlyStopTargetHalt _ =>
    [.out, .dev, .slots, .records, .events, .pba, .hostMem, .time, .axis, .frames, .fire, .rein, .thm, .scan, .cam]
  | .registerWrite _ _ | .w1cWrite _ _ =>
    [.free, .out, .conflicts, .hpen, .rings, .slots, .records, .events, .reply, .aer, .msix, .pba, .lcs, .hostMem,
     .time, .web]
  | .thmZoneMap _ | .levelChange _ _ | .sensorState _ =>
    [.free, .out, .dev, .slots, .records, .events, .pba, .hostMem, .time, .axis, .frames, .fire, .rein, .thm, .scan, .cam]
  | .bootDdrTrained _ _ _ | .watchdogExpiry | .parityAlert _ _ _ _ =>
    [.out, .dev, .slots, .records, .events, .pulls, .pba, .hostMem, .time, .axis, .frames, .fire, .rein, .cal, .cam, .mem]
  | .trainingStepDone _ _ _ _ | .rateChangeDone _ _ =>
    [.free, .out, .dev, .slots, .records, .events, .pulls, .pba, .hostMem, .time, .axis, .frames, .fire, .rein, .cal,
     .cam, .mem]
  | .clockFault _ =>
    [.out, .dev, .slots, .records, .events, .pulls, .link, .pba, .hostMem, .time, .axis, .frames, .fire, .rein, .cal,
     .cam, .mem]
  | .bootImageVerified _ =>
    [.out, .dev, .slots, .records, .events, .pulls, .pba, .lcs, .hostMem, .time, .axis, .frames, .fire, .rein, .cal,
     .cam, .mem]
  | .readClear _ | .latchedLoRead _ =>
    [.conflicts, .rings, .events, .winDrop, .reply, .aer, .time, .web, .axis, .frames, .prn, .fire, .rein, .tan, .cal,
     .scan, .cam, .mem]
  | .memGrant _ _ =>
    [.out, .dev, .slots, .records, .events, .pulls, .pba, .poison, .hostMem, .time, .axis, .frames, .fire, .rein, .cal,
     .scan, .cam, .mem]
  | .resetRelease _ =>
    [.uptime, .out, .dev, .slots, .records, .events, .pulls, .pba, .lcs, .hostMem, .time, .axis, .frames, .fire, .rein,
     .cal, .cam, .mem]
  | .frameCutoff =>
    [.free, .out, .slots, .records, .events, .bufs, .pba, .hostMem, .time, .web, .axis, .frames, .prn, .fire, .rein,
     .tan, .cal, .scan, .mem]
  | .triggerFire _ _ =>
    [.free, .out, .dev, .slots, .records, .events, .bufs, .pba, .hostMem, .time, .web, .axis, .frames, .fire, .rein,
     .thm, .cal, .scan, .cam, .mem]
  | .flr | .hotReset =>
    [.free, .out, .dev, .rings, .slots, .records, .events, .bufs, .pulls, .winDrop, .link, .limits, .msix, .pba, .dram,
     .poison, .hostMem, .time, .web, .axis, .frames, .prn, .fire, .rein, .cal, .scan, .cam, .mem]
  | .powerOn _ | .porstAssert _ | .sysrstAssert | .tripHoldExpiry =>
    [.uptime, .dev, .mode, .conflicts, .hpen, .rings, .slots, .records, .events, .masked, .bufs, .pulls, .area,
     .winDrop, .link, .limits, .reply, .aer, .msix, .pba, .lcs, .dram, .poison, .clock, .time, .web, .axis,
     .frames, .prn, .fire, .rein, .tan, .thm, .cal, .scan, .cam, .mem]
  | .internalReset | .dieTrip _ =>
    [.uptime, .out, .dev, .mode, .conflicts, .hpen, .rings, .slots, .records, .events, .masked, .bufs, .pulls, .area,
     .winDrop, .link, .limits, .reply, .aer, .msix, .pba, .lcs, .dram, .poison, .clock, .time, .web, .axis,
     .frames, .prn, .fire, .rein, .tan, .thm, .cal, .scan, .cam, .mem]

/-- A step stops. -/
def stops (s : State) : Prop := ∀ t, step s ≠ .next t

end Sys2Proof.Machine
end

