-- ==== Sys2Proof/Certificates/Slice0/Obligations.lean ====
section
/-! DEFINITION. The statements for the provers. -/

open Sys2Proof Sys2Proof.Machine

/-! ### The block as a whole -/

/-- A step runs the command at the front of the queue on the state with the queue's rest. -/
def Obligations.StepRunsFrontCommand : Prop :=
  ∀ (c : Instr) (rest : List Instr) (s : State), s.pending = c :: rest → step s = exec c { s with pending := rest }

/-- With no command waiting a step is one cycle of 1 ns (the model's choice, log 3). Device time advances by 1 ns and RATE_ADJ,
which counts 2^-40 ns (R387), in every device state in which firmware and clocks run, and stands still in RESET and TRIPPED.
Beyond the two counts of cycles the cycle changes device time, the step outputs of the axes (R354), the training runs (R489),
the hitch (R397), the nodes of the chains and what leaves the chip, and no other part of the state. -/
def Obligations.IdleStepIsOneCycle : Prop :=
  ∀ s : State, s.pending = [] → ∃ t, step s = .next t ∧ t.uptime = s.uptime + 1 ∧ t.wall = s.wall + 1 ∧
    ((s.top.dev = .reset ∨ s.top.dev = .tripped) → t.time = s.time ∧ t.axis = s.axis ∧ t.mem = s.mem) ∧
    (s.top.dev ≠ .reset → s.top.dev ≠ .tripped → s.time.sub < 2 ^ 40 → -(2 ^ 40 : Int) ≤ s.time.rateAdj →
      s.time.now + 2 < 2 ^ 64 → s.time.rateAdj < 2 ^ 40 →
      Int.ofNat t.time.now * 2 ^ 40 + Int.ofNat t.time.sub =
        Int.ofNat s.time.now * 2 ^ 40 + Int.ofNat s.time.sub + 2 ^ 40 + s.time.rateAdj) ∧
    Keeps (fun p => [.uptime, .out, .clock, .time, .axis, .chain, .mem].contains p) { s with wall := s.wall + 1 } t

/-- No command changes the queue, the fuses or the clock of the nodes. -/
def Obligations.CommandsKeepQueueAndFuses : Prop :=
  ∀ (c : Instr) (s t : State), exec c s = .next t → t.pending = s.pending ∧ t.fuse = s.fuse ∧ t.wall = s.wall

/-- R500, R506, R510, R511: OTP bits burned stay burned, record generations stay as they were burned, and the rollback count
does not fall, whatever the command: it rises through LCS_OTP_WRITE item ROLLBACK_COMMIT alone, to the ROLLBACK of the running
image. -/
def Obligations.OtpOnlyGains : Prop :=
  (∀ (c : Instr) (s t : State), exec c s = .next t →
    (s.lcs.blank = true → t.lcs.blank = true) ∧ (s.lcs.secured = true → t.lcs.secured = true) ∧
    (s.lcs.retired = true → t.lcs.retired = true) ∧ s.lcs.records <+: t.lcs.records ∧ s.lcs.rollback ≤ t.lcs.rollback ∧
    (t.lcs.rollback ≠ s.lcs.rollback →
      ∃ k, c = .lcsOtpWrite k ∧ (s.slot k).u 8 1 = 2 ∧ t.lcs.rollback = s.lcs.fwRollback)) ∧
  (∀ (s : State) (k : Nat), Accepted 0x0F02 lcsOtpWriteChecks k s → (s.slot k).u 8 1 = 2 →
    ∃ t, exec (.lcsOtpWrite k) s = .next t ∧
      t.lcs.rollback = if s.lcs.rollback < s.lcs.fwRollback then s.lcs.fwRollback else s.lcs.rollback)

/-- Device DRAM and what has been written to host memory stay in canonical form: addresses strictly rising, no entry equal to
what an unlisted address reads as. -/
def Obligations.StepKeepsMemoryCanonical : Prop :=
  ∀ s t : State, s.memWf → step s = .next t → t.memWf

/-- R13, R26: the mode in force stays one that the part can take. -/
def Obligations.StepKeepsModeLegal : Prop :=
  ∀ s t : State, s.modeLegal → step s = .next t → t.modeLegal

/-- R22: FAULT is left by a reset alone. SYS_RESUME in FAULT, and SYS_HALTER in IDLE or BOOT, complete with
ST_WRONG_STATE. An FLR, a Hot Reset, D3hot and the loss of the link leave the device state of BOOT, IDLE, HALTER and
FAULT as it is. The table of R21 lets a die trip leave it as well. -/
def Obligations.FaultLeftByResetAlone : Prop :=
  (∀ (c : Instr) (s t : State), s.top.dev = .fault → exec c s = .next t → t.top.dev ≠ .fault →
    (t.top.dev = .reset ∧ (c = .sysrstAssert ∨ c = .internalReset ∨ ∃ st, c = .porstAssert st ∨ c = .powerOn st)) ∨
      (t.top.dev = .tripped ∧ ∃ h, c = .dieTrip h)) ∧
  (∀ (s : State) (k : Nat), s.startable 0x0105 k = true → s.top.dev = .fault →
    ∃ t, exec (.sysResume k) s = .next t ∧ Completed k s t 0x12 s.top.dev.code 0) ∧
  (∀ (s : State) (k : Nat), s.startable 0x0104 k = true → (s.top.dev = .idle ∨ s.top.dev = .boot) →
    ∃ t, exec (.sysHalter k) s = .next t ∧ Completed k s t 0x12 s.top.dev.code 0) ∧
  (∀ s : State, s.top.dev = .boot ∨ s.top.dev = .idle ∨ s.top.dev = .halter ∨ s.top.dev = .fault →
    ∃ t u v w, exec .flr s = .next t ∧ exec .hotReset s = .next u ∧ exec .d3hotEntry s = .next v ∧
      exec .pcieLinkDown s = .next w ∧ t.top.dev = s.top.dev ∧ u.top.dev = s.top.dev ∧ v.top.dev = s.top.dev ∧
      w.top.dev = s.top.dev)

/-- The two invariants hold right after reset. -/
def Obligations.ResetMeetsInvariants : Prop :=
  State.reset.memWf ∧ State.reset.modeLegal

/-- R21, R24, R35, R47, R51, R495: right after a POWER_ON reset the device state is RESET, no mode is selected, memory
is empty, no ring is enabled, no command executes, no event waits and nothing has left the chip. Where these rules
leave a point open, the model's choice is in log 1, 2 and 4. -/
def Obligations.ResetValues : Prop :=
  State.reset.top.dev = .reset ∧ State.reset.top.mode = .none ∧ State.reset.pending = [] ∧ State.reset.dram = [] ∧
  (∀ n, (State.reset.cmdRing n).enable = false) ∧ (∀ n, (State.reset.cplRing n).enable = false) ∧
  State.reset.cmd.evt.enable = false ∧ State.reset.cmd.slots = [] ∧ State.reset.cmd.backlog = [] ∧ State.reset.out = [] ∧
  State.reset.time.now = 0 ∧ State.reset.top.hpen = 0 ∧ State.reset.lcs.cause = 1

/-! ### BAR0, BAR2 and the PCIe function -/

/-- R8, R47, R532, R535: reads and writes of BAR0 registers where their block answers: a base word of a disabled
record ring, a register without a write effect, bits cleared by writing 1, a field cleared by its read, and the latch
of TIME.NOW; where TOP does not answer no access changes anything, and BAR0 has no address from 16 MiB on. R525, R505,
R401: HPEN_CTRL takes a level for each ball of the package, on a RETIRED part none, and a CAP_POP of 1 takes the
oldest stamp from the FIFO of its channel; another value, and either write where its block does not answer, changes
nothing. R41, R45: BAR2 reads the bytes of the exchange window where the host may write them, with the poisoned bit
where one of them is, and the entries of the buffer table; there is no address beyond the window, and where the blocks
do not answer no access changes anything. Where these rules leave a point open, the model's choice is in log 9 and 14.
-/
def Obligations.RegistersPinsAndWindow : Prop :=
  (∀ (s : State) (n : Nat) (v : Word), n < 8 → s.blocksAnswer = true → (s.cplRing n).enable = false → v.toNat % 4096 = 0 →
    exec (.registerWrite (0x102000 + 0x40 * n) v) s =
      .next ((s.setCpl n { s.cplRing n with base := (s.cplRing n).base / 2 ^ 32 % 2 ^ 32 * 2 ^ 32 + v.toNat }).useFree)) ∧
  (∀ (s : State) (off : Nat) (v : Word), off < 2 ^ 24 → off % 4 = 0 → off / 2 ^ 20 ∈ [3, 4, 5, 6, 7, 8, 9, 10, 12, 13, 14] →
    exec (.registerWrite off v) s = .next s) ∧
  (∀ (s : State) (n : Nat) (v : Word), n < 8 → s.blocksAnswer = true →
    exec (.w1cWrite (0x200100 + 0x40 * n) v) s =
      .next (s.setChan n { s.chan n with
        illegal := (s.chan n).illegal && !v.getLsbD 4, overrate := (s.chan n).overrate && !v.getLsbD 5 })) ∧
  (∀ (s : State), s.topAnswers = true →
    ∃ t, exec (.readClear 0x000048) s = .next t ∧
      t.pcie.reply = .bar0 0x000048 (BitVec.ofNat 32 (s.top.conflicts % 1024 + 1024 * (s.top.lastDword % 2 ^ 22))) ∧ t.top.conflicts = 0 ∧
      t.top.lastDword = s.top.lastDword) ∧
  (∀ (s : State), s.blocksAnswer = true → 
    ∃ t, exec (.latchedLoRead 0xB00008) s = .next t ∧
      t.pcie.reply = .bar0 0xB00008 (BitVec.ofNat 32 s.time.now) ∧
      Tab.get 0 t.pcie.latches 0xB0000C = s.time.now / 2 ^ 32 % 2 ^ 32) ∧
  (∀ (s : State) (off : Nat) (v : Word), 2 ^ 24 ≤ off →
    exec (.registerWrite off v) s = .fault .noAddress ∧ exec (.w1cWrite off v) s = .fault .noAddress ∧
    exec (.readClear off) s = .fault .noAddress ∧ exec (.latchedLoRead off) s = .fault .noAddress) ∧
  (∀ (s : State) (off : Nat) (v : Word), off < 2 ^ 24 → off % 4 = 0 → s.topAnswers = false →
    exec (.registerWrite off v) s = .next s ∧ exec (.w1cWrite off v) s = .next s ∧
    exec (.readClear off) s = .next s ∧ exec (.latchedLoRead off) s = .next s) ∧
  (∀ (s : State) (v : Word), s.topAnswers = true → s.lcs.retired = true → exec (.hpenCtrlWrite v) s = .next s) ∧
  (∀ (s : State) (v : Word), s.topAnswers = true → s.lcs.retired = false →
    exec (.hpenCtrlWrite v) s =
      .next { s with top := { s.top with hpen := v.toNat % 2 ^ (if s.fuse.part.pkgA then 16 else 8) } }) ∧
  (∀ (s : State) (c : Nat), c < 16 → s.blocksAnswer = true →
    exec (.capPop c 1) s = .next (s.setCap c { s.cap c with fifo := (s.cap c).fifo.drop 1 })) ∧
  (∀ (s : State) (c : Nat) (v : Word), (v ≠ 1 ∨ s.blocksAnswer = false) → exec (.capPop c v) s = .next s) ∧
  (∀ (s : State) (v : Word), s.topAnswers = false → exec (.hpenCtrlWrite v) s = .next s) ∧
  (∀ (s : State) (off n : Nat), s.blocksAnswer = true → off + n ≤ s.lcs.inForce.windowGib * 2 ^ 30 → s.poison = [] →
    (off + n ≤ 0x200000 ∨ 0x400000 ≤ off) →
    exec (.bar2Read off n) s =
      .next { s with pcie := { s.pcie with reply := .bar2 off ((List.range n).map fun i => s.dram.byte (off + i)) false } }) ∧
  (∀ (s : State) (off n : Nat), s.blocksAnswer = true → off + n ≤ s.lcs.inForce.windowGib * 2 ^ 30 →
    (off + n ≤ 0x200000 ∨ 0x400000 ≤ off) → s.poisoned off n = true →
    ∃ t, exec (.bar2Read off n) s = .next t ∧
      t.pcie.reply = .bar2 off ((List.range n).map fun i => s.dram.byte (off + i)) true ∧ t.dram = s.dram ∧ t.poison = s.poison) ∧
  (∀ (s : State) (off n : Nat), s.blocksAnswer = true → 0x240000 ≤ off → off + n ≤ 0x400000 →
    off + n ≤ s.lcs.inForce.windowGib * 2 ^ 30 → s.poison = [] →
    exec (.bar2Read off n) s =
      .next { s with pcie := { s.pcie with reply := .bar2 off (List.replicate n 0) false } }) ∧
  (∀ (s : State) (h : Nat), h < 4096 → s.blocksAnswer = true → 0x240000 ≤ s.lcs.inForce.windowGib * 2 ^ 30 → s.poison = [] →
    exec (.bar2Read (0x200000 + 64 * h) 64) s = .next { s with
      pcie := { s.pcie with reply := .bar2 (0x200000 + 64 * h) ((List.range 64).map fun i => ((s.buf h).bytes).getD i 0) false } }) ∧
  (∀ (s : State) (off n : Nat) (bs : List Byte), s.blocksAnswer = true →
    s.lcs.inForce.windowGib * 2 ^ 30 < off + n → s.lcs.inForce.windowGib * 2 ^ 30 < off + bs.length →
    exec (.bar2Write off bs) s = .fault .noAddress ∧ exec (.bar2Read off n) s = .fault .noAddress) ∧
  (∀ (s : State) (off n : Nat) (bs : List Byte), s.blocksAnswer = false →
    exec (.bar2Write off bs) s = .next s ∧ exec (.bar2Read off n) s = .next s)

/-- R40: a BAR0 access that is not one aligned word with all its byte enables is completed with Unsupported Request, if it is a
read, or discarded, if it is a write, and AER logs an Unsupported Request either way. -/
def Obligations.BadBar0Access : Prop :=
  (∀ (s : State), s.pcieAlive = true → s.pcie.wiping = false →
    exec (.bar0BadAccess false) s = .next { s with pcie := { s.pcie with aerUr := true, reply := .unsupported } } ∧
    exec (.bar0BadAccess true) s = .next { s with pcie := { s.pcie with aerUr := true } }) ∧
  (∀ (s : State) (off : Nat) (v : Word), s.pcieAlive = true → s.pcie.wiping = false → off < 2 ^ 24 → off % 4 ≠ 0 →
    exec (.latchedLoRead off) s = .next { s with pcie := { s.pcie with aerUr := true, reply := .unsupported } } ∧
    exec (.readClear off) s = .next { s with pcie := { s.pcie with aerUr := true, reply := .unsupported } } ∧
    exec (.registerWrite off v) s = .next { s with pcie := { s.pcie with aerUr := true } } ∧
    exec (.w1cWrite off v) s = .next { s with pcie := { s.pcie with aerUr := true } }) ∧
  (∀ (s : State) (w : Bool), (s.pcieAlive = false ∨ s.pcie.wiping = true) → exec (.bar0BadAccess w) s = .next s)

/-- R46: of a write through BAR2, the bytes in regions that the host may only read or not access are discarded and the write is
counted once in WIN_DROP; the others are written; nothing is reported on the link. -/
def Obligations.WindowWrites : Prop :=
  ∀ (s : State) (off : Nat) (bs : List Byte), s.blocksAnswer = true → off + bs.length ≤ s.lcs.inForce.windowGib * 2 ^ 30 →
    ∃ t, exec (.bar2Write off bs) s = .next t ∧
      (∀ i, (hi : i < bs.length) → (off + i < 0x200000 ∨ 0x400000 ≤ off + i) → t.dram.byte (off + i) = bs[i]) ∧
      (∀ a, (a < off ∨ off + bs.length ≤ a ∨ (0x200000 ≤ a ∧ a < 0x400000)) → t.dram.byte a = s.dram.byte a) ∧
      t.cmd.winDrop = (if off < 0x400000 ∧ 0x200000 < off + bs.length ∧ bs ≠ [] then Nat.min 65535 (s.cmd.winDrop + 1)
        else s.cmd.winDrop) ∧ t.pcie = s.pcie ∧ t.cmd.bufs = s.cmd.bufs ∧ t.out = s.out

/-- R42, R43, R44: Bus Master Enable is set and cleared; the link goes up, and its loss or D3hot ends ARMED and RUN in
HALTER with cause PCIE_DOWN; once an FLR's wipe is done BAR accesses are accepted again. An FLR or a Hot Reset where
the blocks answer clears Bus Master Enable, the rings, the slots and the buffer table, wipes the exchange window and
leaves the rest of DRAM, and ends ARMED and RUN in HALTER; in BOOT it resets the PCIe function alone, with no wipe. In
RESET and TRIPPED none of these changes anything. Where these rules leave a point open, the model's choice is in log
8, 18 and 61. -/
def Obligations.PcieFunction : Prop :=
  (∀ (s : State) (on : Bool), s.top.dev ≠ .reset → s.top.dev ≠ .tripped → s.pcie.linkUp = true →
    ∃ t, exec (.busMasterEnableWrite on) s = .next t ∧ t.pcie.bme = on ∧ t.dram = s.dram ∧
      (on = false → t = { s with pcie := { s.pcie with bme := false } })) ∧
  (∀ (s : State) (on : Bool), (s.top.dev = .reset ∨ s.top.dev = .tripped ∨ s.pcie.linkUp = false) →
    exec (.busMasterEnableWrite on) s = .next s) ∧
  (∀ s : State, s.pcieAlive = false → exec .pcieLinkUp s = .next s ∧ exec .pcieLinkDown s = .next s ∧
    exec .d3hotEntry s = .next s ∧ exec .flr s = .next s ∧ exec .hotReset s = .next s) ∧
  (∀ s : State, s.pcieAlive = true → ∃ t, exec .pcieLinkUp s = .next t ∧ t.pcie.linkUp = true ∧ t.pcie.d3hot = false) ∧
  (∀ s : State, s.pcieAlive = true → ∃ t, exec .pcieLinkDown s = .next t ∧ t.pcie.linkUp = false ∧
    ((s.top.dev = .armed ∨ s.top.dev = .run) → t.top.dev = .halter ∧ t.top.cause = .pcieDown)) ∧
  (∀ s : State, s.pcieAlive = true → ∃ t, exec .d3hotEntry s = .next t ∧ t.pcie.d3hot = true ∧
    ((s.top.dev = .armed ∨ s.top.dev = .run) → t.top.dev = .halter ∧ t.top.cause = .pcieDown)) ∧
  (∀ s : State, exec .flrWipeDone s = .next { s with pcie := { s.pcie with wiping := false } }) ∧
  (∀ s : State, s.blocksAnswer = true →
    ∃ t, exec .flr s = .next t ∧ exec .hotReset s = .next t ∧ t.pcie.bme = false ∧ t.pcie.wiping = true ∧ t.cmd.slots = [] ∧ t.cmd.bufs = [] ∧
      (∀ n, (t.cmdRing n).enable = false) ∧
      (∀ a, a < s.lcs.inForce.windowGib * 2 ^ 30 → s.dram.wf → t.dram.byte a = 0) ∧
      (∀ a, s.lcs.inForce.windowGib * 2 ^ 30 ≤ a → t.dram.byte a = s.dram.byte a) ∧
      ((s.top.dev = .armed ∨ s.top.dev = .run) → t.top.dev = .halter)) ∧
  (∀ s : State, s.top.dev = .boot →
    ∃ t, exec .flr s = .next t ∧ exec .hotReset s = .next t ∧ t.pcie.bme = false ∧ t.pcie.wiping = false ∧ t.pcie.msix = [] ∧ t.pcie.linkUp = s.pcie.linkUp ∧
      { t with pcie := s.pcie } = s)

/-! ### Rings and records -/

/-- R47, R49, R50: enabling a command ring sets HEAD and TAIL to 0, disabling keeps them, LOG2_ENTRIES is written
while the ring is disabled, and the doorbell sets TAIL; a LOG2_ENTRIES outside 4 to 12, or another than that of an
enabled ring, is ignored and counted, and where the blocks do not answer nothing changes. R49, R51, R54: a fetch takes
the descriptor at HEAD into a free execution slot, clears its OWN bit in memory and no other byte, and advances HEAD.
A descriptor without OWN makes its ring wait for the doorbell, one whose completion ring is disabled is dropped and
reported, and where no ring has one, or no slot is free, nothing happens. Where these rules leave a point open, the
model's choice is in log 7, 13 and 61. -/
def Obligations.CommandRingsAndFetch : Prop :=
  (∀ (s : State) (n : Nat) (v : Word), n < 8 → s.blocksAnswer = true → v.toNat % 2 = 1 → 4 ≤ v.toNat / 16 % 16 →
    v.toNat / 16 % 16 ≤ 12 → (s.cmdRing n).enable = false →
    exec (.cmdRingEnable n v) s = .next (s.setCmdRing n { s.cmdRing n with
      enable := true, log2 := v.toNat / 16 % 16, head := 0, tail := 0, waitOwn := false })) ∧
  (∀ (s : State) (n : Nat) (v : Word), n < 8 → s.blocksAnswer = true → v.toNat % 2 = 0 → 4 ≤ (s.cmdRing n).log2 →
    (s.cmdRing n).log2 ≤ 12 → v.toNat / 16 % 16 = (s.cmdRing n).log2 → (s.cmdRing n).enable = true →
    exec (.cmdRingDisable n v) s = .next (s.setCmdRing n { s.cmdRing n with enable := false })) ∧
  (∀ (s : State) (n : Nat) (v : Word), n < 8 → s.blocksAnswer = true → v.toNat % 2 = 0 → 4 ≤ v.toNat / 16 % 16 →
    v.toNat / 16 % 16 ≤ 12 → (s.cmdRing n).enable = false →
    exec (.cmdRingResize n v) s = .next (s.setCmdRing n { s.cmdRing n with log2 := v.toNat / 16 % 16 })) ∧
  (∀ (s : State) (n : Nat) (v : Word), n < 8 → s.blocksAnswer = true → (s.cmdRing n).enable = true →
    v.toNat % 4096 < 2 ^ (s.cmdRing n).log2 →
    exec (.crDoorbell n v) s = .next (s.setCmdRing n { s.cmdRing n with tail := v.toNat % 4096, waitOwn := false })) ∧
  (∀ (s : State) (n : Nat) (v : Word), n < 8 → s.blocksAnswer = true →
    (v.toNat / 16 % 16 < 4 ∨ 12 < v.toNat / 16 % 16 ∨
      ((s.cmdRing n).enable = true ∧ v.toNat % 2 = 1 ∧ v.toNat / 16 % 16 ≠ (s.cmdRing n).log2)) →
    ∃ t, exec (.cmdRingEnable n v) s = .next t ∧ exec (.cmdRingDisable n v) s = .next t ∧
      exec (.cmdRingResize n v) s = .next t ∧ t.cmdRing n = s.cmdRing n ∧
      t.top.conflicts = Nat.min 1023 (s.top.conflicts + 1) ∧ t.top.lastDword = (0x101000 + 0x40 * n) / 4) ∧
  (∀ (s : State) (n : Nat) (v : Word), s.blocksAnswer = false →
    exec (.cmdRingEnable n v) s = .next s ∧ exec (.cmdRingDisable n v) s = .next s ∧
    exec (.cmdRingResize n v) s = .next s ∧ exec (.crDoorbell n v) s = .next s) ∧
  (∀ s : State, s.nextRing = none → exec .descriptorFetch s = .next s) ∧
  (∀ (s : State) (n op : Nat), s.nextRing = some n → n < 8 →
    op = s.dram.num (n * 0x40000 + 64 * (s.cmdRing n).head) 2 →
    (s.dram.byte (n * 0x40000 + 64 * (s.cmdRing n).head + 2) &&& 1 = 0 →
      exec .descriptorFetch s = .next (s.setCmdRing n
        { s.cmdRing n with waitOwn := true, ownMiss := Nat.min 255 ((s.cmdRing n).ownMiss + 1) })) ∧
    (s.dram.byte (n * 0x40000 + 64 * (s.cmdRing n).head + 2) &&& 1 = 1 → (∀ m, (s.cplRing m).enable = false) →
      ∃ t, exec .descriptorFetch s = .next t ∧ (t.cmdRing n).head = ((s.cmdRing n).head + 1) % 2 ^ (s.cmdRing n).log2 ∧
        t.cmd.slots = s.cmd.slots ∧
        (Queues s 0x01 0x0002 → Waits t 0x01 0x0002 (le 1 n ++ le 2 (s.cmdRing n).head ++ le 2 op))) ∧
    (s.dram.byte (n * 0x40000 + 64 * (s.cmdRing n).head + 2) &&& 1 = 1 → (∀ m, m < 8 → (s.cplRing m).enable = true) →
      s.freeSlot n = none → exec .descriptorFetch s = .next s)) ∧
  (∀ (s : State) (n k : Nat), s.nextRing = some n → n < 8 → s.freeSlot n = some k → s.dram.wf →
    s.dram.byte (n * 0x40000 + 64 * (s.cmdRing n).head + 2) &&& 1 = 1 →
    knownOpcode (s.dram.num (n * 0x40000 + 64 * (s.cmdRing n).head) 2) = true → (∀ m, m < 8 → (s.cplRing m).enable = true) →
    s.badOpcodeDue = none →
    ∃ t, exec .descriptorFetch s = .next t ∧
      (t.cmdRing n).head = ((s.cmdRing n).head + 1) % 2 ^ (s.cmdRing n).log2 ∧
      (t.slot k).phase = .fetched ∧ (t.slot k).ring = n ∧ (t.slot k).index = (s.cmdRing n).head ∧
      t.dram.byte (n * 0x40000 + 64 * (s.cmdRing n).head + 2) =
        s.dram.byte (n * 0x40000 + 64 * (s.cmdRing n).head + 2) &&& 0xFE ∧
      ∀ a, a ≠ n * 0x40000 + 64 * (s.cmdRing n).head + 2 → t.dram.byte a = s.dram.byte a)

/-- R50: a doorbell with a TAIL of entries or more, or of a ring that is disabled, is ignored and counted in TOP.REG_CONFLICT.
-/
def Obligations.DoorbellIgnored : Prop :=
  ∀ (s : State) (n : Nat) (v : Word), n < 8 → s.blocksAnswer = true →
    (2 ^ (s.cmdRing n).log2 ≤ v.toNat % 4096 ∨ (s.cmdRing n).enable = false) →
    ∃ t, exec (.crDoorbell n v) s = .next t ∧ t.top.conflicts = Nat.min 1023 (s.top.conflicts + 1) ∧
      { t with top := { t.top with conflicts := s.top.conflicts, lastDword := s.top.lastDword } } = s

/-- R47, R56, R57, R59: the configuration and the HEAD of a record ring that nothing waits for: enabling it starts it
afresh with its phase set; a write of its configuration while it is enabled, with the same LOG2_ENTRIES, sets ENABLE,
the vector and the coalescing and keeps its place; one while it stays disabled sets LOG2_ENTRIES as well; and a write
of HEAD within the ring moves HEAD, and the ring keeps the times of the records that are not released. A LOG2_ENTRIES
outside its range, and a HEAD outside the ring, is ignored and counted; where the blocks do not answer nothing
changes. R55 to R59, R61, R62: the oldest waiting completion record is written at TAIL of its ring with the ring's
phase and leaves its slot free; the oldest event of the backlog leaves it for the event ring when the ring can take
it, its first record at TAIL; the vector of a completion ring or of the event ring is raised when the oldest record
since the last interrupt has waited COALESCE_TIME. Where nothing is due nothing happens. Where these rules leave a
point open, the model's choice is in log 50 and 56. -/
def Obligations.RecordRingsAndRecords : Prop :=
  (∀ (s : State) (n : Nat) (v : Word), n < 8 → s.blocksAnswer = true → v.toNat % 2 = 1 → 4 ≤ v.toNat / 16 % 16 →
    v.toNat / 16 % 16 ≤ 12 → (s.cplRing n).enable = false → (s.cplRing n).waiting = [] →
    exec (.cplRingEnable n v) s = .next (s.setCpl n { s.cplRing n with
      enable := true, log2 := v.toNat / 16 % 16, head := 0, tail := 0, phase := true, times := []
      vector := v.toNat / 2 ^ 8 % 64, coalCount := v.toNat / 2 ^ 16 % 256, coalTime := v.toNat / 2 ^ 24 % 256 })) ∧
  (∀ (s t : State) (n : Nat) (v : Word), n < 8 →
    s.blocksAnswer = true → 4 ≤ (s.cplRing n).log2 → (s.cplRing n).log2 ≤ 12 → v.toNat / 16 % 16 = (s.cplRing n).log2 →
    (s.cplRing n).enable = true →
    t = s.setCpl n { s.cplRing n with
      enable := decide (v.toNat % 2 = 1), vector := v.toNat / 2 ^ 8 % 64, coalCount := v.toNat / 2 ^ 16 % 256
      coalTime := v.toNat / 2 ^ 24 % 256 } →
    exec (.cplRingDisable n v) s = .next t ∧ exec (.cplRingConfig n v) s = .next t) ∧
  (∀ (s : State) (v : Word), s.blocksAnswer = true → v.toNat % 2 = 1 → 6 ≤ v.toNat / 16 % 16 → v.toNat / 16 % 16 ≤ 14 →
    s.cmd.evt.enable = false → s.cmd.backlog = [] →
    exec (.evtRingEnable v) s = .next (s.setEvt { s.cmd.evt with
      enable := true, log2 := v.toNat / 16 % 16, head := 0, tail := 0, phase := true, times := []
      vector := v.toNat / 2 ^ 8 % 64, coalCount := v.toNat / 2 ^ 16 % 256, coalTime := v.toNat / 2 ^ 24 % 256 })) ∧
  (∀ (s t : State) (v : Word), s.blocksAnswer = true →
    6 ≤ s.cmd.evt.log2 → s.cmd.evt.log2 ≤ 14 → v.toNat / 16 % 16 = s.cmd.evt.log2 → s.cmd.evt.enable = true →
    t = s.setEvt { s.cmd.evt with
      enable := decide (v.toNat % 2 = 1), vector := v.toNat / 2 ^ 8 % 64, coalCount := v.toNat / 2 ^ 16 % 256
      coalTime := v.toNat / 2 ^ 24 % 256 } →
    exec (.evtRingDisable v) s = .next t ∧ exec (.evtRingConfig v) s = .next t) ∧
  (∀ (s : State) (n : Nat) (v : Word), n < 8 → s.blocksAnswer = true → v.toNat % 2 = 0 → 4 ≤ v.toNat / 16 % 16 →
    v.toNat / 16 % 16 ≤ 12 → (s.cplRing n).enable = false →
    exec (.cplRingConfig n v) s = .next (s.setCpl n { s.cplRing n with
      log2 := v.toNat / 16 % 16, vector := v.toNat / 2 ^ 8 % 64, coalCount := v.toNat / 2 ^ 16 % 256
      coalTime := v.toNat / 2 ^ 24 % 256 })) ∧
  (∀ (s : State) (v : Word), s.blocksAnswer = true → v.toNat % 2 = 0 → 6 ≤ v.toNat / 16 % 16 →
    v.toNat / 16 % 16 ≤ 14 → s.cmd.evt.enable = false →
    exec (.evtRingConfig v) s = .next (s.setEvt { s.cmd.evt with
      log2 := v.toNat / 16 % 16, vector := v.toNat / 2 ^ 8 % 64, coalCount := v.toNat / 2 ^ 16 % 256
      coalTime := v.toNat / 2 ^ 24 % 256 })) ∧
  (∀ (s : State) (n : Nat) (v : Word), n < 8 → s.blocksAnswer = true → v.toNat % 2 ^ 14 < 2 ^ (s.cplRing n).log2 →
    ∃ t r, exec (.cplPtrHeadWrite n v) s = .next t ∧ t = s.setCpl n r ∧ r.head = v.toNat % 2 ^ 14 ∧
      r = { s.cplRing n with head := r.head, times := r.times } ∧
      r.times = (s.cplRing n).times.drop ((s.cplRing n).times.length - r.unreleased)) ∧
  (∀ (s : State) (v : Word), s.blocksAnswer = true → v.toNat % 2 ^ 14 < 2 ^ s.cmd.evt.log2 →
    ∃ t r, exec (.evtPtrHeadWrite v) s = .next t ∧ t = s.setEvt r ∧ r.head = v.toNat % 2 ^ 14 ∧
      r = { s.cmd.evt with head := r.head, times := r.times } ∧
      r.times = s.cmd.evt.times.drop (s.cmd.evt.times.length - r.unreleased)) ∧
  (∀ (s : State) (n : Nat) (v : Word), n < 8 → s.blocksAnswer = true →
    ((v.toNat / 16 % 16 < 4 ∨ 12 < v.toNat / 16 % 16) →
      ∃ t, exec (.cplRingEnable n v) s = .next t ∧ exec (.cplRingDisable n v) s = .next t ∧
        exec (.cplRingConfig n v) s = .next t ∧ t.cplRing n = s.cplRing n ∧
        t.top.conflicts = Nat.min 1023 (s.top.conflicts + 1)) ∧
    ((v.toNat / 16 % 16 < 6 ∨ 14 < v.toNat / 16 % 16) →
      ∃ t, exec (.evtRingEnable v) s = .next t ∧ exec (.evtRingDisable v) s = .next t ∧
        exec (.evtRingConfig v) s = .next t ∧ t.cmd.evt = s.cmd.evt ∧
        t.top.conflicts = Nat.min 1023 (s.top.conflicts + 1)) ∧
    (2 ^ (s.cplRing n).log2 ≤ v.toNat % 2 ^ 14 →
      ∃ t, exec (.cplPtrHeadWrite n v) s = .next t ∧ t.cmd = s.cmd ∧ t.top.conflicts = Nat.min 1023 (s.top.conflicts + 1)) ∧
    (2 ^ s.cmd.evt.log2 ≤ v.toNat % 2 ^ 14 →
      ∃ t, exec (.evtPtrHeadWrite v) s = .next t ∧ t.cmd = s.cmd ∧ t.top.conflicts = Nat.min 1023 (s.top.conflicts + 1))) ∧
  (∀ (s : State) (n : Nat) (v : Word), s.blocksAnswer = false →
    exec (.cplRingEnable n v) s = .next s ∧ exec (.cplRingDisable n v) s = .next s ∧ exec (.cplRingConfig n v) s = .next s ∧
    exec (.cplPtrHeadWrite n v) s = .next s ∧ exec (.evtRingEnable v) s = .next s ∧ exec (.evtRingDisable v) s = .next s ∧
    exec (.evtRingConfig v) s = .next s ∧ exec (.evtPtrHeadWrite v) s = .next s) ∧
  (∀ (s : State) (n : Nat) (c : CplRec) (rest : List CplRec), n < 8 → s.cplReady n = true → (s.cplRing n).waiting = c :: rest →
    s.hostMem.wf →
    ∃ t, exec (.completionRecordWrite n) s = .next t ∧
      (∀ i, i < 32 → t.hostMem.byte ((s.cplRing n).base + 32 * (s.cplRing n).tail + i) =
        (recordBytes (s.cplRing n).phase c.body).getD i 0) ∧
      (∀ a, (a < (s.cplRing n).base + 32 * (s.cplRing n).tail ∨ (s.cplRing n).base + 32 * (s.cplRing n).tail + 32 ≤ a) →
        t.hostMem.byte a = s.hostMem.byte a) ∧
      (t.cplRing n).tail = ((s.cplRing n).tail + 1) % 2 ^ (s.cplRing n).log2 ∧ (t.cplRing n).waiting = rest ∧
      (t.slot c.slot).phase = .free ∧ t.dram = s.dram) ∧
  (∀ (s : State) (e : EventRec) (rest : List EventRec), s.cmd.backlog = e :: rest → s.evtReady e = true →
    ∃ t, exec .eventBacklogDrain s = .next t ∧ t.cmd.backlog = rest ∧ t.cmd.evtSeq = s.cmd.evtSeq ∧
      (s.hostMem.wf → e.data.length ≤ 15 → t.cmd.evt.tail = (s.cmd.evt.tail + 1) % 2 ^ s.cmd.evt.log2 ∧
        (∀ i, i < 32 → t.hostMem.byte (s.cmd.evt.base + 32 * s.cmd.evt.tail + i) =
          (recordBytes s.cmd.evt.phase e.head).getD i 0) ∧
        ∀ a, (a < s.cmd.evt.base + 32 * s.cmd.evt.tail ∨ s.cmd.evt.base + 32 * s.cmd.evt.tail + 32 ≤ a) →
          t.hostMem.byte a = s.hostMem.byte a)) ∧
  (∀ (s : State) (n at' : Nat) (rest : List Nat), n < 8 → (s.cplRing n).coalTime ≠ 0 → (s.cplRing n).times = at' :: rest →
    at' + 1000 * (s.cplRing n).coalTime ≤ s.uptime →
    exec (.coalesceTimerExpiry n) s = .next (raiseMsix (s.cplRing n).vector (s.setCpl n { s.cplRing n with times := [] }))) ∧
  (∀ (s : State) (at' : Nat) (rest : List Nat), s.cmd.evt.coalTime ≠ 0 → s.cmd.evt.times = at' :: rest →
    at' + 1000 * s.cmd.evt.coalTime ≤ s.uptime →
    exec (.coalesceTimerExpiry 8) s = .next (raiseMsix s.cmd.evt.vector (s.setEvt { s.cmd.evt with times := [] }))) ∧
  (∀ (s : State) (n : Nat),
    (s.cplReady n = false → exec (.completionRecordWrite n) s = .next s) ∧
    ((∀ e rest, s.cmd.backlog = e :: rest → s.evtReady e = false) → exec .eventBacklogDrain s = .next s) ∧
    ((∀ r : RecRing, (n < 8 ∧ r = s.cplRing n) ∨ (n = 8 ∧ r = s.cmd.evt) →
        r.times = [] ∨ r.coalTime = 0 ∨ ∀ at' rest, r.times = at' :: rest → s.uptime < at' + 1000 * r.coalTime) →
      exec (.coalesceTimerExpiry n) s = .next s))

/-! ### Every row -/

/-- The frame of every row: every command answers a next state, in every state of the block, but for an access beyond BAR0 or
beyond the exchange window; that state differs from the one before in the parts that `mayChange` lists for the row and in no
other. -/
def Obligations.CommandFrames : Prop :=
  ∀ (c : Instr) (s : State), s.inReach c = true →
    ∃ t, exec c s = .next t ∧ Keeps (fun p => (mayChange c).contains p) s t

/-- R31, R55: a command of any row that starts and fails a check completes with the status and DETAIL of the first check that
fails and RESULT 0, and has no effect but that record. R413: a command that reads a table or an image from a poisoned burst
completes with ST_HW_FAULT and DETAIL 0x0C01 and has no other effect. -/
def Obligations.TurnedAwayCommands : Prop :=
  (∀ (i : Instr) (op k : Nat) (c : Checks), RingRow i op k c → ∀ (s : State) (st det : Nat), s.startable op k = true →
    firstFailure c (s.slot k) s = some (st, det) →
    ∃ t, exec i s = .next t ∧ Completed k s t st det 0 ∧ Keeps (fun p => p == .slots || p == .records) s t) ∧
  (∀ (i : Instr) (op k : Nat) (c : Checks), RingRow i op k c → ∀ s : State, s.startable op k = true →
    firstFailure c (s.slot k) s = none →
    (∃ r ∈ c.reads (s.slot k) s, s.poisoned ((s.buf r.1).base + r.2.1) r.2.2 = true) →
    ∃ t, exec i s = .next t ∧ Completed k s t 0x30 0x0C01 0 ∧ Keeps (fun p => p == .slots || p == .records) s t)

/-- R63: a command does not start while an earlier command of its ring has not completed that is of its block, or any
earlier command where it carries FENCE. Where these rules leave a point open, the model's choice is in log 13. -/
def Obligations.HeldBackCommands : Prop :=
  ∀ (i : Instr) (op k : Nat) (c : Checks), RingRow i op k c → ∀ (s : State) (e : Nat × Slot), e ∈ s.cmd.slots →
    (e.2.phase = .fetched ∨ e.2.phase = .executing) → e.2.ring = (s.slot k).ring → e.2.id < (s.slot k).id →
    (e.2.block = (s.slot k).block ∨ (s.slot k).fence = true) → exec i s = .next s

/-- R21, R32, R34, R36, R65: what a command that starts is refused for: the print blocks and the web's print commands on a part
without the print capability, the light-field blocks on one without that capability and the tandem block on one without that;
these print and light-field commands while no mode or the other mode is selected, but for FIRE_NOZZLE_STATE, whose node may be
missing first; a command that FAULT does not serve; and a command of the urgent ring that is not urgent. -/
def Obligations.RefusedByCapabilityModeAndState : Prop :=
  ∀ (i : Instr) (op k : Nat) (c : Checks), RingRow i op k c → ∀ s : State, s.startable op k = true →
    ((op / 256 = 3 ∨ op / 256 = 4 ∨ (0x0201 ≤ op ∧ op ≤ 0x0203)) → s.fuse.part.print = false →
      ∃ t, exec i s = .next t ∧ Completed k s t 0x13 0xFF01 0) ∧
    ((op / 256 = 6 ∨ (0x0700 ≤ op ∧ op ≤ 0x0702)) → s.fuse.part.lightfield = false →
      ∃ t, exec i s = .next t ∧ Completed k s t 0x13 0xFF02 0) ∧
    (op / 256 = 14 → s.fuse.part.tandem = false → ∃ t, exec i s = .next t ∧ Completed k s t 0x13 0xFF03 0) ∧
    (((op / 256 = 3 ∨ op / 256 = 4 ∨ (0x0201 ≤ op ∧ op ≤ 0x0203)) ∧ op ≠ 0x0402) → s.fuse.part.print = true →
      (s.top.mode = .none → ∃ t, exec i s = .next t ∧ Completed k s t 0x12 (0x0100 + s.top.dev.code) 0) ∧
      (s.top.mode = .lightfield → ∃ t, exec i s = .next t ∧ Completed k s t 0x12 (0x0200 + s.top.dev.code) 0)) ∧
    ((op / 256 = 6 ∨ (0x0700 ≤ op ∧ op ≤ 0x0702)) → s.fuse.part.lightfield = true →
      (s.top.mode = .none → ∃ t, exec i s = .next t ∧ Completed k s t 0x12 (0x0100 + s.top.dev.code) 0) ∧
      (s.top.mode = .print → ∃ t, exec i s = .next t ∧ Completed k s t 0x12 (0x0200 + s.top.dev.code) 0)) ∧
    (s.top.dev = .fault → op ∉ [0x0100, 0x0101, 0x0204, 0x0903, 0x0C03] →
      ∃ t st det, exec i s = .next t ∧ (st = 0x12 ∨ st = 0x13) ∧ Completed k s t st det 0) ∧
    ((s.slot k).ring = 0 → op ∉ [0x0100, 0x0104, 0x0306, 0x0A04, 0x0804] →
      ∃ t st det, exec i s = .next t ∧ (st = 0x11 ∨ st = 0x12 ∨ st = 0x13) ∧ Completed k s t st det 0)

/-! ### Block SYS -/

/-- R60, R66, R37, R21, R35: SYS_NOP answers the number of commands executing, itself among them, SYS_QUERY the item
asked for; SYS_SET_MODE selects the mode and arms the device while no CAM or CAL command executes, and answers
ST_RESOURCE_BUSY and changes nothing but its record while one does; SYS_EVENT_MASK enables the events of a source in a
range of codes, or disables those of them that can be, and counts in its DETAIL those that cannot: all TOP events, the
frame records of PRN and SCAN, and CPL_RING_DISABLED (a count of 65,536 does not fit the DETAIL, which then holds a
free value, log 44). R67 to R70: SYS_BUF_DEFINE defines a FREE buffer over its range, makes a FILLING one READY with
its checksum, if enabled, and the next generation, and reopens a READY one, or answers ST_BUF_PINNED with the pins it
has and leaves it; SYS_BUF_FREE frees a buffer, and puts it into RELEASE_PENDING, with ST_DEFERRED, while it is
pinned. SYS_PULL holds its rate and asks for the first bytes, at most 512 and at most Max_Read_Request_Size, once
requests can be issued, or answers ST_NO_BANDWIDTH, with the rate still free, where the budget has not its rate left;
each completion of the host is stored and the next bytes are asked for, until the last ends the pull and makes the
buffer READY where it was to; a completion with an error ends the pull with ST_HW_FAULT and stores nothing. Where
these rules leave a point open, the model's choice is in log 44. -/
def Obligations.SysCommandsAndBuffers : Prop :=
  (∀ (s : State) (k : Nat), Accepted 0x0100 noParams k s →
    ∃ t, exec (.sysNop k) s = .next t ∧ Completed k s t 0x00 0 (s.begun k).cmd.slots.length ∧
      Keeps (fun p => p == .slots || p == .records) s t) ∧
  (∀ (s : State) (k item v : Nat), Accepted 0x0101 sysQueryChecks k s → (s.slot k).u 8 2 = item →
    ((item = 1 ∧ v = s.lcs.fwVersion) ∨ (item = 2 ∧ v = s.lcs.rollback) ∨
      (item = 3 ∧ v = ((List.range 4096).filter fun h => decide ((s.buf h).state = .free)).length) ∨
      (item = 4 ∧ v = backlogRecords s.cmd.backlog) ∨ (item = 5 ∧ v = s.lcs.inForce.windowGib * 1024)) →
    ∃ t, exec (.sysQuery k) s = .next t ∧ Completed k s t 0x00 0 v ∧ Keeps (fun p => p == .slots || p == .records) s t) ∧
  (∀ (s : State) (k : Nat), Accepted 0x0102 setModeChecks k s →
    (∀ e ∈ s.cmd.slots, e.2.phase = .executing → e.2.block ≠ 8 ∧ e.2.block ≠ 9) →
    ∃ t, exec (.sysSetMode k) s = .next t ∧ Completed k s t 0x00 0 0 ∧ t.top.dev = .armed ∧ t.top.prev = s.top.dev ∧
      t.top.mode = (if (s.slot k).u 8 1 = 1 then .print else .lightfield) ∧ t.dram = s.dram) ∧
  (∀ (s : State) (k : Nat), Accepted 0x0102 setModeChecks k s →
    (∃ e ∈ s.cmd.slots, e.2.phase = .executing ∧ (e.2.block = 8 ∨ e.2.block = 9)) →
    ∃ t e, exec (.sysSetMode k) s = .next t ∧ e ∈ s.cmd.slots ∧ e.2.phase = .executing ∧ (e.2.block = 8 ∨ e.2.block = 9) ∧
      Completed k s t 0x14 e.2.opcode 0 ∧ Keeps (fun p => p == .slots || p == .records) s t) ∧
  (∀ (s : State) (k : Nat), Accepted 0x0108 eventMaskChecks k s → (s.slot k).u 9 1 = 1 →
    ∃ t, exec (.sysEventMask k) s = .next t ∧ Completed k s t 0x00 0 0 ∧
      (∀ src code, t.evtMasked src code = true ↔ s.evtMasked src code = true ∧
        ¬ (src = (s.slot k).u 8 1 ∧ (s.slot k).u 10 2 ≤ code ∧ code ≤ (s.slot k).u 12 2))) ∧
  (∀ (s : State) (k n : Nat), Accepted 0x0108 eventMaskChecks k s → (s.slot k).u 9 1 = 0 →
    n = (if (s.slot k).u 8 1 = 0 then (s.slot k).u 12 2 + 1 - (s.slot k).u 10 2
      else if (s.slot k).u 8 1 = 1 ∧ (s.slot k).u 10 2 ≤ 2 ∧ 2 ≤ (s.slot k).u 12 2 then 1
      else if ((s.slot k).u 8 1 = 3 ∨ (s.slot k).u 8 1 = 7) ∧ (s.slot k).u 10 2 ≤ 0x0100 ∧ 0x0100 ≤ (s.slot k).u 12 2 then 1
      else 0) →
    ∃ t det, exec (.sysEventMask k) s = .next t ∧ Completed k s t (if n = 0 then 0x00 else 0x03) det 0 ∧
      (n < 65536 → det = n) ∧
      (∀ src code, t.evtMasked src code = true ↔ s.evtMasked src code = true ∨
        (src = (s.slot k).u 8 1 ∧ (s.slot k).u 10 2 ≤ code ∧ code ≤ (s.slot k).u 12 2 ∧ src ≠ 0 ∧ ¬ (src = 1 ∧ code = 2) ∧
          ¬ ((src = 3 ∨ src = 7) ∧ code = 0x0100)))) ∧
  (∀ (s : State) (k : Nat), Accepted 0x0106 bufDefineChecks k s → (s.slot k).u 10 1 = 1 →
    ∃ t, exec (.sysBufDefine k) s = .next t ∧ Completed k s t 0x00 0 0 ∧
      (t.buf ((s.slot k).u 8 2)).state = .filling ∧ (t.buf ((s.slot k).u 8 2)).base = (s.slot k).u 16 8 ∧
      (t.buf ((s.slot k).u 8 2)).size = (s.slot k).u 24 8 ∧ (t.buf ((s.slot k).u 8 2)).pins = 0 ∧
      (t.buf ((s.slot k).u 8 2)).gen = (s.buf ((s.slot k).u 8 2)).gen ∧
      (t.buf ((s.slot k).u 8 2)).crcEn = decide ((s.slot k).u 11 1 = 1) ∧
      ∀ h, h ≠ (s.slot k).u 8 2 → t.buf h = s.buf h) ∧
  (∀ (s : State) (k : Nat), Accepted 0x0106 bufDefineChecks k s → (s.slot k).u 10 1 = 2 →
    ∃ t, exec (.sysBufDefine k) s = .next t ∧
      Completed k s t 0x00 0 (if (s.buf ((s.slot k).u 8 2)).crcEn then
        crc32 (s.dram.bytes (s.buf ((s.slot k).u 8 2)).base (s.buf ((s.slot k).u 8 2)).size) else 0) ∧
      (t.buf ((s.slot k).u 8 2)).state = .ready ∧ (t.buf ((s.slot k).u 8 2)).gen = (s.buf ((s.slot k).u 8 2)).gen + 1 ∧
      (t.buf ((s.slot k).u 8 2)).base = (s.buf ((s.slot k).u 8 2)).base ∧
      ∀ h, h ≠ (s.slot k).u 8 2 → t.buf h = s.buf h) ∧
  (∀ (s : State) (k : Nat), Accepted 0x0106 bufDefineChecks k s → (s.slot k).u 10 1 = 3 →
    (s.buf ((s.slot k).u 8 2)).pins = 0 →
    ∃ t, exec (.sysBufDefine k) s = .next t ∧ Completed k s t 0x00 0 0 ∧
      t.buf ((s.slot k).u 8 2) = { s.buf ((s.slot k).u 8 2) with state := .filling, lz9 := false } ∧
      ∀ h, h ≠ (s.slot k).u 8 2 → t.buf h = s.buf h) ∧
  (∀ (s : State) (k : Nat), Accepted 0x0106 bufDefineChecks k s → (s.slot k).u 10 1 = 3 →
    (s.buf ((s.slot k).u 8 2)).pins ≠ 0 →
    ∃ t, exec (.sysBufDefine k) s = .next t ∧ Completed k s t 0x16 (s.buf ((s.slot k).u 8 2)).pins 0 ∧
      Keeps (fun p => p == .slots || p == .records) s t) ∧
  (∀ (s : State) (k : Nat), Accepted 0x0107 bufFreeChecks k s → (s.buf ((s.slot k).u 8 2)).state = .ready →
    (s.buf ((s.slot k).u 8 2)).pins ≠ 0 →
    ∃ t, exec (.sysBufFree k) s = .next t ∧ Completed k s t 0x01 0 0 ∧
      (t.buf ((s.slot k).u 8 2)).state = .releasePending ∧
      (t.buf ((s.slot k).u 8 2)).pins = (s.buf ((s.slot k).u 8 2)).pins ∧
      ∀ h, h ≠ (s.slot k).u 8 2 → t.buf h = s.buf h) ∧
  (∀ (s : State) (k : Nat), Accepted 0x0107 bufFreeChecks k s → 
    ((s.buf ((s.slot k).u 8 2)).state ≠ .ready ∨ (s.buf ((s.slot k).u 8 2)).pins = 0) →
    ∃ t, exec (.sysBufFree k) s = .next t ∧ Completed k s t 0x00 0 0 ∧
      (t.buf ((s.slot k).u 8 2)).state = .free ∧
      (t.buf ((s.slot k).u 8 2)).gen = (s.buf ((s.slot k).u 8 2)).gen ∧
      ∀ h, h ≠ (s.slot k).u 8 2 → t.buf h = s.buf h) ∧
  (∀ (s : State) (k : Nat), Accepted 0x0103 sysPullChecks k s →
    ((s.mem.held.filter fun e => e.1 != k).foldl (fun a e => a + e.2) 0) + s.mem.pullRate * 10 ^ 8 ≤ s.mem.budget * 10 ^ 8 →
    ∃ t, exec (.sysPull k) s = .next t ∧
      t.pull k = { handle := (s.slot k).u 16 2, host := (s.slot k).u 8 8, offset := (s.slot k).u 24 8
                   len := (s.slot k).u 32 8, makeReady := bitAt ((s.slot k).u 18 1) 0, asked := s.canRequest } ∧
      (k, s.mem.pullRate * 10 ^ 8) ∈ t.mem.held ∧
      t.out = s.out ++ (if s.canRequest = true then
        [.hostRead k ((s.slot k).u 8 8) (Nat.min (Nat.min 512 s.pcie.maxReadRequest) ((s.slot k).u 32 8))] else [])) ∧
  (∀ (s : State) (k : Nat), Accepted 0x0103 sysPullChecks k s →
    s.mem.budget * 10 ^ 8 < ((s.mem.held.filter fun e => e.1 != k).foldl (fun a e => a + e.2) 0) + s.mem.pullRate * 10 ^ 8 →
    ∃ t, exec (.sysPull k) s = .next t ∧ Completed k s t 0x15 s.bulkFree 0 ∧ t.out = s.out ∧ t.cmd.pulls = s.cmd.pulls) ∧
  (∀ (s : State) (k : Nat) (bs : List Byte), (s.pull k).asked = true →
    bs.length = Nat.min (Nat.min 512 s.pcie.maxReadRequest) ((s.pull k).len - (s.pull k).copied) →
    (s.pull k).copied + bs.length < (s.pull k).len → s.dram.wf →
    ∃ t, exec (.hostReadCompletion k 0 bs) s = .next t ∧
      (∀ i, (h : i < bs.length) →
        t.dram.byte ((s.buf (s.pull k).handle).base + (s.pull k).offset + (s.pull k).copied + i) = bs[i]) ∧
      (∀ a, (a < (s.buf (s.pull k).handle).base + (s.pull k).offset + (s.pull k).copied ∨
        (s.buf (s.pull k).handle).base + (s.pull k).offset + (s.pull k).copied + bs.length ≤ a) →
        t.dram.byte a = s.dram.byte a) ∧
      t.pull k = { s.pull k with copied := (s.pull k).copied + bs.length, asked := s.canRequest } ∧
      t.out = s.out ++ (if s.canRequest = true then [.hostRead k ((s.pull k).host + ((s.pull k).copied + bs.length))
        (Nat.min (Nat.min 512 s.pcie.maxReadRequest) ((s.pull k).len - ((s.pull k).copied + bs.length)))] else [])) ∧
  (∀ (s : State) (k : Nat) (bs : List Byte), (s.pull k).asked = true → (s.slot k).phase = .executing →
    bs.length = Nat.min (Nat.min 512 s.pcie.maxReadRequest) ((s.pull k).len - (s.pull k).copied) →
    (s.pull k).copied < (s.pull k).len →
    (s.pull k).len ≤ (s.pull k).copied + bs.length →
    ∃ t res, exec (.hostReadCompletion k 0 bs) s = .next t ∧ Completed k s t 0x00 0 res ∧
      t.dram = s.dram.setBytes ((s.buf (s.pull k).handle).base + (s.pull k).offset + (s.pull k).copied) bs ∧
      ((s.pull k).makeReady = false → res = 0 ∧ t.cmd.bufs = s.cmd.bufs) ∧
      ((s.pull k).makeReady = true → (t.buf (s.pull k).handle).state = .ready ∧
        (t.buf (s.pull k).handle).gen = (s.buf (s.pull k).handle).gen + 1)) ∧
  (∀ (s : State) (k st : Nat) (bs : List Byte), (s.pull k).asked = true → (s.slot k).phase = .executing → 1 ≤ st → st ≤ 3 →
    ∃ t, exec (.hostReadCompletion k st bs) s = .next t ∧ Completed k s t 0x30 st 0 ∧ t.dram = s.dram ∧
      t.cmd.bufs = s.cmd.bufs)

/-- R21, R66: SYS_HALTER takes ARMED and RUN to HALTER with cause HOST_HALTER, and in HALTER leaves state, cause and PREV as
they are; it keeps the mode, the buffers and device DRAM. SYS_RESUME takes HALTER to RUN with a job or a scan open and to ARMED
otherwise, with cause HOST_RESUME and the mode kept. -/
def Obligations.HalterAndResume : Prop :=
  (∀ (s : State) (k : Nat), Accepted 0x0104 sysHalterChecks k s → ∃ t, exec (.sysHalter k) s = .next t ∧ t.top.dev = .halter ∧
    (s.top.dev ≠ .halter → t.top.cause = .hostHalter ∧ t.top.prev = s.top.dev) ∧
    (s.top.dev = .halter → t.top.cause = s.top.cause ∧ t.top.prev = s.top.prev) ∧ t.tan.held = false ∧
    t.top.mode = s.top.mode ∧ t.cmd.bufs = s.cmd.bufs ∧ t.dram = s.dram) ∧
  (∀ (s : State) (k : Nat), Accepted 0x0105 sysResumeChecks k s →
    ∃ t, exec (.sysResume k) s = .next t ∧ Completed k s t 0x00 0 0 ∧ t.top.cause = .hostResume ∧ t.top.prev = .halter ∧
      t.top.dev = (if s.prn.job.isOpen = true ∨ s.scanning = true then .run else .armed) ∧ t.top.mode = s.top.mode)

/-! ### Life cycle of the device -/

/-- R24, R494, R495: what each reset leaves. POWER_ON in every state, PORST and SYSRST in every state but TRIPPED, the
reset that a command has asked for, once no completion record of that command waits, and the end of the hold after a
trip enter RESET: everything on the LZ9 but OTP, the fuses and the always-on domain takes its reset value. The
always-on domain holds the cause, the count of resets, the straps, which POWER_ON and PORST sample, the count of
attempts and the record of trips, which POWER_ON clears, and HELD; OPENED is set by the reset of kind OPEN and cleared
by every other. In TRIPPED a PORST or a SYSRST changes nothing, a reset that no command has asked for does not come,
and the hold does not end before its 30 s. Where these rules leave a point open, the model's choice is in log 17. -/
def Obligations.Resets : Prop :=
  (∀ (s : State) (st : BitVec 2),
    exec (.powerOn st) s = .next (s.fresh (s.lcs.fresh 1 0 st.toNat 0 0 false false) {})) ∧
  (∀ (s : State) (st : BitVec 2), s.top.dev ≠ .tripped →
    exec (.porstAssert st) s = .next (s.fresh
      (s.lcs.fresh 2 (Nat.min 65535 (s.lcs.count + 1)) st.toNat s.lcs.attempts s.lcs.tap false false)
      { hotspot := s.thm.hotspot, trips := s.thm.trips })) ∧
  (∀ s : State, s.top.dev ≠ .tripped →
    exec .sysrstAssert s = .next (s.fresh
      (s.lcs.fresh 3 (Nat.min 65535 (s.lcs.count + 1)) s.lcs.straps s.lcs.attempts s.lcs.tap false false)
      { hotspot := s.thm.hotspot, trips := s.thm.trips })) ∧
  (∀ (s : State) (st : BitVec 2), s.top.dev = .tripped →
    exec (.porstAssert st) s = .next s ∧ exec .sysrstAssert s = .next s) ∧
  (∀ s : State, s.lcs.pendingReset ≠ 0 → s.recordWaits s.lcs.pendingId = false →
    exec .internalReset s = .next (State.fresh { s with out := s.out ++ [Out.sysrst] }
      (s.lcs.fresh s.lcs.pendingReset (Nat.min 65535 (s.lcs.count + 1)) s.lcs.straps s.lcs.attempts s.lcs.tap false
        (decide (s.lcs.pendingReset = 6)))
      { hotspot := s.thm.hotspot, trips := s.thm.trips })) ∧
  (∀ s : State, s.lcs.pendingReset = 0 ∨ s.recordWaits s.lcs.pendingId = true → exec .internalReset s = .next s) ∧
  (∀ s : State, s.top.dev = .tripped → 30000000000 ≤ s.uptime →
    exec .tripHoldExpiry s = .next (s.fresh
      (s.lcs.fresh 4 (Nat.min 65535 (s.lcs.count + 1)) s.lcs.straps s.lcs.attempts s.lcs.tap true false)
      { hotspot := s.thm.hotspot, trips := s.thm.trips })) ∧
  (∀ s : State, s.top.dev ≠ .tripped ∨ s.uptime < 30000000000 → exec .tripHoldExpiry s = .next s)

/-- R29, R420, R496, R497, R499, R502 to R505, R512: reset release loads the customer record, the valid generation
with the highest number or the defaults, and starts BOOT, in mode HOST waiting for a push and in the other modes
turning to the SPI device, but enters FAULT where the OTP parity is bad. The image of the next source is verified and
its result kept: one that passes runs and starts the training of the channels; after a bad image of slot A the image
of slot B is read, after one of slot B mode SPI_THEN_HOST waits for a push and the other modes enter FAULT, and after
a pushed one FAULT is entered. A trained channel is ONLINE at the highest rate at which its eye reaches QUAL_LIMIT,
and OFFLINE where there is none; no channel in the map once none is training is a fault of MEM. READY wipes DRAM,
reaches IDLE and is the first event. Each of these rows changes nothing outside the state in which its event can come.
Where these rules leave a point open, the model's choice is in log 17. -/
def Obligations.Boot : Prop :=
  (∀ s : State, s.top.dev = .reset →
    ∃ t, exec (.resetRelease true) s = .next t ∧ t.top.dev = .boot ∧ t.top.prev = .reset ∧ t.top.cause = .none ∧ t.uptime = 0 ∧
      t.lcs.pushReady = decide (s.lcs.straps = 1 ∧ s.lcs.retired = false) ∧ t.lcs.recProv = false ∧
      t.out = s.out ++ (if s.lcs.straps = 1 ∨ s.lcs.retired = true then [] else [.spiSfdp 25000, .spiRead 0 100000]) ∧
      ((∀ r ∈ s.lcs.records, recordValid r = false) → t.lcs.inForce = defaultRecord s.fuse.deviceId ∧ t.lcs.recGen = 0) ∧
      (∀ i r, s.lcs.records[i]? = some r → recordValid r = true →
        (∀ j q, i < j → s.lcs.records[j]? = some q → recordValid q = false) →
        t.lcs.inForce = recordFields r ∧ t.lcs.recGen = i + 1)) ∧
  (∀ s : State, s.top.dev = .reset →
    ∃ t, exec (.resetRelease false) s = .next t ∧ t.top.dev = .fault ∧ t.top.prev = .boot ∧ t.top.cause = .fatalBlock ∧
      t.lcs.pushReady = false) ∧
  (∀ (s : State) (ok : Bool), s.top.dev ≠ .reset → exec (.resetRelease ok) s = .next s) ∧
  (∀ (s : State) (img : List Byte) (src r : Nat), s.top.dev = .boot → s.lcs.retired = false → s.lcs.imageOk = false →
    ((src = 1 ∧ s.lcs.verifying = false ∧ s.lcs.straps ≠ 1 ∧ s.lcs.slotA = 0) ∨
      (src = 2 ∧ s.lcs.verifying = false ∧ s.lcs.straps ≠ 1 ∧ s.lcs.slotA ≠ 0 ∧ s.lcs.slotB = 0) ∨
      (src = 3 ∧ s.lcs.verifying = true)) →
    r = imageResult s.lcs.rollback (if src = 3 then s.lcs.image else img) →
    ∃ t, exec (.bootImageVerified img) s = .next t ∧
      t.lcs.slotA = (if src = 1 then r else s.lcs.slotA) ∧ t.lcs.slotB = (if src = 2 then r else s.lcs.slotB) ∧
      t.lcs.pushed = (if src = 3 then r else s.lcs.pushed) ∧ t.lcs.imageOk = decide (r = 1) ∧
      (r = 1 → t.lcs.source = src ∧ t.lcs.fwVersion = numAt (if src = 3 then s.lcs.image else img) 12 4 ∧
        t.lcs.fwRollback = byteAt (if src = 3 then s.lcs.image else img) 16 ∧ t.lcs.pushReady = false ∧ t.top.dev = .boot ∧
        ∀ c, c < s.fuse.part.ddrChannels → (t.ddr c).state = .training) ∧
      (r ≠ 1 → src = 1 → t.top.dev = .boot ∧ t.out = s.out ++ [.spiRead s.lcs.inForce.slotB 100000]) ∧
      (r ≠ 1 → src = 2 → s.lcs.straps = 0 → t.top.dev = .boot ∧ t.lcs.pushReady = true) ∧
      (r ≠ 1 → (src = 2 ∧ s.lcs.straps ≠ 0) ∨ src = 3 →
        t.top.dev = .fault ∧ t.top.prev = .boot ∧ t.top.cause = .imageRejected)) ∧
  (∀ (s : State) (img : List Byte), s.top.dev ≠ .boot ∨ s.lcs.retired = true ∨ s.lcs.imageOk = true ∨
      (s.lcs.verifying = false ∧ (s.lcs.straps = 1 ∨ (s.lcs.slotA ≠ 0 ∧ s.lcs.slotB ≠ 0))) →
    exec (.bootImageVerified img) s = .next s) ∧
  (∀ (s : State) (ch : Nat) (eyes : List Nat) (temp : Int), s.top.dev = .boot →
    (s.ddr ch).state = .training →
    ∃ t, exec (.bootDdrTrained ch eyes temp) s = .next t ∧ ((t.ddr ch).state = .online ∨ (t.ddr ch).state = .offline) ∧
      (∀ (i rate eye : Nat), ((bootRates s.lcs.inForce.rateMax).zip eyes)[i]? = some (rate, eye) →
        (s.calPolicy (ddrSlot ch)).qualLimit ≤ eye →
        (∀ (j rate' eye' : Nat), j < i → ((bootRates s.lcs.inForce.rateMax).zip eyes)[j]? = some (rate', eye') →
          eye' < (s.calPolicy (ddrSlot ch)).qualLimit) →
        (t.ddr ch).state = .online ∧ (t.ddr ch).rate = rate ∧ (t.ddr ch).eye = eye) ∧
      ((∀ e ∈ (bootRates s.lcs.inForce.rateMax).zip eyes, e.2 < (s.calPolicy (ddrSlot ch)).qualLimit) →
        (t.ddr ch).state = .offline) ∧
      (∀ c, c ≠ ch → t.ddr c = s.ddr c) ∧
      ((∃ c, c < s.fuse.part.ddrChannels ∧ (t.ddr c).state = .training) ∨ (∃ c, c < 4 ∧ (t.ddr c).inMap = true) →
        t.top.dev = .boot) ∧
      ((∀ c, c < s.fuse.part.ddrChannels → (t.ddr c).state ≠ .training) → (∀ c, c < 4 → (t.ddr c).inMap = false) →
        t.top.dev = .fault ∧ t.top.cause = .fatalBlock)) ∧
  (∀ (s : State) (ch : Nat) (eyes : List Nat) (temp : Int), s.top.dev ≠ .boot ∨ (s.ddr ch).state ≠ .training →
    exec (.bootDdrTrained ch eyes temp) s = .next s) ∧
  (∀ s : State, s.top.dev = .boot → s.lcs.imageOk = true → (∀ c, c < s.fuse.part.ddrChannels → (s.ddr c).state ≠ .training) →
    s.mapChans ≠ [] → s.cmd.backlog = [] →
    ∃ t e, exec .ready s = .next t ∧ t.top.dev = .idle ∧ t.top.prev = .boot ∧ t.top.cause = .none ∧ t.dram = [] ∧ t.poison = [] ∧
      t.cmd.backlog.head? = some e ∧ e.source = 0x00 ∧ e.code = 0x0002 ∧ e.data = readyData s) ∧
  (∀ s : State, s.top.dev ≠ .boot ∨ s.lcs.imageOk = false ∨ (∃ c, c < s.fuse.part.ddrChannels ∧ (s.ddr c).state = .training) ∨
      s.mapChans = [] → exec .ready s = .next s)

/-- R12, R20, R21, R23, R451: a watchdog expiry while firmware runs and the loss of a reference clock enter FAULT, out
of every state but RESET, TRIPPED and FAULT itself; the loss of the PCIe clock takes the link down, which ends ARMED
and RUN in HALTER and leaves any other state as it is; a die trip enters TRIPPED, with everything but OTP, the fuses
and the always-on domain at its reset value, counts the trip, keeps the hotspot and the links to which HALTER goes,
and drives the trigger outputs to their inactive levels. In RESET and TRIPPED none of these changes anything. Where
these rules leave a point open, the model's choice is in log 17. -/
def Obligations.DeviceFaults : Prop :=
  (∀ s : State, s.top.dev ≠ .reset → s.top.dev ≠ .tripped → s.top.dev ≠ .fault → ¬ (s.top.dev = .boot ∧ s.lcs.imageOk = false) →
    ∃ t, exec .watchdogExpiry s = .next t ∧ t.top.dev = .fault ∧ t.top.prev = s.top.dev ∧ t.top.cause = .watchdog ∧
      t.top.mode = s.top.mode ∧ t.dram = s.dram) ∧
  (∀ s : State, s.top.dev = .reset ∨ s.top.dev = .tripped ∨ s.top.dev = .fault ∨ (s.top.dev = .boot ∧ s.lcs.imageOk = false) →
    exec .watchdogExpiry s = .next s) ∧
  (∀ (s : State) (ref : Nat), ref ≤ 1 → s.top.dev ≠ .reset → s.top.dev ≠ .tripped → s.top.dev ≠ .fault →
    ∃ t, exec (.clockFault ref) s = .next t ∧ t.top.dev = .fault ∧ t.top.prev = s.top.dev ∧ t.top.cause = .clockLoss ∧
      t.top.mode = s.top.mode ∧ t.dram = s.dram) ∧
  (∀ s : State, s.top.dev ≠ .reset → s.top.dev ≠ .tripped →
    ∃ t, exec (.clockFault 2) s = .next t ∧ t.pcie.linkUp = false ∧
      ((s.top.dev = .armed ∨ s.top.dev = .run) → t.top.dev = .halter ∧ t.top.cause = .pcieDown) ∧
      (s.top.dev ≠ .armed → s.top.dev ≠ .run → t.top = s.top)) ∧
  (∀ (s : State) (ref : Nat), s.top.dev = .reset ∨ s.top.dev = .tripped ∨ (s.top.dev = .fault ∧ ref ≤ 1) →
    exec (.clockFault ref) s = .next s) ∧
  (∀ (s : State) (h : Int), s.top.dev ≠ .reset → s.top.dev ≠ .tripped →
    ∃ (t : State) (os : List Out), exec (.dieTrip h) s = .next t ∧
      t = { State.fresh { s with out := s.out ++ os }
          (s.lcs.fresh s.lcs.cause s.lcs.count s.lcs.straps s.lcs.attempts s.lcs.tap s.lcs.held s.lcs.opened) t.thm with
        top := { dev := .tripped, prev := s.top.dev, cause := .thermalTrip } } ∧
      t.thm.hotspot = h ∧ t.thm.trips = Nat.min 255 (s.thm.trips + 1) ∧
      t.thm.tripLinks = s.claimedLinks.map (fun l => (l, (s.link l).claim)) ∧
      (∀ e ∈ s.time.trigs, e.2.pin ≠ 0xFF → Out.pin e.2.pin (e.2.level false) ∈ os)) ∧
  (∀ (s : State) (h : Int), s.top.dev = .reset ∨ s.top.dev = .tripped → exec (.dieTrip h) s = .next s)

/-! ### Life-cycle block -/

/-- R500, R506 to R511: on a SECURED part whose gate is not locked and that has a debug key a challenge draws a nonce
of 32 bytes and counts an attempt; otherwise it is refused with ST_LOCKED and the first of these that is wanting. A
response spends the nonce; where it answers a nonce of at most 60 s it clears the attempts and asks for the reset that
opens the part, otherwise it is refused; the nonce is gone after 60 s. ROLLBACK_COMMIT raises the rollback count to
that of the running image; a faultless record is burned into the next generation, unless the part is SECURED or
RETIRED or all four are burned, and one that does not read back ends with ST_HW_FAULT; a transition that the state
allows burns its bit and asks for a reset, another is refused. What is refused changes nothing but its record. Where
these rules leave a point open, the model's choice is in log 9 and 73. -/
def Obligations.LcsCommands : Prop :=
  (∀ (s : State) (k : Nat), Accepted 0x0F00 noParams k s → s.lcs.state = 2 → s.lcs.attempts < 8 → s.lcs.inForce.debugKey ≠ 0 →
    ∃ t n, exec (.lcsChallenge k) s = .next t ∧ Completed k s t 0x00 0 (8 - (s.lcs.attempts + 1)) ∧
      t.lcs = { s.lcs with nonce := some n, nonceTime := s.uptime, attempts := s.lcs.attempts + 1 } ∧ n.length = 32) ∧
  (∀ (s : State) (k det : Nat), Accepted 0x0F00 noParams k s →
    ((s.lcs.state ≠ 2 ∧ det = 1) ∨ (s.lcs.state = 2 ∧ 8 ≤ s.lcs.attempts ∧ det = 2) ∨
      (s.lcs.state = 2 ∧ s.lcs.attempts < 8 ∧ s.lcs.inForce.debugKey = 0 ∧ det = 3)) →
    ∃ t, exec (.lcsChallenge k) s = .next t ∧ Completed k s t 0x17 det 0 ∧ Keeps (fun p => p == .slots || p == .records) s t) ∧
  (∀ (s : State) (k : Nat) (n : List Byte), Accepted 0x0F01 lcsResponseChecks k s → s.lcs.nonce = some n →
    s.uptime ≤ s.lcs.nonceTime + 60000000000 →
    ∃ t, exec (.lcsResponse k) s = .next t ∧
      (responseOk n (s.bufBytes ((s.slot k).u 8 2) ((s.slot k).u 16 8) 193) s = true →
        Completed k s t 0x00 0 0 ∧
        t.lcs = { s.lcs with nonce := none, attempts := 0, pendingReset := 6, pendingId := (s.slot k).id }) ∧
      (responseOk n (s.bufBytes ((s.slot k).u 8 2) ((s.slot k).u 16 8) 193) s = false →
        Completed k s t 0x17 5 0 ∧ t.lcs = { s.lcs with nonce := none })) ∧
  (∀ (s : State) (k : Nat), Accepted 0x0F01 lcsResponseChecks k s →
    (s.lcs.nonce = none ∨ s.lcs.nonceTime + 60000000000 < s.uptime) →
    ∃ t, exec (.lcsResponse k) s = .next t ∧ Completed k s t 0x17 4 0 ∧ t.lcs = { s.lcs with nonce := none }) ∧
  (∀ (s : State) (n : List Byte), s.lcs.nonce = some n → s.lcs.nonceTime + 60000000000 ≤ s.uptime →
    exec .nonceExpiry s = .next { s with lcs := { s.lcs with nonce := none } }) ∧
  (∀ s : State, s.lcs.nonce = none ∨ s.uptime < s.lcs.nonceTime + 60000000000 → exec .nonceExpiry s = .next s) ∧
  (∀ (s : State) (k : Nat), Accepted 0x0F02 lcsOtpWriteChecks k s → (s.slot k).u 8 1 = 2 →
    ∃ t, exec (.lcsOtpWrite k) s = .next t ∧ Completed k s t 0x00 0 (Nat.max s.lcs.rollback s.lcs.fwRollback) ∧
      t.lcs = { s.lcs with rollback := Nat.max s.lcs.rollback s.lcs.fwRollback }) ∧
  (∀ (s : State) (k : Nat), Accepted 0x0F02 lcsOtpWriteChecks k s → (s.slot k).u 8 1 = 1 → s.lcs.state ≠ 2 → s.lcs.state ≠ 4 →
    custRecordFault (s.bufBytes ((s.slot k).u 10 2) ((s.slot k).u 16 8) 256) = none → s.lcs.records.length < 4 →
    ∃ t r, exec (.lcsOtpWrite k) s = .next t ∧ t.lcs = { s.lcs with records := s.lcs.records ++ [r] } ∧
      ((Completed k s t 0x00 0 (s.lcs.records.length + 1) ∧
          r = s.bufBytes ((s.slot k).u 10 2) ((s.slot k).u 16 8) 256) ∨ Completed k s t 0x30 0x0F01 0)) ∧
  (∀ (s : State) (k st det res : Nat), Accepted 0x0F02 lcsOtpWriteChecks k s → (s.slot k).u 8 1 = 1 →
    (((s.lcs.state = 2 ∨ s.lcs.state = 4) ∧ st = 0x17 ∧ det = 1 ∧ res = 0) ∨
      (s.lcs.state ≠ 2 ∧ s.lcs.state ≠ 4 ∧ st = 0x11 ∧ ∃ rsn,
        custRecordFault (s.bufBytes ((s.slot k).u 10 2) ((s.slot k).u 16 8) 256) = some (rsn, res) ∧ det = 16 + 256 * rsn) ∨
      (s.lcs.state ≠ 2 ∧ s.lcs.state ≠ 4 ∧
        custRecordFault (s.bufBytes ((s.slot k).u 10 2) ((s.slot k).u 16 8) 256) = none ∧ 4 ≤ s.lcs.records.length ∧
        st = 0x17 ∧ det = 6 ∧ res = 0)) →
    ∃ t, exec (.lcsOtpWrite k) s = .next t ∧ Completed k s t st det res ∧ Keeps (fun p => p == .slots || p == .records) s t) ∧
  (∀ (s : State) (k : Nat), Accepted 0x0F03 lcsTransitionChecks k s → leavesTo s.lcs.state ((s.slot k).u 8 1) = true →
    ∃ t, exec (.lcsTransition k) s = .next t ∧ Completed k s t 0x00 0 0 ∧
      t.lcs = { s.lcs with
        blank := s.lcs.blank || decide ((s.slot k).u 8 1 = 1)
        secured := s.lcs.secured || decide ((s.slot k).u 8 1 = 2)
        retired := s.lcs.retired || decide ((s.slot k).u 8 1 = 4)
        pendingReset := 5, pendingId := (s.slot k).id }) ∧
  (∀ (s : State) (k : Nat), Accepted 0x0F03 lcsTransitionChecks k s → leavesTo s.lcs.state ((s.slot k).u 8 1) = false →
    ∃ t, exec (.lcsTransition k) s = .next t ∧ Completed k s t 0x17 1 0 ∧
      Keeps (fun p => p == .slots || p == .records) s t)

/-- R501, R502, R537: the aperture takes words while the push waits for a chunk; a chunk of 1 to 131,072 words is
appended to the image, and the last one ends the push and has the image verified; a number of words outside that range
makes no chunk (log 73); a provisional record that is valid comes into force in mode HOST on a part not yet SECURED,
before the first chunk, and any other is rejected; PROV makes a record of any chunk. While no push is expected nothing
happens. R512, R513: IDCODE shifts the identification out; EXTEST and CLAMP act in RESET alone and are BYPASS
elsewhere, SAMPLE/PRELOAD acts everywhere, and any other code is BYPASS (the numbers are the model's, log 43); core
debug opens where internal debug is open. The mailbox shifts out the nonce of a challenge or what refuses it, and 0
for a response that answers the nonce, which opens the part, or what refuses it; it does not answer in RESET and
TRIPPED. Where these rules leave a point open, the model's choice is in log 43 and 73. -/
def Obligations.ImagePushAndJtag : Prop :=
  (∀ (s : State) (off : Nat) (v : Word), s.lcs.pushReady = true → s.top.dev = .boot → off % 4 = 0 → off < 0x80000 →
    exec (.pushApertureWrite off v) s =
      .next { s with lcs := { s.lcs with aperture := s.lcs.aperture.setBytes off (le 4 v.toNat) } }) ∧
  (∀ (s : State) (v : Word), s.lcs.pushReady = true → s.top.dev = .boot → v.getLsbD 30 = false → 1 ≤ v.toNat % 2 ^ 18 →
    v.toNat % 2 ^ 18 ≤ 131072 →
    exec (.pushChunk v) s = .next { s with lcs := { s.lcs with
      image := s.lcs.image ++ s.lcs.aperture.bytes 0 (4 * (v.toNat % 2 ^ 18)), imageChunks := s.lcs.imageChunks + 1
      pushReady := !v.getLsbD 31, verifying := v.getLsbD 31 } }) ∧
  (∀ (s : State) (v : Word), s.lcs.pushReady = true → s.top.dev = .boot → v.getLsbD 30 = false → 1 ≤ v.toNat % 2 ^ 18 →
    v.toNat % 2 ^ 18 ≤ 131072 →
    exec (.pushFinalChunk v) s = .next { s with lcs := { s.lcs with
      image := s.lcs.image ++ s.lcs.aperture.bytes 0 (4 * (v.toNat % 2 ^ 18)), imageChunks := s.lcs.imageChunks + 1
      pushReady := false, verifying := true } }) ∧
  (∀ (s : State) (v : Word), v.getLsbD 30 = false → (v.toNat % 2 ^ 18 = 0 ∨ 131072 < v.toNat % 2 ^ 18) →
    exec (.pushChunk v) s = .next s ∧ exec (.pushFinalChunk v) s = .next s) ∧
  (∀ (s : State) (v : Word), s.lcs.pushReady = true → s.top.dev = .boot → s.lcs.state ≤ 1 → s.lcs.straps = 1 →
    s.lcs.imageChunks = 0 → v.toNat % 2 ^ 18 = 64 → recordValid (s.lcs.aperture.bytes 0 256) = true →
    exec (.pushProvisionalRecord v) s = .next { s with lcs := { s.lcs with
      inForce := recordFields (s.lcs.aperture.bytes 0 256), recProv := true, rejected := false } }) ∧
  (∀ (s : State) (v : Word), s.lcs.pushReady = true → s.top.dev = .boot →
    (2 ≤ s.lcs.state ∨ s.lcs.straps ≠ 1 ∨ s.lcs.imageChunks ≠ 0 ∨ v.toNat % 2 ^ 18 ≠ 64 ∨
      recordValid (s.lcs.aperture.bytes 0 256) = false) →
    exec (.pushProvisionalRecord v) s = .next { s with lcs := { s.lcs with rejected := true } }) ∧
  (∀ (s : State) (v : Word), v.getLsbD 30 = true →
    exec (.pushChunk v) s = exec (.pushProvisionalRecord v) s ∧ exec (.pushFinalChunk v) s = exec (.pushProvisionalRecord v) s) ∧
  (∀ (s : State) (v : Word) (off : Nat), (s.lcs.pushReady = false ∨ s.top.dev ≠ .boot) →
    exec (.pushChunk v) s = .next s ∧ exec (.pushFinalChunk v) s = .next s ∧ exec (.pushProvisionalRecord v) s = .next s ∧
      exec (.pushApertureWrite off v) s = .next s) ∧
  (∀ s : State, exec (.jtagBoundaryScan 1) s =
    .next { s with lcs := { s.lcs with tap := 1 }, out := s.out ++ [.jtag s.idcode] }) ∧
  (∀ (s : State) (i : Nat), i = 3 ∨ i = 4 → exec (.jtagBoundaryScan i) s =
    .next { s with lcs := { s.lcs with tap := if s.top.dev = .reset then i else 0 } }) ∧
  (∀ (s : State) (i : Nat), i ≠ 1 → i ≠ 3 → i ≠ 4 → exec (.jtagBoundaryScan i) s =
    .next { s with lcs := { s.lcs with tap := if i = 2 then 2 else 0 } }) ∧
  (∀ s : State, exec .jtagCoreDebug s =
    .next { s with lcs := { s.lcs with
      tap := if s.lcs.state = 0 ∨ s.lcs.state = 1 ∨ s.lcs.state = 3 then 5 else 0 } }) ∧
  (∀ s : State, s.top.dev ≠ .reset → s.top.dev ≠ .tripped → s.lcs.state = 2 → s.lcs.attempts < 8 → s.lcs.inForce.debugKey ≠ 0 →
    ∃ t n, exec (.jtagLcsMailbox none) s = .next t ∧
      t.lcs = { s.lcs with nonce := some n, nonceTime := s.uptime, attempts := s.lcs.attempts + 1 } ∧ n.length = 32 ∧
      t.out = s.out ++ [.jtag (ofLe n)]) ∧
  (∀ (s : State) (det : Nat), s.top.dev ≠ .reset → s.top.dev ≠ .tripped →
    ((s.lcs.state ≠ 2 ∧ det = 1) ∨ (s.lcs.state = 2 ∧ 8 ≤ s.lcs.attempts ∧ det = 2) ∨
      (s.lcs.state = 2 ∧ s.lcs.attempts < 8 ∧ s.lcs.inForce.debugKey = 0 ∧ det = 3)) →
    exec (.jtagLcsMailbox none) s = .next { s with out := s.out ++ [.jtag det] }) ∧
  (∀ (s : State) (r n : List Byte), s.top.dev ≠ .reset → s.top.dev ≠ .tripped → s.lcs.nonce = some n →
    s.uptime ≤ s.lcs.nonceTime + 60000000000 →
    exec (.jtagLcsMailbox (some r)) s = .next (if responseOk n r s = true then
        { s with lcs := { s.lcs with nonce := none, attempts := 0, pendingReset := 6, pendingId := 0 }, out := s.out ++ [.jtag 0] }
      else { s with lcs := { s.lcs with nonce := none }, out := s.out ++ [.jtag 5] })) ∧
  (∀ (s : State) (r : List Byte), s.top.dev ≠ .reset → s.top.dev ≠ .tripped →
    (s.lcs.nonce = none ∨ s.lcs.nonceTime + 60000000000 < s.uptime) →
    exec (.jtagLcsMailbox (some r)) s = .next { s with lcs := { s.lcs with nonce := none }, out := s.out ++ [.jtag 4] }) ∧
  (∀ (s : State) (r : Option (List Byte)), s.top.dev = .reset ∨ s.top.dev = .tripped → exec (.jtagLcsMailbox r) s = .next s)

/-! ### Block WEB -/

/-- R85, R88, R92, R94, R98 to R103: WEB_CONFIG gives a feedback channel its configuration, keeps its position, and
gives or takes its role as web master or check encoder; while an enabled axis reads the channel it may change neither
mode nor role and is answered with ST_RESOURCE_BUSY. A bar's offset is set at once or slews; limits and enabled bars
are set; the position of the web master is set, or its next index is to realign it; the position registers are copied.
Where these rules leave a point open, the model's choice is in log 15 and 62. -/
def Obligations.WebCommands : Prop :=
  (∀ (s : State) (k ch : Nat), Accepted 0x0200 webConfigChecks k s → (s.slot k).u 8 1 = ch →
    (s.axisReads ch = false ∨ ((s.chan ch).mode.code = (s.slot k).u 9 1 ∧ (s.chan ch).role.code = (s.slot k).u 10 1)) →
    ∃ t, exec (.webConfig k) s = .next t ∧ Completed k s t 0x00 0 0 ∧
      (t.chan ch).mode = ChMode.ofCode ((s.slot k).u 9 1) ∧ (t.chan ch).role = ChRole.ofCode ((s.slot k).u 10 1) ∧
      (t.chan ch).filterNs = (s.slot k).u 11 1 ∧ (t.chan ch).invert = bitAt ((s.slot k).u 12 1) 0 ∧
      (t.chan ch).indexEn = bitAt ((s.slot k).u 12 1) 1 ∧ (t.chan ch).indexLow = bitAt ((s.slot k).u 12 1) 2 ∧
      (t.chan ch).ssiGray = bitAt ((s.slot k).u 12 1) 3 ∧ (t.chan ch).ssiBits = (s.slot k).u 13 1 ∧
      (t.chan ch).ssiClock = (s.slot k).u 14 2 ∧ (t.chan ch).cpr = (s.slot k).u 16 4 ∧
      (t.chan ch).indexPos = (s.slot k).u 20 4 ∧
      (t.chan ch).idxTol = (if bitAt ((s.slot k).u 12 1) 4 then 2 else (s.slot k).u 24 2) ∧
      (t.chan ch).speedAvg = (if bitAt ((s.slot k).u 12 1) 4 then 2 else (s.slot k).u 42 1) ∧
      (t.chan ch).standstillMs = (if bitAt ((s.slot k).u 12 1) 4 then 100 else (s.slot k).u 44 2) ∧
      (t.chan ch).p = (s.chan ch).p ∧ (∀ n, n ≠ ch → t.chan n = s.chan n) ∧
      ((s.slot k).u 10 1 = 1 → t.web.master = some ch ∧ t.web.linesNum = (s.slot k).u 28 2 ∧
        t.web.linesDen = (s.slot k).u 30 2 ∧ t.web.hwm = (s.chan ch).p ∧ t.web.reverse = false) ∧
      ((s.slot k).u 10 1 = 2 → t.web.check = some ch ∧ t.web.checkNum = (s.slot k).u 38 2 ∧
        t.web.checkDen = (s.slot k).u 40 2 ∧ t.web.dm = 0 ∧ t.web.dc = 0) ∧
      ((s.slot k).u 10 1 = 0 → t.web.master = (if s.web.master = some ch then none else s.web.master) ∧
        t.web.check = (if s.web.check = some ch then none else s.web.check) ∧ t.web.hwm = s.web.hwm)) ∧
  (∀ (s : State) (k ch : Nat), Accepted 0x0200 webConfigChecks k s → (s.slot k).u 8 1 = ch → s.axisReads ch = true →
    ((s.chan ch).mode.code ≠ (s.slot k).u 9 1 ∨ (s.chan ch).role.code ≠ (s.slot k).u 10 1) →
    ∃ t, exec (.webConfig k) s = .next t ∧ Completed k s t 0x14 0x0A00 0 ∧ Keeps (fun p => p == .slots || p == .records) s t) ∧
  (∀ (s : State) (k b : Nat), Accepted 0x0201 webBarOffsetChecks k s → (s.slot k).u 8 1 = b → (s.slot k).u 9 1 = 1 →
    ∃ t, exec (.webBarOffset k) s = .next t ∧ Completed k s t 0x00 0 ((s.slot k).u 12 4) ∧
      (t.webBar b).offset = (s.slot k).i 12 4 ∧ (t.webBar b).target = (s.slot k).i 12 4 ∧ (t.webBar b).slewing = false ∧
      (t.webBar b).nl = (s.webBar b).nl ∧ ∀ n, n ≠ b → t.webBar n = s.webBar n) ∧
  (∀ (s : State) (k b : Nat), Accepted 0x0201 webBarOffsetChecks k s → (s.slot k).u 8 1 = b → (s.slot k).u 9 1 = 2 →
    ∃ t, exec (.webBarOffset k) s = .next t ∧ Completed k s t 0x00 0 (unsigned 32 (s.webBar b).offset) ∧
      (t.webBar b).offset = (s.webBar b).offset ∧ (t.webBar b).target = (s.slot k).i 12 4 ∧
      (t.webBar b).slewRate = (s.slot k).u 10 1 ∧
      ((t.webBar b).slewing = true ↔ (s.webBar b).offset ≠ (s.slot k).i 12 4) ∧ ∀ n, n ≠ b → t.webBar n = s.webBar n) ∧
  (∀ (s : State) (k : Nat), Accepted 0x0202 webLimitsChecks k s → 
    ∃ t, exec (.webLimits k) s = .next t ∧ Completed k s t 0x00 0 0 ∧ t.web.runMin = (s.slot k).u 8 4 ∧
      t.web.runExit = (s.slot k).u 12 4 ∧ t.web.slowOn = (s.slot k).u 16 1 ∧ t.web.slowOff = (s.slot k).u 17 1 ∧
      (∀ b, b < 16 → (t.webBar b).enabled = bitAt ((s.slot k).u 18 2) b ∧ (t.webBar b).offset = (s.webBar b).offset) ∧
      t.web.chans = s.web.chans) ∧
  (∀ (s : State) (k m : Nat), Accepted 0x0203 webRereferenceChecks k s → s.web.master = some m → (s.slot k).u 8 1 = 1 →
    ∃ t, exec (.webRereference k) s = .next t ∧ Completed k s t 0x00 0 0 ∧ (t.chan m).p = (s.slot k).i 16 8 ∧
      t.web.hwm = (s.slot k).i 16 8 ∧ t.web.reverse = false ∧ t.web.doubtRemain = 0 ∧ t.web.doubtOpen = false) ∧
  (∀ (s : State) (k m : Nat), Accepted 0x0203 webRereferenceChecks k s → s.web.master = some m → (s.slot k).u 8 1 = 2 →
    ∃ t, exec (.webRereference k) s = .next t ∧ Completed k s t 0x00 0 0 ∧ t.chan m = { s.chan m with realign := true } ∧
      ∀ n, n ≠ m → t.chan n = s.chan n) ∧
  (∀ (s : State) (k : Nat), Accepted 0x0204 webQueryChecks k s →
    ∃ t, exec (.webQuery k) s = .next t ∧ Completed k s t 0x00 0 (s.time.now % 2 ^ 32) ∧
      t.web = { s.web with snapshot := webSnapshot (s.begun k) })

/-- R82: the position of a channel moves by counting the edges or words of that channel, by WEB_REREFERENCE action SET_POSITION
of the web master, and by a reset of the LZ9 alone, whatever the command; an index pulse never moves it. It stays a signed
64-bit number. -/
def Obligations.PositionMovesByCountingAlone : Prop :=
  ∀ (c : Instr) (s t : State) (ch : Nat), exec c s = .next t →
    ((t.chan ch).p ≠ (s.chan ch).p → (∃ a b n, c = .encoderEdge ch a b n) ∨ (∃ u v w n, c = .hallEdge ch u v w n) ∨
      (∃ w, c = .ssiReadDone ch w) ∨ (∃ k, c = .webRereference k ∧ (s.slot k).u 8 1 = 1 ∧ s.web.master = some ch) ∨
      t.top.dev = .reset ∨ t.top.dev = .tripped) ∧
    (-(2 ^ 63 : Int) ≤ (s.chan ch).p → (s.chan ch).p < 2 ^ 63 → -(2 ^ 63 : Int) ≤ (t.chan ch).p ∧ (t.chan ch).p < 2 ^ 63)

/-- R77 to R83, R86, R88: an input line takes a new level once it has been sampled at it for more than FILTER_NS
samples, and a line sampled at its own level starts again. In `a'` and `b'`, or `u'`, `v'` and `w'`, stand the levels
that the lines of a channel have after `n` samples. A quadrature or Hall channel counts one step forward or back as
the sequence of its lines moves, its direction exchanged by INVERT_DIR; lines that change together and make no step
are illegal and counted as that; lines accepted at different times act one after the other, the earlier first; the web
master carries HWM forward with it. An SSI channel takes the word once the read in progress has had time for all its
bits and moves by the shortest difference of its words, its first word none. A channel of another mode takes no edge
and no word. R83, R84, R86, R87, R89, R98: a change of Z to its active level, once accepted, is an index event: within
its tolerance it sets W and ends a mismatch, beyond it it is a mismatch, and where the channel is to be realigned it
sets W whatever the error; other samples of Z move no W. A missing index, a check span that ends, the end of a doubt,
the evaluation of the gait and standstill act as these rules say, and change nothing before their time. Where these
rules leave a point open, the model's choice is in log 32, 48 and 62. -/
def Obligations.WebFeedbackAndSupervision : Prop :=
  (∀ (s : State) (ch n : Nat) (a b a' b' : Bool), (s.chan ch).mode = .quadrature →
    a' = (if (s.chan ch).filterNs < (s.chan ch).runA + n then a else (s.chan ch).lineA) →
    b' = (if (s.chan ch).filterNs < (s.chan ch).runB + n then b else (s.chan ch).lineB) →
    a' = (s.chan ch).lineA → b' = (s.chan ch).lineB →
    exec (.encoderEdge ch a b n) s = .next (s.setChan ch { s.chan ch with
      runA := if a = (s.chan ch).lineA then 0 else (s.chan ch).runA + n
      runB := if b = (s.chan ch).lineB then 0 else (s.chan ch).runB + n })) ∧
  (∀ (s : State) (ch n : Nat) (a b a' b' : Bool) (d : Int), (s.chan ch).mode = .quadrature →
    a' = (if (s.chan ch).filterNs < (s.chan ch).runA + n then a else (s.chan ch).lineA) →
    b' = (if (s.chan ch).filterNs < (s.chan ch).runB + n then b else (s.chan ch).lineB) →
    ((a' ≠ (s.chan ch).lineA ∧ b' = (s.chan ch).lineB) ∨ (a' = (s.chan ch).lineA ∧ b' ≠ (s.chan ch).lineB)) →
    d = (if (((s.chan ch).lineA, (s.chan ch).lineB, a', b') ∈ [(false, false, false, true), (false, true, true, true),
      (true, true, true, false), (true, false, false, false)]) ↔ (s.chan ch).invert = false then 1 else -1) →
    ∃ t, exec (.encoderEdge ch a b n) s = .next t ∧ (t.chan ch).p = w64 ((s.chan ch).p + d) ∧
      (t.chan ch).lineA = a' ∧ (t.chan ch).lineB = b' ∧ (t.chan ch).illegalCount = (s.chan ch).illegalCount ∧
      (0 < (s.chan ch).cpr → (t.chan ch).w = ((s.chan ch).w + d) % Int.ofNat (s.chan ch).cpr) ∧
      (∀ n, n ≠ ch → t.chan n = s.chan n) ∧
      t.web.hwm = (if s.web.master = some ch ∧ s.web.hwm < w64 ((s.chan ch).p + d) then w64 ((s.chan ch).p + d)
        else s.web.hwm)) ∧
  (∀ (s : State) (ch n : Nat) (a b : Bool), (s.chan ch).mode = .quadrature → a ≠ (s.chan ch).lineA → b ≠ (s.chan ch).lineB →
    (s.chan ch).filterNs < (s.chan ch).runA + n → (s.chan ch).runA = (s.chan ch).runB →
    ∃ t, exec (.encoderEdge ch a b n) s = .next t ∧ (t.chan ch).p = (s.chan ch).p ∧ (t.chan ch).illegal = true ∧
      (t.chan ch).illegalCount = Nat.min 65535 ((s.chan ch).illegalCount + 1) ∧ (t.chan ch).lineA = a ∧
      (t.chan ch).lineB = b ∧ t.web.hwm = s.web.hwm) ∧
  (∀ (s : State) (ch n : Nat) (a b a' b' : Bool) (d : Int), (s.chan ch).mode = .quadrature → a ≠ (s.chan ch).lineA →
    b ≠ (s.chan ch).lineB → (s.chan ch).filterNs < (s.chan ch).runA + n → (s.chan ch).filterNs < (s.chan ch).runB + n →
    (((s.chan ch).runB < (s.chan ch).runA ∧ a' = a ∧ b' = (s.chan ch).lineB) ∨
      ((s.chan ch).runA < (s.chan ch).runB ∧ a' = (s.chan ch).lineA ∧ b' = b)) →
    d = (if (((s.chan ch).lineA, (s.chan ch).lineB, a', b') ∈ [(false, false, false, true), (false, true, true, true),
      (true, true, true, false), (true, false, false, false)]) ↔ (s.chan ch).invert = false then 1 else -1) →
    ∃ t, exec (.encoderEdge ch a b n) s = .next t ∧ (t.chan ch).p = w64 (w64 ((s.chan ch).p + d) + d) ∧
      (t.chan ch).lineA = a ∧ (t.chan ch).lineB = b ∧ (t.chan ch).illegalCount = (s.chan ch).illegalCount) ∧
  (∀ (s : State) (ch n : Nat) (u v w u' v' w' : Bool), (s.chan ch).mode = .hall →
    u' = (if (s.chan ch).filterNs < (s.chan ch).runA + n then u else (s.chan ch).lineA) →
    v' = (if (s.chan ch).filterNs < (s.chan ch).runB + n then v else (s.chan ch).lineB) →
    w' = (if (s.chan ch).filterNs < (s.chan ch).runZ + n then w else (s.chan ch).lineZ) →
    (u' ≠ (s.chan ch).lineA → v' ≠ (s.chan ch).lineB → (s.chan ch).runA = (s.chan ch).runB) →
    (u' ≠ (s.chan ch).lineA → w' ≠ (s.chan ch).lineZ → (s.chan ch).runA = (s.chan ch).runZ) →
    (v' ≠ (s.chan ch).lineB → w' ≠ (s.chan ch).lineZ → (s.chan ch).runB = (s.chan ch).runZ) →
    ∃ t, exec (.hallEdge ch u v w n) s = .next t ∧ (t.chan ch).lineA = u' ∧ (t.chan ch).lineB = v' ∧ (t.chan ch).lineZ = w' ∧
      (∀ n, n ≠ ch → t.chan n = s.chan n) ∧
      (u' = (s.chan ch).lineA → v' = (s.chan ch).lineB → w' = (s.chan ch).lineZ →
        t = s.setChan ch { s.chan ch with
          runA := if u = (s.chan ch).lineA then 0 else (s.chan ch).runA + n
          runB := if v = (s.chan ch).lineB then 0 else (s.chan ch).runB + n
          runZ := if w = (s.chan ch).lineZ then 0 else (s.chan ch).runZ + n }) ∧
      (∀ (x y : Nat) (d : Int), hallPlace (s.chan ch).lineA (s.chan ch).lineB (s.chan ch).lineZ = some x →
        hallPlace u' v' w' = some y →
        ((y = (x + 1) % 6 ∧ d = if (s.chan ch).invert then -1 else 1) ∨
          (x = (y + 1) % 6 ∧ d = if (s.chan ch).invert then 1 else -1)) →
        (t.chan ch).p = w64 ((s.chan ch).p + d) ∧ (t.chan ch).illegalCount = (s.chan ch).illegalCount) ∧
      ((∃ x y, hallPlace (s.chan ch).lineA (s.chan ch).lineB (s.chan ch).lineZ = some x ∧ hallPlace u' v' w' = some y ∧ x ≠ y ∧
          y ≠ (x + 1) % 6 ∧ x ≠ (y + 1) % 6) ∨
          (hallPlace u' v' w' = none ∧
            ¬ (u' = (s.chan ch).lineA ∧ v' = (s.chan ch).lineB ∧ w' = (s.chan ch).lineZ)) →
        (t.chan ch).p = (s.chan ch).p ∧ (t.chan ch).illegal = true ∧
          (t.chan ch).illegalCount = Nat.min 65535 ((s.chan ch).illegalCount + 1)) ∧
      (hallPlace (s.chan ch).lineA (s.chan ch).lineB (s.chan ch).lineZ = none → hallPlace u' v' w' ≠ none →
        (t.chan ch).p = (s.chan ch).p ∧ (t.chan ch).illegalCount = (s.chan ch).illegalCount)) ∧
  (∀ (s : State) (ch n : Nat) (u v w : Bool), (s.chan ch).mode = .hall →
    exec (.hallEdge ch u v w n) s = .next
      ((acceptAges [(filterLine (s.chan ch).filterNs (s.chan ch).runA n (u == (s.chan ch).lineA)).2,
          (filterLine (s.chan ch).filterNs (s.chan ch).runB n (v == (s.chan ch).lineB)).2,
          (filterLine (s.chan ch).filterNs (s.chan ch).runZ n (w == (s.chan ch).lineZ)).2]).foldl (fun st x =>
        hallChange ch (s.time.now - x)
          (levelAt x (filterLine (s.chan ch).filterNs (s.chan ch).runA n (u == (s.chan ch).lineA)).2 (s.chan ch).lineA u)
          (levelAt x (filterLine (s.chan ch).filterNs (s.chan ch).runB n (v == (s.chan ch).lineB)).2 (s.chan ch).lineB v)
          (levelAt x (filterLine (s.chan ch).filterNs (s.chan ch).runZ n (w == (s.chan ch).lineZ)).2 (s.chan ch).lineZ w) st)
        (s.setChan ch { s.chan ch with
          runA := (filterLine (s.chan ch).filterNs (s.chan ch).runA n (u == (s.chan ch).lineA)).1
          runB := (filterLine (s.chan ch).filterNs (s.chan ch).runB n (v == (s.chan ch).lineB)).1
          runZ := (filterLine (s.chan ch).filterNs (s.chan ch).runZ n (w == (s.chan ch).lineZ)).1 }))) ∧
  (∀ (s : State) (ch word v t0 : Nat), (s.chan ch).mode = .ssi → (s.chan ch).ssiStart = some t0 →
    (s.chan ch).ssiBits * 1000000 ≤ (s.time.now - t0) * (s.chan ch).ssiClock →
    v = (if (s.chan ch).ssiGray = true then
      grayToBin (s.chan ch).ssiBits (word % 2 ^ (s.chan ch).ssiBits) % 2 ^ (s.chan ch).ssiBits
      else word % 2 ^ (s.chan ch).ssiBits) →
    ∃ t, exec (.ssiReadDone ch word) s = .next t ∧ (t.chan ch).ssiWord = some v ∧ (t.chan ch).ssiStart = none ∧
      ((s.chan ch).ssiWord = none → (t.chan ch).p = (s.chan ch).p) ∧
      (∀ old, (s.chan ch).ssiWord = some old → (t.chan ch).p = w64 ((s.chan ch).p +
        (if (s.chan ch).invert = true then -shortest (s.chan ch).ssiBits v old else shortest (s.chan ch).ssiBits v old))) ∧
      ∀ n, n ≠ ch → t.chan n = s.chan n) ∧
  (∀ (s : State) (ch word : Nat), ((s.chan ch).mode ≠ .ssi ∨ (s.chan ch).ssiStart = none ∨
      ∃ t0, (s.chan ch).ssiStart = some t0 ∧ (s.time.now - t0) * (s.chan ch).ssiClock < (s.chan ch).ssiBits * 1000000) →
    exec (.ssiReadDone ch word) s = .next s) ∧
  (∀ (s : State) (ch n : Nat) (a b : Bool), (s.chan ch).mode ≠ .quadrature → exec (.encoderEdge ch a b n) s = .next s) ∧
  (∀ (s : State) (ch n : Nat) (u v w : Bool), (s.chan ch).mode ≠ .hall → exec (.hallEdge ch u v w n) s = .next s) ∧
  (∀ (s : State) (ch n : Nat) (z : Bool), (s.chan ch).indexed = true → z ≠ (s.chan ch).lineZ → z ≠ (s.chan ch).indexLow →
    (s.chan ch).filterNs < (s.chan ch).runZ + n →
    ((s.chan ch).indexErr.natAbs ≤ (s.chan ch).idxTol ∨ (s.chan ch).realign = true) →
    ∃ t, exec (.indexEvent ch z n) s = .next t ∧ (t.chan ch).w = Int.ofNat (s.chan ch).indexPos ∧ (t.chan ch).mismatch = false ∧
      (t.chan ch).realign = false ∧ (t.chan ch).lineZ = z ∧ (t.chan ch).lastErr = (s.chan ch).indexErr ∧
      (t.chan ch).missing = false ∧ (t.chan ch).lastIndexPos = (s.chan ch).p ∧ (t.chan ch).p = (s.chan ch).p ∧
      t.web.doubtRemain = s.web.doubtRemain) ∧
  (∀ (s : State) (ch n : Nat) (z : Bool), (s.chan ch).indexed = true → z ≠ (s.chan ch).lineZ → z ≠ (s.chan ch).indexLow →
    (s.chan ch).filterNs < (s.chan ch).runZ + n → (s.chan ch).realign = false →
    (s.chan ch).idxTol < (s.chan ch).indexErr.natAbs →
    ∃ t, exec (.indexEvent ch z n) s = .next t ∧ (t.chan ch).mismatch = true ∧ (t.chan ch).w = (s.chan ch).w ∧
      (t.chan ch).missing = false ∧ (t.chan ch).lastErr = (s.chan ch).indexErr ∧ (t.chan ch).lastIndexPos = (s.chan ch).p ∧
      (t.chan ch).p = (s.chan ch).p ∧
      (s.web.master = some ch →
        ((s.chan ch).mismatch = false ∨ (s.chan ch).idxTol < ((s.chan ch).indexErr - (s.chan ch).lastErr).natAbs) →
        t.web.doubtRemain = s.web.doubtSpan)) ∧
  (∀ (s : State) (ch n : Nat) (z : Bool), (s.chan ch).mode = .quadrature →
    (z = (s.chan ch).lineZ ∨ (s.chan ch).runZ + n ≤ (s.chan ch).filterNs ∨ z = (s.chan ch).indexLow ∨
      (s.chan ch).indexed = false) →
    exec (.indexEvent ch z n) s = .next (s.setChan ch { s.chan ch with
      runZ := if z ≠ (s.chan ch).lineZ ∧ (s.chan ch).runZ + n ≤ (s.chan ch).filterNs then (s.chan ch).runZ + n else 0
      lineZ := if z ≠ (s.chan ch).lineZ ∧ (s.chan ch).runZ + n ≤ (s.chan ch).filterNs then (s.chan ch).lineZ else z })) ∧
  (∀ (s : State) (ch n : Nat) (z : Bool), (s.chan ch).mode ≠ .quadrature → exec (.indexEvent ch z n) s = .next s) ∧
  (∀ (s : State) (ch : Nat), (s.chan ch).indexed = true → (s.chan ch).missing = false →
    3 * (s.chan ch).cpr ≤ 2 * ((s.chan ch).p - (s.chan ch).lastIndexPos).natAbs →
    ∃ t, exec (.indexMissing ch) s = .next t ∧ t.chan ch = { s.chan ch with missing := true } ∧
      (s.web.master = some ch → t.web.doubtRemain = s.web.doubtSpan)) ∧
  (∀ (s : State) (ch : Nat), (s.chan ch).indexed = false ∨ (s.chan ch).missing = true ∨
      2 * ((s.chan ch).p - (s.chan ch).lastIndexPos).natAbs < 3 * (s.chan ch).cpr →
    exec (.indexMissing ch) s = .next s) ∧
  (∀ s : State, s.web.check ≠ none → s.web.master ≠ none → s.web.checkSpan ≤ s.web.dm.natAbs →
    ∃ t, exec .webCheckSpan s = .next t ∧ t.web.dm = 0 ∧ t.web.dc = 0 ∧
      (t.web.checkMismatch = true ↔ s.web.checkWindow <
        (s.web.dm - Int.tdiv (s.web.dc * Int.ofNat s.web.checkNum) (Int.ofNat s.web.checkDen)).natAbs) ∧
      t.web.doubtRemain = (if t.web.checkMismatch = true then s.web.doubtSpan else s.web.doubtRemain)) ∧
  (∀ s : State, s.web.check = none ∨ s.web.master = none ∨ s.web.dm.natAbs < s.web.checkSpan →
    exec .webCheckSpan s = .next s) ∧
  (∀ s : State, s.web.doubtRemain = 0 → s.web.doubtOpen = true →
    ∃ t, exec .regDoubtEnd s = .next t ∧ t.web = { s.web with doubtOpen := false }) ∧
  (∀ s : State, s.web.doubtRemain ≠ 0 ∨ s.web.doubtOpen = false → exec .regDoubtEnd s = .next s) ∧
  (∀ s : State, s.web.master ≠ none →
    ∃ t, exec .gaitEval s = .next t ∧ t.web.gait = (evalSpeeds s).gaitNow ∧ t.web.hwm = s.web.hwm ∧
      t.web.chans = (evalSpeeds s).web.chans) ∧
  (∀ s : State, s.web.master = none → exec .gaitEval s = .next (evalSpeeds s)) ∧
  (∀ (s : State) (ch : Nat), ((s.chan ch).mode = .quadrature ∨ (s.chan ch).mode = .hall) →
    (s.chan ch).tLast + (s.chan ch).standstillMs * 1000000 ≤ s.time.now →
    ∃ t, exec (.standstillTimeout ch) s = .next t ∧ t.chan ch = { s.chan ch with stopped := true, speed := {} } ∧
      t.web.hwm = s.web.hwm) ∧
  (∀ (s : State) (ch : Nat), ((s.chan ch).mode ≠ .quadrature ∧ (s.chan ch).mode ≠ .hall) ∨
      s.time.now < (s.chan ch).tLast + (s.chan ch).standstillMs * 1000000 →
    exec (.standstillTimeout ch) s = .next s)

/-! ### Block PRN -/

/-- R145, R146, R151, R152, R158, R159, R64: what PRN_LAYER_BIND, PRN_TONE_LOAD and PRN_SCREEN_LOAD stage. A bound layer takes
the values of the descriptor, and a layer that held its Z takes the Z it had or becomes unbound; UNBIND leaves a layer unbound
and REBIND gives it another buffer. Tables and arrays are the bytes of the buffer at that time, or IDENTITY and DEFAULT; a table
whose reserved bytes are not 0 or an array with thresholds out of order is refused and nothing is staged; so is POST of a
channel that colour keeping holds, and a load for which the pool has no room. Nothing else staged changes, nor what is
committed. -/
def Obligations.PrintStaging : Prop :=
  (∀ (s : State) (k n : Nat), Accepted 0x0301 layerBindChecks k s → (s.slot k).u 9 1 = 1 → (s.slot k).u 8 1 = n →
    ∃ t, exec (.prnLayerBind k) s = .next t ∧ Completed k s t 0x00 0 0 ∧
      Tab.get {} t.staged.layers n =
        { bound := true, z := (s.slot k).u 10 1, overlay := decide ((s.slot k).u 11 1 = 1)
          policy := Policy.ofCode ((s.slot k).u 12 1), allowReduce := bitAt ((s.slot k).u 13 1) 0
          repeatX := bitAt ((s.slot k).u 13 1) 1, repeatY := bitAt ((s.slot k).u 13 1) 2, handle := (s.slot k).u 14 2
          scaleX := if (s.slot k).u 16 1 = 1 then 1 else if (s.slot k).u 16 1 = 2 then 2 else 4
          scaleY := if (s.slot k).u 17 1 = 1 then 1 else if (s.slot k).u 17 1 = 2 then 2 else 4
          filter := (s.slot k).u 18 1, covChannel := (s.slot k).u 19 1, xOrigin := (s.slot k).i 20 4
          yOrigin := (s.slot k).i 24 4, coverage := (s.slot k).u 28 4, chMap := (s.slot k).u 32 16 } ∧
      (∀ m, m ≠ n → ((Tab.get {} s.staged.layers m).bound = false ∨ (Tab.get {} s.staged.layers m).z ≠ (s.slot k).u 10 1) →
        Tab.get {} t.staged.layers m = Tab.get {} s.staged.layers m) ∧
      (∀ m, m ≠ n → (Tab.get {} s.staged.layers m).bound = true → (Tab.get {} s.staged.layers m).z = (s.slot k).u 10 1 →
        Tab.get {} t.staged.layers m = if (Tab.get {} s.staged.layers n).bound then
          { Tab.get {} s.staged.layers m with z := (Tab.get {} s.staged.layers n).z } else {}) ∧
      t.frames = { s.frames with staged := { s.frames.staged with prn := { s.staged with layers := t.staged.layers } } } ∧
      t.prn = s.prn) ∧
  (∀ (s : State) (k : Nat), Accepted 0x0301 layerBindChecks k s → (s.slot k).u 9 1 = 2 → 
    ∃ t, exec (.prnLayerBind k) s = .next t ∧ Completed k s t 0x00 0 0 ∧
      Tab.get {} t.staged.layers ((s.slot k).u 8 1) = {} ∧
      (∀ m, m ≠ (s.slot k).u 8 1 → Tab.get {} t.staged.layers m = Tab.get {} s.staged.layers m) ∧
      t.frames = { s.frames with staged := { s.frames.staged with prn := { s.staged with layers := t.staged.layers } } } ∧
      t.prn = s.prn) ∧
  (∀ (s : State) (k : Nat), Accepted 0x0301 layerBindChecks k s → (s.slot k).u 9 1 = 3 →
    ∃ t, exec (.prnLayerBind k) s = .next t ∧ Completed k s t 0x00 0 0 ∧
      Tab.get {} t.staged.layers ((s.slot k).u 8 1) =
        { Tab.get {} s.staged.layers ((s.slot k).u 8 1) with handle := (s.slot k).u 14 2 } ∧
      (∀ m, m ≠ (s.slot k).u 8 1 → Tab.get {} t.staged.layers m = Tab.get {} s.staged.layers m) ∧
      t.frames = { s.frames with staged := { s.frames.staged with prn := { s.staged with layers := t.staged.layers } } } ∧
      t.prn = s.prn) ∧
  (∀ (s : State) (k key : Nat) (tab : PrintCfg → Tab Loaded), Accepted 0x0302 toneChecks k s →
    (((s.slot k).u 8 1 = 1 ∧ tab = PrintCfg.pre ∧ key = (s.slot k).u 9 1 * 16 + (s.slot k).u 10 1) ∨
      ((s.slot k).u 8 1 = 2 ∧ tab = PrintCfg.post ∧ key = (s.slot k).u 10 1 ∧
        bitAt s.prn.colourHeld ((s.slot k).u 10 1) = false) ∨
      ((s.slot k).u 8 1 = 3 ∧ tab = PrintCfg.comp ∧ key = (s.slot k).u 10 1 * 64 + (s.slot k).u 11 1)) →
    (bitAt ((s.slot k).u 13 1) 0 = true ∨ ((s.slot k).u 12 1 ≤ s.tablesFree ∧ ∀ i, i < (s.slot k).u 12 1 →
      s.bufBytes ((s.slot k).u 14 2) ((s.slot k).u 16 8 + 2052 * i + 2050) 2 = [0, 0])) →
    ∃ t, exec (.prnToneLoad k) s = .next t ∧ Completed k s t 0x00 0 0 ∧
      (∀ i, i < (s.slot k).u 12 1 → (Tab.get {} (tab t.staged) (key + i)).data =
        if bitAt ((s.slot k).u 13 1) 0 = true then []
        else halfwords (s.bufBytes ((s.slot k).u 14 2) ((s.slot k).u 16 8 + 2052 * i) 2050)) ∧
      (∀ m, (m < key ∨ key + (s.slot k).u 12 1 ≤ m) → Tab.get {} (tab t.staged) m = Tab.get {} (tab s.staged) m) ∧
      ((s.slot k).u 8 1 ≠ 1 → t.staged.pre = s.staged.pre) ∧ ((s.slot k).u 8 1 ≠ 2 → t.staged.post = s.staged.post) ∧
      ((s.slot k).u 8 1 ≠ 3 → t.staged.comp = s.staged.comp) ∧
      t.frames = { s.frames with staged := { s.frames.staged with prn := { s.staged with
        pre := t.staged.pre, post := t.staged.post, comp := t.staged.comp } } }) ∧
  (∀ (s : State) (k : Nat), Accepted 0x0302 toneChecks k s → (s.slot k).u 8 1 = 2 →
    bitAt s.prn.colourHeld ((s.slot k).u 10 1) = true →
    ∃ t, exec (.prnToneLoad k) s = .next t ∧ Completed k s t 0x14 0x0902 0 ∧ Keeps (fun p => p == .slots || p == .records) s t) ∧
  (∀ (s : State) (k i : Nat), Accepted 0x0302 toneChecks k s →
    ((s.slot k).u 8 1 = 2 → bitAt s.prn.colourHeld ((s.slot k).u 10 1) = false) → bitAt ((s.slot k).u 13 1) 0 = false →
    i < 2052 * (s.slot k).u 12 1 → 2050 ≤ i % 2052 →
    s.bufBytes ((s.slot k).u 14 2) ((s.slot k).u 16 8 + i) 1 ≠ [0] →
    (∀ j, j < i → 2050 ≤ j % 2052 → s.bufBytes ((s.slot k).u 14 2) ((s.slot k).u 16 8 + j) 1 = [0]) →
    ∃ t, exec (.prnToneLoad k) s = .next t ∧ Completed k s t 0x11 0x0210 i ∧ Keeps (fun p => p == .slots || p == .records) s t) ∧
  (∀ (s : State) (k : Nat), Accepted 0x0302 toneChecks k s →
    ((s.slot k).u 8 1 = 2 → bitAt s.prn.colourHeld ((s.slot k).u 10 1) = false) → bitAt ((s.slot k).u 13 1) 0 = false →
    s.tablesFree < (s.slot k).u 12 1 → (∀ i, i < (s.slot k).u 12 1 →
      s.bufBytes ((s.slot k).u 14 2) ((s.slot k).u 16 8 + 2052 * i + 2050) 2 = [0, 0]) →
    ∃ t, exec (.prnToneLoad k) s = .next t ∧ Completed k s t 0x14 0x0304 0 ∧ Keeps (fun p => p == .slots || p == .records) s t) ∧
  (∀ (s : State) (k : Nat), Accepted 0x0303 screenChecks k s → (s.slot k).u 9 1 = 1 → 0 < s.arraysFree →
    badCell 0 (halfwords (s.bufBytes ((s.slot k).u 10 2) ((s.slot k).u 16 8) 393216)) = none →
    ∃ t, exec (.prnScreenLoad k) s = .next t ∧ Completed k s t 0x00 0 0 ∧
      (Tab.get {} t.staged.arrays ((s.slot k).u 8 1)).data =
        halfwords (s.bufBytes ((s.slot k).u 10 2) ((s.slot k).u 16 8) 393216) ∧
      (∀ m, m ≠ (s.slot k).u 8 1 → Tab.get {} t.staged.arrays m = Tab.get {} s.staged.arrays m) ∧
      t.frames = { s.frames with staged := { s.frames.staged with prn := { s.staged with arrays := t.staged.arrays } } }) ∧
  (∀ (s : State) (k st det res : Nat), Accepted 0x0303 screenChecks k s → (s.slot k).u 9 1 = 1 →
    ((badCell 0 (halfwords (s.bufBytes ((s.slot k).u 10 2) ((s.slot k).u 16 8) 393216)) = some res ∧ st = 0x11 ∧ det = 0x0110) ∨
      (badCell 0 (halfwords (s.bufBytes ((s.slot k).u 10 2) ((s.slot k).u 16 8) 393216)) = none ∧ s.arraysFree = 0 ∧
        st = 0x14 ∧ det = 0x0304 ∧ res = 0)) →
    ∃ t, exec (.prnScreenLoad k) s = .next t ∧ Completed k s t st det res ∧
      Keeps (fun p => p == .slots || p == .records) s t) ∧
  (∀ (s : State) (k : Nat), Accepted 0x0303 screenChecks k s → (s.slot k).u 9 1 = 2 →
    ∃ t, exec (.prnScreenLoad k) s = .next t ∧ Completed k s t 0x00 0 0 ∧
      Tab.get {} t.staged.arrays ((s.slot k).u 8 1) = {} ∧
      (∀ m, m ≠ (s.slot k).u 8 1 → Tab.get {} t.staged.arrays m = Tab.get {} s.staged.arrays m) ∧
      t.frames = { s.frames with staged := { s.frames.staged with prn := { s.staged with arrays := t.staged.arrays } } }) ∧
  (∀ (s : State) (k : Nat), Accepted 0x0303 screenChecks k s → (s.slot k).u 9 1 = 3 → 
    ∃ t, exec (.prnScreenLoad k) s = .next t ∧ Completed k s t 0x00 0 0 ∧
      Tab.get {} t.staged.screens ((s.slot k).u 8 1) =
        { phaseX := (s.slot k).u 24 1, phaseY := (s.slot k).u 25 1, stepX := (s.slot k).u 26 1, stepY := (s.slot k).u 27 1
          gain := (s.slot k).u 28 2, reach := (s.slot k).u 30 1 } ∧
      (∀ m, m ≠ (s.slot k).u 8 1 → Tab.get {} t.staged.screens m = Tab.get {} s.staged.screens m) ∧
      t.frames = { s.frames with staged := { s.frames.staged with prn := { s.staged with screens := t.staged.screens } } })

/-- R133 to R135, R28: PRN_JOB_OPEN opens the job of the descriptor with no layer bound, no commit and its first frame
OPEN; its first line is the one asked for, or the earliest multiple of 32 far enough ahead of the bars. R131, R136,
R137, R138: PRN_JOB_CLOSE sets the last frame of the job: the one named, or with AT_CUT, or where the one named has
left OPEN long ago, the latest frame that has left OPEN, which in the second case is late; a last frame set before
stands where it is the earlier. Commits beyond it are dropped, and the job ends once that frame is COMPLETE, at once
where it is already. With no frame cut, AT_CUT and a last frame before the first close the job at once. PRN_ABORT ends
every frame of the job and closes it. Where these rules leave a point open, the model's choice is in log 22, 23 and
63. -/
def Obligations.JobOpensAndEnds : Prop :=
  (∀ (s : State) (k : Nat), Accepted 0x0300 jobOpenChecks k s →
    ∃ t, exec (.prnJobOpen k) s = .next t ∧ Completed k s t 0x00 0 (unsigned 32 t.prn.job.nFirst) ∧
      t.prn.job.isOpen = true ∧ t.prn.job.jobId = (s.slot k).u 8 4 ∧
      t.prn.job.firstFrame = BitVec.ofNat 32 ((s.slot k).u 12 4) ∧ t.prn.job.frameLines = (s.slot k).u 24 4 ∧
      t.prn.job.bars = (s.slot k).u 32 2 ∧ t.prn.job.stripK = (if (s.slot k).u 30 1 = 0 then 16 else (s.slot k).u 30 1) ∧
      t.frames.nCut = (if (s.slot k).u 28 1 = 0 then 4 else (s.slot k).u 28 1) ∧
      t.frames.openFirst = BitVec.ofNat 32 ((s.slot k).u 12 4) ∧ t.frames.commits = [] ∧ t.staged.layers = [] ∧
      t.frames.genLast = s.frames.genLast ∧ t.top.dev = s.top.dev ∧
      ((s.slot k).u 44 4 = 0 → t.prn.job.closing = false) ∧
      (0 < (s.slot k).u 44 4 → t.prn.job.closing = true ∧
        t.prn.job.lastFrame = BitVec.ofNat 32 ((s.slot k).u 12 4 + (s.slot k).u 44 4 - 1)) ∧
      ((s.slot k).u 29 1 = 1 → t.prn.job.nFirst = (s.slot k).i 16 8) ∧
      ((s.slot k).u 29 1 = 0 → t.prn.job.nFirst % 32 = 0 ∧
        s.nowLine ((s.slot k).u 32 2) + 32 * Int.ofNat (t.frames.nCut + 2) ≤ t.prn.job.nFirst ∧
        t.prn.job.nFirst < s.nowLine ((s.slot k).u 32 2) + 32 * Int.ofNat (t.frames.nCut + 2) + 32)) ∧
  (∀ (s : State) (k : Nat) (want last : FrameNo) (late : Bool), Accepted 0x0305 jobCloseChecks k s →
    ¬ (s.frames.openFirst = s.prn.job.firstFrame ∧ (bitAt ((s.slot k).u 16 1) 0 = true ∨
      FrameNo.later s.prn.job.firstFrame (BitVec.ofNat 32 ((s.slot k).u 12 4)) = true)) →
    late = decide (bitAt ((s.slot k).u 16 1) 0 = false ∧ s.frames.openFirst ≠ s.prn.job.firstFrame ∧
      FrameNo.later (s.frames.openFirst - 1) (BitVec.ofNat 32 ((s.slot k).u 12 4)) = true) →
    want = (if bitAt ((s.slot k).u 16 1) 0 = true ∨ late = true then s.frames.openFirst - 1
      else BitVec.ofNat 32 ((s.slot k).u 12 4)) →
    last = (if s.prn.job.closing = true ∧ FrameNo.later want s.prn.job.lastFrame = true then s.prn.job.lastFrame else want) →
    ∃ t, exec (.prnJobClose k) s = .next t ∧ Completed k s t (if late then 0x02 else 0x01) (s.beyond last) 0 ∧
      (s.phase last ≠ .complete → t.prn.job.isOpen = true ∧ t.prn.job.closing = true ∧ t.prn.job.lastFrame = last ∧
        (last ≠ s.prn.job.lastFrame ∨ s.prn.job.closing = false → t.prn.job.reason = .close ∧
          t.frames.commits = s.frames.commits.filter fun c => !FrameNo.later c.applied last) ∧
        t.frames.recs = s.frames.recs) ∧
      (s.phase last = .complete → t.prn.job.isOpen = false ∧ t.frames.commits = [] ∧ t.frames.bands = [] ∧
        (s.top.dev = .run → t.top.dev = .armed) ∧ (s.top.dev ≠ .run → t.top.dev = s.top.dev))) ∧
  (∀ (s : State) (k : Nat), Accepted 0x0305 jobCloseChecks k s → s.frames.openFirst = s.prn.job.firstFrame →
    (bitAt ((s.slot k).u 16 1) 0 = true ∨
      FrameNo.later s.prn.job.firstFrame (BitVec.ofNat 32 ((s.slot k).u 12 4)) = true) →
    ∃ t, exec (.prnJobClose k) s = .next t ∧ Completed k s t 0x00 (s.beyond (s.prn.job.firstFrame - 1)) 0 ∧
      t.prn.job.isOpen = false ∧ t.frames.commits = [] ∧ t.frames.bands = [] ∧
      (s.top.dev = .run → t.top.dev = .armed) ∧ (s.top.dev ≠ .run → t.top.dev = s.top.dev)) ∧
  (∀ (s : State) (k : Nat), Accepted 0x0306 abortChecks k s →
    ∃ t, exec (.prnAbort k) s = .next t ∧ Completed k s t 0x00 0 0 ∧ t.prn.job.isOpen = false ∧ t.frames.commits = [] ∧
      t.frames.bands = [] ∧ (∀ f, s.phase f = .cut ∨ s.phase f = .delivering → t.phase f = .complete) ∧ t.staged = s.staged ∧ (s.top.dev = .run → t.top.dev = .armed) ∧
      (s.top.dev ≠ .run → t.top.dev = s.top.dev))

/-- R109, R110, R112, R118: a commit that passes its checks takes the next generation at its applied frame, which is
neither before the earliest OPEN frame nor before that of the commit before it; it completes late if that is not the
frame asked for. The print configuration it commits is what is staged, but for the vertical taps that the fit of R126
leaves a layer. A commit of a HITCH takes no generation until the hitch has decided: it goes on executing, holds the
configuration staged when it began, and proposes its frame. R115: a commit that fails a check completes with the
status of that check and changes nothing else. Where these rules leave a point open, the model's choice is in log 22,
23 and 63. -/
def Obligations.PrintCommits : Prop :=
  (∀ (s : State) (k : Nat) (a : FrameNo), Accepted 0x0304 prnCommitChecks k s → (s.slot k).hitch = false →
    s.commitFailure s.newCfg = none → a = s.frames.applied (s.slot k).nextOpen (s.slot k).target →
    ∃ t, exec (.prnCommit k) s = .next t ∧
      Completed k s t (if (s.slot k).nextOpen = true ∨ a = (s.slot k).target then 0x00 else 0x02) 0
        (s.frames.genLast + 1).toNat ∧
      t.frames.genLast = s.frames.genLast + 1 ∧ t.frames.prevApplied = some a ∧
      (s.frames.prevApplied = none → FrameNo.later s.frames.openFirst a = false) ∧
      (∀ p, s.frames.prevApplied = some p → FrameNo.later p a = false) ∧
      (∃ c, t.frames.commits = s.frames.commits ++ [c] ∧ c.gen = s.frames.genLast + 1 ∧ c.applied = a ∧
        c.cfg.prn = { s.staged with layers := c.cfg.prn.layers } ∧
        ∀ n, ∃ v, Tab.get (α := Layer) {} c.cfg.prn.layers n = { Tab.get (α := Layer) {} s.staged.layers n with vtaps := v }) ∧
      t.frames.staged = s.frames.staged ∧ t.frames.openFirst = s.frames.openFirst ∧ t.prn = s.prn) ∧
  (∀ (s : State) (k m : Nat), Accepted 0x0304 prnCommitChecks k s → (s.slot k).hitch = true →
    s.commitFailure s.newCfg = none → m < 16 → m ≠ s.time.hitch.member → bitAt s.time.hitch.mask m = true →
    (∀ p ∈ s.time.hitch.proposals, p.member ≠ m ∨ p.frame ≠ (s.slot k).target.toNat) →
    ∃ t, exec (.prnCommit k) s = .next t ∧ (t.slot k).phase = .executing ∧
      t.frames = { s.frames with hitch := s.frames.hitch ++ [⟨k, (s.slot k).id, 0x0304, false, (s.slot k).target, s.uptime,
        s.uptime, s.newCfg⟩] } ∧
      s.proposal (s.slot k).target ∈ t.time.hitch.proposals ∧ t.cmd.cpl = s.cmd.cpl) ∧
  (∀ (s : State) (k st det res : Nat), Accepted 0x0304 prnCommitChecks k s →
    s.commitFailure s.newCfg = some (st, det, res) →
    ∃ t, exec (.prnCommit k) s = .next t ∧ Completed k s t st det res ∧
      Keeps (fun p => p == .slots || p == .records) s t)

/-! ### Events of the event ring -/

/-- R58, R59, R60: an event raised while the event ring is off waits at the end of the backlog with the next sequence number,
its source, code, time and data; a disabled one, or one before READY, leaves no trace and takes no number; one raised while
others wait and the backlog is full is lost and counted, a FRAME_RECORD in its own count too, and its number stays missing. -/
def Obligations.EventsRaised : Prop :=
  (∀ (s : State) (src code : Nat) (data : List Byte), Queues s src code →
    Waits (raise src code data s) src code data ∧
      (∃ e, (raise src code data s).cmd.backlog = s.cmd.backlog ++ [e] ∧ e.seq = s.cmd.evtSeq.toNat ∧ e.time = s.time.now ∧
        e.source = src ∧ e.code = code ∧ e.data = data) ∧
      (raise src code data s).cmd.evtSeq = s.cmd.evtSeq + 1 ∧ (raise src code data s).hostMem = s.hostMem) ∧
  (∀ (s : State) (src code : Nat) (data : List Byte), (s.evtMasked src code || s.beforeReady) = true →
    raise src code data s = s) ∧
  (∀ (s : State) (src code : Nat) (data : List Byte), s.evtMasked src code = false → s.beforeReady = false →
    s.cmd.backlog ≠ [] → backlogRecords s.cmd.backlog = 4096 →
    (raise src code data s).cmd.backlog = s.cmd.backlog ∧
      (raise src code data s).cmd.lostAll = Nat.min 65535 (s.cmd.lostAll + 1) ∧
      (raise src code data s).cmd.lostFrame =
        Nat.min 65535 (s.cmd.lostFrame + if (src = 3 ∨ src = 7) ∧ code = 0x0100 then 1 else 0) ∧
      (raise src code data s).cmd.evtSeq = s.cmd.evtSeq + 1)

/-! ### Block FIRE -/

/-- R165 to R170, R173, R190, R196, R197: what the FIRE commands stage: a bar's map as its image says, with the count of nozzles
it brings as RESULT; patterns and stitch patterns, loaded or cleared; the records of a run of nozzles, one for all or one each;
a firing timing; a spit window. An image that fails its checks, a map that brings more nozzles than the part has, one of another
shape than the job's, a load beyond the pool, and a faulty nozzle record are refused and change nothing. -/
def Obligations.FireCommands : Prop :=
  (∀ (s : State) (k b : Nat) (img : List Byte) (c : PrintCfg), Accepted 0x0400 mapLoadChecks k s → (s.slot k).u 8 1 = b →
    img = mapImage (s.slot k) s → c = { s.staged with maps := Tab.put {} s.staged.maps b (readMap img) } →
    (mapFieldFault img = none → mapLength img ≤ img.length → mapFault s c b (readMap img) = none →
      c.nozzleCount ≤ s.fuse.part.nozzleLimit →
      (s.jobBars.contains b = false ∨ s.staged.hasMap b = false ∨ (s.staged.map b).sameShape (readMap img) = true) →
      ∃ t, exec (.fireMapLoad k) s = .next t ∧ Completed k s t 0x00 0 c.nozzleCount ∧ t.staged = c ∧ t.staged.map b = readMap img ∧
        (∀ n, n ≠ b → t.staged.map n = s.staged.map n) ∧ t.frames.commits = s.frames.commits) ∧
    (∀ st det res : Nat,
      ((∃ f, mapFieldFault img = some f ∧ st = 0x11 ∧ det = 16 + 256 * f.2 ∧ res = f.1) ∨
        (mapFieldFault img = none ∧ img.length < mapLength img ∧ st = 0x11 ∧ det = 0x0110 ∧ res = 5) ∨
        (mapFieldFault img = none ∧ mapLength img ≤ img.length ∧ mapFault s c b (readMap img) = some res ∧ st = 0x11 ∧
          det = 0x0110) ∨
        (mapFieldFault img = none ∧ mapLength img ≤ img.length ∧ mapFault s c b (readMap img) = none ∧
          s.fuse.part.nozzleLimit < c.nozzleCount ∧ st = 0x11 ∧ det = 0x0710 ∧ res = c.nozzleCount)) →
      ∃ t, exec (.fireMapLoad k) s = .next t ∧ Completed k s t st det res ∧ Keeps (fun p => p == .slots || p == .records) s t) ∧
    (mapFieldFault img = none → mapLength img ≤ img.length → mapFault s c b (readMap img) = none →
      c.nozzleCount ≤ s.fuse.part.nozzleLimit → s.jobBars.contains b = true → s.staged.hasMap b = true →
      (s.staged.map b).sameShape (readMap img) = false →
      ∃ t, exec (.fireMapLoad k) s = .next t ∧ Completed k s t 0x12 s.top.dev.code 0 ∧
        Keeps (fun p => p == .slots || p == .records) s t)) ∧
  (∀ (s : State) (k b n : Nat), Accepted 0x0401 maskLoadChecks k s → (s.slot k).u 8 1 = b → (s.slot k).u 10 1 = n →
    ((s.slot k).u 9 1 = 1 → 1 ≤ s.tablesFree →
      ∃ t, exec (.fireMaskLoad k) s = .next t ∧ Completed k s t 0x00 0 0 ∧ t.prn.nextLoad = s.prn.nextLoad + 1 ∧
        Tab.get {} t.staged.patterns (b * 16 + n) =
          ⟨s.prn.nextLoad, (s.bufBytes ((s.slot k).u 12 2) ((s.slot k).u 16 8) 512).map BitVec.toNat⟩ ∧
        (∀ i, i ≠ b * 16 + n → Tab.get {} t.staged.patterns i = Tab.get {} s.staged.patterns i) ∧
        t.staged.stitch = s.staged.stitch) ∧
    ((s.slot k).u 9 1 = 2 → 2 ≤ s.tablesFree →
      ∃ t, exec (.fireMaskLoad k) s = .next t ∧ Completed k s t 0x00 0 0 ∧ t.prn.nextLoad = s.prn.nextLoad + 1 ∧
        Tab.get {} t.staged.stitch b =
          ⟨s.prn.nextLoad, (s.bufBytes ((s.slot k).u 12 2) ((s.slot k).u 16 8) 4096).map BitVec.toNat⟩ ∧
        (∀ i, i ≠ b → Tab.get {} t.staged.stitch i = Tab.get {} s.staged.stitch i) ∧
        t.staged.patterns = s.staged.patterns) ∧
    (((s.slot k).u 9 1 = 1 ∧ s.tablesFree < 1) ∨ ((s.slot k).u 9 1 = 2 ∧ s.tablesFree < 2) →
      ∃ t, exec (.fireMaskLoad k) s = .next t ∧ Completed k s t 0x14 0x0304 0 ∧
        Keeps (fun p => p == .slots || p == .records) s t) ∧
    ((s.slot k).u 9 1 = 3 →
      ∃ t, exec (.fireMaskLoad k) s = .next t ∧ Completed k s t 0x00 0 0 ∧ Tab.get {} t.staged.patterns (b * 16 + n) = {} ∧
        (∀ i, i ≠ b * 16 + n → Tab.get {} t.staged.patterns i = Tab.get {} s.staged.patterns i) ∧
        t.staged.stitch = s.staged.stitch ∧ t.prn = s.prn) ∧
    ((s.slot k).u 9 1 = 4 →
      ∃ t, exec (.fireMaskLoad k) s = .next t ∧ Completed k s t 0x00 0 0 ∧ Tab.get {} t.staged.stitch b = {} ∧
        (∀ i, i ≠ b → Tab.get {} t.staged.stitch i = Tab.get {} s.staged.stitch i) ∧
        t.staged.patterns = s.staged.patterns ∧ t.prn = s.prn)) ∧
  (∀ (s : State) (k first cnt : Nat) (recs : List Nat), Accepted 0x0402 nozzleChecks k s → (s.slot k).u 12 2 = first →
    (s.slot k).u 14 2 = cnt →
    recs = (if (s.slot k).u 9 1 = 1 then halfwords (s.bufBytes ((s.slot k).u 18 2) ((s.slot k).u 24 8) (2 * cnt))
      else List.replicate cnt ((s.slot k).u 16 2)) →
    ((∀ i, i < cnt → recordFault (recs.getD i 0) = none) →
      ∃ t, exec (.fireNozzleState k) s = .next t ∧ Completed k s t 0x00 0 0 ∧
        (∀ i, i < cnt →
          Tab.get nozzleDefault t.staged.nozzles ((s.slot k).u 8 1 * 32768 + first + i) = recs.getD i 0) ∧
        (∀ m, (m < (s.slot k).u 8 1 * 32768 + first ∨ (s.slot k).u 8 1 * 32768 + first + cnt ≤ m) →
          Tab.get nozzleDefault t.staged.nozzles m = Tab.get nozzleDefault s.staged.nozzles m)) ∧
    (∀ i rsn, i < cnt → recordFault (recs.getD i 0) = some rsn → (∀ j, j < i → recordFault (recs.getD j 0) = none) →
      ∃ t, exec (.fireNozzleState k) s = .next t ∧
        Completed k s t 0x11 ((if (s.slot k).u 9 1 = 1 then 24 else 16) + 256 * rsn) (first + i) ∧
        Keeps (fun p => p == .slots || p == .records) s t)) ∧
  (∀ (s : State) (k : Nat), Accepted 0x0403 timingChecks k s →
    ∃ t, exec (.fireTiming k) s = .next t ∧ Completed k s t 0x00 0 0 ∧
      t.staged.timingOf ((s.slot k).u 8 1) =
        { groups := (s.slot k).u 9 1, stride := (s.slot k).u 10 1, kwOn := (s.slot k).u 11 1 == 1, preBase := (s.slot k).u 12 2,
          preStep := (s.slot k).u 14 1, preGap := (s.slot k).u 15 1, mainLow := (s.slot k).u 16 2, mainNom := (s.slot k).u 18 2,
          mainHigh := (s.slot k).u 20 2, slotGuard := (s.slot k).u 22 1, whipStep := (s.slot k).u 23 1,
          seqGuard := (s.slot k).u 24 2, colBDelay := (s.slot k).u 26 2, kwIdleUs := (s.slot k).u 28 2,
          kwRate := (s.slot k).u 30 2 } ∧
      (∀ n, n ≠ (s.slot k).u 8 1 → t.staged.timingOf n = s.staged.timingOf n) ∧ t.frames.commits = s.frames.commits) ∧
  (∀ (s : State) (k : Nat), Accepted 0x0404 spitChecks k s → (s.slot k).u 9 1 = 1 →
    ∃ t, exec (.fireSpitConfig k) s = .next t ∧ Completed k s t 0x00 0 0 ∧
      Tab.get {} t.staged.spit ((s.slot k).u 8 1) =
        { lines := (s.slot k).u 10 2, idleLines := (s.slot k).u 12 4, dot := (s.slot k).u 16 1 } ∧
      (∀ n, n ≠ (s.slot k).u 8 1 → Tab.get {} t.staged.spit n = Tab.get {} s.staged.spit n) ∧ t.fire = s.fire)

/-- R192, R198: a purge of a bar of no job and not being purged starts and completes deferred; the bar's claimed nodes
are kept in Halter. A purge of a bar of the open job, or of one being purged, is refused as busy. The end of a purge,
or its abort, is reported with the count of sequences fired; before it PURGE_DONE does nothing. R176: the oldest bank
write of a node of the job's bars starts once the last line of the frame that used the bank has fired there, in both
columns: the bank's bytes are written by control requests. Before that, with none waiting, with one already started,
or for a node that is not claimed, nothing happens. Where these rules leave a point open, the model's choice is in log
25 and 64. -/
def Obligations.PurgesAndBankWrites : Prop :=
  (∀ (s : State) (k b : Nat), Accepted 0x0404 spitChecks k s → (s.slot k).u 9 1 = 2 → (s.slot k).u 8 1 = b →
    (s.jobBars.contains b = false → (s.fireBar b).purging = false →
      ∃ t, exec (.fireSpitConfig k) s = .next t ∧ Completed k s t 0x01 0 0 ∧
        (t.fireBar b).purging = true ∧ (t.fireBar b).purgeCount = (s.slot k).u 20 4 ∧
        (t.fireBar b).purgeRate = (s.slot k).u 24 2 ∧ (t.fireBar b).purgeStart = s.uptime ∧
        (t.fireBar b).purgeAborted = none ∧ t.frames = s.frames ∧ (∀ n, n ≠ b → t.fireBar n = s.fireBar n) ∧
        ∀ n ∈ (s.staged.map b).nodes, s.claimed (n.node / 8) = true → (t.node n.node).toHalter = true) ∧
    (s.jobBars.contains b = true →
      ∃ t, exec (.fireSpitConfig k) s = .next t ∧ Completed k s t 0x14 0x0300 0 ∧
        Keeps (fun p => p == .slots || p == .records) s t) ∧
    (s.jobBars.contains b = false → (s.fireBar b).purging = true →
      ∃ t, exec (.fireSpitConfig k) s = .next t ∧ Completed k s t 0x14 0x0404 0 ∧
        Keeps (fun p => p == .slots || p == .records) s t)) ∧
  (∀ (s : State) (b : Nat), (s.fireBar b).purging = true → (s.fireBar b).purgeAborted = none →
    (s.fireBar b).pulses s.uptime = (s.fireBar b).purgeCount → Queues s 4 0x0003 →
    ∃ t, exec (.purgeDone b) s = .next t ∧ (t.fireBar b).purging = false ∧ (∀ n, n ≠ b → t.fireBar n = s.fireBar n) ∧
      Waits t 4 0x0003 (le 1 b ++ le 1 0 ++ le 4 (s.fireBar b).purgeCount)) ∧
  (∀ (s : State) (b n : Nat), (s.fireBar b).purging = true → (s.fireBar b).purgeAborted = some n → Queues s 4 0x0003 →
    ∃ t, exec (.purgeDone b) s = .next t ∧ (t.fireBar b).purging = false ∧ (∀ m, m ≠ b → t.fireBar m = s.fireBar m) ∧
      Waits t 4 0x0003 (le 1 b ++ le 1 1 ++ le 4 n)) ∧
  (∀ (s : State) (b : Nat), ((s.fireBar b).purging = false ∨
      (s.fireBar b).purgeAborted = none ∧ (s.fireBar b).pulses s.uptime ≠ (s.fireBar b).purgeCount) →
    exec (.purgeDone b) s = .next s) ∧
  (∀ (s : State) (b n : Nat) (w : BankWrite) (ws : List BankWrite), s.frames.latest.prn.barOf n = some b →
    (s.banks n).writes = w :: ws → w.started = false →
    (∀ f, w.after = some f → s.lineFired b (s.lastLineOf f) w.span = true) → s.claimed (n / 8) = true →
    ∃ t, exec (.bankWriteStart n) s = .next t ∧ (∃ w', (t.banks n).writes = w' :: ws ∧ w'.started = true ∧
        w'.bank = w.bank ∧ w'.content = w.content) ∧ (t.banks n).cur = (s.banks n).cur ∧
      (∀ m, m ≠ n → t.banks m = s.banks m ∧ t.node m = s.node m) ∧ t.frames = s.frames) ∧
  (∀ (s : State) (b n : Nat), s.frames.latest.prn.barOf n = some b →
    ((s.banks n).writes = [] ∨ s.claimed (n / 8) = false ∨
      ∃ w ws, (s.banks n).writes = w :: ws ∧
        (w.started = true ∨ ∃ f, w.after = some f ∧ s.lineFired b (s.lastLineOf f) w.span = false)) →
    exec (.bankWriteStart n) s = .next s) ∧
  (∀ (s : State) (n : Nat), s.frames.latest.prn.barOf n = none → exec (.bankWriteStart n) s = .next s)

/-! ### Frames -/

/-- R119, R161, R162, R178: in print, a free engine takes the waiting band with the earliest fetch point, under the
tag the frame has then; a band rendered whose tag is still current is complete, one whose tag is not waits again, and
one whose fetch point has passed is dropped; at a bar's fetch point the frame is DELIVERING and the bar's next band is
the one after. An engine that is busy or absent takes none; an engine not through with its band keeps it; before a
fetch point nothing is fetched. R108, R116, R118, R121, R123: at the cutoff of the earliest OPEN frame, in print, that
frame is CUT with the generation and the readiness decided then, its buffers are among its pins, and the next frame is
the earliest OPEN one. Before the cutoff nothing happens. Where these rules leave a point open, the model's choice is
in log 24 and 63. -/
def Obligations.PrintBandsAndCutoff : Prop :=
  (∀ (s : State) (e : Nat) (d : Int) (x : Band), s.engineFree e = true → s.prn.job.isOpen = true →
    earliest s.waitingBands = some (d, x) →
    ∃ t, exec (.bandDispatch e) s = .next t ∧
      (∃ y ∈ t.frames.bands, y.phase = .rendering ∧ y.engine = e ∧ y.frame = x.frame ∧ y.bar = x.bar ∧ y.band = x.band ∧
        y.gen = s.genOf x.frame ∧ y.mask = s.readyOf x.frame ∧ y.renderStart = s.uptime) ∧
      (∀ z ∈ s.waitingBands, d ≤ z.1) ∧ t.prn = s.prn) ∧
  (∀ (s : State) (e : Nat), (s.engineFree e = false ∨ (s.prn.job.isOpen = true ∧ earliest s.waitingBands = none) ∨
      (s.prn.job.isOpen = false ∧ s.scanning = false)) → exec (.bandDispatch e) s = .next s) ∧
  (∀ (s : State) (e : Nat) (x : Band), s.top.mode = .print →
    (s.frames.bands.find? fun y => y.phase == .rendering && y.engine == e) = some x → s.memStalled = false →
    s.renderDue x = true →
    (x.fetched = false → s.tagOk x = true →
      ∃ t, exec (.bandRenderEnd e) s = .next t ∧
        (∃ y ∈ t.frames.bands, y.same x = true ∧ y.phase = .complete ∧ y.lines = (s.renderBand x).lines) ∧
        t.frames.commits = s.frames.commits) ∧
    (x.fetched = false → s.tagOk x = false → (s.phase x.frame = .opened ∨ s.phase x.frame = .cut) →
      ∃ t, exec (.bandRenderEnd e) s = .next t ∧ (∃ y ∈ t.frames.bands, y.same x = true ∧ y.phase = .queued) ∧
        t.frames.commits = s.frames.commits) ∧
    (x.fetched = true →
      ∃ t, exec (.bandRenderEnd e) s = .next t ∧ (∀ y ∈ t.frames.bands, y.same x = true → y.phase ≠ .rendering) ∧
        t.frames.commits = s.frames.commits)) ∧
  (∀ (s : State) (e : Nat), (∀ x, (s.frames.bands.find? fun y => y.phase == .rendering && y.engine == e) = some x →
      s.memStalled = true ∨ s.renderDue x = false) → exec (.bandRenderEnd e) s = .next s) ∧
  (∀ (s : State) (b : Nat), s.fetchDue b = true →
    ∃ t, exec (.bandFetchPoint b) s = .next t ∧
      Tab.get (0, 0) t.frames.fetch b = s.bandAfter (Tab.get (0, 0) s.frames.fetch b) ∧
      (∀ c, c ≠ b → Tab.get (0, 0) t.frames.fetch c = Tab.get (0, 0) s.frames.fetch c) ∧
      (s.phase (s.nextFetch b).1 = .cut → t.phase (s.nextFetch b).1 = .delivering ∧
        t.prn.job.delivered = some (s.nextFetch b).1)) ∧
  (∀ (s : State) (b : Nat), s.scanning = false → s.fetchDue b = false → exec (.bandFetchPoint b) s = .next s) ∧
  (∀ (s : State) (f : FrameNo), s.top.mode = .print → f = s.frames.openFirst → s.printCutoffDue f = true →
    ∃ t, exec .frameCutoff s = .next t ∧ t.frames.openFirst = f + 1 ∧ t.phase f = .cut ∧ t.frames.genCut = s.genOf f ∧
      (t.frame f).gen = s.genOf f ∧ (t.frame f).skipped = (s.readiness f).skip ∧
      ((s.readiness f).skip = true → bitAt (t.frame f).flags Flag.frameSkipped.bit = true ∧ (t.frame f).pins = []) ∧
      ((s.readiness f).skip = false → ∀ h, h ∈ (s.readiness f).bufs.map (·.2) → h ∈ (t.frame f).pins)) ∧
  (∀ s : State, s.top.mode = .print → s.printCutoffDue s.frames.openFirst = false → exec .frameCutoff s = .next s)

/-- R108, R123, R125, R127, R130, R221: a print frame that has left every feeder is COMPLETE and pins nothing; its
record is written once every earlier frame has its own and its content checks are over, and a standby writes it only
once its partner has, leaving the event out; a content check that ends is taken off the frame's list and marks the
frame where the content has changed or is poisoned; a node that has not reported the last line of a frame is waited
for 2 ms. Until then each does nothing. Where these rules leave a point open, the model's choice is in log 23 and 63.
-/
def Obligations.FramesComplete : Prop :=
  (∀ (s : State) (f : FrameNo), s.prn.job.isOpen = true → s.printDone f = true →
    FrameNo.notBefore f s.frames.openFirst = false →
    ∃ t, exec (.frameComplete f) s = .next t ∧ t.phase f = .complete ∧ (t.frame f).pins = [] ∧
      (t.frame f).tEnd = s.time.now) ∧
  (∀ (s : State) (f : FrameNo), ((s.prn.job.isOpen = true ∧ s.printDone f = false) ∨
      (s.prn.job.isOpen = false ∧ s.scanning = false)) → exec (.frameComplete f) s = .next s) ∧
  (∀ (s : State) (f : FrameNo), s.recordDue f = true → s.recordQuiet f = false →
    ∃ t, exec (.frameRecord f) s = .next t ∧ t.frame f = {} ∧ t.frames.frameLast = f ∧
      (∀ g, g ≠ f → t.frame g = s.frame g) ∧
      ∀ src, src = (if s.top.mode = .lightfield then 7 else 3) → Queues s src 0x0100 →
        ∃ e ∈ t.cmd.backlog, e.source = src ∧ e.code = 0x0100 ∧ e.frame = true ∧ e.data.take 4 = le 4 f.toNat) ∧
  (∀ (s : State) (f : FrameNo), s.recordDue f = true → s.recordQuiet f = true → (s.shadow = true → s.partnerWrote f = true) →
    ∃ t, exec (.frameRecord f) s = .next t ∧ t.frame f = {} ∧ t.frames.frameLast = s.frames.frameLast ∧
      ∀ g, g ≠ f → t.frame g = s.frame g) ∧
  (∀ (s : State) (f : FrameNo), (s.recordDue f = false ∨ (s.shadow = true ∧ s.partnerWrote f = false)) →
    exec (.frameRecord f) s = .next s) ∧
  (∀ (s : State) (f : FrameNo) (h : Nat) (c : Nat × Nat), (s.frame f).checks.find? (fun c => c.1 == h) = some c →
    ∃ t, exec (.contentCheckDone f h) s = .next t ∧ (t.frame f).checks = (s.frame f).checks.erase c ∧
      (∀ g, g ≠ f → t.frame g = s.frame g) ∧
      (s.poisoned (s.buf h).base (s.buf h).size = false →
        crc32 (s.dram.bytes (s.buf h).base (s.buf h).size) = (s.buf h).crc → (t.frame f).flags = (s.frame f).flags) ∧
      (s.poisoned (s.buf h).base (s.buf h).size = true → bitAt (t.frame f).flags Flag.dataPoisoned.bit = true) ∧
      ((s.poisoned (s.buf h).base (s.buf h).size = true ∨
          crc32 (s.dram.bytes (s.buf h).base (s.buf h).size) ≠ (s.buf h).crc) →
        bitAt (t.frame f).flags Flag.contentChanged.bit = true ∧ (t.frame f).changed ≤ h)) ∧
  (∀ (s : State) (f : FrameNo) (h : Nat), (s.frame f).checks.find? (fun c => c.1 == h) = none →
    exec (.contentCheckDone f h) s = .next s) ∧
  (∀ (s : State) (n : Nat), ∃ t, exec (.lastTickTimeout n) s = .next t ∧
    ∀ f : FrameNo, ((∃ e ∈ (s.frame f).nodesLeft, e.1 = n ∧ e.2 + 2000000 ≤ s.uptime) →
        bitAt (t.frame f).flags Flag.lineBlanked.bit = true ∧ (t.frame f).linesBlanked = (s.frame f).linesBlanked + 1 ∧
        ∀ e ∈ (t.frame f).nodesLeft, e.1 = n → s.uptime < e.2 + 2000000) ∧
      ((∀ e ∈ (s.frame f).nodesLeft, e.1 = n → s.uptime < e.2 + 2000000) → t.frame f = s.frame f))

/-! ### Block REIN -/

/-- R227, R231: REIN_LINK_STATE takes every DOWN or FAILED link it names to ADAPTING and goes on while one that it names adapts,
completing at once where none does; DOWN takes every link it names down; RELEASE makes the CLAIMED and LOCKED links it names
OBSERVING, with a RELEASE frame on those that were CLAIMED, and completes with ST_PARTIAL where it names others. DOWN and
RELEASE are refused while something holds one of the links. No other link changes. R131, R227: a link that has adapted within
100 ms, to an eye not below the minimum, is LOCKED with that eye; one that has not adapted by then is FAILED; one that loses
block lock adapts again, and where it was CLAIMED and carries an output in RUN the frames being delivered are HALTED. Otherwise
each does nothing, and no other link changes. -/
def Obligations.LinkStates : Prop :=
  (∀ (s : State) (k : Nat), Accepted 0x0503 linkStateChecks k s → (s.slot k).u 12 1 = 1 →
    ∃ t, exec (.reinLinkState k) s = .next t ∧
      (∀ l, l < 32 → bitAt ((s.slot k).u 8 4) l = true → ((s.link l).state = .down ∨ (s.link l).state = .failed) →
        (t.link l).state = .adapting ∧ (t.link l).adaptStart = s.uptime ∧ (t.link l).enumErr = 0 ∧
          (t.link l).endB = decide ((s.slot k).u 13 1 = 1)) ∧
      (∀ l, l < 32 → (bitAt ((s.slot k).u 8 4) l = false ∨ ((s.link l).state ≠ .down ∧ (s.link l).state ≠ .failed)) →
        t.link l = s.link l) ∧
      ((∃ l, l < 32 ∧ bitAt ((s.slot k).u 8 4) l = true ∧
          ((s.link l).state = .down ∨ (s.link l).state = .failed ∨ (s.link l).state = .adapting)) →
        (t.slot k).phase = .executing ∧ ∃ u ∈ t.rein.ups, u.slot = k ∧ u.id = (s.slot k).id ∧ u.failed = 0 ∧
          ∀ l, l < 32 → (bitAt u.pendingMask l = true ↔ bitAt ((s.slot k).u 8 4) l = true ∧
            ((s.link l).state = .down ∨ (s.link l).state = .failed ∨ (s.link l).state = .adapting))) ∧
      ((∀ l, l < 32 → bitAt ((s.slot k).u 8 4) l = true →
          (s.link l).state ≠ .down ∧ (s.link l).state ≠ .failed ∧ (s.link l).state ≠ .adapting) → Completed k s t 0x00 0 0)) ∧
  (∀ (s : State) (k : Nat), Accepted 0x0503 linkStateChecks k s → (s.slot k).u 12 1 = 2 →
    s.linksHeld ((s.slot k).u 8 4) = none →
    ∃ t, exec (.reinLinkState k) s = .next t ∧
      ((∀ u ∈ s.rein.ups, u.slot ≠ k) → (∀ l, l < 32 → ∀ w ∈ (s.calInst (9 + l)).waiters, w.1 ≠ k) →
        Completed k s t 0x00 0 0) ∧
      (∀ l, l < 32 → bitAt ((s.slot k).u 8 4) l = true → (t.link l).state = .down) ∧
      (∀ l, l < 32 → bitAt ((s.slot k).u 8 4) l = false → t.link l = s.link l)) ∧
  (∀ (s : State) (k : Nat) (others : List Nat), Accepted 0x0503 linkStateChecks k s → (s.slot k).u 12 1 = 3 →
    s.linksHeld ((s.slot k).u 8 4) = none →
    others = (allLinks.filter fun l => bitAt ((s.slot k).u 8 4) l &&
      !([LinkState.claimed, .locked, .observing].contains (s.link l).state)) →
    ∃ t, exec (.reinLinkState k) s = .next t ∧
      (others = [] → Completed k s t 0x00 0 0) ∧
      (others ≠ [] → Completed k s t 0x03 (maskLinks (linkMask others)).length (linkMask others)) ∧
      (∀ l, l < 32 → bitAt ((s.slot k).u 8 4) l = true → ((s.link l).state = .claimed ∨ (s.link l).state = .locked) →
        (t.link l).state = .observing ∧ (t.link l).claim = 0 ∧
          ((s.link l).state = .claimed → Out.reinFrame l (releaseFrame (s.link l).claim) ∈ t.out)) ∧
      (∀ l, l < 32 → (bitAt ((s.slot k).u 8 4) l = false ∨ ((s.link l).state ≠ .claimed ∧ (s.link l).state ≠ .locked)) →
        t.link l = s.link l)) ∧
  (∀ (s : State) (k op : Nat), Accepted 0x0503 linkStateChecks k s → (s.slot k).u 12 1 ≠ 1 →
    s.linksHeld ((s.slot k).u 8 4) = some op →
    ∃ t, exec (.reinLinkState k) s = .next t ∧ Completed k s t 0x14 op 0 ∧ t.rein = s.rein ∧ t.out = s.out) ∧
  (∀ (s : State) (l eye : Nat), (s.link l).state = .adapting → s.uptime ≤ (s.link l).adaptStart + 100000000 →
    eyeTooNarrow (s.calPolicy (9 + l)) eye = false →
    ∃ t, exec (.adaptationDone l eye) s = .next t ∧ (t.link l).state = .locked ∧ (t.link l).eye = eye ∧
      ∀ n, n ≠ l → t.link n = s.link n) ∧
  (∀ (s : State) (l eye : Nat), ((s.link l).state ≠ .adapting ∨ (s.link l).adaptStart + 100000000 < s.uptime ∨
      eyeTooNarrow (s.calPolicy (9 + l)) eye = true) → exec (.adaptationDone l eye) s = .next s) ∧
  (∀ (s : State) (l : Nat), (s.link l).state = .adapting → (s.link l).adaptStart + 100000000 ≤ s.uptime →
    ∃ t, exec (.adaptationTimeout l) s = .next t ∧ (t.link l).state = .failed ∧ ∀ n, n ≠ l → t.link n = s.link n) ∧
  (∀ (s : State) (l : Nat), ((s.link l).state ≠ .adapting ∨ s.uptime < (s.link l).adaptStart + 100000000) →
    exec (.adaptationTimeout l) s = .next s) ∧
  (∀ (s : State) (l : Nat), ((s.link l).state = .locked ∨ (s.link l).state = .observing ∨ (s.link l).state = .claimed) →
    ∃ t, exec (.blockLockLost l) s = .next t ∧ (t.link l).state = .adapting ∧ (t.link l).relock = true ∧
      (t.link l).adaptStart = s.uptime ∧ (t.link l).claim = 0 ∧ (∀ n, n ≠ l → t.link n = s.link n) ∧
      (((s.link l).state = .claimed ∧ s.top.dev = .run ∧ s.linkHolder l ≠ none) → ∀ f, (s.frame f).phase = .delivering →
        bitAt (t.frame f).flags Flag.halted.bit = true) ∧
      (¬((s.link l).state = .claimed ∧ s.top.dev = .run ∧ s.linkHolder l ≠ none) → t.frames = s.frames)) ∧
  (∀ (s : State) (l : Nat), ((s.link l).state ≠ .locked ∧ (s.link l).state ≠ .observing ∧ (s.link l).state ≠ .claimed) →
    exec (.blockLockLost l) s = .next s)

/-- R228, R232, R233: REIN_ENUMERATE asks the nodes of every link it names, which must be LOCKED, OBSERVING or CLAIMED, for
their place. After 100 microseconds what they answered decides: a link with a fault of R228 keeps its error code and, unless it
was CLAIMED, is FAILED; one with an echo missing has code 5; any other is OBSERVING, or with CLAIM is CLAIMED under the claim
one above the highest of its class found on all the links, and is told so. The command completes with the count of nodes and the
mask of links, or ST_PARTIAL with the links that failed. A claim of a higher class than its own refuses it, and so does an epoch
beyond 4,095. -/
def Obligations.Enumeration : Prop :=
  (∀ (s : State) (k : Nat), Accepted 0x0500 enumerateChecks k s → s.linksHeld ((s.slot k).u 8 4) = none →
    ∃ t, exec (.reinEnumerate k) s = .next t ∧ (t.slot k).phase = .executing ∧ t.rein.links = s.rein.links ∧
      (∀ l, l < 32 → bitAt ((s.slot k).u 8 4) l = true → (s.link l).enumerable = true →
        Out.reinFrame l (enumFrame (s.link l).claim false l (s.link l).endB 0) ∈ t.out) ∧
      ∃ r, t.rein.enums = s.rein.enums ++ [r] ∧ r.slot = k ∧ r.mask = (s.slot k).u 8 4 ∧ r.start = s.uptime ∧
        r.claim = decide ((s.slot k).u 12 1 = 2) ∧ r.cls = (s.slot k).u 13 1 ∧
        ∀ l, l < 32 → bitAt ((s.slot k).u 8 4) l = true → bitAt r.failed l = !(s.link l).enumerable) ∧
  (∀ (s : State) (k op : Nat), Accepted 0x0500 enumerateChecks k s → s.linksHeld ((s.slot k).u 8 4) = some op →
    ∃ t, exec (.reinEnumerate k) s = .next t ∧ Completed k s t 0x14 op 0 ∧ t.rein = s.rein ∧ t.out = s.out) ∧
  (∀ (s : State) (k : Nat) (rx : List (Nat × List Byte)) (rtts : List (Nat × Nat × Nat)),
    s.rein.enums.find? (fun r => r.slot == k && decide (r.start + 100000 ≤ s.uptime)) = none →
    exec (.enumCollectExpiry k rx rtts) s = .next s) ∧
  (∀ (cls v : Nat) (held : List Nat), claimEpoch cls held = some v ↔ (∀ h ∈ held, h / 4096 ≤ cls) ∧
    (((∀ h ∈ held, h / 4096 ≠ cls) ∧ v = 1) ∨
      ((∃ h ∈ held, h / 4096 = cls ∧ v = h % 4096 + 1) ∧ ∀ h ∈ held, h / 4096 = cls → h % 4096 < v))) ∧
  (∀ (s : State) (k : Nat) (run : EnumRun) (rx : List (Nat × List Byte)) (rtts : List (Nat × Nat × Nat)) (ls : List Nat),
    s.rein.enums.find? (fun r => r.slot == k && decide (r.start + 100000 ≤ s.uptime)) = some run →
    ls = ((maskLinks run.mask).filter fun l => !bitAt run.failed l && (s.link l).enumerable) →
    (run.claim = true → claimEpoch run.cls (ls.flatMap fun l => (respsOf l rx).map (·.held)) = none →
      ∃ t, exec (.enumCollectExpiry k rx rtts) s = .next t ∧ Completed k s t 0x14 0x0500 0 ∧ t.rein.links = s.rein.links ∧
        t.out = s.out) ∧
    (∀ v, run.claim = true → claimEpoch run.cls (ls.flatMap fun l => (respsOf l rx).map (·.held)) = some v → 4095 < v →
      ∃ t, exec (.enumCollectExpiry k rx rtts) s = .next t ∧ Completed k s t 0x11 0x070D 0 ∧ t.rein.links = s.rein.links ∧
        t.out = s.out) ∧
    (∀ (v : Nat) (good : List Nat),
      (run.claim = false ∨ (claimEpoch run.cls (ls.flatMap fun l => (respsOf l rx).map (·.held)) = some v ∧ v ≤ 4095)) →
      good = (ls.filter fun l => enumFault s.top.mode (respsOf l rx) == 0 &&
        (List.range (respsOf l rx).length).all fun h => rtts.any fun e => e.1 == l && e.2.1 == h) →
      ∃ t, exec (.enumCollectExpiry k rx rtts) s = .next t ∧
        (good.length = (maskLinks run.mask).length →
          Completed k s t 0x00 (good.foldl (fun a l => a + (respsOf l rx).length) 0) run.mask) ∧
        (good.length ≠ (maskLinks run.mask).length →
          Completed k s t 0x03 ((maskLinks run.mask).length - good.length) (linkMask good)) ∧
        (∀ l ∈ good, (t.link l).enumErr = 0 ∧ (t.link l).nodes = (respsOf l rx).length ∧
          (run.claim = false → (t.link l).state = .observing ∧ (t.link l).claim = 0) ∧
          (run.claim = true → (t.link l).state = .claimed ∧ (t.link l).claim = run.cls * 4096 + v ∧
            Out.reinFrame l (enumFrame (run.cls * 4096 + v) true l (s.link l).endB (respsOf l rx).length) ∈ t.out)) ∧
        (∀ l ∈ ls, l ∉ good →
          (t.link l).enumErr = (if enumFault s.top.mode (respsOf l rx) = 0 then 5 else enumFault s.top.mode (respsOf l rx)) ∧
          (t.link l).state = if (s.link l).state = .claimed then .claimed else .failed) ∧
        ∀ l, l ∉ ls → t.link l = s.link l))

/-- R205, R222, R223, R234: a node transfer asks for at most 256 words at a time. A response takes its request off the list: the
last part of a transfer completes the command, with the word read as RESULT where one was asked for and otherwise with the words
read in its buffer; an earlier part asks for the next words; a refusal ends it; BUSY changes nothing, and so does what matches
no request. A request without an answer is sent again, four times in all while the link may carry it, and then the command
fails. A received frame that fails its check is counted. R28, R206, R208, R213, R218, R221, R236: a status frame of a node, on a
link of no tandem, is what the LZ9 knows of the node from then on; a higher claim than its own takes a link from it; a frame
that fails its check is counted, and one of another kind, of another link's node or on an absent link does nothing. A node found
and not heard of for 3 ms is silent; one that is to be in Halter is told so again every 10 microseconds while its link is
CLAIMED. -/
def Obligations.NodeTransfersAndStatus : Prop :=
  (∀ (s : State) (k : Nat), Accepted 0x0501 (nodeXferChecks false) k s →
    ∃ t, exec (.reinNodeRead k) s = .next t ∧ (t.slot k).phase = .executing ∧
      ∃ q ∈ (t.node ((s.slot k).u 8 1)).reqs, q.tag = (s.node ((s.slot k).u 8 1)).nextTag ∧ q.write = false ∧
        q.addr = (s.slot k).u 12 4 ∧ q.words = Nat.min 256 ((s.slot k).u 10 2) ∧ q.owner = k + 2) ∧
  (∀ (s : State) (k : Nat), Accepted 0x0502 (nodeXferChecks true) k s →
    ∃ t, exec (.reinNodeWrite k) s = .next t ∧ (t.slot k).phase = .executing ∧
      ∃ q ∈ (t.node ((s.slot k).u 8 1)).reqs, q.tag = (s.node ((s.slot k).u 8 1)).nextTag ∧ q.write = true ∧
        q.addr = (s.slot k).u 12 4 ∧ q.words = Nat.min 256 ((s.slot k).u 10 2) ∧ q.owner = k + 2 ∧
        q.data = if (s.slot k).u 10 2 = 1 then le 4 ((s.slot k).u 32 4)
          else s.bufBytes ((s.slot k).u 16 2) ((s.slot k).u 24 8) (4 * Nat.min 256 ((s.slot k).u 10 2))) ∧
  (∀ (s : State) (k l : Nat) (bs : List Byte) (f : RxFrame) (r : CtrlReq), s.fuse.part.hasLink l = true →
    parseFrame bs = some f → f.ftype = 0x04 → f.node / 8 = l →
    (s.node f.node).reqs.find? (fun r => r.onWire && r.tag == byteAt f.data 1) = some r → r.owner = k + 2 →
    s.running k (s.transfer k).id = true →
    (byteAt f.data 0 = 0 → (s.transfer k).words ≤ (s.transfer k).doneWords + r.words →
      ∃ t, exec (.ctrlRespRx l bs) s = .next t ∧
        Completed k s t 0x00 0 (if (s.transfer k).write = true ∨ (s.transfer k).words ≠ 1 then 0 else numAt (f.data.drop 8) 0 4) ∧
        t.dram = if (s.transfer k).write = true ∨ (s.transfer k).words = 1 then s.dram
          else s.dram.setBytes ((s.buf (s.transfer k).handle).base + (s.transfer k).offset + 4 * (s.transfer k).doneWords)
            ((f.data.drop 8).take (4 * r.words))) ∧
    (byteAt f.data 0 = 0 → (s.transfer k).doneWords + r.words < (s.transfer k).words →
      ∃ t, exec (.ctrlRespRx l bs) s = .next t ∧ (t.slot k).phase = .executing ∧
        (t.transfer k).doneWords = (s.transfer k).doneWords + r.words ∧
        ∃ q ∈ (t.node (s.transfer k).node).reqs, q.owner = k + 2 ∧ q.write = (s.transfer k).write ∧
          q.addr = (s.transfer k).addr + 4 * ((s.transfer k).doneWords + r.words) ∧
          q.words = Nat.min 256 ((s.transfer k).words - ((s.transfer k).doneWords + r.words))) ∧
    ((byteAt f.data 0 = 1 ∨ byteAt f.data 0 = 2) →
      ∃ t, exec (.ctrlRespRx l bs) s = .next t ∧ t.dram = s.dram ∧
        ((s.transfer k).doneWords = 0 → Completed k s t 0x11 0x010C 0) ∧
        ((s.transfer k).doneWords ≠ 0 → Completed k s t 0x03 (byteAt f.data 0) (s.transfer k).doneWords))) ∧
  (∀ (s : State) (l : Nat) (bs : List Byte), (s.fuse.part.hasLink l = false ∨ ∃ f, parseFrame bs = some f ∧
      (f.ftype ≠ 0x04 ∨ f.node / 8 ≠ l ∨ byteAt f.data 0 = 3 ∨
        (s.node f.node).reqs.find? (fun r => r.onWire && r.tag == byteAt f.data 1) = none)) →
    exec (.ctrlRespRx l bs) s = .next s) ∧
  (∀ (s : State) (l : Nat) (bs : List Byte), s.fuse.part.hasLink l = true → parseFrame bs = none →
    ∃ t, exec (.ctrlRespRx l bs) s = .next t ∧ t.rein.nodes = s.rein.nodes ∧
      (byteAt bs 0 = 0x78 → (t.link l).errFrames = Nat.min 65535 ((s.link l).errFrames + 1)) ∧
      (byteAt bs 0 ≠ 0x78 → goodBlock bs = false → byteAt bs 0 ≠ 0x1E →
        (t.link l).errBlocks = Nat.min 65535 ((s.link l).errBlocks + 1)) ∧
      (byteAt bs 0 ≠ 0x78 → (goodBlock bs = true ∨ byteAt bs 0 = 0x1E) → t = s)) ∧
  (∀ (s : State) (n tag : Nat) (r : CtrlReq),
    (s.node n).reqs.find? (fun r => r.onWire && r.tag == tag && decide (r.sent + 20000 ≤ s.uptime)) = some r →
    (r.tries < 4 → s.mayRequest (n / 8) r = true →
      ∃ t, exec (.ctrlRetryTimeout n tag) s = .next t ∧
        t.out = s.out ++ [Out.reinFrame (n / 8) (r.frame n (s.link (n / 8)).claim)] ∧
        (t.link (n / 8)).ctrlRetry = Nat.min 65535 ((s.link (n / 8)).ctrlRetry + 1) ∧
        ∃ q ∈ (t.node n).reqs, q.tag = tag ∧ q.tries = r.tries + 1 ∧ q.sent = s.uptime) ∧
    (4 ≤ r.tries ∨ s.mayRequest (n / 8) r = false →
      ∃ t, exec (.ctrlRetryTimeout n tag) s = .next t ∧
        (t.link (n / 8)).ctrlNoResp = Nat.min 65535 ((s.link (n / 8)).ctrlNoResp + 1) ∧
        (∀ q ∈ (t.node n).reqs, q.tag ≠ tag) ∧
        ∀ k, r.owner = k + 2 → s.running k (s.transfer k).id = true → Completed k s t 0x20 n 0)) ∧
  (∀ (s : State) (n tag : Nat),
    (s.node n).reqs.find? (fun r => r.onWire && r.tag == tag && decide (r.sent + 20000 ≤ s.uptime)) = none →
    exec (.ctrlRetryTimeout n tag) s = .next s) ∧
  (∀ (s : State) (l : Nat) (bs : List Byte) (f : RxFrame), s.fuse.part.hasLink l = true → parseFrame bs = some f →
    f.ftype = 0x05 → f.node / 8 = l → s.drillOn l = none → s.tanLink l = false →
    ∃ t, exec (.statusFrameRx l bs) s = .next t ∧ (t.node f.node).flags = numAt f.data 0 2 ∧
      (t.node f.node).held = numAt f.data 2 2 ∧ (t.node f.node).ticksSeen = (s.node f.node).seenOf (numAt f.data 4 4) ∧
      (t.node f.node).supplyMv = numAt f.data 16 2 ∧ (t.node f.node).supplyCur = numAt f.data 18 2 ∧
      (t.node f.node).halter = bitAt (numAt f.data 0 2) 0 ∧ (t.node f.node).hold = bitAt (numAt f.data 0 2) 1 ∧
      (t.node f.node).silent = false ∧ (t.node f.node).lastStatus = s.uptime ∧
      ((s.link l).state = .claimed → (s.link l).claim < numAt f.data 2 2 →
        (t.link l).state = .observing ∧ (t.link l).claim = 0) ∧
      (((s.link l).state ≠ .claimed ∨ numAt f.data 2 2 ≤ (s.link l).claim) → t.link l = s.link l)) ∧
  (∀ (s : State) (l : Nat) (bs : List Byte), s.fuse.part.hasLink l = true → parseFrame bs = none →
    ∃ t, exec (.statusFrameRx l bs) s = .next t ∧ t.rein.nodes = s.rein.nodes ∧
      (byteAt bs 0 = 0x78 → (t.link l).errFrames = Nat.min 65535 ((s.link l).errFrames + 1)) ∧
      (byteAt bs 0 ≠ 0x78 → goodBlock bs = false → byteAt bs 0 ≠ 0x1E →
        (t.link l).errBlocks = Nat.min 65535 ((s.link l).errBlocks + 1)) ∧
      (byteAt bs 0 ≠ 0x78 → (goodBlock bs = true ∨ byteAt bs 0 = 0x1E) → t = s)) ∧
  (∀ (s : State) (l : Nat) (bs : List Byte), (s.fuse.part.hasLink l = false ∨ ∃ f, parseFrame bs = some f ∧
      (f.ftype ≠ 0x05 ∨ f.node / 8 ≠ l)) → exec (.statusFrameRx l bs) s = .next s) ∧
  (∀ (s : State) (n : Nat), (s.node n).present = true → (s.node n).silent = false →
    (s.node n).lastStatus + 3000000 ≤ s.uptime → Queues s 5 0x0002 →
    ∃ t, exec (.nodeSilent n) s = .next t ∧ t.node n = { s.node n with silent := true } ∧
      Waits t 5 0x0002 (le 1 n ++ le 8 (s.node n).statusTime) ∧ ∀ m, m ≠ n → t.node m = s.node m) ∧
  (∀ (s : State) (n : Nat), ((s.node n).present = false ∨ (s.node n).silent = true ∨
      s.uptime < (s.node n).lastStatus + 3000000) → exec (.nodeSilent n) s = .next s) ∧
  (∀ (s : State) (n : Nat), (s.node n).present = true → (s.node n).toHalter = true →
    (s.node n).lastHalter + 10000 ≤ s.uptime →
    ∃ t, exec (.halterRepeat n) s = .next t ∧ t.node n = { s.node n with lastHalter := s.uptime } ∧
      (s.claimed (n / 8) = true →
        t.out = s.out ++ [.reinBlock (n / 8) (holdBlock 0x2D (s.link (n / 8)).claim n false)]) ∧
      (s.claimed (n / 8) = false → t.out = s.out)) ∧
  (∀ (s : State) (n : Nat), ((s.node n).present = false ∨ (s.node n).toHalter = false ∨
      s.uptime < (s.node n).lastHalter + 10000) → exec (.halterRepeat n) s = .next s)

/-! ### The nodes of a chain -/

/-- R202, R208, R209, R211, R212, R217, R220, R228: a node forwards every frame and block that reaches it. An ENUM
that counts is answered out of both ports. A frame with a higher claim takes the node, into Halter unless it is
SEAMLESS in RUN or nothing held the node; one with a lower claim is refused and counted; the node's own claim from the
port that does not hold it is a conflict, in which port A holds it. From its holder a LINE is kept by a head node in
RUN and a ROW by a panel node in RUN, and a RELEASE frees the node. A frame that fails its check is counted, one for
another node changes no claim. A HALTER or RUN block from the holder under its claim puts the node in Halter or,
unless a fault holds it, in RUN; a block not for the node leaves it, one that fails its check is counted. Loss of the
holder's link puts it in Halter. Where these rules leave a point open, the model's choice is in log 28 and 64. -/
def Obligations.NodeClaims : Prop :=
  (∀ (s : State) (n : Nat) (portB : Bool) (bs : List Byte) (f : RxFrame), parseFrame bs = some f →
    (f.all = true ∨ f.node = (s.cnode n).id) →
    (f.ftype = 0x07 → byteAt f.data 0 = 1 →
      ∃ t, exec (.nodeDownstreamFrame n portB bs) s = .next t ∧ (t.cnode n).held = (s.cnode n).held ∧
        t.out = s.out ++ [.reinOn n (if portB then 0 else 1) (forwarded bs), .reinUp n 0 ((s.cnode n).enumResp f.hop portB),
          .reinUp n 1 ((s.cnode n).enumResp f.hop portB)]) ∧
    (f.ftype = 0x07 → byteAt f.data 0 = 2 → (s.cnode n).held < f.claim →
      ∃ t, exec (.nodeDownstreamFrame n portB bs) s = .next t ∧ (t.cnode n).held = f.claim ∧
        (t.cnode n).holder = some portB ∧ (t.cnode n).assigned = true ∧ (t.cnode n).link = byteAt f.data 1 ∧
        (t.cnode n).position = (if byteAt f.data 2 = 0 then f.hop else byteAt f.data 3 - 1 - f.hop) ∧
        ((s.cnode n).holder ≠ none → f.seamless = false → (t.cnode n).run = .halter) ∧
        ((s.cnode n).holder = none → (t.cnode n).run = (s.cnode n).run) ∧
        (∀ m, m ≠ n → t.cnode m = s.cnode m)) ∧
    (f.ftype = 0x06 → f.claim = (s.cnode n).held → 0 < f.claim → (s.cnode n).holder = some portB →
      ∃ t, exec (.nodeDownstreamFrame n portB bs) s = .next t ∧ (t.cnode n).held = 0 ∧ (t.cnode n).holder = none ∧
        (t.cnode n).run = .halter) ∧
    (¬(f.ftype = 0x07 ∧ byteAt f.data 0 = 1) → cableWrite f portB = false → f.claim < (s.cnode n).held →
      ∃ t, exec (.nodeDownstreamFrame n portB bs) s = .next t ∧ (t.cnode n).held = (s.cnode n).held ∧
        (t.cnode n).holder = (s.cnode n).holder ∧ (t.cnode n).claimReject = ((s.cnode n).claimReject + 1) % 65536 ∧
        (t.cnode n).run = (s.cnode n).run ∧ (t.cnode n).lines = (s.cnode n).lines) ∧
    (portB = true → ¬(f.ftype = 0x07 ∧ byteAt f.data 0 = 1) → cableWrite f portB = false → f.claim = (s.cnode n).held →
      0 < f.claim → (s.cnode n).holder = some false →
      ∃ t, exec (.nodeDownstreamFrame n portB bs) s = .next t ∧ (t.cnode n).claimConflict = true ∧
        (t.cnode n).held = (s.cnode n).held ∧ (t.cnode n).holder = some false ∧ (t.cnode n).run = (s.cnode n).run ∧
        (t.cnode n).lines = (s.cnode n).lines) ∧
    (portB = false → ¬(f.ftype = 0x07 ∧ byteAt f.data 0 = 1) → f.ftype ≠ 0x03 → f.ftype ≠ 0x06 → f.claim = (s.cnode n).held →
      0 < f.claim → (s.cnode n).holder = some true →
      ∃ t, exec (.nodeDownstreamFrame n portB bs) s = .next t ∧ (t.cnode n).claimConflict = true ∧
        (t.cnode n).held = (s.cnode n).held ∧ (t.cnode n).holder = some false ∧ (t.cnode n).run = (s.cnode n).run) ∧
    (f.claim = (s.cnode n).held → 0 < f.claim → (s.cnode n).holder = some portB → (s.cnode n).run = .run →
      (f.ftype = 0x01 → (s.cnode n).panel = false →
        ∃ t x, exec (.nodeDownstreamFrame n portB bs) s = .next t ∧ (t.cnode n).lines = (s.cnode n).lines ++ [x] ∧
          x.tickId = byteAt f.data 4 % 64 ∧ x.bank = bitsAt (byteAt f.data 4) 6 1 ∧ x.lastLine = bitAt (byteAt f.data 4) 7 ∧
          x.frame.toNat = numAt f.data 0 4 % 2 ^ 32 ∧ x.payload = f.data.drop 8 ∧
          t.out = s.out ++ [.reinOn n (if portB then 0 else 1) (forwarded bs)]) ∧
      (f.ftype = 0x02 → (s.cnode n).panel = true →
        ∃ t x, exec (.nodeDownstreamFrame n portB bs) s = .next t ∧ (t.cnode n).rows = (s.cnode n).rows ++ [x] ∧
          x.tickId = byteAt f.data 4 % 64 ∧ x.row = numAt f.data 5 2 % 4096 ∧ x.lastRow = bitAt (byteAt f.data 4) 7 ∧
          x.frame.toNat = numAt f.data 0 4 % 2 ^ 32 ∧ x.payload = f.data.drop 8 ∧
          t.out = s.out ++ [.reinOn n (if portB then 0 else 1) (forwarded bs)]))) ∧
  (∀ (s : State) (n : Nat) (portB : Bool) (bs : List Byte) (f : RxFrame), parseFrame bs = some f → f.all = false →
    f.node ≠ (s.cnode n).id →
    ∃ t, exec (.nodeDownstreamFrame n portB bs) s = .next t ∧ (t.cnode n).held = (s.cnode n).held ∧
      (t.cnode n).holder = (s.cnode n).holder ∧ (t.cnode n).run = (s.cnode n).run ∧
      t.out = s.out ++ [.reinOn n (if portB then 0 else 1) (forwarded bs)]) ∧
  (∀ (s : State) (n : Nat) (portB : Bool) (bs : List Byte), parseFrame bs = none →
    ∃ t, exec (.nodeDownstreamFrame n portB bs) s = .next t ∧ (t.cnode n).crcErr = ((s.cnode n).crcErr + 1) % 65536 ∧
      (t.cnode n).held = (s.cnode n).held ∧ t.out = s.out ++ [.reinOn n (if portB then 0 else 1) (forwarded bs)]) ∧
  (∀ (s : State) (n : Nat) (portB : Bool) (bs : List Byte),
    (blockOk 0x2D bs = true → (s.cnode n).addressed portB bs = true →
      ∃ t, exec (.nodeHalterBlock n portB bs) s = .next t ∧ (t.cnode n).run = .halter ∧ (t.cnode n).lines = [] ∧
        (t.cnode n).held = (s.cnode n).held ∧ (t.cnode n).store = (s.cnode n).store ∧
        Out.reinOn n (if portB then 0 else 1) (forwarded bs) ∈ t.out ∧
        (∀ o ∈ s.out, o.unstarted n s.wall = false → o ∈ t.out) ∧ ∀ o ∈ t.out, o.unstarted n s.wall = false) ∧
    (blockOk 0x2D bs = true → (s.cnode n).addressed portB bs = false →
      ∃ t, exec (.nodeHalterBlock n portB bs) s = .next t ∧ (t.cnode n).run = (s.cnode n).run ∧
        (t.cnode n).lines = (s.cnode n).lines ∧ (t.cnode n).held = (s.cnode n).held) ∧
    (blockOk 0x2D bs = false →
      ∃ t, exec (.nodeHalterBlock n portB bs) s = .next t ∧ (t.cnode n).blockErr = ((s.cnode n).blockErr + 1) % 65536 ∧
        (t.cnode n).run = (s.cnode n).run ∧ t.out = s.out ++ [.reinOn n (if portB then 0 else 1) (forwarded bs)]) ∧
    (blockOk 0x33 bs = true → (s.cnode n).addressed portB bs = true → (s.cnode n).overtemp = false →
      (s.cnode n).supplyFault = false →
      ∃ t, exec (.nodeRunBlock n portB bs) s = .next t ∧ ((s.cnode n).run = .halter → (t.cnode n).run = .run) ∧
        ((s.cnode n).run ≠ .halter → (t.cnode n).run = (s.cnode n).run) ∧ (t.cnode n).ticksSeen = 0 ∧
        (t.cnode n).held = (s.cnode n).held ∧ t.out = s.out ++ [.reinOn n (if portB then 0 else 1) (forwarded bs)]) ∧
    (blockOk 0x33 bs = true →
      ((s.cnode n).addressed portB bs = false ∨ (s.cnode n).overtemp = true ∨ (s.cnode n).supplyFault = true) →
      ∃ t, exec (.nodeRunBlock n portB bs) s = .next t ∧ (t.cnode n).run = (s.cnode n).run ∧
        (t.cnode n).ticksSeen = (s.cnode n).ticksSeen) ∧
    (blockOk 0x33 bs = false →
      ∃ t, exec (.nodeRunBlock n portB bs) s = .next t ∧ (t.cnode n).blockErr = ((s.cnode n).blockErr + 1) % 65536 ∧
        (t.cnode n).run = (s.cnode n).run ∧ t.out = s.out ++ [.reinOn n (if portB then 0 else 1) (forwarded bs)])) ∧
  (∀ (s : State) (n : Nat) (lost : Bool) (b : Bool), (s.cnode n).holder = some b →
    (lost = true ∨ (s.cnode n).heardAt + 1000 * (s.cnode n).linkLossUs ≤ s.wall) →
    ∃ t, exec (.nodeLinkLoss n lost) s = .next t ∧ (t.cnode n).run = .halter ∧ (t.cnode n).holder = some b ∧
      (t.cnode n).held = (s.cnode n).held ∧ (lost = true → (if b then (t.cnode n).lockB else (t.cnode n).lockA) = false)) ∧
  (∀ (s : State) (n : Nat) (lost : Bool), ((s.cnode n).holder = none ∨
      (lost = false ∧ s.wall < (s.cnode n).heardAt + 1000 * (s.cnode n).linkLossUs)) → exec (.nodeLinkLoss n lost) s = .next s)

/-- R202, R207, R209, R222, R224, R226, R229: a control request to a node from its holder, with a TAG that it does not
keep, is answered from both ports: a read of implemented words with their values; one with an address not implemented,
or a write to a read-only word, with that status and no effect; a write to a bank in use with BUSY, its TAG not kept.
Words written take effect: LINK_LOSS_US and STATUS_US, the banks of a head node, the vendor words, and PANEL_CTRL of a
panel node; the cable delay of the port a write comes by whatever the claim. A TAG that is kept gets its answer again
and nothing else. NODE_CTRL_REQ is the arrival of a frame that is a CTRL_REQ or fails its check; any other is only
forwarded. An ECHO is forwarded, and answered on its own port where its hop is the target; one that fails its check is
counted. R186, R189, R202, R214 to R216, R219, R220, R270, R449: a tick that a head node in RUN obeys is counted, with
those missed before it, and fires both columns, unless it says to skip; a panel node drives the row that the tick
names, with its data, or where they have not come with the row it keeps; a tick that a node does not obey is forwarded
and nothing else, one that fails its check is counted. A head node without ticks keeps warm, when its bank says so and
the times of R189 have passed. The status timer sends a status frame from both ports, and a head node too hot is in
Halter. Where these rules leave a point open, the model's choice is in log 28, 49 and 64. -/
def Obligations.NodeControlAndTicks : Prop :=
  (∀ (s : State) (n : Nat) (portB : Bool) (bs : List Byte) (f : RxFrame), parseFrame bs = some f → f.ftype = 0x03 →
    (f.all = true ∨ f.node = (s.cnode n).id) → cableWrite f portB = false → f.claim = (s.cnode n).held → 0 < f.claim →
    (s.cnode n).holder = some portB →
    ((∀ g ∈ (s.cnode n).tags, g.1 ≠ byteAt f.data 1) → byteAt f.data 0 = 1 →
      (∀ i, i < numAt f.data 2 2 → (s.cnode n).badAddr (numAt f.data 4 3 + 4 * i) = false) →
      ∃ t, exec (.nodeCtrlReq n portB bs) s = .next t ∧
        (∀ p, p < 2 → Out.reinUp n p (mkFrame 0x04 (s.cnode n).id (s.cnode n).held 0
          (ctrlHeader 0 (byteAt f.data 1) (numAt f.data 2 2) (numAt f.data 4 3) ++ (List.range (numAt f.data 2 2)).flatMap fun i =>
            le 4 ((s.cnode n).readWord (numAt f.data 4 3 + 4 * i)))) ∈ t.out) ∧
        (t.cnode n).bank0 = (s.cnode n).bank0 ∧ (t.cnode n).run = (s.cnode n).run ∧
        ∃ g ∈ (t.cnode n).tags, g.1 = byteAt f.data 1) ∧
    (∀ st, (∀ g ∈ (s.cnode n).tags, g.1 ≠ byteAt f.data 1) →
      st = (s.cnode n).reqStatus s.wall (byteAt f.data 0 == 2) (numAt f.data 4 3) (numAt f.data 2 2) → st ≠ 0 →
      ∃ t, exec (.nodeCtrlReq n portB bs) s = .next t ∧
        (∀ p, p < 2 → Out.reinUp n p (mkFrame 0x04 (s.cnode n).id (s.cnode n).held 0
          (ctrlHeader st (byteAt f.data 1) (numAt f.data 2 2) (numAt f.data 4 3))) ∈ t.out) ∧
        (t.cnode n).bank0 = (s.cnode n).bank0 ∧ (t.cnode n).bank1 = (s.cnode n).bank1 ∧
        (t.cnode n).vendor = (s.cnode n).vendor ∧ (st = 3 → (t.cnode n).tags = (s.cnode n).tags)) ∧
    (∀ a v, (∀ g ∈ (s.cnode n).tags, g.1 ≠ byteAt f.data 1) → byteAt f.data 0 = 2 → numAt f.data 2 2 = 1 →
      numAt f.data 4 3 = a → numAt f.data 8 4 = v → (s.cnode n).reqStatus s.wall true a 1 = 0 →
      ∃ t, exec (.nodeCtrlReq n portB bs) s = .next t ∧ (t.cnode n).run = (s.cnode n).run ∧
        (∃ g ∈ (t.cnode n).tags, g.1 = byteAt f.data 1) ∧
        (a = 0x110 → (t.cnode n).linkLossUs = v % 65536 ∧ (t.cnode n).statusUs = v / 65536) ∧
        (0x100000 ≤ a → a < 0x180000 → (s.cnode n).panel = false →
          (t.cnode n).bank0 = (s.cnode n).bank0.setBytes (a % 0x80000) (le 4 v) ∧ (t.cnode n).bank1 = (s.cnode n).bank1) ∧
        (0x180000 ≤ a → a < 0x200000 → (s.cnode n).panel = false →
          (t.cnode n).bank1 = (s.cnode n).bank1.setBytes (a % 0x80000) (le 4 v) ∧ (t.cnode n).bank0 = (s.cnode n).bank0) ∧
        (0x800000 ≤ a → Tab.get 0 (t.cnode n).vendor a = v) ∧
        (a = 0x400 → (s.cnode n).panel = true → (t.cnode n).hold = bitAt v 0 ∧ (t.cnode n).groupB = bitAt v 1 ∧
          (t.cnode n).activeRows = bitsAt v 12 16)) ∧
    (∀ g, (s.cnode n).tags.find? (fun g => g.1 == byteAt f.data 1) = some g →
      ∃ t, exec (.nodeCtrlReq n portB bs) s = .next t ∧ (∃ o, t.out = o ++ [.reinUp n 0 g.2, .reinUp n 1 g.2]) ∧
        (t.cnode n).vendor = (s.cnode n).vendor ∧ (t.cnode n).bank0 = (s.cnode n).bank0 ∧
        (t.cnode n).bank1 = (s.cnode n).bank1)) ∧
  (∀ (s : State) (n : Nat) (portB : Bool) (bs : List Byte) (f : RxFrame), parseFrame bs = some f →
    (f.all = true ∨ f.node = (s.cnode n).id) → cableWrite f portB = true →
    (∀ g ∈ (s.cnode n).tags, g.1 ≠ byteAt f.data 1) →
    ∃ t, exec (.nodeCtrlReq n portB bs) s = .next t ∧ (t.cnode n).held = (s.cnode n).held ∧
      (if portB then (t.cnode n).cableB else (t.cnode n).cableA) = numAt f.data 8 4 % 2 ^ 20) ∧
  (∀ (s : State) (n : Nat) (portB : Bool) (bs : List Byte), (∀ f, parseFrame bs = some f → f.ftype = 0x03) →
    exec (.nodeDownstreamFrame n portB bs) s = exec (.nodeCtrlReq n portB bs) s) ∧
  (∀ (s : State) (n : Nat) (portB : Bool) (bs : List Byte) (f : RxFrame), parseFrame bs = some f → f.ftype ≠ 0x03 →
    ∃ t, exec (.nodeCtrlReq n portB bs) s = .next t ∧ (t.cnode n).held = (s.cnode n).held ∧
      (t.cnode n).holder = (s.cnode n).holder ∧ (t.cnode n).run = (s.cnode n).run ∧ (t.cnode n).tags = (s.cnode n).tags ∧
      t.out = s.out ++ [.reinOn n (if portB then 0 else 1) (forwarded bs)]) ∧
  (∀ (s : State) (n : Nat) (portB : Bool) (bs : List Byte),
    ∃ t, exec (.nodeEcho n portB bs) s = .next t ∧
      (blockOk 0x55 bs = true → byteAt bs 1 % 8 = byteAt bs 2 % 8 →
        t.out = s.out ++ [.reinOn n (if portB then 0 else 1) (forwarded bs),
          .reinUp n (if portB then 1 else 0) (echoReplyBlock (byteAt bs 2 % 8) (byteAt bs 3))]) ∧
      (blockOk 0x55 bs = true → byteAt bs 1 % 8 ≠ byteAt bs 2 % 8 →
        t.out = s.out ++ [.reinOn n (if portB then 0 else 1) (forwarded bs)]) ∧
      (blockOk 0x55 bs = false → (t.cnode n).blockErr = ((s.cnode n).blockErr + 1) % 65536 ∧
        t.out = s.out ++ [.reinOn n (if portB then 0 else 1) (forwarded bs)])) ∧
  (∀ (s : State) (n : Nat) (portB : Bool) (bs : List Byte) (tRx : Int) (k : Nat), blockOk 0x4B bs = true →
    (s.cnode n).obeys portB bs = true → (s.cnode n).panel = false → byteAt bs 1 % 64 = k →
    ∃ t, exec (.nodeTick n portB bs tRx) s = .next t ∧ (t.cnode n).lastTick = some k ∧ (t.cnode n).lines = [] ∧
      (∀ j, (s.cnode n).lastTick = some j →
        (t.cnode n).ticksSeen % 2 ^ 32 = ((s.cnode n).ticksSeen + (k + 64 - (j + 1) % 64) % 64 + 1) % 2 ^ 32 ∧
        (t.cnode n).lineNo = (s.cnode n).lineNo + Int.ofNat ((k + 64 - (j + 1) % 64) % 64) + 1) ∧
      ((s.cnode n).lastTick = none → (t.cnode n).ticksSeen = ((s.cnode n).ticksSeen + 1) % 2 ^ 32 ∧
        (t.cnode n).lineNo = Int.ofNat k) ∧
      (bitAt (byteAt bs 1) 6 = true → t.out = s.out ++ [.reinOn n (if portB then 0 else 1) (forwarded bs)]) ∧
      (bitAt (byteAt bs 1) 6 = false →
        ∃ l, t.out = s.out ++ Out.reinOn n (if portB then 0 else 1) (forwarded bs) :: l ∧
          (∀ o ∈ l, ∃ col m st w ps, o = .sequence n col m st w ps) ∧
          ∀ col, col < 2 → ∃ m st w ps, Out.sequence n col m st w ps ∈ l)) ∧
  (∀ (s : State) (n : Nat) (portB : Bool) (bs : List Byte) (tRx : Int), (blockOk 0x4B bs = false ∨
      (s.cnode n).obeys portB bs = false) →
    ∃ t, exec (.nodeTick n portB bs tRx) s = .next t ∧
      t.out = s.out ++ [.reinOn n (if portB then 0 else 1) (forwarded bs)] ∧ (t.cnode n).lineNo = (s.cnode n).lineNo ∧
      (t.cnode n).ticksSeen = (s.cnode n).ticksSeen ∧ (t.cnode n).run = (s.cnode n).run ∧
      (blockOk 0x4B bs = false → (t.cnode n).blockErr = ((s.cnode n).blockErr + 1) % 65536)) ∧
  (∀ (s : State) (n : Nat) (portB : Bool) (bs : List Byte) (tRx : Int) (k row : Nat), blockOk 0x4B bs = true →
    (s.cnode n).obeys portB bs = true → (s.cnode n).panel = true → byteAt bs 1 % 64 = k →
    (bitAt (byteAt bs 1) 6 = true ∧ row = 0) ∨
      (bitAt (byteAt bs 1) 6 = false ∧ (s.cnode n).frameSeen = true ∧ row = (s.cnode n).curRow ∧
        ∃ j, (s.cnode n).lastTick = some j ∧ k = (j + 1) % 64) →
    ∃ t, exec (.nodeTick n portB bs tRx) s = .next t ∧ (t.cnode n).curRow = row + 1 ∧ (t.cnode n).lastTick = some k ∧
      (row < (s.cnode n).activeRows →
        (∃ tm p, t.out = s.out ++ [.reinOn n (if portB then 0 else 1) (forwarded bs),
          .row n row tm p (Tab.get [] (t.cnode n).store row)]) ∧
        (∀ d, (s.cnode n).rowData k = some d → Tab.get [] (t.cnode n).store row = d.1) ∧
        ((s.cnode n).rowData k = none → (t.cnode n).store = (s.cnode n).store)) ∧
      ((s.cnode n).activeRows ≤ row → t.out = s.out ++ [.reinOn n (if portB then 0 else 1) (forwarded bs)])) ∧
  (∀ (s : State) (n b : Nat), (s.cnode n).latestBank = b →
    ((s.cnode n).panel = false → (s.cnode n).bankByte b 3 = 1 → 0 < (s.cnode n).bankNum b 26 2 →
      (s.cnode n).tickAt + 1000 * (s.cnode n).bankNum b 24 2 ≤ s.wall →
      (s.cnode n).kwAt + 1000000000 / (s.cnode n).bankNum b 26 2 ≤ s.wall →
      ∃ t, exec (.nodeKeepWarmIdle n) s = .next t ∧ (t.cnode n).kwAt = s.wall ∧
        ∃ w p q, t.out = s.out ++ [.sequence n 0 0 (Int.ofNat s.wall) w p, .sequence n 1 0 (Int.ofNat s.wall) w q]) ∧
    (((s.cnode n).panel = true ∨ (s.cnode n).bankByte b 3 ≠ 1 ∨ (s.cnode n).bankNum b 26 2 = 0 ∨
        s.wall < (s.cnode n).tickAt + 1000 * (s.cnode n).bankNum b 24 2 ∨
        s.wall < (s.cnode n).kwAt + 1000000000 / (s.cnode n).bankNum b 26 2) → exec (.nodeKeepWarmIdle n) s = .next s)) ∧
  (∀ (s : State) (n mv cur nh : Nat) (temps : List Nat) (hot fault : Bool),
    ∃ t, exec (.nodeStatusTimer n temps mv cur nh hot fault) s = .next t ∧ (t.cnode n).overtemp = hot ∧
      (t.cnode n).supplyFault = fault ∧ (t.cnode n).log = [] ∧
      (t.cnode n).statusSeq = ((s.cnode n).statusSeq + 1) % 2 ^ 32 ∧ (t.cnode n).lastStatusTime = s.wall ∧
      (∃ b, (t.out.drop (t.out.length - 2)) = [.reinUp n 0 b, .reinUp n 1 b]) ∧
      (hot = true → (s.cnode n).panel = false → (t.cnode n).run = .halter) ∧
      ((hot = false ∨ (s.cnode n).panel = true) → (t.cnode n).run = (s.cnode n).run))

/-! ### Blocks LFR and SCAN -/

/-- R240, R243, R244, R246, R247, R249, R250, R252, R254, R255, R265: what the LFR commands stage: a plane bound, unbound or
bound to another buffer, an overlay that takes another's ORDER giving that one its own; the background; a ray map, with which
the emitter table goes where the number of emitters changes; an emitter table or UNITY; a lookup table or IDENTITY. An image
with a fault, a load beyond the pool, and a ray map or emitter table that a light-field calibration holds are refused and change
nothing. R15, R272 to R274, R276, R289, R294: SCAN_TIMING sets the timing and stages the offsets of the groups, or sets the
panel map of an image that breaks no rule; an image that breaks one is refused with the first fault. SCAN_POWER_POLICY stages
the refresh divider, and SCAN_SPLIT_CONFIG sets or clears the partner. -/
def Obligations.LightFieldStagingAndTiming : Prop :=
  (∀ (s : State) (k n : Nat) (p : Plane), Accepted 0x0600 sceneChecks k s → (s.slot k).u 8 1 = n →
    p = { bound := true, policy := (s.slot k).u 10 1, allowReduce := bitAt ((s.slot k).u 11 1) 0, handle := (s.slot k).u 12 2,
          width := (s.slot k).u 14 2, height := (s.slot k).u 16 2, cubic := (s.slot k).u 18 1 == 2, order := (s.slot k).u 19 1,
          depth := (s.slot k).i 20 4, a00 := (s.slot k).i 24 4, a01 := (s.slot k).i 28 4, a10 := (s.slot k).i 32 4,
          a11 := (s.slot k).i 36 4, a02 := (s.slot k).i 40 4, a12 := (s.slot k).i 44 4 } →
    ((s.slot k).u 9 1 = 1 →
      ∃ t, exec (.lfrSceneBind k) s = .next t ∧ Completed k s t 0x00 0 0 ∧ Tab.get {} t.stagedLf.planes n = p ∧
        (∀ m, m ≠ n → Tab.get (α := Plane) {} t.stagedLf.planes m =
          if 64 ≤ n ∧ 64 ≤ m ∧ (Tab.get (α := Plane) {} s.stagedLf.planes m).bound = true ∧
              (Tab.get (α := Plane) {} s.stagedLf.planes m).order = p.order then
            (if (Tab.get (α := Plane) {} s.stagedLf.planes n).bound = true then
              { Tab.get (α := Plane) {} s.stagedLf.planes m with order := (Tab.get (α := Plane) {} s.stagedLf.planes n).order }
            else {})
          else Tab.get {} s.stagedLf.planes m) ∧
        t.frames.commits = s.frames.commits) ∧
    ((s.slot k).u 9 1 = 2 →
      ∃ t, exec (.lfrSceneBind k) s = .next t ∧ Completed k s t 0x00 0 0 ∧ Tab.get {} t.stagedLf.planes n = {} ∧
        ∀ m, m ≠ n → Tab.get {} t.stagedLf.planes m = Tab.get {} s.stagedLf.planes m) ∧
    ((s.slot k).u 9 1 = 3 →
      ∃ t, exec (.lfrSceneBind k) s = .next t ∧ Completed k s t 0x00 0 0 ∧
        Tab.get (α := Plane) {} t.stagedLf.planes n =
          { Tab.get (α := Plane) {} s.stagedLf.planes n with handle := (s.slot k).u 12 2 } ∧
        ∀ m, m ≠ n → Tab.get {} t.stagedLf.planes m = Tab.get {} s.stagedLf.planes m) ∧
    ((s.slot k).u 9 1 = 4 →
      ∃ t, exec (.lfrSceneBind k) s = .next t ∧ Completed k s t 0x00 0 0 ∧
        t.stagedLf = { s.stagedLf with bgR := (s.slot k).u 24 2, bgG := (s.slot k).u 26 2, bgB := (s.slot k).u 28 2
                                       temporal := decide ((s.slot k).u 30 1 = 1), marginUs := (s.slot k).u 32 2 })) ∧
  (∀ (s : State) (k h off : Nat) (img : List Byte) (m : RayMap), Accepted 0x0601 rayMapChecks k s →
    h = (s.slot k).u 8 2 → off = (s.slot k).u 16 8 → img = s.bufBytes h off ((s.buf h).size - off) →
    m = readRayMap img h off →
    (s.cal.lfRun = false → rayCountFault img = none → m.emitters ≤ s.fuse.part.emitterLimit →
      rayHeaderFault img m img.length = none → earlierFault (regionFault img) (recordsFault img m) = none → s.regionsUsed < 8 →
      ∃ t, exec (.lfrRaymapLoad k) s = .next t ∧ Completed k s t 0x00 0 0 ∧
        t.stagedLf = { s.stagedLf with
          map := { m with load := s.scan.mapLoad }
          gain := if s.stagedLf.map.emitters = m.emitters then s.stagedLf.gain else { load := s.scan.mapLoad + 1 } } ∧
        t.stagedLf.map.handle = h ∧ t.stagedLf.map.offset = off ∧ t.stagedLf.map.cols = numAt img 8 4 ∧
        t.stagedLf.map.rows = numAt img 12 4 ∧ t.stagedLf.map.subpix = byteAt img 5) ∧
    (∀ st det res : Nat,
      ((s.cal.lfRun = true ∧ st = 0x14 ∧ det = 0x0901 ∧ res = 0) ∨
        (s.cal.lfRun = false ∧ ∃ f, rayCountFault img = some f ∧ st = 0x11 ∧ det = 16 + 256 * f.2 ∧ res = f.1) ∨
        (s.cal.lfRun = false ∧ rayCountFault img = none ∧ s.fuse.part.emitterLimit < m.emitters ∧ st = 0x11 ∧ det = 0x0710 ∧
          res = 0) ∨
        (s.cal.lfRun = false ∧ rayCountFault img = none ∧ m.emitters ≤ s.fuse.part.emitterLimit ∧
          ∃ f, firstOf [rayHeaderFault img m img.length, earlierFault (regionFault img) (recordsFault img m)] = some f ∧
            st = 0x11 ∧ det = 16 + 256 * f.2 ∧ res = f.1) ∨
        (s.cal.lfRun = false ∧ rayCountFault img = none ∧ m.emitters ≤ s.fuse.part.emitterLimit ∧
          rayHeaderFault img m img.length = none ∧ earlierFault (regionFault img) (recordsFault img m) = none ∧
          8 ≤ s.regionsUsed ∧ st = 0x14 ∧ det = 0x0701 ∧ res = 0)) →
      ∃ t, exec (.lfrRaymapLoad k) s = .next t ∧ Completed k s t st det res ∧
        Keeps (fun p => p == .slots || p == .records) s t)) ∧
  (∀ (s : State) (k : Nat), Accepted 0x0602 emitterCalChecks k s →
    (s.cal.lfRun = false →
      ∃ t, exec (.lfrEmitterCalLoad k) s = .next t ∧ Completed k s t 0x00 0 0 ∧
        ((s.slot k).u 8 1 = 1 → t.stagedLf = { s.stagedLf with
          gain := { load := s.scan.mapLoad, table := true, handle := (s.slot k).u 10 2, offset := (s.slot k).u 16 8
                    count := s.stagedLf.map.emitters } }) ∧
        ((s.slot k).u 8 1 = 2 → t.stagedLf = { s.stagedLf with gain := { load := s.scan.mapLoad } })) ∧
    (s.cal.lfRun = true →
      ∃ t, exec (.lfrEmitterCalLoad k) s = .next t ∧ Completed k s t 0x14 0x0901 0 ∧
        Keeps (fun p => p == .slots || p == .records) s t)) ∧
  (∀ (s : State) (k kind : Nat) (bs : List Byte), Accepted 0x0603 lutChecks k s → (s.slot k).u 8 1 = kind →
    bs = s.bufBytes ((s.slot k).u 12 2) ((s.slot k).u 16 8) (if kind = 1 then 1536 else 2052) →
    (kind = 1 → bitAt ((s.slot k).u 11 1) 0 = false → s.linUsed < 512 →
      ∃ t, exec (.lfrLutLoad k) s = .next t ∧ Completed k s t 0x00 0 0 ∧
        Tab.get {} t.stagedLf.lin ((s.slot k).u 9 1) = ⟨s.prn.nextLoad, halfwords bs⟩ ∧
        (∀ m, m ≠ (s.slot k).u 9 1 → Tab.get {} t.stagedLf.lin m = Tab.get {} s.stagedLf.lin m) ∧
        t.stagedLf.gamma = s.stagedLf.gamma) ∧
    (kind = 2 → bitAt ((s.slot k).u 11 1) 0 = false → imgZero bs 2050 2052 = none → s.gammaUsed < 48 →
      ∃ t, exec (.lfrLutLoad k) s = .next t ∧ Completed k s t 0x00 0 0 ∧
        Tab.get {} t.stagedLf.gamma ((s.slot k).u 10 1) = ⟨s.prn.nextLoad, halfwords (bs.take 2050)⟩ ∧
        (∀ m, m ≠ (s.slot k).u 10 1 → Tab.get {} t.stagedLf.gamma m = Tab.get {} s.stagedLf.gamma m) ∧
        t.stagedLf.lin = s.stagedLf.lin) ∧
    (bitAt ((s.slot k).u 11 1) 0 = true →
      ∃ t, exec (.lfrLutLoad k) s = .next t ∧ Completed k s t 0x00 0 0 ∧
        (kind = 1 → Tab.get {} t.stagedLf.lin ((s.slot k).u 9 1) = {} ∧ t.stagedLf.gamma = s.stagedLf.gamma) ∧
        (kind = 2 → Tab.get {} t.stagedLf.gamma ((s.slot k).u 10 1) = {} ∧ t.stagedLf.lin = s.stagedLf.lin)) ∧
    (bitAt ((s.slot k).u 11 1) 0 = false → ∀ st det res : Nat,
      ((kind = 1 ∧ 512 ≤ s.linUsed ∧ st = 0x14 ∧ det = 0x0701 ∧ res = 0) ∨
        (kind = 2 ∧ (∃ f, imgZero bs 2050 2052 = some f ∧ st = 0x11 ∧ det = 16 + 256 * f.2 ∧ res = f.1)) ∨
        (kind = 2 ∧ imgZero bs 2050 2052 = none ∧ 48 ≤ s.gammaUsed ∧ st = 0x14 ∧ det = 0x0701 ∧ res = 0)) →
      ∃ t, exec (.lfrLutLoad k) s = .next t ∧ Completed k s t st det res ∧ Keeps (fun p => p == .slots || p == .records) s t)) ∧
  (∀ (s : State) (k : Nat), Accepted 0x0700 scanTimingChecks k s → (s.slot k).u 8 1 = 1 →
    ∃ t, exec (.scanTiming k) s = .next t ∧ Completed k s t 0x00 0 0 ∧
      t.scan.timing = { given := true, depth := (s.slot k).u 9 1, nCut := if (s.slot k).u 10 1 = 0 then 4 else (s.slot k).u 10 1,
                        trigger := (s.slot k).u 11 1, frameNs := (s.slot k).u 12 4, frameFrac := (s.slot k).u 16 4,
                        rowsActive := (s.slot k).u 20 2, rowsBlank := (s.slot k).u 22 2,
                        fifoBands := if (s.slot k).u 24 1 = 0 then 2 else (s.slot k).u 24 1,
                        panicRows := if (s.slot k).u 25 1 = 0 then 4 else (s.slot k).u 25 1 } ∧
      t.frames.nCut = (if (s.slot k).u 10 1 = 0 then 4 else (s.slot k).u 10 1) ∧
      t.stagedLf = { s.stagedLf with offsetA := (s.slot k).u 28 4, offsetB := (s.slot k).u 32 4 } ∧ t.scan.map = s.scan.map) ∧
  (∀ (s : State) (k : Nat) (img : List Byte) (m : PanelMap), Accepted 0x0700 scanTimingChecks k s → (s.slot k).u 8 1 = 2 →
    img = s.bufBytes ((s.slot k).u 12 2) ((s.slot k).u 16 8)
      (Nat.min (16 + 8 * numAt (s.bufBytes ((s.slot k).u 12 2) ((s.slot k).u 16 8) 16) 6 2)
        ((s.buf ((s.slot k).u 12 2)).size - (s.slot k).u 16 8)) →
    m = { subpix := byteAt img 5, cols := numAt img 8 4, nodes := panelNodes img } →
    (panelFieldFault img = none → 16 + 8 * numAt img 6 2 ≤ img.length → stripFault m = none → panelNodeFault s m = none →
      m.cols * m.subpix * s.scan.timing.rowsActive ≤ s.fuse.part.emitterLimit →
      ∃ t, exec (.scanTiming k) s = .next t ∧ Completed k s t 0x00 0 0 ∧ t.scan = { s.scan with map := m } ∧
        t.frames = s.frames) ∧
    (∀ det res : Nat,
      ((∃ f, panelFieldFault img = some f ∧ det = 16 + 256 * f.2 ∧ res = f.1) ∨
        (panelFieldFault img = none ∧ img.length < 16 + 8 * numAt img 6 2 ∧ det = 0x0110 ∧ res = 6) ∨
        (panelFieldFault img = none ∧ 16 + 8 * numAt img 6 2 ≤ img.length ∧ stripFault m = some res ∧ det = 0x0110) ∨
        (panelFieldFault img = none ∧ 16 + 8 * numAt img 6 2 ≤ img.length ∧ stripFault m = none ∧
          panelNodeFault s m = some res ∧ det = 0x0110) ∨
        (panelFieldFault img = none ∧ 16 + 8 * numAt img 6 2 ≤ img.length ∧ stripFault m = none ∧ panelNodeFault s m = none ∧
          s.fuse.part.emitterLimit < m.cols * m.subpix * s.scan.timing.rowsActive ∧ det = 0x0710 ∧ res = 0)) →
      ∃ t, exec (.scanTiming k) s = .next t ∧ Completed k s t 0x11 det res ∧
        Keeps (fun p => p == .slots || p == .records) s t)) ∧
  (∀ (s : State) (k : Nat), Accepted 0x0702 powerPolicyChecks k s →
    ∃ t, exec (.scanPowerPolicy k) s = .next t ∧ Completed k s t 0x00 0 0 ∧
      t.stagedLf = { s.stagedLf with refreshDiv := (s.slot k).u 8 1, staticFrames := (s.slot k).u 10 2 } ∧
      t.scan = s.scan) ∧
  (∀ (s : State) (k : Nat), Accepted 0x0703 splitChecks k s →
    ∃ t, exec (.scanSplitConfig k) s = .next t ∧ Completed k s t 0x00 0 0 ∧
      t.scan.split.waitUs = (if (s.slot k).u 10 2 = 0 then 100 else (s.slot k).u 10 2) ∧
      t.scan.split.miss = (if (s.slot k).u 12 1 = 0 then 3 else (s.slot k).u 12 1) ∧
      ((s.slot k).u 8 1 = 1 → t.scan.split.partner = some ((s.slot k).u 9 1)) ∧
      ((s.slot k).u 8 1 = 2 → t.scan.split.partner = none ∧ t.scan.split.state = .off) ∧
      t.scan.split.repeats = s.scan.split.repeats ∧ t.scan.timing = s.scan.timing)

/-- R109, R112, R114, R115, R268, R278, R285 to R288, R391: START starts the scan at its first frame and start time
with the trigger unit of the timing and commits what is staged, unless the unit is held; UPDATE commits; STOP names
the frame at whose tick the scan ends, the earlier of two. A START or UPDATE that fails a check of a commit changes
nothing. With HITCH, UPDATE and STOP go on executing and propose their frame. Where these rules leave a point open,
the model's choice is in log 27 and 63. -/
def Obligations.ScanCommits : Prop :=
  (∀ (s : State) (k : Nat), Accepted 0x0701 scanCommitChecks k s → (s.slot k).u 16 1 = 1 →
    (s.trigBusy s.scan.timing.trigger .scan = none → s.commitFailure s.newCfg = none →
      ∃ t, exec (.scanCommit k) s = .next t ∧ Completed k s t 0x00 0 (s.frames.genLast + 1).toNat ∧
        t.scan.phase = .starting ∧ t.scan.first = BitVec.ofNat 32 ((s.slot k).u 20 4) ∧ t.scan.start = (s.slot k).u 24 8 ∧
        t.scan.stop = none ∧ t.scan.tickA = (((BitVec.ofNat 32 ((s.slot k).u 20 4) : FrameNo)).toNat, 0) ∧
        t.frames.openFirst = BitVec.ofNat 32 ((s.slot k).u 20 4) ∧ t.frames.genLast = s.frames.genLast + 1 ∧
        (∃ c, t.frames.commits = [c] ∧ c.applied = BitVec.ofNat 32 ((s.slot k).u 20 4)) ∧
        (t.trig s.scan.timing.trigger).holder = .scan ∧ (t.trig s.scan.timing.trigger).running = true ∧
        (t.trig s.scan.timing.trigger).sched.t0 = (s.slot k).u 24 8) ∧
    (∀ op, s.trigBusy s.scan.timing.trigger .scan = some op →
      ∃ t, exec (.scanCommit k) s = .next t ∧ Completed k s t 0x14 op 0 ∧ Keeps (fun p => p == .slots || p == .records) s t) ∧
    (∀ st det res, s.trigBusy s.scan.timing.trigger .scan = none → s.commitFailure s.newCfg = some (st, det, res) →
      ∃ t, exec (.scanCommit k) s = .next t ∧ Completed k s t st det res ∧
        Keeps (fun p => p == .slots || p == .records) s t)) ∧
  (∀ (s : State) (k : Nat) (a : FrameNo), Accepted 0x0701 scanCommitChecks k s → (s.slot k).u 16 1 = 0 →
    (s.slot k).hitch = false → s.commitFailure s.newCfg = none →
    a = s.frames.applied (s.slot k).nextOpen (s.slot k).target →
    ∃ t, exec (.scanCommit k) s = .next t ∧
      Completed k s t (if (s.slot k).nextOpen = true ∨ a = (s.slot k).target then 0x00 else 0x02) 0
        (s.frames.genLast + 1).toNat ∧
      t.frames.genLast = s.frames.genLast + 1 ∧ t.frames.prevApplied = some a ∧ t.frames.openFirst = s.frames.openFirst ∧
      (∃ c, t.frames.commits = s.frames.commits ++ [c] ∧ c.applied = a) ∧ t.scan.phase = s.scan.phase) ∧
  (∀ (s : State) (k st det res : Nat), Accepted 0x0701 scanCommitChecks k s → (s.slot k).u 16 1 = 0 →
    s.commitFailure s.newCfg = some (st, det, res) →
    ∃ t, exec (.scanCommit k) s = .next t ∧ Completed k s t st det res ∧ Keeps (fun p => p == .slots || p == .records) s t) ∧
  (∀ (s : State) (k : Nat) (a : FrameNo), Accepted 0x0701 scanCommitChecks k s → (s.slot k).u 16 1 = 2 →
    (s.slot k).hitch = false → a = s.frames.applied (s.slot k).nextOpen (s.slot k).target →
    ∃ t, exec (.scanCommit k) s = .next t ∧
      Completed k s t (if (s.slot k).nextOpen = true ∨ a = (s.slot k).target then 0x00 else 0x02) 0 0 ∧
      t.scan.phase = .stopping ∧ (s.scan.stop = none → t.scan.stop = some a) ∧
      (∀ b, s.scan.stop = some b → t.scan.stop = some (if FrameNo.later a b then b else a)) ∧ t.frames = s.frames) ∧
  (∀ (s : State) (k m : Nat) (stop : Bool), Accepted 0x0701 scanCommitChecks k s →
    (s.slot k).u 16 1 = (if stop then 2 else 0) → (s.slot k).hitch = true →
    (stop = false → s.commitFailure s.newCfg = none) → m < 16 → m ≠ s.time.hitch.member →
    bitAt s.time.hitch.mask m = true →
    (∀ p ∈ s.time.hitch.proposals, p.member ≠ m ∨ p.frame ≠ (s.slot k).target.toNat) →
    ∃ t, exec (.scanCommit k) s = .next t ∧ (t.slot k).phase = .executing ∧
      t.frames = { s.frames with hitch := s.frames.hitch ++ [⟨k, (s.slot k).id, 0x0701, stop, (s.slot k).target, s.uptime,
        s.uptime, s.newCfg⟩] } ∧
      s.proposal (s.slot k).target ∈ t.time.hitch.proposals ∧ t.cmd.cpl = s.cmd.cpl)

/-- R108, R116, R118, R119, R123, R161, R264, R269, R280, R282: at the cutoff of a scan's earliest OPEN frame that
frame is CUT. A free engine takes the waiting band of the scan with the earliest read point; a band rendered under a
tag that is still current is complete, one under another waits again, one past its read point is dropped. A row tick
that is due moves on to the next row of its group. At its read point the next band is read; on a whole-frame part a
CUT frame is DELIVERING from one frame time before its own. A frame whose rows have left every feeder is COMPLETE and
pins nothing. Before its time each does nothing. R295, R296, R487: a message of the partner for a frame whose own
message has been sent decides the frame: two that agree in every timing field and are both in time lock the panels,
and two that do not leave them as they are; in the lock, two that are both ready and of one hitch commit let the frame
go on, held where both say so, two that are not repeat it, which is no miss, and two that do not agree in time repeat
it and end the lock. A frame for which the partner's message does not come in time is, in the lock, repeated and
counted as a miss, and as many misses as were set end the lock; out of it, it goes on as it is. A message that is none
of the partner's, or with no lock set up, does nothing. Where these rules leave a point open, the model's choice is in
log 27 and 63. -/
def Obligations.ScanRunsAndSplitLock : Prop :=
  (∀ (s : State) (f : FrameNo), s.top.mode = .lightfield → f = s.frames.openFirst →
    (s.lfCutoffDue = true →
      ∃ t, exec .frameCutoff s = .next t ∧ t.frames.openFirst = f + 1 ∧ t.phase f = .cut ∧ t.frames.genCut = s.genOf f ∧
        (t.frame f).gen = s.genOf f) ∧
    (s.lfCutoffDue = false → exec .frameCutoff s = .next s)) ∧
  (∀ s : State, s.top.mode = .none → exec .frameCutoff s = .next s) ∧
  (∀ (s : State) (e : Nat), s.engineFree e = true → s.prn.job.isOpen = false → s.scanning = true →
    (∀ d x, earliest s.lfWaiting = some (d, x) →
      ∃ t, exec (.bandDispatch e) s = .next t ∧
        (∃ y ∈ t.frames.bands, y.phase = .rendering ∧ y.engine = e ∧ y.frame = x.frame ∧ y.bar = x.bar ∧ y.band = x.band ∧
          y.gen = s.genOf x.frame ∧ y.renderStart = s.uptime) ∧
        (∀ z ∈ s.lfWaiting, d ≤ z.1) ∧ t.prn = s.prn) ∧
    (earliest s.lfWaiting = none → exec (.bandDispatch e) s = .next s)) ∧
  (∀ (s : State) (e : Nat) (x : Band), s.top.mode = .lightfield →
    (s.frames.bands.find? fun y => y.phase == .rendering && y.engine == e) = some x → s.memStalled = false →
    s.renderDue x = true →
    (x.fetched = false → s.tagOk x = true →
      ∃ t, exec (.bandRenderEnd e) s = .next t ∧
        ∃ y ∈ t.frames.bands, y.same x = true ∧ y.phase = .complete ∧ y.lines = (s.renderLfBand x).rows) ∧
    (x.fetched = false → s.tagOk x = false →
      ∃ t, exec (.bandRenderEnd e) s = .next t ∧ ∃ y ∈ t.frames.bands, y.same x = true ∧ y.phase = .queued) ∧
    (x.fetched = true →
      ∃ t, exec (.bandRenderEnd e) s = .next t ∧ ∀ y ∈ t.frames.bands, y.same x = true → y.phase ≠ .rendering)) ∧
  (∀ (s : State) (b : Bool),
    (s.rowTickDue b = true →
      ∃ t, exec (.rowTick b) s = .next t ∧ t.tickCursor b = s.rowAfter (s.tickCursor b) ∧
        t.tickCursor (!b) = s.tickCursor (!b) ∧ (s.scan.phase = .starting → t.scan.phase = .scanning) ∧
        t.scan.start = s.scan.start ∧ t.frames.commits = s.frames.commits) ∧
    (s.rowTickDue b = false → exec (.rowTick b) s = .next s)) ∧
  (∀ (s : State) (b : Nat), s.fetchDue b = false →
    (s.fuse.part.wholeFrame = false → s.readDue = true →
      ∃ t, exec (.bandFetchPoint b) s = .next t ∧
        Tab.get (0, 0) t.frames.fetch 0 = s.lfBandAfter (s.nextRead.1.toNat, s.nextRead.2) ∧
        (s.phase s.nextRead.1 = .cut → t.phase s.nextRead.1 = .delivering)) ∧
    (s.fuse.part.wholeFrame = false → s.readDue = false → exec (.bandFetchPoint b) s = .next s) ∧
    (s.fuse.part.wholeFrame = true → s.scanning = true →
      ∃ t, exec (.bandFetchPoint b) s = .next t ∧
        ∀ f ∈ s.liveFrames, s.prevTime f ≤ s.clock → s.phase f = .cut → t.phase f = .delivering) ∧
    (s.fuse.part.wholeFrame = true → s.readDue = false →
      (∀ f ∈ s.liveFrames, s.prevTime f ≤ s.clock → s.phase f ≠ .cut) → exec (.bandFetchPoint b) s = .next s)) ∧
  (∀ (s : State) (f : FrameNo), s.prn.job.isOpen = false → s.scanning = true →
    (s.lfDone f = true → FrameNo.notBefore f s.frames.openFirst = false →
      ∃ t, exec (.frameComplete f) s = .next t ∧ t.phase f = .complete ∧ (t.frame f).pins = [] ∧
        (t.frame f).tEnd = s.time.now) ∧
    (s.lfDone f = false → exec (.frameComplete f) s = .next s)) ∧
  (∀ (s : State) (bs own : List Byte) (m : HitchMsg) (f : FrameNo) (t0 p : Nat), s.time.hitch.joined = true →
    s.hitchMsg bs = some m → m.ty = 0x20 → s.scan.split.partner = some p → m.sender = p → numAt m.body 0 4 = f.toNat →
    s.scan.split.due = [(f.toNat, t0, own)] → s.scan.split.inbox = [] → s.tan.state ≠ .shadow →
    (s.scan.split.state ≠ .off → s.scan.split.state ≠ .locked → sameSplitTiming own m.body = true → verdict own 2 = true → verdict m.body 2 = true →
      ∃ t, exec (.splitReadyRx bs) s = .next t ∧ t.scan.split.state = .locked ∧ t.scan.split.misses = 0 ∧
        t.scan.split.due = [] ∧ t.scan.split.skewPartner = signed 16 (numAt m.body 30 2) ∧ t.frames = s.frames) ∧
    (s.scan.split.state ≠ .off → s.scan.split.state ≠ .locked →
      (sameSplitTiming own m.body && verdict own 2 && verdict m.body 2) = false →
      ∃ t, exec (.splitReadyRx bs) s = .next t ∧ t.scan.split.state = s.scan.split.state ∧
        t.scan.split.misses = s.scan.split.misses ∧ t.scan.split.due = [] ∧ t.frames = s.frames) ∧
    (s.scan.split.state = .locked → sameSplitTiming own m.body = true → verdict own 2 = true → verdict m.body 2 = true →
      verdict own 0 = true → verdict m.body 0 = true → numAt own 12 4 = numAt m.body 12 4 →
      ∃ t, exec (.splitReadyRx bs) s = .next t ∧ t.scan.split.state = .locked ∧ t.scan.split.misses = 0 ∧
        t.scan.split.due = [] ∧ (t.frame f).awaiting = false ∧ (t.frame f).repeated = (s.frame f).repeated ∧
        (t.frame f).lfHeld = (verdict own 1 && verdict m.body 1)) ∧
    (s.scan.split.state = .locked → sameSplitTiming own m.body = true → verdict own 2 = true → verdict m.body 2 = true →
      (verdict own 0 = false ∨ verdict m.body 0 = false ∨ numAt own 12 4 ≠ numAt m.body 12 4) →
      ∃ t, exec (.splitReadyRx bs) s = .next t ∧ (t.frame f).repeated = true ∧ t.scan.split.due = [] ∧
        t.scan.split.misses = s.scan.split.misses ∧
        t.scan.split.state = if s.scan.split.miss ≤ s.scan.split.misses then .alone else .locked) ∧
    (s.scan.split.state = .locked → (sameSplitTiming own m.body && verdict own 2 && verdict m.body 2) = false →
      ∃ t, exec (.splitReadyRx bs) s = .next t ∧ t.scan.split.state = .alone ∧ (t.frame f).repeated = true ∧
        t.scan.split.repeats = Nat.min 65535 (s.scan.split.repeats + 1))) ∧
  (∀ (s : State) (bs : List Byte), (s.time.hitch.joined = false ∨ s.scan.split.state = .off ∨
      ∃ m, s.hitchMsg bs = some m ∧ (m.ty ≠ 0x20 ∨ (s.scan.split.partner ≠ some m.sender ∧
        (m.sender ≠ s.time.hitch.member ∨ s.tan.state ≠ .shadow)))) → exec (.splitReadyRx bs) s = .next s) ∧
  (∀ (s : State) (f : FrameNo) (e : Nat × Nat × List Byte),
    s.scan.split.due.find? (fun e => e.1 == f.toNat && decide (e.2.1 + 1000 * s.scan.split.waitUs ≤ s.time.now)) = some e →
    s.tan.state ≠ .shadow → (∀ m ∈ s.scan.split.inbox, m.1 ≠ f.toNat) →
    (s.scan.split.state = .locked →
      ∃ t, exec (.splitWaitExpiry f) s = .next t ∧ (t.frame f).repeated = true ∧ (t.frame f).pins = [] ∧
        bitAt (t.frame f).flags Flag.pairedRepeat.bit = true ∧ t.scan.split.misses = s.scan.split.misses + 1 ∧
        t.scan.split.repeats = Nat.min 65535 (s.scan.split.repeats + 1) ∧
        t.scan.split.state = if s.scan.split.miss ≤ s.scan.split.misses + 1 then .alone else .locked) ∧
    (s.scan.split.state ≠ .locked →
      ∃ t, exec (.splitWaitExpiry f) s = .next t ∧ t.frames = s.frames ∧ t.scan.split.state = s.scan.split.state ∧
        ∀ x ∈ t.scan.split.due, x.1 ≠ f.toNat)) ∧
  (∀ (s : State) (f : FrameNo),
    s.scan.split.due.find? (fun e => e.1 == f.toNat && decide (e.2.1 + 1000 * s.scan.split.waitUs ≤ s.time.now)) = none →
    exec (.splitWaitExpiry f) s = .next s)

/-! ### Block CAM -/

/-- R301, R308 to R311, R314 to R316, R391, R431, R478: CAM_CONTEXT gives a port, a stream or a context the fields of
its descriptor, or releases a stream or a context, unless one that runs holds it; CAM_SETTINGS makes an image's
settings state the pending one of its stream or merges it into that, and refuses an image with a fault; CAM_OUTPUT
stages a binding with its rate, or unbinds; CAM_START starts the contexts named and takes their trigger units, and
CAM_STOP stops them and frees the units that no running stream names. Beside each stand the refusals, which change
nothing. That the load is judged before a held unit is the model's choice (log 67). Where these rules leave a point
open, the model's choice is in log 36 and 67. -/
def Obligations.CamCommands : Prop :=
  (∀ (s : State) (k p : Nat), Accepted 0x0800 camContextChecks k s → (s.slot k).u 8 1 = 1 → (s.slot k).u 9 1 = p →
    ((∀ n, n < 8 → (s.stream n).set = true → (s.stream n).port = p → s.streamRuns n = false) →
      ∃ t, exec (.camContext k) s = .next t ∧ Completed k s t 0x00 0 0 ∧
        t.camPort p = { s.camPort p with
          lanes := (s.slot k).u 10 1, laneMap := (s.slot k).u 11 1, polarity := (s.slot k).u 12 1
          i2cSpeed := (s.slot k).u 13 1, mbps := (s.slot k).u 14 2, deskew := false } ∧
        (∀ n, n ≠ p → t.camPort n = s.camPort n) ∧ t.cam.streams = s.cam.streams ∧ t.cam.ctxs = s.cam.ctxs) ∧
    ((∃ n, n < 8 ∧ (s.stream n).set = true ∧ (s.stream n).port = p ∧ s.streamRuns n = true) →
      ∃ t, exec (.camContext k) s = .next t ∧ Completed k s t 0x14 0x0803 0 ∧
        Keeps (fun p => p == .slots || p == .records) s t)) ∧
  (∀ (s : State) (k n : Nat), Accepted 0x0800 camContextChecks k s → (s.slot k).u 8 1 = 2 → (s.slot k).u 9 1 = n →
    (s.streamRuns n = false →
      ∃ t, exec (.camContext k) s = .next t ∧ Completed k s t 0x00 0 0 ∧
        t.stream n = { s.stream n with
          set := true, port := (s.slot k).u 10 1, vc := (s.slot k).u 11 1, i2cAddr := (s.slot k).u 12 1
          latency := (s.slot k).u 13 1, trigger := (s.slot k).u 14 1, strobeCount := (s.slot k).u 15 1
          strobeSeq := (s.slot k).u 16 3, format := (s.slot k).u 19 1, windowUs := (s.slot k).u 20 2
          sofMaxUs := (s.slot k).u 22 2, width := (s.slot k).u 24 2, height := (s.slot k).u 26 2
          viewOffset := (s.slot k).i 28 4, viewLines := (s.slot k).u 32 4, maxLineRate := (s.slot k).u 36 4
          cfa := (s.slot k).u 40 1, strobeDelay := (s.slot k).u 44 4, strobeWidthUs := (s.slot k).u 48 2
          seqPos := 0, entries := [] } ∧
        (∀ m, m ≠ n → t.stream m = s.stream m) ∧ t.cam.ports = s.cam.ports ∧ t.cam.ctxs = s.cam.ctxs) ∧
    (s.streamRuns n = true →
      ∃ t, exec (.camContext k) s = .next t ∧ Completed k s t 0x14 0x0803 0 ∧
        Keeps (fun p => p == .slots || p == .records) s t)) ∧
  (∀ (s : State) (k c : Nat), Accepted 0x0800 camContextChecks k s → (s.slot k).u 9 1 = c →
    ((s.slot k).u 8 1 = 3 → (s.ctx c).state ≠ .started →
      ∃ t, exec (.camContext k) s = .next t ∧ Completed k s t 0x00 0 0 ∧
        t.ctx c = { s.ctx c with
          state := .configured, halted := false, stream := (s.slot k).u 10 1, band := (s.slot k).u 11 1
          priority := (s.slot k).u 12 1, dropCorrupt := bitAt ((s.slot k).u 13 1) 0 } ∧
        (∀ m, m ≠ c → t.ctx m = s.ctx m) ∧ t.cam.ports = s.cam.ports ∧ t.cam.streams = s.cam.streams) ∧
    ((s.slot k).u 8 1 = 4 → (s.slot k).u 10 1 = 1 → (s.ctx c).state ≠ .started →
      ∃ t, exec (.camContext k) s = .next t ∧ Completed k s t 0x00 0 0 ∧ (t.ctx c).state = .unconfigured ∧
        (t.ctx c).staged = [] ∧ (t.ctx c).outs = [] ∧
        (∀ e ∈ t.mem.held, e.1 ≠ outKey c 1 ∧ e.1 ≠ outKey c 2 ∧ e.1 ≠ outKey c 3) ∧
        (∀ m, m ≠ c → t.ctx m = s.ctx m) ∧ t.cam.streams = s.cam.streams) ∧
    (((s.slot k).u 8 1 = 3 ∨ ((s.slot k).u 8 1 = 4 ∧ (s.slot k).u 10 1 = 1)) → (s.ctx c).state = .started →
      ∃ t, exec (.camContext k) s = .next t ∧ Completed k s t 0x14 0x0803 0 ∧
        Keeps (fun p => p == .slots || p == .records) s t)) ∧
  (∀ (s : State) (k n : Nat), Accepted 0x0800 camContextChecks k s → (s.slot k).u 8 1 = 4 → (s.slot k).u 10 1 = 2 →
    (s.slot k).u 9 1 = n →
    (s.ctxsOf n = [] →
      ∃ t, exec (.camContext k) s = .next t ∧ Completed k s t 0x00 0 0 ∧ t.stream n = {} ∧
        (∀ m, m ≠ n → t.stream m = s.stream m) ∧ t.cam.ctxs = s.cam.ctxs) ∧
    (s.ctxsOf n ≠ [] →
      ∃ t, exec (.camContext k) s = .next t ∧
        Completed k s t 0x14 (if s.streamRuns n = true then 0x0803 else 0x0800) 0 ∧
        Keeps (fun p => p == .slots || p == .records) s t)) ∧
  (∀ (s : State) (k n : Nat) (g : Nat → Nat → Nat), Accepted 0x0801 camSettingsChecks k s →
    n = (s.ctx ((s.slot k).u 8 1)).stream →
    (∀ off len, g off len = s.dram.num ((s.buf ((s.slot k).u 12 2)).base + (s.slot k).u 16 8 + off) len) →
    (settingsFault g = none →
      (s.slot k).u 16 8 + settingsExtent (g 5 1) (g 6 2) (g 8 4) ≤ (s.buf ((s.slot k).u 12 2)).size →
      ((s.stream n).pending = none →
        ∃ t, exec (.camSettings k) s = .next t ∧ Completed k s t 0x01 0 0 ∧
          (t.stream n).pending = some { id := (s.slot k).u 10 2, cmd := (s.slot k).id
                                        parts := [((s.slot k).u 8 1, (settingsOf g).parts)]
                                        script := (settingsOf g).script } ∧
          (∀ m, m ≠ n → t.stream m = s.stream m) ∧ t.cam.ctxs = s.cam.ctxs) ∧
      (∀ p, (s.stream n).pending = some p → p.script.length + (settingsOf g).script.length ≤ 64 → Queues s 0x08 0x0002 →
        ∃ t, exec (.camSettings k) s = .next t ∧ Completed k s t 0x01 0 0 ∧
          (t.stream n).pending = some { p with
            id := (s.slot k).u 10 2, cmd := (s.slot k).id
            parts := Tab.put {} p.parts ((s.slot k).u 8 1)
              ((settingsOf g).parts.above (Tab.get {} p.parts ((s.slot k).u 8 1)))
            script := p.script ++ (settingsOf g).script } ∧
          (∀ m, m ≠ n → t.stream m = s.stream m) ∧ t.cam.ctxs = s.cam.ctxs ∧
          Waits t 0x08 0x0002
            (le 1 n ++ le 2 p.id ++ le 1 1 ++ le 4 0 ++ le 4 0 ++ le 1 (Nat.min 255 p.slips) ++ le 1 0))) ∧
    (∀ det res : Nat,
      ((settingsFault g = some res ∧ det = 0x0110) ∨
        (settingsFault g = none ∧ det = 0x0110 ∧ res = 0 ∧
          (s.buf ((s.slot k).u 12 2)).size < (s.slot k).u 16 8 + settingsExtent (g 5 1) (g 6 2) (g 8 4)) ∨
        (settingsFault g = none ∧ det = 0x010C ∧ res = 0 ∧
          (s.slot k).u 16 8 + settingsExtent (g 5 1) (g 6 2) (g 8 4) ≤ (s.buf ((s.slot k).u 12 2)).size ∧
          ∃ p, (s.stream n).pending = some p ∧ 64 < p.script.length + (settingsOf g).script.length)) →
      ∃ t, exec (.camSettings k) s = .next t ∧ Completed k s t 0x11 det res ∧
        Keeps (fun p => p == .slots || p == .records) s t)) ∧
  (∀ (s : State) (k c kind rc rate : Nat) (o : CamOut) (rects : List (Nat × Nat × Nat × Nat)),
    Accepted 0x0802 camOutputChecks k s → (s.slot k).u 8 1 = c → (s.slot k).u 9 1 = kind → (s.slot k).u 38 2 = rc →
    o = camOutOf (s.slot k) (Tab.get {} (s.ctx c).staged kind) →
    rects = rectsAt s ((s.buf ((s.slot k).u 40 2)).base + (s.slot k).u 48 8) rc →
    rate = ceilDiv (outSize (s.stream (s.ctx c).stream) kind o * (s.stream (s.ctx c).stream).maxLineRate)
      (s.stream (s.ctx c).stream).height →
    ((rc = 0 ∨ ((s.ctx c).calRects = false ∧ ∀ r ∈ rects, r.2.2.1 ≠ 0 ∧ r.2.2.2 ≠ 0)) →
      ((s.slot k).u 20 1 = 0 →
        ∃ t, exec (.camOutput k) s = .next t ∧ Completed k s t 0x00 0 0 ∧
          t.ctx c = { s.ctx c with
            stagedRects := if 0 < rc then rects else (s.ctx c).stagedRects
            staged := Tab.put {} (s.ctx c).staged kind {} } ∧
          (∀ m, m ≠ c → t.ctx m = s.ctx m) ∧ t.mem.held = s.mem.held.filter fun e => e.1 != outKey c kind) ∧
      ((s.slot k).u 20 1 ≠ 0 → s.admits (outKey c kind) rate = true →
        ∃ t, exec (.camOutput k) s = .next t ∧ Completed k s t 0x00 0 0 ∧
          t.ctx c = { s.ctx c with
            stagedRects := if 0 < rc then rects else (s.ctx c).stagedRects
            staged := Tab.put {} (s.ctx c).staged kind o } ∧
          (∀ m, m ≠ c → t.ctx m = s.ctx m) ∧
          t.mem.held = (s.mem.held.filter fun e => e.1 != outKey c kind) ++ [(outKey c kind, rate)]) ∧
      ((s.slot k).u 20 1 ≠ 0 → s.admits (outKey c kind) rate = false →
        ∃ t, exec (.camOutput k) s = .next t ∧ Completed k s t 0x15 s.bulkFree 0 ∧ t.cam = s.cam ∧
          t.mem.held = s.mem.held)) ∧
    (∀ st det res : Nat, 0 < rc →
      (((s.ctx c).calRects = true ∧ st = 0x14 ∧ det = 0x0902 ∧ res = 0) ∨
        ((s.ctx c).calRects = false ∧ st = 0x11 ∧ det = 0x0130 ∧
          ∃ i r, rects[i]? = some r ∧ (r.2.2.1 = 0 ∨ r.2.2.2 = 0) ∧ res = 8 * i + (if r.2.2.1 = 0 then 4 else 6) ∧
            ∀ j q, j < i → rects[j]? = some q → q.2.2.1 ≠ 0 ∧ q.2.2.2 ≠ 0)) →
      ∃ t, exec (.camOutput k) s = .next t ∧ Completed k s t st det res ∧
        Keeps (fun p => p == .slots || p == .records) s t)) ∧
  (∀ (s : State) (k : Nat) (l fresh : List Nat), Accepted 0x0803 camStartChecks k s →
    l = (eight.filter fun c => bitAt ((s.slot k).u 8 1) c || (s.ctx c).state == .started) →
    fresh = (eight.filter fun n => !s.streamRuns n &&
      eight.any fun c => bitAt ((s.slot k).u 8 1) c && (s.ctx c).stream == n) →
    (s.camLoad l ≤ 10 ^ 9 →
      (∀ n ∈ fresh, (s.stream n).trigger ≠ 0xFF →
        (s.trig (s.stream n).trigger).holder = .none ∨ (s.trig (s.stream n).trigger).holder = .host ∨
          (s.trig (s.stream n).trigger).holder = .camera) →
      ∃ t, exec (.camStart k) s = .next t ∧ Completed k s t 0x00 0 (maskOf l) ∧
        (∀ c, t.ctx c = if c < 8 ∧ bitAt ((s.slot k).u 8 1) c = true then
          { s.ctx c with state := .started, halted := false } else s.ctx c) ∧
        (∀ n, t.stream n = if n ∈ fresh then
          { s.stream n with
            pending := (s.stream n).pending.map fun p => { p with pre := true, tFs := some s.time.now, n0 := none }
            seqPos := 0, entries := [] } else s.stream n) ∧
        (∀ n ∈ fresh, (s.stream n).trigger ≠ 0xFF → (t.trig (s.stream n).trigger).holder = .camera)) ∧
    (10 ^ 9 < s.camLoad l →
      ∃ t, exec (.camStart k) s = .next t ∧ Completed k s t 0x11 0x0108 (s.camLoad l / 10 ^ 6) ∧
        Keeps (fun p => p == .slots || p == .records) s t) ∧
    (∀ n, s.camLoad l ≤ 10 ^ 9 → fresh = [n] → (s.stream n).trigger ≠ 0xFF →
      (s.trig (s.stream n).trigger).holder ≠ .none → (s.trig (s.stream n).trigger).holder ≠ .host →
      (s.trig (s.stream n).trigger).holder ≠ .camera →
      ∃ t, exec (.camStart k) s = .next t ∧
        Completed k s t 0x14 (s.trig (s.stream n).trigger).holder.opcode 0 ∧
        Keeps (fun p => p == .slots || p == .records) s t)) ∧
  (∀ (s : State) (k : Nat), Accepted 0x0804 camStopChecks k s →
    ∃ t, exec (.camStop k) s = .next t ∧ Completed k s t 0x00 0 0 ∧
      (∀ c, t.ctx c = if c < 8 ∧ bitAt ((s.slot k).u 8 1) c = true ∧ (s.ctx c).state = .started then
        { s.ctx c with state := .configured, halted := true } else s.ctx c) ∧
      t.cam.streams = s.cam.streams ∧
      ((∀ c, (s.ctx c).stream < 8) → ∀ (u : Nat) (frees : Prop),
        (frees ↔ (u ≠ 0xFF ∧ (s.trig u).holder = .camera ∧
          (∃ c, c < 8 ∧ bitAt ((s.slot k).u 8 1) c = true ∧ (s.ctx c).state = .started ∧
            (s.stream (s.ctx c).stream).trigger = u) ∧
          ∀ m, m < 8 → (s.stream m).trigger = u → t.streamRuns m = false)) →
        (frees → t.trig u = { s.trig u with holder := .none, running := false }) ∧ (¬ frees → t.trig u = s.trig u)))

/-- R300, R302 to R305, R309, R312, R313, R315, R317: an FS starts the next frame of its stream, paired with the
earliest exposure that is not too old and with the started context of its band; a RAW line joins the frame in
progress, and where an input store is full the frame of the lowest priority is abandoned; other packets are charged
and discarded; an FE, or the next FS, ends the frame, which fills the handle that each output took, or loses it; the
script of a settings state is written after its FS or slips, and the state comes into force LATENCY frames on; a
strobe pulse ends. The packets of a port that is not configured change nothing. Where these rules leave a point open,
the model's choice is in log 36 and 67. -/
def Obligations.CamFrames : Prop :=
  (∀ (s : State) (port vc ecc n : Nat) (deskew : Bool) (old l : List Exposure), (s.camPort port).lanes ≠ 0 → ecc ≤ 1 →
    s.streamAt port vc = some n →
    old = ((s.stream n).entries.filter fun e => decide (e.time + 1000 * (s.stream n).sofMaxUs < s.time.now)) →
    l = ((s.stream n).entries.filter fun e => !decide (e.time + 1000 * (s.stream n).sofMaxUs < s.time.now)) →
    ∃ t f, exec (.csiFrameStart port vc ecc deskew) s = .next t ∧ (t.stream n).frame = some f ∧ (t.stream n).seen = true ∧
      f.seq = (if (s.stream n).seen then (s.stream n).camSeq + 1 else (s.stream n).camSeq) ∧ (t.stream n).camSeq = f.seq ∧
      f.tSof = s.time.now ∧ f.lines = [] ∧ f.ecc = ecc ∧
      (l = [] → f.unpaired = true ∧ f.band = 0x0F ∧ f.tRef = s.time.now ∧ f.hwm = s.web.hwm) ∧
      (∀ e r, l = e :: r →
        f.unpaired = false ∧ f.band = e.band ∧ f.tRef = e.time ∧ f.hwm = e.hwm ∧ f.suppressed = e.suppressed) ∧
      (t.stream n).entries = l.drop 1 ∧ (t.stream n).orphan = Nat.min 65535 ((s.stream n).orphan + old.length) ∧
      (t.stream n).unpaired = Nat.min 65535 ((s.stream n).unpaired + if l = [] then 1 else 0) ∧
      f.ctx = (s.ctxsOf n).find? fun c => (s.ctx c).state == .started && (s.ctx c).band == f.band) ∧
  (∀ (s : State) (port vc dt ecc n : Nat) (bs : List Byte) (ok : Bool) (f : CamFrame), (s.camPort port).lanes ≠ 0 → ecc ≤ 1 →
    rawType dt = true → s.streamAt port vc = some n → (s.stream n).frame = some f →
    (∀ m, m < 8 → (s.cam.waiting.filter fun e => e.2.1 == m).length < 6) →
    ∃ t g, exec (.csiLinePacket port vc dt bs ecc ok) s = .next t ∧ (t.stream n).frame = some g ∧
      g.lines = (if f.abandoned = false ∧ f.lines.length < (s.stream n).height then
        f.lines ++ [fitLine (s.stream n).width (unpackRaw (rawBits (s.stream n).format) bs)] else f.lines) ∧
      g.seq = f.seq ∧ g.ecc = f.ecc + ecc ∧ g.crc = f.crc + (if ok then 0 else 1) ∧
      (g.corrupt = true ↔ f.corrupt = true ∨ dt ≠ (s.stream n).format ∨ ok = false ∨
        (unpackRaw (rawBits (s.stream n).format) bs).length ≠ (s.stream n).width ∨
        (s.stream n).height ≤ f.lines.length)) ∧
  (∀ (s : State) (port vc dt ecc n m c : Nat) (bs : List Byte) (ok : Bool) (f g0 : CamFrame), (s.camPort port).lanes ≠ 0 →
    ecc ≤ 1 → rawType dt = true → s.streamAt port vc = some n → (s.stream n).frame = some f → s.uptime < s.cam.freeAt →
    (∃ i, i < 8 ∧ 6 ≤ (s.cam.waiting.filter fun e => e.2.1 == i).length) → m < 8 → (s.stream m).frame = some g0 →
    g0.abandoned = false → g0.ctx = some c →
    (∀ e ∈ s.ctxFrames, e ≠ (c, m) → (s.ctx e.1).priority < (s.ctx c).priority) →
    ∃ t g, exec (.csiLinePacket port vc dt bs ecc ok) s = .next t ∧ (t.stream m).frame = some g ∧ g.abandoned = true ∧
      g.lines = [] ∧ (t.ctx c).arbDrop = Nat.min 65535 ((s.ctx c).arbDrop + 1) ∧
      (t.ctx c).dropped = (s.ctx c).dropped + 1) ∧
  (∀ (s : State) (port vc dt ecc : Nat) (bs : List Byte) (ok deskew : Bool),
    ((s.camPort port).lanes = 0 →
      exec (.csiFrameStart port vc ecc deskew) s = .next s ∧ exec (.csiLinePacket port vc dt bs ecc ok) s = .next s ∧
        exec (.camFrameDone port vc ecc) s = .next s) ∧
    ((s.camPort port).lanes ≠ 0 → ecc ≤ 1 → dt ≠ 0x02 → dt ≠ 0x03 →
      (rawType dt = false ∨ s.streamAt port vc = none ∨ ∃ n, s.streamAt port vc = some n ∧ (s.stream n).frame = none) →
      ∃ t, exec (.csiLinePacket port vc dt bs ecc ok) s = .next t ∧
        (t.camPort port).typeDrop = Nat.min 65535 ((s.camPort port).typeDrop + 1) ∧ t.cam.ctxs = s.cam.ctxs ∧
        ∀ n f, s.streamAt port vc = some n → (s.stream n).frame = some f →
          (t.stream n).frame = some { f with
            ecc := f.ecc + ecc, crc := f.crc + (if ok || decide (dt < 0x10) then 0 else 1)
            corrupt := f.corrupt || !(ok || decide (dt < 0x10)) }) ∧
    ((s.camPort port).lanes ≠ 0 → ecc ≤ 1 → (dt = 0x02 ∨ dt = 0x03) →
      ∃ t, exec (.csiLinePacket port vc dt bs ecc ok) s = .next t ∧
        (t.camPort port).typeDrop = (s.camPort port).typeDrop ∧ t.cam.ctxs = s.cam.ctxs ∧
        ∀ n f, s.streamAt port vc = some n → (s.stream n).frame = some f →
          (t.stream n).frame = some { f with ecc := f.ecc + ecc }) ∧
    ((s.camPort port).lanes ≠ 0 → ecc ≤ 1 → s.streamAt port vc = none →
      (∃ t, exec (.csiFrameStart port vc ecc deskew) s = .next t ∧
        (t.camPort port).typeDrop = Nat.min 65535 ((s.camPort port).typeDrop + 1) ∧ t.cam.streams = s.cam.streams) ∧
      (∃ t, exec (.camFrameDone port vc ecc) s = .next t ∧
        (t.camPort port).typeDrop = Nat.min 65535 ((s.camPort port).typeDrop + 1) ∧ t.cam.streams = s.cam.streams)) ∧
    ((s.camPort port).lanes ≠ 0 → 1 < ecc → ∀ i, i = .csiFrameStart port vc ecc deskew ∨
        i = .csiLinePacket port vc dt bs ecc ok ∨ i = .camFrameDone port vc ecc →
      ∃ t, exec i s = .next t ∧
        (∀ n f, s.streamAt port vc = some n → (s.stream n).frame = some f →
          (t.stream n).frame = some { f with crc := f.crc + 1, corrupt := true } ∧
            (t.camPort port).typeDrop = (s.camPort port).typeDrop) ∧
        ((s.streamAt port vc = none ∨ ∃ n, s.streamAt port vc = some n ∧ (s.stream n).frame = none) →
          (t.camPort port).typeDrop = Nat.min 65535 ((s.camPort port).typeDrop + 1) ∧ t.cam.streams = s.cam.streams))) ∧
  (∀ (s : State) (port vc ecc n : Nat), (s.camPort port).lanes ≠ 0 → ecc ≤ 1 → s.streamAt port vc = some n →
    ((s.stream n).frame = none →
      ∃ t, exec (.camFrameDone port vc ecc) s = .next t ∧ t.cam.streams = s.cam.streams ∧ t.cam.ctxs = s.cam.ctxs ∧
        t.cmd = s.cmd ∧ t.dram = s.dram) ∧
    (∀ (f : CamFrame) (bad : Bool), (s.stream n).frame = some f →
      bad = (f.corrupt || decide (f.lines.length ≠ (s.stream n).height)) →
      (f.ctx = none →
        ∃ t, exec (.camFrameDone port vc ecc) s = .next t ∧ (t.stream n).frame = none ∧ t.cam.ctxs = s.cam.ctxs ∧
          t.cmd = s.cmd ∧ t.dram = s.dram) ∧
      (∀ c, f.ctx = some c → f.abandoned = true →
        ∃ t, exec (.camFrameDone port vc ecc) s = .next t ∧ (t.stream n).frame = none ∧
          t.ctx c = { s.ctx c with eccCorr := Nat.min 65535 ((s.ctx c).eccCorr + (f.ecc + ecc))
                                   crcErr := Nat.min 65535 ((s.ctx c).crcErr + f.crc) } ∧
          t.cmd = s.cmd ∧ t.dram = s.dram) ∧
      (∀ c, f.ctx = some c → f.abandoned = false → bad = true → (s.ctx c).dropCorrupt = true →
        ∃ t, exec (.camFrameDone port vc ecc) s = .next t ∧ (t.stream n).frame = none ∧
          (t.ctx c).corruptDrop = Nat.min 65535 ((s.ctx c).corruptDrop + 1) ∧
          (t.ctx c).dropped = (s.ctx c).dropped + 1 ∧ (t.ctx c).lastSeq = (s.ctx c).lastSeq ∧
          t.cmd.bufs = s.cmd.bufs ∧ t.dram = s.dram) ∧
      (∀ c, f.ctx = some c → f.abandoned = false → (bad = false ∨ (s.ctx c).dropCorrupt = false) →
        ∃ t, exec (.camFrameDone port vc ecc) s = .next t ∧ (t.stream n).frame = none ∧ (t.ctx c).lastSeq = f.seq ∧
          (t.ctx c).lastId = f.id ∧ (t.ctx c).dropped = 0 ∧
          (t.ctx c).corruptSent = Nat.min 65535 ((s.ctx c).corruptSent + if bad then 1 else 0) ∧
          (∀ kind, (kind = 1 ∨ kind = 2 ∨ kind = 3) → (Tab.get {} f.outs kind).handles ≠ [] →
            (∀ j, (j = 1 ∨ j = 2 ∨ j = 3) → j ≠ kind → (Tab.get {} f.outs j).handles = []) →
            (∀ h, Tab.get none f.taken kind = some (h, (s.buf h).base, (s.buf h).size) → (s.buf h).state = .filling →
              (t.buf h).state = .ready ∧ (t.buf h).gen = (s.buf h).gen + 1 ∧
                t.dram.num (s.buf h).base 4 = f.seq.toNat ∧ (t.ctx c).outLost = (s.ctx c).outLost) ∧
            ((∀ h b z, Tab.get none f.taken kind = some (h, b, z) →
                (s.buf h).state ≠ .filling ∨ (s.buf h).base ≠ b ∨ (s.buf h).size ≠ z) →
              t.cmd.bufs = s.cmd.bufs ∧ t.dram = s.dram ∧
                (t.ctx c).outLost = Nat.min 65535 ((s.ctx c).outLost + 1)))))) ∧
  (∀ (s : State) (port : Nat),
    ((∃ m, m < 8 ∧ (s.stream m).set = true ∧ (s.stream m).port = port ∧ (s.stream m).writing ≠ none) ∨
        s.scriptNext port = none → exec (.scriptWriteStart port) s = .next s) ∧
    ∀ (n t0 : Nat) (p : CamState),
      (∀ m, m < 8 → (s.stream m).set = true → (s.stream m).port = port → (s.stream m).writing = none) →
      s.scriptNext port = some (n, p, t0) →
      ((p.pre = true ∨ s.time.now + scriptTime (s.camPort port).i2cSpeed p.script ≤ t0 + 1000 * (s.stream n).windowUs) →
        ∃ t, exec (.scriptWriteStart port) s = .next t ∧
          t.stream n = { s.stream n with pending := none, writing := some p } ∧ ∀ m, m ≠ n → t.stream m = s.stream m) ∧
      (p.pre = false → t0 + 1000 * (s.stream n).windowUs < s.time.now + scriptTime (s.camPort port).i2cSpeed p.script →
        ∃ t, exec (.scriptWriteStart port) s = .next t ∧
          t.stream n = { s.stream n with pending := some { p with tFs := none, slips := p.slips + 1 } } ∧
          ∀ m, m ≠ n → t.stream m = s.stream m)) ∧
  (∀ (s : State) (port : Nat),
    ((∀ m, m < 8 → (s.stream m).set = true → (s.stream m).port = port → (s.stream m).writing = none) →
      ∀ nak, exec (.scriptWriteDone port nak) s = .next s) ∧
    ∀ (n : Nat) (p : CamState) (next nn first : FrameNo),
      (eight.find? fun n => (s.stream n).set && (s.stream n).port == port && (s.stream n).writing.isSome) = some n →
      (s.stream n).writing = some p → Queues s 0x08 0x0002 →
      next = (if (s.stream n).seen then (s.stream n).camSeq + 1 else (s.stream n).camSeq) →
      nn = (if p.pre then next else p.n0.getD next + BitVec.ofNat 32 p.slips) →
      first = (if p.pre then next else
        nn + BitVec.ofNat 32 ((s.stream n).latency +
          if p.tFs.any (fun t0 => decide (t0 + 1000 * (s.stream n).windowUs < s.time.now)) then 1 else 0)) →
      (∃ t e, exec (.scriptWriteDone port none) s = .next t ∧ (t.stream n).writing = none ∧
        (t.stream n).due = (s.stream n).due ++ [e] ∧ e.id = p.id ∧ e.parts = p.parts ∧ e.first = first ∧
        t.out = s.out ++ p.script.map (fun e => .i2c port (s.stream n).i2cAddr e.bytes) ∧
        Waits t 0x08 0x0002 (le 1 n ++ le 2 p.id ++ le 1 0 ++ le 4 nn.toNat ++ le 4 first.toNat ++
          le 1 (Nat.min 255 p.slips) ++ le 1 0)) ∧
      (∀ i, ∃ t, exec (.scriptWriteDone port (some i)) s = .next t ∧ (t.stream n).writing = none ∧
        (t.stream n).due = (s.stream n).due ∧
        t.out = s.out ++ (p.script.take (i + 1)).map (fun e => .i2c port (s.stream n).i2cAddr e.bytes) ∧
        Waits t 0x08 0x0002 (le 1 n ++ le 2 p.id ++ le 1 2 ++ le 4 nn.toNat ++ le 4 0 ++
          le 1 (Nat.min 255 p.slips) ++ le 1 i))) ∧
  (∀ (s : State) (b : Nat) (l : List (Nat × Nat)), l = (Tab.get (α := Strobe) {} s.cam.strobes b).pulses →
    ∃ t, exec (.strobeEnd b) s = .next t ∧
      (Tab.get (α := Strobe) {} t.cam.strobes b).pulses = (l.filter fun p => !decide (p.2 ≤ s.time.now)) ∧
      t.out = s.out ++ ((l.filter fun p => decide (p.2 ≤ s.time.now) &&
        !l.any fun q => decide (q.1 ≤ p.2) && decide (p.2 < q.2)).map fun p => .strobe b p.2 false) ∧
      (∀ c, c ≠ b → Tab.get (α := Strobe) {} t.cam.strobes c = Tab.get {} s.cam.strobes c) ∧ t.cam.streams = s.cam.streams)

/-! ### Block CAL -/

/-- R324, R325, R330, R334, R337, R339, R345 to R348, R463, R478: CAL_TARGETS stores a faultless image of an idle
instance and refuses another; a CAL_RUN joins the run that is under way or pending, starts one where the preconditions
hold and is refused otherwise, a light-field run sending its gantry to its first position or failing with AXIS;
CLEAR_LIST commits lists with the bars cleared, or waits for a place; CAL_POLICY sets a policy, for a print kind takes
or gives back the trigger unit and the statistics of its contexts, and ends what a disabled instance has under way;
CAL_QUERY answers. Where these rules leave a point open, the model's choice is in log 37 and 68. -/
def Obligations.CalCommands : Prop :=
  (∀ (s : State) (k n : Nat) (tg : CalTargets) (f : PF), Accepted 0x0900 calTargetsChecks k s → n = (s.slot k).cal →
    tg = s.targetsAt ((s.slot k).u 10 2) ((s.slot k).u 16 8) →
    f = targetsFault n tg (s.stream tg.stream) ((s.buf ((s.slot k).u 10 2)).size - (s.slot k).u 16 8) →
    ((s.calInst n).state = .idle → f = none →
      ∃ t, exec (.calTargets k) s = .next t ∧ Completed k s t 0x00 0 0 ∧
        t.calInst n = { s.calInst n with targets := some tg } ∧ ∀ m, m ≠ n → t.calInst m = s.calInst m) ∧
    (∀ st det res : Nat,
      (((s.calInst n).state ≠ .idle ∧ st = 0x14 ∧ det = 0x0901 ∧ res = 0) ∨
        ((s.calInst n).state = .idle ∧ st = 0x11 ∧ ∃ e, f = some e ∧ det = 16 + 256 * e.2 ∧ res = e.1)) →
      ∃ t, exec (.calTargets k) s = .next t ∧ Completed k s t st det res ∧
        Keeps (fun p => p == .slots || p == .records) s t)) ∧
  (∀ (s : State) (k n : Nat), Accepted 0x0901 calRunChecks k s → (s.slot k).u 10 1 = 1 → n = (s.slot k).cal →
    ((s.calInst n).state ≠ .idle →
      ∃ t, exec (.calRun k) s = .next t ∧ (t.slot k).phase = .executing ∧
        t.calInst n = { s.calInst n with waiters := (s.calInst n).waiters ++ [(k, (s.slot k).id)] }) ∧
    ((s.calInst n).state = .idle → (s.calInst n).pend ≠ none →
      ∃ t, exec (.calRun k) s = .next t ∧ (t.slot k).phase = .executing ∧
        t.calInst n = { s.calInst n with pendWaiters := (s.calInst n).pendWaiters ++ [(k, (s.slot k).id)] }) ∧
    ((s.calInst n).state = .idle → (s.calInst n).pend = none →
      (s.calReady n = false ∨ (n < 5 ∧ (s.calInst n).targets = none)) →
      ∃ t, exec (.calRun k) s = .next t ∧ Completed k s t 0x12 s.top.dev.code 0 ∧
        Keeps (fun p => p == .slots || p == .records) s t) ∧
    ((s.calInst n).state = .idle → (s.calInst n).pend = none → s.calReady n = true →
      (5 ≤ n ∨ (s.calInst n).targets ≠ none) →
      (n ≠ 3 → n ≠ 4 →
        ∃ t, exec (.calRun k) s = .next t ∧ (t.slot k).phase = .executing ∧ (t.calInst n).state = .acquiring ∧
          (t.calInst n).trig = 1 ∧ (t.calInst n).waiters = [(k, (s.slot k).id)] ∧ (t.calInst n).startRef = s.uptime ∧
          (t.calInst n).run = s.calPolicy n) ∧
      (n = 3 ∨ n = 4 →
        (3 ≤ (s.gantryTargets n 0).length → (∀ e ∈ s.gantryTargets n 0, (s.ax e.1).calFree e.2 = true) →
          ∃ t, exec (.calRun k) s = .next t ∧ (t.slot k).phase = .executing ∧ (t.calInst n).state = .acquiring ∧
            (t.calInst n).stage = .moving ∧ (t.calInst n).run = s.calPolicy n) ∧
        ((s.gantryTargets n 0).length < 3 ∨ (∃ e ∈ s.gantryTargets n 0, (s.ax e.1).calFree e.2 = false) →
          ∃ t, exec (.calRun k) s = .next t ∧ Completed k s t 0x21 5 0 ∧ (t.calInst n).state = .idle)))) ∧
  (∀ (s : State) (k : Nat), Accepted 0x0901 calRunChecks k s → (s.slot k).u 10 1 = 2 →
    (s.commitRoom = true → s.cal.clears = [] → s.prn.job.isOpen = true →
      ∃ t c, exec (.calRun k) s = .next t ∧ Completed k s t 0x00 0 0 ∧ t.cal.clears = [] ∧
        t.frames.genLast = s.frames.genLast + 1 ∧ t.frames.commits = s.frames.commits ++ [c] ∧
        c.cfg.prn.missing = (clearList ((s.slot k).u 12 2) s.frames.latest).prn.missing) ∧
    (s.commitRoom = true → s.cal.clears = [] → s.prn.job.isOpen = false → s.scanning = false →
      ∃ t, exec (.calRun k) s = .next t ∧ Completed k s t 0x00 0 0 ∧ t.cal.clears = [] ∧
        t.frames.commits = s.frames.commits ∧
        t.frames.base.prn.missing = (clearList ((s.slot k).u 12 2) s.frames.base).prn.missing) ∧
    (s.commitRoom = false →
      ∃ t, exec (.calRun k) s = .next t ∧ (t.slot k).phase = .executing ∧ t.frames = s.frames ∧
        t.cal = { s.cal with clears := s.cal.clears ++ [(k, (s.slot k).id, (s.slot k).u 12 2)] })) ∧
  (∀ (s : State) (k n : Nat) (p : CalPolicy), Accepted 0x0902 calPolicyChecks k s → n = (s.slot k).cal →
    p = policyOf (s.slot k) →
    ((p.enable = true → n < 5 → s.standby = false) →
      (p.enable = true → n < 3 → (s.calInst n).holds = false → s.enableFault n = none) →
      ∃ t, exec (.calPolicy k) s = .next t ∧ Completed k s t 0x00 0 0 ∧ t.calPolicy n = p ∧
        (∀ m, m ≠ n → t.calInst m = s.calInst m) ∧ (5 ≤ n → t.time = s.time) ∧
        (p.enable = true → n < 3 → (s.calInst n).holds = false →
          (t.calInst n).holds = true ∧ (t.trig (s.calUnit n)).holder = .calibration ∧
            ∀ c ∈ (s.calT n).ctxs, (t.ctx c).calRects = true) ∧
        (p.enable = false → (s.calPolicy n).enable = true →
          (t.calInst n).holds = false ∧ (t.calInst n).pend = none ∧ (t.calInst n).stale = false ∧
            (t.calInst n).state ≠ .acquiring)) ∧
    (∀ st det : Nat, p.enable = true →
      ((n < 5 ∧ s.standby = true ∧ st = 0x12 ∧ det = s.top.dev.code) ∨
        (s.standby = false ∧ n < 3 ∧ (s.calInst n).holds = false ∧ s.enableFault n = some none ∧ st = 0x12 ∧
          det = s.top.dev.code) ∨
        (s.standby = false ∧ n < 3 ∧ (s.calInst n).holds = false ∧ s.enableFault n = some (some det) ∧ st = 0x14)) →
      ∃ t, exec (.calPolicy k) s = .next t ∧ Completed k s t st det 0 ∧
        Keeps (fun p => p == .slots || p == .records) s t)) ∧
  (∀ (s : State) (k n : Nat), Accepted 0x0903 calQueryChecks k s → n = (s.slot k).cal →
    ∃ t, exec (.calQuery k) s = .next t ∧
      Completed k s t 0x00 ((s.calInst n).runCode + 8 * b2n (s.calInst n).stale) (s.calInst n).goodQuality ∧ t.cal = s.cal)

/-- R324 to R328, R332, R336, R338, R339, R341, R342, R344: a pending run starts when its preconditions hold; the
period of a DDR or SERDES instance triggers a run, or counts a trigger where one is pending; a SERDES run whose figure
is in order succeeds; a COLOUR run commits the tables of its channels or waits for a place, a NOZZLE_HEALTH run ends,
a REGISTRATION run sets the offset of a bar, a light-field run commits residuals or gains; a run that cannot compute,
is too far out or takes too long fails with ST_CAL_FAILED; a light-field position that has settled shows its patterns.
An event that meets no such run changes nothing. Where these rules leave a point open, the model's choice is in log 37
and 68. -/
def Obligations.CalibrationRuns : Prop :=
  (∀ (s : State) (id : Nat), calSlot id = none →
    exec (.calRunStart id) s = .next s ∧ exec (.calPeriodicTimer id) s = .next s ∧ exec (.calTimeout id) s = .next s ∧
      exec (.calSettleExpiry id) s = .next s ∧
      ∀ eye f ls ph, exec (.calComputeDone id eye f ls ph) s = .next s) ∧
  (∀ (s : State) (id n tr : Nat), calSlot id = some n → (s.calInst n).pend = some tr → (s.calInst n).state = .idle →
    s.calReady n = true → (5 ≤ n ∨ (s.calInst n).targets ≠ none) →
    (n ≠ 3 → n ≠ 4 →
      ∃ t, exec (.calRunStart id) s = .next t ∧ (t.calInst n).state = .acquiring ∧ (t.calInst n).trig = tr ∧
        (t.calInst n).pend = none ∧ (t.calInst n).waiters = (s.calInst n).pendWaiters ∧
        (t.calInst n).startRef = s.uptime) ∧
    (n = 3 ∨ n = 4 → 3 ≤ (s.gantryTargets n 0).length →
      (∀ e ∈ s.gantryTargets n 0, (s.ax e.1).calFree e.2 = true) →
      ∃ t, exec (.calRunStart id) s = .next t ∧ (t.calInst n).state = .acquiring ∧ (t.calInst n).trig = tr ∧
        (t.calInst n).pend = none ∧ (t.calInst n).stage = .moving)) ∧
  (∀ (s : State) (id n : Nat), calSlot id = some n →
    ((s.calInst n).pend = none ∨ (s.calInst n).state ≠ .idle ∨ s.calReady n = false ∨
      (n < 5 ∧ (s.calInst n).targets = none)) →
    exec (.calRunStart id) s = .next s) ∧
  (∀ (s : State) (id n : Nat), calSlot id = some n →
    (5 ≤ n → (s.calPolicy n).periodic = true → 0 < (s.calPolicy n).period →
      (s.calInst n).lastStart + (s.calPolicy n).period * 10 ^ 6 ≤ s.uptime →
      (∀ tr, (s.calInst n).pend = some tr →
        ∃ t, exec (.calPeriodicTimer id) s = .next t ∧
          (t.calInst n).coalesced = Nat.min 65535 ((s.calInst n).coalesced + 1) ∧ (t.calInst n).pend = some tr) ∧
      ((s.calInst n).pend = none → (s.calInst n).state = .idle → s.calReady n = true →
        ∃ t, exec (.calPeriodicTimer id) s = .next t ∧ (t.calInst n).state = .acquiring ∧ (t.calInst n).trig = 2) ∧
      ((s.calInst n).pend = none → ((s.calInst n).state ≠ .idle ∨ s.calReady n = false) →
        ∃ t, exec (.calPeriodicTimer id) s = .next t ∧ (t.calInst n).pend = some 2 ∧
          (t.calInst n).state = (s.calInst n).state)) ∧
    ((n < 5 ∨ (s.calPolicy n).periodic = false ∨ (s.calPolicy n).period = 0 ∨
        s.uptime < (s.calInst n).lastStart + (s.calPolicy n).period * 10 ^ 6) →
      exec (.calPeriodicTimer id) s = .next s)) ∧
  (∀ (s : State) (id n eye : Nat) (f : Bool) (ls : List LensObs) (ph : List EmitterObs), calSlot id = some n →
    (9 ≤ n → (s.calInst n).state = .acquiring → s.serdesReady n = true →
      ((s.calInst n).run.qualLimit ≤ eye →
        ∃ t, exec (.calComputeDone id eye f ls ph) s = .next t ∧ (t.calInst n).state = .idle ∧
          (t.calInst n).lastStatus = 0x00 ∧ (t.calInst n).goodQuality = Nat.min 65535 eye ∧
          (t.calInst n).tGood = (s.calInst n).startTemp ∧ (t.calInst n).waiters = [] ∧
          (∀ w, (s.calInst n).waiters = [w] → s.running w.1 w.2 = true → (s.slot w.1).opcode ≠ 0x0C02 →
            Completed w.1 s t 0x00 0 (Nat.min 65535 eye))) ∧
      (eye < (s.calInst n).run.qualLimit →
        ∃ t, exec (.calComputeDone id eye f ls ph) s = .next t ∧ (t.calInst n).state = .idle ∧
          (t.calInst n).lastStatus = 0x21 ∧ (t.calInst n).lastDetail = 4 ∧
          (t.calInst n).goodQuality = (s.calInst n).goodQuality ∧
          (∀ w, (s.calInst n).waiters = [w] → s.running w.1 w.2 = true → (s.slot w.1).opcode ≠ 0x0C02 →
            Completed w.1 s t 0x21 4 0))) ∧
    ((9 ≤ n ∧ ((s.calInst n).state ≠ .acquiring ∨ s.serdesReady n = false)) ∨
        (n < 9 ∧ (s.calInst n).state ≠ .computing) →
      exec (.calComputeDone id eye f ls ph) s = .next s)) ∧
  (∀ (s : State) (eye : Nat) (f : Bool) (ls : List LensObs) (ph : List EmitterObs)
      (res : List (Nat × Option Nat × Option (List Nat × Nat))),
    (s.calInst 0).state = .computing →
    res = (((List.range 16).filter fun c => bitAt (s.calInst 0).run.chMask c).map fun c =>
      (c, colourChannel (s.calT 0) (s.calInst 0).run (Tab.get {} (s.shotCfg 0).post c) (s.calInst 0).shots c)) →
    (res ≠ [] → res.length ≤ s.tablesFree → (∀ e ∈ res, e.2.2 ≠ none) →
      (s.commitRoom = true → s.prn.job.isOpen = true →
        ∃ t c, exec (.calComputeDone 1 eye f ls ph) s = .next t ∧ (t.calInst 0).state = .idle ∧
          (t.calInst 0).lastStatus = 0x00 ∧ t.frames.genLast = s.frames.genLast + 1 ∧
          t.frames.commits = s.frames.commits ++ [c] ∧
          (∀ ch r v, (ch, r, some v) ∈ res → (Tab.get {} c.cfg.prn.post ch).data = v.1) ∧
          c.cfg.prn.missing = s.frames.latest.prn.missing) ∧
      (s.commitRoom = false →
        ∃ t, exec (.calComputeDone 1 eye f ls ph) s = .next t ∧ (t.calInst 0).state = .committing ∧
          t.frames = s.frames)) ∧
    (∀ det : Nat,
      (((∃ e ∈ res, e.2.2 = none) ∧ det = 3) ∨ ((∀ e ∈ res, e.2.2 ≠ none) ∧ s.tablesFree < res.length ∧ det = 6)) →
      ∃ t, exec (.calComputeDone 1 eye f ls ph) s = .next t ∧ (t.calInst 0).state = .idle ∧
        (t.calInst 0).lastStatus = 0x21 ∧ (t.calInst 0).lastDetail = det ∧ t.frames = s.frames)) ∧
  (∀ (s : State) (eye : Nat) (f : Bool) (ls : List LensObs) (ph : List EmitterObs), s.commitRoom = true →
    ((s.calInst 1).state = .computing →
      ∃ t, exec (.calComputeDone 2 eye f ls ph) s = .next t ∧ (t.calInst 1).state = .idle ∧
        (t.calInst 1).lastStatus = 0x00 ∧ (t.calInst 1).goodQuality = (t.calInst 1).quality) ∧
    (∀ fs, (s.calInst 2).state = .computing →
      fs = barFixes (s.calT 2) (s.calInst 2).run
        (s.frameLine (((s.calInst 2).shots.head?.map (·.out)).getD 0)) (s.calInst 2).shots →
      (fs = none →
        ∃ t, exec (.calComputeDone 3 eye f ls ph) s = .next t ∧ (t.calInst 2).state = .idle ∧
          (t.calInst 2).lastStatus = 0x21 ∧ (t.calInst 2).lastDetail = 3 ∧ t.web = s.web ∧ t.frames = s.frames) ∧
      (∀ b, fs = some [b] → (s.calT 2).u (40 + b.bar) 1 = 0xFF →
        ∃ t, exec (.calComputeDone 3 eye f ls ph) s = .next t ∧ (t.calInst 2).state = .idle ∧
          (t.calInst 2).lastStatus = 0x00 ∧ (t.webBar b.bar).target = (s.webBar b.bar).offset + b.offset ∧
          (t.webBar b.bar).slewRate = (s.calInst 2).run.slewRate))) ∧
  (∀ (s : State) (eye : Nat) (found : Bool) (ls : List LensObs) (ph : List EmitterObs),
    ((s.calInst 3).state = .computing →
      (found = true → tooFewLenses ls = false → rayQuality ls ≤ (s.calInst 3).run.qualLimit → s.commitRoom = true →
        s.scanning = true →
        ∃ t c, exec (.calComputeDone 4 eye found ls ph) s = .next t ∧ (t.calInst 3).state = .idle ∧
          (t.calInst 3).lastStatus = 0x00 ∧ (t.calInst 3).goodQuality = rayQuality ls ∧
          t.frames.commits = s.frames.commits ++ [c] ∧ c.cfg.lf.resCal = true ∧
          c.cfg.lf.residuals = lensResiduals (freeResidual s.free) s.frames.latest.lf.map ls) ∧
      (∀ det : Nat,
        ((found = false ∧ det = 3) ∨ (found = true ∧ tooFewLenses ls = true ∧ det = 2) ∨
          (found = true ∧ tooFewLenses ls = false ∧ (s.calInst 3).run.qualLimit < rayQuality ls ∧ det = 4)) →
        ∃ t, exec (.calComputeDone 4 eye found ls ph) s = .next t ∧ (t.calInst 3).state = .idle ∧
          (t.calInst 3).lastStatus = 0x21 ∧ (t.calInst 3).lastDetail = det ∧ t.frames = s.frames)) ∧
    ((s.calInst 4).state = .computing →
      (∀ r, found = true → photoResult (s.calT 4) ph = some r → r.2 ≤ (s.calInst 4).run.qualLimit →
        s.commitRoom = true → s.scanning = true →
        ∃ t c, exec (.calComputeDone 5 eye found ls ph) s = .next t ∧ (t.calInst 4).state = .idle ∧
          (t.calInst 4).lastStatus = 0x00 ∧ (t.calInst 4).goodQuality = r.2 ∧
          t.frames.commits = s.frames.commits ++ [c] ∧ c.cfg.lf.gainCal = true ∧ c.cfg.lf.gains = r.1) ∧
      (∀ det : Nat,
        ((found = false ∧ det = 3) ∨ (found = true ∧ photoResult (s.calT 4) ph = none ∧ det = 3) ∨
          (found = true ∧ (∃ r, photoResult (s.calT 4) ph = some r ∧ (s.calInst 4).run.qualLimit < r.2) ∧ det = 4)) →
        ∃ t, exec (.calComputeDone 5 eye found ls ph) s = .next t ∧ (t.calInst 4).state = .idle ∧
          (t.calInst 4).lastStatus = 0x21 ∧ (t.calInst 4).lastDetail = det ∧ t.frames = s.frames))) ∧
  (∀ (s : State) (id n : Nat), calSlot id = some n →
    ((s.calInst n).state ≠ .idle → (9 ≤ n → s.serdesReady n = true) →
      (s.calInst n).startRef + (s.calInst n).run.timeoutMs * 10 ^ 6 ≤ s.uptime →
      ∃ t, exec (.calTimeout id) s = .next t ∧ (t.calInst n).state = .idle ∧ (t.calInst n).lastStatus = 0x21 ∧
        (t.calInst n).lastDetail = 1 ∧ t.frames = s.frames ∧
        (∀ w, (s.calInst n).waiters = [w] → s.running w.1 w.2 = true → (s.slot w.1).opcode ≠ 0x0C02 →
          Completed w.1 s t 0x21 1 0)) ∧
    (((s.calInst n).state = .idle ∨ s.uptime < (s.calInst n).startRef + (s.calInst n).run.timeoutMs * 10 ^ 6 ∨
        (9 ≤ n ∧ s.serdesReady n = false)) →
      exec (.calTimeout id) s = .next s)) ∧
  (∀ (s : State) (id n : Nat), calSlot id = some n →
    ((s.calInst n).state = .acquiring → (s.calInst n).stage = .settling → (s.calInst n).settleAt ≤ s.uptime →
      ∃ t, exec (.calSettleExpiry id) s = .next t ∧
        t.calInst n = { s.calInst n with stage := .showing, pattern := 1, shown := 0, wanted := [] } ∧
        ∀ m, m ≠ n → t.calInst m = s.calInst m) ∧
    (((s.calInst n).state ≠ .acquiring ∨ (s.calInst n).stage ≠ .settling ∨ s.uptime < (s.calInst n).settleAt) →
      exec (.calSettleExpiry id) s = .next s))

/-! ### Block AXIS -/

/-- R353, R354, R358, R361 to R363, R365, R366, R368, R369, R371 to R373, R375, R377, R478, R480: what AXIS_CONFIG
sets where no move is under way, its refusals, and how it enables and disables an axis; a move sets out on its profile
from where the axis is, on a faulted axis it does not, and the move of an axis that moves already ends; a group sets
out together or is refused; a homing starts a search, latches where it stands, begins at its reference or at a limit;
AXIS_STOP waits for its axes, or disables them, and a calibration run loses an axis it holds. R352, R353, R356, R357,
R359, R364 to R366, R371, R380: a reply of a drive that is short or whose CRC is wrong is counted, one outside its
window or of another period is ignored, a good one ends what the drive owes, gives the position of an axis with drive
feedback and reports the drive's fault; a drive whose window closes is counted, and at the third in a row has the
fault DRIVE_SILENT, which disables the axis; samples of a switch make an accepted change after FILTER_US at the other
level, which is reported with the position at the first of them; a limit met in the direction of a move ends it, and
one that changes more than CHATTER_COUNT times has the fault LIMIT_CHATTER. Where these rules leave a point open, the
model's choice is in log 30, 31 and 69. -/
def Obligations.AxisCommandsAndEvents : Prop :=
  (∀ (s : State) (k : Nat), Accepted 0x0A00 axisConfigChecks k s → (s.slot k).u 8 1 = 1 →
    ((∀ e ∈ s.axis.axes, e.2.enabled = false) →
      ∃ t, exec (.axisConfig k) s = .next t ∧ Completed k s t 0x00 0 0 ∧
        t.axis = { s.axis with trigger := some ((s.slot k).u 9 1), periodUs := (s.slot k).u 10 2 }) ∧
    ((∃ e ∈ s.axis.axes, e.2.enabled = true) →
      ∃ t, exec (.axisConfig k) s = .next t ∧ Completed k s t 0x14 0x0A00 0 ∧
        Keeps (fun p => p == .slots || p == .records) s t)) ∧
  (∀ (s : State) (k a : Nat) (c : AxisCfg), Accepted 0x0A00 axisConfigChecks k s → (s.slot k).u 8 1 = 2 →
    (s.slot k).u 9 1 = a → c = axisCfgOf (s.slot k) →
    ((s.ax a).moverOp = 0 → bitAt ((s.slot k).u 14 1) 0 = false →
      ∃ t, exec (.axisConfig k) s = .next t ∧ Completed k s t 0x00 0 0 ∧ (t.ax a).cfg = c ∧ (t.ax a).enabled = false ∧
        ((s.ax a).enabled = false →
          t.ax a = { s.ax a with cfg := c, stepAt := ({ s.ax a with cfg := c } : Axis).outCount (s.ax a).cmd.pos }) ∧
        ∀ b, b ≠ a → t.ax b = s.ax b) ∧
    ((s.ax a).moverOp = 0 → bitAt ((s.slot k).u 14 1) 0 = true → (s.ax a).enabled = true →
      ∃ t, exec (.axisConfig k) s = .next t ∧ Completed k s t 0x00 0 0 ∧
        t.ax a = { s.ax a with cfg := c, stepAt := ({ s.ax a with cfg := c } : Axis).outCount (s.ax a).cmd.pos } ∧
        ∀ b, b ≠ a → t.ax b = s.ax b) ∧
    (∀ u, (s.ax a).moverOp = 0 → bitAt ((s.slot k).u 14 1) 0 = true → (s.ax a).enabled = false →
      s.axis.trigger = some u → (s.axis.running = true ∨ s.trigBusy u .motion = none) →
      ∃ t, exec (.axisConfig k) s = .next t ∧ Completed k s t 0x00 0 0 ∧ (t.ax a).cfg = c ∧ (t.ax a).enabled = true ∧
        (t.ax a).mode = .rest ∧ t.axis.running = true ∧ (∀ b, b ≠ a → t.ax b = s.ax b) ∧
        (s.axis.running = true → t.time = s.time) ∧ (s.axis.running = false → (t.trig u).holder = .motion)) ∧
    (∀ det : Nat,
      (((s.ax a).moverOp ≠ 0 ∧ det = (s.ax a).moverOp) ∨
        ((s.ax a).moverOp = 0 ∧ bitAt ((s.slot k).u 14 1) 0 = true ∧ (s.ax a).enabled = false ∧ s.axis.running = false ∧
          ∃ u, s.axis.trigger = some u ∧ s.trigBusy u .motion = some det)) →
      ∃ t, exec (.axisConfig k) s = .next t ∧ Completed k s t 0x14 det 0 ∧
        Keeps (fun p => p == .slots || p == .records) s t)) ∧
  (∀ (s : State) (k a : Nat), Accepted 0x0A00 axisConfigChecks k s → (s.slot k).u 8 1 = 3 → (s.slot k).u 9 1 = a →
    ((s.ax a).moverOp = 0 → (∀ o ∈ [10, 11, 12], (s.slot k).u o 1 ≠ 0xFF → s.pinDriven 16 ((s.slot k).u o 1) = false) →
      ∃ t, exec (.axisConfig k) s = .next t ∧ Completed k s t 0x00 0 0 ∧ (t.ax a).lp.pin = (s.slot k).u 10 1 ∧
        (t.ax a).ln.pin = (s.slot k).u 11 1 ∧ (t.ax a).hm.pin = (s.slot k).u 12 1 ∧
        (t.ax a).revSearch = bitAt ((s.slot k).u 13 1) 3 ∧ (t.ax a).filterUs = (s.slot k).u 14 1 ∧
        (t.ax a).chatterCount = (if (s.slot k).u 15 1 = 0 then 8 else (s.slot k).u 15 1) ∧
        (t.ax a).chatterMs = (if (s.slot k).u 16 2 = 0 then 100 else (s.slot k).u 16 2) ∧
        (t.ax a).cmd = (s.ax a).cmd ∧ ∀ b, b ≠ a → t.ax b = s.ax b) ∧
    (∀ det : Nat,
      (((s.ax a).moverOp ≠ 0 ∧ det = (s.ax a).moverOp) ∨
        ((s.ax a).moverOp = 0 ∧ det = 0x0B01 ∧
          ∃ o ∈ [10, 11, 12], (s.slot k).u o 1 ≠ 0xFF ∧ s.pinDriven 16 ((s.slot k).u o 1) = true)) →
      ∃ t, exec (.axisConfig k) s = .next t ∧ Completed k s t 0x14 det 0 ∧
        Keeps (fun p => p == .slots || p == .records) s t)) ∧
  (∀ (s : State) (k g : Nat), Accepted 0x0A00 axisConfigChecks k s → (s.slot k).u 8 1 = 4 → (s.slot k).u 9 1 = g →
    ((∀ a ∈ Tab.get [] s.axis.groups g ++ (s.slot k).groupAxes, (s.ax a).idle = true) →
      ∃ t, exec (.axisConfig k) s = .next t ∧ Completed k s t 0x00 0 0 ∧
        Tab.get [] t.axis.groups g = (s.slot k).groupAxes ∧
        (∀ m, m ≠ g → Tab.get [] t.axis.groups m = Tab.get [] s.axis.groups m) ∧ t.axis.axes = s.axis.axes) ∧
    (∀ a, ((Tab.get [] s.axis.groups g ++ (s.slot k).groupAxes).find? fun a => !(s.ax a).idle) = some a →
      ∃ t, exec (.axisConfig k) s = .next t ∧ Completed k s t 0x14 (s.movingOp a) 0 ∧
        Keeps (fun p => p == .slots || p == .records) s t)) ∧
  (∀ (s : State) (k a : Nat), Accepted 0x0A00 axisConfigChecks k s → (s.slot k).u 8 1 = 5 → (s.slot k).u 9 1 = a →
    ((s.ax a).fault = .none → ∃ t, exec (.axisConfig k) s = .next t ∧ Completed k s t 0x00 0 0 ∧ (t.ax a).fault = .none) ∧
    ((s.ax a).fault ≠ .none → ((s.ax a).fault ≠ .limitChatter ∨ s.chatters (s.ax a) = false) → Queues s 0x0A 0x0003 →
      ∃ t, exec (.axisConfig k) s = .next t ∧ Completed k s t 0x00 0 0 ∧ (t.ax a).fault = .none ∧
        (t.ax a).mode = (s.ax a).mode ∧ Waits t 0x0A 0x0003 (le 1 a ++ le 2 (s.ax a).fault.code)) ∧
    ((s.ax a).fault = .limitChatter → s.chatters (s.ax a) = true →
      ∃ t, exec (.axisConfig k) s = .next t ∧ Completed k s t 0x30 2 0 ∧
        Keeps (fun p => p == .slots || p == .records) s t)) ∧
  (∀ (s : State) (k a : Nat) (target : Int) (l : Limits), Accepted 0x0A02 axisMoveChecks k s → (s.slot k).u 8 1 = a →
    target = (s.ax a).targetOf (bitAt ((s.slot k).u 9 1) 0) ((s.slot k).i 12 4) →
    l = limitsOf (orDefault ((s.slot k).u 16 4) (s.ax a).cfg.vmax) (orDefault ((s.slot k).u 20 4) (s.ax a).cfg.amax)
      (orDefault ((s.slot k).u 24 4) (s.ax a).cfg.dmax) (orDefault ((s.slot k).u 28 4) (s.ax a).cfg.jerk) →
    ((s.ax a).fault ≠ .none →
      ∃ t, exec (.axisMove k) s = .next t ∧ Completed k s t 0x30 (s.ax a).fault.code 0 ∧
        Keeps (fun p => p == .slots || p == .records) s t) ∧
    ((s.ax a).fault = .none → (s.ax a).moverOp ≠ 0 → (s.ax a).moverOp ≠ 0x0A02 →
      ∃ t, exec (.axisMove k) s = .next t ∧ Completed k s t 0x14 (s.ax a).moverOp 0 ∧
        Keeps (fun p => p == .slots || p == .records) s t) ∧
    ((s.ax a).fault = .none → (s.ax a).moverOp = 0 →
      ∃ t, exec (.axisMove k) s = .next t ∧ (t.slot k).phase = .executing ∧ (t.ax a).mode = .move ∧
        (t.ax a).target = target ∧ (t.ax a).slot = k ∧ (t.ax a).legs = (planMove (s.ax a).cmd target l).1 ∧
        (t.ax a).cmd = (s.ax a).cmd ∧ ∀ b, b ≠ a → t.ax b = s.ax b) ∧
    (∀ w, (s.ax a).fault = .none → (s.ax a).moverOp = 0x0A02 → w = (s.ax a).slot → w ≠ k → (s.ax a).id ≠ 0 →
      s.running w (s.ax a).id = true →
      ∃ t, exec (.axisMove k) s = .next t ∧ Completed w s t 0x31 0x0A02 0 ∧ (t.slot k).phase = .executing ∧
        (t.ax a).mode = .move ∧ (t.ax a).target = target ∧ (t.ax a).slot = k ∧
        (t.ax a).legs = (planMove (s.ax a).cmd target l).1)) ∧
  (∀ (s : State) (k g : Nat), Accepted 0x0A03 axisGroupMoveChecks k s → (s.slot k).u 8 1 = g →
    ((∀ a ∈ Tab.get [] s.axis.groups g, (s.ax a).fault = .none ∧ (s.ax a).idle = true) →
      ∃ t, exec (.axisGroupMove k) s = .next t ∧ (t.slot k).phase = .executing ∧ (t.move g).slot = k ∧
        (∀ a ∈ Tab.get [] s.axis.groups g, (t.ax a).mode = .group ∧ (t.ax a).group = g ∧ (t.ax a).cmd = (s.ax a).cmd) ∧
        (∀ a, a ∉ Tab.get [] s.axis.groups g → t.ax a = s.ax a)) ∧
    (∀ a st det : Nat,
      ((((Tab.get [] s.axis.groups g).find? fun a => (s.ax a).fault != .none) = some a ∧ st = 0x30 ∧
          det = (s.ax a).fault.code) ∨
        ((∀ b ∈ Tab.get [] s.axis.groups g, (s.ax b).fault = .none) ∧
          ((Tab.get [] s.axis.groups g).find? fun a => !(s.ax a).idle) = some a ∧ st = 0x14 ∧ det = s.movingOp a)) →
      ∃ t, exec (.axisGroupMove k) s = .next t ∧ Completed k s t st det 0 ∧
        Keeps (fun p => p == .slots || p == .records) s t)) ∧
  (∀ (s : State) (k a ref : Nat) (neg : Bool), Accepted 0x0A01 axisHomeChecks k s → (s.slot k).u 8 1 = a →
    neg = ((s.slot k).u 10 1 == 1) → ref = (if (s.slot k).u 9 1 = 3 then (if neg = true then 1 else 0) else 2) →
    ((s.ax a).fault ≠ .none →
      ∃ t, exec (.axisHome k) s = .next t ∧ Completed k s t 0x30 (s.ax a).fault.code 0 ∧
        Keeps (fun p => p == .slots || p == .records) s t) ∧
    ((s.ax a).fault = .none → (s.ax a).moverOp ≠ 0 →
      ∃ t, exec (.axisHome k) s = .next t ∧ Completed k s t 0x14 (s.ax a).moverOp 0 ∧
        Keeps (fun p => p == .slots || p == .records) s t) ∧
    ((s.ax a).fault = .none → (s.ax a).moverOp = 0 →
      ((s.slot k).u 9 1 = 4 →
        ∃ t, exec (.axisHome k) s = .next t ∧ (t.ax a).homed = true ∧ (t.ax a).mode = .home ∧
          (t.ax a).cmd.pos = (s.ax a).cmd.pos + ((s.slot k).i 12 4 * 65536 - s.axisPos a) ∧
          (t.slot k).phase = .executing ∧ ∀ b, b ≠ a → t.ax b = s.ax b) ∧
      (∀ ph : HomePhase, (s.slot k).u 9 1 ≠ 4 →
        ((((s.ax a).input ref).active = true ∧ ph = .latch) ∨
          (((s.ax a).input ref).active = false ∧ ((s.slot k).u 9 1 = 3 ∨ ((s.ax a).input (if neg = true then 1 else 0)).active = false) ∧
            ph = .search) ∨
          (((s.ax a).input ref).active = false ∧ (s.slot k).u 9 1 ≠ 3 ∧
            ((s.ax a).input (if neg = true then 1 else 0)).active = true ∧ (s.ax a).revSearch = true ∧ ph = .limStop)) →
        ∃ t, exec (.axisHome k) s = .next t ∧ (t.ax a).homed = false ∧ (t.ax a).mode = .home ∧
          (t.ax a).homing.phase = ph ∧ (t.ax a).homing.homePos = (s.slot k).i 12 4 ∧ (t.ax a).slot = k ∧
          (t.ax a).cmd = (s.ax a).cmd ∧ (t.slot k).phase = .executing ∧ ∀ b, b ≠ a → t.ax b = s.ax b) ∧
      ((s.slot k).u 9 1 ≠ 4 → (s.slot k).u 9 1 ≠ 3 → ((s.ax a).input ref).active = false →
        ((s.ax a).input (if neg = true then 1 else 0)).active = true → (s.ax a).revSearch = false → (s.slot k).id ≠ 0 →
        ∃ t, exec (.axisHome k) s = .next t ∧ Completed k s t 0x30 3 0 ∧ (t.ax a).fault = .homingLimit ∧
          (t.ax a).homed = false ∧ ∀ b, b ≠ a → t.ax b = s.ax b))) ∧
  (∀ (s : State) (k : Nat), Accepted 0x0A04 axisStopChecks k s →
    ((s.slot k).u 10 1 = 3 →
      ∃ t, exec (.axisStop k) s = .next t ∧ Completed k s t 0x00 0 0 ∧
        ∀ a, a < 16 → bitAt ((s.slot k).u 8 2) a = true → (t.ax a).enabled = false) ∧
    ((s.slot k).u 10 1 ≠ 3 →
      (∀ a, a < 16 → bitAt ((s.slot k).u 8 2) a = true → (s.ax a).enabled = false ∨ (s.ax a).mode = .rest) →
      s.axis.stops = [] →
      ∃ t, exec (.axisStop k) s = .next t ∧ Completed k s t 0x00 0 0 ∧ t.axis.axes = s.axis.axes) ∧
    ((∃ a, a < 16 ∧ bitAt ((s.slot k).u 8 2) a = true ∧ (s.ax a).held = true) →
      ∃ t, exec (.axisStop k) s = .next t ∧ t.axis.calLost = true) ∧
    (∀ a w, (s.slot k).u 10 1 ≠ 3 → a < 16 → (s.slot k).u 8 2 = 2 ^ a → (s.ax a).enabled = true →
      ((s.ax a).mode = .move ∨ (s.ax a).mode = .home) →
      (s.ax a).cmd.moves = true → w = (s.ax a).slot → w ≠ k → (s.ax a).id ≠ 0 → s.running w (s.ax a).id = true →
      s.axis.stops = [] →
      ∃ t, exec (.axisStop k) s = .next t ∧ Completed w s t 0x31 0x0A04 0 ∧ (t.ax a).mode = .stopping ∧
        (t.ax a).legs = [stopLeg (s.ax a).cmd (if (s.slot k).u 10 1 = 1 then (s.ax a).cfg.limits.d else (s.ax a).cfg.quick)
          (s.ax a).cfg.limits.j] ∧
        t.axis.stops = [(k, (s.slot k).id, [a])] ∧ (t.slot k).phase = .executing)) ∧
  (∀ (s : State) (bus st : Nat) (bs : List Byte), (bs.length ≠ 10 ∨ numAt bs 8 2 ≠ crc16 (bs.take 8)) →
    ∃ t, exec (.axisBusReply bus bs st) s = .next t ∧
      Tab.get 0 t.axis.crcErr bus = Nat.min 65535 (Tab.get 0 s.axis.crcErr bus + 1) ∧ t.axis.axes = s.axis.axes) ∧
  (∀ (s : State) (bus st : Nat) (bs : List Byte), bs.length = 10 → numAt bs 8 2 = crc16 (bs.take 8) →
    (s.slotAxis bus (byteAt bs 2) = none →
      exec (.axisBusReply bus bs st) s = .next s) ∧
    (∀ a, s.slotAxis bus (byteAt bs 2) = some a →
      ((byteAt bs 0 ≠ 0x52 ∨ byteAt bs 1 ≠ s.axis.periodNo % 256 ∨ st + 1000 < 2000 + 9000 * byteAt bs 2 ∨
          2000 + 9000 * byteAt bs 2 + 1000 < st ∨ (s.ax a).replied = true) →
        exec (.axisBusReply bus bs st) s = .next s) ∧
      (byteAt bs 0 = 0x52 → byteAt bs 1 = s.axis.periodNo % 256 → 2000 + 9000 * byteAt bs 2 ≤ st + 1000 →
        st ≤ 2000 + 9000 * byteAt bs 2 + 1000 → (s.ax a).replied = false →
        ((s.ax a).cfg.feedback ≠ 2 → bitAt (byteAt bs 7) 1 = false →
          ∃ t, exec (.axisBusReply bus bs st) s = .next t ∧ t.ax a = { s.ax a with replied := true, missRun := 0 } ∧
            ∀ b, b ≠ a → t.ax b = s.ax b) ∧
        ((s.ax a).cfg.feedback = 2 → bitAt (byteAt bs 7) 1 = false → (s.ax a).cfg.feWindow = 0 → 1 ≤ (s.ax a).cfg.feCount →
          ∃ t, exec (.axisBusReply bus bs st) s = .next t ∧ (t.ax a).replied = true ∧ (t.ax a).missRun = 0 ∧
            (t.ax a).actual = (s.ax a).fromOut (unwrap32 ((s.ax a).outCount (s.ax a).prev) (numAt bs 3 4)) ∧
            (t.ax a).fe = (s.ax a).prev - (t.ax a).actual ∧ ∀ b, b ≠ a → t.ax b = s.ax b) ∧
        ((s.ax a).cfg.feedback ≠ 2 → bitAt (byteAt bs 7) 1 = true → (s.ax a).fault = .none → (s.ax a).mode ≠ .group →
          Queues s 0x0A 0x0001 →
          ∃ t, exec (.axisBusReply bus bs st) s = .next t ∧ (t.ax a).fault = .driveFault ∧ (t.ax a).enabled = false ∧
            (t.ax a).mode = .rest ∧
            Waits t 0x0A 0x0001 (le 1 a ++ le 2 5 ++ le 4 (unsigned 32 (wholeAu (s.ax a).cmd.pos)) ++
              le 4 (unsigned 32 (wholeAu (s.ax a).actual))))))) ∧
  (∀ (s : State) (bus k : Nat),
    ((s.slotAxis bus k = none ∨ s.windowOver bus k = false ∨ ∃ a, s.slotAxis bus k = some a ∧ (s.ax a).replied = true) →
      exec (.axisReplyWindowEnd bus k) s = .next s) ∧
    ∀ a, s.slotAxis bus k = some a → s.windowOver bus k = true → (s.ax a).replied = false →
      ((s.ax a).missRun + 1 < 3 ∨ (s.ax a).enabled = false ∨ (s.ax a).fault ≠ .none →
        ∃ t, exec (.axisReplyWindowEnd bus k) s = .next t ∧
          t.ax a = { s.ax a with
            replied := true, busMiss := Nat.min 65535 ((s.ax a).busMiss + 1), missRun := (s.ax a).missRun + 1
            feHold := if (s.ax a).cfg.feedback = 2 then (if s.inHalter then (s.ax a).cfg.feCount else (s.ax a).feHold - 1)
              else (s.ax a).feHold } ∧ ∀ b, b ≠ a → t.ax b = s.ax b) ∧
      (3 ≤ (s.ax a).missRun + 1 → (s.ax a).enabled = true → (s.ax a).fault = .none → (s.ax a).mode ≠ .group →
        Queues s 0x0A 0x0001 →
        ∃ t, exec (.axisReplyWindowEnd bus k) s = .next t ∧ (t.ax a).fault = .driveSilent ∧ (t.ax a).enabled = false ∧
          (t.ax a).mode = .rest ∧
          Waits t 0x0A 0x0001 (le 1 a ++ le 2 4 ++ le 4 (unsigned 32 (wholeAu (s.ax a).cmd.pos)) ++
            le 4 (unsigned 32 (wholeAu (s.ax a).actual))))) ∧
  (∀ (s : State) (a i : Nat) (level : Bool) (w : SwitchIn) (p : Int), w = (s.ax a).input i →
    p = (if w.run = 0 then s.axisPos a else w.firstPos) →
    ((2 < i ∨ w.pin = 0xFF ∨ (∃ u, w.sampledAt = some u ∧ s.uptime < u + 1000)) →
      exec (.switchChange a i level) s = .next s) ∧
    (i < 3 → w.pin ≠ 0xFF → (∀ u, w.sampledAt = some u → u + 1000 ≤ s.uptime) →
      ((level != w.low) = w.active →
        ∃ t, exec (.switchChange a i level) s = .next t ∧
          t.ax a = (s.ax a).setInput i { w with sampledAt := some s.uptime, run := 0 } ∧ ∀ b, b ≠ a → t.ax b = s.ax b) ∧
      ((level != w.low) = !w.active → w.run + 1 < (s.ax a).filterUs →
        ∃ t, exec (.switchChange a i level) s = .next t ∧
          t.ax a = (s.ax a).setInput i { w with sampledAt := some s.uptime, run := w.run + 1, firstPos := p } ∧
          ∀ b, b ≠ a → t.ax b = s.ax b) ∧
      ((level != w.low) = !w.active → (s.ax a).filterUs ≤ w.run + 1 →
        ((s.ax a).mode = .rest → w.evtAt = none → w.changes = [] → 1 ≤ (s.ax a).chatterCount → Queues s 0x0A 0x0002 →
          ∃ t, exec (.switchChange a i level) s = .next t ∧ ((t.ax a).input i).active = !w.active ∧
            (t.ax a).fault = (s.ax a).fault ∧ (t.ax a).mode = .rest ∧
            Waits t 0x0A 0x0002 (le 1 a ++ le 1 i ++ le 1 (b2n (!w.active)) ++ le 4 (unsigned 32 (wholeAu p))) ∧
            ∀ b, b ≠ a → t.ax b = s.ax b) ∧
        (∀ k, i < 2 → w.active = false → (s.ax a).mode = .move → (s.ax a).heading = (if i = 0 then 1 else -1) →
          (s.ax a).cmd.moves = true → w.changes = [] → 1 ≤ (s.ax a).chatterCount → k = (s.ax a).slot → (s.ax a).id ≠ 0 →
          s.running k (s.ax a).id = true →
          ∃ t, exec (.switchChange a i level) s = .next t ∧ Completed k s t 0x30 (if i = 0 then 6 else 7) 0 ∧
            (t.ax a).mode = .stopping ∧
            (t.ax a).legs = [stopLeg (s.ax a).cmd (s.ax a).cfg.quick (s.ax a).cfg.limits.j]) ∧
        (i < 2 → (s.ax a).mode = .rest → (s.ax a).fault = .none → (s.ax a).cmd.moves = false →
          (∀ u ∈ w.changes, s.uptime < u + (s.ax a).chatterMs * 10 ^ 6) → (s.ax a).chatterCount ≤ w.changes.length →
          1 ≤ (s.ax a).chatterMs →
          ∃ t, exec (.switchChange a i level) s = .next t ∧ (t.ax a).fault = .limitChatter ∧ (t.ax a).mode = .rest ∧
            (t.ax a).enabled = (s.ax a).enabled))))

/-! ### Block TIME -/

/-- R77, R302, R330, R353, R389 to R394, R401 to R404, R478, R480: TIME_PORT_CONFIG sets the servo's figures and
device time, or finds the step blocked, and starts a port with its new configuration unless a hitch or a tandem holds
it; a trigger unit takes a pin or a schedule, or is held by another; it fires when it is due, with its pin, its counts
and the action of its holder, and a host's unit is free after the last firing; an armed capture unit filters its input
and stamps the edges asked for until its FIFO is full; a hitch is joined, unless a tandem holds the port, and left,
which ends the commits that wait. Where these rules leave a point open, the model's choice is in log 33, 34 and 70. -/
def Obligations.TimeCommands : Prop :=
  (∀ (s : State) (k : Nat), Accepted 0x0B00 timePortChecks k s → (s.slot k).u 8 1 = 0xFF →
    ((s.slot k).u 24 8 = 0 →
      ∃ t, exec (.timePortConfig k) s = .next t ∧ Completed k s t 0x00 0 0 ∧
        t.time = { s.time with stepNs := (s.slot k).u 12 4, lockNs := (s.slot k).u 16 2, tauS := (s.slot k).u 18 1
                               clockClass := (s.slot k).u 19 1 }) ∧
    ((s.slot k).u 24 8 ≠ 0 → s.stepAllowed = true →
      ∃ t, exec (.timePortConfig k) s = .next t ∧ Completed k s t 0x00 0 0 ∧ t.time.now = (s.slot k).u 24 8 ∧
        t.time.stepBlocked = false ∧ t.time.stepNs = (s.slot k).u 12 4 ∧ t.time.lockNs = (s.slot k).u 16 2 ∧
        t.time.tauS = (s.slot k).u 18 1 ∧ t.time.clockClass = (s.slot k).u 19 1 ∧
        (Queues s 0x0B 0x0002 → Waits t 0x0B 0x0002
          (le 8 (unsigned 64 (Int.ofNat ((s.slot k).u 24 8) - Int.ofNat s.time.now)) ++ le 1 1))) ∧
    ((s.slot k).u 24 8 ≠ 0 → s.stepAllowed = false →
      ∃ t, exec (.timePortConfig k) s = .next t ∧ Completed k s t 0x00 0 0 ∧ t.time.now = s.time.now ∧
        t.time.stepBlocked = true ∧ t.time.stepNs = (s.slot k).u 12 4 ∧ t.time.lockNs = (s.slot k).u 16 2 ∧
        t.time.tauS = (s.slot k).u 18 1 ∧ t.time.clockClass = (s.slot k).u 19 1 ∧
        (s.time.stepBlocked = false → Queues s 0x0B 0x0002 → Waits t 0x0B 0x0002
          (le 8 (unsigned 64 (Int.ofNat ((s.slot k).u 24 8) - Int.ofNat s.time.now)) ++ le 1 0)))) ∧
  (∀ (s : State) (k p : Nat) (c : PortCfg) (changes : Prop), Accepted 0x0B00 timePortChecks k s → (s.slot k).u 8 1 = p →
    p ≠ 0xFF → c = portCfgOf (s.slot k) →
    (changes ↔ (c.speed ≠ (s.port p).cfg.speed ∨ c.role ≠ (s.port p).cfg.role)) →
    ((changes → (s.time.hitch.joined = false ∨ s.time.hitch.port ≠ p) ∧ (p = 1 → s.tan.state = .off)) →
      ∃ t, exec (.timePortConfig k) s = .next t ∧ Completed k s t 0x00 0 0 ∧ (t.port p).cfg = c ∧
        (t.port p).linkUp = ((s.port p).linkUp && c.speed == (s.port p).cfg.speed && c.speed != 0) ∧
        (t.port p).ptp = some (if c.role = 0 ∨ c.speed = 0 then .disabled
          else if (s.port p).linkUp = true ∧ c.speed = (s.port p).cfg.speed then .listening else .initializing) ∧
        (t.port p).mac = (s.port p).mac ∧ (∀ q, q ≠ p → t.port q = s.port q) ∧ t.time.now = s.time.now) ∧
    (∀ det : Nat, changes →
      ((s.time.hitch.joined = true ∧ s.time.hitch.port = p ∧ det = 0x0B03) ∨
        ((s.time.hitch.joined = false ∨ s.time.hitch.port ≠ p) ∧ p = 1 ∧ s.tan.state ≠ .off ∧ det = 0x0E00)) →
      ∃ t, exec (.timePortConfig k) s = .next t ∧ Completed k s t 0x14 det 0 ∧
        Keeps (fun p => p == .slots || p == .records) s t)) ∧
  (∀ (s : State) (k u : Nat), Accepted 0x0B01 timeTriggerChecks k s → (s.slot k).u 8 1 = u →
    ((s.slot k).u 9 1 = 1 → ((s.trig u).holder = .none ∨ (s.trig u).holder = .host) →
      ∃ t, exec (.timeTrigger k) s = .next t ∧ Completed k s t 0x00 0 0 ∧
        t.trig u = { s.trig u with
          holder := .host, running := true
          sched := { t0 := (s.slot k).u 16 8, ns := (s.slot k).u 24 4, frac := (s.slot k).u 28 4
                     count := (s.slot k).u 32 4, event := bitAt ((s.slot k).u 11 1) 2 } } ∧
        ∀ v, v ≠ u → t.trig v = s.trig v) ∧
    ((s.slot k).u 9 1 = 2 → (s.trig u).holder = .host →
      ∃ t, exec (.timeTrigger k) s = .next t ∧ Completed k s t 0x00 0 0 ∧
        t.trig u = { s.trig u with holder := .none, running := false } ∧ ∀ v, v ≠ u → t.trig v = s.trig v) ∧
    ((s.slot k).u 9 1 = 3 → (s.trig u).running = false →
      ((s.slot k).u 10 1 = 0xFF ∨ (s.pinDriven u ((s.slot k).u 10 1) = false ∧ s.pinRead ((s.slot k).u 10 1) = false)) →
      ∃ t, exec (.timeTrigger k) s = .next t ∧ Completed k s t 0x00 0 0 ∧
        t.trig u = { s.trig u with
          pin := (s.slot k).u 10 1, activeLow := bitAt ((s.slot k).u 11 1) 0, halterHold := bitAt ((s.slot k).u 11 1) 1
          width := (s.slot k).u 12 4, active := false } ∧ ∀ v, v ≠ u → t.trig v = s.trig v) ∧
    (∀ det : Nat,
      (((s.slot k).u 9 1 = 1 ∧ (s.trig u).holder ≠ .none ∧ (s.trig u).holder ≠ .host ∧ det = (s.trig u).holder.opcode) ∨
        ((s.slot k).u 9 1 = 2 ∧ (s.trig u).holder ≠ .host ∧ det = (s.trig u).holder.opcode) ∨
        ((s.slot k).u 9 1 = 3 ∧ (s.trig u).running = true ∧ det = (s.trig u).holder.opcode) ∨
        ((s.slot k).u 9 1 = 3 ∧ (s.trig u).running = false ∧ (s.slot k).u 10 1 ≠ 0xFF ∧
          s.pinDriven u ((s.slot k).u 10 1) = true ∧ det = 0x0B01) ∨
        ((s.slot k).u 9 1 = 3 ∧ (s.trig u).running = false ∧ (s.slot k).u 10 1 ≠ 0xFF ∧
          s.pinDriven u ((s.slot k).u 10 1) = false ∧ s.pinRead ((s.slot k).u 10 1) = true ∧ det = 0x0A00)) →
      ∃ t, exec (.timeTrigger k) s = .next t ∧ Completed k s t 0x14 det 0 ∧
        Keeps (fun p => p == .slots || p == .records) s t)) ∧
  (∀ (s : State) (k c : Nat), Accepted 0x0B02 timeCaptureChecks k s → (s.slot k).u 8 1 = c →
    ((s.slot k).u 9 1 = 1 →
      ∃ t, exec (.timeCapture k) s = .next t ∧ Completed k s t 0x00 0 0 ∧
        t.cap c = { s.cap c with
          armed := true, source := (s.slot k).u 10 1, index := (s.slot k).u 11 1, edge := (s.slot k).u 12 1
          filterNs := (s.slot k).u 13 1, event := bitAt ((s.slot k).u 14 1) 0, oneShot := bitAt ((s.slot k).u 14 1) 1
          fifo := [], evtAt := none, level := none, run := 0 } ∧ ∀ d, d ≠ c → t.cap d = s.cap d) ∧
    ((s.slot k).u 9 1 = 2 →
      ∃ t, exec (.timeCapture k) s = .next t ∧ Completed k s t 0x00 0 0 ∧ t.cap c = { s.cap c with armed := false } ∧
        ∀ d, d ≠ c → t.cap d = s.cap d)) ∧
  (∀ (s : State) (k : Nat), Accepted 0x0B03 timeHitchChecks k s →
    ((s.slot k).u 8 1 = 1 → ((s.slot k).u 10 1 ≠ 1 ∨ s.tan.state = .off) →
      ∃ t, exec (.timeHitch k) s = .next t ∧ Completed k s t 0x00 0 0 ∧ t.time.hitch.joined = true ∧
        t.time.hitch.member = (s.slot k).u 9 1 ∧ t.time.hitch.port = (s.slot k).u 10 1 ∧
        t.time.hitch.mask = (s.slot k).u 12 2 ∧
        t.time.hitch.etherType = (if (s.slot k).u 14 2 = 0 then 0x88B5 else (s.slot k).u 14 2) ∧
        t.time.hitch.hitchId = (s.slot k).u 16 4 ∧
        t.time.hitch.dest = (if (s.slot k).u 20 6 = 0 then 0x0048395A4C03 else (s.slot k).u 20 6) ∧
        t.time.hitch.waitUs = (if (s.slot k).u 26 2 = 0 then 500 else (s.slot k).u 26 2) ∧
        t.time.hitch.leadUs = (if (s.slot k).u 28 2 = 0 then 1000 else (s.slot k).u 28 2) ∧
        t.time.hitch.webCheck = ((s.slot k).u 30 1 == 1) ∧ t.time.hitch.webSource = (s.slot k).u 31 1 ∧
        t.time.hitch.present = [(s.slot k).u 9 1] ∧ t.time.hitch.conflict = false) ∧
    ((s.slot k).u 8 1 = 1 → (s.slot k).u 10 1 = 1 → s.tan.state ≠ .off →
      ∃ t, exec (.timeHitch k) s = .next t ∧ Completed k s t 0x14 0x0E00 0 ∧
        Keeps (fun p => p == .slots || p == .records) s t) ∧
    ((s.slot k).u 8 1 = 2 →
      ∃ t, exec (.timeHitch k) s = .next t ∧ Completed k s t 0x00 0 0 ∧ t.time.hitch.joined = false ∧
        t.frames.hitch = [] ∧ t.time.hitch.seen = s.time.hitch.seen ∧
        ∀ c, s.frames.hitch = [c] → s.running c.slot c.id = true → Completed c.slot s t 0x31 0x0B03 0)) ∧
  (∀ (s : State) (u : Nat) (adc : List AdcReading), s.fireDue u = true →
    ((s.trig u).holder = .host → (s.trig u).running = true →
      ∃ t, exec (.triggerFire u adc) s = .next t ∧ (t.trig u).count = ((s.trig u).count + 1) % 2 ^ 32 ∧
        (t.trig u).sched.k = (s.trig u).sched.k + 1 ∧
        (((s.trig u).sched.count = 0 ∨ (s.trig u).sched.k + 1 < (s.trig u).sched.count) → (t.trig u).holder = .host) ∧
        (0 < (s.trig u).sched.count → (s.trig u).sched.count ≤ (s.trig u).sched.k + 1 →
          (t.trig u).holder = .none ∧ (t.trig u).running = false) ∧
        ((s.trig u).pin ≠ 0xFF → ((s.trig u).halterHold = false ∨ s.outHalted = false) →
          Out.pin (s.trig u).pin ((s.trig u).level true) ∈ t.out ∧ (t.trig u).active = true ∧
          (t.trig u).offAt = (s.trig u).sched.time (s.trig u).sched.k + (s.trig u).width) ∧
        t.axis = s.axis) ∧
    ((s.trig u).holder = .motion → s.axis.running = true →
      ∃ t, exec (.triggerFire u adc) s = .next t ∧ t.axis.periodNo = s.axis.periodNo + 1 ∧ t.axis.lastTrig = s.time.now) ∧
    (∀ n band, (s.trig u).holder = .camera → n < 8 → (s.stream n).set = true → (s.stream n).trigger = u →
      (∀ m, m < 8 → (s.stream m).set = true → (s.stream m).trigger = u → m = n) → s.streamRuns n = true →
      (s.stream n).unwritten = false →
      band = (if (s.stream n).strobeCount = 0 then 0x0F
        else bitsAt (s.stream n).strobeSeq (4 * ((s.stream n).seqPos % (s.stream n).strobeCount)) 4) →
      ∃ t, exec (.triggerFire u adc) s = .next t ∧
        (t.stream n).entries = (s.stream n).entries ++
          [{ band := band, time := s.time.now, hwm := s.web.hwm, suppressed := s.outHalted && band != 0x0F
             frame := s.tickFrame s.time.now }] ∧
        (band ≠ 0x0F → s.outHalted = false → (Tab.get (α := Strobe) {} s.cam.strobes band).pulses = [] →
          Out.strobe band (s.time.now + (s.stream n).strobeDelay) true ∈ t.out ∧
            (Tab.get (α := Strobe) {} t.cam.strobes band).pulses =
              [(s.time.now + (s.stream n).strobeDelay,
                s.time.now + (s.stream n).strobeDelay + 1000 * (s.stream n).strobeWidthUs)]) ∧
        (∀ m, m ≠ n → t.stream m = s.stream m)) ∧
    (∀ n, (s.trig u).holder = .calibration → s.shotOn u = some n →
      ∃ t, exec (.triggerFire u adc) s = .next t ∧
        (t.calInst n).shot = (s.calInst n).shot.bind (nextShot n (s.calT n)) ∧
        ∀ m, m ≠ n → t.calInst m = s.calInst m)) ∧
  (∀ (s : State) (u : Nat) (adc : List AdcReading), s.fireDue u = false → exec (.triggerFire u adc) s = .next s) ∧
  (∀ (s : State) (u : Nat),
    ((s.trig u).active = true → (s.trig u).offAt ≤ s.time.now →
      ∃ t, exec (.triggerPulseEnd u) s = .next t ∧ t.trig u = { s.trig u with active := false } ∧
        t.out = s.out ++ [.pin (s.trig u).pin ((s.trig u).level false)] ∧ ∀ v, v ≠ u → t.trig v = s.trig v) ∧
    (((s.trig u).active = false ∨ s.time.now < (s.trig u).offAt) → exec (.triggerPulseEnd u) s = .next s)) ∧
  (∀ (s : State) (src i : Nat) (level : Bool) (samples : Nat),
    ((src ≠ 1 ∧ src ≠ 2) ∨ (∀ c, c < 16 → (s.cap c).armed = false ∨ (s.cap c).source ≠ src ∨ (s.cap c).index ≠ i) →
      exec (.captureEdge src i level samples) s = .next s) ∧
    (∀ (c f tag : Nat), (src = 1 ∨ src = 2) → c < 16 → (s.cap c).armed = true → (s.cap c).source = src →
      (s.cap c).index = i → f = (if src = 1 then (s.cap c).filterNs else (s.chan (i / 3)).filterNs) →
      tag = (if src = 1 then 0 else unsigned 32 (s.chan (i / 3)).p % 2 ^ 32) →
      ((s.cap c).level = none →
        ∃ t, exec (.captureEdge src i level samples) s = .next t ∧
          t.cap c = { s.cap c with level := some level, run := 0 }) ∧
      ((s.cap c).level = some level →
        ∃ t, exec (.captureEdge src i level samples) s = .next t ∧ t.cap c = { s.cap c with run := 0 }) ∧
      ((s.cap c).level = some (!level) → (s.cap c).run + samples ≤ f →
        ∃ t, exec (.captureEdge src i level samples) s = .next t ∧
          t.cap c = { s.cap c with run := (s.cap c).run + samples }) ∧
      ((s.cap c).level = some (!level) → f < (s.cap c).run + samples →
        (((s.cap c).edge = 3 ∨ (s.cap c).edge = if level then 1 else 2) →
          ((s.cap c).fifo.length < 16 →
            ∃ t, exec (.captureEdge src i level samples) s = .next t ∧
              (t.cap c).fifo = (s.cap c).fifo ++ [(s.time.now - ((s.cap c).run + samples - 1), tag)] ∧
              (t.cap c).armed = !(s.cap c).oneShot ∧ (t.cap c).overflow = (s.cap c).overflow ∧
              (t.cap c).level = some level) ∧
          (16 ≤ (s.cap c).fifo.length →
            ∃ t, exec (.captureEdge src i level samples) s = .next t ∧
              t.cap c = { s.cap c with
                level := some level, run := 0, overflow := Nat.min 65535 ((s.cap c).overflow + 1) })) ∧
        ((s.cap c).edge ≠ 3 → (s.cap c).edge ≠ (if level then 1 else 2) →
          ∃ t, exec (.captureEdge src i level samples) s = .next t ∧
            t.cap c = { s.cap c with level := some level, run := 0 }))))

/-- R382 to R386, R388, R405: a Sync of the master, or its Follow_Up, gives the offset; the answers to a port's delay
requests give the path delay; a master answers Delay_Req, a port with peer delay answers Pdelay_Req, and a transparent
clock forwards with the residence time; an Announce is held where it is better; a message of no use is counted or
ignored; a missing Sync brings HOLDOVER and a missing Announce a new choice of master; a port sends what is due, and
starts again when its link comes up or is lost; an ARP request for its address is answered. Where these rules leave a
point open, the model's choice is in log 20, 33 and 70. -/
def Obligations.PtpPorts : Prop :=
  (∀ (s : State) (p : Nat) (m : PtpMsg) (tb : Int),
    ((1 < p ∨ (s.port p).linkUp = false) → exec (.ptpMessageRx p m tb) s = .next s) ∧
    (p < 2 → (s.port p).linkUp = true → ((s.port p).cfg.role = 0 ∨ m.header.domain ≠ (s.port p).cfg.domain) →
      ∃ t, exec (.ptpMessageRx p m tb) s = .next t ∧
        t.port p = { s.port p with drop := Nat.min 65535 ((s.port p).drop + 1) } ∧ t.out = s.out)) ∧
  (∀ (s : State) (p : Nat) (m : PtpMsg) (tb rx : Int) (x : Port), p < 2 → x = s.port p → x.linkUp = true → x.cfg.role ≠ 0 →
    m.header.domain = x.cfg.domain → rx = x.rxTime tb →
    (∀ origin, m.body = .sync origin → s.follows p m.header = true →
      (m.header.twoStep = false →
        ∃ t, exec (.ptpMessageRx p m tb) s = .next t ∧ t.time.offset = saturate 32 (Int.tdiv (rx -
          (Int.ofNat (1000 * origin) + corrPs (m.header.corr + x.cfg.delayAsym)) - x.pathPs) 1000) ∧
          (t.port p).syncAt = s.uptime) ∧
      (m.header.twoStep = true → x.cfg.role ≠ 3 →
        ∃ t, exec (.ptpMessageRx p m tb) s = .next t ∧
          t.port p = { x with pend := some (m.header.seq, rx, corrPs (m.header.corr + x.cfg.delayAsym)) })) ∧
    (∀ origin r c, m.body = .followUp origin → x.pend = some (m.header.seq, r, c) → s.follows p m.header = true →
      ∃ t, exec (.ptpMessageRx p m tb) s = .next t ∧ t.time.offset = saturate 32 (Int.tdiv (r -
        (Int.ofNat (1000 * origin) + c + corrPs m.header.corr) - x.pathPs) 1000) ∧ (t.port p).syncAt = s.uptime) ∧
    (∀ receipt e y, m.body = .delayResp receipt (s.clockId p) (p + 1) → x.delayTx = some (m.header.seq, e) →
      x.lastSync = some y → s.follows p m.header = true →
      ∃ t, exec (.ptpMessageRx p m tb) s = .next t ∧
        (t.port p).pathPs = ((y.2 - y.1) + (Int.ofNat (1000 * receipt) - e - corrPs m.header.corr)) / 2 ∧
        (t.port p).delayTx = none ∧ t.time.pathDelay = saturate 32 (Int.tdiv (t.port p).pathPs 1000)) ∧
    (∀ receipt e, m.body = .pdelayResp receipt (s.clockId p) (p + 1) → x.pdTx = some (m.header.seq, e) →
      m.header.twoStep = false →
      ∃ t, exec (.ptpMessageRx p m tb) s = .next t ∧
        (t.port p).pathPs = ((rx - e) - corrPs (m.header.corr + x.cfg.delayAsym)) / 2 ∧
        t.time.pathDelay = saturate 32 (Int.tdiv (t.port p).pathPs 1000)) ∧
    (∀ origin e y, m.body = .pdelayRespFollowUp origin (s.clockId p) (p + 1) → x.pdTx = some (m.header.seq, e) →
      x.pdT = some y →
      ∃ t, exec (.ptpMessageRx p m tb) s = .next t ∧
        (t.port p).pathPs =
          ((y.1 - e) - (Int.ofNat (1000 * origin) - y.2) - corrPs (m.header.corr + x.cfg.delayAsym)) / 2 ∧
        t.time.pathDelay = saturate 32 (Int.tdiv (t.port p).pathPs 1000)) ∧
    (m.body = .delayReq → x.cfg.role ≠ 3 →
      (x.ptp = some .master →
        ∃ t r, exec (.ptpMessageRx p m tb) s = .next t ∧ t.out = s.out ++ [.ptp p r (s.txTime p)] ∧
          r.body = .delayResp (Int.fdiv rx 1000).toNat m.header.clock m.header.port ∧
          r.header.seq = m.header.seq % 65536 ∧ t.time = s.time) ∧
      (x.ptp ≠ some .master → exec (.ptpMessageRx p m tb) s = .next s)) ∧
    (m.body = .pdelayReq → x.cfg.delay = 2 →
      ∃ t r, exec (.ptpMessageRx p m tb) s = .next t ∧ Out.ptp p r (s.txTime p) ∈ t.out ∧
        r.body = .pdelayResp (Int.fdiv rx 1000).toNat m.header.clock m.header.port ∧ t.time = s.time) ∧
    (∀ g, m.body = .announce g → x.cfg.role ≠ 3 → g.identity ≠ s.clockId p →
      (x.gm = none ∨ x.gmFrom = (m.header.clock, m.header.port) ∨ ∃ b, x.gm = some b ∧ gmBetter g b = true) →
      ∃ t, exec (.ptpMessageRx p m tb) s = .next t ∧ (t.port p).gm = some g ∧
        (t.port p).gmFrom = (m.header.clock, m.header.port) ∧ (t.port p).annAt = s.uptime) ∧
    (∀ g, m.body = .announce g → x.cfg.role ≠ 3 →
      (g.identity = s.clockId p ∨
        (∃ b, x.gm = some b ∧ x.gmFrom ≠ (m.header.clock, m.header.port) ∧ gmBetter g b = false)) →
      exec (.ptpMessageRx p m tb) s = .next s) ∧
    (∀ receipt e, m.body = .pdelayResp receipt (s.clockId p) (p + 1) → x.pdTx = some (m.header.seq, e) →
      m.header.twoStep = true → x.cfg.role ≠ 3 →
      ∃ t, exec (.ptpMessageRx p m tb) s = .next t ∧ t.port p = { x with pdT := some (rx, Int.ofNat (1000 * receipt)) }) ∧
    (x.cfg.role ≠ 3 →
      ((s.follows p m.header = false ∧ ∃ o, m.body = .sync o ∨ m.body = .followUp o) ∨
        (∃ o, m.body = .followUp o ∧ ∀ r c, x.pend ≠ some (m.header.seq, r, c)) ∨ m.body = .signaling ∨
        (m.body = .pdelayReq ∧ x.cfg.delay ≠ 2) ∨
        (∃ r c n, m.body = .delayResp r c n ∧ (c ≠ s.clockId p ∨ n ≠ p + 1 ∨ x.lastSync = none ∨
          s.follows p m.header = false ∨ ∀ e, x.delayTx ≠ some (m.header.seq, e))) ∨
        (∃ r c n, m.body = .pdelayResp r c n ∧ (c ≠ s.clockId p ∨ n ≠ p + 1 ∨ ∀ e, x.pdTx ≠ some (m.header.seq, e))) ∨
        (∃ r c n, m.body = .pdelayRespFollowUp r c n ∧ (c ≠ s.clockId p ∨ n ≠ p + 1 ∨ x.pdT = none ∨
          ∀ e, x.pdTx ≠ some (m.header.seq, e)))) →
      exec (.ptpMessageRx p m tb) s = .next s) ∧
    (m.body = .management →
      ∃ t, exec (.ptpMessageRx p m tb) s = .next t ∧
        t.port p = { x with drop := Nat.min 65535 (x.drop + 1) } ∧ t.out = s.out) ∧
    (x.cfg.role = 3 →
      ((m.body = .signaling ∨ ∃ g, m.body = .announce g) →
        ∃ t, exec (.ptpMessageRx p m tb) s = .next t ∧ Out.ptp (1 - p) m (s.txTime (1 - p)) ∈ t.out) ∧
      (∀ origin, m.body = .sync origin → m.header.twoStep = false → s.follows p m.header = false →
        ∃ t, exec (.ptpMessageRx p m tb) s = .next t ∧
          t.out = s.out ++ [.ptp (1 - p)
            { m with header := { m.header with
              corr := m.header.corr + psCorr (s.txTime (1 - p) - rx + if x.cfg.delay = 2 then x.pathPs else 0) } }
            (s.txTime (1 - p))]) ∧
      (∀ origin, m.body = .sync origin → m.header.twoStep = true → s.follows p m.header = false →
        ∃ t, exec (.ptpMessageRx p m tb) s = .next t ∧ t.out = s.out ++ [.ptp (1 - p) m (s.txTime (1 - p))] ∧
          (m.header.seq, s.txTime (1 - p) - rx + if x.cfg.delay = 2 then x.pathPs else 0) ∈ (t.port p).residence) ∧
      (∀ origin e, m.body = .followUp origin → s.follows p m.header = false →
        x.residence.find? (fun e => e.1 == m.header.seq) = some e →
        ∃ t, exec (.ptpMessageRx p m tb) s = .next t ∧
          t.out = s.out ++ [.ptp (1 - p) { m with header := { m.header with corr := m.header.corr + psCorr e.2 } }
            (s.txTime (1 - p))]) ∧
      (∀ r c n, m.body = .delayResp r c n → x.cfg.delay = 1 → x.delayTx = none →
        ∃ t, exec (.ptpMessageRx p m tb) s = .next t ∧ t.out = s.out ++ [.ptp (1 - p) m (s.txTime (1 - p))]) ∧
      (x.cfg.delay = 1 → (m.body = .pdelayReq ∨
          ∃ r c n, m.body = .pdelayResp r c n ∧ m.header.twoStep = false ∧ x.pdTx = none) →
        ∃ t, exec (.ptpMessageRx p m tb) s = .next t ∧
          t.out = s.out ++ [.ptp (1 - p)
            { m with header := { m.header with corr := m.header.corr + psCorr (s.txTime (1 - p) - rx) } }
            (s.txTime (1 - p))]) ∧
      (m.body = .delayReq → x.cfg.delay = 1 → x.ptp ≠ some .master →
        ∃ t, exec (.ptpMessageRx p m tb) s = .next t ∧
          t.out = s.out ++ [.ptp (1 - p)
            { m with header := { m.header with corr := m.header.corr + psCorr (s.txTime (1 - p) - rx) } }
            (s.txTime (1 - p))]))) ∧
  (∀ (s : State) (late : Prop),
    (late ↔ ∃ p, p < 2 ∧ ((s.port p).ptp = some .slave ∨ (s.port p).cfg.role = 3) ∧
      (s.port p).syncAt + 3 * logNs (s.port p).syncLog ≤ s.uptime) →
    (s.time.servo = .locked → late →
      ∃ t, exec .syncTimeout s = .next t ∧ t.time.servo = .holdover ∧
        t.time.rateAdj = (s.time.rates.foldl (· + ·) 0) / Int.ofNat (Nat.max 1 s.time.rates.length) ∧
        t.time.ports = s.time.ports) ∧
    ((s.time.servo ≠ .locked ∨ ¬ late) → exec .syncTimeout s = .next s)) ∧
  (∀ (s : State) (p : Nat) (due : Prop),
    (due ↔ (p < 2 ∧ (s.port p).runs = true ∧
      (s.port p).annAt + (s.port p).cfg.announceTimeout * logNs (s.port p).cfg.logAnnounce ≤ s.uptime)) →
    (due →
      ∃ t, exec (.announceReceiptTimeout p) s = .next t ∧ (t.port p).gm = none ∧ (t.port p).annAt = s.uptime ∧
        ((s.port (1 - p)).gm = none →
          (t.port p).ptp = some (if bitAt (s.port p).cfg.pflags 2 then .listening else .master))) ∧
    (¬ due → exec (.announceReceiptTimeout p) s = .next s)) ∧
  (∀ (s : State) (p : Nat) (x : Port), x = s.port p →
    ((1 < p ∨ x.linkUp = false ∨ x.cfg.role = 0) → exec (.ptpTransmitInterval p) s = .next s) ∧
    (p < 2 → x.linkUp = true → x.cfg.role ≠ 0 →
      ∃ t, exec (.ptpTransmitInterval p) s = .next t ∧
        (x.ptp = some .master → x.sentSync + logNs x.cfg.logSync ≤ s.uptime →
          ∃ m, Out.ptp p m (s.txTime p) ∈ t.out ∧ m.body = .sync s.time.now ∧ m.header.seq = x.seqSync % 65536 ∧
            m.header.twoStep = bitAt x.cfg.pflags 0 ∧ (t.port p).sentSync = s.uptime ∧
            (t.port p).seqSync = (x.seqSync + 1) % 65536) ∧
        (x.ptp = some .master → x.sentAnn + logNs x.cfg.logAnnounce ≤ s.uptime → s.bestGm = none →
          ∃ m, Out.ptp p m (s.txTime p) ∈ t.out ∧ m.body = .announce (s.ownGm p) ∧ m.header.seq = x.seqAnn % 65536 ∧
            (t.port p).sentAnn = s.uptime) ∧
        ((x.ptp = some .slave ∨ x.ptp = some .uncalibrated ∨ x.cfg.role = 3 ∨ x.cfg.delay = 2) →
          x.sentDelay + logNs x.cfg.logDelayReq ≤ s.uptime →
          ∃ m, Out.ptp p m (s.txTime p) ∈ t.out ∧ m.body = (if x.cfg.delay = 2 then .pdelayReq else .delayReq) ∧
            m.header.seq = x.seqDelay % 65536 ∧ (t.port p).sentDelay = s.uptime) ∧
        (s.uptime < x.sentSync + logNs x.cfg.logSync → s.uptime < x.sentAnn + logNs x.cfg.logAnnounce →
          s.uptime < x.sentDelay + logNs x.cfg.logDelayReq → t = s))) ∧
  (∀ (s : State) (p : Nat) (up : Bool),
    ((1 < p ∨ s.beforeReady = true ∨ (s.port p).linkUp = (up && (s.port p).cfg.speed != 0)) →
      exec (.pcsLinkChange p up) s = .next s) ∧
    (p < 2 → s.beforeReady = false → (s.port p).linkUp ≠ (up && (s.port p).cfg.speed != 0) →
      ∃ t, exec (.pcsLinkChange p up) s = .next t ∧ (t.port p).linkUp = (up && (s.port p).cfg.speed != 0) ∧
        (t.port p).ptp = some (if (s.port p).cfg.role = 0 ∨ (s.port p).cfg.speed = 0 then .disabled
          else if up then .listening else .initializing) ∧ (t.port p).gm = none ∧ ∀ q, q ≠ p → t.port q = s.port q)) ∧
  (∀ (s : State) (p tg mac ip : Nat),
    ((1 < p ∨ (s.port p).linkUp = false) → exec (.arpRequestRx p tg mac ip) s = .next s) ∧
    (p < 2 → (s.port p).linkUp = true →
      ((s.port p).cfg.transport = 2 → tg = (s.port p).cfg.ipv4 →
        ∃ t bs, exec (.arpRequestRx p tg mac ip) s = .next t ∧ t.out = s.out ++ [.eth p bs] ∧
          ethHeader (s.port p) mac 0x0806 <+: bs) ∧
      (((s.port p).cfg.transport ≠ 2 ∨ tg ≠ (s.port p).cfg.ipv4) →
        ∃ t, exec (.arpRequestRx p tg mac ip) s = .next t ∧ t.out = s.out ∧
          (t.port p).drop = Nat.min 65535 ((s.port p).drop + 1))))

/-- R114, R395 to R399, R404, R486: HELLO is multicast with the next sequence number, and a member heard or not heard
comes and goes; a message that is none of this hitch is discarded and counted, and one of another type, or without a
hitch, changes nothing; proposals are held and repeated, and the leader that holds all decides the latest frame; a
decision assigns this member's commit or its stop and is reported as a divergence where its frame differs or no commit
waits for it; an abort or a timeout ends commits with ST_TIMEOUT; samples of the web are multicast and compared. Where
these rules leave a point open, the model's choice is in log 35, 70 and 72. -/
def Obligations.HitchProtocol : Prop :=
  (∀ s : State,
    (s.time.hitch.joined = true → s.time.hitch.helloAt ≤ s.uptime →
      (s.hitchMuted = false →
        ∃ t bs, exec .hitchHelloTimer s = .next t ∧ t.out = s.out ++ [.eth s.time.hitch.port bs] ∧
          t.time.hitch = { s.time.hitch with
            sentSeq := (s.time.hitch.sentSeq + 1) % 65536, helloAt := s.uptime + 1000000 }) ∧
      (s.hitchMuted = true →
        ∃ t, exec .hitchHelloTimer s = .next t ∧ t.out = s.out ∧
          t.time.hitch = { s.time.hitch with helloAt := s.uptime + 1000000 })) ∧
    ((s.time.hitch.joined = false ∨ s.uptime < s.time.hitch.helloAt) → exec .hitchHelloTimer s = .next s)) ∧
  (∀ (s : State) (bs : List Byte) (i : Instr) (ty : Nat),
    ((i = .hitchHelloRx bs ∧ ty = 0x01) ∨ (i = .proposeRx bs ∧ ty = 0x10) ∨ (i = .decideRx bs ∧ ty = 0x11) ∨
      (i = .abortRx bs ∧ ty = 0x12) ∨ (i = .webSampleRx bs ∧ ty = 0x30)) →
    (s.time.hitch.joined = false → exec i s = .next s) ∧
    (s.time.hitch.joined = true → s.hitchMsg bs = none → exec i s = .next (ethDrop s.time.hitch.port s)) ∧
    (∀ m, s.time.hitch.joined = true → s.hitchMsg bs = some m → m.ty ≠ ty → exec i s = .next s)) ∧
  (∀ (s : State) (bs : List Byte) (m : HitchMsg) (known : Nat), s.time.hitch.joined = true → s.hitchMsg bs = some m →
    m.ty = 0x01 → known = Tab.get 0 s.time.hitch.devIds m.sender →
    ((s.hitchMuted = true ∧ m.sender = s.time.hitch.member) ∨
        (m.sender = s.time.hitch.member ∧ (known = 0 ∨ known = numAt m.body 0 8 + 1)) →
      exec (.hitchHelloRx bs) s = .next s) ∧
    ((s.hitchMuted = false ∨ m.sender ≠ s.time.hitch.member) → known ≠ 0 → known ≠ numAt m.body 0 8 + 1 →
      ∃ t, exec (.hitchHelloRx bs) s = .next t ∧ t.time.hitch = { s.time.hitch with conflict := true } ∧
        (s.time.hitch.conflict = false → Queues s 0x0B 0x0010 → Waits t 0x0B 0x0010 (le 1 m.sender ++ le 1 2))) ∧
    (m.sender ≠ s.time.hitch.member → (known = 0 ∨ known = numAt m.body 0 8 + 1) →
      ∃ t, exec (.hitchHelloRx bs) s = .next t ∧
        Tab.get 0 t.time.hitch.devIds m.sender = numAt m.body 0 8 + 1 ∧
        Tab.get 0 t.time.hitch.lastHello m.sender = s.uptime + 1 ∧ t.time.hitch.conflict = s.time.hitch.conflict ∧
        t.time.hitch.seen = Nat.max s.time.hitch.seen (numAt m.body 20 4) ∧
        t.time.hitch.present = (if s.time.hitch.present.contains m.sender then s.time.hitch.present
          else s.time.hitch.present ++ [m.sender]) ∧
        (s.time.hitch.present.contains m.sender = false → Queues s 0x0B 0x0010 →
          Waits t 0x0B 0x0010 (le 1 m.sender ++ le 1 1)))) ∧
  (∀ (s : State) (m : Nat),
    (s.time.hitch.present.contains m = true → m ≠ s.time.hitch.member →
      Tab.get 0 s.time.hitch.lastHello m + 3000000 ≤ s.uptime + 1 →
      ∃ t, exec (.hitchPresenceTimeout m) s = .next t ∧ t.time.hitch.present = s.time.hitch.present.filter (· != m) ∧
        (Queues s 0x0B 0x0010 → Waits t 0x0B 0x0010 (le 1 m ++ le 1 0))) ∧
    ((s.time.hitch.present.contains m = false ∨ m = s.time.hitch.member ∨
        s.uptime + 1 < Tab.get 0 s.time.hitch.lastHello m + 3000000) →
      exec (.hitchPresenceTimeout m) s = .next s)) ∧
  (∀ (s : State) (bs : List Byte) (m : HitchMsg) (p : Proposal) (ps : List Proposal) (all : Prop), s.time.hitch.joined = true →
    s.hitchMsg bs = some m → m.ty = 0x10 →
    p = { member := m.sender, frame := numAt m.body 0 4, earliest := numAt m.body 4 4, prev := numAt m.body 8 4 } →
    ps = (s.time.hitch.proposals.filter fun q => !(q.member == p.member && q.frame == p.frame)) ++ [p] →
    (all ↔ ∀ i, i < 16 → bitAt s.time.hitch.mask i = true → ∃ q ∈ ps, q.member = i ∧ q.frame = p.frame) →
    ((∃ d ∈ s.time.hitch.decided, d.1 = p.frame) →
      (s.hitchLeader = true → ∃ t e, exec (.proposeRx bs) s = .next t ∧ t.out = s.out ++ [.eth s.time.hitch.port e] ∧
        t.time.hitch.decided = s.time.hitch.decided) ∧
      (s.hitchLeader = false → exec (.proposeRx bs) s = .next s)) ∧
    ((∀ d ∈ s.time.hitch.decided, d.1 ≠ p.frame) →
      (s.hitchLeader = false ∨ ¬ all →
        ∃ t, exec (.proposeRx bs) s = .next t ∧ t.time.hitch.proposals = ps ∧ t.frames = s.frames ∧
          t.time.hitch.decided = s.time.hitch.decided) ∧
      (s.hitchLeader = true → all →
        ∃ t, exec (.proposeRx bs) s = .next t ∧ (p.frame, ((ps.filter fun q => q.frame == p.frame).foldl (fun a q =>
          laterOf (laterOf a (BitVec.ofNat 32 q.earliest)) (BitVec.ofNat 32 q.prev)) (BitVec.ofNat 32 p.frame : FrameNo)).toNat,
            s.time.hitch.seen + 1) ∈ t.time.hitch.decided ∧ (∀ q ∈ t.time.hitch.proposals, q.frame ≠ p.frame)))) ∧
  (∀ s : State,
    (∀ c, s.frames.hitch = [c] → c.lastSent + 100000 ≤ s.uptime → s.time.hitch.joined = true → s.hitchMuted = false →
      (s.hitchLeader = false ∨ ∃ i, i < 16 ∧ bitAt s.time.hitch.mask i = true ∧ i ≠ s.time.hitch.member ∧
        ∀ q ∈ s.time.hitch.proposals, ¬ (q.member = i ∧ q.frame = c.frame.toNat)) →
      ∃ t bs, exec .proposeRepeat s = .next t ∧ t.frames.hitch = [{ c with lastSent := s.uptime }] ∧
        t.out = s.out ++ [.eth s.time.hitch.port bs]) ∧
    ((∀ c ∈ s.frames.hitch, s.uptime < c.lastSent + 100000) → exec .proposeRepeat s = .next s)) ∧
  (∀ (s : State) (bs : List Byte) (m : HitchMsg) (f a at' : FrameNo) (sq : Nat), s.time.hitch.joined = true →
    s.hitchMsg bs = some m → m.ty = 0x11 → f = BitVec.ofNat 32 (numAt m.body 0 4) →
    a = BitVec.ofNat 32 (numAt m.body 4 4) → sq = numAt m.body 8 4 → at' = s.frames.applied false a →
    (∀ c, (s.frames.hitch.find? fun c => c.frame == f) = some c → s.running c.slot c.id = true →
      ((s.prn.job.isOpen = true ∨ s.scanning = true) → c.stop = false → s.placesFull = none →
        ∃ t, exec (.decideRx bs) s = .next t ∧
          Completed c.slot s t (if at' = f then 0x00 else 0x02) 0 (s.frames.genLast + 1).toNat ∧
          t.frames.genLast = s.frames.genLast + 1 ∧ t.time.hitch.applied = sq ∧
          (∃ e, t.frames.commits = s.frames.commits ++ [e] ∧ e.applied = at' ∧ e.gen = s.frames.genLast + 1) ∧
          t.time.hitch.diverge = (if at' = a then s.time.hitch.diverge else Nat.min (2 ^ 32 - 1) (s.time.hitch.diverge + 1))) ∧
      ((s.prn.job.isOpen = true ∨ s.scanning = true) → c.stop = true →
        ∃ t, exec (.decideRx bs) s = .next t ∧ Completed c.slot s t (if at' = f then 0x00 else 0x02) 0 0 ∧
          t.scan.phase = .stopping ∧ t.scan.stop = some (earlierStop s.scan.stop at') ∧ t.time.hitch.applied = sq ∧
          t.frames.commits = s.frames.commits) ∧
      (∀ st det : Nat,
        (((s.prn.job.isOpen = false ∧ s.scanning = false) ∧ st = 0x12 ∧ det = s.top.dev.code) ∨
          ((s.prn.job.isOpen = true ∨ s.scanning = true) ∧ c.stop = false ∧ s.placesFull = some det ∧ st = 0x14)) →
        ∃ t, exec (.decideRx bs) s = .next t ∧ Completed c.slot s t st det 0 ∧ t.frames.commits = s.frames.commits ∧
          t.frames.hitch = s.frames.hitch.filter fun d => d.frame != f)) ∧
    ((∀ c ∈ s.frames.hitch, c.frame ≠ f) →
      ∃ t, exec (.decideRx bs) s = .next t ∧ t.frames = s.frames ∧
        t.time.hitch.seen = Nat.max s.time.hitch.seen sq ∧
        t.time.hitch.diverge = (if s.time.hitch.timedOut.contains f.toNat then
          Nat.min (2 ^ 32 - 1) (s.time.hitch.diverge + 1) else s.time.hitch.diverge) ∧
        (s.time.hitch.timedOut.contains f.toNat = true → Queues s 0x0B 0x0012 →
          Waits t 0x0B 0x0012 (le 4 sq ++ le 4 a.toNat ++ le 4 0)))) ∧
  (∀ (s : State) (bs : List Byte) (m : HitchMsg), s.time.hitch.joined = true → s.hitchMsg bs = some m → m.ty = 0x12 →
    ∃ t, exec (.abortRx bs) s = .next t ∧
      t.frames.hitch = (s.frames.hitch.filter fun c => c.frame.toNat != numAt m.body 0 4) ∧
      (∀ c, s.frames.hitch = [c] → c.frame.toNat = numAt m.body 0 4 → s.running c.slot c.id = true →
        Completed c.slot s t 0x20 (numAt m.body 4 2) 0)) ∧
  (∀ (s : State) (f : FrameNo) (miss : Nat) (due : Prop),
    (due ↔ (s.time.hitch.joined = true ∧ s.hitchLeader = true ∧ Tab.get 0 s.time.hitch.firstAt f.toNat ≠ 0 ∧
      Tab.get 0 s.time.hitch.firstAt f.toNat + 1000 * s.time.hitch.waitUs ≤ s.uptime + 1)) →
    miss = ((List.range 16).foldl (fun a m => if bitAt s.time.hitch.mask m && !((s.time.hitch.proposals.filter fun p =>
      p.frame == f.toNat).map (·.member)).contains m then a + 2 ^ m else a) 0) →
    (due →
      ∃ t bs, exec (.hitchWaitExpiry f) s = .next t ∧
        t.time.hitch.proposals = (s.time.hitch.proposals.filter fun p => p.frame != f.toNat) ∧
        Tab.get 0 t.time.hitch.firstAt f.toNat = 0 ∧ t.out = s.out ++ [.eth s.time.hitch.port bs] ∧
        t.frames.hitch = (s.frames.hitch.filter fun c => c.frame.toNat != f.toNat) ∧
        (∀ c, s.frames.hitch = [c] → c.frame = f → s.running c.slot c.id = true → Completed c.slot s t 0x20 miss 0)) ∧
    (¬ due → exec (.hitchWaitExpiry f) s = .next s)) ∧
  (∀ s : State, ∃ t, exec .hitchCommitTimeout s = .next t ∧
    t.frames.hitch = (s.frames.hitch.filter fun c =>
      !decide (c.start + 1000 * s.time.hitch.waitUs + 2000000 ≤ s.uptime)) ∧
    (∀ c, s.frames.hitch = [c] → c.start + 1000 * s.time.hitch.waitUs + 2000000 ≤ s.uptime →
      s.running c.slot c.id = true → Completed c.slot s t 0x20 0 0)) ∧
  (∀ (s : State) (n : Nat), n = s.time.now - s.time.now % 1000000 →
    (s.time.hitch.joined = true → s.time.hitch.webCheck = true → s.top.mode = .print → s.time.hitch.sampleAt < n →
      ∃ t, exec .webSampleTimer s = .next t ∧ t.time.hitch.sampleAt = n ∧ (n, s.web.hwm) ∈ t.time.hitch.ownSamples ∧
        (s.hitchMuted = false → ∃ bs, Out.eth s.time.hitch.port bs ∈ t.out)) ∧
    ((s.time.hitch.joined = false ∨ s.time.hitch.webCheck = false ∨ s.top.mode ≠ .print ∨ n ≤ s.time.hitch.sampleAt) →
      exec .webSampleTimer s = .next s)) ∧
  (∀ (s : State) (bs : List Byte) (m : HitchMsg), s.time.hitch.joined = true → s.hitchMsg bs = some m → m.ty = 0x30 →
    ((s.time.hitch.webCheck = false ∨ m.sender ≠ s.time.hitch.webSource) → exec (.webSampleRx bs) s = .next s) ∧
    (∀ (n : Nat) (r : Int), s.time.hitch.webCheck = true → m.sender = s.time.hitch.webSource → n = numAt m.body 0 8 →
      r = signed 64 (numAt m.body 8 8) → (∀ e ∈ s.time.hitch.srcSamples, e.1 ≠ n) →
      ((∀ e ∈ s.time.hitch.ownSamples, e.1 ≠ n) →
        ∃ t, exec (.webSampleRx bs) s = .next t ∧ (n, r) ∈ t.time.hitch.srcSamples ∧
          t.time.hitch.base = s.time.hitch.base ∧ t.web = s.web) ∧
      (∀ o : Int, (s.time.hitch.ownSamples.find? fun e => e.1 == n) = some (n, o) →
        (s.time.hitch.base = none →
          ∃ t, exec (.webSampleRx bs) s = .next t ∧ t.time.hitch.base = some (r, o) ∧ t.web = s.web) ∧
        (∀ b, s.time.hitch.base = some b → (w64 ((r - b.1) - (o - b.2))).natAbs ≤ s.time.hitch.webTol →
          ∃ t, exec (.webSampleRx bs) s = .next t ∧ t.time.hitch.base = some b ∧ t.web = s.web) ∧
        (∀ b, s.time.hitch.base = some b → s.time.hitch.webTol < (w64 ((r - b.1) - (o - b.2))).natAbs →
          ∃ t, exec (.webSampleRx bs) s = .next t ∧ t.web.doubtRemain = s.web.doubtSpan ∧
            (Queues s 0x0B 0x0013 → Waits t 0x0B 0x0013
              (le 1 s.time.hitch.webSource ++ le 8 (unsigned 64 (w64 ((r - b.1) - (o - b.2))))))))))

/-! ### Block MEM -/

/-- R422, R433 to R436: MEM_QOS sets the budget and the pull rate, MEM_ERROR_POLICY the error policy. MEM_RETRAIN
RETRAIN of channels whose runs are idle starts the run of each that is ready, lets the others fail, and completes at
once where none is ready; of a channel whose run is under way it waits for that run; without a channel it completes.
SET_RATE lets the change of each named channel wait, or is refused where one waits already. MEM_QUERY answers each
item. Where these rules leave a point open, the model's choice is in log 41 and 71. -/
def Obligations.MemCommands : Prop :=
  (∀ (s : State) (k : Nat), Accepted 0x0C00 memQosChecks k s →
    ∃ t, exec (.memQos k) s = .next t ∧ Completed k s t 0x00 0 0 ∧
      t.mem = { s.mem with budget := (s.slot k).u 8 2, pullRate := (s.slot k).u 10 2 }) ∧
  (∀ (s : State) (k : Nat), Accepted 0x0C01 memErrorPolicyChecks k s →
    ∃ t, exec (.memErrorPolicy k) s = .next t ∧ Completed k s t 0x00 0 0 ∧
      t.mem = { s.mem with freezeParity := (s.slot k).u 8 1 == 2, rowThresh := (s.slot k).u 10 2
                           minEye := (s.slot k).u 12 2, scrubHours := (s.slot k).u 14 2 }) ∧
  (∀ (s : State) (k : Nat), Accepted 0x0C02 memRetrainChecks k s → (s.slot k).u 8 1 = 0 →
    ∃ t, exec (.memRetrain k) s = .next t ∧ Completed k s t 0x00 0 0 ∧ t.mem = s.mem) ∧
  (∀ (s : State) (k : Nat), Accepted 0x0C02 memRetrainChecks k s → (s.slot k).u 9 1 = 1 → (s.slot k).u 8 1 ≠ 0 →
    (∀ r ∈ s.mem.retrains, r.slot ≠ k) →
    (∀ c, c < 4 → bitAt ((s.slot k).u 8 1) c = true →
      (s.calInst (ddrSlot c)).state = .idle ∧ (s.calInst (ddrSlot c)).pend = none) →
    ((∃ c, c < 4 ∧ bitAt ((s.slot k).u 8 1) c = true ∧ s.ddrReady c = true) →
      ∃ t, exec (.memRetrain k) s = .next t ∧ (t.slot k).phase = .executing ∧
        (∀ c, c < 4 → bitAt ((s.slot k).u 8 1) c = true → s.ddrReady c = true →
          t.ddr c = { s.ddr c with run := true, steps := 0, gathering := true, stepAt := s.uptime, abandonAt := none } ∧
          (t.calInst (ddrSlot c)).state = .acquiring ∧ (t.calInst (ddrSlot c)).waiters = [(k, (s.slot k).id)]) ∧
        (∀ c, c < 4 → (bitAt ((s.slot k).u 8 1) c = false ∨ s.ddrReady c = false) → t.ddr c = s.ddr c)) ∧
    ((∀ c, c < 4 → bitAt ((s.slot k).u 8 1) c = true → s.ddrReady c = false) →
      ∃ t, exec (.memRetrain k) s = .next t ∧ Completed k s t 0x03
        ((List.range 4).filter fun c => bitAt ((s.slot k).u 8 1) c).length ((s.slot k).u 8 1) ∧ t.mem = s.mem)) ∧
  (∀ (s : State) (k c : Nat), Accepted 0x0C02 memRetrainChecks k s → (s.slot k).u 9 1 = 1 → c < 4 → (s.slot k).u 8 1 = 2 ^ c →
    ((s.calInst (ddrSlot c)).state ≠ .idle →
      ∃ t, exec (.memRetrain k) s = .next t ∧ (t.slot k).phase = .executing ∧ t.ddr c = s.ddr c ∧
        t.calInst (ddrSlot c) = { s.calInst (ddrSlot c) with
          waiters := (s.calInst (ddrSlot c)).waiters ++ [(k, (s.slot k).id)] }) ∧
    ((s.calInst (ddrSlot c)).state = .idle → (s.calInst (ddrSlot c)).pend ≠ none →
      ∃ t, exec (.memRetrain k) s = .next t ∧ (t.slot k).phase = .executing ∧ t.ddr c = s.ddr c ∧
        t.calInst (ddrSlot c) = { s.calInst (ddrSlot c) with
          pendWaiters := (s.calInst (ddrSlot c)).pendWaiters ++ [(k, (s.slot k).id)] })) ∧
  (∀ (s : State) (k : Nat), Accepted 0x0C02 memRetrainChecks k s → (s.slot k).u 9 1 = 2 → (s.slot k).u 8 1 ≠ 0 →
    ((∀ c, c < 4 → bitAt ((s.slot k).u 8 1) c = true → (s.ddr c).change = none) →
      ∃ t, exec (.memRetrain k) s = .next t ∧ (t.slot k).phase = .executing ∧
        (∀ c, c < 4 → bitAt ((s.slot k).u 8 1) c = true → t.ddr c = { s.ddr c with
          change := some { rate := (s.slot k).u 10 2 / 100, old := (s.ddr c).rate, since := s.uptime, slot := k, id := (s.slot k).id } }) ∧
        ∀ c, (4 ≤ c ∨ bitAt ((s.slot k).u 8 1) c = false) → t.ddr c = s.ddr c) ∧
    ((∃ c, c < 4 ∧ bitAt ((s.slot k).u 8 1) c = true ∧ (s.ddr c).change ≠ none) →
      ∃ t, exec (.memRetrain k) s = .next t ∧ Completed k s t 0x14 0x0C02 0 ∧
        Keeps (fun p => p == .slots || p == .records) s t)) ∧
  (∀ (s : State) (k c i v : Nat), Accepted 0x0C03 memQueryChecks k s → c = (s.slot k).u 10 1 → i = (s.slot k).u 8 2 →
    ((i = 1 ∧ v = (if c = 0xFF then s.mapMib else s.chanMib c)) ∨ (i = 2 ∧ v = 100 * (s.ddr c).rate) ∨
      (i = 3 ∧ v = (if c = 0xFF then s.freeNat 16 else (s.ddr c).eye)) ∨
      (i = 4 ∧ v = ((List.range 4).filter fun i => (s.ddr i).state == .online).foldl (fun a i => a + 2 ^ i) 0) ∨
      (i = 5 ∧ v = (s.bulkHeld + 10 ^ 8 - 1) / 10 ^ 8)) →
    ∃ t, exec (.memQuery k) s = .next t ∧ Completed k s t 0x00 0 v ∧ t.mem = s.mem)

/-- R409 to R419, R425 to R431, R437: a channel that is not ONLINE, has a neighbour refresh to issue or a refresh that
can no longer be postponed serves no request; of the requests that wait, one that none stands before is served and
counted, a FEED read also in the window of the FEED demand; a postponed refresh goes before a request, and a request
beyond its admitted rate waits. A burst with one failed lane is corrected and rewritten; one with more, or poisoned
before, is uncorrectable and poisoned, for a request and for the scrub. What the rewrite, the scrub's delay, the
refreshes, the readings and the windows of a channel do; an alert is replayed three times, and then, or at once under
FREEZE, memory freezes. R420 to R424, R435, R489: a training step that is not the last goes on to the next, unless a
change of rate waits; after the last the run keeps a setting that is wide enough, and one too narrow leaves the stored
setting where that is at least MIN_EYE, falls back by 400 MT/s, measures again after a change that waits, or loses the
channel at 3,200 MT/s; a step is abandoned. A change of rate begins once no step gathers data, a fallback once no
feeder is in panic or 1 ms has passed; it ends with the new rate in force, or with the old one, or, for a fallback,
with the channel lost, where its eye is too narrow. Where these rules leave a point open, the model's choice is in log
40, 41 and 71. -/
def Obligations.MemoryAtWorkAndTraining : Prop :=
  (∀ (s : State) (c : Nat) (l : List MemReq),
    (((s.ddr c).state ≠ .online ∨ (s.ddr c).neighbours ≠ [] ∨ 4 ≤ (s.ddr c).owed) →
      exec (.memGrant c l) s = .next s) ∧
    ((s.ddr c).state = .online → (s.ddr c).neighbours = [] → (s.ddr c).flight = [] → (s.ddr c).owed = 0 → l ≠ [] →
      l.length ≤ 48 →
      (∀ r ∈ l, s.validReq c r = true ∧ s.paceOk r = true ∧ (∀ j, j < 4 → r.bad.getD j [] = [] ∧
        Tab.get false s.poison (r.addr / 64 + j) = false)) →
      ∃ t, ∃ r ∈ l, exec (.memGrant c l) s = .next t ∧
        (∀ q ∈ l, s.reqRank r ≤ s.reqRank q ∧ s.reqBefore (s.ddr c).robin q r = false) ∧
        Tab.get 0 t.mem.grant r.port = Nat.min (2 ^ 32 - 1) (Tab.get 0 s.mem.grant r.port + 1) ∧
        Tab.get 0 t.mem.delay r.port = Tab.get 0 s.mem.delay r.port + (s.uptime - r.arrival) ∧
        (t.ddr c).flight.length + 1 = l.length ∧ (t.ddr c).corrected = (s.ddr c).corrected ∧
        (t.ddr c).window = (s.ddr c).window + (if r.port < 32 then 256 else 0) ∧
        t.poison = s.poison ∧ t.dram = s.dram)) ∧
  (∀ (s : State) (c : Nat) (r : MemReq), (s.ddr c).state = .online → (s.ddr c).neighbours = [] → (s.ddr c).flight = [] →
    (s.ddr c).owed < 4 →
    (s.validReq c r = false → ∃ t, exec (.memGrant c [r]) s = .next t ∧ (t.ddr c) = s.ddr c) ∧
    (s.validReq c r = true → s.paceOk r = false →
      exec (.memGrant c [r]) s = .next (s.setDdr c { s.ddr c with flight := [r] })) ∧
    (s.validReq c r = true → s.paceOk r = true → 0 < (s.ddr c).owed → s.reqRank r ≠ 0 →
      exec (.memGrant c [r]) s = .next (s.setDdr c { s.ddr c with flight := [r], owed := 0 })) ∧
    (∀ ls : List Nat, s.validReq c r = true → s.paceOk r = true → ((s.ddr c).owed = 0 ∨ s.reqRank r = 0) → r.act = none →
      r.bad = [ls] → (∀ j, j < 4 → Tab.get false s.poison (r.addr / 64 + j) = false) →
      (∀ m, ls = [m] →
        ∃ t, exec (.memGrant c [r]) s = .next t ∧ (t.ddr c).corrected = Nat.min 65535 ((s.ddr c).corrected + 1) ∧
          r.addr / 64 ∈ (t.ddr c).rewrites ∧ t.poison = s.poison) ∧
      (∀ m n, ls = [m, n] → m ≠ n → 32 ≤ r.port → r.port ≠ 49 →
        ∃ t, exec (.memGrant c [r]) s = .next t ∧ (t.ddr c).uncorrected = Nat.min 65535 ((s.ddr c).uncorrected + 1) ∧
          (t.ddr c).ueAddr = 64 * (r.addr / 64) ∧ Tab.get false t.poison (r.addr / 64) = true ∧
          (Queues s 0x0C 0x0002 →
            Waits t 0x0C 0x0002 (le 1 c ++ le 1 r.port ++ le 8 (64 * (r.addr / 64)) ++ le 1 1))))) ∧
  (∀ (s : State) (c : Nat) (l : List Nat) (b : Nat), b = s.burstAt c (s.ddr c).scrubPos →
    ((s.ddr c).scrubTurn = true → (s.ddr c).inMap = true → s.mem.scrubHours ≠ 0 →
      ∃ t, exec (.patrolScrubRead c l) s = .next t ∧
        ((s.ddr c).scrubPos + 1 < s.chanBursts c → (t.ddr c).scrubPos = (s.ddr c).scrubPos + 1 ∧
          (t.ddr c).passes = (s.ddr c).passes) ∧
        (s.chanBursts c ≤ (s.ddr c).scrubPos + 1 → (t.ddr c).scrubPos = 0 ∧ (t.ddr c).passStart = s.uptime ∧
          (t.ddr c).passes = ((s.ddr c).passes + 1) % 65536) ∧
        (Tab.get false s.poison b = false → l = [] →
          (t.ddr c).corrected = (s.ddr c).corrected ∧ (t.ddr c).uncorrected = (s.ddr c).uncorrected ∧ t.poison = s.poison) ∧
        (∀ m, Tab.get false s.poison b = false → l = [m] →
          (t.ddr c).corrected = Nat.min 65535 ((s.ddr c).corrected + 1) ∧ b ∈ (t.ddr c).rewrites ∧ t.poison = s.poison ∧
          ((s.ddr c).corrEvt = none → Queues s 0x0C 0x0001 →
            Waits t 0x0C 0x0001 (le 1 c ++ le 1 (subOf (64 * b)) ++ le 1 m ++ le 4 ((s.ddr c).corrNew + 1)))) ∧
        (Tab.get false s.poison b = true ∨ (∃ m n, l = [m, n] ∧ m ≠ n) →
          (t.ddr c).uncorrected = Nat.min 65535 ((s.ddr c).uncorrected + 1) ∧ (t.ddr c).ueAddr = 64 * b ∧
          Tab.get false t.poison b = true ∧
          (Queues s 0x0C 0x0002 → Waits t 0x0C 0x0002 (le 1 c ++ le 1 53 ++ le 8 (64 * b) ++ le 1 2)))) ∧
    (((s.ddr c).scrubTurn = false ∨ (s.ddr c).inMap = false ∨ s.mem.scrubHours = 0) →
      exec (.patrolScrubRead c l) s = .next s)) ∧
  (∀ (s : State) (c : Nat),
    (∀ b l, (s.ddr c).rewrites = b :: l → (s.ddr c).scrubTurn = true →
      ∃ t, exec (.correctedRewrite c) s = .next t ∧ (t.ddr c).rewrites = l ∧
        (s.mem.scrubPart < 3 → t.mem.scrubPart = s.mem.scrubPart + 1 ∧ t.mem.grant = s.mem.grant) ∧
        (3 ≤ s.mem.scrubPart → t.mem.scrubPart = 0 ∧
          Tab.get 0 t.mem.grant 53 = Nat.min (2 ^ 32 - 1) (Tab.get 0 s.mem.grant 53 + 1))) ∧
    (((s.ddr c).rewrites = [] ∨ (s.ddr c).scrubTurn = false) → exec (.correctedRewrite c) s = .next s)) ∧
  (∀ (s : State) (c : Nat),
    ((s.ddr c).inMap = true → (s.ddr c).lateRaised = false → s.scrubOverdue c = true →
      ∃ t, exec (.scrubLate c) s = .next t ∧ t.ddr c = { s.ddr c with lateRaised := true } ∧
        (Queues s 0x0C 0x0006 →
          Waits t 0x0C 0x0006 (le 1 c ++ le 2 ((s.ddr c).scrubPos * 1000 / Nat.max 1 (s.chanBursts c))))) ∧
    (((s.ddr c).inMap = false ∨ (s.ddr c).lateRaised = true ∨ s.scrubOverdue c = false) →
      exec (.scrubLate c) s = .next s)) ∧
  (∀ (s : State) (c : Nat),
    (∀ e l, (s.ddr c).neighbours = e :: l → (s.ddr c).state = .online →
      ∃ t, exec (.neighbourRefresh c) s = .next t ∧
        t.ddr c = { s.ddr c with neighbours := l, refreshes := Nat.min (2 ^ 32 - 1) ((s.ddr c).refreshes + 1) }) ∧
    (((s.ddr c).neighbours = [] ∨ (s.ddr c).state ≠ .online) → exec (.neighbourRefresh c) s = .next s)) ∧
  (∀ (s : State) (c : Nat) (p : Bool),
    ((s.ddr c).state = .online →
      ∃ t, exec (.refreshDue c p) s = .next t ∧
        t.ddr c = { s.ddr c with owed := if p = true ∧ (s.ddr c).owed < 4 then (s.ddr c).owed + 1 else 0 }) ∧
    ((s.ddr c).state ≠ .online → exec (.refreshDue c p) s = .next s)) ∧
  (∀ (s : State) (c : Nat) (l : List Nat),
    ((s.ddr c).state = .online → (s.ddr c).mr4At + 8000000 ≤ s.uptime → l.length = s.ranks →
      ∃ t, exec (.mr4Read c l) s = .next t ∧ t.ddr c = { s.ddr c with mr4 := l, mr4At := s.uptime } ∧
        ∀ i v, l[i]? = some v → Config.mr4Hot v = true → Queues s 0x0C 0x0007 →
          Waits t 0x0C 0x0007 (le 1 c ++ le 1 i ++ le 1 v)) ∧
    (((s.ddr c).state ≠ .online ∨ s.uptime < (s.ddr c).mr4At + 8000000 ∨ l.length ≠ s.ranks) →
      exec (.mr4Read c l) s = .next s)) ∧
  (∀ (s : State) (c : Nat),
    ((s.ddr c).state ≠ .absent → (s.ddr c).refAt + 32000000 ≤ s.uptime →
      ∃ t, exec (.refreshWindowEnd c) s = .next t ∧ t.ddr c = { s.ddr c with tables := [], refAt := s.uptime }) ∧
    (((s.ddr c).state = .absent ∨ s.uptime < (s.ddr c).refAt + 32000000) → exec (.refreshWindowEnd c) s = .next s)) ∧
  (∀ (s : State) (c : Nat) (sh : Nat) (much : Prop), sh = feedShare (s.ddr c).rate (s.ddr c).window 10 →
    (much ↔ 400 * ((s.ddr c).rate * 8000) < (s.ddr c).window * 1000) →
    ((s.ddr c).state ≠ .absent → (s.ddr c).windowAt + 10000 ≤ s.uptime →
      ∃ t, exec (.feedWindowEnd c) s = .next t ∧ (t.ddr c).window = 0 ∧
        (t.ddr c).windowAt = s.uptime - (s.uptime - (s.ddr c).windowAt) % 10000 ∧
        (t.ddr c).windows = ((s.ddr c).window :: (s.ddr c).windows).take 100 ∧
        (t.ddr c).peak = Nat.max (s.ddr c).peak sh ∧ (¬ much → (t.ddr c).beyond = (s.ddr c).beyond) ∧
        (much → (t.ddr c).beyond = Nat.min 4095 ((s.ddr c).beyond + 1) ∧
          ((s.ddr c).feedEvt = none → Queues s 0x0C 0x0005 →
            Waits t 0x0C 0x0005 (le 1 c ++ le 2 (Nat.max (s.ddr c).worst sh))))) ∧
    (((s.ddr c).state = .absent ∨ s.uptime < (s.ddr c).windowAt + 10000) → exec (.feedWindowEnd c) s = .next s)) ∧
  (∀ (s : State) (c sub p : Nat) (w : Bool),
    (∀ a n q, (Tab.get [] (s.ddr c).retry sub).drop p = (a, n) :: q →
      ((s.ddr c).state = .online ∨ (s.ddr c).state = .training) →
      (s.mem.freezeParity = false → n < 3 →
        ∃ t, exec (.parityAlert c sub w p) s = .next t ∧ t.mem.frozen = s.mem.frozen ∧ t.top.dev = s.top.dev ∧
          (t.ddr c).alerts = Nat.min 65535 ((s.ddr c).alerts + 1) ∧
          Tab.get [] (t.ddr c).retry sub = (a, n + 1) :: q ∧
          (Queues s 0x0C 0x0003 →
            Waits t 0x0C 0x0003 (le 1 c ++ le 1 sub ++ le 1 0 ++ le 1 (n + 1) ++ le 1 (if w then 2 else 1)))) ∧
      (s.mem.freezeParity = true ∨ 3 ≤ n → s.top.dev ≠ .reset → s.top.dev ≠ .tripped →
        ∃ t, exec (.parityAlert c sub w p) s = .next t ∧ t.mem.frozen = true ∧ t.mem.freezeChan = c ∧
          t.mem.freezeSub = sub ∧ t.mem.freezeDepth = q.length + 1 ∧ t.mem.freezeAddr = a ∧
          t.mem.freezeCause = (if s.mem.freezeParity = false then 2 else if w then 3 else 1) ∧
          t.top.dev = .fault ∧ ∀ e, (s.ddr e).state ≠ .absent → (t.ddr e).state = .frozen)) ∧
    (((Tab.get [] (s.ddr c).retry sub).drop p = [] ∨ ((s.ddr c).state ≠ .online ∧ (s.ddr c).state ≠ .training)) →
      exec (.parityAlert c sub w p) s = .next s)) ∧
  (∀ (s : State) (c best stored : Nat),
    (((s.ddr c).run = false ∨ (s.ddr c).state ≠ .online ∨ (s.ddr c).gathering = false) → ∀ b,
      exec (.trainingStepDone c b best stored) s = .next s) ∧
    ((s.ddr c).run = true → (s.ddr c).state = .online → (s.ddr c).gathering = true →
      (∃ t, exec (.trainingStepDone c false best stored) s = .next t ∧ t.ddr c = { s.ddr c with
        steps := (s.ddr c).steps + 1, gathering := (s.ddr c).change.isNone, stepAt := s.uptime }) ∧
      ((s.calInst (ddrSlot c)).run.qualLimit ≤ best →
        ∃ t, exec (.trainingStepDone c true best stored) s = .next t ∧ (t.ddr c).run = false ∧ (t.ddr c).eye = best ∧
          Tab.get 0 (t.ddr c).stored (s.ddr c).rate = best ∧ (t.calInst (ddrSlot c)).state = .idle ∧
          (t.calInst (ddrSlot c)).lastStatus = 0x00 ∧ (t.calInst (ddrSlot c)).lastDetail = 0 ∧
          (t.calInst (ddrSlot c)).quality = Nat.min 65535 best) ∧
      (best < (s.calInst (ddrSlot c)).run.qualLimit → s.mem.minEye ≤ stored →
        ∃ t, exec (.trainingStepDone c true best stored) s = .next t ∧ (t.ddr c).run = false ∧
          (t.ddr c).eye = (s.ddr c).eye ∧ (t.calInst (ddrSlot c)).state = .idle ∧
          (t.calInst (ddrSlot c)).lastStatus = 0x21 ∧ (t.calInst (ddrSlot c)).lastDetail = 4 ∧
          (t.calInst (ddrSlot c)).quality = Nat.min 65535 best) ∧
      (best < (s.calInst (ddrSlot c)).run.qualLimit → stored < s.mem.minEye → 32 < (s.ddr c).rate →
        ((s.ddr c).change = none →
          ∃ t, exec (.trainingStepDone c true best stored) s = .next t ∧ (t.ddr c).run = true ∧ (t.ddr c).change =
            some { rate := (s.ddr c).rate - 4, old := (s.ddr c).rate, fallback := true, since := s.uptime }) ∧
        ((s.ddr c).change ≠ none →
          ∃ t, exec (.trainingStepDone c true best stored) s = .next t ∧ (t.ddr c).run = true ∧
            (t.ddr c).gathering = false ∧ (t.ddr c).change = (s.ddr c).change ∧
            (t.calInst (ddrSlot c)).state = .acquiring)) ∧
      (best < (s.calInst (ddrSlot c)).run.qualLimit → stored < s.mem.minEye → (s.ddr c).rate ≤ 32 →
        ∃ t, exec (.trainingStepDone c true best stored) s = .next t ∧ (t.ddr c).state = .offline))) ∧
  (∀ (s : State) (c : Nat),
    ((s.ddr c).run = true → (s.ddr c).gathering = true →
      ∃ t, exec (.trainingStepAbandon c) s = .next t ∧
        t.ddr c = { s.ddr c with gathering := false, abandonAt := some s.uptime }) ∧
    (((s.ddr c).run = false ∨ (s.ddr c).gathering = false) → exec (.trainingStepAbandon c) s = .next s)) ∧
  (∀ (s : State) (c : Nat),
    ((s.ddr c).change = none → exec (.rateChangeStart c) s = .next s) ∧
    (∀ r, (s.ddr c).change = some r →
      ((r.begun = true ∨ (s.ddr c).state ≠ .online ∨ (s.ddr c).gathering = true ∨
          (r.fallback = true ∧ s.anyPanic = true ∧ s.uptime < r.since + 1000000)) →
        exec (.rateChangeStart c) s = .next s) ∧
      (r.begun = false → (s.ddr c).state = .online → (s.ddr c).gathering = false →
        (r.fallback = false ∨ s.anyPanic = false ∨ r.since + 1000000 ≤ s.uptime) →
        ∃ t, exec (.rateChangeStart c) s = .next t ∧
          t.ddr c = { s.ddr c with state := .changing, change := some { r with begun := true, since := s.uptime } } ∧
          (Queues s 0x0C 0x0004 → Waits t 0x0C 0x0004
            (le 1 c ++ le 1 2 ++ le 1 3 ++ le 1 r.rate ++ le 4 0 ++ le 1 (if r.fallback then 2 else 1)))))) ∧
  (∀ (s : State) (c eye : Nat),
    ((s.ddr c).change = none → exec (.rateChangeDone c eye) s = .next s) ∧
    (∀ r, (s.ddr c).change = some r →
      ((r.begun = false ∨ (s.ddr c).state ≠ .changing) → exec (.rateChangeDone c eye) s = .next s) ∧
      (r.begun = true → (s.ddr c).state = .changing → r.fallback = false →
        ((s.calPolicy (ddrSlot c)).qualLimit ≤ eye →
          ∃ t, exec (.rateChangeDone c eye) s = .next t ∧ (t.ddr c).state = .online ∧ (t.ddr c).rate = r.rate ∧
            (t.ddr c).eye = eye ∧ (t.ddr c).change = none ∧
            (s.mem.retrains = [{ slot := r.slot, id := r.id, mask := 2 ^ c }] → c < 4 → s.running r.slot r.id = true →
              Completed r.slot s t 0x00 0 0)) ∧
        (eye < (s.calPolicy (ddrSlot c)).qualLimit →
          ∃ t, exec (.rateChangeDone c eye) s = .next t ∧ (t.ddr c).state = .online ∧ (t.ddr c).rate = r.old ∧
            (t.ddr c).eye = Tab.get 0 (s.ddr c).stored r.old ∧ (t.ddr c).change = none ∧
            (s.mem.retrains = [{ slot := r.slot, id := r.id, mask := 2 ^ c }] → c < 4 → s.running r.slot r.id = true →
              Completed r.slot s t 0x03 1 (2 ^ c)))) ∧
      (r.begun = true → (s.ddr c).state = .changing → r.fallback = true →
        ((s.calInst (ddrSlot c)).state = .idle →
          ∃ t, exec (.rateChangeDone c eye) s = .next t ∧ (t.ddr c).state = .online ∧ (t.ddr c).rate = r.old ∧
            (t.ddr c).change = none) ∧
        ((s.calInst (ddrSlot c)).state ≠ .idle → (s.calPolicy (ddrSlot c)).qualLimit ≤ eye →
          ∃ t, exec (.rateChangeDone c eye) s = .next t ∧ (t.ddr c).state = .online ∧ (t.ddr c).rate = r.rate ∧
            (t.ddr c).eye = eye ∧ (t.ddr c).change = none ∧ (t.ddr c).run = false ∧
            (t.calInst (ddrSlot c)).lastStatus = 0x00 ∧ (t.calInst (ddrSlot c)).lastDetail = 0x0100) ∧
        ((s.calInst (ddrSlot c)).state ≠ .idle → eye < (s.calPolicy (ddrSlot c)).qualLimit →
          ∃ t, exec (.rateChangeDone c eye) s = .next t ∧ (t.ddr c).state = .offline))))

/-! ### Block THM -/

/-- R439, R441, R448, R450, R454 to R456: THM_THRESHOLDS sets the period of the rounds, for which unit 15 is armed
anew, or the thresholds of a zone; THM_ZONE_MAP defines a zone afresh, which stops where every sensor of it is failed,
or removes one, unless it has a level or a stop; THM_ACK releases a sensor, excluding one that is failed still, or
clears a stop, after which the zone's bars may fire. Where these rules leave a point open, the model's choice is in
log 39. -/
def Obligations.ThermalCommands : Prop :=
  (∀ (s : State) (k : Nat), Accepted 0x0D00 thmThresholdsChecks k s → (s.slot k).u 8 1 = 0xFF →
    ∃ t, exec (.thmThresholds k) s = .next t ∧ Completed k s t 0x00 0 0 ∧
      t.thm = { s.thm with roundMs := (s.slot k).u 10 2, graceMs := (s.slot k).u 12 2 } ∧
      (s.thm.roundMs = (s.slot k).u 10 2 → t.time = s.time) ∧
      (s.thm.roundMs ≠ (s.slot k).u 10 2 → (t.trig 15).holder = .housekeeping ∧ (t.trig 15).running = true ∧
        (t.trig 15).sched.ns = (s.slot k).u 10 2 * 10 ^ 6 ∧
        (t.trig 15).sched.t0 = s.time.now + (s.slot k).u 10 2 * 10 ^ 6)) ∧
  (∀ (s : State) (k z : Nat), Accepted 0x0D00 thmThresholdsChecks k s → (s.slot k).u 8 1 = z → z ≠ 0xFF →
    ∃ t, exec (.thmThresholds k) s = .next t ∧ Completed k s t 0x00 0 0 ∧
      (t.zone z).thr = [threshold (s.slot k) 10, threshold (s.slot k) 12, threshold (s.slot k) 14] ∧
      (∀ i, i < 3 → (t.zone z).above.getD i false = ((s.zone z).above.getD i false && ((t.zone z).thr.getD i none).isSome)) ∧
      (t.zone z).rateLimit = (s.slot k).u 16 2 ∧ (t.zone z).hyst = (s.slot k).u 18 2 ∧
      (t.zone z).dwell = (s.slot k).u 20 1 ∧ (t.zone z).margin = (s.slot k).u 21 1 ∧ (t.zone z).level = (s.zone z).level ∧
      ∀ y, y ≠ z → t.zone y = s.zone y) ∧
  (∀ (s : State) (k z : Nat), Accepted 0x0D01 thmZoneMapChecks k s → (s.slot k).u 8 1 = z →
    ((0 < (s.zone z).level ∨ (s.zone z).stopped = true) →
      ∃ t, exec (.thmZoneMap k) s = .next t ∧ Completed k s t 0x14 0x0D01 0 ∧
        Keeps (fun p => p == .slots || p == .records) s t) ∧
    ((s.zone z).level = 0 → (s.zone z).stopped = false → (s.slot k).u 9 1 = 2 →
      ∃ t, exec (.thmZoneMap k) s = .next t ∧ Completed k s t 0x00 0 0 ∧ (t.zone z).defined = false ∧
        (t.zone z).thr = (s.zone z).thr ∧ ∀ y, y ≠ z → t.zone y = s.zone y) ∧
    ((s.zone z).level = 0 → (s.zone z).stopped = false → (s.slot k).u 9 1 = 1 →
      ((∃ c ∈ zoneCodes (s.slot k), c ≠ 0x0500 ∧ (s.sensor c).failed = false) →
        ∃ t, exec (.thmZoneMap k) s = .next t ∧ Completed k s t 0x00 0 0 ∧ (t.zone z).defined = true ∧
          (t.zone z).kind = (s.slot k).u 10 1 ∧ (t.zone z).target = (s.slot k).u 12 2 ∧
          (t.zone z).sensors = (zoneCodes (s.slot k)).eraseDups ∧ (t.zone z).stopped = false ∧ (t.zone z).level = 0 ∧
          (t.zone z).above = [false, false, false] ∧ (t.zone z).thr = (s.zone z).thr ∧
          (∀ c ∈ zoneCodes (s.slot k), c ≠ 0x0500 → (t.sensor c).excluded = false ∧
            ((s.sensor c).failed = true → c ∈ (t.zone z).holding)) ∧ ∀ y, y ≠ z → t.zone y = s.zone y) ∧
      ((∀ c ∈ zoneCodes (s.slot k), c ≠ 0x0500 ∧ (s.sensor c).failed = true) →
        ∃ t, exec (.thmZoneMap k) s = .next t ∧ Completed k s t 0x00 0 0 ∧ (t.zone z).defined = true ∧
          (t.zone z).stopped = true))) ∧
  (∀ (s : State) (k z c : Nat), Accepted 0x0D02 thmAckChecks k s → (s.slot k).u 9 1 = z → (s.slot k).u 8 1 = 1 →
    (s.slot k).u 10 2 = c →
    ((s.sensor c).failed = true →
      ∃ t, exec (.thmAck k) s = .next t ∧ Completed k s t 0x00 0 1 ∧ (t.sensor c).excluded = true ∧
        (∀ y, y < 16 → (t.zone y).holding = (s.zone y).holding.filter (· != c)) ∧
        (Queues s 0x0D 0x0003 → Waits t 0x0D 0x0003 (le 2 c ++ le 1 2 ++ le 1 (s.sensor c).cause))) ∧
    ((s.sensor c).failed = false →
      ∃ t, exec (.thmAck k) s = .next t ∧ Completed k s t 0x00 0 0 ∧
        t.zone z = { s.zone z with holding := (s.zone z).holding.filter (· != c) } ∧ t.sensor c = s.sensor c)) ∧
  (∀ (s : State) (k z : Nat), Accepted 0x0D02 thmAckChecks k s → (s.slot k).u 9 1 = z → (s.slot k).u 8 1 = 2 →
    ((s.zone z).stopped = true →
      ∃ t, exec (.thmAck k) s = .next t ∧ Completed k s t 0x00 0 0 ∧ (t.zone z).stopped = false ∧ (t.zone z).plans = [] ∧
        (∀ b ∈ (s.zone z).bars, (∀ y, y < 16 → y ≠ z → (s.zone y).stopped = true → b ∉ (s.zone y).bars) →
          (t.fireBar b).halted = false)) ∧
    ((s.zone z).stopped = false →
      ∃ t, exec (.thmAck k) s = .next t ∧ Completed k s t 0x00 0 0 ∧ t.thm = s.thm ∧ t.fire = s.fire ∧ t.scan = s.scan))

/-- R442 to R449, R457: a crossing that two rounds confirm is reported, that of ORDERLY_STOP starts a stop, and it
clears after its dwell; so does RATE_OVER. The level of a zone rises while a condition holds, unless a step is
pending, and falls after its dwell, unless a sensor holds it. A pending head-supply step is applied at the end of its
grace. A sensor fails, which holds the level of its zones, and recovers. A planned stop that is due brings its bar or
its group into Halter. Where nothing is due nothing happens. Where these rules leave a point open, the model's choice
is in log 39. -/
def Obligations.ThermalSupervision : Prop :=
  (∀ (s : State) (z n : Nat),
    ((16 ≤ z ∨ (s.zone z).defined = false ∨ n = 0 ∨ 3 < n) → exec (.levelChange z n) s = .next s) ∧
    (z < 16 → (s.zone z).defined = true → 0 < n → n ≤ 3 →
      ((s.zone z).above.getD (n - 1) false = false → 2 ≤ (s.zone z).up.getD (n - 1) 0 →
        (n < 3 → ∃ t, exec (.levelChange z n) s = .next t ∧ (t.zone z).above = (s.zone z).above.set (n - 1) true ∧
          (t.zone z).level = (s.zone z).level ∧
          (Queues s 0x0D 0x0001 → Waits t 0x0D 0x0001 (le 1 z ++ le 1 n ++ le 1 1 ++ le 2 (unsigned 16 (s.zone z).temp) ++
            le 2 (unsigned 16 (saturate 16 (s.zoneRate (s.zone z))))))) ∧
        (n = 3 → ∃ t, exec (.levelChange z n) s = .next t ∧ (t.zone z).stopped = true)) ∧
      ((s.zone z).above.getD (n - 1) false = true → (s.zone z).dwell ≤ (s.zone z).dn.getD (n - 1) 0 →
        ∃ t, exec (.levelChange z n) s = .next t ∧ (t.zone z).above = (s.zone z).above.set (n - 1) false ∧
          (Queues s 0x0D 0x0001 → Waits t 0x0D 0x0001 (le 1 z ++ le 1 n ++ le 1 0 ++ le 2 (unsigned 16 (s.zone z).temp) ++
            le 2 (unsigned 16 (saturate 16 (s.zoneRate (s.zone z))))))) ∧
      (((s.zone z).above.getD (n - 1) false = false ∧ (s.zone z).up.getD (n - 1) 0 < 2) ∨
          ((s.zone z).above.getD (n - 1) false = true ∧ (s.zone z).dn.getD (n - 1) 0 < (s.zone z).dwell) →
        exec (.levelChange z n) s = .next s))) ∧
  (∀ (s : State) (z : Nat),
    (z < 16 → (s.zone z).defined = true → (s.zone z).rateLimit ≠ 0 →
      ((s.zone z).rateOver = false → 2 ≤ (s.zone z).rateUp →
        ∃ t, exec (.rateOver z) s = .next t ∧ t.zone z = { s.zone z with rateOver := true, rateDn := 0 } ∧
          (Queues s 0x0D 0x0001 → Waits t 0x0D 0x0001 (le 1 z ++ le 1 4 ++ le 1 1 ++ le 2 (unsigned 16 (s.zone z).temp) ++
            le 2 (unsigned 16 (saturate 16 (s.zoneRate (s.zone z))))))) ∧
      ((s.zone z).rateOver = true → (s.zone z).dwell ≤ (s.zone z).rateDn →
        ∃ t, exec (.rateOver z) s = .next t ∧ t.zone z = { s.zone z with rateOver := false, rateUp := 0 } ∧
          (Queues s 0x0D 0x0001 → Waits t 0x0D 0x0001 (le 1 z ++ le 1 4 ++ le 1 0 ++ le 2 (unsigned 16 (s.zone z).temp) ++
            le 2 (unsigned 16 (saturate 16 (s.zoneRate (s.zone z)))))))) ∧
    ((16 ≤ z ∨ (s.zone z).defined = false ∨ (s.zone z).rateLimit = 0 ∨
        ((s.zone z).rateOver = false ∧ (s.zone z).rateUp < 2) ∨
        ((s.zone z).rateOver = true ∧ (s.zone z).rateDn < (s.zone z).dwell)) → exec (.rateOver z) s = .next s)) ∧
  (∀ (s : State) (z : Nat),
    (z < 16 → (s.zone z).defined = true →
      ((s.zone z).levelAt = 0 ∨ (s.zone z).levelAt + (s.zone z).dwell ≤ s.thm.round) →
      ((s.zone z).hot = true → (s.zone z).level < 8 → s.zonePending (s.zone z) = false →
        ∃ t, exec (.throttleLevelStep z) s = .next t ∧
          t.zone z = { s.zone z with level := (s.zone z).level + 1, levelAt := s.thm.round, calm := 0 } ∧
          t.thm.renderStep = State.stepOf t fun y => decide (y.kind ≤ 2)) ∧
      ((s.zone z).hot = false → 0 < (s.zone z).level → (s.zone z).dwell ≤ (s.zone z).calm → s.zoneHeld z = false →
        ∃ t, exec (.throttleLevelStep z) s = .next t ∧
          t.zone z = { s.zone z with level := (s.zone z).level - 1, levelAt := s.thm.round, calm := 0 })) ∧
    ((16 ≤ z ∨ (s.zone z).defined = false ∨
        ((s.zone z).levelAt ≠ 0 ∧ s.thm.round < (s.zone z).levelAt + (s.zone z).dwell) ∨
        ((s.zone z).hot = true ∧ (8 ≤ (s.zone z).level ∨ s.zonePending (s.zone z) = true)) ∨
        ((s.zone z).hot = false ∧ ((s.zone z).level = 0 ∨ (s.zone z).calm < (s.zone z).dwell ∨ s.zoneHeld z = true))) →
      exec (.throttleLevelStep z) s = .next s)) ∧
  (∀ (s : State) (b : Nat),
    ((Tab.get {} s.thm.heads b : HeadStep).pending = none → exec (.throttleGraceExpiry b) s = .next s) ∧
    (∀ p, (Tab.get {} s.thm.heads b : HeadStep).pending = some p →
      (p.2 + s.thm.graceMs * 10 ^ 6 ≤ s.uptime →
        ∃ t, exec (.throttleGraceExpiry b) s = .next t ∧ t.headStep b = p.1 ∧
          (Tab.get {} t.thm.heads b : HeadStep).pending = none) ∧
      (s.uptime < p.2 + s.thm.graceMs * 10 ^ 6 → exec (.throttleGraceExpiry b) s = .next s))) ∧
  (∀ (s : State) (c : Nat),
    ((s.sensor c).failed = false → (s.sensor c).bad ≠ 0 →
      ∃ t, exec (.sensorState c) s = .next t ∧ t.sensor c = { s.sensor c with failed := true, cause := (s.sensor c).bad } ∧
        (Queues s 0x0D 0x0003 → Waits t 0x0D 0x0003 (le 2 c ++ le 1 1 ++ le 1 (s.sensor c).bad)) ∧
        (∀ z, z < 16 → (s.zone z).defined = true → (s.sensor c).excluded = false → c ≠ 0x0500 → c ∈ (s.zone z).sensors →
          c ∈ (t.zone z).holding)) ∧
    ((s.sensor c).failed = true → 16 ≤ (s.sensor c).good →
      ∃ t, exec (.sensorState c) s = .next t ∧ t.sensor c = { s.sensor c with failed := false } ∧
        t.thm.zones = s.thm.zones ∧ (Queues s 0x0D 0x0003 → Waits t 0x0D 0x0003 (le 2 c ++ le 1 0 ++ le 1 0))) ∧
    (((s.sensor c).failed = false ∧ (s.sensor c).bad = 0) ∨ ((s.sensor c).failed = true ∧ (s.sensor c).good < 16) →
      exec (.sensorState c) s = .next s)) ∧
  (∀ (s : State) (n : Nat),
    ((∃ z, z < 16 ∧ ∃ p ∈ (s.zone z).plans, p.target = n ∧ s.stopDue p = true) →
      (n < 16 → ∃ t, exec (.orderlyStopTargetHalt n) s = .next t ∧ (t.fireBar n).halted = true) ∧
      (16 ≤ n → ∃ t, exec (.orderlyStopTargetHalt n) s = .next t ∧ (n = 16 → t.scan.haltedA = true) ∧
        (n = 17 → t.scan.haltedB = true))) ∧
    ((∀ z, z < 16 → ∀ p ∈ (s.zone z).plans, p.target = n → s.stopDue p = false) →
      exec (.orderlyStopTargetHalt n) s = .next s))

/-! ### Block TAN -/

/-- R461, R467, R468, R472, R475, R476: TAN_CONFIG begins pairing unless port 1 is off or a hitch has it; a drill of
the holder is announced to its partner, and one drill at a time; the standby's TAKEOVER claims the tandem links that
are LOCKED or OBSERVING with the claim after the partner's, or ends EXHAUSTED where there is none; leaving sends three
heartbeats and turns the tandem off, and a release gives up the claims and marks it. Where these rules leave a point
open, the model's choice is in log 42 and 72. -/
def Obligations.TandemCommands : Prop :=
  (∀ (s : State) (k : Nat), Accepted 0x0E00 tanConfigChecks k s →
    ((s.port 1).cfg.speed ≠ 0 → (s.time.hitch.joined = false ∨ s.time.hitch.port ≠ 1) →
      ∃ t, exec (.tanConfig k) s = .next t ∧ Completed k s t 0x00 0 0 ∧ t.tan.state = .pairing ∧
        t.tan.linkMask = (s.slot k).u 12 4 ∧ (t.tan.endB = true ↔ (s.slot k).u 8 1 = 2) ∧
        t.tan.autoTakeover = bitAt ((s.slot k).u 9 1) 0 ∧ t.tan.id = (s.slot k).u 16 4 ∧
        t.tan.hbTimeoutUs = (s.slot k).u 20 2 ∧ t.tan.passTimeoutUs = (s.slot k).u 22 2 ∧
        t.tan.posTol = (s.slot k).u 24 4 ∧ t.tan.mirrorOk = false ∧
        t.tan.drill = none ∧ t.tan.takeovers = s.tan.takeovers) ∧
    (((s.port 1).cfg.speed = 0 ∨ (s.time.hitch.joined = true ∧ s.time.hitch.port = 1)) →
      ∃ t, exec (.tanConfig k) s = .next t ∧ Completed k s t 0x14 0x0B03 0 ∧
        Keeps (fun p => p == .slots || p == .records) s t)) ∧
  (∀ (s : State) (k : Nat), Accepted 0x0E01 tanDrillChecks k s → (s.slot k).u 8 1 = 1 →
    (s.tan.drill = none →
      ∃ t bs, exec (.tanDrill k) s = .next t ∧ Completed k s t 0x01 0 0 ∧ t.out = s.out ++ [.eth 1 bs] ∧
        t.tan.drill = some { frame := BitVec.ofNat 32 ((s.slot k).u 12 4), claim := (nextClaim s.tanClaim).getD 0 } ∧
        t.tan.state = s.tan.state) ∧
    (s.tan.drill ≠ none →
      ∃ t, exec (.tanDrill k) s = .next t ∧ Completed k s t 0x14 0x0E01 0 ∧
        Keeps (fun p => p == .slots || p == .records) s t)) ∧
  (∀ (s : State) (k last : Nat), Accepted 0x0E01 tanDrillChecks k s → (s.slot k).u 8 1 = 2 →
    last = ((s.tan.beat.map Heartbeat.frameLast).getD 0).toNat →
    (∀ c, nextClaim s.tan.partnerClaim = some c →
      ∃ t, exec (.tanDrill k) s = .next t ∧ Completed k s t 0x00 0 0 ∧ t.tan.state = .takingOver ∧ t.tan.lastClaim = c ∧
        t.tan.drill = none ∧ t.tan.takeovers = Nat.min 65535 (s.tan.takeovers + 1) ∧
        (t.tan.resume = true ↔ s.tan.mirrorOk = true ∧ s.top.dev = .run) ∧
        (∀ l, l < 32 → s.tanLink l = true → ((s.link l).state = .locked ∨ (s.link l).state = .observing) →
          (t.link l).state = .claimed ∧ (t.link l).claim = c) ∧
        (Queues s 0x0E 0x0002 → Waits t 0x0E 0x0002
          (le 1 3 ++ le 1 (if s.tan.mirrorOk = true ∧ s.top.dev = .run then 0 else 1) ++ le 2 c ++ le 4 (s.freeNat 32) ++
            le 4 last))) ∧
    (nextClaim s.tan.partnerClaim = none →
      ∃ t, exec (.tanDrill k) s = .next t ∧ Completed k s t 0x00 0 0 ∧ t.tan = s.tan ∧ t.rein = s.rein ∧
        (Queues s 0x0E 0x0002 →
          Waits t 0x0E 0x0002 (le 1 4 ++ le 1 1 ++ le 2 0 ++ le 4 (s.freeNat 32) ++ le 4 last)))) ∧
  (∀ (s : State) (k : Nat), Accepted 0x0E02 tanReleaseChecks k s →
    ((s.slot k).u 8 1 = 1 →
      ∃ t, exec (.tanRelease k) s = .next t ∧ Completed k s t 0x00 0 0 ∧ t.tan.state = .off ∧ t.tan.drill = none ∧
        t.tan.mirrorOk = false ∧ t.out.length = s.out.length + 3 ∧ t.rein = s.rein) ∧
    ((s.slot k).u 8 1 = 2 →
      ∃ t, exec (.tanRelease k) s = .next t ∧ Completed k s t 0x00 0 0 ∧ t.tan = { s.tan with released := true } ∧
        ∀ l, l < 32 → s.tanLink l = true → ((s.link l).state = .claimed ∨ (s.link l).state = .locked) →
          (t.link l).state = .observing))

/-- R29, R114, R460 to R463, R465, R467, R468, R472, R474 to R476: the heartbeat goes out every 100 µs and
TANDEM_ALIVE_OUT toggles; an edge of TANDEM_ALIVE_IN is noted where the part has Tandem. A message of another tandem
is discarded and counted. A heartbeat of the right role and firmware ends pairing, one that leaves ends the
partnership, and in SHADOW it judges MIRROR_OK. A lost partner leaves the holder alone. A mirrored result is committed
at its frame, or waits for a place. The check finds a takeover once; banks written end one; a drill that a node does
not follow fails. Where nothing is due nothing happens. Where these rules leave a point open, the model's choice is in
log 42 and 72. -/
def Obligations.TandemProtocol : Prop :=
  (∀ s : State,
    (s.tan.state ≠ .off → s.tan.hbSent + 100000 ≤ s.uptime →
      ∃ t bs, exec .heartbeatTimer s = .next t ∧ t.out = s.out ++ [.eth 1 bs] ∧
        t.tan = { s.tan with hbSent := s.uptime, sentSeq := (s.tan.sentSeq + 1) % 65536 }) ∧
    ((s.tan.state = .off ∨ s.uptime < s.tan.hbSent + 100000) → exec .heartbeatTimer s = .next s)) ∧
  (∀ s : State,
    (s.aliveAllowed = true → s.tan.aliveSent + 100000 ≤ s.uptime → exec .tandemAliveToggle s =
      .next { s with tan := { s.tan with aliveOut := !s.tan.aliveOut, aliveSent := s.uptime } }) ∧
    ((s.aliveAllowed = false ∨ s.uptime < s.tan.aliveSent + 100000) → exec .tandemAliveToggle s = .next s)) ∧
  (∀ s : State,
    (s.fuse.part.tandem = true →
      exec .tandemAliveEdge s = .next { s with tan := { s.tan with aliveAt := some s.uptime } }) ∧
    (s.fuse.part.tandem = false → exec .tandemAliveEdge s = .next s)) ∧
  (∀ (s : State) (bs : List Byte) (i : Instr) (ty : Nat), ((i = .heartbeatRx bs ∧ ty = 0x40) ∨ (i = .drillRx bs ∧ ty = 0x42)) →
    (s.tan.state = .off → exec i s = .next s) ∧
    (s.tan.state ≠ .off → (numAt bs 4 4 ≠ s.tan.id ∨ bs.length < 20 + numAt bs 2 2) → exec i s = .next (ethDrop 1 s)) ∧
    (s.tan.state ≠ .off → numAt bs 4 4 = s.tan.id → 20 + numAt bs 2 2 ≤ bs.length → byteAt bs 1 ≠ ty → exec i s = .next s)) ∧
  (∀ (s : State) (bs : List Byte) (b : Heartbeat) (role : Bool), s.tan.state ≠ .off → numAt bs 4 4 = s.tan.id →
    20 + numAt bs 2 2 ≤ bs.length → byteAt bs 1 = 0x40 → b = readBeat (byteAt bs 8) ((bs.drop 20).take (numAt bs 2 2)) →
    role = (if s.tan.endB then b.holder else b.standby) →
    (∃ t, exec (.heartbeatRx bs) s = .next t ∧ t.tan.beat = some b ∧ t.tan.beatAt = some s.uptime ∧
      t.tan.partnerClaim = (if b.claim = 0 then s.tan.partnerClaim else b.claim)) ∧
    (∀ (old new : TanState) (cause : Nat), s.tan.state = old → old ≠ new → new ≠ .shadow →
      ((bitAt b.bits 3 = false ∧ old = .pairing ∧ b.fw = s.lcs.fwVersion ∧ role = true ∧ s.tan.endB = false ∧
          new = .active ∧ cause = 0) ∨
        (bitAt b.bits 3 = false ∧ old = .alone ∧ b.fw = s.lcs.fwVersion ∧ b.standby = true ∧ new = .active ∧ cause = 0) ∨
        (bitAt b.bits 3 = true ∧ (old = .active ∨ (old = .pairing ∧ s.tan.endB = false)) ∧ new = .alone ∧ cause = 2) ∨
        (bitAt b.bits 3 = true ∧ (old = .shadow ∨ old = .deposed ∨ (old = .pairing ∧ s.tan.endB = true)) ∧
          new = .off ∧ cause = 2)) →
      ∃ t, exec (.heartbeatRx bs) s = .next t ∧ t.tan.state = new ∧
        (Queues s 0x0E 0x0001 → Waits t 0x0E 0x0001 (le 1 old.code ++ le 1 new.code ++ le 1 cause))) ∧
    (s.tan.state = .pairing → bitAt b.bits 3 = false → b.fw = s.lcs.fwVersion → role = true → s.tan.endB = true →
      ∃ t, exec (.heartbeatRx bs) s = .next t ∧ t.tan.state = .shadow ∧
        (t.tan.mirrorOk = true → b.dev = s.top.dev.code ∧ b.job = s.jobId)) ∧
    (s.tan.state = .pairing → bitAt b.bits 3 = false → b.fw ≠ s.lcs.fwVersion →
      ∃ t, exec (.heartbeatRx bs) s = .next t ∧ t.tan.state = .pairing ∧
        (s.tan.fwSeen = false → Queues s 0x0E 0x0001 → Waits t 0x0E 0x0001 (le 1 1 ++ le 1 1 ++ le 1 1))) ∧
    (s.tan.state = .shadow → bitAt b.bits 3 = false →
      ∃ t, exec (.heartbeatRx bs) s = .next t ∧ t.tan.state = .shadow ∧ (t.tan.mirrorOk = true ↔ s.mirrorFault b = 0))) ∧
  (∀ s : State,
    (s.tan.state = .active → s.partnerLost = true →
      ∃ t, exec .tandemPartnerLost s = .next t ∧ t.tan = { s.tan with state := .alone } ∧
        (Queues s 0x0E 0x0001 → Waits t 0x0E 0x0001 (le 1 2 ++ le 1 4 ++ le 1 3))) ∧
    ((s.tan.state ≠ .active ∨ s.partnerLost = false) → exec .tandemPartnerLost s = .next s)) ∧
  (∀ (s : State) (n : Nat) (f : FrameNo) (r : CalImage),
    (s.tan.state ≠ .shadow → exec (.calMirrorRx n f r) s = .next s) ∧
    (s.tan.state = .shadow → s.tan.mirrorWait = [] → imageCommits r = true → s.commitRoom = true →
      ∃ t, exec (.calMirrorRx n f r) s = .next t ∧ t.tan = { s.tan with mirrorNo := n } ∧
        ((s.prn.job.isOpen = true ∨ s.scanning = true) → ∃ c, t.frames.commits = s.frames.commits ++ [c] ∧
          c.applied = s.frames.applied false f ∧ c.cfg = imageApply r s.prn.nextLoad s.frames.latest) ∧
        (s.prn.job.isOpen = false → s.scanning = false → t.frames.commits = s.frames.commits ∧
          t.frames.base = imageApply r s.prn.nextLoad s.frames.base)) ∧
    (s.tan.state = .shadow → (∀ e ∈ s.tan.mirrorWait ++ [(f, r)], imageCommits e.2 = true) → s.commitRoom = false →
      ∃ t, exec (.calMirrorRx n f r) s = .next t ∧ t.frames = s.frames ∧
        t.tan = { s.tan with mirrorNo := n, mirrorWait := s.tan.mirrorWait ++ [(f, r)] }) ∧
    (s.tan.state = .shadow → s.tan.mirrorWait = [] → imageCommits r = false →
      ∃ t, exec (.calMirrorRx n f r) s = .next t ∧ t.tan = { s.tan with mirrorNo := n } ∧
        t.frames.commits = s.frames.commits)) ∧
  (∀ (s : State) (bs : List Byte), s.tan.state ≠ .off → numAt bs 4 4 = s.tan.id → 20 + numAt bs 2 2 ≤ bs.length →
    byteAt bs 1 = 0x42 →
    (s.tan.state = .shadow → s.tan.drill = none →
      ∃ t, exec (.drillRx bs) s = .next t ∧ t.tan = { s.tan with
        drill := some { frame := BitVec.ofNat 32 (numAt ((bs.drop 20).take (numAt bs 2 2)) 0 4)
                        claim := numAt ((bs.drop 20).take (numAt bs 2 2)) 4 2, standby := true } }) ∧
    ((s.tan.state ≠ .shadow ∨ s.tan.drill ≠ none) → exec (.drillRx bs) s = .next s)) ∧
  (∀ (s u : State) (far : List (Nat × Nat)),
    u = far.foldl (fun st e => st.setLink e.1 { st.link e.1 with lastFar := some (st.uptime - e.2) }) s →
    ((u.takeoverCause = 0 ∨ s.tan.lossSeen = true) → exec (.takeoverCheck far) s =
      .next { u with tan := { u.tan with lossSeen := u.takeoverCause != 0 } }) ∧
    (u.takeoverCause ≠ 0 → s.tan.lossSeen = false →
      (∀ c, nextClaim s.tan.partnerClaim = some c →
        ∃ t, exec (.takeoverCheck far) s = .next t ∧ t.tan.state = .takingOver ∧ t.tan.lossSeen = true ∧ t.tan.lastClaim = c) ∧
      (nextClaim s.tan.partnerClaim = none →
        ∃ t, exec (.takeoverCheck far) s = .next t ∧ t.tan = { s.tan with lossSeen := true } ∧ t.rein = u.rein))) ∧
  (∀ s : State,
    (s.tan.state = .takingOver → (∀ l, l < 32 → s.tanLink l = true → ∀ n ∈ s.linkNodes l, (s.banks n).writes = []) →
      ∃ t, exec .takeoverBanksWritten s = .next t ∧ t.tan.state = .alone ∧ t.tan.resume = false ∧
        (t.tan.held = false ↔ s.tan.resume = true ∧ s.top.dev = .run)) ∧
    ((s.tan.state ≠ .takingOver ∨ ∃ l, l < 32 ∧ s.tanLink l = true ∧ ∃ n ∈ s.linkNodes l, (s.banks n).writes ≠ []) →
      exec .takeoverBanksWritten s = .next s)) ∧
  (∀ (s : State) (n : Nat),
    (s.drillOn (n / 8) = none → exec (.drillTimeout n) s = .next s) ∧
    (∀ d, s.drillOn (n / 8) = some d →
      ((d.standby = true ∨ d.back ≠ 0 ∨ Tab.get 0 d.sent n = 0 ∨ s.uptime + 1 < Tab.get 0 d.sent n + 5000000 ∨
          (s.node n).held = d.claim) → exec (.drillTimeout n) s = .next s) ∧
      (d.standby = false → d.back = 0 → Tab.get 0 d.sent n ≠ 0 → Tab.get 0 d.sent n + 5000000 ≤ s.uptime + 1 →
        (s.node n).held ≠ d.claim →
        ∃ t, exec (.drillTimeout n) s = .next t ∧ t.tan.drill = (nextClaim d.claim).map (fun c => { d with back := c }) ∧
          (Queues s 0x0E 0x0003 → ∃ m, ((s.node n).present = true → n < 256 → bitAt m (n / 8) = true) ∧
            Waits t 0x0E 0x0003 (le 1 1 ++ le 4 d.frame.toNat ++ le 4 m ++ le 2 d.claim)))))
end

