-- ==== Sys2Proof/Laws/Tab.lean ====
section
/-! SUPPORT. Laws of sparse tables and byte memories: read after write, and the canonical form kept. -/

namespace Sys2Proof.Machine

variable {α : Type}

@[simp] theorem Tab.get_nil (d : α) (k : Nat) : Tab.get d [] k = d := rfl

/-- A key below every listed key reads the default. -/
theorem Tab.get_of_lt (d : α) (m : Tab α) (k : Nat) (h : ∀ e ∈ m, k < e.1) : Tab.get d m k = d := by
  induction m with
  | nil => rfl
  | cons a t ih =>
    have := h a (by simp)
    simp only [Tab.get]
    rw [if_neg (by omega)]
    exact ih fun e he => h e (by simp [he])

/-- A read of the key just entered gives the value entered. -/
theorem Tab.get_enter_same (d : α) (m : Tab α) (k : Nat) (v : α) : Tab.get d (Tab.enter m k v) k = v := by
  induction m with
  | nil => simp [Tab.enter, Tab.get]
  | cons a t ih =>
    simp only [Tab.enter]
    split
    · simp [Tab.get]
    · split
      · simp [Tab.get]
      · rename_i h
        simp only [Tab.get, if_neg h]
        exact ih

/-- An entry leaves every other key alone. -/
theorem Tab.get_enter_ne (d : α) (m : Tab α) (k j : Nat) (v : α) (h : j ≠ k) :
    Tab.get d (Tab.enter m k v) j = Tab.get d m j := by
  induction m with
  | nil => simp [Tab.enter, Tab.get, h]
  | cons a t ih =>
    simp only [Tab.enter]
    split
    · simp [Tab.get, h]
    · split
      · rename_i h2
        subst h2
        simp [Tab.get, h]
      · simp only [Tab.get]
        split
        · rfl
        · exact ih

/-- What a filter over keys leaves. -/
theorem Tab.get_filter_key (d : α) (m : Tab α) (k j : Nat) :
    Tab.get d (m.filter fun e => decide (e.1 ≠ k)) j = if j = k then d else Tab.get d m j := by
  induction m with
  | nil => simp [Tab.get]
  | cons a t ih =>
    by_cases h : a.1 = k <;> by_cases hj : j = k <;> by_cases ha : j = a.1 <;>
      simp_all [Tab.get, List.filter_cons]

/-- Every listed key after an entry was listed before, or is the key entered. -/
theorem Tab.mem_enter (m : Tab α) (k : Nat) (v : α) (e : Nat × α) (he : e ∈ Tab.enter m k v) : e ∈ m ∨ e = (k, v) := by
  induction m with
  | nil => exact .inr (by simpa [Tab.enter] using he)
  | cons a t ih =>
    simp only [Tab.enter] at he
    split at he
    · rw [List.mem_cons] at he
      exact he.symm
    · split at he
      · rw [List.mem_cons] at he
        rcases he with he | he
        · exact .inr he
        · exact .inl (List.mem_cons_of_mem _ he)
      · rw [List.mem_cons] at he
        rcases he with he | he
        · exact .inl (by simp [he])
        · exact (ih he).imp (List.mem_cons_of_mem _) id

/-- An entry keeps the keys rising. -/
theorem Tab.enter_rising (m : Tab α) (k : Nat) (v : α) (hm : m.Pairwise fun a b => a.1 < b.1) :
    (Tab.enter m k v).Pairwise fun a b => a.1 < b.1 := by
  induction m with
  | nil => simp [Tab.enter]
  | cons a t ih =>
    obtain ⟨hlt, ht⟩ := List.pairwise_cons.mp hm
    simp only [Tab.enter]
    split
    · rename_i h
      refine List.pairwise_cons.mpr ⟨fun e he => ?_, hm⟩
      rcases List.mem_cons.mp he with rfl | he
      · exact h
      · exact Nat.lt_trans h (hlt e he)
    · split
      · rename_i h2
        exact List.pairwise_cons.mpr ⟨fun e he => h2 ▸ hlt e he, ht⟩
      · refine List.pairwise_cons.mpr ⟨fun e he => ?_, ih ht⟩
        rcases Tab.mem_enter t k v e he with h | rfl
        · exact hlt e h
        · show a.1 < k
          omega

variable [DecidableEq α]

/-- A write in one line: the default value drops the key, another is entered. -/
theorem Tab.put_eq (d : α) (m : Tab α) (k : Nat) (v : α) :
    Tab.put d m k v = if v = d then m.filter (fun x => decide (x.1 ≠ k)) else Tab.enter m k v := by
  cases m <;> simp [Tab.put, Tab.enter]

/-- A read of the key just written gives the value written. -/
@[simp] theorem Tab.get_put_same (d : α) (m : Tab α) (k : Nat) (v : α) : Tab.get d (Tab.put d m k v) k = v := by
  rw [Tab.put_eq]
  split
  · rename_i h
    rw [Tab.get_filter_key, if_pos rfl, h]
  · exact Tab.get_enter_same d m k v

/-- A write leaves every other key alone. -/
theorem Tab.get_put_ne (d : α) (m : Tab α) (k j : Nat) (v : α) (h : j ≠ k) :
    Tab.get d (Tab.put d m k v) j = Tab.get d m j := by
  rw [Tab.put_eq]
  split
  · rw [Tab.get_filter_key, if_neg h]
  · exact Tab.get_enter_ne d m k j v h

/-- A read after a write, at any key. -/
theorem Tab.get_put (d : α) (m : Tab α) (k j : Nat) (v : α) :
    Tab.get d (Tab.put d m k v) j = if j = k then v else Tab.get d m j := by
  split
  · rename_i h
    rw [h, Tab.get_put_same]
  · exact Tab.get_put_ne d m k j v ‹_›

/-- Every listed key after a write was listed before, or is the key written. -/
theorem Tab.mem_put (d : α) (m : Tab α) (k : Nat) (v : α) (e : Nat × α) (he : e ∈ Tab.put d m k v) :
    e ∈ m ∨ (e = (k, v) ∧ v ≠ d) := by
  rw [Tab.put_eq] at he
  split at he
  · exact .inl (List.mem_filter.mp he).1
  · exact (Tab.mem_enter m k v e he).imp id fun h => ⟨h, ‹_›⟩

/-- A write keeps the canonical form. -/
theorem Tab.put_wf (d : α) (m : Tab α) (k : Nat) (v : α) (hm : Tab.wf d m) : Tab.wf d (Tab.put d m k v) := by
  refine ⟨?_, fun e he => ?_⟩
  · rw [Tab.put_eq]
    split
    · exact hm.1.filter _
    · exact Tab.enter_rising m k v hm.1
  · rcases Tab.mem_put d m k v e he with h | ⟨rfl, h⟩
    · exact hm.2 e h
    · exact h

/-- A function that keeps the default is applied at every key. -/
theorem Tab.get_mapv (d : α) (f : Nat → α → α) (m : Tab α) (j : Nat) (h : f j d = d) :
    Tab.get d (Tab.mapv d f m) j = f j (Tab.get d m j) := by
  induction m with
  | nil => simp [Tab.mapv, Tab.get, h]
  | cons a t ih =>
    have hu := Tab.get_filter_key d (Tab.mapv d f t) a.1 j
    by_cases hj : j = a.1
    · subst hj
      simp only [if_true] at hu
      simp only [Tab.mapv, Tab.get, if_true]
      split
      · rename_i hv
        rw [hu, hv]
      · simp [Tab.get]
    · rw [if_neg hj, ih] at hu
      simp only [Tab.mapv, Tab.get, if_neg hj]
      split
      · exact hu
      · simp only [Tab.get, if_neg hj]
        exact hu

/-- Dropping entries keeps the canonical form. -/
theorem Tab.filter_wf (d : α) (m : Tab α) (p : Nat × α → Bool) (hm : Tab.wf d m) : Tab.wf d (m.filter p) :=
  ⟨hm.1.filter p, fun e he => hm.2 e (List.mem_filter.mp he).1⟩

theorem Tab.nil_wf (d : α) : Tab.wf d ([] : Tab α) := ⟨List.Pairwise.nil, by simp⟩

/-- Storing a byte string keeps the canonical form. -/
theorem Memory.setBytes_wf (m : Memory) (a : Nat) (bs : List Byte) (hm : m.wf) : (m.setBytes a bs).wf := by
  induction bs generalizing m a with
  | nil => exact hm
  | cons b t ih => exact ih _ _ (Tab.put_wf _ _ _ _ hm)

/-- Wiping keeps the canonical form. -/
theorem Memory.wipe_wf (m : Memory) (a n : Nat) (hm : m.wf) : (m.wipe a n).wf := Tab.filter_wf _ _ _ hm

/-- A byte string stored leaves every byte outside it alone. -/
theorem Memory.byte_setBytes_outside (m : Memory) (a : Nat) (bs : List Byte) (x : Nat) (h : x < a ∨ a + bs.length ≤ x) :
    (m.setBytes a bs).byte x = m.byte x := by
  induction bs generalizing m a with
  | nil => rfl
  | cons b t ih =>
    simp only [List.length_cons] at h
    rw [Memory.setBytes, ih _ _ (by omega)]
    exact Tab.get_put_ne _ _ _ _ _ (by omega)

/-- A byte string stored is read back. -/
theorem Memory.byte_setBytes_inside (m : Memory) (a : Nat) (bs : List Byte) (i : Nat) (h : i < bs.length) :
    (m.setBytes a bs).byte (a + i) = bs[i] := by
  induction bs generalizing m a i with
  | nil => simp at h
  | cons b t ih =>
    cases i with
    | zero =>
      rw [Memory.setBytes, Memory.byte_setBytes_outside _ _ _ _ (by omega)]
      exact Tab.get_put_same _ _ _ _
    | succ j =>
      have := ih (m.setByte a b) (a + 1) j (by simpa using h)
      simpa [Memory.setBytes, Nat.add_assoc, Nat.add_comm 1 j] using this

end Sys2Proof.Machine
end

