-- ==== Sys2Proof/Laws/Keeps.lean ====
section
/-! SUPPORT. How `Keeps` passes through the constructs that meanings are made of. -/

namespace Sys2Proof.Machine

variable {m : Part → Bool} {r s t : State}

theorem OtpLe.refl (a : Lcs) : OtpLe a a := ⟨id, id, id, List.prefix_rfl, Nat.le_refl _⟩

theorem OtpLe.trans {a b c : Lcs} (h : OtpLe a b) (k : OtpLe b c) : OtpLe a c :=
  ⟨k.blank ∘ h.blank, k.secured ∘ h.secured, k.retired ∘ h.retired, h.records.trans k.records, Nat.le_trans h.rollback k.rollback⟩

theorem Keeps.refl (m : Part → Bool) (s : State) : Keeps m s s := by
  constructor <;>
    first
      | exact fun _ => rfl | exact id | rfl | exact OtpLe.refl _ | exact fun _ => ⟨rfl, rfl⟩ | exact fun _ => ⟨rfl, rfl, rfl⟩
      | exact fun _ => ⟨rfl, rfl, rfl, rfl⟩ | exact fun _ => ⟨rfl, rfl, rfl, rfl, rfl⟩

/-- A part of one field is as before, or may change. -/
theorem part1 {α : Type} {b : Bool} {x y z : α} (h : x = y ∨ b = true) (k : b = false → y = z) (hb : b = false) : x = z := by
  rcases h with h | h
  · exact h.trans (k hb)
  · rw [h] at hb
    cases hb

/-- A part of two fields. -/
theorem part2 {α β : Type} {b : Bool} {x y z : α} {x' y' z' : β} (h : (x = y ∧ x' = y') ∨ b = true)
    (k : b = false → y = z ∧ y' = z') (hb : b = false) : x = z ∧ x' = z' :=
  ⟨part1 (h.imp_left (·.1)) (fun e => (k e).1) hb, part1 (h.imp_left (·.2)) (fun e => (k e).2) hb⟩

/-- A part of three fields. -/
theorem part3 {α β γ : Type} {b : Bool} {x y z : α} {x' y' z' : β} {u v w : γ} (h : (x = y ∧ x' = y' ∧ u = v) ∨ b = true)
    (k : b = false → y = z ∧ y' = z' ∧ v = w) (hb : b = false) : x = z ∧ x' = z' ∧ u = w :=
  ⟨part1 (h.imp_left (·.1)) (fun e => (k e).1) hb, part2 (h.imp_left (·.2)) (fun e => (k e).2) hb⟩

/-- A part of four fields. -/
theorem part4 {α β γ δ : Type} {b : Bool} {x y z : α} {x' y' z' : β} {u v w : γ} {u' v' w' : δ}
    (h : (x = y ∧ x' = y' ∧ u = v ∧ u' = v') ∨ b = true) (k : b = false → y = z ∧ y' = z' ∧ v = w ∧ v' = w')
    (hb : b = false) : x = z ∧ x' = z' ∧ u = w ∧ u' = w' :=
  ⟨part1 (h.imp_left (·.1)) (fun e => (k e).1) hb, part3 (h.imp_left (·.2)) (fun e => (k e).2) hb⟩

/-- A part of five fields. -/
theorem part5 {α β γ δ ε : Type} {b : Bool} {x y z : α} {x' y' z' : β} {u v w : γ} {u' v' w' : δ} {p q o : ε}
    (h : (x = y ∧ x' = y' ∧ u = v ∧ u' = v' ∧ p = q) ∨ b = true)
    (k : b = false → y = z ∧ y' = z' ∧ v = w ∧ v' = w' ∧ q = o) (hb : b = false) :
    x = z ∧ x' = z' ∧ u = w ∧ u' = w' ∧ p = o :=
  ⟨part1 (h.imp_left (·.1)) (fun e => (k e).1) hb, part4 (h.imp_left (·.2)) (fun e => (k e).2) hb⟩

/-- Every next state of an outcome keeps what `r` has. -/
structure OutKeeps (m : Part → Bool) (r : State) (o : Host.Outcome State Fault Refusal) : Prop where
  keeps : ∀ t, o = .next t → Keeps m r t

theorem OutKeeps.next (h : Keeps m r s) : OutKeeps m r (.next s) := by
  refine ⟨fun t e => ?_⟩
  cases e
  exact h

theorem OutKeeps.fault (x : Fault) : OutKeeps m r (.fault x) := by
  refine ⟨fun t e => ?_⟩
  cases e

theorem OutKeeps.refused (x : Refusal) : OutKeeps m r (.refused x) := by
  refine ⟨fun t e => ?_⟩
  cases e

/-- A state that differs in other fields only. -/
theorem State.keeps_mk (h : Keeps m r s)
    {x_uptime} {x_free} {x_out} {x_top} {x_cmd} {x_pcie} {x_lcs} {x_poison} {x_time} {x_web} {x_axis} {x_frames}
    {x_prn} {x_fire} {x_rein} {x_chain} {x_tan} {x_thm} {x_cal} {x_scan} {x_cam} {x_mem}
    (h_uptime : x_uptime = s.uptime ∨ m .uptime = true) (h_free : x_free = s.free ∨ m .free = true)
    (h_out : x_out = s.out ∨ m .out = true)
    (h_dev : (x_top.dev = s.top.dev ∧ x_top.prev = s.top.prev ∧ x_top.cause = s.top.cause) ∨ m .dev = true)
    (h_mode : x_top.mode = s.top.mode ∨ m .mode = true)
    (h_conflicts : (x_top.conflicts = s.top.conflicts ∧ x_top.lastDword = s.top.lastDword) ∨ m .conflicts = true)
    (h_hpen : x_top.hpen = s.top.hpen ∨ m .hpen = true)
    (h_rings : (x_cmd.rings = s.cmd.rings ∧ x_cmd.rrNext = s.cmd.rrNext ∧ x_cmd.nextId = s.cmd.nextId) ∨ m .rings = true)
    (h_slots : x_cmd.slots = s.cmd.slots ∨ m .slots = true) (h_records : x_cmd.cpl = s.cmd.cpl ∨ m .records = true)
    (h_events : (x_cmd.evt = s.cmd.evt ∧ x_cmd.backlog = s.cmd.backlog ∧ x_cmd.evtSeq = s.cmd.evtSeq ∧ x_cmd.lostAll = s.cmd.lostAll ∧ x_cmd.lostFrame = s.cmd.lostFrame) ∨ m .events = true)
    (h_masked : x_cmd.masked = s.cmd.masked ∨ m .masked = true) (h_bufs : x_cmd.bufs = s.cmd.bufs ∨ m .bufs = true)
    (h_pulls : x_cmd.pulls = s.cmd.pulls ∨ m .pulls = true)
    (h_area : (x_cmd.hostBase = s.cmd.hostBase ∧ x_cmd.hostSize = s.cmd.hostSize) ∨ m .area = true)
    (h_winDrop : x_cmd.winDrop = s.cmd.winDrop ∨ m .winDrop = true)
    (h_link : (x_pcie.linkUp = s.pcie.linkUp ∧ x_pcie.d3hot = s.pcie.d3hot ∧ x_pcie.bme = s.pcie.bme ∧ x_pcie.wiping = s.pcie.wiping) ∨ m .link = true)
    (h_limits : (x_pcie.maxPayload = s.pcie.maxPayload ∧ x_pcie.maxReadRequest = s.pcie.maxReadRequest) ∨ m .limits = true)
    (h_reply : (x_pcie.reply = s.pcie.reply ∧ x_pcie.latches = s.pcie.latches) ∨ m .reply = true)
    (h_aer : (x_pcie.aerUr = s.pcie.aerUr ∧ x_pcie.aerPoison = s.pcie.aerPoison ∧ x_pcie.aerEcrc = s.pcie.aerEcrc ∧ x_pcie.aerTimeout = s.pcie.aerTimeout) ∨ m .aer = true)
    (h_msix : x_pcie.msix = s.pcie.msix ∨ m .msix = true) (h_pba : x_pcie.pba = s.pcie.pba ∨ m .pba = true)
    (h_otp : (x_lcs.blank = s.lcs.blank ∧ x_lcs.secured = s.lcs.secured ∧ x_lcs.retired = s.lcs.retired ∧ x_lcs.records = s.lcs.records ∧ x_lcs.rollback = s.lcs.rollback) ∨ m .otp = true)
    (h_lcs : x_lcs = s.lcs ∨ m .lcs = true) (h_poison : x_poison = s.poison ∨ m .poison = true)
    (h_clock : (x_time.now = s.time.now ∧ x_time.sub = s.time.sub) ∨ m .clock = true)
    (h_time : x_time = s.time ∨ m .time = true) (h_web : x_web = s.web ∨ m .web = true)
    (h_axis : x_axis = s.axis ∨ m .axis = true) (h_frames : x_frames = s.frames ∨ m .frames = true)
    (h_prn : x_prn = s.prn ∨ m .prn = true) (h_fire : x_fire = s.fire ∨ m .fire = true)
    (h_rein : x_rein = s.rein ∨ m .rein = true) (h_chain : x_chain = s.chain ∨ m .chain = true)
    (h_tan : x_tan = s.tan ∨ m .tan = true) (h_thm : x_thm = s.thm ∨ m .thm = true)
    (h_cal : x_cal = s.cal ∨ m .cal = true) (h_scan : x_scan = s.scan ∨ m .scan = true)
    (h_cam : x_cam = s.cam ∨ m .cam = true) (h_mem : x_mem = s.mem ∨ m .mem = true)
    (ht : x_top.mode = s.top.mode) (hl : OtpLe s.lcs x_lcs) :
    Keeps m r (State.mk s.pending x_uptime s.wall x_free x_out s.fuse x_top x_cmd x_pcie x_lcs s.dram x_poison
    s.hostMem x_time x_web x_axis x_frames x_prn x_fire x_rein x_chain x_tan x_thm x_cal x_scan x_cam x_mem) where
  pending := h.pending
  fuse := h.fuse
  wall := h.wall
  otpLe := h.otpLe.trans hl
  dramWf := h.dramWf
  hostWf := h.hostWf
  modeOk := fun x => by simpa [State.modeLegal, ht] using h.modeOk x
  uptime := part1 h_uptime h.uptime
  free := part1 h_free h.free
  out := part1 h_out h.out
  dev := part3 h_dev h.dev
  mode := part1 h_mode h.mode
  conflicts := part2 h_conflicts h.conflicts
  hpen := part1 h_hpen h.hpen
  rings := part3 h_rings h.rings
  slots := part1 h_slots h.slots
  records := part1 h_records h.records
  events := part5 h_events h.events
  masked := part1 h_masked h.masked
  bufs := part1 h_bufs h.bufs
  pulls := part1 h_pulls h.pulls
  area := part2 h_area h.area
  winDrop := part1 h_winDrop h.winDrop
  link := part4 h_link h.link
  limits := part2 h_limits h.limits
  reply := part2 h_reply h.reply
  aer := part4 h_aer h.aer
  msix := part1 h_msix h.msix
  pba := part1 h_pba h.pba
  otp := part5 h_otp h.otp
  lcs := part1 h_lcs h.lcs
  dram := h.dram
  poison := part1 h_poison h.poison
  hostMem := h.hostMem
  clock := part2 h_clock h.clock
  time := part1 h_time h.time
  web := part1 h_web h.web
  axis := part1 h_axis h.axis
  frames := part1 h_frames h.frames
  prn := part1 h_prn h.prn
  fire := part1 h_fire h.fire
  rein := part1 h_rein h.rein
  chain := part1 h_chain h.chain
  tan := part1 h_tan h.tan
  thm := part1 h_thm h.thm
  cal := part1 h_cal h.cal
  scan := part1 h_scan h.scan
  cam := part1 h_cam h.cam
  mem := part1 h_mem h.mem

/-- Bytes stored in device DRAM. -/
theorem State.keeps_dram (h : Keeps m r s)
    {x_dram} {x_poison}
    (h_dram : x_dram = s.dram ∨ m .dram = true) (h_poison : x_poison = s.poison ∨ m .poison = true)
    (hd : s.dram.wf → x_dram.wf) :
    Keeps m r (State.mk s.pending s.uptime s.wall s.free s.out s.fuse s.top s.cmd s.pcie s.lcs x_dram x_poison
    s.hostMem s.time s.web s.axis s.frames s.prn s.fire s.rein s.chain s.tan s.thm s.cal s.scan s.cam s.mem) where
  pending := h.pending
  fuse := h.fuse
  wall := h.wall
  otpLe := h.otpLe
  dramWf := fun x => hd (h.dramWf x)
  hostWf := h.hostWf
  modeOk := h.modeOk
  uptime := h.uptime
  free := h.free
  out := h.out
  dev := h.dev
  mode := h.mode
  conflicts := h.conflicts
  hpen := h.hpen
  rings := h.rings
  slots := h.slots
  records := h.records
  events := h.events
  masked := h.masked
  bufs := h.bufs
  pulls := h.pulls
  area := h.area
  winDrop := h.winDrop
  link := h.link
  limits := h.limits
  reply := h.reply
  aer := h.aer
  msix := h.msix
  pba := h.pba
  otp := h.otp
  lcs := h.lcs
  dram := part1 h_dram h.dram
  poison := part1 h_poison h.poison
  hostMem := h.hostMem
  clock := h.clock
  time := h.time
  web := h.web
  axis := h.axis
  frames := h.frames
  prn := h.prn
  fire := h.fire
  rein := h.rein
  chain := h.chain
  tan := h.tan
  thm := h.thm
  cal := h.cal
  scan := h.scan
  cam := h.cam
  mem := h.mem

/-- Bytes stored in host memory. -/
theorem State.keeps_host (h : Keeps m r s)
    {x_hostMem}
    (h_hostMem : x_hostMem = s.hostMem ∨ m .hostMem = true)
    (hd : s.hostMem.wf → x_hostMem.wf) :
    Keeps m r (State.mk s.pending s.uptime s.wall s.free s.out s.fuse s.top s.cmd s.pcie s.lcs s.dram s.poison
    x_hostMem s.time s.web s.axis s.frames s.prn s.fire s.rein s.chain s.tan s.thm s.cal s.scan s.cam s.mem) where
  pending := h.pending
  fuse := h.fuse
  wall := h.wall
  otpLe := h.otpLe
  dramWf := h.dramWf
  hostWf := fun x => hd (h.hostWf x)
  modeOk := h.modeOk
  uptime := h.uptime
  free := h.free
  out := h.out
  dev := h.dev
  mode := h.mode
  conflicts := h.conflicts
  hpen := h.hpen
  rings := h.rings
  slots := h.slots
  records := h.records
  events := h.events
  masked := h.masked
  bufs := h.bufs
  pulls := h.pulls
  area := h.area
  winDrop := h.winDrop
  link := h.link
  limits := h.limits
  reply := h.reply
  aer := h.aer
  msix := h.msix
  pba := h.pba
  otp := h.otp
  lcs := h.lcs
  dram := h.dram
  poison := h.poison
  hostMem := part1 h_hostMem h.hostMem
  clock := h.clock
  time := h.time
  web := h.web
  axis := h.axis
  frames := h.frames
  prn := h.prn
  fire := h.fire
  rein := h.rein
  chain := h.chain
  tan := h.tan
  thm := h.thm
  cal := h.cal
  scan := h.scan
  cam := h.cam
  mem := h.mem

/-- A mode selected that the part has. -/
theorem State.keeps_mode (h : Keeps m r s)
    {x_free} {x_top} {x_cmd}
    (h_free : x_free = s.free ∨ m .free = true)
    (h_dev : (x_top.dev = s.top.dev ∧ x_top.prev = s.top.prev ∧ x_top.cause = s.top.cause) ∨ m .dev = true)
    (h_mode : x_top.mode = s.top.mode ∨ m .mode = true)
    (h_conflicts : (x_top.conflicts = s.top.conflicts ∧ x_top.lastDword = s.top.lastDword) ∨ m .conflicts = true)
    (h_hpen : x_top.hpen = s.top.hpen ∨ m .hpen = true)
    (h_rings : (x_cmd.rings = s.cmd.rings ∧ x_cmd.rrNext = s.cmd.rrNext ∧ x_cmd.nextId = s.cmd.nextId) ∨ m .rings = true)
    (h_slots : x_cmd.slots = s.cmd.slots ∨ m .slots = true) (h_records : x_cmd.cpl = s.cmd.cpl ∨ m .records = true)
    (h_events : (x_cmd.evt = s.cmd.evt ∧ x_cmd.backlog = s.cmd.backlog ∧ x_cmd.evtSeq = s.cmd.evtSeq ∧ x_cmd.lostAll = s.cmd.lostAll ∧ x_cmd.lostFrame = s.cmd.lostFrame) ∨ m .events = true)
    (h_masked : x_cmd.masked = s.cmd.masked ∨ m .masked = true) (h_bufs : x_cmd.bufs = s.cmd.bufs ∨ m .bufs = true)
    (h_pulls : x_cmd.pulls = s.cmd.pulls ∨ m .pulls = true)
    (h_area : (x_cmd.hostBase = s.cmd.hostBase ∧ x_cmd.hostSize = s.cmd.hostSize) ∨ m .area = true)
    (h_winDrop : x_cmd.winDrop = s.cmd.winDrop ∨ m .winDrop = true)
    (hp : x_top.mode = .print → s.fuse.part.print = true)
    (hq : x_top.mode = .lightfield → s.fuse.part.lightfield = true) :
    Keeps m r (State.mk s.pending s.uptime s.wall x_free s.out s.fuse x_top x_cmd s.pcie s.lcs s.dram s.poison
    s.hostMem s.time s.web s.axis s.frames s.prn s.fire s.rein s.chain s.tan s.thm s.cal s.scan s.cam s.mem) where
  pending := h.pending
  fuse := h.fuse
  wall := h.wall
  otpLe := h.otpLe
  dramWf := h.dramWf
  hostWf := h.hostWf
  modeOk := fun _ => ⟨hp, hq⟩
  uptime := h.uptime
  free := part1 h_free h.free
  out := h.out
  dev := part3 h_dev h.dev
  mode := part1 h_mode h.mode
  conflicts := part2 h_conflicts h.conflicts
  hpen := part1 h_hpen h.hpen
  rings := part3 h_rings h.rings
  slots := part1 h_slots h.slots
  records := part1 h_records h.records
  events := part5 h_events h.events
  masked := part1 h_masked h.masked
  bufs := part1 h_bufs h.bufs
  pulls := part1 h_pulls h.pulls
  area := part2 h_area h.area
  winDrop := part1 h_winDrop h.winDrop
  link := h.link
  limits := h.limits
  reply := h.reply
  aer := h.aer
  msix := h.msix
  pba := h.pba
  otp := h.otp
  lcs := h.lcs
  dram := h.dram
  poison := h.poison
  hostMem := h.hostMem
  clock := h.clock
  time := h.time
  web := h.web
  axis := h.axis
  frames := h.frames
  prn := h.prn
  fire := h.fire
  rein := h.rein
  chain := h.chain
  tan := h.tan
  thm := h.thm
  cal := h.cal
  scan := h.scan
  cam := h.cam
  mem := h.mem

/-- Most parts afresh, with no mode selected and no DRAM content. -/
theorem State.keeps_fresh (h : Keeps m r s)
    {x_uptime} {x_free} {x_out} {x_top} {x_cmd} {x_pcie} {x_lcs} {x_dram} {x_poison} {x_time} {x_web} {x_axis}
    {x_frames} {x_prn} {x_fire} {x_rein} {x_chain} {x_tan} {x_thm} {x_cal} {x_scan} {x_cam} {x_mem}
    (h_uptime : x_uptime = s.uptime ∨ m .uptime = true) (h_free : x_free = s.free ∨ m .free = true)
    (h_out : x_out = s.out ∨ m .out = true)
    (h_dev : (x_top.dev = s.top.dev ∧ x_top.prev = s.top.prev ∧ x_top.cause = s.top.cause) ∨ m .dev = true)
    (h_mode : x_top.mode = s.top.mode ∨ m .mode = true)
    (h_conflicts : (x_top.conflicts = s.top.conflicts ∧ x_top.lastDword = s.top.lastDword) ∨ m .conflicts = true)
    (h_hpen : x_top.hpen = s.top.hpen ∨ m .hpen = true)
    (h_rings : (x_cmd.rings = s.cmd.rings ∧ x_cmd.rrNext = s.cmd.rrNext ∧ x_cmd.nextId = s.cmd.nextId) ∨ m .rings = true)
    (h_slots : x_cmd.slots = s.cmd.slots ∨ m .slots = true) (h_records : x_cmd.cpl = s.cmd.cpl ∨ m .records = true)
    (h_events : (x_cmd.evt = s.cmd.evt ∧ x_cmd.backlog = s.cmd.backlog ∧ x_cmd.evtSeq = s.cmd.evtSeq ∧ x_cmd.lostAll = s.cmd.lostAll ∧ x_cmd.lostFrame = s.cmd.lostFrame) ∨ m .events = true)
    (h_masked : x_cmd.masked = s.cmd.masked ∨ m .masked = true) (h_bufs : x_cmd.bufs = s.cmd.bufs ∨ m .bufs = true)
    (h_pulls : x_cmd.pulls = s.cmd.pulls ∨ m .pulls = true)
    (h_area : (x_cmd.hostBase = s.cmd.hostBase ∧ x_cmd.hostSize = s.cmd.hostSize) ∨ m .area = true)
    (h_winDrop : x_cmd.winDrop = s.cmd.winDrop ∨ m .winDrop = true)
    (h_link : (x_pcie.linkUp = s.pcie.linkUp ∧ x_pcie.d3hot = s.pcie.d3hot ∧ x_pcie.bme = s.pcie.bme ∧ x_pcie.wiping = s.pcie.wiping) ∨ m .link = true)
    (h_limits : (x_pcie.maxPayload = s.pcie.maxPayload ∧ x_pcie.maxReadRequest = s.pcie.maxReadRequest) ∨ m .limits = true)
    (h_reply : (x_pcie.reply = s.pcie.reply ∧ x_pcie.latches = s.pcie.latches) ∨ m .reply = true)
    (h_aer : (x_pcie.aerUr = s.pcie.aerUr ∧ x_pcie.aerPoison = s.pcie.aerPoison ∧ x_pcie.aerEcrc = s.pcie.aerEcrc ∧ x_pcie.aerTimeout = s.pcie.aerTimeout) ∨ m .aer = true)
    (h_msix : x_pcie.msix = s.pcie.msix ∨ m .msix = true) (h_pba : x_pcie.pba = s.pcie.pba ∨ m .pba = true)
    (h_otp : (x_lcs.blank = s.lcs.blank ∧ x_lcs.secured = s.lcs.secured ∧ x_lcs.retired = s.lcs.retired ∧ x_lcs.records = s.lcs.records ∧ x_lcs.rollback = s.lcs.rollback) ∨ m .otp = true)
    (h_lcs : x_lcs = s.lcs ∨ m .lcs = true) (h_dram : x_dram = s.dram ∨ m .dram = true)
    (h_poison : x_poison = s.poison ∨ m .poison = true)
    (h_clock : (x_time.now = s.time.now ∧ x_time.sub = s.time.sub) ∨ m .clock = true)
    (h_time : x_time = s.time ∨ m .time = true) (h_web : x_web = s.web ∨ m .web = true)
    (h_axis : x_axis = s.axis ∨ m .axis = true) (h_frames : x_frames = s.frames ∨ m .frames = true)
    (h_prn : x_prn = s.prn ∨ m .prn = true) (h_fire : x_fire = s.fire ∨ m .fire = true)
    (h_rein : x_rein = s.rein ∨ m .rein = true) (h_chain : x_chain = s.chain ∨ m .chain = true)
    (h_tan : x_tan = s.tan ∨ m .tan = true) (h_thm : x_thm = s.thm ∨ m .thm = true)
    (h_cal : x_cal = s.cal ∨ m .cal = true) (h_scan : x_scan = s.scan ∨ m .scan = true)
    (h_cam : x_cam = s.cam ∨ m .cam = true) (h_mem : x_mem = s.mem ∨ m .mem = true)
    (ht : x_top.mode = .none) (hl : OtpLe s.lcs x_lcs) (hd : x_dram = []) :
    Keeps m r (State.mk s.pending x_uptime s.wall x_free x_out s.fuse x_top x_cmd x_pcie x_lcs x_dram x_poison
    s.hostMem x_time x_web x_axis x_frames x_prn x_fire x_rein x_chain x_tan x_thm x_cal x_scan x_cam x_mem) where
  pending := h.pending
  fuse := h.fuse
  wall := h.wall
  otpLe := h.otpLe.trans hl
  dramWf := fun _ => by subst hd; exact Tab.nil_wf _
  hostWf := h.hostWf
  modeOk := fun _ => by simp [State.modeLegal, ht]
  uptime := part1 h_uptime h.uptime
  free := part1 h_free h.free
  out := part1 h_out h.out
  dev := part3 h_dev h.dev
  mode := part1 h_mode h.mode
  conflicts := part2 h_conflicts h.conflicts
  hpen := part1 h_hpen h.hpen
  rings := part3 h_rings h.rings
  slots := part1 h_slots h.slots
  records := part1 h_records h.records
  events := part5 h_events h.events
  masked := part1 h_masked h.masked
  bufs := part1 h_bufs h.bufs
  pulls := part1 h_pulls h.pulls
  area := part2 h_area h.area
  winDrop := part1 h_winDrop h.winDrop
  link := part4 h_link h.link
  limits := part2 h_limits h.limits
  reply := part2 h_reply h.reply
  aer := part4 h_aer h.aer
  msix := part1 h_msix h.msix
  pba := part1 h_pba h.pba
  otp := part5 h_otp h.otp
  lcs := part1 h_lcs h.lcs
  dram := part1 h_dram h.dram
  poison := part1 h_poison h.poison
  hostMem := h.hostMem
  clock := part2 h_clock h.clock
  time := part1 h_time h.time
  web := part1 h_web h.web
  axis := part1 h_axis h.axis
  frames := part1 h_frames h.frames
  prn := part1 h_prn h.prn
  fire := part1 h_fire h.fire
  rein := part1 h_rein h.rein
  chain := part1 h_chain h.chain
  tan := part1 h_tan h.tan
  thm := part1 h_thm h.thm
  cal := part1 h_cal h.cal
  scan := part1 h_scan h.scan
  cam := part1 h_cam h.cam
  mem := part1 h_mem h.mem

/-- Device DRAM wiped. -/
theorem State.keeps_wiped (h : Keeps m r s)
    {x_uptime} {x_free} {x_out} {x_top} {x_cmd} {x_pcie} {x_dram} {x_poison} {x_time} {x_web} {x_axis} {x_frames}
    {x_prn} {x_fire} {x_rein} {x_chain} {x_tan} {x_thm} {x_cal} {x_scan} {x_cam} {x_mem}
    (h_uptime : x_uptime = s.uptime ∨ m .uptime = true) (h_free : x_free = s.free ∨ m .free = true)
    (h_out : x_out = s.out ∨ m .out = true)
    (h_dev : (x_top.dev = s.top.dev ∧ x_top.prev = s.top.prev ∧ x_top.cause = s.top.cause) ∨ m .dev = true)
    (h_mode : x_top.mode = s.top.mode ∨ m .mode = true)
    (h_conflicts : (x_top.conflicts = s.top.conflicts ∧ x_top.lastDword = s.top.lastDword) ∨ m .conflicts = true)
    (h_hpen : x_top.hpen = s.top.hpen ∨ m .hpen = true)
    (h_rings : (x_cmd.rings = s.cmd.rings ∧ x_cmd.rrNext = s.cmd.rrNext ∧ x_cmd.nextId = s.cmd.nextId) ∨ m .rings = true)
    (h_slots : x_cmd.slots = s.cmd.slots ∨ m .slots = true) (h_records : x_cmd.cpl = s.cmd.cpl ∨ m .records = true)
    (h_events : (x_cmd.evt = s.cmd.evt ∧ x_cmd.backlog = s.cmd.backlog ∧ x_cmd.evtSeq = s.cmd.evtSeq ∧ x_cmd.lostAll = s.cmd.lostAll ∧ x_cmd.lostFrame = s.cmd.lostFrame) ∨ m .events = true)
    (h_masked : x_cmd.masked = s.cmd.masked ∨ m .masked = true) (h_bufs : x_cmd.bufs = s.cmd.bufs ∨ m .bufs = true)
    (h_pulls : x_cmd.pulls = s.cmd.pulls ∨ m .pulls = true)
    (h_area : (x_cmd.hostBase = s.cmd.hostBase ∧ x_cmd.hostSize = s.cmd.hostSize) ∨ m .area = true)
    (h_winDrop : x_cmd.winDrop = s.cmd.winDrop ∨ m .winDrop = true)
    (h_link : (x_pcie.linkUp = s.pcie.linkUp ∧ x_pcie.d3hot = s.pcie.d3hot ∧ x_pcie.bme = s.pcie.bme ∧ x_pcie.wiping = s.pcie.wiping) ∨ m .link = true)
    (h_limits : (x_pcie.maxPayload = s.pcie.maxPayload ∧ x_pcie.maxReadRequest = s.pcie.maxReadRequest) ∨ m .limits = true)
    (h_reply : (x_pcie.reply = s.pcie.reply ∧ x_pcie.latches = s.pcie.latches) ∨ m .reply = true)
    (h_aer : (x_pcie.aerUr = s.pcie.aerUr ∧ x_pcie.aerPoison = s.pcie.aerPoison ∧ x_pcie.aerEcrc = s.pcie.aerEcrc ∧ x_pcie.aerTimeout = s.pcie.aerTimeout) ∨ m .aer = true)
    (h_msix : x_pcie.msix = s.pcie.msix ∨ m .msix = true) (h_pba : x_pcie.pba = s.pcie.pba ∨ m .pba = true)
    (h_dram : x_dram = s.dram ∨ m .dram = true) (h_poison : x_poison = s.poison ∨ m .poison = true)
    (h_clock : (x_time.now = s.time.now ∧ x_time.sub = s.time.sub) ∨ m .clock = true)
    (h_time : x_time = s.time ∨ m .time = true) (h_web : x_web = s.web ∨ m .web = true)
    (h_axis : x_axis = s.axis ∨ m .axis = true) (h_frames : x_frames = s.frames ∨ m .frames = true)
    (h_prn : x_prn = s.prn ∨ m .prn = true) (h_fire : x_fire = s.fire ∨ m .fire = true)
    (h_rein : x_rein = s.rein ∨ m .rein = true) (h_chain : x_chain = s.chain ∨ m .chain = true)
    (h_tan : x_tan = s.tan ∨ m .tan = true) (h_thm : x_thm = s.thm ∨ m .thm = true)
    (h_cal : x_cal = s.cal ∨ m .cal = true) (h_scan : x_scan = s.scan ∨ m .scan = true)
    (h_cam : x_cam = s.cam ∨ m .cam = true) (h_mem : x_mem = s.mem ∨ m .mem = true)
    (ht : x_top.mode = s.top.mode) (hd : r.dram.wf → x_dram.wf) :
    Keeps m r (State.mk s.pending x_uptime s.wall x_free x_out s.fuse x_top x_cmd x_pcie s.lcs x_dram x_poison
    s.hostMem x_time x_web x_axis x_frames x_prn x_fire x_rein x_chain x_tan x_thm x_cal x_scan x_cam x_mem) where
  pending := h.pending
  fuse := h.fuse
  wall := h.wall
  otpLe := h.otpLe
  dramWf := hd
  hostWf := h.hostWf
  modeOk := fun x => by simpa [State.modeLegal, ht] using h.modeOk x
  uptime := part1 h_uptime h.uptime
  free := part1 h_free h.free
  out := part1 h_out h.out
  dev := part3 h_dev h.dev
  mode := part1 h_mode h.mode
  conflicts := part2 h_conflicts h.conflicts
  hpen := part1 h_hpen h.hpen
  rings := part3 h_rings h.rings
  slots := part1 h_slots h.slots
  records := part1 h_records h.records
  events := part5 h_events h.events
  masked := part1 h_masked h.masked
  bufs := part1 h_bufs h.bufs
  pulls := part1 h_pulls h.pulls
  area := part2 h_area h.area
  winDrop := part1 h_winDrop h.winDrop
  link := part4 h_link h.link
  limits := part2 h_limits h.limits
  reply := part2 h_reply h.reply
  aer := part4 h_aer h.aer
  msix := part1 h_msix h.msix
  pba := part1 h_pba h.pba
  otp := h.otp
  lcs := h.lcs
  dram := part1 h_dram h.dram
  poison := part1 h_poison h.poison
  hostMem := h.hostMem
  clock := part2 h_clock h.clock
  time := part1 h_time h.time
  web := part1 h_web h.web
  axis := part1 h_axis h.axis
  frames := part1 h_frames h.frames
  prn := part1 h_prn h.prn
  fire := part1 h_fire h.fire
  rein := part1 h_rein h.rein
  chain := part1 h_chain h.chain
  tan := part1 h_tan h.tan
  thm := part1 h_thm h.thm
  cal := part1 h_cal h.cal
  scan := part1 h_scan h.scan
  cam := part1 h_cam h.cam
  mem := part1 h_mem h.mem

/-- A change of the life-cycle block that leaves OTP as it was or burns more of it. -/
theorem State.withLcs_keeps (f : Lcs → Lcs) (s : State) (hl : m .lcs = true)
    (ho : m .otp = true ∨ ∀ x : Lcs, (f x).blank = x.blank ∧ (f x).secured = x.secured ∧ (f x).retired = x.retired ∧
      (f x).records = x.records ∧ (f x).rollback = x.rollback) (h : Keeps m r s) (hf : ∀ x, OtpLe x (f x)) :
    Keeps m r (s.withLcs f) := by
  have h_otp := ho.symm.imp_left fun e => e s.lcs
  apply State.keeps_mk h <;>
    with_reducible first
      | exact .inl rfl | exact .inr hl | exact .inl ⟨rfl, rfl⟩ | exact .inl ⟨rfl, rfl, rfl⟩ | exact .inl ⟨rfl, rfl, rfl, rfl⟩
      | exact .inl ⟨rfl, rfl, rfl, rfl, rfl⟩ | exact h_otp | rfl | exact hf _

/-- A change of the time block that leaves device time as it is. -/
theorem State.withTime_keeps (f : Timebase → Timebase) (s : State) (hl : m .time = true)
    (ho : m .clock = true ∨ ∀ x : Timebase, (f x).now = x.now ∧ (f x).sub = x.sub) (h : Keeps m r s) :
    Keeps m r (s.withTime f) := by
  have h_clock := ho.symm.imp_left fun e => e s.time
  apply State.keeps_mk h <;>
    with_reducible first
      | exact .inl rfl | exact .inr hl | exact .inl ⟨rfl, rfl⟩ | exact .inl ⟨rfl, rfl, rfl⟩ | exact .inl ⟨rfl, rfl, rfl, rfl⟩
      | exact .inl ⟨rfl, rfl, rfl, rfl, rfl⟩ | exact h_clock | rfl | exact OtpLe.refl _

theorem Keeps.top_eq (h : Keeps m r t) (a : m .dev = false) (b : m .mode = false) (c : m .conflicts = false)
    (d : m .hpen = false) : t.top = r.top := by
  have h1 := h.dev a
  have h2 := h.mode b
  have h3 := h.conflicts c
  have h4 := h.hpen d
  cases e : t.top
  cases e' : r.top
  simp_all

theorem Keeps.pcie_eq (h : Keeps m r t) (a : m .link = false) (b : m .reply = false) (c : m .msix = false)
    (d : m .pba = false) (e0 : m .limits = false) (f0 : m .aer = false) : t.pcie = r.pcie := by
  have h1 := h.link a
  have h2 := h.reply b
  have h3 := h.msix c
  have h4 := h.pba d
  have h5 := h.limits e0
  have h6 := h.aer f0
  cases e : t.pcie
  cases e' : r.pcie
  simp_all

theorem ite_keeps {c : Prop} [Decidable c] {a b : State} (ha : Keeps m r a) (hb : Keeps m r b) :
    Keeps m r (if c then a else b) := by
  split <;> assumption

theorem ite_outKeeps {c : Prop} [Decidable c] {a b : Host.Outcome State Fault Refusal} (ha : OutKeeps m r a)
    (hb : OutKeeps m r b) : OutKeeps m r (if c then a else b) := by
  split <;> assumption

/-- A fold whose steps keep what `r` has keeps it. -/
theorem foldl_keeps {α : Type} (f : State → α → State) (l : List α) (h : Keeps m r s)
    (hf : ∀ st a, Keeps m r st → Keeps m r (f st a)) : Keeps m r (l.foldl f s) := by
  induction l generalizing s with
  | nil => exact h
  | cons a t ih => exact ih (hf _ _ h)

/-- A right fold whose steps keep what `r` has keeps it. -/
theorem foldr_keeps {α : Type} (f : α → State → State) (l : List α) (h : Keeps m r s)
    (hf : ∀ a st, Keeps m r st → Keeps m r (f a st)) : Keeps m r (l.foldr f s) := by
  induction l with
  | nil => exact h
  | cons a t ih => exact hf _ _ ih

end Sys2Proof.Machine
end

