-- ==== Sys2Proof/Laws/KeepsOps.lean ====
section
/-! SUPPORT. `Keeps` for the definitions of Machine/Ops.lean, one lemma for each. -/

set_option linter.all false
set_option Elab.async false
set_option maxRecDepth 4000
namespace Sys2Proof.Machine

variable {m : Part → Bool} {r : State}

theorem State.useFree_keeps (s : State) (p_free : m .free = true) (hs : Keeps m r s) : Keeps m r (State.useFree s) := by
  unfold State.useFree
  repeat' first | intro _ | (with_reducible first | assumption | apply ite_keeps | apply foldl_keeps) | (with_reducible apply State.keeps_mk <;> first | exact .inr ‹_› | exact .inl rfl | exact .inl ⟨rfl, rfl⟩ | exact .inl ⟨rfl, rfl, rfl⟩ | exact .inl ⟨rfl, rfl, rfl, rfl⟩ | exact .inl ⟨rfl, rfl, rfl, rfl, rfl⟩ | skip) | rfl | exact OtpLe.refl _ | split | (extract_lets; split) | (dsimp +zetaDelta only; split)

theorem State.emit_keeps (o : Out) (s : State) (p_out : m .out = true) (hs : Keeps m r s) : Keeps m r (State.emit o s) := by
  unfold State.emit
  repeat' first | intro _ | (with_reducible first | assumption | apply ite_keeps | apply foldl_keeps) | (with_reducible apply State.keeps_mk <;> first | exact .inr ‹_› | exact .inl rfl | exact .inl ⟨rfl, rfl⟩ | exact .inl ⟨rfl, rfl, rfl⟩ | exact .inl ⟨rfl, rfl, rfl, rfl⟩ | exact .inl ⟨rfl, rfl, rfl, rfl, rfl⟩ | skip) | rfl | exact OtpLe.refl _ | split | (extract_lets; split) | (dsimp +zetaDelta only; split)

theorem raiseMsix_keeps (v : Nat) (s : State) (p_out : m .out = true) (p_pba : m .pba = true) (hs : Keeps m r s) : Keeps m r (raiseMsix v s) := by
  unfold raiseMsix
  repeat' first | intro _ | (with_reducible first | assumption | apply State.emit_keeps | apply ite_keeps | apply foldl_keeps) | (with_reducible apply State.keeps_mk <;> first | exact .inr ‹_› | exact .inl rfl | exact .inl ⟨rfl, rfl⟩ | exact .inl ⟨rfl, rfl, rfl⟩ | exact .inl ⟨rfl, rfl, rfl, rfl⟩ | exact .inl ⟨rfl, rfl, rfl, rfl, rfl⟩ | skip) | rfl | exact OtpLe.refl _ | split | (extract_lets; split) | (dsimp +zetaDelta only; split)

theorem hostStore_keeps (addr : Nat) (bs : List Byte) (s : State) (p_hostMem : m .hostMem = true) (hs : Keeps m r s) :
    Keeps m r (hostStore addr bs s) :=
  State.keeps_host hs (.inr ‹_›) (Memory.setBytes_wf _ _ _)

theorem State.setCpl_keeps (s : State) (n : Nat) (r1 : RecRing) (p_records : m .records = true) (hs : Keeps m r s) : Keeps m r (State.setCpl s n r1) := by
  unfold State.setCpl
  repeat' first | intro _ | (with_reducible first | assumption | apply ite_keeps | apply foldl_keeps) | (with_reducible apply State.keeps_mk <;> first | exact .inr ‹_› | exact .inl rfl | exact .inl ⟨rfl, rfl⟩ | exact .inl ⟨rfl, rfl, rfl⟩ | exact .inl ⟨rfl, rfl, rfl, rfl⟩ | exact .inl ⟨rfl, rfl, rfl, rfl, rfl⟩ | skip) | rfl | exact OtpLe.refl _ | split | (extract_lets; split) | (dsimp +zetaDelta only; split)

theorem State.setEvt_keeps (s : State) (r1 : RecRing) (p_events : m .events = true) (hs : Keeps m r s) : Keeps m r (State.setEvt s r1) := by
  unfold State.setEvt
  repeat' first | intro _ | (with_reducible first | assumption | apply ite_keeps | apply foldl_keeps) | (with_reducible apply State.keeps_mk <;> first | exact .inr ‹_› | exact .inl rfl | exact .inl ⟨rfl, rfl⟩ | exact .inl ⟨rfl, rfl, rfl⟩ | exact .inl ⟨rfl, rfl, rfl, rfl⟩ | exact .inl ⟨rfl, rfl, rfl, rfl, rfl⟩ | skip) | rfl | exact OtpLe.refl _ | split | (extract_lets; split) | (dsimp +zetaDelta only; split)

theorem evtInterrupt_keeps (s : State) (p_out : m .out = true) (p_events : m .events = true) (p_pba : m .pba = true) (hs : Keeps m r s) : Keeps m r (evtInterrupt s) := by
  unfold evtInterrupt
  repeat' first | intro _ | (with_reducible first | assumption | apply raiseMsix_keeps | apply State.setEvt_keeps | apply ite_keeps | apply foldl_keeps) | (with_reducible apply State.keeps_mk <;> first | exact .inr ‹_› | exact .inl rfl | exact .inl ⟨rfl, rfl⟩ | exact .inl ⟨rfl, rfl, rfl⟩ | exact .inl ⟨rfl, rfl, rfl, rfl⟩ | exact .inl ⟨rfl, rfl, rfl, rfl, rfl⟩ | skip) | rfl | exact OtpLe.refl _ | split | (extract_lets; split) | (dsimp +zetaDelta only; split)

theorem writeEvtRecord_keeps (s : State) (body : List Byte) (p_out : m .out = true) (p_events : m .events = true) (p_pba : m .pba = true) (p_hostMem : m .hostMem = true) (hs : Keeps m r s) : Keeps m r (writeEvtRecord s body) := by
  unfold writeEvtRecord
  repeat' first | intro _ | (with_reducible first | assumption | apply hostStore_keeps | apply State.setEvt_keeps | apply evtInterrupt_keeps | apply ite_keeps | apply foldl_keeps) | (with_reducible apply State.keeps_mk <;> first | exact .inr ‹_› | exact .inl rfl | exact .inl ⟨rfl, rfl⟩ | exact .inl ⟨rfl, rfl, rfl⟩ | exact .inl ⟨rfl, rfl, rfl, rfl⟩ | exact .inl ⟨rfl, rfl, rfl, rfl, rfl⟩ | skip) | rfl | exact OtpLe.refl _ | split | (extract_lets; split) | (dsimp +zetaDelta only; split)

theorem writeEvent_keeps (e : EventRec) (s : State) (p_out : m .out = true) (p_events : m .events = true) (p_pba : m .pba = true) (p_hostMem : m .hostMem = true) (hs : Keeps m r s) : Keeps m r (writeEvent e s) := by
  unfold writeEvent
  repeat' first | intro _ | (with_reducible first | assumption | apply writeEvtRecord_keeps | apply ite_keeps | apply foldl_keeps) | (with_reducible apply State.keeps_mk <;> first | exact .inr ‹_› | exact .inl rfl | exact .inl ⟨rfl, rfl⟩ | exact .inl ⟨rfl, rfl, rfl⟩ | exact .inl ⟨rfl, rfl, rfl, rfl⟩ | exact .inl ⟨rfl, rfl, rfl, rfl, rfl⟩ | skip) | rfl | exact OtpLe.refl _ | split | (extract_lets; split) | (dsimp +zetaDelta only; split)

theorem placeEvent_keeps (e : EventRec) (s : State) (p_out : m .out = true) (p_events : m .events = true) (p_pba : m .pba = true) (p_hostMem : m .hostMem = true) (hs : Keeps m r s) : Keeps m r (placeEvent e s) := by
  unfold placeEvent
  repeat' first | intro _ | (with_reducible first | assumption | apply writeEvent_keeps | apply ite_keeps | apply foldl_keeps) | (with_reducible apply State.keeps_mk <;> first | exact .inr ‹_› | exact .inl rfl | exact .inl ⟨rfl, rfl⟩ | exact .inl ⟨rfl, rfl, rfl⟩ | exact .inl ⟨rfl, rfl, rfl, rfl⟩ | exact .inl ⟨rfl, rfl, rfl, rfl, rfl⟩ | skip) | rfl | exact OtpLe.refl _ | split | (extract_lets; split) | (dsimp +zetaDelta only; split)

theorem raiseBetween_keeps (after : Nat) (before : Nat) (src : Nat) (code : Nat) (data : List Byte) (s : State) (p_out : m .out = true) (p_events : m .events = true) (p_pba : m .pba = true) (p_hostMem : m .hostMem = true) (hs : Keeps m r s) : Keeps m r (raiseBetween after before src code data s) := by
  unfold raiseBetween
  repeat' first | intro _ | (with_reducible first | assumption | apply placeEvent_keeps | apply ite_keeps | apply foldl_keeps) | (with_reducible apply State.keeps_mk <;> first | exact .inr ‹_› | exact .inl rfl | exact .inl ⟨rfl, rfl⟩ | exact .inl ⟨rfl, rfl, rfl⟩ | exact .inl ⟨rfl, rfl, rfl, rfl⟩ | exact .inl ⟨rfl, rfl, rfl, rfl, rfl⟩ | skip) | rfl | exact OtpLe.refl _ | split | (extract_lets; split) | (dsimp +zetaDelta only; split)

theorem raiseAfter_keeps (after : Nat) (src : Nat) (code : Nat) (data : List Byte) (s : State) (p_out : m .out = true) (p_events : m .events = true) (p_pba : m .pba = true) (p_hostMem : m .hostMem = true) (hs : Keeps m r s) : Keeps m r (raiseAfter after src code data s) := by
  unfold raiseAfter
  repeat' first | intro _ | (with_reducible first | assumption | apply raiseBetween_keeps | apply ite_keeps | apply foldl_keeps) | (with_reducible apply State.keeps_mk <;> first | exact .inr ‹_› | exact .inl rfl | exact .inl ⟨rfl, rfl⟩ | exact .inl ⟨rfl, rfl, rfl⟩ | exact .inl ⟨rfl, rfl, rfl, rfl⟩ | exact .inl ⟨rfl, rfl, rfl, rfl, rfl⟩ | skip) | rfl | exact OtpLe.refl _ | split | (extract_lets; split) | (dsimp +zetaDelta only; split)

theorem raise_keeps (src : Nat) (code : Nat) (data : List Byte) (s : State) (p_out : m .out = true) (p_events : m .events = true) (p_pba : m .pba = true) (p_hostMem : m .hostMem = true) (hs : Keeps m r s) : Keeps m r (raise src code data s) := by
  unfold raise
  repeat' first | intro _ | (with_reducible first | assumption | apply raiseAfter_keeps | apply ite_keeps | apply foldl_keeps) | (with_reducible apply State.keeps_mk <;> first | exact .inr ‹_› | exact .inl rfl | exact .inl ⟨rfl, rfl⟩ | exact .inl ⟨rfl, rfl, rfl⟩ | exact .inl ⟨rfl, rfl, rfl, rfl⟩ | exact .inl ⟨rfl, rfl, rfl, rfl, rfl⟩ | skip) | rfl | exact OtpLe.refl _ | split | (extract_lets; split) | (dsimp +zetaDelta only; split)

theorem setDevWith_keeps (new : DevState) (c : Cause) (extra : List Byte) (s : State) (p_out : m .out = true) (p_dev : m .dev = true) (p_events : m .events = true) (p_pba : m .pba = true) (p_hostMem : m .hostMem = true) (hs : Keeps m r s) : Keeps m r (setDevWith new c extra s) := by
  unfold setDevWith
  repeat' first | intro _ | (with_reducible first | assumption | apply raise_keeps | apply ite_keeps | apply foldl_keeps) | (with_reducible apply State.keeps_mk <;> first | exact .inr ‹_› | exact .inl rfl | exact .inl ⟨rfl, rfl⟩ | exact .inl ⟨rfl, rfl, rfl⟩ | exact .inl ⟨rfl, rfl, rfl, rfl⟩ | exact .inl ⟨rfl, rfl, rfl, rfl, rfl⟩ | skip) | rfl | exact OtpLe.refl _ | split | (extract_lets; split) | (dsimp +zetaDelta only; split)

theorem setDev_keeps (new : DevState) (c : Cause) (s : State) (p_out : m .out = true) (p_dev : m .dev = true) (p_events : m .events = true) (p_pba : m .pba = true) (p_hostMem : m .hostMem = true) (hs : Keeps m r s) : Keeps m r (setDev new c s) := by
  unfold setDev
  repeat' first | intro _ | (with_reducible first | assumption | apply setDevWith_keeps | apply ite_keeps | apply foldl_keeps) | (with_reducible apply State.keeps_mk <;> first | exact .inr ‹_› | exact .inl rfl | exact .inl ⟨rfl, rfl⟩ | exact .inl ⟨rfl, rfl, rfl⟩ | exact .inl ⟨rfl, rfl, rfl, rfl⟩ | exact .inl ⟨rfl, rfl, rfl, rfl, rfl⟩ | skip) | rfl | exact OtpLe.refl _ | split | (extract_lets; split) | (dsimp +zetaDelta only; split)

theorem regConflict_keeps (off : Nat) (s : State) (p_conflicts : m .conflicts = true) (hs : Keeps m r s) : Keeps m r (regConflict off s) := by
  unfold regConflict
  repeat' first | intro _ | (with_reducible first | assumption | apply ite_keeps | apply foldl_keeps) | (with_reducible apply State.keeps_mk <;> first | exact .inr ‹_› | exact .inl rfl | exact .inl ⟨rfl, rfl⟩ | exact .inl ⟨rfl, rfl, rfl⟩ | exact .inl ⟨rfl, rfl, rfl, rfl⟩ | exact .inl ⟨rfl, rfl, rfl, rfl, rfl⟩ | skip) | rfl | exact OtpLe.refl _ | split | (extract_lets; split) | (dsimp +zetaDelta only; split)

theorem State.setSlot_keeps (s : State) (k : Nat) (d : Slot) (p_slots : m .slots = true) (hs : Keeps m r s) : Keeps m r (State.setSlot s k d) := by
  unfold State.setSlot
  repeat' first | intro _ | (with_reducible first | assumption | apply ite_keeps | apply foldl_keeps) | (with_reducible apply State.keeps_mk <;> first | exact .inr ‹_› | exact .inl rfl | exact .inl ⟨rfl, rfl⟩ | exact .inl ⟨rfl, rfl, rfl⟩ | exact .inl ⟨rfl, rfl, rfl, rfl⟩ | exact .inl ⟨rfl, rfl, rfl, rfl, rfl⟩ | skip) | rfl | exact OtpLe.refl _ | split | (extract_lets; split) | (dsimp +zetaDelta only; split)

theorem completeRaw_keeps (k : Nat) (status : Nat) (detail : Nat) (result : Nat) (frame : Option FrameNo) (s : State) (p_slots : m .slots = true) (p_records : m .records = true) (hs : Keeps m r s) : Keeps m r (completeRaw k status detail result frame s) := by
  unfold completeRaw
  repeat' first | intro _ | (with_reducible first | assumption | apply State.setCpl_keeps | apply State.setSlot_keeps | apply ite_keeps | apply foldl_keeps) | (with_reducible apply State.keeps_mk <;> first | exact .inr ‹_› | exact .inl rfl | exact .inl ⟨rfl, rfl⟩ | exact .inl ⟨rfl, rfl, rfl⟩ | exact .inl ⟨rfl, rfl, rfl, rfl⟩ | exact .inl ⟨rfl, rfl, rfl, rfl, rfl⟩ | skip) | rfl | exact OtpLe.refl _ | split | (extract_lets; split) | (dsimp +zetaDelta only; split)

theorem sweepBad_keeps (a0 : Nat) (a1 : State) (p_slots : m .slots = true) (p_records : m .records = true) (ha1 : Keeps m r a1) : Keeps m r (sweepBad a0 a1) := by
  induction a0 generalizing a1 with
  | zero => exact ha1
  | succ k ih =>
    unfold sweepBad
    repeat' first | with_reducible apply ih | intro _ | (with_reducible first | assumption | apply completeRaw_keeps | apply ite_keeps | apply foldl_keeps) | split | (extract_lets; split) | (with_reducible apply State.keeps_mk <;> first | exact .inr ‹_› | exact .inl rfl | exact .inl ⟨rfl, rfl⟩ | exact .inl ⟨rfl, rfl, rfl⟩ | exact .inl ⟨rfl, rfl, rfl, rfl⟩ | exact .inl ⟨rfl, rfl, rfl, rfl, rfl⟩ | skip) | rfl | exact OtpLe.refl _ | split | (extract_lets; split) | (dsimp +zetaDelta only; split)

theorem complete_keeps (k : Nat) (status : Nat) (detail : Nat) (result : Nat) (frame : Option FrameNo) (s : State) (p_slots : m .slots = true) (p_records : m .records = true) (hs : Keeps m r s) : Keeps m r (complete k status detail result frame s) := by
  unfold complete
  repeat' first | intro _ | (with_reducible first | assumption | apply completeRaw_keeps | apply sweepBad_keeps | apply ite_keeps | apply foldl_keeps) | (with_reducible apply State.keeps_mk <;> first | exact .inr ‹_› | exact .inl rfl | exact .inl ⟨rfl, rfl⟩ | exact .inl ⟨rfl, rfl, rfl⟩ | exact .inl ⟨rfl, rfl, rfl, rfl⟩ | exact .inl ⟨rfl, rfl, rfl, rfl, rfl⟩ | skip) | rfl | exact OtpLe.refl _ | split | (extract_lets; split) | (dsimp +zetaDelta only; split)

theorem done_keeps (k : Nat) (s : State) (p_slots : m .slots = true) (p_records : m .records = true) (hs : Keeps m r s) : Keeps m r (done k s) := by
  unfold done
  repeat' first | intro _ | (with_reducible first | assumption | apply complete_keeps | apply ite_keeps | apply foldl_keeps) | (with_reducible apply State.keeps_mk <;> first | exact .inr ‹_› | exact .inl rfl | exact .inl ⟨rfl, rfl⟩ | exact .inl ⟨rfl, rfl, rfl⟩ | exact .inl ⟨rfl, rfl, rfl, rfl⟩ | exact .inl ⟨rfl, rfl, rfl, rfl, rfl⟩ | skip) | rfl | exact OtpLe.refl _ | split | (extract_lets; split) | (dsimp +zetaDelta only; split)

theorem doneWith_keeps (k : Nat) (result : Nat) (s : State) (p_slots : m .slots = true) (p_records : m .records = true) (hs : Keeps m r s) : Keeps m r (doneWith k result s) := by
  unfold doneWith
  repeat' first | intro _ | (with_reducible first | assumption | apply complete_keeps | apply ite_keeps | apply foldl_keeps) | (with_reducible apply State.keeps_mk <;> first | exact .inr ‹_› | exact .inl rfl | exact .inl ⟨rfl, rfl⟩ | exact .inl ⟨rfl, rfl, rfl⟩ | exact .inl ⟨rfl, rfl, rfl, rfl⟩ | exact .inl ⟨rfl, rfl, rfl, rfl, rfl⟩ | skip) | rfl | exact OtpLe.refl _ | split | (extract_lets; split) | (dsimp +zetaDelta only; split)

theorem badParam_keeps (k : Nat) (off : Nat) (reason : Nat) (s : State) (p_slots : m .slots = true) (p_records : m .records = true) (hs : Keeps m r s) : Keeps m r (badParam k off reason s) := by
  unfold badParam
  repeat' first | intro _ | (with_reducible first | assumption | apply complete_keeps | apply ite_keeps | apply foldl_keeps) | (with_reducible apply State.keeps_mk <;> first | exact .inr ‹_› | exact .inl rfl | exact .inl ⟨rfl, rfl⟩ | exact .inl ⟨rfl, rfl, rfl⟩ | exact .inl ⟨rfl, rfl, rfl, rfl⟩ | exact .inl ⟨rfl, rfl, rfl, rfl, rfl⟩ | skip) | rfl | exact OtpLe.refl _ | split | (extract_lets; split) | (dsimp +zetaDelta only; split)

theorem badImage_keeps (k : Nat) (off : Nat) (reason : Nat) (result : Nat) (s : State) (p_slots : m .slots = true) (p_records : m .records = true) (hs : Keeps m r s) : Keeps m r (badImage k off reason result s) := by
  unfold badImage
  repeat' first | intro _ | (with_reducible first | assumption | apply complete_keeps | apply ite_keeps | apply foldl_keeps) | (with_reducible apply State.keeps_mk <;> first | exact .inr ‹_› | exact .inl rfl | exact .inl ⟨rfl, rfl⟩ | exact .inl ⟨rfl, rfl, rfl⟩ | exact .inl ⟨rfl, rfl, rfl, rfl⟩ | exact .inl ⟨rfl, rfl, rfl, rfl, rfl⟩ | skip) | rfl | exact OtpLe.refl _ | split | (extract_lets; split) | (dsimp +zetaDelta only; split)

theorem wrongState_keeps (k : Nat) (s : State) (p_slots : m .slots = true) (p_records : m .records = true) (hs : Keeps m r s) : Keeps m r (wrongState k s) := by
  unfold wrongState
  repeat' first | intro _ | (with_reducible first | assumption | apply complete_keeps | apply ite_keeps | apply foldl_keeps) | (with_reducible apply State.keeps_mk <;> first | exact .inr ‹_› | exact .inl rfl | exact .inl ⟨rfl, rfl⟩ | exact .inl ⟨rfl, rfl, rfl⟩ | exact .inl ⟨rfl, rfl, rfl, rfl⟩ | exact .inl ⟨rfl, rfl, rfl, rfl, rfl⟩ | skip) | rfl | exact OtpLe.refl _ | split | (extract_lets; split) | (dsimp +zetaDelta only; split)

theorem resourceBusy_keeps (k : Nat) (opcode : Nat) (s : State) (p_slots : m .slots = true) (p_records : m .records = true) (hs : Keeps m r s) : Keeps m r (resourceBusy k opcode s) := by
  unfold resourceBusy
  repeat' first | intro _ | (with_reducible first | assumption | apply complete_keeps | apply ite_keeps | apply foldl_keeps) | (with_reducible apply State.keeps_mk <;> first | exact .inr ‹_› | exact .inl rfl | exact .inl ⟨rfl, rfl⟩ | exact .inl ⟨rfl, rfl, rfl⟩ | exact .inl ⟨rfl, rfl, rfl, rfl⟩ | exact .inl ⟨rfl, rfl, rfl, rfl, rfl⟩ | skip) | rfl | exact OtpLe.refl _ | split | (extract_lets; split) | (dsimp +zetaDelta only; split)

theorem State.setBuf_keeps (s : State) (h : Nat) (b : BufEntry) (p_bufs : m .bufs = true) (hs : Keeps m r s) : Keeps m r (State.setBuf s h b) := by
  unfold State.setBuf
  repeat' first | intro _ | (with_reducible first | assumption | apply ite_keeps | apply foldl_keeps) | (with_reducible apply State.keeps_mk <;> first | exact .inr ‹_› | exact .inl rfl | exact .inl ⟨rfl, rfl⟩ | exact .inl ⟨rfl, rfl, rfl⟩ | exact .inl ⟨rfl, rfl, rfl, rfl⟩ | exact .inl ⟨rfl, rfl, rfl, rfl, rfl⟩ | skip) | rfl | exact OtpLe.refl _ | split | (extract_lets; split) | (dsimp +zetaDelta only; split)

theorem runCmd_keeps (op : Nat) (k : Nat) (c : Checks) (body : Nat → Slot → State → State) (s : State) (p_slots : m .slots = true) (p_records : m .records = true) (hbody : ∀ x0 x1 x2, Keeps m r x2 → Keeps m r (body x0 x1 x2)) (hs : Keeps m r s) : OutKeeps m r (runCmd op k c body s) := by
  unfold runCmd
  repeat' first | intro _ | apply hbody | (with_reducible first | assumption | apply OutKeeps.next | apply OutKeeps.fault | apply ite_outKeeps | apply State.setSlot_keeps | apply complete_keeps | apply ite_keeps | apply foldl_keeps) | split | (extract_lets; split) | (with_reducible apply State.keeps_mk <;> first | exact .inr ‹_› | exact .inl rfl | exact .inl ⟨rfl, rfl⟩ | exact .inl ⟨rfl, rfl, rfl⟩ | exact .inl ⟨rfl, rfl, rfl, rfl⟩ | exact .inl ⟨rfl, rfl, rfl, rfl, rfl⟩ | skip) | rfl | exact OtpLe.refl _ | split | (extract_lets; split) | (dsimp +zetaDelta only; split)

theorem dramStore_keeps (addr : Nat) (bs : List Byte) (s : State) (p_dram : m .dram = true) (p_poison : m .poison = true) (hs : Keeps m r s) :
    Keeps m r (dramStore addr bs s) :=
  State.keeps_dram hs (.inr ‹_›) (.inr ‹_›) (Memory.setBytes_wf _ _ _)

theorem poisonBurst_keeps (burst : Nat) (s : State) (p_poison : m .poison = true) (hs : Keeps m r s) : Keeps m r (poisonBurst burst s) := by
  unfold poisonBurst
  repeat' first | intro _ | (with_reducible first | assumption | apply ite_keeps | apply foldl_keeps) | (with_reducible apply State.keeps_mk <;> first | exact .inr ‹_› | exact .inl rfl | exact .inl ⟨rfl, rfl⟩ | exact .inl ⟨rfl, rfl, rfl⟩ | exact .inl ⟨rfl, rfl, rfl, rfl⟩ | exact .inl ⟨rfl, rfl, rfl, rfl, rfl⟩ | skip) | rfl | exact OtpLe.refl _ | split | (extract_lets; split) | (dsimp +zetaDelta only; split)

end Sys2Proof.Machine
end

