-- ==== Sys2Proof/Laws/KeepsWebCore.lean ====
section
/-! SUPPORT. `Keeps` for the definitions of Machine/WebCore.lean, one lemma for each. -/

set_option linter.all false
set_option Elab.async false
set_option maxRecDepth 4000
namespace Sys2Proof.Machine

variable {m : Part → Bool} {r : State}

theorem State.setChan_keeps (s : State) (n : Nat) (c : Channel) (p_web : m .web = true) (hs : Keeps m r s) : Keeps m r (State.setChan s n c) := by
  unfold State.setChan
  repeat' first | intro _ | (with_reducible first | assumption | apply ite_keeps | apply foldl_keeps) | (with_reducible apply State.keeps_mk <;> first | exact .inr ‹_› | exact .inl rfl | exact .inl ⟨rfl, rfl⟩ | exact .inl ⟨rfl, rfl, rfl⟩ | exact .inl ⟨rfl, rfl, rfl, rfl⟩ | exact .inl ⟨rfl, rfl, rfl, rfl, rfl⟩ | skip) | rfl | exact OtpLe.refl _ | split | (extract_lets; split) | (dsimp +zetaDelta only; split)

theorem State.setWebBar_keeps (s : State) (b : Nat) (x : WebBar) (p_web : m .web = true) (hs : Keeps m r s) : Keeps m r (State.setWebBar s b x) := by
  unfold State.setWebBar
  repeat' first | intro _ | (with_reducible first | assumption | apply ite_keeps | apply foldl_keeps) | (with_reducible apply State.keeps_mk <;> first | exact .inr ‹_› | exact .inl rfl | exact .inl ⟨rfl, rfl⟩ | exact .inl ⟨rfl, rfl, rfl⟩ | exact .inl ⟨rfl, rfl, rfl, rfl⟩ | exact .inl ⟨rfl, rfl, rfl, rfl, rfl⟩ | skip) | rfl | exact OtpLe.refl _ | split | (extract_lets; split) | (dsimp +zetaDelta only; split)

theorem State.withWeb_keeps (s : State) (f : Web → Web) (p_web : m .web = true) (hs : Keeps m r s) : Keeps m r (State.withWeb s f) := by
  unfold State.withWeb
  repeat' first | intro _ | (with_reducible first | assumption | apply ite_keeps | apply foldl_keeps) | (with_reducible apply State.keeps_mk <;> first | exact .inr ‹_› | exact .inl rfl | exact .inl ⟨rfl, rfl⟩ | exact .inl ⟨rfl, rfl, rfl⟩ | exact .inl ⟨rfl, rfl, rfl, rfl⟩ | exact .inl ⟨rfl, rfl, rfl, rfl, rfl⟩ | skip) | rfl | exact OtpLe.refl _ | split | (extract_lets; split) | (dsimp +zetaDelta only; split)

theorem clearLastValid_keeps (s : State) (p_web : m .web = true) (hs : Keeps m r s) : Keeps m r (clearLastValid s) := by
  unfold clearLastValid
  repeat' first | intro _ | (with_reducible first | assumption | apply ite_keeps | apply foldl_keeps) | (with_reducible apply State.keeps_mk <;> first | exact .inr ‹_› | exact .inl rfl | exact .inl ⟨rfl, rfl⟩ | exact .inl ⟨rfl, rfl, rfl⟩ | exact .inl ⟨rfl, rfl, rfl, rfl⟩ | exact .inl ⟨rfl, rfl, rfl, rfl, rfl⟩ | skip) | rfl | exact OtpLe.refl _ | split | (extract_lets; split) | (dsimp +zetaDelta only; split)

theorem evalGait_keeps (s : State) (p_out : m .out = true) (p_events : m .events = true) (p_pba : m .pba = true) (p_hostMem : m .hostMem = true) (p_web : m .web = true) (hs : Keeps m r s) : Keeps m r (evalGait s) := by
  unfold evalGait
  repeat' first | intro _ | (with_reducible first | assumption | apply raise_keeps | apply State.withWeb_keeps | apply clearLastValid_keeps | apply ite_keeps | apply foldl_keeps) | (with_reducible apply State.keeps_mk <;> first | exact .inr ‹_› | exact .inl rfl | exact .inl ⟨rfl, rfl⟩ | exact .inl ⟨rfl, rfl, rfl⟩ | exact .inl ⟨rfl, rfl, rfl, rfl⟩ | exact .inl ⟨rfl, rfl, rfl, rfl, rfl⟩ | skip) | rfl | exact OtpLe.refl _ | split | (extract_lets; split) | (dsimp +zetaDelta only; split)

theorem endDoubt_keeps (cause : Nat) (s : State) (p_out : m .out = true) (p_events : m .events = true) (p_pba : m .pba = true) (p_hostMem : m .hostMem = true) (p_web : m .web = true) (hs : Keeps m r s) : Keeps m r (endDoubt cause s) := by
  unfold endDoubt
  repeat' first | intro _ | (with_reducible first | assumption | apply raise_keeps | apply State.withWeb_keeps | apply ite_keeps | apply foldl_keeps) | (with_reducible apply State.keeps_mk <;> first | exact .inr ‹_› | exact .inl rfl | exact .inl ⟨rfl, rfl⟩ | exact .inl ⟨rfl, rfl, rfl⟩ | exact .inl ⟨rfl, rfl, rfl, rfl⟩ | exact .inl ⟨rfl, rfl, rfl, rfl, rfl⟩ | skip) | rfl | exact OtpLe.refl _ | split | (extract_lets; split) | (dsimp +zetaDelta only; split)

theorem startDoubt_keeps (c : Doubt) (s : State) (p_out : m .out = true) (p_events : m .events = true) (p_pba : m .pba = true) (p_hostMem : m .hostMem = true) (p_web : m .web = true) (hs : Keeps m r s) : Keeps m r (startDoubt c s) := by
  unfold startDoubt
  repeat' first | intro _ | (with_reducible first | assumption | apply raise_keeps | apply State.withWeb_keeps | apply endDoubt_keeps | apply ite_keeps | apply foldl_keeps) | (with_reducible apply State.keeps_mk <;> first | exact .inr ‹_› | exact .inl rfl | exact .inl ⟨rfl, rfl⟩ | exact .inl ⟨rfl, rfl, rfl⟩ | exact .inl ⟨rfl, rfl, rfl, rfl⟩ | exact .inl ⟨rfl, rfl, rfl, rfl, rfl⟩ | skip) | rfl | exact OtpLe.refl _ | split | (extract_lets; split) | (dsimp +zetaDelta only; split)

theorem recomputeSpan_keeps (s : State) (p_web : m .web = true) (hs : Keeps m r s) : Keeps m r (recomputeSpan s) := by
  unfold recomputeSpan
  repeat' first | intro _ | (with_reducible first | assumption | apply State.withWeb_keeps | apply ite_keeps | apply foldl_keeps) | (with_reducible apply State.keeps_mk <;> first | exact .inr ‹_› | exact .inl rfl | exact .inl ⟨rfl, rfl⟩ | exact .inl ⟨rfl, rfl, rfl⟩ | exact .inl ⟨rfl, rfl, rfl, rfl⟩ | exact .inl ⟨rfl, rfl, rfl, rfl, rfl⟩ | skip) | rfl | exact OtpLe.refl _ | split | (extract_lets; split) | (dsimp +zetaDelta only; split)

theorem resetNl_keeps (b : Nat) (s : State) (p_web : m .web = true) (hs : Keeps m r s) : Keeps m r (resetNl b s) := by
  unfold resetNl
  repeat' first | intro _ | (with_reducible first | assumption | apply State.setWebBar_keeps | apply ite_keeps | apply foldl_keeps) | (with_reducible apply State.keeps_mk <;> first | exact .inr ‹_› | exact .inl rfl | exact .inl ⟨rfl, rfl⟩ | exact .inl ⟨rfl, rfl, rfl⟩ | exact .inl ⟨rfl, rfl, rfl, rfl⟩ | exact .inl ⟨rfl, rfl, rfl, rfl, rfl⟩ | skip) | rfl | exact OtpLe.refl _ | split | (extract_lets; split) | (dsimp +zetaDelta only; split)

theorem resetAllNl_keeps (s : State) (p_web : m .web = true) (hs : Keeps m r s) : Keeps m r (resetAllNl s) := by
  unfold resetAllNl
  repeat' first | intro _ | (with_reducible first | assumption | apply resetNl_keeps | apply ite_keeps | apply foldl_keeps) | (with_reducible apply State.keeps_mk <;> first | exact .inr ‹_› | exact .inl rfl | exact .inl ⟨rfl, rfl⟩ | exact .inl ⟨rfl, rfl, rfl⟩ | exact .inl ⟨rfl, rfl, rfl, rfl⟩ | exact .inl ⟨rfl, rfl, rfl, rfl, rfl⟩ | skip) | rfl | exact OtpLe.refl _ | split | (extract_lets; split) | (dsimp +zetaDelta only; split)

theorem illegalEdge_keeps (n : Nat) (s : State) (p_out : m .out = true) (p_events : m .events = true) (p_pba : m .pba = true) (p_hostMem : m .hostMem = true) (p_web : m .web = true) (hs : Keeps m r s) : Keeps m r (illegalEdge n s) := by
  unfold illegalEdge
  repeat' first | intro _ | (with_reducible first | assumption | apply raise_keeps | apply State.setChan_keeps | apply startDoubt_keeps | apply ite_keeps | apply foldl_keeps) | (with_reducible apply State.keeps_mk <;> first | exact .inr ‹_› | exact .inl rfl | exact .inl ⟨rfl, rfl⟩ | exact .inl ⟨rfl, rfl, rfl⟩ | exact .inl ⟨rfl, rfl, rfl, rfl⟩ | exact .inl ⟨rfl, rfl, rfl, rfl, rfl⟩ | skip) | rfl | exact OtpLe.refl _ | split | (extract_lets; split) | (dsimp +zetaDelta only; split)

theorem noteChange_keeps (n : Nat) (t : Nat) (s : State) (p_out : m .out = true) (p_events : m .events = true) (p_pba : m .pba = true) (p_hostMem : m .hostMem = true) (p_web : m .web = true) (hs : Keeps m r s) : Keeps m r (noteChange n t s) := by
  unfold noteChange
  repeat' first | intro _ | (with_reducible first | assumption | apply raise_keeps | apply State.setChan_keeps | apply startDoubt_keeps | apply ite_keeps | apply foldl_keeps) | split | (extract_lets; split) | (with_reducible apply State.keeps_mk <;> first | exact .inr ‹_› | exact .inl rfl | exact .inl ⟨rfl, rfl⟩ | exact .inl ⟨rfl, rfl, rfl⟩ | exact .inl ⟨rfl, rfl, rfl, rfl⟩ | exact .inl ⟨rfl, rfl, rfl, rfl, rfl⟩ | skip) | rfl | exact OtpLe.refl _ | split | (extract_lets; split) | (dsimp +zetaDelta only; split)

theorem applyRole_keeps (ch : Nat) (d : Slot) (s : State) (p_web : m .web = true) (hs : Keeps m r s) : Keeps m r (applyRole ch d s) := by
  unfold applyRole
  repeat' first | intro _ | (with_reducible first | assumption | apply recomputeSpan_keeps | apply resetAllNl_keeps | apply ite_keeps | apply foldl_keeps) | split | (extract_lets; split) | (with_reducible apply State.keeps_mk <;> first | exact .inr ‹_› | exact .inl rfl | exact .inl ⟨rfl, rfl⟩ | exact .inl ⟨rfl, rfl, rfl⟩ | exact .inl ⟨rfl, rfl, rfl, rfl⟩ | exact .inl ⟨rfl, rfl, rfl, rfl, rfl⟩ | skip) | rfl | exact OtpLe.refl _ | split | (extract_lets; split) | (dsimp +zetaDelta only; split)

theorem execWebConfig_keeps (slot : Nat) (s : State) (p_out : m .out = true) (p_slots : m .slots = true) (p_records : m .records = true) (p_events : m .events = true) (p_pba : m .pba = true) (p_hostMem : m .hostMem = true) (p_web : m .web = true) (hs : Keeps m r s) : OutKeeps m r (execWebConfig slot s) := by
  unfold execWebConfig
  repeat' first | intro _ | (with_reducible first | assumption | apply OutKeeps.next | apply OutKeeps.fault | apply ite_outKeeps | apply done_keeps | apply resourceBusy_keeps | apply runCmd_keeps | apply State.setChan_keeps | apply evalGait_keeps | apply applyRole_keeps | apply ite_keeps | apply foldl_keeps) | (with_reducible apply State.keeps_mk <;> first | exact .inr ‹_› | exact .inl rfl | exact .inl ⟨rfl, rfl⟩ | exact .inl ⟨rfl, rfl, rfl⟩ | exact .inl ⟨rfl, rfl, rfl, rfl⟩ | exact .inl ⟨rfl, rfl, rfl, rfl, rfl⟩ | skip) | rfl | exact OtpLe.refl _ | split | (extract_lets; split) | (dsimp +zetaDelta only; split)

theorem execWebBarOffset_keeps (slot : Nat) (s : State) (p_out : m .out = true) (p_slots : m .slots = true) (p_records : m .records = true) (p_events : m .events = true) (p_pba : m .pba = true) (p_hostMem : m .hostMem = true) (p_web : m .web = true) (hs : Keeps m r s) : OutKeeps m r (execWebBarOffset slot s) := by
  unfold execWebBarOffset
  repeat' first | intro _ | (with_reducible first | assumption | apply OutKeeps.next | apply OutKeeps.fault | apply ite_outKeeps | apply raiseAfter_keeps | apply doneWith_keeps | apply runCmd_keeps | apply State.setWebBar_keeps | apply recomputeSpan_keeps | apply ite_keeps | apply foldl_keeps) | (with_reducible apply State.keeps_mk <;> first | exact .inr ‹_› | exact .inl rfl | exact .inl ⟨rfl, rfl⟩ | exact .inl ⟨rfl, rfl, rfl⟩ | exact .inl ⟨rfl, rfl, rfl, rfl⟩ | exact .inl ⟨rfl, rfl, rfl, rfl, rfl⟩ | skip) | rfl | exact OtpLe.refl _ | split | (extract_lets; split) | (dsimp +zetaDelta only; split)

theorem enableBar_keeps (mask : Nat) (b : Nat) (s : State) (p_web : m .web = true) (hs : Keeps m r s) : Keeps m r (enableBar mask b s) := by
  unfold enableBar
  repeat' first | intro _ | (with_reducible first | assumption | apply State.setWebBar_keeps | apply resetNl_keeps | apply ite_keeps | apply foldl_keeps) | (with_reducible apply State.keeps_mk <;> first | exact .inr ‹_› | exact .inl rfl | exact .inl ⟨rfl, rfl⟩ | exact .inl ⟨rfl, rfl, rfl⟩ | exact .inl ⟨rfl, rfl, rfl, rfl⟩ | exact .inl ⟨rfl, rfl, rfl, rfl, rfl⟩ | skip) | rfl | exact OtpLe.refl _ | split | (extract_lets; split) | (dsimp +zetaDelta only; split)

theorem execWebLimits_keeps (slot : Nat) (s : State) (p_out : m .out = true) (p_slots : m .slots = true) (p_records : m .records = true) (p_events : m .events = true) (p_pba : m .pba = true) (p_hostMem : m .hostMem = true) (p_web : m .web = true) (hs : Keeps m r s) : OutKeeps m r (execWebLimits slot s) := by
  unfold execWebLimits
  repeat' first | intro _ | (with_reducible first | assumption | apply OutKeeps.next | apply OutKeeps.fault | apply ite_outKeeps | apply done_keeps | apply runCmd_keeps | apply State.withWeb_keeps | apply evalGait_keeps | apply recomputeSpan_keeps | apply enableBar_keeps | apply ite_keeps | apply foldl_keeps) | (with_reducible apply State.keeps_mk <;> first | exact .inr ‹_› | exact .inl rfl | exact .inl ⟨rfl, rfl⟩ | exact .inl ⟨rfl, rfl, rfl⟩ | exact .inl ⟨rfl, rfl, rfl, rfl⟩ | exact .inl ⟨rfl, rfl, rfl, rfl, rfl⟩ | skip) | rfl | exact OtpLe.refl _ | split | (extract_lets; split) | (dsimp +zetaDelta only; split)

theorem setPosition_keeps (m1 : Nat) (pos : Int) (s : State) (p_out : m .out = true) (p_events : m .events = true) (p_pba : m .pba = true) (p_hostMem : m .hostMem = true) (p_web : m .web = true) (hs : Keeps m r s) : Keeps m r (setPosition m1 pos s) := by
  unfold setPosition
  repeat' first | intro _ | (with_reducible first | assumption | apply State.setChan_keeps | apply State.withWeb_keeps | apply clearLastValid_keeps | apply evalGait_keeps | apply endDoubt_keeps | apply resetAllNl_keeps | apply ite_keeps | apply foldl_keeps) | (with_reducible apply State.keeps_mk <;> first | exact .inr ‹_› | exact .inl rfl | exact .inl ⟨rfl, rfl⟩ | exact .inl ⟨rfl, rfl, rfl⟩ | exact .inl ⟨rfl, rfl, rfl, rfl⟩ | exact .inl ⟨rfl, rfl, rfl, rfl, rfl⟩ | skip) | rfl | exact OtpLe.refl _ | split | (extract_lets; split) | (dsimp +zetaDelta only; split)

theorem execWebRereference_keeps (slot : Nat) (s : State) (p_out : m .out = true) (p_slots : m .slots = true) (p_records : m .records = true) (p_events : m .events = true) (p_pba : m .pba = true) (p_hostMem : m .hostMem = true) (p_web : m .web = true) (hs : Keeps m r s) : OutKeeps m r (execWebRereference slot s) := by
  unfold execWebRereference
  repeat' first | intro _ | (with_reducible first | assumption | apply OutKeeps.next | apply OutKeeps.fault | apply ite_outKeeps | apply done_keeps | apply badParam_keeps | apply runCmd_keeps | apply State.setChan_keeps | apply setPosition_keeps | apply ite_keeps | apply foldl_keeps) | split | (extract_lets; split) | (with_reducible apply State.keeps_mk <;> first | exact .inr ‹_› | exact .inl rfl | exact .inl ⟨rfl, rfl⟩ | exact .inl ⟨rfl, rfl, rfl⟩ | exact .inl ⟨rfl, rfl, rfl, rfl⟩ | exact .inl ⟨rfl, rfl, rfl, rfl, rfl⟩ | skip) | rfl | exact OtpLe.refl _ | split | (extract_lets; split) | (dsimp +zetaDelta only; split)

theorem indexEvent_keeps (n : Nat) (s : State) (p_out : m .out = true) (p_events : m .events = true) (p_pba : m .pba = true) (p_hostMem : m .hostMem = true) (p_web : m .web = true) (hs : Keeps m r s) : Keeps m r (indexEvent n s) := by
  unfold indexEvent
  repeat' first | intro _ | (with_reducible first | assumption | apply raise_keeps | apply State.setChan_keeps | apply startDoubt_keeps | apply ite_keeps | apply foldl_keeps) | split | (extract_lets; split) | (with_reducible apply State.keeps_mk <;> first | exact .inr ‹_› | exact .inl rfl | exact .inl ⟨rfl, rfl⟩ | exact .inl ⟨rfl, rfl, rfl⟩ | exact .inl ⟨rfl, rfl, rfl, rfl⟩ | exact .inl ⟨rfl, rfl, rfl, rfl, rfl⟩ | skip) | rfl | exact OtpLe.refl _ | split | (extract_lets; split) | (dsimp +zetaDelta only; split)

theorem execIndexMissing_keeps (ch : Nat) (s : State) (p_out : m .out = true) (p_events : m .events = true) (p_pba : m .pba = true) (p_hostMem : m .hostMem = true) (p_web : m .web = true) (hs : Keeps m r s) : OutKeeps m r (execIndexMissing ch s) := by
  unfold execIndexMissing
  repeat' first | intro _ | (with_reducible first | assumption | apply OutKeeps.next | apply OutKeeps.fault | apply ite_outKeeps | apply raise_keeps | apply State.setChan_keeps | apply startDoubt_keeps | apply ite_keeps | apply foldl_keeps) | (with_reducible apply State.keeps_mk <;> first | exact .inr ‹_› | exact .inl rfl | exact .inl ⟨rfl, rfl⟩ | exact .inl ⟨rfl, rfl, rfl⟩ | exact .inl ⟨rfl, rfl, rfl, rfl⟩ | exact .inl ⟨rfl, rfl, rfl, rfl, rfl⟩ | skip) | rfl | exact OtpLe.refl _ | split | (extract_lets; split) | (dsimp +zetaDelta only; split)

theorem execWebCheckSpan_keeps (s : State) (p_out : m .out = true) (p_events : m .events = true) (p_pba : m .pba = true) (p_hostMem : m .hostMem = true) (p_web : m .web = true) (hs : Keeps m r s) : OutKeeps m r (execWebCheckSpan s) := by
  unfold execWebCheckSpan
  repeat' first | intro _ | (with_reducible first | assumption | apply OutKeeps.next | apply OutKeeps.fault | apply ite_outKeeps | apply raise_keeps | apply State.withWeb_keeps | apply startDoubt_keeps | apply ite_keeps | apply foldl_keeps) | split | (extract_lets; split) | (with_reducible apply State.keeps_mk <;> first | exact .inr ‹_› | exact .inl rfl | exact .inl ⟨rfl, rfl⟩ | exact .inl ⟨rfl, rfl, rfl⟩ | exact .inl ⟨rfl, rfl, rfl, rfl⟩ | exact .inl ⟨rfl, rfl, rfl, rfl, rfl⟩ | skip) | rfl | exact OtpLe.refl _ | split | (extract_lets; split) | (dsimp +zetaDelta only; split)

theorem execRegDoubtEnd_keeps (s : State) (p_out : m .out = true) (p_events : m .events = true) (p_pba : m .pba = true) (p_hostMem : m .hostMem = true) (p_web : m .web = true) (hs : Keeps m r s) : OutKeeps m r (execRegDoubtEnd s) := by
  unfold execRegDoubtEnd
  repeat' first | intro _ | (with_reducible first | assumption | apply OutKeeps.next | apply OutKeeps.fault | apply ite_outKeeps | apply endDoubt_keeps | apply ite_keeps | apply foldl_keeps) | (with_reducible apply State.keeps_mk <;> first | exact .inr ‹_› | exact .inl rfl | exact .inl ⟨rfl, rfl⟩ | exact .inl ⟨rfl, rfl, rfl⟩ | exact .inl ⟨rfl, rfl, rfl, rfl⟩ | exact .inl ⟨rfl, rfl, rfl, rfl, rfl⟩ | skip) | rfl | exact OtpLe.refl _ | split | (extract_lets; split) | (dsimp +zetaDelta only; split)

theorem evalSpeeds_keeps (s : State) (p_web : m .web = true) (hs : Keeps m r s) : Keeps m r (evalSpeeds s) := by
  unfold evalSpeeds
  repeat' first | intro _ | (with_reducible first | assumption | apply ite_keeps | apply foldl_keeps) | (with_reducible apply State.keeps_mk <;> first | exact .inr ‹_› | exact .inl rfl | exact .inl ⟨rfl, rfl⟩ | exact .inl ⟨rfl, rfl, rfl⟩ | exact .inl ⟨rfl, rfl, rfl, rfl⟩ | exact .inl ⟨rfl, rfl, rfl, rfl, rfl⟩ | skip) | rfl | exact OtpLe.refl _ | split | (extract_lets; split) | (dsimp +zetaDelta only; split)

theorem execGaitEval_keeps (s : State) (p_out : m .out = true) (p_events : m .events = true) (p_pba : m .pba = true) (p_hostMem : m .hostMem = true) (p_web : m .web = true) (hs : Keeps m r s) : OutKeeps m r (execGaitEval s) := by
  unfold execGaitEval
  repeat' first | intro _ | (with_reducible first | assumption | apply OutKeeps.next | apply OutKeeps.fault | apply ite_outKeeps | apply evalGait_keeps | apply evalSpeeds_keeps | apply ite_keeps | apply foldl_keeps) | (with_reducible apply State.keeps_mk <;> first | exact .inr ‹_› | exact .inl rfl | exact .inl ⟨rfl, rfl⟩ | exact .inl ⟨rfl, rfl, rfl⟩ | exact .inl ⟨rfl, rfl, rfl, rfl⟩ | exact .inl ⟨rfl, rfl, rfl, rfl, rfl⟩ | skip) | rfl | exact OtpLe.refl _ | split | (extract_lets; split) | (dsimp +zetaDelta only; split)

theorem execStandstillTimeout_keeps (ch : Nat) (s : State) (p_out : m .out = true) (p_events : m .events = true) (p_pba : m .pba = true) (p_hostMem : m .hostMem = true) (p_web : m .web = true) (hs : Keeps m r s) : OutKeeps m r (execStandstillTimeout ch s) := by
  unfold execStandstillTimeout
  repeat' first | intro _ | (with_reducible first | assumption | apply OutKeeps.next | apply OutKeeps.fault | apply ite_outKeeps | apply State.setChan_keeps | apply evalGait_keeps | apply ite_keeps | apply foldl_keeps) | (with_reducible apply State.keeps_mk <;> first | exact .inr ‹_› | exact .inl rfl | exact .inl ⟨rfl, rfl⟩ | exact .inl ⟨rfl, rfl, rfl⟩ | exact .inl ⟨rfl, rfl, rfl, rfl⟩ | exact .inl ⟨rfl, rfl, rfl, rfl, rfl⟩ | skip) | rfl | exact OtpLe.refl _ | split | (extract_lets; split) | (dsimp +zetaDelta only; split)

end Sys2Proof.Machine
end

