-- ==== Sys2Proof/Laws/KeepsProto.lean ====
section
/-! SUPPORT. `Keeps` for the definitions of Machine/Proto.lean, one lemma for each. -/

set_option linter.all false
set_option Elab.async false
set_option maxRecDepth 4000
namespace Sys2Proof.Machine

variable {m : Part → Bool} {r : State}

theorem State.setLink_keeps (s : State) (l : Nat) (x : Link) (p_rein : m .rein = true) (hs : Keeps m r s) : Keeps m r (State.setLink s l x) := by
  unfold State.setLink
  repeat' first | intro _ | (with_reducible first | assumption | apply ite_keeps | apply foldl_keeps) | (with_reducible apply State.keeps_mk <;> first | exact .inr ‹_› | exact .inl rfl | exact .inl ⟨rfl, rfl⟩ | exact .inl ⟨rfl, rfl, rfl⟩ | exact .inl ⟨rfl, rfl, rfl, rfl⟩ | exact .inl ⟨rfl, rfl, rfl, rfl, rfl⟩ | skip) | rfl | exact OtpLe.refl _ | split | (extract_lets; split) | (dsimp +zetaDelta only; split)

theorem State.setNode_keeps (s : State) (n : Nat) (x : NodeView) (p_rein : m .rein = true) (hs : Keeps m r s) : Keeps m r (State.setNode s n x) := by
  unfold State.setNode
  repeat' first | intro _ | (with_reducible first | assumption | apply ite_keeps | apply foldl_keeps) | (with_reducible apply State.keeps_mk <;> first | exact .inr ‹_› | exact .inl rfl | exact .inl ⟨rfl, rfl⟩ | exact .inl ⟨rfl, rfl, rfl⟩ | exact .inl ⟨rfl, rfl, rfl, rfl⟩ | exact .inl ⟨rfl, rfl, rfl, rfl, rfl⟩ | skip) | rfl | exact OtpLe.refl _ | split | (extract_lets; split) | (dsimp +zetaDelta only; split)

theorem sendBlock_keeps (l : Nat) (bs : List Byte) (s : State) (p_out : m .out = true) (hs : Keeps m r s) : Keeps m r (sendBlock l bs s) := by
  unfold sendBlock
  repeat' first | intro _ | (with_reducible first | assumption | apply State.emit_keeps | apply ite_keeps | apply foldl_keeps) | (with_reducible apply State.keeps_mk <;> first | exact .inr ‹_› | exact .inl rfl | exact .inl ⟨rfl, rfl⟩ | exact .inl ⟨rfl, rfl, rfl⟩ | exact .inl ⟨rfl, rfl, rfl, rfl⟩ | exact .inl ⟨rfl, rfl, rfl, rfl, rfl⟩ | skip) | rfl | exact OtpLe.refl _ | split | (extract_lets; split) | (dsimp +zetaDelta only; split)

theorem sendFrame_keeps (l : Nat) (bs : List Byte) (s : State) (p_out : m .out = true) (hs : Keeps m r s) : Keeps m r (sendFrame l bs s) := by
  unfold sendFrame
  repeat' first | intro _ | (with_reducible first | assumption | apply State.emit_keeps | apply ite_keeps | apply foldl_keeps) | (with_reducible apply State.keeps_mk <;> first | exact .inr ‹_› | exact .inl rfl | exact .inl ⟨rfl, rfl⟩ | exact .inl ⟨rfl, rfl, rfl⟩ | exact .inl ⟨rfl, rfl, rfl, rfl⟩ | exact .inl ⟨rfl, rfl, rfl, rfl, rfl⟩ | skip) | rfl | exact OtpLe.refl _ | split | (extract_lets; split) | (dsimp +zetaDelta only; split)

theorem sendHold_keeps (ty : Nat) (n : Nat) (s : State) (p_out : m .out = true) (hs : Keeps m r s) : Keeps m r (sendHold ty n s) := by
  unfold sendHold
  repeat' first | intro _ | (with_reducible first | assumption | apply sendBlock_keeps | apply ite_keeps | apply foldl_keeps) | (with_reducible apply State.keeps_mk <;> first | exact .inr ‹_› | exact .inl rfl | exact .inl ⟨rfl, rfl⟩ | exact .inl ⟨rfl, rfl, rfl⟩ | exact .inl ⟨rfl, rfl, rfl, rfl⟩ | exact .inl ⟨rfl, rfl, rfl, rfl, rfl⟩ | skip) | rfl | exact OtpLe.refl _ | split | (extract_lets; split) | (dsimp +zetaDelta only; split)

theorem sendReq_keeps (n : Nat) (r1 : CtrlReq) (s : State) (p_out : m .out = true) (hs : Keeps m r s) : Keeps m r (sendReq n r1 s) := by
  unfold sendReq
  repeat' first | intro _ | (with_reducible first | assumption | apply sendFrame_keeps | apply ite_keeps | apply foldl_keeps) | (with_reducible apply State.keeps_mk <;> first | exact .inr ‹_› | exact .inl rfl | exact .inl ⟨rfl, rfl⟩ | exact .inl ⟨rfl, rfl, rfl⟩ | exact .inl ⟨rfl, rfl, rfl, rfl⟩ | exact .inl ⟨rfl, rfl, rfl, rfl, rfl⟩ | skip) | rfl | exact OtpLe.refl _ | split | (extract_lets; split) | (dsimp +zetaDelta only; split)

theorem pumpReqs_keeps (n : Nat) (s : State) (p_out : m .out = true) (p_rein : m .rein = true) (hs : Keeps m r s) : Keeps m r (pumpReqs n s) := by
  unfold pumpReqs
  repeat' first | intro _ | (with_reducible first | assumption | apply State.setNode_keeps | apply sendReq_keeps | apply ite_keeps | apply foldl_keeps) | (with_reducible apply State.keeps_mk <;> first | exact .inr ‹_› | exact .inl rfl | exact .inl ⟨rfl, rfl⟩ | exact .inl ⟨rfl, rfl, rfl⟩ | exact .inl ⟨rfl, rfl, rfl, rfl⟩ | exact .inl ⟨rfl, rfl, rfl, rfl, rfl⟩ | skip) | rfl | exact OtpLe.refl _ | split | (extract_lets; split) | (dsimp +zetaDelta only; split)

theorem ctrlRequest_keeps (n : Nat) (write : Bool) (addr : Nat) (words : Nat) (data : List Byte) (owner : Nat) (s : State) (p_out : m .out = true) (p_rein : m .rein = true) (hs : Keeps m r s) : Keeps m r (ctrlRequest n write addr words data owner s) := by
  unfold ctrlRequest
  repeat' first | intro _ | (with_reducible first | assumption | apply State.setNode_keeps | apply pumpReqs_keeps | apply ite_keeps | apply foldl_keeps) | (with_reducible apply State.keeps_mk <;> first | exact .inr ‹_› | exact .inl rfl | exact .inl ⟨rfl, rfl⟩ | exact .inl ⟨rfl, rfl, rfl⟩ | exact .inl ⟨rfl, rfl, rfl, rfl⟩ | exact .inl ⟨rfl, rfl, rfl, rfl, rfl⟩ | skip) | rfl | exact OtpLe.refl _ | split | (extract_lets; split) | (dsimp +zetaDelta only; split)

theorem ctrlWriteAll_keeps (a0 : Nat) (a1 : Nat) (a2 : Nat) (a3 : List Byte) (a4 : Nat) (a5 : State) (p_out : m .out = true) (p_rein : m .rein = true) (ha5 : Keeps m r a5) : Keeps m r (ctrlWriteAll a0 a1 a2 a3 a4 a5) := by
  induction a0 generalizing a1 a2 a3 a4 a5 with
  | zero => exact ha5
  | succ k ih =>
    unfold ctrlWriteAll
    repeat' first | with_reducible apply ih | intro _ | (with_reducible first | assumption | apply ctrlRequest_keeps | apply ite_keeps | apply foldl_keeps) | (with_reducible apply State.keeps_mk <;> first | exact .inr ‹_› | exact .inl rfl | exact .inl ⟨rfl, rfl⟩ | exact .inl ⟨rfl, rfl, rfl⟩ | exact .inl ⟨rfl, rfl, rfl, rfl⟩ | exact .inl ⟨rfl, rfl, rfl, rfl, rfl⟩ | skip) | rfl | exact OtpLe.refl _ | split | (extract_lets; split) | (dsimp +zetaDelta only; split)

theorem nodeRegWrite_keeps (n : Nat) (addr : Nat) (v : Nat) (s : State) (p_out : m .out = true) (p_rein : m .rein = true) (hs : Keeps m r s) : Keeps m r (nodeRegWrite n addr v s) := by
  unfold nodeRegWrite
  repeat' first | intro _ | (with_reducible first | assumption | apply ctrlRequest_keeps | apply ite_keeps | apply foldl_keeps) | (with_reducible apply State.keeps_mk <;> first | exact .inr ‹_› | exact .inl rfl | exact .inl ⟨rfl, rfl⟩ | exact .inl ⟨rfl, rfl, rfl⟩ | exact .inl ⟨rfl, rfl, rfl, rfl⟩ | exact .inl ⟨rfl, rfl, rfl, rfl, rfl⟩ | skip) | rfl | exact OtpLe.refl _ | split | (extract_lets; split) | (dsimp +zetaDelta only; split)

end Sys2Proof.Machine
end

