-- ==== Sys2Proof/Laws/KeepsTanCore.lean ====
section
/-! SUPPORT. `Keeps` for the definitions of Machine/TanCore.lean, one lemma for each. -/

set_option linter.all false
set_option Elab.async false
set_option maxRecDepth 4000
namespace Sys2Proof.Machine

variable {m : Part → Bool} {r : State}

theorem State.withTan_keeps (s : State) (f : Tandem → Tandem) (p_tan : m .tan = true) (hs : Keeps m r s) : Keeps m r (State.withTan s f) := by
  unfold State.withTan
  repeat' first | intro _ | (with_reducible first | assumption | apply ite_keeps | apply foldl_keeps) | (with_reducible apply State.keeps_mk <;> first | exact .inr ‹_› | exact .inl rfl | exact .inl ⟨rfl, rfl⟩ | exact .inl ⟨rfl, rfl, rfl⟩ | exact .inl ⟨rfl, rfl, rfl, rfl⟩ | exact .inl ⟨rfl, rfl, rfl, rfl, rfl⟩ | skip) | rfl | exact OtpLe.refl _ | split | (extract_lets; split) | (dsimp +zetaDelta only; split)

theorem noteDrill_keeps (n : Nat) (f : FrameNo) (s : State) (p_tan : m .tan = true) (hs : Keeps m r s) : Keeps m r (noteDrill n f s) := by
  unfold noteDrill
  repeat' first | intro _ | (with_reducible first | assumption | apply State.withTan_keeps | apply ite_keeps | apply foldl_keeps) | split | (extract_lets; split) | (with_reducible apply State.keeps_mk <;> first | exact .inr ‹_› | exact .inl rfl | exact .inl ⟨rfl, rfl⟩ | exact .inl ⟨rfl, rfl, rfl⟩ | exact .inl ⟨rfl, rfl, rfl, rfl⟩ | exact .inl ⟨rfl, rfl, rfl, rfl, rfl⟩ | skip) | rfl | exact OtpLe.refl _ | split | (extract_lets; split) | (dsimp +zetaDelta only; split)

theorem endGap_keeps (s : State) (p_tan : m .tan = true) (hs : Keeps m r s) : Keeps m r (endGap s) := by
  unfold endGap
  repeat' first | intro _ | (with_reducible first | assumption | apply State.withTan_keeps | apply ite_keeps | apply foldl_keeps) | split | (extract_lets; split) | (with_reducible apply State.keeps_mk <;> first | exact .inr ‹_› | exact .inl rfl | exact .inl ⟨rfl, rfl⟩ | exact .inl ⟨rfl, rfl, rfl⟩ | exact .inl ⟨rfl, rfl, rfl, rfl⟩ | exact .inl ⟨rfl, rfl, rfl, rfl, rfl⟩ | skip) | rfl | exact OtpLe.refl _ | split | (extract_lets; split) | (dsimp +zetaDelta only; split)

end Sys2Proof.Machine
end

