-- ==== Sys2Proof/Laws/KeepsThmCore.lean ====
section
/-! SUPPORT. `Keeps` for the definitions of Machine/ThmCore.lean, one lemma for each. -/

set_option linter.all false
set_option Elab.async false
set_option maxRecDepth 4000
namespace Sys2Proof.Machine

variable {m : Part → Bool} {r : State}

theorem State.withThm_keeps (s : State) (f : Thermal → Thermal) (p_thm : m .thm = true) (hs : Keeps m r s) : Keeps m r (State.withThm s f) := by
  unfold State.withThm
  repeat' first | intro _ | (with_reducible first | assumption | apply ite_keeps | apply foldl_keeps) | (with_reducible apply State.keeps_mk <;> first | exact .inr ‹_› | exact .inl rfl | exact .inl ⟨rfl, rfl⟩ | exact .inl ⟨rfl, rfl, rfl⟩ | exact .inl ⟨rfl, rfl, rfl, rfl⟩ | exact .inl ⟨rfl, rfl, rfl, rfl, rfl⟩ | skip) | rfl | exact OtpLe.refl _ | split | (extract_lets; split) | (dsimp +zetaDelta only; split)

theorem State.setSensor_keeps (s : State) (code : Nat) (x : Sensor) (p_thm : m .thm = true) (hs : Keeps m r s) : Keeps m r (State.setSensor s code x) := by
  unfold State.setSensor
  repeat' first | intro _ | (with_reducible first | assumption | apply State.withThm_keeps | apply ite_keeps | apply foldl_keeps) | (with_reducible apply State.keeps_mk <;> first | exact .inr ‹_› | exact .inl rfl | exact .inl ⟨rfl, rfl⟩ | exact .inl ⟨rfl, rfl, rfl⟩ | exact .inl ⟨rfl, rfl, rfl, rfl⟩ | exact .inl ⟨rfl, rfl, rfl, rfl, rfl⟩ | skip) | rfl | exact OtpLe.refl _ | split | (extract_lets; split) | (dsimp +zetaDelta only; split)

theorem State.setZone_keeps (s : State) (z : Nat) (x : Zone) (p_thm : m .thm = true) (hs : Keeps m r s) : Keeps m r (State.setZone s z x) := by
  unfold State.setZone
  repeat' first | intro _ | (with_reducible first | assumption | apply State.withThm_keeps | apply ite_keeps | apply foldl_keeps) | (with_reducible apply State.keeps_mk <;> first | exact .inr ‹_› | exact .inl rfl | exact .inl ⟨rfl, rfl⟩ | exact .inl ⟨rfl, rfl, rfl⟩ | exact .inl ⟨rfl, rfl, rfl, rfl⟩ | exact .inl ⟨rfl, rfl, rfl, rfl, rfl⟩ | skip) | rfl | exact OtpLe.refl _ | split | (extract_lets; split) | (dsimp +zetaDelta only; split)

end Sys2Proof.Machine
end

