-- ==== Sys2Proof/Laws/KeepsOutput.lean ====
section
/-! SUPPORT. `Keeps` for the definitions of Machine/Output.lean, one lemma for each. -/

set_option linter.all false
set_option Elab.async false
set_option maxRecDepth 4000
namespace Sys2Proof.Machine

variable {m : Part → Bool} {r : State}

theorem State.withFrames_keeps (s : State) (f : Frames → Frames) (p_frames : m .frames = true) (hs : Keeps m r s) : Keeps m r (State.withFrames s f) := by
  unfold State.withFrames
  repeat' first | intro _ | (with_reducible first | assumption | apply ite_keeps | apply foldl_keeps) | (with_reducible apply State.keeps_mk <;> first | exact .inr ‹_› | exact .inl rfl | exact .inl ⟨rfl, rfl⟩ | exact .inl ⟨rfl, rfl, rfl⟩ | exact .inl ⟨rfl, rfl, rfl, rfl⟩ | exact .inl ⟨rfl, rfl, rfl, rfl, rfl⟩ | skip) | rfl | exact OtpLe.refl _ | split | (extract_lets; split) | (dsimp +zetaDelta only; split)

theorem State.stage_keeps (s : State) (f : PrintCfg → PrintCfg) (p_frames : m .frames = true) (hs : Keeps m r s) : Keeps m r (State.stage s f) := by
  unfold State.stage
  repeat' first | intro _ | (with_reducible first | assumption | apply State.withFrames_keeps | apply ite_keeps | apply foldl_keeps) | (with_reducible apply State.keeps_mk <;> first | exact .inr ‹_› | exact .inl rfl | exact .inl ⟨rfl, rfl⟩ | exact .inl ⟨rfl, rfl, rfl⟩ | exact .inl ⟨rfl, rfl, rfl, rfl⟩ | exact .inl ⟨rfl, rfl, rfl, rfl, rfl⟩ | skip) | rfl | exact OtpLe.refl _ | split | (extract_lets; split) | (dsimp +zetaDelta only; split)

theorem State.setFrame_keeps (s : State) (f : FrameNo) (r1 : Frame) (p_frames : m .frames = true) (hs : Keeps m r s) : Keeps m r (State.setFrame s f r1) := by
  unfold State.setFrame
  repeat' first | intro _ | (with_reducible first | assumption | apply State.withFrames_keeps | apply ite_keeps | apply foldl_keeps) | (with_reducible apply State.keeps_mk <;> first | exact .inr ‹_› | exact .inl rfl | exact .inl ⟨rfl, rfl⟩ | exact .inl ⟨rfl, rfl, rfl⟩ | exact .inl ⟨rfl, rfl, rfl, rfl⟩ | exact .inl ⟨rfl, rfl, rfl, rfl, rfl⟩ | skip) | rfl | exact OtpLe.refl _ | split | (extract_lets; split) | (dsimp +zetaDelta only; split)

theorem State.updFrame_keeps (s : State) (f : FrameNo) (g : Frame → Frame) (p_frames : m .frames = true) (hs : Keeps m r s) : Keeps m r (State.updFrame s f g) := by
  unfold State.updFrame
  repeat' first | intro _ | (with_reducible first | assumption | apply State.setFrame_keeps | apply ite_keeps | apply foldl_keeps) | (with_reducible apply State.keeps_mk <;> first | exact .inr ‹_› | exact .inl rfl | exact .inl ⟨rfl, rfl⟩ | exact .inl ⟨rfl, rfl, rfl⟩ | exact .inl ⟨rfl, rfl, rfl, rfl⟩ | exact .inl ⟨rfl, rfl, rfl, rfl, rfl⟩ | skip) | rfl | exact OtpLe.refl _ | split | (extract_lets; split) | (dsimp +zetaDelta only; split)

theorem discardStale_keeps (event : Nat) (s : State) (p_frames : m .frames = true) (hs : Keeps m r s) : Keeps m r (discardStale event s) := by
  unfold discardStale
  repeat' first | intro _ | (with_reducible first | assumption | apply State.withFrames_keeps | apply ite_keeps | apply foldl_keeps) | (with_reducible apply State.keeps_mk <;> first | exact .inr ‹_› | exact .inl rfl | exact .inl ⟨rfl, rfl⟩ | exact .inl ⟨rfl, rfl, rfl⟩ | exact .inl ⟨rfl, rfl, rfl, rfl⟩ | exact .inl ⟨rfl, rfl, rfl, rfl, rfl⟩ | skip) | rfl | exact OtpLe.refl _ | split | (extract_lets; split) | (dsimp +zetaDelta only; split)

theorem rollback_keeps (s : State) (p_frames : m .frames = true) (hs : Keeps m r s) : Keeps m r (rollback s) := by
  unfold rollback
  repeat' first | intro _ | (with_reducible first | assumption | apply discardStale_keeps | apply ite_keeps | apply foldl_keeps) | (with_reducible apply State.keeps_mk <;> first | exact .inr ‹_› | exact .inl rfl | exact .inl ⟨rfl, rfl⟩ | exact .inl ⟨rfl, rfl, rfl⟩ | exact .inl ⟨rfl, rfl, rfl, rfl⟩ | exact .inl ⟨rfl, rfl, rfl, rfl, rfl⟩ | skip) | rfl | exact OtpLe.refl _ | split | (extract_lets; split) | (dsimp +zetaDelta only; split)

theorem recheck_keeps (s : State) (p_frames : m .frames = true) (hs : Keeps m r s) : Keeps m r (recheck s) := by
  unfold recheck
  repeat' first | intro _ | (with_reducible first | assumption | apply discardStale_keeps | apply ite_keeps | apply foldl_keeps) | (with_reducible apply State.keeps_mk <;> first | exact .inr ‹_› | exact .inl rfl | exact .inl ⟨rfl, rfl⟩ | exact .inl ⟨rfl, rfl, rfl⟩ | exact .inl ⟨rfl, rfl, rfl, rfl⟩ | exact .inl ⟨rfl, rfl, rfl, rfl, rfl⟩ | skip) | rfl | exact OtpLe.refl _ | split | (extract_lets; split) | (dsimp +zetaDelta only; split)

theorem pinBuf_keeps (f : FrameNo) (s : State) (h : Nat) (p_bufs : m .bufs = true) (hs : Keeps m r s) : Keeps m r (pinBuf f s h) := by
  unfold pinBuf
  repeat' first | intro _ | (with_reducible first | assumption | apply State.setBuf_keeps | apply ite_keeps | apply foldl_keeps) | (with_reducible apply State.keeps_mk <;> first | exact .inr ‹_› | exact .inl rfl | exact .inl ⟨rfl, rfl⟩ | exact .inl ⟨rfl, rfl, rfl⟩ | exact .inl ⟨rfl, rfl, rfl, rfl⟩ | exact .inl ⟨rfl, rfl, rfl, rfl, rfl⟩ | skip) | rfl | exact OtpLe.refl _ | split | (extract_lets; split) | (dsimp +zetaDelta only; split)

theorem unpinBuf_keeps (s : State) (h : Nat) (p_out : m .out = true) (p_events : m .events = true) (p_bufs : m .bufs = true) (p_pba : m .pba = true) (p_hostMem : m .hostMem = true) (hs : Keeps m r s) : Keeps m r (unpinBuf s h) := by
  unfold unpinBuf
  repeat' first | intro _ | (with_reducible first | assumption | apply raiseAfter_keeps | apply State.setBuf_keeps | apply ite_keeps | apply foldl_keeps) | (with_reducible apply State.keeps_mk <;> first | exact .inr ‹_› | exact .inl rfl | exact .inl ⟨rfl, rfl⟩ | exact .inl ⟨rfl, rfl, rfl⟩ | exact .inl ⟨rfl, rfl, rfl, rfl⟩ | exact .inl ⟨rfl, rfl, rfl, rfl, rfl⟩ | skip) | rfl | exact OtpLe.refl _ | split | (extract_lets; split) | (dsimp +zetaDelta only; split)

theorem startChecks_keeps (f : FrameNo) (which : Nat) (s : State) (p_frames : m .frames = true) (hs : Keeps m r s) : Keeps m r (startChecks f which s) := by
  unfold startChecks
  repeat' first | intro _ | (with_reducible first | assumption | apply State.setFrame_keeps | apply ite_keeps | apply foldl_keeps) | (with_reducible apply State.keeps_mk <;> first | exact .inr ‹_› | exact .inl rfl | exact .inl ⟨rfl, rfl⟩ | exact .inl ⟨rfl, rfl, rfl⟩ | exact .inl ⟨rfl, rfl, rfl, rfl⟩ | exact .inl ⟨rfl, rfl, rfl, rfl, rfl⟩ | skip) | rfl | exact OtpLe.refl _ | split | (extract_lets; split) | (dsimp +zetaDelta only; split)

theorem contentChecked_keeps (f : FrameNo) (h : Nat) (s : State) (p_frames : m .frames = true) (hs : Keeps m r s) : Keeps m r (contentChecked f h s) := by
  unfold contentChecked
  repeat' first | intro _ | (with_reducible first | assumption | apply State.setFrame_keeps | apply ite_keeps | apply foldl_keeps) | split | (extract_lets; split) | (with_reducible apply State.keeps_mk <;> first | exact .inr ‹_› | exact .inl rfl | exact .inl ⟨rfl, rfl⟩ | exact .inl ⟨rfl, rfl, rfl⟩ | exact .inl ⟨rfl, rfl, rfl, rfl⟩ | exact .inl ⟨rfl, rfl, rfl, rfl, rfl⟩ | skip) | rfl | exact OtpLe.refl _ | split | (extract_lets; split) | (dsimp +zetaDelta only; split)

theorem execContentCheckDone_keeps (f : FrameNo) (handle : Nat) (s : State) (p_frames : m .frames = true) (hs : Keeps m r s) : OutKeeps m r (execContentCheckDone f handle s) := by
  unfold execContentCheckDone
  repeat' first | intro _ | (with_reducible first | assumption | apply OutKeeps.next | apply OutKeeps.fault | apply ite_outKeeps | apply contentChecked_keeps | apply ite_keeps | apply foldl_keeps) | (with_reducible apply State.keeps_mk <;> first | exact .inr ‹_› | exact .inl rfl | exact .inl ⟨rfl, rfl⟩ | exact .inl ⟨rfl, rfl, rfl⟩ | exact .inl ⟨rfl, rfl, rfl, rfl⟩ | exact .inl ⟨rfl, rfl, rfl, rfl, rfl⟩ | skip) | rfl | exact OtpLe.refl _ | split | (extract_lets; split) | (dsimp +zetaDelta only; split)

theorem enterCut_keeps (f : FrameNo) (s : State) (p_bufs : m .bufs = true) (p_frames : m .frames = true) (hs : Keeps m r s) : Keeps m r (enterCut f s) := by
  unfold enterCut
  repeat' first | intro _ | (with_reducible first | assumption | apply State.withFrames_keeps | apply State.setFrame_keeps | apply rollback_keeps | apply pinBuf_keeps | apply startChecks_keeps | apply ite_keeps | apply foldl_keeps) | (with_reducible apply State.keeps_mk <;> first | exact .inr ‹_› | exact .inl rfl | exact .inl ⟨rfl, rfl⟩ | exact .inl ⟨rfl, rfl, rfl⟩ | exact .inl ⟨rfl, rfl, rfl, rfl⟩ | exact .inl ⟨rfl, rfl, rfl, rfl, rfl⟩ | skip) | rfl | exact OtpLe.refl _ | split | (extract_lets; split) | (dsimp +zetaDelta only; split)

theorem assignAt_keeps (op : Nat) (a : FrameNo) (cfg : OutCfg) (s : State) (hitch : optParam Nat 0) (p_frames : m .frames = true) (hs : Keeps m r s) : Keeps m r (assignAt op a cfg s hitch) := by
  unfold assignAt
  repeat' first | intro _ | (with_reducible first | assumption | apply State.withFrames_keeps | apply rollback_keeps | apply ite_keeps | apply foldl_keeps) | (with_reducible apply State.keeps_mk <;> first | exact .inr ‹_› | exact .inl rfl | exact .inl ⟨rfl, rfl⟩ | exact .inl ⟨rfl, rfl, rfl⟩ | exact .inl ⟨rfl, rfl, rfl, rfl⟩ | exact .inl ⟨rfl, rfl, rfl, rfl, rfl⟩ | skip) | rfl | exact OtpLe.refl _ | split | (extract_lets; split) | (dsimp +zetaDelta only; split)

theorem completeFrame_keeps (f : FrameNo) (s : State) (p_out : m .out = true) (p_events : m .events = true) (p_bufs : m .bufs = true) (p_pba : m .pba = true) (p_hostMem : m .hostMem = true) (p_frames : m .frames = true) (hs : Keeps m r s) : Keeps m r (completeFrame f s) := by
  unfold completeFrame
  repeat' first | intro _ | (with_reducible first | assumption | apply State.updFrame_keeps | apply unpinBuf_keeps | apply ite_keeps | apply foldl_keeps) | (with_reducible apply State.keeps_mk <;> first | exact .inr ‹_› | exact .inl rfl | exact .inl ⟨rfl, rfl⟩ | exact .inl ⟨rfl, rfl, rfl⟩ | exact .inl ⟨rfl, rfl, rfl, rfl⟩ | exact .inl ⟨rfl, rfl, rfl, rfl, rfl⟩ | skip) | rfl | exact OtpLe.refl _ | split | (extract_lets; split) | (dsimp +zetaDelta only; split)

theorem pruneCommits_keeps (s : State) (p_frames : m .frames = true) (hs : Keeps m r s) : Keeps m r (pruneCommits s) := by
  unfold pruneCommits
  repeat' first | intro _ | (with_reducible first | assumption | apply State.withFrames_keeps | apply ite_keeps | apply foldl_keeps) | split | (extract_lets; split) | (with_reducible apply State.keeps_mk <;> first | exact .inr ‹_› | exact .inl rfl | exact .inl ⟨rfl, rfl⟩ | exact .inl ⟨rfl, rfl, rfl⟩ | exact .inl ⟨rfl, rfl, rfl, rfl⟩ | exact .inl ⟨rfl, rfl, rfl, rfl, rfl⟩ | skip) | rfl | exact OtpLe.refl _ | split | (extract_lets; split) | (dsimp +zetaDelta only; split)

theorem noteBad_keeps (f : FrameNo) (r1 : Frame) (s : State) (p_scan : m .scan = true) (hs : Keeps m r s) : Keeps m r (noteBad f r1 s) := by
  unfold noteBad
  repeat' first | intro _ | (with_reducible first | assumption | apply ite_keeps | apply foldl_keeps) | split | (extract_lets; split) | (with_reducible apply State.keeps_mk <;> first | exact .inr ‹_› | exact .inl rfl | exact .inl ⟨rfl, rfl⟩ | exact .inl ⟨rfl, rfl, rfl⟩ | exact .inl ⟨rfl, rfl, rfl, rfl⟩ | exact .inl ⟨rfl, rfl, rfl, rfl, rfl⟩ | skip) | rfl | exact OtpLe.refl _ | split | (extract_lets; split) | (dsimp +zetaDelta only; split)

theorem writeFrameRecord_keeps (quiet : Bool) (f : FrameNo) (s0 : State) (p_out : m .out = true) (p_events : m .events = true) (p_pba : m .pba = true) (p_hostMem : m .hostMem = true) (p_frames : m .frames = true) (p_scan : m .scan = true) (hs0 : Keeps m r s0) : Keeps m r (writeFrameRecord quiet f s0) := by
  unfold writeFrameRecord
  repeat' first | intro _ | (with_reducible first | assumption | apply raise_keeps | apply State.withFrames_keeps | apply State.setFrame_keeps | apply noteBad_keeps | apply ite_keeps | apply foldl_keeps) | (with_reducible apply State.keeps_mk <;> first | exact .inr ‹_› | exact .inl rfl | exact .inl ⟨rfl, rfl⟩ | exact .inl ⟨rfl, rfl, rfl⟩ | exact .inl ⟨rfl, rfl, rfl, rfl⟩ | exact .inl ⟨rfl, rfl, rfl, rfl, rfl⟩ | skip) | rfl | exact OtpLe.refl _ | split | (extract_lets; split) | (dsimp +zetaDelta only; split)

end Sys2Proof.Machine
end

