-- ==== Sys2Proof/Laws/KeepsFireMap.lean ====
section
/-! SUPPORT. `Keeps` for the definitions of Machine/FireMap.lean, one lemma for each. -/

set_option linter.all false
set_option Elab.async false
set_option maxRecDepth 4000
namespace Sys2Proof.Machine

variable {m : Part → Bool} {r : State}

theorem State.setFireBar_keeps (s : State) (b : Nat) (x : FireBar) (p_fire : m .fire = true) (hs : Keeps m r s) : Keeps m r (State.setFireBar s b x) := by
  unfold State.setFireBar
  repeat' first | intro _ | (with_reducible first | assumption | apply ite_keeps | apply foldl_keeps) | (with_reducible apply State.keeps_mk <;> first | exact .inr ‹_› | exact .inl rfl | exact .inl ⟨rfl, rfl⟩ | exact .inl ⟨rfl, rfl, rfl⟩ | exact .inl ⟨rfl, rfl, rfl, rfl⟩ | exact .inl ⟨rfl, rfl, rfl, rfl, rfl⟩ | skip) | rfl | exact OtpLe.refl _ | split | (extract_lets; split) | (dsimp +zetaDelta only; split)

theorem State.setFeeder_keeps (s : State) (l : Nat) (x : Feeder) (p_fire : m .fire = true) (hs : Keeps m r s) : Keeps m r (State.setFeeder s l x) := by
  unfold State.setFeeder
  repeat' first | intro _ | (with_reducible first | assumption | apply ite_keeps | apply foldl_keeps) | (with_reducible apply State.keeps_mk <;> first | exact .inr ‹_› | exact .inl rfl | exact .inl ⟨rfl, rfl⟩ | exact .inl ⟨rfl, rfl, rfl⟩ | exact .inl ⟨rfl, rfl, rfl, rfl⟩ | exact .inl ⟨rfl, rfl, rfl, rfl, rfl⟩ | skip) | rfl | exact OtpLe.refl _ | split | (extract_lets; split) | (dsimp +zetaDelta only; split)

theorem State.setBanks_keeps (s : State) (n : Nat) (x : NodeBanks) (p_fire : m .fire = true) (hs : Keeps m r s) : Keeps m r (State.setBanks s n x) := by
  unfold State.setBanks
  repeat' first | intro _ | (with_reducible first | assumption | apply ite_keeps | apply foldl_keeps) | (with_reducible apply State.keeps_mk <;> first | exact .inr ‹_› | exact .inl rfl | exact .inl ⟨rfl, rfl⟩ | exact .inl ⟨rfl, rfl, rfl⟩ | exact .inl ⟨rfl, rfl, rfl, rfl⟩ | exact .inl ⟨rfl, rfl, rfl, rfl, rfl⟩ | skip) | rfl | exact OtpLe.refl _ | split | (extract_lets; split) | (dsimp +zetaDelta only; split)

theorem decideBanks_keeps (f : FrameNo) (s : State) (p_frames : m .frames = true) (p_fire : m .fire = true) (hs : Keeps m r s) : Keeps m r (decideBanks f s) := by
  unfold decideBanks
  repeat' first | intro _ | (with_reducible first | assumption | apply State.updFrame_keeps | apply State.setBanks_keeps | apply ite_keeps | apply foldl_keeps) | (with_reducible apply State.keeps_mk <;> first | exact .inr ‹_› | exact .inl rfl | exact .inl ⟨rfl, rfl⟩ | exact .inl ⟨rfl, rfl, rfl⟩ | exact .inl ⟨rfl, rfl, rfl, rfl⟩ | exact .inl ⟨rfl, rfl, rfl, rfl, rfl⟩ | skip) | rfl | exact OtpLe.refl _ | split | (extract_lets; split) | (dsimp +zetaDelta only; split)

theorem sendBank_keeps (n : Nat) (w : BankWrite) (s : State) (p_out : m .out = true) (p_rein : m .rein = true) (hs : Keeps m r s) : Keeps m r (sendBank n w s) := by
  unfold sendBank
  repeat' first | intro _ | (with_reducible first | assumption | apply ctrlWriteAll_keeps | apply ite_keeps | apply foldl_keeps) | (with_reducible apply State.keeps_mk <;> first | exact .inr ‹_› | exact .inl rfl | exact .inl ⟨rfl, rfl⟩ | exact .inl ⟨rfl, rfl, rfl⟩ | exact .inl ⟨rfl, rfl, rfl, rfl⟩ | exact .inl ⟨rfl, rfl, rfl, rfl, rfl⟩ | skip) | rfl | exact OtpLe.refl _ | split | (extract_lets; split) | (dsimp +zetaDelta only; split)

theorem startBankWrite_keeps (b : Nat) (n : Nat) (s : State) (p_out : m .out = true) (p_fire : m .fire = true) (p_rein : m .rein = true) (hs : Keeps m r s) : Keeps m r (startBankWrite b n s) := by
  unfold startBankWrite
  repeat' first | intro _ | (with_reducible first | assumption | apply State.setBanks_keeps | apply sendBank_keeps | apply ite_keeps | apply foldl_keeps) | split | (extract_lets; split) | (with_reducible apply State.keeps_mk <;> first | exact .inr ‹_› | exact .inl rfl | exact .inl ⟨rfl, rfl⟩ | exact .inl ⟨rfl, rfl, rfl⟩ | exact .inl ⟨rfl, rfl, rfl, rfl⟩ | exact .inl ⟨rfl, rfl, rfl, rfl, rfl⟩ | skip) | rfl | exact OtpLe.refl _ | split | (extract_lets; split) | (dsimp +zetaDelta only; split)

theorem execBankWriteStart_keeps (node : Nat) (s : State) (p_out : m .out = true) (p_fire : m .fire = true) (p_rein : m .rein = true) (hs : Keeps m r s) : OutKeeps m r (execBankWriteStart node s) := by
  unfold execBankWriteStart
  repeat' first | intro _ | (with_reducible first | assumption | apply OutKeeps.next | apply OutKeeps.fault | apply ite_outKeeps | apply startBankWrite_keeps | apply ite_keeps | apply foldl_keeps) | split | (extract_lets; split) | (with_reducible apply State.keeps_mk <;> first | exact .inr ‹_› | exact .inl rfl | exact .inl ⟨rfl, rfl⟩ | exact .inl ⟨rfl, rfl, rfl⟩ | exact .inl ⟨rfl, rfl, rfl, rfl⟩ | exact .inl ⟨rfl, rfl, rfl, rfl, rfl⟩ | skip) | rfl | exact OtpLe.refl _ | split | (extract_lets; split) | (dsimp +zetaDelta only; split)

theorem refreshPeriods_keeps (s : State) (p_web : m .web = true) (hs : Keeps m r s) : Keeps m r (refreshPeriods s) := by
  unfold refreshPeriods
  repeat' first | intro _ | (with_reducible first | assumption | apply State.setWebBar_keeps | apply ite_keeps | apply foldl_keeps) | (with_reducible apply State.keeps_mk <;> first | exact .inr ‹_› | exact .inl rfl | exact .inl ⟨rfl, rfl⟩ | exact .inl ⟨rfl, rfl, rfl⟩ | exact .inl ⟨rfl, rfl, rfl, rfl⟩ | exact .inl ⟨rfl, rfl, rfl, rfl, rfl⟩ | skip) | rfl | exact OtpLe.refl _ | split | (extract_lets; split) | (dsimp +zetaDelta only; split)

theorem keepOldTerms_keeps (f : FrameNo) (s : State) (p_fire : m .fire = true) (hs : Keeps m r s) : Keeps m r (keepOldTerms f s) := by
  unfold keepOldTerms
  repeat' first | intro _ | (with_reducible first | assumption | apply State.setFireBar_keeps | apply ite_keeps | apply foldl_keeps) | split | (extract_lets; split) | (with_reducible apply State.keeps_mk <;> first | exact .inr ‹_› | exact .inl rfl | exact .inl ⟨rfl, rfl⟩ | exact .inl ⟨rfl, rfl, rfl⟩ | exact .inl ⟨rfl, rfl, rfl, rfl⟩ | exact .inl ⟨rfl, rfl, rfl, rfl, rfl⟩ | skip) | rfl | exact OtpLe.refl _ | split | (extract_lets; split) | (dsimp +zetaDelta only; split)

end Sys2Proof.Machine
end

