-- ==== Sys2Proof/Laws/KeepsTimeCore.lean ====
section
/-! SUPPORT. `Keeps` for the definitions of Machine/TimeCore.lean, one lemma for each. -/

set_option linter.all false
set_option Elab.async false
set_option maxRecDepth 4000
namespace Sys2Proof.Machine

variable {m : Part → Bool} {r : State}

theorem State.setPort_keeps (s : State) (p : Nat) (x : Port) (p_time : m .time = true) (hs : Keeps m r s) : Keeps m r (State.setPort s p x) := by
  unfold State.setPort
  repeat' first | intro _ | (with_reducible first | assumption | apply State.withTime_keeps | apply ite_keeps | apply foldl_keeps) | exact .inr ‹_› | exact .inr (fun _ => ⟨rfl, rfl⟩) | exact .inl ‹_› | (with_reducible apply State.keeps_mk <;> first | exact .inr ‹_› | exact .inl rfl | exact .inl ⟨rfl, rfl⟩ | exact .inl ⟨rfl, rfl, rfl⟩ | exact .inl ⟨rfl, rfl, rfl, rfl⟩ | exact .inl ⟨rfl, rfl, rfl, rfl, rfl⟩ | skip) | rfl | exact OtpLe.refl _ | split | (extract_lets; split) | (dsimp +zetaDelta only; split)

theorem State.setTrig_keeps (s : State) (u : Nat) (x : Trigger) (p_time : m .time = true) (hs : Keeps m r s) : Keeps m r (State.setTrig s u x) := by
  unfold State.setTrig
  repeat' first | intro _ | (with_reducible first | assumption | apply State.withTime_keeps | apply ite_keeps | apply foldl_keeps) | exact .inr ‹_› | exact .inr (fun _ => ⟨rfl, rfl⟩) | exact .inl ‹_› | (with_reducible apply State.keeps_mk <;> first | exact .inr ‹_› | exact .inl rfl | exact .inl ⟨rfl, rfl⟩ | exact .inl ⟨rfl, rfl, rfl⟩ | exact .inl ⟨rfl, rfl, rfl, rfl⟩ | exact .inl ⟨rfl, rfl, rfl, rfl, rfl⟩ | skip) | rfl | exact OtpLe.refl _ | split | (extract_lets; split) | (dsimp +zetaDelta only; split)

theorem State.setCap_keeps (s : State) (c : Nat) (x : Capture) (p_time : m .time = true) (hs : Keeps m r s) : Keeps m r (State.setCap s c x) := by
  unfold State.setCap
  repeat' first | intro _ | (with_reducible first | assumption | apply State.withTime_keeps | apply ite_keeps | apply foldl_keeps) | exact .inr ‹_› | exact .inr (fun _ => ⟨rfl, rfl⟩) | exact .inl ‹_› | (with_reducible apply State.keeps_mk <;> first | exact .inr ‹_› | exact .inl rfl | exact .inl ⟨rfl, rfl⟩ | exact .inl ⟨rfl, rfl, rfl⟩ | exact .inl ⟨rfl, rfl, rfl, rfl⟩ | exact .inl ⟨rfl, rfl, rfl, rfl, rfl⟩ | skip) | rfl | exact OtpLe.refl _ | split | (extract_lets; split) | (dsimp +zetaDelta only; split)

theorem State.withHitch_keeps (s : State) (f : Hitch → Hitch) (p_time : m .time = true) (hs : Keeps m r s) : Keeps m r (State.withHitch s f) := by
  unfold State.withHitch
  repeat' first | intro _ | (with_reducible first | assumption | apply State.withTime_keeps | apply ite_keeps | apply foldl_keeps) | exact .inr ‹_› | exact .inr (fun _ => ⟨rfl, rfl⟩) | exact .inl ‹_› | (with_reducible apply State.keeps_mk <;> first | exact .inr ‹_› | exact .inl rfl | exact .inl ⟨rfl, rfl⟩ | exact .inl ⟨rfl, rfl, rfl⟩ | exact .inl ⟨rfl, rfl, rfl, rfl⟩ | exact .inl ⟨rfl, rfl, rfl, rfl, rfl⟩ | skip) | rfl | exact OtpLe.refl _ | split | (extract_lets; split) | (dsimp +zetaDelta only; split)

theorem takeTrig_keeps (u : Nat) (h : TrigHolder) (c : Sched) (s : State) (p_time : m .time = true) (hs : Keeps m r s) : Keeps m r (takeTrig u h c s) := by
  unfold takeTrig
  repeat' first | intro _ | (with_reducible first | assumption | apply State.setTrig_keeps | apply ite_keeps | apply foldl_keeps) | (with_reducible apply State.keeps_mk <;> first | exact .inr ‹_› | exact .inl rfl | exact .inl ⟨rfl, rfl⟩ | exact .inl ⟨rfl, rfl, rfl⟩ | exact .inl ⟨rfl, rfl, rfl, rfl⟩ | exact .inl ⟨rfl, rfl, rfl, rfl, rfl⟩ | skip) | rfl | exact OtpLe.refl _ | split | (extract_lets; split) | (dsimp +zetaDelta only; split)

theorem freeTrig_keeps (u : Nat) (s : State) (p_time : m .time = true) (hs : Keeps m r s) : Keeps m r (freeTrig u s) := by
  unfold freeTrig
  repeat' first | intro _ | (with_reducible first | assumption | apply State.setTrig_keeps | apply ite_keeps | apply foldl_keeps) | (with_reducible apply State.keeps_mk <;> first | exact .inr ‹_› | exact .inl rfl | exact .inl ⟨rfl, rfl⟩ | exact .inl ⟨rfl, rfl, rfl⟩ | exact .inl ⟨rfl, rfl, rfl, rfl⟩ | exact .inl ⟨rfl, rfl, rfl, rfl, rfl⟩ | skip) | rfl | exact OtpLe.refl _ | split | (extract_lets; split) | (dsimp +zetaDelta only; split)

theorem stampUnit_keeps (t : Nat) (tag : Nat) (s : State) (c : Nat) (p_out : m .out = true) (p_events : m .events = true) (p_pba : m .pba = true) (p_hostMem : m .hostMem = true) (p_time : m .time = true) (hs : Keeps m r s) : Keeps m r (stampUnit t tag s c) := by
  unfold stampUnit
  repeat' first | intro _ | (with_reducible first | assumption | apply raise_keeps | apply State.setCap_keeps | apply ite_keeps | apply foldl_keeps) | split | (extract_lets; split) | (with_reducible apply State.keeps_mk <;> first | exact .inr ‹_› | exact .inl rfl | exact .inl ⟨rfl, rfl⟩ | exact .inl ⟨rfl, rfl, rfl⟩ | exact .inl ⟨rfl, rfl, rfl, rfl⟩ | exact .inl ⟨rfl, rfl, rfl, rfl, rfl⟩ | skip) | rfl | exact OtpLe.refl _ | split | (extract_lets; split) | (dsimp +zetaDelta only; split)

theorem stamp_keeps (source : Nat) (index : Nat) (tag : Nat) (s : State) (p_out : m .out = true) (p_events : m .events = true) (p_pba : m .pba = true) (p_hostMem : m .hostMem = true) (p_time : m .time = true) (hs : Keeps m r s) : Keeps m r (stamp source index tag s) := by
  unfold stamp
  repeat' first | intro _ | (with_reducible first | assumption | apply stampUnit_keeps | apply ite_keeps | apply foldl_keeps) | (with_reducible apply State.keeps_mk <;> first | exact .inr ‹_› | exact .inl rfl | exact .inl ⟨rfl, rfl⟩ | exact .inl ⟨rfl, rfl, rfl⟩ | exact .inl ⟨rfl, rfl, rfl, rfl⟩ | exact .inl ⟨rfl, rfl, rfl, rfl, rfl⟩ | skip) | rfl | exact OtpLe.refl _ | split | (extract_lets; split) | (dsimp +zetaDelta only; split)

theorem captureSample_keeps (filterNs : Nat) (tag : Nat) (samples : Nat) (level : Bool) (s : State) (c : Nat) (p_out : m .out = true) (p_events : m .events = true) (p_pba : m .pba = true) (p_hostMem : m .hostMem = true) (p_time : m .time = true) (hs : Keeps m r s) : Keeps m r (captureSample filterNs tag samples level s c) := by
  unfold captureSample
  repeat' first | intro _ | (with_reducible first | assumption | apply State.setCap_keeps | apply stampUnit_keeps | apply ite_keeps | apply foldl_keeps) | split | (extract_lets; split) | (with_reducible apply State.keeps_mk <;> first | exact .inr ‹_› | exact .inl rfl | exact .inl ⟨rfl, rfl⟩ | exact .inl ⟨rfl, rfl, rfl⟩ | exact .inl ⟨rfl, rfl, rfl, rfl⟩ | exact .inl ⟨rfl, rfl, rfl, rfl, rfl⟩ | skip) | rfl | exact OtpLe.refl _ | split | (extract_lets; split) | (dsimp +zetaDelta only; split)

theorem sendHitch_keeps (ty : Nat) (body : List Byte) (s : State) (p_out : m .out = true) (p_time : m .time = true) (hs : Keeps m r s) : Keeps m r (sendHitch ty body s) := by
  unfold sendHitch
  repeat' first | intro _ | (with_reducible first | assumption | apply State.emit_keeps | apply State.withHitch_keeps | apply ite_keeps | apply foldl_keeps) | (with_reducible apply State.keeps_mk <;> first | exact .inr ‹_› | exact .inl rfl | exact .inl ⟨rfl, rfl⟩ | exact .inl ⟨rfl, rfl, rfl⟩ | exact .inl ⟨rfl, rfl, rfl, rfl⟩ | exact .inl ⟨rfl, rfl, rfl, rfl, rfl⟩ | skip) | rfl | exact OtpLe.refl _ | split | (extract_lets; split) | (dsimp +zetaDelta only; split)

theorem hitchAgain_keeps (s : State) (p_out : m .out = true) (p_time : m .time = true) (hs : Keeps m r s) : Keeps m r (hitchAgain s) := by
  unfold hitchAgain
  repeat' first | intro _ | (with_reducible first | assumption | apply State.withHitch_keeps | apply sendHitch_keeps | apply ite_keeps | apply foldl_keeps) | (with_reducible apply State.keeps_mk <;> first | exact .inr ‹_› | exact .inl rfl | exact .inl ⟨rfl, rfl⟩ | exact .inl ⟨rfl, rfl, rfl⟩ | exact .inl ⟨rfl, rfl, rfl, rfl⟩ | exact .inl ⟨rfl, rfl, rfl, rfl, rfl⟩ | skip) | rfl | exact OtpLe.refl _ | split | (extract_lets; split) | (dsimp +zetaDelta only; split)

theorem ethDrop_keeps (p : Nat) (s : State) (p_time : m .time = true) (hs : Keeps m r s) : Keeps m r (ethDrop p s) := by
  unfold ethDrop
  repeat' first | intro _ | (with_reducible first | assumption | apply State.setPort_keeps | apply ite_keeps | apply foldl_keeps) | (with_reducible apply State.keeps_mk <;> first | exact .inr ‹_› | exact .inl rfl | exact .inl ⟨rfl, rfl⟩ | exact .inl ⟨rfl, rfl, rfl⟩ | exact .inl ⟨rfl, rfl, rfl, rfl⟩ | exact .inl ⟨rfl, rfl, rfl, rfl, rfl⟩ | skip) | rfl | exact OtpLe.refl _ | split | (extract_lets; split) | (dsimp +zetaDelta only; split)

theorem onHitch_keeps (ty : Nat) (env : List Byte) (f : HitchMsg → State → State) (s : State) (p_time : m .time = true) (hf : ∀ x0 x1, Keeps m r x1 → Keeps m r (f x0 x1)) (hs : Keeps m r s) : Keeps m r (onHitch ty env f s) := by
  unfold onHitch
  repeat' first | intro _ | apply hf | (with_reducible first | assumption | apply ethDrop_keeps | apply ite_keeps | apply foldl_keeps) | split | (extract_lets; split) | (with_reducible apply State.keeps_mk <;> first | exact .inr ‹_› | exact .inl rfl | exact .inl ⟨rfl, rfl⟩ | exact .inl ⟨rfl, rfl, rfl⟩ | exact .inl ⟨rfl, rfl, rfl, rfl⟩ | exact .inl ⟨rfl, rfl, rfl, rfl, rfl⟩ | skip) | rfl | exact OtpLe.refl _ | split | (extract_lets; split) | (dsimp +zetaDelta only; split)

end Sys2Proof.Machine
end

