-- ==== Sys2Proof/Laws/KeepsBands.lean ====
section
/-! SUPPORT. `Keeps` for the definitions of Machine/Bands.lean, one lemma for each. -/

set_option linter.all false
set_option Elab.async false
set_option maxRecDepth 4000
namespace Sys2Proof.Machine

variable {m : Part → Bool} {r : State}

theorem startRender_keeps (engine : Nat) (x : Band) (s : State) (p_frames : m .frames = true) (hs : Keeps m r s) : Keeps m r (startRender engine x s) := by
  unfold startRender
  repeat' first | intro _ | (with_reducible first | assumption | apply State.withFrames_keeps | apply ite_keeps | apply foldl_keeps) | (with_reducible apply State.keeps_mk <;> first | exact .inr ‹_› | exact .inl rfl | exact .inl ⟨rfl, rfl⟩ | exact .inl ⟨rfl, rfl, rfl⟩ | exact .inl ⟨rfl, rfl, rfl, rfl⟩ | exact .inl ⟨rfl, rfl, rfl, rfl, rfl⟩ | skip) | rfl | exact OtpLe.refl _ | split | (extract_lets; split) | (dsimp +zetaDelta only; split)

theorem decodeError_keeps (f : FrameNo) (s : State) (e : Nat × Nat × Nat × Nat) (p_out : m .out = true) (p_events : m .events = true) (p_pba : m .pba = true) (p_hostMem : m .hostMem = true) (p_prn : m .prn = true) (hs : Keeps m r s) : Keeps m r (decodeError f s e) := by
  unfold decodeError
  repeat' first | intro _ | (with_reducible first | assumption | apply raise_keeps | apply ite_keeps | apply foldl_keeps) | (with_reducible apply State.keeps_mk <;> first | exact .inr ‹_› | exact .inl rfl | exact .inl ⟨rfl, rfl⟩ | exact .inl ⟨rfl, rfl, rfl⟩ | exact .inl ⟨rfl, rfl, rfl, rfl⟩ | exact .inl ⟨rfl, rfl, rfl, rfl, rfl⟩ | skip) | rfl | exact OtpLe.refl _ | split | (extract_lets; split) | (dsimp +zetaDelta only; split)

theorem noteSlack_keeps (x : Band) (s : State) (p_out : m .out = true) (p_events : m .events = true) (p_pba : m .pba = true) (p_hostMem : m .hostMem = true) (p_prn : m .prn = true) (hs : Keeps m r s) : Keeps m r (noteSlack x s) := by
  unfold noteSlack
  repeat' first | intro _ | (with_reducible first | assumption | apply raise_keeps | apply ite_keeps | apply foldl_keeps) | (with_reducible apply State.keeps_mk <;> first | exact .inr ‹_› | exact .inl rfl | exact .inl ⟨rfl, rfl⟩ | exact .inl ⟨rfl, rfl, rfl⟩ | exact .inl ⟨rfl, rfl, rfl, rfl⟩ | exact .inl ⟨rfl, rfl, rfl, rfl, rfl⟩ | skip) | rfl | exact OtpLe.refl _ | split | (extract_lets; split) | (dsimp +zetaDelta only; split)

theorem noteBusy_keeps (x : Band) (s : State) (p_prn : m .prn = true) (hs : Keeps m r s) : Keeps m r (noteBusy x s) := by
  unfold noteBusy
  repeat' first | intro _ | (with_reducible first | assumption | apply ite_keeps | apply foldl_keeps) | (with_reducible apply State.keeps_mk <;> first | exact .inr ‹_› | exact .inl rfl | exact .inl ⟨rfl, rfl⟩ | exact .inl ⟨rfl, rfl, rfl⟩ | exact .inl ⟨rfl, rfl, rfl, rfl⟩ | exact .inl ⟨rfl, rfl, rfl, rfl, rfl⟩ | skip) | rfl | exact OtpLe.refl _ | split | (extract_lets; split) | (dsimp +zetaDelta only; split)

theorem noteRender_keeps (f : FrameNo) (s : State) (p_frames : m .frames = true) (hs : Keeps m r s) : Keeps m r (noteRender f s) := by
  unfold noteRender
  repeat' first | intro _ | (with_reducible first | assumption | apply State.updFrame_keeps | apply ite_keeps | apply foldl_keeps) | (with_reducible apply State.keeps_mk <;> first | exact .inr ‹_› | exact .inl rfl | exact .inl ⟨rfl, rfl⟩ | exact .inl ⟨rfl, rfl, rfl⟩ | exact .inl ⟨rfl, rfl, rfl, rfl⟩ | exact .inl ⟨rfl, rfl, rfl, rfl, rfl⟩ | skip) | rfl | exact OtpLe.refl _ | split | (extract_lets; split) | (dsimp +zetaDelta only; split)

theorem endPrintRender_keeps (x0 : Band) (s0 : State) (p_out : m .out = true) (p_events : m .events = true) (p_pba : m .pba = true) (p_hostMem : m .hostMem = true) (p_frames : m .frames = true) (p_prn : m .prn = true) (hs0 : Keeps m r s0) : Keeps m r (endPrintRender x0 s0) := by
  unfold endPrintRender
  repeat' first | intro _ | (with_reducible first | assumption | apply State.withFrames_keeps | apply recheck_keeps | apply decodeError_keeps | apply noteSlack_keeps | apply noteBusy_keeps | apply noteRender_keeps | apply ite_keeps | apply foldl_keeps) | (with_reducible apply State.keeps_mk <;> first | exact .inr ‹_› | exact .inl rfl | exact .inl ⟨rfl, rfl⟩ | exact .inl ⟨rfl, rfl, rfl⟩ | exact .inl ⟨rfl, rfl, rfl, rfl⟩ | exact .inl ⟨rfl, rfl, rfl, rfl, rfl⟩ | skip) | rfl | exact OtpLe.refl _ | split | (extract_lets; split) | (dsimp +zetaDelta only; split)

theorem selLate_keeps (b : Nat) (s : State) (p_out : m .out = true) (p_events : m .events = true) (p_pba : m .pba = true) (p_hostMem : m .hostMem = true) (p_fire : m .fire = true) (hs : Keeps m r s) : Keeps m r (selLate b s) := by
  unfold selLate
  repeat' first | intro _ | (with_reducible first | assumption | apply raise_keeps | apply State.setFireBar_keeps | apply ite_keeps | apply foldl_keeps) | split | (extract_lets; split) | (with_reducible apply State.keeps_mk <;> first | exact .inr ‹_› | exact .inl rfl | exact .inl ⟨rfl, rfl⟩ | exact .inl ⟨rfl, rfl, rfl⟩ | exact .inl ⟨rfl, rfl, rfl, rfl⟩ | exact .inl ⟨rfl, rfl, rfl, rfl, rfl⟩ | skip) | rfl | exact OtpLe.refl _ | split | (extract_lets; split) | (dsimp +zetaDelta only; split)

theorem noteSelLate_keeps (c : PrintCfg) (f : FrameNo) (b : Nat) (k : Nat) (s : State) (p_out : m .out = true) (p_events : m .events = true) (p_pba : m .pba = true) (p_hostMem : m .hostMem = true) (p_fire : m .fire = true) (hs : Keeps m r s) : Keeps m r (noteSelLate c f b k s) := by
  unfold noteSelLate
  repeat' first | intro _ | (with_reducible first | assumption | apply State.setFireBar_keeps | apply selLate_keeps | apply ite_keeps | apply foldl_keeps) | (with_reducible apply State.keeps_mk <;> first | exact .inr ‹_› | exact .inl rfl | exact .inl ⟨rfl, rfl⟩ | exact .inl ⟨rfl, rfl, rfl⟩ | exact .inl ⟨rfl, rfl, rfl, rfl⟩ | exact .inl ⟨rfl, rfl, rfl, rfl, rfl⟩ | skip) | rfl | exact OtpLe.refl _ | split | (extract_lets; split) | (dsimp +zetaDelta only; split)

theorem firstRelease_keeps (f : FrameNo) (s : State) (p_out : m .out = true) (p_dev : m .dev = true) (p_events : m .events = true) (p_pba : m .pba = true) (p_hostMem : m .hostMem = true) (hs : Keeps m r s) : Keeps m r (firstRelease f s) := by
  unfold firstRelease
  repeat' first | intro _ | (with_reducible first | assumption | apply setDev_keeps | apply ite_keeps | apply foldl_keeps) | (with_reducible apply State.keeps_mk <;> first | exact .inr ‹_› | exact .inl rfl | exact .inl ⟨rfl, rfl⟩ | exact .inl ⟨rfl, rfl, rfl⟩ | exact .inl ⟨rfl, rfl, rfl, rfl⟩ | exact .inl ⟨rfl, rfl, rfl, rfl, rfl⟩ | skip) | rfl | exact OtpLe.refl _ | split | (extract_lets; split) | (dsimp +zetaDelta only; split)

theorem runNodes_keeps (ns : List Nat) (s : State) (p_out : m .out = true) (p_rein : m .rein = true) (hs : Keeps m r s) : Keeps m r (runNodes ns s) := by
  unfold runNodes
  repeat' first | intro _ | (with_reducible first | assumption | apply State.setNode_keeps | apply sendHold_keeps | apply ite_keeps | apply foldl_keeps) | (with_reducible apply State.keeps_mk <;> first | exact .inr ‹_› | exact .inl rfl | exact .inl ⟨rfl, rfl⟩ | exact .inl ⟨rfl, rfl, rfl⟩ | exact .inl ⟨rfl, rfl, rfl, rfl⟩ | exact .inl ⟨rfl, rfl, rfl, rfl, rfl⟩ | skip) | rfl | exact OtpLe.refl _ | split | (extract_lets; split) | (dsimp +zetaDelta only; split)

theorem haltNodes_keeps (ns : List Nat) (s : State) (p_out : m .out = true) (p_rein : m .rein = true) (hs : Keeps m r s) : Keeps m r (haltNodes ns s) := by
  unfold haltNodes
  repeat' first | intro _ | (with_reducible first | assumption | apply State.setNode_keeps | apply sendHold_keeps | apply ite_keeps | apply foldl_keeps) | (with_reducible apply State.keeps_mk <;> first | exact .inr ‹_› | exact .inl rfl | exact .inl ⟨rfl, rfl⟩ | exact .inl ⟨rfl, rfl, rfl⟩ | exact .inl ⟨rfl, rfl, rfl, rfl⟩ | exact .inl ⟨rfl, rfl, rfl, rfl, rfl⟩ | skip) | rfl | exact OtpLe.refl _ | split | (extract_lets; split) | (dsimp +zetaDelta only; split)

theorem startDelivery_keeps (f : FrameNo) (s : State) (p_frames : m .frames = true) (p_prn : m .prn = true) (hs : Keeps m r s) : Keeps m r (startDelivery f s) := by
  unfold startDelivery
  repeat' first | intro _ | (with_reducible first | assumption | apply State.updFrame_keeps | apply startChecks_keeps | apply ite_keeps | apply foldl_keeps) | (with_reducible apply State.keeps_mk <;> first | exact .inr ‹_› | exact .inl rfl | exact .inl ⟨rfl, rfl⟩ | exact .inl ⟨rfl, rfl, rfl⟩ | exact .inl ⟨rfl, rfl, rfl, rfl⟩ | exact .inl ⟨rfl, rfl, rfl, rfl, rfl⟩ | skip) | rfl | exact OtpLe.refl _ | split | (extract_lets; split) | (dsimp +zetaDelta only; split)

theorem advanceFetch_keeps (b : Nat) (s : State) (p_frames : m .frames = true) (hs : Keeps m r s) : Keeps m r (advanceFetch b s) := by
  unfold advanceFetch
  repeat' first | intro _ | (with_reducible first | assumption | apply State.withFrames_keeps | apply ite_keeps | apply foldl_keeps) | (with_reducible apply State.keeps_mk <;> first | exact .inr ‹_› | exact .inl rfl | exact .inl ⟨rfl, rfl⟩ | exact .inl ⟨rfl, rfl, rfl⟩ | exact .inl ⟨rfl, rfl, rfl, rfl⟩ | exact .inl ⟨rfl, rfl, rfl, rfl, rfl⟩ | skip) | rfl | exact OtpLe.refl _ | split | (extract_lets; split) | (dsimp +zetaDelta only; split)

theorem takeBand_keeps (f : FrameNo) (b : Nat) (k : Nat) (s : State) (p_frames : m .frames = true) (hs : Keeps m r s) : Keeps m r (takeBand f b k s) := by
  unfold takeBand
  repeat' first | intro _ | (with_reducible first | assumption | apply State.withFrames_keeps | apply ite_keeps | apply foldl_keeps) | (with_reducible apply State.keeps_mk <;> first | exact .inr ‹_› | exact .inl rfl | exact .inl ⟨rfl, rfl⟩ | exact .inl ⟨rfl, rfl, rfl⟩ | exact .inl ⟨rfl, rfl, rfl, rfl⟩ | exact .inl ⟨rfl, rfl, rfl, rfl, rfl⟩ | skip) | rfl | exact OtpLe.refl _ | split | (extract_lets; split) | (dsimp +zetaDelta only; split)

theorem shadowLate_keeps (s : State) (p_tan : m .tan = true) (hs : Keeps m r s) : Keeps m r (shadowLate s) := by
  unfold shadowLate
  repeat' first | intro _ | (with_reducible first | assumption | apply State.withTan_keeps | apply ite_keeps | apply foldl_keeps) | (with_reducible apply State.keeps_mk <;> first | exact .inr ‹_› | exact .inl rfl | exact .inl ⟨rfl, rfl⟩ | exact .inl ⟨rfl, rfl, rfl⟩ | exact .inl ⟨rfl, rfl, rfl, rfl⟩ | exact .inl ⟨rfl, rfl, rfl, rfl, rfl⟩ | skip) | rfl | exact OtpLe.refl _ | split | (extract_lets; split) | (dsimp +zetaDelta only; split)

theorem noteLate_keeps (f : FrameNo) (b : Nat) (s : State) (p_frames : m .frames = true) (p_prn : m .prn = true) (p_tan : m .tan = true) (hs : Keeps m r s) : Keeps m r (noteLate f b s) := by
  unfold noteLate
  repeat' first | intro _ | (with_reducible first | assumption | apply State.updFrame_keeps | apply shadowLate_keeps | apply ite_keeps | apply foldl_keeps) | (with_reducible apply State.keeps_mk <;> first | exact .inr ‹_› | exact .inl rfl | exact .inl ⟨rfl, rfl⟩ | exact .inl ⟨rfl, rfl, rfl⟩ | exact .inl ⟨rfl, rfl, rfl, rfl⟩ | exact .inl ⟨rfl, rfl, rfl, rfl, rfl⟩ | skip) | rfl | exact OtpLe.refl _ | split | (extract_lets; split) | (dsimp +zetaDelta only; split)

theorem noteBand_keeps (f : FrameNo) (x : Band) (s : State) (p_frames : m .frames = true) (hs : Keeps m r s) : Keeps m r (noteBand f x s) := by
  unfold noteBand
  repeat' first | intro _ | (with_reducible first | assumption | apply State.updFrame_keeps | apply ite_keeps | apply foldl_keeps) | (with_reducible apply State.keeps_mk <;> first | exact .inr ‹_› | exact .inl rfl | exact .inl ⟨rfl, rfl⟩ | exact .inl ⟨rfl, rfl, rfl⟩ | exact .inl ⟨rfl, rfl, rfl, rfl⟩ | exact .inl ⟨rfl, rfl, rfl, rfl, rfl⟩ | skip) | rfl | exact OtpLe.refl _ | split | (extract_lets; split) | (dsimp +zetaDelta only; split)

theorem feedBand_keeps (c : PrintCfg) (b : Nat) (f : FrameNo) (k : Nat) (recs : List (List Nat)) (bad : List Nat) (s : State) (p_fire : m .fire = true) (hs : Keeps m r s) : Keeps m r (feedBand c b f k recs bad s) := by
  unfold feedBand
  repeat' first | intro _ | (with_reducible first | assumption | apply State.setFeeder_keeps | apply ite_keeps | apply foldl_keeps) | (with_reducible apply State.keeps_mk <;> first | exact .inr ‹_› | exact .inl rfl | exact .inl ⟨rfl, rfl⟩ | exact .inl ⟨rfl, rfl, rfl⟩ | exact .inl ⟨rfl, rfl, rfl, rfl⟩ | exact .inl ⟨rfl, rfl, rfl, rfl, rfl⟩ | skip) | rfl | exact OtpLe.refl _ | split | (extract_lets; split) | (dsimp +zetaDelta only; split)

theorem printFetch_keeps (b : Nat) (s0 : State) (p_out : m .out = true) (p_dev : m .dev = true) (p_events : m .events = true) (p_pba : m .pba = true) (p_hostMem : m .hostMem = true) (p_frames : m .frames = true) (p_prn : m .prn = true) (p_fire : m .fire = true) (p_rein : m .rein = true) (p_tan : m .tan = true) (hs0 : Keeps m r s0) : Keeps m r (printFetch b s0) := by
  unfold printFetch
  repeat' first | intro _ | (with_reducible first | assumption | apply noteSelLate_keeps | apply firstRelease_keeps | apply runNodes_keeps | apply startDelivery_keeps | apply advanceFetch_keeps | apply takeBand_keeps | apply noteLate_keeps | apply noteBand_keeps | apply feedBand_keeps | apply ite_keeps | apply foldl_keeps) | split | (extract_lets; split) | (with_reducible apply State.keeps_mk <;> first | exact .inr ‹_› | exact .inl rfl | exact .inl ⟨rfl, rfl⟩ | exact .inl ⟨rfl, rfl, rfl⟩ | exact .inl ⟨rfl, rfl, rfl, rfl⟩ | exact .inl ⟨rfl, rfl, rfl, rfl, rfl⟩ | skip) | rfl | exact OtpLe.refl _ | split | (extract_lets; split) | (dsimp +zetaDelta only; split)

theorem sendTick_keeps (b : Nat) (blk : List Byte) (f : Option FrameNo) (s : State) (l : Nat) (p_out : m .out = true) (p_rein : m .rein = true) (hs : Keeps m r s) : Keeps m r (sendTick b blk f s l) := by
  unfold sendTick
  repeat' first | intro _ | (with_reducible first | assumption | apply State.setLink_keeps | apply State.setNode_keeps | apply sendBlock_keeps | apply ite_keeps | apply foldl_keeps) | (with_reducible apply State.keeps_mk <;> first | exact .inr ‹_› | exact .inl rfl | exact .inl ⟨rfl, rfl⟩ | exact .inl ⟨rfl, rfl, rfl⟩ | exact .inl ⟨rfl, rfl, rfl, rfl⟩ | exact .inl ⟨rfl, rfl, rfl, rfl, rfl⟩ | skip) | rfl | exact OtpLe.refl _ | split | (extract_lets; split) | (dsimp +zetaDelta only; split)

theorem sendLine_keeps (l : Nat) (x : FifoLine) (s : State) (p_out : m .out = true) (p_tan : m .tan = true) (hs : Keeps m r s) : Keeps m r (sendLine l x s) := by
  unfold sendLine
  repeat' first | intro _ | (with_reducible first | assumption | apply sendFrame_keeps | apply noteDrill_keeps | apply ite_keeps | apply foldl_keeps) | split | (extract_lets; split) | (with_reducible apply State.keeps_mk <;> first | exact .inr ‹_› | exact .inl rfl | exact .inl ⟨rfl, rfl⟩ | exact .inl ⟨rfl, rfl, rfl⟩ | exact .inl ⟨rfl, rfl, rfl, rfl⟩ | exact .inl ⟨rfl, rfl, rfl, rfl, rfl⟩ | skip) | rfl | exact OtpLe.refl _ | split | (extract_lets; split) | (dsimp +zetaDelta only; split)

theorem feedLink_keeps (b : Nat) (n : Int) (s : State) (l : Nat) (p_out : m .out = true) (p_events : m .events = true) (p_pba : m .pba = true) (p_hostMem : m .hostMem = true) (p_fire : m .fire = true) (p_tan : m .tan = true) (hs : Keeps m r s) : Keeps m r (feedLink b n s l) := by
  unfold feedLink
  repeat' first | intro _ | (with_reducible first | assumption | apply raise_keeps | apply State.setFeeder_keeps | apply sendLine_keeps | apply ite_keeps | apply foldl_keeps) | split | (extract_lets; split) | (with_reducible apply State.keeps_mk <;> first | exact .inr ‹_› | exact .inl rfl | exact .inl ⟨rfl, rfl⟩ | exact .inl ⟨rfl, rfl, rfl⟩ | exact .inl ⟨rfl, rfl, rfl, rfl⟩ | exact .inl ⟨rfl, rfl, rfl, rfl, rfl⟩ | skip) | rfl | exact OtpLe.refl _ | split | (extract_lets; split) | (dsimp +zetaDelta only; split)

theorem sendNextLine_keeps (b : Nat) (n : Int) (s : State) (p_out : m .out = true) (p_events : m .events = true) (p_pba : m .pba = true) (p_hostMem : m .hostMem = true) (p_fire : m .fire = true) (p_tan : m .tan = true) (hs : Keeps m r s) : Keeps m r (sendNextLine b n s) := by
  unfold sendNextLine
  repeat' first | intro _ | (with_reducible first | assumption | apply feedLink_keeps | apply ite_keeps | apply foldl_keeps) | split | (extract_lets; split) | (with_reducible apply State.keeps_mk <;> first | exact .inr ‹_› | exact .inl rfl | exact .inl ⟨rfl, rfl⟩ | exact .inl ⟨rfl, rfl, rfl⟩ | exact .inl ⟨rfl, rfl, rfl, rfl⟩ | exact .inl ⟨rfl, rfl, rfl, rfl, rfl⟩ | skip) | rfl | exact OtpLe.refl _ | split | (extract_lets; split) | (dsimp +zetaDelta only; split)

theorem markTick_keeps (f : FrameNo) (b : Nat) (t : Nat) (skip : Bool) (doubt : Bool) (s : State) (p_frames : m .frames = true) (hs : Keeps m r s) : Keeps m r (markTick f b t skip doubt s) := by
  unfold markTick
  repeat' first | intro _ | (with_reducible first | assumption | apply State.updFrame_keeps | apply ite_keeps | apply foldl_keeps) | (with_reducible apply State.keeps_mk <;> first | exact .inr ‹_› | exact .inl rfl | exact .inl ⟨rfl, rfl⟩ | exact .inl ⟨rfl, rfl, rfl⟩ | exact .inl ⟨rfl, rfl, rfl, rfl⟩ | exact .inl ⟨rfl, rfl, rfl, rfl, rfl⟩ | skip) | rfl | exact OtpLe.refl _ | split | (extract_lets; split) | (dsimp +zetaDelta only; split)

theorem lastTick_keeps (f : FrameNo) (b : Nat) (s : State) (p_frames : m .frames = true) (hs : Keeps m r s) : Keeps m r (lastTick f b s) := by
  unfold lastTick
  repeat' first | intro _ | (with_reducible first | assumption | apply State.updFrame_keeps | apply ite_keeps | apply foldl_keeps) | (with_reducible apply State.keeps_mk <;> first | exact .inr ‹_› | exact .inl rfl | exact .inl ⟨rfl, rfl⟩ | exact .inl ⟨rfl, rfl, rfl⟩ | exact .inl ⟨rfl, rfl, rfl, rfl⟩ | exact .inl ⟨rfl, rfl, rfl, rfl, rfl⟩ | skip) | rfl | exact OtpLe.refl _ | split | (extract_lets; split) | (dsimp +zetaDelta only; split)

theorem listTick_keeps (b : Nat) (n : Int) (tEff : Int) (period : Nat) (s : State) (p_web : m .web = true) (p_fire : m .fire = true) (hs : Keeps m r s) : Keeps m r (listTick b n tEff period s) := by
  unfold listTick
  repeat' first | intro _ | (with_reducible first | assumption | apply State.setFireBar_keeps | apply refreshPeriods_keeps | apply ite_keeps | apply foldl_keeps) | (with_reducible apply State.keeps_mk <;> first | exact .inr ‹_› | exact .inl rfl | exact .inl ⟨rfl, rfl⟩ | exact .inl ⟨rfl, rfl, rfl⟩ | exact .inl ⟨rfl, rfl, rfl, rfl⟩ | exact .inl ⟨rfl, rfl, rfl, rfl, rfl⟩ | skip) | rfl | exact OtpLe.refl _ | split | (extract_lets; split) | (dsimp +zetaDelta only; split)

theorem slewBar_keeps (b : Nat) (s : State) (p_out : m .out = true) (p_events : m .events = true) (p_pba : m .pba = true) (p_hostMem : m .hostMem = true) (p_web : m .web = true) (hs : Keeps m r s) : Keeps m r (slewBar b s) := by
  unfold slewBar
  repeat' first | intro _ | (with_reducible first | assumption | apply raiseAfter_keeps | apply State.setWebBar_keeps | apply ite_keeps | apply foldl_keeps) | (with_reducible apply State.keeps_mk <;> first | exact .inr ‹_› | exact .inl rfl | exact .inl ⟨rfl, rfl⟩ | exact .inl ⟨rfl, rfl, rfl⟩ | exact .inl ⟨rfl, rfl, rfl, rfl⟩ | exact .inl ⟨rfl, rfl, rfl, rfl, rfl⟩ | skip) | rfl | exact OtpLe.refl _ | split | (extract_lets; split) | (dsimp +zetaDelta only; split)

theorem endDown_keeps (b : Nat) (n : Int) (s : State) (p_web : m .web = true) (p_fire : m .fire = true) (hs : Keeps m r s) : Keeps m r (endDown b n s) := by
  unfold endDown
  repeat' first | intro _ | (with_reducible first | assumption | apply State.setFireBar_keeps | apply refreshPeriods_keeps | apply ite_keeps | apply foldl_keeps) | split | (extract_lets; split) | (with_reducible apply State.keeps_mk <;> first | exact .inr ‹_› | exact .inl rfl | exact .inl ⟨rfl, rfl⟩ | exact .inl ⟨rfl, rfl, rfl⟩ | exact .inl ⟨rfl, rfl, rfl, rfl⟩ | exact .inl ⟨rfl, rfl, rfl, rfl, rfl⟩ | skip) | rfl | exact OtpLe.refl _ | split | (extract_lets; split) | (dsimp +zetaDelta only; split)

theorem barTick_keeps (b : Nat) (t : Nat) (s : State) (p_out : m .out = true) (p_events : m .events = true) (p_pba : m .pba = true) (p_hostMem : m .hostMem = true) (p_time : m .time = true) (p_web : m .web = true) (p_frames : m .frames = true) (p_fire : m .fire = true) (p_rein : m .rein = true) (p_tan : m .tan = true) (hs : Keeps m r s) : Keeps m r (barTick b t s) := by
  unfold barTick
  repeat' first | intro _ | (with_reducible first | assumption | apply State.setWebBar_keeps | apply endGap_keeps | apply State.updFrame_keeps | apply State.setFireBar_keeps | apply stamp_keeps | apply sendTick_keeps | apply markTick_keeps | apply lastTick_keeps | apply listTick_keeps | apply slewBar_keeps | apply endDown_keeps | apply ite_keeps | apply foldl_keeps) | split | (extract_lets; split) | (with_reducible apply State.keeps_mk <;> first | exact .inr ‹_› | exact .inl rfl | exact .inl ⟨rfl, rfl⟩ | exact .inl ⟨rfl, rfl, rfl⟩ | exact .inl ⟨rfl, rfl, rfl, rfl⟩ | exact .inl ⟨rfl, rfl, rfl, rfl, rfl⟩ | skip) | rfl | exact OtpLe.refl _ | split | (extract_lets; split) | (dsimp +zetaDelta only; split)

theorem tickIfDue_keeps (t : Nat) (s : State) (b : Nat) (p_out : m .out = true) (p_events : m .events = true) (p_pba : m .pba = true) (p_hostMem : m .hostMem = true) (p_time : m .time = true) (p_web : m .web = true) (p_frames : m .frames = true) (p_fire : m .fire = true) (p_rein : m .rein = true) (p_tan : m .tan = true) (hs : Keeps m r s) : Keeps m r (tickIfDue t s b) := by
  unfold tickIfDue
  repeat' first | intro _ | (with_reducible first | assumption | apply State.setWebBar_keeps | apply barTick_keeps | apply ite_keeps | apply foldl_keeps) | (with_reducible apply State.keeps_mk <;> first | exact .inr ‹_› | exact .inl rfl | exact .inl ⟨rfl, rfl⟩ | exact .inl ⟨rfl, rfl, rfl⟩ | exact .inl ⟨rfl, rfl, rfl, rfl⟩ | exact .inl ⟨rfl, rfl, rfl, rfl, rfl⟩ | skip) | rfl | exact OtpLe.refl _ | split | (extract_lets; split) | (dsimp +zetaDelta only; split)

theorem advanceHwm_keeps (t : Nat) (s : State) (p_out : m .out = true) (p_events : m .events = true) (p_pba : m .pba = true) (p_hostMem : m .hostMem = true) (p_time : m .time = true) (p_web : m .web = true) (p_frames : m .frames = true) (p_fire : m .fire = true) (p_rein : m .rein = true) (p_tan : m .tan = true) (hs : Keeps m r s) : Keeps m r (advanceHwm t s) := by
  unfold advanceHwm
  repeat' first | intro _ | (with_reducible first | assumption | apply State.withWeb_keeps | apply sendNextLine_keeps | apply tickIfDue_keeps | apply ite_keeps | apply foldl_keeps) | (with_reducible apply State.keeps_mk <;> first | exact .inr ‹_› | exact .inl rfl | exact .inl ⟨rfl, rfl⟩ | exact .inl ⟨rfl, rfl, rfl⟩ | exact .inl ⟨rfl, rfl, rfl, rfl⟩ | exact .inl ⟨rfl, rfl, rfl, rfl, rfl⟩ | skip) | rfl | exact OtpLe.refl _ | split | (extract_lets; split) | (dsimp +zetaDelta only; split)

end Sys2Proof.Machine
end

