-- ==== Sys2Proof/Laws/KeepsPrintJob.lean ====
section
/-! SUPPORT. `Keeps` for the definitions of Machine/PrintJob.lean, one lemma for each. -/

set_option linter.all false
set_option Elab.async false
set_option maxRecDepth 4000
namespace Sys2Proof.Machine

variable {m : Part → Bool} {r : State}

theorem newLoads_keeps (n : Nat) (s : State) (p_prn : m .prn = true) (hs : Keeps m r s) : Keeps m r (newLoads n s) := by
  unfold newLoads
  repeat' first | intro _ | (with_reducible first | assumption | apply ite_keeps | apply foldl_keeps) | (with_reducible apply State.keeps_mk <;> first | exact .inr ‹_› | exact .inl rfl | exact .inl ⟨rfl, rfl⟩ | exact .inl ⟨rfl, rfl, rfl⟩ | exact .inl ⟨rfl, rfl, rfl, rfl⟩ | exact .inl ⟨rfl, rfl, rfl, rfl, rfl⟩ | skip) | rfl | exact OtpLe.refl _ | split | (extract_lets; split) | (dsimp +zetaDelta only; split)

theorem execPrnLayerBind_keeps (slot : Nat) (s : State) (p_slots : m .slots = true) (p_records : m .records = true) (p_frames : m .frames = true) (hs : Keeps m r s) : OutKeeps m r (execPrnLayerBind slot s) := by
  unfold execPrnLayerBind
  repeat' first | intro _ | (with_reducible first | assumption | apply OutKeeps.next | apply OutKeeps.fault | apply ite_outKeeps | apply done_keeps | apply runCmd_keeps | apply State.stage_keeps | apply ite_keeps | apply foldl_keeps) | (with_reducible apply State.keeps_mk <;> first | exact .inr ‹_› | exact .inl rfl | exact .inl ⟨rfl, rfl⟩ | exact .inl ⟨rfl, rfl, rfl⟩ | exact .inl ⟨rfl, rfl, rfl, rfl⟩ | exact .inl ⟨rfl, rfl, rfl, rfl, rfl⟩ | skip) | rfl | exact OtpLe.refl _ | split | (extract_lets; split) | (dsimp +zetaDelta only; split)

theorem execPrnToneLoad_keeps (slot : Nat) (s : State) (p_slots : m .slots = true) (p_records : m .records = true) (p_frames : m .frames = true) (p_prn : m .prn = true) (hs : Keeps m r s) : OutKeeps m r (execPrnToneLoad slot s) := by
  unfold execPrnToneLoad
  repeat' first | intro _ | (with_reducible first | assumption | apply OutKeeps.next | apply OutKeeps.fault | apply ite_outKeeps | apply done_keeps | apply badImage_keeps | apply resourceBusy_keeps | apply runCmd_keeps | apply State.stage_keeps | apply newLoads_keeps | apply ite_keeps | apply foldl_keeps) | split | (extract_lets; split) | (with_reducible apply State.keeps_mk <;> first | exact .inr ‹_› | exact .inl rfl | exact .inl ⟨rfl, rfl⟩ | exact .inl ⟨rfl, rfl, rfl⟩ | exact .inl ⟨rfl, rfl, rfl, rfl⟩ | exact .inl ⟨rfl, rfl, rfl, rfl, rfl⟩ | skip) | rfl | exact OtpLe.refl _ | split | (extract_lets; split) | (dsimp +zetaDelta only; split)

theorem execPrnScreenLoad_keeps (slot : Nat) (s : State) (p_slots : m .slots = true) (p_records : m .records = true) (p_frames : m .frames = true) (p_prn : m .prn = true) (hs : Keeps m r s) : OutKeeps m r (execPrnScreenLoad slot s) := by
  unfold execPrnScreenLoad
  repeat' first | intro _ | (with_reducible first | assumption | apply OutKeeps.next | apply OutKeeps.fault | apply ite_outKeeps | apply done_keeps | apply badImage_keeps | apply resourceBusy_keeps | apply runCmd_keeps | apply State.stage_keeps | apply newLoads_keeps | apply ite_keeps | apply foldl_keeps) | split | (extract_lets; split) | (with_reducible apply State.keeps_mk <;> first | exact .inr ‹_› | exact .inl rfl | exact .inl ⟨rfl, rfl⟩ | exact .inl ⟨rfl, rfl, rfl⟩ | exact .inl ⟨rfl, rfl, rfl, rfl⟩ | exact .inl ⟨rfl, rfl, rfl, rfl, rfl⟩ | skip) | rfl | exact OtpLe.refl _ | split | (extract_lets; split) | (dsimp +zetaDelta only; split)

theorem openJob_keeps (d : Slot) (s : State) (p_web : m .web = true) (p_frames : m .frames = true) (p_prn : m .prn = true) (p_fire : m .fire = true) (hs : Keeps m r s) : Keeps m r (openJob d s) := by
  unfold openJob
  repeat' first | intro _ | (with_reducible first | assumption | apply State.withFrames_keeps | apply refreshPeriods_keeps | apply ite_keeps | apply foldl_keeps) | (with_reducible apply State.keeps_mk <;> first | exact .inr ‹_› | exact .inl rfl | exact .inl ⟨rfl, rfl⟩ | exact .inl ⟨rfl, rfl, rfl⟩ | exact .inl ⟨rfl, rfl, rfl, rfl⟩ | exact .inl ⟨rfl, rfl, rfl, rfl, rfl⟩ | skip) | rfl | exact OtpLe.refl _ | split | (extract_lets; split) | (dsimp +zetaDelta only; split)

theorem execPrnJobOpen_keeps (slot : Nat) (s : State) (p_slots : m .slots = true) (p_records : m .records = true) (p_web : m .web = true) (p_frames : m .frames = true) (p_prn : m .prn = true) (p_fire : m .fire = true) (hs : Keeps m r s) : OutKeeps m r (execPrnJobOpen slot s) := by
  unfold execPrnJobOpen
  repeat' first | intro _ | (with_reducible first | assumption | apply OutKeeps.next | apply OutKeeps.fault | apply ite_outKeeps | apply complete_keeps | apply runCmd_keeps | apply openJob_keeps | apply ite_keeps | apply foldl_keeps) | (with_reducible apply State.keeps_mk <;> first | exact .inr ‹_› | exact .inl rfl | exact .inl ⟨rfl, rfl⟩ | exact .inl ⟨rfl, rfl, rfl⟩ | exact .inl ⟨rfl, rfl, rfl, rfl⟩ | exact .inl ⟨rfl, rfl, rfl, rfl, rfl⟩ | skip) | rfl | exact OtpLe.refl _ | split | (extract_lets; split) | (dsimp +zetaDelta only; split)

theorem dropBeyond_keeps (last : FrameNo) (s : State) (p_frames : m .frames = true) (hs : Keeps m r s) : Keeps m r (dropBeyond last s) := by
  unfold dropBeyond
  repeat' first | intro _ | (with_reducible first | assumption | apply State.withFrames_keeps | apply ite_keeps | apply foldl_keeps) | (with_reducible apply State.keeps_mk <;> first | exact .inr ‹_› | exact .inl rfl | exact .inl ⟨rfl, rfl⟩ | exact .inl ⟨rfl, rfl, rfl⟩ | exact .inl ⟨rfl, rfl, rfl, rfl⟩ | exact .inl ⟨rfl, rfl, rfl, rfl, rfl⟩ | skip) | rfl | exact OtpLe.refl _ | split | (extract_lets; split) | (dsimp +zetaDelta only; split)

theorem setLast_keeps (last : FrameNo) (why : CloseReason) (s : State) (p_frames : m .frames = true) (p_prn : m .prn = true) (hs : Keeps m r s) : Keeps m r (setLast last why s) := by
  unfold setLast
  repeat' first | intro _ | (with_reducible first | assumption | apply dropBeyond_keeps | apply ite_keeps | apply foldl_keeps) | (with_reducible apply State.keeps_mk <;> first | exact .inr ‹_› | exact .inl rfl | exact .inl ⟨rfl, rfl⟩ | exact .inl ⟨rfl, rfl, rfl⟩ | exact .inl ⟨rfl, rfl, rfl, rfl⟩ | exact .inl ⟨rfl, rfl, rfl, rfl, rfl⟩ | skip) | rfl | exact OtpLe.refl _ | split | (extract_lets; split) | (dsimp +zetaDelta only; split)

theorem closeJob_keeps (after : Nat) (last : FrameNo) (why : CloseReason) (s : State) (p_out : m .out = true) (p_dev : m .dev = true) (p_events : m .events = true) (p_pba : m .pba = true) (p_hostMem : m .hostMem = true) (p_web : m .web = true) (p_frames : m .frames = true) (p_prn : m .prn = true) (p_fire : m .fire = true) (hs : Keeps m r s) : Keeps m r (closeJob after last why s) := by
  unfold closeJob
  repeat' first | intro _ | (with_reducible first | assumption | apply raiseAfter_keeps | apply setDev_keeps | apply State.withFrames_keeps | apply refreshPeriods_keeps | apply ite_keeps | apply foldl_keeps) | (with_reducible apply State.keeps_mk <;> first | exact .inr ‹_› | exact .inl rfl | exact .inl ⟨rfl, rfl⟩ | exact .inl ⟨rfl, rfl, rfl⟩ | exact .inl ⟨rfl, rfl, rfl, rfl⟩ | exact .inl ⟨rfl, rfl, rfl, rfl, rfl⟩ | skip) | rfl | exact OtpLe.refl _ | split | (extract_lets; split) | (dsimp +zetaDelta only; split)

theorem closeIfDone_keeps (after : Nat) (s : State) (p_out : m .out = true) (p_dev : m .dev = true) (p_events : m .events = true) (p_pba : m .pba = true) (p_hostMem : m .hostMem = true) (p_web : m .web = true) (p_frames : m .frames = true) (p_prn : m .prn = true) (p_fire : m .fire = true) (hs : Keeps m r s) : Keeps m r (closeIfDone after s) := by
  unfold closeIfDone
  repeat' first | intro _ | (with_reducible first | assumption | apply closeJob_keeps | apply ite_keeps | apply foldl_keeps) | (with_reducible apply State.keeps_mk <;> first | exact .inr ‹_› | exact .inl rfl | exact .inl ⟨rfl, rfl⟩ | exact .inl ⟨rfl, rfl, rfl⟩ | exact .inl ⟨rfl, rfl, rfl, rfl⟩ | exact .inl ⟨rfl, rfl, rfl, rfl, rfl⟩ | skip) | rfl | exact OtpLe.refl _ | split | (extract_lets; split) | (dsimp +zetaDelta only; split)

theorem execPrnJobClose_keeps (slot : Nat) (s : State) (p_out : m .out = true) (p_dev : m .dev = true) (p_slots : m .slots = true) (p_records : m .records = true) (p_events : m .events = true) (p_pba : m .pba = true) (p_hostMem : m .hostMem = true) (p_web : m .web = true) (p_frames : m .frames = true) (p_prn : m .prn = true) (p_fire : m .fire = true) (hs : Keeps m r s) : OutKeeps m r (execPrnJobClose slot s) := by
  unfold execPrnJobClose
  repeat' first | intro _ | (with_reducible first | assumption | apply OutKeeps.next | apply OutKeeps.fault | apply ite_outKeeps | apply complete_keeps | apply runCmd_keeps | apply dropBeyond_keeps | apply setLast_keeps | apply closeJob_keeps | apply closeIfDone_keeps | apply ite_keeps | apply foldl_keeps) | (with_reducible apply State.keeps_mk <;> first | exact .inr ‹_› | exact .inl rfl | exact .inl ⟨rfl, rfl⟩ | exact .inl ⟨rfl, rfl, rfl⟩ | exact .inl ⟨rfl, rfl, rfl, rfl⟩ | exact .inl ⟨rfl, rfl, rfl, rfl, rfl⟩ | skip) | rfl | exact OtpLe.refl _ | split | (extract_lets; split) | (dsimp +zetaDelta only; split)

theorem abortFrame_keeps (s : State) (f : FrameNo) (p_out : m .out = true) (p_events : m .events = true) (p_bufs : m .bufs = true) (p_pba : m .pba = true) (p_hostMem : m .hostMem = true) (p_frames : m .frames = true) (hs : Keeps m r s) : Keeps m r (abortFrame s f) := by
  unfold abortFrame
  repeat' first | intro _ | (with_reducible first | assumption | apply State.updFrame_keeps | apply completeFrame_keeps | apply ite_keeps | apply foldl_keeps) | split | (extract_lets; split) | (with_reducible apply State.keeps_mk <;> first | exact .inr ‹_› | exact .inl rfl | exact .inl ⟨rfl, rfl⟩ | exact .inl ⟨rfl, rfl, rfl⟩ | exact .inl ⟨rfl, rfl, rfl, rfl⟩ | exact .inl ⟨rfl, rfl, rfl, rfl, rfl⟩ | skip) | rfl | exact OtpLe.refl _ | split | (extract_lets; split) | (dsimp +zetaDelta only; split)

theorem dropOpen_keeps (s : State) (p_frames : m .frames = true) (hs : Keeps m r s) : Keeps m r (dropOpen s) := by
  unfold dropOpen
  repeat' first | intro _ | (with_reducible first | assumption | apply State.withFrames_keeps | apply ite_keeps | apply foldl_keeps) | (with_reducible apply State.keeps_mk <;> first | exact .inr ‹_› | exact .inl rfl | exact .inl ⟨rfl, rfl⟩ | exact .inl ⟨rfl, rfl, rfl⟩ | exact .inl ⟨rfl, rfl, rfl, rfl⟩ | exact .inl ⟨rfl, rfl, rfl, rfl, rfl⟩ | skip) | rfl | exact OtpLe.refl _ | split | (extract_lets; split) | (dsimp +zetaDelta only; split)

theorem abortFrames_keeps (s : State) (p_out : m .out = true) (p_events : m .events = true) (p_bufs : m .bufs = true) (p_pba : m .pba = true) (p_hostMem : m .hostMem = true) (p_frames : m .frames = true) (hs : Keeps m r s) : Keeps m r (abortFrames s) := by
  unfold abortFrames
  repeat' first | intro _ | (with_reducible first | assumption | apply abortFrame_keeps | apply dropOpen_keeps | apply ite_keeps | apply foldl_keeps) | (with_reducible apply State.keeps_mk <;> first | exact .inr ‹_› | exact .inl rfl | exact .inl ⟨rfl, rfl⟩ | exact .inl ⟨rfl, rfl, rfl⟩ | exact .inl ⟨rfl, rfl, rfl, rfl⟩ | exact .inl ⟨rfl, rfl, rfl, rfl, rfl⟩ | skip) | rfl | exact OtpLe.refl _ | split | (extract_lets; split) | (dsimp +zetaDelta only; split)

theorem execPrnAbort_keeps (slot : Nat) (s : State) (p_out : m .out = true) (p_dev : m .dev = true) (p_slots : m .slots = true) (p_records : m .records = true) (p_events : m .events = true) (p_bufs : m .bufs = true) (p_pba : m .pba = true) (p_hostMem : m .hostMem = true) (p_web : m .web = true) (p_frames : m .frames = true) (p_prn : m .prn = true) (p_fire : m .fire = true) (hs : Keeps m r s) : OutKeeps m r (execPrnAbort slot s) := by
  unfold execPrnAbort
  repeat' first | intro _ | (with_reducible first | assumption | apply OutKeeps.next | apply OutKeeps.fault | apply ite_outKeeps | apply complete_keeps | apply runCmd_keeps | apply closeJob_keeps | apply abortFrames_keeps | apply ite_keeps | apply foldl_keeps) | (with_reducible apply State.keeps_mk <;> first | exact .inr ‹_› | exact .inl rfl | exact .inl ⟨rfl, rfl⟩ | exact .inl ⟨rfl, rfl, rfl⟩ | exact .inl ⟨rfl, rfl, rfl, rfl⟩ | exact .inl ⟨rfl, rfl, rfl, rfl, rfl⟩ | skip) | rfl | exact OtpLe.refl _ | split | (extract_lets; split) | (dsimp +zetaDelta only; split)

theorem refreshNozzles_keeps (c : PrintCfg) (s : State) (p_fire : m .fire = true) (hs : Keeps m r s) : Keeps m r (refreshNozzles c s) := by
  unfold refreshNozzles
  repeat' first | intro _ | (with_reducible first | assumption | apply State.setFireBar_keeps | apply ite_keeps | apply foldl_keeps) | (with_reducible apply State.keeps_mk <;> first | exact .inr ‹_› | exact .inl rfl | exact .inl ⟨rfl, rfl⟩ | exact .inl ⟨rfl, rfl, rfl⟩ | exact .inl ⟨rfl, rfl, rfl, rfl⟩ | exact .inl ⟨rfl, rfl, rfl, rfl, rfl⟩ | skip) | rfl | exact OtpLe.refl _ | split | (extract_lets; split) | (dsimp +zetaDelta only; split)

theorem printCutoff_keeps (f : FrameNo) (s : State) (p_bufs : m .bufs = true) (p_web : m .web = true) (p_frames : m .frames = true) (p_fire : m .fire = true) (hs : Keeps m r s) : Keeps m r (printCutoff f s) := by
  unfold printCutoff
  repeat' first | intro _ | (with_reducible first | assumption | apply State.updFrame_keeps | apply enterCut_keeps | apply decideBanks_keeps | apply refreshPeriods_keeps | apply keepOldTerms_keeps | apply refreshNozzles_keeps | apply ite_keeps | apply foldl_keeps) | (with_reducible apply State.keeps_mk <;> first | exact .inr ‹_› | exact .inl rfl | exact .inl ⟨rfl, rfl⟩ | exact .inl ⟨rfl, rfl, rfl⟩ | exact .inl ⟨rfl, rfl, rfl, rfl⟩ | exact .inl ⟨rfl, rfl, rfl, rfl, rfl⟩ | skip) | rfl | exact OtpLe.refl _ | split | (extract_lets; split) | (dsimp +zetaDelta only; split)

theorem finishPrintFrame_keeps (f : FrameNo) (s : State) (p_out : m .out = true) (p_dev : m .dev = true) (p_events : m .events = true) (p_bufs : m .bufs = true) (p_pba : m .pba = true) (p_hostMem : m .hostMem = true) (p_web : m .web = true) (p_frames : m .frames = true) (p_prn : m .prn = true) (p_fire : m .fire = true) (hs : Keeps m r s) : Keeps m r (finishPrintFrame f s) := by
  unfold finishPrintFrame
  repeat' first | intro _ | (with_reducible first | assumption | apply completeFrame_keeps | apply pruneCommits_keeps | apply closeIfDone_keeps | apply ite_keeps | apply foldl_keeps) | (with_reducible apply State.keeps_mk <;> first | exact .inr ‹_› | exact .inl rfl | exact .inl ⟨rfl, rfl⟩ | exact .inl ⟨rfl, rfl, rfl⟩ | exact .inl ⟨rfl, rfl, rfl, rfl⟩ | exact .inl ⟨rfl, rfl, rfl, rfl, rfl⟩ | skip) | rfl | exact OtpLe.refl _ | split | (extract_lets; split) | (dsimp +zetaDelta only; split)

theorem execLastTickTimeout_keeps (node : Nat) (s : State) (p_frames : m .frames = true) (hs : Keeps m r s) : OutKeeps m r (execLastTickTimeout node s) := by
  unfold execLastTickTimeout
  repeat' first | intro _ | (with_reducible first | assumption | apply OutKeeps.next | apply OutKeeps.fault | apply ite_outKeeps | apply State.withFrames_keeps | apply ite_keeps | apply foldl_keeps) | (with_reducible apply State.keeps_mk <;> first | exact .inr ‹_› | exact .inl rfl | exact .inl ⟨rfl, rfl⟩ | exact .inl ⟨rfl, rfl, rfl⟩ | exact .inl ⟨rfl, rfl, rfl, rfl⟩ | exact .inl ⟨rfl, rfl, rfl, rfl, rfl⟩ | skip) | rfl | exact OtpLe.refl _ | split | (extract_lets; split) | (dsimp +zetaDelta only; split)

end Sys2Proof.Machine
end

