-- ==== Sys2Proof/Laws/KeepsLfCmd.lean ====
section
/-! SUPPORT. `Keeps` for the definitions of Machine/LfCmd.lean, one lemma for each. -/

set_option linter.all false
set_option Elab.async false
set_option maxRecDepth 4000
namespace Sys2Proof.Machine

variable {m : Part → Bool} {r : State}

theorem State.stageLf_keeps (s : State) (f : LfCfg → LfCfg) (p_frames : m .frames = true) (hs : Keeps m r s) : Keeps m r (State.stageLf s f) := by
  unfold State.stageLf
  repeat' first | intro _ | (with_reducible first | assumption | apply State.withFrames_keeps | apply ite_keeps | apply foldl_keeps) | (with_reducible apply State.keeps_mk <;> first | exact .inr ‹_› | exact .inl rfl | exact .inl ⟨rfl, rfl⟩ | exact .inl ⟨rfl, rfl, rfl⟩ | exact .inl ⟨rfl, rfl, rfl, rfl⟩ | exact .inl ⟨rfl, rfl, rfl, rfl, rfl⟩ | skip) | rfl | exact OtpLe.refl _ | split | (extract_lets; split) | (dsimp +zetaDelta only; split)

theorem State.withScan_keeps (s : State) (f : Scan → Scan) (p_scan : m .scan = true) (hs : Keeps m r s) : Keeps m r (State.withScan s f) := by
  unfold State.withScan
  repeat' first | intro _ | (with_reducible first | assumption | apply ite_keeps | apply foldl_keeps) | (with_reducible apply State.keeps_mk <;> first | exact .inr ‹_› | exact .inl rfl | exact .inl ⟨rfl, rfl⟩ | exact .inl ⟨rfl, rfl, rfl⟩ | exact .inl ⟨rfl, rfl, rfl, rfl⟩ | exact .inl ⟨rfl, rfl, rfl, rfl, rfl⟩ | skip) | rfl | exact OtpLe.refl _ | split | (extract_lets; split) | (dsimp +zetaDelta only; split)

theorem execLfrSceneBind_keeps (slot : Nat) (s : State) (p_slots : m .slots = true) (p_records : m .records = true) (p_frames : m .frames = true) (hs : Keeps m r s) : OutKeeps m r (execLfrSceneBind slot s) := by
  unfold execLfrSceneBind
  repeat' first | intro _ | (with_reducible first | assumption | apply OutKeeps.next | apply OutKeeps.fault | apply ite_outKeeps | apply done_keeps | apply runCmd_keeps | apply State.stageLf_keeps | apply ite_keeps | apply foldl_keeps) | (with_reducible apply State.keeps_mk <;> first | exact .inr ‹_› | exact .inl rfl | exact .inl ⟨rfl, rfl⟩ | exact .inl ⟨rfl, rfl, rfl⟩ | exact .inl ⟨rfl, rfl, rfl, rfl⟩ | exact .inl ⟨rfl, rfl, rfl, rfl, rfl⟩ | skip) | rfl | exact OtpLe.refl _ | split | (extract_lets; split) | (dsimp +zetaDelta only; split)

theorem stageRayMap_keeps (m1 : RayMap) (s : State) (p_frames : m .frames = true) (p_scan : m .scan = true) (hs : Keeps m r s) : Keeps m r (stageRayMap m1 s) := by
  unfold stageRayMap
  repeat' first | intro _ | (with_reducible first | assumption | apply State.stageLf_keeps | apply State.withScan_keeps | apply ite_keeps | apply foldl_keeps) | (with_reducible apply State.keeps_mk <;> first | exact .inr ‹_› | exact .inl rfl | exact .inl ⟨rfl, rfl⟩ | exact .inl ⟨rfl, rfl, rfl⟩ | exact .inl ⟨rfl, rfl, rfl, rfl⟩ | exact .inl ⟨rfl, rfl, rfl, rfl, rfl⟩ | skip) | rfl | exact OtpLe.refl _ | split | (extract_lets; split) | (dsimp +zetaDelta only; split)

theorem execLfrRaymapLoad_keeps (slot : Nat) (s : State) (p_slots : m .slots = true) (p_records : m .records = true) (p_frames : m .frames = true) (p_scan : m .scan = true) (hs : Keeps m r s) : OutKeeps m r (execLfrRaymapLoad slot s) := by
  unfold execLfrRaymapLoad
  repeat' first | intro _ | (with_reducible first | assumption | apply OutKeeps.next | apply OutKeeps.fault | apply ite_outKeeps | apply done_keeps | apply badImage_keeps | apply resourceBusy_keeps | apply runCmd_keeps | apply stageRayMap_keeps | apply ite_keeps | apply foldl_keeps) | split | (extract_lets; split) | (with_reducible apply State.keeps_mk <;> first | exact .inr ‹_› | exact .inl rfl | exact .inl ⟨rfl, rfl⟩ | exact .inl ⟨rfl, rfl, rfl⟩ | exact .inl ⟨rfl, rfl, rfl, rfl⟩ | exact .inl ⟨rfl, rfl, rfl, rfl, rfl⟩ | skip) | rfl | exact OtpLe.refl _ | split | (extract_lets; split) | (dsimp +zetaDelta only; split)

theorem execLfrEmitterCalLoad_keeps (slot : Nat) (s : State) (p_slots : m .slots = true) (p_records : m .records = true) (p_frames : m .frames = true) (p_scan : m .scan = true) (hs : Keeps m r s) : OutKeeps m r (execLfrEmitterCalLoad slot s) := by
  unfold execLfrEmitterCalLoad
  repeat' first | intro _ | (with_reducible first | assumption | apply OutKeeps.next | apply OutKeeps.fault | apply ite_outKeeps | apply done_keeps | apply resourceBusy_keeps | apply runCmd_keeps | apply State.stageLf_keeps | apply State.withScan_keeps | apply ite_keeps | apply foldl_keeps) | (with_reducible apply State.keeps_mk <;> first | exact .inr ‹_› | exact .inl rfl | exact .inl ⟨rfl, rfl⟩ | exact .inl ⟨rfl, rfl, rfl⟩ | exact .inl ⟨rfl, rfl, rfl, rfl⟩ | exact .inl ⟨rfl, rfl, rfl, rfl, rfl⟩ | skip) | rfl | exact OtpLe.refl _ | split | (extract_lets; split) | (dsimp +zetaDelta only; split)

theorem execLfrLutLoad_keeps (slot : Nat) (s : State) (p_slots : m .slots = true) (p_records : m .records = true) (p_frames : m .frames = true) (p_prn : m .prn = true) (hs : Keeps m r s) : OutKeeps m r (execLfrLutLoad slot s) := by
  unfold execLfrLutLoad
  repeat' first | intro _ | (with_reducible first | assumption | apply OutKeeps.next | apply OutKeeps.fault | apply ite_outKeeps | apply done_keeps | apply badImage_keeps | apply resourceBusy_keeps | apply runCmd_keeps | apply newLoads_keeps | apply State.stageLf_keeps | apply ite_keeps | apply foldl_keeps) | split | (extract_lets; split) | (with_reducible apply State.keeps_mk <;> first | exact .inr ‹_› | exact .inl rfl | exact .inl ⟨rfl, rfl⟩ | exact .inl ⟨rfl, rfl, rfl⟩ | exact .inl ⟨rfl, rfl, rfl, rfl⟩ | exact .inl ⟨rfl, rfl, rfl, rfl, rfl⟩ | skip) | rfl | exact OtpLe.refl _ | split | (extract_lets; split) | (dsimp +zetaDelta only; split)

theorem execScanTiming_keeps (slot : Nat) (s : State) (p_slots : m .slots = true) (p_records : m .records = true) (p_frames : m .frames = true) (p_scan : m .scan = true) (hs : Keeps m r s) : OutKeeps m r (execScanTiming slot s) := by
  unfold execScanTiming
  repeat' first | intro _ | (with_reducible first | assumption | apply OutKeeps.next | apply OutKeeps.fault | apply ite_outKeeps | apply done_keeps | apply badImage_keeps | apply runCmd_keeps | apply State.withFrames_keeps | apply State.stageLf_keeps | apply State.withScan_keeps | apply ite_keeps | apply foldl_keeps) | split | (extract_lets; split) | (with_reducible apply State.keeps_mk <;> first | exact .inr ‹_› | exact .inl rfl | exact .inl ⟨rfl, rfl⟩ | exact .inl ⟨rfl, rfl, rfl⟩ | exact .inl ⟨rfl, rfl, rfl, rfl⟩ | exact .inl ⟨rfl, rfl, rfl, rfl, rfl⟩ | skip) | rfl | exact OtpLe.refl _ | split | (extract_lets; split) | (dsimp +zetaDelta only; split)

theorem execScanPowerPolicy_keeps (slot : Nat) (s : State) (p_slots : m .slots = true) (p_records : m .records = true) (p_frames : m .frames = true) (hs : Keeps m r s) : OutKeeps m r (execScanPowerPolicy slot s) := by
  unfold execScanPowerPolicy
  repeat' first | intro _ | (with_reducible first | assumption | apply OutKeeps.next | apply OutKeeps.fault | apply ite_outKeeps | apply done_keeps | apply runCmd_keeps | apply State.stageLf_keeps | apply ite_keeps | apply foldl_keeps) | (with_reducible apply State.keeps_mk <;> first | exact .inr ‹_› | exact .inl rfl | exact .inl ⟨rfl, rfl⟩ | exact .inl ⟨rfl, rfl, rfl⟩ | exact .inl ⟨rfl, rfl, rfl, rfl⟩ | exact .inl ⟨rfl, rfl, rfl, rfl, rfl⟩ | skip) | rfl | exact OtpLe.refl _ | split | (extract_lets; split) | (dsimp +zetaDelta only; split)

theorem execScanSplitConfig_keeps (slot : Nat) (s : State) (p_slots : m .slots = true) (p_records : m .records = true) (p_scan : m .scan = true) (hs : Keeps m r s) : OutKeeps m r (execScanSplitConfig slot s) := by
  unfold execScanSplitConfig
  repeat' first | intro _ | (with_reducible first | assumption | apply OutKeeps.next | apply OutKeeps.fault | apply ite_outKeeps | apply done_keeps | apply runCmd_keeps | apply State.withScan_keeps | apply ite_keeps | apply foldl_keeps) | (with_reducible apply State.keeps_mk <;> first | exact .inr ‹_› | exact .inl rfl | exact .inl ⟨rfl, rfl⟩ | exact .inl ⟨rfl, rfl, rfl⟩ | exact .inl ⟨rfl, rfl, rfl, rfl⟩ | exact .inl ⟨rfl, rfl, rfl, rfl, rfl⟩ | skip) | rfl | exact OtpLe.refl _ | split | (extract_lets; split) | (dsimp +zetaDelta only; split)

end Sys2Proof.Machine
end

