-- ==== Sys2Proof/Laws/KeepsCalBase.lean ====
section
/-! SUPPORT. `Keeps` for the definitions of Machine/CalBase.lean, one lemma for each. -/

set_option linter.all false
set_option Elab.async false
set_option maxRecDepth 4000
namespace Sys2Proof.Machine

variable {m : Part → Bool} {r : State}

theorem State.withCal_keeps (s : State) (f : Calib → Calib) (p_cal : m .cal = true) (hs : Keeps m r s) : Keeps m r (State.withCal s f) := by
  unfold State.withCal
  repeat' first | intro _ | (with_reducible first | assumption | apply ite_keeps | apply foldl_keeps) | (with_reducible apply State.keeps_mk <;> first | exact .inr ‹_› | exact .inl rfl | exact .inl ⟨rfl, rfl⟩ | exact .inl ⟨rfl, rfl, rfl⟩ | exact .inl ⟨rfl, rfl, rfl, rfl⟩ | exact .inl ⟨rfl, rfl, rfl, rfl, rfl⟩ | skip) | rfl | exact OtpLe.refl _ | split | (extract_lets; split) | (dsimp +zetaDelta only; split)

theorem State.setCal_keeps (s : State) (n : Nat) (x : CalInst) (p_cal : m .cal = true) (hs : Keeps m r s) : Keeps m r (State.setCal s n x) := by
  unfold State.setCal
  repeat' first | intro _ | (with_reducible first | assumption | apply State.withCal_keeps | apply ite_keeps | apply foldl_keeps) | (with_reducible apply State.keeps_mk <;> first | exact .inr ‹_› | exact .inl rfl | exact .inl ⟨rfl, rfl⟩ | exact .inl ⟨rfl, rfl, rfl⟩ | exact .inl ⟨rfl, rfl, rfl, rfl⟩ | exact .inl ⟨rfl, rfl, rfl, rfl, rfl⟩ | skip) | rfl | exact OtpLe.refl _ | split | (extract_lets; split) | (dsimp +zetaDelta only; split)

theorem State.updCal_keeps (s : State) (n : Nat) (f : CalInst → CalInst) (p_cal : m .cal = true) (hs : Keeps m r s) : Keeps m r (State.updCal s n f) := by
  unfold State.updCal
  repeat' first | intro _ | (with_reducible first | assumption | apply State.setCal_keeps | apply ite_keeps | apply foldl_keeps) | (with_reducible apply State.keeps_mk <;> first | exact .inr ‹_› | exact .inl rfl | exact .inl ⟨rfl, rfl⟩ | exact .inl ⟨rfl, rfl, rfl⟩ | exact .inl ⟨rfl, rfl, rfl, rfl⟩ | exact .inl ⟨rfl, rfl, rfl, rfl, rfl⟩ | skip) | rfl | exact OtpLe.refl _ | split | (extract_lets; split) | (dsimp +zetaDelta only; split)

theorem retrainDone_keeps (k : Nat) (ch : Nat) (ok : Bool) (s : State) (p_slots : m .slots = true) (p_records : m .records = true) (p_mem : m .mem = true) (hs : Keeps m r s) : Keeps m r (retrainDone k ch ok s) := by
  unfold retrainDone
  repeat' first | intro _ | (with_reducible first | assumption | apply complete_keeps | apply done_keeps | apply ite_keeps | apply foldl_keeps) | split | (extract_lets; split) | (with_reducible apply State.keeps_mk <;> first | exact .inr ‹_› | exact .inl rfl | exact .inl ⟨rfl, rfl⟩ | exact .inl ⟨rfl, rfl, rfl⟩ | exact .inl ⟨rfl, rfl, rfl, rfl⟩ | exact .inl ⟨rfl, rfl, rfl, rfl, rfl⟩ | skip) | rfl | exact OtpLe.refl _ | split | (extract_lets; split) | (dsimp +zetaDelta only; split)

theorem endWaiters_keeps (n : Nat) (ws : List (Nat × Nat)) (status : Nat) (detail : Nat) (result : Nat) (frame : Option FrameNo) (s : State) (p_slots : m .slots = true) (p_records : m .records = true) (p_mem : m .mem = true) (hs : Keeps m r s) : Keeps m r (endWaiters n ws status detail result frame s) := by
  unfold endWaiters
  repeat' first | intro _ | (with_reducible first | assumption | apply complete_keeps | apply retrainDone_keeps | apply ite_keeps | apply foldl_keeps) | (with_reducible apply State.keeps_mk <;> first | exact .inr ‹_› | exact .inl rfl | exact .inl ⟨rfl, rfl⟩ | exact .inl ⟨rfl, rfl, rfl⟩ | exact .inl ⟨rfl, rfl, rfl, rfl⟩ | exact .inl ⟨rfl, rfl, rfl, rfl, rfl⟩ | skip) | rfl | exact OtpLe.refl _ | split | (extract_lets; split) | (dsimp +zetaDelta only; split)

theorem calDone_keeps (n : Nat) (outcome : Nat) (detail : Nat) (quality : Option Nat) (frame : Option FrameNo) (gen : Option FrameNo) (s : State) (p_free : m .free = true) (p_out : m .out = true) (p_events : m .events = true) (p_pba : m .pba = true) (p_hostMem : m .hostMem = true) (hs : Keeps m r s) : Keeps m r (calDone n outcome detail quality frame gen s) := by
  unfold calDone
  repeat' first | intro _ | (with_reducible first | assumption | apply raise_keeps | apply ite_keeps | apply foldl_keeps) | (with_reducible apply State.keeps_mk <;> first | exact .inr ‹_› | exact .inl rfl | exact .inl ⟨rfl, rfl⟩ | exact .inl ⟨rfl, rfl, rfl⟩ | exact .inl ⟨rfl, rfl, rfl, rfl⟩ | exact .inl ⟨rfl, rfl, rfl, rfl, rfl⟩ | skip) | rfl | exact OtpLe.refl _ | split | (extract_lets; split) | (dsimp +zetaDelta only; split)

theorem calStale_keeps (id : Nat) (up : Bool) (cause : Nat) (f : FrameNo) (s : State) (p_out : m .out = true) (p_events : m .events = true) (p_pba : m .pba = true) (p_hostMem : m .hostMem = true) (hs : Keeps m r s) : Keeps m r (calStale id up cause f s) := by
  unfold calStale
  repeat' first | intro _ | (with_reducible first | assumption | apply raise_keeps | apply ite_keeps | apply foldl_keeps) | (with_reducible apply State.keeps_mk <;> first | exact .inr ‹_› | exact .inl rfl | exact .inl ⟨rfl, rfl⟩ | exact .inl ⟨rfl, rfl, rfl⟩ | exact .inl ⟨rfl, rfl, rfl, rfl⟩ | exact .inl ⟨rfl, rfl, rfl, rfl, rfl⟩ | skip) | rfl | exact OtpLe.refl _ | split | (extract_lets; split) | (dsimp +zetaDelta only; split)

theorem becomeStale_keeps (n : Nat) (cause : Nat) (f : FrameNo) (s : State) (p_out : m .out = true) (p_events : m .events = true) (p_pba : m .pba = true) (p_hostMem : m .hostMem = true) (p_cal : m .cal = true) (hs : Keeps m r s) : Keeps m r (becomeStale n cause f s) := by
  unfold becomeStale
  repeat' first | intro _ | (with_reducible first | assumption | apply State.setCal_keeps | apply calStale_keeps | apply ite_keeps | apply foldl_keeps) | (with_reducible apply State.keeps_mk <;> first | exact .inr ‹_› | exact .inl rfl | exact .inl ⟨rfl, rfl⟩ | exact .inl ⟨rfl, rfl, rfl⟩ | exact .inl ⟨rfl, rfl, rfl, rfl⟩ | exact .inl ⟨rfl, rfl, rfl, rfl, rfl⟩ | skip) | rfl | exact OtpLe.refl _ | split | (extract_lets; split) | (dsimp +zetaDelta only; split)

theorem endStale_keeps (n : Nat) (cause : Nat) (f : FrameNo) (s : State) (p_out : m .out = true) (p_events : m .events = true) (p_pba : m .pba = true) (p_hostMem : m .hostMem = true) (p_cal : m .cal = true) (hs : Keeps m r s) : Keeps m r (endStale n cause f s) := by
  unfold endStale
  repeat' first | intro _ | (with_reducible first | assumption | apply State.setCal_keeps | apply calStale_keeps | apply ite_keeps | apply foldl_keeps) | (with_reducible apply State.keeps_mk <;> first | exact .inr ‹_› | exact .inl rfl | exact .inl ⟨rfl, rfl⟩ | exact .inl ⟨rfl, rfl, rfl⟩ | exact .inl ⟨rfl, rfl, rfl, rfl⟩ | exact .inl ⟨rfl, rfl, rfl, rfl, rfl⟩ | skip) | rfl | exact OtpLe.refl _ | split | (extract_lets; split) | (dsimp +zetaDelta only; split)

theorem noteLfRun_keeps (s : State) (p_cal : m .cal = true) (hs : Keeps m r s) : Keeps m r (noteLfRun s) := by
  unfold noteLfRun
  repeat' first | intro _ | (with_reducible first | assumption | apply State.withCal_keeps | apply ite_keeps | apply foldl_keeps) | (with_reducible apply State.keeps_mk <;> first | exact .inr ‹_› | exact .inl rfl | exact .inl ⟨rfl, rfl⟩ | exact .inl ⟨rfl, rfl, rfl⟩ | exact .inl ⟨rfl, rfl, rfl, rfl⟩ | exact .inl ⟨rfl, rfl, rfl, rfl, rfl⟩ | skip) | rfl | exact OtpLe.refl _ | split | (extract_lets; split) | (dsimp +zetaDelta only; split)

theorem beginRun_keeps (n : Nat) (trig : Nat) (ws : List (Nat × Nat)) (s : State) (p_cal : m .cal = true) (hs : Keeps m r s) : Keeps m r (beginRun n trig ws s) := by
  unfold beginRun
  repeat' first | intro _ | (with_reducible first | assumption | apply State.setCal_keeps | apply noteLfRun_keeps | apply ite_keeps | apply foldl_keeps) | split | (extract_lets; split) | (with_reducible apply State.keeps_mk <;> first | exact .inr ‹_› | exact .inl rfl | exact .inl ⟨rfl, rfl⟩ | exact .inl ⟨rfl, rfl, rfl⟩ | exact .inl ⟨rfl, rfl, rfl, rfl⟩ | exact .inl ⟨rfl, rfl, rfl, rfl, rfl⟩ | skip) | rfl | exact OtpLe.refl _ | split | (extract_lets; split) | (dsimp +zetaDelta only; split)

theorem freeAxes_keeps (n : Nat) (s : State) (p_axis : m .axis = true) (hs : Keeps m r s) : Keeps m r (freeAxes n s) := by
  unfold freeAxes
  repeat' first | intro _ | (with_reducible first | assumption | apply ite_keeps | apply foldl_keeps) | (with_reducible apply State.keeps_mk <;> first | exact .inr ‹_› | exact .inl rfl | exact .inl ⟨rfl, rfl⟩ | exact .inl ⟨rfl, rfl, rfl⟩ | exact .inl ⟨rfl, rfl, rfl, rfl⟩ | exact .inl ⟨rfl, rfl, rfl, rfl, rfl⟩ | skip) | rfl | exact OtpLe.refl _ | split | (extract_lets; split) | (dsimp +zetaDelta only; split)

theorem clearRun_keeps (n : Nat) (s : State) (p_axis : m .axis = true) (p_cal : m .cal = true) (hs : Keeps m r s) : Keeps m r (clearRun n s) := by
  unfold clearRun
  repeat' first | intro _ | (with_reducible first | assumption | apply State.updCal_keeps | apply noteLfRun_keeps | apply freeAxes_keeps | apply ite_keeps | apply foldl_keeps) | (with_reducible apply State.keeps_mk <;> first | exact .inr ‹_› | exact .inl rfl | exact .inl ⟨rfl, rfl⟩ | exact .inl ⟨rfl, rfl, rfl⟩ | exact .inl ⟨rfl, rfl, rfl, rfl⟩ | exact .inl ⟨rfl, rfl, rfl, rfl, rfl⟩ | skip) | rfl | exact OtpLe.refl _ | split | (extract_lets; split) | (dsimp +zetaDelta only; split)

theorem failRun_keeps (n : Nat) (detail : Nat) (quality : Option Nat) (s : State) (p_free : m .free = true) (p_out : m .out = true) (p_slots : m .slots = true) (p_records : m .records = true) (p_events : m .events = true) (p_pba : m .pba = true) (p_hostMem : m .hostMem = true) (p_axis : m .axis = true) (p_cal : m .cal = true) (p_mem : m .mem = true) (hs : Keeps m r s) : Keeps m r (failRun n detail quality s) := by
  unfold failRun
  repeat' first | intro _ | (with_reducible first | assumption | apply State.setCal_keeps | apply endWaiters_keeps | apply calDone_keeps | apply becomeStale_keeps | apply clearRun_keeps | apply ite_keeps | apply foldl_keeps) | (with_reducible apply State.keeps_mk <;> first | exact .inr ‹_› | exact .inl rfl | exact .inl ⟨rfl, rfl⟩ | exact .inl ⟨rfl, rfl, rfl⟩ | exact .inl ⟨rfl, rfl, rfl, rfl⟩ | exact .inl ⟨rfl, rfl, rfl, rfl, rfl⟩ | skip) | rfl | exact OtpLe.refl _ | split | (extract_lets; split) | (dsimp +zetaDelta only; split)

theorem abortRun_keeps (n : Nat) (op : Nat) (s : State) (p_free : m .free = true) (p_out : m .out = true) (p_slots : m .slots = true) (p_records : m .records = true) (p_events : m .events = true) (p_pba : m .pba = true) (p_hostMem : m .hostMem = true) (p_axis : m .axis = true) (p_cal : m .cal = true) (p_mem : m .mem = true) (hs : Keeps m r s) : Keeps m r (abortRun n op s) := by
  unfold abortRun
  repeat' first | intro _ | (with_reducible first | assumption | apply State.setCal_keeps | apply endWaiters_keeps | apply calDone_keeps | apply clearRun_keeps | apply ite_keeps | apply foldl_keeps) | (with_reducible apply State.keeps_mk <;> first | exact .inr ‹_› | exact .inl rfl | exact .inl ⟨rfl, rfl⟩ | exact .inl ⟨rfl, rfl, rfl⟩ | exact .inl ⟨rfl, rfl, rfl, rfl⟩ | exact .inl ⟨rfl, rfl, rfl, rfl, rfl⟩ | skip) | rfl | exact OtpLe.refl _ | split | (extract_lets; split) | (dsimp +zetaDelta only; split)

theorem dropPending_keeps (n : Nat) (op : Nat) (s : State) (p_slots : m .slots = true) (p_records : m .records = true) (p_cal : m .cal = true) (p_mem : m .mem = true) (hs : Keeps m r s) : Keeps m r (dropPending n op s) := by
  unfold dropPending
  repeat' first | intro _ | (with_reducible first | assumption | apply State.setCal_keeps | apply endWaiters_keeps | apply ite_keeps | apply foldl_keeps) | (with_reducible apply State.keeps_mk <;> first | exact .inr ‹_› | exact .inl rfl | exact .inl ⟨rfl, rfl⟩ | exact .inl ⟨rfl, rfl, rfl⟩ | exact .inl ⟨rfl, rfl, rfl, rfl⟩ | exact .inl ⟨rfl, rfl, rfl, rfl, rfl⟩ | skip) | rfl | exact OtpLe.refl _ | split | (extract_lets; split) | (dsimp +zetaDelta only; split)

theorem measured_keeps (n : Nat) (quality : Nat) (s : State) (p_out : m .out = true) (p_events : m .events = true) (p_pba : m .pba = true) (p_hostMem : m .hostMem = true) (p_cal : m .cal = true) (hs : Keeps m r s) : Keeps m r (measured n quality s) := by
  unfold measured
  repeat' first | intro _ | (with_reducible first | assumption | apply raise_keeps | apply State.setCal_keeps | apply ite_keeps | apply foldl_keeps) | (with_reducible apply State.keeps_mk <;> first | exact .inr ‹_› | exact .inl rfl | exact .inl ⟨rfl, rfl⟩ | exact .inl ⟨rfl, rfl, rfl⟩ | exact .inl ⟨rfl, rfl, rfl, rfl⟩ | exact .inl ⟨rfl, rfl, rfl, rfl, rfl⟩ | skip) | rfl | exact OtpLe.refl _ | split | (extract_lets; split) | (dsimp +zetaDelta only; split)

theorem passTo_keeps (n : Nat) (r1 : RunState) (s : State) (p_cal : m .cal = true) (hs : Keeps m r s) : Keeps m r (passTo n r1 s) := by
  unfold passTo
  repeat' first | intro _ | (with_reducible first | assumption | apply State.updCal_keeps | apply ite_keeps | apply foldl_keeps) | (with_reducible apply State.keeps_mk <;> first | exact .inr ‹_› | exact .inl rfl | exact .inl ⟨rfl, rfl⟩ | exact .inl ⟨rfl, rfl, rfl⟩ | exact .inl ⟨rfl, rfl, rfl, rfl⟩ | exact .inl ⟨rfl, rfl, rfl, rfl, rfl⟩ | skip) | rfl | exact OtpLe.refl _ | split | (extract_lets; split) | (dsimp +zetaDelta only; split)

theorem succeedRun_keeps (n : Nat) (detail : Nat) (quality : Nat) (a : Option FrameNo) (gen : Option FrameNo) (s : State) (p_free : m .free = true) (p_out : m .out = true) (p_slots : m .slots = true) (p_records : m .records = true) (p_events : m .events = true) (p_pba : m .pba = true) (p_hostMem : m .hostMem = true) (p_axis : m .axis = true) (p_cal : m .cal = true) (p_mem : m .mem = true) (hs : Keeps m r s) : Keeps m r (succeedRun n detail quality a gen s) := by
  unfold succeedRun
  repeat' first | intro _ | (with_reducible first | assumption | apply State.setCal_keeps | apply endWaiters_keeps | apply calDone_keeps | apply clearRun_keeps | apply ite_keeps | apply foldl_keeps) | (with_reducible apply State.keeps_mk <;> first | exact .inr ‹_› | exact .inl rfl | exact .inl ⟨rfl, rfl⟩ | exact .inl ⟨rfl, rfl, rfl⟩ | exact .inl ⟨rfl, rfl, rfl, rfl⟩ | exact .inl ⟨rfl, rfl, rfl, rfl, rfl⟩ | skip) | rfl | exact OtpLe.refl _ | split | (extract_lets; split) | (dsimp +zetaDelta only; split)

theorem applyResult_keeps (n : Nat) (detail : Nat) (quality : Nat) (s : State) (p_free : m .free = true) (p_out : m .out = true) (p_slots : m .slots = true) (p_records : m .records = true) (p_events : m .events = true) (p_pba : m .pba = true) (p_hostMem : m .hostMem = true) (p_axis : m .axis = true) (p_cal : m .cal = true) (p_mem : m .mem = true) (hs : Keeps m r s) : Keeps m r (applyResult n detail quality s) := by
  unfold applyResult
  repeat' first | intro _ | (with_reducible first | assumption | apply passTo_keeps | apply succeedRun_keeps | apply ite_keeps | apply foldl_keeps) | (with_reducible apply State.keeps_mk <;> first | exact .inr ‹_› | exact .inl rfl | exact .inl ⟨rfl, rfl⟩ | exact .inl ⟨rfl, rfl, rfl⟩ | exact .inl ⟨rfl, rfl, rfl, rfl⟩ | exact .inl ⟨rfl, rfl, rfl, rfl, rfl⟩ | skip) | rfl | exact OtpLe.refl _ | split | (extract_lets; split) | (dsimp +zetaDelta only; split)

end Sys2Proof.Machine
end

