-- ==== Sys2Proof/Laws/KeepsFireCmd.lean ====
section
/-! SUPPORT. `Keeps` for the definitions of Machine/FireCmd.lean, one lemma for each. -/

set_option linter.all false
set_option Elab.async false
set_option maxRecDepth 4000
namespace Sys2Proof.Machine

variable {m : Part → Bool} {r : State}

theorem resizeSlots_keeps (s : State) (p_prn : m .prn = true) (hs : Keeps m r s) : Keeps m r (resizeSlots s) := by
  unfold resizeSlots
  repeat' first | intro _ | (with_reducible first | assumption | apply ite_keeps | apply foldl_keeps) | (with_reducible apply State.keeps_mk <;> first | exact .inr ‹_› | exact .inl rfl | exact .inl ⟨rfl, rfl⟩ | exact .inl ⟨rfl, rfl, rfl⟩ | exact .inl ⟨rfl, rfl, rfl, rfl⟩ | exact .inl ⟨rfl, rfl, rfl, rfl, rfl⟩ | skip) | rfl | exact OtpLe.refl _ | split | (extract_lets; split) | (dsimp +zetaDelta only; split)

theorem execFireMapLoad_keeps (slot : Nat) (s : State) (p_slots : m .slots = true) (p_records : m .records = true) (p_frames : m .frames = true) (p_prn : m .prn = true) (hs : Keeps m r s) : OutKeeps m r (execFireMapLoad slot s) := by
  unfold execFireMapLoad
  repeat' first | intro _ | (with_reducible first | assumption | apply OutKeeps.next | apply OutKeeps.fault | apply ite_outKeeps | apply doneWith_keeps | apply badImage_keeps | apply wrongState_keeps | apply runCmd_keeps | apply State.stage_keeps | apply resizeSlots_keeps | apply ite_keeps | apply foldl_keeps) | split | (extract_lets; split) | (with_reducible apply State.keeps_mk <;> first | exact .inr ‹_› | exact .inl rfl | exact .inl ⟨rfl, rfl⟩ | exact .inl ⟨rfl, rfl, rfl⟩ | exact .inl ⟨rfl, rfl, rfl, rfl⟩ | exact .inl ⟨rfl, rfl, rfl, rfl, rfl⟩ | skip) | rfl | exact OtpLe.refl _ | split | (extract_lets; split) | (dsimp +zetaDelta only; split)

theorem execFireMaskLoad_keeps (slot : Nat) (s : State) (p_slots : m .slots = true) (p_records : m .records = true) (p_frames : m .frames = true) (p_prn : m .prn = true) (hs : Keeps m r s) : OutKeeps m r (execFireMaskLoad slot s) := by
  unfold execFireMaskLoad
  repeat' first | intro _ | (with_reducible first | assumption | apply OutKeeps.next | apply OutKeeps.fault | apply ite_outKeeps | apply done_keeps | apply resourceBusy_keeps | apply runCmd_keeps | apply State.stage_keeps | apply newLoads_keeps | apply ite_keeps | apply foldl_keeps) | (with_reducible apply State.keeps_mk <;> first | exact .inr ‹_› | exact .inl rfl | exact .inl ⟨rfl, rfl⟩ | exact .inl ⟨rfl, rfl, rfl⟩ | exact .inl ⟨rfl, rfl, rfl, rfl⟩ | exact .inl ⟨rfl, rfl, rfl, rfl, rfl⟩ | skip) | rfl | exact OtpLe.refl _ | split | (extract_lets; split) | (dsimp +zetaDelta only; split)

theorem execFireNozzleState_keeps (slot : Nat) (s : State) (p_slots : m .slots = true) (p_records : m .records = true) (p_frames : m .frames = true) (hs : Keeps m r s) : OutKeeps m r (execFireNozzleState slot s) := by
  unfold execFireNozzleState
  repeat' first | intro _ | (with_reducible first | assumption | apply OutKeeps.next | apply OutKeeps.fault | apply ite_outKeeps | apply done_keeps | apply badImage_keeps | apply runCmd_keeps | apply State.stage_keeps | apply ite_keeps | apply foldl_keeps) | split | (extract_lets; split) | (with_reducible apply State.keeps_mk <;> first | exact .inr ‹_› | exact .inl rfl | exact .inl ⟨rfl, rfl⟩ | exact .inl ⟨rfl, rfl, rfl⟩ | exact .inl ⟨rfl, rfl, rfl, rfl⟩ | exact .inl ⟨rfl, rfl, rfl, rfl, rfl⟩ | skip) | rfl | exact OtpLe.refl _ | split | (extract_lets; split) | (dsimp +zetaDelta only; split)

theorem execFireTiming_keeps (slot : Nat) (s : State) (p_slots : m .slots = true) (p_records : m .records = true) (p_frames : m .frames = true) (hs : Keeps m r s) : OutKeeps m r (execFireTiming slot s) := by
  unfold execFireTiming
  repeat' first | intro _ | (with_reducible first | assumption | apply OutKeeps.next | apply OutKeeps.fault | apply ite_outKeeps | apply done_keeps | apply runCmd_keeps | apply State.stage_keeps | apply ite_keeps | apply foldl_keeps) | (with_reducible apply State.keeps_mk <;> first | exact .inr ‹_› | exact .inl rfl | exact .inl ⟨rfl, rfl⟩ | exact .inl ⟨rfl, rfl, rfl⟩ | exact .inl ⟨rfl, rfl, rfl, rfl⟩ | exact .inl ⟨rfl, rfl, rfl, rfl, rfl⟩ | skip) | rfl | exact OtpLe.refl _ | split | (extract_lets; split) | (dsimp +zetaDelta only; split)

theorem startPurge_keeps (b : Nat) (cnt : Nat) (rate : Nat) (dot : Nat) (s : State) (p_out : m .out = true) (p_fire : m .fire = true) (p_rein : m .rein = true) (hs : Keeps m r s) : Keeps m r (startPurge b cnt rate dot s) := by
  unfold startPurge
  repeat' first | intro _ | (with_reducible first | assumption | apply nodeRegWrite_keeps | apply State.setFireBar_keeps | apply haltNodes_keeps | apply ite_keeps | apply foldl_keeps) | (with_reducible apply State.keeps_mk <;> first | exact .inr ‹_› | exact .inl rfl | exact .inl ⟨rfl, rfl⟩ | exact .inl ⟨rfl, rfl, rfl⟩ | exact .inl ⟨rfl, rfl, rfl, rfl⟩ | exact .inl ⟨rfl, rfl, rfl, rfl, rfl⟩ | skip) | rfl | exact OtpLe.refl _ | split | (extract_lets; split) | (dsimp +zetaDelta only; split)

theorem execFireSpitConfig_keeps (slot : Nat) (s : State) (p_out : m .out = true) (p_slots : m .slots = true) (p_records : m .records = true) (p_frames : m .frames = true) (p_fire : m .fire = true) (p_rein : m .rein = true) (hs : Keeps m r s) : OutKeeps m r (execFireSpitConfig slot s) := by
  unfold execFireSpitConfig
  repeat' first | intro _ | (with_reducible first | assumption | apply OutKeeps.next | apply OutKeeps.fault | apply ite_outKeeps | apply complete_keeps | apply done_keeps | apply resourceBusy_keeps | apply runCmd_keeps | apply State.stage_keeps | apply startPurge_keeps | apply ite_keeps | apply foldl_keeps) | (with_reducible apply State.keeps_mk <;> first | exact .inr ‹_› | exact .inl rfl | exact .inl ⟨rfl, rfl⟩ | exact .inl ⟨rfl, rfl, rfl⟩ | exact .inl ⟨rfl, rfl, rfl, rfl⟩ | exact .inl ⟨rfl, rfl, rfl, rfl, rfl⟩ | skip) | rfl | exact OtpLe.refl _ | split | (extract_lets; split) | (dsimp +zetaDelta only; split)

theorem abortPurge_keeps (b : Nat) (s : State) (p_out : m .out = true) (p_fire : m .fire = true) (p_rein : m .rein = true) (hs : Keeps m r s) : Keeps m r (abortPurge b s) := by
  unfold abortPurge
  repeat' first | intro _ | (with_reducible first | assumption | apply nodeRegWrite_keeps | apply State.setFireBar_keeps | apply ite_keeps | apply foldl_keeps) | (with_reducible apply State.keeps_mk <;> first | exact .inr ‹_› | exact .inl rfl | exact .inl ⟨rfl, rfl⟩ | exact .inl ⟨rfl, rfl, rfl⟩ | exact .inl ⟨rfl, rfl, rfl, rfl⟩ | exact .inl ⟨rfl, rfl, rfl, rfl, rfl⟩ | skip) | rfl | exact OtpLe.refl _ | split | (extract_lets; split) | (dsimp +zetaDelta only; split)

theorem execPurgeDone_keeps (bar : Nat) (s : State) (p_out : m .out = true) (p_events : m .events = true) (p_pba : m .pba = true) (p_hostMem : m .hostMem = true) (p_fire : m .fire = true) (hs : Keeps m r s) : OutKeeps m r (execPurgeDone bar s) := by
  unfold execPurgeDone
  repeat' first | intro _ | (with_reducible first | assumption | apply OutKeeps.next | apply OutKeeps.fault | apply ite_outKeeps | apply raise_keeps | apply State.setFireBar_keeps | apply ite_keeps | apply foldl_keeps) | (with_reducible apply State.keeps_mk <;> first | exact .inr ‹_› | exact .inl rfl | exact .inl ⟨rfl, rfl⟩ | exact .inl ⟨rfl, rfl, rfl⟩ | exact .inl ⟨rfl, rfl, rfl, rfl⟩ | exact .inl ⟨rfl, rfl, rfl, rfl, rfl⟩ | skip) | rfl | exact OtpLe.refl _ | split | (extract_lets; split) | (dsimp +zetaDelta only; split)

end Sys2Proof.Machine
end

