-- ==== Sys2Proof/Laws/KeepsHeadStep.lean ====
section
/-! SUPPORT. `Keeps` for the definitions of Machine/HeadStep.lean, one lemma for each. -/

set_option linter.all false
set_option Elab.async false
set_option maxRecDepth 4000
namespace Sys2Proof.Machine

variable {m : Part → Bool} {r : State}

theorem stepNode_keeps (b : Nat) (no : Nat) (f : FrameNo) (c : PrintCfg) (s : State) (n : MapNode) (p_fire : m .fire = true) (hs : Keeps m r s) : Keeps m r (stepNode b no f c s n) := by
  unfold stepNode
  repeat' first | intro _ | (with_reducible first | assumption | apply State.setFireBar_keeps | apply State.setBanks_keeps | apply ite_keeps | apply foldl_keeps) | split | (extract_lets; split) | (with_reducible apply State.keeps_mk <;> first | exact .inr ‹_› | exact .inl rfl | exact .inl ⟨rfl, rfl⟩ | exact .inl ⟨rfl, rfl, rfl⟩ | exact .inl ⟨rfl, rfl, rfl, rfl⟩ | exact .inl ⟨rfl, rfl, rfl, rfl, rfl⟩ | skip) | rfl | exact OtpLe.refl _ | split | (extract_lets; split) | (dsimp +zetaDelta only; split)

theorem reachHeads_keeps (b : Nat) (old : Nat) (s : State) (p_web : m .web = true) (p_fire : m .fire = true) (hs : Keeps m r s) : Keeps m r (reachHeads b old s) := by
  unfold reachHeads
  repeat' first | intro _ | (with_reducible first | assumption | apply State.setFireBar_keeps | apply refreshPeriods_keeps | apply stepNode_keeps | apply ite_keeps | apply foldl_keeps) | split | (extract_lets; split) | (with_reducible apply State.keeps_mk <;> first | exact .inr ‹_› | exact .inl rfl | exact .inl ⟨rfl, rfl⟩ | exact .inl ⟨rfl, rfl, rfl⟩ | exact .inl ⟨rfl, rfl, rfl, rfl⟩ | exact .inl ⟨rfl, rfl, rfl, rfl, rfl⟩ | skip) | rfl | exact OtpLe.refl _ | split | (extract_lets; split) | (dsimp +zetaDelta only; split)

theorem releaseOld_keeps (s : State) (e : Nat × Nat) (p_fire : m .fire = true) (hs : Keeps m r s) : Keeps m r (releaseOld s e) := by
  unfold releaseOld
  repeat' first | intro _ | (with_reducible first | assumption | apply State.setBanks_keeps | apply ite_keeps | apply foldl_keeps) | (with_reducible apply State.keeps_mk <;> first | exact .inr ‹_› | exact .inl rfl | exact .inl ⟨rfl, rfl⟩ | exact .inl ⟨rfl, rfl, rfl⟩ | exact .inl ⟨rfl, rfl, rfl, rfl⟩ | exact .inl ⟨rfl, rfl, rfl, rfl, rfl⟩ | skip) | rfl | exact OtpLe.refl _ | split | (extract_lets; split) | (dsimp +zetaDelta only; split)

theorem finishSwitch_keeps (b : Nat) (h : HeadSwitch) (s : State) (p_web : m .web = true) (p_frames : m .frames = true) (p_fire : m .fire = true) (hs : Keeps m r s) : Keeps m r (finishSwitch b h s) := by
  unfold finishSwitch
  repeat' first | intro _ | (with_reducible first | assumption | apply State.updFrame_keeps | apply State.setFireBar_keeps | apply endDown_keeps | apply releaseOld_keeps | apply ite_keeps | apply foldl_keeps) | (with_reducible apply State.keeps_mk <;> first | exact .inr ‹_› | exact .inl rfl | exact .inl ⟨rfl, rfl⟩ | exact .inl ⟨rfl, rfl, rfl⟩ | exact .inl ⟨rfl, rfl, rfl, rfl⟩ | exact .inl ⟨rfl, rfl, rfl, rfl, rfl⟩ | skip) | rfl | exact OtpLe.refl _ | split | (extract_lets; split) | (dsimp +zetaDelta only; split)

theorem switchAcked_keeps (b : Nat) (no : Nat) (s : State) (p_web : m .web = true) (p_frames : m .frames = true) (p_fire : m .fire = true) (hs : Keeps m r s) : Keeps m r (switchAcked b no s) := by
  unfold switchAcked
  repeat' first | intro _ | (with_reducible first | assumption | apply finishSwitch_keeps | apply ite_keeps | apply foldl_keeps) | split | (extract_lets; split) | (with_reducible apply State.keeps_mk <;> first | exact .inr ‹_› | exact .inl rfl | exact .inl ⟨rfl, rfl⟩ | exact .inl ⟨rfl, rfl, rfl⟩ | exact .inl ⟨rfl, rfl, rfl, rfl⟩ | exact .inl ⟨rfl, rfl, rfl, rfl, rfl⟩ | skip) | rfl | exact OtpLe.refl _ | split | (extract_lets; split) | (dsimp +zetaDelta only; split)

end Sys2Proof.Machine
end

