-- ==== Sys2Proof/Laws/KeepsRein.lean ====
section
/-! SUPPORT. `Keeps` for the definitions of Machine/Rein.lean, one lemma for each. -/

set_option linter.all false
set_option Elab.async false
set_option maxRecDepth 4000
namespace Sys2Proof.Machine

variable {m : Part → Bool} {r : State}

theorem setLinkState_keeps (l : Nat) (new : LinkState) (c : LinkCause) (s : State) (p_out : m .out = true) (p_events : m .events = true) (p_pba : m .pba = true) (p_hostMem : m .hostMem = true) (p_rein : m .rein = true) (hs : Keeps m r s) : Keeps m r (setLinkState l new c s) := by
  unfold setLinkState
  repeat' first | intro _ | (with_reducible first | assumption | apply raise_keeps | apply State.setLink_keeps | apply ite_keeps | apply foldl_keeps) | (with_reducible apply State.keeps_mk <;> first | exact .inr ‹_› | exact .inl rfl | exact .inl ⟨rfl, rfl⟩ | exact .inl ⟨rfl, rfl, rfl⟩ | exact .inl ⟨rfl, rfl, rfl, rfl⟩ | exact .inl ⟨rfl, rfl, rfl, rfl, rfl⟩ | skip) | rfl | exact OtpLe.refl _ | split | (extract_lets; split) | (dsimp +zetaDelta only; split)

theorem linkDone_keeps (k : Nat) (failed : Nat) (s : State) (p_slots : m .slots = true) (p_records : m .records = true) (hs : Keeps m r s) : Keeps m r (linkDone k failed s) := by
  unfold linkDone
  repeat' first | intro _ | (with_reducible first | assumption | apply complete_keeps | apply done_keeps | apply ite_keeps | apply foldl_keeps) | (with_reducible apply State.keeps_mk <;> first | exact .inr ‹_› | exact .inl rfl | exact .inl ⟨rfl, rfl⟩ | exact .inl ⟨rfl, rfl, rfl⟩ | exact .inl ⟨rfl, rfl, rfl, rfl⟩ | exact .inl ⟨rfl, rfl, rfl, rfl, rfl⟩ | skip) | rfl | exact OtpLe.refl _ | split | (extract_lets; split) | (dsimp +zetaDelta only; split)

theorem serdesBegin_keeps (l : Nat) (s : State) (p_cal : m .cal = true) (hs : Keeps m r s) : Keeps m r (serdesBegin l s) := by
  unfold serdesBegin
  repeat' first | intro _ | (with_reducible first | assumption | apply State.setCal_keeps | apply beginRun_keeps | apply ite_keeps | apply foldl_keeps) | (with_reducible apply State.keeps_mk <;> first | exact .inr ‹_› | exact .inl rfl | exact .inl ⟨rfl, rfl⟩ | exact .inl ⟨rfl, rfl, rfl⟩ | exact .inl ⟨rfl, rfl, rfl, rfl⟩ | exact .inl ⟨rfl, rfl, rfl, rfl, rfl⟩ | skip) | rfl | exact OtpLe.refl _ | split | (extract_lets; split) | (dsimp +zetaDelta only; split)

theorem serdesEnd_keeps (l : Nat) (eye : Option Nat) (s : State) (p_free : m .free = true) (p_out : m .out = true) (p_slots : m .slots = true) (p_records : m .records = true) (p_events : m .events = true) (p_pba : m .pba = true) (p_hostMem : m .hostMem = true) (p_axis : m .axis = true) (p_cal : m .cal = true) (p_mem : m .mem = true) (hs : Keeps m r s) : Keeps m r (serdesEnd l eye s) := by
  unfold serdesEnd
  repeat' first | intro _ | (with_reducible first | assumption | apply failRun_keeps | apply passTo_keeps | apply applyResult_keeps | apply ite_keeps | apply foldl_keeps) | split | (extract_lets; split) | (with_reducible apply State.keeps_mk <;> first | exact .inr ‹_› | exact .inl rfl | exact .inl ⟨rfl, rfl⟩ | exact .inl ⟨rfl, rfl, rfl⟩ | exact .inl ⟨rfl, rfl, rfl, rfl⟩ | exact .inl ⟨rfl, rfl, rfl, rfl, rfl⟩ | skip) | rfl | exact OtpLe.refl _ | split | (extract_lets; split) | (dsimp +zetaDelta only; split)

theorem linkUp_keeps (endB : Bool) (s : State) (l : Nat) (p_out : m .out = true) (p_events : m .events = true) (p_pba : m .pba = true) (p_hostMem : m .hostMem = true) (p_rein : m .rein = true) (p_cal : m .cal = true) (hs : Keeps m r s) : Keeps m r (linkUp endB s l) := by
  unfold linkUp
  repeat' first | intro _ | (with_reducible first | assumption | apply State.setLink_keeps | apply setLinkState_keeps | apply serdesBegin_keeps | apply ite_keeps | apply foldl_keeps) | (with_reducible apply State.keeps_mk <;> first | exact .inr ‹_› | exact .inl rfl | exact .inl ⟨rfl, rfl⟩ | exact .inl ⟨rfl, rfl, rfl⟩ | exact .inl ⟨rfl, rfl, rfl, rfl⟩ | exact .inl ⟨rfl, rfl, rfl, rfl, rfl⟩ | skip) | rfl | exact OtpLe.refl _ | split | (extract_lets; split) | (dsimp +zetaDelta only; split)

theorem settleUps_keeps (l : Nat) (ok : Bool) (s : State) (p_slots : m .slots = true) (p_records : m .records = true) (p_rein : m .rein = true) (hs : Keeps m r s) : Keeps m r (settleUps l ok s) := by
  unfold settleUps
  repeat' first | intro _ | (with_reducible first | assumption | apply linkDone_keeps | apply ite_keeps | apply foldl_keeps) | (with_reducible apply State.keeps_mk <;> first | exact .inr ‹_› | exact .inl rfl | exact .inl ⟨rfl, rfl⟩ | exact .inl ⟨rfl, rfl, rfl⟩ | exact .inl ⟨rfl, rfl, rfl, rfl⟩ | exact .inl ⟨rfl, rfl, rfl, rfl, rfl⟩ | skip) | rfl | exact OtpLe.refl _ | split | (extract_lets; split) | (dsimp +zetaDelta only; split)

theorem linkDown_keeps (s : State) (l : Nat) (p_free : m .free = true) (p_out : m .out = true) (p_slots : m .slots = true) (p_records : m .records = true) (p_events : m .events = true) (p_pba : m .pba = true) (p_hostMem : m .hostMem = true) (p_axis : m .axis = true) (p_rein : m .rein = true) (p_cal : m .cal = true) (p_mem : m .mem = true) (hs : Keeps m r s) : Keeps m r (linkDown s l) := by
  unfold linkDown
  repeat' first | intro _ | (with_reducible first | assumption | apply abortRun_keeps | apply setLinkState_keeps | apply settleUps_keeps | apply ite_keeps | apply foldl_keeps) | (with_reducible apply State.keeps_mk <;> first | exact .inr ‹_› | exact .inl rfl | exact .inl ⟨rfl, rfl⟩ | exact .inl ⟨rfl, rfl, rfl⟩ | exact .inl ⟨rfl, rfl, rfl, rfl⟩ | exact .inl ⟨rfl, rfl, rfl, rfl, rfl⟩ | skip) | rfl | exact OtpLe.refl _ | split | (extract_lets; split) | (dsimp +zetaDelta only; split)

theorem linkRelease_keeps (s : State) (l : Nat) (p_out : m .out = true) (p_events : m .events = true) (p_pba : m .pba = true) (p_hostMem : m .hostMem = true) (p_rein : m .rein = true) (hs : Keeps m r s) : Keeps m r (linkRelease s l) := by
  unfold linkRelease
  repeat' first | intro _ | (with_reducible first | assumption | apply sendFrame_keeps | apply setLinkState_keeps | apply ite_keeps | apply foldl_keeps) | (with_reducible apply State.keeps_mk <;> first | exact .inr ‹_› | exact .inl rfl | exact .inl ⟨rfl, rfl⟩ | exact .inl ⟨rfl, rfl, rfl⟩ | exact .inl ⟨rfl, rfl, rfl, rfl⟩ | exact .inl ⟨rfl, rfl, rfl, rfl, rfl⟩ | skip) | rfl | exact OtpLe.refl _ | split | (extract_lets; split) | (dsimp +zetaDelta only; split)

theorem reinLinkState_keeps (k : Nat) (d : Slot) (s : State) (p_free : m .free = true) (p_out : m .out = true) (p_slots : m .slots = true) (p_records : m .records = true) (p_events : m .events = true) (p_pba : m .pba = true) (p_hostMem : m .hostMem = true) (p_axis : m .axis = true) (p_rein : m .rein = true) (p_cal : m .cal = true) (p_mem : m .mem = true) (hs : Keeps m r s) : Keeps m r (reinLinkState k d s) := by
  unfold reinLinkState
  repeat' first | intro _ | (with_reducible first | assumption | apply done_keeps | apply resourceBusy_keeps | apply linkDone_keeps | apply linkUp_keeps | apply linkDown_keeps | apply linkRelease_keeps | apply ite_keeps | apply foldl_keeps) | split | (extract_lets; split) | (with_reducible apply State.keeps_mk <;> first | exact .inr ‹_› | exact .inl rfl | exact .inl ⟨rfl, rfl⟩ | exact .inl ⟨rfl, rfl, rfl⟩ | exact .inl ⟨rfl, rfl, rfl, rfl⟩ | exact .inl ⟨rfl, rfl, rfl, rfl, rfl⟩ | skip) | rfl | exact OtpLe.refl _ | split | (extract_lets; split) | (dsimp +zetaDelta only; split)

theorem execReinLinkState_keeps (slot : Nat) (s : State) (p_free : m .free = true) (p_out : m .out = true) (p_slots : m .slots = true) (p_records : m .records = true) (p_events : m .events = true) (p_pba : m .pba = true) (p_hostMem : m .hostMem = true) (p_axis : m .axis = true) (p_rein : m .rein = true) (p_cal : m .cal = true) (p_mem : m .mem = true) (hs : Keeps m r s) : OutKeeps m r (execReinLinkState slot s) := by
  unfold execReinLinkState
  repeat' first | intro _ | (with_reducible first | assumption | apply OutKeeps.next | apply OutKeeps.fault | apply ite_outKeeps | apply runCmd_keeps | apply reinLinkState_keeps | apply ite_keeps | apply foldl_keeps) | (with_reducible apply State.keeps_mk <;> first | exact .inr ‹_› | exact .inl rfl | exact .inl ⟨rfl, rfl⟩ | exact .inl ⟨rfl, rfl, rfl⟩ | exact .inl ⟨rfl, rfl, rfl, rfl⟩ | exact .inl ⟨rfl, rfl, rfl, rfl, rfl⟩ | skip) | rfl | exact OtpLe.refl _ | split | (extract_lets; split) | (dsimp +zetaDelta only; split)

theorem linkLocked_keeps (l : Nat) (eye : Nat) (s : State) (p_free : m .free = true) (p_out : m .out = true) (p_slots : m .slots = true) (p_records : m .records = true) (p_events : m .events = true) (p_pba : m .pba = true) (p_hostMem : m .hostMem = true) (p_axis : m .axis = true) (p_rein : m .rein = true) (p_cal : m .cal = true) (p_mem : m .mem = true) (hs : Keeps m r s) : Keeps m r (linkLocked l eye s) := by
  unfold linkLocked
  repeat' first | intro _ | (with_reducible first | assumption | apply State.setLink_keeps | apply setLinkState_keeps | apply serdesEnd_keeps | apply settleUps_keeps | apply ite_keeps | apply foldl_keeps) | (with_reducible apply State.keeps_mk <;> first | exact .inr ‹_› | exact .inl rfl | exact .inl ⟨rfl, rfl⟩ | exact .inl ⟨rfl, rfl, rfl⟩ | exact .inl ⟨rfl, rfl, rfl, rfl⟩ | exact .inl ⟨rfl, rfl, rfl, rfl, rfl⟩ | skip) | rfl | exact OtpLe.refl _ | split | (extract_lets; split) | (dsimp +zetaDelta only; split)

theorem execAdaptationTimeout_keeps (link : Nat) (s : State) (p_free : m .free = true) (p_out : m .out = true) (p_slots : m .slots = true) (p_records : m .records = true) (p_events : m .events = true) (p_pba : m .pba = true) (p_hostMem : m .hostMem = true) (p_axis : m .axis = true) (p_rein : m .rein = true) (p_cal : m .cal = true) (p_mem : m .mem = true) (hs : Keeps m r s) : OutKeeps m r (execAdaptationTimeout link s) := by
  unfold execAdaptationTimeout
  repeat' first | intro _ | (with_reducible first | assumption | apply OutKeeps.next | apply OutKeeps.fault | apply ite_outKeeps | apply setLinkState_keeps | apply serdesEnd_keeps | apply settleUps_keeps | apply ite_keeps | apply foldl_keeps) | (with_reducible apply State.keeps_mk <;> first | exact .inr ‹_› | exact .inl rfl | exact .inl ⟨rfl, rfl⟩ | exact .inl ⟨rfl, rfl, rfl⟩ | exact .inl ⟨rfl, rfl, rfl, rfl⟩ | exact .inl ⟨rfl, rfl, rfl, rfl, rfl⟩ | skip) | rfl | exact OtpLe.refl _ | split | (extract_lets; split) | (dsimp +zetaDelta only; split)

theorem execAdaptationDone_keeps (link : Nat) (eye : Nat) (s : State) (p_free : m .free = true) (p_out : m .out = true) (p_slots : m .slots = true) (p_records : m .records = true) (p_events : m .events = true) (p_pba : m .pba = true) (p_hostMem : m .hostMem = true) (p_axis : m .axis = true) (p_rein : m .rein = true) (p_cal : m .cal = true) (p_mem : m .mem = true) (hs : Keeps m r s) : OutKeeps m r (execAdaptationDone link eye s) := by
  unfold execAdaptationDone
  repeat' first | intro _ | (with_reducible first | assumption | apply OutKeeps.next | apply OutKeeps.fault | apply ite_outKeeps | apply linkLocked_keeps | apply ite_keeps | apply foldl_keeps) | (with_reducible apply State.keeps_mk <;> first | exact .inr ‹_› | exact .inl rfl | exact .inl ⟨rfl, rfl⟩ | exact .inl ⟨rfl, rfl, rfl⟩ | exact .inl ⟨rfl, rfl, rfl, rfl⟩ | exact .inl ⟨rfl, rfl, rfl, rfl, rfl⟩ | skip) | rfl | exact OtpLe.refl _ | split | (extract_lets; split) | (dsimp +zetaDelta only; split)

theorem markHalted_keeps (s : State) (p_frames : m .frames = true) (hs : Keeps m r s) : Keeps m r (markHalted s) := by
  unfold markHalted
  repeat' first | intro _ | (with_reducible first | assumption | apply State.withFrames_keeps | apply ite_keeps | apply foldl_keeps) | (with_reducible apply State.keeps_mk <;> first | exact .inr ‹_› | exact .inl rfl | exact .inl ⟨rfl, rfl⟩ | exact .inl ⟨rfl, rfl, rfl⟩ | exact .inl ⟨rfl, rfl, rfl, rfl⟩ | exact .inl ⟨rfl, rfl, rfl, rfl, rfl⟩ | skip) | rfl | exact OtpLe.refl _ | split | (extract_lets; split) | (dsimp +zetaDelta only; split)

theorem partialHalter_keeps (s : State) (p_out : m .out = true) (p_pba : m .pba = true) (p_frames : m .frames = true) (hs : Keeps m r s) : Keeps m r (partialHalter s) := by
  unfold partialHalter
  repeat' first | intro _ | (with_reducible first | assumption | apply raiseMsix_keeps | apply markHalted_keeps | apply ite_keeps | apply foldl_keeps) | (with_reducible apply State.keeps_mk <;> first | exact .inr ‹_› | exact .inl rfl | exact .inl ⟨rfl, rfl⟩ | exact .inl ⟨rfl, rfl, rfl⟩ | exact .inl ⟨rfl, rfl, rfl, rfl⟩ | exact .inl ⟨rfl, rfl, rfl, rfl, rfl⟩ | skip) | rfl | exact OtpLe.refl _ | split | (extract_lets; split) | (dsimp +zetaDelta only; split)

theorem execBlockLockLost_keeps (link : Nat) (s : State) (p_out : m .out = true) (p_events : m .events = true) (p_pba : m .pba = true) (p_hostMem : m .hostMem = true) (p_frames : m .frames = true) (p_rein : m .rein = true) (p_cal : m .cal = true) (hs : Keeps m r s) : OutKeeps m r (execBlockLockLost link s) := by
  unfold execBlockLockLost
  repeat' first | intro _ | (with_reducible first | assumption | apply OutKeeps.next | apply OutKeeps.fault | apply ite_outKeeps | apply State.setLink_keeps | apply setLinkState_keeps | apply serdesBegin_keeps | apply partialHalter_keeps | apply ite_keeps | apply foldl_keeps) | (with_reducible apply State.keeps_mk <;> first | exact .inr ‹_› | exact .inl rfl | exact .inl ⟨rfl, rfl⟩ | exact .inl ⟨rfl, rfl, rfl⟩ | exact .inl ⟨rfl, rfl, rfl, rfl⟩ | exact .inl ⟨rfl, rfl, rfl, rfl, rfl⟩ | skip) | rfl | exact OtpLe.refl _ | split | (extract_lets; split) | (dsimp +zetaDelta only; split)

theorem execReinEnumerate_keeps (slot : Nat) (s : State) (p_out : m .out = true) (p_slots : m .slots = true) (p_records : m .records = true) (p_rein : m .rein = true) (hs : Keeps m r s) : OutKeeps m r (execReinEnumerate slot s) := by
  unfold execReinEnumerate
  repeat' first | intro _ | (with_reducible first | assumption | apply OutKeeps.next | apply OutKeeps.fault | apply ite_outKeeps | apply resourceBusy_keeps | apply runCmd_keeps | apply sendFrame_keeps | apply ite_keeps | apply foldl_keeps) | split | (extract_lets; split) | (with_reducible apply State.keeps_mk <;> first | exact .inr ‹_› | exact .inl rfl | exact .inl ⟨rfl, rfl⟩ | exact .inl ⟨rfl, rfl, rfl⟩ | exact .inl ⟨rfl, rfl, rfl, rfl⟩ | exact .inl ⟨rfl, rfl, rfl, rfl, rfl⟩ | skip) | rfl | exact OtpLe.refl _ | split | (extract_lets; split) | (dsimp +zetaDelta only; split)

theorem writeCable_keeps (endB : Bool) (n : Nat) (c : Nat) (s : State) (p_out : m .out = true) (p_rein : m .rein = true) (hs : Keeps m r s) : Keeps m r (writeCable endB n c s) := by
  unfold writeCable
  repeat' first | intro _ | (with_reducible first | assumption | apply nodeRegWrite_keeps | apply ite_keeps | apply foldl_keeps) | (with_reducible apply State.keeps_mk <;> first | exact .inr ‹_› | exact .inl rfl | exact .inl ⟨rfl, rfl⟩ | exact .inl ⟨rfl, rfl, rfl⟩ | exact .inl ⟨rfl, rfl, rfl, rfl⟩ | exact .inl ⟨rfl, rfl, rfl, rfl, rfl⟩ | skip) | rfl | exact OtpLe.refl _ | split | (extract_lets; split) | (dsimp +zetaDelta only; split)

theorem notFound_keeps (l : Nat) (gone : Nat → Bool) (s : State) (p_rein : m .rein = true) (hs : Keeps m r s) : Keeps m r (notFound l gone s) := by
  unfold notFound
  repeat' first | intro _ | (with_reducible first | assumption | apply ite_keeps | apply foldl_keeps) | (with_reducible apply State.keeps_mk <;> first | exact .inr ‹_› | exact .inl rfl | exact .inl ⟨rfl, rfl⟩ | exact .inl ⟨rfl, rfl, rfl⟩ | exact .inl ⟨rfl, rfl, rfl, rfl⟩ | exact .inl ⟨rfl, rfl, rfl, rfl, rfl⟩ | skip) | rfl | exact OtpLe.refl _ | split | (extract_lets; split) | (dsimp +zetaDelta only; split)

theorem enumerateLink_keeps (run : EnumRun) (claim : Option Nat) (rs : List EnumResp) (rtts : List (Nat × Nat)) (l : Nat) (s : State) (p_out : m .out = true) (p_events : m .events = true) (p_pba : m .pba = true) (p_hostMem : m .hostMem = true) (p_fire : m .fire = true) (p_rein : m .rein = true) (hs : Keeps m r s) : Keeps m r (enumerateLink run claim rs rtts l s) := by
  unfold enumerateLink
  repeat' first | intro _ | (with_reducible first | assumption | apply raise_keeps | apply State.setLink_keeps | apply State.setNode_keeps | apply sendBlock_keeps | apply sendFrame_keeps | apply nodeRegWrite_keeps | apply State.setBanks_keeps | apply haltNodes_keeps | apply setLinkState_keeps | apply writeCable_keeps | apply notFound_keeps | apply ite_keeps | apply foldl_keeps) | split | (extract_lets; split) | (with_reducible apply State.keeps_mk <;> first | exact .inr ‹_› | exact .inl rfl | exact .inl ⟨rfl, rfl⟩ | exact .inl ⟨rfl, rfl, rfl⟩ | exact .inl ⟨rfl, rfl, rfl, rfl⟩ | exact .inl ⟨rfl, rfl, rfl, rfl, rfl⟩ | skip) | rfl | exact OtpLe.refl _ | split | (extract_lets; split) | (dsimp +zetaDelta only; split)

theorem finishEnum_keeps (run : EnumRun) (rx : List (Nat × List Byte)) (rtts : List (Nat × Nat × Nat)) (s0 : State) (p_out : m .out = true) (p_slots : m .slots = true) (p_records : m .records = true) (p_events : m .events = true) (p_pba : m .pba = true) (p_hostMem : m .hostMem = true) (p_fire : m .fire = true) (p_rein : m .rein = true) (hs0 : Keeps m r s0) : Keeps m r (finishEnum run rx rtts s0) := by
  unfold finishEnum
  repeat' first | intro _ | (with_reducible first | assumption | apply complete_keeps | apply badParam_keeps | apply State.setLink_keeps | apply setLinkState_keeps | apply notFound_keeps | apply enumerateLink_keeps | apply ite_keeps | apply foldl_keeps) | split | (extract_lets; split) | (with_reducible apply State.keeps_mk <;> first | exact .inr ‹_› | exact .inl rfl | exact .inl ⟨rfl, rfl⟩ | exact .inl ⟨rfl, rfl, rfl⟩ | exact .inl ⟨rfl, rfl, rfl, rfl⟩ | exact .inl ⟨rfl, rfl, rfl, rfl, rfl⟩ | skip) | rfl | exact OtpLe.refl _ | split | (extract_lets; split) | (dsimp +zetaDelta only; split)

theorem execEnumCollectExpiry_keeps (slot : Nat) (rx : List (Nat × List Byte)) (rtts : List (Nat × Nat × Nat)) (s : State) (p_out : m .out = true) (p_slots : m .slots = true) (p_records : m .records = true) (p_events : m .events = true) (p_pba : m .pba = true) (p_hostMem : m .hostMem = true) (p_fire : m .fire = true) (p_rein : m .rein = true) (hs : Keeps m r s) : OutKeeps m r (execEnumCollectExpiry slot rx rtts s) := by
  unfold execEnumCollectExpiry
  repeat' first | intro _ | (with_reducible first | assumption | apply OutKeeps.next | apply OutKeeps.fault | apply ite_outKeeps | apply finishEnum_keeps | apply ite_keeps | apply foldl_keeps) | split | (extract_lets; split) | (with_reducible apply State.keeps_mk <;> first | exact .inr ‹_› | exact .inl rfl | exact .inl ⟨rfl, rfl⟩ | exact .inl ⟨rfl, rfl, rfl⟩ | exact .inl ⟨rfl, rfl, rfl, rfl⟩ | exact .inl ⟨rfl, rfl, rfl, rfl, rfl⟩ | skip) | rfl | exact OtpLe.refl _ | split | (extract_lets; split) | (dsimp +zetaDelta only; split)

theorem State.setTransfer_keeps (s : State) (k : Nat) (t : Transfer) (p_rein : m .rein = true) (hs : Keeps m r s) : Keeps m r (State.setTransfer s k t) := by
  unfold State.setTransfer
  repeat' first | intro _ | (with_reducible first | assumption | apply ite_keeps | apply foldl_keeps) | (with_reducible apply State.keeps_mk <;> first | exact .inr ‹_› | exact .inl rfl | exact .inl ⟨rfl, rfl⟩ | exact .inl ⟨rfl, rfl, rfl⟩ | exact .inl ⟨rfl, rfl, rfl, rfl⟩ | exact .inl ⟨rfl, rfl, rfl, rfl, rfl⟩ | skip) | rfl | exact OtpLe.refl _ | split | (extract_lets; split) | (dsimp +zetaDelta only; split)

theorem nextPart_keeps (k : Nat) (s : State) (p_out : m .out = true) (p_rein : m .rein = true) (hs : Keeps m r s) : Keeps m r (nextPart k s) := by
  unfold nextPart
  repeat' first | intro _ | (with_reducible first | assumption | apply ctrlRequest_keeps | apply ite_keeps | apply foldl_keeps) | (with_reducible apply State.keeps_mk <;> first | exact .inr ‹_› | exact .inl rfl | exact .inl ⟨rfl, rfl⟩ | exact .inl ⟨rfl, rfl, rfl⟩ | exact .inl ⟨rfl, rfl, rfl, rfl⟩ | exact .inl ⟨rfl, rfl, rfl, rfl, rfl⟩ | skip) | rfl | exact OtpLe.refl _ | split | (extract_lets; split) | (dsimp +zetaDelta only; split)

theorem startTransfer_keeps (write : Bool) (k : Nat) (d : Slot) (s : State) (p_out : m .out = true) (p_rein : m .rein = true) (hs : Keeps m r s) : Keeps m r (startTransfer write k d s) := by
  unfold startTransfer
  repeat' first | intro _ | (with_reducible first | assumption | apply State.setTransfer_keeps | apply nextPart_keeps | apply ite_keeps | apply foldl_keeps) | (with_reducible apply State.keeps_mk <;> first | exact .inr ‹_› | exact .inl rfl | exact .inl ⟨rfl, rfl⟩ | exact .inl ⟨rfl, rfl, rfl⟩ | exact .inl ⟨rfl, rfl, rfl, rfl⟩ | exact .inl ⟨rfl, rfl, rfl, rfl, rfl⟩ | skip) | rfl | exact OtpLe.refl _ | split | (extract_lets; split) | (dsimp +zetaDelta only; split)

theorem execReinNodeRead_keeps (slot : Nat) (s : State) (p_out : m .out = true) (p_slots : m .slots = true) (p_records : m .records = true) (p_rein : m .rein = true) (hs : Keeps m r s) : OutKeeps m r (execReinNodeRead slot s) := by
  unfold execReinNodeRead
  repeat' first | intro _ | (with_reducible first | assumption | apply OutKeeps.next | apply OutKeeps.fault | apply ite_outKeeps | apply runCmd_keeps | apply startTransfer_keeps | apply ite_keeps | apply foldl_keeps) | (with_reducible apply State.keeps_mk <;> first | exact .inr ‹_› | exact .inl rfl | exact .inl ⟨rfl, rfl⟩ | exact .inl ⟨rfl, rfl, rfl⟩ | exact .inl ⟨rfl, rfl, rfl, rfl⟩ | exact .inl ⟨rfl, rfl, rfl, rfl, rfl⟩ | skip) | rfl | exact OtpLe.refl _ | split | (extract_lets; split) | (dsimp +zetaDelta only; split)

theorem execReinNodeWrite_keeps (slot : Nat) (s : State) (p_out : m .out = true) (p_slots : m .slots = true) (p_records : m .records = true) (p_rein : m .rein = true) (hs : Keeps m r s) : OutKeeps m r (execReinNodeWrite slot s) := by
  unfold execReinNodeWrite
  repeat' first | intro _ | (with_reducible first | assumption | apply OutKeeps.next | apply OutKeeps.fault | apply ite_outKeeps | apply runCmd_keeps | apply startTransfer_keeps | apply ite_keeps | apply foldl_keeps) | (with_reducible apply State.keeps_mk <;> first | exact .inr ‹_› | exact .inl rfl | exact .inl ⟨rfl, rfl⟩ | exact .inl ⟨rfl, rfl, rfl⟩ | exact .inl ⟨rfl, rfl, rfl, rfl⟩ | exact .inl ⟨rfl, rfl, rfl, rfl, rfl⟩ | skip) | rfl | exact OtpLe.refl _ | split | (extract_lets; split) | (dsimp +zetaDelta only; split)

theorem transferResp_keeps (k : Nat) (rstatus : Nat) (words : Nat) (data : List Byte) (s : State) (p_out : m .out = true) (p_slots : m .slots = true) (p_records : m .records = true) (p_dram : m .dram = true) (p_poison : m .poison = true) (p_rein : m .rein = true) (hs : Keeps m r s) : Keeps m r (transferResp k rstatus words data s) := by
  unfold transferResp
  repeat' first | intro _ | (with_reducible first | assumption | apply complete_keeps | apply doneWith_keeps | apply badParam_keeps | apply dramStore_keeps | apply State.setTransfer_keeps | apply nextPart_keeps | apply ite_keeps | apply foldl_keeps) | (with_reducible apply State.keeps_mk <;> first | exact .inr ‹_› | exact .inl rfl | exact .inl ⟨rfl, rfl⟩ | exact .inl ⟨rfl, rfl, rfl⟩ | exact .inl ⟨rfl, rfl, rfl, rfl⟩ | exact .inl ⟨rfl, rfl, rfl, rfl, rfl⟩ | skip) | rfl | exact OtpLe.refl _ | split | (extract_lets; split) | (dsimp +zetaDelta only; split)

theorem bankAck_keeps (n : Nat) (tag : Nat) (s : State) (p_out : m .out = true) (p_events : m .events = true) (p_pba : m .pba = true) (p_hostMem : m .hostMem = true) (p_web : m .web = true) (p_frames : m .frames = true) (p_fire : m .fire = true) (hs : Keeps m r s) : Keeps m r (bankAck n tag s) := by
  unfold bankAck
  repeat' first | intro _ | (with_reducible first | assumption | apply State.setBanks_keeps | apply selLate_keeps | apply switchAcked_keeps | apply ite_keeps | apply foldl_keeps) | split | (extract_lets; split) | (with_reducible apply State.keeps_mk <;> first | exact .inr ‹_› | exact .inl rfl | exact .inl ⟨rfl, rfl⟩ | exact .inl ⟨rfl, rfl, rfl⟩ | exact .inl ⟨rfl, rfl, rfl, rfl⟩ | exact .inl ⟨rfl, rfl, rfl, rfl, rfl⟩ | skip) | rfl | exact OtpLe.refl _ | split | (extract_lets; split) | (dsimp +zetaDelta only; split)

theorem transferFailed_keeps (k : Nat) (n : Nat) (s : State) (p_slots : m .slots = true) (p_records : m .records = true) (p_rein : m .rein = true) (hs : Keeps m r s) : Keeps m r (transferFailed k n s) := by
  unfold transferFailed
  repeat' first | intro _ | (with_reducible first | assumption | apply complete_keeps | apply State.setTransfer_keeps | apply ite_keeps | apply foldl_keeps) | (with_reducible apply State.keeps_mk <;> first | exact .inr ‹_› | exact .inl rfl | exact .inl ⟨rfl, rfl⟩ | exact .inl ⟨rfl, rfl, rfl⟩ | exact .inl ⟨rfl, rfl, rfl, rfl⟩ | exact .inl ⟨rfl, rfl, rfl, rfl, rfl⟩ | skip) | rfl | exact OtpLe.refl _ | split | (extract_lets; split) | (dsimp +zetaDelta only; split)

theorem ctrlResponse_keeps (n : Nat) (f : RxFrame) (s : State) (p_out : m .out = true) (p_slots : m .slots = true) (p_records : m .records = true) (p_events : m .events = true) (p_pba : m .pba = true) (p_dram : m .dram = true) (p_poison : m .poison = true) (p_hostMem : m .hostMem = true) (p_web : m .web = true) (p_frames : m .frames = true) (p_fire : m .fire = true) (p_rein : m .rein = true) (hs : Keeps m r s) : Keeps m r (ctrlResponse n f s) := by
  unfold ctrlResponse
  repeat' first | intro _ | (with_reducible first | assumption | apply State.setNode_keeps | apply pumpReqs_keeps | apply transferResp_keeps | apply bankAck_keeps | apply ite_keeps | apply foldl_keeps) | split | (extract_lets; split) | (with_reducible apply State.keeps_mk <;> first | exact .inr ‹_› | exact .inl rfl | exact .inl ⟨rfl, rfl⟩ | exact .inl ⟨rfl, rfl, rfl⟩ | exact .inl ⟨rfl, rfl, rfl, rfl⟩ | exact .inl ⟨rfl, rfl, rfl, rfl, rfl⟩ | skip) | rfl | exact OtpLe.refl _ | split | (extract_lets; split) | (dsimp +zetaDelta only; split)

theorem badFrame_keeps (l : Nat) (bytes : List Byte) (s : State) (p_rein : m .rein = true) (hs : Keeps m r s) : Keeps m r (badFrame l bytes s) := by
  unfold badFrame
  repeat' first | intro _ | (with_reducible first | assumption | apply State.setLink_keeps | apply ite_keeps | apply foldl_keeps) | (with_reducible apply State.keeps_mk <;> first | exact .inr ‹_› | exact .inl rfl | exact .inl ⟨rfl, rfl⟩ | exact .inl ⟨rfl, rfl, rfl⟩ | exact .inl ⟨rfl, rfl, rfl, rfl⟩ | exact .inl ⟨rfl, rfl, rfl, rfl, rfl⟩ | skip) | rfl | exact OtpLe.refl _ | split | (extract_lets; split) | (dsimp +zetaDelta only; split)

theorem execCtrlRespRx_keeps (link : Nat) (bytes : List Byte) (s : State) (p_out : m .out = true) (p_slots : m .slots = true) (p_records : m .records = true) (p_events : m .events = true) (p_pba : m .pba = true) (p_dram : m .dram = true) (p_poison : m .poison = true) (p_hostMem : m .hostMem = true) (p_web : m .web = true) (p_frames : m .frames = true) (p_fire : m .fire = true) (p_rein : m .rein = true) (hs : Keeps m r s) : OutKeeps m r (execCtrlRespRx link bytes s) := by
  unfold execCtrlRespRx
  repeat' first | intro _ | (with_reducible first | assumption | apply OutKeeps.next | apply OutKeeps.fault | apply ite_outKeeps | apply ctrlResponse_keeps | apply badFrame_keeps | apply ite_keeps | apply foldl_keeps) | split | (extract_lets; split) | (with_reducible apply State.keeps_mk <;> first | exact .inr ‹_› | exact .inl rfl | exact .inl ⟨rfl, rfl⟩ | exact .inl ⟨rfl, rfl, rfl⟩ | exact .inl ⟨rfl, rfl, rfl, rfl⟩ | exact .inl ⟨rfl, rfl, rfl, rfl, rfl⟩ | skip) | rfl | exact OtpLe.refl _ | split | (extract_lets; split) | (dsimp +zetaDelta only; split)

theorem bankRetry_keeps (n : Nat) (s : State) (p_fire : m .fire = true) (hs : Keeps m r s) : Keeps m r (bankRetry n s) := by
  unfold bankRetry
  repeat' first | intro _ | (with_reducible first | assumption | apply State.setBanks_keeps | apply ite_keeps | apply foldl_keeps) | split | (extract_lets; split) | (with_reducible apply State.keeps_mk <;> first | exact .inr ‹_› | exact .inl rfl | exact .inl ⟨rfl, rfl⟩ | exact .inl ⟨rfl, rfl, rfl⟩ | exact .inl ⟨rfl, rfl, rfl, rfl⟩ | exact .inl ⟨rfl, rfl, rfl, rfl, rfl⟩ | skip) | rfl | exact OtpLe.refl _ | split | (extract_lets; split) | (dsimp +zetaDelta only; split)

theorem execCtrlRetryTimeout_keeps (node : Nat) (tag : Nat) (s : State) (p_out : m .out = true) (p_slots : m .slots = true) (p_records : m .records = true) (p_fire : m .fire = true) (p_rein : m .rein = true) (hs : Keeps m r s) : OutKeeps m r (execCtrlRetryTimeout node tag s) := by
  unfold execCtrlRetryTimeout
  repeat' first | intro _ | (with_reducible first | assumption | apply OutKeeps.next | apply OutKeeps.fault | apply ite_outKeeps | apply State.setLink_keeps | apply State.setNode_keeps | apply sendFrame_keeps | apply pumpReqs_keeps | apply transferFailed_keeps | apply bankRetry_keeps | apply ite_keeps | apply foldl_keeps) | split | (extract_lets; split) | (with_reducible apply State.keeps_mk <;> first | exact .inr ‹_› | exact .inl rfl | exact .inl ⟨rfl, rfl⟩ | exact .inl ⟨rfl, rfl, rfl⟩ | exact .inl ⟨rfl, rfl, rfl, rfl⟩ | exact .inl ⟨rfl, rfl, rfl, rfl, rfl⟩ | skip) | rfl | exact OtpLe.refl _ | split | (extract_lets; split) | (dsimp +zetaDelta only; split)

theorem countBlank_keeps (n : Nat) (k : Nat) (s : State) (p_frames : m .frames = true) (p_rein : m .rein = true) (hs : Keeps m r s) : Keeps m r (countBlank n k s) := by
  unfold countBlank
  repeat' first | intro _ | (with_reducible first | assumption | apply State.setNode_keeps | apply State.updFrame_keeps | apply ite_keeps | apply foldl_keeps) | split | (extract_lets; split) | (with_reducible apply State.keeps_mk <;> first | exact .inr ‹_› | exact .inl rfl | exact .inl ⟨rfl, rfl⟩ | exact .inl ⟨rfl, rfl, rfl⟩ | exact .inl ⟨rfl, rfl, rfl, rfl⟩ | exact .inl ⟨rfl, rfl, rfl, rfl, rfl⟩ | skip) | rfl | exact OtpLe.refl _ | split | (extract_lets; split) | (dsimp +zetaDelta only; split)

theorem markOverflow_keeps (n : Nat) (a : Nat) (b : Nat) (s : State) (p_frames : m .frames = true) (hs : Keeps m r s) : Keeps m r (markOverflow n a b s) := by
  unfold markOverflow
  repeat' first | intro _ | (with_reducible first | assumption | apply State.updFrame_keeps | apply ite_keeps | apply foldl_keeps) | (with_reducible apply State.keeps_mk <;> first | exact .inr ‹_› | exact .inl rfl | exact .inl ⟨rfl, rfl⟩ | exact .inl ⟨rfl, rfl, rfl⟩ | exact .inl ⟨rfl, rfl, rfl, rfl⟩ | exact .inl ⟨rfl, rfl, rfl, rfl, rfl⟩ | skip) | rfl | exact OtpLe.refl _ | split | (extract_lets; split) | (dsimp +zetaDelta only; split)

theorem reportLast_keeps (n : Nat) (s : State) (p_frames : m .frames = true) (hs : Keeps m r s) : Keeps m r (reportLast n s) := by
  unfold reportLast
  repeat' first | intro _ | (with_reducible first | assumption | apply State.withFrames_keeps | apply ite_keeps | apply foldl_keeps) | (with_reducible apply State.keeps_mk <;> first | exact .inr ‹_› | exact .inl rfl | exact .inl ⟨rfl, rfl⟩ | exact .inl ⟨rfl, rfl, rfl⟩ | exact .inl ⟨rfl, rfl, rfl, rfl⟩ | exact .inl ⟨rfl, rfl, rfl, rfl, rfl⟩ | skip) | rfl | exact OtpLe.refl _ | split | (extract_lets; split) | (dsimp +zetaDelta only; split)

theorem compareClaims_keeps (n : Nat) (s : State) (p_out : m .out = true) (p_events : m .events = true) (p_pba : m .pba = true) (p_hostMem : m .hostMem = true) (p_rein : m .rein = true) (hs : Keeps m r s) : Keeps m r (compareClaims n s) := by
  unfold compareClaims
  repeat' first | intro _ | (with_reducible first | assumption | apply raise_keeps | apply setLinkState_keeps | apply ite_keeps | apply foldl_keeps) | (with_reducible apply State.keeps_mk <;> first | exact .inr ‹_› | exact .inl rfl | exact .inl ⟨rfl, rfl⟩ | exact .inl ⟨rfl, rfl, rfl⟩ | exact .inl ⟨rfl, rfl, rfl, rfl⟩ | exact .inl ⟨rfl, rfl, rfl, rfl, rfl⟩ | skip) | rfl | exact OtpLe.refl _ | split | (extract_lets; split) | (dsimp +zetaDelta only; split)

theorem nodeFaultEvent_keeps (n : Nat) (old : Nat) (new : Nat) (s : State) (p_out : m .out = true) (p_events : m .events = true) (p_pba : m .pba = true) (p_hostMem : m .hostMem = true) (hs : Keeps m r s) : Keeps m r (nodeFaultEvent n old new s) := by
  unfold nodeFaultEvent
  repeat' first | intro _ | (with_reducible first | assumption | apply raise_keeps | apply ite_keeps | apply foldl_keeps) | (with_reducible apply State.keeps_mk <;> first | exact .inr ‹_› | exact .inl rfl | exact .inl ⟨rfl, rfl⟩ | exact .inl ⟨rfl, rfl, rfl⟩ | exact .inl ⟨rfl, rfl, rfl, rfl⟩ | exact .inl ⟨rfl, rfl, rfl, rfl, rfl⟩ | skip) | rfl | exact OtpLe.refl _ | split | (extract_lets; split) | (dsimp +zetaDelta only; split)

theorem overtempHalts_keeps (n : Nat) (just : Bool) (s0 : State) (p_out : m .out = true) (p_pba : m .pba = true) (p_frames : m .frames = true) (hs0 : Keeps m r s0) : Keeps m r (overtempHalts n just s0) := by
  unfold overtempHalts
  repeat' first | intro _ | (with_reducible first | assumption | apply raiseMsix_keeps | apply State.updFrame_keeps | apply ite_keeps | apply foldl_keeps) | (with_reducible apply State.keeps_mk <;> first | exact .inr ‹_› | exact .inl rfl | exact .inl ⟨rfl, rfl⟩ | exact .inl ⟨rfl, rfl, rfl⟩ | exact .inl ⟨rfl, rfl, rfl, rfl⟩ | exact .inl ⟨rfl, rfl, rfl, rfl, rfl⟩ | skip) | rfl | exact OtpLe.refl _ | split | (extract_lets; split) | (dsimp +zetaDelta only; split)

theorem statusFrame_keeps (n : Nat) (body : List Byte) (s : State) (p_out : m .out = true) (p_events : m .events = true) (p_pba : m .pba = true) (p_hostMem : m .hostMem = true) (p_frames : m .frames = true) (p_rein : m .rein = true) (hs : Keeps m r s) : Keeps m r (statusFrame n body s) := by
  unfold statusFrame
  repeat' first | intro _ | (with_reducible first | assumption | apply State.setNode_keeps | apply countBlank_keeps | apply markOverflow_keeps | apply reportLast_keeps | apply compareClaims_keeps | apply nodeFaultEvent_keeps | apply overtempHalts_keeps | apply ite_keeps | apply foldl_keeps) | (with_reducible apply State.keeps_mk <;> first | exact .inr ‹_› | exact .inl rfl | exact .inl ⟨rfl, rfl⟩ | exact .inl ⟨rfl, rfl, rfl⟩ | exact .inl ⟨rfl, rfl, rfl, rfl⟩ | exact .inl ⟨rfl, rfl, rfl, rfl, rfl⟩ | skip) | rfl | exact OtpLe.refl _ | split | (extract_lets; split) | (dsimp +zetaDelta only; split)

theorem execNodeSilent_keeps (node : Nat) (s : State) (p_out : m .out = true) (p_events : m .events = true) (p_pba : m .pba = true) (p_hostMem : m .hostMem = true) (p_rein : m .rein = true) (hs : Keeps m r s) : OutKeeps m r (execNodeSilent node s) := by
  unfold execNodeSilent
  repeat' first | intro _ | (with_reducible first | assumption | apply OutKeeps.next | apply OutKeeps.fault | apply ite_outKeeps | apply raise_keeps | apply State.setNode_keeps | apply ite_keeps | apply foldl_keeps) | (with_reducible apply State.keeps_mk <;> first | exact .inr ‹_› | exact .inl rfl | exact .inl ⟨rfl, rfl⟩ | exact .inl ⟨rfl, rfl, rfl⟩ | exact .inl ⟨rfl, rfl, rfl, rfl⟩ | exact .inl ⟨rfl, rfl, rfl, rfl, rfl⟩ | skip) | rfl | exact OtpLe.refl _ | split | (extract_lets; split) | (dsimp +zetaDelta only; split)

theorem execHalterRepeat_keeps (node : Nat) (s : State) (p_out : m .out = true) (p_rein : m .rein = true) (hs : Keeps m r s) : OutKeeps m r (execHalterRepeat node s) := by
  unfold execHalterRepeat
  repeat' first | intro _ | (with_reducible first | assumption | apply OutKeeps.next | apply OutKeeps.fault | apply ite_outKeeps | apply State.setNode_keeps | apply sendHold_keeps | apply ite_keeps | apply foldl_keeps) | (with_reducible apply State.keeps_mk <;> first | exact .inr ‹_› | exact .inl rfl | exact .inl ⟨rfl, rfl⟩ | exact .inl ⟨rfl, rfl, rfl⟩ | exact .inl ⟨rfl, rfl, rfl, rfl⟩ | exact .inl ⟨rfl, rfl, rfl, rfl, rfl⟩ | skip) | rfl | exact OtpLe.refl _ | split | (extract_lets; split) | (dsimp +zetaDelta only; split)

end Sys2Proof.Machine
end

