-- ==== Sys2Proof/Laws/KeepsLfScan.lean ====
section
/-! SUPPORT. `Keeps` for the definitions of Machine/LfScan.lean, one lemma for each. -/

set_option linter.all false
set_option Elab.async false
set_option maxRecDepth 4000
namespace Sys2Proof.Machine

variable {m : Part → Bool} {r : State}

theorem writePanels_keeps (hold : Bool) (s : State) (p_out : m .out = true) (p_rein : m .rein = true) (p_scan : m .scan = true) (hs : Keeps m r s) : Keeps m r (writePanels hold s) := by
  unfold writePanels
  repeat' first | intro _ | (with_reducible first | assumption | apply nodeRegWrite_keeps | apply State.withScan_keeps | apply ite_keeps | apply foldl_keeps) | (with_reducible apply State.keeps_mk <;> first | exact .inr ‹_› | exact .inl rfl | exact .inl ⟨rfl, rfl⟩ | exact .inl ⟨rfl, rfl, rfl⟩ | exact .inl ⟨rfl, rfl, rfl, rfl⟩ | exact .inl ⟨rfl, rfl, rfl, rfl, rfl⟩ | skip) | rfl | exact OtpLe.refl _ | split | (extract_lets; split) | (dsimp +zetaDelta only; split)

theorem takeBuffer_keeps (f : FrameNo) (s : State) (p_frames : m .frames = true) (p_scan : m .scan = true) (hs : Keeps m r s) : Keeps m r (takeBuffer f s) := by
  unfold takeBuffer
  repeat' first | intro _ | (with_reducible first | assumption | apply State.updFrame_keeps | apply State.withScan_keeps | apply ite_keeps | apply foldl_keeps) | split | (extract_lets; split) | (with_reducible apply State.keeps_mk <;> first | exact .inr ‹_› | exact .inl rfl | exact .inl ⟨rfl, rfl⟩ | exact .inl ⟨rfl, rfl, rfl⟩ | exact .inl ⟨rfl, rfl, rfl, rfl⟩ | exact .inl ⟨rfl, rfl, rfl, rfl, rfl⟩ | skip) | rfl | exact OtpLe.refl _ | split | (extract_lets; split) | (dsimp +zetaDelta only; split)

theorem giveBack_keeps (f : FrameNo) (s : State) (p_frames : m .frames = true) (p_scan : m .scan = true) (hs : Keeps m r s) : Keeps m r (giveBack f s) := by
  unfold giveBack
  repeat' first | intro _ | (with_reducible first | assumption | apply State.withFrames_keeps | apply State.updFrame_keeps | apply State.withScan_keeps | apply ite_keeps | apply foldl_keeps) | split | (extract_lets; split) | (with_reducible apply State.keeps_mk <;> first | exact .inr ‹_› | exact .inl rfl | exact .inl ⟨rfl, rfl⟩ | exact .inl ⟨rfl, rfl, rfl⟩ | exact .inl ⟨rfl, rfl, rfl, rfl⟩ | exact .inl ⟨rfl, rfl, rfl, rfl, rfl⟩ | skip) | rfl | exact OtpLe.refl _ | split | (extract_lets; split) | (dsimp +zetaDelta only; split)

theorem startLfRender_keeps (engine : Nat) (x : Band) (s0 : State) (p_frames : m .frames = true) (p_scan : m .scan = true) (hs0 : Keeps m r s0) : Keeps m r (startLfRender engine x s0) := by
  unfold startLfRender
  repeat' first | intro _ | (with_reducible first | assumption | apply State.withFrames_keeps | apply takeBuffer_keeps | apply ite_keeps | apply foldl_keeps) | (with_reducible apply State.keeps_mk <;> first | exact .inr ‹_› | exact .inl rfl | exact .inl ⟨rfl, rfl⟩ | exact .inl ⟨rfl, rfl, rfl⟩ | exact .inl ⟨rfl, rfl, rfl, rfl⟩ | exact .inl ⟨rfl, rfl, rfl, rfl, rfl⟩ | skip) | rfl | exact OtpLe.refl _ | split | (extract_lets; split) | (dsimp +zetaDelta only; split)

theorem noteLfSlack_keeps (x : Band) (s : State) (p_out : m .out = true) (p_events : m .events = true) (p_pba : m .pba = true) (p_hostMem : m .hostMem = true) (p_prn : m .prn = true) (hs : Keeps m r s) : Keeps m r (noteLfSlack x s) := by
  unfold noteLfSlack
  repeat' first | intro _ | (with_reducible first | assumption | apply raise_keeps | apply ite_keeps | apply foldl_keeps) | (with_reducible apply State.keeps_mk <;> first | exact .inr ‹_› | exact .inl rfl | exact .inl ⟨rfl, rfl⟩ | exact .inl ⟨rfl, rfl, rfl⟩ | exact .inl ⟨rfl, rfl, rfl, rfl⟩ | exact .inl ⟨rfl, rfl, rfl, rfl, rfl⟩ | skip) | rfl | exact OtpLe.refl _ | split | (extract_lets; split) | (dsimp +zetaDelta only; split)

theorem endLfRender_keeps (x : Band) (s0 : State) (p_out : m .out = true) (p_events : m .events = true) (p_pba : m .pba = true) (p_hostMem : m .hostMem = true) (p_frames : m .frames = true) (p_prn : m .prn = true) (hs0 : Keeps m r s0) : Keeps m r (endLfRender x s0) := by
  unfold endLfRender
  repeat' first | intro _ | (with_reducible first | assumption | apply State.withFrames_keeps | apply recheck_keeps | apply noteBusy_keeps | apply noteRender_keeps | apply noteLfSlack_keeps | apply ite_keeps | apply foldl_keeps) | (with_reducible apply State.keeps_mk <;> first | exact .inr ‹_› | exact .inl rfl | exact .inl ⟨rfl, rfl⟩ | exact .inl ⟨rfl, rfl, rfl⟩ | exact .inl ⟨rfl, rfl, rfl, rfl⟩ | exact .inl ⟨rfl, rfl, rfl, rfl, rfl⟩ | skip) | rfl | exact OtpLe.refl _ | split | (extract_lets; split) | (dsimp +zetaDelta only; split)

theorem State.setScanFeeder_keeps (s : State) (l : Nat) (x : ScanFeeder) (p_scan : m .scan = true) (hs : Keeps m r s) : Keeps m r (State.setScanFeeder s l x) := by
  unfold State.setScanFeeder
  repeat' first | intro _ | (with_reducible first | assumption | apply State.withScan_keeps | apply ite_keeps | apply foldl_keeps) | (with_reducible apply State.keeps_mk <;> first | exact .inr ‹_› | exact .inl rfl | exact .inl ⟨rfl, rfl⟩ | exact .inl ⟨rfl, rfl, rfl⟩ | exact .inl ⟨rfl, rfl, rfl, rfl⟩ | exact .inl ⟨rfl, rfl, rfl, rfl, rfl⟩ | skip) | rfl | exact OtpLe.refl _ | split | (extract_lets; split) | (dsimp +zetaDelta only; split)

theorem feedLf_keeps (f : FrameNo) (k : Nat) (rows : List (List Nat)) (bad : List Nat) (at' : Option Nat) (s : State) (p_scan : m .scan = true) (hs : Keeps m r s) : Keeps m r (feedLf f k rows bad at' s) := by
  unfold feedLf
  repeat' first | intro _ | (with_reducible first | assumption | apply State.setScanFeeder_keeps | apply ite_keeps | apply foldl_keeps) | (with_reducible apply State.keeps_mk <;> first | exact .inr ‹_› | exact .inl rfl | exact .inl ⟨rfl, rfl⟩ | exact .inl ⟨rfl, rfl, rfl⟩ | exact .inl ⟨rfl, rfl, rfl, rfl⟩ | exact .inl ⟨rfl, rfl, rfl, rfl, rfl⟩ | skip) | rfl | exact OtpLe.refl _ | split | (extract_lets; split) | (dsimp +zetaDelta only; split)

theorem feedRepeat_keeps (f : FrameNo) (k : Nat) (s : State) (p_scan : m .scan = true) (hs : Keeps m r s) : Keeps m r (feedRepeat f k s) := by
  unfold feedRepeat
  repeat' first | intro _ | (with_reducible first | assumption | apply feedLf_keeps | apply ite_keeps | apply foldl_keeps) | (with_reducible apply State.keeps_mk <;> first | exact .inr ‹_› | exact .inl rfl | exact .inl ⟨rfl, rfl⟩ | exact .inl ⟨rfl, rfl, rfl⟩ | exact .inl ⟨rfl, rfl, rfl, rfl⟩ | exact .inl ⟨rfl, rfl, rfl, rfl, rfl⟩ | skip) | rfl | exact OtpLe.refl _ | split | (extract_lets; split) | (dsimp +zetaDelta only; split)

theorem noteDelivered_keeps (f : FrameNo) (k : Nat) (rows : List (List Nat)) (bad : List Nat) (s : State) (p_scan : m .scan = true) (hs : Keeps m r s) : Keeps m r (noteDelivered f k rows bad s) := by
  unfold noteDelivered
  repeat' first | intro _ | (with_reducible first | assumption | apply State.withScan_keeps | apply ite_keeps | apply foldl_keeps) | split | (extract_lets; split) | (with_reducible apply State.keeps_mk <;> first | exact .inr ‹_› | exact .inl rfl | exact .inl ⟨rfl, rfl⟩ | exact .inl ⟨rfl, rfl, rfl⟩ | exact .inl ⟨rfl, rfl, rfl, rfl⟩ | exact .inl ⟨rfl, rfl, rfl, rfl, rfl⟩ | skip) | rfl | exact OtpLe.refl _ | split | (extract_lets; split) | (dsimp +zetaDelta only; split)

theorem startLfDelivery_keeps (f : FrameNo) (s : State) (p_frames : m .frames = true) (hs : Keeps m r s) : Keeps m r (startLfDelivery f s) := by
  unfold startLfDelivery
  repeat' first | intro _ | (with_reducible first | assumption | apply State.updFrame_keeps | apply startChecks_keeps | apply ite_keeps | apply foldl_keeps) | (with_reducible apply State.keeps_mk <;> first | exact .inr ‹_› | exact .inl rfl | exact .inl ⟨rfl, rfl⟩ | exact .inl ⟨rfl, rfl, rfl⟩ | exact .inl ⟨rfl, rfl, rfl, rfl⟩ | exact .inl ⟨rfl, rfl, rfl, rfl, rfl⟩ | skip) | rfl | exact OtpLe.refl _ | split | (extract_lets; split) | (dsimp +zetaDelta only; split)

theorem openDelivery_keeps (s : State) (p_frames : m .frames = true) (hs : Keeps m r s) : Keeps m r (openDelivery s) := by
  unfold openDelivery
  repeat' first | intro _ | (with_reducible first | assumption | apply startLfDelivery_keeps | apply ite_keeps | apply foldl_keeps) | (with_reducible apply State.keeps_mk <;> first | exact .inr ‹_› | exact .inl rfl | exact .inl ⟨rfl, rfl⟩ | exact .inl ⟨rfl, rfl, rfl⟩ | exact .inl ⟨rfl, rfl, rfl, rfl⟩ | exact .inl ⟨rfl, rfl, rfl, rfl, rfl⟩ | skip) | rfl | exact OtpLe.refl _ | split | (extract_lets; split) | (dsimp +zetaDelta only; split)

theorem runPanels_keeps (s : State) (p_out : m .out = true) (p_rein : m .rein = true) (hs : Keeps m r s) : Keeps m r (runPanels s) := by
  unfold runPanels
  repeat' first | intro _ | (with_reducible first | assumption | apply runNodes_keeps | apply ite_keeps | apply foldl_keeps) | (with_reducible apply State.keeps_mk <;> first | exact .inr ‹_› | exact .inl rfl | exact .inl ⟨rfl, rfl⟩ | exact .inl ⟨rfl, rfl, rfl⟩ | exact .inl ⟨rfl, rfl, rfl, rfl⟩ | exact .inl ⟨rfl, rfl, rfl, rfl, rfl⟩ | skip) | rfl | exact OtpLe.refl _ | split | (extract_lets; split) | (dsimp +zetaDelta only; split)

theorem noteLfBand_keeps (f : FrameNo) (x : Band) (s : State) (p_frames : m .frames = true) (hs : Keeps m r s) : Keeps m r (noteLfBand f x s) := by
  unfold noteLfBand
  repeat' first | intro _ | (with_reducible first | assumption | apply State.updFrame_keeps | apply ite_keeps | apply foldl_keeps) | (with_reducible apply State.keeps_mk <;> first | exact .inr ‹_› | exact .inl rfl | exact .inl ⟨rfl, rfl⟩ | exact .inl ⟨rfl, rfl, rfl⟩ | exact .inl ⟨rfl, rfl, rfl, rfl⟩ | exact .inl ⟨rfl, rfl, rfl, rfl, rfl⟩ | skip) | rfl | exact OtpLe.refl _ | split | (extract_lets; split) | (dsimp +zetaDelta only; split)

theorem takeLfBand_keeps (f : FrameNo) (k : Nat) (s : State) (p_frames : m .frames = true) (hs : Keeps m r s) : Keeps m r (takeLfBand f k s) := by
  unfold takeLfBand
  repeat' first | intro _ | (with_reducible first | assumption | apply State.withFrames_keeps | apply ite_keeps | apply foldl_keeps) | (with_reducible apply State.keeps_mk <;> first | exact .inr ‹_› | exact .inl rfl | exact .inl ⟨rfl, rfl⟩ | exact .inl ⟨rfl, rfl, rfl⟩ | exact .inl ⟨rfl, rfl, rfl, rfl⟩ | exact .inl ⟨rfl, rfl, rfl, rfl, rfl⟩ | skip) | rfl | exact OtpLe.refl _ | split | (extract_lets; split) | (dsimp +zetaDelta only; split)

theorem lfFetch_keeps (s0 : State) (p_out : m .out = true) (p_dev : m .dev = true) (p_events : m .events = true) (p_pba : m .pba = true) (p_hostMem : m .hostMem = true) (p_frames : m .frames = true) (p_rein : m .rein = true) (p_tan : m .tan = true) (p_scan : m .scan = true) (hs0 : Keeps m r s0) : Keeps m r (lfFetch s0) := by
  unfold lfFetch
  repeat' first | intro _ | (with_reducible first | assumption | apply State.withFrames_keeps | apply State.updFrame_keeps | apply firstRelease_keeps | apply shadowLate_keeps | apply takeBuffer_keeps | apply feedLf_keeps | apply feedRepeat_keeps | apply noteDelivered_keeps | apply startLfDelivery_keeps | apply runPanels_keeps | apply noteLfBand_keeps | apply takeLfBand_keeps | apply ite_keeps | apply foldl_keeps) | split | (extract_lets; split) | (with_reducible apply State.keeps_mk <;> first | exact .inr ‹_› | exact .inl rfl | exact .inl ⟨rfl, rfl⟩ | exact .inl ⟨rfl, rfl, rfl⟩ | exact .inl ⟨rfl, rfl, rfl, rfl⟩ | exact .inl ⟨rfl, rfl, rfl, rfl, rfl⟩ | skip) | rfl | exact OtpLe.refl _ | split | (extract_lets; split) | (dsimp +zetaDelta only; split)

theorem sendRow_keeps (l : Nat) (x : ScanRow) (s : State) (p_out : m .out = true) (p_frames : m .frames = true) (p_tan : m .tan = true) (hs : Keeps m r s) : Keeps m r (sendRow l x s) := by
  unfold sendRow
  repeat' first | intro _ | (with_reducible first | assumption | apply sendFrame_keeps | apply noteDrill_keeps | apply State.updFrame_keeps | apply ite_keeps | apply foldl_keeps) | split | (extract_lets; split) | (with_reducible apply State.keeps_mk <;> first | exact .inr ‹_› | exact .inl rfl | exact .inl ⟨rfl, rfl⟩ | exact .inl ⟨rfl, rfl, rfl⟩ | exact .inl ⟨rfl, rfl, rfl, rfl⟩ | exact .inl ⟨rfl, rfl, rfl, rfl, rfl⟩ | skip) | rfl | exact OtpLe.refl _ | split | (extract_lets; split) | (dsimp +zetaDelta only; split)

theorem feedRow_keeps (b : Bool) (f : FrameNo) (r1 : Nat) (s : State) (l : Nat) (p_out : m .out = true) (p_events : m .events = true) (p_pba : m .pba = true) (p_hostMem : m .hostMem = true) (p_frames : m .frames = true) (p_tan : m .tan = true) (p_scan : m .scan = true) (hs : Keeps m r s) : Keeps m r (feedRow b f r1 s l) := by
  unfold feedRow
  repeat' first | intro _ | (with_reducible first | assumption | apply raise_keeps | apply State.updFrame_keeps | apply State.setScanFeeder_keeps | apply sendRow_keeps | apply ite_keeps | apply foldl_keeps) | split | (extract_lets; split) | (with_reducible apply State.keeps_mk <;> first | exact .inr ‹_› | exact .inl rfl | exact .inl ⟨rfl, rfl⟩ | exact .inl ⟨rfl, rfl, rfl⟩ | exact .inl ⟨rfl, rfl, rfl, rfl⟩ | exact .inl ⟨rfl, rfl, rfl, rfl, rfl⟩ | skip) | rfl | exact OtpLe.refl _ | split | (extract_lets; split) | (dsimp +zetaDelta only; split)

theorem sendRowTick_keeps (b : Bool) (f : FrameNo) (r1 : Nat) (s : State) (l : Nat) (p_out : m .out = true) (p_rein : m .rein = true) (hs : Keeps m r s) : Keeps m r (sendRowTick b f r1 s l) := by
  unfold sendRowTick
  repeat' first | intro _ | (with_reducible first | assumption | apply State.setLink_keeps | apply State.setNode_keeps | apply sendBlock_keeps | apply ite_keeps | apply foldl_keeps) | (with_reducible apply State.keeps_mk <;> first | exact .inr ‹_› | exact .inl rfl | exact .inl ⟨rfl, rfl⟩ | exact .inl ⟨rfl, rfl, rfl⟩ | exact .inl ⟨rfl, rfl, rfl, rfl⟩ | exact .inl ⟨rfl, rfl, rfl, rfl, rfl⟩ | skip) | rfl | exact OtpLe.refl _ | split | (extract_lets; split) | (dsimp +zetaDelta only; split)

theorem lastRowTick_keeps (b : Bool) (f : FrameNo) (s : State) (p_frames : m .frames = true) (hs : Keeps m r s) : Keeps m r (lastRowTick b f s) := by
  unfold lastRowTick
  repeat' first | intro _ | (with_reducible first | assumption | apply State.updFrame_keeps | apply ite_keeps | apply foldl_keeps) | (with_reducible apply State.keeps_mk <;> first | exact .inr ‹_› | exact .inl rfl | exact .inl ⟨rfl, rfl⟩ | exact .inl ⟨rfl, rfl, rfl⟩ | exact .inl ⟨rfl, rfl, rfl, rfl⟩ | exact .inl ⟨rfl, rfl, rfl, rfl, rfl⟩ | skip) | rfl | exact OtpLe.refl _ | split | (extract_lets; split) | (dsimp +zetaDelta only; split)

theorem markRowTick_keeps (b : Bool) (f : FrameNo) (r1 : Nat) (s : State) (p_frames : m .frames = true) (hs : Keeps m r s) : Keeps m r (markRowTick b f r1 s) := by
  unfold markRowTick
  repeat' first | intro _ | (with_reducible first | assumption | apply State.updFrame_keeps | apply ite_keeps | apply foldl_keeps) | (with_reducible apply State.keeps_mk <;> first | exact .inr ‹_› | exact .inl rfl | exact .inl ⟨rfl, rfl⟩ | exact .inl ⟨rfl, rfl, rfl⟩ | exact .inl ⟨rfl, rfl, rfl, rfl⟩ | exact .inl ⟨rfl, rfl, rfl, rfl, rfl⟩ | skip) | rfl | exact OtpLe.refl _ | split | (extract_lets; split) | (dsimp +zetaDelta only; split)

theorem rowTick_keeps (b : Bool) (s00 : State) (p_out : m .out = true) (p_events : m .events = true) (p_pba : m .pba = true) (p_hostMem : m .hostMem = true) (p_frames : m .frames = true) (p_rein : m .rein = true) (p_tan : m .tan = true) (p_scan : m .scan = true) (hs00 : Keeps m r s00) : Keeps m r (rowTick b s00) := by
  unfold rowTick
  repeat' first | intro _ | (with_reducible first | assumption | apply endGap_keeps | apply State.withScan_keeps | apply feedRow_keeps | apply sendRowTick_keeps | apply lastRowTick_keeps | apply markRowTick_keeps | apply ite_keeps | apply foldl_keeps) | (with_reducible apply State.keeps_mk <;> first | exact .inr ‹_› | exact .inl rfl | exact .inl ⟨rfl, rfl⟩ | exact .inl ⟨rfl, rfl, rfl⟩ | exact .inl ⟨rfl, rfl, rfl, rfl⟩ | exact .inl ⟨rfl, rfl, rfl, rfl, rfl⟩ | skip) | rfl | exact OtpLe.refl _ | split | (extract_lets; split) | (dsimp +zetaDelta only; split)

theorem execRowTick_keeps (groupB : Bool) (s : State) (p_out : m .out = true) (p_events : m .events = true) (p_pba : m .pba = true) (p_hostMem : m .hostMem = true) (p_frames : m .frames = true) (p_rein : m .rein = true) (p_tan : m .tan = true) (p_scan : m .scan = true) (hs : Keeps m r s) : OutKeeps m r (execRowTick groupB s) := by
  unfold execRowTick
  repeat' first | intro _ | (with_reducible first | assumption | apply OutKeeps.next | apply OutKeeps.fault | apply ite_outKeeps | apply rowTick_keeps | apply ite_keeps | apply foldl_keeps) | (with_reducible apply State.keeps_mk <;> first | exact .inr ‹_› | exact .inl rfl | exact .inl ⟨rfl, rfl⟩ | exact .inl ⟨rfl, rfl, rfl⟩ | exact .inl ⟨rfl, rfl, rfl, rfl⟩ | exact .inl ⟨rfl, rfl, rfl, rfl, rfl⟩ | skip) | rfl | exact OtpLe.refl _ | split | (extract_lets; split) | (dsimp +zetaDelta only; split)

theorem noteTerm_keeps (f : FrameNo) (s : State) (p_scan : m .scan = true) (hs : Keeps m r s) : Keeps m r (noteTerm f s) := by
  unfold noteTerm
  repeat' first | intro _ | (with_reducible first | assumption | apply State.withScan_keeps | apply ite_keeps | apply foldl_keeps) | (with_reducible apply State.keeps_mk <;> first | exact .inr ‹_› | exact .inl rfl | exact .inl ⟨rfl, rfl⟩ | exact .inl ⟨rfl, rfl, rfl⟩ | exact .inl ⟨rfl, rfl, rfl, rfl⟩ | exact .inl ⟨rfl, rfl, rfl, rfl, rfl⟩ | skip) | rfl | exact OtpLe.refl _ | split | (extract_lets; split) | (dsimp +zetaDelta only; split)

theorem haltPanels_keeps (s : State) (p_out : m .out = true) (p_rein : m .rein = true) (hs : Keeps m r s) : Keeps m r (haltPanels s) := by
  unfold haltPanels
  repeat' first | intro _ | (with_reducible first | assumption | apply State.setNode_keeps | apply sendBlock_keeps | apply ite_keeps | apply foldl_keeps) | (with_reducible apply State.keeps_mk <;> first | exact .inr ‹_› | exact .inl rfl | exact .inl ⟨rfl, rfl⟩ | exact .inl ⟨rfl, rfl, rfl⟩ | exact .inl ⟨rfl, rfl, rfl, rfl⟩ | exact .inl ⟨rfl, rfl, rfl, rfl, rfl⟩ | skip) | rfl | exact OtpLe.refl _ | split | (extract_lets; split) | (dsimp +zetaDelta only; split)

theorem scanGone_keeps (s : State) (p_time : m .time = true) (p_frames : m .frames = true) (p_scan : m .scan = true) (hs : Keeps m r s) : Keeps m r (scanGone s) := by
  unfold scanGone
  repeat' first | intro _ | (with_reducible first | assumption | apply State.withFrames_keeps | apply freeTrig_keeps | apply State.withScan_keeps | apply ite_keeps | apply foldl_keeps) | (with_reducible apply State.keeps_mk <;> first | exact .inr ‹_› | exact .inl rfl | exact .inl ⟨rfl, rfl⟩ | exact .inl ⟨rfl, rfl, rfl⟩ | exact .inl ⟨rfl, rfl, rfl, rfl⟩ | exact .inl ⟨rfl, rfl, rfl, rfl, rfl⟩ | skip) | rfl | exact OtpLe.refl _ | split | (extract_lets; split) | (dsimp +zetaDelta only; split)

theorem endLfRuns_keeps (s : State) (p_free : m .free = true) (p_out : m .out = true) (p_slots : m .slots = true) (p_records : m .records = true) (p_events : m .events = true) (p_pba : m .pba = true) (p_hostMem : m .hostMem = true) (p_axis : m .axis = true) (p_cal : m .cal = true) (p_mem : m .mem = true) (hs : Keeps m r s) : Keeps m r (endLfRuns s) := by
  unfold endLfRuns
  repeat' first | intro _ | (with_reducible first | assumption | apply abortRun_keeps | apply ite_keeps | apply foldl_keeps) | (with_reducible apply State.keeps_mk <;> first | exact .inr ‹_› | exact .inl rfl | exact .inl ⟨rfl, rfl⟩ | exact .inl ⟨rfl, rfl, rfl⟩ | exact .inl ⟨rfl, rfl, rfl, rfl⟩ | exact .inl ⟨rfl, rfl, rfl, rfl, rfl⟩ | skip) | rfl | exact OtpLe.refl _ | split | (extract_lets; split) | (dsimp +zetaDelta only; split)

theorem settleStop_keeps (s : State) (p_out : m .out = true) (p_dev : m .dev = true) (p_events : m .events = true) (p_pba : m .pba = true) (p_hostMem : m .hostMem = true) (p_time : m .time = true) (p_frames : m .frames = true) (p_scan : m .scan = true) (hs : Keeps m r s) : Keeps m r (settleStop s) := by
  unfold settleStop
  repeat' first | intro _ | (with_reducible first | assumption | apply raise_keeps | apply setDev_keeps | apply scanGone_keeps | apply ite_keeps | apply foldl_keeps) | (with_reducible apply State.keeps_mk <;> first | exact .inr ‹_› | exact .inl rfl | exact .inl ⟨rfl, rfl⟩ | exact .inl ⟨rfl, rfl, rfl⟩ | exact .inl ⟨rfl, rfl, rfl, rfl⟩ | exact .inl ⟨rfl, rfl, rfl, rfl, rfl⟩ | skip) | rfl | exact OtpLe.refl _ | split | (extract_lets; split) | (dsimp +zetaDelta only; split)

theorem abortFrom_keeps (a : FrameNo) (s : State) (p_out : m .out = true) (p_events : m .events = true) (p_bufs : m .bufs = true) (p_pba : m .pba = true) (p_hostMem : m .hostMem = true) (p_frames : m .frames = true) (hs : Keeps m r s) : Keeps m r (abortFrom a s) := by
  unfold abortFrom
  repeat' first | intro _ | (with_reducible first | assumption | apply abortFrame_keeps | apply dropOpen_keeps | apply ite_keeps | apply foldl_keeps) | (with_reducible apply State.keeps_mk <;> first | exact .inr ‹_› | exact .inl rfl | exact .inl ⟨rfl, rfl⟩ | exact .inl ⟨rfl, rfl, rfl⟩ | exact .inl ⟨rfl, rfl, rfl, rfl⟩ | exact .inl ⟨rfl, rfl, rfl, rfl, rfl⟩ | skip) | rfl | exact OtpLe.refl _ | split | (extract_lets; split) | (dsimp +zetaDelta only; split)

theorem stopScan_keeps (a : FrameNo) (s0 : State) (p_free : m .free = true) (p_out : m .out = true) (p_dev : m .dev = true) (p_slots : m .slots = true) (p_records : m .records = true) (p_events : m .events = true) (p_bufs : m .bufs = true) (p_pba : m .pba = true) (p_hostMem : m .hostMem = true) (p_time : m .time = true) (p_axis : m .axis = true) (p_frames : m .frames = true) (p_rein : m .rein = true) (p_cal : m .cal = true) (p_scan : m .scan = true) (p_mem : m .mem = true) (hs0 : Keeps m r s0) : Keeps m r (stopScan a s0) := by
  unfold stopScan
  repeat' first | intro _ | (with_reducible first | assumption | apply freeTrig_keeps | apply State.withScan_keeps | apply haltPanels_keeps | apply endLfRuns_keeps | apply settleStop_keeps | apply abortFrom_keeps | apply ite_keeps | apply foldl_keeps) | (with_reducible apply State.keeps_mk <;> first | exact .inr ‹_› | exact .inl rfl | exact .inl ⟨rfl, rfl⟩ | exact .inl ⟨rfl, rfl, rfl⟩ | exact .inl ⟨rfl, rfl, rfl, rfl⟩ | exact .inl ⟨rfl, rfl, rfl, rfl, rfl⟩ | skip) | rfl | exact OtpLe.refl _ | split | (extract_lets; split) | (dsimp +zetaDelta only; split)

theorem finishLfFrame_keeps (f : FrameNo) (s : State) (p_out : m .out = true) (p_dev : m .dev = true) (p_events : m .events = true) (p_bufs : m .bufs = true) (p_pba : m .pba = true) (p_hostMem : m .hostMem = true) (p_time : m .time = true) (p_frames : m .frames = true) (p_scan : m .scan = true) (hs : Keeps m r s) : Keeps m r (finishLfFrame f s) := by
  unfold finishLfFrame
  repeat' first | intro _ | (with_reducible first | assumption | apply completeFrame_keeps | apply pruneCommits_keeps | apply noteTerm_keeps | apply settleStop_keeps | apply ite_keeps | apply foldl_keeps) | (with_reducible apply State.keeps_mk <;> first | exact .inr ‹_› | exact .inl rfl | exact .inl ⟨rfl, rfl⟩ | exact .inl ⟨rfl, rfl, rfl⟩ | exact .inl ⟨rfl, rfl, rfl, rfl⟩ | exact .inl ⟨rfl, rfl, rfl, rfl, rfl⟩ | skip) | rfl | exact OtpLe.refl _ | split | (extract_lets; split) | (dsimp +zetaDelta only; split)

theorem frameTick_keeps (f : FrameNo) (s : State) (p_free : m .free = true) (p_out : m .out = true) (p_dev : m .dev = true) (p_slots : m .slots = true) (p_records : m .records = true) (p_events : m .events = true) (p_bufs : m .bufs = true) (p_pba : m .pba = true) (p_hostMem : m .hostMem = true) (p_time : m .time = true) (p_axis : m .axis = true) (p_frames : m .frames = true) (p_rein : m .rein = true) (p_cal : m .cal = true) (p_scan : m .scan = true) (p_mem : m .mem = true) (hs : Keeps m r s) : Keeps m r (frameTick f s) := by
  unfold frameTick
  repeat' first | intro _ | (with_reducible first | assumption | apply stamp_keeps | apply stopScan_keeps | apply ite_keeps | apply foldl_keeps) | (with_reducible apply State.keeps_mk <;> first | exact .inr ‹_› | exact .inl rfl | exact .inl ⟨rfl, rfl⟩ | exact .inl ⟨rfl, rfl, rfl⟩ | exact .inl ⟨rfl, rfl, rfl, rfl⟩ | exact .inl ⟨rfl, rfl, rfl, rfl, rfl⟩ | skip) | rfl | exact OtpLe.refl _ | split | (extract_lets; split) | (dsimp +zetaDelta only; split)

end Sys2Proof.Machine
end

