-- ==== Sys2Proof/Laws/KeepsRings.lean ====
section
/-! SUPPORT. `Keeps` for the definitions of Machine/Rings.lean, one lemma for each. -/

set_option linter.all false
set_option Elab.async false
set_option maxRecDepth 4000
namespace Sys2Proof.Machine

variable {m : Part → Bool} {r : State}

theorem State.setCmdRing_keeps (s : State) (n : Nat) (r1 : CmdRing) (p_rings : m .rings = true) (hs : Keeps m r s) : Keeps m r (State.setCmdRing s n r1) := by
  unfold State.setCmdRing
  repeat' first | intro _ | (with_reducible first | assumption | apply ite_keeps | apply foldl_keeps) | (with_reducible apply State.keeps_mk <;> first | exact .inr ‹_› | exact .inl rfl | exact .inl ⟨rfl, rfl⟩ | exact .inl ⟨rfl, rfl, rfl⟩ | exact .inl ⟨rfl, rfl, rfl, rfl⟩ | exact .inl ⟨rfl, rfl, rfl, rfl, rfl⟩ | skip) | rfl | exact OtpLe.refl _ | split | (extract_lets; split) | (dsimp +zetaDelta only; split)

theorem writeCrCfg_keeps (n : Nat) (v : Word) (s : State) (p_conflicts : m .conflicts = true) (p_rings : m .rings = true) (hs : Keeps m r s) : Keeps m r (writeCrCfg n v s) := by
  unfold writeCrCfg
  repeat' first | intro _ | (with_reducible first | assumption | apply regConflict_keeps | apply State.setCmdRing_keeps | apply ite_keeps | apply foldl_keeps) | (with_reducible apply State.keeps_mk <;> first | exact .inr ‹_› | exact .inl rfl | exact .inl ⟨rfl, rfl⟩ | exact .inl ⟨rfl, rfl, rfl⟩ | exact .inl ⟨rfl, rfl, rfl, rfl⟩ | exact .inl ⟨rfl, rfl, rfl, rfl, rfl⟩ | skip) | rfl | exact OtpLe.refl _ | split | (extract_lets; split) | (dsimp +zetaDelta only; split)

theorem execCmdRingEnable_keeps (n : Nat) (v : Word) (s : State) (p_conflicts : m .conflicts = true) (p_rings : m .rings = true) (hs : Keeps m r s) : OutKeeps m r (execCmdRingEnable n v s) := by
  unfold execCmdRingEnable
  repeat' first | intro _ | (with_reducible first | assumption | apply OutKeeps.next | apply OutKeeps.fault | apply ite_outKeeps | apply writeCrCfg_keeps | apply ite_keeps | apply foldl_keeps) | (with_reducible apply State.keeps_mk <;> first | exact .inr ‹_› | exact .inl rfl | exact .inl ⟨rfl, rfl⟩ | exact .inl ⟨rfl, rfl, rfl⟩ | exact .inl ⟨rfl, rfl, rfl, rfl⟩ | exact .inl ⟨rfl, rfl, rfl, rfl, rfl⟩ | skip) | rfl | exact OtpLe.refl _ | split | (extract_lets; split) | (dsimp +zetaDelta only; split)

theorem execCmdRingDisable_keeps (n : Nat) (v : Word) (s : State) (p_conflicts : m .conflicts = true) (p_rings : m .rings = true) (hs : Keeps m r s) : OutKeeps m r (execCmdRingDisable n v s) := by
  unfold execCmdRingDisable
  repeat' first | intro _ | (with_reducible first | assumption | apply OutKeeps.next | apply OutKeeps.fault | apply ite_outKeeps | apply writeCrCfg_keeps | apply ite_keeps | apply foldl_keeps) | (with_reducible apply State.keeps_mk <;> first | exact .inr ‹_› | exact .inl rfl | exact .inl ⟨rfl, rfl⟩ | exact .inl ⟨rfl, rfl, rfl⟩ | exact .inl ⟨rfl, rfl, rfl, rfl⟩ | exact .inl ⟨rfl, rfl, rfl, rfl, rfl⟩ | skip) | rfl | exact OtpLe.refl _ | split | (extract_lets; split) | (dsimp +zetaDelta only; split)

theorem execCmdRingResize_keeps (n : Nat) (v : Word) (s : State) (p_conflicts : m .conflicts = true) (p_rings : m .rings = true) (hs : Keeps m r s) : OutKeeps m r (execCmdRingResize n v s) := by
  unfold execCmdRingResize
  repeat' first | intro _ | (with_reducible first | assumption | apply OutKeeps.next | apply OutKeeps.fault | apply ite_outKeeps | apply writeCrCfg_keeps | apply ite_keeps | apply foldl_keeps) | (with_reducible apply State.keeps_mk <;> first | exact .inr ‹_› | exact .inl rfl | exact .inl ⟨rfl, rfl⟩ | exact .inl ⟨rfl, rfl, rfl⟩ | exact .inl ⟨rfl, rfl, rfl, rfl⟩ | exact .inl ⟨rfl, rfl, rfl, rfl, rfl⟩ | skip) | rfl | exact OtpLe.refl _ | split | (extract_lets; split) | (dsimp +zetaDelta only; split)

theorem execCrDoorbell_keeps (n : Nat) (v : Word) (s : State) (p_conflicts : m .conflicts = true) (p_rings : m .rings = true) (hs : Keeps m r s) : OutKeeps m r (execCrDoorbell n v s) := by
  unfold execCrDoorbell
  repeat' first | intro _ | (with_reducible first | assumption | apply OutKeeps.next | apply OutKeeps.fault | apply ite_outKeeps | apply regConflict_keeps | apply State.setCmdRing_keeps | apply ite_keeps | apply foldl_keeps) | (with_reducible apply State.keeps_mk <;> first | exact .inr ‹_› | exact .inl rfl | exact .inl ⟨rfl, rfl⟩ | exact .inl ⟨rfl, rfl, rfl⟩ | exact .inl ⟨rfl, rfl, rfl, rfl⟩ | exact .inl ⟨rfl, rfl, rfl, rfl, rfl⟩ | skip) | rfl | exact OtpLe.refl _ | split | (extract_lets; split) | (dsimp +zetaDelta only; split)

theorem advanceTurn_keeps (n : Nat) (s : State) (p_rings : m .rings = true) (hs : Keeps m r s) : Keeps m r (advanceTurn n s) := by
  unfold advanceTurn
  repeat' first | intro _ | (with_reducible first | assumption | apply ite_keeps | apply foldl_keeps) | (with_reducible apply State.keeps_mk <;> first | exact .inr ‹_› | exact .inl rfl | exact .inl ⟨rfl, rfl⟩ | exact .inl ⟨rfl, rfl, rfl⟩ | exact .inl ⟨rfl, rfl, rfl, rfl⟩ | exact .inl ⟨rfl, rfl, rfl, rfl, rfl⟩ | skip) | rfl | exact OtpLe.refl _ | split | (extract_lets; split) | (dsimp +zetaDelta only; split)

theorem consumeDescriptor_keeps (n : Nat) (s : State) (p_rings : m .rings = true) (p_dram : m .dram = true) (p_poison : m .poison = true) (hs : Keeps m r s) : Keeps m r (consumeDescriptor n s) := by
  unfold consumeDescriptor
  repeat' first | intro _ | (with_reducible first | assumption | apply dramStore_keeps | apply State.setCmdRing_keeps | apply ite_keeps | apply foldl_keeps) | (with_reducible apply State.keeps_mk <;> first | exact .inr ‹_› | exact .inl rfl | exact .inl ⟨rfl, rfl⟩ | exact .inl ⟨rfl, rfl, rfl⟩ | exact .inl ⟨rfl, rfl, rfl, rfl⟩ | exact .inl ⟨rfl, rfl, rfl, rfl, rfl⟩ | skip) | rfl | exact OtpLe.refl _ | split | (extract_lets; split) | (dsimp +zetaDelta only; split)

theorem fetchFrom_keeps (n : Nat) (s : State) (p_out : m .out = true) (p_rings : m .rings = true) (p_slots : m .slots = true) (p_records : m .records = true) (p_events : m .events = true) (p_pba : m .pba = true) (p_dram : m .dram = true) (p_poison : m .poison = true) (p_hostMem : m .hostMem = true) (hs : Keeps m r s) : Keeps m r (fetchFrom n s) := by
  unfold fetchFrom
  repeat' first | intro _ | (with_reducible first | assumption | apply raise_keeps | apply State.setSlot_keeps | apply sweepBad_keeps | apply State.setCmdRing_keeps | apply advanceTurn_keeps | apply consumeDescriptor_keeps | apply ite_keeps | apply foldl_keeps) | split | (extract_lets; split) | (with_reducible apply State.keeps_mk <;> first | exact .inr ‹_› | exact .inl rfl | exact .inl ⟨rfl, rfl⟩ | exact .inl ⟨rfl, rfl, rfl⟩ | exact .inl ⟨rfl, rfl, rfl, rfl⟩ | exact .inl ⟨rfl, rfl, rfl, rfl, rfl⟩ | skip) | rfl | exact OtpLe.refl _ | split | (extract_lets; split) | (dsimp +zetaDelta only; split)

theorem execDescriptorFetch_keeps (s : State) (p_out : m .out = true) (p_rings : m .rings = true) (p_slots : m .slots = true) (p_records : m .records = true) (p_events : m .events = true) (p_pba : m .pba = true) (p_dram : m .dram = true) (p_poison : m .poison = true) (p_hostMem : m .hostMem = true) (hs : Keeps m r s) : OutKeeps m r (execDescriptorFetch s) := by
  unfold execDescriptorFetch
  repeat' first | intro _ | (with_reducible first | assumption | apply OutKeeps.next | apply OutKeeps.fault | apply ite_outKeeps | apply fetchFrom_keeps | apply ite_keeps | apply foldl_keeps) | split | (extract_lets; split) | (with_reducible apply State.keeps_mk <;> first | exact .inr ‹_› | exact .inl rfl | exact .inl ⟨rfl, rfl⟩ | exact .inl ⟨rfl, rfl, rfl⟩ | exact .inl ⟨rfl, rfl, rfl, rfl⟩ | exact .inl ⟨rfl, rfl, rfl, rfl, rfl⟩ | skip) | rfl | exact OtpLe.refl _ | split | (extract_lets; split) | (dsimp +zetaDelta only; split)

theorem writeCompletion_keeps (n : Nat) (s : State) (p_out : m .out = true) (p_slots : m .slots = true) (p_records : m .records = true) (p_pba : m .pba = true) (p_hostMem : m .hostMem = true) (hs : Keeps m r s) : Keeps m r (writeCompletion n s) := by
  unfold writeCompletion
  repeat' first | intro _ | (with_reducible first | assumption | apply raiseMsix_keeps | apply hostStore_keeps | apply State.setCpl_keeps | apply State.setSlot_keeps | apply ite_keeps | apply foldl_keeps) | split | (extract_lets; split) | (with_reducible apply State.keeps_mk <;> first | exact .inr ‹_› | exact .inl rfl | exact .inl ⟨rfl, rfl⟩ | exact .inl ⟨rfl, rfl, rfl⟩ | exact .inl ⟨rfl, rfl, rfl, rfl⟩ | exact .inl ⟨rfl, rfl, rfl, rfl, rfl⟩ | skip) | rfl | exact OtpLe.refl _ | split | (extract_lets; split) | (dsimp +zetaDelta only; split)

theorem flushCpl_keeps (n : Nat) (a1 : Nat) (a2 : State) (p_out : m .out = true) (p_slots : m .slots = true) (p_records : m .records = true) (p_pba : m .pba = true) (p_hostMem : m .hostMem = true) (ha2 : Keeps m r a2) : Keeps m r (flushCpl n a1 a2) := by
  induction a1 generalizing a2 with
  | zero => exact ha2
  | succ k ih =>
    unfold flushCpl
    repeat' first | with_reducible apply ih | intro _ | (with_reducible first | assumption | apply writeCompletion_keeps | apply ite_keeps | apply foldl_keeps) | (with_reducible apply State.keeps_mk <;> first | exact .inr ‹_› | exact .inl rfl | exact .inl ⟨rfl, rfl⟩ | exact .inl ⟨rfl, rfl, rfl⟩ | exact .inl ⟨rfl, rfl, rfl, rfl⟩ | exact .inl ⟨rfl, rfl, rfl, rfl, rfl⟩ | skip) | rfl | exact OtpLe.refl _ | split | (extract_lets; split) | (dsimp +zetaDelta only; split)

theorem execCompletionRecordWrite_keeps (n : Nat) (s : State) (p_out : m .out = true) (p_slots : m .slots = true) (p_records : m .records = true) (p_pba : m .pba = true) (p_hostMem : m .hostMem = true) (hs : Keeps m r s) : OutKeeps m r (execCompletionRecordWrite n s) := by
  unfold execCompletionRecordWrite
  repeat' first | intro _ | (with_reducible first | assumption | apply OutKeeps.next | apply OutKeeps.fault | apply ite_outKeeps | apply writeCompletion_keeps | apply ite_keeps | apply foldl_keeps) | (with_reducible apply State.keeps_mk <;> first | exact .inr ‹_› | exact .inl rfl | exact .inl ⟨rfl, rfl⟩ | exact .inl ⟨rfl, rfl, rfl⟩ | exact .inl ⟨rfl, rfl, rfl, rfl⟩ | exact .inl ⟨rfl, rfl, rfl, rfl, rfl⟩ | skip) | rfl | exact OtpLe.refl _ | split | (extract_lets; split) | (dsimp +zetaDelta only; split)

theorem writeCplCfg_keeps (n : Nat) (v : Word) (s : State) (p_out : m .out = true) (p_conflicts : m .conflicts = true) (p_slots : m .slots = true) (p_records : m .records = true) (p_pba : m .pba = true) (p_hostMem : m .hostMem = true) (hs : Keeps m r s) : Keeps m r (writeCplCfg n v s) := by
  unfold writeCplCfg
  repeat' first | intro _ | (with_reducible first | assumption | apply State.setCpl_keeps | apply regConflict_keeps | apply flushCpl_keeps | apply ite_keeps | apply foldl_keeps) | (with_reducible apply State.keeps_mk <;> first | exact .inr ‹_› | exact .inl rfl | exact .inl ⟨rfl, rfl⟩ | exact .inl ⟨rfl, rfl, rfl⟩ | exact .inl ⟨rfl, rfl, rfl, rfl⟩ | exact .inl ⟨rfl, rfl, rfl, rfl, rfl⟩ | skip) | rfl | exact OtpLe.refl _ | split | (extract_lets; split) | (dsimp +zetaDelta only; split)

theorem execCplRingEnable_keeps (n : Nat) (v : Word) (s : State) (p_out : m .out = true) (p_conflicts : m .conflicts = true) (p_slots : m .slots = true) (p_records : m .records = true) (p_pba : m .pba = true) (p_hostMem : m .hostMem = true) (hs : Keeps m r s) : OutKeeps m r (execCplRingEnable n v s) := by
  unfold execCplRingEnable
  repeat' first | intro _ | (with_reducible first | assumption | apply OutKeeps.next | apply OutKeeps.fault | apply ite_outKeeps | apply writeCplCfg_keeps | apply ite_keeps | apply foldl_keeps) | (with_reducible apply State.keeps_mk <;> first | exact .inr ‹_› | exact .inl rfl | exact .inl ⟨rfl, rfl⟩ | exact .inl ⟨rfl, rfl, rfl⟩ | exact .inl ⟨rfl, rfl, rfl, rfl⟩ | exact .inl ⟨rfl, rfl, rfl, rfl, rfl⟩ | skip) | rfl | exact OtpLe.refl _ | split | (extract_lets; split) | (dsimp +zetaDelta only; split)

theorem execCplRingDisable_keeps (n : Nat) (v : Word) (s : State) (p_out : m .out = true) (p_conflicts : m .conflicts = true) (p_slots : m .slots = true) (p_records : m .records = true) (p_pba : m .pba = true) (p_hostMem : m .hostMem = true) (hs : Keeps m r s) : OutKeeps m r (execCplRingDisable n v s) := by
  unfold execCplRingDisable
  repeat' first | intro _ | (with_reducible first | assumption | apply OutKeeps.next | apply OutKeeps.fault | apply ite_outKeeps | apply writeCplCfg_keeps | apply ite_keeps | apply foldl_keeps) | (with_reducible apply State.keeps_mk <;> first | exact .inr ‹_› | exact .inl rfl | exact .inl ⟨rfl, rfl⟩ | exact .inl ⟨rfl, rfl, rfl⟩ | exact .inl ⟨rfl, rfl, rfl, rfl⟩ | exact .inl ⟨rfl, rfl, rfl, rfl, rfl⟩ | skip) | rfl | exact OtpLe.refl _ | split | (extract_lets; split) | (dsimp +zetaDelta only; split)

theorem execCplRingConfig_keeps (n : Nat) (v : Word) (s : State) (p_out : m .out = true) (p_conflicts : m .conflicts = true) (p_slots : m .slots = true) (p_records : m .records = true) (p_pba : m .pba = true) (p_hostMem : m .hostMem = true) (hs : Keeps m r s) : OutKeeps m r (execCplRingConfig n v s) := by
  unfold execCplRingConfig
  repeat' first | intro _ | (with_reducible first | assumption | apply OutKeeps.next | apply OutKeeps.fault | apply ite_outKeeps | apply writeCplCfg_keeps | apply ite_keeps | apply foldl_keeps) | (with_reducible apply State.keeps_mk <;> first | exact .inr ‹_› | exact .inl rfl | exact .inl ⟨rfl, rfl⟩ | exact .inl ⟨rfl, rfl, rfl⟩ | exact .inl ⟨rfl, rfl, rfl, rfl⟩ | exact .inl ⟨rfl, rfl, rfl, rfl, rfl⟩ | skip) | rfl | exact OtpLe.refl _ | split | (extract_lets; split) | (dsimp +zetaDelta only; split)

theorem writeEvtCfg_keeps (v : Word) (s : State) (p_conflicts : m .conflicts = true) (p_events : m .events = true) (hs : Keeps m r s) : Keeps m r (writeEvtCfg v s) := by
  unfold writeEvtCfg
  repeat' first | intro _ | (with_reducible first | assumption | apply State.setEvt_keeps | apply regConflict_keeps | apply ite_keeps | apply foldl_keeps) | (with_reducible apply State.keeps_mk <;> first | exact .inr ‹_› | exact .inl rfl | exact .inl ⟨rfl, rfl⟩ | exact .inl ⟨rfl, rfl, rfl⟩ | exact .inl ⟨rfl, rfl, rfl, rfl⟩ | exact .inl ⟨rfl, rfl, rfl, rfl, rfl⟩ | skip) | rfl | exact OtpLe.refl _ | split | (extract_lets; split) | (dsimp +zetaDelta only; split)

theorem drainOne_keeps (s : State) (p_out : m .out = true) (p_events : m .events = true) (p_pba : m .pba = true) (p_hostMem : m .hostMem = true) (hs : Keeps m r s) : Keeps m r (drainOne s) := by
  unfold drainOne
  repeat' first | intro _ | (with_reducible first | assumption | apply writeEvent_keeps | apply ite_keeps | apply foldl_keeps) | split | (extract_lets; split) | (with_reducible apply State.keeps_mk <;> first | exact .inr ‹_› | exact .inl rfl | exact .inl ⟨rfl, rfl⟩ | exact .inl ⟨rfl, rfl, rfl⟩ | exact .inl ⟨rfl, rfl, rfl, rfl⟩ | exact .inl ⟨rfl, rfl, rfl, rfl, rfl⟩ | skip) | rfl | exact OtpLe.refl _ | split | (extract_lets; split) | (dsimp +zetaDelta only; split)

theorem execEvtRingEnable_keeps (v : Word) (s : State) (p_out : m .out = true) (p_conflicts : m .conflicts = true) (p_events : m .events = true) (p_pba : m .pba = true) (p_hostMem : m .hostMem = true) (hs : Keeps m r s) : OutKeeps m r (execEvtRingEnable v s) := by
  unfold execEvtRingEnable
  repeat' first | intro _ | (with_reducible first | assumption | apply OutKeeps.next | apply OutKeeps.fault | apply ite_outKeeps | apply writeEvtCfg_keeps | apply drainOne_keeps | apply ite_keeps | apply foldl_keeps) | (with_reducible apply State.keeps_mk <;> first | exact .inr ‹_› | exact .inl rfl | exact .inl ⟨rfl, rfl⟩ | exact .inl ⟨rfl, rfl, rfl⟩ | exact .inl ⟨rfl, rfl, rfl, rfl⟩ | exact .inl ⟨rfl, rfl, rfl, rfl, rfl⟩ | skip) | rfl | exact OtpLe.refl _ | split | (extract_lets; split) | (dsimp +zetaDelta only; split)

theorem execEvtRingDisable_keeps (v : Word) (s : State) (p_conflicts : m .conflicts = true) (p_events : m .events = true) (hs : Keeps m r s) : OutKeeps m r (execEvtRingDisable v s) := by
  unfold execEvtRingDisable
  repeat' first | intro _ | (with_reducible first | assumption | apply OutKeeps.next | apply OutKeeps.fault | apply ite_outKeeps | apply writeEvtCfg_keeps | apply ite_keeps | apply foldl_keeps) | (with_reducible apply State.keeps_mk <;> first | exact .inr ‹_› | exact .inl rfl | exact .inl ⟨rfl, rfl⟩ | exact .inl ⟨rfl, rfl, rfl⟩ | exact .inl ⟨rfl, rfl, rfl, rfl⟩ | exact .inl ⟨rfl, rfl, rfl, rfl, rfl⟩ | skip) | rfl | exact OtpLe.refl _ | split | (extract_lets; split) | (dsimp +zetaDelta only; split)

theorem execEvtRingConfig_keeps (v : Word) (s : State) (p_conflicts : m .conflicts = true) (p_events : m .events = true) (hs : Keeps m r s) : OutKeeps m r (execEvtRingConfig v s) := by
  unfold execEvtRingConfig
  repeat' first | intro _ | (with_reducible first | assumption | apply OutKeeps.next | apply OutKeeps.fault | apply ite_outKeeps | apply writeEvtCfg_keeps | apply ite_keeps | apply foldl_keeps) | (with_reducible apply State.keeps_mk <;> first | exact .inr ‹_› | exact .inl rfl | exact .inl ⟨rfl, rfl⟩ | exact .inl ⟨rfl, rfl, rfl⟩ | exact .inl ⟨rfl, rfl, rfl, rfl⟩ | exact .inl ⟨rfl, rfl, rfl, rfl, rfl⟩ | skip) | rfl | exact OtpLe.refl _ | split | (extract_lets; split) | (dsimp +zetaDelta only; split)

theorem execEventBacklogDrain_keeps (s : State) (p_out : m .out = true) (p_events : m .events = true) (p_pba : m .pba = true) (p_hostMem : m .hostMem = true) (hs : Keeps m r s) : OutKeeps m r (execEventBacklogDrain s) := by
  unfold execEventBacklogDrain
  repeat' first | intro _ | (with_reducible first | assumption | apply OutKeeps.next | apply OutKeeps.fault | apply ite_outKeeps | apply drainOne_keeps | apply ite_keeps | apply foldl_keeps) | (with_reducible apply State.keeps_mk <;> first | exact .inr ‹_› | exact .inl rfl | exact .inl ⟨rfl, rfl⟩ | exact .inl ⟨rfl, rfl, rfl⟩ | exact .inl ⟨rfl, rfl, rfl, rfl⟩ | exact .inl ⟨rfl, rfl, rfl, rfl, rfl⟩ | skip) | rfl | exact OtpLe.refl _ | split | (extract_lets; split) | (dsimp +zetaDelta only; split)

theorem execCplPtrHeadWrite_keeps (n : Nat) (v : Word) (s : State) (p_conflicts : m .conflicts = true) (p_records : m .records = true) (hs : Keeps m r s) : OutKeeps m r (execCplPtrHeadWrite n v s) := by
  unfold execCplPtrHeadWrite
  repeat' first | intro _ | (with_reducible first | assumption | apply OutKeeps.next | apply OutKeeps.fault | apply ite_outKeeps | apply State.setCpl_keeps | apply regConflict_keeps | apply ite_keeps | apply foldl_keeps) | (with_reducible apply State.keeps_mk <;> first | exact .inr ‹_› | exact .inl rfl | exact .inl ⟨rfl, rfl⟩ | exact .inl ⟨rfl, rfl, rfl⟩ | exact .inl ⟨rfl, rfl, rfl, rfl⟩ | exact .inl ⟨rfl, rfl, rfl, rfl, rfl⟩ | skip) | rfl | exact OtpLe.refl _ | split | (extract_lets; split) | (dsimp +zetaDelta only; split)

theorem execEvtPtrHeadWrite_keeps (v : Word) (s : State) (p_conflicts : m .conflicts = true) (p_events : m .events = true) (hs : Keeps m r s) : OutKeeps m r (execEvtPtrHeadWrite v s) := by
  unfold execEvtPtrHeadWrite
  repeat' first | intro _ | (with_reducible first | assumption | apply OutKeeps.next | apply OutKeeps.fault | apply ite_outKeeps | apply State.setEvt_keeps | apply regConflict_keeps | apply ite_keeps | apply foldl_keeps) | (with_reducible apply State.keeps_mk <;> first | exact .inr ‹_› | exact .inl rfl | exact .inl ⟨rfl, rfl⟩ | exact .inl ⟨rfl, rfl, rfl⟩ | exact .inl ⟨rfl, rfl, rfl, rfl⟩ | exact .inl ⟨rfl, rfl, rfl, rfl, rfl⟩ | skip) | rfl | exact OtpLe.refl _ | split | (extract_lets; split) | (dsimp +zetaDelta only; split)

theorem execCoalesceTimerExpiry_keeps (n : Nat) (s : State) (p_out : m .out = true) (p_records : m .records = true) (p_events : m .events = true) (p_pba : m .pba = true) (hs : Keeps m r s) : OutKeeps m r (execCoalesceTimerExpiry n s) := by
  unfold execCoalesceTimerExpiry
  repeat' first | intro _ | (with_reducible first | assumption | apply OutKeeps.next | apply OutKeeps.fault | apply ite_outKeeps | apply raiseMsix_keeps | apply State.setCpl_keeps | apply State.setEvt_keeps | apply ite_keeps | apply foldl_keeps) | (with_reducible apply State.keeps_mk <;> first | exact .inr ‹_› | exact .inl rfl | exact .inl ⟨rfl, rfl⟩ | exact .inl ⟨rfl, rfl, rfl⟩ | exact .inl ⟨rfl, rfl, rfl, rfl⟩ | exact .inl ⟨rfl, rfl, rfl, rfl, rfl⟩ | skip) | rfl | exact OtpLe.refl _ | split | (extract_lets; split) | (dsimp +zetaDelta only; split)

end Sys2Proof.Machine
end

