-- ==== Sys2Proof/Laws/KeepsTimeCmd.lean ====
section
/-! SUPPORT. `Keeps` for the definitions of Machine/TimeCmd.lean, one lemma for each. -/

set_option linter.all false
set_option Elab.async false
set_option maxRecDepth 4000
namespace Sys2Proof.Machine

variable {m : Part → Bool} {r : State}

theorem setServo_keeps (v : Servo) (s : State) (p_out : m .out = true) (p_events : m .events = true) (p_pba : m .pba = true) (p_hostMem : m .hostMem = true) (p_time : m .time = true) (hs : Keeps m r s) : Keeps m r (setServo v s) := by
  unfold setServo
  repeat' first | intro _ | (with_reducible first | assumption | apply raise_keeps | apply State.withTime_keeps | apply ite_keeps | apply foldl_keeps) | exact .inr ‹_› | exact .inr (fun _ => ⟨rfl, rfl⟩) | exact .inl ‹_› | (with_reducible apply State.keeps_mk <;> first | exact .inr ‹_› | exact .inl rfl | exact .inl ⟨rfl, rfl⟩ | exact .inl ⟨rfl, rfl, rfl⟩ | exact .inl ⟨rfl, rfl, rfl, rfl⟩ | exact .inl ⟨rfl, rfl, rfl, rfl, rfl⟩ | skip) | rfl | exact OtpLe.refl _ | split | (extract_lets; split) | (dsimp +zetaDelta only; split)

theorem trigDone_keeps (u : Nat) (s : State) (p_out : m .out = true) (p_events : m .events = true) (p_pba : m .pba = true) (p_hostMem : m .hostMem = true) (p_time : m .time = true) (hs : Keeps m r s) : Keeps m r (trigDone u s) := by
  unfold trigDone
  repeat' first | intro _ | (with_reducible first | assumption | apply raise_keeps | apply State.setTrig_keeps | apply ite_keeps | apply foldl_keeps) | (with_reducible apply State.keeps_mk <;> first | exact .inr ‹_› | exact .inl rfl | exact .inl ⟨rfl, rfl⟩ | exact .inl ⟨rfl, rfl, rfl⟩ | exact .inl ⟨rfl, rfl, rfl, rfl⟩ | exact .inl ⟨rfl, rfl, rfl, rfl, rfl⟩ | skip) | rfl | exact OtpLe.refl _ | split | (extract_lets; split) | (dsimp +zetaDelta only; split)

theorem missFirings_keeps (s : State) (u : Nat) (p_out : m .out = true) (p_events : m .events = true) (p_pba : m .pba = true) (p_hostMem : m .hostMem = true) (p_time : m .time = true) (hs : Keeps m r s) : Keeps m r (missFirings s u) := by
  unfold missFirings
  repeat' first | intro _ | (with_reducible first | assumption | apply raise_keeps | apply State.setTrig_keeps | apply trigDone_keeps | apply ite_keeps | apply foldl_keeps) | (with_reducible apply State.keeps_mk <;> first | exact .inr ‹_› | exact .inl rfl | exact .inl ⟨rfl, rfl⟩ | exact .inl ⟨rfl, rfl, rfl⟩ | exact .inl ⟨rfl, rfl, rfl, rfl⟩ | exact .inl ⟨rfl, rfl, rfl, rfl, rfl⟩ | skip) | rfl | exact OtpLe.refl _ | split | (extract_lets; split) | (dsimp +zetaDelta only; split)

theorem stepTime_keeps (d : Int) (s : State) (p_free : m .free = true) (p_out : m .out = true) (p_events : m .events = true) (p_pba : m .pba = true) (p_hostMem : m .hostMem = true) (p_clock : m .clock = true) (p_time : m .time = true) (hs : Keeps m r s) : Keeps m r (stepTime d s) := by
  unfold stepTime
  repeat' first | intro _ | (with_reducible first | assumption | apply State.useFree_keeps | apply raise_keeps | apply State.withTime_keeps | apply missFirings_keeps | apply ite_keeps | apply foldl_keeps) | exact .inr ‹_› | exact .inr (fun _ => ⟨rfl, rfl⟩) | exact .inl ‹_› | (with_reducible apply State.keeps_mk <;> first | exact .inr ‹_› | exact .inl rfl | exact .inl ⟨rfl, rfl⟩ | exact .inl ⟨rfl, rfl, rfl⟩ | exact .inl ⟨rfl, rfl, rfl, rfl⟩ | exact .inl ⟨rfl, rfl, rfl, rfl, rfl⟩ | skip) | rfl | exact OtpLe.refl _ | split | (extract_lets; split) | (dsimp +zetaDelta only; split)

theorem portEvent_keeps (p : Nat) (s : State) (p_out : m .out = true) (p_events : m .events = true) (p_pba : m .pba = true) (p_hostMem : m .hostMem = true) (hs : Keeps m r s) : Keeps m r (portEvent p s) := by
  unfold portEvent
  repeat' first | intro _ | (with_reducible first | assumption | apply raise_keeps | apply ite_keeps | apply foldl_keeps) | (with_reducible apply State.keeps_mk <;> first | exact .inr ‹_› | exact .inl rfl | exact .inl ⟨rfl, rfl⟩ | exact .inl ⟨rfl, rfl, rfl⟩ | exact .inl ⟨rfl, rfl, rfl, rfl⟩ | exact .inl ⟨rfl, rfl, rfl, rfl, rfl⟩ | skip) | rfl | exact OtpLe.refl _ | split | (extract_lets; split) | (dsimp +zetaDelta only; split)

theorem setPtp_keeps (p : Nat) (v : PortState) (s : State) (p_out : m .out = true) (p_events : m .events = true) (p_pba : m .pba = true) (p_hostMem : m .hostMem = true) (p_time : m .time = true) (hs : Keeps m r s) : Keeps m r (setPtp p v s) := by
  unfold setPtp
  repeat' first | intro _ | (with_reducible first | assumption | apply State.setPort_keeps | apply portEvent_keeps | apply ite_keeps | apply foldl_keeps) | (with_reducible apply State.keeps_mk <;> first | exact .inr ‹_› | exact .inl rfl | exact .inl ⟨rfl, rfl⟩ | exact .inl ⟨rfl, rfl, rfl⟩ | exact .inl ⟨rfl, rfl, rfl, rfl⟩ | exact .inl ⟨rfl, rfl, rfl, rfl, rfl⟩ | skip) | rfl | exact OtpLe.refl _ | split | (extract_lets; split) | (dsimp +zetaDelta only; split)

theorem freeServo_keeps (s : State) (p_out : m .out = true) (p_events : m .events = true) (p_pba : m .pba = true) (p_hostMem : m .hostMem = true) (p_time : m .time = true) (hs : Keeps m r s) : Keeps m r (freeServo s) := by
  unfold freeServo
  repeat' first | intro _ | (with_reducible first | assumption | apply setServo_keeps | apply ite_keeps | apply foldl_keeps) | (with_reducible apply State.keeps_mk <;> first | exact .inr ‹_› | exact .inl rfl | exact .inl ⟨rfl, rfl⟩ | exact .inl ⟨rfl, rfl, rfl⟩ | exact .inl ⟨rfl, rfl, rfl, rfl⟩ | exact .inl ⟨rfl, rfl, rfl, rfl, rfl⟩ | skip) | rfl | exact OtpLe.refl _ | split | (extract_lets; split) | (dsimp +zetaDelta only; split)

theorem configurePort_keeps (p : Nat) (c : PortCfg) (s : State) (p_out : m .out = true) (p_events : m .events = true) (p_pba : m .pba = true) (p_hostMem : m .hostMem = true) (p_time : m .time = true) (hs : Keeps m r s) : Keeps m r (configurePort p c s) := by
  unfold configurePort
  repeat' first | intro _ | (with_reducible first | assumption | apply State.setPort_keeps | apply portEvent_keeps | apply freeServo_keeps | apply ite_keeps | apply foldl_keeps) | (with_reducible apply State.keeps_mk <;> first | exact .inr ‹_› | exact .inl rfl | exact .inl ⟨rfl, rfl⟩ | exact .inl ⟨rfl, rfl, rfl⟩ | exact .inl ⟨rfl, rfl, rfl, rfl⟩ | exact .inl ⟨rfl, rfl, rfl, rfl, rfl⟩ | skip) | rfl | exact OtpLe.refl _ | split | (extract_lets; split) | (dsimp +zetaDelta only; split)

theorem execTimePortConfig_keeps (slot : Nat) (s : State) (p_free : m .free = true) (p_out : m .out = true) (p_slots : m .slots = true) (p_records : m .records = true) (p_events : m .events = true) (p_pba : m .pba = true) (p_hostMem : m .hostMem = true) (p_clock : m .clock = true) (p_time : m .time = true) (hs : Keeps m r s) : OutKeeps m r (execTimePortConfig slot s) := by
  unfold execTimePortConfig
  repeat' first | intro _ | (with_reducible first | assumption | apply OutKeeps.next | apply OutKeeps.fault | apply ite_outKeeps | apply done_keeps | apply resourceBusy_keeps | apply runCmd_keeps | apply State.withTime_keeps | apply stepTime_keeps | apply configurePort_keeps | apply ite_keeps | apply foldl_keeps) | exact .inr ‹_› | exact .inr (fun _ => ⟨rfl, rfl⟩) | exact .inl ‹_› | (with_reducible apply State.keeps_mk <;> first | exact .inr ‹_› | exact .inl rfl | exact .inl ⟨rfl, rfl⟩ | exact .inl ⟨rfl, rfl, rfl⟩ | exact .inl ⟨rfl, rfl, rfl, rfl⟩ | exact .inl ⟨rfl, rfl, rfl, rfl, rfl⟩ | skip) | rfl | exact OtpLe.refl _ | split | (extract_lets; split) | (dsimp +zetaDelta only; split)

theorem execTimeTrigger_keeps (slot : Nat) (s : State) (p_out : m .out = true) (p_slots : m .slots = true) (p_records : m .records = true) (p_time : m .time = true) (hs : Keeps m r s) : OutKeeps m r (execTimeTrigger slot s) := by
  unfold execTimeTrigger
  repeat' first | intro _ | (with_reducible first | assumption | apply OutKeeps.next | apply OutKeeps.fault | apply ite_outKeeps | apply State.emit_keeps | apply done_keeps | apply resourceBusy_keeps | apply runCmd_keeps | apply State.setTrig_keeps | apply takeTrig_keeps | apply freeTrig_keeps | apply ite_keeps | apply foldl_keeps) | split | (extract_lets; split) | (with_reducible apply State.keeps_mk <;> first | exact .inr ‹_› | exact .inl rfl | exact .inl ⟨rfl, rfl⟩ | exact .inl ⟨rfl, rfl, rfl⟩ | exact .inl ⟨rfl, rfl, rfl, rfl⟩ | exact .inl ⟨rfl, rfl, rfl, rfl, rfl⟩ | skip) | rfl | exact OtpLe.refl _ | split | (extract_lets; split) | (dsimp +zetaDelta only; split)

theorem execTimeCapture_keeps (slot : Nat) (s : State) (p_slots : m .slots = true) (p_records : m .records = true) (p_time : m .time = true) (hs : Keeps m r s) : OutKeeps m r (execTimeCapture slot s) := by
  unfold execTimeCapture
  repeat' first | intro _ | (with_reducible first | assumption | apply OutKeeps.next | apply OutKeeps.fault | apply ite_outKeeps | apply done_keeps | apply runCmd_keeps | apply State.setCap_keeps | apply ite_keeps | apply foldl_keeps) | (with_reducible apply State.keeps_mk <;> first | exact .inr ‹_› | exact .inl rfl | exact .inl ⟨rfl, rfl⟩ | exact .inl ⟨rfl, rfl, rfl⟩ | exact .inl ⟨rfl, rfl, rfl, rfl⟩ | exact .inl ⟨rfl, rfl, rfl, rfl, rfl⟩ | skip) | rfl | exact OtpLe.refl _ | split | (extract_lets; split) | (dsimp +zetaDelta only; split)

theorem execCaptureEdge_keeps (source : Nat) (index : Nat) (level : Bool) (samples : Nat) (s : State) (p_out : m .out = true) (p_events : m .events = true) (p_pba : m .pba = true) (p_hostMem : m .hostMem = true) (p_time : m .time = true) (hs : Keeps m r s) : OutKeeps m r (execCaptureEdge source index level samples s) := by
  unfold execCaptureEdge
  repeat' first | intro _ | (with_reducible first | assumption | apply OutKeeps.next | apply OutKeeps.fault | apply ite_outKeeps | apply captureSample_keeps | apply ite_keeps | apply foldl_keeps) | (with_reducible apply State.keeps_mk <;> first | exact .inr ‹_› | exact .inl rfl | exact .inl ⟨rfl, rfl⟩ | exact .inl ⟨rfl, rfl, rfl⟩ | exact .inl ⟨rfl, rfl, rfl, rfl⟩ | exact .inl ⟨rfl, rfl, rfl, rfl, rfl⟩ | skip) | rfl | exact OtpLe.refl _ | split | (extract_lets; split) | (dsimp +zetaDelta only; split)

theorem execCapPop_keeps (c : Nat) (v : Word) (s : State) (p_time : m .time = true) (hs : Keeps m r s) : OutKeeps m r (execCapPop c v s) := by
  unfold execCapPop
  repeat' first | intro _ | (with_reducible first | assumption | apply OutKeeps.next | apply OutKeeps.fault | apply ite_outKeeps | apply State.setCap_keeps | apply ite_keeps | apply foldl_keeps) | (with_reducible apply State.keeps_mk <;> first | exact .inr ‹_› | exact .inl rfl | exact .inl ⟨rfl, rfl⟩ | exact .inl ⟨rfl, rfl, rfl⟩ | exact .inl ⟨rfl, rfl, rfl, rfl⟩ | exact .inl ⟨rfl, rfl, rfl, rfl, rfl⟩ | skip) | rfl | exact OtpLe.refl _ | split | (extract_lets; split) | (dsimp +zetaDelta only; split)

theorem execTriggerPulseEnd_keeps (unit : Nat) (s : State) (p_out : m .out = true) (p_time : m .time = true) (hs : Keeps m r s) : OutKeeps m r (execTriggerPulseEnd unit s) := by
  unfold execTriggerPulseEnd
  repeat' first | intro _ | (with_reducible first | assumption | apply OutKeeps.next | apply OutKeeps.fault | apply ite_outKeeps | apply State.emit_keeps | apply State.setTrig_keeps | apply ite_keeps | apply foldl_keeps) | (with_reducible apply State.keeps_mk <;> first | exact .inr ‹_› | exact .inl rfl | exact .inl ⟨rfl, rfl⟩ | exact .inl ⟨rfl, rfl, rfl⟩ | exact .inl ⟨rfl, rfl, rfl, rfl⟩ | exact .inl ⟨rfl, rfl, rfl, rfl, rfl⟩ | skip) | rfl | exact OtpLe.refl _ | split | (extract_lets; split) | (dsimp +zetaDelta only; split)

theorem dropHitchCommits_keeps (status : Nat) (detail : Nat) (keep : HitchCommit → Bool) (s : State) (p_slots : m .slots = true) (p_records : m .records = true) (p_frames : m .frames = true) (hs : Keeps m r s) : Keeps m r (dropHitchCommits status detail keep s) := by
  unfold dropHitchCommits
  repeat' first | intro _ | (with_reducible first | assumption | apply complete_keeps | apply State.withFrames_keeps | apply ite_keeps | apply foldl_keeps) | (with_reducible apply State.keeps_mk <;> first | exact .inr ‹_› | exact .inl rfl | exact .inl ⟨rfl, rfl⟩ | exact .inl ⟨rfl, rfl, rfl⟩ | exact .inl ⟨rfl, rfl, rfl, rfl⟩ | exact .inl ⟨rfl, rfl, rfl, rfl, rfl⟩ | skip) | rfl | exact OtpLe.refl _ | split | (extract_lets; split) | (dsimp +zetaDelta only; split)

theorem execTimeHitch_keeps (slot : Nat) (s : State) (p_slots : m .slots = true) (p_records : m .records = true) (p_time : m .time = true) (p_frames : m .frames = true) (hs : Keeps m r s) : OutKeeps m r (execTimeHitch slot s) := by
  unfold execTimeHitch
  repeat' first | intro _ | (with_reducible first | assumption | apply OutKeeps.next | apply OutKeeps.fault | apply ite_outKeeps | apply done_keeps | apply resourceBusy_keeps | apply runCmd_keeps | apply State.withHitch_keeps | apply dropHitchCommits_keeps | apply ite_keeps | apply foldl_keeps) | (with_reducible apply State.keeps_mk <;> first | exact .inr ‹_› | exact .inl rfl | exact .inl ⟨rfl, rfl⟩ | exact .inl ⟨rfl, rfl, rfl⟩ | exact .inl ⟨rfl, rfl, rfl, rfl⟩ | exact .inl ⟨rfl, rfl, rfl, rfl, rfl⟩ | skip) | rfl | exact OtpLe.refl _ | split | (extract_lets; split) | (dsimp +zetaDelta only; split)

end Sys2Proof.Machine
end

