-- ==== Sys2Proof/Laws/KeepsAxisRun.lean ====
section
/-! SUPPORT. `Keeps` for the definitions of Machine/AxisRun.lean, one lemma for each. -/

set_option linter.all false
set_option Elab.async false
set_option maxRecDepth 4000
namespace Sys2Proof.Machine

variable {m : Part → Bool} {r : State}

theorem State.withAxis_keeps (s : State) (f : Motion → Motion) (p_axis : m .axis = true) (hs : Keeps m r s) : Keeps m r (State.withAxis s f) := by
  unfold State.withAxis
  repeat' first | intro _ | (with_reducible first | assumption | apply ite_keeps | apply foldl_keeps) | (with_reducible apply State.keeps_mk <;> first | exact .inr ‹_› | exact .inl rfl | exact .inl ⟨rfl, rfl⟩ | exact .inl ⟨rfl, rfl, rfl⟩ | exact .inl ⟨rfl, rfl, rfl, rfl⟩ | exact .inl ⟨rfl, rfl, rfl, rfl, rfl⟩ | skip) | rfl | exact OtpLe.refl _ | split | (extract_lets; split) | (dsimp +zetaDelta only; split)

theorem State.setAx_keeps (s : State) (a : Nat) (x : Axis) (p_axis : m .axis = true) (hs : Keeps m r s) : Keeps m r (State.setAx s a x) := by
  unfold State.setAx
  repeat' first | intro _ | (with_reducible first | assumption | apply State.withAxis_keeps | apply ite_keeps | apply foldl_keeps) | (with_reducible apply State.keeps_mk <;> first | exact .inr ‹_› | exact .inl rfl | exact .inl ⟨rfl, rfl⟩ | exact .inl ⟨rfl, rfl, rfl⟩ | exact .inl ⟨rfl, rfl, rfl, rfl⟩ | exact .inl ⟨rfl, rfl, rfl, rfl, rfl⟩ | skip) | rfl | exact OtpLe.refl _ | split | (extract_lets; split) | (dsimp +zetaDelta only; split)

theorem State.setMove_keeps (s : State) (g : Nat) (m1 : GroupMove) (p_axis : m .axis = true) (hs : Keeps m r s) : Keeps m r (State.setMove s g m1) := by
  unfold State.setMove
  repeat' first | intro _ | (with_reducible first | assumption | apply State.withAxis_keeps | apply ite_keeps | apply foldl_keeps) | (with_reducible apply State.keeps_mk <;> first | exact .inr ‹_› | exact .inl rfl | exact .inl ⟨rfl, rfl⟩ | exact .inl ⟨rfl, rfl, rfl⟩ | exact .inl ⟨rfl, rfl, rfl, rfl⟩ | exact .inl ⟨rfl, rfl, rfl, rfl, rfl⟩ | skip) | rfl | exact OtpLe.refl _ | split | (extract_lets; split) | (dsimp +zetaDelta only; split)

theorem driveEnable_keeps (a : Nat) (s : State) (p_out : m .out = true) (hs : Keeps m r s) : Keeps m r (driveEnable a s) := by
  unfold driveEnable
  repeat' first | intro _ | (with_reducible first | assumption | apply State.emit_keeps | apply ite_keeps | apply foldl_keeps) | (with_reducible apply State.keeps_mk <;> first | exact .inr ‹_› | exact .inl rfl | exact .inl ⟨rfl, rfl⟩ | exact .inl ⟨rfl, rfl, rfl⟩ | exact .inl ⟨rfl, rfl, rfl, rfl⟩ | exact .inl ⟨rfl, rfl, rfl, rfl, rfl⟩ | skip) | rfl | exact OtpLe.refl _ | split | (extract_lets; split) | (dsimp +zetaDelta only; split)

theorem stepOut_keeps (s : State) (a : Nat) (p_out : m .out = true) (p_axis : m .axis = true) (hs : Keeps m r s) : Keeps m r (stepOut s a) := by
  unfold stepOut
  repeat' first | intro _ | (with_reducible first | assumption | apply State.emit_keeps | apply State.setAx_keeps | apply ite_keeps | apply foldl_keeps) | split | (extract_lets; split) | (with_reducible apply State.keeps_mk <;> first | exact .inr ‹_› | exact .inl rfl | exact .inl ⟨rfl, rfl⟩ | exact .inl ⟨rfl, rfl, rfl⟩ | exact .inl ⟨rfl, rfl, rfl, rfl⟩ | exact .inl ⟨rfl, rfl, rfl, rfl, rfl⟩ | skip) | rfl | exact OtpLe.refl _ | split | (extract_lets; split) | (dsimp +zetaDelta only; split)

theorem stepOutputs_keeps (s : State) (p_out : m .out = true) (p_axis : m .axis = true) (hs : Keeps m r s) : Keeps m r (stepOutputs s) := by
  unfold stepOutputs
  repeat' first | intro _ | (with_reducible first | assumption | apply stepOut_keeps | apply ite_keeps | apply foldl_keeps) | (with_reducible apply State.keeps_mk <;> first | exact .inr ‹_› | exact .inl rfl | exact .inl ⟨rfl, rfl⟩ | exact .inl ⟨rfl, rfl, rfl⟩ | exact .inl ⟨rfl, rfl, rfl, rfl⟩ | exact .inl ⟨rfl, rfl, rfl, rfl, rfl⟩ | skip) | rfl | exact OtpLe.refl _ | split | (extract_lets; split) | (dsimp +zetaDelta only; split)

theorem endAxisCmd_keeps (a : Nat) (status : Nat) (detail : Nat) (result : Nat) (mode : AxMode) (s : State) (p_slots : m .slots = true) (p_records : m .records = true) (p_axis : m .axis = true) (hs : Keeps m r s) : Keeps m r (endAxisCmd a status detail result mode s) := by
  unfold endAxisCmd
  repeat' first | intro _ | (with_reducible first | assumption | apply complete_keeps | apply State.withAxis_keeps | apply State.setAx_keeps | apply ite_keeps | apply foldl_keeps) | (with_reducible apply State.keeps_mk <;> first | exact .inr ‹_› | exact .inl rfl | exact .inl ⟨rfl, rfl⟩ | exact .inl ⟨rfl, rfl, rfl⟩ | exact .inl ⟨rfl, rfl, rfl, rfl⟩ | exact .inl ⟨rfl, rfl, rfl, rfl, rfl⟩ | skip) | rfl | exact OtpLe.refl _ | split | (extract_lets; split) | (dsimp +zetaDelta only; split)

theorem dissolveMove_keeps (g : Nat) (mode : AxMode) (s : State) (p_axis : m .axis = true) (hs : Keeps m r s) : Keeps m r (dissolveMove g mode s) := by
  unfold dissolveMove
  repeat' first | intro _ | (with_reducible first | assumption | apply State.setAx_keeps | apply State.setMove_keeps | apply ite_keeps | apply foldl_keeps) | (with_reducible apply State.keeps_mk <;> first | exact .inr ‹_› | exact .inl rfl | exact .inl ⟨rfl, rfl⟩ | exact .inl ⟨rfl, rfl, rfl⟩ | exact .inl ⟨rfl, rfl, rfl, rfl⟩ | exact .inl ⟨rfl, rfl, rfl, rfl, rfl⟩ | skip) | rfl | exact OtpLe.refl _ | split | (extract_lets; split) | (dsimp +zetaDelta only; split)

theorem endMoveCmd_keeps (g : Nat) (status : Nat) (detail : Nat) (s : State) (p_slots : m .slots = true) (p_records : m .records = true) (p_axis : m .axis = true) (hs : Keeps m r s) : Keeps m r (endMoveCmd g status detail s) := by
  unfold endMoveCmd
  repeat' first | intro _ | (with_reducible first | assumption | apply complete_keeps | apply State.withAxis_keeps | apply State.setMove_keeps | apply ite_keeps | apply foldl_keeps) | (with_reducible apply State.keeps_mk <;> first | exact .inr ‹_› | exact .inl rfl | exact .inl ⟨rfl, rfl⟩ | exact .inl ⟨rfl, rfl, rfl⟩ | exact .inl ⟨rfl, rfl, rfl, rfl⟩ | exact .inl ⟨rfl, rfl, rfl, rfl, rfl⟩ | skip) | rfl | exact OtpLe.refl _ | split | (extract_lets; split) | (dsimp +zetaDelta only; split)

theorem stopMove_keeps (g : Nat) (status : Nat) (detail : Nat) (s : State) (p_slots : m .slots = true) (p_records : m .records = true) (p_axis : m .axis = true) (hs : Keeps m r s) : Keeps m r (stopMove g status detail s) := by
  unfold stopMove
  repeat' first | intro _ | (with_reducible first | assumption | apply State.setMove_keeps | apply endMoveCmd_keeps | apply ite_keeps | apply foldl_keeps) | (with_reducible apply State.keeps_mk <;> first | exact .inr ‹_› | exact .inl rfl | exact .inl ⟨rfl, rfl⟩ | exact .inl ⟨rfl, rfl, rfl⟩ | exact .inl ⟨rfl, rfl, rfl, rfl⟩ | exact .inl ⟨rfl, rfl, rfl, rfl, rfl⟩ | skip) | rfl | exact OtpLe.refl _ | split | (extract_lets; split) | (dsimp +zetaDelta only; split)

theorem brake_keeps (a : Nat) (decel : Int) (s : State) (p_axis : m .axis = true) (hs : Keeps m r s) : Keeps m r (brake a decel s) := by
  unfold brake
  repeat' first | intro _ | (with_reducible first | assumption | apply State.setAx_keeps | apply ite_keeps | apply foldl_keeps) | (with_reducible apply State.keeps_mk <;> first | exact .inr ‹_› | exact .inl rfl | exact .inl ⟨rfl, rfl⟩ | exact .inl ⟨rfl, rfl, rfl⟩ | exact .inl ⟨rfl, rfl, rfl, rfl⟩ | exact .inl ⟨rfl, rfl, rfl, rfl, rfl⟩ | skip) | rfl | exact OtpLe.refl _ | split | (extract_lets; split) | (dsimp +zetaDelta only; split)

theorem settleEngine_keeps (s : State) (p_time : m .time = true) (p_axis : m .axis = true) (hs : Keeps m r s) : Keeps m r (settleEngine s) := by
  unfold settleEngine
  repeat' first | intro _ | (with_reducible first | assumption | apply freeTrig_keeps | apply State.withAxis_keeps | apply ite_keeps | apply foldl_keeps) | split | (extract_lets; split) | (with_reducible apply State.keeps_mk <;> first | exact .inr ‹_› | exact .inl rfl | exact .inl ⟨rfl, rfl⟩ | exact .inl ⟨rfl, rfl, rfl⟩ | exact .inl ⟨rfl, rfl, rfl, rfl⟩ | exact .inl ⟨rfl, rfl, rfl, rfl, rfl⟩ | skip) | rfl | exact OtpLe.refl _ | split | (extract_lets; split) | (dsimp +zetaDelta only; split)

theorem disableAxis_keeps (a : Nat) (s : State) (p_out : m .out = true) (p_time : m .time = true) (p_axis : m .axis = true) (hs : Keeps m r s) : Keeps m r (disableAxis a s) := by
  unfold disableAxis
  repeat' first | intro _ | (with_reducible first | assumption | apply State.setAx_keeps | apply driveEnable_keeps | apply settleEngine_keeps | apply ite_keeps | apply foldl_keeps) | (with_reducible apply State.keeps_mk <;> first | exact .inr ‹_› | exact .inl rfl | exact .inl ⟨rfl, rfl⟩ | exact .inl ⟨rfl, rfl, rfl⟩ | exact .inl ⟨rfl, rfl, rfl, rfl⟩ | exact .inl ⟨rfl, rfl, rfl, rfl, rfl⟩ | skip) | rfl | exact OtpLe.refl _ | split | (extract_lets; split) | (dsimp +zetaDelta only; split)

theorem axisFault_keeps (a : Nat) (f : AxFault) (s : State) (p_out : m .out = true) (p_slots : m .slots = true) (p_records : m .records = true) (p_events : m .events = true) (p_pba : m .pba = true) (p_hostMem : m .hostMem = true) (p_time : m .time = true) (p_axis : m .axis = true) (hs : Keeps m r s) : Keeps m r (axisFault a f s) := by
  unfold axisFault
  repeat' first | intro _ | (with_reducible first | assumption | apply raise_keeps | apply State.setAx_keeps | apply State.setMove_keeps | apply endAxisCmd_keeps | apply stopMove_keeps | apply brake_keeps | apply disableAxis_keeps | apply ite_keeps | apply foldl_keeps) | (with_reducible apply State.keeps_mk <;> first | exact .inr ‹_› | exact .inl rfl | exact .inl ⟨rfl, rfl⟩ | exact .inl ⟨rfl, rfl, rfl⟩ | exact .inl ⟨rfl, rfl, rfl, rfl⟩ | exact .inl ⟨rfl, rfl, rfl, rfl, rfl⟩ | skip) | rfl | exact OtpLe.refl _ | split | (extract_lets; split) | (dsimp +zetaDelta only; split)

theorem homeJog_keeps (a : Nat) (ph : HomePhase) (v : Int) (s : State) (p_axis : m .axis = true) (hs : Keeps m r s) : Keeps m r (homeJog a ph v s) := by
  unfold homeJog
  repeat' first | intro _ | (with_reducible first | assumption | apply State.setAx_keeps | apply ite_keeps | apply foldl_keeps) | (with_reducible apply State.keeps_mk <;> first | exact .inr ‹_› | exact .inl rfl | exact .inl ⟨rfl, rfl⟩ | exact .inl ⟨rfl, rfl, rfl⟩ | exact .inl ⟨rfl, rfl, rfl, rfl⟩ | exact .inl ⟨rfl, rfl, rfl, rfl, rfl⟩ | skip) | rfl | exact OtpLe.refl _ | split | (extract_lets; split) | (dsimp +zetaDelta only; split)

theorem homeStop_keeps (a : Nat) (ph : HomePhase) (decel : Int) (s : State) (p_axis : m .axis = true) (hs : Keeps m r s) : Keeps m r (homeStop a ph decel s) := by
  unfold homeStop
  repeat' first | intro _ | (with_reducible first | assumption | apply State.setAx_keeps | apply brake_keeps | apply ite_keeps | apply foldl_keeps) | (with_reducible apply State.keeps_mk <;> first | exact .inr ‹_› | exact .inl rfl | exact .inl ⟨rfl, rfl⟩ | exact .inl ⟨rfl, rfl, rfl⟩ | exact .inl ⟨rfl, rfl, rfl, rfl⟩ | exact .inl ⟨rfl, rfl, rfl, rfl, rfl⟩ | skip) | rfl | exact OtpLe.refl _ | split | (extract_lets; split) | (dsimp +zetaDelta only; split)

theorem shiftAxis_keeps (a : Nat) (d : Int) (s : State) (p_axis : m .axis = true) (hs : Keeps m r s) : Keeps m r (shiftAxis a d s) := by
  unfold shiftAxis
  repeat' first | intro _ | (with_reducible first | assumption | apply State.setAx_keeps | apply ite_keeps | apply foldl_keeps) | (with_reducible apply State.keeps_mk <;> first | exact .inr ‹_› | exact .inl rfl | exact .inl ⟨rfl, rfl⟩ | exact .inl ⟨rfl, rfl, rfl⟩ | exact .inl ⟨rfl, rfl, rfl, rfl⟩ | exact .inl ⟨rfl, rfl, rfl, rfl, rfl⟩ | skip) | rfl | exact OtpLe.refl _ | split | (extract_lets; split) | (dsimp +zetaDelta only; split)

theorem latchHome_keeps (a : Nat) (p : Int) (s : State) (p_axis : m .axis = true) (hs : Keeps m r s) : Keeps m r (latchHome a p s) := by
  unfold latchHome
  repeat' first | intro _ | (with_reducible first | assumption | apply State.setAx_keeps | apply homeStop_keeps | apply shiftAxis_keeps | apply ite_keeps | apply foldl_keeps) | (with_reducible apply State.keeps_mk <;> first | exact .inr ‹_› | exact .inl rfl | exact .inl ⟨rfl, rfl⟩ | exact .inl ⟨rfl, rfl, rfl⟩ | exact .inl ⟨rfl, rfl, rfl, rfl⟩ | exact .inl ⟨rfl, rfl, rfl, rfl, rfl⟩ | skip) | rfl | exact OtpLe.refl _ | split | (extract_lets; split) | (dsimp +zetaDelta only; split)

theorem homeLimit_keeps (a : Nat) (s : State) (p_out : m .out = true) (p_slots : m .slots = true) (p_records : m .records = true) (p_events : m .events = true) (p_pba : m .pba = true) (p_hostMem : m .hostMem = true) (p_time : m .time = true) (p_axis : m .axis = true) (hs : Keeps m r s) : Keeps m r (homeLimit a s) := by
  unfold homeLimit
  repeat' first | intro _ | (with_reducible first | assumption | apply axisFault_keeps | apply homeStop_keeps | apply ite_keeps | apply foldl_keeps) | (with_reducible apply State.keeps_mk <;> first | exact .inr ‹_› | exact .inl rfl | exact .inl ⟨rfl, rfl⟩ | exact .inl ⟨rfl, rfl, rfl⟩ | exact .inl ⟨rfl, rfl, rfl, rfl⟩ | exact .inl ⟨rfl, rfl, rfl, rfl, rfl⟩ | skip) | rfl | exact OtpLe.refl _ | split | (extract_lets; split) | (dsimp +zetaDelta only; split)

theorem homeSwitch_keeps (a : Nat) (i : Nat) (active : Bool) (p : Int) (s : State) (p_out : m .out = true) (p_slots : m .slots = true) (p_records : m .records = true) (p_events : m .events = true) (p_pba : m .pba = true) (p_hostMem : m .hostMem = true) (p_time : m .time = true) (p_axis : m .axis = true) (hs : Keeps m r s) : Keeps m r (homeSwitch a i active p s) := by
  unfold homeSwitch
  repeat' first | intro _ | (with_reducible first | assumption | apply State.setAx_keeps | apply axisFault_keeps | apply homeJog_keeps | apply homeStop_keeps | apply latchHome_keeps | apply homeLimit_keeps | apply ite_keeps | apply foldl_keeps) | split | (extract_lets; split) | (with_reducible apply State.keeps_mk <;> first | exact .inr ‹_› | exact .inl rfl | exact .inl ⟨rfl, rfl⟩ | exact .inl ⟨rfl, rfl, rfl⟩ | exact .inl ⟨rfl, rfl, rfl, rfl⟩ | exact .inl ⟨rfl, rfl, rfl, rfl, rfl⟩ | skip) | rfl | exact OtpLe.refl _ | split | (extract_lets; split) | (dsimp +zetaDelta only; split)

theorem homeRest_keeps (a : Nat) (s : State) (p_slots : m .slots = true) (p_records : m .records = true) (p_axis : m .axis = true) (hs : Keeps m r s) : Keeps m r (homeRest a s) := by
  unfold homeRest
  repeat' first | intro _ | (with_reducible first | assumption | apply endAxisCmd_keeps | apply homeJog_keeps | apply ite_keeps | apply foldl_keeps) | split | (extract_lets; split) | (with_reducible apply State.keeps_mk <;> first | exact .inr ‹_› | exact .inl rfl | exact .inl ⟨rfl, rfl⟩ | exact .inl ⟨rfl, rfl, rfl⟩ | exact .inl ⟨rfl, rfl, rfl, rfl⟩ | exact .inl ⟨rfl, rfl, rfl, rfl, rfl⟩ | skip) | rfl | exact OtpLe.refl _ | split | (extract_lets; split) | (dsimp +zetaDelta only; split)

theorem homeTravel_keeps (a : Nat) (s : State) (p_axis : m .axis = true) (hs : Keeps m r s) : Keeps m r (homeTravel a s) := by
  unfold homeTravel
  repeat' first | intro _ | (with_reducible first | assumption | apply homeStop_keeps | apply ite_keeps | apply foldl_keeps) | (with_reducible apply State.keeps_mk <;> first | exact .inr ‹_› | exact .inl rfl | exact .inl ⟨rfl, rfl⟩ | exact .inl ⟨rfl, rfl, rfl⟩ | exact .inl ⟨rfl, rfl, rfl, rfl⟩ | exact .inl ⟨rfl, rfl, rfl, rfl, rfl⟩ | skip) | rfl | exact OtpLe.refl _ | split | (extract_lets; split) | (dsimp +zetaDelta only; split)

theorem homeIndex_keeps (ch : Nat) (s : State) (p_axis : m .axis = true) (hs : Keeps m r s) : Keeps m r (homeIndex ch s) := by
  unfold homeIndex
  repeat' first | intro _ | (with_reducible first | assumption | apply latchHome_keeps | apply ite_keeps | apply foldl_keeps) | (with_reducible apply State.keeps_mk <;> first | exact .inr ‹_› | exact .inl rfl | exact .inl ⟨rfl, rfl⟩ | exact .inl ⟨rfl, rfl, rfl⟩ | exact .inl ⟨rfl, rfl, rfl, rfl⟩ | exact .inl ⟨rfl, rfl, rfl, rfl, rfl⟩ | skip) | rfl | exact OtpLe.refl _ | split | (extract_lets; split) | (dsimp +zetaDelta only; split)

theorem tripLimit_keeps (a : Nat) (i : Nat) (s : State) (p_slots : m .slots = true) (p_records : m .records = true) (p_axis : m .axis = true) (hs : Keeps m r s) : Keeps m r (tripLimit a i s) := by
  unfold tripLimit
  repeat' first | intro _ | (with_reducible first | assumption | apply endAxisCmd_keeps | apply stopMove_keeps | apply brake_keeps | apply ite_keeps | apply foldl_keeps) | split | (extract_lets; split) | (with_reducible apply State.keeps_mk <;> first | exact .inr ‹_› | exact .inl rfl | exact .inl ⟨rfl, rfl⟩ | exact .inl ⟨rfl, rfl, rfl⟩ | exact .inl ⟨rfl, rfl, rfl, rfl⟩ | exact .inl ⟨rfl, rfl, rfl, rfl, rfl⟩ | skip) | rfl | exact OtpLe.refl _ | split | (extract_lets; split) | (dsimp +zetaDelta only; split)

theorem switchChange_keeps (a : Nat) (i : Nat) (active : Bool) (p : Int) (s : State) (p_out : m .out = true) (p_slots : m .slots = true) (p_records : m .records = true) (p_events : m .events = true) (p_pba : m .pba = true) (p_hostMem : m .hostMem = true) (p_time : m .time = true) (p_axis : m .axis = true) (hs : Keeps m r s) : Keeps m r (switchChange a i active p s) := by
  unfold switchChange
  repeat' first | intro _ | (with_reducible first | assumption | apply raise_keeps | apply State.setAx_keeps | apply axisFault_keeps | apply homeSwitch_keeps | apply tripLimit_keeps | apply ite_keeps | apply foldl_keeps) | split | (extract_lets; split) | (with_reducible apply State.keeps_mk <;> first | exact .inr ‹_› | exact .inl rfl | exact .inl ⟨rfl, rfl⟩ | exact .inl ⟨rfl, rfl, rfl⟩ | exact .inl ⟨rfl, rfl, rfl, rfl⟩ | exact .inl ⟨rfl, rfl, rfl, rfl, rfl⟩ | skip) | rfl | exact OtpLe.refl _ | split | (extract_lets; split) | (dsimp +zetaDelta only; split)

theorem switchSample_keeps (a : Nat) (i : Nat) (level : Bool) (s : State) (p_out : m .out = true) (p_slots : m .slots = true) (p_records : m .records = true) (p_events : m .events = true) (p_pba : m .pba = true) (p_hostMem : m .hostMem = true) (p_time : m .time = true) (p_axis : m .axis = true) (hs : Keeps m r s) : Keeps m r (switchSample a i level s) := by
  unfold switchSample
  repeat' first | intro _ | (with_reducible first | assumption | apply State.setAx_keeps | apply switchChange_keeps | apply ite_keeps | apply foldl_keeps) | split | (extract_lets; split) | (with_reducible apply State.keeps_mk <;> first | exact .inr ‹_› | exact .inl rfl | exact .inl ⟨rfl, rfl⟩ | exact .inl ⟨rfl, rfl, rfl⟩ | exact .inl ⟨rfl, rfl, rfl, rfl⟩ | exact .inl ⟨rfl, rfl, rfl, rfl, rfl⟩ | skip) | rfl | exact OtpLe.refl _ | split | (extract_lets; split) | (dsimp +zetaDelta only; split)

theorem sampleAxis_keeps (a : Nat) (act : Int) (s : State) (p_out : m .out = true) (p_slots : m .slots = true) (p_records : m .records = true) (p_events : m .events = true) (p_pba : m .pba = true) (p_hostMem : m .hostMem = true) (p_time : m .time = true) (p_axis : m .axis = true) (hs : Keeps m r s) : Keeps m r (sampleAxis a act s) := by
  unfold sampleAxis
  repeat' first | intro _ | (with_reducible first | assumption | apply State.setAx_keeps | apply axisFault_keeps | apply ite_keeps | apply foldl_keeps) | (with_reducible apply State.keeps_mk <;> first | exact .inr ‹_› | exact .inl rfl | exact .inl ⟨rfl, rfl⟩ | exact .inl ⟨rfl, rfl, rfl⟩ | exact .inl ⟨rfl, rfl, rfl, rfl⟩ | exact .inl ⟨rfl, rfl, rfl, rfl, rfl⟩ | skip) | rfl | exact OtpLe.refl _ | split | (extract_lets; split) | (dsimp +zetaDelta only; split)

theorem sendSetpoints_keeps (bus : Nat) (s : State) (p_out : m .out = true) (hs : Keeps m r s) : Keeps m r (sendSetpoints bus s) := by
  unfold sendSetpoints
  repeat' first | intro _ | (with_reducible first | assumption | apply State.emit_keeps | apply ite_keeps | apply foldl_keeps) | (with_reducible apply State.keeps_mk <;> first | exact .inr ‹_› | exact .inl rfl | exact .inl ⟨rfl, rfl⟩ | exact .inl ⟨rfl, rfl, rfl⟩ | exact .inl ⟨rfl, rfl, rfl, rfl⟩ | exact .inl ⟨rfl, rfl, rfl, rfl, rfl⟩ | skip) | rfl | exact OtpLe.refl _ | split | (extract_lets; split) | (dsimp +zetaDelta only; split)

theorem sendBus_keeps (s : State) (bus : Nat) (p_out : m .out = true) (p_axis : m .axis = true) (hs : Keeps m r s) : Keeps m r (sendBus s bus) := by
  unfold sendBus
  repeat' first | intro _ | (with_reducible first | assumption | apply State.setAx_keeps | apply sendSetpoints_keeps | apply ite_keeps | apply foldl_keeps) | (with_reducible apply State.keeps_mk <;> first | exact .inr ‹_› | exact .inl rfl | exact .inl ⟨rfl, rfl⟩ | exact .inl ⟨rfl, rfl, rfl⟩ | exact .inl ⟨rfl, rfl, rfl, rfl⟩ | exact .inl ⟨rfl, rfl, rfl, rfl, rfl⟩ | skip) | rfl | exact OtpLe.refl _ | split | (extract_lets; split) | (dsimp +zetaDelta only; split)

theorem busReply_keeps (bus : Nat) (bs : List Byte) (startNs : Nat) (s : State) (p_out : m .out = true) (p_slots : m .slots = true) (p_records : m .records = true) (p_events : m .events = true) (p_pba : m .pba = true) (p_hostMem : m .hostMem = true) (p_time : m .time = true) (p_axis : m .axis = true) (hs : Keeps m r s) : Keeps m r (busReply bus bs startNs s) := by
  unfold busReply
  repeat' first | intro _ | (with_reducible first | assumption | apply State.withAxis_keeps | apply State.setAx_keeps | apply axisFault_keeps | apply sampleAxis_keeps | apply ite_keeps | apply foldl_keeps) | split | (extract_lets; split) | (with_reducible apply State.keeps_mk <;> first | exact .inr ‹_› | exact .inl rfl | exact .inl ⟨rfl, rfl⟩ | exact .inl ⟨rfl, rfl, rfl⟩ | exact .inl ⟨rfl, rfl, rfl, rfl⟩ | exact .inl ⟨rfl, rfl, rfl, rfl, rfl⟩ | skip) | rfl | exact OtpLe.refl _ | split | (extract_lets; split) | (dsimp +zetaDelta only; split)

theorem windowEnd_keeps (bus : Nat) (k : Nat) (s : State) (p_out : m .out = true) (p_slots : m .slots = true) (p_records : m .records = true) (p_events : m .events = true) (p_pba : m .pba = true) (p_hostMem : m .hostMem = true) (p_time : m .time = true) (p_axis : m .axis = true) (hs : Keeps m r s) : Keeps m r (windowEnd bus k s) := by
  unfold windowEnd
  repeat' first | intro _ | (with_reducible first | assumption | apply State.setAx_keeps | apply axisFault_keeps | apply ite_keeps | apply foldl_keeps) | split | (extract_lets; split) | (with_reducible apply State.keeps_mk <;> first | exact .inr ‹_› | exact .inl rfl | exact .inl ⟨rfl, rfl⟩ | exact .inl ⟨rfl, rfl, rfl⟩ | exact .inl ⟨rfl, rfl, rfl, rfl⟩ | exact .inl ⟨rfl, rfl, rfl, rfl, rfl⟩ | skip) | rfl | exact OtpLe.refl _ | split | (extract_lets; split) | (dsimp +zetaDelta only; split)

theorem startSsi_keeps (ch : Nat) (s : State) (p_out : m .out = true) (p_web : m .web = true) (hs : Keeps m r s) : Keeps m r (startSsi ch s) := by
  unfold startSsi
  repeat' first | intro _ | (with_reducible first | assumption | apply State.emit_keeps | apply State.setChan_keeps | apply ite_keeps | apply foldl_keeps) | (with_reducible apply State.keeps_mk <;> first | exact .inr ‹_› | exact .inl rfl | exact .inl ⟨rfl, rfl⟩ | exact .inl ⟨rfl, rfl, rfl⟩ | exact .inl ⟨rfl, rfl, rfl, rfl⟩ | exact .inl ⟨rfl, rfl, rfl, rfl, rfl⟩ | skip) | rfl | exact OtpLe.refl _ | split | (extract_lets; split) | (dsimp +zetaDelta only; split)

theorem sampleNow_keeps (s : State) (a : Nat) (p_out : m .out = true) (p_slots : m .slots = true) (p_records : m .records = true) (p_events : m .events = true) (p_pba : m .pba = true) (p_hostMem : m .hostMem = true) (p_time : m .time = true) (p_web : m .web = true) (p_axis : m .axis = true) (hs : Keeps m r s) : Keeps m r (sampleNow s a) := by
  unfold sampleNow
  repeat' first | intro _ | (with_reducible first | assumption | apply sampleAxis_keeps | apply startSsi_keeps | apply ite_keeps | apply foldl_keeps) | (with_reducible apply State.keeps_mk <;> first | exact .inr ‹_› | exact .inl rfl | exact .inl ⟨rfl, rfl⟩ | exact .inl ⟨rfl, rfl, rfl⟩ | exact .inl ⟨rfl, rfl, rfl, rfl⟩ | exact .inl ⟨rfl, rfl, rfl, rfl, rfl⟩ | skip) | rfl | exact OtpLe.refl _ | split | (extract_lets; split) | (dsimp +zetaDelta only; split)

theorem beginPeriod_keeps (s : State) (a : Nat) (p_axis : m .axis = true) (hs : Keeps m r s) : Keeps m r (beginPeriod s a) := by
  unfold beginPeriod
  repeat' first | intro _ | (with_reducible first | assumption | apply State.setAx_keeps | apply ite_keeps | apply foldl_keeps) | (with_reducible apply State.keeps_mk <;> first | exact .inr ‹_› | exact .inl rfl | exact .inl ⟨rfl, rfl⟩ | exact .inl ⟨rfl, rfl, rfl⟩ | exact .inl ⟨rfl, rfl, rfl, rfl⟩ | exact .inl ⟨rfl, rfl, rfl, rfl, rfl⟩ | skip) | rfl | exact OtpLe.refl _ | split | (extract_lets; split) | (dsimp +zetaDelta only; split)

theorem restAxis_keeps (s : State) (a : Nat) (p_slots : m .slots = true) (p_records : m .records = true) (p_axis : m .axis = true) (hs : Keeps m r s) : Keeps m r (restAxis s a) := by
  unfold restAxis
  repeat' first | intro _ | (with_reducible first | assumption | apply State.setAx_keeps | apply endAxisCmd_keeps | apply homeRest_keeps | apply ite_keeps | apply foldl_keeps) | split | (extract_lets; split) | (with_reducible apply State.keeps_mk <;> first | exact .inr ‹_› | exact .inl rfl | exact .inl ⟨rfl, rfl⟩ | exact .inl ⟨rfl, rfl, rfl⟩ | exact .inl ⟨rfl, rfl, rfl, rfl⟩ | exact .inl ⟨rfl, rfl, rfl, rfl, rfl⟩ | skip) | rfl | exact OtpLe.refl _ | split | (extract_lets; split) | (dsimp +zetaDelta only; split)

theorem advanceAxis_keeps (s : State) (a : Nat) (p_axis : m .axis = true) (hs : Keeps m r s) : Keeps m r (advanceAxis s a) := by
  unfold advanceAxis
  repeat' first | intro _ | (with_reducible first | assumption | apply State.setAx_keeps | apply homeTravel_keeps | apply ite_keeps | apply foldl_keeps) | (with_reducible apply State.keeps_mk <;> first | exact .inr ‹_› | exact .inl rfl | exact .inl ⟨rfl, rfl⟩ | exact .inl ⟨rfl, rfl, rfl⟩ | exact .inl ⟨rfl, rfl, rfl, rfl⟩ | exact .inl ⟨rfl, rfl, rfl, rfl, rfl⟩ | skip) | rfl | exact OtpLe.refl _ | split | (extract_lets; split) | (dsimp +zetaDelta only; split)

theorem advanceMove_keeps (s : State) (g : Nat) (p_slots : m .slots = true) (p_records : m .records = true) (p_axis : m .axis = true) (hs : Keeps m r s) : Keeps m r (advanceMove s g) := by
  unfold advanceMove
  repeat' first | intro _ | (with_reducible first | assumption | apply State.setAx_keeps | apply State.setMove_keeps | apply dissolveMove_keeps | apply endMoveCmd_keeps | apply ite_keeps | apply foldl_keeps) | (with_reducible apply State.keeps_mk <;> first | exact .inr ‹_› | exact .inl rfl | exact .inl ⟨rfl, rfl⟩ | exact .inl ⟨rfl, rfl, rfl⟩ | exact .inl ⟨rfl, rfl, rfl, rfl⟩ | exact .inl ⟨rfl, rfl, rfl, rfl, rfl⟩ | skip) | rfl | exact OtpLe.refl _ | split | (extract_lets; split) | (dsimp +zetaDelta only; split)

theorem settleStops_keeps (s : State) (p_slots : m .slots = true) (p_records : m .records = true) (p_axis : m .axis = true) (hs : Keeps m r s) : Keeps m r (settleStops s) := by
  unfold settleStops
  repeat' first | intro _ | (with_reducible first | assumption | apply done_keeps | apply State.withAxis_keeps | apply ite_keeps | apply foldl_keeps) | (with_reducible apply State.keeps_mk <;> first | exact .inr ‹_› | exact .inl rfl | exact .inl ⟨rfl, rfl⟩ | exact .inl ⟨rfl, rfl, rfl⟩ | exact .inl ⟨rfl, rfl, rfl, rfl⟩ | exact .inl ⟨rfl, rfl, rfl, rfl, rfl⟩ | skip) | rfl | exact OtpLe.refl _ | split | (extract_lets; split) | (dsimp +zetaDelta only; split)

theorem servoPeriod_keeps (s : State) (p_out : m .out = true) (p_slots : m .slots = true) (p_records : m .records = true) (p_events : m .events = true) (p_pba : m .pba = true) (p_hostMem : m .hostMem = true) (p_time : m .time = true) (p_web : m .web = true) (p_axis : m .axis = true) (hs : Keeps m r s) : Keeps m r (servoPeriod s) := by
  unfold servoPeriod
  repeat' first | intro _ | (with_reducible first | assumption | apply State.withAxis_keeps | apply sendBus_keeps | apply sampleNow_keeps | apply beginPeriod_keeps | apply restAxis_keeps | apply advanceAxis_keeps | apply advanceMove_keeps | apply settleStops_keeps | apply ite_keeps | apply foldl_keeps) | (with_reducible apply State.keeps_mk <;> first | exact .inr ‹_› | exact .inl rfl | exact .inl ⟨rfl, rfl⟩ | exact .inl ⟨rfl, rfl, rfl⟩ | exact .inl ⟨rfl, rfl, rfl, rfl⟩ | exact .inl ⟨rfl, rfl, rfl, rfl, rfl⟩ | skip) | rfl | exact OtpLe.refl _ | split | (extract_lets; split) | (dsimp +zetaDelta only; split)

theorem haltAxis_keeps (detail : Nat) (s : State) (a : Nat) (p_slots : m .slots = true) (p_records : m .records = true) (p_axis : m .axis = true) (hs : Keeps m r s) : Keeps m r (haltAxis detail s a) := by
  unfold haltAxis
  repeat' first | intro _ | (with_reducible first | assumption | apply State.setAx_keeps | apply endAxisCmd_keeps | apply endMoveCmd_keeps | apply ite_keeps | apply foldl_keeps) | (with_reducible apply State.keeps_mk <;> first | exact .inr ‹_› | exact .inl rfl | exact .inl ⟨rfl, rfl⟩ | exact .inl ⟨rfl, rfl, rfl⟩ | exact .inl ⟨rfl, rfl, rfl, rfl⟩ | exact .inl ⟨rfl, rfl, rfl, rfl, rfl⟩ | skip) | rfl | exact OtpLe.refl _ | split | (extract_lets; split) | (dsimp +zetaDelta only; split)

theorem haltAxes_keeps (cause : Cause) (s : State) (p_slots : m .slots = true) (p_records : m .records = true) (p_axis : m .axis = true) (hs : Keeps m r s) : Keeps m r (haltAxes cause s) := by
  unfold haltAxes
  repeat' first | intro _ | (with_reducible first | assumption | apply State.withAxis_keeps | apply settleStops_keeps | apply haltAxis_keeps | apply ite_keeps | apply foldl_keeps) | (with_reducible apply State.keeps_mk <;> first | exact .inr ‹_› | exact .inl rfl | exact .inl ⟨rfl, rfl⟩ | exact .inl ⟨rfl, rfl, rfl⟩ | exact .inl ⟨rfl, rfl, rfl, rfl⟩ | exact .inl ⟨rfl, rfl, rfl, rfl, rfl⟩ | skip) | rfl | exact OtpLe.refl _ | split | (extract_lets; split) | (dsimp +zetaDelta only; split)

end Sys2Proof.Machine
end

