-- ==== Sys2Proof/Laws/KeepsAxisCmd.lean ====
section
/-! SUPPORT. `Keeps` for the definitions of Machine/AxisCmd.lean, one lemma for each. -/

set_option linter.all false
set_option Elab.async false
set_option maxRecDepth 4000
namespace Sys2Proof.Machine

variable {m : Part → Bool} {r : State}

theorem startEngine_keeps (u : Nat) (s : State) (p_time : m .time = true) (p_axis : m .axis = true) (hs : Keeps m r s) : Keeps m r (startEngine u s) := by
  unfold startEngine
  repeat' first | intro _ | (with_reducible first | assumption | apply takeTrig_keeps | apply State.withAxis_keeps | apply ite_keeps | apply foldl_keeps) | (with_reducible apply State.keeps_mk <;> first | exact .inr ‹_› | exact .inl rfl | exact .inl ⟨rfl, rfl⟩ | exact .inl ⟨rfl, rfl, rfl⟩ | exact .inl ⟨rfl, rfl, rfl, rfl⟩ | exact .inl ⟨rfl, rfl, rfl, rfl, rfl⟩ | skip) | rfl | exact OtpLe.refl _ | split | (extract_lets; split) | (dsimp +zetaDelta only; split)

theorem enableAxis_keeps (a : Nat) (s : State) (p_axis : m .axis = true) (hs : Keeps m r s) : Keeps m r (enableAxis a s) := by
  unfold enableAxis
  repeat' first | intro _ | (with_reducible first | assumption | apply State.setAx_keeps | apply ite_keeps | apply foldl_keeps) | (with_reducible apply State.keeps_mk <;> first | exact .inr ‹_› | exact .inl rfl | exact .inl ⟨rfl, rfl⟩ | exact .inl ⟨rfl, rfl, rfl⟩ | exact .inl ⟨rfl, rfl, rfl, rfl⟩ | exact .inl ⟨rfl, rfl, rfl, rfl, rfl⟩ | skip) | rfl | exact OtpLe.refl _ | split | (extract_lets; split) | (dsimp +zetaDelta only; split)

theorem configAxis_keeps (k : Nat) (d : Slot) (s : State) (p_out : m .out = true) (p_slots : m .slots = true) (p_records : m .records = true) (p_time : m .time = true) (p_axis : m .axis = true) (hs : Keeps m r s) : Keeps m r (configAxis k d s) := by
  unfold configAxis
  repeat' first | intro _ | (with_reducible first | assumption | apply State.emit_keeps | apply done_keeps | apply resourceBusy_keeps | apply State.setAx_keeps | apply driveEnable_keeps | apply disableAxis_keeps | apply settleStops_keeps | apply startEngine_keeps | apply enableAxis_keeps | apply ite_keeps | apply foldl_keeps) | split | (extract_lets; split) | (with_reducible apply State.keeps_mk <;> first | exact .inr ‹_› | exact .inl rfl | exact .inl ⟨rfl, rfl⟩ | exact .inl ⟨rfl, rfl, rfl⟩ | exact .inl ⟨rfl, rfl, rfl, rfl⟩ | exact .inl ⟨rfl, rfl, rfl, rfl, rfl⟩ | skip) | rfl | exact OtpLe.refl _ | split | (extract_lets; split) | (dsimp +zetaDelta only; split)

theorem configSwitches_keeps (k : Nat) (d : Slot) (s : State) (p_slots : m .slots = true) (p_records : m .records = true) (p_axis : m .axis = true) (hs : Keeps m r s) : Keeps m r (configSwitches k d s) := by
  unfold configSwitches
  repeat' first | intro _ | (with_reducible first | assumption | apply done_keeps | apply resourceBusy_keeps | apply State.setAx_keeps | apply ite_keeps | apply foldl_keeps) | (with_reducible apply State.keeps_mk <;> first | exact .inr ‹_› | exact .inl rfl | exact .inl ⟨rfl, rfl⟩ | exact .inl ⟨rfl, rfl, rfl⟩ | exact .inl ⟨rfl, rfl, rfl, rfl⟩ | exact .inl ⟨rfl, rfl, rfl, rfl, rfl⟩ | skip) | rfl | exact OtpLe.refl _ | split | (extract_lets; split) | (dsimp +zetaDelta only; split)

theorem configGroup_keeps (k : Nat) (d : Slot) (s : State) (p_slots : m .slots = true) (p_records : m .records = true) (p_axis : m .axis = true) (hs : Keeps m r s) : Keeps m r (configGroup k d s) := by
  unfold configGroup
  repeat' first | intro _ | (with_reducible first | assumption | apply done_keeps | apply resourceBusy_keeps | apply State.withAxis_keeps | apply ite_keeps | apply foldl_keeps) | split | (extract_lets; split) | (with_reducible apply State.keeps_mk <;> first | exact .inr ‹_› | exact .inl rfl | exact .inl ⟨rfl, rfl⟩ | exact .inl ⟨rfl, rfl, rfl⟩ | exact .inl ⟨rfl, rfl, rfl, rfl⟩ | exact .inl ⟨rfl, rfl, rfl, rfl, rfl⟩ | skip) | rfl | exact OtpLe.refl _ | split | (extract_lets; split) | (dsimp +zetaDelta only; split)

theorem clearAxisFault_keeps (k : Nat) (a : Nat) (s : State) (p_out : m .out = true) (p_slots : m .slots = true) (p_records : m .records = true) (p_events : m .events = true) (p_pba : m .pba = true) (p_hostMem : m .hostMem = true) (p_axis : m .axis = true) (hs : Keeps m r s) : Keeps m r (clearAxisFault k a s) := by
  unfold clearAxisFault
  repeat' first | intro _ | (with_reducible first | assumption | apply raise_keeps | apply complete_keeps | apply done_keeps | apply State.setAx_keeps | apply ite_keeps | apply foldl_keeps) | (with_reducible apply State.keeps_mk <;> first | exact .inr ‹_› | exact .inl rfl | exact .inl ⟨rfl, rfl⟩ | exact .inl ⟨rfl, rfl, rfl⟩ | exact .inl ⟨rfl, rfl, rfl, rfl⟩ | exact .inl ⟨rfl, rfl, rfl, rfl, rfl⟩ | skip) | rfl | exact OtpLe.refl _ | split | (extract_lets; split) | (dsimp +zetaDelta only; split)

theorem execAxisConfig_keeps (slot : Nat) (s : State) (p_out : m .out = true) (p_slots : m .slots = true) (p_records : m .records = true) (p_events : m .events = true) (p_pba : m .pba = true) (p_hostMem : m .hostMem = true) (p_time : m .time = true) (p_axis : m .axis = true) (hs : Keeps m r s) : OutKeeps m r (execAxisConfig slot s) := by
  unfold execAxisConfig
  repeat' first | intro _ | (with_reducible first | assumption | apply OutKeeps.next | apply OutKeeps.fault | apply ite_outKeeps | apply done_keeps | apply resourceBusy_keeps | apply runCmd_keeps | apply State.withAxis_keeps | apply configAxis_keeps | apply configSwitches_keeps | apply configGroup_keeps | apply clearAxisFault_keeps | apply ite_keeps | apply foldl_keeps) | split | (extract_lets; split) | (with_reducible apply State.keeps_mk <;> first | exact .inr ‹_› | exact .inl rfl | exact .inl ⟨rfl, rfl⟩ | exact .inl ⟨rfl, rfl, rfl⟩ | exact .inl ⟨rfl, rfl, rfl, rfl⟩ | exact .inl ⟨rfl, rfl, rfl, rfl, rfl⟩ | skip) | rfl | exact OtpLe.refl _ | split | (extract_lets; split) | (dsimp +zetaDelta only; split)

theorem startMove_keeps (a : Nat) (target : Int) (l : Limits) (slot : Nat) (id : Nat) (s : State) (p_axis : m .axis = true) (hs : Keeps m r s) : Keeps m r (startMove a target l slot id s) := by
  unfold startMove
  repeat' first | intro _ | (with_reducible first | assumption | apply State.setAx_keeps | apply ite_keeps | apply foldl_keeps) | (with_reducible apply State.keeps_mk <;> first | exact .inr ‹_› | exact .inl rfl | exact .inl ⟨rfl, rfl⟩ | exact .inl ⟨rfl, rfl, rfl⟩ | exact .inl ⟨rfl, rfl, rfl, rfl⟩ | exact .inl ⟨rfl, rfl, rfl, rfl, rfl⟩ | skip) | rfl | exact OtpLe.refl _ | split | (extract_lets; split) | (dsimp +zetaDelta only; split)

theorem execAxisMove_keeps (slot : Nat) (s : State) (p_slots : m .slots = true) (p_records : m .records = true) (p_axis : m .axis = true) (hs : Keeps m r s) : OutKeeps m r (execAxisMove slot s) := by
  unfold execAxisMove
  repeat' first | intro _ | (with_reducible first | assumption | apply OutKeeps.next | apply OutKeeps.fault | apply ite_outKeeps | apply complete_keeps | apply resourceBusy_keeps | apply runCmd_keeps | apply endAxisCmd_keeps | apply startMove_keeps | apply ite_keeps | apply foldl_keeps) | (with_reducible apply State.keeps_mk <;> first | exact .inr ‹_› | exact .inl rfl | exact .inl ⟨rfl, rfl⟩ | exact .inl ⟨rfl, rfl, rfl⟩ | exact .inl ⟨rfl, rfl, rfl, rfl⟩ | exact .inl ⟨rfl, rfl, rfl, rfl, rfl⟩ | skip) | rfl | exact OtpLe.refl _ | split | (extract_lets; split) | (dsimp +zetaDelta only; split)

theorem startGroup_keeps (g : Nat) (targets : List (Nat × Int)) (slot : Nat) (id : Nat) (s : State) (p_axis : m .axis = true) (hs : Keeps m r s) : Keeps m r (startGroup g targets slot id s) := by
  unfold startGroup
  repeat' first | intro _ | (with_reducible first | assumption | apply State.setAx_keeps | apply State.setMove_keeps | apply ite_keeps | apply foldl_keeps) | (with_reducible apply State.keeps_mk <;> first | exact .inr ‹_› | exact .inl rfl | exact .inl ⟨rfl, rfl⟩ | exact .inl ⟨rfl, rfl, rfl⟩ | exact .inl ⟨rfl, rfl, rfl, rfl⟩ | exact .inl ⟨rfl, rfl, rfl, rfl, rfl⟩ | skip) | rfl | exact OtpLe.refl _ | split | (extract_lets; split) | (dsimp +zetaDelta only; split)

theorem execAxisGroupMove_keeps (slot : Nat) (s : State) (p_slots : m .slots = true) (p_records : m .records = true) (p_axis : m .axis = true) (hs : Keeps m r s) : OutKeeps m r (execAxisGroupMove slot s) := by
  unfold execAxisGroupMove
  repeat' first | intro _ | (with_reducible first | assumption | apply OutKeeps.next | apply OutKeeps.fault | apply ite_outKeeps | apply complete_keeps | apply resourceBusy_keeps | apply runCmd_keeps | apply startGroup_keeps | apply ite_keeps | apply foldl_keeps) | split | (extract_lets; split) | (with_reducible apply State.keeps_mk <;> first | exact .inr ‹_› | exact .inl rfl | exact .inl ⟨rfl, rfl⟩ | exact .inl ⟨rfl, rfl, rfl⟩ | exact .inl ⟨rfl, rfl, rfl, rfl⟩ | exact .inl ⟨rfl, rfl, rfl, rfl, rfl⟩ | skip) | rfl | exact OtpLe.refl _ | split | (extract_lets; split) | (dsimp +zetaDelta only; split)

theorem startHoming_keeps (a : Nat) (s : State) (p_out : m .out = true) (p_slots : m .slots = true) (p_records : m .records = true) (p_events : m .events = true) (p_pba : m .pba = true) (p_hostMem : m .hostMem = true) (p_time : m .time = true) (p_axis : m .axis = true) (hs : Keeps m r s) : Keeps m r (startHoming a s) := by
  unfold startHoming
  repeat' first | intro _ | (with_reducible first | assumption | apply State.setAx_keeps | apply homeJog_keeps | apply latchHome_keeps | apply homeLimit_keeps | apply ite_keeps | apply foldl_keeps) | (with_reducible apply State.keeps_mk <;> first | exact .inr ‹_› | exact .inl rfl | exact .inl ⟨rfl, rfl⟩ | exact .inl ⟨rfl, rfl, rfl⟩ | exact .inl ⟨rfl, rfl, rfl, rfl⟩ | exact .inl ⟨rfl, rfl, rfl, rfl, rfl⟩ | skip) | rfl | exact OtpLe.refl _ | split | (extract_lets; split) | (dsimp +zetaDelta only; split)

theorem execAxisHome_keeps (slot : Nat) (s : State) (p_out : m .out = true) (p_slots : m .slots = true) (p_records : m .records = true) (p_events : m .events = true) (p_pba : m .pba = true) (p_hostMem : m .hostMem = true) (p_time : m .time = true) (p_axis : m .axis = true) (hs : Keeps m r s) : OutKeeps m r (execAxisHome slot s) := by
  unfold execAxisHome
  repeat' first | intro _ | (with_reducible first | assumption | apply OutKeeps.next | apply OutKeeps.fault | apply ite_outKeeps | apply complete_keeps | apply resourceBusy_keeps | apply runCmd_keeps | apply State.setAx_keeps | apply startHoming_keeps | apply ite_keeps | apply foldl_keeps) | (with_reducible apply State.keeps_mk <;> first | exact .inr ‹_› | exact .inl rfl | exact .inl ⟨rfl, rfl⟩ | exact .inl ⟨rfl, rfl, rfl⟩ | exact .inl ⟨rfl, rfl, rfl, rfl⟩ | exact .inl ⟨rfl, rfl, rfl, rfl, rfl⟩ | skip) | rfl | exact OtpLe.refl _ | split | (extract_lets; split) | (dsimp +zetaDelta only; split)

theorem stopAxis_keeps (mode : Nat) (s : State) (a : Nat) (p_out : m .out = true) (p_slots : m .slots = true) (p_records : m .records = true) (p_time : m .time = true) (p_axis : m .axis = true) (hs : Keeps m r s) : Keeps m r (stopAxis mode s a) := by
  unfold stopAxis
  repeat' first | intro _ | (with_reducible first | assumption | apply State.setMove_keeps | apply endAxisCmd_keeps | apply stopMove_keeps | apply brake_keeps | apply disableAxis_keeps | apply ite_keeps | apply foldl_keeps) | (with_reducible apply State.keeps_mk <;> first | exact .inr ‹_› | exact .inl rfl | exact .inl ⟨rfl, rfl⟩ | exact .inl ⟨rfl, rfl, rfl⟩ | exact .inl ⟨rfl, rfl, rfl, rfl⟩ | exact .inl ⟨rfl, rfl, rfl, rfl, rfl⟩ | skip) | rfl | exact OtpLe.refl _ | split | (extract_lets; split) | (dsimp +zetaDelta only; split)

theorem axisStop_keeps (k : Nat) (d : Slot) (s : State) (p_out : m .out = true) (p_slots : m .slots = true) (p_records : m .records = true) (p_time : m .time = true) (p_axis : m .axis = true) (hs : Keeps m r s) : Keeps m r (axisStop k d s) := by
  unfold axisStop
  repeat' first | intro _ | (with_reducible first | assumption | apply done_keeps | apply State.withAxis_keeps | apply settleStops_keeps | apply stopAxis_keeps | apply ite_keeps | apply foldl_keeps) | (with_reducible apply State.keeps_mk <;> first | exact .inr ‹_› | exact .inl rfl | exact .inl ⟨rfl, rfl⟩ | exact .inl ⟨rfl, rfl, rfl⟩ | exact .inl ⟨rfl, rfl, rfl, rfl⟩ | exact .inl ⟨rfl, rfl, rfl, rfl, rfl⟩ | skip) | rfl | exact OtpLe.refl _ | split | (extract_lets; split) | (dsimp +zetaDelta only; split)

end Sys2Proof.Machine
end

