-- ==== Sys2Proof/Laws/KeepsMemCore.lean ====
section
/-! SUPPORT. `Keeps` for the definitions of Machine/MemCore.lean, one lemma for each. -/

set_option linter.all false
set_option Elab.async false
set_option maxRecDepth 4000
namespace Sys2Proof.Machine

variable {m : Part → Bool} {r : State}

theorem readyBuf_keeps (h : Nat) (s : State) (p_bufs : m .bufs = true) (hs : Keeps m r s) : Keeps m r (readyBuf h s) := by
  unfold readyBuf
  repeat' first | intro _ | (with_reducible first | assumption | apply State.setBuf_keeps | apply ite_keeps | apply foldl_keeps) | (with_reducible apply State.keeps_mk <;> first | exact .inr ‹_› | exact .inl rfl | exact .inl ⟨rfl, rfl⟩ | exact .inl ⟨rfl, rfl, rfl⟩ | exact .inl ⟨rfl, rfl, rfl, rfl⟩ | exact .inl ⟨rfl, rfl, rfl, rfl, rfl⟩ | skip) | rfl | exact OtpLe.refl _ | split | (extract_lets; split) | (dsimp +zetaDelta only; split)

theorem releaseRate_keeps (key : Nat) (s : State) (p_mem : m .mem = true) (hs : Keeps m r s) : Keeps m r (releaseRate key s) := by
  unfold releaseRate
  repeat' first | intro _ | (with_reducible first | assumption | apply ite_keeps | apply foldl_keeps) | (with_reducible apply State.keeps_mk <;> first | exact .inr ‹_› | exact .inl rfl | exact .inl ⟨rfl, rfl⟩ | exact .inl ⟨rfl, rfl, rfl⟩ | exact .inl ⟨rfl, rfl, rfl, rfl⟩ | exact .inl ⟨rfl, rfl, rfl, rfl, rfl⟩ | skip) | rfl | exact OtpLe.refl _ | split | (extract_lets; split) | (dsimp +zetaDelta only; split)

theorem holdRate_keeps (key : Nat) (rate : Nat) (s : State) (p_mem : m .mem = true) (hs : Keeps m r s) : Keeps m r (holdRate key rate s) := by
  unfold holdRate
  repeat' first | intro _ | (with_reducible first | assumption | apply releaseRate_keeps | apply ite_keeps | apply foldl_keeps) | (with_reducible apply State.keeps_mk <;> first | exact .inr ‹_› | exact .inl rfl | exact .inl ⟨rfl, rfl⟩ | exact .inl ⟨rfl, rfl, rfl⟩ | exact .inl ⟨rfl, rfl, rfl, rfl⟩ | exact .inl ⟨rfl, rfl, rfl, rfl, rfl⟩ | skip) | rfl | exact OtpLe.refl _ | split | (extract_lets; split) | (dsimp +zetaDelta only; split)

theorem noBandwidth_keeps (k : Nat) (port : Nat) (s : State) (p_slots : m .slots = true) (p_records : m .records = true) (p_mem : m .mem = true) (hs : Keeps m r s) : Keeps m r (noBandwidth k port s) := by
  unfold noBandwidth
  repeat' first | intro _ | (with_reducible first | assumption | apply complete_keeps | apply ite_keeps | apply foldl_keeps) | (with_reducible apply State.keeps_mk <;> first | exact .inr ‹_› | exact .inl rfl | exact .inl ⟨rfl, rfl⟩ | exact .inl ⟨rfl, rfl, rfl⟩ | exact .inl ⟨rfl, rfl, rfl, rfl⟩ | exact .inl ⟨rfl, rfl, rfl, rfl, rfl⟩ | skip) | rfl | exact OtpLe.refl _ | split | (extract_lets; split) | (dsimp +zetaDelta only; split)

end Sys2Proof.Machine
end

