-- ==== Sys2Proof/Laws/KeepsCamCmd.lean ====
section
/-! SUPPORT. `Keeps` for the definitions of Machine/CamCmd.lean, one lemma for each. -/

set_option linter.all false
set_option Elab.async false
set_option maxRecDepth 4000
namespace Sys2Proof.Machine

variable {m : Part → Bool} {r : State}

theorem State.withCam_keeps (s : State) (f : Cam → Cam) (p_cam : m .cam = true) (hs : Keeps m r s) : Keeps m r (State.withCam s f) := by
  unfold State.withCam
  repeat' first | intro _ | (with_reducible first | assumption | apply ite_keeps | apply foldl_keeps) | (with_reducible apply State.keeps_mk <;> first | exact .inr ‹_› | exact .inl rfl | exact .inl ⟨rfl, rfl⟩ | exact .inl ⟨rfl, rfl, rfl⟩ | exact .inl ⟨rfl, rfl, rfl, rfl⟩ | exact .inl ⟨rfl, rfl, rfl, rfl, rfl⟩ | skip) | rfl | exact OtpLe.refl _ | split | (extract_lets; split) | (dsimp +zetaDelta only; split)

theorem State.setCamPort_keeps (s : State) (p : Nat) (x : CamPort) (p_cam : m .cam = true) (hs : Keeps m r s) : Keeps m r (State.setCamPort s p x) := by
  unfold State.setCamPort
  repeat' first | intro _ | (with_reducible first | assumption | apply State.withCam_keeps | apply ite_keeps | apply foldl_keeps) | (with_reducible apply State.keeps_mk <;> first | exact .inr ‹_› | exact .inl rfl | exact .inl ⟨rfl, rfl⟩ | exact .inl ⟨rfl, rfl, rfl⟩ | exact .inl ⟨rfl, rfl, rfl, rfl⟩ | exact .inl ⟨rfl, rfl, rfl, rfl, rfl⟩ | skip) | rfl | exact OtpLe.refl _ | split | (extract_lets; split) | (dsimp +zetaDelta only; split)

theorem State.setStream_keeps (s : State) (n : Nat) (x : CamStream) (p_cam : m .cam = true) (hs : Keeps m r s) : Keeps m r (State.setStream s n x) := by
  unfold State.setStream
  repeat' first | intro _ | (with_reducible first | assumption | apply State.withCam_keeps | apply ite_keeps | apply foldl_keeps) | (with_reducible apply State.keeps_mk <;> first | exact .inr ‹_› | exact .inl rfl | exact .inl ⟨rfl, rfl⟩ | exact .inl ⟨rfl, rfl, rfl⟩ | exact .inl ⟨rfl, rfl, rfl, rfl⟩ | exact .inl ⟨rfl, rfl, rfl, rfl, rfl⟩ | skip) | rfl | exact OtpLe.refl _ | split | (extract_lets; split) | (dsimp +zetaDelta only; split)

theorem State.setCtx_keeps (s : State) (n : Nat) (x : CamCtx) (p_cam : m .cam = true) (hs : Keeps m r s) : Keeps m r (State.setCtx s n x) := by
  unfold State.setCtx
  repeat' first | intro _ | (with_reducible first | assumption | apply State.withCam_keeps | apply ite_keeps | apply foldl_keeps) | (with_reducible apply State.keeps_mk <;> first | exact .inr ‹_› | exact .inl rfl | exact .inl ⟨rfl, rfl⟩ | exact .inl ⟨rfl, rfl, rfl⟩ | exact .inl ⟨rfl, rfl, rfl, rfl⟩ | exact .inl ⟨rfl, rfl, rfl, rfl, rfl⟩ | skip) | rfl | exact OtpLe.refl _ | split | (extract_lets; split) | (dsimp +zetaDelta only; split)

theorem releaseCtx_keeps (c : Nat) (s : State) (p_cam : m .cam = true) (p_mem : m .mem = true) (hs : Keeps m r s) : Keeps m r (releaseCtx c s) := by
  unfold releaseCtx
  repeat' first | intro _ | (with_reducible first | assumption | apply releaseRate_keeps | apply State.setCtx_keeps | apply ite_keeps | apply foldl_keeps) | (with_reducible apply State.keeps_mk <;> first | exact .inr ‹_› | exact .inl rfl | exact .inl ⟨rfl, rfl⟩ | exact .inl ⟨rfl, rfl, rfl⟩ | exact .inl ⟨rfl, rfl, rfl, rfl⟩ | exact .inl ⟨rfl, rfl, rfl, rfl, rfl⟩ | skip) | rfl | exact OtpLe.refl _ | split | (extract_lets; split) | (dsimp +zetaDelta only; split)

theorem execCamContext_keeps (slot : Nat) (s : State) (p_slots : m .slots = true) (p_records : m .records = true) (p_cam : m .cam = true) (p_mem : m .mem = true) (hs : Keeps m r s) : OutKeeps m r (execCamContext slot s) := by
  unfold execCamContext
  repeat' first | intro _ | (with_reducible first | assumption | apply OutKeeps.next | apply OutKeeps.fault | apply ite_outKeeps | apply done_keeps | apply resourceBusy_keeps | apply runCmd_keeps | apply State.setCamPort_keeps | apply State.setStream_keeps | apply State.setCtx_keeps | apply releaseCtx_keeps | apply ite_keeps | apply foldl_keeps) | split | (extract_lets; split) | (with_reducible apply State.keeps_mk <;> first | exact .inr ‹_› | exact .inl rfl | exact .inl ⟨rfl, rfl⟩ | exact .inl ⟨rfl, rfl, rfl⟩ | exact .inl ⟨rfl, rfl, rfl, rfl⟩ | exact .inl ⟨rfl, rfl, rfl, rfl, rfl⟩ | skip) | rfl | exact OtpLe.refl _ | split | (extract_lets; split) | (dsimp +zetaDelta only; split)

theorem settingsDone_keeps (after : Nat) (stream : Nat) (id : Nat) (outcome : Nat) (n : FrameNo) (first : FrameNo) (slips : Nat) (entry : Nat) (s : State) (p_out : m .out = true) (p_events : m .events = true) (p_pba : m .pba = true) (p_hostMem : m .hostMem = true) (hs : Keeps m r s) : Keeps m r (settingsDone after stream id outcome n first slips entry s) := by
  unfold settingsDone
  repeat' first | intro _ | (with_reducible first | assumption | apply raiseAfter_keeps | apply ite_keeps | apply foldl_keeps) | (with_reducible apply State.keeps_mk <;> first | exact .inr ‹_› | exact .inl rfl | exact .inl ⟨rfl, rfl⟩ | exact .inl ⟨rfl, rfl, rfl⟩ | exact .inl ⟨rfl, rfl, rfl, rfl⟩ | exact .inl ⟨rfl, rfl, rfl, rfl, rfl⟩ | skip) | rfl | exact OtpLe.refl _ | split | (extract_lets; split) | (dsimp +zetaDelta only; split)

theorem stageSettings_keeps (k : Nat) (d : Slot) (im : Settings) (s : State) (p_out : m .out = true) (p_slots : m .slots = true) (p_records : m .records = true) (p_events : m .events = true) (p_pba : m .pba = true) (p_hostMem : m .hostMem = true) (p_cam : m .cam = true) (hs : Keeps m r s) : Keeps m r (stageSettings k d im s) := by
  unfold stageSettings
  repeat' first | intro _ | (with_reducible first | assumption | apply complete_keeps | apply badParam_keeps | apply State.setStream_keeps | apply settingsDone_keeps | apply ite_keeps | apply foldl_keeps) | split | (extract_lets; split) | (with_reducible apply State.keeps_mk <;> first | exact .inr ‹_› | exact .inl rfl | exact .inl ⟨rfl, rfl⟩ | exact .inl ⟨rfl, rfl, rfl⟩ | exact .inl ⟨rfl, rfl, rfl, rfl⟩ | exact .inl ⟨rfl, rfl, rfl, rfl, rfl⟩ | skip) | rfl | exact OtpLe.refl _ | split | (extract_lets; split) | (dsimp +zetaDelta only; split)

theorem execCamSettings_keeps (slot : Nat) (s : State) (p_out : m .out = true) (p_slots : m .slots = true) (p_records : m .records = true) (p_events : m .events = true) (p_pba : m .pba = true) (p_hostMem : m .hostMem = true) (p_cam : m .cam = true) (hs : Keeps m r s) : OutKeeps m r (execCamSettings slot s) := by
  unfold execCamSettings
  repeat' first | intro _ | (with_reducible first | assumption | apply OutKeeps.next | apply OutKeeps.fault | apply ite_outKeeps | apply badParam_keeps | apply badImage_keeps | apply runCmd_keeps | apply stageSettings_keeps | apply ite_keeps | apply foldl_keeps) | split | (extract_lets; split) | (with_reducible apply State.keeps_mk <;> first | exact .inr ‹_› | exact .inl rfl | exact .inl ⟨rfl, rfl⟩ | exact .inl ⟨rfl, rfl, rfl⟩ | exact .inl ⟨rfl, rfl, rfl, rfl⟩ | exact .inl ⟨rfl, rfl, rfl, rfl, rfl⟩ | skip) | rfl | exact OtpLe.refl _ | split | (extract_lets; split) | (dsimp +zetaDelta only; split)

theorem takeCamUnit_keeps (s : State) (n : Nat) (p_time : m .time = true) (hs : Keeps m r s) : Keeps m r (takeCamUnit s n) := by
  unfold takeCamUnit
  repeat' first | intro _ | (with_reducible first | assumption | apply State.setTrig_keeps | apply ite_keeps | apply foldl_keeps) | (with_reducible apply State.keeps_mk <;> first | exact .inr ‹_› | exact .inl rfl | exact .inl ⟨rfl, rfl⟩ | exact .inl ⟨rfl, rfl, rfl⟩ | exact .inl ⟨rfl, rfl, rfl, rfl⟩ | exact .inl ⟨rfl, rfl, rfl, rfl, rfl⟩ | skip) | rfl | exact OtpLe.refl _ | split | (extract_lets; split) | (dsimp +zetaDelta only; split)

theorem armPending_keeps (s : State) (n : Nat) (p_cam : m .cam = true) (hs : Keeps m r s) : Keeps m r (armPending s n) := by
  unfold armPending
  repeat' first | intro _ | (with_reducible first | assumption | apply State.setStream_keeps | apply ite_keeps | apply foldl_keeps) | (with_reducible apply State.keeps_mk <;> first | exact .inr ‹_› | exact .inl rfl | exact .inl ⟨rfl, rfl⟩ | exact .inl ⟨rfl, rfl, rfl⟩ | exact .inl ⟨rfl, rfl, rfl, rfl⟩ | exact .inl ⟨rfl, rfl, rfl, rfl, rfl⟩ | skip) | rfl | exact OtpLe.refl _ | split | (extract_lets; split) | (dsimp +zetaDelta only; split)

theorem execCamStart_keeps (slot : Nat) (s : State) (p_slots : m .slots = true) (p_records : m .records = true) (p_time : m .time = true) (p_cam : m .cam = true) (hs : Keeps m r s) : OutKeeps m r (execCamStart slot s) := by
  unfold execCamStart
  repeat' first | intro _ | (with_reducible first | assumption | apply OutKeeps.next | apply OutKeeps.fault | apply ite_outKeeps | apply doneWith_keeps | apply badImage_keeps | apply resourceBusy_keeps | apply runCmd_keeps | apply State.setCtx_keeps | apply takeCamUnit_keeps | apply armPending_keeps | apply ite_keeps | apply foldl_keeps) | split | (extract_lets; split) | (with_reducible apply State.keeps_mk <;> first | exact .inr ‹_› | exact .inl rfl | exact .inl ⟨rfl, rfl⟩ | exact .inl ⟨rfl, rfl, rfl⟩ | exact .inl ⟨rfl, rfl, rfl, rfl⟩ | exact .inl ⟨rfl, rfl, rfl, rfl, rfl⟩ | skip) | rfl | exact OtpLe.refl _ | split | (extract_lets; split) | (dsimp +zetaDelta only; split)

theorem releaseCamUnit_keeps (s : State) (n : Nat) (p_time : m .time = true) (hs : Keeps m r s) : Keeps m r (releaseCamUnit s n) := by
  unfold releaseCamUnit
  repeat' first | intro _ | (with_reducible first | assumption | apply freeTrig_keeps | apply ite_keeps | apply foldl_keeps) | (with_reducible apply State.keeps_mk <;> first | exact .inr ‹_› | exact .inl rfl | exact .inl ⟨rfl, rfl⟩ | exact .inl ⟨rfl, rfl, rfl⟩ | exact .inl ⟨rfl, rfl, rfl, rfl⟩ | exact .inl ⟨rfl, rfl, rfl, rfl, rfl⟩ | skip) | rfl | exact OtpLe.refl _ | split | (extract_lets; split) | (dsimp +zetaDelta only; split)

theorem stopCtxs_keeps (cs : List Nat) (s : State) (p_time : m .time = true) (p_cam : m .cam = true) (hs : Keeps m r s) : Keeps m r (stopCtxs cs s) := by
  unfold stopCtxs
  repeat' first | intro _ | (with_reducible first | assumption | apply State.setCtx_keeps | apply releaseCamUnit_keeps | apply ite_keeps | apply foldl_keeps) | (with_reducible apply State.keeps_mk <;> first | exact .inr ‹_› | exact .inl rfl | exact .inl ⟨rfl, rfl⟩ | exact .inl ⟨rfl, rfl, rfl⟩ | exact .inl ⟨rfl, rfl, rfl, rfl⟩ | exact .inl ⟨rfl, rfl, rfl, rfl, rfl⟩ | skip) | rfl | exact OtpLe.refl _ | split | (extract_lets; split) | (dsimp +zetaDelta only; split)

theorem execCamStop_keeps (slot : Nat) (s : State) (p_slots : m .slots = true) (p_records : m .records = true) (p_time : m .time = true) (p_cam : m .cam = true) (hs : Keeps m r s) : OutKeeps m r (execCamStop slot s) := by
  unfold execCamStop
  repeat' first | intro _ | (with_reducible first | assumption | apply OutKeeps.next | apply OutKeeps.fault | apply ite_outKeeps | apply done_keeps | apply runCmd_keeps | apply stopCtxs_keeps | apply ite_keeps | apply foldl_keeps) | (with_reducible apply State.keeps_mk <;> first | exact .inr ‹_› | exact .inl rfl | exact .inl ⟨rfl, rfl⟩ | exact .inl ⟨rfl, rfl, rfl⟩ | exact .inl ⟨rfl, rfl, rfl, rfl⟩ | exact .inl ⟨rfl, rfl, rfl, rfl, rfl⟩ | skip) | rfl | exact OtpLe.refl _ | split | (extract_lets; split) | (dsimp +zetaDelta only; split)

theorem execCamOutput_keeps (slot : Nat) (s : State) (p_slots : m .slots = true) (p_records : m .records = true) (p_cam : m .cam = true) (p_mem : m .mem = true) (hs : Keeps m r s) : OutKeeps m r (execCamOutput slot s) := by
  unfold execCamOutput
  repeat' first | intro _ | (with_reducible first | assumption | apply OutKeeps.next | apply OutKeeps.fault | apply ite_outKeeps | apply done_keeps | apply badImage_keeps | apply resourceBusy_keeps | apply runCmd_keeps | apply releaseRate_keeps | apply holdRate_keeps | apply noBandwidth_keeps | apply State.setCtx_keeps | apply ite_keeps | apply foldl_keeps) | split | (extract_lets; split) | (with_reducible apply State.keeps_mk <;> first | exact .inr ‹_› | exact .inl rfl | exact .inl ⟨rfl, rfl⟩ | exact .inl ⟨rfl, rfl, rfl⟩ | exact .inl ⟨rfl, rfl, rfl, rfl⟩ | exact .inl ⟨rfl, rfl, rfl, rfl, rfl⟩ | skip) | rfl | exact OtpLe.refl _ | split | (extract_lets; split) | (dsimp +zetaDelta only; split)

end Sys2Proof.Machine
end

