-- ==== Sys2Proof/Laws/KeepsCamFrame.lean ====
section
/-! SUPPORT. `Keeps` for the definitions of Machine/CamFrame.lean, one lemma for each. -/

set_option linter.all false
set_option Elab.async false
set_option maxRecDepth 4000
namespace Sys2Proof.Machine

variable {m : Part → Bool} {r : State}

theorem strobePulse_keeps (band : Nat) (on : Nat) (off : Nat) (s : State) (p_out : m .out = true) (p_cam : m .cam = true) (hs : Keeps m r s) : Keeps m r (strobePulse band on off s) := by
  unfold strobePulse
  repeat' first | intro _ | (with_reducible first | assumption | apply State.emit_keeps | apply State.withCam_keeps | apply ite_keeps | apply foldl_keeps) | (with_reducible apply State.keeps_mk <;> first | exact .inr ‹_› | exact .inl rfl | exact .inl ⟨rfl, rfl⟩ | exact .inl ⟨rfl, rfl, rfl⟩ | exact .inl ⟨rfl, rfl, rfl, rfl⟩ | exact .inl ⟨rfl, rfl, rfl, rfl, rfl⟩ | skip) | rfl | exact OtpLe.refl _ | split | (extract_lets; split) | (dsimp +zetaDelta only; split)

theorem expose_keeps (s : State) (n : Nat) (p_out : m .out = true) (p_cam : m .cam = true) (hs : Keeps m r s) : Keeps m r (expose s n) := by
  unfold expose
  repeat' first | intro _ | (with_reducible first | assumption | apply State.setStream_keeps | apply strobePulse_keeps | apply ite_keeps | apply foldl_keeps) | (with_reducible apply State.keeps_mk <;> first | exact .inr ‹_› | exact .inl rfl | exact .inl ⟨rfl, rfl⟩ | exact .inl ⟨rfl, rfl, rfl⟩ | exact .inl ⟨rfl, rfl, rfl, rfl⟩ | exact .inl ⟨rfl, rfl, rfl, rfl, rfl⟩ | skip) | rfl | exact OtpLe.refl _ | split | (extract_lets; split) | (dsimp +zetaDelta only; split)

theorem exposeUnit_keeps (u : Nat) (s : State) (p_out : m .out = true) (p_cam : m .cam = true) (hs : Keeps m r s) : Keeps m r (exposeUnit u s) := by
  unfold exposeUnit
  repeat' first | intro _ | (with_reducible first | assumption | apply expose_keeps | apply ite_keeps | apply foldl_keeps) | (with_reducible apply State.keeps_mk <;> first | exact .inr ‹_› | exact .inl rfl | exact .inl ⟨rfl, rfl⟩ | exact .inl ⟨rfl, rfl, rfl⟩ | exact .inl ⟨rfl, rfl, rfl, rfl⟩ | exact .inl ⟨rfl, rfl, rfl, rfl, rfl⟩ | skip) | rfl | exact OtpLe.refl _ | split | (extract_lets; split) | (dsimp +zetaDelta only; split)

theorem execStrobeEnd_keeps (band : Nat) (s : State) (p_out : m .out = true) (p_cam : m .cam = true) (hs : Keeps m r s) : OutKeeps m r (execStrobeEnd band s) := by
  unfold execStrobeEnd
  repeat' first | intro _ | (with_reducible first | assumption | apply OutKeeps.next | apply OutKeeps.fault | apply ite_outKeeps | apply State.emit_keeps | apply State.withCam_keeps | apply ite_keeps | apply foldl_keeps) | (with_reducible apply State.keeps_mk <;> first | exact .inr ‹_› | exact .inl rfl | exact .inl ⟨rfl, rfl⟩ | exact .inl ⟨rfl, rfl, rfl⟩ | exact .inl ⟨rfl, rfl, rfl, rfl⟩ | exact .inl ⟨rfl, rfl, rfl, rfl, rfl⟩ | skip) | rfl | exact OtpLe.refl _ | split | (extract_lets; split) | (dsimp +zetaDelta only; split)

theorem strobesOff_keeps (s : State) (p_out : m .out = true) (p_cam : m .cam = true) (hs : Keeps m r s) : Keeps m r (strobesOff s) := by
  unfold strobesOff
  repeat' first | intro _ | (with_reducible first | assumption | apply State.emit_keeps | apply State.withCam_keeps | apply ite_keeps | apply foldl_keeps) | (with_reducible apply State.keeps_mk <;> first | exact .inr ‹_› | exact .inl rfl | exact .inl ⟨rfl, rfl⟩ | exact .inl ⟨rfl, rfl, rfl⟩ | exact .inl ⟨rfl, rfl, rfl, rfl⟩ | exact .inl ⟨rfl, rfl, rfl, rfl, rfl⟩ | skip) | rfl | exact OtpLe.refl _ | split | (extract_lets; split) | (dsimp +zetaDelta only; split)

theorem drainPipe_keeps (a0 : Nat) (a1 : State) (p_cam : m .cam = true) (ha1 : Keeps m r a1) : Keeps m r (drainPipe a0 a1) := by
  induction a0 generalizing a1 with
  | zero => exact ha1
  | succ k ih =>
    unfold drainPipe
    repeat' first | with_reducible apply ih | intro _ | (with_reducible first | assumption | apply State.withCam_keeps | apply ite_keeps | apply foldl_keeps) | split | (extract_lets; split) | (with_reducible apply State.keeps_mk <;> first | exact .inr ‹_› | exact .inl rfl | exact .inl ⟨rfl, rfl⟩ | exact .inl ⟨rfl, rfl, rfl⟩ | exact .inl ⟨rfl, rfl, rfl, rfl⟩ | exact .inl ⟨rfl, rfl, rfl, rfl, rfl⟩ | skip) | rfl | exact OtpLe.refl _ | split | (extract_lets; split) | (dsimp +zetaDelta only; split)

theorem dropEvent_keeps (c : Nat) (seq : FrameNo) (reason : Nat) (s : State) (p_out : m .out = true) (p_events : m .events = true) (p_pba : m .pba = true) (p_hostMem : m .hostMem = true) (p_cam : m .cam = true) (hs : Keeps m r s) : Keeps m r (dropEvent c seq reason s) := by
  unfold dropEvent
  repeat' first | intro _ | (with_reducible first | assumption | apply raise_keeps | apply State.setCtx_keeps | apply ite_keeps | apply foldl_keeps) | split | (extract_lets; split) | (with_reducible apply State.keeps_mk <;> first | exact .inr ‹_› | exact .inl rfl | exact .inl ⟨rfl, rfl⟩ | exact .inl ⟨rfl, rfl, rfl⟩ | exact .inl ⟨rfl, rfl, rfl, rfl⟩ | exact .inl ⟨rfl, rfl, rfl, rfl, rfl⟩ | skip) | rfl | exact OtpLe.refl _ | split | (extract_lets; split) | (dsimp +zetaDelta only; split)

theorem dropNoCtx_keeps (seq : FrameNo) (s : State) (p_out : m .out = true) (p_events : m .events = true) (p_pba : m .pba = true) (p_hostMem : m .hostMem = true) (p_cam : m .cam = true) (hs : Keeps m r s) : Keeps m r (dropNoCtx seq s) := by
  unfold dropNoCtx
  repeat' first | intro _ | (with_reducible first | assumption | apply raise_keeps | apply State.withCam_keeps | apply ite_keeps | apply foldl_keeps) | split | (extract_lets; split) | (with_reducible apply State.keeps_mk <;> first | exact .inr ‹_› | exact .inl rfl | exact .inl ⟨rfl, rfl⟩ | exact .inl ⟨rfl, rfl, rfl⟩ | exact .inl ⟨rfl, rfl, rfl, rfl⟩ | exact .inl ⟨rfl, rfl, rfl, rfl, rfl⟩ | skip) | rfl | exact OtpLe.refl _ | split | (extract_lets; split) | (dsimp +zetaDelta only; split)

theorem abandonLowest_keeps (s : State) (p_out : m .out = true) (p_events : m .events = true) (p_pba : m .pba = true) (p_hostMem : m .hostMem = true) (p_cam : m .cam = true) (hs : Keeps m r s) : Keeps m r (abandonLowest s) := by
  unfold abandonLowest
  repeat' first | intro _ | (with_reducible first | assumption | apply State.withCam_keeps | apply State.setStream_keeps | apply State.setCtx_keeps | apply dropEvent_keeps | apply ite_keeps | apply foldl_keeps) | split | (extract_lets; split) | (with_reducible apply State.keeps_mk <;> first | exact .inr ‹_› | exact .inl rfl | exact .inl ⟨rfl, rfl⟩ | exact .inl ⟨rfl, rfl, rfl⟩ | exact .inl ⟨rfl, rfl, rfl, rfl⟩ | exact .inl ⟨rfl, rfl, rfl, rfl, rfl⟩ | skip) | rfl | exact OtpLe.refl _ | split | (extract_lets; split) | (dsimp +zetaDelta only; split)

theorem takeHandles_keeps (c : Nat) (outs : Tab CamOut) (s : State) (p_cam : m .cam = true) (hs : Keeps m r s) :
    Keeps m r (takeHandles c outs s).1 := by
  have h : ∀ (l : Tab CamOut) (f : _ → Nat × CamOut → _) (a : State × Tab (Option (Nat × Nat × Nat))), Keeps m r a.1 →
      (∀ x e, Keeps m r x.1 → Keeps m r (f x e).1) → Keeps m r (l.foldl f a).1 := by
    intro l f
    induction l with
    | nil => exact fun _ h _ => h
    | cons e t ih => exact fun a h hf => ih _ (hf _ _ h) hf
  refine h _ _ _ hs fun x e hx => ?_
  dsimp only
  split
  · exact hx
  · split
    · exact hx
    · apply State.setCtx_keeps <;> assumption

theorem writeOutput_keeps (n : Nat) (c : Nat) (kind : Nat) (f : CamFrame) (v : InView) (dropped : Nat) (hwm : Int) (s : State) (p_bufs : m .bufs = true) (p_dram : m .dram = true) (p_poison : m .poison = true) (p_cam : m .cam = true) (hs : Keeps m r s) : Keeps m r (writeOutput n c kind f v dropped hwm s).1 := by
  unfold writeOutput
  repeat' first | intro _ | (with_reducible first | assumption | apply dramStore_keeps | apply readyBuf_keeps | apply State.setCtx_keeps | apply ite_keeps | apply foldl_keeps) | split | (extract_lets; split) | (with_reducible apply State.keeps_mk <;> first | exact .inr ‹_› | exact .inl rfl | exact .inl ⟨rfl, rfl⟩ | exact .inl ⟨rfl, rfl, rfl⟩ | exact .inl ⟨rfl, rfl, rfl, rfl⟩ | exact .inl ⟨rfl, rfl, rfl, rfl, rfl⟩ | skip) | rfl | exact OtpLe.refl _ | split | (extract_lets; split) | (dsimp +zetaDelta only; split)

theorem deliverFrame_keeps (n : Nat) (c : Nat) (f : CamFrame) (s : State) (p_out : m .out = true) (p_events : m .events = true) (p_bufs : m .bufs = true) (p_pba : m .pba = true) (p_dram : m .dram = true) (p_poison : m .poison = true) (p_hostMem : m .hostMem = true) (p_cam : m .cam = true) (hs : Keeps m r s) : Keeps m r (deliverFrame n c f s) := by
  unfold deliverFrame
  repeat' first | intro _ | (with_reducible first | assumption | apply raise_keeps | apply State.setCtx_keeps | apply writeOutput_keeps | apply ite_keeps | apply foldl_keeps) | (with_reducible apply State.keeps_mk <;> first | exact .inr ‹_› | exact .inl rfl | exact .inl ⟨rfl, rfl⟩ | exact .inl ⟨rfl, rfl, rfl⟩ | exact .inl ⟨rfl, rfl, rfl, rfl⟩ | exact .inl ⟨rfl, rfl, rfl, rfl, rfl⟩ | skip) | rfl | exact OtpLe.refl _ | split | (extract_lets; split) | (dsimp +zetaDelta only; split)

theorem endFrame_keeps (n : Nat) (s : State) (p_out : m .out = true) (p_events : m .events = true) (p_bufs : m .bufs = true) (p_pba : m .pba = true) (p_dram : m .dram = true) (p_poison : m .poison = true) (p_hostMem : m .hostMem = true) (p_cam : m .cam = true) (hs : Keeps m r s) : Keeps m r (endFrame n s).1 := by
  unfold endFrame
  repeat' first | intro _ | (with_reducible first | assumption | apply State.setStream_keeps | apply State.setCtx_keeps | apply dropEvent_keeps | apply deliverFrame_keeps | apply ite_keeps | apply foldl_keeps) | split | (extract_lets; split) | (with_reducible apply State.keeps_mk <;> first | exact .inr ‹_› | exact .inl rfl | exact .inl ⟨rfl, rfl⟩ | exact .inl ⟨rfl, rfl, rfl⟩ | exact .inl ⟨rfl, rfl, rfl, rfl⟩ | exact .inl ⟨rfl, rfl, rfl, rfl, rfl⟩ | skip) | rfl | exact OtpLe.refl _ | split | (extract_lets; split) | (dsimp +zetaDelta only; split)

theorem applyDue_keeps (n : Nat) (seq : FrameNo) (s : State) (p_cam : m .cam = true) (hs : Keeps m r s) : Keeps m r (applyDue n seq s) := by
  unfold applyDue
  repeat' first | intro _ | (with_reducible first | assumption | apply State.setStream_keeps | apply State.setCtx_keeps | apply ite_keeps | apply foldl_keeps) | (with_reducible apply State.keeps_mk <;> first | exact .inr ‹_› | exact .inl rfl | exact .inl ⟨rfl, rfl⟩ | exact .inl ⟨rfl, rfl, rfl⟩ | exact .inl ⟨rfl, rfl, rfl, rfl⟩ | exact .inl ⟨rfl, rfl, rfl, rfl, rfl⟩ | skip) | rfl | exact OtpLe.refl _ | split | (extract_lets; split) | (dsimp +zetaDelta only; split)

theorem adoptOutputs_keeps (n : Nat) (s : State) (p_cam : m .cam = true) (hs : Keeps m r s) : Keeps m r (adoptOutputs n s) := by
  unfold adoptOutputs
  repeat' first | intro _ | (with_reducible first | assumption | apply State.setCtx_keeps | apply ite_keeps | apply foldl_keeps) | (with_reducible apply State.keeps_mk <;> first | exact .inr ‹_› | exact .inl rfl | exact .inl ⟨rfl, rfl⟩ | exact .inl ⟨rfl, rfl, rfl⟩ | exact .inl ⟨rfl, rfl, rfl, rfl⟩ | exact .inl ⟨rfl, rfl, rfl, rfl, rfl⟩ | skip) | rfl | exact OtpLe.refl _ | split | (extract_lets; split) | (dsimp +zetaDelta only; split)

theorem startFrame_keeps (n ecc : Nat) (s0 : State) (p_out : m .out = true) (p_events : m .events = true) (p_pba : m .pba = true) (p_hostMem : m .hostMem = true) (p_time : m .time = true) (p_cam : m .cam = true) (hs0 : Keeps m r s0) :
    Keeps m r (startFrame n ecc s0) := by
  unfold startFrame
  extract_lets x0 seq s1 x e band c atFs f s2 s3
  have h1 : Keeps m r s1 := by
    apply applyDue_keeps <;> with_reducible first | assumption | skip
    apply adoptOutputs_keeps <;> with_reducible first | assumption | skip
    apply State.setStream_keeps <;> assumption
  have h3 : Keeps m r s3 := by
    apply stamp_keeps <;> with_reducible first | assumption | skip
    apply State.setStream_keeps <;> assumption
  obtain hc | ⟨k, hc⟩ : c = none ∨ ∃ k, c = some k := by
    cases c
    · exact .inl rfl
    · exact .inr ⟨_, rfl⟩
  · rw [hc]
    dsimp only
    split
    · exact h3
    · apply dropNoCtx_keeps <;> assumption
  · rw [hc]
    apply State.setStream_keeps <;> with_reducible first | assumption | skip
    apply takeHandles_keeps <;> assumption

theorem dropPacket_keeps (port : Nat) (s : State) (p_cam : m .cam = true) (hs : Keeps m r s) : Keeps m r (dropPacket port s) := by
  unfold dropPacket
  repeat' first | intro _ | (with_reducible first | assumption | apply State.setCamPort_keeps | apply ite_keeps | apply foldl_keeps) | (with_reducible apply State.keeps_mk <;> first | exact .inr ‹_› | exact .inl rfl | exact .inl ⟨rfl, rfl⟩ | exact .inl ⟨rfl, rfl, rfl⟩ | exact .inl ⟨rfl, rfl, rfl, rfl⟩ | exact .inl ⟨rfl, rfl, rfl, rfl, rfl⟩ | skip) | rfl | exact OtpLe.refl _ | split | (extract_lets; split) | (dsimp +zetaDelta only; split)

theorem seenPort_keeps (port : Nat) (deskew : Bool) (s : State) (p_cam : m .cam = true) (hs : Keeps m r s) : Keeps m r (seenPort port deskew s) := by
  unfold seenPort
  repeat' first | intro _ | (with_reducible first | assumption | apply State.setCamPort_keeps | apply ite_keeps | apply foldl_keeps) | (with_reducible apply State.keeps_mk <;> first | exact .inr ‹_› | exact .inl rfl | exact .inl ⟨rfl, rfl⟩ | exact .inl ⟨rfl, rfl, rfl⟩ | exact .inl ⟨rfl, rfl, rfl, rfl⟩ | exact .inl ⟨rfl, rfl, rfl, rfl, rfl⟩ | skip) | rfl | exact OtpLe.refl _ | split | (extract_lets; split) | (dsimp +zetaDelta only; split)

theorem addLine_keeps (n : Nat) (dt : Nat) (payload : List Byte) (ecc : Nat) (crcOk : Bool) (s0 : State) (p_out : m .out = true) (p_events : m .events = true) (p_pba : m .pba = true) (p_hostMem : m .hostMem = true) (p_cam : m .cam = true) (hs0 : Keeps m r s0) : Keeps m r (addLine n dt payload ecc crcOk s0) := by
  unfold addLine
  repeat' first | intro _ | (with_reducible first | assumption | apply State.withCam_keeps | apply State.setStream_keeps | apply drainPipe_keeps | apply abandonLowest_keeps | apply ite_keeps | apply foldl_keeps) | split | (extract_lets; split) | (with_reducible apply State.keeps_mk <;> first | exact .inr ‹_› | exact .inl rfl | exact .inl ⟨rfl, rfl⟩ | exact .inl ⟨rfl, rfl, rfl⟩ | exact .inl ⟨rfl, rfl, rfl, rfl⟩ | exact .inl ⟨rfl, rfl, rfl, rfl, rfl⟩ | skip) | rfl | exact OtpLe.refl _ | split | (extract_lets; split) | (dsimp +zetaDelta only; split)

theorem badHeader_keeps (port : Nat) (vc : Nat) (s : State) (p_cam : m .cam = true) (hs : Keeps m r s) : Keeps m r (badHeader port vc s) := by
  unfold badHeader
  repeat' first | intro _ | (with_reducible first | assumption | apply State.setStream_keeps | apply dropPacket_keeps | apply ite_keeps | apply foldl_keeps) | split | (extract_lets; split) | (with_reducible apply State.keeps_mk <;> first | exact .inr ‹_› | exact .inl rfl | exact .inl ⟨rfl, rfl⟩ | exact .inl ⟨rfl, rfl, rfl⟩ | exact .inl ⟨rfl, rfl, rfl, rfl⟩ | exact .inl ⟨rfl, rfl, rfl, rfl, rfl⟩ | skip) | rfl | exact OtpLe.refl _ | split | (extract_lets; split) | (dsimp +zetaDelta only; split)

theorem chargePacket_keeps (port : Nat) (vc : Nat) (ecc : Nat) (crcOk : Bool) (s : State) (p_cam : m .cam = true) (hs : Keeps m r s) : Keeps m r (chargePacket port vc ecc crcOk s) := by
  unfold chargePacket
  repeat' first | intro _ | (with_reducible first | assumption | apply State.setStream_keeps | apply ite_keeps | apply foldl_keeps) | split | (extract_lets; split) | (with_reducible apply State.keeps_mk <;> first | exact .inr ‹_› | exact .inl rfl | exact .inl ⟨rfl, rfl⟩ | exact .inl ⟨rfl, rfl, rfl⟩ | exact .inl ⟨rfl, rfl, rfl, rfl⟩ | exact .inl ⟨rfl, rfl, rfl, rfl, rfl⟩ | skip) | rfl | exact OtpLe.refl _ | split | (extract_lets; split) | (dsimp +zetaDelta only; split)

theorem execCsiLinePacket_keeps (port : Nat) (vc : Nat) (dt : Nat) (payload : List Byte) (ecc : Nat) (crcOk : Bool) (s : State) (p_out : m .out = true) (p_events : m .events = true) (p_pba : m .pba = true) (p_hostMem : m .hostMem = true) (p_cam : m .cam = true) (hs : Keeps m r s) : OutKeeps m r (execCsiLinePacket port vc dt payload ecc crcOk s) := by
  unfold execCsiLinePacket
  repeat' first | intro _ | (with_reducible first | assumption | apply OutKeeps.next | apply OutKeeps.fault | apply ite_outKeeps | apply dropPacket_keeps | apply seenPort_keeps | apply addLine_keeps | apply badHeader_keeps | apply chargePacket_keeps | apply ite_keeps | apply foldl_keeps) | split | (extract_lets; split) | (with_reducible apply State.keeps_mk <;> first | exact .inr ‹_› | exact .inl rfl | exact .inl ⟨rfl, rfl⟩ | exact .inl ⟨rfl, rfl, rfl⟩ | exact .inl ⟨rfl, rfl, rfl, rfl⟩ | exact .inl ⟨rfl, rfl, rfl, rfl, rfl⟩ | skip) | rfl | exact OtpLe.refl _ | split | (extract_lets; split) | (dsimp +zetaDelta only; split)

theorem execScriptWriteStart_keeps (port : Nat) (s : State) (p_cam : m .cam = true) (hs : Keeps m r s) : OutKeeps m r (execScriptWriteStart port s) := by
  unfold execScriptWriteStart
  repeat' first | intro _ | (with_reducible first | assumption | apply OutKeeps.next | apply OutKeeps.fault | apply ite_outKeeps | apply State.setStream_keeps | apply ite_keeps | apply foldl_keeps) | split | (extract_lets; split) | (with_reducible apply State.keeps_mk <;> first | exact .inr ‹_› | exact .inl rfl | exact .inl ⟨rfl, rfl⟩ | exact .inl ⟨rfl, rfl, rfl⟩ | exact .inl ⟨rfl, rfl, rfl, rfl⟩ | exact .inl ⟨rfl, rfl, rfl, rfl, rfl⟩ | skip) | rfl | exact OtpLe.refl _ | split | (extract_lets; split) | (dsimp +zetaDelta only; split)

theorem execScriptWriteDone_keeps (port : Nat) (nak : Option Nat) (s : State) (p_out : m .out = true) (p_events : m .events = true) (p_pba : m .pba = true) (p_hostMem : m .hostMem = true) (p_cam : m .cam = true) (hs : Keeps m r s) : OutKeeps m r (execScriptWriteDone port nak s) := by
  unfold execScriptWriteDone
  repeat' first | intro _ | (with_reducible first | assumption | apply OutKeeps.next | apply OutKeeps.fault | apply ite_outKeeps | apply State.emit_keeps | apply State.setStream_keeps | apply settingsDone_keeps | apply ite_keeps | apply foldl_keeps) | split | (extract_lets; split) | (with_reducible apply State.keeps_mk <;> first | exact .inr ‹_› | exact .inl rfl | exact .inl ⟨rfl, rfl⟩ | exact .inl ⟨rfl, rfl, rfl⟩ | exact .inl ⟨rfl, rfl, rfl, rfl⟩ | exact .inl ⟨rfl, rfl, rfl, rfl, rfl⟩ | skip) | rfl | exact OtpLe.refl _ | split | (extract_lets; split) | (dsimp +zetaDelta only; split)

end Sys2Proof.Machine
end

