-- ==== Sys2Proof/Laws/KeepsLfSplit.lean ====
section
/-! SUPPORT. `Keeps` for the definitions of Machine/LfSplit.lean, one lemma for each. -/

set_option linter.all false
set_option Elab.async false
set_option maxRecDepth 4000
namespace Sys2Proof.Machine

variable {m : Part → Bool} {r : State}

theorem settleHeld_keeps (f : FrameNo) (held : Bool) (s : State) (p_out : m .out = true) (p_events : m .events = true) (p_pba : m .pba = true) (p_hostMem : m .hostMem = true) (p_frames : m .frames = true) (p_scan : m .scan = true) (hs : Keeps m r s) : Keeps m r (settleHeld f held s) := by
  unfold settleHeld
  repeat' first | intro _ | (with_reducible first | assumption | apply raise_keeps | apply State.updFrame_keeps | apply State.withScan_keeps | apply giveBack_keeps | apply ite_keeps | apply foldl_keeps) | (with_reducible apply State.keeps_mk <;> first | exact .inr ‹_› | exact .inl rfl | exact .inl ⟨rfl, rfl⟩ | exact .inl ⟨rfl, rfl, rfl⟩ | exact .inl ⟨rfl, rfl, rfl, rfl⟩ | exact .inl ⟨rfl, rfl, rfl, rfl, rfl⟩ | skip) | rfl | exact OtpLe.refl _ | split | (extract_lets; split) | (dsimp +zetaDelta only; split)

theorem setSplit_keeps (new : SplitState) (cause : Nat) (f : FrameNo) (s : State) (p_out : m .out = true) (p_events : m .events = true) (p_pba : m .pba = true) (p_hostMem : m .hostMem = true) (p_scan : m .scan = true) (hs : Keeps m r s) : Keeps m r (setSplit new cause f s) := by
  unfold setSplit
  repeat' first | intro _ | (with_reducible first | assumption | apply raise_keeps | apply State.withScan_keeps | apply ite_keeps | apply foldl_keeps) | (with_reducible apply State.keeps_mk <;> first | exact .inr ‹_› | exact .inl rfl | exact .inl ⟨rfl, rfl⟩ | exact .inl ⟨rfl, rfl, rfl⟩ | exact .inl ⟨rfl, rfl, rfl, rfl⟩ | exact .inl ⟨rfl, rfl, rfl, rfl, rfl⟩ | skip) | rfl | exact OtpLe.refl _ | split | (extract_lets; split) | (dsimp +zetaDelta only; split)

theorem repeatFrame_keeps (f : FrameNo) (s : State) (p_out : m .out = true) (p_events : m .events = true) (p_bufs : m .bufs = true) (p_pba : m .pba = true) (p_hostMem : m .hostMem = true) (p_frames : m .frames = true) (p_scan : m .scan = true) (hs : Keeps m r s) : Keeps m r (repeatFrame f s) := by
  unfold repeatFrame
  repeat' first | intro _ | (with_reducible first | assumption | apply State.updFrame_keeps | apply unpinBuf_keeps | apply State.withScan_keeps | apply giveBack_keeps | apply settleHeld_keeps | apply ite_keeps | apply foldl_keeps) | (with_reducible apply State.keeps_mk <;> first | exact .inr ‹_› | exact .inl rfl | exact .inl ⟨rfl, rfl⟩ | exact .inl ⟨rfl, rfl, rfl⟩ | exact .inl ⟨rfl, rfl, rfl, rfl⟩ | exact .inl ⟨rfl, rfl, rfl, rfl, rfl⟩ | skip) | rfl | exact OtpLe.refl _ | split | (extract_lets; split) | (dsimp +zetaDelta only; split)

theorem decideSplit_keeps (f : FrameNo) (mine : Option (List Byte)) (theirs : Option (List Byte)) (s : State) (p_out : m .out = true) (p_events : m .events = true) (p_bufs : m .bufs = true) (p_pba : m .pba = true) (p_hostMem : m .hostMem = true) (p_frames : m .frames = true) (p_scan : m .scan = true) (hs : Keeps m r s) : Keeps m r (decideSplit f mine theirs s) := by
  unfold decideSplit
  repeat' first | intro _ | (with_reducible first | assumption | apply State.updFrame_keeps | apply State.withScan_keeps | apply settleHeld_keeps | apply setSplit_keeps | apply repeatFrame_keeps | apply ite_keeps | apply foldl_keeps) | split | (extract_lets; split) | (with_reducible apply State.keeps_mk <;> first | exact .inr ‹_› | exact .inl rfl | exact .inl ⟨rfl, rfl⟩ | exact .inl ⟨rfl, rfl, rfl⟩ | exact .inl ⟨rfl, rfl, rfl, rfl⟩ | exact .inl ⟨rfl, rfl, rfl, rfl, rfl⟩ | skip) | rfl | exact OtpLe.refl _ | split | (extract_lets; split) | (dsimp +zetaDelta only; split)

theorem settleSplit_keeps (s : State) (p_out : m .out = true) (p_events : m .events = true) (p_bufs : m .bufs = true) (p_pba : m .pba = true) (p_hostMem : m .hostMem = true) (p_frames : m .frames = true) (p_scan : m .scan = true) (hs : Keeps m r s) : Keeps m r (settleSplit s) := by
  unfold settleSplit
  repeat' first | intro _ | (with_reducible first | assumption | apply decideSplit_keeps | apply ite_keeps | apply foldl_keeps) | (with_reducible apply State.keeps_mk <;> first | exact .inr ‹_› | exact .inl rfl | exact .inl ⟨rfl, rfl⟩ | exact .inl ⟨rfl, rfl, rfl⟩ | exact .inl ⟨rfl, rfl, rfl, rfl⟩ | exact .inl ⟨rfl, rfl, rfl, rfl, rfl⟩ | skip) | rfl | exact OtpLe.refl _ | split | (extract_lets; split) | (dsimp +zetaDelta only; split)

theorem execSplitReadyRx_keeps (bytes : List Byte) (s : State) (p_out : m .out = true) (p_events : m .events = true) (p_bufs : m .bufs = true) (p_pba : m .pba = true) (p_hostMem : m .hostMem = true) (p_time : m .time = true) (p_frames : m .frames = true) (p_scan : m .scan = true) (hs : Keeps m r s) : OutKeeps m r (execSplitReadyRx bytes s) := by
  unfold execSplitReadyRx
  repeat' first | intro _ | (with_reducible first | assumption | apply OutKeeps.next | apply OutKeeps.fault | apply ite_outKeeps | apply ethDrop_keeps | apply State.withScan_keeps | apply settleSplit_keeps | apply ite_keeps | apply foldl_keeps) | split | (extract_lets; split) | (with_reducible apply State.keeps_mk <;> first | exact .inr ‹_› | exact .inl rfl | exact .inl ⟨rfl, rfl⟩ | exact .inl ⟨rfl, rfl, rfl⟩ | exact .inl ⟨rfl, rfl, rfl, rfl⟩ | exact .inl ⟨rfl, rfl, rfl, rfl, rfl⟩ | skip) | rfl | exact OtpLe.refl _ | split | (extract_lets; split) | (dsimp +zetaDelta only; split)

theorem execSplitWaitExpiry_keeps (frame : FrameNo) (s : State) (p_out : m .out = true) (p_events : m .events = true) (p_bufs : m .bufs = true) (p_pba : m .pba = true) (p_hostMem : m .hostMem = true) (p_frames : m .frames = true) (p_scan : m .scan = true) (hs : Keeps m r s) : OutKeeps m r (execSplitWaitExpiry frame s) := by
  unfold execSplitWaitExpiry
  repeat' first | intro _ | (with_reducible first | assumption | apply OutKeeps.next | apply OutKeeps.fault | apply ite_outKeeps | apply decideSplit_keeps | apply ite_keeps | apply foldl_keeps) | split | (extract_lets; split) | (with_reducible apply State.keeps_mk <;> first | exact .inr ‹_› | exact .inl rfl | exact .inl ⟨rfl, rfl⟩ | exact .inl ⟨rfl, rfl, rfl⟩ | exact .inl ⟨rfl, rfl, rfl, rfl⟩ | exact .inl ⟨rfl, rfl, rfl, rfl, rfl⟩ | skip) | rfl | exact OtpLe.refl _ | split | (extract_lets; split) | (dsimp +zetaDelta only; split)

theorem followRefresh_keeps (f : FrameNo) (s : State) (p_out : m .out = true) (p_rein : m .rein = true) (p_scan : m .scan = true) (hs : Keeps m r s) : Keeps m r (followRefresh f s) := by
  unfold followRefresh
  repeat' first | intro _ | (with_reducible first | assumption | apply State.withScan_keeps | apply writePanels_keeps | apply ite_keeps | apply foldl_keeps) | (with_reducible apply State.keeps_mk <;> first | exact .inr ‹_› | exact .inl rfl | exact .inl ⟨rfl, rfl⟩ | exact .inl ⟨rfl, rfl, rfl⟩ | exact .inl ⟨rfl, rfl, rfl, rfl⟩ | exact .inl ⟨rfl, rfl, rfl, rfl, rfl⟩ | skip) | rfl | exact OtpLe.refl _ | split | (extract_lets; split) | (dsimp +zetaDelta only; split)

theorem sendSplit_keeps (f : FrameNo) (hold : Bool) (s : State) (p_out : m .out = true) (p_events : m .events = true) (p_bufs : m .bufs = true) (p_pba : m .pba = true) (p_hostMem : m .hostMem = true) (p_time : m .time = true) (p_frames : m .frames = true) (p_scan : m .scan = true) (hs : Keeps m r s) : Keeps m r (sendSplit f hold s) := by
  unfold sendSplit
  repeat' first | intro _ | (with_reducible first | assumption | apply sendHitch_keeps | apply State.withScan_keeps | apply settleSplit_keeps | apply ite_keeps | apply foldl_keeps) | (with_reducible apply State.keeps_mk <;> first | exact .inr ‹_› | exact .inl rfl | exact .inl ⟨rfl, rfl⟩ | exact .inl ⟨rfl, rfl, rfl⟩ | exact .inl ⟨rfl, rfl, rfl, rfl⟩ | exact .inl ⟨rfl, rfl, rfl, rfl, rfl⟩ | skip) | rfl | exact OtpLe.refl _ | split | (extract_lets; split) | (dsimp +zetaDelta only; split)

theorem lfCutoff_keeps (f : FrameNo) (s : State) (p_out : m .out = true) (p_events : m .events = true) (p_bufs : m .bufs = true) (p_pba : m .pba = true) (p_hostMem : m .hostMem = true) (p_time : m .time = true) (p_frames : m .frames = true) (p_rein : m .rein = true) (p_scan : m .scan = true) (hs : Keeps m r s) : Keeps m r (lfCutoff f s) := by
  unfold lfCutoff
  repeat' first | intro _ | (with_reducible first | assumption | apply State.updFrame_keeps | apply enterCut_keeps | apply State.withScan_keeps | apply giveBack_keeps | apply settleHeld_keeps | apply followRefresh_keeps | apply sendSplit_keeps | apply ite_keeps | apply foldl_keeps) | split | (extract_lets; split) | (with_reducible apply State.keeps_mk <;> first | exact .inr ‹_› | exact .inl rfl | exact .inl ⟨rfl, rfl⟩ | exact .inl ⟨rfl, rfl, rfl⟩ | exact .inl ⟨rfl, rfl, rfl, rfl⟩ | exact .inl ⟨rfl, rfl, rfl, rfl, rfl⟩ | skip) | rfl | exact OtpLe.refl _ | split | (extract_lets; split) | (dsimp +zetaDelta only; split)

end Sys2Proof.Machine
end

