-- ==== Sys2Proof/Laws/KeepsCommit.lean ====
section
/-! SUPPORT. `Keeps` for the definitions of Machine/Commit.lean, one lemma for each. -/

set_option linter.all false
set_option Elab.async false
set_option maxRecDepth 4000
namespace Sys2Proof.Machine

variable {m : Part → Bool} {r : State}

theorem tapsReduced_keeps (id : Nat) (fs : List (Nat × Fit)) (s : State) (p_out : m .out = true) (p_events : m .events = true) (p_pba : m .pba = true) (p_hostMem : m .hostMem = true) (hs : Keeps m r s) : Keeps m r (tapsReduced id fs s) := by
  unfold tapsReduced
  repeat' first | intro _ | (with_reducible first | assumption | apply raiseBetween_keeps | apply ite_keeps | apply foldl_keeps) | split | (extract_lets; split) | (with_reducible apply State.keeps_mk <;> first | exact .inr ‹_› | exact .inl rfl | exact .inl ⟨rfl, rfl⟩ | exact .inl ⟨rfl, rfl, rfl⟩ | exact .inl ⟨rfl, rfl, rfl, rfl⟩ | exact .inl ⟨rfl, rfl, rfl, rfl, rfl⟩ | skip) | rfl | exact OtpLe.refl _ | split | (extract_lets; split) | (dsimp +zetaDelta only; split)

theorem noteLoad_keeps (g : FrameNo) (c : LfCfg) (s : State) (p_out : m .out = true) (p_events : m .events = true) (p_pba : m .pba = true) (p_hostMem : m .hostMem = true) (p_scan : m .scan = true) (hs : Keeps m r s) : Keeps m r (noteLoad g c s) := by
  unfold noteLoad
  repeat' first | intro _ | (with_reducible first | assumption | apply raise_keeps | apply State.withScan_keeps | apply ite_keeps | apply foldl_keeps) | (with_reducible apply State.keeps_mk <;> first | exact .inr ‹_› | exact .inl rfl | exact .inl ⟨rfl, rfl⟩ | exact .inl ⟨rfl, rfl, rfl⟩ | exact .inl ⟨rfl, rfl, rfl, rfl⟩ | exact .inl ⟨rfl, rfl, rfl, rfl, rfl⟩ | skip) | rfl | exact OtpLe.refl _ | split | (extract_lets; split) | (dsimp +zetaDelta only; split)

theorem assignCommit_keeps (id : Nat) (op : Nat) (a : FrameNo) (cfg0 : OutCfg) (hitch : Nat) (s : State) (p_out : m .out = true) (p_events : m .events = true) (p_pba : m .pba = true) (p_hostMem : m .hostMem = true) (p_web : m .web = true) (p_frames : m .frames = true) (p_scan : m .scan = true) (hs : Keeps m r s) : Keeps m r (assignCommit id op a cfg0 hitch s) := by
  unfold assignCommit
  repeat' first | intro _ | (with_reducible first | assumption | apply assignAt_keeps | apply refreshPeriods_keeps | apply tapsReduced_keeps | apply noteLoad_keeps | apply ite_keeps | apply foldl_keeps) | (with_reducible apply State.keeps_mk <;> first | exact .inr ‹_› | exact .inl rfl | exact .inl ⟨rfl, rfl⟩ | exact .inl ⟨rfl, rfl, rfl⟩ | exact .inl ⟨rfl, rfl, rfl, rfl⟩ | exact .inl ⟨rfl, rfl, rfl, rfl, rfl⟩ | skip) | rfl | exact OtpLe.refl _ | split | (extract_lets; split) | (dsimp +zetaDelta only; split)

theorem overtake_keeps (older : HitchCommit → Bool) (cfg : OutCfg) (s : State) (p_frames : m .frames = true) (hs : Keeps m r s) : Keeps m r (overtake older cfg s) := by
  unfold overtake
  repeat' first | intro _ | (with_reducible first | assumption | apply State.withFrames_keeps | apply ite_keeps | apply foldl_keeps) | (with_reducible apply State.keeps_mk <;> first | exact .inr ‹_› | exact .inl rfl | exact .inl ⟨rfl, rfl⟩ | exact .inl ⟨rfl, rfl, rfl⟩ | exact .inl ⟨rfl, rfl, rfl, rfl⟩ | exact .inl ⟨rfl, rfl, rfl, rfl, rfl⟩ | skip) | rfl | exact OtpLe.refl _ | split | (extract_lets; split) | (dsimp +zetaDelta only; split)

theorem commitNow_keeps (k : Nat) (op : Nat) (nextOpen : Bool) (target : FrameNo) (s : State) (p_out : m .out = true) (p_slots : m .slots = true) (p_records : m .records = true) (p_events : m .events = true) (p_pba : m .pba = true) (p_hostMem : m .hostMem = true) (p_web : m .web = true) (p_frames : m .frames = true) (p_scan : m .scan = true) (hs : Keeps m r s) : Keeps m r (commitNow k op nextOpen target s) := by
  unfold commitNow
  repeat' first | intro _ | (with_reducible first | assumption | apply complete_keeps | apply assignCommit_keeps | apply overtake_keeps | apply ite_keeps | apply foldl_keeps) | split | (extract_lets; split) | (with_reducible apply State.keeps_mk <;> first | exact .inr ‹_› | exact .inl rfl | exact .inl ⟨rfl, rfl⟩ | exact .inl ⟨rfl, rfl, rfl⟩ | exact .inl ⟨rfl, rfl, rfl, rfl⟩ | exact .inl ⟨rfl, rfl, rfl, rfl, rfl⟩ | skip) | rfl | exact OtpLe.refl _ | split | (extract_lets; split) | (dsimp +zetaDelta only; split)

theorem applyDecide_keeps (f : FrameNo) (a : FrameNo) (sq : Nat) (s0 : State) (p_out : m .out = true) (p_slots : m .slots = true) (p_records : m .records = true) (p_events : m .events = true) (p_pba : m .pba = true) (p_hostMem : m .hostMem = true) (p_time : m .time = true) (p_web : m .web = true) (p_frames : m .frames = true) (p_scan : m .scan = true) (hs0 : Keeps m r s0) : Keeps m r (applyDecide f a sq s0) := by
  unfold applyDecide
  repeat' first | intro _ | (with_reducible first | assumption | apply raise_keeps | apply complete_keeps | apply State.withFrames_keeps | apply State.withHitch_keeps | apply State.withScan_keeps | apply assignCommit_keeps | apply overtake_keeps | apply ite_keeps | apply foldl_keeps) | split | (extract_lets; split) | (with_reducible apply State.keeps_mk <;> first | exact .inr ‹_› | exact .inl rfl | exact .inl ⟨rfl, rfl⟩ | exact .inl ⟨rfl, rfl, rfl⟩ | exact .inl ⟨rfl, rfl, rfl, rfl⟩ | exact .inl ⟨rfl, rfl, rfl, rfl, rfl⟩ | skip) | rfl | exact OtpLe.refl _ | split | (extract_lets; split) | (dsimp +zetaDelta only; split)

theorem sendDecide_keeps (f : FrameNo) (a : FrameNo) (sq : Nat) (s : State) (p_out : m .out = true) (p_time : m .time = true) (hs : Keeps m r s) : Keeps m r (sendDecide f a sq s) := by
  unfold sendDecide
  repeat' first | intro _ | (with_reducible first | assumption | apply State.withHitch_keeps | apply sendHitch_keeps | apply ite_keeps | apply foldl_keeps) | (with_reducible apply State.keeps_mk <;> first | exact .inr ‹_› | exact .inl rfl | exact .inl ⟨rfl, rfl⟩ | exact .inl ⟨rfl, rfl, rfl⟩ | exact .inl ⟨rfl, rfl, rfl, rfl⟩ | exact .inl ⟨rfl, rfl, rfl, rfl, rfl⟩ | skip) | rfl | exact OtpLe.refl _ | split | (extract_lets; split) | (dsimp +zetaDelta only; split)

theorem leaderDecide_keeps (f : FrameNo) (s : State) (p_out : m .out = true) (p_slots : m .slots = true) (p_records : m .records = true) (p_events : m .events = true) (p_pba : m .pba = true) (p_hostMem : m .hostMem = true) (p_time : m .time = true) (p_web : m .web = true) (p_frames : m .frames = true) (p_scan : m .scan = true) (hs : Keeps m r s) : Keeps m r (leaderDecide f s) := by
  unfold leaderDecide
  repeat' first | intro _ | (with_reducible first | assumption | apply State.withHitch_keeps | apply applyDecide_keeps | apply sendDecide_keeps | apply ite_keeps | apply foldl_keeps) | (with_reducible apply State.keeps_mk <;> first | exact .inr ‹_› | exact .inl rfl | exact .inl ⟨rfl, rfl⟩ | exact .inl ⟨rfl, rfl, rfl⟩ | exact .inl ⟨rfl, rfl, rfl, rfl⟩ | exact .inl ⟨rfl, rfl, rfl, rfl, rfl⟩ | skip) | rfl | exact OtpLe.refl _ | split | (extract_lets; split) | (dsimp +zetaDelta only; split)

theorem holdProposal_keeps (p : Proposal) (s : State) (p_out : m .out = true) (p_slots : m .slots = true) (p_records : m .records = true) (p_events : m .events = true) (p_pba : m .pba = true) (p_hostMem : m .hostMem = true) (p_time : m .time = true) (p_web : m .web = true) (p_frames : m .frames = true) (p_scan : m .scan = true) (hs : Keeps m r s) : Keeps m r (holdProposal p s) := by
  unfold holdProposal
  repeat' first | intro _ | (with_reducible first | assumption | apply State.withHitch_keeps | apply leaderDecide_keeps | apply ite_keeps | apply foldl_keeps) | (with_reducible apply State.keeps_mk <;> first | exact .inr ‹_› | exact .inl rfl | exact .inl ⟨rfl, rfl⟩ | exact .inl ⟨rfl, rfl, rfl⟩ | exact .inl ⟨rfl, rfl, rfl, rfl⟩ | exact .inl ⟨rfl, rfl, rfl, rfl, rfl⟩ | skip) | rfl | exact OtpLe.refl _ | split | (extract_lets; split) | (dsimp +zetaDelta only; split)

theorem propose_keeps (f : FrameNo) (s : State) (p_out : m .out = true) (p_slots : m .slots = true) (p_records : m .records = true) (p_events : m .events = true) (p_pba : m .pba = true) (p_hostMem : m .hostMem = true) (p_time : m .time = true) (p_web : m .web = true) (p_frames : m .frames = true) (p_scan : m .scan = true) (hs : Keeps m r s) : Keeps m r (propose f s) := by
  unfold propose
  repeat' first | intro _ | (with_reducible first | assumption | apply sendHitch_keeps | apply holdProposal_keeps | apply ite_keeps | apply foldl_keeps) | (with_reducible apply State.keeps_mk <;> first | exact .inr ‹_› | exact .inl rfl | exact .inl ⟨rfl, rfl⟩ | exact .inl ⟨rfl, rfl, rfl⟩ | exact .inl ⟨rfl, rfl, rfl, rfl⟩ | exact .inl ⟨rfl, rfl, rfl, rfl, rfl⟩ | skip) | rfl | exact OtpLe.refl _ | split | (extract_lets; split) | (dsimp +zetaDelta only; split)

theorem startHitchCommit_keeps (k : Nat) (op : Nat) (stop : Bool) (f : FrameNo) (s : State) (p_out : m .out = true) (p_slots : m .slots = true) (p_records : m .records = true) (p_events : m .events = true) (p_pba : m .pba = true) (p_hostMem : m .hostMem = true) (p_time : m .time = true) (p_web : m .web = true) (p_frames : m .frames = true) (p_scan : m .scan = true) (hs : Keeps m r s) : Keeps m r (startHitchCommit k op stop f s) := by
  unfold startHitchCommit
  repeat' first | intro _ | (with_reducible first | assumption | apply complete_keeps | apply State.withFrames_keeps | apply propose_keeps | apply ite_keeps | apply foldl_keeps) | split | (extract_lets; split) | (with_reducible apply State.keeps_mk <;> first | exact .inr ‹_› | exact .inl rfl | exact .inl ⟨rfl, rfl⟩ | exact .inl ⟨rfl, rfl, rfl⟩ | exact .inl ⟨rfl, rfl, rfl, rfl⟩ | exact .inl ⟨rfl, rfl, rfl, rfl, rfl⟩ | skip) | rfl | exact OtpLe.refl _ | split | (extract_lets; split) | (dsimp +zetaDelta only; split)

theorem execPrnCommit_keeps (slot : Nat) (s : State) (p_out : m .out = true) (p_slots : m .slots = true) (p_records : m .records = true) (p_events : m .events = true) (p_pba : m .pba = true) (p_hostMem : m .hostMem = true) (p_time : m .time = true) (p_web : m .web = true) (p_frames : m .frames = true) (p_scan : m .scan = true) (hs : Keeps m r s) : OutKeeps m r (execPrnCommit slot s) := by
  unfold execPrnCommit
  repeat' first | intro _ | (with_reducible first | assumption | apply OutKeeps.next | apply OutKeeps.fault | apply ite_outKeeps | apply runCmd_keeps | apply commitNow_keeps | apply startHitchCommit_keeps | apply ite_keeps | apply foldl_keeps) | (with_reducible apply State.keeps_mk <;> first | exact .inr ‹_› | exact .inl rfl | exact .inl ⟨rfl, rfl⟩ | exact .inl ⟨rfl, rfl, rfl⟩ | exact .inl ⟨rfl, rfl, rfl, rfl⟩ | exact .inl ⟨rfl, rfl, rfl, rfl, rfl⟩ | skip) | rfl | exact OtpLe.refl _ | split | (extract_lets; split) | (dsimp +zetaDelta only; split)

theorem State.withStart_keeps (s : State) (first : FrameNo) (start : Nat) (p_scan : m .scan = true) (hs : Keeps m r s) : Keeps m r (State.withStart s first start) := by
  unfold State.withStart
  repeat' first | intro _ | (with_reducible first | assumption | apply State.withScan_keeps | apply ite_keeps | apply foldl_keeps) | (with_reducible apply State.keeps_mk <;> first | exact .inr ‹_› | exact .inl rfl | exact .inl ⟨rfl, rfl⟩ | exact .inl ⟨rfl, rfl, rfl⟩ | exact .inl ⟨rfl, rfl, rfl, rfl⟩ | exact .inl ⟨rfl, rfl, rfl, rfl, rfl⟩ | skip) | rfl | exact OtpLe.refl _ | split | (extract_lets; split) | (dsimp +zetaDelta only; split)

theorem startScan_keeps (k : Nat) (d : Slot) (s : State) (p_out : m .out = true) (p_slots : m .slots = true) (p_records : m .records = true) (p_events : m .events = true) (p_pba : m .pba = true) (p_hostMem : m .hostMem = true) (p_time : m .time = true) (p_web : m .web = true) (p_frames : m .frames = true) (p_rein : m .rein = true) (p_scan : m .scan = true) (hs : Keeps m r s) : Keeps m r (startScan k d s) := by
  unfold startScan
  repeat' first | intro _ | (with_reducible first | assumption | apply raise_keeps | apply complete_keeps | apply resourceBusy_keeps | apply State.withFrames_keeps | apply takeTrig_keeps | apply State.withScan_keeps | apply writePanels_keeps | apply assignCommit_keeps | apply ite_keeps | apply foldl_keeps) | split | (extract_lets; split) | (with_reducible apply State.keeps_mk <;> first | exact .inr ‹_› | exact .inl rfl | exact .inl ⟨rfl, rfl⟩ | exact .inl ⟨rfl, rfl, rfl⟩ | exact .inl ⟨rfl, rfl, rfl, rfl⟩ | exact .inl ⟨rfl, rfl, rfl, rfl, rfl⟩ | skip) | rfl | exact OtpLe.refl _ | split | (extract_lets; split) | (dsimp +zetaDelta only; split)

theorem stopNow_keeps (k : Nat) (d : Slot) (s : State) (p_slots : m .slots = true) (p_records : m .records = true) (p_scan : m .scan = true) (hs : Keeps m r s) : Keeps m r (stopNow k d s) := by
  unfold stopNow
  repeat' first | intro _ | (with_reducible first | assumption | apply complete_keeps | apply State.withScan_keeps | apply ite_keeps | apply foldl_keeps) | (with_reducible apply State.keeps_mk <;> first | exact .inr ‹_› | exact .inl rfl | exact .inl ⟨rfl, rfl⟩ | exact .inl ⟨rfl, rfl, rfl⟩ | exact .inl ⟨rfl, rfl, rfl, rfl⟩ | exact .inl ⟨rfl, rfl, rfl, rfl, rfl⟩ | skip) | rfl | exact OtpLe.refl _ | split | (extract_lets; split) | (dsimp +zetaDelta only; split)

theorem execScanCommit_keeps (slot : Nat) (s : State) (p_out : m .out = true) (p_slots : m .slots = true) (p_records : m .records = true) (p_events : m .events = true) (p_pba : m .pba = true) (p_hostMem : m .hostMem = true) (p_time : m .time = true) (p_web : m .web = true) (p_frames : m .frames = true) (p_rein : m .rein = true) (p_scan : m .scan = true) (hs : Keeps m r s) : OutKeeps m r (execScanCommit slot s) := by
  unfold execScanCommit
  repeat' first | intro _ | (with_reducible first | assumption | apply OutKeeps.next | apply OutKeeps.fault | apply ite_outKeeps | apply runCmd_keeps | apply commitNow_keeps | apply startHitchCommit_keeps | apply startScan_keeps | apply stopNow_keeps | apply ite_keeps | apply foldl_keeps) | (with_reducible apply State.keeps_mk <;> first | exact .inr ‹_› | exact .inl rfl | exact .inl ⟨rfl, rfl⟩ | exact .inl ⟨rfl, rfl, rfl⟩ | exact .inl ⟨rfl, rfl, rfl, rfl⟩ | exact .inl ⟨rfl, rfl, rfl, rfl, rfl⟩ | skip) | rfl | exact OtpLe.refl _ | split | (extract_lets; split) | (dsimp +zetaDelta only; split)

theorem calCommit_keeps (op : Nat) (target : Option FrameNo) (f : OutCfg → OutCfg) (s : State) (p_out : m .out = true) (p_events : m .events = true) (p_pba : m .pba = true) (p_hostMem : m .hostMem = true) (p_frames : m .frames = true) (p_scan : m .scan = true) (hs : Keeps m r s) : Keeps m r (calCommit op target f s) := by
  unfold calCommit
  repeat' first | intro _ | (with_reducible first | assumption | apply State.withFrames_keeps | apply assignAt_keeps | apply noteLoad_keeps | apply ite_keeps | apply foldl_keeps) | (with_reducible apply State.keeps_mk <;> first | exact .inr ‹_› | exact .inl rfl | exact .inl ⟨rfl, rfl⟩ | exact .inl ⟨rfl, rfl, rfl⟩ | exact .inl ⟨rfl, rfl, rfl, rfl⟩ | exact .inl ⟨rfl, rfl, rfl, rfl, rfl⟩ | skip) | rfl | exact OtpLe.refl _ | split | (extract_lets; split) | (dsimp +zetaDelta only; split)

end Sys2Proof.Machine
end

