-- ==== Sys2Proof/Laws/KeepsFeedRead.lean ====
section
/-! SUPPORT. `Keeps` for the definitions of Machine/FeedRead.lean, one lemma for each. -/

set_option linter.all false
set_option Elab.async false
set_option maxRecDepth 4000
namespace Sys2Proof.Machine

variable {m : Part → Bool} {r : State}

theorem feedGot_keeps (l : Nat) (b : Nat) (off : Nat) (s : State) (p_fire : m .fire = true) (p_scan : m .scan = true) (hs : Keeps m r s) : Keeps m r (feedGot l b off s) := by
  unfold feedGot
  repeat' first | intro _ | (with_reducible first | assumption | apply State.setFeeder_keeps | apply State.setScanFeeder_keeps | apply ite_keeps | apply foldl_keeps) | split | (extract_lets; split) | (with_reducible apply State.keeps_mk <;> first | exact .inr ‹_› | exact .inl rfl | exact .inl ⟨rfl, rfl⟩ | exact .inl ⟨rfl, rfl, rfl⟩ | exact .inl ⟨rfl, rfl, rfl, rfl⟩ | exact .inl ⟨rfl, rfl, rfl, rfl, rfl⟩ | skip) | rfl | exact OtpLe.refl _ | split | (extract_lets; split) | (dsimp +zetaDelta only; split)

theorem poisonLines_keeps (l : Nat) (b : Nat) (f : FrameNo) (n : Nat) (k : Nat) (s : State) (p_frames : m .frames = true) (p_fire : m .fire = true) (hs : Keeps m r s) : Keeps m r (poisonLines l b f n k s) := by
  unfold poisonLines
  repeat' first | intro _ | (with_reducible first | assumption | apply State.updFrame_keeps | apply State.setFeeder_keeps | apply ite_keeps | apply foldl_keeps) | (with_reducible apply State.keeps_mk <;> first | exact .inr ‹_› | exact .inl rfl | exact .inl ⟨rfl, rfl⟩ | exact .inl ⟨rfl, rfl, rfl⟩ | exact .inl ⟨rfl, rfl, rfl, rfl⟩ | exact .inl ⟨rfl, rfl, rfl, rfl, rfl⟩ | skip) | rfl | exact OtpLe.refl _ | split | (extract_lets; split) | (dsimp +zetaDelta only; split)

theorem poisonRows_keeps (l : Nat) (f : FrameNo) (n : Nat) (off : Nat) (s : State) (p_scan : m .scan = true) (hs : Keeps m r s) : Keeps m r (poisonRows l f n off s) := by
  unfold poisonRows
  repeat' first | intro _ | (with_reducible first | assumption | apply State.withScan_keeps | apply State.setScanFeeder_keeps | apply ite_keeps | apply foldl_keeps) | (with_reducible apply State.keeps_mk <;> first | exact .inr ‹_› | exact .inl rfl | exact .inl ⟨rfl, rfl⟩ | exact .inl ⟨rfl, rfl, rfl⟩ | exact .inl ⟨rfl, rfl, rfl, rfl⟩ | exact .inl ⟨rfl, rfl, rfl, rfl, rfl⟩ | skip) | rfl | exact OtpLe.refl _ | split | (extract_lets; split) | (dsimp +zetaDelta only; split)

theorem poisonFeed_keeps (l : Nat) (b : Nat) (off : Nat) (s : State) (p_frames : m .frames = true) (p_fire : m .fire = true) (p_scan : m .scan = true) (hs : Keeps m r s) : Keeps m r (poisonFeed l b off s) := by
  unfold poisonFeed
  repeat' first | intro _ | (with_reducible first | assumption | apply poisonLines_keeps | apply poisonRows_keeps | apply ite_keeps | apply foldl_keeps) | split | (extract_lets; split) | (with_reducible apply State.keeps_mk <;> first | exact .inr ‹_› | exact .inl rfl | exact .inl ⟨rfl, rfl⟩ | exact .inl ⟨rfl, rfl, rfl⟩ | exact .inl ⟨rfl, rfl, rfl, rfl⟩ | exact .inl ⟨rfl, rfl, rfl, rfl, rfl⟩ | skip) | rfl | exact OtpLe.refl _ | split | (extract_lets; split) | (dsimp +zetaDelta only; split)

end Sys2Proof.Machine
end

