-- ==== Sys2Proof/Laws/KeepsHalter.lean ====
section
/-! SUPPORT. `Keeps` for the definitions of Machine/Halter.lean, one lemma for each. -/

set_option linter.all false
set_option Elab.async false
set_option maxRecDepth 4000
namespace Sys2Proof.Machine

variable {m : Part → Bool} {r : State}

theorem haltLinks_keeps (s : State) (p_out : m .out = true) (p_rein : m .rein = true) (hs : Keeps m r s) : Keeps m r (haltLinks s) := by
  unfold haltLinks
  repeat' first | intro _ | (with_reducible first | assumption | apply sendBlock_keeps | apply ite_keeps | apply foldl_keeps) | (with_reducible apply State.keeps_mk <;> first | exact .inr ‹_› | exact .inl rfl | exact .inl ⟨rfl, rfl⟩ | exact .inl ⟨rfl, rfl, rfl⟩ | exact .inl ⟨rfl, rfl, rfl, rfl⟩ | exact .inl ⟨rfl, rfl, rfl, rfl, rfl⟩ | skip) | rfl | exact OtpLe.refl _ | split | (extract_lets; split) | (dsimp +zetaDelta only; split)

theorem safePins_keeps (s : State) (p_out : m .out = true) (p_time : m .time = true) (hs : Keeps m r s) : Keeps m r (safePins s) := by
  unfold safePins
  repeat' first | intro _ | (with_reducible first | assumption | apply State.emit_keeps | apply State.setTrig_keeps | apply ite_keeps | apply foldl_keeps) | (with_reducible apply State.keeps_mk <;> first | exact .inr ‹_› | exact .inl rfl | exact .inl ⟨rfl, rfl⟩ | exact .inl ⟨rfl, rfl, rfl⟩ | exact .inl ⟨rfl, rfl, rfl, rfl⟩ | exact .inl ⟨rfl, rfl, rfl, rfl, rfl⟩ | skip) | rfl | exact OtpLe.refl _ | split | (extract_lets; split) | (dsimp +zetaDelta only; split)

theorem haltOutputs_keeps (cause : Cause) (s : State) (p_out : m .out = true) (p_slots : m .slots = true) (p_records : m .records = true) (p_time : m .time = true) (p_axis : m .axis = true) (p_frames : m .frames = true) (p_fire : m .fire = true) (p_rein : m .rein = true) (p_cam : m .cam = true) (hs : Keeps m r s) : Keeps m r (haltOutputs cause s) := by
  unfold haltOutputs
  repeat' first | intro _ | (with_reducible first | assumption | apply abortPurge_keeps | apply markHalted_keeps | apply strobesOff_keeps | apply haltAxes_keeps | apply haltLinks_keeps | apply safePins_keeps | apply ite_keeps | apply foldl_keeps) | (with_reducible apply State.keeps_mk <;> first | exact .inr ‹_› | exact .inl rfl | exact .inl ⟨rfl, rfl⟩ | exact .inl ⟨rfl, rfl, rfl⟩ | exact .inl ⟨rfl, rfl, rfl, rfl⟩ | exact .inl ⟨rfl, rfl, rfl, rfl, rfl⟩ | skip) | rfl | exact OtpLe.refl _ | split | (extract_lets; split) | (dsimp +zetaDelta only; split)

theorem enterHalter_keeps (cause : Cause) (s : State) (p_out : m .out = true) (p_dev : m .dev = true) (p_slots : m .slots = true) (p_records : m .records = true) (p_events : m .events = true) (p_pba : m .pba = true) (p_hostMem : m .hostMem = true) (p_time : m .time = true) (p_axis : m .axis = true) (p_frames : m .frames = true) (p_fire : m .fire = true) (p_rein : m .rein = true) (p_cam : m .cam = true) (hs : Keeps m r s) : Keeps m r (enterHalter cause s) := by
  unfold enterHalter
  repeat' first | intro _ | (with_reducible first | assumption | apply raiseMsix_keeps | apply setDev_keeps | apply haltOutputs_keeps | apply ite_keeps | apply foldl_keeps) | (with_reducible apply State.keeps_mk <;> first | exact .inr ‹_› | exact .inl rfl | exact .inl ⟨rfl, rfl⟩ | exact .inl ⟨rfl, rfl, rfl⟩ | exact .inl ⟨rfl, rfl, rfl, rfl⟩ | exact .inl ⟨rfl, rfl, rfl, rfl, rfl⟩ | skip) | rfl | exact OtpLe.refl _ | split | (extract_lets; split) | (dsimp +zetaDelta only; split)

theorem abortCommands_keeps (cause : Cause) (s : State) (p_slots : m .slots = true) (p_records : m .records = true) (p_pulls : m .pulls = true) (p_axis : m .axis = true) (p_frames : m .frames = true) (p_rein : m .rein = true) (p_cal : m .cal = true) (p_mem : m .mem = true) (hs : Keeps m r s) : Keeps m r (abortCommands cause s) := by
  unfold abortCommands
  repeat' first | intro _ | (with_reducible first | assumption | apply complete_keeps | apply releaseRate_keeps | apply ite_keeps | apply foldl_keeps) | (with_reducible apply State.keeps_mk <;> first | exact .inr ‹_› | exact .inl rfl | exact .inl ⟨rfl, rfl⟩ | exact .inl ⟨rfl, rfl, rfl⟩ | exact .inl ⟨rfl, rfl, rfl, rfl⟩ | exact .inl ⟨rfl, rfl, rfl, rfl, rfl⟩ | skip) | rfl | exact OtpLe.refl _ | split | (extract_lets; split) | (dsimp +zetaDelta only; split)

theorem tandemFaultRelease_keeps (s : State) (p_out : m .out = true) (p_events : m .events = true) (p_pba : m .pba = true) (p_hostMem : m .hostMem = true) (p_rein : m .rein = true) (hs : Keeps m r s) : Keeps m r (tandemFaultRelease s) := by
  unfold tandemFaultRelease
  repeat' first | intro _ | (with_reducible first | assumption | apply sendFrame_keeps | apply setLinkState_keeps | apply ite_keeps | apply foldl_keeps) | (with_reducible apply State.keeps_mk <;> first | exact .inr ‹_› | exact .inl rfl | exact .inl ⟨rfl, rfl⟩ | exact .inl ⟨rfl, rfl, rfl⟩ | exact .inl ⟨rfl, rfl, rfl, rfl⟩ | exact .inl ⟨rfl, rfl, rfl, rfl, rfl⟩ | skip) | rfl | exact OtpLe.refl _ | split | (extract_lets; split) | (dsimp +zetaDelta only; split)

theorem enterFault_keeps (cause : Cause) (block : List Byte) (s : State) (p_out : m .out = true) (p_dev : m .dev = true) (p_slots : m .slots = true) (p_records : m .records = true) (p_events : m .events = true) (p_pulls : m .pulls = true) (p_pba : m .pba = true) (p_hostMem : m .hostMem = true) (p_time : m .time = true) (p_axis : m .axis = true) (p_frames : m .frames = true) (p_fire : m .fire = true) (p_rein : m .rein = true) (p_cal : m .cal = true) (p_cam : m .cam = true) (p_mem : m .mem = true) (hs : Keeps m r s) : Keeps m r (enterFault cause block s) := by
  unfold enterFault
  repeat' first | intro _ | (with_reducible first | assumption | apply raiseMsix_keeps | apply setDevWith_keeps | apply stopCtxs_keeps | apply haltOutputs_keeps | apply abortCommands_keeps | apply tandemFaultRelease_keeps | apply ite_keeps | apply foldl_keeps) | (with_reducible apply State.keeps_mk <;> first | exact .inr ‹_› | exact .inl rfl | exact .inl ⟨rfl, rfl⟩ | exact .inl ⟨rfl, rfl, rfl⟩ | exact .inl ⟨rfl, rfl, rfl, rfl⟩ | exact .inl ⟨rfl, rfl, rfl, rfl, rfl⟩ | skip) | rfl | exact OtpLe.refl _ | split | (extract_lets; split) | (dsimp +zetaDelta only; split)

theorem memFatal_keeps (s : State) (p_out : m .out = true) (p_dev : m .dev = true) (p_slots : m .slots = true) (p_records : m .records = true) (p_events : m .events = true) (p_pulls : m .pulls = true) (p_pba : m .pba = true) (p_hostMem : m .hostMem = true) (p_time : m .time = true) (p_axis : m .axis = true) (p_frames : m .frames = true) (p_fire : m .fire = true) (p_rein : m .rein = true) (p_cal : m .cal = true) (p_cam : m .cam = true) (p_mem : m .mem = true) (hs : Keeps m r s) : Keeps m r (memFatal s) := by
  unfold memFatal
  repeat' first | intro _ | (with_reducible first | assumption | apply enterFault_keeps | apply ite_keeps | apply foldl_keeps) | (with_reducible apply State.keeps_mk <;> first | exact .inr ‹_› | exact .inl rfl | exact .inl ⟨rfl, rfl⟩ | exact .inl ⟨rfl, rfl, rfl⟩ | exact .inl ⟨rfl, rfl, rfl, rfl⟩ | exact .inl ⟨rfl, rfl, rfl, rfl, rfl⟩ | skip) | rfl | exact OtpLe.refl _ | split | (extract_lets; split) | (dsimp +zetaDelta only; split)

end Sys2Proof.Machine
end

