-- ==== Sys2Proof/Laws/KeepsMemRun.lean ====
section
/-! SUPPORT. `Keeps` for the definitions of Machine/MemRun.lean, one lemma for each. -/

set_option linter.all false
set_option Elab.async false
set_option maxRecDepth 4000
namespace Sys2Proof.Machine

variable {m : Part → Bool} {r : State}

theorem State.setDdr_keeps (s : State) (c : Nat) (x : MemChan) (p_mem : m .mem = true) (hs : Keeps m r s) : Keeps m r (State.setDdr s c x) := by
  unfold State.setDdr
  repeat' first | intro _ | (with_reducible first | assumption | apply ite_keeps | apply foldl_keeps) | (with_reducible apply State.keeps_mk <;> first | exact .inr ‹_› | exact .inl rfl | exact .inl ⟨rfl, rfl⟩ | exact .inl ⟨rfl, rfl, rfl⟩ | exact .inl ⟨rfl, rfl, rfl, rfl⟩ | exact .inl ⟨rfl, rfl, rfl, rfl, rfl⟩ | skip) | rfl | exact OtpLe.refl _ | split | (extract_lets; split) | (dsimp +zetaDelta only; split)

theorem chanEvent_keeps (c : Nat) (old : ChanState) (rate : Nat) (lost : Nat) (cause : Nat) (s : State) (p_out : m .out = true) (p_events : m .events = true) (p_pba : m .pba = true) (p_hostMem : m .hostMem = true) (hs : Keeps m r s) : Keeps m r (chanEvent c old rate lost cause s) := by
  unfold chanEvent
  repeat' first | intro _ | (with_reducible first | assumption | apply raise_keeps | apply ite_keeps | apply foldl_keeps) | (with_reducible apply State.keeps_mk <;> first | exact .inr ‹_› | exact .inl rfl | exact .inl ⟨rfl, rfl⟩ | exact .inl ⟨rfl, rfl, rfl⟩ | exact .inl ⟨rfl, rfl, rfl, rfl⟩ | exact .inl ⟨rfl, rfl, rfl, rfl, rfl⟩ | skip) | rfl | exact OtpLe.refl _ | split | (extract_lets; split) | (dsimp +zetaDelta only; split)

theorem correctedEvent_keeps (c : Nat) (sub : Nat) (lane : Nat) (s : State) (p_out : m .out = true) (p_events : m .events = true) (p_pba : m .pba = true) (p_hostMem : m .hostMem = true) (p_mem : m .mem = true) (hs : Keeps m r s) : Keeps m r (correctedEvent c sub lane s) := by
  unfold correctedEvent
  repeat' first | intro _ | (with_reducible first | assumption | apply raise_keeps | apply State.setDdr_keeps | apply ite_keeps | apply foldl_keeps) | split | (extract_lets; split) | (with_reducible apply State.keeps_mk <;> first | exact .inr ‹_› | exact .inl rfl | exact .inl ⟨rfl, rfl⟩ | exact .inl ⟨rfl, rfl, rfl⟩ | exact .inl ⟨rfl, rfl, rfl, rfl⟩ | exact .inl ⟨rfl, rfl, rfl, rfl, rfl⟩ | skip) | rfl | exact OtpLe.refl _ | split | (extract_lets; split) | (dsimp +zetaDelta only; split)

theorem issueCmd_keeps (c : Nat) (addr : Nat) (s : State) (p_mem : m .mem = true) (hs : Keeps m r s) : Keeps m r (issueCmd c addr s) := by
  unfold issueCmd
  repeat' first | intro _ | (with_reducible first | assumption | apply State.setDdr_keeps | apply ite_keeps | apply foldl_keeps) | (with_reducible apply State.keeps_mk <;> first | exact .inr ‹_› | exact .inl rfl | exact .inl ⟨rfl, rfl⟩ | exact .inl ⟨rfl, rfl, rfl⟩ | exact .inl ⟨rfl, rfl, rfl, rfl⟩ | exact .inl ⟨rfl, rfl, rfl, rfl, rfl⟩ | skip) | rfl | exact OtpLe.refl _ | split | (extract_lets; split) | (dsimp +zetaDelta only; split)

theorem noteCorrected_keeps (c : Nat) (burst : Nat) (lane : Nat) (s : State) (p_out : m .out = true) (p_events : m .events = true) (p_pba : m .pba = true) (p_hostMem : m .hostMem = true) (p_mem : m .mem = true) (hs : Keeps m r s) : Keeps m r (noteCorrected c burst lane s) := by
  unfold noteCorrected
  repeat' first | intro _ | (with_reducible first | assumption | apply State.setDdr_keeps | apply correctedEvent_keeps | apply ite_keeps | apply foldl_keeps) | (with_reducible apply State.keeps_mk <;> first | exact .inr ‹_› | exact .inl rfl | exact .inl ⟨rfl, rfl⟩ | exact .inl ⟨rfl, rfl, rfl⟩ | exact .inl ⟨rfl, rfl, rfl, rfl⟩ | exact .inl ⟨rfl, rfl, rfl, rfl, rfl⟩ | skip) | rfl | exact OtpLe.refl _ | split | (extract_lets; split) | (dsimp +zetaDelta only; split)

theorem noteUncorrectable_keeps (c : Nat) (port : Nat) (burst : Nat) (how : Nat) (s : State) (p_out : m .out = true) (p_events : m .events = true) (p_pba : m .pba = true) (p_hostMem : m .hostMem = true) (p_mem : m .mem = true) (hs : Keeps m r s) : Keeps m r (noteUncorrectable c port burst how s) := by
  unfold noteUncorrectable
  repeat' first | intro _ | (with_reducible first | assumption | apply raise_keeps | apply State.setDdr_keeps | apply ite_keeps | apply foldl_keeps) | (with_reducible apply State.keeps_mk <;> first | exact .inr ‹_› | exact .inl rfl | exact .inl ⟨rfl, rfl⟩ | exact .inl ⟨rfl, rfl, rfl⟩ | exact .inl ⟨rfl, rfl, rfl, rfl⟩ | exact .inl ⟨rfl, rfl, rfl, rfl, rfl⟩ | skip) | rfl | exact OtpLe.refl _ | split | (extract_lets; split) | (dsimp +zetaDelta only; split)

theorem consumePoison_keeps (r1 : MemReq) (j : Nat) (s : State) (p_out : m .out = true) (p_dev : m .dev = true) (p_slots : m .slots = true) (p_records : m .records = true) (p_events : m .events = true) (p_pulls : m .pulls = true) (p_pba : m .pba = true) (p_poison : m .poison = true) (p_hostMem : m .hostMem = true) (p_time : m .time = true) (p_axis : m .axis = true) (p_frames : m .frames = true) (p_fire : m .fire = true) (p_rein : m .rein = true) (p_cal : m .cal = true) (p_scan : m .scan = true) (p_cam : m .cam = true) (p_mem : m .mem = true) (hs : Keeps m r s) : Keeps m r (consumePoison r1 j s) := by
  unfold consumePoison
  repeat' first | intro _ | (with_reducible first | assumption | apply poisonBurst_keeps | apply memFatal_keeps | apply poisonFeed_keeps | apply ite_keeps | apply foldl_keeps) | (with_reducible apply State.keeps_mk <;> first | exact .inr ‹_› | exact .inl rfl | exact .inl ⟨rfl, rfl⟩ | exact .inl ⟨rfl, rfl, rfl⟩ | exact .inl ⟨rfl, rfl, rfl, rfl⟩ | exact .inl ⟨rfl, rfl, rfl, rfl, rfl⟩ | skip) | rfl | exact OtpLe.refl _ | split | (extract_lets; split) | (dsimp +zetaDelta only; split)

theorem serveBurst_keeps (c : Nat) (r1 : MemReq) (s : State) (j : Nat) (p_out : m .out = true) (p_dev : m .dev = true) (p_slots : m .slots = true) (p_records : m .records = true) (p_events : m .events = true) (p_pulls : m .pulls = true) (p_pba : m .pba = true) (p_poison : m .poison = true) (p_hostMem : m .hostMem = true) (p_time : m .time = true) (p_axis : m .axis = true) (p_frames : m .frames = true) (p_fire : m .fire = true) (p_rein : m .rein = true) (p_cal : m .cal = true) (p_scan : m .scan = true) (p_cam : m .cam = true) (p_mem : m .mem = true) (hs : Keeps m r s) : Keeps m r (serveBurst c r1 s j) := by
  unfold serveBurst
  repeat' first | intro _ | (with_reducible first | assumption | apply noteCorrected_keeps | apply noteUncorrectable_keeps | apply consumePoison_keeps | apply ite_keeps | apply foldl_keeps) | split | (extract_lets; split) | (with_reducible apply State.keeps_mk <;> first | exact .inr ‹_› | exact .inl rfl | exact .inl ⟨rfl, rfl⟩ | exact .inl ⟨rfl, rfl, rfl⟩ | exact .inl ⟨rfl, rfl, rfl, rfl⟩ | exact .inl ⟨rfl, rfl, rfl, rfl, rfl⟩ | skip) | rfl | exact OtpLe.refl _ | split | (extract_lets; split) | (dsimp +zetaDelta only; split)

theorem activateRow_keeps (c : Nat) (b : Nat) (r1 : Nat) (s : State) (p_mem : m .mem = true) (hs : Keeps m r s) : Keeps m r (activateRow c b r1 s) := by
  unfold activateRow
  repeat' first | intro _ | (with_reducible first | assumption | apply State.setDdr_keeps | apply ite_keeps | apply foldl_keeps) | (with_reducible apply State.keeps_mk <;> first | exact .inr ‹_› | exact .inl rfl | exact .inl ⟨rfl, rfl⟩ | exact .inl ⟨rfl, rfl, rfl⟩ | exact .inl ⟨rfl, rfl, rfl, rfl⟩ | exact .inl ⟨rfl, rfl, rfl, rfl, rfl⟩ | skip) | rfl | exact OtpLe.refl _ | split | (extract_lets; split) | (dsimp +zetaDelta only; split)

theorem countPace_keeps (r1 : MemReq) (s : State) (p_mem : m .mem = true) (hs : Keeps m r s) : Keeps m r (countPace r1 s) := by
  unfold countPace
  repeat' first | intro _ | (with_reducible first | assumption | apply ite_keeps | apply foldl_keeps) | (with_reducible apply State.keeps_mk <;> first | exact .inr ‹_› | exact .inl rfl | exact .inl ⟨rfl, rfl⟩ | exact .inl ⟨rfl, rfl, rfl⟩ | exact .inl ⟨rfl, rfl, rfl, rfl⟩ | exact .inl ⟨rfl, rfl, rfl, rfl, rfl⟩ | skip) | rfl | exact OtpLe.refl _ | split | (extract_lets; split) | (dsimp +zetaDelta only; split)

theorem countGrant_keeps (c : Nat) (r1 : MemReq) (s : State) (p_mem : m .mem = true) (hs : Keeps m r s) : Keeps m r (countGrant c r1 s) := by
  unfold countGrant
  repeat' first | intro _ | (with_reducible first | assumption | apply State.setDdr_keeps | apply ite_keeps | apply foldl_keeps) | (with_reducible apply State.keeps_mk <;> first | exact .inr ‹_› | exact .inl rfl | exact .inl ⟨rfl, rfl⟩ | exact .inl ⟨rfl, rfl, rfl⟩ | exact .inl ⟨rfl, rfl, rfl, rfl⟩ | exact .inl ⟨rfl, rfl, rfl, rfl, rfl⟩ | skip) | rfl | exact OtpLe.refl _ | split | (extract_lets; split) | (dsimp +zetaDelta only; split)

theorem serveReq_keeps (ch : Nat) (r1 : MemReq) (s : State) (p_out : m .out = true) (p_dev : m .dev = true) (p_slots : m .slots = true) (p_records : m .records = true) (p_events : m .events = true) (p_pulls : m .pulls = true) (p_pba : m .pba = true) (p_poison : m .poison = true) (p_hostMem : m .hostMem = true) (p_time : m .time = true) (p_axis : m .axis = true) (p_frames : m .frames = true) (p_fire : m .fire = true) (p_rein : m .rein = true) (p_cal : m .cal = true) (p_scan : m .scan = true) (p_cam : m .cam = true) (p_mem : m .mem = true) (hs : Keeps m r s) : Keeps m r (serveReq ch r1 s) := by
  unfold serveReq
  repeat' first | intro _ | (with_reducible first | assumption | apply feedGot_keeps | apply issueCmd_keeps | apply serveBurst_keeps | apply activateRow_keeps | apply countPace_keeps | apply countGrant_keeps | apply ite_keeps | apply foldl_keeps) | split | (extract_lets; split) | (with_reducible apply State.keeps_mk <;> first | exact .inr ‹_› | exact .inl rfl | exact .inl ⟨rfl, rfl⟩ | exact .inl ⟨rfl, rfl, rfl⟩ | exact .inl ⟨rfl, rfl, rfl, rfl⟩ | exact .inl ⟨rfl, rfl, rfl, rfl, rfl⟩ | skip) | rfl | exact OtpLe.refl _ | split | (extract_lets; split) | (dsimp +zetaDelta only; split)

theorem execMemGrant_keeps (ch : Nat) (reqs : List MemReq) (s : State) (p_out : m .out = true) (p_dev : m .dev = true) (p_slots : m .slots = true) (p_records : m .records = true) (p_events : m .events = true) (p_pulls : m .pulls = true) (p_pba : m .pba = true) (p_poison : m .poison = true) (p_hostMem : m .hostMem = true) (p_time : m .time = true) (p_axis : m .axis = true) (p_frames : m .frames = true) (p_fire : m .fire = true) (p_rein : m .rein = true) (p_cal : m .cal = true) (p_scan : m .scan = true) (p_cam : m .cam = true) (p_mem : m .mem = true) (hs : Keeps m r s) : OutKeeps m r (execMemGrant ch reqs s) := by
  unfold execMemGrant
  repeat' first | intro _ | (with_reducible first | assumption | apply OutKeeps.next | apply OutKeeps.fault | apply ite_outKeeps | apply State.setDdr_keeps | apply serveReq_keeps | apply ite_keeps | apply foldl_keeps) | split | (extract_lets; split) | (with_reducible apply State.keeps_mk <;> first | exact .inr ‹_› | exact .inl rfl | exact .inl ⟨rfl, rfl⟩ | exact .inl ⟨rfl, rfl, rfl⟩ | exact .inl ⟨rfl, rfl, rfl, rfl⟩ | exact .inl ⟨rfl, rfl, rfl, rfl, rfl⟩ | skip) | rfl | exact OtpLe.refl _ | split | (extract_lets; split) | (dsimp +zetaDelta only; split)

theorem countScrub_keeps (ch : Nat) (burst : Nat) (s : State) (p_mem : m .mem = true) (hs : Keeps m r s) : Keeps m r (countScrub ch burst s) := by
  unfold countScrub
  repeat' first | intro _ | (with_reducible first | assumption | apply issueCmd_keeps | apply ite_keeps | apply foldl_keeps) | (with_reducible apply State.keeps_mk <;> first | exact .inr ‹_› | exact .inl rfl | exact .inl ⟨rfl, rfl⟩ | exact .inl ⟨rfl, rfl, rfl⟩ | exact .inl ⟨rfl, rfl, rfl, rfl⟩ | exact .inl ⟨rfl, rfl, rfl, rfl, rfl⟩ | skip) | rfl | exact OtpLe.refl _ | split | (extract_lets; split) | (dsimp +zetaDelta only; split)

theorem execCorrectedRewrite_keeps (ch : Nat) (s : State) (p_mem : m .mem = true) (hs : Keeps m r s) : OutKeeps m r (execCorrectedRewrite ch s) := by
  unfold execCorrectedRewrite
  repeat' first | intro _ | (with_reducible first | assumption | apply OutKeeps.next | apply OutKeeps.fault | apply ite_outKeeps | apply State.setDdr_keeps | apply countScrub_keeps | apply ite_keeps | apply foldl_keeps) | split | (extract_lets; split) | (with_reducible apply State.keeps_mk <;> first | exact .inr ‹_› | exact .inl rfl | exact .inl ⟨rfl, rfl⟩ | exact .inl ⟨rfl, rfl, rfl⟩ | exact .inl ⟨rfl, rfl, rfl, rfl⟩ | exact .inl ⟨rfl, rfl, rfl, rfl, rfl⟩ | skip) | rfl | exact OtpLe.refl _ | split | (extract_lets; split) | (dsimp +zetaDelta only; split)

theorem scrubOn_keeps (c : Nat) (s : State) (p_mem : m .mem = true) (hs : Keeps m r s) : Keeps m r (scrubOn c s) := by
  unfold scrubOn
  repeat' first | intro _ | (with_reducible first | assumption | apply State.setDdr_keeps | apply ite_keeps | apply foldl_keeps) | (with_reducible apply State.keeps_mk <;> first | exact .inr ‹_› | exact .inl rfl | exact .inl ⟨rfl, rfl⟩ | exact .inl ⟨rfl, rfl, rfl⟩ | exact .inl ⟨rfl, rfl, rfl, rfl⟩ | exact .inl ⟨rfl, rfl, rfl, rfl, rfl⟩ | skip) | rfl | exact OtpLe.refl _ | split | (extract_lets; split) | (dsimp +zetaDelta only; split)

theorem execPatrolScrubRead_keeps (ch : Nat) (bad : List Nat) (s : State) (p_out : m .out = true) (p_events : m .events = true) (p_pba : m .pba = true) (p_poison : m .poison = true) (p_hostMem : m .hostMem = true) (p_mem : m .mem = true) (hs : Keeps m r s) : OutKeeps m r (execPatrolScrubRead ch bad s) := by
  unfold execPatrolScrubRead
  repeat' first | intro _ | (with_reducible first | assumption | apply OutKeeps.next | apply OutKeeps.fault | apply ite_outKeeps | apply poisonBurst_keeps | apply noteCorrected_keeps | apply noteUncorrectable_keeps | apply countScrub_keeps | apply scrubOn_keeps | apply ite_keeps | apply foldl_keeps) | split | (extract_lets; split) | (with_reducible apply State.keeps_mk <;> first | exact .inr ‹_› | exact .inl rfl | exact .inl ⟨rfl, rfl⟩ | exact .inl ⟨rfl, rfl, rfl⟩ | exact .inl ⟨rfl, rfl, rfl, rfl⟩ | exact .inl ⟨rfl, rfl, rfl, rfl, rfl⟩ | skip) | rfl | exact OtpLe.refl _ | split | (extract_lets; split) | (dsimp +zetaDelta only; split)

theorem execScrubLate_keeps (ch : Nat) (s : State) (p_out : m .out = true) (p_events : m .events = true) (p_pba : m .pba = true) (p_hostMem : m .hostMem = true) (p_mem : m .mem = true) (hs : Keeps m r s) : OutKeeps m r (execScrubLate ch s) := by
  unfold execScrubLate
  repeat' first | intro _ | (with_reducible first | assumption | apply OutKeeps.next | apply OutKeeps.fault | apply ite_outKeeps | apply raise_keeps | apply State.setDdr_keeps | apply ite_keeps | apply foldl_keeps) | (with_reducible apply State.keeps_mk <;> first | exact .inr ‹_› | exact .inl rfl | exact .inl ⟨rfl, rfl⟩ | exact .inl ⟨rfl, rfl, rfl⟩ | exact .inl ⟨rfl, rfl, rfl, rfl⟩ | exact .inl ⟨rfl, rfl, rfl, rfl, rfl⟩ | skip) | rfl | exact OtpLe.refl _ | split | (extract_lets; split) | (dsimp +zetaDelta only; split)

theorem execNeighbourRefresh_keeps (ch : Nat) (s : State) (p_mem : m .mem = true) (hs : Keeps m r s) : OutKeeps m r (execNeighbourRefresh ch s) := by
  unfold execNeighbourRefresh
  repeat' first | intro _ | (with_reducible first | assumption | apply OutKeeps.next | apply OutKeeps.fault | apply ite_outKeeps | apply State.setDdr_keeps | apply ite_keeps | apply foldl_keeps) | split | (extract_lets; split) | (with_reducible apply State.keeps_mk <;> first | exact .inr ‹_› | exact .inl rfl | exact .inl ⟨rfl, rfl⟩ | exact .inl ⟨rfl, rfl, rfl⟩ | exact .inl ⟨rfl, rfl, rfl, rfl⟩ | exact .inl ⟨rfl, rfl, rfl, rfl, rfl⟩ | skip) | rfl | exact OtpLe.refl _ | split | (extract_lets; split) | (dsimp +zetaDelta only; split)

theorem execRefreshDue_keeps (ch : Nat) (postpone : Bool) (s : State) (p_mem : m .mem = true) (hs : Keeps m r s) : OutKeeps m r (execRefreshDue ch postpone s) := by
  unfold execRefreshDue
  repeat' first | intro _ | (with_reducible first | assumption | apply OutKeeps.next | apply OutKeeps.fault | apply ite_outKeeps | apply State.setDdr_keeps | apply ite_keeps | apply foldl_keeps) | (with_reducible apply State.keeps_mk <;> first | exact .inr ‹_› | exact .inl rfl | exact .inl ⟨rfl, rfl⟩ | exact .inl ⟨rfl, rfl, rfl⟩ | exact .inl ⟨rfl, rfl, rfl, rfl⟩ | exact .inl ⟨rfl, rfl, rfl, rfl, rfl⟩ | skip) | rfl | exact OtpLe.refl _ | split | (extract_lets; split) | (dsimp +zetaDelta only; split)

theorem execMr4Read_keeps (ch : Nat) (codes : List Nat) (s : State) (p_out : m .out = true) (p_events : m .events = true) (p_pba : m .pba = true) (p_hostMem : m .hostMem = true) (p_mem : m .mem = true) (hs : Keeps m r s) : OutKeeps m r (execMr4Read ch codes s) := by
  unfold execMr4Read
  repeat' first | intro _ | (with_reducible first | assumption | apply OutKeeps.next | apply OutKeeps.fault | apply ite_outKeeps | apply raise_keeps | apply State.setDdr_keeps | apply ite_keeps | apply foldl_keeps) | (with_reducible apply State.keeps_mk <;> first | exact .inr ‹_› | exact .inl rfl | exact .inl ⟨rfl, rfl⟩ | exact .inl ⟨rfl, rfl, rfl⟩ | exact .inl ⟨rfl, rfl, rfl, rfl⟩ | exact .inl ⟨rfl, rfl, rfl, rfl, rfl⟩ | skip) | rfl | exact OtpLe.refl _ | split | (extract_lets; split) | (dsimp +zetaDelta only; split)

theorem execRefreshWindowEnd_keeps (ch : Nat) (s : State) (p_mem : m .mem = true) (hs : Keeps m r s) : OutKeeps m r (execRefreshWindowEnd ch s) := by
  unfold execRefreshWindowEnd
  repeat' first | intro _ | (with_reducible first | assumption | apply OutKeeps.next | apply OutKeeps.fault | apply ite_outKeeps | apply State.setDdr_keeps | apply ite_keeps | apply foldl_keeps) | (with_reducible apply State.keeps_mk <;> first | exact .inr ‹_› | exact .inl rfl | exact .inl ⟨rfl, rfl⟩ | exact .inl ⟨rfl, rfl, rfl⟩ | exact .inl ⟨rfl, rfl, rfl, rfl⟩ | exact .inl ⟨rfl, rfl, rfl, rfl, rfl⟩ | skip) | rfl | exact OtpLe.refl _ | split | (extract_lets; split) | (dsimp +zetaDelta only; split)

theorem freezeMemory_keeps (ch : Nat) (sub : Nat) (cause : Nat) (depth : Nat) (addr : Nat) (s : State) (p_out : m .out = true) (p_dev : m .dev = true) (p_slots : m .slots = true) (p_records : m .records = true) (p_events : m .events = true) (p_pulls : m .pulls = true) (p_pba : m .pba = true) (p_hostMem : m .hostMem = true) (p_time : m .time = true) (p_axis : m .axis = true) (p_frames : m .frames = true) (p_fire : m .fire = true) (p_rein : m .rein = true) (p_cal : m .cal = true) (p_cam : m .cam = true) (p_mem : m .mem = true) (hs : Keeps m r s) : Keeps m r (freezeMemory ch sub cause depth addr s) := by
  unfold freezeMemory
  repeat' first | intro _ | (with_reducible first | assumption | apply enterFault_keeps | apply chanEvent_keeps | apply ite_keeps | apply foldl_keeps) | (with_reducible apply State.keeps_mk <;> first | exact .inr ‹_› | exact .inl rfl | exact .inl ⟨rfl, rfl⟩ | exact .inl ⟨rfl, rfl, rfl⟩ | exact .inl ⟨rfl, rfl, rfl, rfl⟩ | exact .inl ⟨rfl, rfl, rfl, rfl, rfl⟩ | skip) | rfl | exact OtpLe.refl _ | split | (extract_lets; split) | (dsimp +zetaDelta only; split)

theorem execParityAlert_keeps (ch : Nat) (sub : Nat) (writeCrc : Bool) (passed : Nat) (s : State) (p_out : m .out = true) (p_dev : m .dev = true) (p_slots : m .slots = true) (p_records : m .records = true) (p_events : m .events = true) (p_pulls : m .pulls = true) (p_pba : m .pba = true) (p_hostMem : m .hostMem = true) (p_time : m .time = true) (p_axis : m .axis = true) (p_frames : m .frames = true) (p_fire : m .fire = true) (p_rein : m .rein = true) (p_cal : m .cal = true) (p_cam : m .cam = true) (p_mem : m .mem = true) (hs : Keeps m r s) : OutKeeps m r (execParityAlert ch sub writeCrc passed s) := by
  unfold execParityAlert
  repeat' first | intro _ | (with_reducible first | assumption | apply OutKeeps.next | apply OutKeeps.fault | apply ite_outKeeps | apply raise_keeps | apply State.setDdr_keeps | apply freezeMemory_keeps | apply ite_keeps | apply foldl_keeps) | split | (extract_lets; split) | (with_reducible apply State.keeps_mk <;> first | exact .inr ‹_› | exact .inl rfl | exact .inl ⟨rfl, rfl⟩ | exact .inl ⟨rfl, rfl, rfl⟩ | exact .inl ⟨rfl, rfl, rfl, rfl⟩ | exact .inl ⟨rfl, rfl, rfl, rfl, rfl⟩ | skip) | rfl | exact OtpLe.refl _ | split | (extract_lets; split) | (dsimp +zetaDelta only; split)

theorem execFeedWindowEnd_keeps (ch : Nat) (s : State) (p_out : m .out = true) (p_events : m .events = true) (p_pba : m .pba = true) (p_hostMem : m .hostMem = true) (p_mem : m .mem = true) (hs : Keeps m r s) : OutKeeps m r (execFeedWindowEnd ch s) := by
  unfold execFeedWindowEnd
  repeat' first | intro _ | (with_reducible first | assumption | apply OutKeeps.next | apply OutKeeps.fault | apply ite_outKeeps | apply raise_keeps | apply State.setDdr_keeps | apply ite_keeps | apply foldl_keeps) | split | (extract_lets; split) | (with_reducible apply State.keeps_mk <;> first | exact .inr ‹_› | exact .inl rfl | exact .inl ⟨rfl, rfl⟩ | exact .inl ⟨rfl, rfl, rfl⟩ | exact .inl ⟨rfl, rfl, rfl, rfl⟩ | exact .inl ⟨rfl, rfl, rfl, rfl, rfl⟩ | skip) | rfl | exact OtpLe.refl _ | split | (extract_lets; split) | (dsimp +zetaDelta only; split)

end Sys2Proof.Machine
end

