-- ==== Sys2Proof/Laws/KeepsMemTrain.lean ====
section
/-! SUPPORT. `Keeps` for the definitions of Machine/MemTrain.lean, one lemma for each. -/

set_option linter.all false
set_option Elab.async false
set_option maxRecDepth 4000
namespace Sys2Proof.Machine

variable {m : Part → Bool} {r : State}

theorem startDdr_keeps (c : Nat) (trig : Nat) (ws : List (Nat × Nat)) (s : State) (p_cal : m .cal = true) (p_mem : m .mem = true) (hs : Keeps m r s) : Keeps m r (startDdr c trig ws s) := by
  unfold startDdr
  repeat' first | intro _ | (with_reducible first | assumption | apply beginRun_keeps | apply State.setDdr_keeps | apply ite_keeps | apply foldl_keeps) | (with_reducible apply State.keeps_mk <;> first | exact .inr ‹_› | exact .inl rfl | exact .inl ⟨rfl, rfl⟩ | exact .inl ⟨rfl, rfl, rfl⟩ | exact .inl ⟨rfl, rfl, rfl, rfl⟩ | exact .inl ⟨rfl, rfl, rfl, rfl, rfl⟩ | skip) | rfl | exact OtpLe.refl _ | split | (extract_lets; split) | (dsimp +zetaDelta only; split)

theorem endDdr_keeps (c : Nat) (s : State) (p_mem : m .mem = true) (hs : Keeps m r s) : Keeps m r (endDdr c s) := by
  unfold endDdr
  repeat' first | intro _ | (with_reducible first | assumption | apply State.setDdr_keeps | apply ite_keeps | apply foldl_keeps) | (with_reducible apply State.keeps_mk <;> first | exact .inr ‹_› | exact .inl rfl | exact .inl ⟨rfl, rfl⟩ | exact .inl ⟨rfl, rfl, rfl⟩ | exact .inl ⟨rfl, rfl, rfl, rfl⟩ | exact .inl ⟨rfl, rfl, rfl, rfl, rfl⟩ | skip) | rfl | exact OtpLe.refl _ | split | (extract_lets; split) | (dsimp +zetaDelta only; split)

theorem loseChannel_keeps (c : Nat) (s : State) (p_free : m .free = true) (p_out : m .out = true) (p_dev : m .dev = true) (p_slots : m .slots = true) (p_records : m .records = true) (p_events : m .events = true) (p_pulls : m .pulls = true) (p_pba : m .pba = true) (p_hostMem : m .hostMem = true) (p_time : m .time = true) (p_axis : m .axis = true) (p_frames : m .frames = true) (p_fire : m .fire = true) (p_rein : m .rein = true) (p_cal : m .cal = true) (p_cam : m .cam = true) (p_mem : m .mem = true) (hs : Keeps m r s) : Keeps m r (loseChannel c s) := by
  unfold loseChannel
  repeat' first | intro _ | (with_reducible first | assumption | apply abortRun_keeps | apply memFatal_keeps | apply State.setDdr_keeps | apply chanEvent_keeps | apply ite_keeps | apply foldl_keeps) | (with_reducible apply State.keeps_mk <;> first | exact .inr ‹_› | exact .inl rfl | exact .inl ⟨rfl, rfl⟩ | exact .inl ⟨rfl, rfl, rfl⟩ | exact .inl ⟨rfl, rfl, rfl, rfl⟩ | exact .inl ⟨rfl, rfl, rfl, rfl, rfl⟩ | skip) | rfl | exact OtpLe.refl _ | split | (extract_lets; split) | (dsimp +zetaDelta only; split)

theorem judgeDdr_keeps (c : Nat) (best : Nat) (stored : Nat) (s : State) (p_free : m .free = true) (p_out : m .out = true) (p_dev : m .dev = true) (p_slots : m .slots = true) (p_records : m .records = true) (p_events : m .events = true) (p_pulls : m .pulls = true) (p_pba : m .pba = true) (p_hostMem : m .hostMem = true) (p_time : m .time = true) (p_axis : m .axis = true) (p_frames : m .frames = true) (p_fire : m .fire = true) (p_rein : m .rein = true) (p_cal : m .cal = true) (p_cam : m .cam = true) (p_mem : m .mem = true) (hs : Keeps m r s) : Keeps m r (judgeDdr c best stored s) := by
  unfold judgeDdr
  repeat' first | intro _ | (with_reducible first | assumption | apply failRun_keeps | apply passTo_keeps | apply applyResult_keeps | apply State.setDdr_keeps | apply endDdr_keeps | apply loseChannel_keeps | apply ite_keeps | apply foldl_keeps) | (with_reducible apply State.keeps_mk <;> first | exact .inr ‹_› | exact .inl rfl | exact .inl ⟨rfl, rfl⟩ | exact .inl ⟨rfl, rfl, rfl⟩ | exact .inl ⟨rfl, rfl, rfl, rfl⟩ | exact .inl ⟨rfl, rfl, rfl, rfl, rfl⟩ | skip) | rfl | exact OtpLe.refl _ | split | (extract_lets; split) | (dsimp +zetaDelta only; split)

theorem trainTick_keeps (s : State) (p_mem : m .mem = true) (hs : Keeps m r s) : Keeps m r (trainTick s) := by
  unfold trainTick
  repeat' first | intro _ | (with_reducible first | assumption | apply ite_keeps | apply foldl_keeps) | (with_reducible apply State.keeps_mk <;> first | exact .inr ‹_› | exact .inl rfl | exact .inl ⟨rfl, rfl⟩ | exact .inl ⟨rfl, rfl, rfl⟩ | exact .inl ⟨rfl, rfl, rfl, rfl⟩ | exact .inl ⟨rfl, rfl, rfl, rfl, rfl⟩ | skip) | rfl | exact OtpLe.refl _ | split | (extract_lets; split) | (dsimp +zetaDelta only; split)

theorem execTrainingStepDone_keeps (ch : Nat) (last : Bool) (best : Nat) (stored : Nat) (s : State) (p_free : m .free = true) (p_out : m .out = true) (p_dev : m .dev = true) (p_slots : m .slots = true) (p_records : m .records = true) (p_events : m .events = true) (p_pulls : m .pulls = true) (p_pba : m .pba = true) (p_hostMem : m .hostMem = true) (p_time : m .time = true) (p_axis : m .axis = true) (p_frames : m .frames = true) (p_fire : m .fire = true) (p_rein : m .rein = true) (p_cal : m .cal = true) (p_cam : m .cam = true) (p_mem : m .mem = true) (hs : Keeps m r s) : OutKeeps m r (execTrainingStepDone ch last best stored s) := by
  unfold execTrainingStepDone
  repeat' first | intro _ | (with_reducible first | assumption | apply OutKeeps.next | apply OutKeeps.fault | apply ite_outKeeps | apply passTo_keeps | apply State.setDdr_keeps | apply judgeDdr_keeps | apply ite_keeps | apply foldl_keeps) | (with_reducible apply State.keeps_mk <;> first | exact .inr ‹_› | exact .inl rfl | exact .inl ⟨rfl, rfl⟩ | exact .inl ⟨rfl, rfl, rfl⟩ | exact .inl ⟨rfl, rfl, rfl, rfl⟩ | exact .inl ⟨rfl, rfl, rfl, rfl, rfl⟩ | skip) | rfl | exact OtpLe.refl _ | split | (extract_lets; split) | (dsimp +zetaDelta only; split)

theorem execTrainingStepAbandon_keeps (ch : Nat) (s : State) (p_mem : m .mem = true) (hs : Keeps m r s) : OutKeeps m r (execTrainingStepAbandon ch s) := by
  unfold execTrainingStepAbandon
  repeat' first | intro _ | (with_reducible first | assumption | apply OutKeeps.next | apply OutKeeps.fault | apply ite_outKeeps | apply State.setDdr_keeps | apply ite_keeps | apply foldl_keeps) | (with_reducible apply State.keeps_mk <;> first | exact .inr ‹_› | exact .inl rfl | exact .inl ⟨rfl, rfl⟩ | exact .inl ⟨rfl, rfl, rfl⟩ | exact .inl ⟨rfl, rfl, rfl, rfl⟩ | exact .inl ⟨rfl, rfl, rfl, rfl, rfl⟩ | skip) | rfl | exact OtpLe.refl _ | split | (extract_lets; split) | (dsimp +zetaDelta only; split)

theorem execRateChangeStart_keeps (ch : Nat) (s : State) (p_out : m .out = true) (p_events : m .events = true) (p_pba : m .pba = true) (p_hostMem : m .hostMem = true) (p_mem : m .mem = true) (hs : Keeps m r s) : OutKeeps m r (execRateChangeStart ch s) := by
  unfold execRateChangeStart
  repeat' first | intro _ | (with_reducible first | assumption | apply OutKeeps.next | apply OutKeeps.fault | apply ite_outKeeps | apply State.setDdr_keeps | apply chanEvent_keeps | apply ite_keeps | apply foldl_keeps) | split | (extract_lets; split) | (with_reducible apply State.keeps_mk <;> first | exact .inr ‹_› | exact .inl rfl | exact .inl ⟨rfl, rfl⟩ | exact .inl ⟨rfl, rfl, rfl⟩ | exact .inl ⟨rfl, rfl, rfl, rfl⟩ | exact .inl ⟨rfl, rfl, rfl, rfl, rfl⟩ | skip) | rfl | exact OtpLe.refl _ | split | (extract_lets; split) | (dsimp +zetaDelta only; split)

theorem backOnline_keeps (c : Nat) (rate : Nat) (eye : Nat) (s : State) (p_mem : m .mem = true) (hs : Keeps m r s) : Keeps m r (backOnline c rate eye s) := by
  unfold backOnline
  repeat' first | intro _ | (with_reducible first | assumption | apply State.setDdr_keeps | apply ite_keeps | apply foldl_keeps) | (with_reducible apply State.keeps_mk <;> first | exact .inr ‹_› | exact .inl rfl | exact .inl ⟨rfl, rfl⟩ | exact .inl ⟨rfl, rfl, rfl⟩ | exact .inl ⟨rfl, rfl, rfl, rfl⟩ | exact .inl ⟨rfl, rfl, rfl, rfl, rfl⟩ | skip) | rfl | exact OtpLe.refl _ | split | (extract_lets; split) | (dsimp +zetaDelta only; split)

theorem execRateChangeDone_keeps (ch : Nat) (eye : Nat) (s : State) (p_free : m .free = true) (p_out : m .out = true) (p_dev : m .dev = true) (p_slots : m .slots = true) (p_records : m .records = true) (p_events : m .events = true) (p_pulls : m .pulls = true) (p_pba : m .pba = true) (p_hostMem : m .hostMem = true) (p_time : m .time = true) (p_axis : m .axis = true) (p_frames : m .frames = true) (p_fire : m .fire = true) (p_rein : m .rein = true) (p_cal : m .cal = true) (p_cam : m .cam = true) (p_mem : m .mem = true) (hs : Keeps m r s) : OutKeeps m r (execRateChangeDone ch eye s) := by
  unfold execRateChangeDone
  repeat' first | intro _ | (with_reducible first | assumption | apply OutKeeps.next | apply OutKeeps.fault | apply ite_outKeeps | apply retrainDone_keeps | apply applyResult_keeps | apply endDdr_keeps | apply loseChannel_keeps | apply backOnline_keeps | apply ite_keeps | apply foldl_keeps) | split | (extract_lets; split) | (with_reducible apply State.keeps_mk <;> first | exact .inr ‹_› | exact .inl rfl | exact .inl ⟨rfl, rfl⟩ | exact .inl ⟨rfl, rfl, rfl⟩ | exact .inl ⟨rfl, rfl, rfl, rfl⟩ | exact .inl ⟨rfl, rfl, rfl, rfl, rfl⟩ | skip) | rfl | exact OtpLe.refl _ | split | (extract_lets; split) | (dsimp +zetaDelta only; split)

theorem timeoutDdr_keeps (c : Nat) (s : State) (p_free : m .free = true) (p_out : m .out = true) (p_slots : m .slots = true) (p_records : m .records = true) (p_events : m .events = true) (p_pba : m .pba = true) (p_hostMem : m .hostMem = true) (p_axis : m .axis = true) (p_cal : m .cal = true) (p_mem : m .mem = true) (hs : Keeps m r s) : Keeps m r (timeoutDdr c s) := by
  unfold timeoutDdr
  repeat' first | intro _ | (with_reducible first | assumption | apply failRun_keeps | apply State.setDdr_keeps | apply endDdr_keeps | apply ite_keeps | apply foldl_keeps) | split | (extract_lets; split) | (with_reducible apply State.keeps_mk <;> first | exact .inr ‹_› | exact .inl rfl | exact .inl ⟨rfl, rfl⟩ | exact .inl ⟨rfl, rfl, rfl⟩ | exact .inl ⟨rfl, rfl, rfl, rfl⟩ | exact .inl ⟨rfl, rfl, rfl, rfl, rfl⟩ | skip) | rfl | exact OtpLe.refl _ | split | (extract_lets; split) | (dsimp +zetaDelta only; split)

theorem bootTrain_keeps (c : Nat) (eyes : List Nat) (temp : Int) (s : State) (p_cal : m .cal = true) (p_mem : m .mem = true) (hs : Keeps m r s) : Keeps m r (bootTrain c eyes temp s) := by
  unfold bootTrain
  repeat' first | intro _ | (with_reducible first | assumption | apply State.updCal_keeps | apply State.setDdr_keeps | apply ite_keeps | apply foldl_keeps) | split | (extract_lets; split) | (with_reducible apply State.keeps_mk <;> first | exact .inr ‹_› | exact .inl rfl | exact .inl ⟨rfl, rfl⟩ | exact .inl ⟨rfl, rfl, rfl⟩ | exact .inl ⟨rfl, rfl, rfl, rfl⟩ | exact .inl ⟨rfl, rfl, rfl, rfl, rfl⟩ | skip) | rfl | exact OtpLe.refl _ | split | (extract_lets; split) | (dsimp +zetaDelta only; split)

theorem bootChanEvent_keeps (s : State) (c : Nat) (p_out : m .out = true) (p_events : m .events = true) (p_pba : m .pba = true) (p_hostMem : m .hostMem = true) (hs : Keeps m r s) : Keeps m r (bootChanEvent s c) := by
  unfold bootChanEvent
  repeat' first | intro _ | (with_reducible first | assumption | apply chanEvent_keeps | apply ite_keeps | apply foldl_keeps) | (with_reducible apply State.keeps_mk <;> first | exact .inr ‹_› | exact .inl rfl | exact .inl ⟨rfl, rfl⟩ | exact .inl ⟨rfl, rfl, rfl⟩ | exact .inl ⟨rfl, rfl, rfl, rfl⟩ | exact .inl ⟨rfl, rfl, rfl, rfl, rfl⟩ | skip) | rfl | exact OtpLe.refl _ | split | (extract_lets; split) | (dsimp +zetaDelta only; split)

end Sys2Proof.Machine
end

