-- ==== Sys2Proof/Laws/KeepsCalRun.lean ====
section
/-! SUPPORT. `Keeps` for the definitions of Machine/CalRun.lean, one lemma for each. -/

set_option linter.all false
set_option Elab.async false
set_option maxRecDepth 4000
namespace Sys2Proof.Machine

variable {m : Part → Bool} {r : State}

theorem takeShot_keeps (n : Nat) (s : State) (p_cal : m .cal = true) (hs : Keeps m r s) : Keeps m r (takeShot n s) := by
  unfold takeShot
  repeat' first | intro _ | (with_reducible first | assumption | apply State.updCal_keeps | apply ite_keeps | apply foldl_keeps) | (with_reducible apply State.keeps_mk <;> first | exact .inr ‹_› | exact .inl rfl | exact .inl ⟨rfl, rfl⟩ | exact .inl ⟨rfl, rfl, rfl⟩ | exact .inl ⟨rfl, rfl, rfl, rfl⟩ | exact .inl ⟨rfl, rfl, rfl, rfl, rfl⟩ | skip) | rfl | exact OtpLe.refl _ | split | (extract_lets; split) | (dsimp +zetaDelta only; split)

theorem goToPosition_keeps (n : Nat) (s : State) (p_free : m .free = true) (p_out : m .out = true) (p_slots : m .slots = true) (p_records : m .records = true) (p_events : m .events = true) (p_pba : m .pba = true) (p_hostMem : m .hostMem = true) (p_axis : m .axis = true) (p_cal : m .cal = true) (p_mem : m .mem = true) (hs : Keeps m r s) : Keeps m r (goToPosition n s) := by
  unfold goToPosition
  repeat' first | intro _ | (with_reducible first | assumption | apply State.updCal_keeps | apply failRun_keeps | apply State.withAxis_keeps | apply State.setAx_keeps | apply startGroup_keeps | apply ite_keeps | apply foldl_keeps) | (with_reducible apply State.keeps_mk <;> first | exact .inr ‹_› | exact .inl rfl | exact .inl ⟨rfl, rfl⟩ | exact .inl ⟨rfl, rfl, rfl⟩ | exact .inl ⟨rfl, rfl, rfl, rfl⟩ | exact .inl ⟨rfl, rfl, rfl, rfl, rfl⟩ | skip) | rfl | exact OtpLe.refl _ | split | (extract_lets; split) | (dsimp +zetaDelta only; split)

theorem gantryStep_keeps (s : State) (n : Nat) (p_free : m .free = true) (p_out : m .out = true) (p_slots : m .slots = true) (p_records : m .records = true) (p_events : m .events = true) (p_pba : m .pba = true) (p_hostMem : m .hostMem = true) (p_axis : m .axis = true) (p_cal : m .cal = true) (p_mem : m .mem = true) (hs : Keeps m r s) : Keeps m r (gantryStep s n) := by
  unfold gantryStep
  repeat' first | intro _ | (with_reducible first | assumption | apply State.setCal_keeps | apply failRun_keeps | apply ite_keeps | apply foldl_keeps) | (with_reducible apply State.keeps_mk <;> first | exact .inr ‹_› | exact .inl rfl | exact .inl ⟨rfl, rfl⟩ | exact .inl ⟨rfl, rfl, rfl⟩ | exact .inl ⟨rfl, rfl, rfl, rfl⟩ | exact .inl ⟨rfl, rfl, rfl, rfl, rfl⟩ | skip) | rfl | exact OtpLe.refl _ | split | (extract_lets; split) | (dsimp +zetaDelta only; split)

theorem gantrySteps_keeps (s : State) (p_free : m .free = true) (p_out : m .out = true) (p_slots : m .slots = true) (p_records : m .records = true) (p_events : m .events = true) (p_pba : m .pba = true) (p_hostMem : m .hostMem = true) (p_axis : m .axis = true) (p_cal : m .cal = true) (p_mem : m .mem = true) (hs : Keeps m r s) : Keeps m r (gantrySteps s) := by
  unfold gantrySteps
  repeat' first | intro _ | (with_reducible first | assumption | apply gantryStep_keeps | apply ite_keeps | apply foldl_keeps) | (with_reducible apply State.keeps_mk <;> first | exact .inr ‹_› | exact .inl rfl | exact .inl ⟨rfl, rfl⟩ | exact .inl ⟨rfl, rfl, rfl⟩ | exact .inl ⟨rfl, rfl, rfl, rfl⟩ | exact .inl ⟨rfl, rfl, rfl, rfl, rfl⟩ | skip) | rfl | exact OtpLe.refl _ | split | (extract_lets; split) | (dsimp +zetaDelta only; split)

theorem execCalSettleExpiry_keeps (calId : Nat) (s : State) (p_cal : m .cal = true) (hs : Keeps m r s) : OutKeeps m r (execCalSettleExpiry calId s) := by
  unfold execCalSettleExpiry
  repeat' first | intro _ | (with_reducible first | assumption | apply OutKeeps.next | apply OutKeeps.fault | apply ite_outKeeps | apply State.setCal_keeps | apply ite_keeps | apply foldl_keeps) | split | (extract_lets; split) | (with_reducible apply State.keeps_mk <;> first | exact .inr ‹_› | exact .inl rfl | exact .inl ⟨rfl, rfl⟩ | exact .inl ⟨rfl, rfl, rfl⟩ | exact .inl ⟨rfl, rfl, rfl, rfl⟩ | exact .inl ⟨rfl, rfl, rfl, rfl, rfl⟩ | skip) | rfl | exact OtpLe.refl _ | split | (extract_lets; split) | (dsimp +zetaDelta only; split)

theorem positionDone_keeps (n : Nat) (s : State) (p_free : m .free = true) (p_out : m .out = true) (p_slots : m .slots = true) (p_records : m .records = true) (p_events : m .events = true) (p_pba : m .pba = true) (p_hostMem : m .hostMem = true) (p_axis : m .axis = true) (p_cal : m .cal = true) (p_mem : m .mem = true) (hs : Keeps m r s) : Keeps m r (positionDone n s) := by
  unfold positionDone
  repeat' first | intro _ | (with_reducible first | assumption | apply State.setCal_keeps | apply goToPosition_keeps | apply ite_keeps | apply foldl_keeps) | (with_reducible apply State.keeps_mk <;> first | exact .inr ‹_› | exact .inl rfl | exact .inl ⟨rfl, rfl⟩ | exact .inl ⟨rfl, rfl, rfl⟩ | exact .inl ⟨rfl, rfl, rfl, rfl⟩ | exact .inl ⟨rfl, rfl, rfl, rfl, rfl⟩ | skip) | rfl | exact OtpLe.refl _ | split | (extract_lets; split) | (dsimp +zetaDelta only; split)

theorem patternFrame_keeps (f : FrameNo) (s : State) (n : Nat) (p_frames : m .frames = true) (p_cal : m .cal = true) (hs : Keeps m r s) : Keeps m r (patternFrame f s n) := by
  unfold patternFrame
  repeat' first | intro _ | (with_reducible first | assumption | apply State.updFrame_keeps | apply rollback_keeps | apply State.setCal_keeps | apply ite_keeps | apply foldl_keeps) | (with_reducible apply State.keeps_mk <;> first | exact .inr ‹_› | exact .inl rfl | exact .inl ⟨rfl, rfl⟩ | exact .inl ⟨rfl, rfl, rfl⟩ | exact .inl ⟨rfl, rfl, rfl, rfl⟩ | exact .inl ⟨rfl, rfl, rfl, rfl, rfl⟩ | skip) | rfl | exact OtpLe.refl _ | split | (extract_lets; split) | (dsimp +zetaDelta only; split)

theorem startRun_keeps (n : Nat) (trig : Nat) (ws : List (Nat × Nat)) (s : State) (p_free : m .free = true) (p_out : m .out = true) (p_slots : m .slots = true) (p_records : m .records = true) (p_events : m .events = true) (p_pba : m .pba = true) (p_hostMem : m .hostMem = true) (p_axis : m .axis = true) (p_cal : m .cal = true) (p_mem : m .mem = true) (hs : Keeps m r s) : Keeps m r (startRun n trig ws s) := by
  unfold startRun
  repeat' first | intro _ | (with_reducible first | assumption | apply State.updCal_keeps | apply beginRun_keeps | apply startDdr_keeps | apply goToPosition_keeps | apply ite_keeps | apply foldl_keeps) | (with_reducible apply State.keeps_mk <;> first | exact .inr ‹_› | exact .inl rfl | exact .inl ⟨rfl, rfl⟩ | exact .inl ⟨rfl, rfl, rfl⟩ | exact .inl ⟨rfl, rfl, rfl, rfl⟩ | exact .inl ⟨rfl, rfl, rfl, rfl, rfl⟩ | skip) | rfl | exact OtpLe.refl _ | split | (extract_lets; split) | (dsimp +zetaDelta only; split)

theorem calTrigger_keeps (n : Nat) (trig : Nat) (s : State) (p_free : m .free = true) (p_out : m .out = true) (p_slots : m .slots = true) (p_records : m .records = true) (p_events : m .events = true) (p_pba : m .pba = true) (p_hostMem : m .hostMem = true) (p_axis : m .axis = true) (p_cal : m .cal = true) (p_mem : m .mem = true) (hs : Keeps m r s) : Keeps m r (calTrigger n trig s) := by
  unfold calTrigger
  repeat' first | intro _ | (with_reducible first | assumption | apply State.setCal_keeps | apply startRun_keeps | apply ite_keeps | apply foldl_keeps) | (with_reducible apply State.keeps_mk <;> first | exact .inr ‹_› | exact .inl rfl | exact .inl ⟨rfl, rfl⟩ | exact .inl ⟨rfl, rfl, rfl⟩ | exact .inl ⟨rfl, rfl, rfl, rfl⟩ | exact .inl ⟨rfl, rfl, rfl, rfl, rfl⟩ | skip) | rfl | exact OtpLe.refl _ | split | (extract_lets; split) | (dsimp +zetaDelta only; split)

theorem execCalRunStart_keeps (calId : Nat) (s : State) (p_free : m .free = true) (p_out : m .out = true) (p_slots : m .slots = true) (p_records : m .records = true) (p_events : m .events = true) (p_pba : m .pba = true) (p_hostMem : m .hostMem = true) (p_axis : m .axis = true) (p_cal : m .cal = true) (p_mem : m .mem = true) (hs : Keeps m r s) : OutKeeps m r (execCalRunStart calId s) := by
  unfold execCalRunStart
  repeat' first | intro _ | (with_reducible first | assumption | apply OutKeeps.next | apply OutKeeps.fault | apply ite_outKeeps | apply State.setCal_keeps | apply startRun_keeps | apply ite_keeps | apply foldl_keeps) | split | (extract_lets; split) | (with_reducible apply State.keeps_mk <;> first | exact .inr ‹_› | exact .inl rfl | exact .inl ⟨rfl, rfl⟩ | exact .inl ⟨rfl, rfl, rfl⟩ | exact .inl ⟨rfl, rfl, rfl, rfl⟩ | exact .inl ⟨rfl, rfl, rfl, rfl, rfl⟩ | skip) | rfl | exact OtpLe.refl _ | split | (extract_lets; split) | (dsimp +zetaDelta only; split)

theorem execCalPeriodicTimer_keeps (calId : Nat) (s : State) (p_free : m .free = true) (p_out : m .out = true) (p_slots : m .slots = true) (p_records : m .records = true) (p_events : m .events = true) (p_pba : m .pba = true) (p_hostMem : m .hostMem = true) (p_axis : m .axis = true) (p_cal : m .cal = true) (p_mem : m .mem = true) (hs : Keeps m r s) : OutKeeps m r (execCalPeriodicTimer calId s) := by
  unfold execCalPeriodicTimer
  repeat' first | intro _ | (with_reducible first | assumption | apply OutKeeps.next | apply OutKeeps.fault | apply ite_outKeeps | apply State.updCal_keeps | apply calTrigger_keeps | apply ite_keeps | apply foldl_keeps) | split | (extract_lets; split) | (with_reducible apply State.keeps_mk <;> first | exact .inr ‹_› | exact .inl rfl | exact .inl ⟨rfl, rfl⟩ | exact .inl ⟨rfl, rfl, rfl⟩ | exact .inl ⟨rfl, rfl, rfl, rfl⟩ | exact .inl ⟨rfl, rfl, rfl, rfl, rfl⟩ | skip) | rfl | exact OtpLe.refl _ | split | (extract_lets; split) | (dsimp +zetaDelta only; split)

theorem temperatureTriggers_keeps (s : State) (p_free : m .free = true) (p_out : m .out = true) (p_slots : m .slots = true) (p_records : m .records = true) (p_events : m .events = true) (p_pba : m .pba = true) (p_hostMem : m .hostMem = true) (p_axis : m .axis = true) (p_cal : m .cal = true) (p_mem : m .mem = true) (hs : Keeps m r s) : Keeps m r (temperatureTriggers s) := by
  unfold temperatureTriggers
  repeat' first | intro _ | (with_reducible first | assumption | apply calTrigger_keeps | apply ite_keeps | apply foldl_keeps) | (with_reducible apply State.keeps_mk <;> first | exact .inr ‹_› | exact .inl rfl | exact .inl ⟨rfl, rfl⟩ | exact .inl ⟨rfl, rfl, rfl⟩ | exact .inl ⟨rfl, rfl, rfl, rfl⟩ | exact .inl ⟨rfl, rfl, rfl, rfl, rfl⟩ | skip) | rfl | exact OtpLe.refl _ | split | (extract_lets; split) | (dsimp +zetaDelta only; split)

theorem rejectShots_keeps (n : Nat) (k : Nat) (s : State) (p_cal : m .cal = true) (hs : Keeps m r s) : Keeps m r (rejectShots n k s) := by
  unfold rejectShots
  repeat' first | intro _ | (with_reducible first | assumption | apply State.updCal_keeps | apply ite_keeps | apply foldl_keeps) | (with_reducible apply State.keeps_mk <;> first | exact .inr ‹_› | exact .inl rfl | exact .inl ⟨rfl, rfl⟩ | exact .inl ⟨rfl, rfl, rfl⟩ | exact .inl ⟨rfl, rfl, rfl, rfl⟩ | exact .inl ⟨rfl, rfl, rfl, rfl, rfl⟩ | skip) | rfl | exact OtpLe.refl _ | split | (extract_lets; split) | (dsimp +zetaDelta only; split)

theorem dropSet_keeps (n : Nat) (f : FrameNo) (s : State) (p_cal : m .cal = true) (hs : Keeps m r s) : Keeps m r (dropSet n f s) := by
  unfold dropSet
  repeat' first | intro _ | (with_reducible first | assumption | apply State.setCal_keeps | apply rejectShots_keeps | apply ite_keeps | apply foldl_keeps) | (with_reducible apply State.keeps_mk <;> first | exact .inr ‹_› | exact .inl rfl | exact .inl ⟨rfl, rfl⟩ | exact .inl ⟨rfl, rfl, rfl⟩ | exact .inl ⟨rfl, rfl, rfl, rfl⟩ | exact .inl ⟨rfl, rfl, rfl, rfl, rfl⟩ | skip) | rfl | exact OtpLe.refl _ | split | (extract_lets; split) | (dsimp +zetaDelta only; split)

theorem judgeSet_keeps (n : Nat) (s : State) (f : FrameNo) (p_cal : m .cal = true) (hs : Keeps m r s) : Keeps m r (judgeSet n s f) := by
  unfold judgeSet
  repeat' first | intro _ | (with_reducible first | assumption | apply State.setCal_keeps | apply dropSet_keeps | apply ite_keeps | apply foldl_keeps) | split | (extract_lets; split) | (with_reducible apply State.keeps_mk <;> first | exact .inr ‹_› | exact .inl rfl | exact .inl ⟨rfl, rfl⟩ | exact .inl ⟨rfl, rfl, rfl⟩ | exact .inl ⟨rfl, rfl, rfl, rfl⟩ | exact .inl ⟨rfl, rfl, rfl, rfl, rfl⟩ | skip) | rfl | exact OtpLe.refl _ | split | (extract_lets; split) | (dsimp +zetaDelta only; split)

theorem judgeSets_keeps (s : State) (n : Nat) (p_cal : m .cal = true) (hs : Keeps m r s) : Keeps m r (judgeSets s n) := by
  unfold judgeSets
  repeat' first | intro _ | (with_reducible first | assumption | apply judgeSet_keeps | apply ite_keeps | apply foldl_keeps) | (with_reducible apply State.keeps_mk <;> first | exact .inr ‹_› | exact .inl rfl | exact .inl ⟨rfl, rfl⟩ | exact .inl ⟨rfl, rfl, rfl⟩ | exact .inl ⟨rfl, rfl, rfl, rfl⟩ | exact .inl ⟨rfl, rfl, rfl, rfl, rfl⟩ | skip) | rfl | exact OtpLe.refl _ | split | (extract_lets; split) | (dsimp +zetaDelta only; split)

theorem addShot_keeps (n : Nat) (c : CalShot) (s : State) (p_cal : m .cal = true) (hs : Keeps m r s) : Keeps m r (addShot n c s) := by
  unfold addShot
  repeat' first | intro _ | (with_reducible first | assumption | apply State.setCal_keeps | apply rejectShots_keeps | apply dropSet_keeps | apply judgeSets_keeps | apply ite_keeps | apply foldl_keeps) | (with_reducible apply State.keeps_mk <;> first | exact .inr ‹_› | exact .inl rfl | exact .inl ⟨rfl, rfl⟩ | exact .inl ⟨rfl, rfl, rfl⟩ | exact .inl ⟨rfl, rfl, rfl, rfl⟩ | exact .inl ⟨rfl, rfl, rfl, rfl, rfl⟩ | skip) | rfl | exact OtpLe.refl _ | split | (extract_lets; split) | (dsimp +zetaDelta only; split)

theorem captureFor_keeps (st : Nat) (f : CamFrame) (s : State) (n : Nat) (p_cal : m .cal = true) (hs : Keeps m r s) : Keeps m r (captureFor st f s n) := by
  unfold captureFor
  repeat' first | intro _ | (with_reducible first | assumption | apply addShot_keeps | apply ite_keeps | apply foldl_keeps) | split | (extract_lets; split) | (with_reducible apply State.keeps_mk <;> first | exact .inr ‹_› | exact .inl rfl | exact .inl ⟨rfl, rfl⟩ | exact .inl ⟨rfl, rfl, rfl⟩ | exact .inl ⟨rfl, rfl, rfl, rfl⟩ | exact .inl ⟨rfl, rfl, rfl, rfl, rfl⟩ | skip) | rfl | exact OtpLe.refl _ | split | (extract_lets; split) | (dsimp +zetaDelta only; split)

theorem patternShot_keeps (st : Nat) (f : CamFrame) (s : State) (n : Nat) (p_free : m .free = true) (p_out : m .out = true) (p_slots : m .slots = true) (p_records : m .records = true) (p_events : m .events = true) (p_pba : m .pba = true) (p_hostMem : m .hostMem = true) (p_axis : m .axis = true) (p_cal : m .cal = true) (p_mem : m .mem = true) (hs : Keeps m r s) : Keeps m r (patternShot st f s n) := by
  unfold patternShot
  repeat' first | intro _ | (with_reducible first | assumption | apply State.setCal_keeps | apply positionDone_keeps | apply rejectShots_keeps | apply ite_keeps | apply foldl_keeps) | (with_reducible apply State.keeps_mk <;> first | exact .inr ‹_› | exact .inl rfl | exact .inl ⟨rfl, rfl⟩ | exact .inl ⟨rfl, rfl, rfl⟩ | exact .inl ⟨rfl, rfl, rfl, rfl⟩ | exact .inl ⟨rfl, rfl, rfl, rfl, rfl⟩ | skip) | rfl | exact OtpLe.refl _ | split | (extract_lets; split) | (dsimp +zetaDelta only; split)

theorem calCapture_keeps (st : Nat) (f : CamFrame) (s : State) (p_free : m .free = true) (p_out : m .out = true) (p_slots : m .slots = true) (p_records : m .records = true) (p_events : m .events = true) (p_pba : m .pba = true) (p_hostMem : m .hostMem = true) (p_axis : m .axis = true) (p_cal : m .cal = true) (p_mem : m .mem = true) (hs : Keeps m r s) : Keeps m r (calCapture st f s) := by
  unfold calCapture
  repeat' first | intro _ | (with_reducible first | assumption | apply captureFor_keeps | apply patternShot_keeps | apply ite_keeps | apply foldl_keeps) | (with_reducible apply State.keeps_mk <;> first | exact .inr ‹_› | exact .inl rfl | exact .inl ⟨rfl, rfl⟩ | exact .inl ⟨rfl, rfl, rfl⟩ | exact .inl ⟨rfl, rfl, rfl, rfl⟩ | exact .inl ⟨rfl, rfl, rfl, rfl, rfl⟩ | skip) | rfl | exact OtpLe.refl _ | split | (extract_lets; split) | (dsimp +zetaDelta only; split)

theorem calRecord_keeps (s : State) (p_cal : m .cal = true) (hs : Keeps m r s) : Keeps m r (calRecord s) := by
  unfold calRecord
  repeat' first | intro _ | (with_reducible first | assumption | apply judgeSets_keeps | apply ite_keeps | apply foldl_keeps) | (with_reducible apply State.keeps_mk <;> first | exact .inr ‹_› | exact .inl rfl | exact .inl ⟨rfl, rfl⟩ | exact .inl ⟨rfl, rfl, rfl⟩ | exact .inl ⟨rfl, rfl, rfl, rfl⟩ | exact .inl ⟨rfl, rfl, rfl, rfl, rfl⟩ | skip) | rfl | exact OtpLe.refl _ | split | (extract_lets; split) | (dsimp +zetaDelta only; split)

theorem imageSlew_keeps (r1 : CalImage) (s : State) (p_web : m .web = true) (hs : Keeps m r s) : Keeps m r (imageSlew r1 s) := by
  unfold imageSlew
  repeat' first | intro _ | (with_reducible first | assumption | apply State.setWebBar_keeps | apply recomputeSpan_keeps | apply ite_keeps | apply foldl_keeps) | (with_reducible apply State.keeps_mk <;> first | exact .inr ‹_› | exact .inl rfl | exact .inl ⟨rfl, rfl⟩ | exact .inl ⟨rfl, rfl, rfl⟩ | exact .inl ⟨rfl, rfl, rfl, rfl⟩ | exact .inl ⟨rfl, rfl, rfl, rfl, rfl⟩ | skip) | rfl | exact OtpLe.refl _ | split | (extract_lets; split) | (dsimp +zetaDelta only; split)

theorem imageMove_keeps (r1 : CalImage) (s : State) (p_axis : m .axis = true) (hs : Keeps m r s) : Keeps m r (imageMove r1 s) := by
  unfold imageMove
  repeat' first | intro _ | (with_reducible first | assumption | apply startMove_keeps | apply ite_keeps | apply foldl_keeps) | (with_reducible apply State.keeps_mk <;> first | exact .inr ‹_› | exact .inl rfl | exact .inl ⟨rfl, rfl⟩ | exact .inl ⟨rfl, rfl, rfl⟩ | exact .inl ⟨rfl, rfl, rfl, rfl⟩ | exact .inl ⟨rfl, rfl, rfl, rfl, rfl⟩ | skip) | rfl | exact OtpLe.refl _ | split | (extract_lets; split) | (dsimp +zetaDelta only; split)

theorem mirrorResult_keeps (applied : FrameNo) (r1 : CalImage) (s : State) (p_out : m .out = true) (p_tan : m .tan = true) (hs : Keeps m r s) : Keeps m r (mirrorResult applied r1 s) := by
  unfold mirrorResult
  repeat' first | intro _ | (with_reducible first | assumption | apply State.emit_keeps | apply ite_keeps | apply foldl_keeps) | (with_reducible apply State.keeps_mk <;> first | exact .inr ‹_› | exact .inl rfl | exact .inl ⟨rfl, rfl⟩ | exact .inl ⟨rfl, rfl, rfl⟩ | exact .inl ⟨rfl, rfl, rfl, rfl⟩ | exact .inl ⟨rfl, rfl, rfl, rfl, rfl⟩ | skip) | rfl | exact OtpLe.refl _ | split | (extract_lets; split) | (dsimp +zetaDelta only; split)

theorem commitImage_keeps (target : Option FrameNo) (r1 : CalImage) (s : State) (p_out : m .out = true) (p_events : m .events = true) (p_pba : m .pba = true) (p_hostMem : m .hostMem = true) (p_web : m .web = true) (p_frames : m .frames = true) (p_prn : m .prn = true) (p_scan : m .scan = true) (hs : Keeps m r s) : Keeps m r (commitImage target r1 s) := by
  unfold commitImage
  repeat' first | intro _ | (with_reducible first | assumption | apply newLoads_keeps | apply calCommit_keeps | apply imageSlew_keeps | apply ite_keeps | apply foldl_keeps) | (with_reducible apply State.keeps_mk <;> first | exact .inr ‹_› | exact .inl rfl | exact .inl ⟨rfl, rfl⟩ | exact .inl ⟨rfl, rfl, rfl⟩ | exact .inl ⟨rfl, rfl, rfl, rfl⟩ | exact .inl ⟨rfl, rfl, rfl, rfl, rfl⟩ | skip) | rfl | exact OtpLe.refl _ | split | (extract_lets; split) | (dsimp +zetaDelta only; split)

theorem nozzleChanges_keeps (r1 : CalImage) (a : FrameNo) (s : State) (p_out : m .out = true) (p_events : m .events = true) (p_pba : m .pba = true) (p_hostMem : m .hostMem = true) (hs : Keeps m r s) : Keeps m r (nozzleChanges r1 a s) := by
  unfold nozzleChanges
  repeat' first | intro _ | (with_reducible first | assumption | apply raise_keeps | apply ite_keeps | apply foldl_keeps) | (with_reducible apply State.keeps_mk <;> first | exact .inr ‹_› | exact .inl rfl | exact .inl ⟨rfl, rfl⟩ | exact .inl ⟨rfl, rfl, rfl⟩ | exact .inl ⟨rfl, rfl, rfl, rfl⟩ | exact .inl ⟨rfl, rfl, rfl, rfl, rfl⟩ | skip) | rfl | exact OtpLe.refl _ | split | (extract_lets; split) | (dsimp +zetaDelta only; split)

theorem tryCommit_keeps (s : State) (n : Nat) (p_free : m .free = true) (p_out : m .out = true) (p_slots : m .slots = true) (p_records : m .records = true) (p_events : m .events = true) (p_pba : m .pba = true) (p_hostMem : m .hostMem = true) (p_web : m .web = true) (p_axis : m .axis = true) (p_frames : m .frames = true) (p_prn : m .prn = true) (p_tan : m .tan = true) (p_cal : m .cal = true) (p_scan : m .scan = true) (p_mem : m .mem = true) (hs : Keeps m r s) : Keeps m r (tryCommit s n) := by
  unfold tryCommit
  repeat' first | intro _ | (with_reducible first | assumption | apply succeedRun_keeps | apply imageSlew_keeps | apply imageMove_keeps | apply mirrorResult_keeps | apply commitImage_keeps | apply nozzleChanges_keeps | apply ite_keeps | apply foldl_keeps) | (with_reducible apply State.keeps_mk <;> first | exact .inr ‹_› | exact .inl rfl | exact .inl ⟨rfl, rfl⟩ | exact .inl ⟨rfl, rfl, rfl⟩ | exact .inl ⟨rfl, rfl, rfl, rfl⟩ | exact .inl ⟨rfl, rfl, rfl, rfl, rfl⟩ | skip) | rfl | exact OtpLe.refl _ | split | (extract_lets; split) | (dsimp +zetaDelta only; split)

theorem haveResult_keeps (n : Nat) (q : Nat) (r1 : CalImage) (s : State) (p_free : m .free = true) (p_out : m .out = true) (p_slots : m .slots = true) (p_records : m .records = true) (p_events : m .events = true) (p_pba : m .pba = true) (p_hostMem : m .hostMem = true) (p_web : m .web = true) (p_axis : m .axis = true) (p_frames : m .frames = true) (p_prn : m .prn = true) (p_tan : m .tan = true) (p_cal : m .cal = true) (p_scan : m .scan = true) (p_mem : m .mem = true) (hs : Keeps m r s) : Keeps m r (haveResult n q r1 s) := by
  unfold haveResult
  repeat' first | intro _ | (with_reducible first | assumption | apply State.updCal_keeps | apply passTo_keeps | apply tryCommit_keeps | apply ite_keeps | apply foldl_keeps) | (with_reducible apply State.keeps_mk <;> first | exact .inr ‹_› | exact .inl rfl | exact .inl ⟨rfl, rfl⟩ | exact .inl ⟨rfl, rfl, rfl⟩ | exact .inl ⟨rfl, rfl, rfl, rfl⟩ | exact .inl ⟨rfl, rfl, rfl, rfl, rfl⟩ | skip) | rfl | exact OtpLe.refl _ | split | (extract_lets; split) | (dsimp +zetaDelta only; split)

theorem computeColour_keeps (s : State) (p_free : m .free = true) (p_out : m .out = true) (p_slots : m .slots = true) (p_records : m .records = true) (p_events : m .events = true) (p_pba : m .pba = true) (p_hostMem : m .hostMem = true) (p_web : m .web = true) (p_axis : m .axis = true) (p_frames : m .frames = true) (p_prn : m .prn = true) (p_tan : m .tan = true) (p_cal : m .cal = true) (p_scan : m .scan = true) (p_mem : m .mem = true) (hs : Keeps m r s) : Keeps m r (computeColour s) := by
  unfold computeColour
  repeat' first | intro _ | (with_reducible first | assumption | apply State.withCal_keeps | apply failRun_keeps | apply measured_keeps | apply haveResult_keeps | apply ite_keeps | apply foldl_keeps) | (with_reducible apply State.keeps_mk <;> first | exact .inr ‹_› | exact .inl rfl | exact .inl ⟨rfl, rfl⟩ | exact .inl ⟨rfl, rfl, rfl⟩ | exact .inl ⟨rfl, rfl, rfl, rfl⟩ | exact .inl ⟨rfl, rfl, rfl, rfl, rfl⟩ | skip) | rfl | exact OtpLe.refl _ | split | (extract_lets; split) | (dsimp +zetaDelta only; split)

theorem computeHealth_keeps (s : State) (p_free : m .free = true) (p_out : m .out = true) (p_slots : m .slots = true) (p_records : m .records = true) (p_events : m .events = true) (p_pba : m .pba = true) (p_hostMem : m .hostMem = true) (p_web : m .web = true) (p_axis : m .axis = true) (p_frames : m .frames = true) (p_prn : m .prn = true) (p_tan : m .tan = true) (p_cal : m .cal = true) (p_scan : m .scan = true) (p_mem : m .mem = true) (hs : Keeps m r s) : Keeps m r (computeHealth s) := by
  unfold computeHealth
  repeat' first | intro _ | (with_reducible first | assumption | apply State.withCal_keeps | apply measured_keeps | apply haveResult_keeps | apply ite_keeps | apply foldl_keeps) | split | (extract_lets; split) | (with_reducible apply State.keeps_mk <;> first | exact .inr ‹_› | exact .inl rfl | exact .inl ⟨rfl, rfl⟩ | exact .inl ⟨rfl, rfl, rfl⟩ | exact .inl ⟨rfl, rfl, rfl, rfl⟩ | exact .inl ⟨rfl, rfl, rfl, rfl, rfl⟩ | skip) | rfl | exact OtpLe.refl _ | split | (extract_lets; split) | (dsimp +zetaDelta only; split)

theorem computeRegistration_keeps (s : State) (p_free : m .free = true) (p_out : m .out = true) (p_slots : m .slots = true) (p_records : m .records = true) (p_events : m .events = true) (p_pba : m .pba = true) (p_hostMem : m .hostMem = true) (p_web : m .web = true) (p_axis : m .axis = true) (p_frames : m .frames = true) (p_prn : m .prn = true) (p_tan : m .tan = true) (p_cal : m .cal = true) (p_scan : m .scan = true) (p_mem : m .mem = true) (hs : Keeps m r s) : Keeps m r (computeRegistration s) := by
  unfold computeRegistration
  repeat' first | intro _ | (with_reducible first | assumption | apply State.withCal_keeps | apply failRun_keeps | apply measured_keeps | apply haveResult_keeps | apply ite_keeps | apply foldl_keeps) | split | (extract_lets; split) | (with_reducible apply State.keeps_mk <;> first | exact .inr ‹_› | exact .inl rfl | exact .inl ⟨rfl, rfl⟩ | exact .inl ⟨rfl, rfl, rfl⟩ | exact .inl ⟨rfl, rfl, rfl, rfl⟩ | exact .inl ⟨rfl, rfl, rfl, rfl, rfl⟩ | skip) | rfl | exact OtpLe.refl _ | split | (extract_lets; split) | (dsimp +zetaDelta only; split)

theorem lfResult_keeps (n : Nat) (q : Nat) (r1 : CalImage) (s : State) (p_free : m .free = true) (p_out : m .out = true) (p_slots : m .slots = true) (p_records : m .records = true) (p_events : m .events = true) (p_pba : m .pba = true) (p_hostMem : m .hostMem = true) (p_web : m .web = true) (p_axis : m .axis = true) (p_frames : m .frames = true) (p_prn : m .prn = true) (p_tan : m .tan = true) (p_cal : m .cal = true) (p_scan : m .scan = true) (p_mem : m .mem = true) (hs : Keeps m r s) : Keeps m r (lfResult n q r1 s) := by
  unfold lfResult
  repeat' first | intro _ | (with_reducible first | assumption | apply failRun_keeps | apply haveResult_keeps | apply ite_keeps | apply foldl_keeps) | (with_reducible apply State.keeps_mk <;> first | exact .inr ‹_› | exact .inl rfl | exact .inl ⟨rfl, rfl⟩ | exact .inl ⟨rfl, rfl, rfl⟩ | exact .inl ⟨rfl, rfl, rfl, rfl⟩ | exact .inl ⟨rfl, rfl, rfl, rfl, rfl⟩ | skip) | rfl | exact OtpLe.refl _ | split | (extract_lets; split) | (dsimp +zetaDelta only; split)

theorem computeLf_keeps (n : Nat) (found : Bool) (lenses : List LensObs) (photo : List EmitterObs) (s : State) (p_free : m .free = true) (p_out : m .out = true) (p_slots : m .slots = true) (p_records : m .records = true) (p_events : m .events = true) (p_pba : m .pba = true) (p_hostMem : m .hostMem = true) (p_web : m .web = true) (p_axis : m .axis = true) (p_frames : m .frames = true) (p_prn : m .prn = true) (p_tan : m .tan = true) (p_cal : m .cal = true) (p_scan : m .scan = true) (p_mem : m .mem = true) (hs : Keeps m r s) : Keeps m r (computeLf n found lenses photo s) := by
  unfold computeLf
  repeat' first | intro _ | (with_reducible first | assumption | apply failRun_keeps | apply lfResult_keeps | apply ite_keeps | apply foldl_keeps) | split | (extract_lets; split) | (with_reducible apply State.keeps_mk <;> first | exact .inr ‹_› | exact .inl rfl | exact .inl ⟨rfl, rfl⟩ | exact .inl ⟨rfl, rfl, rfl⟩ | exact .inl ⟨rfl, rfl, rfl, rfl⟩ | exact .inl ⟨rfl, rfl, rfl, rfl, rfl⟩ | skip) | rfl | exact OtpLe.refl _ | split | (extract_lets; split) | (dsimp +zetaDelta only; split)

theorem execCalComputeDone_keeps (calId : Nat) (eye : Nat) (found : Bool) (lenses : List LensObs) (photo : List EmitterObs) (s : State) (p_free : m .free = true) (p_out : m .out = true) (p_slots : m .slots = true) (p_records : m .records = true) (p_events : m .events = true) (p_pba : m .pba = true) (p_hostMem : m .hostMem = true) (p_web : m .web = true) (p_axis : m .axis = true) (p_frames : m .frames = true) (p_prn : m .prn = true) (p_tan : m .tan = true) (p_cal : m .cal = true) (p_scan : m .scan = true) (p_mem : m .mem = true) (hs : Keeps m r s) : OutKeeps m r (execCalComputeDone calId eye found lenses photo s) := by
  unfold execCalComputeDone
  repeat' first | intro _ | (with_reducible first | assumption | apply OutKeeps.next | apply OutKeeps.fault | apply ite_outKeeps | apply failRun_keeps | apply passTo_keeps | apply applyResult_keeps | apply computeColour_keeps | apply computeHealth_keeps | apply computeRegistration_keeps | apply computeLf_keeps | apply ite_keeps | apply foldl_keeps) | split | (extract_lets; split) | (with_reducible apply State.keeps_mk <;> first | exact .inr ‹_› | exact .inl rfl | exact .inl ⟨rfl, rfl⟩ | exact .inl ⟨rfl, rfl, rfl⟩ | exact .inl ⟨rfl, rfl, rfl, rfl⟩ | exact .inl ⟨rfl, rfl, rfl, rfl, rfl⟩ | skip) | rfl | exact OtpLe.refl _ | split | (extract_lets; split) | (dsimp +zetaDelta only; split)

theorem execCalTimeout_keeps (calId : Nat) (s : State) (p_free : m .free = true) (p_out : m .out = true) (p_slots : m .slots = true) (p_records : m .records = true) (p_events : m .events = true) (p_pba : m .pba = true) (p_hostMem : m .hostMem = true) (p_axis : m .axis = true) (p_cal : m .cal = true) (p_mem : m .mem = true) (hs : Keeps m r s) : OutKeeps m r (execCalTimeout calId s) := by
  unfold execCalTimeout
  repeat' first | intro _ | (with_reducible first | assumption | apply OutKeeps.next | apply OutKeeps.fault | apply ite_outKeeps | apply failRun_keeps | apply timeoutDdr_keeps | apply ite_keeps | apply foldl_keeps) | split | (extract_lets; split) | (with_reducible apply State.keeps_mk <;> first | exact .inr ‹_› | exact .inl rfl | exact .inl ⟨rfl, rfl⟩ | exact .inl ⟨rfl, rfl, rfl⟩ | exact .inl ⟨rfl, rfl, rfl, rfl⟩ | exact .inl ⟨rfl, rfl, rfl, rfl, rfl⟩ | skip) | rfl | exact OtpLe.refl _ | split | (extract_lets; split) | (dsimp +zetaDelta only; split)

theorem tryClears_keeps (a0 : List (Nat × Nat × Nat)) (a1 : State) (p_out : m .out = true) (p_slots : m .slots = true) (p_records : m .records = true) (p_events : m .events = true) (p_pba : m .pba = true) (p_hostMem : m .hostMem = true) (p_web : m .web = true) (p_frames : m .frames = true) (p_prn : m .prn = true) (p_tan : m .tan = true) (p_cal : m .cal = true) (p_scan : m .scan = true) (ha1 : Keeps m r a1) : Keeps m r (tryClears a0 a1) := by
  induction a0 generalizing a1 with
  | nil => exact ha1
  | cons e l ih =>
    unfold tryClears
    repeat' first | with_reducible apply ih | intro _ | (with_reducible first | assumption | apply complete_keeps | apply State.withCal_keeps | apply mirrorResult_keeps | apply commitImage_keeps | apply ite_keeps | apply foldl_keeps) | (with_reducible apply State.keeps_mk <;> first | exact .inr ‹_› | exact .inl rfl | exact .inl ⟨rfl, rfl⟩ | exact .inl ⟨rfl, rfl, rfl⟩ | exact .inl ⟨rfl, rfl, rfl, rfl⟩ | exact .inl ⟨rfl, rfl, rfl, rfl, rfl⟩ | skip) | rfl | exact OtpLe.refl _ | split | (extract_lets; split) | (dsimp +zetaDelta only; split)

theorem tryMirrors_keeps (a0 : List (FrameNo × CalImage)) (a1 : State) (p_out : m .out = true) (p_events : m .events = true) (p_pba : m .pba = true) (p_hostMem : m .hostMem = true) (p_web : m .web = true) (p_frames : m .frames = true) (p_prn : m .prn = true) (p_tan : m .tan = true) (p_scan : m .scan = true) (ha1 : Keeps m r a1) : Keeps m r (tryMirrors a0 a1) := by
  induction a0 generalizing a1 with
  | nil => exact ha1
  | cons e l ih =>
    unfold tryMirrors
    repeat' first | with_reducible apply ih | intro _ | (with_reducible first | assumption | apply imageSlew_keeps | apply commitImage_keeps | apply ite_keeps | apply foldl_keeps) | (with_reducible apply State.keeps_mk <;> first | exact .inr ‹_› | exact .inl rfl | exact .inl ⟨rfl, rfl⟩ | exact .inl ⟨rfl, rfl, rfl⟩ | exact .inl ⟨rfl, rfl, rfl, rfl⟩ | exact .inl ⟨rfl, rfl, rfl, rfl, rfl⟩ | skip) | rfl | exact OtpLe.refl _ | split | (extract_lets; split) | (dsimp +zetaDelta only; split)

theorem heldEvents_keeps (f : FrameNo) (s : State) (p_out : m .out = true) (p_events : m .events = true) (p_pba : m .pba = true) (p_hostMem : m .hostMem = true) (p_cal : m .cal = true) (hs : Keeps m r s) : Keeps m r (heldEvents f s) := by
  unfold heldEvents
  repeat' first | intro _ | (with_reducible first | assumption | apply State.withCal_keeps | apply calStale_keeps | apply ite_keeps | apply foldl_keeps) | (with_reducible apply State.keeps_mk <;> first | exact .inr ‹_› | exact .inl rfl | exact .inl ⟨rfl, rfl⟩ | exact .inl ⟨rfl, rfl, rfl⟩ | exact .inl ⟨rfl, rfl, rfl, rfl⟩ | exact .inl ⟨rfl, rfl, rfl, rfl, rfl⟩ | skip) | rfl | exact OtpLe.refl _ | split | (extract_lets; split) | (dsimp +zetaDelta only; split)

theorem clearAtCutoff_keeps (f : FrameNo) (s : State) (n : Nat) (p_out : m .out = true) (p_events : m .events = true) (p_pba : m .pba = true) (p_hostMem : m .hostMem = true) (p_cal : m .cal = true) (hs : Keeps m r s) : Keeps m r (clearAtCutoff f s n) := by
  unfold clearAtCutoff
  repeat' first | intro _ | (with_reducible first | assumption | apply endStale_keeps | apply ite_keeps | apply foldl_keeps) | split | (extract_lets; split) | (with_reducible apply State.keeps_mk <;> first | exact .inr ‹_› | exact .inl rfl | exact .inl ⟨rfl, rfl⟩ | exact .inl ⟨rfl, rfl, rfl⟩ | exact .inl ⟨rfl, rfl, rfl, rfl⟩ | exact .inl ⟨rfl, rfl, rfl, rfl, rfl⟩ | skip) | rfl | exact OtpLe.refl _ | split | (extract_lets; split) | (dsimp +zetaDelta only; split)

theorem countAtCutoff_keeps (f : FrameNo) (s : State) (n : Nat) (p_out : m .out = true) (p_events : m .events = true) (p_pba : m .pba = true) (p_hostMem : m .hostMem = true) (p_cal : m .cal = true) (hs : Keeps m r s) : Keeps m r (countAtCutoff f s n) := by
  unfold countAtCutoff
  repeat' first | intro _ | (with_reducible first | assumption | apply State.updCal_keeps | apply becomeStale_keeps | apply ite_keeps | apply foldl_keeps) | (with_reducible apply State.keeps_mk <;> first | exact .inr ‹_› | exact .inl rfl | exact .inl ⟨rfl, rfl⟩ | exact .inl ⟨rfl, rfl, rfl⟩ | exact .inl ⟨rfl, rfl, rfl, rfl⟩ | exact .inl ⟨rfl, rfl, rfl, rfl, rfl⟩ | skip) | rfl | exact OtpLe.refl _ | split | (extract_lets; split) | (dsimp +zetaDelta only; split)

theorem periodicAtCutoff_keeps (f : FrameNo) (s : State) (n : Nat) (p_free : m .free = true) (p_out : m .out = true) (p_slots : m .slots = true) (p_records : m .records = true) (p_events : m .events = true) (p_pba : m .pba = true) (p_hostMem : m .hostMem = true) (p_axis : m .axis = true) (p_cal : m .cal = true) (p_mem : m .mem = true) (hs : Keeps m r s) : Keeps m r (periodicAtCutoff f s n) := by
  unfold periodicAtCutoff
  repeat' first | intro _ | (with_reducible first | assumption | apply calTrigger_keeps | apply ite_keeps | apply foldl_keeps) | (with_reducible apply State.keeps_mk <;> first | exact .inr ‹_› | exact .inl rfl | exact .inl ⟨rfl, rfl⟩ | exact .inl ⟨rfl, rfl, rfl⟩ | exact .inl ⟨rfl, rfl, rfl, rfl⟩ | exact .inl ⟨rfl, rfl, rfl, rfl, rfl⟩ | skip) | rfl | exact OtpLe.refl _ | split | (extract_lets; split) | (dsimp +zetaDelta only; split)

theorem ladderAtCutoff_keeps (f : FrameNo) (s : State) (p_frames : m .frames = true) (p_cal : m .cal = true) (hs : Keeps m r s) : Keeps m r (ladderAtCutoff f s) := by
  unfold ladderAtCutoff
  repeat' first | intro _ | (with_reducible first | assumption | apply State.updFrame_keeps | apply State.setCal_keeps | apply ite_keeps | apply foldl_keeps) | (with_reducible apply State.keeps_mk <;> first | exact .inr ‹_› | exact .inl rfl | exact .inl ⟨rfl, rfl⟩ | exact .inl ⟨rfl, rfl, rfl⟩ | exact .inl ⟨rfl, rfl, rfl, rfl⟩ | exact .inl ⟨rfl, rfl, rfl, rfl, rfl⟩ | skip) | rfl | exact OtpLe.refl _ | split | (extract_lets; split) | (dsimp +zetaDelta only; split)

theorem calCutoff_keeps (f : FrameNo) (s : State) (p_free : m .free = true) (p_out : m .out = true) (p_slots : m .slots = true) (p_records : m .records = true) (p_events : m .events = true) (p_pba : m .pba = true) (p_hostMem : m .hostMem = true) (p_web : m .web = true) (p_axis : m .axis = true) (p_frames : m .frames = true) (p_prn : m .prn = true) (p_tan : m .tan = true) (p_cal : m .cal = true) (p_scan : m .scan = true) (p_mem : m .mem = true) (hs : Keeps m r s) : Keeps m r (calCutoff f s) := by
  unfold calCutoff
  repeat' first | intro _ | (with_reducible first | assumption | apply State.updFrame_keeps | apply patternFrame_keeps | apply tryCommit_keeps | apply tryClears_keeps | apply tryMirrors_keeps | apply heldEvents_keeps | apply clearAtCutoff_keeps | apply countAtCutoff_keeps | apply periodicAtCutoff_keeps | apply ladderAtCutoff_keeps | apply ite_keeps | apply foldl_keeps) | (with_reducible apply State.keeps_mk <;> first | exact .inr ‹_› | exact .inl rfl | exact .inl ⟨rfl, rfl⟩ | exact .inl ⟨rfl, rfl, rfl⟩ | exact .inl ⟨rfl, rfl, rfl, rfl⟩ | exact .inl ⟨rfl, rfl, rfl, rfl, rfl⟩ | skip) | rfl | exact OtpLe.refl _ | split | (extract_lets; split) | (dsimp +zetaDelta only; split)

end Sys2Proof.Machine
end

