-- ==== Sys2Proof/Laws/KeepsCalCmd.lean ====
section
/-! SUPPORT. `Keeps` for the definitions of Machine/CalCmd.lean, one lemma for each. -/

set_option linter.all false
set_option Elab.async false
set_option maxRecDepth 4000
namespace Sys2Proof.Machine

variable {m : Part → Bool} {r : State}

theorem execCalTargets_keeps (slot : Nat) (s : State) (p_slots : m .slots = true) (p_records : m .records = true) (p_cal : m .cal = true) (hs : Keeps m r s) : OutKeeps m r (execCalTargets slot s) := by
  unfold execCalTargets
  repeat' first | intro _ | (with_reducible first | assumption | apply OutKeeps.next | apply OutKeeps.fault | apply ite_outKeeps | apply done_keeps | apply badImage_keeps | apply resourceBusy_keeps | apply runCmd_keeps | apply State.updCal_keeps | apply ite_keeps | apply foldl_keeps) | split | (extract_lets; split) | (with_reducible apply State.keeps_mk <;> first | exact .inr ‹_› | exact .inl rfl | exact .inl ⟨rfl, rfl⟩ | exact .inl ⟨rfl, rfl, rfl⟩ | exact .inl ⟨rfl, rfl, rfl, rfl⟩ | exact .inl ⟨rfl, rfl, rfl, rfl, rfl⟩ | skip) | rfl | exact OtpLe.refl _ | split | (extract_lets; split) | (dsimp +zetaDelta only; split)

theorem requestRun_keeps (n k id : Nat) (s t : State) (p_free : m .free = true) (p_out : m .out = true) (p_slots : m .slots = true) (p_records : m .records = true) (p_events : m .events = true) (p_pba : m .pba = true) (p_hostMem : m .hostMem = true) (p_axis : m .axis = true) (p_cal : m .cal = true) (p_mem : m .mem = true) (hs : Keeps m r s) (ht : Keeps m r t) :
    Keeps m r ((requestRun n k id s).getD t) := by
  unfold requestRun
  extract_lets
  split
  · apply State.setCal_keeps <;> assumption
  · split
    · apply State.setCal_keeps <;> assumption
    · split
      · apply startRun_keeps <;> assumption
      · exact ht

theorem execCalRun_keeps (slot : Nat) (s : State) (p_free : m .free = true) (p_out : m .out = true) (p_slots : m .slots = true) (p_records : m .records = true) (p_events : m .events = true) (p_pba : m .pba = true) (p_hostMem : m .hostMem = true) (p_web : m .web = true) (p_axis : m .axis = true) (p_frames : m .frames = true) (p_prn : m .prn = true) (p_tan : m .tan = true) (p_cal : m .cal = true) (p_scan : m .scan = true) (p_mem : m .mem = true) (hs : Keeps m r s) : OutKeeps m r (execCalRun slot s) := by
  unfold execCalRun
  repeat' first | intro _ | (with_reducible first | assumption | apply OutKeeps.next | apply OutKeeps.fault | apply ite_outKeeps | apply wrongState_keeps | apply runCmd_keeps | apply State.withCal_keeps | apply tryClears_keeps | apply requestRun_keeps | apply ite_keeps | apply foldl_keeps) | (with_reducible apply State.keeps_mk <;> first | exact .inr ‹_› | exact .inl rfl | exact .inl ⟨rfl, rfl⟩ | exact .inl ⟨rfl, rfl, rfl⟩ | exact .inl ⟨rfl, rfl, rfl, rfl⟩ | exact .inl ⟨rfl, rfl, rfl, rfl, rfl⟩ | skip) | rfl | exact OtpLe.refl _ | split | (extract_lets; split) | (dsimp +zetaDelta only; split)

theorem takeResources_keeps (n : Nat) (s : State) (p_time : m .time = true) (p_cal : m .cal = true) (p_cam : m .cam = true) (hs : Keeps m r s) : Keeps m r (takeResources n s) := by
  unfold takeResources
  repeat' first | intro _ | (with_reducible first | assumption | apply State.setTrig_keeps | apply State.updCal_keeps | apply State.setCtx_keeps | apply ite_keeps | apply foldl_keeps) | (with_reducible apply State.keeps_mk <;> first | exact .inr ‹_› | exact .inl rfl | exact .inl ⟨rfl, rfl⟩ | exact .inl ⟨rfl, rfl, rfl⟩ | exact .inl ⟨rfl, rfl, rfl, rfl⟩ | exact .inl ⟨rfl, rfl, rfl, rfl, rfl⟩ | skip) | rfl | exact OtpLe.refl _ | split | (extract_lets; split) | (dsimp +zetaDelta only; split)

theorem returnTrig_keeps (u : Nat) (s : State) (p_time : m .time = true) (hs : Keeps m r s) : Keeps m r (returnTrig u s) := by
  unfold returnTrig
  repeat' first | intro _ | (with_reducible first | assumption | apply State.setTrig_keeps | apply ite_keeps | apply foldl_keeps) | split | (extract_lets; split) | (with_reducible apply State.keeps_mk <;> first | exact .inr ‹_› | exact .inl rfl | exact .inl ⟨rfl, rfl⟩ | exact .inl ⟨rfl, rfl, rfl⟩ | exact .inl ⟨rfl, rfl, rfl, rfl⟩ | exact .inl ⟨rfl, rfl, rfl, rfl, rfl⟩ | skip) | rfl | exact OtpLe.refl _ | split | (extract_lets; split) | (dsimp +zetaDelta only; split)

theorem releaseResources_keeps (n : Nat) (s : State) (p_time : m .time = true) (p_prn : m .prn = true) (p_cal : m .cal = true) (p_cam : m .cam = true) (hs : Keeps m r s) : Keeps m r (releaseResources n s) := by
  unfold releaseResources
  repeat' first | intro _ | (with_reducible first | assumption | apply State.updCal_keeps | apply State.setCtx_keeps | apply returnTrig_keeps | apply ite_keeps | apply foldl_keeps) | (with_reducible apply State.keeps_mk <;> first | exact .inr ‹_› | exact .inl rfl | exact .inl ⟨rfl, rfl⟩ | exact .inl ⟨rfl, rfl, rfl⟩ | exact .inl ⟨rfl, rfl, rfl, rfl⟩ | exact .inl ⟨rfl, rfl, rfl, rfl, rfl⟩ | skip) | rfl | exact OtpLe.refl _ | split | (extract_lets; split) | (dsimp +zetaDelta only; split)

theorem disableRun_keeps (n : Nat) (s : State) (p_free : m .free = true) (p_out : m .out = true) (p_slots : m .slots = true) (p_records : m .records = true) (p_events : m .events = true) (p_pba : m .pba = true) (p_hostMem : m .hostMem = true) (p_axis : m .axis = true) (p_cal : m .cal = true) (p_mem : m .mem = true) (hs : Keeps m r s) : Keeps m r (disableRun n s) := by
  unfold disableRun
  repeat' first | intro _ | (with_reducible first | assumption | apply abortRun_keeps | apply endDdr_keeps | apply ite_keeps | apply foldl_keeps) | (with_reducible apply State.keeps_mk <;> first | exact .inr ‹_› | exact .inl rfl | exact .inl ⟨rfl, rfl⟩ | exact .inl ⟨rfl, rfl, rfl⟩ | exact .inl ⟨rfl, rfl, rfl, rfl⟩ | exact .inl ⟨rfl, rfl, rfl, rfl, rfl⟩ | skip) | rfl | exact OtpLe.refl _ | split | (extract_lets; split) | (dsimp +zetaDelta only; split)

theorem disableCal_keeps (n : Nat) (s : State) (p_free : m .free = true) (p_out : m .out = true) (p_slots : m .slots = true) (p_records : m .records = true) (p_events : m .events = true) (p_pba : m .pba = true) (p_hostMem : m .hostMem = true) (p_time : m .time = true) (p_axis : m .axis = true) (p_prn : m .prn = true) (p_cal : m .cal = true) (p_cam : m .cam = true) (p_mem : m .mem = true) (hs : Keeps m r s) : Keeps m r (disableCal n s) := by
  unfold disableCal
  repeat' first | intro _ | (with_reducible first | assumption | apply endStale_keeps | apply dropPending_keeps | apply releaseResources_keeps | apply disableRun_keeps | apply ite_keeps | apply foldl_keeps) | (with_reducible apply State.keeps_mk <;> first | exact .inr ‹_› | exact .inl rfl | exact .inl ⟨rfl, rfl⟩ | exact .inl ⟨rfl, rfl, rfl⟩ | exact .inl ⟨rfl, rfl, rfl, rfl⟩ | exact .inl ⟨rfl, rfl, rfl, rfl, rfl⟩ | skip) | rfl | exact OtpLe.refl _ | split | (extract_lets; split) | (dsimp +zetaDelta only; split)

theorem setPolicy_keeps (n : Nat) (p : CalPolicy) (s : State) (p_free : m .free = true) (p_out : m .out = true) (p_slots : m .slots = true) (p_records : m .records = true) (p_events : m .events = true) (p_pba : m .pba = true) (p_hostMem : m .hostMem = true) (p_time : m .time = true) (p_axis : m .axis = true) (p_prn : m .prn = true) (p_cal : m .cal = true) (p_cam : m .cam = true) (p_mem : m .mem = true) (hs : Keeps m r s) : Keeps m r (setPolicy n p s) := by
  unfold setPolicy
  repeat' first | intro _ | (with_reducible first | assumption | apply State.updCal_keeps | apply takeResources_keeps | apply disableCal_keeps | apply ite_keeps | apply foldl_keeps) | (with_reducible apply State.keeps_mk <;> first | exact .inr ‹_› | exact .inl rfl | exact .inl ⟨rfl, rfl⟩ | exact .inl ⟨rfl, rfl, rfl⟩ | exact .inl ⟨rfl, rfl, rfl, rfl⟩ | exact .inl ⟨rfl, rfl, rfl, rfl, rfl⟩ | skip) | rfl | exact OtpLe.refl _ | split | (extract_lets; split) | (dsimp +zetaDelta only; split)

theorem execCalPolicy_keeps (slot : Nat) (s : State) (p_free : m .free = true) (p_out : m .out = true) (p_slots : m .slots = true) (p_records : m .records = true) (p_events : m .events = true) (p_pba : m .pba = true) (p_hostMem : m .hostMem = true) (p_time : m .time = true) (p_axis : m .axis = true) (p_prn : m .prn = true) (p_cal : m .cal = true) (p_cam : m .cam = true) (p_mem : m .mem = true) (hs : Keeps m r s) : OutKeeps m r (execCalPolicy slot s) := by
  unfold execCalPolicy
  repeat' first | intro _ | (with_reducible first | assumption | apply OutKeeps.next | apply OutKeeps.fault | apply ite_outKeeps | apply done_keeps | apply wrongState_keeps | apply resourceBusy_keeps | apply runCmd_keeps | apply setPolicy_keeps | apply ite_keeps | apply foldl_keeps) | split | (extract_lets; split) | (with_reducible apply State.keeps_mk <;> first | exact .inr ‹_› | exact .inl rfl | exact .inl ⟨rfl, rfl⟩ | exact .inl ⟨rfl, rfl, rfl⟩ | exact .inl ⟨rfl, rfl, rfl, rfl⟩ | exact .inl ⟨rfl, rfl, rfl, rfl, rfl⟩ | skip) | rfl | exact OtpLe.refl _ | split | (extract_lets; split) | (dsimp +zetaDelta only; split)

theorem execCalQuery_keeps (slot : Nat) (s : State) (p_slots : m .slots = true) (p_records : m .records = true) (hs : Keeps m r s) : OutKeeps m r (execCalQuery slot s) := by
  unfold execCalQuery
  repeat' first | intro _ | (with_reducible first | assumption | apply OutKeeps.next | apply OutKeeps.fault | apply ite_outKeeps | apply complete_keeps | apply runCmd_keeps | apply ite_keeps | apply foldl_keeps) | (with_reducible apply State.keeps_mk <;> first | exact .inr ‹_› | exact .inl rfl | exact .inl ⟨rfl, rfl⟩ | exact .inl ⟨rfl, rfl, rfl⟩ | exact .inl ⟨rfl, rfl, rfl, rfl⟩ | exact .inl ⟨rfl, rfl, rfl, rfl, rfl⟩ | skip) | rfl | exact OtpLe.refl _ | split | (extract_lets; split) | (dsimp +zetaDelta only; split)

end Sys2Proof.Machine
end

