-- ==== Sys2Proof/Laws/KeepsHostCmd.lean ====
section
/-! SUPPORT. `Keeps` for the definitions of Machine/HostCmd.lean, one lemma for each. -/

set_option linter.all false
set_option Elab.async false
set_option maxRecDepth 4000
namespace Sys2Proof.Machine

variable {m : Part → Bool} {r : State}

theorem execSysNop_keeps (slot : Nat) (s : State) (p_slots : m .slots = true) (p_records : m .records = true) (hs : Keeps m r s) : OutKeeps m r (execSysNop slot s) := by
  unfold execSysNop
  repeat' first | intro _ | (with_reducible first | assumption | apply OutKeeps.next | apply OutKeeps.fault | apply ite_outKeeps | apply doneWith_keeps | apply runCmd_keeps | apply ite_keeps | apply foldl_keeps) | (with_reducible apply State.keeps_mk <;> first | exact .inr ‹_› | exact .inl rfl | exact .inl ⟨rfl, rfl⟩ | exact .inl ⟨rfl, rfl, rfl⟩ | exact .inl ⟨rfl, rfl, rfl, rfl⟩ | exact .inl ⟨rfl, rfl, rfl, rfl, rfl⟩ | skip) | rfl | exact OtpLe.refl _ | split | (extract_lets; split) | (dsimp +zetaDelta only; split)

theorem execSysQuery_keeps (slot : Nat) (s : State) (p_slots : m .slots = true) (p_records : m .records = true) (hs : Keeps m r s) : OutKeeps m r (execSysQuery slot s) := by
  unfold execSysQuery
  repeat' first | intro _ | (with_reducible first | assumption | apply OutKeeps.next | apply OutKeeps.fault | apply ite_outKeeps | apply doneWith_keeps | apply runCmd_keeps | apply ite_keeps | apply foldl_keeps) | (with_reducible apply State.keeps_mk <;> first | exact .inr ‹_› | exact .inl rfl | exact .inl ⟨rfl, rfl⟩ | exact .inl ⟨rfl, rfl, rfl⟩ | exact .inl ⟨rfl, rfl, rfl, rfl⟩ | exact .inl ⟨rfl, rfl, rfl, rfl, rfl⟩ | skip) | rfl | exact OtpLe.refl _ | split | (extract_lets; split) | (dsimp +zetaDelta only; split)

theorem selectMode_keeps (m1 : Mode) (s : State) (p_free : m .free = true) (p_out : m .out = true) (p_dev : m .dev = true) (p_mode : m .mode = true) (p_events : m .events = true) (p_area : m .area = true) (p_pba : m .pba = true) (p_hostMem : m .hostMem = true) (hs : Keeps m r s)
    (hp : m1 = .print → s.fuse.part.print = true) (hl : m1 = .lightfield → s.fuse.part.lightfield = true) :
    Keeps m r (selectMode m1 s) := by
  unfold selectMode
  apply setDev_keeps <;> with_reducible first | assumption | skip
  apply State.keeps_mode hs <;> first | exact .inr ‹_› | exact .inl rfl | exact .inl ⟨rfl, rfl⟩ | exact .inl ⟨rfl, rfl, rfl⟩ | exact .inl ⟨rfl, rfl, rfl, rfl⟩ | exact .inl ⟨rfl, rfl, rfl, rfl, rfl⟩ | exact hp | exact hl

theorem firstFailure_fused (c : Checks) (d : Slot) (s : State) (h : firstFailure c d s = none) : c.fused d s = none := by
  unfold firstFailure at h
  split at h
  · cases h
  · split at h
    · cases h
    · assumption

theorem firstOf_cons_none (a : PF) (l : List PF) (h : firstOf (a :: l) = none) : a = none ∧ firstOf l = none := by
  cases a with
  | none => exact ⟨rfl, h⟩
  | some x => cases h

theorem firstFailure_params (c : Checks) (d : Slot) (s : State) (h : firstFailure c d s = none) :
    c.selector d s = none ∧ lowest (headerFaults d ++ c.params d s) = none := by
  unfold firstFailure at h
  repeat' first | (split at h) | (cases h; done)
  rename_i e
  exact ⟨(firstOf_cons_none _ _ e).1, (firstOf_cons_none _ _ (firstOf_cons_none _ _ e).2).1⟩

theorem execSysSetMode_keeps (slot : Nat) (s : State) (p_free : m .free = true) (p_out : m .out = true) (p_dev : m .dev = true) (p_mode : m .mode = true) (p_slots : m .slots = true) (p_records : m .records = true) (p_events : m .events = true) (p_area : m .area = true) (p_pba : m .pba = true) (p_hostMem : m .hostMem = true) (hs : Keeps m r s) :
    OutKeeps m r (execSysSetMode slot s) := by
  unfold execSysSetMode runCmd
  split
  · extract_lets d s1
    have h1 : Keeps m r s1 := by apply State.setSlot_keeps <;> assumption
    have hf : s1.fuse = s.fuse := rfl
    clear_value s1
    split
    · exact OutKeeps.next (by apply complete_keeps <;> assumption)
    · rename_i h
      have hsel := (firstFailure_params _ _ _ h).1
      have h := firstFailure_fused _ _ _ h
      simp only [setModeChecks, inR, need] at h hsel
      split
      · exact OutKeeps.next (by apply complete_keeps <;> assumption)
      · refine OutKeeps.next ?_
        split
        · apply resourceBusy_keeps <;> assumption
        · apply done_keeps <;> with_reducible first | assumption | skip
          apply selectMode_keeps <;> with_reducible first | assumption | skip
          all_goals rw [hf] <;> intro e <;> split at e <;> simp_all <;> grind
  · exact OutKeeps.next hs

theorem State.setPull_keeps (s : State) (k : Nat) (p : Pull) (p_pulls : m .pulls = true) (hs : Keeps m r s) : Keeps m r (State.setPull s k p) := by
  unfold State.setPull
  repeat' first | intro _ | (with_reducible first | assumption | apply ite_keeps | apply foldl_keeps) | (with_reducible apply State.keeps_mk <;> first | exact .inr ‹_› | exact .inl rfl | exact .inl ⟨rfl, rfl⟩ | exact .inl ⟨rfl, rfl, rfl⟩ | exact .inl ⟨rfl, rfl, rfl, rfl⟩ | exact .inl ⟨rfl, rfl, rfl, rfl, rfl⟩ | skip) | rfl | exact OtpLe.refl _ | split | (extract_lets; split) | (dsimp +zetaDelta only; split)

theorem askPull_keeps (k : Nat) (s : State) (p_out : m .out = true) (p_pulls : m .pulls = true) (hs : Keeps m r s) : Keeps m r (askPull k s) := by
  unfold askPull
  repeat' first | intro _ | (with_reducible first | assumption | apply State.emit_keeps | apply State.setPull_keeps | apply ite_keeps | apply foldl_keeps) | (with_reducible apply State.keeps_mk <;> first | exact .inr ‹_› | exact .inl rfl | exact .inl ⟨rfl, rfl⟩ | exact .inl ⟨rfl, rfl, rfl⟩ | exact .inl ⟨rfl, rfl, rfl, rfl⟩ | exact .inl ⟨rfl, rfl, rfl, rfl, rfl⟩ | skip) | rfl | exact OtpLe.refl _ | split | (extract_lets; split) | (dsimp +zetaDelta only; split)

theorem endPull_keeps (k : Nat) (s : State) (p_pulls : m .pulls = true) (p_mem : m .mem = true) (hs : Keeps m r s) : Keeps m r (endPull k s) := by
  unfold endPull
  repeat' first | intro _ | (with_reducible first | assumption | apply releaseRate_keeps | apply State.setPull_keeps | apply ite_keeps | apply foldl_keeps) | (with_reducible apply State.keeps_mk <;> first | exact .inr ‹_› | exact .inl rfl | exact .inl ⟨rfl, rfl⟩ | exact .inl ⟨rfl, rfl, rfl⟩ | exact .inl ⟨rfl, rfl, rfl, rfl⟩ | exact .inl ⟨rfl, rfl, rfl, rfl, rfl⟩ | skip) | rfl | exact OtpLe.refl _ | split | (extract_lets; split) | (dsimp +zetaDelta only; split)

theorem abortPulls_keeps (h : Nat) (but : Nat) (op : Nat) (s : State) (p_slots : m .slots = true) (p_records : m .records = true) (p_pulls : m .pulls = true) (p_mem : m .mem = true) (hs : Keeps m r s) : Keeps m r (abortPulls h but op s) := by
  unfold abortPulls
  repeat' first | intro _ | (with_reducible first | assumption | apply complete_keeps | apply endPull_keeps | apply ite_keeps | apply foldl_keeps) | (with_reducible apply State.keeps_mk <;> first | exact .inr ‹_› | exact .inl rfl | exact .inl ⟨rfl, rfl⟩ | exact .inl ⟨rfl, rfl, rfl⟩ | exact .inl ⟨rfl, rfl, rfl, rfl⟩ | exact .inl ⟨rfl, rfl, rfl, rfl, rfl⟩ | skip) | rfl | exact OtpLe.refl _ | split | (extract_lets; split) | (dsimp +zetaDelta only; split)

theorem execSysPull_keeps (slot : Nat) (s : State) (p_out : m .out = true) (p_slots : m .slots = true) (p_records : m .records = true) (p_pulls : m .pulls = true) (p_mem : m .mem = true) (hs : Keeps m r s) : OutKeeps m r (execSysPull slot s) := by
  unfold execSysPull
  repeat' first | intro _ | (with_reducible first | assumption | apply OutKeeps.next | apply OutKeeps.fault | apply ite_outKeeps | apply runCmd_keeps | apply holdRate_keeps | apply noBandwidth_keeps | apply State.setPull_keeps | apply askPull_keeps | apply ite_keeps | apply foldl_keeps) | (with_reducible apply State.keeps_mk <;> first | exact .inr ‹_› | exact .inl rfl | exact .inl ⟨rfl, rfl⟩ | exact .inl ⟨rfl, rfl, rfl⟩ | exact .inl ⟨rfl, rfl, rfl, rfl⟩ | exact .inl ⟨rfl, rfl, rfl, rfl, rfl⟩ | skip) | rfl | exact OtpLe.refl _ | split | (extract_lets; split) | (dsimp +zetaDelta only; split)

theorem finishPull_keeps (k : Nat) (s : State) (p_slots : m .slots = true) (p_records : m .records = true) (p_bufs : m .bufs = true) (p_pulls : m .pulls = true) (p_mem : m .mem = true) (hs : Keeps m r s) : Keeps m r (finishPull k s) := by
  unfold finishPull
  repeat' first | intro _ | (with_reducible first | assumption | apply done_keeps | apply doneWith_keeps | apply readyBuf_keeps | apply endPull_keeps | apply abortPulls_keeps | apply ite_keeps | apply foldl_keeps) | (with_reducible apply State.keeps_mk <;> first | exact .inr ‹_› | exact .inl rfl | exact .inl ⟨rfl, rfl⟩ | exact .inl ⟨rfl, rfl, rfl⟩ | exact .inl ⟨rfl, rfl, rfl, rfl⟩ | exact .inl ⟨rfl, rfl, rfl, rfl, rfl⟩ | skip) | rfl | exact OtpLe.refl _ | split | (extract_lets; split) | (dsimp +zetaDelta only; split)

theorem noteReadError_keeps (status : Nat) (s : State) (p_aer : m .aer = true) (hs : Keeps m r s) : Keeps m r (noteReadError status s) := by
  unfold noteReadError
  repeat' first | intro _ | (with_reducible first | assumption | apply ite_keeps | apply foldl_keeps) | (with_reducible apply State.keeps_mk <;> first | exact .inr ‹_› | exact .inl rfl | exact .inl ⟨rfl, rfl⟩ | exact .inl ⟨rfl, rfl, rfl⟩ | exact .inl ⟨rfl, rfl, rfl, rfl⟩ | exact .inl ⟨rfl, rfl, rfl, rfl, rfl⟩ | skip) | rfl | exact OtpLe.refl _ | split | (extract_lets; split) | (dsimp +zetaDelta only; split)

theorem execHostReadCompletion_keeps (slot : Nat) (status : Nat) (bytes : List Byte) (s : State) (p_out : m .out = true) (p_slots : m .slots = true) (p_records : m .records = true) (p_bufs : m .bufs = true) (p_pulls : m .pulls = true) (p_aer : m .aer = true) (p_dram : m .dram = true) (p_poison : m .poison = true) (p_mem : m .mem = true) (hs : Keeps m r s) : OutKeeps m r (execHostReadCompletion slot status bytes s) := by
  unfold execHostReadCompletion
  repeat' first | intro _ | (with_reducible first | assumption | apply OutKeeps.next | apply OutKeeps.fault | apply ite_outKeeps | apply complete_keeps | apply dramStore_keeps | apply State.setPull_keeps | apply askPull_keeps | apply endPull_keeps | apply finishPull_keeps | apply noteReadError_keeps | apply ite_keeps | apply foldl_keeps) | (with_reducible apply State.keeps_mk <;> first | exact .inr ‹_› | exact .inl rfl | exact .inl ⟨rfl, rfl⟩ | exact .inl ⟨rfl, rfl, rfl⟩ | exact .inl ⟨rfl, rfl, rfl, rfl⟩ | exact .inl ⟨rfl, rfl, rfl, rfl, rfl⟩ | skip) | rfl | exact OtpLe.refl _ | split | (extract_lets; split) | (dsimp +zetaDelta only; split)

theorem execSysHalter_keeps (slot : Nat) (s : State) (p_out : m .out = true) (p_dev : m .dev = true) (p_slots : m .slots = true) (p_records : m .records = true) (p_events : m .events = true) (p_pba : m .pba = true) (p_hostMem : m .hostMem = true) (p_time : m .time = true) (p_axis : m .axis = true) (p_frames : m .frames = true) (p_fire : m .fire = true) (p_rein : m .rein = true) (p_tan : m .tan = true) (p_cam : m .cam = true) (hs : Keeps m r s) : OutKeeps m r (execSysHalter slot s) := by
  unfold execSysHalter
  repeat' first | intro _ | (with_reducible first | assumption | apply OutKeeps.next | apply OutKeeps.fault | apply ite_outKeeps | apply done_keeps | apply runCmd_keeps | apply haltOutputs_keeps | apply enterHalter_keeps | apply ite_keeps | apply foldl_keeps) | (with_reducible apply State.keeps_mk <;> first | exact .inr ‹_› | exact .inl rfl | exact .inl ⟨rfl, rfl⟩ | exact .inl ⟨rfl, rfl, rfl⟩ | exact .inl ⟨rfl, rfl, rfl, rfl⟩ | exact .inl ⟨rfl, rfl, rfl, rfl, rfl⟩ | skip) | rfl | exact OtpLe.refl _ | split | (extract_lets; split) | (dsimp +zetaDelta only; split)

theorem resumeOutputs_keeps (s : State) (p_out : m .out = true) (p_frames : m .frames = true) (p_fire : m .fire = true) (p_rein : m .rein = true) (p_scan : m .scan = true) (hs : Keeps m r s) : Keeps m r (resumeOutputs s) := by
  unfold resumeOutputs
  repeat' first | intro _ | (with_reducible first | assumption | apply rollback_keeps | apply State.setFireBar_keeps | apply runNodes_keeps | apply State.withScan_keeps | apply ite_keeps | apply foldl_keeps) | (with_reducible apply State.keeps_mk <;> first | exact .inr ‹_› | exact .inl rfl | exact .inl ⟨rfl, rfl⟩ | exact .inl ⟨rfl, rfl, rfl⟩ | exact .inl ⟨rfl, rfl, rfl, rfl⟩ | exact .inl ⟨rfl, rfl, rfl, rfl, rfl⟩ | skip) | rfl | exact OtpLe.refl _ | split | (extract_lets; split) | (dsimp +zetaDelta only; split)

theorem execSysResume_keeps (slot : Nat) (s : State) (p_out : m .out = true) (p_dev : m .dev = true) (p_slots : m .slots = true) (p_records : m .records = true) (p_events : m .events = true) (p_pba : m .pba = true) (p_hostMem : m .hostMem = true) (p_frames : m .frames = true) (p_fire : m .fire = true) (p_rein : m .rein = true) (p_scan : m .scan = true) (hs : Keeps m r s) : OutKeeps m r (execSysResume slot s) := by
  unfold execSysResume
  repeat' first | intro _ | (with_reducible first | assumption | apply OutKeeps.next | apply OutKeeps.fault | apply ite_outKeeps | apply setDev_keeps | apply done_keeps | apply runCmd_keeps | apply resumeOutputs_keeps | apply ite_keeps | apply foldl_keeps) | (with_reducible apply State.keeps_mk <;> first | exact .inr ‹_› | exact .inl rfl | exact .inl ⟨rfl, rfl⟩ | exact .inl ⟨rfl, rfl, rfl⟩ | exact .inl ⟨rfl, rfl, rfl, rfl⟩ | exact .inl ⟨rfl, rfl, rfl, rfl, rfl⟩ | skip) | rfl | exact OtpLe.refl _ | split | (extract_lets; split) | (dsimp +zetaDelta only; split)

theorem execSysBufDefine_keeps (slot : Nat) (s : State) (p_slots : m .slots = true) (p_records : m .records = true) (p_bufs : m .bufs = true) (p_pulls : m .pulls = true) (p_mem : m .mem = true) (hs : Keeps m r s) : OutKeeps m r (execSysBufDefine slot s) := by
  unfold execSysBufDefine
  repeat' first | intro _ | (with_reducible first | assumption | apply OutKeeps.next | apply OutKeeps.fault | apply ite_outKeeps | apply complete_keeps | apply done_keeps | apply doneWith_keeps | apply State.setBuf_keeps | apply runCmd_keeps | apply readyBuf_keeps | apply abortPulls_keeps | apply ite_keeps | apply foldl_keeps) | (with_reducible apply State.keeps_mk <;> first | exact .inr ‹_› | exact .inl rfl | exact .inl ⟨rfl, rfl⟩ | exact .inl ⟨rfl, rfl, rfl⟩ | exact .inl ⟨rfl, rfl, rfl, rfl⟩ | exact .inl ⟨rfl, rfl, rfl, rfl, rfl⟩ | skip) | rfl | exact OtpLe.refl _ | split | (extract_lets; split) | (dsimp +zetaDelta only; split)

theorem execSysBufFree_keeps (slot : Nat) (s : State) (p_slots : m .slots = true) (p_records : m .records = true) (p_bufs : m .bufs = true) (p_pulls : m .pulls = true) (p_mem : m .mem = true) (hs : Keeps m r s) : OutKeeps m r (execSysBufFree slot s) := by
  unfold execSysBufFree
  repeat' first | intro _ | (with_reducible first | assumption | apply OutKeeps.next | apply OutKeeps.fault | apply ite_outKeeps | apply complete_keeps | apply done_keeps | apply State.setBuf_keeps | apply runCmd_keeps | apply abortPulls_keeps | apply ite_keeps | apply foldl_keeps) | (with_reducible apply State.keeps_mk <;> first | exact .inr ‹_› | exact .inl rfl | exact .inl ⟨rfl, rfl⟩ | exact .inl ⟨rfl, rfl, rfl⟩ | exact .inl ⟨rfl, rfl, rfl, rfl⟩ | exact .inl ⟨rfl, rfl, rfl, rfl, rfl⟩ | skip) | rfl | exact OtpLe.refl _ | split | (extract_lets; split) | (dsimp +zetaDelta only; split)

theorem execSysEventMask_keeps (slot : Nat) (s : State) (p_free : m .free = true) (p_slots : m .slots = true) (p_records : m .records = true) (p_masked : m .masked = true) (hs : Keeps m r s) : OutKeeps m r (execSysEventMask slot s) := by
  unfold execSysEventMask
  repeat' first | intro _ | (with_reducible first | assumption | apply OutKeeps.next | apply OutKeeps.fault | apply ite_outKeeps | apply State.useFree_keeps | apply complete_keeps | apply done_keeps | apply runCmd_keeps | apply ite_keeps | apply foldl_keeps) | (with_reducible apply State.keeps_mk <;> first | exact .inr ‹_› | exact .inl rfl | exact .inl ⟨rfl, rfl⟩ | exact .inl ⟨rfl, rfl, rfl⟩ | exact .inl ⟨rfl, rfl, rfl, rfl⟩ | exact .inl ⟨rfl, rfl, rfl, rfl, rfl⟩ | skip) | rfl | exact OtpLe.refl _ | split | (extract_lets; split) | (dsimp +zetaDelta only; split)

theorem sendPending_keeps (s : State) (p_out : m .out = true) (p_pba : m .pba = true) (hs : Keeps m r s) : Keeps m r (sendPending s) := by
  unfold sendPending
  repeat' first | intro _ | (with_reducible first | assumption | apply State.emit_keeps | apply ite_keeps | apply foldl_keeps) | (with_reducible apply State.keeps_mk <;> first | exact .inr ‹_› | exact .inl rfl | exact .inl ⟨rfl, rfl⟩ | exact .inl ⟨rfl, rfl, rfl⟩ | exact .inl ⟨rfl, rfl, rfl, rfl⟩ | exact .inl ⟨rfl, rfl, rfl, rfl, rfl⟩ | skip) | rfl | exact OtpLe.refl _ | split | (extract_lets; split) | (dsimp +zetaDelta only; split)

theorem resumeRequests_keeps (s : State) (p_out : m .out = true) (p_pulls : m .pulls = true) (p_pba : m .pba = true) (hs : Keeps m r s) : Keeps m r (resumeRequests s) := by
  unfold resumeRequests
  repeat' first | intro _ | (with_reducible first | assumption | apply askPull_keeps | apply sendPending_keeps | apply ite_keeps | apply foldl_keeps) | (with_reducible apply State.keeps_mk <;> first | exact .inr ‹_› | exact .inl rfl | exact .inl ⟨rfl, rfl⟩ | exact .inl ⟨rfl, rfl, rfl⟩ | exact .inl ⟨rfl, rfl, rfl, rfl⟩ | exact .inl ⟨rfl, rfl, rfl, rfl, rfl⟩ | skip) | rfl | exact OtpLe.refl _ | split | (extract_lets; split) | (dsimp +zetaDelta only; split)

theorem execBusMasterEnableWrite_keeps (on : Bool) (s : State) (p_out : m .out = true) (p_pulls : m .pulls = true) (p_link : m .link = true) (p_pba : m .pba = true) (hs : Keeps m r s) : OutKeeps m r (execBusMasterEnableWrite on s) := by
  unfold execBusMasterEnableWrite
  repeat' first | intro _ | (with_reducible first | assumption | apply OutKeeps.next | apply OutKeeps.fault | apply ite_outKeeps | apply resumeRequests_keeps | apply ite_keeps | apply foldl_keeps) | (with_reducible apply State.keeps_mk <;> first | exact .inr ‹_› | exact .inl rfl | exact .inl ⟨rfl, rfl⟩ | exact .inl ⟨rfl, rfl, rfl⟩ | exact .inl ⟨rfl, rfl, rfl, rfl⟩ | exact .inl ⟨rfl, rfl, rfl, rfl, rfl⟩ | skip) | rfl | exact OtpLe.refl _ | split | (extract_lets; split) | (dsimp +zetaDelta only; split)

end Sys2Proof.Machine
end

