-- ==== Sys2Proof/Laws/KeepsLcs.lean ====
section
/-! SUPPORT. `Keeps` for the definitions of Machine/Lcs.lean, one lemma for each. -/

set_option linter.all false
set_option Elab.async false
set_option maxRecDepth 4000
namespace Sys2Proof.Machine

variable {m : Part → Bool} {r : State}

theorem loadRecord_keeps (s : State) (p_lcs : m .lcs = true) (hs : Keeps m r s) : Keeps m r (loadRecord s) := by
  unfold loadRecord
  repeat' first | intro _ | (with_reducible first | assumption | apply State.withLcs_keeps | apply ite_keeps | apply foldl_keeps) | split | (extract_lets; split) | exact .inl ‹_› | exact .inr (fun _ => ⟨rfl, rfl, rfl, rfl, rfl⟩) | exact ⟨fun h => h, fun h => h, fun h => h, List.prefix_rfl, Nat.le_refl _⟩ | (with_reducible apply State.keeps_mk <;> first | exact .inr ‹_› | exact .inl rfl | exact .inl ⟨rfl, rfl⟩ | exact .inl ⟨rfl, rfl, rfl⟩ | exact .inl ⟨rfl, rfl, rfl, rfl⟩ | exact .inl ⟨rfl, rfl, rfl, rfl, rfl⟩ | skip) | rfl | exact OtpLe.refl _ | split | (extract_lets; split) | (dsimp +zetaDelta only; split)

theorem locked_keeps (k : Nat) (detail : Nat) (result : Nat) (s : State) (p_slots : m .slots = true) (p_records : m .records = true) (hs : Keeps m r s) : Keeps m r (locked k detail result s) := by
  unfold locked
  repeat' first | intro _ | (with_reducible first | assumption | apply complete_keeps | apply ite_keeps | apply foldl_keeps) | (with_reducible apply State.keeps_mk <;> first | exact .inr ‹_› | exact .inl rfl | exact .inl ⟨rfl, rfl⟩ | exact .inl ⟨rfl, rfl, rfl⟩ | exact .inl ⟨rfl, rfl, rfl, rfl⟩ | exact .inl ⟨rfl, rfl, rfl, rfl, rfl⟩ | skip) | rfl | exact OtpLe.refl _ | split | (extract_lets; split) | (dsimp +zetaDelta only; split)

theorem execLcsTransition_keeps (slot : Nat) (s : State) (p_slots : m .slots = true) (p_records : m .records = true) (p_otp : m .otp = true) (p_lcs : m .lcs = true) (hs : Keeps m r s) :
    OutKeeps m r (execLcsTransition slot s) := by
  unfold execLcsTransition
  apply runCmd_keeps <;> with_reducible first | assumption | skip
  intro k d st h
  extract_lets t
  split
  · apply done_keeps <;> with_reducible first | assumption | skip
    refine State.withLcs_keeps _ _ ‹_› (.inl ‹_›) h fun x => ⟨?_, ?_, ?_, List.prefix_rfl, Nat.le_refl _⟩ <;> simp_all
  · apply locked_keeps <;> assumption

theorem challenge_keeps (s : State) (p_free : m .free = true) (p_lcs : m .lcs = true) (hs : Keeps m r s) : Keeps m r (challenge s) := by
  unfold challenge
  repeat' first | intro _ | (with_reducible first | assumption | apply State.withLcs_keeps | apply ite_keeps | apply foldl_keeps) | exact .inl ‹_› | exact .inr (fun _ => ⟨rfl, rfl, rfl, rfl, rfl⟩) | exact ⟨fun h => h, fun h => h, fun h => h, List.prefix_rfl, Nat.le_refl _⟩ | (with_reducible apply State.keeps_mk <;> first | exact .inr ‹_› | exact .inl rfl | exact .inl ⟨rfl, rfl⟩ | exact .inl ⟨rfl, rfl, rfl⟩ | exact .inl ⟨rfl, rfl, rfl, rfl⟩ | exact .inl ⟨rfl, rfl, rfl, rfl, rfl⟩ | skip) | rfl | exact OtpLe.refl _ | split | (extract_lets; split) | (dsimp +zetaDelta only; split)

theorem execLcsChallenge_keeps (slot : Nat) (s : State) (p_free : m .free = true) (p_slots : m .slots = true) (p_records : m .records = true) (p_lcs : m .lcs = true) (hs : Keeps m r s) : OutKeeps m r (execLcsChallenge slot s) := by
  unfold execLcsChallenge
  repeat' first | intro _ | (with_reducible first | assumption | apply OutKeeps.next | apply OutKeeps.fault | apply ite_outKeeps | apply doneWith_keeps | apply runCmd_keeps | apply locked_keeps | apply challenge_keeps | apply ite_keeps | apply foldl_keeps) | split | (extract_lets; split) | (with_reducible apply State.keeps_mk <;> first | exact .inr ‹_› | exact .inl rfl | exact .inl ⟨rfl, rfl⟩ | exact .inl ⟨rfl, rfl, rfl⟩ | exact .inl ⟨rfl, rfl, rfl, rfl⟩ | exact .inl ⟨rfl, rfl, rfl, rfl, rfl⟩ | skip) | rfl | exact OtpLe.refl _ | split | (extract_lets; split) | (dsimp +zetaDelta only; split)

theorem response_keeps (r1 : List Byte) (id : Nat) (s : State) (p_lcs : m .lcs = true) (hs : Keeps m r s) : Keeps m r (response r1 id s).2 := by
  unfold response
  repeat' first | intro _ | (with_reducible first | assumption | apply State.withLcs_keeps | apply ite_keeps | apply foldl_keeps) | split | (extract_lets; split) | exact .inl ‹_› | exact .inr (fun _ => ⟨rfl, rfl, rfl, rfl, rfl⟩) | exact ⟨fun h => h, fun h => h, fun h => h, List.prefix_rfl, Nat.le_refl _⟩ | (with_reducible apply State.keeps_mk <;> first | exact .inr ‹_› | exact .inl rfl | exact .inl ⟨rfl, rfl⟩ | exact .inl ⟨rfl, rfl, rfl⟩ | exact .inl ⟨rfl, rfl, rfl, rfl⟩ | exact .inl ⟨rfl, rfl, rfl, rfl, rfl⟩ | skip) | rfl | exact OtpLe.refl _ | split | (extract_lets; split) | (dsimp +zetaDelta only; split)

theorem execLcsResponse_keeps (slot : Nat) (s : State) (p_slots : m .slots = true) (p_records : m .records = true) (p_lcs : m .lcs = true) (hs : Keeps m r s) : OutKeeps m r (execLcsResponse slot s) := by
  unfold execLcsResponse
  repeat' first | intro _ | (with_reducible first | assumption | apply OutKeeps.next | apply OutKeeps.fault | apply ite_outKeeps | apply done_keeps | apply runCmd_keeps | apply locked_keeps | apply response_keeps | apply ite_keeps | apply foldl_keeps) | (with_reducible apply State.keeps_mk <;> first | exact .inr ‹_› | exact .inl rfl | exact .inl ⟨rfl, rfl⟩ | exact .inl ⟨rfl, rfl, rfl⟩ | exact .inl ⟨rfl, rfl, rfl, rfl⟩ | exact .inl ⟨rfl, rfl, rfl, rfl, rfl⟩ | skip) | rfl | exact OtpLe.refl _ | split | (extract_lets; split) | (dsimp +zetaDelta only; split)

theorem execNonceExpiry_keeps (s : State) (p_lcs : m .lcs = true) (hs : Keeps m r s) : OutKeeps m r (execNonceExpiry s) := by
  unfold execNonceExpiry
  repeat' first | intro _ | (with_reducible first | assumption | apply OutKeeps.next | apply OutKeeps.fault | apply ite_outKeeps | apply State.withLcs_keeps | apply ite_keeps | apply foldl_keeps) | exact .inl ‹_› | exact .inr (fun _ => ⟨rfl, rfl, rfl, rfl, rfl⟩) | exact ⟨fun h => h, fun h => h, fun h => h, List.prefix_rfl, Nat.le_refl _⟩ | (with_reducible apply State.keeps_mk <;> first | exact .inr ‹_› | exact .inl rfl | exact .inl ⟨rfl, rfl⟩ | exact .inl ⟨rfl, rfl, rfl⟩ | exact .inl ⟨rfl, rfl, rfl, rfl⟩ | exact .inl ⟨rfl, rfl, rfl, rfl, rfl⟩ | skip) | rfl | exact OtpLe.refl _ | split | (extract_lets; split) | (dsimp +zetaDelta only; split)

theorem burnRecord_keeps (k : Nat) (rec : List Byte) (s : State) (p_free : m .free = true) (p_slots : m .slots = true) (p_records : m .records = true) (p_otp : m .otp = true) (p_lcs : m .lcs = true) (hs : Keeps m r s) :
    Keeps m r (burnRecord k rec s) := by
  unfold burnRecord
  extract_lets ok s1
  have h1 : Keeps m r s1 := State.withLcs_keeps _ _ ‹_› (.inl ‹_›) (by apply State.useFree_keeps <;> assumption) fun x =>
    ⟨fun h => h, fun h => h, fun h => h, List.prefix_append _ _, Nat.le_refl _⟩
  split
  · apply doneWith_keeps <;> assumption
  · apply complete_keeps <;> assumption

theorem execLcsOtpWrite_keeps (slot : Nat) (s : State) (p_free : m .free = true) (p_slots : m .slots = true) (p_records : m .records = true) (p_otp : m .otp = true) (p_lcs : m .lcs = true) (hs : Keeps m r s) :
    OutKeeps m r (execLcsOtpWrite slot s) := by
  unfold execLcsOtpWrite
  apply runCmd_keeps <;> with_reducible first | assumption | skip
  intro k d st h
  split
  · extract_lets s1
    apply doneWith_keeps <;> with_reducible first | assumption | skip
    exact State.withLcs_keeps _ _ ‹_› (.inl ‹_›) h fun x => ⟨fun h => h, fun h => h, fun h => h, List.prefix_rfl, Nat.le_max_left _ _⟩
  · split
    · apply locked_keeps <;> assumption
    · extract_lets rec
      split
      · apply badImage_keeps <;> assumption
      · split
        · apply locked_keeps <;> assumption
        · apply burnRecord_keeps <;> assumption

theorem execPushApertureWrite_keeps (off : Nat) (v : Word) (s : State) (p_lcs : m .lcs = true) (hs : Keeps m r s) : OutKeeps m r (execPushApertureWrite off v s) := by
  unfold execPushApertureWrite
  repeat' first | intro _ | (with_reducible first | assumption | apply OutKeeps.next | apply OutKeeps.fault | apply ite_outKeeps | apply State.withLcs_keeps | apply ite_keeps | apply foldl_keeps) | exact .inl ‹_› | exact .inr (fun _ => ⟨rfl, rfl, rfl, rfl, rfl⟩) | exact ⟨fun h => h, fun h => h, fun h => h, List.prefix_rfl, Nat.le_refl _⟩ | (with_reducible apply State.keeps_mk <;> first | exact .inr ‹_› | exact .inl rfl | exact .inl ⟨rfl, rfl⟩ | exact .inl ⟨rfl, rfl, rfl⟩ | exact .inl ⟨rfl, rfl, rfl, rfl⟩ | exact .inl ⟨rfl, rfl, rfl, rfl, rfl⟩ | skip) | rfl | exact OtpLe.refl _ | split | (extract_lets; split) | (dsimp +zetaDelta only; split)

theorem pushChunk_keeps (v : Word) (last : Bool) (s : State) (p_lcs : m .lcs = true) (hs : Keeps m r s) : Keeps m r (pushChunk v last s) := by
  unfold pushChunk
  repeat' first | intro _ | (with_reducible first | assumption | apply State.withLcs_keeps | apply ite_keeps | apply foldl_keeps) | exact .inl ‹_› | exact .inr (fun _ => ⟨rfl, rfl, rfl, rfl, rfl⟩) | exact ⟨fun h => h, fun h => h, fun h => h, List.prefix_rfl, Nat.le_refl _⟩ | (with_reducible apply State.keeps_mk <;> first | exact .inr ‹_› | exact .inl rfl | exact .inl ⟨rfl, rfl⟩ | exact .inl ⟨rfl, rfl, rfl⟩ | exact .inl ⟨rfl, rfl, rfl, rfl⟩ | exact .inl ⟨rfl, rfl, rfl, rfl, rfl⟩ | skip) | rfl | exact OtpLe.refl _ | split | (extract_lets; split) | (dsimp +zetaDelta only; split)

theorem pushRecord_keeps (v : Word) (s : State) (p_lcs : m .lcs = true) (hs : Keeps m r s) : Keeps m r (pushRecord v s) := by
  unfold pushRecord
  repeat' first | intro _ | (with_reducible first | assumption | apply State.withLcs_keeps | apply ite_keeps | apply foldl_keeps) | exact .inl ‹_› | exact .inr (fun _ => ⟨rfl, rfl, rfl, rfl, rfl⟩) | exact ⟨fun h => h, fun h => h, fun h => h, List.prefix_rfl, Nat.le_refl _⟩ | (with_reducible apply State.keeps_mk <;> first | exact .inr ‹_› | exact .inl rfl | exact .inl ⟨rfl, rfl⟩ | exact .inl ⟨rfl, rfl, rfl⟩ | exact .inl ⟨rfl, rfl, rfl, rfl⟩ | exact .inl ⟨rfl, rfl, rfl, rfl, rfl⟩ | skip) | rfl | exact OtpLe.refl _ | split | (extract_lets; split) | (dsimp +zetaDelta only; split)

theorem pushCtrl_keeps (v : Word) (s : State) (p_lcs : m .lcs = true) (hs : Keeps m r s) : Keeps m r (pushCtrl v s) := by
  unfold pushCtrl
  repeat' first | intro _ | (with_reducible first | assumption | apply pushChunk_keeps | apply pushRecord_keeps | apply ite_keeps | apply foldl_keeps) | (with_reducible apply State.keeps_mk <;> first | exact .inr ‹_› | exact .inl rfl | exact .inl ⟨rfl, rfl⟩ | exact .inl ⟨rfl, rfl, rfl⟩ | exact .inl ⟨rfl, rfl, rfl, rfl⟩ | exact .inl ⟨rfl, rfl, rfl, rfl, rfl⟩ | skip) | rfl | exact OtpLe.refl _ | split | (extract_lets; split) | (dsimp +zetaDelta only; split)

theorem execPushChunk_keeps (v : Word) (s : State) (p_lcs : m .lcs = true) (hs : Keeps m r s) : OutKeeps m r (execPushChunk v s) := by
  unfold execPushChunk
  repeat' first | intro _ | (with_reducible first | assumption | apply OutKeeps.next | apply OutKeeps.fault | apply ite_outKeeps | apply pushCtrl_keeps | apply ite_keeps | apply foldl_keeps) | (with_reducible apply State.keeps_mk <;> first | exact .inr ‹_› | exact .inl rfl | exact .inl ⟨rfl, rfl⟩ | exact .inl ⟨rfl, rfl, rfl⟩ | exact .inl ⟨rfl, rfl, rfl, rfl⟩ | exact .inl ⟨rfl, rfl, rfl, rfl, rfl⟩ | skip) | rfl | exact OtpLe.refl _ | split | (extract_lets; split) | (dsimp +zetaDelta only; split)

theorem execPushFinalChunk_keeps (v : Word) (s : State) (p_lcs : m .lcs = true) (hs : Keeps m r s) : OutKeeps m r (execPushFinalChunk v s) := by
  unfold execPushFinalChunk
  repeat' first | intro _ | (with_reducible first | assumption | apply OutKeeps.next | apply OutKeeps.fault | apply ite_outKeeps | apply pushCtrl_keeps | apply ite_keeps | apply foldl_keeps) | (with_reducible apply State.keeps_mk <;> first | exact .inr ‹_› | exact .inl rfl | exact .inl ⟨rfl, rfl⟩ | exact .inl ⟨rfl, rfl, rfl⟩ | exact .inl ⟨rfl, rfl, rfl, rfl⟩ | exact .inl ⟨rfl, rfl, rfl, rfl, rfl⟩ | skip) | rfl | exact OtpLe.refl _ | split | (extract_lets; split) | (dsimp +zetaDelta only; split)

theorem execPushProvisionalRecord_keeps (v : Word) (s : State) (p_lcs : m .lcs = true) (hs : Keeps m r s) : OutKeeps m r (execPushProvisionalRecord v s) := by
  unfold execPushProvisionalRecord
  repeat' first | intro _ | (with_reducible first | assumption | apply OutKeeps.next | apply OutKeeps.fault | apply ite_outKeeps | apply pushCtrl_keeps | apply ite_keeps | apply foldl_keeps) | (with_reducible apply State.keeps_mk <;> first | exact .inr ‹_› | exact .inl rfl | exact .inl ⟨rfl, rfl⟩ | exact .inl ⟨rfl, rfl, rfl⟩ | exact .inl ⟨rfl, rfl, rfl, rfl⟩ | exact .inl ⟨rfl, rfl, rfl, rfl, rfl⟩ | skip) | rfl | exact OtpLe.refl _ | split | (extract_lets; split) | (dsimp +zetaDelta only; split)

theorem execJtagBoundaryScan_keeps (instr : Nat) (s : State) (p_out : m .out = true) (p_lcs : m .lcs = true) (hs : Keeps m r s) : OutKeeps m r (execJtagBoundaryScan instr s) := by
  unfold execJtagBoundaryScan
  repeat' first | intro _ | (with_reducible first | assumption | apply OutKeeps.next | apply OutKeeps.fault | apply ite_outKeeps | apply State.emit_keeps | apply State.withLcs_keeps | apply ite_keeps | apply foldl_keeps) | exact .inl ‹_› | exact .inr (fun _ => ⟨rfl, rfl, rfl, rfl, rfl⟩) | exact ⟨fun h => h, fun h => h, fun h => h, List.prefix_rfl, Nat.le_refl _⟩ | (with_reducible apply State.keeps_mk <;> first | exact .inr ‹_› | exact .inl rfl | exact .inl ⟨rfl, rfl⟩ | exact .inl ⟨rfl, rfl, rfl⟩ | exact .inl ⟨rfl, rfl, rfl, rfl⟩ | exact .inl ⟨rfl, rfl, rfl, rfl, rfl⟩ | skip) | rfl | exact OtpLe.refl _ | split | (extract_lets; split) | (dsimp +zetaDelta only; split)

theorem execJtagCoreDebug_keeps (s : State) (p_lcs : m .lcs = true) (hs : Keeps m r s) : OutKeeps m r (execJtagCoreDebug s) := by
  unfold execJtagCoreDebug
  repeat' first | intro _ | (with_reducible first | assumption | apply OutKeeps.next | apply OutKeeps.fault | apply ite_outKeeps | apply State.withLcs_keeps | apply ite_keeps | apply foldl_keeps) | exact .inl ‹_› | exact .inr (fun _ => ⟨rfl, rfl, rfl, rfl, rfl⟩) | exact ⟨fun h => h, fun h => h, fun h => h, List.prefix_rfl, Nat.le_refl _⟩ | (with_reducible apply State.keeps_mk <;> first | exact .inr ‹_› | exact .inl rfl | exact .inl ⟨rfl, rfl⟩ | exact .inl ⟨rfl, rfl, rfl⟩ | exact .inl ⟨rfl, rfl, rfl, rfl⟩ | exact .inl ⟨rfl, rfl, rfl, rfl, rfl⟩ | skip) | rfl | exact OtpLe.refl _ | split | (extract_lets; split) | (dsimp +zetaDelta only; split)

theorem execJtagLcsMailbox_keeps (resp : Option (List Byte)) (s : State) (p_free : m .free = true) (p_out : m .out = true) (p_lcs : m .lcs = true) (hs : Keeps m r s) : OutKeeps m r (execJtagLcsMailbox resp s) := by
  unfold execJtagLcsMailbox
  repeat' first | intro _ | (with_reducible first | assumption | apply OutKeeps.next | apply OutKeeps.fault | apply ite_outKeeps | apply State.emit_keeps | apply challenge_keeps | apply response_keeps | apply ite_keeps | apply foldl_keeps) | split | (extract_lets; split) | (with_reducible apply State.keeps_mk <;> first | exact .inr ‹_› | exact .inl rfl | exact .inl ⟨rfl, rfl⟩ | exact .inl ⟨rfl, rfl, rfl⟩ | exact .inl ⟨rfl, rfl, rfl, rfl⟩ | exact .inl ⟨rfl, rfl, rfl, rfl, rfl⟩ | skip) | rfl | exact OtpLe.refl _ | split | (extract_lets; split) | (dsimp +zetaDelta only; split)

end Sys2Proof.Machine
end

