-- ==== Sys2Proof/Laws/KeepsLifecycle.lean ====
section
/-! SUPPORT. `Keeps` for the definitions of Machine/Lifecycle.lean, one lemma for each. -/

set_option linter.all false
set_option Elab.async false
set_option maxRecDepth 4000
namespace Sys2Proof.Machine

variable {m : Part → Bool} {r : State}

theorem volatileReset_keeps (s : State) (p_uptime : m .uptime = true) (p_dev : m .dev = true) (p_mode : m .mode = true) (p_conflicts : m .conflicts = true) (p_hpen : m .hpen = true) (p_rings : m .rings = true) (p_slots : m .slots = true) (p_records : m .records = true) (p_events : m .events = true) (p_masked : m .masked = true) (p_bufs : m .bufs = true) (p_pulls : m .pulls = true) (p_area : m .area = true) (p_winDrop : m .winDrop = true) (p_link : m .link = true) (p_limits : m .limits = true) (p_reply : m .reply = true) (p_aer : m .aer = true) (p_msix : m .msix = true) (p_pba : m .pba = true) (p_lcs : m .lcs = true) (p_dram : m .dram = true) (p_poison : m .poison = true) (p_clock : m .clock = true) (p_time : m .time = true) (p_web : m .web = true) (p_axis : m .axis = true) (p_frames : m .frames = true) (p_prn : m .prn = true) (p_fire : m .fire = true) (p_rein : m .rein = true) (p_tan : m .tan = true) (p_thm : m .thm = true) (p_cal : m .cal = true) (p_scan : m .scan = true) (p_cam : m .cam = true) (p_mem : m .mem = true) (hs : Keeps m r s) : Keeps m r (volatileReset s) := by
  unfold volatileReset
  apply State.keeps_fresh hs <;> first | exact .inr ‹_› | exact .inl rfl | exact .inl ⟨rfl, rfl⟩ | exact .inl ⟨rfl, rfl, rfl⟩ | exact .inl ⟨rfl, rfl, rfl, rfl⟩ | exact .inl ⟨rfl, rfl, rfl, rfl, rfl⟩ | rfl | exact ⟨fun h => h, fun h => h, fun h => h, List.prefix_rfl, Nat.le_refl _⟩

theorem enterReset_keeps (cause : Nat) (held : Bool) (s : State) (p_uptime : m .uptime = true) (p_dev : m .dev = true) (p_mode : m .mode = true) (p_conflicts : m .conflicts = true) (p_hpen : m .hpen = true) (p_rings : m .rings = true) (p_slots : m .slots = true) (p_records : m .records = true) (p_events : m .events = true) (p_masked : m .masked = true) (p_bufs : m .bufs = true) (p_pulls : m .pulls = true) (p_area : m .area = true) (p_winDrop : m .winDrop = true) (p_link : m .link = true) (p_limits : m .limits = true) (p_reply : m .reply = true) (p_aer : m .aer = true) (p_msix : m .msix = true) (p_pba : m .pba = true) (p_lcs : m .lcs = true) (p_dram : m .dram = true) (p_poison : m .poison = true) (p_clock : m .clock = true) (p_time : m .time = true) (p_web : m .web = true) (p_axis : m .axis = true) (p_frames : m .frames = true) (p_prn : m .prn = true) (p_fire : m .fire = true) (p_rein : m .rein = true) (p_tan : m .tan = true) (p_thm : m .thm = true) (p_cal : m .cal = true) (p_scan : m .scan = true) (p_cam : m .cam = true) (p_mem : m .mem = true) (hs : Keeps m r s) : Keeps m r (enterReset cause held s) := by
  unfold enterReset
  repeat' first | intro _ | (with_reducible first | assumption | apply State.withLcs_keeps | apply volatileReset_keeps | apply ite_keeps | apply foldl_keeps) | exact .inl ‹_› | exact .inr (fun _ => ⟨rfl, rfl, rfl, rfl, rfl⟩) | exact ⟨fun h => h, fun h => h, fun h => h, List.prefix_rfl, Nat.le_refl _⟩ | (with_reducible apply State.keeps_mk <;> first | exact .inr ‹_› | exact .inl rfl | exact .inl ⟨rfl, rfl⟩ | exact .inl ⟨rfl, rfl, rfl⟩ | exact .inl ⟨rfl, rfl, rfl, rfl⟩ | exact .inl ⟨rfl, rfl, rfl, rfl, rfl⟩ | skip) | rfl | exact OtpLe.refl _ | split | (extract_lets; split) | (dsimp +zetaDelta only; split)

theorem execPowerOn_keeps (straps : BitVec 2) (s : State) (p_uptime : m .uptime = true) (p_dev : m .dev = true) (p_mode : m .mode = true) (p_conflicts : m .conflicts = true) (p_hpen : m .hpen = true) (p_rings : m .rings = true) (p_slots : m .slots = true) (p_records : m .records = true) (p_events : m .events = true) (p_masked : m .masked = true) (p_bufs : m .bufs = true) (p_pulls : m .pulls = true) (p_area : m .area = true) (p_winDrop : m .winDrop = true) (p_link : m .link = true) (p_limits : m .limits = true) (p_reply : m .reply = true) (p_aer : m .aer = true) (p_msix : m .msix = true) (p_pba : m .pba = true) (p_lcs : m .lcs = true) (p_dram : m .dram = true) (p_poison : m .poison = true) (p_clock : m .clock = true) (p_time : m .time = true) (p_web : m .web = true) (p_axis : m .axis = true) (p_frames : m .frames = true) (p_prn : m .prn = true) (p_fire : m .fire = true) (p_rein : m .rein = true) (p_tan : m .tan = true) (p_thm : m .thm = true) (p_cal : m .cal = true) (p_scan : m .scan = true) (p_cam : m .cam = true) (p_mem : m .mem = true) (hs : Keeps m r s) : OutKeeps m r (execPowerOn straps s) := by
  unfold execPowerOn
  repeat' first | intro _ | (with_reducible first | assumption | apply OutKeeps.next | apply OutKeeps.fault | apply ite_outKeeps | apply State.withLcs_keeps | apply enterReset_keeps | apply ite_keeps | apply foldl_keeps) | exact .inl ‹_› | exact .inr (fun _ => ⟨rfl, rfl, rfl, rfl, rfl⟩) | exact ⟨fun h => h, fun h => h, fun h => h, List.prefix_rfl, Nat.le_refl _⟩ | (with_reducible apply State.keeps_mk <;> first | exact .inr ‹_› | exact .inl rfl | exact .inl ⟨rfl, rfl⟩ | exact .inl ⟨rfl, rfl, rfl⟩ | exact .inl ⟨rfl, rfl, rfl, rfl⟩ | exact .inl ⟨rfl, rfl, rfl, rfl, rfl⟩ | skip) | rfl | exact OtpLe.refl _ | split | (extract_lets; split) | (dsimp +zetaDelta only; split)

theorem execPorstAssert_keeps (straps : BitVec 2) (s : State) (p_uptime : m .uptime = true) (p_dev : m .dev = true) (p_mode : m .mode = true) (p_conflicts : m .conflicts = true) (p_hpen : m .hpen = true) (p_rings : m .rings = true) (p_slots : m .slots = true) (p_records : m .records = true) (p_events : m .events = true) (p_masked : m .masked = true) (p_bufs : m .bufs = true) (p_pulls : m .pulls = true) (p_area : m .area = true) (p_winDrop : m .winDrop = true) (p_link : m .link = true) (p_limits : m .limits = true) (p_reply : m .reply = true) (p_aer : m .aer = true) (p_msix : m .msix = true) (p_pba : m .pba = true) (p_lcs : m .lcs = true) (p_dram : m .dram = true) (p_poison : m .poison = true) (p_clock : m .clock = true) (p_time : m .time = true) (p_web : m .web = true) (p_axis : m .axis = true) (p_frames : m .frames = true) (p_prn : m .prn = true) (p_fire : m .fire = true) (p_rein : m .rein = true) (p_tan : m .tan = true) (p_thm : m .thm = true) (p_cal : m .cal = true) (p_scan : m .scan = true) (p_cam : m .cam = true) (p_mem : m .mem = true) (hs : Keeps m r s) : OutKeeps m r (execPorstAssert straps s) := by
  unfold execPorstAssert
  repeat' first | intro _ | (with_reducible first | assumption | apply OutKeeps.next | apply OutKeeps.fault | apply ite_outKeeps | apply State.withLcs_keeps | apply enterReset_keeps | apply ite_keeps | apply foldl_keeps) | exact .inl ‹_› | exact .inr (fun _ => ⟨rfl, rfl, rfl, rfl, rfl⟩) | exact ⟨fun h => h, fun h => h, fun h => h, List.prefix_rfl, Nat.le_refl _⟩ | (with_reducible apply State.keeps_mk <;> first | exact .inr ‹_› | exact .inl rfl | exact .inl ⟨rfl, rfl⟩ | exact .inl ⟨rfl, rfl, rfl⟩ | exact .inl ⟨rfl, rfl, rfl, rfl⟩ | exact .inl ⟨rfl, rfl, rfl, rfl, rfl⟩ | skip) | rfl | exact OtpLe.refl _ | split | (extract_lets; split) | (dsimp +zetaDelta only; split)

theorem execSysrstAssert_keeps (s : State) (p_uptime : m .uptime = true) (p_dev : m .dev = true) (p_mode : m .mode = true) (p_conflicts : m .conflicts = true) (p_hpen : m .hpen = true) (p_rings : m .rings = true) (p_slots : m .slots = true) (p_records : m .records = true) (p_events : m .events = true) (p_masked : m .masked = true) (p_bufs : m .bufs = true) (p_pulls : m .pulls = true) (p_area : m .area = true) (p_winDrop : m .winDrop = true) (p_link : m .link = true) (p_limits : m .limits = true) (p_reply : m .reply = true) (p_aer : m .aer = true) (p_msix : m .msix = true) (p_pba : m .pba = true) (p_lcs : m .lcs = true) (p_dram : m .dram = true) (p_poison : m .poison = true) (p_clock : m .clock = true) (p_time : m .time = true) (p_web : m .web = true) (p_axis : m .axis = true) (p_frames : m .frames = true) (p_prn : m .prn = true) (p_fire : m .fire = true) (p_rein : m .rein = true) (p_tan : m .tan = true) (p_thm : m .thm = true) (p_cal : m .cal = true) (p_scan : m .scan = true) (p_cam : m .cam = true) (p_mem : m .mem = true) (hs : Keeps m r s) : OutKeeps m r (execSysrstAssert s) := by
  unfold execSysrstAssert
  repeat' first | intro _ | (with_reducible first | assumption | apply OutKeeps.next | apply OutKeeps.fault | apply ite_outKeeps | apply enterReset_keeps | apply ite_keeps | apply foldl_keeps) | (with_reducible apply State.keeps_mk <;> first | exact .inr ‹_› | exact .inl rfl | exact .inl ⟨rfl, rfl⟩ | exact .inl ⟨rfl, rfl, rfl⟩ | exact .inl ⟨rfl, rfl, rfl, rfl⟩ | exact .inl ⟨rfl, rfl, rfl, rfl, rfl⟩ | skip) | rfl | exact OtpLe.refl _ | split | (extract_lets; split) | (dsimp +zetaDelta only; split)

theorem execInternalReset_keeps (s : State) (p_uptime : m .uptime = true) (p_out : m .out = true) (p_dev : m .dev = true) (p_mode : m .mode = true) (p_conflicts : m .conflicts = true) (p_hpen : m .hpen = true) (p_rings : m .rings = true) (p_slots : m .slots = true) (p_records : m .records = true) (p_events : m .events = true) (p_masked : m .masked = true) (p_bufs : m .bufs = true) (p_pulls : m .pulls = true) (p_area : m .area = true) (p_winDrop : m .winDrop = true) (p_link : m .link = true) (p_limits : m .limits = true) (p_reply : m .reply = true) (p_aer : m .aer = true) (p_msix : m .msix = true) (p_pba : m .pba = true) (p_lcs : m .lcs = true) (p_dram : m .dram = true) (p_poison : m .poison = true) (p_clock : m .clock = true) (p_time : m .time = true) (p_web : m .web = true) (p_axis : m .axis = true) (p_frames : m .frames = true) (p_prn : m .prn = true) (p_fire : m .fire = true) (p_rein : m .rein = true) (p_tan : m .tan = true) (p_thm : m .thm = true) (p_cal : m .cal = true) (p_scan : m .scan = true) (p_cam : m .cam = true) (p_mem : m .mem = true) (hs : Keeps m r s) : OutKeeps m r (execInternalReset s) := by
  unfold execInternalReset
  repeat' first | intro _ | (with_reducible first | assumption | apply OutKeeps.next | apply OutKeeps.fault | apply ite_outKeeps | apply State.emit_keeps | apply enterReset_keeps | apply ite_keeps | apply foldl_keeps) | (with_reducible apply State.keeps_mk <;> first | exact .inr ‹_› | exact .inl rfl | exact .inl ⟨rfl, rfl⟩ | exact .inl ⟨rfl, rfl, rfl⟩ | exact .inl ⟨rfl, rfl, rfl, rfl⟩ | exact .inl ⟨rfl, rfl, rfl, rfl, rfl⟩ | skip) | rfl | exact OtpLe.refl _ | split | (extract_lets; split) | (dsimp +zetaDelta only; split)

theorem execTripHoldExpiry_keeps (s : State) (p_uptime : m .uptime = true) (p_dev : m .dev = true) (p_mode : m .mode = true) (p_conflicts : m .conflicts = true) (p_hpen : m .hpen = true) (p_rings : m .rings = true) (p_slots : m .slots = true) (p_records : m .records = true) (p_events : m .events = true) (p_masked : m .masked = true) (p_bufs : m .bufs = true) (p_pulls : m .pulls = true) (p_area : m .area = true) (p_winDrop : m .winDrop = true) (p_link : m .link = true) (p_limits : m .limits = true) (p_reply : m .reply = true) (p_aer : m .aer = true) (p_msix : m .msix = true) (p_pba : m .pba = true) (p_lcs : m .lcs = true) (p_dram : m .dram = true) (p_poison : m .poison = true) (p_clock : m .clock = true) (p_time : m .time = true) (p_web : m .web = true) (p_axis : m .axis = true) (p_frames : m .frames = true) (p_prn : m .prn = true) (p_fire : m .fire = true) (p_rein : m .rein = true) (p_tan : m .tan = true) (p_thm : m .thm = true) (p_cal : m .cal = true) (p_scan : m .scan = true) (p_cam : m .cam = true) (p_mem : m .mem = true) (hs : Keeps m r s) : OutKeeps m r (execTripHoldExpiry s) := by
  unfold execTripHoldExpiry
  repeat' first | intro _ | (with_reducible first | assumption | apply OutKeeps.next | apply OutKeeps.fault | apply ite_outKeeps | apply enterReset_keeps | apply ite_keeps | apply foldl_keeps) | (with_reducible apply State.keeps_mk <;> first | exact .inr ‹_› | exact .inl rfl | exact .inl ⟨rfl, rfl⟩ | exact .inl ⟨rfl, rfl, rfl⟩ | exact .inl ⟨rfl, rfl, rfl, rfl⟩ | exact .inl ⟨rfl, rfl, rfl, rfl, rfl⟩ | skip) | rfl | exact OtpLe.refl _ | split | (extract_lets; split) | (dsimp +zetaDelta only; split)

theorem readSlotA_keeps (s : State) (p_out : m .out = true) (hs : Keeps m r s) : Keeps m r (readSlotA s) := by
  unfold readSlotA
  repeat' first | intro _ | (with_reducible first | assumption | apply State.emit_keeps | apply ite_keeps | apply foldl_keeps) | (with_reducible apply State.keeps_mk <;> first | exact .inr ‹_› | exact .inl rfl | exact .inl ⟨rfl, rfl⟩ | exact .inl ⟨rfl, rfl, rfl⟩ | exact .inl ⟨rfl, rfl, rfl, rfl⟩ | exact .inl ⟨rfl, rfl, rfl, rfl, rfl⟩ | skip) | rfl | exact OtpLe.refl _ | split | (extract_lets; split) | (dsimp +zetaDelta only; split)

theorem execResetRelease_keeps (parityOk : Bool) (s : State) (p_uptime : m .uptime = true) (p_out : m .out = true) (p_dev : m .dev = true) (p_slots : m .slots = true) (p_records : m .records = true) (p_events : m .events = true) (p_pulls : m .pulls = true) (p_pba : m .pba = true) (p_lcs : m .lcs = true) (p_hostMem : m .hostMem = true) (p_time : m .time = true) (p_axis : m .axis = true) (p_frames : m .frames = true) (p_fire : m .fire = true) (p_rein : m .rein = true) (p_cal : m .cal = true) (p_cam : m .cam = true) (p_mem : m .mem = true) (hs : Keeps m r s) : OutKeeps m r (execResetRelease parityOk s) := by
  unfold execResetRelease
  repeat' first | intro _ | (with_reducible first | assumption | apply OutKeeps.next | apply OutKeeps.fault | apply ite_outKeeps | apply enterFault_keeps | apply State.withLcs_keeps | apply loadRecord_keeps | apply readSlotA_keeps | apply ite_keeps | apply foldl_keeps) | exact .inl ‹_› | exact .inr (fun _ => ⟨rfl, rfl, rfl, rfl, rfl⟩) | exact ⟨fun h => h, fun h => h, fun h => h, List.prefix_rfl, Nat.le_refl _⟩ | (with_reducible apply State.keeps_mk <;> first | exact .inr ‹_› | exact .inl rfl | exact .inl ⟨rfl, rfl⟩ | exact .inl ⟨rfl, rfl, rfl⟩ | exact .inl ⟨rfl, rfl, rfl, rfl⟩ | exact .inl ⟨rfl, rfl, rfl, rfl, rfl⟩ | skip) | rfl | exact OtpLe.refl _ | split | (extract_lets; split) | (dsimp +zetaDelta only; split)

theorem startFirmware_keeps (src : Nat) (img : List Byte) (s : State) (p_lcs : m .lcs = true) (p_mem : m .mem = true) (hs : Keeps m r s) : Keeps m r (startFirmware src img s) := by
  unfold startFirmware
  repeat' first | intro _ | (with_reducible first | assumption | apply State.setDdr_keeps | apply State.withLcs_keeps | apply ite_keeps | apply foldl_keeps) | exact .inl ‹_› | exact .inr (fun _ => ⟨rfl, rfl, rfl, rfl, rfl⟩) | exact ⟨fun h => h, fun h => h, fun h => h, List.prefix_rfl, Nat.le_refl _⟩ | (with_reducible apply State.keeps_mk <;> first | exact .inr ‹_› | exact .inl rfl | exact .inl ⟨rfl, rfl⟩ | exact .inl ⟨rfl, rfl, rfl⟩ | exact .inl ⟨rfl, rfl, rfl, rfl⟩ | exact .inl ⟨rfl, rfl, rfl, rfl, rfl⟩ | skip) | rfl | exact OtpLe.refl _ | split | (extract_lets; split) | (dsimp +zetaDelta only; split)

theorem noteResult_keeps (src : Nat) (r1 : Nat) (s : State) (p_lcs : m .lcs = true) (hs : Keeps m r s) : Keeps m r (noteResult src r1 s) := by
  unfold noteResult
  repeat' first | intro _ | (with_reducible first | assumption | apply State.withLcs_keeps | apply ite_keeps | apply foldl_keeps) | exact .inl ‹_› | exact .inr (fun _ => ⟨rfl, rfl, rfl, rfl, rfl⟩) | exact ⟨fun h => h, fun h => h, fun h => h, List.prefix_rfl, Nat.le_refl _⟩ | (with_reducible apply State.keeps_mk <;> first | exact .inr ‹_› | exact .inl rfl | exact .inl ⟨rfl, rfl⟩ | exact .inl ⟨rfl, rfl, rfl⟩ | exact .inl ⟨rfl, rfl, rfl, rfl⟩ | exact .inl ⟨rfl, rfl, rfl, rfl, rfl⟩ | skip) | rfl | exact OtpLe.refl _ | split | (extract_lets; split) | (dsimp +zetaDelta only; split)

theorem imageFailed_keeps (src : Nat) (s : State) (p_out : m .out = true) (p_dev : m .dev = true) (p_slots : m .slots = true) (p_records : m .records = true) (p_events : m .events = true) (p_pulls : m .pulls = true) (p_pba : m .pba = true) (p_lcs : m .lcs = true) (p_hostMem : m .hostMem = true) (p_time : m .time = true) (p_axis : m .axis = true) (p_frames : m .frames = true) (p_fire : m .fire = true) (p_rein : m .rein = true) (p_cal : m .cal = true) (p_cam : m .cam = true) (p_mem : m .mem = true) (hs : Keeps m r s) : Keeps m r (imageFailed src s) := by
  unfold imageFailed
  repeat' first | intro _ | (with_reducible first | assumption | apply State.emit_keeps | apply enterFault_keeps | apply State.withLcs_keeps | apply ite_keeps | apply foldl_keeps) | exact .inl ‹_› | exact .inr (fun _ => ⟨rfl, rfl, rfl, rfl, rfl⟩) | exact ⟨fun h => h, fun h => h, fun h => h, List.prefix_rfl, Nat.le_refl _⟩ | (with_reducible apply State.keeps_mk <;> first | exact .inr ‹_› | exact .inl rfl | exact .inl ⟨rfl, rfl⟩ | exact .inl ⟨rfl, rfl, rfl⟩ | exact .inl ⟨rfl, rfl, rfl, rfl⟩ | exact .inl ⟨rfl, rfl, rfl, rfl, rfl⟩ | skip) | rfl | exact OtpLe.refl _ | split | (extract_lets; split) | (dsimp +zetaDelta only; split)

theorem execBootImageVerified_keeps (image : List Byte) (s : State) (p_out : m .out = true) (p_dev : m .dev = true) (p_slots : m .slots = true) (p_records : m .records = true) (p_events : m .events = true) (p_pulls : m .pulls = true) (p_pba : m .pba = true) (p_lcs : m .lcs = true) (p_hostMem : m .hostMem = true) (p_time : m .time = true) (p_axis : m .axis = true) (p_frames : m .frames = true) (p_fire : m .fire = true) (p_rein : m .rein = true) (p_cal : m .cal = true) (p_cam : m .cam = true) (p_mem : m .mem = true) (hs : Keeps m r s) : OutKeeps m r (execBootImageVerified image s) := by
  unfold execBootImageVerified
  repeat' first | intro _ | (with_reducible first | assumption | apply OutKeeps.next | apply OutKeeps.fault | apply ite_outKeeps | apply startFirmware_keeps | apply noteResult_keeps | apply imageFailed_keeps | apply ite_keeps | apply foldl_keeps) | split | (extract_lets; split) | (with_reducible apply State.keeps_mk <;> first | exact .inr ‹_› | exact .inl rfl | exact .inl ⟨rfl, rfl⟩ | exact .inl ⟨rfl, rfl, rfl⟩ | exact .inl ⟨rfl, rfl, rfl, rfl⟩ | exact .inl ⟨rfl, rfl, rfl, rfl, rfl⟩ | skip) | rfl | exact OtpLe.refl _ | split | (extract_lets; split) | (dsimp +zetaDelta only; split)

theorem execBootDdrTrained_keeps (ch : Nat) (eyes : List Nat) (temp : Int) (s : State) (p_out : m .out = true) (p_dev : m .dev = true) (p_slots : m .slots = true) (p_records : m .records = true) (p_events : m .events = true) (p_pulls : m .pulls = true) (p_pba : m .pba = true) (p_hostMem : m .hostMem = true) (p_time : m .time = true) (p_axis : m .axis = true) (p_frames : m .frames = true) (p_fire : m .fire = true) (p_rein : m .rein = true) (p_cal : m .cal = true) (p_cam : m .cam = true) (p_mem : m .mem = true) (hs : Keeps m r s) : OutKeeps m r (execBootDdrTrained ch eyes temp s) := by
  unfold execBootDdrTrained
  repeat' first | intro _ | (with_reducible first | assumption | apply OutKeeps.next | apply OutKeeps.fault | apply ite_outKeeps | apply memFatal_keeps | apply bootTrain_keeps | apply ite_keeps | apply foldl_keeps) | (with_reducible apply State.keeps_mk <;> first | exact .inr ‹_› | exact .inl rfl | exact .inl ⟨rfl, rfl⟩ | exact .inl ⟨rfl, rfl, rfl⟩ | exact .inl ⟨rfl, rfl, rfl, rfl⟩ | exact .inl ⟨rfl, rfl, rfl, rfl, rfl⟩ | skip) | rfl | exact OtpLe.refl _ | split | (extract_lets; split) | (dsimp +zetaDelta only; split)

theorem initRings_keeps (s : State) (p_records : m .records = true) (p_events : m .events = true) (hs : Keeps m r s) : Keeps m r (initRings s) := by
  unfold initRings
  repeat' first | intro _ | (with_reducible first | assumption | apply State.setCpl_keeps | apply State.setEvt_keeps | apply ite_keeps | apply foldl_keeps) | (with_reducible apply State.keeps_mk <;> first | exact .inr ‹_› | exact .inl rfl | exact .inl ⟨rfl, rfl⟩ | exact .inl ⟨rfl, rfl, rfl⟩ | exact .inl ⟨rfl, rfl, rfl, rfl⟩ | exact .inl ⟨rfl, rfl, rfl, rfl, rfl⟩ | skip) | rfl | exact OtpLe.refl _ | split | (extract_lets; split) | (dsimp +zetaDelta only; split)

theorem initRegisters_keeps (s : State) (p_records : m .records = true) (p_events : m .events = true) (p_time : m .time = true) (p_mem : m .mem = true) (hs : Keeps m r s) : Keeps m r (initRegisters s) := by
  unfold initRegisters
  repeat' first | intro _ | (with_reducible first | assumption | apply armRounds_keeps | apply initRings_keeps | apply ite_keeps | apply foldl_keeps) | (with_reducible apply State.keeps_mk <;> first | exact .inr ‹_› | exact .inl rfl | exact .inl ⟨rfl, rfl⟩ | exact .inl ⟨rfl, rfl, rfl⟩ | exact .inl ⟨rfl, rfl, rfl, rfl⟩ | exact .inl ⟨rfl, rfl, rfl, rfl, rfl⟩ | skip) | rfl | exact OtpLe.refl _ | split | (extract_lets; split) | (dsimp +zetaDelta only; split)

theorem wiped_keeps (s : State) (t : Top) (p_dev : m .dev = true) (p_dram : m .dram = true) (p_poison : m .poison = true) (hs : Keeps m r s) (ht : t.mode = s.top.mode)
    (hc : t.conflicts = s.top.conflicts ∧ t.lastDword = s.top.lastDword) (hh : t.hpen = s.top.hpen) :
    Keeps m r { s with dram := [], poison := [], top := t } := by
  apply State.keeps_wiped hs <;> first | exact .inr ‹_› | exact .inl rfl | exact .inl ⟨rfl, rfl⟩ | exact .inl ⟨rfl, rfl, rfl⟩ | exact .inl ⟨rfl, rfl, rfl, rfl⟩ | exact .inl ⟨rfl, rfl, rfl, rfl, rfl⟩ | exact .inl ht | exact .inl hc | exact .inl hh | exact ht | exact fun _ => Tab.nil_wf _

theorem execReady_keeps (s : State) (p_out : m .out = true) (p_dev : m .dev = true) (p_records : m .records = true) (p_events : m .events = true) (p_pba : m .pba = true) (p_dram : m .dram = true) (p_poison : m .poison = true) (p_hostMem : m .hostMem = true) (p_time : m .time = true) (p_mem : m .mem = true) (hs : Keeps m r s) : OutKeeps m r (execReady s) := by
  unfold execReady
  split
  · exact OutKeeps.next hs
  · refine OutKeeps.next (foldl_keeps _ _ ?_ ?_)
    · apply raise_keeps <;> with_reducible first | assumption | skip
      apply initRegisters_keeps <;> with_reducible first | assumption | skip
      apply wiped_keeps <;> first | assumption | rfl | exact ⟨rfl, rfl⟩
    · intro st a h
      apply bootChanEvent_keeps <;> assumption

theorem execWatchdogExpiry_keeps (s : State) (p_out : m .out = true) (p_dev : m .dev = true) (p_slots : m .slots = true) (p_records : m .records = true) (p_events : m .events = true) (p_pulls : m .pulls = true) (p_pba : m .pba = true) (p_hostMem : m .hostMem = true) (p_time : m .time = true) (p_axis : m .axis = true) (p_frames : m .frames = true) (p_fire : m .fire = true) (p_rein : m .rein = true) (p_cal : m .cal = true) (p_cam : m .cam = true) (p_mem : m .mem = true) (hs : Keeps m r s) : OutKeeps m r (execWatchdogExpiry s) := by
  unfold execWatchdogExpiry
  repeat' first | intro _ | (with_reducible first | assumption | apply OutKeeps.next | apply OutKeeps.fault | apply ite_outKeeps | apply enterFault_keeps | apply ite_keeps | apply foldl_keeps) | (with_reducible apply State.keeps_mk <;> first | exact .inr ‹_› | exact .inl rfl | exact .inl ⟨rfl, rfl⟩ | exact .inl ⟨rfl, rfl, rfl⟩ | exact .inl ⟨rfl, rfl, rfl, rfl⟩ | exact .inl ⟨rfl, rfl, rfl, rfl, rfl⟩ | skip) | rfl | exact OtpLe.refl _ | split | (extract_lets; split) | (dsimp +zetaDelta only; split)

theorem pcieGone_keeps (s : State) (p_out : m .out = true) (p_dev : m .dev = true) (p_slots : m .slots = true) (p_records : m .records = true) (p_events : m .events = true) (p_pba : m .pba = true) (p_hostMem : m .hostMem = true) (p_time : m .time = true) (p_axis : m .axis = true) (p_frames : m .frames = true) (p_fire : m .fire = true) (p_rein : m .rein = true) (p_cam : m .cam = true) (hs : Keeps m r s) : Keeps m r (pcieGone s) := by
  unfold pcieGone
  repeat' first | intro _ | (with_reducible first | assumption | apply enterHalter_keeps | apply ite_keeps | apply foldl_keeps) | (with_reducible apply State.keeps_mk <;> first | exact .inr ‹_› | exact .inl rfl | exact .inl ⟨rfl, rfl⟩ | exact .inl ⟨rfl, rfl, rfl⟩ | exact .inl ⟨rfl, rfl, rfl, rfl⟩ | exact .inl ⟨rfl, rfl, rfl, rfl, rfl⟩ | skip) | rfl | exact OtpLe.refl _ | split | (extract_lets; split) | (dsimp +zetaDelta only; split)

theorem linkLost_keeps (s : State) (p_out : m .out = true) (p_dev : m .dev = true) (p_slots : m .slots = true) (p_records : m .records = true) (p_events : m .events = true) (p_link : m .link = true) (p_pba : m .pba = true) (p_hostMem : m .hostMem = true) (p_time : m .time = true) (p_axis : m .axis = true) (p_frames : m .frames = true) (p_fire : m .fire = true) (p_rein : m .rein = true) (p_cam : m .cam = true) (hs : Keeps m r s) : Keeps m r (linkLost s) := by
  unfold linkLost
  repeat' first | intro _ | (with_reducible first | assumption | apply pcieGone_keeps | apply ite_keeps | apply foldl_keeps) | (with_reducible apply State.keeps_mk <;> first | exact .inr ‹_› | exact .inl rfl | exact .inl ⟨rfl, rfl⟩ | exact .inl ⟨rfl, rfl, rfl⟩ | exact .inl ⟨rfl, rfl, rfl, rfl⟩ | exact .inl ⟨rfl, rfl, rfl, rfl, rfl⟩ | skip) | rfl | exact OtpLe.refl _ | split | (extract_lets; split) | (dsimp +zetaDelta only; split)

theorem execClockFault_keeps (ref : Nat) (s : State) (p_out : m .out = true) (p_dev : m .dev = true) (p_slots : m .slots = true) (p_records : m .records = true) (p_events : m .events = true) (p_pulls : m .pulls = true) (p_link : m .link = true) (p_pba : m .pba = true) (p_hostMem : m .hostMem = true) (p_time : m .time = true) (p_axis : m .axis = true) (p_frames : m .frames = true) (p_fire : m .fire = true) (p_rein : m .rein = true) (p_cal : m .cal = true) (p_cam : m .cam = true) (p_mem : m .mem = true) (hs : Keeps m r s) : OutKeeps m r (execClockFault ref s) := by
  unfold execClockFault
  repeat' first | intro _ | (with_reducible first | assumption | apply OutKeeps.next | apply OutKeeps.fault | apply ite_outKeeps | apply enterFault_keeps | apply linkLost_keeps | apply ite_keeps | apply foldl_keeps) | (with_reducible apply State.keeps_mk <;> first | exact .inr ‹_› | exact .inl rfl | exact .inl ⟨rfl, rfl⟩ | exact .inl ⟨rfl, rfl, rfl⟩ | exact .inl ⟨rfl, rfl, rfl, rfl⟩ | exact .inl ⟨rfl, rfl, rfl, rfl, rfl⟩ | skip) | rfl | exact OtpLe.refl _ | split | (extract_lets; split) | (dsimp +zetaDelta only; split)

theorem pinsInactive_keeps (s : State) (p_out : m .out = true) (hs : Keeps m r s) : Keeps m r (pinsInactive s) := by
  unfold pinsInactive
  repeat' first | intro _ | (with_reducible first | assumption | apply State.emit_keeps | apply ite_keeps | apply foldl_keeps) | (with_reducible apply State.keeps_mk <;> first | exact .inr ‹_› | exact .inl rfl | exact .inl ⟨rfl, rfl⟩ | exact .inl ⟨rfl, rfl, rfl⟩ | exact .inl ⟨rfl, rfl, rfl, rfl⟩ | exact .inl ⟨rfl, rfl, rfl, rfl, rfl⟩ | skip) | rfl | exact OtpLe.refl _ | split | (extract_lets; split) | (dsimp +zetaDelta only; split)

theorem execDieTrip_keeps (hotspot : Int) (s : State) (p_uptime : m .uptime = true) (p_out : m .out = true) (p_dev : m .dev = true) (p_mode : m .mode = true) (p_conflicts : m .conflicts = true) (p_hpen : m .hpen = true) (p_rings : m .rings = true) (p_slots : m .slots = true) (p_records : m .records = true) (p_events : m .events = true) (p_masked : m .masked = true) (p_bufs : m .bufs = true) (p_pulls : m .pulls = true) (p_area : m .area = true) (p_winDrop : m .winDrop = true) (p_link : m .link = true) (p_limits : m .limits = true) (p_reply : m .reply = true) (p_aer : m .aer = true) (p_msix : m .msix = true) (p_pba : m .pba = true) (p_lcs : m .lcs = true) (p_dram : m .dram = true) (p_poison : m .poison = true) (p_clock : m .clock = true) (p_time : m .time = true) (p_web : m .web = true) (p_axis : m .axis = true) (p_frames : m .frames = true) (p_prn : m .prn = true) (p_fire : m .fire = true) (p_rein : m .rein = true) (p_tan : m .tan = true) (p_thm : m .thm = true) (p_cal : m .cal = true) (p_scan : m .scan = true) (p_cam : m .cam = true) (p_mem : m .mem = true) (hs : Keeps m r s) : OutKeeps m r (execDieTrip hotspot s) := by
  unfold execDieTrip
  repeat' first | intro _ | (with_reducible first | assumption | apply OutKeeps.next | apply OutKeeps.fault | apply ite_outKeeps | apply strobesOff_keeps | apply volatileReset_keeps | apply pinsInactive_keeps | apply ite_keeps | apply foldl_keeps) | (with_reducible apply State.keeps_mk <;> first | exact .inr ‹_› | exact .inl rfl | exact .inl ⟨rfl, rfl⟩ | exact .inl ⟨rfl, rfl, rfl⟩ | exact .inl ⟨rfl, rfl, rfl, rfl⟩ | exact .inl ⟨rfl, rfl, rfl, rfl, rfl⟩ | skip) | rfl | exact OtpLe.refl _ | split | (extract_lets; split) | (dsimp +zetaDelta only; split)

theorem flrHalt_keeps (s : State) (p_out : m .out = true) (p_dev : m .dev = true) (p_slots : m .slots = true) (p_records : m .records = true) (p_events : m .events = true) (p_pba : m .pba = true) (p_hostMem : m .hostMem = true) (p_time : m .time = true) (p_axis : m .axis = true) (p_frames : m .frames = true) (p_fire : m .fire = true) (p_rein : m .rein = true) (p_cam : m .cam = true) (hs : Keeps m r s) : Keeps m r (flrHalt s) := by
  unfold flrHalt
  repeat' first | intro _ | (with_reducible first | assumption | apply haltAxes_keeps | apply enterHalter_keeps | apply ite_keeps | apply foldl_keeps) | (with_reducible apply State.keeps_mk <;> first | exact .inr ‹_› | exact .inl rfl | exact .inl ⟨rfl, rfl⟩ | exact .inl ⟨rfl, rfl, rfl⟩ | exact .inl ⟨rfl, rfl, rfl, rfl⟩ | exact .inl ⟨rfl, rfl, rfl, rfl, rfl⟩ | skip) | rfl | exact OtpLe.refl _ | split | (extract_lets; split) | (dsimp +zetaDelta only; split)

theorem flrClear_keeps (s : State) (p_rings : m .rings = true) (p_slots : m .slots = true) (p_records : m .records = true) (p_events : m .events = true) (p_bufs : m .bufs = true) (p_pulls : m .pulls = true) (p_winDrop : m .winDrop = true) (p_link : m .link = true) (p_limits : m .limits = true) (p_msix : m .msix = true) (p_pba : m .pba = true) (p_dram : m .dram = true) (p_poison : m .poison = true) (p_axis : m .axis = true) (p_frames : m .frames = true) (p_rein : m .rein = true) (p_cal : m .cal = true) (p_mem : m .mem = true) (hs : Keeps m r s) : Keeps m r (flrClear s) := by
  unfold flrClear
  extract_lets
  apply initRings_keeps <;> with_reducible first | assumption | skip
  have hm : Keeps (fun p => p == .mem) s ((s.cmd.pulls.map (·.1)).foldl (fun st k => releaseRate k st) s) :=
    foldl_keeps _ _ (Keeps.refl _ _) fun st a h => by apply releaseRate_keeps <;> first | rfl | assumption
  have hr := foldl_keeps (m := m) (fun st k => releaseRate k st) (s.cmd.pulls.map (·.1)) hs fun st a h => by
    apply releaseRate_keeps <;> assumption
  apply State.keeps_wiped hr <;> first | exact .inr ‹_› | exact .inl rfl | exact .inl ⟨rfl, rfl⟩ | exact .inl ⟨rfl, rfl, rfl⟩ | exact .inl ⟨rfl, rfl, rfl, rfl⟩ | exact .inl ⟨rfl, rfl, rfl, rfl, rfl⟩ | rfl | exact .inl ⟨(hm.limits rfl).1.symm, (hm.limits rfl).2.symm⟩ | exact .inl ⟨(hm.aer rfl).1.symm, (hm.aer rfl).2.1.symm, (hm.aer rfl).2.2.1.symm, (hm.aer rfl).2.2.2.symm⟩ | exact .inl ⟨(hm.reply rfl).1.symm, (hm.reply rfl).2.symm⟩ | exact .inl (hm.masked rfl).symm | exact .inl ⟨(hm.area rfl).1.symm, (hm.area rfl).2.symm⟩ | exact (hm.top_eq rfl rfl rfl rfl).symm ▸ rfl | exact fun x => Memory.wipe_wf _ _ _ (hs.dramWf x)

theorem flrClose_keeps (s : State) (p_free : m .free = true) (p_out : m .out = true) (p_dev : m .dev = true) (p_slots : m .slots = true) (p_records : m .records = true) (p_events : m .events = true) (p_pba : m .pba = true) (p_hostMem : m .hostMem = true) (p_time : m .time = true) (p_web : m .web = true) (p_axis : m .axis = true) (p_frames : m .frames = true) (p_prn : m .prn = true) (p_fire : m .fire = true) (p_cal : m .cal = true) (p_scan : m .scan = true) (p_mem : m .mem = true) (hs : Keeps m r s) : Keeps m r (flrClose s) := by
  unfold flrClose
  repeat' first | intro _ | (with_reducible first | assumption | apply State.useFree_keeps | apply raise_keeps | apply closeJob_keeps | apply scanGone_keeps | apply endLfRuns_keeps | apply ite_keeps | apply foldl_keeps) | (with_reducible apply State.keeps_mk <;> first | exact .inr ‹_› | exact .inl rfl | exact .inl ⟨rfl, rfl⟩ | exact .inl ⟨rfl, rfl, rfl⟩ | exact .inl ⟨rfl, rfl, rfl, rfl⟩ | exact .inl ⟨rfl, rfl, rfl, rfl, rfl⟩ | skip) | rfl | exact OtpLe.refl _ | split | (extract_lets; split) | (dsimp +zetaDelta only; split)

theorem flrTriggers_keeps (s : State) (p_time : m .time = true) (hs : Keeps m r s) : Keeps m r (flrTriggers s) := by
  unfold flrTriggers
  repeat' first | intro _ | (with_reducible first | assumption | apply State.setTrig_keeps | apply freeTrig_keeps | apply ite_keeps | apply foldl_keeps) | split | (extract_lets; split) | (with_reducible apply State.keeps_mk <;> first | exact .inr ‹_› | exact .inl rfl | exact .inl ⟨rfl, rfl⟩ | exact .inl ⟨rfl, rfl, rfl⟩ | exact .inl ⟨rfl, rfl, rfl, rfl⟩ | exact .inl ⟨rfl, rfl, rfl, rfl, rfl⟩ | skip) | rfl | exact OtpLe.refl _ | split | (extract_lets; split) | (dsimp +zetaDelta only; split)

theorem functionReset_keeps (s : State) (p_free : m .free = true) (p_out : m .out = true) (p_dev : m .dev = true) (p_rings : m .rings = true) (p_slots : m .slots = true) (p_records : m .records = true) (p_events : m .events = true) (p_bufs : m .bufs = true) (p_pulls : m .pulls = true) (p_winDrop : m .winDrop = true) (p_link : m .link = true) (p_limits : m .limits = true) (p_msix : m .msix = true) (p_pba : m .pba = true) (p_dram : m .dram = true) (p_poison : m .poison = true) (p_hostMem : m .hostMem = true) (p_time : m .time = true) (p_web : m .web = true) (p_axis : m .axis = true) (p_frames : m .frames = true) (p_prn : m .prn = true) (p_fire : m .fire = true) (p_rein : m .rein = true) (p_cal : m .cal = true) (p_scan : m .scan = true) (p_cam : m .cam = true) (p_mem : m .mem = true) (hs : Keeps m r s) : Keeps m r (functionReset s) := by
  unfold functionReset
  split
  · exact hs
  · exact hs
  · apply State.keeps_mk hs <;>
      first
        | exact .inr ‹_› | exact .inl rfl | exact .inl ⟨rfl, rfl⟩ | exact .inl ⟨rfl, rfl, rfl⟩ | exact .inl ⟨rfl, rfl, rfl, rfl⟩
        | exact .inl ⟨rfl, rfl, rfl, rfl, rfl⟩ | rfl | exact OtpLe.refl _
  all_goals
    apply flrTriggers_keeps <;> with_reducible first | assumption | skip
    apply flrClose_keeps <;> with_reducible first | assumption | skip
    apply flrClear_keeps <;> with_reducible first | assumption | skip
    apply flrHalt_keeps <;> with_reducible first | assumption | skip
    apply State.keeps_mk hs <;>
      first
        | exact .inr ‹_› | exact .inl rfl | exact .inl ⟨rfl, rfl⟩ | exact .inl ⟨rfl, rfl, rfl⟩ | exact .inl ⟨rfl, rfl, rfl, rfl⟩
        | exact .inl ⟨rfl, rfl, rfl, rfl, rfl⟩ | rfl | exact OtpLe.refl _

theorem execFlr_keeps (s : State) (p_free : m .free = true) (p_out : m .out = true) (p_dev : m .dev = true) (p_rings : m .rings = true) (p_slots : m .slots = true) (p_records : m .records = true) (p_events : m .events = true) (p_bufs : m .bufs = true) (p_pulls : m .pulls = true) (p_winDrop : m .winDrop = true) (p_link : m .link = true) (p_limits : m .limits = true) (p_msix : m .msix = true) (p_pba : m .pba = true) (p_dram : m .dram = true) (p_poison : m .poison = true) (p_hostMem : m .hostMem = true) (p_time : m .time = true) (p_web : m .web = true) (p_axis : m .axis = true) (p_frames : m .frames = true) (p_prn : m .prn = true) (p_fire : m .fire = true) (p_rein : m .rein = true) (p_cal : m .cal = true) (p_scan : m .scan = true) (p_cam : m .cam = true) (p_mem : m .mem = true) (hs : Keeps m r s) : OutKeeps m r (execFlr s) := by
  unfold execFlr
  repeat' first | intro _ | (with_reducible first | assumption | apply OutKeeps.next | apply OutKeeps.fault | apply ite_outKeeps | apply functionReset_keeps | apply ite_keeps | apply foldl_keeps) | (with_reducible apply State.keeps_mk <;> first | exact .inr ‹_› | exact .inl rfl | exact .inl ⟨rfl, rfl⟩ | exact .inl ⟨rfl, rfl, rfl⟩ | exact .inl ⟨rfl, rfl, rfl, rfl⟩ | exact .inl ⟨rfl, rfl, rfl, rfl, rfl⟩ | skip) | rfl | exact OtpLe.refl _ | split | (extract_lets; split) | (dsimp +zetaDelta only; split)

theorem execHotReset_keeps (s : State) (p_free : m .free = true) (p_out : m .out = true) (p_dev : m .dev = true) (p_rings : m .rings = true) (p_slots : m .slots = true) (p_records : m .records = true) (p_events : m .events = true) (p_bufs : m .bufs = true) (p_pulls : m .pulls = true) (p_winDrop : m .winDrop = true) (p_link : m .link = true) (p_limits : m .limits = true) (p_msix : m .msix = true) (p_pba : m .pba = true) (p_dram : m .dram = true) (p_poison : m .poison = true) (p_hostMem : m .hostMem = true) (p_time : m .time = true) (p_web : m .web = true) (p_axis : m .axis = true) (p_frames : m .frames = true) (p_prn : m .prn = true) (p_fire : m .fire = true) (p_rein : m .rein = true) (p_cal : m .cal = true) (p_scan : m .scan = true) (p_cam : m .cam = true) (p_mem : m .mem = true) (hs : Keeps m r s) : OutKeeps m r (execHotReset s) := by
  unfold execHotReset
  repeat' first | intro _ | (with_reducible first | assumption | apply OutKeeps.next | apply OutKeeps.fault | apply ite_outKeeps | apply functionReset_keeps | apply ite_keeps | apply foldl_keeps) | (with_reducible apply State.keeps_mk <;> first | exact .inr ‹_› | exact .inl rfl | exact .inl ⟨rfl, rfl⟩ | exact .inl ⟨rfl, rfl, rfl⟩ | exact .inl ⟨rfl, rfl, rfl, rfl⟩ | exact .inl ⟨rfl, rfl, rfl, rfl, rfl⟩ | skip) | rfl | exact OtpLe.refl _ | split | (extract_lets; split) | (dsimp +zetaDelta only; split)

theorem execFlrWipeDone_keeps (s : State) (p_link : m .link = true) (hs : Keeps m r s) : OutKeeps m r (execFlrWipeDone s) := by
  unfold execFlrWipeDone
  repeat' first | intro _ | (with_reducible first | assumption | apply OutKeeps.next | apply OutKeeps.fault | apply ite_outKeeps | apply ite_keeps | apply foldl_keeps) | (with_reducible apply State.keeps_mk <;> first | exact .inr ‹_› | exact .inl rfl | exact .inl ⟨rfl, rfl⟩ | exact .inl ⟨rfl, rfl, rfl⟩ | exact .inl ⟨rfl, rfl, rfl, rfl⟩ | exact .inl ⟨rfl, rfl, rfl, rfl, rfl⟩ | skip) | rfl | exact OtpLe.refl _ | split | (extract_lets; split) | (dsimp +zetaDelta only; split)

theorem execPcieLinkDown_keeps (s : State) (p_out : m .out = true) (p_dev : m .dev = true) (p_slots : m .slots = true) (p_records : m .records = true) (p_events : m .events = true) (p_link : m .link = true) (p_pba : m .pba = true) (p_hostMem : m .hostMem = true) (p_time : m .time = true) (p_axis : m .axis = true) (p_frames : m .frames = true) (p_fire : m .fire = true) (p_rein : m .rein = true) (p_cam : m .cam = true) (hs : Keeps m r s) : OutKeeps m r (execPcieLinkDown s) := by
  unfold execPcieLinkDown
  repeat' first | intro _ | (with_reducible first | assumption | apply OutKeeps.next | apply OutKeeps.fault | apply ite_outKeeps | apply linkLost_keeps | apply ite_keeps | apply foldl_keeps) | (with_reducible apply State.keeps_mk <;> first | exact .inr ‹_› | exact .inl rfl | exact .inl ⟨rfl, rfl⟩ | exact .inl ⟨rfl, rfl, rfl⟩ | exact .inl ⟨rfl, rfl, rfl, rfl⟩ | exact .inl ⟨rfl, rfl, rfl, rfl, rfl⟩ | skip) | rfl | exact OtpLe.refl _ | split | (extract_lets; split) | (dsimp +zetaDelta only; split)

theorem execD3hotEntry_keeps (s : State) (p_out : m .out = true) (p_dev : m .dev = true) (p_slots : m .slots = true) (p_records : m .records = true) (p_events : m .events = true) (p_link : m .link = true) (p_pba : m .pba = true) (p_hostMem : m .hostMem = true) (p_time : m .time = true) (p_axis : m .axis = true) (p_frames : m .frames = true) (p_fire : m .fire = true) (p_rein : m .rein = true) (p_cam : m .cam = true) (hs : Keeps m r s) : OutKeeps m r (execD3hotEntry s) := by
  unfold execD3hotEntry
  repeat' first | intro _ | (with_reducible first | assumption | apply OutKeeps.next | apply OutKeeps.fault | apply ite_outKeeps | apply pcieGone_keeps | apply ite_keeps | apply foldl_keeps) | (with_reducible apply State.keeps_mk <;> first | exact .inr ‹_› | exact .inl rfl | exact .inl ⟨rfl, rfl⟩ | exact .inl ⟨rfl, rfl, rfl⟩ | exact .inl ⟨rfl, rfl, rfl, rfl⟩ | exact .inl ⟨rfl, rfl, rfl, rfl, rfl⟩ | skip) | rfl | exact OtpLe.refl _ | split | (extract_lets; split) | (dsimp +zetaDelta only; split)

theorem execPcieLinkUp_keeps (s : State) (p_out : m .out = true) (p_pulls : m .pulls = true) (p_link : m .link = true) (p_pba : m .pba = true) (hs : Keeps m r s) : OutKeeps m r (execPcieLinkUp s) := by
  unfold execPcieLinkUp
  repeat' first | intro _ | (with_reducible first | assumption | apply OutKeeps.next | apply OutKeeps.fault | apply ite_outKeeps | apply resumeRequests_keeps | apply ite_keeps | apply foldl_keeps) | (with_reducible apply State.keeps_mk <;> first | exact .inr ‹_› | exact .inl rfl | exact .inl ⟨rfl, rfl⟩ | exact .inl ⟨rfl, rfl, rfl⟩ | exact .inl ⟨rfl, rfl, rfl, rfl⟩ | exact .inl ⟨rfl, rfl, rfl, rfl, rfl⟩ | skip) | rfl | exact OtpLe.refl _ | split | (extract_lets; split) | (dsimp +zetaDelta only; split)

theorem execBar0BadAccess_keeps (write : Bool) (s : State) (p_reply : m .reply = true) (p_aer : m .aer = true) (hs : Keeps m r s) : OutKeeps m r (execBar0BadAccess write s) := by
  unfold execBar0BadAccess
  repeat' first | intro _ | (with_reducible first | assumption | apply OutKeeps.next | apply OutKeeps.fault | apply ite_outKeeps | apply ite_keeps | apply foldl_keeps) | (with_reducible apply State.keeps_mk <;> first | exact .inr ‹_› | exact .inl rfl | exact .inl ⟨rfl, rfl⟩ | exact .inl ⟨rfl, rfl, rfl⟩ | exact .inl ⟨rfl, rfl, rfl, rfl⟩ | exact .inl ⟨rfl, rfl, rfl, rfl, rfl⟩ | skip) | rfl | exact OtpLe.refl _ | split | (extract_lets; split) | (dsimp +zetaDelta only; split)

theorem execBar2Write_keeps (offset : Nat) (bytes : List Byte) (s : State) (p_winDrop : m .winDrop = true) (p_dram : m .dram = true) (p_poison : m .poison = true) (hs : Keeps m r s) : OutKeeps m r (execBar2Write offset bytes s) := by
  unfold execBar2Write
  repeat' first | intro _ | (with_reducible first | assumption | apply OutKeeps.next | apply OutKeeps.fault | apply ite_outKeeps | apply dramStore_keeps | apply ite_keeps | apply foldl_keeps) | (with_reducible apply State.keeps_mk <;> first | exact .inr ‹_› | exact .inl rfl | exact .inl ⟨rfl, rfl⟩ | exact .inl ⟨rfl, rfl, rfl⟩ | exact .inl ⟨rfl, rfl, rfl, rfl⟩ | exact .inl ⟨rfl, rfl, rfl, rfl, rfl⟩ | skip) | rfl | exact OtpLe.refl _ | split | (extract_lets; split) | (dsimp +zetaDelta only; split)

theorem notePoison_keeps (bursts : Tab Bool) (s : State) (p_out : m .out = true) (p_events : m .events = true) (p_pba : m .pba = true) (p_hostMem : m .hostMem = true) (p_mem : m .mem = true) (hs : Keeps m r s) : Keeps m r (notePoison bursts s) := by
  unfold notePoison
  repeat' first | intro _ | (with_reducible first | assumption | apply noteUncorrectable_keeps | apply ite_keeps | apply foldl_keeps) | (with_reducible apply State.keeps_mk <;> first | exact .inr ‹_› | exact .inl rfl | exact .inl ⟨rfl, rfl⟩ | exact .inl ⟨rfl, rfl, rfl⟩ | exact .inl ⟨rfl, rfl, rfl, rfl⟩ | exact .inl ⟨rfl, rfl, rfl, rfl, rfl⟩ | skip) | rfl | exact OtpLe.refl _ | split | (extract_lets; split) | (dsimp +zetaDelta only; split)

theorem execBar2Read_keeps (offset : Nat) (len : Nat) (s : State) (p_out : m .out = true) (p_events : m .events = true) (p_reply : m .reply = true) (p_pba : m .pba = true) (p_hostMem : m .hostMem = true) (p_mem : m .mem = true) (hs : Keeps m r s) : OutKeeps m r (execBar2Read offset len s) := by
  unfold execBar2Read
  repeat' first | intro _ | (with_reducible first | assumption | apply OutKeeps.next | apply OutKeeps.fault | apply ite_outKeeps | apply notePoison_keeps | apply ite_keeps | apply foldl_keeps) | (with_reducible apply State.keeps_mk <;> first | exact .inr ‹_› | exact .inl rfl | exact .inl ⟨rfl, rfl⟩ | exact .inl ⟨rfl, rfl, rfl⟩ | exact .inl ⟨rfl, rfl, rfl, rfl⟩ | exact .inl ⟨rfl, rfl, rfl, rfl, rfl⟩ | skip) | rfl | exact OtpLe.refl _ | split | (extract_lets; split) | (dsimp +zetaDelta only; split)

theorem execHpenCtrlWrite_keeps (v : Word) (s : State) (p_hpen : m .hpen = true) (hs : Keeps m r s) : OutKeeps m r (execHpenCtrlWrite v s) := by
  unfold execHpenCtrlWrite
  repeat' first | intro _ | (with_reducible first | assumption | apply OutKeeps.next | apply OutKeeps.fault | apply ite_outKeeps | apply ite_keeps | apply foldl_keeps) | (with_reducible apply State.keeps_mk <;> first | exact .inr ‹_› | exact .inl rfl | exact .inl ⟨rfl, rfl⟩ | exact .inl ⟨rfl, rfl, rfl⟩ | exact .inl ⟨rfl, rfl, rfl, rfl⟩ | exact .inl ⟨rfl, rfl, rfl, rfl, rfl⟩ | skip) | rfl | exact OtpLe.refl _ | split | (extract_lets; split) | (dsimp +zetaDelta only; split)

end Sys2Proof.Machine
end

