-- ==== Sys2Proof/Laws/KeepsNode.lean ====
section
/-! SUPPORT. `Keeps` for the definitions of Machine/Node.lean, one lemma for each. -/

set_option linter.all false
set_option Elab.async false
set_option maxRecDepth 4000
namespace Sys2Proof.Machine

variable {m : Part → Bool} {r : State}

theorem State.setCnode_keeps (s : State) (n : Nat) (c : ChainNode) (p_chain : m .chain = true) (hs : Keeps m r s) : Keeps m r (State.setCnode s n c) := by
  unfold State.setCnode
  repeat' first | intro _ | (with_reducible first | assumption | apply ite_keeps | apply foldl_keeps) | (with_reducible apply State.keeps_mk <;> first | exact .inr ‹_› | exact .inl rfl | exact .inl ⟨rfl, rfl⟩ | exact .inl ⟨rfl, rfl, rfl⟩ | exact .inl ⟨rfl, rfl, rfl, rfl⟩ | exact .inl ⟨rfl, rfl, rfl, rfl, rfl⟩ | skip) | rfl | exact OtpLe.refl _ | split | (extract_lets; split) | (dsimp +zetaDelta only; split)

theorem holdFire_keeps (n : Nat) (s : State) (p_out : m .out = true) (hs : Keeps m r s) : Keeps m r (holdFire n s) := by
  unfold holdFire
  repeat' first | intro _ | (with_reducible first | assumption | apply ite_keeps | apply foldl_keeps) | (with_reducible apply State.keeps_mk <;> first | exact .inr ‹_› | exact .inl rfl | exact .inl ⟨rfl, rfl⟩ | exact .inl ⟨rfl, rfl, rfl⟩ | exact .inl ⟨rfl, rfl, rfl, rfl⟩ | exact .inl ⟨rfl, rfl, rfl, rfl, rfl⟩ | skip) | rfl | exact OtpLe.refl _ | split | (extract_lets; split) | (dsimp +zetaDelta only; split)

theorem nodeSend_keeps (n : Nat) (bs : List Byte) (s : State) (p_out : m .out = true) (hs : Keeps m r s) : Keeps m r (nodeSend n bs s) := by
  unfold nodeSend
  repeat' first | intro _ | (with_reducible first | assumption | apply State.emit_keeps | apply ite_keeps | apply foldl_keeps) | (with_reducible apply State.keeps_mk <;> first | exact .inr ‹_› | exact .inl rfl | exact .inl ⟨rfl, rfl⟩ | exact .inl ⟨rfl, rfl, rfl⟩ | exact .inl ⟨rfl, rfl, rfl, rfl⟩ | exact .inl ⟨rfl, rfl, rfl, rfl, rfl⟩ | skip) | rfl | exact OtpLe.refl _ | split | (extract_lets; split) | (dsimp +zetaDelta only; split)

theorem nodeForward_keeps (n : Nat) (portB : Bool) (bs : List Byte) (s : State) (p_out : m .out = true) (hs : Keeps m r s) : Keeps m r (nodeForward n portB bs s) := by
  unfold nodeForward
  repeat' first | intro _ | (with_reducible first | assumption | apply State.emit_keeps | apply ite_keeps | apply foldl_keeps) | (with_reducible apply State.keeps_mk <;> first | exact .inr ‹_› | exact .inl rfl | exact .inl ⟨rfl, rfl⟩ | exact .inl ⟨rfl, rfl, rfl⟩ | exact .inl ⟨rfl, rfl, rfl, rfl⟩ | exact .inl ⟨rfl, rfl, rfl, rfl, rfl⟩ | skip) | rfl | exact OtpLe.refl _ | split | (extract_lets; split) | (dsimp +zetaDelta only; split)

theorem controlReq_keeps (n : Nat) (data : List Byte) (s : State) (p_out : m .out = true) (p_chain : m .chain = true) (hs : Keeps m r s) : Keeps m r (controlReq n data s) := by
  unfold controlReq
  repeat' first | intro _ | (with_reducible first | assumption | apply State.setCnode_keeps | apply nodeSend_keeps | apply ite_keeps | apply foldl_keeps) | split | (extract_lets; split) | (with_reducible apply State.keeps_mk <;> first | exact .inr ‹_› | exact .inl rfl | exact .inl ⟨rfl, rfl⟩ | exact .inl ⟨rfl, rfl, rfl⟩ | exact .inl ⟨rfl, rfl, rfl, rfl⟩ | exact .inl ⟨rfl, rfl, rfl, rfl, rfl⟩ | skip) | rfl | exact OtpLe.refl _ | split | (extract_lets; split) | (dsimp +zetaDelta only; split)

theorem acceptFrame_keeps (n : Nat) (f : RxFrame) (s : State) (p_out : m .out = true) (p_chain : m .chain = true) (hs : Keeps m r s) : Keeps m r (acceptFrame n f s) := by
  unfold acceptFrame
  repeat' first | intro _ | (with_reducible first | assumption | apply State.setCnode_keeps | apply holdFire_keeps | apply controlReq_keeps | apply ite_keeps | apply foldl_keeps) | (with_reducible apply State.keeps_mk <;> first | exact .inr ‹_› | exact .inl rfl | exact .inl ⟨rfl, rfl⟩ | exact .inl ⟨rfl, rfl, rfl⟩ | exact .inl ⟨rfl, rfl, rfl, rfl⟩ | exact .inl ⟨rfl, rfl, rfl, rfl, rfl⟩ | skip) | rfl | exact OtpLe.refl _ | split | (extract_lets; split) | (dsimp +zetaDelta only; split)

theorem receiveFrame_keeps (n : Nat) (portB : Bool) (bytes : List Byte) (only : Option Nat) (s0 : State) (p_out : m .out = true) (p_chain : m .chain = true) (hs0 : Keeps m r s0) : Keeps m r (receiveFrame n portB bytes only s0) := by
  unfold receiveFrame
  repeat' first | intro _ | (with_reducible first | assumption | apply State.setCnode_keeps | apply holdFire_keeps | apply nodeSend_keeps | apply nodeForward_keeps | apply controlReq_keeps | apply acceptFrame_keeps | apply ite_keeps | apply foldl_keeps) | split | (extract_lets; split) | (with_reducible apply State.keeps_mk <;> first | exact .inr ‹_› | exact .inl rfl | exact .inl ⟨rfl, rfl⟩ | exact .inl ⟨rfl, rfl, rfl⟩ | exact .inl ⟨rfl, rfl, rfl, rfl⟩ | exact .inl ⟨rfl, rfl, rfl, rfl, rfl⟩ | skip) | rfl | exact OtpLe.refl _ | split | (extract_lets; split) | (dsimp +zetaDelta only; split)

theorem execNodeDownstreamFrame_keeps (node : Nat) (portB : Bool) (bytes : List Byte) (s : State) (p_out : m .out = true) (p_chain : m .chain = true) (hs : Keeps m r s) : OutKeeps m r (execNodeDownstreamFrame node portB bytes s) := by
  unfold execNodeDownstreamFrame
  repeat' first | intro _ | (with_reducible first | assumption | apply OutKeeps.next | apply OutKeeps.fault | apply ite_outKeeps | apply receiveFrame_keeps | apply ite_keeps | apply foldl_keeps) | (with_reducible apply State.keeps_mk <;> first | exact .inr ‹_› | exact .inl rfl | exact .inl ⟨rfl, rfl⟩ | exact .inl ⟨rfl, rfl, rfl⟩ | exact .inl ⟨rfl, rfl, rfl, rfl⟩ | exact .inl ⟨rfl, rfl, rfl, rfl, rfl⟩ | skip) | rfl | exact OtpLe.refl _ | split | (extract_lets; split) | (dsimp +zetaDelta only; split)

theorem execNodeCtrlReq_keeps (node : Nat) (portB : Bool) (bytes : List Byte) (s : State) (p_out : m .out = true) (p_chain : m .chain = true) (hs : Keeps m r s) : OutKeeps m r (execNodeCtrlReq node portB bytes s) := by
  unfold execNodeCtrlReq
  repeat' first | intro _ | (with_reducible first | assumption | apply OutKeeps.next | apply OutKeeps.fault | apply ite_outKeeps | apply receiveFrame_keeps | apply ite_keeps | apply foldl_keeps) | (with_reducible apply State.keeps_mk <;> first | exact .inr ‹_› | exact .inl rfl | exact .inl ⟨rfl, rfl⟩ | exact .inl ⟨rfl, rfl, rfl⟩ | exact .inl ⟨rfl, rfl, rfl, rfl⟩ | exact .inl ⟨rfl, rfl, rfl, rfl, rfl⟩ | skip) | rfl | exact OtpLe.refl _ | split | (extract_lets; split) | (dsimp +zetaDelta only; split)

theorem blockError_keeps (n : Nat) (s : State) (p_chain : m .chain = true) (hs : Keeps m r s) : Keeps m r (blockError n s) := by
  unfold blockError
  repeat' first | intro _ | (with_reducible first | assumption | apply State.setCnode_keeps | apply ite_keeps | apply foldl_keeps) | (with_reducible apply State.keeps_mk <;> first | exact .inr ‹_› | exact .inl rfl | exact .inl ⟨rfl, rfl⟩ | exact .inl ⟨rfl, rfl, rfl⟩ | exact .inl ⟨rfl, rfl, rfl, rfl⟩ | exact .inl ⟨rfl, rfl, rfl, rfl, rfl⟩ | skip) | rfl | exact OtpLe.refl _ | split | (extract_lets; split) | (dsimp +zetaDelta only; split)

theorem execNodeHalterBlock_keeps (node : Nat) (portB : Bool) (bytes : List Byte) (s0 : State) (p_out : m .out = true) (p_chain : m .chain = true) (hs0 : Keeps m r s0) : OutKeeps m r (execNodeHalterBlock node portB bytes s0) := by
  unfold execNodeHalterBlock
  repeat' first | intro _ | (with_reducible first | assumption | apply OutKeeps.next | apply OutKeeps.fault | apply ite_outKeeps | apply State.setCnode_keeps | apply holdFire_keeps | apply nodeForward_keeps | apply blockError_keeps | apply ite_keeps | apply foldl_keeps) | (with_reducible apply State.keeps_mk <;> first | exact .inr ‹_› | exact .inl rfl | exact .inl ⟨rfl, rfl⟩ | exact .inl ⟨rfl, rfl, rfl⟩ | exact .inl ⟨rfl, rfl, rfl, rfl⟩ | exact .inl ⟨rfl, rfl, rfl, rfl, rfl⟩ | skip) | rfl | exact OtpLe.refl _ | split | (extract_lets; split) | (dsimp +zetaDelta only; split)

theorem execNodeRunBlock_keeps (node : Nat) (portB : Bool) (bytes : List Byte) (s0 : State) (p_out : m .out = true) (p_chain : m .chain = true) (hs0 : Keeps m r s0) : OutKeeps m r (execNodeRunBlock node portB bytes s0) := by
  unfold execNodeRunBlock
  repeat' first | intro _ | (with_reducible first | assumption | apply OutKeeps.next | apply OutKeeps.fault | apply ite_outKeeps | apply State.setCnode_keeps | apply nodeForward_keeps | apply blockError_keeps | apply ite_keeps | apply foldl_keeps) | (with_reducible apply State.keeps_mk <;> first | exact .inr ‹_› | exact .inl rfl | exact .inl ⟨rfl, rfl⟩ | exact .inl ⟨rfl, rfl, rfl⟩ | exact .inl ⟨rfl, rfl, rfl, rfl⟩ | exact .inl ⟨rfl, rfl, rfl, rfl, rfl⟩ | skip) | rfl | exact OtpLe.refl _ | split | (extract_lets; split) | (dsimp +zetaDelta only; split)

theorem execNodeEcho_keeps (node : Nat) (portB : Bool) (bytes : List Byte) (s0 : State) (p_out : m .out = true) (p_chain : m .chain = true) (hs0 : Keeps m r s0) : OutKeeps m r (execNodeEcho node portB bytes s0) := by
  unfold execNodeEcho
  repeat' first | intro _ | (with_reducible first | assumption | apply OutKeeps.next | apply OutKeeps.fault | apply ite_outKeeps | apply State.emit_keeps | apply State.setCnode_keeps | apply nodeForward_keeps | apply blockError_keeps | apply ite_keeps | apply foldl_keeps) | (with_reducible apply State.keeps_mk <;> first | exact .inr ‹_› | exact .inl rfl | exact .inl ⟨rfl, rfl⟩ | exact .inl ⟨rfl, rfl, rfl⟩ | exact .inl ⟨rfl, rfl, rfl, rfl⟩ | exact .inl ⟨rfl, rfl, rfl, rfl, rfl⟩ | skip) | rfl | exact OtpLe.refl _ | split | (extract_lets; split) | (dsimp +zetaDelta only; split)

theorem execNodeLinkLoss_keeps (node : Nat) (lockLost : Bool) (s : State) (p_out : m .out = true) (p_chain : m .chain = true) (hs : Keeps m r s) : OutKeeps m r (execNodeLinkLoss node lockLost s) := by
  unfold execNodeLinkLoss
  repeat' first | intro _ | (with_reducible first | assumption | apply OutKeeps.next | apply OutKeeps.fault | apply ite_outKeeps | apply State.setCnode_keeps | apply holdFire_keeps | apply ite_keeps | apply foldl_keeps) | split | (extract_lets; split) | (with_reducible apply State.keeps_mk <;> first | exact .inr ‹_› | exact .inl rfl | exact .inl ⟨rfl, rfl⟩ | exact .inl ⟨rfl, rfl, rfl⟩ | exact .inl ⟨rfl, rfl, rfl, rfl⟩ | exact .inl ⟨rfl, rfl, rfl, rfl, rfl⟩ | skip) | rfl | exact OtpLe.refl _ | split | (extract_lets; split) | (dsimp +zetaDelta only; split)

theorem fireLine_keeps (n : Nat) (col : Nat) (b : Nat) (m1 : Int) (l : Option NodeLine) (tEff : Int) (period : Nat) (s : State) (p_out : m .out = true) (p_chain : m .chain = true) (hs : Keeps m r s) : Keeps m r (fireLine n col b m1 l tEff period s) := by
  unfold fireLine
  repeat' first | intro _ | (with_reducible first | assumption | apply State.emit_keeps | apply State.setCnode_keeps | apply ite_keeps | apply foldl_keeps) | split | (extract_lets; split) | (with_reducible apply State.keeps_mk <;> first | exact .inr ‹_› | exact .inl rfl | exact .inl ⟨rfl, rfl⟩ | exact .inl ⟨rfl, rfl, rfl⟩ | exact .inl ⟨rfl, rfl, rfl, rfl⟩ | exact .inl ⟨rfl, rfl, rfl, rfl, rfl⟩ | skip) | rfl | exact OtpLe.refl _ | split | (extract_lets; split) | (dsimp +zetaDelta only; split)

theorem fireColumn_keeps (n : Nat) (col : Nat) (tEff : Int) (period : Nat) (s : State) (p_out : m .out = true) (p_chain : m .chain = true) (hs : Keeps m r s) : Keeps m r (fireColumn n col tEff period s) := by
  unfold fireColumn
  repeat' first | intro _ | (with_reducible first | assumption | apply fireLine_keeps | apply ite_keeps | apply foldl_keeps) | split | (extract_lets; split) | (with_reducible apply State.keeps_mk <;> first | exact .inr ‹_› | exact .inl rfl | exact .inl ⟨rfl, rfl⟩ | exact .inl ⟨rfl, rfl, rfl⟩ | exact .inl ⟨rfl, rfl, rfl, rfl⟩ | exact .inl ⟨rfl, rfl, rfl, rfl, rfl⟩ | skip) | rfl | exact OtpLe.refl _ | split | (extract_lets; split) | (dsimp +zetaDelta only; split)

theorem headTick_keeps (n : Nat) (k : Nat) (skip : Bool) (phase : Nat) (period : Nat) (t : Int) (s : State) (p_out : m .out = true) (p_chain : m .chain = true) (hs : Keeps m r s) : Keeps m r (headTick n k skip phase period t s) := by
  unfold headTick
  repeat' first | intro _ | (with_reducible first | assumption | apply State.setCnode_keeps | apply fireColumn_keeps | apply ite_keeps | apply foldl_keeps) | split | (extract_lets; split) | (with_reducible apply State.keeps_mk <;> first | exact .inr ‹_› | exact .inl rfl | exact .inl ⟨rfl, rfl⟩ | exact .inl ⟨rfl, rfl, rfl⟩ | exact .inl ⟨rfl, rfl, rfl, rfl⟩ | exact .inl ⟨rfl, rfl, rfl, rfl, rfl⟩ | skip) | rfl | exact OtpLe.refl _ | split | (extract_lets; split) | (dsimp +zetaDelta only; split)

theorem purgeStep_keeps (n : Nat) (s : State) (p_out : m .out = true) (p_chain : m .chain = true) (hs : Keeps m r s) : Keeps m r (purgeStep n s) := by
  unfold purgeStep
  repeat' first | intro _ | (with_reducible first | assumption | apply State.emit_keeps | apply State.setCnode_keeps | apply ite_keeps | apply foldl_keeps) | (with_reducible apply State.keeps_mk <;> first | exact .inr ‹_› | exact .inl rfl | exact .inl ⟨rfl, rfl⟩ | exact .inl ⟨rfl, rfl, rfl⟩ | exact .inl ⟨rfl, rfl, rfl, rfl⟩ | exact .inl ⟨rfl, rfl, rfl, rfl, rfl⟩ | skip) | rfl | exact OtpLe.refl _ | split | (extract_lets; split) | (dsimp +zetaDelta only; split)

theorem panelTick_keeps (n : Nat) (k : Nat) (first : Bool) (period : Nat) (t : Int) (s : State) (p_out : m .out = true) (p_chain : m .chain = true) (hs : Keeps m r s) : Keeps m r (panelTick n k first period t s) := by
  unfold panelTick
  repeat' first | intro _ | (with_reducible first | assumption | apply State.emit_keeps | apply State.setCnode_keeps | apply ite_keeps | apply foldl_keeps) | split | (extract_lets; split) | (with_reducible apply State.keeps_mk <;> first | exact .inr ‹_› | exact .inl rfl | exact .inl ⟨rfl, rfl⟩ | exact .inl ⟨rfl, rfl, rfl⟩ | exact .inl ⟨rfl, rfl, rfl, rfl⟩ | exact .inl ⟨rfl, rfl, rfl, rfl, rfl⟩ | skip) | rfl | exact OtpLe.refl _ | split | (extract_lets; split) | (dsimp +zetaDelta only; split)

theorem panelStep_keeps (n : Nat) (s : State) (p_out : m .out = true) (p_chain : m .chain = true) (hs : Keeps m r s) : Keeps m r (panelStep n s) := by
  unfold panelStep
  repeat' first | intro _ | (with_reducible first | assumption | apply State.emit_keeps | apply State.setCnode_keeps | apply ite_keeps | apply foldl_keeps) | (with_reducible apply State.keeps_mk <;> first | exact .inr ‹_› | exact .inl rfl | exact .inl ⟨rfl, rfl⟩ | exact .inl ⟨rfl, rfl, rfl⟩ | exact .inl ⟨rfl, rfl, rfl, rfl⟩ | exact .inl ⟨rfl, rfl, rfl, rfl, rfl⟩ | skip) | rfl | exact OtpLe.refl _ | split | (extract_lets; split) | (dsimp +zetaDelta only; split)

theorem nodesStep_keeps (s : State) (p_out : m .out = true) (p_chain : m .chain = true) (hs : Keeps m r s) : Keeps m r (nodesStep s) := by
  unfold nodesStep
  repeat' first | intro _ | (with_reducible first | assumption | apply purgeStep_keeps | apply panelStep_keeps | apply ite_keeps | apply foldl_keeps) | (with_reducible apply State.keeps_mk <;> first | exact .inr ‹_› | exact .inl rfl | exact .inl ⟨rfl, rfl⟩ | exact .inl ⟨rfl, rfl, rfl⟩ | exact .inl ⟨rfl, rfl, rfl, rfl⟩ | exact .inl ⟨rfl, rfl, rfl, rfl, rfl⟩ | skip) | rfl | exact OtpLe.refl _ | split | (extract_lets; split) | (dsimp +zetaDelta only; split)

theorem execNodeTick_keeps (node : Nat) (portB : Bool) (bytes : List Byte) (tRx : Int) (s0 : State) (p_out : m .out = true) (p_chain : m .chain = true) (hs0 : Keeps m r s0) : OutKeeps m r (execNodeTick node portB bytes tRx s0) := by
  unfold execNodeTick
  repeat' first | intro _ | (with_reducible first | assumption | apply OutKeeps.next | apply OutKeeps.fault | apply ite_outKeeps | apply State.setCnode_keeps | apply nodeForward_keeps | apply blockError_keeps | apply headTick_keeps | apply panelTick_keeps | apply ite_keeps | apply foldl_keeps) | (with_reducible apply State.keeps_mk <;> first | exact .inr ‹_› | exact .inl rfl | exact .inl ⟨rfl, rfl⟩ | exact .inl ⟨rfl, rfl, rfl⟩ | exact .inl ⟨rfl, rfl, rfl, rfl⟩ | exact .inl ⟨rfl, rfl, rfl, rfl, rfl⟩ | skip) | rfl | exact OtpLe.refl _ | split | (extract_lets; split) | (dsimp +zetaDelta only; split)

theorem execNodeKeepWarmIdle_keeps (node : Nat) (s : State) (p_out : m .out = true) (p_chain : m .chain = true) (hs : Keeps m r s) : OutKeeps m r (execNodeKeepWarmIdle node s) := by
  unfold execNodeKeepWarmIdle
  repeat' first | intro _ | (with_reducible first | assumption | apply OutKeeps.next | apply OutKeeps.fault | apply ite_outKeeps | apply State.emit_keeps | apply State.setCnode_keeps | apply ite_keeps | apply foldl_keeps) | (with_reducible apply State.keeps_mk <;> first | exact .inr ‹_› | exact .inl rfl | exact .inl ⟨rfl, rfl⟩ | exact .inl ⟨rfl, rfl, rfl⟩ | exact .inl ⟨rfl, rfl, rfl, rfl⟩ | exact .inl ⟨rfl, rfl, rfl, rfl, rfl⟩ | skip) | rfl | exact OtpLe.refl _ | split | (extract_lets; split) | (dsimp +zetaDelta only; split)

theorem execNodeStatusTimer_keeps (node : Nat) (temps : List Nat) (mv : Nat) (cur : Nat) (nhFail : Nat) (overtemp : Bool) (supplyFault : Bool) (s : State) (p_out : m .out = true) (p_chain : m .chain = true) (hs : Keeps m r s) : OutKeeps m r (execNodeStatusTimer node temps mv cur nhFail overtemp supplyFault s) := by
  unfold execNodeStatusTimer
  repeat' first | intro _ | (with_reducible first | assumption | apply OutKeeps.next | apply OutKeeps.fault | apply ite_outKeeps | apply State.setCnode_keeps | apply holdFire_keeps | apply nodeSend_keeps | apply ite_keeps | apply foldl_keeps) | (with_reducible apply State.keeps_mk <;> first | exact .inr ‹_› | exact .inl rfl | exact .inl ⟨rfl, rfl⟩ | exact .inl ⟨rfl, rfl, rfl⟩ | exact .inl ⟨rfl, rfl, rfl, rfl⟩ | exact .inl ⟨rfl, rfl, rfl, rfl, rfl⟩ | skip) | rfl | exact OtpLe.refl _ | split | (extract_lets; split) | (dsimp +zetaDelta only; split)

end Sys2Proof.Machine
end

