-- ==== Sys2Proof/Laws/KeepsPtp.lean ====
section
/-! SUPPORT. `Keeps` for the definitions of Machine/Ptp.lean, one lemma for each. -/

set_option linter.all false
set_option Elab.async false
set_option maxRecDepth 4000
namespace Sys2Proof.Machine

variable {m : Part → Bool} {r : State}

theorem sendPtp_keeps (p : Nat) (m1 : PtpMsg) (s : State) (p_out : m .out = true) (hs : Keeps m r s) : Keeps m r (sendPtp p m1 s) := by
  unfold sendPtp
  repeat' first | intro _ | (with_reducible first | assumption | apply State.emit_keeps | apply ite_keeps | apply foldl_keeps) | (with_reducible apply State.keeps_mk <;> first | exact .inr ‹_› | exact .inl rfl | exact .inl ⟨rfl, rfl⟩ | exact .inl ⟨rfl, rfl, rfl⟩ | exact .inl ⟨rfl, rfl, rfl, rfl⟩ | exact .inl ⟨rfl, rfl, rfl, rfl, rfl⟩ | skip) | rfl | exact OtpLe.refl _ | split | (extract_lets; split) | (dsimp +zetaDelta only; split)

theorem runBmca_keeps (s : State) (p_out : m .out = true) (p_events : m .events = true) (p_pba : m .pba = true) (p_hostMem : m .hostMem = true) (p_time : m .time = true) (hs : Keeps m r s) : Keeps m r (runBmca s) := by
  unfold runBmca
  repeat' first | intro _ | (with_reducible first | assumption | apply raise_keeps | apply State.withTime_keeps | apply setServo_keeps | apply setPtp_keeps | apply freeServo_keeps | apply ite_keeps | apply foldl_keeps) | split | (extract_lets; split) | exact .inr ‹_› | exact .inr (fun _ => ⟨rfl, rfl⟩) | exact .inl ‹_› | (with_reducible apply State.keeps_mk <;> first | exact .inr ‹_› | exact .inl rfl | exact .inl ⟨rfl, rfl⟩ | exact .inl ⟨rfl, rfl, rfl⟩ | exact .inl ⟨rfl, rfl, rfl, rfl⟩ | exact .inl ⟨rfl, rfl, rfl, rfl, rfl⟩ | skip) | rfl | exact OtpLe.refl _ | split | (extract_lets; split) | (dsimp +zetaDelta only; split)

theorem servoSync_keeps (offset : Int) (s0 : State) (p_free : m .free = true) (p_out : m .out = true) (p_events : m .events = true) (p_pba : m .pba = true) (p_hostMem : m .hostMem = true) (p_clock : m .clock = true) (p_time : m .time = true) (hs0 : Keeps m r s0) : Keeps m r (servoSync offset s0) := by
  unfold servoSync
  repeat' first | intro _ | (with_reducible first | assumption | apply State.useFree_keeps | apply State.withTime_keeps | apply setServo_keeps | apply stepTime_keeps | apply ite_keeps | apply foldl_keeps) | exact .inr ‹_› | exact .inr (fun _ => ⟨rfl, rfl⟩) | exact .inl ‹_› | (with_reducible apply State.keeps_mk <;> first | exact .inr ‹_› | exact .inl rfl | exact .inl ⟨rfl, rfl⟩ | exact .inl ⟨rfl, rfl, rfl⟩ | exact .inl ⟨rfl, rfl, rfl, rfl⟩ | exact .inl ⟨rfl, rfl, rfl, rfl, rfl⟩ | skip) | rfl | exact OtpLe.refl _ | split | (extract_lets; split) | (dsimp +zetaDelta only; split)

theorem useSync_keeps (p : Nat) (t1 : Int) (t2 : Int) (log : Int) (s : State) (p_free : m .free = true) (p_out : m .out = true) (p_events : m .events = true) (p_pba : m .pba = true) (p_hostMem : m .hostMem = true) (p_clock : m .clock = true) (p_time : m .time = true) (hs : Keeps m r s) : Keeps m r (useSync p t1 t2 log s) := by
  unfold useSync
  repeat' first | intro _ | (with_reducible first | assumption | apply State.setPort_keeps | apply setServo_keeps | apply setPtp_keeps | apply servoSync_keeps | apply ite_keeps | apply foldl_keeps) | (with_reducible apply State.keeps_mk <;> first | exact .inr ‹_› | exact .inl rfl | exact .inl ⟨rfl, rfl⟩ | exact .inl ⟨rfl, rfl, rfl⟩ | exact .inl ⟨rfl, rfl, rfl, rfl⟩ | exact .inl ⟨rfl, rfl, rfl, rfl, rfl⟩ | skip) | rfl | exact OtpLe.refl _ | split | (extract_lets; split) | (dsimp +zetaDelta only; split)

theorem setPath_keeps (p : Nat) (ps : Int) (s : State) (p_time : m .time = true) (hs : Keeps m r s) : Keeps m r (setPath p ps s) := by
  unfold setPath
  repeat' first | intro _ | (with_reducible first | assumption | apply State.withTime_keeps | apply State.setPort_keeps | apply ite_keeps | apply foldl_keeps) | exact .inr ‹_› | exact .inr (fun _ => ⟨rfl, rfl⟩) | exact .inl ‹_› | (with_reducible apply State.keeps_mk <;> first | exact .inr ‹_› | exact .inl rfl | exact .inl ⟨rfl, rfl⟩ | exact .inl ⟨rfl, rfl, rfl⟩ | exact .inl ⟨rfl, rfl, rfl, rfl⟩ | exact .inl ⟨rfl, rfl, rfl, rfl, rfl⟩ | skip) | rfl | exact OtpLe.refl _ | split | (extract_lets; split) | (dsimp +zetaDelta only; split)

theorem forward_keeps (p : Nat) (m1 : PtpMsg) (tRx : Int) (s : State) (p_out : m .out = true) (p_time : m .time = true) (hs : Keeps m r s) : Keeps m r (forward p m1 tRx s) := by
  unfold forward
  repeat' first | intro _ | (with_reducible first | assumption | apply State.setPort_keeps | apply sendPtp_keeps | apply ite_keeps | apply foldl_keeps) | split | (extract_lets; split) | (with_reducible apply State.keeps_mk <;> first | exact .inr ‹_› | exact .inl rfl | exact .inl ⟨rfl, rfl⟩ | exact .inl ⟨rfl, rfl, rfl⟩ | exact .inl ⟨rfl, rfl, rfl, rfl⟩ | exact .inl ⟨rfl, rfl, rfl, rfl, rfl⟩ | skip) | rfl | exact OtpLe.refl _ | split | (extract_lets; split) | (dsimp +zetaDelta only; split)

theorem answerPdelay_keeps (p : Nat) (h : PtpHeader) (tRx : Int) (s : State) (p_out : m .out = true) (hs : Keeps m r s) : Keeps m r (answerPdelay p h tRx s) := by
  unfold answerPdelay
  repeat' first | intro _ | (with_reducible first | assumption | apply sendPtp_keeps | apply ite_keeps | apply foldl_keeps) | (with_reducible apply State.keeps_mk <;> first | exact .inr ‹_› | exact .inl rfl | exact .inl ⟨rfl, rfl⟩ | exact .inl ⟨rfl, rfl, rfl⟩ | exact .inl ⟨rfl, rfl, rfl, rfl⟩ | exact .inl ⟨rfl, rfl, rfl, rfl, rfl⟩ | skip) | rfl | exact OtpLe.refl _ | split | (extract_lets; split) | (dsimp +zetaDelta only; split)

theorem usePtp_keeps (p : Nat) (m1 : PtpMsg) (tRx : Int) (s : State) (p_free : m .free = true) (p_out : m .out = true) (p_events : m .events = true) (p_pba : m .pba = true) (p_hostMem : m .hostMem = true) (p_clock : m .clock = true) (p_time : m .time = true) (hs : Keeps m r s) : Keeps m r (usePtp p m1 tRx s) := by
  unfold usePtp
  repeat' first | intro _ | (with_reducible first | assumption | apply raise_keeps | apply State.withTime_keeps | apply State.setPort_keeps | apply ethDrop_keeps | apply sendPtp_keeps | apply runBmca_keeps | apply useSync_keeps | apply setPath_keeps | apply answerPdelay_keeps | apply ite_keeps | apply foldl_keeps) | split | (extract_lets; split) | exact .inr ‹_› | exact .inr (fun _ => ⟨rfl, rfl⟩) | exact .inl ‹_› | (with_reducible apply State.keeps_mk <;> first | exact .inr ‹_› | exact .inl rfl | exact .inl ⟨rfl, rfl⟩ | exact .inl ⟨rfl, rfl, rfl⟩ | exact .inl ⟨rfl, rfl, rfl, rfl⟩ | exact .inl ⟨rfl, rfl, rfl, rfl, rfl⟩ | skip) | rfl | exact OtpLe.refl _ | split | (extract_lets; split) | (dsimp +zetaDelta only; split)

theorem execPtpMessageRx_keeps (port : Nat) (msg : PtpMsg) (tBoundary : Int) (s : State) (p_free : m .free = true) (p_out : m .out = true) (p_events : m .events = true) (p_pba : m .pba = true) (p_hostMem : m .hostMem = true) (p_clock : m .clock = true) (p_time : m .time = true) (hs : Keeps m r s) : OutKeeps m r (execPtpMessageRx port msg tBoundary s) := by
  unfold execPtpMessageRx
  repeat' first | intro _ | (with_reducible first | assumption | apply OutKeeps.next | apply OutKeeps.fault | apply ite_outKeeps | apply ethDrop_keeps | apply forward_keeps | apply usePtp_keeps | apply ite_keeps | apply foldl_keeps) | (with_reducible apply State.keeps_mk <;> first | exact .inr ‹_› | exact .inl rfl | exact .inl ⟨rfl, rfl⟩ | exact .inl ⟨rfl, rfl, rfl⟩ | exact .inl ⟨rfl, rfl, rfl, rfl⟩ | exact .inl ⟨rfl, rfl, rfl, rfl, rfl⟩ | skip) | rfl | exact OtpLe.refl _ | split | (extract_lets; split) | (dsimp +zetaDelta only; split)

theorem execSyncTimeout_keeps (s : State) (p_out : m .out = true) (p_events : m .events = true) (p_pba : m .pba = true) (p_hostMem : m .hostMem = true) (p_time : m .time = true) (hs : Keeps m r s) : OutKeeps m r (execSyncTimeout s) := by
  unfold execSyncTimeout
  repeat' first | intro _ | (with_reducible first | assumption | apply OutKeeps.next | apply OutKeeps.fault | apply ite_outKeeps | apply setServo_keeps | apply ite_keeps | apply foldl_keeps) | (with_reducible apply State.keeps_mk <;> first | exact .inr ‹_› | exact .inl rfl | exact .inl ⟨rfl, rfl⟩ | exact .inl ⟨rfl, rfl, rfl⟩ | exact .inl ⟨rfl, rfl, rfl, rfl⟩ | exact .inl ⟨rfl, rfl, rfl, rfl, rfl⟩ | skip) | rfl | exact OtpLe.refl _ | split | (extract_lets; split) | (dsimp +zetaDelta only; split)

theorem execAnnounceReceiptTimeout_keeps (port : Nat) (s : State) (p_out : m .out = true) (p_events : m .events = true) (p_pba : m .pba = true) (p_hostMem : m .hostMem = true) (p_time : m .time = true) (hs : Keeps m r s) : OutKeeps m r (execAnnounceReceiptTimeout port s) := by
  unfold execAnnounceReceiptTimeout
  repeat' first | intro _ | (with_reducible first | assumption | apply OutKeeps.next | apply OutKeeps.fault | apply ite_outKeeps | apply State.setPort_keeps | apply runBmca_keeps | apply ite_keeps | apply foldl_keeps) | (with_reducible apply State.keeps_mk <;> first | exact .inr ‹_› | exact .inl rfl | exact .inl ⟨rfl, rfl⟩ | exact .inl ⟨rfl, rfl, rfl⟩ | exact .inl ⟨rfl, rfl, rfl, rfl⟩ | exact .inl ⟨rfl, rfl, rfl, rfl, rfl⟩ | skip) | rfl | exact OtpLe.refl _ | split | (extract_lets; split) | (dsimp +zetaDelta only; split)

theorem transmitSync_keeps (p : Nat) (s : State) (p_out : m .out = true) (p_time : m .time = true) (hs : Keeps m r s) : Keeps m r (transmitSync p s) := by
  unfold transmitSync
  repeat' first | intro _ | (with_reducible first | assumption | apply State.setPort_keeps | apply sendPtp_keeps | apply ite_keeps | apply foldl_keeps) | (with_reducible apply State.keeps_mk <;> first | exact .inr ‹_› | exact .inl rfl | exact .inl ⟨rfl, rfl⟩ | exact .inl ⟨rfl, rfl, rfl⟩ | exact .inl ⟨rfl, rfl, rfl, rfl⟩ | exact .inl ⟨rfl, rfl, rfl, rfl, rfl⟩ | skip) | rfl | exact OtpLe.refl _ | split | (extract_lets; split) | (dsimp +zetaDelta only; split)

theorem transmitAnnounce_keeps (p : Nat) (s : State) (p_out : m .out = true) (p_time : m .time = true) (hs : Keeps m r s) : Keeps m r (transmitAnnounce p s) := by
  unfold transmitAnnounce
  repeat' first | intro _ | (with_reducible first | assumption | apply State.setPort_keeps | apply sendPtp_keeps | apply ite_keeps | apply foldl_keeps) | split | (extract_lets; split) | (with_reducible apply State.keeps_mk <;> first | exact .inr ‹_› | exact .inl rfl | exact .inl ⟨rfl, rfl⟩ | exact .inl ⟨rfl, rfl, rfl⟩ | exact .inl ⟨rfl, rfl, rfl, rfl⟩ | exact .inl ⟨rfl, rfl, rfl, rfl, rfl⟩ | skip) | rfl | exact OtpLe.refl _ | split | (extract_lets; split) | (dsimp +zetaDelta only; split)

theorem transmitDelay_keeps (p : Nat) (s : State) (p_out : m .out = true) (p_time : m .time = true) (hs : Keeps m r s) : Keeps m r (transmitDelay p s) := by
  unfold transmitDelay
  repeat' first | intro _ | (with_reducible first | assumption | apply State.setPort_keeps | apply sendPtp_keeps | apply ite_keeps | apply foldl_keeps) | (with_reducible apply State.keeps_mk <;> first | exact .inr ‹_› | exact .inl rfl | exact .inl ⟨rfl, rfl⟩ | exact .inl ⟨rfl, rfl, rfl⟩ | exact .inl ⟨rfl, rfl, rfl, rfl⟩ | exact .inl ⟨rfl, rfl, rfl, rfl, rfl⟩ | skip) | rfl | exact OtpLe.refl _ | split | (extract_lets; split) | (dsimp +zetaDelta only; split)

theorem execPtpTransmitInterval_keeps (port : Nat) (s : State) (p_out : m .out = true) (p_time : m .time = true) (hs : Keeps m r s) : OutKeeps m r (execPtpTransmitInterval port s) := by
  unfold execPtpTransmitInterval
  repeat' first | intro _ | (with_reducible first | assumption | apply OutKeeps.next | apply OutKeeps.fault | apply ite_outKeeps | apply transmitSync_keeps | apply transmitAnnounce_keeps | apply transmitDelay_keeps | apply ite_keeps | apply foldl_keeps) | (with_reducible apply State.keeps_mk <;> first | exact .inr ‹_› | exact .inl rfl | exact .inl ⟨rfl, rfl⟩ | exact .inl ⟨rfl, rfl, rfl⟩ | exact .inl ⟨rfl, rfl, rfl, rfl⟩ | exact .inl ⟨rfl, rfl, rfl, rfl, rfl⟩ | skip) | rfl | exact OtpLe.refl _ | split | (extract_lets; split) | (dsimp +zetaDelta only; split)

theorem execPcsLinkChange_keeps (port : Nat) (up : Bool) (s : State) (p_out : m .out = true) (p_events : m .events = true) (p_pba : m .pba = true) (p_hostMem : m .hostMem = true) (p_time : m .time = true) (hs : Keeps m r s) : OutKeeps m r (execPcsLinkChange port up s) := by
  unfold execPcsLinkChange
  repeat' first | intro _ | (with_reducible first | assumption | apply OutKeeps.next | apply OutKeeps.fault | apply ite_outKeeps | apply State.setPort_keeps | apply portEvent_keeps | apply freeServo_keeps | apply ite_keeps | apply foldl_keeps) | (with_reducible apply State.keeps_mk <;> first | exact .inr ‹_› | exact .inl rfl | exact .inl ⟨rfl, rfl⟩ | exact .inl ⟨rfl, rfl, rfl⟩ | exact .inl ⟨rfl, rfl, rfl, rfl⟩ | exact .inl ⟨rfl, rfl, rfl, rfl, rfl⟩ | skip) | rfl | exact OtpLe.refl _ | split | (extract_lets; split) | (dsimp +zetaDelta only; split)

theorem execArpRequestRx_keeps (port : Nat) (target : Nat) (senderMac : Nat) (senderIp : Nat) (s : State) (p_out : m .out = true) (p_time : m .time = true) (hs : Keeps m r s) : OutKeeps m r (execArpRequestRx port target senderMac senderIp s) := by
  unfold execArpRequestRx
  repeat' first | intro _ | (with_reducible first | assumption | apply OutKeeps.next | apply OutKeeps.fault | apply ite_outKeeps | apply State.emit_keeps | apply ethDrop_keeps | apply ite_keeps | apply foldl_keeps) | (with_reducible apply State.keeps_mk <;> first | exact .inr ‹_› | exact .inl rfl | exact .inl ⟨rfl, rfl⟩ | exact .inl ⟨rfl, rfl, rfl⟩ | exact .inl ⟨rfl, rfl, rfl, rfl⟩ | exact .inl ⟨rfl, rfl, rfl, rfl, rfl⟩ | skip) | rfl | exact OtpLe.refl _ | split | (extract_lets; split) | (dsimp +zetaDelta only; split)

end Sys2Proof.Machine
end

