-- ==== Sys2Proof/Laws/KeepsRegs.lean ====
section
/-! SUPPORT. `Keeps` for the definitions of Machine/Regs.lean, one lemma for each. -/

set_option linter.all false
set_option Elab.async false
set_option maxRecDepth 4000
namespace Sys2Proof.Machine

variable {m : Part → Bool} {r : State}

theorem fillLatches_keeps (off : Nat) (s : State) (p_reply : m .reply = true) (hs : Keeps m r s) : Keeps m r (fillLatches off s) := by
  unfold fillLatches
  repeat' first | intro _ | (with_reducible first | assumption | apply ite_keeps | apply foldl_keeps) | (with_reducible apply State.keeps_mk <;> first | exact .inr ‹_› | exact .inl rfl | exact .inl ⟨rfl, rfl⟩ | exact .inl ⟨rfl, rfl, rfl⟩ | exact .inl ⟨rfl, rfl, rfl, rfl⟩ | exact .inl ⟨rfl, rfl, rfl, rfl, rfl⟩ | skip) | rfl | exact OtpLe.refl _ | split | (extract_lets; split) | (dsimp +zetaDelta only; split)

theorem clearCmd_keeps (o : Nat) (s : State) (p_rings : m .rings = true) (p_events : m .events = true) (p_winDrop : m .winDrop = true) (hs : Keeps m r s) : Keeps m r (clearCmd o s) := by
  unfold clearCmd
  repeat' first | intro _ | (with_reducible first | assumption | apply State.setCmdRing_keeps | apply ite_keeps | apply foldl_keeps) | split | (extract_lets; split) | (with_reducible apply State.keeps_mk <;> first | exact .inr ‹_› | exact .inl rfl | exact .inl ⟨rfl, rfl⟩ | exact .inl ⟨rfl, rfl, rfl⟩ | exact .inl ⟨rfl, rfl, rfl, rfl⟩ | exact .inl ⟨rfl, rfl, rfl, rfl, rfl⟩ | skip) | rfl | exact OtpLe.refl _ | split | (extract_lets; split) | (dsimp +zetaDelta only; split)

theorem clearWeb_keeps (o : Nat) (s : State) (p_web : m .web = true) (hs : Keeps m r s) : Keeps m r (clearWeb o s) := by
  unfold clearWeb
  repeat' first | intro _ | (with_reducible first | assumption | apply State.setChan_keeps | apply ite_keeps | apply foldl_keeps) | split | (extract_lets; split) | (with_reducible apply State.keeps_mk <;> first | exact .inr ‹_› | exact .inl rfl | exact .inl ⟨rfl, rfl⟩ | exact .inl ⟨rfl, rfl, rfl⟩ | exact .inl ⟨rfl, rfl, rfl, rfl⟩ | exact .inl ⟨rfl, rfl, rfl, rfl, rfl⟩ | skip) | rfl | exact OtpLe.refl _ | split | (extract_lets; split) | (dsimp +zetaDelta only; split)

theorem clearRollback_keeps (o : Nat) (s : State) (p_frames : m .frames = true) (hs : Keeps m r s) : Keeps m r (clearRollback o s) := by
  unfold clearRollback
  repeat' first | intro _ | (with_reducible first | assumption | apply State.withFrames_keeps | apply ite_keeps | apply foldl_keeps) | (with_reducible apply State.keeps_mk <;> first | exact .inr ‹_› | exact .inl rfl | exact .inl ⟨rfl, rfl⟩ | exact .inl ⟨rfl, rfl, rfl⟩ | exact .inl ⟨rfl, rfl, rfl, rfl⟩ | exact .inl ⟨rfl, rfl, rfl, rfl, rfl⟩ | skip) | rfl | exact OtpLe.refl _ | split | (extract_lets; split) | (dsimp +zetaDelta only; split)

theorem clearPrn_keeps (o : Nat) (s : State) (p_frames : m .frames = true) (p_prn : m .prn = true) (hs : Keeps m r s) : Keeps m r (clearPrn o s) := by
  unfold clearPrn
  repeat' first | intro _ | (with_reducible first | assumption | apply clearRollback_keeps | apply ite_keeps | apply foldl_keeps) | split | (extract_lets; split) | (with_reducible apply State.keeps_mk <;> first | exact .inr ‹_› | exact .inl rfl | exact .inl ⟨rfl, rfl⟩ | exact .inl ⟨rfl, rfl, rfl⟩ | exact .inl ⟨rfl, rfl, rfl, rfl⟩ | exact .inl ⟨rfl, rfl, rfl, rfl, rfl⟩ | skip) | rfl | exact OtpLe.refl _ | split | (extract_lets; split) | (dsimp +zetaDelta only; split)

theorem clearFire_keeps (o : Nat) (s : State) (p_fire : m .fire = true) (hs : Keeps m r s) : Keeps m r (clearFire o s) := by
  unfold clearFire
  repeat' first | intro _ | (with_reducible first | assumption | apply State.setFireBar_keeps | apply State.setFeeder_keeps | apply ite_keeps | apply foldl_keeps) | split | (extract_lets; split) | (with_reducible apply State.keeps_mk <;> first | exact .inr ‹_› | exact .inl rfl | exact .inl ⟨rfl, rfl⟩ | exact .inl ⟨rfl, rfl, rfl⟩ | exact .inl ⟨rfl, rfl, rfl, rfl⟩ | exact .inl ⟨rfl, rfl, rfl, rfl, rfl⟩ | skip) | rfl | exact OtpLe.refl _ | split | (extract_lets; split) | (dsimp +zetaDelta only; split)

theorem clearRein_keeps (o : Nat) (s : State) (p_rein : m .rein = true) (hs : Keeps m r s) : Keeps m r (clearRein o s) := by
  unfold clearRein
  repeat' first | intro _ | (with_reducible first | assumption | apply State.setLink_keeps | apply State.setNode_keeps | apply ite_keeps | apply foldl_keeps) | split | (extract_lets; split) | (with_reducible apply State.keeps_mk <;> first | exact .inr ‹_› | exact .inl rfl | exact .inl ⟨rfl, rfl⟩ | exact .inl ⟨rfl, rfl, rfl⟩ | exact .inl ⟨rfl, rfl, rfl, rfl⟩ | exact .inl ⟨rfl, rfl, rfl, rfl, rfl⟩ | skip) | rfl | exact OtpLe.refl _ | split | (extract_lets; split) | (dsimp +zetaDelta only; split)

theorem clearScan_keeps (o : Nat) (s : State) (p_frames : m .frames = true) (p_scan : m .scan = true) (hs : Keeps m r s) : Keeps m r (clearScan o s) := by
  unfold clearScan
  repeat' first | intro _ | (with_reducible first | assumption | apply State.withScan_keeps | apply State.setScanFeeder_keeps | apply clearRollback_keeps | apply ite_keeps | apply foldl_keeps) | split | (extract_lets; split) | (with_reducible apply State.keeps_mk <;> first | exact .inr ‹_› | exact .inl rfl | exact .inl ⟨rfl, rfl⟩ | exact .inl ⟨rfl, rfl, rfl⟩ | exact .inl ⟨rfl, rfl, rfl, rfl⟩ | exact .inl ⟨rfl, rfl, rfl, rfl, rfl⟩ | skip) | rfl | exact OtpLe.refl _ | split | (extract_lets; split) | (dsimp +zetaDelta only; split)

theorem clearCam_keeps (o : Nat) (s : State) (p_cam : m .cam = true) (hs : Keeps m r s) : Keeps m r (clearCam o s) := by
  unfold clearCam
  repeat' first | intro _ | (with_reducible first | assumption | apply State.setCamPort_keeps | apply State.setStream_keeps | apply State.setCtx_keeps | apply ite_keeps | apply foldl_keeps) | split | (extract_lets; split) | (with_reducible apply State.keeps_mk <;> first | exact .inr ‹_› | exact .inl rfl | exact .inl ⟨rfl, rfl⟩ | exact .inl ⟨rfl, rfl, rfl⟩ | exact .inl ⟨rfl, rfl, rfl, rfl⟩ | exact .inl ⟨rfl, rfl, rfl, rfl, rfl⟩ | skip) | rfl | exact OtpLe.refl _ | split | (extract_lets; split) | (dsimp +zetaDelta only; split)

theorem clearCal_keeps (o : Nat) (s : State) (p_cal : m .cal = true) (hs : Keeps m r s) : Keeps m r (clearCal o s) := by
  unfold clearCal
  repeat' first | intro _ | (with_reducible first | assumption | apply State.updCal_keeps | apply ite_keeps | apply foldl_keeps) | split | (extract_lets; split) | (with_reducible apply State.keeps_mk <;> first | exact .inr ‹_› | exact .inl rfl | exact .inl ⟨rfl, rfl⟩ | exact .inl ⟨rfl, rfl, rfl⟩ | exact .inl ⟨rfl, rfl, rfl, rfl⟩ | exact .inl ⟨rfl, rfl, rfl, rfl, rfl⟩ | skip) | rfl | exact OtpLe.refl _ | split | (extract_lets; split) | (dsimp +zetaDelta only; split)

theorem clearAxis_keeps (o : Nat) (s : State) (p_axis : m .axis = true) (hs : Keeps m r s) : Keeps m r (clearAxis o s) := by
  unfold clearAxis
  repeat' first | intro _ | (with_reducible first | assumption | apply State.withAxis_keeps | apply State.setAx_keeps | apply ite_keeps | apply foldl_keeps) | split | (extract_lets; split) | (with_reducible apply State.keeps_mk <;> first | exact .inr ‹_› | exact .inl rfl | exact .inl ⟨rfl, rfl⟩ | exact .inl ⟨rfl, rfl, rfl⟩ | exact .inl ⟨rfl, rfl, rfl, rfl⟩ | exact .inl ⟨rfl, rfl, rfl, rfl, rfl⟩ | skip) | rfl | exact OtpLe.refl _ | split | (extract_lets; split) | (dsimp +zetaDelta only; split)

theorem clearTime_keeps (o : Nat) (s : State) (p_time : m .time = true) (hs : Keeps m r s) : Keeps m r (clearTime o s) := by
  unfold clearTime
  repeat' first | intro _ | (with_reducible first | assumption | apply State.setPort_keeps | apply State.setTrig_keeps | apply State.setCap_keeps | apply State.withHitch_keeps | apply ite_keeps | apply foldl_keeps) | split | (extract_lets; split) | (with_reducible apply State.keeps_mk <;> first | exact .inr ‹_› | exact .inl rfl | exact .inl ⟨rfl, rfl⟩ | exact .inl ⟨rfl, rfl, rfl⟩ | exact .inl ⟨rfl, rfl, rfl, rfl⟩ | exact .inl ⟨rfl, rfl, rfl, rfl, rfl⟩ | skip) | rfl | exact OtpLe.refl _ | split | (extract_lets; split) | (dsimp +zetaDelta only; split)

theorem clearMem_keeps (o : Nat) (s : State) (p_mem : m .mem = true) (hs : Keeps m r s) : Keeps m r (clearMem o s) := by
  unfold clearMem
  repeat' first | intro _ | (with_reducible first | assumption | apply State.setDdr_keeps | apply ite_keeps | apply foldl_keeps) | split | (extract_lets; split) | (with_reducible apply State.keeps_mk <;> first | exact .inr ‹_› | exact .inl rfl | exact .inl ⟨rfl, rfl⟩ | exact .inl ⟨rfl, rfl, rfl⟩ | exact .inl ⟨rfl, rfl, rfl, rfl⟩ | exact .inl ⟨rfl, rfl, rfl, rfl, rfl⟩ | skip) | rfl | exact OtpLe.refl _ | split | (extract_lets; split) | (dsimp +zetaDelta only; split)

theorem clearTan_keeps (o : Nat) (s : State) (p_tan : m .tan = true) (hs : Keeps m r s) : Keeps m r (clearTan o s) := by
  unfold clearTan
  repeat' first | intro _ | (with_reducible first | assumption | apply State.withTan_keeps | apply ite_keeps | apply foldl_keeps) | split | (extract_lets; split) | (with_reducible apply State.keeps_mk <;> first | exact .inr ‹_› | exact .inl rfl | exact .inl ⟨rfl, rfl⟩ | exact .inl ⟨rfl, rfl, rfl⟩ | exact .inl ⟨rfl, rfl, rfl, rfl⟩ | exact .inl ⟨rfl, rfl, rfl, rfl, rfl⟩ | skip) | rfl | exact OtpLe.refl _ | split | (extract_lets; split) | (dsimp +zetaDelta only; split)

theorem clearFields_keeps (off : Nat) (s : State) (p_conflicts : m .conflicts = true) (p_rings : m .rings = true) (p_events : m .events = true) (p_winDrop : m .winDrop = true) (p_time : m .time = true) (p_web : m .web = true) (p_axis : m .axis = true) (p_frames : m .frames = true) (p_prn : m .prn = true) (p_fire : m .fire = true) (p_rein : m .rein = true) (p_tan : m .tan = true) (p_cal : m .cal = true) (p_scan : m .scan = true) (p_cam : m .cam = true) (p_mem : m .mem = true) (hs : Keeps m r s) : Keeps m r (clearFields off s) := by
  unfold clearFields
  repeat' first | intro _ | (with_reducible first | assumption | apply clearCmd_keeps | apply clearWeb_keeps | apply clearPrn_keeps | apply clearFire_keeps | apply clearRein_keeps | apply clearScan_keeps | apply clearCam_keeps | apply clearCal_keeps | apply clearAxis_keeps | apply clearTime_keeps | apply clearMem_keeps | apply clearTan_keeps | apply ite_keeps | apply foldl_keeps) | split | (extract_lets; split) | (with_reducible apply State.keeps_mk <;> first | exact .inr ‹_› | exact .inl rfl | exact .inl ⟨rfl, rfl⟩ | exact .inl ⟨rfl, rfl, rfl⟩ | exact .inl ⟨rfl, rfl, rfl, rfl⟩ | exact .inl ⟨rfl, rfl, rfl, rfl, rfl⟩ | skip) | rfl | exact OtpLe.refl _ | split | (extract_lets; split) | (dsimp +zetaDelta only; split)

theorem hostRead_keeps (off : Nat) (s : State) (p_conflicts : m .conflicts = true) (p_rings : m .rings = true) (p_events : m .events = true) (p_winDrop : m .winDrop = true) (p_reply : m .reply = true) (p_time : m .time = true) (p_web : m .web = true) (p_axis : m .axis = true) (p_frames : m .frames = true) (p_prn : m .prn = true) (p_fire : m .fire = true) (p_rein : m .rein = true) (p_tan : m .tan = true) (p_cal : m .cal = true) (p_scan : m .scan = true) (p_cam : m .cam = true) (p_mem : m .mem = true) (hs : Keeps m r s) : Keeps m r (hostRead off s) := by
  unfold hostRead
  repeat' first | intro _ | (with_reducible first | assumption | apply fillLatches_keeps | apply clearFields_keeps | apply ite_keeps | apply foldl_keeps) | (with_reducible apply State.keeps_mk <;> first | exact .inr ‹_› | exact .inl rfl | exact .inl ⟨rfl, rfl⟩ | exact .inl ⟨rfl, rfl, rfl⟩ | exact .inl ⟨rfl, rfl, rfl, rfl⟩ | exact .inl ⟨rfl, rfl, rfl, rfl, rfl⟩ | skip) | rfl | exact OtpLe.refl _ | split | (extract_lets; split) | (dsimp +zetaDelta only; split)

theorem readAt_keeps (off : Nat) (s : State) (p_conflicts : m .conflicts = true) (p_rings : m .rings = true) (p_events : m .events = true) (p_winDrop : m .winDrop = true) (p_reply : m .reply = true) (p_aer : m .aer = true) (p_time : m .time = true) (p_web : m .web = true) (p_axis : m .axis = true) (p_frames : m .frames = true) (p_prn : m .prn = true) (p_fire : m .fire = true) (p_rein : m .rein = true) (p_tan : m .tan = true) (p_cal : m .cal = true) (p_scan : m .scan = true) (p_cam : m .cam = true) (p_mem : m .mem = true) (hs : Keeps m r s) : OutKeeps m r (readAt off s) := by
  unfold readAt
  repeat' first | intro _ | (with_reducible first | assumption | apply OutKeeps.next | apply OutKeeps.fault | apply ite_outKeeps | apply execBar0BadAccess_keeps | apply hostRead_keeps | apply ite_keeps | apply foldl_keeps) | (with_reducible apply State.keeps_mk <;> first | exact .inr ‹_› | exact .inl rfl | exact .inl ⟨rfl, rfl⟩ | exact .inl ⟨rfl, rfl, rfl⟩ | exact .inl ⟨rfl, rfl, rfl, rfl⟩ | exact .inl ⟨rfl, rfl, rfl, rfl, rfl⟩ | skip) | rfl | exact OtpLe.refl _ | split | (extract_lets; split) | (dsimp +zetaDelta only; split)

theorem execReadClear_keeps (off : Nat) (s : State) (p_conflicts : m .conflicts = true) (p_rings : m .rings = true) (p_events : m .events = true) (p_winDrop : m .winDrop = true) (p_reply : m .reply = true) (p_aer : m .aer = true) (p_time : m .time = true) (p_web : m .web = true) (p_axis : m .axis = true) (p_frames : m .frames = true) (p_prn : m .prn = true) (p_fire : m .fire = true) (p_rein : m .rein = true) (p_tan : m .tan = true) (p_cal : m .cal = true) (p_scan : m .scan = true) (p_cam : m .cam = true) (p_mem : m .mem = true) (hs : Keeps m r s) : OutKeeps m r (execReadClear off s) := by
  unfold execReadClear
  repeat' first | intro _ | (with_reducible first | assumption | apply OutKeeps.next | apply OutKeeps.fault | apply ite_outKeeps | apply readAt_keeps | apply ite_keeps | apply foldl_keeps) | (with_reducible apply State.keeps_mk <;> first | exact .inr ‹_› | exact .inl rfl | exact .inl ⟨rfl, rfl⟩ | exact .inl ⟨rfl, rfl, rfl⟩ | exact .inl ⟨rfl, rfl, rfl, rfl⟩ | exact .inl ⟨rfl, rfl, rfl, rfl, rfl⟩ | skip) | rfl | exact OtpLe.refl _ | split | (extract_lets; split) | (dsimp +zetaDelta only; split)

theorem execLatchedLoRead_keeps (off : Nat) (s : State) (p_conflicts : m .conflicts = true) (p_rings : m .rings = true) (p_events : m .events = true) (p_winDrop : m .winDrop = true) (p_reply : m .reply = true) (p_aer : m .aer = true) (p_time : m .time = true) (p_web : m .web = true) (p_axis : m .axis = true) (p_frames : m .frames = true) (p_prn : m .prn = true) (p_fire : m .fire = true) (p_rein : m .rein = true) (p_tan : m .tan = true) (p_cal : m .cal = true) (p_scan : m .scan = true) (p_cam : m .cam = true) (p_mem : m .mem = true) (hs : Keeps m r s) : OutKeeps m r (execLatchedLoRead off s) := by
  unfold execLatchedLoRead
  repeat' first | intro _ | (with_reducible first | assumption | apply OutKeeps.next | apply OutKeeps.fault | apply ite_outKeeps | apply readAt_keeps | apply ite_keeps | apply foldl_keeps) | (with_reducible apply State.keeps_mk <;> first | exact .inr ‹_› | exact .inl rfl | exact .inl ⟨rfl, rfl⟩ | exact .inl ⟨rfl, rfl, rfl⟩ | exact .inl ⟨rfl, rfl, rfl, rfl⟩ | exact .inl ⟨rfl, rfl, rfl, rfl, rfl⟩ | skip) | rfl | exact OtpLe.refl _ | split | (extract_lets; split) | (dsimp +zetaDelta only; split)

theorem writeBase_keeps (off : Nat) (hi : Bool) (v : Word) (r1 : RecRing) (set : RecRing → State → State) (s : State) (p_free : m .free = true) (p_conflicts : m .conflicts = true) (hset : ∀ x0 x1, Keeps m r x1 → Keeps m r (set x0 x1)) (hs : Keeps m r s) : Keeps m r (writeBase off hi v r1 set s) := by
  unfold writeBase
  repeat' first | intro _ | apply hset | (with_reducible first | assumption | apply State.useFree_keeps | apply regConflict_keeps | apply ite_keeps | apply foldl_keeps) | (with_reducible apply State.keeps_mk <;> first | exact .inr ‹_› | exact .inl rfl | exact .inl ⟨rfl, rfl⟩ | exact .inl ⟨rfl, rfl, rfl⟩ | exact .inl ⟨rfl, rfl, rfl, rfl⟩ | exact .inl ⟨rfl, rfl, rfl, rfl, rfl⟩ | skip) | rfl | exact OtpLe.refl _ | split | (extract_lets; split) | (dsimp +zetaDelta only; split)

theorem writeMsix_keeps (k : Nat) (sub : Nat) (v : Word) (s : State) (p_out : m .out = true) (p_msix : m .msix = true) (p_pba : m .pba = true) (hs : Keeps m r s) : Keeps m r (writeMsix k sub v s) := by
  unfold writeMsix
  repeat' first | intro _ | (with_reducible first | assumption | apply sendPending_keeps | apply ite_keeps | apply foldl_keeps) | (with_reducible apply State.keeps_mk <;> first | exact .inr ‹_› | exact .inl rfl | exact .inl ⟨rfl, rfl⟩ | exact .inl ⟨rfl, rfl, rfl⟩ | exact .inl ⟨rfl, rfl, rfl, rfl⟩ | exact .inl ⟨rfl, rfl, rfl, rfl, rfl⟩ | skip) | rfl | exact OtpLe.refl _ | split | (extract_lets; split) | (dsimp +zetaDelta only; split)

theorem writeCmd_keeps (off : Nat) (v : Word) (s : State) (p_free : m .free = true) (p_out : m .out = true) (p_conflicts : m .conflicts = true) (p_rings : m .rings = true) (p_slots : m .slots = true) (p_records : m .records = true) (p_events : m .events = true) (p_msix : m .msix = true) (p_pba : m .pba = true) (p_hostMem : m .hostMem = true) (hs : Keeps m r s) : OutKeeps m r (writeCmd off v s) := by
  unfold writeCmd
  repeat' first | intro _ | (with_reducible first | assumption | apply OutKeeps.next | apply OutKeeps.fault | apply ite_outKeeps | apply State.setCpl_keeps | apply State.setEvt_keeps | apply writeCrCfg_keeps | apply execCrDoorbell_keeps | apply writeCplCfg_keeps | apply writeEvtCfg_keeps | apply drainOne_keeps | apply execCplPtrHeadWrite_keeps | apply execEvtPtrHeadWrite_keeps | apply writeBase_keeps | apply writeMsix_keeps | apply ite_keeps | apply foldl_keeps) | split | (extract_lets; split) | (with_reducible apply State.keeps_mk <;> first | exact .inr ‹_› | exact .inl rfl | exact .inl ⟨rfl, rfl⟩ | exact .inl ⟨rfl, rfl, rfl⟩ | exact .inl ⟨rfl, rfl, rfl, rfl⟩ | exact .inl ⟨rfl, rfl, rfl, rfl, rfl⟩ | skip) | rfl | exact OtpLe.refl _ | split | (extract_lets; split) | (dsimp +zetaDelta only; split)

theorem clearW1c_keeps (off : Nat) (v : Word) (s : State) (p_web : m .web = true) (hs : Keeps m r s) : Keeps m r (clearW1c off v s) := by
  unfold clearW1c
  repeat' first | intro _ | (with_reducible first | assumption | apply State.setChan_keeps | apply ite_keeps | apply foldl_keeps) | split | (extract_lets; split) | (with_reducible apply State.keeps_mk <;> first | exact .inr ‹_› | exact .inl rfl | exact .inl ⟨rfl, rfl⟩ | exact .inl ⟨rfl, rfl, rfl⟩ | exact .inl ⟨rfl, rfl, rfl, rfl⟩ | exact .inl ⟨rfl, rfl, rfl, rfl, rfl⟩ | skip) | rfl | exact OtpLe.refl _ | split | (extract_lets; split) | (dsimp +zetaDelta only; split)

theorem hostWrite_keeps (off : Nat) (v : Word) (s : State) (p_free : m .free = true) (p_out : m .out = true) (p_conflicts : m .conflicts = true) (p_hpen : m .hpen = true) (p_rings : m .rings = true) (p_slots : m .slots = true) (p_records : m .records = true) (p_events : m .events = true) (p_msix : m .msix = true) (p_pba : m .pba = true) (p_lcs : m .lcs = true) (p_hostMem : m .hostMem = true) (p_time : m .time = true) (p_web : m .web = true) (hs : Keeps m r s) : OutKeeps m r (hostWrite off v s) := by
  unfold hostWrite
  repeat' first | intro _ | (with_reducible first | assumption | apply OutKeeps.next | apply OutKeeps.fault | apply ite_outKeeps | apply execCapPop_keeps | apply execPushApertureWrite_keeps | apply pushCtrl_keeps | apply execHpenCtrlWrite_keeps | apply writeCmd_keeps | apply clearW1c_keeps | apply ite_keeps | apply foldl_keeps) | split | (extract_lets; split) | (with_reducible apply State.keeps_mk <;> first | exact .inr ‹_› | exact .inl rfl | exact .inl ⟨rfl, rfl⟩ | exact .inl ⟨rfl, rfl, rfl⟩ | exact .inl ⟨rfl, rfl, rfl, rfl⟩ | exact .inl ⟨rfl, rfl, rfl, rfl, rfl⟩ | skip) | rfl | exact OtpLe.refl _ | split | (extract_lets; split) | (dsimp +zetaDelta only; split)

theorem writeAt_keeps (off : Nat) (v : Word) (s : State) (p_free : m .free = true) (p_out : m .out = true) (p_conflicts : m .conflicts = true) (p_hpen : m .hpen = true) (p_rings : m .rings = true) (p_slots : m .slots = true) (p_records : m .records = true) (p_events : m .events = true) (p_reply : m .reply = true) (p_aer : m .aer = true) (p_msix : m .msix = true) (p_pba : m .pba = true) (p_lcs : m .lcs = true) (p_hostMem : m .hostMem = true) (p_time : m .time = true) (p_web : m .web = true) (hs : Keeps m r s) : OutKeeps m r (writeAt off v s) := by
  unfold writeAt
  repeat' first | intro _ | (with_reducible first | assumption | apply OutKeeps.next | apply OutKeeps.fault | apply ite_outKeeps | apply execBar0BadAccess_keeps | apply hostWrite_keeps | apply ite_keeps | apply foldl_keeps) | (with_reducible apply State.keeps_mk <;> first | exact .inr ‹_› | exact .inl rfl | exact .inl ⟨rfl, rfl⟩ | exact .inl ⟨rfl, rfl, rfl⟩ | exact .inl ⟨rfl, rfl, rfl, rfl⟩ | exact .inl ⟨rfl, rfl, rfl, rfl, rfl⟩ | skip) | rfl | exact OtpLe.refl _ | split | (extract_lets; split) | (dsimp +zetaDelta only; split)

theorem execRegisterWrite_keeps (off : Nat) (v : Word) (s : State) (p_free : m .free = true) (p_out : m .out = true) (p_conflicts : m .conflicts = true) (p_hpen : m .hpen = true) (p_rings : m .rings = true) (p_slots : m .slots = true) (p_records : m .records = true) (p_events : m .events = true) (p_reply : m .reply = true) (p_aer : m .aer = true) (p_msix : m .msix = true) (p_pba : m .pba = true) (p_lcs : m .lcs = true) (p_hostMem : m .hostMem = true) (p_time : m .time = true) (p_web : m .web = true) (hs : Keeps m r s) : OutKeeps m r (execRegisterWrite off v s) := by
  unfold execRegisterWrite
  repeat' first | intro _ | (with_reducible first | assumption | apply OutKeeps.next | apply OutKeeps.fault | apply ite_outKeeps | apply writeAt_keeps | apply ite_keeps | apply foldl_keeps) | (with_reducible apply State.keeps_mk <;> first | exact .inr ‹_› | exact .inl rfl | exact .inl ⟨rfl, rfl⟩ | exact .inl ⟨rfl, rfl, rfl⟩ | exact .inl ⟨rfl, rfl, rfl, rfl⟩ | exact .inl ⟨rfl, rfl, rfl, rfl, rfl⟩ | skip) | rfl | exact OtpLe.refl _ | split | (extract_lets; split) | (dsimp +zetaDelta only; split)

theorem execW1cWrite_keeps (off : Nat) (v : Word) (s : State) (p_free : m .free = true) (p_out : m .out = true) (p_conflicts : m .conflicts = true) (p_hpen : m .hpen = true) (p_rings : m .rings = true) (p_slots : m .slots = true) (p_records : m .records = true) (p_events : m .events = true) (p_reply : m .reply = true) (p_aer : m .aer = true) (p_msix : m .msix = true) (p_pba : m .pba = true) (p_lcs : m .lcs = true) (p_hostMem : m .hostMem = true) (p_time : m .time = true) (p_web : m .web = true) (hs : Keeps m r s) : OutKeeps m r (execW1cWrite off v s) := by
  unfold execW1cWrite
  repeat' first | intro _ | (with_reducible first | assumption | apply OutKeeps.next | apply OutKeeps.fault | apply ite_outKeeps | apply writeAt_keeps | apply ite_keeps | apply foldl_keeps) | (with_reducible apply State.keeps_mk <;> first | exact .inr ‹_› | exact .inl rfl | exact .inl ⟨rfl, rfl⟩ | exact .inl ⟨rfl, rfl, rfl⟩ | exact .inl ⟨rfl, rfl, rfl, rfl⟩ | exact .inl ⟨rfl, rfl, rfl, rfl, rfl⟩ | skip) | rfl | exact OtpLe.refl _ | split | (extract_lets; split) | (dsimp +zetaDelta only; split)

theorem execWebQuery_keeps (slot : Nat) (s : State) (p_slots : m .slots = true) (p_records : m .records = true) (p_web : m .web = true) (hs : Keeps m r s) : OutKeeps m r (execWebQuery slot s) := by
  unfold execWebQuery
  repeat' first | intro _ | (with_reducible first | assumption | apply OutKeeps.next | apply OutKeeps.fault | apply ite_outKeeps | apply doneWith_keeps | apply runCmd_keeps | apply State.withWeb_keeps | apply ite_keeps | apply foldl_keeps) | (with_reducible apply State.keeps_mk <;> first | exact .inr ‹_› | exact .inl rfl | exact .inl ⟨rfl, rfl⟩ | exact .inl ⟨rfl, rfl, rfl⟩ | exact .inl ⟨rfl, rfl, rfl, rfl⟩ | exact .inl ⟨rfl, rfl, rfl, rfl, rfl⟩ | skip) | rfl | exact OtpLe.refl _ | split | (extract_lets; split) | (dsimp +zetaDelta only; split)

end Sys2Proof.Machine
end

