-- ==== Sys2Proof/Laws/KeepsTick.lean ====
section
/-! SUPPORT. `Keeps` for the definitions of Machine/Tick.lean, one lemma for each. -/

set_option linter.all false
set_option Elab.async false
set_option maxRecDepth 4000
namespace Sys2Proof.Machine

variable {m : Part → Bool} {r : State}

theorem tripHalters_keeps (s : State) (p_out : m .out = true) (hs : Keeps m r s) : Keeps m r (tripHalters s) := by
  unfold tripHalters
  repeat' first | intro _ | (with_reducible first | assumption | apply sendBlock_keeps | apply ite_keeps | apply foldl_keeps) | (with_reducible apply State.keeps_mk <;> first | exact .inr ‹_› | exact .inl rfl | exact .inl ⟨rfl, rfl⟩ | exact .inl ⟨rfl, rfl, rfl⟩ | exact .inl ⟨rfl, rfl, rfl, rfl⟩ | exact .inl ⟨rfl, rfl, rfl, rfl, rfl⟩ | skip) | rfl | exact OtpLe.refl _ | split | (extract_lets; split) | (dsimp +zetaDelta only; split)

end Sys2Proof.Machine
end

