-- ==== Sys2Proof/Laws/State.lean ====
section
/-! SUPPORT. What each update of one part of the state leaves alone, field by field, so that no proof unfolds an update. -/

namespace Sys2Proof.Machine

/-! ### `State.useFree` -/

@[simp] theorem State.useFree_pending (s : State) : (State.useFree s).pending = s.pending := rfl
@[simp] theorem State.useFree_uptime (s : State) : (State.useFree s).uptime = s.uptime := rfl
@[simp] theorem State.useFree_wall (s : State) : (State.useFree s).wall = s.wall := rfl
@[simp] theorem State.useFree_out (s : State) : (State.useFree s).out = s.out := rfl
@[simp] theorem State.useFree_fuse (s : State) : (State.useFree s).fuse = s.fuse := rfl
@[simp] theorem State.useFree_top (s : State) : (State.useFree s).top = s.top := rfl
@[simp] theorem State.useFree_cmd (s : State) : (State.useFree s).cmd = s.cmd := rfl
@[simp] theorem State.useFree_pcie (s : State) : (State.useFree s).pcie = s.pcie := rfl
@[simp] theorem State.useFree_lcs (s : State) : (State.useFree s).lcs = s.lcs := rfl
@[simp] theorem State.useFree_dram (s : State) : (State.useFree s).dram = s.dram := rfl
@[simp] theorem State.useFree_poison (s : State) : (State.useFree s).poison = s.poison := rfl
@[simp] theorem State.useFree_hostMem (s : State) : (State.useFree s).hostMem = s.hostMem := rfl
@[simp] theorem State.useFree_time (s : State) : (State.useFree s).time = s.time := rfl
@[simp] theorem State.useFree_web (s : State) : (State.useFree s).web = s.web := rfl
@[simp] theorem State.useFree_axis (s : State) : (State.useFree s).axis = s.axis := rfl
@[simp] theorem State.useFree_frames (s : State) : (State.useFree s).frames = s.frames := rfl
@[simp] theorem State.useFree_prn (s : State) : (State.useFree s).prn = s.prn := rfl
@[simp] theorem State.useFree_fire (s : State) : (State.useFree s).fire = s.fire := rfl
@[simp] theorem State.useFree_rein (s : State) : (State.useFree s).rein = s.rein := rfl
@[simp] theorem State.useFree_chain (s : State) : (State.useFree s).chain = s.chain := rfl
@[simp] theorem State.useFree_tan (s : State) : (State.useFree s).tan = s.tan := rfl
@[simp] theorem State.useFree_thm (s : State) : (State.useFree s).thm = s.thm := rfl
@[simp] theorem State.useFree_cal (s : State) : (State.useFree s).cal = s.cal := rfl
@[simp] theorem State.useFree_scan (s : State) : (State.useFree s).scan = s.scan := rfl
@[simp] theorem State.useFree_cam (s : State) : (State.useFree s).cam = s.cam := rfl
@[simp] theorem State.useFree_mem (s : State) : (State.useFree s).mem = s.mem := rfl

/-! ### `State.emit` -/

@[simp] theorem State.emit_pending (o : Out) (s : State) : (State.emit o s).pending = s.pending := rfl
@[simp] theorem State.emit_uptime (o : Out) (s : State) : (State.emit o s).uptime = s.uptime := rfl
@[simp] theorem State.emit_wall (o : Out) (s : State) : (State.emit o s).wall = s.wall := rfl
@[simp] theorem State.emit_free (o : Out) (s : State) : (State.emit o s).free = s.free := rfl
@[simp] theorem State.emit_fuse (o : Out) (s : State) : (State.emit o s).fuse = s.fuse := rfl
@[simp] theorem State.emit_top (o : Out) (s : State) : (State.emit o s).top = s.top := rfl
@[simp] theorem State.emit_cmd (o : Out) (s : State) : (State.emit o s).cmd = s.cmd := rfl
@[simp] theorem State.emit_pcie (o : Out) (s : State) : (State.emit o s).pcie = s.pcie := rfl
@[simp] theorem State.emit_lcs (o : Out) (s : State) : (State.emit o s).lcs = s.lcs := rfl
@[simp] theorem State.emit_dram (o : Out) (s : State) : (State.emit o s).dram = s.dram := rfl
@[simp] theorem State.emit_poison (o : Out) (s : State) : (State.emit o s).poison = s.poison := rfl
@[simp] theorem State.emit_hostMem (o : Out) (s : State) : (State.emit o s).hostMem = s.hostMem := rfl
@[simp] theorem State.emit_time (o : Out) (s : State) : (State.emit o s).time = s.time := rfl
@[simp] theorem State.emit_web (o : Out) (s : State) : (State.emit o s).web = s.web := rfl
@[simp] theorem State.emit_axis (o : Out) (s : State) : (State.emit o s).axis = s.axis := rfl
@[simp] theorem State.emit_frames (o : Out) (s : State) : (State.emit o s).frames = s.frames := rfl
@[simp] theorem State.emit_prn (o : Out) (s : State) : (State.emit o s).prn = s.prn := rfl
@[simp] theorem State.emit_fire (o : Out) (s : State) : (State.emit o s).fire = s.fire := rfl
@[simp] theorem State.emit_rein (o : Out) (s : State) : (State.emit o s).rein = s.rein := rfl
@[simp] theorem State.emit_chain (o : Out) (s : State) : (State.emit o s).chain = s.chain := rfl
@[simp] theorem State.emit_tan (o : Out) (s : State) : (State.emit o s).tan = s.tan := rfl
@[simp] theorem State.emit_thm (o : Out) (s : State) : (State.emit o s).thm = s.thm := rfl
@[simp] theorem State.emit_cal (o : Out) (s : State) : (State.emit o s).cal = s.cal := rfl
@[simp] theorem State.emit_scan (o : Out) (s : State) : (State.emit o s).scan = s.scan := rfl
@[simp] theorem State.emit_cam (o : Out) (s : State) : (State.emit o s).cam = s.cam := rfl
@[simp] theorem State.emit_mem (o : Out) (s : State) : (State.emit o s).mem = s.mem := rfl

/-! ### `hostStore` -/

@[simp] theorem hostStore_pending (addr : Nat) (bs : List Byte) (s : State) : (hostStore addr bs s).pending = s.pending := rfl
@[simp] theorem hostStore_uptime (addr : Nat) (bs : List Byte) (s : State) : (hostStore addr bs s).uptime = s.uptime := rfl
@[simp] theorem hostStore_wall (addr : Nat) (bs : List Byte) (s : State) : (hostStore addr bs s).wall = s.wall := rfl
@[simp] theorem hostStore_free (addr : Nat) (bs : List Byte) (s : State) : (hostStore addr bs s).free = s.free := rfl
@[simp] theorem hostStore_out (addr : Nat) (bs : List Byte) (s : State) : (hostStore addr bs s).out = s.out := rfl
@[simp] theorem hostStore_fuse (addr : Nat) (bs : List Byte) (s : State) : (hostStore addr bs s).fuse = s.fuse := rfl
@[simp] theorem hostStore_top (addr : Nat) (bs : List Byte) (s : State) : (hostStore addr bs s).top = s.top := rfl
@[simp] theorem hostStore_cmd (addr : Nat) (bs : List Byte) (s : State) : (hostStore addr bs s).cmd = s.cmd := rfl
@[simp] theorem hostStore_pcie (addr : Nat) (bs : List Byte) (s : State) : (hostStore addr bs s).pcie = s.pcie := rfl
@[simp] theorem hostStore_lcs (addr : Nat) (bs : List Byte) (s : State) : (hostStore addr bs s).lcs = s.lcs := rfl
@[simp] theorem hostStore_dram (addr : Nat) (bs : List Byte) (s : State) : (hostStore addr bs s).dram = s.dram := rfl
@[simp] theorem hostStore_poison (addr : Nat) (bs : List Byte) (s : State) : (hostStore addr bs s).poison = s.poison := rfl
@[simp] theorem hostStore_time (addr : Nat) (bs : List Byte) (s : State) : (hostStore addr bs s).time = s.time := rfl
@[simp] theorem hostStore_web (addr : Nat) (bs : List Byte) (s : State) : (hostStore addr bs s).web = s.web := rfl
@[simp] theorem hostStore_axis (addr : Nat) (bs : List Byte) (s : State) : (hostStore addr bs s).axis = s.axis := rfl
@[simp] theorem hostStore_frames (addr : Nat) (bs : List Byte) (s : State) : (hostStore addr bs s).frames = s.frames := rfl
@[simp] theorem hostStore_prn (addr : Nat) (bs : List Byte) (s : State) : (hostStore addr bs s).prn = s.prn := rfl
@[simp] theorem hostStore_fire (addr : Nat) (bs : List Byte) (s : State) : (hostStore addr bs s).fire = s.fire := rfl
@[simp] theorem hostStore_rein (addr : Nat) (bs : List Byte) (s : State) : (hostStore addr bs s).rein = s.rein := rfl
@[simp] theorem hostStore_chain (addr : Nat) (bs : List Byte) (s : State) : (hostStore addr bs s).chain = s.chain := rfl
@[simp] theorem hostStore_tan (addr : Nat) (bs : List Byte) (s : State) : (hostStore addr bs s).tan = s.tan := rfl
@[simp] theorem hostStore_thm (addr : Nat) (bs : List Byte) (s : State) : (hostStore addr bs s).thm = s.thm := rfl
@[simp] theorem hostStore_cal (addr : Nat) (bs : List Byte) (s : State) : (hostStore addr bs s).cal = s.cal := rfl
@[simp] theorem hostStore_scan (addr : Nat) (bs : List Byte) (s : State) : (hostStore addr bs s).scan = s.scan := rfl
@[simp] theorem hostStore_cam (addr : Nat) (bs : List Byte) (s : State) : (hostStore addr bs s).cam = s.cam := rfl
@[simp] theorem hostStore_mem (addr : Nat) (bs : List Byte) (s : State) : (hostStore addr bs s).mem = s.mem := rfl

/-! ### `State.setCpl` -/

@[simp] theorem State.setCpl_pending (s : State) (n : Nat) (r : RecRing) : (State.setCpl s n r).pending = s.pending := rfl
@[simp] theorem State.setCpl_uptime (s : State) (n : Nat) (r : RecRing) : (State.setCpl s n r).uptime = s.uptime := rfl
@[simp] theorem State.setCpl_wall (s : State) (n : Nat) (r : RecRing) : (State.setCpl s n r).wall = s.wall := rfl
@[simp] theorem State.setCpl_free (s : State) (n : Nat) (r : RecRing) : (State.setCpl s n r).free = s.free := rfl
@[simp] theorem State.setCpl_out (s : State) (n : Nat) (r : RecRing) : (State.setCpl s n r).out = s.out := rfl
@[simp] theorem State.setCpl_fuse (s : State) (n : Nat) (r : RecRing) : (State.setCpl s n r).fuse = s.fuse := rfl
@[simp] theorem State.setCpl_top (s : State) (n : Nat) (r : RecRing) : (State.setCpl s n r).top = s.top := rfl
@[simp] theorem State.setCpl_pcie (s : State) (n : Nat) (r : RecRing) : (State.setCpl s n r).pcie = s.pcie := rfl
@[simp] theorem State.setCpl_lcs (s : State) (n : Nat) (r : RecRing) : (State.setCpl s n r).lcs = s.lcs := rfl
@[simp] theorem State.setCpl_dram (s : State) (n : Nat) (r : RecRing) : (State.setCpl s n r).dram = s.dram := rfl
@[simp] theorem State.setCpl_poison (s : State) (n : Nat) (r : RecRing) : (State.setCpl s n r).poison = s.poison := rfl
@[simp] theorem State.setCpl_hostMem (s : State) (n : Nat) (r : RecRing) : (State.setCpl s n r).hostMem = s.hostMem := rfl
@[simp] theorem State.setCpl_time (s : State) (n : Nat) (r : RecRing) : (State.setCpl s n r).time = s.time := rfl
@[simp] theorem State.setCpl_web (s : State) (n : Nat) (r : RecRing) : (State.setCpl s n r).web = s.web := rfl
@[simp] theorem State.setCpl_axis (s : State) (n : Nat) (r : RecRing) : (State.setCpl s n r).axis = s.axis := rfl
@[simp] theorem State.setCpl_frames (s : State) (n : Nat) (r : RecRing) : (State.setCpl s n r).frames = s.frames := rfl
@[simp] theorem State.setCpl_prn (s : State) (n : Nat) (r : RecRing) : (State.setCpl s n r).prn = s.prn := rfl
@[simp] theorem State.setCpl_fire (s : State) (n : Nat) (r : RecRing) : (State.setCpl s n r).fire = s.fire := rfl
@[simp] theorem State.setCpl_rein (s : State) (n : Nat) (r : RecRing) : (State.setCpl s n r).rein = s.rein := rfl
@[simp] theorem State.setCpl_chain (s : State) (n : Nat) (r : RecRing) : (State.setCpl s n r).chain = s.chain := rfl
@[simp] theorem State.setCpl_tan (s : State) (n : Nat) (r : RecRing) : (State.setCpl s n r).tan = s.tan := rfl
@[simp] theorem State.setCpl_thm (s : State) (n : Nat) (r : RecRing) : (State.setCpl s n r).thm = s.thm := rfl
@[simp] theorem State.setCpl_cal (s : State) (n : Nat) (r : RecRing) : (State.setCpl s n r).cal = s.cal := rfl
@[simp] theorem State.setCpl_scan (s : State) (n : Nat) (r : RecRing) : (State.setCpl s n r).scan = s.scan := rfl
@[simp] theorem State.setCpl_cam (s : State) (n : Nat) (r : RecRing) : (State.setCpl s n r).cam = s.cam := rfl
@[simp] theorem State.setCpl_mem (s : State) (n : Nat) (r : RecRing) : (State.setCpl s n r).mem = s.mem := rfl

/-! ### `State.setEvt` -/

@[simp] theorem State.setEvt_pending (s : State) (r : RecRing) : (State.setEvt s r).pending = s.pending := rfl
@[simp] theorem State.setEvt_uptime (s : State) (r : RecRing) : (State.setEvt s r).uptime = s.uptime := rfl
@[simp] theorem State.setEvt_wall (s : State) (r : RecRing) : (State.setEvt s r).wall = s.wall := rfl
@[simp] theorem State.setEvt_free (s : State) (r : RecRing) : (State.setEvt s r).free = s.free := rfl
@[simp] theorem State.setEvt_out (s : State) (r : RecRing) : (State.setEvt s r).out = s.out := rfl
@[simp] theorem State.setEvt_fuse (s : State) (r : RecRing) : (State.setEvt s r).fuse = s.fuse := rfl
@[simp] theorem State.setEvt_top (s : State) (r : RecRing) : (State.setEvt s r).top = s.top := rfl
@[simp] theorem State.setEvt_pcie (s : State) (r : RecRing) : (State.setEvt s r).pcie = s.pcie := rfl
@[simp] theorem State.setEvt_lcs (s : State) (r : RecRing) : (State.setEvt s r).lcs = s.lcs := rfl
@[simp] theorem State.setEvt_dram (s : State) (r : RecRing) : (State.setEvt s r).dram = s.dram := rfl
@[simp] theorem State.setEvt_poison (s : State) (r : RecRing) : (State.setEvt s r).poison = s.poison := rfl
@[simp] theorem State.setEvt_hostMem (s : State) (r : RecRing) : (State.setEvt s r).hostMem = s.hostMem := rfl
@[simp] theorem State.setEvt_time (s : State) (r : RecRing) : (State.setEvt s r).time = s.time := rfl
@[simp] theorem State.setEvt_web (s : State) (r : RecRing) : (State.setEvt s r).web = s.web := rfl
@[simp] theorem State.setEvt_axis (s : State) (r : RecRing) : (State.setEvt s r).axis = s.axis := rfl
@[simp] theorem State.setEvt_frames (s : State) (r : RecRing) : (State.setEvt s r).frames = s.frames := rfl
@[simp] theorem State.setEvt_prn (s : State) (r : RecRing) : (State.setEvt s r).prn = s.prn := rfl
@[simp] theorem State.setEvt_fire (s : State) (r : RecRing) : (State.setEvt s r).fire = s.fire := rfl
@[simp] theorem State.setEvt_rein (s : State) (r : RecRing) : (State.setEvt s r).rein = s.rein := rfl
@[simp] theorem State.setEvt_chain (s : State) (r : RecRing) : (State.setEvt s r).chain = s.chain := rfl
@[simp] theorem State.setEvt_tan (s : State) (r : RecRing) : (State.setEvt s r).tan = s.tan := rfl
@[simp] theorem State.setEvt_thm (s : State) (r : RecRing) : (State.setEvt s r).thm = s.thm := rfl
@[simp] theorem State.setEvt_cal (s : State) (r : RecRing) : (State.setEvt s r).cal = s.cal := rfl
@[simp] theorem State.setEvt_scan (s : State) (r : RecRing) : (State.setEvt s r).scan = s.scan := rfl
@[simp] theorem State.setEvt_cam (s : State) (r : RecRing) : (State.setEvt s r).cam = s.cam := rfl
@[simp] theorem State.setEvt_mem (s : State) (r : RecRing) : (State.setEvt s r).mem = s.mem := rfl

/-! ### `regConflict` -/

@[simp] theorem regConflict_pending (off : Nat) (s : State) : (regConflict off s).pending = s.pending := rfl
@[simp] theorem regConflict_uptime (off : Nat) (s : State) : (regConflict off s).uptime = s.uptime := rfl
@[simp] theorem regConflict_wall (off : Nat) (s : State) : (regConflict off s).wall = s.wall := rfl
@[simp] theorem regConflict_free (off : Nat) (s : State) : (regConflict off s).free = s.free := rfl
@[simp] theorem regConflict_out (off : Nat) (s : State) : (regConflict off s).out = s.out := rfl
@[simp] theorem regConflict_fuse (off : Nat) (s : State) : (regConflict off s).fuse = s.fuse := rfl
@[simp] theorem regConflict_cmd (off : Nat) (s : State) : (regConflict off s).cmd = s.cmd := rfl
@[simp] theorem regConflict_pcie (off : Nat) (s : State) : (regConflict off s).pcie = s.pcie := rfl
@[simp] theorem regConflict_lcs (off : Nat) (s : State) : (regConflict off s).lcs = s.lcs := rfl
@[simp] theorem regConflict_dram (off : Nat) (s : State) : (regConflict off s).dram = s.dram := rfl
@[simp] theorem regConflict_poison (off : Nat) (s : State) : (regConflict off s).poison = s.poison := rfl
@[simp] theorem regConflict_hostMem (off : Nat) (s : State) : (regConflict off s).hostMem = s.hostMem := rfl
@[simp] theorem regConflict_time (off : Nat) (s : State) : (regConflict off s).time = s.time := rfl
@[simp] theorem regConflict_web (off : Nat) (s : State) : (regConflict off s).web = s.web := rfl
@[simp] theorem regConflict_axis (off : Nat) (s : State) : (regConflict off s).axis = s.axis := rfl
@[simp] theorem regConflict_frames (off : Nat) (s : State) : (regConflict off s).frames = s.frames := rfl
@[simp] theorem regConflict_prn (off : Nat) (s : State) : (regConflict off s).prn = s.prn := rfl
@[simp] theorem regConflict_fire (off : Nat) (s : State) : (regConflict off s).fire = s.fire := rfl
@[simp] theorem regConflict_rein (off : Nat) (s : State) : (regConflict off s).rein = s.rein := rfl
@[simp] theorem regConflict_chain (off : Nat) (s : State) : (regConflict off s).chain = s.chain := rfl
@[simp] theorem regConflict_tan (off : Nat) (s : State) : (regConflict off s).tan = s.tan := rfl
@[simp] theorem regConflict_thm (off : Nat) (s : State) : (regConflict off s).thm = s.thm := rfl
@[simp] theorem regConflict_cal (off : Nat) (s : State) : (regConflict off s).cal = s.cal := rfl
@[simp] theorem regConflict_scan (off : Nat) (s : State) : (regConflict off s).scan = s.scan := rfl
@[simp] theorem regConflict_cam (off : Nat) (s : State) : (regConflict off s).cam = s.cam := rfl
@[simp] theorem regConflict_mem (off : Nat) (s : State) : (regConflict off s).mem = s.mem := rfl

/-! ### `State.setSlot` -/

@[simp] theorem State.setSlot_pending (s : State) (k : Nat) (d : Slot) : (State.setSlot s k d).pending = s.pending := rfl
@[simp] theorem State.setSlot_uptime (s : State) (k : Nat) (d : Slot) : (State.setSlot s k d).uptime = s.uptime := rfl
@[simp] theorem State.setSlot_wall (s : State) (k : Nat) (d : Slot) : (State.setSlot s k d).wall = s.wall := rfl
@[simp] theorem State.setSlot_free (s : State) (k : Nat) (d : Slot) : (State.setSlot s k d).free = s.free := rfl
@[simp] theorem State.setSlot_out (s : State) (k : Nat) (d : Slot) : (State.setSlot s k d).out = s.out := rfl
@[simp] theorem State.setSlot_fuse (s : State) (k : Nat) (d : Slot) : (State.setSlot s k d).fuse = s.fuse := rfl
@[simp] theorem State.setSlot_top (s : State) (k : Nat) (d : Slot) : (State.setSlot s k d).top = s.top := rfl
@[simp] theorem State.setSlot_pcie (s : State) (k : Nat) (d : Slot) : (State.setSlot s k d).pcie = s.pcie := rfl
@[simp] theorem State.setSlot_lcs (s : State) (k : Nat) (d : Slot) : (State.setSlot s k d).lcs = s.lcs := rfl
@[simp] theorem State.setSlot_dram (s : State) (k : Nat) (d : Slot) : (State.setSlot s k d).dram = s.dram := rfl
@[simp] theorem State.setSlot_poison (s : State) (k : Nat) (d : Slot) : (State.setSlot s k d).poison = s.poison := rfl
@[simp] theorem State.setSlot_hostMem (s : State) (k : Nat) (d : Slot) : (State.setSlot s k d).hostMem = s.hostMem := rfl
@[simp] theorem State.setSlot_time (s : State) (k : Nat) (d : Slot) : (State.setSlot s k d).time = s.time := rfl
@[simp] theorem State.setSlot_web (s : State) (k : Nat) (d : Slot) : (State.setSlot s k d).web = s.web := rfl
@[simp] theorem State.setSlot_axis (s : State) (k : Nat) (d : Slot) : (State.setSlot s k d).axis = s.axis := rfl
@[simp] theorem State.setSlot_frames (s : State) (k : Nat) (d : Slot) : (State.setSlot s k d).frames = s.frames := rfl
@[simp] theorem State.setSlot_prn (s : State) (k : Nat) (d : Slot) : (State.setSlot s k d).prn = s.prn := rfl
@[simp] theorem State.setSlot_fire (s : State) (k : Nat) (d : Slot) : (State.setSlot s k d).fire = s.fire := rfl
@[simp] theorem State.setSlot_rein (s : State) (k : Nat) (d : Slot) : (State.setSlot s k d).rein = s.rein := rfl
@[simp] theorem State.setSlot_chain (s : State) (k : Nat) (d : Slot) : (State.setSlot s k d).chain = s.chain := rfl
@[simp] theorem State.setSlot_tan (s : State) (k : Nat) (d : Slot) : (State.setSlot s k d).tan = s.tan := rfl
@[simp] theorem State.setSlot_thm (s : State) (k : Nat) (d : Slot) : (State.setSlot s k d).thm = s.thm := rfl
@[simp] theorem State.setSlot_cal (s : State) (k : Nat) (d : Slot) : (State.setSlot s k d).cal = s.cal := rfl
@[simp] theorem State.setSlot_scan (s : State) (k : Nat) (d : Slot) : (State.setSlot s k d).scan = s.scan := rfl
@[simp] theorem State.setSlot_cam (s : State) (k : Nat) (d : Slot) : (State.setSlot s k d).cam = s.cam := rfl
@[simp] theorem State.setSlot_mem (s : State) (k : Nat) (d : Slot) : (State.setSlot s k d).mem = s.mem := rfl

/-! ### `State.setBuf` -/

@[simp] theorem State.setBuf_pending (s : State) (h : Nat) (b : BufEntry) : (State.setBuf s h b).pending = s.pending := rfl
@[simp] theorem State.setBuf_uptime (s : State) (h : Nat) (b : BufEntry) : (State.setBuf s h b).uptime = s.uptime := rfl
@[simp] theorem State.setBuf_wall (s : State) (h : Nat) (b : BufEntry) : (State.setBuf s h b).wall = s.wall := rfl
@[simp] theorem State.setBuf_free (s : State) (h : Nat) (b : BufEntry) : (State.setBuf s h b).free = s.free := rfl
@[simp] theorem State.setBuf_out (s : State) (h : Nat) (b : BufEntry) : (State.setBuf s h b).out = s.out := rfl
@[simp] theorem State.setBuf_fuse (s : State) (h : Nat) (b : BufEntry) : (State.setBuf s h b).fuse = s.fuse := rfl
@[simp] theorem State.setBuf_top (s : State) (h : Nat) (b : BufEntry) : (State.setBuf s h b).top = s.top := rfl
@[simp] theorem State.setBuf_pcie (s : State) (h : Nat) (b : BufEntry) : (State.setBuf s h b).pcie = s.pcie := rfl
@[simp] theorem State.setBuf_lcs (s : State) (h : Nat) (b : BufEntry) : (State.setBuf s h b).lcs = s.lcs := rfl
@[simp] theorem State.setBuf_dram (s : State) (h : Nat) (b : BufEntry) : (State.setBuf s h b).dram = s.dram := rfl
@[simp] theorem State.setBuf_poison (s : State) (h : Nat) (b : BufEntry) : (State.setBuf s h b).poison = s.poison := rfl
@[simp] theorem State.setBuf_hostMem (s : State) (h : Nat) (b : BufEntry) : (State.setBuf s h b).hostMem = s.hostMem := rfl
@[simp] theorem State.setBuf_time (s : State) (h : Nat) (b : BufEntry) : (State.setBuf s h b).time = s.time := rfl
@[simp] theorem State.setBuf_web (s : State) (h : Nat) (b : BufEntry) : (State.setBuf s h b).web = s.web := rfl
@[simp] theorem State.setBuf_axis (s : State) (h : Nat) (b : BufEntry) : (State.setBuf s h b).axis = s.axis := rfl
@[simp] theorem State.setBuf_frames (s : State) (h : Nat) (b : BufEntry) : (State.setBuf s h b).frames = s.frames := rfl
@[simp] theorem State.setBuf_prn (s : State) (h : Nat) (b : BufEntry) : (State.setBuf s h b).prn = s.prn := rfl
@[simp] theorem State.setBuf_fire (s : State) (h : Nat) (b : BufEntry) : (State.setBuf s h b).fire = s.fire := rfl
@[simp] theorem State.setBuf_rein (s : State) (h : Nat) (b : BufEntry) : (State.setBuf s h b).rein = s.rein := rfl
@[simp] theorem State.setBuf_chain (s : State) (h : Nat) (b : BufEntry) : (State.setBuf s h b).chain = s.chain := rfl
@[simp] theorem State.setBuf_tan (s : State) (h : Nat) (b : BufEntry) : (State.setBuf s h b).tan = s.tan := rfl
@[simp] theorem State.setBuf_thm (s : State) (h : Nat) (b : BufEntry) : (State.setBuf s h b).thm = s.thm := rfl
@[simp] theorem State.setBuf_cal (s : State) (h : Nat) (b : BufEntry) : (State.setBuf s h b).cal = s.cal := rfl
@[simp] theorem State.setBuf_scan (s : State) (h : Nat) (b : BufEntry) : (State.setBuf s h b).scan = s.scan := rfl
@[simp] theorem State.setBuf_cam (s : State) (h : Nat) (b : BufEntry) : (State.setBuf s h b).cam = s.cam := rfl
@[simp] theorem State.setBuf_mem (s : State) (h : Nat) (b : BufEntry) : (State.setBuf s h b).mem = s.mem := rfl

/-! ### `dramStore` -/

@[simp] theorem dramStore_pending (addr : Nat) (bs : List Byte) (s : State) : (dramStore addr bs s).pending = s.pending := rfl
@[simp] theorem dramStore_uptime (addr : Nat) (bs : List Byte) (s : State) : (dramStore addr bs s).uptime = s.uptime := rfl
@[simp] theorem dramStore_wall (addr : Nat) (bs : List Byte) (s : State) : (dramStore addr bs s).wall = s.wall := rfl
@[simp] theorem dramStore_free (addr : Nat) (bs : List Byte) (s : State) : (dramStore addr bs s).free = s.free := rfl
@[simp] theorem dramStore_out (addr : Nat) (bs : List Byte) (s : State) : (dramStore addr bs s).out = s.out := rfl
@[simp] theorem dramStore_fuse (addr : Nat) (bs : List Byte) (s : State) : (dramStore addr bs s).fuse = s.fuse := rfl
@[simp] theorem dramStore_top (addr : Nat) (bs : List Byte) (s : State) : (dramStore addr bs s).top = s.top := rfl
@[simp] theorem dramStore_cmd (addr : Nat) (bs : List Byte) (s : State) : (dramStore addr bs s).cmd = s.cmd := rfl
@[simp] theorem dramStore_pcie (addr : Nat) (bs : List Byte) (s : State) : (dramStore addr bs s).pcie = s.pcie := rfl
@[simp] theorem dramStore_lcs (addr : Nat) (bs : List Byte) (s : State) : (dramStore addr bs s).lcs = s.lcs := rfl
@[simp] theorem dramStore_hostMem (addr : Nat) (bs : List Byte) (s : State) : (dramStore addr bs s).hostMem = s.hostMem := rfl
@[simp] theorem dramStore_time (addr : Nat) (bs : List Byte) (s : State) : (dramStore addr bs s).time = s.time := rfl
@[simp] theorem dramStore_web (addr : Nat) (bs : List Byte) (s : State) : (dramStore addr bs s).web = s.web := rfl
@[simp] theorem dramStore_axis (addr : Nat) (bs : List Byte) (s : State) : (dramStore addr bs s).axis = s.axis := rfl
@[simp] theorem dramStore_frames (addr : Nat) (bs : List Byte) (s : State) : (dramStore addr bs s).frames = s.frames := rfl
@[simp] theorem dramStore_prn (addr : Nat) (bs : List Byte) (s : State) : (dramStore addr bs s).prn = s.prn := rfl
@[simp] theorem dramStore_fire (addr : Nat) (bs : List Byte) (s : State) : (dramStore addr bs s).fire = s.fire := rfl
@[simp] theorem dramStore_rein (addr : Nat) (bs : List Byte) (s : State) : (dramStore addr bs s).rein = s.rein := rfl
@[simp] theorem dramStore_chain (addr : Nat) (bs : List Byte) (s : State) : (dramStore addr bs s).chain = s.chain := rfl
@[simp] theorem dramStore_tan (addr : Nat) (bs : List Byte) (s : State) : (dramStore addr bs s).tan = s.tan := rfl
@[simp] theorem dramStore_thm (addr : Nat) (bs : List Byte) (s : State) : (dramStore addr bs s).thm = s.thm := rfl
@[simp] theorem dramStore_cal (addr : Nat) (bs : List Byte) (s : State) : (dramStore addr bs s).cal = s.cal := rfl
@[simp] theorem dramStore_scan (addr : Nat) (bs : List Byte) (s : State) : (dramStore addr bs s).scan = s.scan := rfl
@[simp] theorem dramStore_cam (addr : Nat) (bs : List Byte) (s : State) : (dramStore addr bs s).cam = s.cam := rfl
@[simp] theorem dramStore_mem (addr : Nat) (bs : List Byte) (s : State) : (dramStore addr bs s).mem = s.mem := rfl

/-! ### `poisonBurst` -/

@[simp] theorem poisonBurst_pending (burst : Nat) (s : State) : (poisonBurst burst s).pending = s.pending := rfl
@[simp] theorem poisonBurst_uptime (burst : Nat) (s : State) : (poisonBurst burst s).uptime = s.uptime := rfl
@[simp] theorem poisonBurst_wall (burst : Nat) (s : State) : (poisonBurst burst s).wall = s.wall := rfl
@[simp] theorem poisonBurst_free (burst : Nat) (s : State) : (poisonBurst burst s).free = s.free := rfl
@[simp] theorem poisonBurst_out (burst : Nat) (s : State) : (poisonBurst burst s).out = s.out := rfl
@[simp] theorem poisonBurst_fuse (burst : Nat) (s : State) : (poisonBurst burst s).fuse = s.fuse := rfl
@[simp] theorem poisonBurst_top (burst : Nat) (s : State) : (poisonBurst burst s).top = s.top := rfl
@[simp] theorem poisonBurst_cmd (burst : Nat) (s : State) : (poisonBurst burst s).cmd = s.cmd := rfl
@[simp] theorem poisonBurst_pcie (burst : Nat) (s : State) : (poisonBurst burst s).pcie = s.pcie := rfl
@[simp] theorem poisonBurst_lcs (burst : Nat) (s : State) : (poisonBurst burst s).lcs = s.lcs := rfl
@[simp] theorem poisonBurst_dram (burst : Nat) (s : State) : (poisonBurst burst s).dram = s.dram := rfl
@[simp] theorem poisonBurst_hostMem (burst : Nat) (s : State) : (poisonBurst burst s).hostMem = s.hostMem := rfl
@[simp] theorem poisonBurst_time (burst : Nat) (s : State) : (poisonBurst burst s).time = s.time := rfl
@[simp] theorem poisonBurst_web (burst : Nat) (s : State) : (poisonBurst burst s).web = s.web := rfl
@[simp] theorem poisonBurst_axis (burst : Nat) (s : State) : (poisonBurst burst s).axis = s.axis := rfl
@[simp] theorem poisonBurst_frames (burst : Nat) (s : State) : (poisonBurst burst s).frames = s.frames := rfl
@[simp] theorem poisonBurst_prn (burst : Nat) (s : State) : (poisonBurst burst s).prn = s.prn := rfl
@[simp] theorem poisonBurst_fire (burst : Nat) (s : State) : (poisonBurst burst s).fire = s.fire := rfl
@[simp] theorem poisonBurst_rein (burst : Nat) (s : State) : (poisonBurst burst s).rein = s.rein := rfl
@[simp] theorem poisonBurst_chain (burst : Nat) (s : State) : (poisonBurst burst s).chain = s.chain := rfl
@[simp] theorem poisonBurst_tan (burst : Nat) (s : State) : (poisonBurst burst s).tan = s.tan := rfl
@[simp] theorem poisonBurst_thm (burst : Nat) (s : State) : (poisonBurst burst s).thm = s.thm := rfl
@[simp] theorem poisonBurst_cal (burst : Nat) (s : State) : (poisonBurst burst s).cal = s.cal := rfl
@[simp] theorem poisonBurst_scan (burst : Nat) (s : State) : (poisonBurst burst s).scan = s.scan := rfl
@[simp] theorem poisonBurst_cam (burst : Nat) (s : State) : (poisonBurst burst s).cam = s.cam := rfl
@[simp] theorem poisonBurst_mem (burst : Nat) (s : State) : (poisonBurst burst s).mem = s.mem := rfl

/-! ### `State.setCmdRing` -/

@[simp] theorem State.setCmdRing_pending (s : State) (n : Nat) (r : CmdRing) : (State.setCmdRing s n r).pending = s.pending := rfl
@[simp] theorem State.setCmdRing_uptime (s : State) (n : Nat) (r : CmdRing) : (State.setCmdRing s n r).uptime = s.uptime := rfl
@[simp] theorem State.setCmdRing_wall (s : State) (n : Nat) (r : CmdRing) : (State.setCmdRing s n r).wall = s.wall := rfl
@[simp] theorem State.setCmdRing_free (s : State) (n : Nat) (r : CmdRing) : (State.setCmdRing s n r).free = s.free := rfl
@[simp] theorem State.setCmdRing_out (s : State) (n : Nat) (r : CmdRing) : (State.setCmdRing s n r).out = s.out := rfl
@[simp] theorem State.setCmdRing_fuse (s : State) (n : Nat) (r : CmdRing) : (State.setCmdRing s n r).fuse = s.fuse := rfl
@[simp] theorem State.setCmdRing_top (s : State) (n : Nat) (r : CmdRing) : (State.setCmdRing s n r).top = s.top := rfl
@[simp] theorem State.setCmdRing_pcie (s : State) (n : Nat) (r : CmdRing) : (State.setCmdRing s n r).pcie = s.pcie := rfl
@[simp] theorem State.setCmdRing_lcs (s : State) (n : Nat) (r : CmdRing) : (State.setCmdRing s n r).lcs = s.lcs := rfl
@[simp] theorem State.setCmdRing_dram (s : State) (n : Nat) (r : CmdRing) : (State.setCmdRing s n r).dram = s.dram := rfl
@[simp] theorem State.setCmdRing_poison (s : State) (n : Nat) (r : CmdRing) : (State.setCmdRing s n r).poison = s.poison := rfl
@[simp] theorem State.setCmdRing_hostMem (s : State) (n : Nat) (r : CmdRing) : (State.setCmdRing s n r).hostMem = s.hostMem := rfl
@[simp] theorem State.setCmdRing_time (s : State) (n : Nat) (r : CmdRing) : (State.setCmdRing s n r).time = s.time := rfl
@[simp] theorem State.setCmdRing_web (s : State) (n : Nat) (r : CmdRing) : (State.setCmdRing s n r).web = s.web := rfl
@[simp] theorem State.setCmdRing_axis (s : State) (n : Nat) (r : CmdRing) : (State.setCmdRing s n r).axis = s.axis := rfl
@[simp] theorem State.setCmdRing_frames (s : State) (n : Nat) (r : CmdRing) : (State.setCmdRing s n r).frames = s.frames := rfl
@[simp] theorem State.setCmdRing_prn (s : State) (n : Nat) (r : CmdRing) : (State.setCmdRing s n r).prn = s.prn := rfl
@[simp] theorem State.setCmdRing_fire (s : State) (n : Nat) (r : CmdRing) : (State.setCmdRing s n r).fire = s.fire := rfl
@[simp] theorem State.setCmdRing_rein (s : State) (n : Nat) (r : CmdRing) : (State.setCmdRing s n r).rein = s.rein := rfl
@[simp] theorem State.setCmdRing_chain (s : State) (n : Nat) (r : CmdRing) : (State.setCmdRing s n r).chain = s.chain := rfl
@[simp] theorem State.setCmdRing_tan (s : State) (n : Nat) (r : CmdRing) : (State.setCmdRing s n r).tan = s.tan := rfl
@[simp] theorem State.setCmdRing_thm (s : State) (n : Nat) (r : CmdRing) : (State.setCmdRing s n r).thm = s.thm := rfl
@[simp] theorem State.setCmdRing_cal (s : State) (n : Nat) (r : CmdRing) : (State.setCmdRing s n r).cal = s.cal := rfl
@[simp] theorem State.setCmdRing_scan (s : State) (n : Nat) (r : CmdRing) : (State.setCmdRing s n r).scan = s.scan := rfl
@[simp] theorem State.setCmdRing_cam (s : State) (n : Nat) (r : CmdRing) : (State.setCmdRing s n r).cam = s.cam := rfl
@[simp] theorem State.setCmdRing_mem (s : State) (n : Nat) (r : CmdRing) : (State.setCmdRing s n r).mem = s.mem := rfl

/-! ### `State.setChan` -/

@[simp] theorem State.setChan_pending (s : State) (n : Nat) (c : Channel) : (State.setChan s n c).pending = s.pending := rfl
@[simp] theorem State.setChan_uptime (s : State) (n : Nat) (c : Channel) : (State.setChan s n c).uptime = s.uptime := rfl
@[simp] theorem State.setChan_wall (s : State) (n : Nat) (c : Channel) : (State.setChan s n c).wall = s.wall := rfl
@[simp] theorem State.setChan_free (s : State) (n : Nat) (c : Channel) : (State.setChan s n c).free = s.free := rfl
@[simp] theorem State.setChan_out (s : State) (n : Nat) (c : Channel) : (State.setChan s n c).out = s.out := rfl
@[simp] theorem State.setChan_fuse (s : State) (n : Nat) (c : Channel) : (State.setChan s n c).fuse = s.fuse := rfl
@[simp] theorem State.setChan_top (s : State) (n : Nat) (c : Channel) : (State.setChan s n c).top = s.top := rfl
@[simp] theorem State.setChan_cmd (s : State) (n : Nat) (c : Channel) : (State.setChan s n c).cmd = s.cmd := rfl
@[simp] theorem State.setChan_pcie (s : State) (n : Nat) (c : Channel) : (State.setChan s n c).pcie = s.pcie := rfl
@[simp] theorem State.setChan_lcs (s : State) (n : Nat) (c : Channel) : (State.setChan s n c).lcs = s.lcs := rfl
@[simp] theorem State.setChan_dram (s : State) (n : Nat) (c : Channel) : (State.setChan s n c).dram = s.dram := rfl
@[simp] theorem State.setChan_poison (s : State) (n : Nat) (c : Channel) : (State.setChan s n c).poison = s.poison := rfl
@[simp] theorem State.setChan_hostMem (s : State) (n : Nat) (c : Channel) : (State.setChan s n c).hostMem = s.hostMem := rfl
@[simp] theorem State.setChan_time (s : State) (n : Nat) (c : Channel) : (State.setChan s n c).time = s.time := rfl
@[simp] theorem State.setChan_axis (s : State) (n : Nat) (c : Channel) : (State.setChan s n c).axis = s.axis := rfl
@[simp] theorem State.setChan_frames (s : State) (n : Nat) (c : Channel) : (State.setChan s n c).frames = s.frames := rfl
@[simp] theorem State.setChan_prn (s : State) (n : Nat) (c : Channel) : (State.setChan s n c).prn = s.prn := rfl
@[simp] theorem State.setChan_fire (s : State) (n : Nat) (c : Channel) : (State.setChan s n c).fire = s.fire := rfl
@[simp] theorem State.setChan_rein (s : State) (n : Nat) (c : Channel) : (State.setChan s n c).rein = s.rein := rfl
@[simp] theorem State.setChan_chain (s : State) (n : Nat) (c : Channel) : (State.setChan s n c).chain = s.chain := rfl
@[simp] theorem State.setChan_tan (s : State) (n : Nat) (c : Channel) : (State.setChan s n c).tan = s.tan := rfl
@[simp] theorem State.setChan_thm (s : State) (n : Nat) (c : Channel) : (State.setChan s n c).thm = s.thm := rfl
@[simp] theorem State.setChan_cal (s : State) (n : Nat) (c : Channel) : (State.setChan s n c).cal = s.cal := rfl
@[simp] theorem State.setChan_scan (s : State) (n : Nat) (c : Channel) : (State.setChan s n c).scan = s.scan := rfl
@[simp] theorem State.setChan_cam (s : State) (n : Nat) (c : Channel) : (State.setChan s n c).cam = s.cam := rfl
@[simp] theorem State.setChan_mem (s : State) (n : Nat) (c : Channel) : (State.setChan s n c).mem = s.mem := rfl

/-! ### `State.setWebBar` -/

@[simp] theorem State.setWebBar_pending (s : State) (b : Nat) (x : WebBar) : (State.setWebBar s b x).pending = s.pending := rfl
@[simp] theorem State.setWebBar_uptime (s : State) (b : Nat) (x : WebBar) : (State.setWebBar s b x).uptime = s.uptime := rfl
@[simp] theorem State.setWebBar_wall (s : State) (b : Nat) (x : WebBar) : (State.setWebBar s b x).wall = s.wall := rfl
@[simp] theorem State.setWebBar_free (s : State) (b : Nat) (x : WebBar) : (State.setWebBar s b x).free = s.free := rfl
@[simp] theorem State.setWebBar_out (s : State) (b : Nat) (x : WebBar) : (State.setWebBar s b x).out = s.out := rfl
@[simp] theorem State.setWebBar_fuse (s : State) (b : Nat) (x : WebBar) : (State.setWebBar s b x).fuse = s.fuse := rfl
@[simp] theorem State.setWebBar_top (s : State) (b : Nat) (x : WebBar) : (State.setWebBar s b x).top = s.top := rfl
@[simp] theorem State.setWebBar_cmd (s : State) (b : Nat) (x : WebBar) : (State.setWebBar s b x).cmd = s.cmd := rfl
@[simp] theorem State.setWebBar_pcie (s : State) (b : Nat) (x : WebBar) : (State.setWebBar s b x).pcie = s.pcie := rfl
@[simp] theorem State.setWebBar_lcs (s : State) (b : Nat) (x : WebBar) : (State.setWebBar s b x).lcs = s.lcs := rfl
@[simp] theorem State.setWebBar_dram (s : State) (b : Nat) (x : WebBar) : (State.setWebBar s b x).dram = s.dram := rfl
@[simp] theorem State.setWebBar_poison (s : State) (b : Nat) (x : WebBar) : (State.setWebBar s b x).poison = s.poison := rfl
@[simp] theorem State.setWebBar_hostMem (s : State) (b : Nat) (x : WebBar) : (State.setWebBar s b x).hostMem = s.hostMem := rfl
@[simp] theorem State.setWebBar_time (s : State) (b : Nat) (x : WebBar) : (State.setWebBar s b x).time = s.time := rfl
@[simp] theorem State.setWebBar_axis (s : State) (b : Nat) (x : WebBar) : (State.setWebBar s b x).axis = s.axis := rfl
@[simp] theorem State.setWebBar_frames (s : State) (b : Nat) (x : WebBar) : (State.setWebBar s b x).frames = s.frames := rfl
@[simp] theorem State.setWebBar_prn (s : State) (b : Nat) (x : WebBar) : (State.setWebBar s b x).prn = s.prn := rfl
@[simp] theorem State.setWebBar_fire (s : State) (b : Nat) (x : WebBar) : (State.setWebBar s b x).fire = s.fire := rfl
@[simp] theorem State.setWebBar_rein (s : State) (b : Nat) (x : WebBar) : (State.setWebBar s b x).rein = s.rein := rfl
@[simp] theorem State.setWebBar_chain (s : State) (b : Nat) (x : WebBar) : (State.setWebBar s b x).chain = s.chain := rfl
@[simp] theorem State.setWebBar_tan (s : State) (b : Nat) (x : WebBar) : (State.setWebBar s b x).tan = s.tan := rfl
@[simp] theorem State.setWebBar_thm (s : State) (b : Nat) (x : WebBar) : (State.setWebBar s b x).thm = s.thm := rfl
@[simp] theorem State.setWebBar_cal (s : State) (b : Nat) (x : WebBar) : (State.setWebBar s b x).cal = s.cal := rfl
@[simp] theorem State.setWebBar_scan (s : State) (b : Nat) (x : WebBar) : (State.setWebBar s b x).scan = s.scan := rfl
@[simp] theorem State.setWebBar_cam (s : State) (b : Nat) (x : WebBar) : (State.setWebBar s b x).cam = s.cam := rfl
@[simp] theorem State.setWebBar_mem (s : State) (b : Nat) (x : WebBar) : (State.setWebBar s b x).mem = s.mem := rfl

/-! ### `State.withWeb` -/

@[simp] theorem State.withWeb_pending (s : State) (f : Web → Web) : (State.withWeb s f).pending = s.pending := rfl
@[simp] theorem State.withWeb_uptime (s : State) (f : Web → Web) : (State.withWeb s f).uptime = s.uptime := rfl
@[simp] theorem State.withWeb_wall (s : State) (f : Web → Web) : (State.withWeb s f).wall = s.wall := rfl
@[simp] theorem State.withWeb_free (s : State) (f : Web → Web) : (State.withWeb s f).free = s.free := rfl
@[simp] theorem State.withWeb_out (s : State) (f : Web → Web) : (State.withWeb s f).out = s.out := rfl
@[simp] theorem State.withWeb_fuse (s : State) (f : Web → Web) : (State.withWeb s f).fuse = s.fuse := rfl
@[simp] theorem State.withWeb_top (s : State) (f : Web → Web) : (State.withWeb s f).top = s.top := rfl
@[simp] theorem State.withWeb_cmd (s : State) (f : Web → Web) : (State.withWeb s f).cmd = s.cmd := rfl
@[simp] theorem State.withWeb_pcie (s : State) (f : Web → Web) : (State.withWeb s f).pcie = s.pcie := rfl
@[simp] theorem State.withWeb_lcs (s : State) (f : Web → Web) : (State.withWeb s f).lcs = s.lcs := rfl
@[simp] theorem State.withWeb_dram (s : State) (f : Web → Web) : (State.withWeb s f).dram = s.dram := rfl
@[simp] theorem State.withWeb_poison (s : State) (f : Web → Web) : (State.withWeb s f).poison = s.poison := rfl
@[simp] theorem State.withWeb_hostMem (s : State) (f : Web → Web) : (State.withWeb s f).hostMem = s.hostMem := rfl
@[simp] theorem State.withWeb_time (s : State) (f : Web → Web) : (State.withWeb s f).time = s.time := rfl
@[simp] theorem State.withWeb_axis (s : State) (f : Web → Web) : (State.withWeb s f).axis = s.axis := rfl
@[simp] theorem State.withWeb_frames (s : State) (f : Web → Web) : (State.withWeb s f).frames = s.frames := rfl
@[simp] theorem State.withWeb_prn (s : State) (f : Web → Web) : (State.withWeb s f).prn = s.prn := rfl
@[simp] theorem State.withWeb_fire (s : State) (f : Web → Web) : (State.withWeb s f).fire = s.fire := rfl
@[simp] theorem State.withWeb_rein (s : State) (f : Web → Web) : (State.withWeb s f).rein = s.rein := rfl
@[simp] theorem State.withWeb_chain (s : State) (f : Web → Web) : (State.withWeb s f).chain = s.chain := rfl
@[simp] theorem State.withWeb_tan (s : State) (f : Web → Web) : (State.withWeb s f).tan = s.tan := rfl
@[simp] theorem State.withWeb_thm (s : State) (f : Web → Web) : (State.withWeb s f).thm = s.thm := rfl
@[simp] theorem State.withWeb_cal (s : State) (f : Web → Web) : (State.withWeb s f).cal = s.cal := rfl
@[simp] theorem State.withWeb_scan (s : State) (f : Web → Web) : (State.withWeb s f).scan = s.scan := rfl
@[simp] theorem State.withWeb_cam (s : State) (f : Web → Web) : (State.withWeb s f).cam = s.cam := rfl
@[simp] theorem State.withWeb_mem (s : State) (f : Web → Web) : (State.withWeb s f).mem = s.mem := rfl
@[simp] theorem State.withWeb_web (s : State) (f : Web → Web) : (State.withWeb s f).web = f s.web := rfl

/-! ### `clearLastValid` -/

@[simp] theorem clearLastValid_pending (s : State) : (clearLastValid s).pending = s.pending := rfl
@[simp] theorem clearLastValid_uptime (s : State) : (clearLastValid s).uptime = s.uptime := rfl
@[simp] theorem clearLastValid_wall (s : State) : (clearLastValid s).wall = s.wall := rfl
@[simp] theorem clearLastValid_free (s : State) : (clearLastValid s).free = s.free := rfl
@[simp] theorem clearLastValid_out (s : State) : (clearLastValid s).out = s.out := rfl
@[simp] theorem clearLastValid_fuse (s : State) : (clearLastValid s).fuse = s.fuse := rfl
@[simp] theorem clearLastValid_top (s : State) : (clearLastValid s).top = s.top := rfl
@[simp] theorem clearLastValid_cmd (s : State) : (clearLastValid s).cmd = s.cmd := rfl
@[simp] theorem clearLastValid_pcie (s : State) : (clearLastValid s).pcie = s.pcie := rfl
@[simp] theorem clearLastValid_lcs (s : State) : (clearLastValid s).lcs = s.lcs := rfl
@[simp] theorem clearLastValid_dram (s : State) : (clearLastValid s).dram = s.dram := rfl
@[simp] theorem clearLastValid_poison (s : State) : (clearLastValid s).poison = s.poison := rfl
@[simp] theorem clearLastValid_hostMem (s : State) : (clearLastValid s).hostMem = s.hostMem := rfl
@[simp] theorem clearLastValid_time (s : State) : (clearLastValid s).time = s.time := rfl
@[simp] theorem clearLastValid_axis (s : State) : (clearLastValid s).axis = s.axis := rfl
@[simp] theorem clearLastValid_frames (s : State) : (clearLastValid s).frames = s.frames := rfl
@[simp] theorem clearLastValid_prn (s : State) : (clearLastValid s).prn = s.prn := rfl
@[simp] theorem clearLastValid_fire (s : State) : (clearLastValid s).fire = s.fire := rfl
@[simp] theorem clearLastValid_rein (s : State) : (clearLastValid s).rein = s.rein := rfl
@[simp] theorem clearLastValid_chain (s : State) : (clearLastValid s).chain = s.chain := rfl
@[simp] theorem clearLastValid_tan (s : State) : (clearLastValid s).tan = s.tan := rfl
@[simp] theorem clearLastValid_thm (s : State) : (clearLastValid s).thm = s.thm := rfl
@[simp] theorem clearLastValid_cal (s : State) : (clearLastValid s).cal = s.cal := rfl
@[simp] theorem clearLastValid_scan (s : State) : (clearLastValid s).scan = s.scan := rfl
@[simp] theorem clearLastValid_cam (s : State) : (clearLastValid s).cam = s.cam := rfl
@[simp] theorem clearLastValid_mem (s : State) : (clearLastValid s).mem = s.mem := rfl

/-! ### `State.setLink` -/

@[simp] theorem State.setLink_pending (s : State) (l : Nat) (x : Link) : (State.setLink s l x).pending = s.pending := rfl
@[simp] theorem State.setLink_uptime (s : State) (l : Nat) (x : Link) : (State.setLink s l x).uptime = s.uptime := rfl
@[simp] theorem State.setLink_wall (s : State) (l : Nat) (x : Link) : (State.setLink s l x).wall = s.wall := rfl
@[simp] theorem State.setLink_free (s : State) (l : Nat) (x : Link) : (State.setLink s l x).free = s.free := rfl
@[simp] theorem State.setLink_out (s : State) (l : Nat) (x : Link) : (State.setLink s l x).out = s.out := rfl
@[simp] theorem State.setLink_fuse (s : State) (l : Nat) (x : Link) : (State.setLink s l x).fuse = s.fuse := rfl
@[simp] theorem State.setLink_top (s : State) (l : Nat) (x : Link) : (State.setLink s l x).top = s.top := rfl
@[simp] theorem State.setLink_cmd (s : State) (l : Nat) (x : Link) : (State.setLink s l x).cmd = s.cmd := rfl
@[simp] theorem State.setLink_pcie (s : State) (l : Nat) (x : Link) : (State.setLink s l x).pcie = s.pcie := rfl
@[simp] theorem State.setLink_lcs (s : State) (l : Nat) (x : Link) : (State.setLink s l x).lcs = s.lcs := rfl
@[simp] theorem State.setLink_dram (s : State) (l : Nat) (x : Link) : (State.setLink s l x).dram = s.dram := rfl
@[simp] theorem State.setLink_poison (s : State) (l : Nat) (x : Link) : (State.setLink s l x).poison = s.poison := rfl
@[simp] theorem State.setLink_hostMem (s : State) (l : Nat) (x : Link) : (State.setLink s l x).hostMem = s.hostMem := rfl
@[simp] theorem State.setLink_time (s : State) (l : Nat) (x : Link) : (State.setLink s l x).time = s.time := rfl
@[simp] theorem State.setLink_web (s : State) (l : Nat) (x : Link) : (State.setLink s l x).web = s.web := rfl
@[simp] theorem State.setLink_axis (s : State) (l : Nat) (x : Link) : (State.setLink s l x).axis = s.axis := rfl
@[simp] theorem State.setLink_frames (s : State) (l : Nat) (x : Link) : (State.setLink s l x).frames = s.frames := rfl
@[simp] theorem State.setLink_prn (s : State) (l : Nat) (x : Link) : (State.setLink s l x).prn = s.prn := rfl
@[simp] theorem State.setLink_fire (s : State) (l : Nat) (x : Link) : (State.setLink s l x).fire = s.fire := rfl
@[simp] theorem State.setLink_chain (s : State) (l : Nat) (x : Link) : (State.setLink s l x).chain = s.chain := rfl
@[simp] theorem State.setLink_tan (s : State) (l : Nat) (x : Link) : (State.setLink s l x).tan = s.tan := rfl
@[simp] theorem State.setLink_thm (s : State) (l : Nat) (x : Link) : (State.setLink s l x).thm = s.thm := rfl
@[simp] theorem State.setLink_cal (s : State) (l : Nat) (x : Link) : (State.setLink s l x).cal = s.cal := rfl
@[simp] theorem State.setLink_scan (s : State) (l : Nat) (x : Link) : (State.setLink s l x).scan = s.scan := rfl
@[simp] theorem State.setLink_cam (s : State) (l : Nat) (x : Link) : (State.setLink s l x).cam = s.cam := rfl
@[simp] theorem State.setLink_mem (s : State) (l : Nat) (x : Link) : (State.setLink s l x).mem = s.mem := rfl

/-! ### `State.setNode` -/

@[simp] theorem State.setNode_pending (s : State) (n : Nat) (x : NodeView) : (State.setNode s n x).pending = s.pending := rfl
@[simp] theorem State.setNode_uptime (s : State) (n : Nat) (x : NodeView) : (State.setNode s n x).uptime = s.uptime := rfl
@[simp] theorem State.setNode_wall (s : State) (n : Nat) (x : NodeView) : (State.setNode s n x).wall = s.wall := rfl
@[simp] theorem State.setNode_free (s : State) (n : Nat) (x : NodeView) : (State.setNode s n x).free = s.free := rfl
@[simp] theorem State.setNode_out (s : State) (n : Nat) (x : NodeView) : (State.setNode s n x).out = s.out := rfl
@[simp] theorem State.setNode_fuse (s : State) (n : Nat) (x : NodeView) : (State.setNode s n x).fuse = s.fuse := rfl
@[simp] theorem State.setNode_top (s : State) (n : Nat) (x : NodeView) : (State.setNode s n x).top = s.top := rfl
@[simp] theorem State.setNode_cmd (s : State) (n : Nat) (x : NodeView) : (State.setNode s n x).cmd = s.cmd := rfl
@[simp] theorem State.setNode_pcie (s : State) (n : Nat) (x : NodeView) : (State.setNode s n x).pcie = s.pcie := rfl
@[simp] theorem State.setNode_lcs (s : State) (n : Nat) (x : NodeView) : (State.setNode s n x).lcs = s.lcs := rfl
@[simp] theorem State.setNode_dram (s : State) (n : Nat) (x : NodeView) : (State.setNode s n x).dram = s.dram := rfl
@[simp] theorem State.setNode_poison (s : State) (n : Nat) (x : NodeView) : (State.setNode s n x).poison = s.poison := rfl
@[simp] theorem State.setNode_hostMem (s : State) (n : Nat) (x : NodeView) : (State.setNode s n x).hostMem = s.hostMem := rfl
@[simp] theorem State.setNode_time (s : State) (n : Nat) (x : NodeView) : (State.setNode s n x).time = s.time := rfl
@[simp] theorem State.setNode_web (s : State) (n : Nat) (x : NodeView) : (State.setNode s n x).web = s.web := rfl
@[simp] theorem State.setNode_axis (s : State) (n : Nat) (x : NodeView) : (State.setNode s n x).axis = s.axis := rfl
@[simp] theorem State.setNode_frames (s : State) (n : Nat) (x : NodeView) : (State.setNode s n x).frames = s.frames := rfl
@[simp] theorem State.setNode_prn (s : State) (n : Nat) (x : NodeView) : (State.setNode s n x).prn = s.prn := rfl
@[simp] theorem State.setNode_fire (s : State) (n : Nat) (x : NodeView) : (State.setNode s n x).fire = s.fire := rfl
@[simp] theorem State.setNode_chain (s : State) (n : Nat) (x : NodeView) : (State.setNode s n x).chain = s.chain := rfl
@[simp] theorem State.setNode_tan (s : State) (n : Nat) (x : NodeView) : (State.setNode s n x).tan = s.tan := rfl
@[simp] theorem State.setNode_thm (s : State) (n : Nat) (x : NodeView) : (State.setNode s n x).thm = s.thm := rfl
@[simp] theorem State.setNode_cal (s : State) (n : Nat) (x : NodeView) : (State.setNode s n x).cal = s.cal := rfl
@[simp] theorem State.setNode_scan (s : State) (n : Nat) (x : NodeView) : (State.setNode s n x).scan = s.scan := rfl
@[simp] theorem State.setNode_cam (s : State) (n : Nat) (x : NodeView) : (State.setNode s n x).cam = s.cam := rfl
@[simp] theorem State.setNode_mem (s : State) (n : Nat) (x : NodeView) : (State.setNode s n x).mem = s.mem := rfl

/-! ### `State.withTan` -/

@[simp] theorem State.withTan_pending (s : State) (f : Tandem → Tandem) : (State.withTan s f).pending = s.pending := rfl
@[simp] theorem State.withTan_uptime (s : State) (f : Tandem → Tandem) : (State.withTan s f).uptime = s.uptime := rfl
@[simp] theorem State.withTan_wall (s : State) (f : Tandem → Tandem) : (State.withTan s f).wall = s.wall := rfl
@[simp] theorem State.withTan_free (s : State) (f : Tandem → Tandem) : (State.withTan s f).free = s.free := rfl
@[simp] theorem State.withTan_out (s : State) (f : Tandem → Tandem) : (State.withTan s f).out = s.out := rfl
@[simp] theorem State.withTan_fuse (s : State) (f : Tandem → Tandem) : (State.withTan s f).fuse = s.fuse := rfl
@[simp] theorem State.withTan_top (s : State) (f : Tandem → Tandem) : (State.withTan s f).top = s.top := rfl
@[simp] theorem State.withTan_cmd (s : State) (f : Tandem → Tandem) : (State.withTan s f).cmd = s.cmd := rfl
@[simp] theorem State.withTan_pcie (s : State) (f : Tandem → Tandem) : (State.withTan s f).pcie = s.pcie := rfl
@[simp] theorem State.withTan_lcs (s : State) (f : Tandem → Tandem) : (State.withTan s f).lcs = s.lcs := rfl
@[simp] theorem State.withTan_dram (s : State) (f : Tandem → Tandem) : (State.withTan s f).dram = s.dram := rfl
@[simp] theorem State.withTan_poison (s : State) (f : Tandem → Tandem) : (State.withTan s f).poison = s.poison := rfl
@[simp] theorem State.withTan_hostMem (s : State) (f : Tandem → Tandem) : (State.withTan s f).hostMem = s.hostMem := rfl
@[simp] theorem State.withTan_time (s : State) (f : Tandem → Tandem) : (State.withTan s f).time = s.time := rfl
@[simp] theorem State.withTan_web (s : State) (f : Tandem → Tandem) : (State.withTan s f).web = s.web := rfl
@[simp] theorem State.withTan_axis (s : State) (f : Tandem → Tandem) : (State.withTan s f).axis = s.axis := rfl
@[simp] theorem State.withTan_frames (s : State) (f : Tandem → Tandem) : (State.withTan s f).frames = s.frames := rfl
@[simp] theorem State.withTan_prn (s : State) (f : Tandem → Tandem) : (State.withTan s f).prn = s.prn := rfl
@[simp] theorem State.withTan_fire (s : State) (f : Tandem → Tandem) : (State.withTan s f).fire = s.fire := rfl
@[simp] theorem State.withTan_rein (s : State) (f : Tandem → Tandem) : (State.withTan s f).rein = s.rein := rfl
@[simp] theorem State.withTan_chain (s : State) (f : Tandem → Tandem) : (State.withTan s f).chain = s.chain := rfl
@[simp] theorem State.withTan_thm (s : State) (f : Tandem → Tandem) : (State.withTan s f).thm = s.thm := rfl
@[simp] theorem State.withTan_cal (s : State) (f : Tandem → Tandem) : (State.withTan s f).cal = s.cal := rfl
@[simp] theorem State.withTan_scan (s : State) (f : Tandem → Tandem) : (State.withTan s f).scan = s.scan := rfl
@[simp] theorem State.withTan_cam (s : State) (f : Tandem → Tandem) : (State.withTan s f).cam = s.cam := rfl
@[simp] theorem State.withTan_mem (s : State) (f : Tandem → Tandem) : (State.withTan s f).mem = s.mem := rfl
@[simp] theorem State.withTan_tan (s : State) (f : Tandem → Tandem) : (State.withTan s f).tan = f s.tan := rfl

/-! ### `State.withThm` -/

@[simp] theorem State.withThm_pending (s : State) (f : Thermal → Thermal) : (State.withThm s f).pending = s.pending := rfl
@[simp] theorem State.withThm_uptime (s : State) (f : Thermal → Thermal) : (State.withThm s f).uptime = s.uptime := rfl
@[simp] theorem State.withThm_wall (s : State) (f : Thermal → Thermal) : (State.withThm s f).wall = s.wall := rfl
@[simp] theorem State.withThm_free (s : State) (f : Thermal → Thermal) : (State.withThm s f).free = s.free := rfl
@[simp] theorem State.withThm_out (s : State) (f : Thermal → Thermal) : (State.withThm s f).out = s.out := rfl
@[simp] theorem State.withThm_fuse (s : State) (f : Thermal → Thermal) : (State.withThm s f).fuse = s.fuse := rfl
@[simp] theorem State.withThm_top (s : State) (f : Thermal → Thermal) : (State.withThm s f).top = s.top := rfl
@[simp] theorem State.withThm_cmd (s : State) (f : Thermal → Thermal) : (State.withThm s f).cmd = s.cmd := rfl
@[simp] theorem State.withThm_pcie (s : State) (f : Thermal → Thermal) : (State.withThm s f).pcie = s.pcie := rfl
@[simp] theorem State.withThm_lcs (s : State) (f : Thermal → Thermal) : (State.withThm s f).lcs = s.lcs := rfl
@[simp] theorem State.withThm_dram (s : State) (f : Thermal → Thermal) : (State.withThm s f).dram = s.dram := rfl
@[simp] theorem State.withThm_poison (s : State) (f : Thermal → Thermal) : (State.withThm s f).poison = s.poison := rfl
@[simp] theorem State.withThm_hostMem (s : State) (f : Thermal → Thermal) : (State.withThm s f).hostMem = s.hostMem := rfl
@[simp] theorem State.withThm_time (s : State) (f : Thermal → Thermal) : (State.withThm s f).time = s.time := rfl
@[simp] theorem State.withThm_web (s : State) (f : Thermal → Thermal) : (State.withThm s f).web = s.web := rfl
@[simp] theorem State.withThm_axis (s : State) (f : Thermal → Thermal) : (State.withThm s f).axis = s.axis := rfl
@[simp] theorem State.withThm_frames (s : State) (f : Thermal → Thermal) : (State.withThm s f).frames = s.frames := rfl
@[simp] theorem State.withThm_prn (s : State) (f : Thermal → Thermal) : (State.withThm s f).prn = s.prn := rfl
@[simp] theorem State.withThm_fire (s : State) (f : Thermal → Thermal) : (State.withThm s f).fire = s.fire := rfl
@[simp] theorem State.withThm_rein (s : State) (f : Thermal → Thermal) : (State.withThm s f).rein = s.rein := rfl
@[simp] theorem State.withThm_chain (s : State) (f : Thermal → Thermal) : (State.withThm s f).chain = s.chain := rfl
@[simp] theorem State.withThm_tan (s : State) (f : Thermal → Thermal) : (State.withThm s f).tan = s.tan := rfl
@[simp] theorem State.withThm_cal (s : State) (f : Thermal → Thermal) : (State.withThm s f).cal = s.cal := rfl
@[simp] theorem State.withThm_scan (s : State) (f : Thermal → Thermal) : (State.withThm s f).scan = s.scan := rfl
@[simp] theorem State.withThm_cam (s : State) (f : Thermal → Thermal) : (State.withThm s f).cam = s.cam := rfl
@[simp] theorem State.withThm_mem (s : State) (f : Thermal → Thermal) : (State.withThm s f).mem = s.mem := rfl
@[simp] theorem State.withThm_thm (s : State) (f : Thermal → Thermal) : (State.withThm s f).thm = f s.thm := rfl

/-! ### `State.setSensor` -/

@[simp] theorem State.setSensor_pending (s : State) (code : Nat) (x : Sensor) : (State.setSensor s code x).pending = s.pending := rfl
@[simp] theorem State.setSensor_uptime (s : State) (code : Nat) (x : Sensor) : (State.setSensor s code x).uptime = s.uptime := rfl
@[simp] theorem State.setSensor_wall (s : State) (code : Nat) (x : Sensor) : (State.setSensor s code x).wall = s.wall := rfl
@[simp] theorem State.setSensor_free (s : State) (code : Nat) (x : Sensor) : (State.setSensor s code x).free = s.free := rfl
@[simp] theorem State.setSensor_out (s : State) (code : Nat) (x : Sensor) : (State.setSensor s code x).out = s.out := rfl
@[simp] theorem State.setSensor_fuse (s : State) (code : Nat) (x : Sensor) : (State.setSensor s code x).fuse = s.fuse := rfl
@[simp] theorem State.setSensor_top (s : State) (code : Nat) (x : Sensor) : (State.setSensor s code x).top = s.top := rfl
@[simp] theorem State.setSensor_cmd (s : State) (code : Nat) (x : Sensor) : (State.setSensor s code x).cmd = s.cmd := rfl
@[simp] theorem State.setSensor_pcie (s : State) (code : Nat) (x : Sensor) : (State.setSensor s code x).pcie = s.pcie := rfl
@[simp] theorem State.setSensor_lcs (s : State) (code : Nat) (x : Sensor) : (State.setSensor s code x).lcs = s.lcs := rfl
@[simp] theorem State.setSensor_dram (s : State) (code : Nat) (x : Sensor) : (State.setSensor s code x).dram = s.dram := rfl
@[simp] theorem State.setSensor_poison (s : State) (code : Nat) (x : Sensor) : (State.setSensor s code x).poison = s.poison := rfl
@[simp] theorem State.setSensor_hostMem (s : State) (code : Nat) (x : Sensor) : (State.setSensor s code x).hostMem = s.hostMem := rfl
@[simp] theorem State.setSensor_time (s : State) (code : Nat) (x : Sensor) : (State.setSensor s code x).time = s.time := rfl
@[simp] theorem State.setSensor_web (s : State) (code : Nat) (x : Sensor) : (State.setSensor s code x).web = s.web := rfl
@[simp] theorem State.setSensor_axis (s : State) (code : Nat) (x : Sensor) : (State.setSensor s code x).axis = s.axis := rfl
@[simp] theorem State.setSensor_frames (s : State) (code : Nat) (x : Sensor) : (State.setSensor s code x).frames = s.frames := rfl
@[simp] theorem State.setSensor_prn (s : State) (code : Nat) (x : Sensor) : (State.setSensor s code x).prn = s.prn := rfl
@[simp] theorem State.setSensor_fire (s : State) (code : Nat) (x : Sensor) : (State.setSensor s code x).fire = s.fire := rfl
@[simp] theorem State.setSensor_rein (s : State) (code : Nat) (x : Sensor) : (State.setSensor s code x).rein = s.rein := rfl
@[simp] theorem State.setSensor_chain (s : State) (code : Nat) (x : Sensor) : (State.setSensor s code x).chain = s.chain := rfl
@[simp] theorem State.setSensor_tan (s : State) (code : Nat) (x : Sensor) : (State.setSensor s code x).tan = s.tan := rfl
@[simp] theorem State.setSensor_cal (s : State) (code : Nat) (x : Sensor) : (State.setSensor s code x).cal = s.cal := rfl
@[simp] theorem State.setSensor_scan (s : State) (code : Nat) (x : Sensor) : (State.setSensor s code x).scan = s.scan := rfl
@[simp] theorem State.setSensor_cam (s : State) (code : Nat) (x : Sensor) : (State.setSensor s code x).cam = s.cam := rfl
@[simp] theorem State.setSensor_mem (s : State) (code : Nat) (x : Sensor) : (State.setSensor s code x).mem = s.mem := rfl

/-! ### `State.setZone` -/

@[simp] theorem State.setZone_pending (s : State) (z : Nat) (x : Zone) : (State.setZone s z x).pending = s.pending := rfl
@[simp] theorem State.setZone_uptime (s : State) (z : Nat) (x : Zone) : (State.setZone s z x).uptime = s.uptime := rfl
@[simp] theorem State.setZone_wall (s : State) (z : Nat) (x : Zone) : (State.setZone s z x).wall = s.wall := rfl
@[simp] theorem State.setZone_free (s : State) (z : Nat) (x : Zone) : (State.setZone s z x).free = s.free := rfl
@[simp] theorem State.setZone_out (s : State) (z : Nat) (x : Zone) : (State.setZone s z x).out = s.out := rfl
@[simp] theorem State.setZone_fuse (s : State) (z : Nat) (x : Zone) : (State.setZone s z x).fuse = s.fuse := rfl
@[simp] theorem State.setZone_top (s : State) (z : Nat) (x : Zone) : (State.setZone s z x).top = s.top := rfl
@[simp] theorem State.setZone_cmd (s : State) (z : Nat) (x : Zone) : (State.setZone s z x).cmd = s.cmd := rfl
@[simp] theorem State.setZone_pcie (s : State) (z : Nat) (x : Zone) : (State.setZone s z x).pcie = s.pcie := rfl
@[simp] theorem State.setZone_lcs (s : State) (z : Nat) (x : Zone) : (State.setZone s z x).lcs = s.lcs := rfl
@[simp] theorem State.setZone_dram (s : State) (z : Nat) (x : Zone) : (State.setZone s z x).dram = s.dram := rfl
@[simp] theorem State.setZone_poison (s : State) (z : Nat) (x : Zone) : (State.setZone s z x).poison = s.poison := rfl
@[simp] theorem State.setZone_hostMem (s : State) (z : Nat) (x : Zone) : (State.setZone s z x).hostMem = s.hostMem := rfl
@[simp] theorem State.setZone_time (s : State) (z : Nat) (x : Zone) : (State.setZone s z x).time = s.time := rfl
@[simp] theorem State.setZone_web (s : State) (z : Nat) (x : Zone) : (State.setZone s z x).web = s.web := rfl
@[simp] theorem State.setZone_axis (s : State) (z : Nat) (x : Zone) : (State.setZone s z x).axis = s.axis := rfl
@[simp] theorem State.setZone_frames (s : State) (z : Nat) (x : Zone) : (State.setZone s z x).frames = s.frames := rfl
@[simp] theorem State.setZone_prn (s : State) (z : Nat) (x : Zone) : (State.setZone s z x).prn = s.prn := rfl
@[simp] theorem State.setZone_fire (s : State) (z : Nat) (x : Zone) : (State.setZone s z x).fire = s.fire := rfl
@[simp] theorem State.setZone_rein (s : State) (z : Nat) (x : Zone) : (State.setZone s z x).rein = s.rein := rfl
@[simp] theorem State.setZone_chain (s : State) (z : Nat) (x : Zone) : (State.setZone s z x).chain = s.chain := rfl
@[simp] theorem State.setZone_tan (s : State) (z : Nat) (x : Zone) : (State.setZone s z x).tan = s.tan := rfl
@[simp] theorem State.setZone_cal (s : State) (z : Nat) (x : Zone) : (State.setZone s z x).cal = s.cal := rfl
@[simp] theorem State.setZone_scan (s : State) (z : Nat) (x : Zone) : (State.setZone s z x).scan = s.scan := rfl
@[simp] theorem State.setZone_cam (s : State) (z : Nat) (x : Zone) : (State.setZone s z x).cam = s.cam := rfl
@[simp] theorem State.setZone_mem (s : State) (z : Nat) (x : Zone) : (State.setZone s z x).mem = s.mem := rfl

/-! ### `State.withFrames` -/

@[simp] theorem State.withFrames_pending (s : State) (f : Frames → Frames) : (State.withFrames s f).pending = s.pending := rfl
@[simp] theorem State.withFrames_uptime (s : State) (f : Frames → Frames) : (State.withFrames s f).uptime = s.uptime := rfl
@[simp] theorem State.withFrames_wall (s : State) (f : Frames → Frames) : (State.withFrames s f).wall = s.wall := rfl
@[simp] theorem State.withFrames_free (s : State) (f : Frames → Frames) : (State.withFrames s f).free = s.free := rfl
@[simp] theorem State.withFrames_out (s : State) (f : Frames → Frames) : (State.withFrames s f).out = s.out := rfl
@[simp] theorem State.withFrames_fuse (s : State) (f : Frames → Frames) : (State.withFrames s f).fuse = s.fuse := rfl
@[simp] theorem State.withFrames_top (s : State) (f : Frames → Frames) : (State.withFrames s f).top = s.top := rfl
@[simp] theorem State.withFrames_cmd (s : State) (f : Frames → Frames) : (State.withFrames s f).cmd = s.cmd := rfl
@[simp] theorem State.withFrames_pcie (s : State) (f : Frames → Frames) : (State.withFrames s f).pcie = s.pcie := rfl
@[simp] theorem State.withFrames_lcs (s : State) (f : Frames → Frames) : (State.withFrames s f).lcs = s.lcs := rfl
@[simp] theorem State.withFrames_dram (s : State) (f : Frames → Frames) : (State.withFrames s f).dram = s.dram := rfl
@[simp] theorem State.withFrames_poison (s : State) (f : Frames → Frames) : (State.withFrames s f).poison = s.poison := rfl
@[simp] theorem State.withFrames_hostMem (s : State) (f : Frames → Frames) : (State.withFrames s f).hostMem = s.hostMem := rfl
@[simp] theorem State.withFrames_time (s : State) (f : Frames → Frames) : (State.withFrames s f).time = s.time := rfl
@[simp] theorem State.withFrames_web (s : State) (f : Frames → Frames) : (State.withFrames s f).web = s.web := rfl
@[simp] theorem State.withFrames_axis (s : State) (f : Frames → Frames) : (State.withFrames s f).axis = s.axis := rfl
@[simp] theorem State.withFrames_prn (s : State) (f : Frames → Frames) : (State.withFrames s f).prn = s.prn := rfl
@[simp] theorem State.withFrames_fire (s : State) (f : Frames → Frames) : (State.withFrames s f).fire = s.fire := rfl
@[simp] theorem State.withFrames_rein (s : State) (f : Frames → Frames) : (State.withFrames s f).rein = s.rein := rfl
@[simp] theorem State.withFrames_chain (s : State) (f : Frames → Frames) : (State.withFrames s f).chain = s.chain := rfl
@[simp] theorem State.withFrames_tan (s : State) (f : Frames → Frames) : (State.withFrames s f).tan = s.tan := rfl
@[simp] theorem State.withFrames_thm (s : State) (f : Frames → Frames) : (State.withFrames s f).thm = s.thm := rfl
@[simp] theorem State.withFrames_cal (s : State) (f : Frames → Frames) : (State.withFrames s f).cal = s.cal := rfl
@[simp] theorem State.withFrames_scan (s : State) (f : Frames → Frames) : (State.withFrames s f).scan = s.scan := rfl
@[simp] theorem State.withFrames_cam (s : State) (f : Frames → Frames) : (State.withFrames s f).cam = s.cam := rfl
@[simp] theorem State.withFrames_mem (s : State) (f : Frames → Frames) : (State.withFrames s f).mem = s.mem := rfl
@[simp] theorem State.withFrames_frames (s : State) (f : Frames → Frames) : (State.withFrames s f).frames = f s.frames := rfl

/-! ### `State.setFrame` -/

@[simp] theorem State.setFrame_pending (s : State) (f : FrameNo) (r : Frame) : (State.setFrame s f r).pending = s.pending := rfl
@[simp] theorem State.setFrame_uptime (s : State) (f : FrameNo) (r : Frame) : (State.setFrame s f r).uptime = s.uptime := rfl
@[simp] theorem State.setFrame_wall (s : State) (f : FrameNo) (r : Frame) : (State.setFrame s f r).wall = s.wall := rfl
@[simp] theorem State.setFrame_free (s : State) (f : FrameNo) (r : Frame) : (State.setFrame s f r).free = s.free := rfl
@[simp] theorem State.setFrame_out (s : State) (f : FrameNo) (r : Frame) : (State.setFrame s f r).out = s.out := rfl
@[simp] theorem State.setFrame_fuse (s : State) (f : FrameNo) (r : Frame) : (State.setFrame s f r).fuse = s.fuse := rfl
@[simp] theorem State.setFrame_top (s : State) (f : FrameNo) (r : Frame) : (State.setFrame s f r).top = s.top := rfl
@[simp] theorem State.setFrame_cmd (s : State) (f : FrameNo) (r : Frame) : (State.setFrame s f r).cmd = s.cmd := rfl
@[simp] theorem State.setFrame_pcie (s : State) (f : FrameNo) (r : Frame) : (State.setFrame s f r).pcie = s.pcie := rfl
@[simp] theorem State.setFrame_lcs (s : State) (f : FrameNo) (r : Frame) : (State.setFrame s f r).lcs = s.lcs := rfl
@[simp] theorem State.setFrame_dram (s : State) (f : FrameNo) (r : Frame) : (State.setFrame s f r).dram = s.dram := rfl
@[simp] theorem State.setFrame_poison (s : State) (f : FrameNo) (r : Frame) : (State.setFrame s f r).poison = s.poison := rfl
@[simp] theorem State.setFrame_hostMem (s : State) (f : FrameNo) (r : Frame) : (State.setFrame s f r).hostMem = s.hostMem := rfl
@[simp] theorem State.setFrame_time (s : State) (f : FrameNo) (r : Frame) : (State.setFrame s f r).time = s.time := rfl
@[simp] theorem State.setFrame_web (s : State) (f : FrameNo) (r : Frame) : (State.setFrame s f r).web = s.web := rfl
@[simp] theorem State.setFrame_axis (s : State) (f : FrameNo) (r : Frame) : (State.setFrame s f r).axis = s.axis := rfl
@[simp] theorem State.setFrame_prn (s : State) (f : FrameNo) (r : Frame) : (State.setFrame s f r).prn = s.prn := rfl
@[simp] theorem State.setFrame_fire (s : State) (f : FrameNo) (r : Frame) : (State.setFrame s f r).fire = s.fire := rfl
@[simp] theorem State.setFrame_rein (s : State) (f : FrameNo) (r : Frame) : (State.setFrame s f r).rein = s.rein := rfl
@[simp] theorem State.setFrame_chain (s : State) (f : FrameNo) (r : Frame) : (State.setFrame s f r).chain = s.chain := rfl
@[simp] theorem State.setFrame_tan (s : State) (f : FrameNo) (r : Frame) : (State.setFrame s f r).tan = s.tan := rfl
@[simp] theorem State.setFrame_thm (s : State) (f : FrameNo) (r : Frame) : (State.setFrame s f r).thm = s.thm := rfl
@[simp] theorem State.setFrame_cal (s : State) (f : FrameNo) (r : Frame) : (State.setFrame s f r).cal = s.cal := rfl
@[simp] theorem State.setFrame_scan (s : State) (f : FrameNo) (r : Frame) : (State.setFrame s f r).scan = s.scan := rfl
@[simp] theorem State.setFrame_cam (s : State) (f : FrameNo) (r : Frame) : (State.setFrame s f r).cam = s.cam := rfl
@[simp] theorem State.setFrame_mem (s : State) (f : FrameNo) (r : Frame) : (State.setFrame s f r).mem = s.mem := rfl

/-! ### `State.setFireBar` -/

@[simp] theorem State.setFireBar_pending (s : State) (b : Nat) (x : FireBar) : (State.setFireBar s b x).pending = s.pending := rfl
@[simp] theorem State.setFireBar_uptime (s : State) (b : Nat) (x : FireBar) : (State.setFireBar s b x).uptime = s.uptime := rfl
@[simp] theorem State.setFireBar_wall (s : State) (b : Nat) (x : FireBar) : (State.setFireBar s b x).wall = s.wall := rfl
@[simp] theorem State.setFireBar_free (s : State) (b : Nat) (x : FireBar) : (State.setFireBar s b x).free = s.free := rfl
@[simp] theorem State.setFireBar_out (s : State) (b : Nat) (x : FireBar) : (State.setFireBar s b x).out = s.out := rfl
@[simp] theorem State.setFireBar_fuse (s : State) (b : Nat) (x : FireBar) : (State.setFireBar s b x).fuse = s.fuse := rfl
@[simp] theorem State.setFireBar_top (s : State) (b : Nat) (x : FireBar) : (State.setFireBar s b x).top = s.top := rfl
@[simp] theorem State.setFireBar_cmd (s : State) (b : Nat) (x : FireBar) : (State.setFireBar s b x).cmd = s.cmd := rfl
@[simp] theorem State.setFireBar_pcie (s : State) (b : Nat) (x : FireBar) : (State.setFireBar s b x).pcie = s.pcie := rfl
@[simp] theorem State.setFireBar_lcs (s : State) (b : Nat) (x : FireBar) : (State.setFireBar s b x).lcs = s.lcs := rfl
@[simp] theorem State.setFireBar_dram (s : State) (b : Nat) (x : FireBar) : (State.setFireBar s b x).dram = s.dram := rfl
@[simp] theorem State.setFireBar_poison (s : State) (b : Nat) (x : FireBar) : (State.setFireBar s b x).poison = s.poison := rfl
@[simp] theorem State.setFireBar_hostMem (s : State) (b : Nat) (x : FireBar) : (State.setFireBar s b x).hostMem = s.hostMem := rfl
@[simp] theorem State.setFireBar_time (s : State) (b : Nat) (x : FireBar) : (State.setFireBar s b x).time = s.time := rfl
@[simp] theorem State.setFireBar_web (s : State) (b : Nat) (x : FireBar) : (State.setFireBar s b x).web = s.web := rfl
@[simp] theorem State.setFireBar_axis (s : State) (b : Nat) (x : FireBar) : (State.setFireBar s b x).axis = s.axis := rfl
@[simp] theorem State.setFireBar_frames (s : State) (b : Nat) (x : FireBar) : (State.setFireBar s b x).frames = s.frames := rfl
@[simp] theorem State.setFireBar_prn (s : State) (b : Nat) (x : FireBar) : (State.setFireBar s b x).prn = s.prn := rfl
@[simp] theorem State.setFireBar_rein (s : State) (b : Nat) (x : FireBar) : (State.setFireBar s b x).rein = s.rein := rfl
@[simp] theorem State.setFireBar_chain (s : State) (b : Nat) (x : FireBar) : (State.setFireBar s b x).chain = s.chain := rfl
@[simp] theorem State.setFireBar_tan (s : State) (b : Nat) (x : FireBar) : (State.setFireBar s b x).tan = s.tan := rfl
@[simp] theorem State.setFireBar_thm (s : State) (b : Nat) (x : FireBar) : (State.setFireBar s b x).thm = s.thm := rfl
@[simp] theorem State.setFireBar_cal (s : State) (b : Nat) (x : FireBar) : (State.setFireBar s b x).cal = s.cal := rfl
@[simp] theorem State.setFireBar_scan (s : State) (b : Nat) (x : FireBar) : (State.setFireBar s b x).scan = s.scan := rfl
@[simp] theorem State.setFireBar_cam (s : State) (b : Nat) (x : FireBar) : (State.setFireBar s b x).cam = s.cam := rfl
@[simp] theorem State.setFireBar_mem (s : State) (b : Nat) (x : FireBar) : (State.setFireBar s b x).mem = s.mem := rfl

/-! ### `State.setFeeder` -/

@[simp] theorem State.setFeeder_pending (s : State) (l : Nat) (x : Feeder) : (State.setFeeder s l x).pending = s.pending := rfl
@[simp] theorem State.setFeeder_uptime (s : State) (l : Nat) (x : Feeder) : (State.setFeeder s l x).uptime = s.uptime := rfl
@[simp] theorem State.setFeeder_wall (s : State) (l : Nat) (x : Feeder) : (State.setFeeder s l x).wall = s.wall := rfl
@[simp] theorem State.setFeeder_free (s : State) (l : Nat) (x : Feeder) : (State.setFeeder s l x).free = s.free := rfl
@[simp] theorem State.setFeeder_out (s : State) (l : Nat) (x : Feeder) : (State.setFeeder s l x).out = s.out := rfl
@[simp] theorem State.setFeeder_fuse (s : State) (l : Nat) (x : Feeder) : (State.setFeeder s l x).fuse = s.fuse := rfl
@[simp] theorem State.setFeeder_top (s : State) (l : Nat) (x : Feeder) : (State.setFeeder s l x).top = s.top := rfl
@[simp] theorem State.setFeeder_cmd (s : State) (l : Nat) (x : Feeder) : (State.setFeeder s l x).cmd = s.cmd := rfl
@[simp] theorem State.setFeeder_pcie (s : State) (l : Nat) (x : Feeder) : (State.setFeeder s l x).pcie = s.pcie := rfl
@[simp] theorem State.setFeeder_lcs (s : State) (l : Nat) (x : Feeder) : (State.setFeeder s l x).lcs = s.lcs := rfl
@[simp] theorem State.setFeeder_dram (s : State) (l : Nat) (x : Feeder) : (State.setFeeder s l x).dram = s.dram := rfl
@[simp] theorem State.setFeeder_poison (s : State) (l : Nat) (x : Feeder) : (State.setFeeder s l x).poison = s.poison := rfl
@[simp] theorem State.setFeeder_hostMem (s : State) (l : Nat) (x : Feeder) : (State.setFeeder s l x).hostMem = s.hostMem := rfl
@[simp] theorem State.setFeeder_time (s : State) (l : Nat) (x : Feeder) : (State.setFeeder s l x).time = s.time := rfl
@[simp] theorem State.setFeeder_web (s : State) (l : Nat) (x : Feeder) : (State.setFeeder s l x).web = s.web := rfl
@[simp] theorem State.setFeeder_axis (s : State) (l : Nat) (x : Feeder) : (State.setFeeder s l x).axis = s.axis := rfl
@[simp] theorem State.setFeeder_frames (s : State) (l : Nat) (x : Feeder) : (State.setFeeder s l x).frames = s.frames := rfl
@[simp] theorem State.setFeeder_prn (s : State) (l : Nat) (x : Feeder) : (State.setFeeder s l x).prn = s.prn := rfl
@[simp] theorem State.setFeeder_rein (s : State) (l : Nat) (x : Feeder) : (State.setFeeder s l x).rein = s.rein := rfl
@[simp] theorem State.setFeeder_chain (s : State) (l : Nat) (x : Feeder) : (State.setFeeder s l x).chain = s.chain := rfl
@[simp] theorem State.setFeeder_tan (s : State) (l : Nat) (x : Feeder) : (State.setFeeder s l x).tan = s.tan := rfl
@[simp] theorem State.setFeeder_thm (s : State) (l : Nat) (x : Feeder) : (State.setFeeder s l x).thm = s.thm := rfl
@[simp] theorem State.setFeeder_cal (s : State) (l : Nat) (x : Feeder) : (State.setFeeder s l x).cal = s.cal := rfl
@[simp] theorem State.setFeeder_scan (s : State) (l : Nat) (x : Feeder) : (State.setFeeder s l x).scan = s.scan := rfl
@[simp] theorem State.setFeeder_cam (s : State) (l : Nat) (x : Feeder) : (State.setFeeder s l x).cam = s.cam := rfl
@[simp] theorem State.setFeeder_mem (s : State) (l : Nat) (x : Feeder) : (State.setFeeder s l x).mem = s.mem := rfl

/-! ### `State.setBanks` -/

@[simp] theorem State.setBanks_pending (s : State) (n : Nat) (x : NodeBanks) : (State.setBanks s n x).pending = s.pending := rfl
@[simp] theorem State.setBanks_uptime (s : State) (n : Nat) (x : NodeBanks) : (State.setBanks s n x).uptime = s.uptime := rfl
@[simp] theorem State.setBanks_wall (s : State) (n : Nat) (x : NodeBanks) : (State.setBanks s n x).wall = s.wall := rfl
@[simp] theorem State.setBanks_free (s : State) (n : Nat) (x : NodeBanks) : (State.setBanks s n x).free = s.free := rfl
@[simp] theorem State.setBanks_out (s : State) (n : Nat) (x : NodeBanks) : (State.setBanks s n x).out = s.out := rfl
@[simp] theorem State.setBanks_fuse (s : State) (n : Nat) (x : NodeBanks) : (State.setBanks s n x).fuse = s.fuse := rfl
@[simp] theorem State.setBanks_top (s : State) (n : Nat) (x : NodeBanks) : (State.setBanks s n x).top = s.top := rfl
@[simp] theorem State.setBanks_cmd (s : State) (n : Nat) (x : NodeBanks) : (State.setBanks s n x).cmd = s.cmd := rfl
@[simp] theorem State.setBanks_pcie (s : State) (n : Nat) (x : NodeBanks) : (State.setBanks s n x).pcie = s.pcie := rfl
@[simp] theorem State.setBanks_lcs (s : State) (n : Nat) (x : NodeBanks) : (State.setBanks s n x).lcs = s.lcs := rfl
@[simp] theorem State.setBanks_dram (s : State) (n : Nat) (x : NodeBanks) : (State.setBanks s n x).dram = s.dram := rfl
@[simp] theorem State.setBanks_poison (s : State) (n : Nat) (x : NodeBanks) : (State.setBanks s n x).poison = s.poison := rfl
@[simp] theorem State.setBanks_hostMem (s : State) (n : Nat) (x : NodeBanks) : (State.setBanks s n x).hostMem = s.hostMem := rfl
@[simp] theorem State.setBanks_time (s : State) (n : Nat) (x : NodeBanks) : (State.setBanks s n x).time = s.time := rfl
@[simp] theorem State.setBanks_web (s : State) (n : Nat) (x : NodeBanks) : (State.setBanks s n x).web = s.web := rfl
@[simp] theorem State.setBanks_axis (s : State) (n : Nat) (x : NodeBanks) : (State.setBanks s n x).axis = s.axis := rfl
@[simp] theorem State.setBanks_frames (s : State) (n : Nat) (x : NodeBanks) : (State.setBanks s n x).frames = s.frames := rfl
@[simp] theorem State.setBanks_prn (s : State) (n : Nat) (x : NodeBanks) : (State.setBanks s n x).prn = s.prn := rfl
@[simp] theorem State.setBanks_rein (s : State) (n : Nat) (x : NodeBanks) : (State.setBanks s n x).rein = s.rein := rfl
@[simp] theorem State.setBanks_chain (s : State) (n : Nat) (x : NodeBanks) : (State.setBanks s n x).chain = s.chain := rfl
@[simp] theorem State.setBanks_tan (s : State) (n : Nat) (x : NodeBanks) : (State.setBanks s n x).tan = s.tan := rfl
@[simp] theorem State.setBanks_thm (s : State) (n : Nat) (x : NodeBanks) : (State.setBanks s n x).thm = s.thm := rfl
@[simp] theorem State.setBanks_cal (s : State) (n : Nat) (x : NodeBanks) : (State.setBanks s n x).cal = s.cal := rfl
@[simp] theorem State.setBanks_scan (s : State) (n : Nat) (x : NodeBanks) : (State.setBanks s n x).scan = s.scan := rfl
@[simp] theorem State.setBanks_cam (s : State) (n : Nat) (x : NodeBanks) : (State.setBanks s n x).cam = s.cam := rfl
@[simp] theorem State.setBanks_mem (s : State) (n : Nat) (x : NodeBanks) : (State.setBanks s n x).mem = s.mem := rfl

/-! ### `State.withTime` -/

@[simp] theorem State.withTime_pending (s : State) (f : Timebase → Timebase) : (State.withTime s f).pending = s.pending := rfl
@[simp] theorem State.withTime_uptime (s : State) (f : Timebase → Timebase) : (State.withTime s f).uptime = s.uptime := rfl
@[simp] theorem State.withTime_wall (s : State) (f : Timebase → Timebase) : (State.withTime s f).wall = s.wall := rfl
@[simp] theorem State.withTime_free (s : State) (f : Timebase → Timebase) : (State.withTime s f).free = s.free := rfl
@[simp] theorem State.withTime_out (s : State) (f : Timebase → Timebase) : (State.withTime s f).out = s.out := rfl
@[simp] theorem State.withTime_fuse (s : State) (f : Timebase → Timebase) : (State.withTime s f).fuse = s.fuse := rfl
@[simp] theorem State.withTime_top (s : State) (f : Timebase → Timebase) : (State.withTime s f).top = s.top := rfl
@[simp] theorem State.withTime_cmd (s : State) (f : Timebase → Timebase) : (State.withTime s f).cmd = s.cmd := rfl
@[simp] theorem State.withTime_pcie (s : State) (f : Timebase → Timebase) : (State.withTime s f).pcie = s.pcie := rfl
@[simp] theorem State.withTime_lcs (s : State) (f : Timebase → Timebase) : (State.withTime s f).lcs = s.lcs := rfl
@[simp] theorem State.withTime_dram (s : State) (f : Timebase → Timebase) : (State.withTime s f).dram = s.dram := rfl
@[simp] theorem State.withTime_poison (s : State) (f : Timebase → Timebase) : (State.withTime s f).poison = s.poison := rfl
@[simp] theorem State.withTime_hostMem (s : State) (f : Timebase → Timebase) : (State.withTime s f).hostMem = s.hostMem := rfl
@[simp] theorem State.withTime_web (s : State) (f : Timebase → Timebase) : (State.withTime s f).web = s.web := rfl
@[simp] theorem State.withTime_axis (s : State) (f : Timebase → Timebase) : (State.withTime s f).axis = s.axis := rfl
@[simp] theorem State.withTime_frames (s : State) (f : Timebase → Timebase) : (State.withTime s f).frames = s.frames := rfl
@[simp] theorem State.withTime_prn (s : State) (f : Timebase → Timebase) : (State.withTime s f).prn = s.prn := rfl
@[simp] theorem State.withTime_fire (s : State) (f : Timebase → Timebase) : (State.withTime s f).fire = s.fire := rfl
@[simp] theorem State.withTime_rein (s : State) (f : Timebase → Timebase) : (State.withTime s f).rein = s.rein := rfl
@[simp] theorem State.withTime_chain (s : State) (f : Timebase → Timebase) : (State.withTime s f).chain = s.chain := rfl
@[simp] theorem State.withTime_tan (s : State) (f : Timebase → Timebase) : (State.withTime s f).tan = s.tan := rfl
@[simp] theorem State.withTime_thm (s : State) (f : Timebase → Timebase) : (State.withTime s f).thm = s.thm := rfl
@[simp] theorem State.withTime_cal (s : State) (f : Timebase → Timebase) : (State.withTime s f).cal = s.cal := rfl
@[simp] theorem State.withTime_scan (s : State) (f : Timebase → Timebase) : (State.withTime s f).scan = s.scan := rfl
@[simp] theorem State.withTime_cam (s : State) (f : Timebase → Timebase) : (State.withTime s f).cam = s.cam := rfl
@[simp] theorem State.withTime_mem (s : State) (f : Timebase → Timebase) : (State.withTime s f).mem = s.mem := rfl
@[simp] theorem State.withTime_time (s : State) (f : Timebase → Timebase) : (State.withTime s f).time = f s.time := rfl

/-! ### `State.setPort` -/

@[simp] theorem State.setPort_pending (s : State) (p : Nat) (x : Port) : (State.setPort s p x).pending = s.pending := rfl
@[simp] theorem State.setPort_uptime (s : State) (p : Nat) (x : Port) : (State.setPort s p x).uptime = s.uptime := rfl
@[simp] theorem State.setPort_wall (s : State) (p : Nat) (x : Port) : (State.setPort s p x).wall = s.wall := rfl
@[simp] theorem State.setPort_free (s : State) (p : Nat) (x : Port) : (State.setPort s p x).free = s.free := rfl
@[simp] theorem State.setPort_out (s : State) (p : Nat) (x : Port) : (State.setPort s p x).out = s.out := rfl
@[simp] theorem State.setPort_fuse (s : State) (p : Nat) (x : Port) : (State.setPort s p x).fuse = s.fuse := rfl
@[simp] theorem State.setPort_top (s : State) (p : Nat) (x : Port) : (State.setPort s p x).top = s.top := rfl
@[simp] theorem State.setPort_cmd (s : State) (p : Nat) (x : Port) : (State.setPort s p x).cmd = s.cmd := rfl
@[simp] theorem State.setPort_pcie (s : State) (p : Nat) (x : Port) : (State.setPort s p x).pcie = s.pcie := rfl
@[simp] theorem State.setPort_lcs (s : State) (p : Nat) (x : Port) : (State.setPort s p x).lcs = s.lcs := rfl
@[simp] theorem State.setPort_dram (s : State) (p : Nat) (x : Port) : (State.setPort s p x).dram = s.dram := rfl
@[simp] theorem State.setPort_poison (s : State) (p : Nat) (x : Port) : (State.setPort s p x).poison = s.poison := rfl
@[simp] theorem State.setPort_hostMem (s : State) (p : Nat) (x : Port) : (State.setPort s p x).hostMem = s.hostMem := rfl
@[simp] theorem State.setPort_web (s : State) (p : Nat) (x : Port) : (State.setPort s p x).web = s.web := rfl
@[simp] theorem State.setPort_axis (s : State) (p : Nat) (x : Port) : (State.setPort s p x).axis = s.axis := rfl
@[simp] theorem State.setPort_frames (s : State) (p : Nat) (x : Port) : (State.setPort s p x).frames = s.frames := rfl
@[simp] theorem State.setPort_prn (s : State) (p : Nat) (x : Port) : (State.setPort s p x).prn = s.prn := rfl
@[simp] theorem State.setPort_fire (s : State) (p : Nat) (x : Port) : (State.setPort s p x).fire = s.fire := rfl
@[simp] theorem State.setPort_rein (s : State) (p : Nat) (x : Port) : (State.setPort s p x).rein = s.rein := rfl
@[simp] theorem State.setPort_chain (s : State) (p : Nat) (x : Port) : (State.setPort s p x).chain = s.chain := rfl
@[simp] theorem State.setPort_tan (s : State) (p : Nat) (x : Port) : (State.setPort s p x).tan = s.tan := rfl
@[simp] theorem State.setPort_thm (s : State) (p : Nat) (x : Port) : (State.setPort s p x).thm = s.thm := rfl
@[simp] theorem State.setPort_cal (s : State) (p : Nat) (x : Port) : (State.setPort s p x).cal = s.cal := rfl
@[simp] theorem State.setPort_scan (s : State) (p : Nat) (x : Port) : (State.setPort s p x).scan = s.scan := rfl
@[simp] theorem State.setPort_cam (s : State) (p : Nat) (x : Port) : (State.setPort s p x).cam = s.cam := rfl
@[simp] theorem State.setPort_mem (s : State) (p : Nat) (x : Port) : (State.setPort s p x).mem = s.mem := rfl

/-! ### `State.setTrig` -/

@[simp] theorem State.setTrig_pending (s : State) (u : Nat) (x : Trigger) : (State.setTrig s u x).pending = s.pending := rfl
@[simp] theorem State.setTrig_uptime (s : State) (u : Nat) (x : Trigger) : (State.setTrig s u x).uptime = s.uptime := rfl
@[simp] theorem State.setTrig_wall (s : State) (u : Nat) (x : Trigger) : (State.setTrig s u x).wall = s.wall := rfl
@[simp] theorem State.setTrig_free (s : State) (u : Nat) (x : Trigger) : (State.setTrig s u x).free = s.free := rfl
@[simp] theorem State.setTrig_out (s : State) (u : Nat) (x : Trigger) : (State.setTrig s u x).out = s.out := rfl
@[simp] theorem State.setTrig_fuse (s : State) (u : Nat) (x : Trigger) : (State.setTrig s u x).fuse = s.fuse := rfl
@[simp] theorem State.setTrig_top (s : State) (u : Nat) (x : Trigger) : (State.setTrig s u x).top = s.top := rfl
@[simp] theorem State.setTrig_cmd (s : State) (u : Nat) (x : Trigger) : (State.setTrig s u x).cmd = s.cmd := rfl
@[simp] theorem State.setTrig_pcie (s : State) (u : Nat) (x : Trigger) : (State.setTrig s u x).pcie = s.pcie := rfl
@[simp] theorem State.setTrig_lcs (s : State) (u : Nat) (x : Trigger) : (State.setTrig s u x).lcs = s.lcs := rfl
@[simp] theorem State.setTrig_dram (s : State) (u : Nat) (x : Trigger) : (State.setTrig s u x).dram = s.dram := rfl
@[simp] theorem State.setTrig_poison (s : State) (u : Nat) (x : Trigger) : (State.setTrig s u x).poison = s.poison := rfl
@[simp] theorem State.setTrig_hostMem (s : State) (u : Nat) (x : Trigger) : (State.setTrig s u x).hostMem = s.hostMem := rfl
@[simp] theorem State.setTrig_web (s : State) (u : Nat) (x : Trigger) : (State.setTrig s u x).web = s.web := rfl
@[simp] theorem State.setTrig_axis (s : State) (u : Nat) (x : Trigger) : (State.setTrig s u x).axis = s.axis := rfl
@[simp] theorem State.setTrig_frames (s : State) (u : Nat) (x : Trigger) : (State.setTrig s u x).frames = s.frames := rfl
@[simp] theorem State.setTrig_prn (s : State) (u : Nat) (x : Trigger) : (State.setTrig s u x).prn = s.prn := rfl
@[simp] theorem State.setTrig_fire (s : State) (u : Nat) (x : Trigger) : (State.setTrig s u x).fire = s.fire := rfl
@[simp] theorem State.setTrig_rein (s : State) (u : Nat) (x : Trigger) : (State.setTrig s u x).rein = s.rein := rfl
@[simp] theorem State.setTrig_chain (s : State) (u : Nat) (x : Trigger) : (State.setTrig s u x).chain = s.chain := rfl
@[simp] theorem State.setTrig_tan (s : State) (u : Nat) (x : Trigger) : (State.setTrig s u x).tan = s.tan := rfl
@[simp] theorem State.setTrig_thm (s : State) (u : Nat) (x : Trigger) : (State.setTrig s u x).thm = s.thm := rfl
@[simp] theorem State.setTrig_cal (s : State) (u : Nat) (x : Trigger) : (State.setTrig s u x).cal = s.cal := rfl
@[simp] theorem State.setTrig_scan (s : State) (u : Nat) (x : Trigger) : (State.setTrig s u x).scan = s.scan := rfl
@[simp] theorem State.setTrig_cam (s : State) (u : Nat) (x : Trigger) : (State.setTrig s u x).cam = s.cam := rfl
@[simp] theorem State.setTrig_mem (s : State) (u : Nat) (x : Trigger) : (State.setTrig s u x).mem = s.mem := rfl

/-! ### `State.setCap` -/

@[simp] theorem State.setCap_pending (s : State) (c : Nat) (x : Capture) : (State.setCap s c x).pending = s.pending := rfl
@[simp] theorem State.setCap_uptime (s : State) (c : Nat) (x : Capture) : (State.setCap s c x).uptime = s.uptime := rfl
@[simp] theorem State.setCap_wall (s : State) (c : Nat) (x : Capture) : (State.setCap s c x).wall = s.wall := rfl
@[simp] theorem State.setCap_free (s : State) (c : Nat) (x : Capture) : (State.setCap s c x).free = s.free := rfl
@[simp] theorem State.setCap_out (s : State) (c : Nat) (x : Capture) : (State.setCap s c x).out = s.out := rfl
@[simp] theorem State.setCap_fuse (s : State) (c : Nat) (x : Capture) : (State.setCap s c x).fuse = s.fuse := rfl
@[simp] theorem State.setCap_top (s : State) (c : Nat) (x : Capture) : (State.setCap s c x).top = s.top := rfl
@[simp] theorem State.setCap_cmd (s : State) (c : Nat) (x : Capture) : (State.setCap s c x).cmd = s.cmd := rfl
@[simp] theorem State.setCap_pcie (s : State) (c : Nat) (x : Capture) : (State.setCap s c x).pcie = s.pcie := rfl
@[simp] theorem State.setCap_lcs (s : State) (c : Nat) (x : Capture) : (State.setCap s c x).lcs = s.lcs := rfl
@[simp] theorem State.setCap_dram (s : State) (c : Nat) (x : Capture) : (State.setCap s c x).dram = s.dram := rfl
@[simp] theorem State.setCap_poison (s : State) (c : Nat) (x : Capture) : (State.setCap s c x).poison = s.poison := rfl
@[simp] theorem State.setCap_hostMem (s : State) (c : Nat) (x : Capture) : (State.setCap s c x).hostMem = s.hostMem := rfl
@[simp] theorem State.setCap_web (s : State) (c : Nat) (x : Capture) : (State.setCap s c x).web = s.web := rfl
@[simp] theorem State.setCap_axis (s : State) (c : Nat) (x : Capture) : (State.setCap s c x).axis = s.axis := rfl
@[simp] theorem State.setCap_frames (s : State) (c : Nat) (x : Capture) : (State.setCap s c x).frames = s.frames := rfl
@[simp] theorem State.setCap_prn (s : State) (c : Nat) (x : Capture) : (State.setCap s c x).prn = s.prn := rfl
@[simp] theorem State.setCap_fire (s : State) (c : Nat) (x : Capture) : (State.setCap s c x).fire = s.fire := rfl
@[simp] theorem State.setCap_rein (s : State) (c : Nat) (x : Capture) : (State.setCap s c x).rein = s.rein := rfl
@[simp] theorem State.setCap_chain (s : State) (c : Nat) (x : Capture) : (State.setCap s c x).chain = s.chain := rfl
@[simp] theorem State.setCap_tan (s : State) (c : Nat) (x : Capture) : (State.setCap s c x).tan = s.tan := rfl
@[simp] theorem State.setCap_thm (s : State) (c : Nat) (x : Capture) : (State.setCap s c x).thm = s.thm := rfl
@[simp] theorem State.setCap_cal (s : State) (c : Nat) (x : Capture) : (State.setCap s c x).cal = s.cal := rfl
@[simp] theorem State.setCap_scan (s : State) (c : Nat) (x : Capture) : (State.setCap s c x).scan = s.scan := rfl
@[simp] theorem State.setCap_cam (s : State) (c : Nat) (x : Capture) : (State.setCap s c x).cam = s.cam := rfl
@[simp] theorem State.setCap_mem (s : State) (c : Nat) (x : Capture) : (State.setCap s c x).mem = s.mem := rfl

/-! ### `newLoads` -/

@[simp] theorem newLoads_pending (n : Nat) (s : State) : (newLoads n s).pending = s.pending := rfl
@[simp] theorem newLoads_uptime (n : Nat) (s : State) : (newLoads n s).uptime = s.uptime := rfl
@[simp] theorem newLoads_wall (n : Nat) (s : State) : (newLoads n s).wall = s.wall := rfl
@[simp] theorem newLoads_free (n : Nat) (s : State) : (newLoads n s).free = s.free := rfl
@[simp] theorem newLoads_out (n : Nat) (s : State) : (newLoads n s).out = s.out := rfl
@[simp] theorem newLoads_fuse (n : Nat) (s : State) : (newLoads n s).fuse = s.fuse := rfl
@[simp] theorem newLoads_top (n : Nat) (s : State) : (newLoads n s).top = s.top := rfl
@[simp] theorem newLoads_cmd (n : Nat) (s : State) : (newLoads n s).cmd = s.cmd := rfl
@[simp] theorem newLoads_pcie (n : Nat) (s : State) : (newLoads n s).pcie = s.pcie := rfl
@[simp] theorem newLoads_lcs (n : Nat) (s : State) : (newLoads n s).lcs = s.lcs := rfl
@[simp] theorem newLoads_dram (n : Nat) (s : State) : (newLoads n s).dram = s.dram := rfl
@[simp] theorem newLoads_poison (n : Nat) (s : State) : (newLoads n s).poison = s.poison := rfl
@[simp] theorem newLoads_hostMem (n : Nat) (s : State) : (newLoads n s).hostMem = s.hostMem := rfl
@[simp] theorem newLoads_time (n : Nat) (s : State) : (newLoads n s).time = s.time := rfl
@[simp] theorem newLoads_web (n : Nat) (s : State) : (newLoads n s).web = s.web := rfl
@[simp] theorem newLoads_axis (n : Nat) (s : State) : (newLoads n s).axis = s.axis := rfl
@[simp] theorem newLoads_frames (n : Nat) (s : State) : (newLoads n s).frames = s.frames := rfl
@[simp] theorem newLoads_fire (n : Nat) (s : State) : (newLoads n s).fire = s.fire := rfl
@[simp] theorem newLoads_rein (n : Nat) (s : State) : (newLoads n s).rein = s.rein := rfl
@[simp] theorem newLoads_chain (n : Nat) (s : State) : (newLoads n s).chain = s.chain := rfl
@[simp] theorem newLoads_tan (n : Nat) (s : State) : (newLoads n s).tan = s.tan := rfl
@[simp] theorem newLoads_thm (n : Nat) (s : State) : (newLoads n s).thm = s.thm := rfl
@[simp] theorem newLoads_cal (n : Nat) (s : State) : (newLoads n s).cal = s.cal := rfl
@[simp] theorem newLoads_scan (n : Nat) (s : State) : (newLoads n s).scan = s.scan := rfl
@[simp] theorem newLoads_cam (n : Nat) (s : State) : (newLoads n s).cam = s.cam := rfl
@[simp] theorem newLoads_mem (n : Nat) (s : State) : (newLoads n s).mem = s.mem := rfl

/-! ### `State.withCal` -/

@[simp] theorem State.withCal_pending (s : State) (f : Calib → Calib) : (State.withCal s f).pending = s.pending := rfl
@[simp] theorem State.withCal_uptime (s : State) (f : Calib → Calib) : (State.withCal s f).uptime = s.uptime := rfl
@[simp] theorem State.withCal_wall (s : State) (f : Calib → Calib) : (State.withCal s f).wall = s.wall := rfl
@[simp] theorem State.withCal_free (s : State) (f : Calib → Calib) : (State.withCal s f).free = s.free := rfl
@[simp] theorem State.withCal_out (s : State) (f : Calib → Calib) : (State.withCal s f).out = s.out := rfl
@[simp] theorem State.withCal_fuse (s : State) (f : Calib → Calib) : (State.withCal s f).fuse = s.fuse := rfl
@[simp] theorem State.withCal_top (s : State) (f : Calib → Calib) : (State.withCal s f).top = s.top := rfl
@[simp] theorem State.withCal_cmd (s : State) (f : Calib → Calib) : (State.withCal s f).cmd = s.cmd := rfl
@[simp] theorem State.withCal_pcie (s : State) (f : Calib → Calib) : (State.withCal s f).pcie = s.pcie := rfl
@[simp] theorem State.withCal_lcs (s : State) (f : Calib → Calib) : (State.withCal s f).lcs = s.lcs := rfl
@[simp] theorem State.withCal_dram (s : State) (f : Calib → Calib) : (State.withCal s f).dram = s.dram := rfl
@[simp] theorem State.withCal_poison (s : State) (f : Calib → Calib) : (State.withCal s f).poison = s.poison := rfl
@[simp] theorem State.withCal_hostMem (s : State) (f : Calib → Calib) : (State.withCal s f).hostMem = s.hostMem := rfl
@[simp] theorem State.withCal_time (s : State) (f : Calib → Calib) : (State.withCal s f).time = s.time := rfl
@[simp] theorem State.withCal_web (s : State) (f : Calib → Calib) : (State.withCal s f).web = s.web := rfl
@[simp] theorem State.withCal_axis (s : State) (f : Calib → Calib) : (State.withCal s f).axis = s.axis := rfl
@[simp] theorem State.withCal_frames (s : State) (f : Calib → Calib) : (State.withCal s f).frames = s.frames := rfl
@[simp] theorem State.withCal_prn (s : State) (f : Calib → Calib) : (State.withCal s f).prn = s.prn := rfl
@[simp] theorem State.withCal_fire (s : State) (f : Calib → Calib) : (State.withCal s f).fire = s.fire := rfl
@[simp] theorem State.withCal_rein (s : State) (f : Calib → Calib) : (State.withCal s f).rein = s.rein := rfl
@[simp] theorem State.withCal_chain (s : State) (f : Calib → Calib) : (State.withCal s f).chain = s.chain := rfl
@[simp] theorem State.withCal_tan (s : State) (f : Calib → Calib) : (State.withCal s f).tan = s.tan := rfl
@[simp] theorem State.withCal_thm (s : State) (f : Calib → Calib) : (State.withCal s f).thm = s.thm := rfl
@[simp] theorem State.withCal_scan (s : State) (f : Calib → Calib) : (State.withCal s f).scan = s.scan := rfl
@[simp] theorem State.withCal_cam (s : State) (f : Calib → Calib) : (State.withCal s f).cam = s.cam := rfl
@[simp] theorem State.withCal_mem (s : State) (f : Calib → Calib) : (State.withCal s f).mem = s.mem := rfl
@[simp] theorem State.withCal_cal (s : State) (f : Calib → Calib) : (State.withCal s f).cal = f s.cal := rfl

/-! ### `State.setCal` -/

@[simp] theorem State.setCal_pending (s : State) (n : Nat) (x : CalInst) : (State.setCal s n x).pending = s.pending := rfl
@[simp] theorem State.setCal_uptime (s : State) (n : Nat) (x : CalInst) : (State.setCal s n x).uptime = s.uptime := rfl
@[simp] theorem State.setCal_wall (s : State) (n : Nat) (x : CalInst) : (State.setCal s n x).wall = s.wall := rfl
@[simp] theorem State.setCal_free (s : State) (n : Nat) (x : CalInst) : (State.setCal s n x).free = s.free := rfl
@[simp] theorem State.setCal_out (s : State) (n : Nat) (x : CalInst) : (State.setCal s n x).out = s.out := rfl
@[simp] theorem State.setCal_fuse (s : State) (n : Nat) (x : CalInst) : (State.setCal s n x).fuse = s.fuse := rfl
@[simp] theorem State.setCal_top (s : State) (n : Nat) (x : CalInst) : (State.setCal s n x).top = s.top := rfl
@[simp] theorem State.setCal_cmd (s : State) (n : Nat) (x : CalInst) : (State.setCal s n x).cmd = s.cmd := rfl
@[simp] theorem State.setCal_pcie (s : State) (n : Nat) (x : CalInst) : (State.setCal s n x).pcie = s.pcie := rfl
@[simp] theorem State.setCal_lcs (s : State) (n : Nat) (x : CalInst) : (State.setCal s n x).lcs = s.lcs := rfl
@[simp] theorem State.setCal_dram (s : State) (n : Nat) (x : CalInst) : (State.setCal s n x).dram = s.dram := rfl
@[simp] theorem State.setCal_poison (s : State) (n : Nat) (x : CalInst) : (State.setCal s n x).poison = s.poison := rfl
@[simp] theorem State.setCal_hostMem (s : State) (n : Nat) (x : CalInst) : (State.setCal s n x).hostMem = s.hostMem := rfl
@[simp] theorem State.setCal_time (s : State) (n : Nat) (x : CalInst) : (State.setCal s n x).time = s.time := rfl
@[simp] theorem State.setCal_web (s : State) (n : Nat) (x : CalInst) : (State.setCal s n x).web = s.web := rfl
@[simp] theorem State.setCal_axis (s : State) (n : Nat) (x : CalInst) : (State.setCal s n x).axis = s.axis := rfl
@[simp] theorem State.setCal_frames (s : State) (n : Nat) (x : CalInst) : (State.setCal s n x).frames = s.frames := rfl
@[simp] theorem State.setCal_prn (s : State) (n : Nat) (x : CalInst) : (State.setCal s n x).prn = s.prn := rfl
@[simp] theorem State.setCal_fire (s : State) (n : Nat) (x : CalInst) : (State.setCal s n x).fire = s.fire := rfl
@[simp] theorem State.setCal_rein (s : State) (n : Nat) (x : CalInst) : (State.setCal s n x).rein = s.rein := rfl
@[simp] theorem State.setCal_chain (s : State) (n : Nat) (x : CalInst) : (State.setCal s n x).chain = s.chain := rfl
@[simp] theorem State.setCal_tan (s : State) (n : Nat) (x : CalInst) : (State.setCal s n x).tan = s.tan := rfl
@[simp] theorem State.setCal_thm (s : State) (n : Nat) (x : CalInst) : (State.setCal s n x).thm = s.thm := rfl
@[simp] theorem State.setCal_scan (s : State) (n : Nat) (x : CalInst) : (State.setCal s n x).scan = s.scan := rfl
@[simp] theorem State.setCal_cam (s : State) (n : Nat) (x : CalInst) : (State.setCal s n x).cam = s.cam := rfl
@[simp] theorem State.setCal_mem (s : State) (n : Nat) (x : CalInst) : (State.setCal s n x).mem = s.mem := rfl

/-! ### `State.setTransfer` -/

@[simp] theorem State.setTransfer_pending (s : State) (k : Nat) (t : Transfer) : (State.setTransfer s k t).pending = s.pending := rfl
@[simp] theorem State.setTransfer_uptime (s : State) (k : Nat) (t : Transfer) : (State.setTransfer s k t).uptime = s.uptime := rfl
@[simp] theorem State.setTransfer_wall (s : State) (k : Nat) (t : Transfer) : (State.setTransfer s k t).wall = s.wall := rfl
@[simp] theorem State.setTransfer_free (s : State) (k : Nat) (t : Transfer) : (State.setTransfer s k t).free = s.free := rfl
@[simp] theorem State.setTransfer_out (s : State) (k : Nat) (t : Transfer) : (State.setTransfer s k t).out = s.out := rfl
@[simp] theorem State.setTransfer_fuse (s : State) (k : Nat) (t : Transfer) : (State.setTransfer s k t).fuse = s.fuse := rfl
@[simp] theorem State.setTransfer_top (s : State) (k : Nat) (t : Transfer) : (State.setTransfer s k t).top = s.top := rfl
@[simp] theorem State.setTransfer_cmd (s : State) (k : Nat) (t : Transfer) : (State.setTransfer s k t).cmd = s.cmd := rfl
@[simp] theorem State.setTransfer_pcie (s : State) (k : Nat) (t : Transfer) : (State.setTransfer s k t).pcie = s.pcie := rfl
@[simp] theorem State.setTransfer_lcs (s : State) (k : Nat) (t : Transfer) : (State.setTransfer s k t).lcs = s.lcs := rfl
@[simp] theorem State.setTransfer_dram (s : State) (k : Nat) (t : Transfer) : (State.setTransfer s k t).dram = s.dram := rfl
@[simp] theorem State.setTransfer_poison (s : State) (k : Nat) (t : Transfer) : (State.setTransfer s k t).poison = s.poison := rfl
@[simp] theorem State.setTransfer_hostMem (s : State) (k : Nat) (t : Transfer) : (State.setTransfer s k t).hostMem = s.hostMem := rfl
@[simp] theorem State.setTransfer_time (s : State) (k : Nat) (t : Transfer) : (State.setTransfer s k t).time = s.time := rfl
@[simp] theorem State.setTransfer_web (s : State) (k : Nat) (t : Transfer) : (State.setTransfer s k t).web = s.web := rfl
@[simp] theorem State.setTransfer_axis (s : State) (k : Nat) (t : Transfer) : (State.setTransfer s k t).axis = s.axis := rfl
@[simp] theorem State.setTransfer_frames (s : State) (k : Nat) (t : Transfer) : (State.setTransfer s k t).frames = s.frames := rfl
@[simp] theorem State.setTransfer_prn (s : State) (k : Nat) (t : Transfer) : (State.setTransfer s k t).prn = s.prn := rfl
@[simp] theorem State.setTransfer_fire (s : State) (k : Nat) (t : Transfer) : (State.setTransfer s k t).fire = s.fire := rfl
@[simp] theorem State.setTransfer_chain (s : State) (k : Nat) (t : Transfer) : (State.setTransfer s k t).chain = s.chain := rfl
@[simp] theorem State.setTransfer_tan (s : State) (k : Nat) (t : Transfer) : (State.setTransfer s k t).tan = s.tan := rfl
@[simp] theorem State.setTransfer_thm (s : State) (k : Nat) (t : Transfer) : (State.setTransfer s k t).thm = s.thm := rfl
@[simp] theorem State.setTransfer_cal (s : State) (k : Nat) (t : Transfer) : (State.setTransfer s k t).cal = s.cal := rfl
@[simp] theorem State.setTransfer_scan (s : State) (k : Nat) (t : Transfer) : (State.setTransfer s k t).scan = s.scan := rfl
@[simp] theorem State.setTransfer_cam (s : State) (k : Nat) (t : Transfer) : (State.setTransfer s k t).cam = s.cam := rfl
@[simp] theorem State.setTransfer_mem (s : State) (k : Nat) (t : Transfer) : (State.setTransfer s k t).mem = s.mem := rfl

/-! ### `State.withScan` -/

@[simp] theorem State.withScan_pending (s : State) (f : Scan → Scan) : (State.withScan s f).pending = s.pending := rfl
@[simp] theorem State.withScan_uptime (s : State) (f : Scan → Scan) : (State.withScan s f).uptime = s.uptime := rfl
@[simp] theorem State.withScan_wall (s : State) (f : Scan → Scan) : (State.withScan s f).wall = s.wall := rfl
@[simp] theorem State.withScan_free (s : State) (f : Scan → Scan) : (State.withScan s f).free = s.free := rfl
@[simp] theorem State.withScan_out (s : State) (f : Scan → Scan) : (State.withScan s f).out = s.out := rfl
@[simp] theorem State.withScan_fuse (s : State) (f : Scan → Scan) : (State.withScan s f).fuse = s.fuse := rfl
@[simp] theorem State.withScan_top (s : State) (f : Scan → Scan) : (State.withScan s f).top = s.top := rfl
@[simp] theorem State.withScan_cmd (s : State) (f : Scan → Scan) : (State.withScan s f).cmd = s.cmd := rfl
@[simp] theorem State.withScan_pcie (s : State) (f : Scan → Scan) : (State.withScan s f).pcie = s.pcie := rfl
@[simp] theorem State.withScan_lcs (s : State) (f : Scan → Scan) : (State.withScan s f).lcs = s.lcs := rfl
@[simp] theorem State.withScan_dram (s : State) (f : Scan → Scan) : (State.withScan s f).dram = s.dram := rfl
@[simp] theorem State.withScan_poison (s : State) (f : Scan → Scan) : (State.withScan s f).poison = s.poison := rfl
@[simp] theorem State.withScan_hostMem (s : State) (f : Scan → Scan) : (State.withScan s f).hostMem = s.hostMem := rfl
@[simp] theorem State.withScan_time (s : State) (f : Scan → Scan) : (State.withScan s f).time = s.time := rfl
@[simp] theorem State.withScan_web (s : State) (f : Scan → Scan) : (State.withScan s f).web = s.web := rfl
@[simp] theorem State.withScan_axis (s : State) (f : Scan → Scan) : (State.withScan s f).axis = s.axis := rfl
@[simp] theorem State.withScan_frames (s : State) (f : Scan → Scan) : (State.withScan s f).frames = s.frames := rfl
@[simp] theorem State.withScan_prn (s : State) (f : Scan → Scan) : (State.withScan s f).prn = s.prn := rfl
@[simp] theorem State.withScan_fire (s : State) (f : Scan → Scan) : (State.withScan s f).fire = s.fire := rfl
@[simp] theorem State.withScan_rein (s : State) (f : Scan → Scan) : (State.withScan s f).rein = s.rein := rfl
@[simp] theorem State.withScan_chain (s : State) (f : Scan → Scan) : (State.withScan s f).chain = s.chain := rfl
@[simp] theorem State.withScan_tan (s : State) (f : Scan → Scan) : (State.withScan s f).tan = s.tan := rfl
@[simp] theorem State.withScan_thm (s : State) (f : Scan → Scan) : (State.withScan s f).thm = s.thm := rfl
@[simp] theorem State.withScan_cal (s : State) (f : Scan → Scan) : (State.withScan s f).cal = s.cal := rfl
@[simp] theorem State.withScan_cam (s : State) (f : Scan → Scan) : (State.withScan s f).cam = s.cam := rfl
@[simp] theorem State.withScan_mem (s : State) (f : Scan → Scan) : (State.withScan s f).mem = s.mem := rfl
@[simp] theorem State.withScan_scan (s : State) (f : Scan → Scan) : (State.withScan s f).scan = f s.scan := rfl

/-! ### `State.setScanFeeder` -/

@[simp] theorem State.setScanFeeder_pending (s : State) (l : Nat) (x : ScanFeeder) : (State.setScanFeeder s l x).pending = s.pending := rfl
@[simp] theorem State.setScanFeeder_uptime (s : State) (l : Nat) (x : ScanFeeder) : (State.setScanFeeder s l x).uptime = s.uptime := rfl
@[simp] theorem State.setScanFeeder_wall (s : State) (l : Nat) (x : ScanFeeder) : (State.setScanFeeder s l x).wall = s.wall := rfl
@[simp] theorem State.setScanFeeder_free (s : State) (l : Nat) (x : ScanFeeder) : (State.setScanFeeder s l x).free = s.free := rfl
@[simp] theorem State.setScanFeeder_out (s : State) (l : Nat) (x : ScanFeeder) : (State.setScanFeeder s l x).out = s.out := rfl
@[simp] theorem State.setScanFeeder_fuse (s : State) (l : Nat) (x : ScanFeeder) : (State.setScanFeeder s l x).fuse = s.fuse := rfl
@[simp] theorem State.setScanFeeder_top (s : State) (l : Nat) (x : ScanFeeder) : (State.setScanFeeder s l x).top = s.top := rfl
@[simp] theorem State.setScanFeeder_cmd (s : State) (l : Nat) (x : ScanFeeder) : (State.setScanFeeder s l x).cmd = s.cmd := rfl
@[simp] theorem State.setScanFeeder_pcie (s : State) (l : Nat) (x : ScanFeeder) : (State.setScanFeeder s l x).pcie = s.pcie := rfl
@[simp] theorem State.setScanFeeder_lcs (s : State) (l : Nat) (x : ScanFeeder) : (State.setScanFeeder s l x).lcs = s.lcs := rfl
@[simp] theorem State.setScanFeeder_dram (s : State) (l : Nat) (x : ScanFeeder) : (State.setScanFeeder s l x).dram = s.dram := rfl
@[simp] theorem State.setScanFeeder_poison (s : State) (l : Nat) (x : ScanFeeder) : (State.setScanFeeder s l x).poison = s.poison := rfl
@[simp] theorem State.setScanFeeder_hostMem (s : State) (l : Nat) (x : ScanFeeder) : (State.setScanFeeder s l x).hostMem = s.hostMem := rfl
@[simp] theorem State.setScanFeeder_time (s : State) (l : Nat) (x : ScanFeeder) : (State.setScanFeeder s l x).time = s.time := rfl
@[simp] theorem State.setScanFeeder_web (s : State) (l : Nat) (x : ScanFeeder) : (State.setScanFeeder s l x).web = s.web := rfl
@[simp] theorem State.setScanFeeder_axis (s : State) (l : Nat) (x : ScanFeeder) : (State.setScanFeeder s l x).axis = s.axis := rfl
@[simp] theorem State.setScanFeeder_frames (s : State) (l : Nat) (x : ScanFeeder) : (State.setScanFeeder s l x).frames = s.frames := rfl
@[simp] theorem State.setScanFeeder_prn (s : State) (l : Nat) (x : ScanFeeder) : (State.setScanFeeder s l x).prn = s.prn := rfl
@[simp] theorem State.setScanFeeder_fire (s : State) (l : Nat) (x : ScanFeeder) : (State.setScanFeeder s l x).fire = s.fire := rfl
@[simp] theorem State.setScanFeeder_rein (s : State) (l : Nat) (x : ScanFeeder) : (State.setScanFeeder s l x).rein = s.rein := rfl
@[simp] theorem State.setScanFeeder_chain (s : State) (l : Nat) (x : ScanFeeder) : (State.setScanFeeder s l x).chain = s.chain := rfl
@[simp] theorem State.setScanFeeder_tan (s : State) (l : Nat) (x : ScanFeeder) : (State.setScanFeeder s l x).tan = s.tan := rfl
@[simp] theorem State.setScanFeeder_thm (s : State) (l : Nat) (x : ScanFeeder) : (State.setScanFeeder s l x).thm = s.thm := rfl
@[simp] theorem State.setScanFeeder_cal (s : State) (l : Nat) (x : ScanFeeder) : (State.setScanFeeder s l x).cal = s.cal := rfl
@[simp] theorem State.setScanFeeder_cam (s : State) (l : Nat) (x : ScanFeeder) : (State.setScanFeeder s l x).cam = s.cam := rfl
@[simp] theorem State.setScanFeeder_mem (s : State) (l : Nat) (x : ScanFeeder) : (State.setScanFeeder s l x).mem = s.mem := rfl

/-! ### `releaseRate` -/

@[simp] theorem releaseRate_pending (key : Nat) (s : State) : (releaseRate key s).pending = s.pending := rfl
@[simp] theorem releaseRate_uptime (key : Nat) (s : State) : (releaseRate key s).uptime = s.uptime := rfl
@[simp] theorem releaseRate_wall (key : Nat) (s : State) : (releaseRate key s).wall = s.wall := rfl
@[simp] theorem releaseRate_free (key : Nat) (s : State) : (releaseRate key s).free = s.free := rfl
@[simp] theorem releaseRate_out (key : Nat) (s : State) : (releaseRate key s).out = s.out := rfl
@[simp] theorem releaseRate_fuse (key : Nat) (s : State) : (releaseRate key s).fuse = s.fuse := rfl
@[simp] theorem releaseRate_top (key : Nat) (s : State) : (releaseRate key s).top = s.top := rfl
@[simp] theorem releaseRate_cmd (key : Nat) (s : State) : (releaseRate key s).cmd = s.cmd := rfl
@[simp] theorem releaseRate_pcie (key : Nat) (s : State) : (releaseRate key s).pcie = s.pcie := rfl
@[simp] theorem releaseRate_lcs (key : Nat) (s : State) : (releaseRate key s).lcs = s.lcs := rfl
@[simp] theorem releaseRate_dram (key : Nat) (s : State) : (releaseRate key s).dram = s.dram := rfl
@[simp] theorem releaseRate_poison (key : Nat) (s : State) : (releaseRate key s).poison = s.poison := rfl
@[simp] theorem releaseRate_hostMem (key : Nat) (s : State) : (releaseRate key s).hostMem = s.hostMem := rfl
@[simp] theorem releaseRate_time (key : Nat) (s : State) : (releaseRate key s).time = s.time := rfl
@[simp] theorem releaseRate_web (key : Nat) (s : State) : (releaseRate key s).web = s.web := rfl
@[simp] theorem releaseRate_axis (key : Nat) (s : State) : (releaseRate key s).axis = s.axis := rfl
@[simp] theorem releaseRate_frames (key : Nat) (s : State) : (releaseRate key s).frames = s.frames := rfl
@[simp] theorem releaseRate_prn (key : Nat) (s : State) : (releaseRate key s).prn = s.prn := rfl
@[simp] theorem releaseRate_fire (key : Nat) (s : State) : (releaseRate key s).fire = s.fire := rfl
@[simp] theorem releaseRate_rein (key : Nat) (s : State) : (releaseRate key s).rein = s.rein := rfl
@[simp] theorem releaseRate_chain (key : Nat) (s : State) : (releaseRate key s).chain = s.chain := rfl
@[simp] theorem releaseRate_tan (key : Nat) (s : State) : (releaseRate key s).tan = s.tan := rfl
@[simp] theorem releaseRate_thm (key : Nat) (s : State) : (releaseRate key s).thm = s.thm := rfl
@[simp] theorem releaseRate_cal (key : Nat) (s : State) : (releaseRate key s).cal = s.cal := rfl
@[simp] theorem releaseRate_scan (key : Nat) (s : State) : (releaseRate key s).scan = s.scan := rfl
@[simp] theorem releaseRate_cam (key : Nat) (s : State) : (releaseRate key s).cam = s.cam := rfl

/-! ### `State.setCnode` -/

@[simp] theorem State.setCnode_pending (s : State) (n : Nat) (c : ChainNode) : (State.setCnode s n c).pending = s.pending := rfl
@[simp] theorem State.setCnode_uptime (s : State) (n : Nat) (c : ChainNode) : (State.setCnode s n c).uptime = s.uptime := rfl
@[simp] theorem State.setCnode_wall (s : State) (n : Nat) (c : ChainNode) : (State.setCnode s n c).wall = s.wall := rfl
@[simp] theorem State.setCnode_free (s : State) (n : Nat) (c : ChainNode) : (State.setCnode s n c).free = s.free := rfl
@[simp] theorem State.setCnode_out (s : State) (n : Nat) (c : ChainNode) : (State.setCnode s n c).out = s.out := rfl
@[simp] theorem State.setCnode_fuse (s : State) (n : Nat) (c : ChainNode) : (State.setCnode s n c).fuse = s.fuse := rfl
@[simp] theorem State.setCnode_top (s : State) (n : Nat) (c : ChainNode) : (State.setCnode s n c).top = s.top := rfl
@[simp] theorem State.setCnode_cmd (s : State) (n : Nat) (c : ChainNode) : (State.setCnode s n c).cmd = s.cmd := rfl
@[simp] theorem State.setCnode_pcie (s : State) (n : Nat) (c : ChainNode) : (State.setCnode s n c).pcie = s.pcie := rfl
@[simp] theorem State.setCnode_lcs (s : State) (n : Nat) (c : ChainNode) : (State.setCnode s n c).lcs = s.lcs := rfl
@[simp] theorem State.setCnode_dram (s : State) (n : Nat) (c : ChainNode) : (State.setCnode s n c).dram = s.dram := rfl
@[simp] theorem State.setCnode_poison (s : State) (n : Nat) (c : ChainNode) : (State.setCnode s n c).poison = s.poison := rfl
@[simp] theorem State.setCnode_hostMem (s : State) (n : Nat) (c : ChainNode) : (State.setCnode s n c).hostMem = s.hostMem := rfl
@[simp] theorem State.setCnode_time (s : State) (n : Nat) (c : ChainNode) : (State.setCnode s n c).time = s.time := rfl
@[simp] theorem State.setCnode_web (s : State) (n : Nat) (c : ChainNode) : (State.setCnode s n c).web = s.web := rfl
@[simp] theorem State.setCnode_axis (s : State) (n : Nat) (c : ChainNode) : (State.setCnode s n c).axis = s.axis := rfl
@[simp] theorem State.setCnode_frames (s : State) (n : Nat) (c : ChainNode) : (State.setCnode s n c).frames = s.frames := rfl
@[simp] theorem State.setCnode_prn (s : State) (n : Nat) (c : ChainNode) : (State.setCnode s n c).prn = s.prn := rfl
@[simp] theorem State.setCnode_fire (s : State) (n : Nat) (c : ChainNode) : (State.setCnode s n c).fire = s.fire := rfl
@[simp] theorem State.setCnode_rein (s : State) (n : Nat) (c : ChainNode) : (State.setCnode s n c).rein = s.rein := rfl
@[simp] theorem State.setCnode_tan (s : State) (n : Nat) (c : ChainNode) : (State.setCnode s n c).tan = s.tan := rfl
@[simp] theorem State.setCnode_thm (s : State) (n : Nat) (c : ChainNode) : (State.setCnode s n c).thm = s.thm := rfl
@[simp] theorem State.setCnode_cal (s : State) (n : Nat) (c : ChainNode) : (State.setCnode s n c).cal = s.cal := rfl
@[simp] theorem State.setCnode_scan (s : State) (n : Nat) (c : ChainNode) : (State.setCnode s n c).scan = s.scan := rfl
@[simp] theorem State.setCnode_cam (s : State) (n : Nat) (c : ChainNode) : (State.setCnode s n c).cam = s.cam := rfl
@[simp] theorem State.setCnode_mem (s : State) (n : Nat) (c : ChainNode) : (State.setCnode s n c).mem = s.mem := rfl

/-! ### `State.withCam` -/

@[simp] theorem State.withCam_pending (s : State) (f : Cam → Cam) : (State.withCam s f).pending = s.pending := rfl
@[simp] theorem State.withCam_uptime (s : State) (f : Cam → Cam) : (State.withCam s f).uptime = s.uptime := rfl
@[simp] theorem State.withCam_wall (s : State) (f : Cam → Cam) : (State.withCam s f).wall = s.wall := rfl
@[simp] theorem State.withCam_free (s : State) (f : Cam → Cam) : (State.withCam s f).free = s.free := rfl
@[simp] theorem State.withCam_out (s : State) (f : Cam → Cam) : (State.withCam s f).out = s.out := rfl
@[simp] theorem State.withCam_fuse (s : State) (f : Cam → Cam) : (State.withCam s f).fuse = s.fuse := rfl
@[simp] theorem State.withCam_top (s : State) (f : Cam → Cam) : (State.withCam s f).top = s.top := rfl
@[simp] theorem State.withCam_cmd (s : State) (f : Cam → Cam) : (State.withCam s f).cmd = s.cmd := rfl
@[simp] theorem State.withCam_pcie (s : State) (f : Cam → Cam) : (State.withCam s f).pcie = s.pcie := rfl
@[simp] theorem State.withCam_lcs (s : State) (f : Cam → Cam) : (State.withCam s f).lcs = s.lcs := rfl
@[simp] theorem State.withCam_dram (s : State) (f : Cam → Cam) : (State.withCam s f).dram = s.dram := rfl
@[simp] theorem State.withCam_poison (s : State) (f : Cam → Cam) : (State.withCam s f).poison = s.poison := rfl
@[simp] theorem State.withCam_hostMem (s : State) (f : Cam → Cam) : (State.withCam s f).hostMem = s.hostMem := rfl
@[simp] theorem State.withCam_time (s : State) (f : Cam → Cam) : (State.withCam s f).time = s.time := rfl
@[simp] theorem State.withCam_web (s : State) (f : Cam → Cam) : (State.withCam s f).web = s.web := rfl
@[simp] theorem State.withCam_axis (s : State) (f : Cam → Cam) : (State.withCam s f).axis = s.axis := rfl
@[simp] theorem State.withCam_frames (s : State) (f : Cam → Cam) : (State.withCam s f).frames = s.frames := rfl
@[simp] theorem State.withCam_prn (s : State) (f : Cam → Cam) : (State.withCam s f).prn = s.prn := rfl
@[simp] theorem State.withCam_fire (s : State) (f : Cam → Cam) : (State.withCam s f).fire = s.fire := rfl
@[simp] theorem State.withCam_rein (s : State) (f : Cam → Cam) : (State.withCam s f).rein = s.rein := rfl
@[simp] theorem State.withCam_chain (s : State) (f : Cam → Cam) : (State.withCam s f).chain = s.chain := rfl
@[simp] theorem State.withCam_tan (s : State) (f : Cam → Cam) : (State.withCam s f).tan = s.tan := rfl
@[simp] theorem State.withCam_thm (s : State) (f : Cam → Cam) : (State.withCam s f).thm = s.thm := rfl
@[simp] theorem State.withCam_cal (s : State) (f : Cam → Cam) : (State.withCam s f).cal = s.cal := rfl
@[simp] theorem State.withCam_scan (s : State) (f : Cam → Cam) : (State.withCam s f).scan = s.scan := rfl
@[simp] theorem State.withCam_mem (s : State) (f : Cam → Cam) : (State.withCam s f).mem = s.mem := rfl
@[simp] theorem State.withCam_cam (s : State) (f : Cam → Cam) : (State.withCam s f).cam = f s.cam := rfl

/-! ### `State.setCamPort` -/

@[simp] theorem State.setCamPort_pending (s : State) (p : Nat) (x : CamPort) : (State.setCamPort s p x).pending = s.pending := rfl
@[simp] theorem State.setCamPort_uptime (s : State) (p : Nat) (x : CamPort) : (State.setCamPort s p x).uptime = s.uptime := rfl
@[simp] theorem State.setCamPort_wall (s : State) (p : Nat) (x : CamPort) : (State.setCamPort s p x).wall = s.wall := rfl
@[simp] theorem State.setCamPort_free (s : State) (p : Nat) (x : CamPort) : (State.setCamPort s p x).free = s.free := rfl
@[simp] theorem State.setCamPort_out (s : State) (p : Nat) (x : CamPort) : (State.setCamPort s p x).out = s.out := rfl
@[simp] theorem State.setCamPort_fuse (s : State) (p : Nat) (x : CamPort) : (State.setCamPort s p x).fuse = s.fuse := rfl
@[simp] theorem State.setCamPort_top (s : State) (p : Nat) (x : CamPort) : (State.setCamPort s p x).top = s.top := rfl
@[simp] theorem State.setCamPort_cmd (s : State) (p : Nat) (x : CamPort) : (State.setCamPort s p x).cmd = s.cmd := rfl
@[simp] theorem State.setCamPort_pcie (s : State) (p : Nat) (x : CamPort) : (State.setCamPort s p x).pcie = s.pcie := rfl
@[simp] theorem State.setCamPort_lcs (s : State) (p : Nat) (x : CamPort) : (State.setCamPort s p x).lcs = s.lcs := rfl
@[simp] theorem State.setCamPort_dram (s : State) (p : Nat) (x : CamPort) : (State.setCamPort s p x).dram = s.dram := rfl
@[simp] theorem State.setCamPort_poison (s : State) (p : Nat) (x : CamPort) : (State.setCamPort s p x).poison = s.poison := rfl
@[simp] theorem State.setCamPort_hostMem (s : State) (p : Nat) (x : CamPort) : (State.setCamPort s p x).hostMem = s.hostMem := rfl
@[simp] theorem State.setCamPort_time (s : State) (p : Nat) (x : CamPort) : (State.setCamPort s p x).time = s.time := rfl
@[simp] theorem State.setCamPort_web (s : State) (p : Nat) (x : CamPort) : (State.setCamPort s p x).web = s.web := rfl
@[simp] theorem State.setCamPort_axis (s : State) (p : Nat) (x : CamPort) : (State.setCamPort s p x).axis = s.axis := rfl
@[simp] theorem State.setCamPort_frames (s : State) (p : Nat) (x : CamPort) : (State.setCamPort s p x).frames = s.frames := rfl
@[simp] theorem State.setCamPort_prn (s : State) (p : Nat) (x : CamPort) : (State.setCamPort s p x).prn = s.prn := rfl
@[simp] theorem State.setCamPort_fire (s : State) (p : Nat) (x : CamPort) : (State.setCamPort s p x).fire = s.fire := rfl
@[simp] theorem State.setCamPort_rein (s : State) (p : Nat) (x : CamPort) : (State.setCamPort s p x).rein = s.rein := rfl
@[simp] theorem State.setCamPort_chain (s : State) (p : Nat) (x : CamPort) : (State.setCamPort s p x).chain = s.chain := rfl
@[simp] theorem State.setCamPort_tan (s : State) (p : Nat) (x : CamPort) : (State.setCamPort s p x).tan = s.tan := rfl
@[simp] theorem State.setCamPort_thm (s : State) (p : Nat) (x : CamPort) : (State.setCamPort s p x).thm = s.thm := rfl
@[simp] theorem State.setCamPort_cal (s : State) (p : Nat) (x : CamPort) : (State.setCamPort s p x).cal = s.cal := rfl
@[simp] theorem State.setCamPort_scan (s : State) (p : Nat) (x : CamPort) : (State.setCamPort s p x).scan = s.scan := rfl
@[simp] theorem State.setCamPort_mem (s : State) (p : Nat) (x : CamPort) : (State.setCamPort s p x).mem = s.mem := rfl

/-! ### `State.setStream` -/

@[simp] theorem State.setStream_pending (s : State) (n : Nat) (x : CamStream) : (State.setStream s n x).pending = s.pending := rfl
@[simp] theorem State.setStream_uptime (s : State) (n : Nat) (x : CamStream) : (State.setStream s n x).uptime = s.uptime := rfl
@[simp] theorem State.setStream_wall (s : State) (n : Nat) (x : CamStream) : (State.setStream s n x).wall = s.wall := rfl
@[simp] theorem State.setStream_free (s : State) (n : Nat) (x : CamStream) : (State.setStream s n x).free = s.free := rfl
@[simp] theorem State.setStream_out (s : State) (n : Nat) (x : CamStream) : (State.setStream s n x).out = s.out := rfl
@[simp] theorem State.setStream_fuse (s : State) (n : Nat) (x : CamStream) : (State.setStream s n x).fuse = s.fuse := rfl
@[simp] theorem State.setStream_top (s : State) (n : Nat) (x : CamStream) : (State.setStream s n x).top = s.top := rfl
@[simp] theorem State.setStream_cmd (s : State) (n : Nat) (x : CamStream) : (State.setStream s n x).cmd = s.cmd := rfl
@[simp] theorem State.setStream_pcie (s : State) (n : Nat) (x : CamStream) : (State.setStream s n x).pcie = s.pcie := rfl
@[simp] theorem State.setStream_lcs (s : State) (n : Nat) (x : CamStream) : (State.setStream s n x).lcs = s.lcs := rfl
@[simp] theorem State.setStream_dram (s : State) (n : Nat) (x : CamStream) : (State.setStream s n x).dram = s.dram := rfl
@[simp] theorem State.setStream_poison (s : State) (n : Nat) (x : CamStream) : (State.setStream s n x).poison = s.poison := rfl
@[simp] theorem State.setStream_hostMem (s : State) (n : Nat) (x : CamStream) : (State.setStream s n x).hostMem = s.hostMem := rfl
@[simp] theorem State.setStream_time (s : State) (n : Nat) (x : CamStream) : (State.setStream s n x).time = s.time := rfl
@[simp] theorem State.setStream_web (s : State) (n : Nat) (x : CamStream) : (State.setStream s n x).web = s.web := rfl
@[simp] theorem State.setStream_axis (s : State) (n : Nat) (x : CamStream) : (State.setStream s n x).axis = s.axis := rfl
@[simp] theorem State.setStream_frames (s : State) (n : Nat) (x : CamStream) : (State.setStream s n x).frames = s.frames := rfl
@[simp] theorem State.setStream_prn (s : State) (n : Nat) (x : CamStream) : (State.setStream s n x).prn = s.prn := rfl
@[simp] theorem State.setStream_fire (s : State) (n : Nat) (x : CamStream) : (State.setStream s n x).fire = s.fire := rfl
@[simp] theorem State.setStream_rein (s : State) (n : Nat) (x : CamStream) : (State.setStream s n x).rein = s.rein := rfl
@[simp] theorem State.setStream_chain (s : State) (n : Nat) (x : CamStream) : (State.setStream s n x).chain = s.chain := rfl
@[simp] theorem State.setStream_tan (s : State) (n : Nat) (x : CamStream) : (State.setStream s n x).tan = s.tan := rfl
@[simp] theorem State.setStream_thm (s : State) (n : Nat) (x : CamStream) : (State.setStream s n x).thm = s.thm := rfl
@[simp] theorem State.setStream_cal (s : State) (n : Nat) (x : CamStream) : (State.setStream s n x).cal = s.cal := rfl
@[simp] theorem State.setStream_scan (s : State) (n : Nat) (x : CamStream) : (State.setStream s n x).scan = s.scan := rfl
@[simp] theorem State.setStream_mem (s : State) (n : Nat) (x : CamStream) : (State.setStream s n x).mem = s.mem := rfl

/-! ### `State.setCtx` -/

@[simp] theorem State.setCtx_pending (s : State) (n : Nat) (x : CamCtx) : (State.setCtx s n x).pending = s.pending := rfl
@[simp] theorem State.setCtx_uptime (s : State) (n : Nat) (x : CamCtx) : (State.setCtx s n x).uptime = s.uptime := rfl
@[simp] theorem State.setCtx_wall (s : State) (n : Nat) (x : CamCtx) : (State.setCtx s n x).wall = s.wall := rfl
@[simp] theorem State.setCtx_free (s : State) (n : Nat) (x : CamCtx) : (State.setCtx s n x).free = s.free := rfl
@[simp] theorem State.setCtx_out (s : State) (n : Nat) (x : CamCtx) : (State.setCtx s n x).out = s.out := rfl
@[simp] theorem State.setCtx_fuse (s : State) (n : Nat) (x : CamCtx) : (State.setCtx s n x).fuse = s.fuse := rfl
@[simp] theorem State.setCtx_top (s : State) (n : Nat) (x : CamCtx) : (State.setCtx s n x).top = s.top := rfl
@[simp] theorem State.setCtx_cmd (s : State) (n : Nat) (x : CamCtx) : (State.setCtx s n x).cmd = s.cmd := rfl
@[simp] theorem State.setCtx_pcie (s : State) (n : Nat) (x : CamCtx) : (State.setCtx s n x).pcie = s.pcie := rfl
@[simp] theorem State.setCtx_lcs (s : State) (n : Nat) (x : CamCtx) : (State.setCtx s n x).lcs = s.lcs := rfl
@[simp] theorem State.setCtx_dram (s : State) (n : Nat) (x : CamCtx) : (State.setCtx s n x).dram = s.dram := rfl
@[simp] theorem State.setCtx_poison (s : State) (n : Nat) (x : CamCtx) : (State.setCtx s n x).poison = s.poison := rfl
@[simp] theorem State.setCtx_hostMem (s : State) (n : Nat) (x : CamCtx) : (State.setCtx s n x).hostMem = s.hostMem := rfl
@[simp] theorem State.setCtx_time (s : State) (n : Nat) (x : CamCtx) : (State.setCtx s n x).time = s.time := rfl
@[simp] theorem State.setCtx_web (s : State) (n : Nat) (x : CamCtx) : (State.setCtx s n x).web = s.web := rfl
@[simp] theorem State.setCtx_axis (s : State) (n : Nat) (x : CamCtx) : (State.setCtx s n x).axis = s.axis := rfl
@[simp] theorem State.setCtx_frames (s : State) (n : Nat) (x : CamCtx) : (State.setCtx s n x).frames = s.frames := rfl
@[simp] theorem State.setCtx_prn (s : State) (n : Nat) (x : CamCtx) : (State.setCtx s n x).prn = s.prn := rfl
@[simp] theorem State.setCtx_fire (s : State) (n : Nat) (x : CamCtx) : (State.setCtx s n x).fire = s.fire := rfl
@[simp] theorem State.setCtx_rein (s : State) (n : Nat) (x : CamCtx) : (State.setCtx s n x).rein = s.rein := rfl
@[simp] theorem State.setCtx_chain (s : State) (n : Nat) (x : CamCtx) : (State.setCtx s n x).chain = s.chain := rfl
@[simp] theorem State.setCtx_tan (s : State) (n : Nat) (x : CamCtx) : (State.setCtx s n x).tan = s.tan := rfl
@[simp] theorem State.setCtx_thm (s : State) (n : Nat) (x : CamCtx) : (State.setCtx s n x).thm = s.thm := rfl
@[simp] theorem State.setCtx_cal (s : State) (n : Nat) (x : CamCtx) : (State.setCtx s n x).cal = s.cal := rfl
@[simp] theorem State.setCtx_scan (s : State) (n : Nat) (x : CamCtx) : (State.setCtx s n x).scan = s.scan := rfl
@[simp] theorem State.setCtx_mem (s : State) (n : Nat) (x : CamCtx) : (State.setCtx s n x).mem = s.mem := rfl

/-! ### `State.withAxis` -/

@[simp] theorem State.withAxis_pending (s : State) (f : Motion → Motion) : (State.withAxis s f).pending = s.pending := rfl
@[simp] theorem State.withAxis_uptime (s : State) (f : Motion → Motion) : (State.withAxis s f).uptime = s.uptime := rfl
@[simp] theorem State.withAxis_wall (s : State) (f : Motion → Motion) : (State.withAxis s f).wall = s.wall := rfl
@[simp] theorem State.withAxis_free (s : State) (f : Motion → Motion) : (State.withAxis s f).free = s.free := rfl
@[simp] theorem State.withAxis_out (s : State) (f : Motion → Motion) : (State.withAxis s f).out = s.out := rfl
@[simp] theorem State.withAxis_fuse (s : State) (f : Motion → Motion) : (State.withAxis s f).fuse = s.fuse := rfl
@[simp] theorem State.withAxis_top (s : State) (f : Motion → Motion) : (State.withAxis s f).top = s.top := rfl
@[simp] theorem State.withAxis_cmd (s : State) (f : Motion → Motion) : (State.withAxis s f).cmd = s.cmd := rfl
@[simp] theorem State.withAxis_pcie (s : State) (f : Motion → Motion) : (State.withAxis s f).pcie = s.pcie := rfl
@[simp] theorem State.withAxis_lcs (s : State) (f : Motion → Motion) : (State.withAxis s f).lcs = s.lcs := rfl
@[simp] theorem State.withAxis_dram (s : State) (f : Motion → Motion) : (State.withAxis s f).dram = s.dram := rfl
@[simp] theorem State.withAxis_poison (s : State) (f : Motion → Motion) : (State.withAxis s f).poison = s.poison := rfl
@[simp] theorem State.withAxis_hostMem (s : State) (f : Motion → Motion) : (State.withAxis s f).hostMem = s.hostMem := rfl
@[simp] theorem State.withAxis_time (s : State) (f : Motion → Motion) : (State.withAxis s f).time = s.time := rfl
@[simp] theorem State.withAxis_web (s : State) (f : Motion → Motion) : (State.withAxis s f).web = s.web := rfl
@[simp] theorem State.withAxis_frames (s : State) (f : Motion → Motion) : (State.withAxis s f).frames = s.frames := rfl
@[simp] theorem State.withAxis_prn (s : State) (f : Motion → Motion) : (State.withAxis s f).prn = s.prn := rfl
@[simp] theorem State.withAxis_fire (s : State) (f : Motion → Motion) : (State.withAxis s f).fire = s.fire := rfl
@[simp] theorem State.withAxis_rein (s : State) (f : Motion → Motion) : (State.withAxis s f).rein = s.rein := rfl
@[simp] theorem State.withAxis_chain (s : State) (f : Motion → Motion) : (State.withAxis s f).chain = s.chain := rfl
@[simp] theorem State.withAxis_tan (s : State) (f : Motion → Motion) : (State.withAxis s f).tan = s.tan := rfl
@[simp] theorem State.withAxis_thm (s : State) (f : Motion → Motion) : (State.withAxis s f).thm = s.thm := rfl
@[simp] theorem State.withAxis_cal (s : State) (f : Motion → Motion) : (State.withAxis s f).cal = s.cal := rfl
@[simp] theorem State.withAxis_scan (s : State) (f : Motion → Motion) : (State.withAxis s f).scan = s.scan := rfl
@[simp] theorem State.withAxis_cam (s : State) (f : Motion → Motion) : (State.withAxis s f).cam = s.cam := rfl
@[simp] theorem State.withAxis_mem (s : State) (f : Motion → Motion) : (State.withAxis s f).mem = s.mem := rfl
@[simp] theorem State.withAxis_axis (s : State) (f : Motion → Motion) : (State.withAxis s f).axis = f s.axis := rfl

/-! ### `State.setAx` -/

@[simp] theorem State.setAx_pending (s : State) (a : Nat) (x : Axis) : (State.setAx s a x).pending = s.pending := rfl
@[simp] theorem State.setAx_uptime (s : State) (a : Nat) (x : Axis) : (State.setAx s a x).uptime = s.uptime := rfl
@[simp] theorem State.setAx_wall (s : State) (a : Nat) (x : Axis) : (State.setAx s a x).wall = s.wall := rfl
@[simp] theorem State.setAx_free (s : State) (a : Nat) (x : Axis) : (State.setAx s a x).free = s.free := rfl
@[simp] theorem State.setAx_out (s : State) (a : Nat) (x : Axis) : (State.setAx s a x).out = s.out := rfl
@[simp] theorem State.setAx_fuse (s : State) (a : Nat) (x : Axis) : (State.setAx s a x).fuse = s.fuse := rfl
@[simp] theorem State.setAx_top (s : State) (a : Nat) (x : Axis) : (State.setAx s a x).top = s.top := rfl
@[simp] theorem State.setAx_cmd (s : State) (a : Nat) (x : Axis) : (State.setAx s a x).cmd = s.cmd := rfl
@[simp] theorem State.setAx_pcie (s : State) (a : Nat) (x : Axis) : (State.setAx s a x).pcie = s.pcie := rfl
@[simp] theorem State.setAx_lcs (s : State) (a : Nat) (x : Axis) : (State.setAx s a x).lcs = s.lcs := rfl
@[simp] theorem State.setAx_dram (s : State) (a : Nat) (x : Axis) : (State.setAx s a x).dram = s.dram := rfl
@[simp] theorem State.setAx_poison (s : State) (a : Nat) (x : Axis) : (State.setAx s a x).poison = s.poison := rfl
@[simp] theorem State.setAx_hostMem (s : State) (a : Nat) (x : Axis) : (State.setAx s a x).hostMem = s.hostMem := rfl
@[simp] theorem State.setAx_time (s : State) (a : Nat) (x : Axis) : (State.setAx s a x).time = s.time := rfl
@[simp] theorem State.setAx_web (s : State) (a : Nat) (x : Axis) : (State.setAx s a x).web = s.web := rfl
@[simp] theorem State.setAx_frames (s : State) (a : Nat) (x : Axis) : (State.setAx s a x).frames = s.frames := rfl
@[simp] theorem State.setAx_prn (s : State) (a : Nat) (x : Axis) : (State.setAx s a x).prn = s.prn := rfl
@[simp] theorem State.setAx_fire (s : State) (a : Nat) (x : Axis) : (State.setAx s a x).fire = s.fire := rfl
@[simp] theorem State.setAx_rein (s : State) (a : Nat) (x : Axis) : (State.setAx s a x).rein = s.rein := rfl
@[simp] theorem State.setAx_chain (s : State) (a : Nat) (x : Axis) : (State.setAx s a x).chain = s.chain := rfl
@[simp] theorem State.setAx_tan (s : State) (a : Nat) (x : Axis) : (State.setAx s a x).tan = s.tan := rfl
@[simp] theorem State.setAx_thm (s : State) (a : Nat) (x : Axis) : (State.setAx s a x).thm = s.thm := rfl
@[simp] theorem State.setAx_cal (s : State) (a : Nat) (x : Axis) : (State.setAx s a x).cal = s.cal := rfl
@[simp] theorem State.setAx_scan (s : State) (a : Nat) (x : Axis) : (State.setAx s a x).scan = s.scan := rfl
@[simp] theorem State.setAx_cam (s : State) (a : Nat) (x : Axis) : (State.setAx s a x).cam = s.cam := rfl
@[simp] theorem State.setAx_mem (s : State) (a : Nat) (x : Axis) : (State.setAx s a x).mem = s.mem := rfl

/-! ### `State.setMove` -/

@[simp] theorem State.setMove_pending (s : State) (g : Nat) (m : GroupMove) : (State.setMove s g m).pending = s.pending := rfl
@[simp] theorem State.setMove_uptime (s : State) (g : Nat) (m : GroupMove) : (State.setMove s g m).uptime = s.uptime := rfl
@[simp] theorem State.setMove_wall (s : State) (g : Nat) (m : GroupMove) : (State.setMove s g m).wall = s.wall := rfl
@[simp] theorem State.setMove_free (s : State) (g : Nat) (m : GroupMove) : (State.setMove s g m).free = s.free := rfl
@[simp] theorem State.setMove_out (s : State) (g : Nat) (m : GroupMove) : (State.setMove s g m).out = s.out := rfl
@[simp] theorem State.setMove_fuse (s : State) (g : Nat) (m : GroupMove) : (State.setMove s g m).fuse = s.fuse := rfl
@[simp] theorem State.setMove_top (s : State) (g : Nat) (m : GroupMove) : (State.setMove s g m).top = s.top := rfl
@[simp] theorem State.setMove_cmd (s : State) (g : Nat) (m : GroupMove) : (State.setMove s g m).cmd = s.cmd := rfl
@[simp] theorem State.setMove_pcie (s : State) (g : Nat) (m : GroupMove) : (State.setMove s g m).pcie = s.pcie := rfl
@[simp] theorem State.setMove_lcs (s : State) (g : Nat) (m : GroupMove) : (State.setMove s g m).lcs = s.lcs := rfl
@[simp] theorem State.setMove_dram (s : State) (g : Nat) (m : GroupMove) : (State.setMove s g m).dram = s.dram := rfl
@[simp] theorem State.setMove_poison (s : State) (g : Nat) (m : GroupMove) : (State.setMove s g m).poison = s.poison := rfl
@[simp] theorem State.setMove_hostMem (s : State) (g : Nat) (m : GroupMove) : (State.setMove s g m).hostMem = s.hostMem := rfl
@[simp] theorem State.setMove_time (s : State) (g : Nat) (m : GroupMove) : (State.setMove s g m).time = s.time := rfl
@[simp] theorem State.setMove_web (s : State) (g : Nat) (m : GroupMove) : (State.setMove s g m).web = s.web := rfl
@[simp] theorem State.setMove_frames (s : State) (g : Nat) (m : GroupMove) : (State.setMove s g m).frames = s.frames := rfl
@[simp] theorem State.setMove_prn (s : State) (g : Nat) (m : GroupMove) : (State.setMove s g m).prn = s.prn := rfl
@[simp] theorem State.setMove_fire (s : State) (g : Nat) (m : GroupMove) : (State.setMove s g m).fire = s.fire := rfl
@[simp] theorem State.setMove_rein (s : State) (g : Nat) (m : GroupMove) : (State.setMove s g m).rein = s.rein := rfl
@[simp] theorem State.setMove_chain (s : State) (g : Nat) (m : GroupMove) : (State.setMove s g m).chain = s.chain := rfl
@[simp] theorem State.setMove_tan (s : State) (g : Nat) (m : GroupMove) : (State.setMove s g m).tan = s.tan := rfl
@[simp] theorem State.setMove_thm (s : State) (g : Nat) (m : GroupMove) : (State.setMove s g m).thm = s.thm := rfl
@[simp] theorem State.setMove_cal (s : State) (g : Nat) (m : GroupMove) : (State.setMove s g m).cal = s.cal := rfl
@[simp] theorem State.setMove_scan (s : State) (g : Nat) (m : GroupMove) : (State.setMove s g m).scan = s.scan := rfl
@[simp] theorem State.setMove_cam (s : State) (g : Nat) (m : GroupMove) : (State.setMove s g m).cam = s.cam := rfl
@[simp] theorem State.setMove_mem (s : State) (g : Nat) (m : GroupMove) : (State.setMove s g m).mem = s.mem := rfl

/-! ### `State.setDdr` -/

@[simp] theorem State.setDdr_pending (s : State) (c : Nat) (x : MemChan) : (State.setDdr s c x).pending = s.pending := rfl
@[simp] theorem State.setDdr_uptime (s : State) (c : Nat) (x : MemChan) : (State.setDdr s c x).uptime = s.uptime := rfl
@[simp] theorem State.setDdr_wall (s : State) (c : Nat) (x : MemChan) : (State.setDdr s c x).wall = s.wall := rfl
@[simp] theorem State.setDdr_free (s : State) (c : Nat) (x : MemChan) : (State.setDdr s c x).free = s.free := rfl
@[simp] theorem State.setDdr_out (s : State) (c : Nat) (x : MemChan) : (State.setDdr s c x).out = s.out := rfl
@[simp] theorem State.setDdr_fuse (s : State) (c : Nat) (x : MemChan) : (State.setDdr s c x).fuse = s.fuse := rfl
@[simp] theorem State.setDdr_top (s : State) (c : Nat) (x : MemChan) : (State.setDdr s c x).top = s.top := rfl
@[simp] theorem State.setDdr_cmd (s : State) (c : Nat) (x : MemChan) : (State.setDdr s c x).cmd = s.cmd := rfl
@[simp] theorem State.setDdr_pcie (s : State) (c : Nat) (x : MemChan) : (State.setDdr s c x).pcie = s.pcie := rfl
@[simp] theorem State.setDdr_lcs (s : State) (c : Nat) (x : MemChan) : (State.setDdr s c x).lcs = s.lcs := rfl
@[simp] theorem State.setDdr_dram (s : State) (c : Nat) (x : MemChan) : (State.setDdr s c x).dram = s.dram := rfl
@[simp] theorem State.setDdr_poison (s : State) (c : Nat) (x : MemChan) : (State.setDdr s c x).poison = s.poison := rfl
@[simp] theorem State.setDdr_hostMem (s : State) (c : Nat) (x : MemChan) : (State.setDdr s c x).hostMem = s.hostMem := rfl
@[simp] theorem State.setDdr_time (s : State) (c : Nat) (x : MemChan) : (State.setDdr s c x).time = s.time := rfl
@[simp] theorem State.setDdr_web (s : State) (c : Nat) (x : MemChan) : (State.setDdr s c x).web = s.web := rfl
@[simp] theorem State.setDdr_axis (s : State) (c : Nat) (x : MemChan) : (State.setDdr s c x).axis = s.axis := rfl
@[simp] theorem State.setDdr_frames (s : State) (c : Nat) (x : MemChan) : (State.setDdr s c x).frames = s.frames := rfl
@[simp] theorem State.setDdr_prn (s : State) (c : Nat) (x : MemChan) : (State.setDdr s c x).prn = s.prn := rfl
@[simp] theorem State.setDdr_fire (s : State) (c : Nat) (x : MemChan) : (State.setDdr s c x).fire = s.fire := rfl
@[simp] theorem State.setDdr_rein (s : State) (c : Nat) (x : MemChan) : (State.setDdr s c x).rein = s.rein := rfl
@[simp] theorem State.setDdr_chain (s : State) (c : Nat) (x : MemChan) : (State.setDdr s c x).chain = s.chain := rfl
@[simp] theorem State.setDdr_tan (s : State) (c : Nat) (x : MemChan) : (State.setDdr s c x).tan = s.tan := rfl
@[simp] theorem State.setDdr_thm (s : State) (c : Nat) (x : MemChan) : (State.setDdr s c x).thm = s.thm := rfl
@[simp] theorem State.setDdr_cal (s : State) (c : Nat) (x : MemChan) : (State.setDdr s c x).cal = s.cal := rfl
@[simp] theorem State.setDdr_scan (s : State) (c : Nat) (x : MemChan) : (State.setDdr s c x).scan = s.scan := rfl
@[simp] theorem State.setDdr_cam (s : State) (c : Nat) (x : MemChan) : (State.setDdr s c x).cam = s.cam := rfl

/-! ### `State.setHead` -/

@[simp] theorem State.setHead_pending (s : State) (b : Nat) (x : HeadStep) : (State.setHead s b x).pending = s.pending := rfl
@[simp] theorem State.setHead_uptime (s : State) (b : Nat) (x : HeadStep) : (State.setHead s b x).uptime = s.uptime := rfl
@[simp] theorem State.setHead_wall (s : State) (b : Nat) (x : HeadStep) : (State.setHead s b x).wall = s.wall := rfl
@[simp] theorem State.setHead_free (s : State) (b : Nat) (x : HeadStep) : (State.setHead s b x).free = s.free := rfl
@[simp] theorem State.setHead_out (s : State) (b : Nat) (x : HeadStep) : (State.setHead s b x).out = s.out := rfl
@[simp] theorem State.setHead_fuse (s : State) (b : Nat) (x : HeadStep) : (State.setHead s b x).fuse = s.fuse := rfl
@[simp] theorem State.setHead_top (s : State) (b : Nat) (x : HeadStep) : (State.setHead s b x).top = s.top := rfl
@[simp] theorem State.setHead_cmd (s : State) (b : Nat) (x : HeadStep) : (State.setHead s b x).cmd = s.cmd := rfl
@[simp] theorem State.setHead_pcie (s : State) (b : Nat) (x : HeadStep) : (State.setHead s b x).pcie = s.pcie := rfl
@[simp] theorem State.setHead_lcs (s : State) (b : Nat) (x : HeadStep) : (State.setHead s b x).lcs = s.lcs := rfl
@[simp] theorem State.setHead_dram (s : State) (b : Nat) (x : HeadStep) : (State.setHead s b x).dram = s.dram := rfl
@[simp] theorem State.setHead_poison (s : State) (b : Nat) (x : HeadStep) : (State.setHead s b x).poison = s.poison := rfl
@[simp] theorem State.setHead_hostMem (s : State) (b : Nat) (x : HeadStep) : (State.setHead s b x).hostMem = s.hostMem := rfl
@[simp] theorem State.setHead_time (s : State) (b : Nat) (x : HeadStep) : (State.setHead s b x).time = s.time := rfl
@[simp] theorem State.setHead_web (s : State) (b : Nat) (x : HeadStep) : (State.setHead s b x).web = s.web := rfl
@[simp] theorem State.setHead_axis (s : State) (b : Nat) (x : HeadStep) : (State.setHead s b x).axis = s.axis := rfl
@[simp] theorem State.setHead_frames (s : State) (b : Nat) (x : HeadStep) : (State.setHead s b x).frames = s.frames := rfl
@[simp] theorem State.setHead_prn (s : State) (b : Nat) (x : HeadStep) : (State.setHead s b x).prn = s.prn := rfl
@[simp] theorem State.setHead_fire (s : State) (b : Nat) (x : HeadStep) : (State.setHead s b x).fire = s.fire := rfl
@[simp] theorem State.setHead_rein (s : State) (b : Nat) (x : HeadStep) : (State.setHead s b x).rein = s.rein := rfl
@[simp] theorem State.setHead_chain (s : State) (b : Nat) (x : HeadStep) : (State.setHead s b x).chain = s.chain := rfl
@[simp] theorem State.setHead_tan (s : State) (b : Nat) (x : HeadStep) : (State.setHead s b x).tan = s.tan := rfl
@[simp] theorem State.setHead_cal (s : State) (b : Nat) (x : HeadStep) : (State.setHead s b x).cal = s.cal := rfl
@[simp] theorem State.setHead_scan (s : State) (b : Nat) (x : HeadStep) : (State.setHead s b x).scan = s.scan := rfl
@[simp] theorem State.setHead_cam (s : State) (b : Nat) (x : HeadStep) : (State.setHead s b x).cam = s.cam := rfl
@[simp] theorem State.setHead_mem (s : State) (b : Nat) (x : HeadStep) : (State.setHead s b x).mem = s.mem := rfl

/-! ### `State.setPull` -/

@[simp] theorem State.setPull_pending (s : State) (k : Nat) (p : Pull) : (State.setPull s k p).pending = s.pending := rfl
@[simp] theorem State.setPull_uptime (s : State) (k : Nat) (p : Pull) : (State.setPull s k p).uptime = s.uptime := rfl
@[simp] theorem State.setPull_wall (s : State) (k : Nat) (p : Pull) : (State.setPull s k p).wall = s.wall := rfl
@[simp] theorem State.setPull_free (s : State) (k : Nat) (p : Pull) : (State.setPull s k p).free = s.free := rfl
@[simp] theorem State.setPull_out (s : State) (k : Nat) (p : Pull) : (State.setPull s k p).out = s.out := rfl
@[simp] theorem State.setPull_fuse (s : State) (k : Nat) (p : Pull) : (State.setPull s k p).fuse = s.fuse := rfl
@[simp] theorem State.setPull_top (s : State) (k : Nat) (p : Pull) : (State.setPull s k p).top = s.top := rfl
@[simp] theorem State.setPull_pcie (s : State) (k : Nat) (p : Pull) : (State.setPull s k p).pcie = s.pcie := rfl
@[simp] theorem State.setPull_lcs (s : State) (k : Nat) (p : Pull) : (State.setPull s k p).lcs = s.lcs := rfl
@[simp] theorem State.setPull_dram (s : State) (k : Nat) (p : Pull) : (State.setPull s k p).dram = s.dram := rfl
@[simp] theorem State.setPull_poison (s : State) (k : Nat) (p : Pull) : (State.setPull s k p).poison = s.poison := rfl
@[simp] theorem State.setPull_hostMem (s : State) (k : Nat) (p : Pull) : (State.setPull s k p).hostMem = s.hostMem := rfl
@[simp] theorem State.setPull_time (s : State) (k : Nat) (p : Pull) : (State.setPull s k p).time = s.time := rfl
@[simp] theorem State.setPull_web (s : State) (k : Nat) (p : Pull) : (State.setPull s k p).web = s.web := rfl
@[simp] theorem State.setPull_axis (s : State) (k : Nat) (p : Pull) : (State.setPull s k p).axis = s.axis := rfl
@[simp] theorem State.setPull_frames (s : State) (k : Nat) (p : Pull) : (State.setPull s k p).frames = s.frames := rfl
@[simp] theorem State.setPull_prn (s : State) (k : Nat) (p : Pull) : (State.setPull s k p).prn = s.prn := rfl
@[simp] theorem State.setPull_fire (s : State) (k : Nat) (p : Pull) : (State.setPull s k p).fire = s.fire := rfl
@[simp] theorem State.setPull_rein (s : State) (k : Nat) (p : Pull) : (State.setPull s k p).rein = s.rein := rfl
@[simp] theorem State.setPull_chain (s : State) (k : Nat) (p : Pull) : (State.setPull s k p).chain = s.chain := rfl
@[simp] theorem State.setPull_tan (s : State) (k : Nat) (p : Pull) : (State.setPull s k p).tan = s.tan := rfl
@[simp] theorem State.setPull_thm (s : State) (k : Nat) (p : Pull) : (State.setPull s k p).thm = s.thm := rfl
@[simp] theorem State.setPull_cal (s : State) (k : Nat) (p : Pull) : (State.setPull s k p).cal = s.cal := rfl
@[simp] theorem State.setPull_scan (s : State) (k : Nat) (p : Pull) : (State.setPull s k p).scan = s.scan := rfl
@[simp] theorem State.setPull_cam (s : State) (k : Nat) (p : Pull) : (State.setPull s k p).cam = s.cam := rfl
@[simp] theorem State.setPull_mem (s : State) (k : Nat) (p : Pull) : (State.setPull s k p).mem = s.mem := rfl

/-! ### `State.withLcs` -/

@[simp] theorem State.withLcs_pending (s : State) (f : Lcs → Lcs) : (State.withLcs s f).pending = s.pending := rfl
@[simp] theorem State.withLcs_uptime (s : State) (f : Lcs → Lcs) : (State.withLcs s f).uptime = s.uptime := rfl
@[simp] theorem State.withLcs_wall (s : State) (f : Lcs → Lcs) : (State.withLcs s f).wall = s.wall := rfl
@[simp] theorem State.withLcs_free (s : State) (f : Lcs → Lcs) : (State.withLcs s f).free = s.free := rfl
@[simp] theorem State.withLcs_out (s : State) (f : Lcs → Lcs) : (State.withLcs s f).out = s.out := rfl
@[simp] theorem State.withLcs_fuse (s : State) (f : Lcs → Lcs) : (State.withLcs s f).fuse = s.fuse := rfl
@[simp] theorem State.withLcs_top (s : State) (f : Lcs → Lcs) : (State.withLcs s f).top = s.top := rfl
@[simp] theorem State.withLcs_cmd (s : State) (f : Lcs → Lcs) : (State.withLcs s f).cmd = s.cmd := rfl
@[simp] theorem State.withLcs_pcie (s : State) (f : Lcs → Lcs) : (State.withLcs s f).pcie = s.pcie := rfl
@[simp] theorem State.withLcs_dram (s : State) (f : Lcs → Lcs) : (State.withLcs s f).dram = s.dram := rfl
@[simp] theorem State.withLcs_poison (s : State) (f : Lcs → Lcs) : (State.withLcs s f).poison = s.poison := rfl
@[simp] theorem State.withLcs_hostMem (s : State) (f : Lcs → Lcs) : (State.withLcs s f).hostMem = s.hostMem := rfl
@[simp] theorem State.withLcs_time (s : State) (f : Lcs → Lcs) : (State.withLcs s f).time = s.time := rfl
@[simp] theorem State.withLcs_web (s : State) (f : Lcs → Lcs) : (State.withLcs s f).web = s.web := rfl
@[simp] theorem State.withLcs_axis (s : State) (f : Lcs → Lcs) : (State.withLcs s f).axis = s.axis := rfl
@[simp] theorem State.withLcs_frames (s : State) (f : Lcs → Lcs) : (State.withLcs s f).frames = s.frames := rfl
@[simp] theorem State.withLcs_prn (s : State) (f : Lcs → Lcs) : (State.withLcs s f).prn = s.prn := rfl
@[simp] theorem State.withLcs_fire (s : State) (f : Lcs → Lcs) : (State.withLcs s f).fire = s.fire := rfl
@[simp] theorem State.withLcs_rein (s : State) (f : Lcs → Lcs) : (State.withLcs s f).rein = s.rein := rfl
@[simp] theorem State.withLcs_chain (s : State) (f : Lcs → Lcs) : (State.withLcs s f).chain = s.chain := rfl
@[simp] theorem State.withLcs_tan (s : State) (f : Lcs → Lcs) : (State.withLcs s f).tan = s.tan := rfl
@[simp] theorem State.withLcs_thm (s : State) (f : Lcs → Lcs) : (State.withLcs s f).thm = s.thm := rfl
@[simp] theorem State.withLcs_cal (s : State) (f : Lcs → Lcs) : (State.withLcs s f).cal = s.cal := rfl
@[simp] theorem State.withLcs_scan (s : State) (f : Lcs → Lcs) : (State.withLcs s f).scan = s.scan := rfl
@[simp] theorem State.withLcs_cam (s : State) (f : Lcs → Lcs) : (State.withLcs s f).cam = s.cam := rfl
@[simp] theorem State.withLcs_mem (s : State) (f : Lcs → Lcs) : (State.withLcs s f).mem = s.mem := rfl
@[simp] theorem State.withLcs_lcs (s : State) (f : Lcs → Lcs) : (State.withLcs s f).lcs = f s.lcs := rfl

end Sys2Proof.Machine
end

