-- ==== Sys2Proof/Laws/Ops.lean ====
section
/-! SUPPORT. What the shared operations do: the run of a command from its slot, a completion, an event. -/

namespace Sys2Proof.Machine

/-! ### `completeRaw` changes slots, records only -/

theorem completeRaw_only (k st det res : Nat) (f : Option FrameNo) (s : State) :
    Keeps (fun p => p == .slots || p == .records) s (completeRaw k st det res f s) := by
  apply completeRaw_keeps <;> first | rfl | exact Keeps.refl _ _

@[simp] theorem completeRaw_pending (k st det res : Nat) (f : Option FrameNo) (s : State) :
    (completeRaw k st det res f s).pending = s.pending := (completeRaw_only _ _ _ _ _ _).pending
@[simp] theorem completeRaw_fuse (k st det res : Nat) (f : Option FrameNo) (s : State) :
    (completeRaw k st det res f s).fuse = s.fuse := (completeRaw_only _ _ _ _ _ _).fuse
@[simp] theorem completeRaw_wall (k st det res : Nat) (f : Option FrameNo) (s : State) :
    (completeRaw k st det res f s).wall = s.wall := (completeRaw_only _ _ _ _ _ _).wall
@[simp] theorem completeRaw_uptime (k st det res : Nat) (f : Option FrameNo) (s : State) :
    (completeRaw k st det res f s).uptime = s.uptime := (completeRaw_only _ _ _ _ _ _).uptime rfl
@[simp] theorem completeRaw_free (k st det res : Nat) (f : Option FrameNo) (s : State) :
    (completeRaw k st det res f s).free = s.free := (completeRaw_only _ _ _ _ _ _).free rfl
@[simp] theorem completeRaw_out (k st det res : Nat) (f : Option FrameNo) (s : State) :
    (completeRaw k st det res f s).out = s.out := (completeRaw_only _ _ _ _ _ _).out rfl
@[simp] theorem completeRaw_top (k st det res : Nat) (f : Option FrameNo) (s : State) :
    (completeRaw k st det res f s).top = s.top := (completeRaw_only _ _ _ _ _ _).top_eq rfl rfl rfl rfl
@[simp] theorem completeRaw_cmd_rings (k st det res : Nat) (f : Option FrameNo) (s : State) :
    (completeRaw k st det res f s).cmd.rings = s.cmd.rings := ((completeRaw_only _ _ _ _ _ _).rings rfl).1
@[simp] theorem completeRaw_cmd_rrNext (k st det res : Nat) (f : Option FrameNo) (s : State) :
    (completeRaw k st det res f s).cmd.rrNext = s.cmd.rrNext := ((completeRaw_only _ _ _ _ _ _).rings rfl).2.1
@[simp] theorem completeRaw_cmd_nextId (k st det res : Nat) (f : Option FrameNo) (s : State) :
    (completeRaw k st det res f s).cmd.nextId = s.cmd.nextId := ((completeRaw_only _ _ _ _ _ _).rings rfl).2.2
@[simp] theorem completeRaw_cmd_evt (k st det res : Nat) (f : Option FrameNo) (s : State) :
    (completeRaw k st det res f s).cmd.evt = s.cmd.evt := ((completeRaw_only _ _ _ _ _ _).events rfl).1
@[simp] theorem completeRaw_cmd_backlog (k st det res : Nat) (f : Option FrameNo) (s : State) :
    (completeRaw k st det res f s).cmd.backlog = s.cmd.backlog := ((completeRaw_only _ _ _ _ _ _).events rfl).2.1
@[simp] theorem completeRaw_cmd_evtSeq (k st det res : Nat) (f : Option FrameNo) (s : State) :
    (completeRaw k st det res f s).cmd.evtSeq = s.cmd.evtSeq := ((completeRaw_only _ _ _ _ _ _).events rfl).2.2.1
@[simp] theorem completeRaw_cmd_lostAll (k st det res : Nat) (f : Option FrameNo) (s : State) :
    (completeRaw k st det res f s).cmd.lostAll = s.cmd.lostAll := ((completeRaw_only _ _ _ _ _ _).events rfl).2.2.2.1
@[simp] theorem completeRaw_cmd_lostFrame (k st det res : Nat) (f : Option FrameNo) (s : State) :
    (completeRaw k st det res f s).cmd.lostFrame = s.cmd.lostFrame := ((completeRaw_only _ _ _ _ _ _).events rfl).2.2.2.2
@[simp] theorem completeRaw_cmd_masked (k st det res : Nat) (f : Option FrameNo) (s : State) :
    (completeRaw k st det res f s).cmd.masked = s.cmd.masked := (completeRaw_only _ _ _ _ _ _).masked rfl
@[simp] theorem completeRaw_cmd_bufs (k st det res : Nat) (f : Option FrameNo) (s : State) :
    (completeRaw k st det res f s).cmd.bufs = s.cmd.bufs := (completeRaw_only _ _ _ _ _ _).bufs rfl
@[simp] theorem completeRaw_cmd_pulls (k st det res : Nat) (f : Option FrameNo) (s : State) :
    (completeRaw k st det res f s).cmd.pulls = s.cmd.pulls := (completeRaw_only _ _ _ _ _ _).pulls rfl
@[simp] theorem completeRaw_cmd_hostBase (k st det res : Nat) (f : Option FrameNo) (s : State) :
    (completeRaw k st det res f s).cmd.hostBase = s.cmd.hostBase := ((completeRaw_only _ _ _ _ _ _).area rfl).1
@[simp] theorem completeRaw_cmd_hostSize (k st det res : Nat) (f : Option FrameNo) (s : State) :
    (completeRaw k st det res f s).cmd.hostSize = s.cmd.hostSize := ((completeRaw_only _ _ _ _ _ _).area rfl).2
@[simp] theorem completeRaw_cmd_winDrop (k st det res : Nat) (f : Option FrameNo) (s : State) :
    (completeRaw k st det res f s).cmd.winDrop = s.cmd.winDrop := (completeRaw_only _ _ _ _ _ _).winDrop rfl
@[simp] theorem completeRaw_pcie (k st det res : Nat) (f : Option FrameNo) (s : State) :
    (completeRaw k st det res f s).pcie = s.pcie := (completeRaw_only _ _ _ _ _ _).pcie_eq rfl rfl rfl rfl rfl rfl
@[simp] theorem completeRaw_lcs (k st det res : Nat) (f : Option FrameNo) (s : State) :
    (completeRaw k st det res f s).lcs = s.lcs := (completeRaw_only _ _ _ _ _ _).lcs rfl
@[simp] theorem completeRaw_dram (k st det res : Nat) (f : Option FrameNo) (s : State) :
    (completeRaw k st det res f s).dram = s.dram := (completeRaw_only _ _ _ _ _ _).dram rfl
@[simp] theorem completeRaw_poison (k st det res : Nat) (f : Option FrameNo) (s : State) :
    (completeRaw k st det res f s).poison = s.poison := (completeRaw_only _ _ _ _ _ _).poison rfl
@[simp] theorem completeRaw_hostMem (k st det res : Nat) (f : Option FrameNo) (s : State) :
    (completeRaw k st det res f s).hostMem = s.hostMem := (completeRaw_only _ _ _ _ _ _).hostMem rfl
@[simp] theorem completeRaw_time (k st det res : Nat) (f : Option FrameNo) (s : State) :
    (completeRaw k st det res f s).time = s.time := (completeRaw_only _ _ _ _ _ _).time rfl
@[simp] theorem completeRaw_web (k st det res : Nat) (f : Option FrameNo) (s : State) :
    (completeRaw k st det res f s).web = s.web := (completeRaw_only _ _ _ _ _ _).web rfl
@[simp] theorem completeRaw_axis (k st det res : Nat) (f : Option FrameNo) (s : State) :
    (completeRaw k st det res f s).axis = s.axis := (completeRaw_only _ _ _ _ _ _).axis rfl
@[simp] theorem completeRaw_frames (k st det res : Nat) (f : Option FrameNo) (s : State) :
    (completeRaw k st det res f s).frames = s.frames := (completeRaw_only _ _ _ _ _ _).frames rfl
@[simp] theorem completeRaw_prn (k st det res : Nat) (f : Option FrameNo) (s : State) :
    (completeRaw k st det res f s).prn = s.prn := (completeRaw_only _ _ _ _ _ _).prn rfl
@[simp] theorem completeRaw_fire (k st det res : Nat) (f : Option FrameNo) (s : State) :
    (completeRaw k st det res f s).fire = s.fire := (completeRaw_only _ _ _ _ _ _).fire rfl
@[simp] theorem completeRaw_rein (k st det res : Nat) (f : Option FrameNo) (s : State) :
    (completeRaw k st det res f s).rein = s.rein := (completeRaw_only _ _ _ _ _ _).rein rfl
@[simp] theorem completeRaw_chain (k st det res : Nat) (f : Option FrameNo) (s : State) :
    (completeRaw k st det res f s).chain = s.chain := (completeRaw_only _ _ _ _ _ _).chain rfl
@[simp] theorem completeRaw_tan (k st det res : Nat) (f : Option FrameNo) (s : State) :
    (completeRaw k st det res f s).tan = s.tan := (completeRaw_only _ _ _ _ _ _).tan rfl
@[simp] theorem completeRaw_thm (k st det res : Nat) (f : Option FrameNo) (s : State) :
    (completeRaw k st det res f s).thm = s.thm := (completeRaw_only _ _ _ _ _ _).thm rfl
@[simp] theorem completeRaw_cal (k st det res : Nat) (f : Option FrameNo) (s : State) :
    (completeRaw k st det res f s).cal = s.cal := (completeRaw_only _ _ _ _ _ _).cal rfl
@[simp] theorem completeRaw_scan (k st det res : Nat) (f : Option FrameNo) (s : State) :
    (completeRaw k st det res f s).scan = s.scan := (completeRaw_only _ _ _ _ _ _).scan rfl
@[simp] theorem completeRaw_cam (k st det res : Nat) (f : Option FrameNo) (s : State) :
    (completeRaw k st det res f s).cam = s.cam := (completeRaw_only _ _ _ _ _ _).cam rfl
@[simp] theorem completeRaw_mem (k st det res : Nat) (f : Option FrameNo) (s : State) :
    (completeRaw k st det res f s).mem = s.mem := (completeRaw_only _ _ _ _ _ _).mem rfl

/-! ### `sweepBad` changes slots, records only -/

theorem sweepBad_only (n : Nat) (s : State) :
    Keeps (fun p => p == .slots || p == .records) s (sweepBad n s) := by
  apply sweepBad_keeps <;> first | rfl | exact Keeps.refl _ _

@[simp] theorem sweepBad_pending (n : Nat) (s : State) : (sweepBad n s).pending = s.pending :=
  (sweepBad_only _ _).pending
@[simp] theorem sweepBad_fuse (n : Nat) (s : State) : (sweepBad n s).fuse = s.fuse :=
  (sweepBad_only _ _).fuse
@[simp] theorem sweepBad_wall (n : Nat) (s : State) : (sweepBad n s).wall = s.wall :=
  (sweepBad_only _ _).wall
@[simp] theorem sweepBad_uptime (n : Nat) (s : State) : (sweepBad n s).uptime = s.uptime :=
  (sweepBad_only _ _).uptime rfl
@[simp] theorem sweepBad_free (n : Nat) (s : State) : (sweepBad n s).free = s.free :=
  (sweepBad_only _ _).free rfl
@[simp] theorem sweepBad_out (n : Nat) (s : State) : (sweepBad n s).out = s.out :=
  (sweepBad_only _ _).out rfl
@[simp] theorem sweepBad_top (n : Nat) (s : State) : (sweepBad n s).top = s.top :=
  (sweepBad_only _ _).top_eq rfl rfl rfl rfl
@[simp] theorem sweepBad_cmd_rings (n : Nat) (s : State) : (sweepBad n s).cmd.rings = s.cmd.rings :=
  ((sweepBad_only _ _).rings rfl).1
@[simp] theorem sweepBad_cmd_rrNext (n : Nat) (s : State) : (sweepBad n s).cmd.rrNext = s.cmd.rrNext :=
  ((sweepBad_only _ _).rings rfl).2.1
@[simp] theorem sweepBad_cmd_nextId (n : Nat) (s : State) : (sweepBad n s).cmd.nextId = s.cmd.nextId :=
  ((sweepBad_only _ _).rings rfl).2.2
@[simp] theorem sweepBad_cmd_evt (n : Nat) (s : State) : (sweepBad n s).cmd.evt = s.cmd.evt :=
  ((sweepBad_only _ _).events rfl).1
@[simp] theorem sweepBad_cmd_backlog (n : Nat) (s : State) : (sweepBad n s).cmd.backlog = s.cmd.backlog :=
  ((sweepBad_only _ _).events rfl).2.1
@[simp] theorem sweepBad_cmd_evtSeq (n : Nat) (s : State) : (sweepBad n s).cmd.evtSeq = s.cmd.evtSeq :=
  ((sweepBad_only _ _).events rfl).2.2.1
@[simp] theorem sweepBad_cmd_lostAll (n : Nat) (s : State) : (sweepBad n s).cmd.lostAll = s.cmd.lostAll :=
  ((sweepBad_only _ _).events rfl).2.2.2.1
@[simp] theorem sweepBad_cmd_lostFrame (n : Nat) (s : State) : (sweepBad n s).cmd.lostFrame = s.cmd.lostFrame :=
  ((sweepBad_only _ _).events rfl).2.2.2.2
@[simp] theorem sweepBad_cmd_masked (n : Nat) (s : State) : (sweepBad n s).cmd.masked = s.cmd.masked :=
  (sweepBad_only _ _).masked rfl
@[simp] theorem sweepBad_cmd_bufs (n : Nat) (s : State) : (sweepBad n s).cmd.bufs = s.cmd.bufs :=
  (sweepBad_only _ _).bufs rfl
@[simp] theorem sweepBad_cmd_pulls (n : Nat) (s : State) : (sweepBad n s).cmd.pulls = s.cmd.pulls :=
  (sweepBad_only _ _).pulls rfl
@[simp] theorem sweepBad_cmd_hostBase (n : Nat) (s : State) : (sweepBad n s).cmd.hostBase = s.cmd.hostBase :=
  ((sweepBad_only _ _).area rfl).1
@[simp] theorem sweepBad_cmd_hostSize (n : Nat) (s : State) : (sweepBad n s).cmd.hostSize = s.cmd.hostSize :=
  ((sweepBad_only _ _).area rfl).2
@[simp] theorem sweepBad_cmd_winDrop (n : Nat) (s : State) : (sweepBad n s).cmd.winDrop = s.cmd.winDrop :=
  (sweepBad_only _ _).winDrop rfl
@[simp] theorem sweepBad_pcie (n : Nat) (s : State) : (sweepBad n s).pcie = s.pcie :=
  (sweepBad_only _ _).pcie_eq rfl rfl rfl rfl rfl rfl
@[simp] theorem sweepBad_lcs (n : Nat) (s : State) : (sweepBad n s).lcs = s.lcs :=
  (sweepBad_only _ _).lcs rfl
@[simp] theorem sweepBad_dram (n : Nat) (s : State) : (sweepBad n s).dram = s.dram :=
  (sweepBad_only _ _).dram rfl
@[simp] theorem sweepBad_poison (n : Nat) (s : State) : (sweepBad n s).poison = s.poison :=
  (sweepBad_only _ _).poison rfl
@[simp] theorem sweepBad_hostMem (n : Nat) (s : State) : (sweepBad n s).hostMem = s.hostMem :=
  (sweepBad_only _ _).hostMem rfl
@[simp] theorem sweepBad_time (n : Nat) (s : State) : (sweepBad n s).time = s.time :=
  (sweepBad_only _ _).time rfl
@[simp] theorem sweepBad_web (n : Nat) (s : State) : (sweepBad n s).web = s.web :=
  (sweepBad_only _ _).web rfl
@[simp] theorem sweepBad_axis (n : Nat) (s : State) : (sweepBad n s).axis = s.axis :=
  (sweepBad_only _ _).axis rfl
@[simp] theorem sweepBad_frames (n : Nat) (s : State) : (sweepBad n s).frames = s.frames :=
  (sweepBad_only _ _).frames rfl
@[simp] theorem sweepBad_prn (n : Nat) (s : State) : (sweepBad n s).prn = s.prn :=
  (sweepBad_only _ _).prn rfl
@[simp] theorem sweepBad_fire (n : Nat) (s : State) : (sweepBad n s).fire = s.fire :=
  (sweepBad_only _ _).fire rfl
@[simp] theorem sweepBad_rein (n : Nat) (s : State) : (sweepBad n s).rein = s.rein :=
  (sweepBad_only _ _).rein rfl
@[simp] theorem sweepBad_chain (n : Nat) (s : State) : (sweepBad n s).chain = s.chain :=
  (sweepBad_only _ _).chain rfl
@[simp] theorem sweepBad_tan (n : Nat) (s : State) : (sweepBad n s).tan = s.tan :=
  (sweepBad_only _ _).tan rfl
@[simp] theorem sweepBad_thm (n : Nat) (s : State) : (sweepBad n s).thm = s.thm :=
  (sweepBad_only _ _).thm rfl
@[simp] theorem sweepBad_cal (n : Nat) (s : State) : (sweepBad n s).cal = s.cal :=
  (sweepBad_only _ _).cal rfl
@[simp] theorem sweepBad_scan (n : Nat) (s : State) : (sweepBad n s).scan = s.scan :=
  (sweepBad_only _ _).scan rfl
@[simp] theorem sweepBad_cam (n : Nat) (s : State) : (sweepBad n s).cam = s.cam :=
  (sweepBad_only _ _).cam rfl
@[simp] theorem sweepBad_mem (n : Nat) (s : State) : (sweepBad n s).mem = s.mem :=
  (sweepBad_only _ _).mem rfl

/-! ### `complete` changes slots, records only -/

theorem complete_only (k st det res : Nat) (f : Option FrameNo) (s : State) :
    Keeps (fun p => p == .slots || p == .records) s (complete k st det res f s) := by
  apply complete_keeps <;> first | rfl | exact Keeps.refl _ _

@[simp] theorem complete_pending (k st det res : Nat) (f : Option FrameNo) (s : State) :
    (complete k st det res f s).pending = s.pending := (complete_only _ _ _ _ _ _).pending
@[simp] theorem complete_fuse (k st det res : Nat) (f : Option FrameNo) (s : State) :
    (complete k st det res f s).fuse = s.fuse := (complete_only _ _ _ _ _ _).fuse
@[simp] theorem complete_wall (k st det res : Nat) (f : Option FrameNo) (s : State) :
    (complete k st det res f s).wall = s.wall := (complete_only _ _ _ _ _ _).wall
@[simp] theorem complete_uptime (k st det res : Nat) (f : Option FrameNo) (s : State) :
    (complete k st det res f s).uptime = s.uptime := (complete_only _ _ _ _ _ _).uptime rfl
@[simp] theorem complete_free (k st det res : Nat) (f : Option FrameNo) (s : State) :
    (complete k st det res f s).free = s.free := (complete_only _ _ _ _ _ _).free rfl
@[simp] theorem complete_out (k st det res : Nat) (f : Option FrameNo) (s : State) :
    (complete k st det res f s).out = s.out := (complete_only _ _ _ _ _ _).out rfl
@[simp] theorem complete_top (k st det res : Nat) (f : Option FrameNo) (s : State) :
    (complete k st det res f s).top = s.top := (complete_only _ _ _ _ _ _).top_eq rfl rfl rfl rfl
@[simp] theorem complete_cmd_rings (k st det res : Nat) (f : Option FrameNo) (s : State) :
    (complete k st det res f s).cmd.rings = s.cmd.rings := ((complete_only _ _ _ _ _ _).rings rfl).1
@[simp] theorem complete_cmd_rrNext (k st det res : Nat) (f : Option FrameNo) (s : State) :
    (complete k st det res f s).cmd.rrNext = s.cmd.rrNext := ((complete_only _ _ _ _ _ _).rings rfl).2.1
@[simp] theorem complete_cmd_nextId (k st det res : Nat) (f : Option FrameNo) (s : State) :
    (complete k st det res f s).cmd.nextId = s.cmd.nextId := ((complete_only _ _ _ _ _ _).rings rfl).2.2
@[simp] theorem complete_cmd_evt (k st det res : Nat) (f : Option FrameNo) (s : State) :
    (complete k st det res f s).cmd.evt = s.cmd.evt := ((complete_only _ _ _ _ _ _).events rfl).1
@[simp] theorem complete_cmd_backlog (k st det res : Nat) (f : Option FrameNo) (s : State) :
    (complete k st det res f s).cmd.backlog = s.cmd.backlog := ((complete_only _ _ _ _ _ _).events rfl).2.1
@[simp] theorem complete_cmd_evtSeq (k st det res : Nat) (f : Option FrameNo) (s : State) :
    (complete k st det res f s).cmd.evtSeq = s.cmd.evtSeq := ((complete_only _ _ _ _ _ _).events rfl).2.2.1
@[simp] theorem complete_cmd_lostAll (k st det res : Nat) (f : Option FrameNo) (s : State) :
    (complete k st det res f s).cmd.lostAll = s.cmd.lostAll := ((complete_only _ _ _ _ _ _).events rfl).2.2.2.1
@[simp] theorem complete_cmd_lostFrame (k st det res : Nat) (f : Option FrameNo) (s : State) :
    (complete k st det res f s).cmd.lostFrame = s.cmd.lostFrame := ((complete_only _ _ _ _ _ _).events rfl).2.2.2.2
@[simp] theorem complete_cmd_masked (k st det res : Nat) (f : Option FrameNo) (s : State) :
    (complete k st det res f s).cmd.masked = s.cmd.masked := (complete_only _ _ _ _ _ _).masked rfl
@[simp] theorem complete_cmd_bufs (k st det res : Nat) (f : Option FrameNo) (s : State) :
    (complete k st det res f s).cmd.bufs = s.cmd.bufs := (complete_only _ _ _ _ _ _).bufs rfl
@[simp] theorem complete_cmd_pulls (k st det res : Nat) (f : Option FrameNo) (s : State) :
    (complete k st det res f s).cmd.pulls = s.cmd.pulls := (complete_only _ _ _ _ _ _).pulls rfl
@[simp] theorem complete_cmd_hostBase (k st det res : Nat) (f : Option FrameNo) (s : State) :
    (complete k st det res f s).cmd.hostBase = s.cmd.hostBase := ((complete_only _ _ _ _ _ _).area rfl).1
@[simp] theorem complete_cmd_hostSize (k st det res : Nat) (f : Option FrameNo) (s : State) :
    (complete k st det res f s).cmd.hostSize = s.cmd.hostSize := ((complete_only _ _ _ _ _ _).area rfl).2
@[simp] theorem complete_cmd_winDrop (k st det res : Nat) (f : Option FrameNo) (s : State) :
    (complete k st det res f s).cmd.winDrop = s.cmd.winDrop := (complete_only _ _ _ _ _ _).winDrop rfl
@[simp] theorem complete_pcie (k st det res : Nat) (f : Option FrameNo) (s : State) :
    (complete k st det res f s).pcie = s.pcie := (complete_only _ _ _ _ _ _).pcie_eq rfl rfl rfl rfl rfl rfl
@[simp] theorem complete_lcs (k st det res : Nat) (f : Option FrameNo) (s : State) :
    (complete k st det res f s).lcs = s.lcs := (complete_only _ _ _ _ _ _).lcs rfl
@[simp] theorem complete_dram (k st det res : Nat) (f : Option FrameNo) (s : State) :
    (complete k st det res f s).dram = s.dram := (complete_only _ _ _ _ _ _).dram rfl
@[simp] theorem complete_poison (k st det res : Nat) (f : Option FrameNo) (s : State) :
    (complete k st det res f s).poison = s.poison := (complete_only _ _ _ _ _ _).poison rfl
@[simp] theorem complete_hostMem (k st det res : Nat) (f : Option FrameNo) (s : State) :
    (complete k st det res f s).hostMem = s.hostMem := (complete_only _ _ _ _ _ _).hostMem rfl
@[simp] theorem complete_time (k st det res : Nat) (f : Option FrameNo) (s : State) :
    (complete k st det res f s).time = s.time := (complete_only _ _ _ _ _ _).time rfl
@[simp] theorem complete_web (k st det res : Nat) (f : Option FrameNo) (s : State) :
    (complete k st det res f s).web = s.web := (complete_only _ _ _ _ _ _).web rfl
@[simp] theorem complete_axis (k st det res : Nat) (f : Option FrameNo) (s : State) :
    (complete k st det res f s).axis = s.axis := (complete_only _ _ _ _ _ _).axis rfl
@[simp] theorem complete_frames (k st det res : Nat) (f : Option FrameNo) (s : State) :
    (complete k st det res f s).frames = s.frames := (complete_only _ _ _ _ _ _).frames rfl
@[simp] theorem complete_prn (k st det res : Nat) (f : Option FrameNo) (s : State) :
    (complete k st det res f s).prn = s.prn := (complete_only _ _ _ _ _ _).prn rfl
@[simp] theorem complete_fire (k st det res : Nat) (f : Option FrameNo) (s : State) :
    (complete k st det res f s).fire = s.fire := (complete_only _ _ _ _ _ _).fire rfl
@[simp] theorem complete_rein (k st det res : Nat) (f : Option FrameNo) (s : State) :
    (complete k st det res f s).rein = s.rein := (complete_only _ _ _ _ _ _).rein rfl
@[simp] theorem complete_chain (k st det res : Nat) (f : Option FrameNo) (s : State) :
    (complete k st det res f s).chain = s.chain := (complete_only _ _ _ _ _ _).chain rfl
@[simp] theorem complete_tan (k st det res : Nat) (f : Option FrameNo) (s : State) :
    (complete k st det res f s).tan = s.tan := (complete_only _ _ _ _ _ _).tan rfl
@[simp] theorem complete_thm (k st det res : Nat) (f : Option FrameNo) (s : State) :
    (complete k st det res f s).thm = s.thm := (complete_only _ _ _ _ _ _).thm rfl
@[simp] theorem complete_cal (k st det res : Nat) (f : Option FrameNo) (s : State) :
    (complete k st det res f s).cal = s.cal := (complete_only _ _ _ _ _ _).cal rfl
@[simp] theorem complete_scan (k st det res : Nat) (f : Option FrameNo) (s : State) :
    (complete k st det res f s).scan = s.scan := (complete_only _ _ _ _ _ _).scan rfl
@[simp] theorem complete_cam (k st det res : Nat) (f : Option FrameNo) (s : State) :
    (complete k st det res f s).cam = s.cam := (complete_only _ _ _ _ _ _).cam rfl
@[simp] theorem complete_mem (k st det res : Nat) (f : Option FrameNo) (s : State) :
    (complete k st det res f s).mem = s.mem := (complete_only _ _ _ _ _ _).mem rfl

/-! ### `done` changes slots, records only -/

theorem done_only (k : Nat) (s : State) :
    Keeps (fun p => p == .slots || p == .records) s (done k s) := by
  apply done_keeps <;> first | rfl | exact Keeps.refl _ _

@[simp] theorem done_pending (k : Nat) (s : State) : (done k s).pending = s.pending :=
  (done_only _ _).pending
@[simp] theorem done_fuse (k : Nat) (s : State) : (done k s).fuse = s.fuse :=
  (done_only _ _).fuse
@[simp] theorem done_wall (k : Nat) (s : State) : (done k s).wall = s.wall :=
  (done_only _ _).wall
@[simp] theorem done_uptime (k : Nat) (s : State) : (done k s).uptime = s.uptime :=
  (done_only _ _).uptime rfl
@[simp] theorem done_free (k : Nat) (s : State) : (done k s).free = s.free :=
  (done_only _ _).free rfl
@[simp] theorem done_out (k : Nat) (s : State) : (done k s).out = s.out :=
  (done_only _ _).out rfl
@[simp] theorem done_top (k : Nat) (s : State) : (done k s).top = s.top :=
  (done_only _ _).top_eq rfl rfl rfl rfl
@[simp] theorem done_cmd_rings (k : Nat) (s : State) : (done k s).cmd.rings = s.cmd.rings :=
  ((done_only _ _).rings rfl).1
@[simp] theorem done_cmd_rrNext (k : Nat) (s : State) : (done k s).cmd.rrNext = s.cmd.rrNext :=
  ((done_only _ _).rings rfl).2.1
@[simp] theorem done_cmd_nextId (k : Nat) (s : State) : (done k s).cmd.nextId = s.cmd.nextId :=
  ((done_only _ _).rings rfl).2.2
@[simp] theorem done_cmd_evt (k : Nat) (s : State) : (done k s).cmd.evt = s.cmd.evt :=
  ((done_only _ _).events rfl).1
@[simp] theorem done_cmd_backlog (k : Nat) (s : State) : (done k s).cmd.backlog = s.cmd.backlog :=
  ((done_only _ _).events rfl).2.1
@[simp] theorem done_cmd_evtSeq (k : Nat) (s : State) : (done k s).cmd.evtSeq = s.cmd.evtSeq :=
  ((done_only _ _).events rfl).2.2.1
@[simp] theorem done_cmd_lostAll (k : Nat) (s : State) : (done k s).cmd.lostAll = s.cmd.lostAll :=
  ((done_only _ _).events rfl).2.2.2.1
@[simp] theorem done_cmd_lostFrame (k : Nat) (s : State) : (done k s).cmd.lostFrame = s.cmd.lostFrame :=
  ((done_only _ _).events rfl).2.2.2.2
@[simp] theorem done_cmd_masked (k : Nat) (s : State) : (done k s).cmd.masked = s.cmd.masked :=
  (done_only _ _).masked rfl
@[simp] theorem done_cmd_bufs (k : Nat) (s : State) : (done k s).cmd.bufs = s.cmd.bufs :=
  (done_only _ _).bufs rfl
@[simp] theorem done_cmd_pulls (k : Nat) (s : State) : (done k s).cmd.pulls = s.cmd.pulls :=
  (done_only _ _).pulls rfl
@[simp] theorem done_cmd_hostBase (k : Nat) (s : State) : (done k s).cmd.hostBase = s.cmd.hostBase :=
  ((done_only _ _).area rfl).1
@[simp] theorem done_cmd_hostSize (k : Nat) (s : State) : (done k s).cmd.hostSize = s.cmd.hostSize :=
  ((done_only _ _).area rfl).2
@[simp] theorem done_cmd_winDrop (k : Nat) (s : State) : (done k s).cmd.winDrop = s.cmd.winDrop :=
  (done_only _ _).winDrop rfl
@[simp] theorem done_pcie (k : Nat) (s : State) : (done k s).pcie = s.pcie :=
  (done_only _ _).pcie_eq rfl rfl rfl rfl rfl rfl
@[simp] theorem done_lcs (k : Nat) (s : State) : (done k s).lcs = s.lcs :=
  (done_only _ _).lcs rfl
@[simp] theorem done_dram (k : Nat) (s : State) : (done k s).dram = s.dram :=
  (done_only _ _).dram rfl
@[simp] theorem done_poison (k : Nat) (s : State) : (done k s).poison = s.poison :=
  (done_only _ _).poison rfl
@[simp] theorem done_hostMem (k : Nat) (s : State) : (done k s).hostMem = s.hostMem :=
  (done_only _ _).hostMem rfl
@[simp] theorem done_time (k : Nat) (s : State) : (done k s).time = s.time :=
  (done_only _ _).time rfl
@[simp] theorem done_web (k : Nat) (s : State) : (done k s).web = s.web :=
  (done_only _ _).web rfl
@[simp] theorem done_axis (k : Nat) (s : State) : (done k s).axis = s.axis :=
  (done_only _ _).axis rfl
@[simp] theorem done_frames (k : Nat) (s : State) : (done k s).frames = s.frames :=
  (done_only _ _).frames rfl
@[simp] theorem done_prn (k : Nat) (s : State) : (done k s).prn = s.prn :=
  (done_only _ _).prn rfl
@[simp] theorem done_fire (k : Nat) (s : State) : (done k s).fire = s.fire :=
  (done_only _ _).fire rfl
@[simp] theorem done_rein (k : Nat) (s : State) : (done k s).rein = s.rein :=
  (done_only _ _).rein rfl
@[simp] theorem done_chain (k : Nat) (s : State) : (done k s).chain = s.chain :=
  (done_only _ _).chain rfl
@[simp] theorem done_tan (k : Nat) (s : State) : (done k s).tan = s.tan :=
  (done_only _ _).tan rfl
@[simp] theorem done_thm (k : Nat) (s : State) : (done k s).thm = s.thm :=
  (done_only _ _).thm rfl
@[simp] theorem done_cal (k : Nat) (s : State) : (done k s).cal = s.cal :=
  (done_only _ _).cal rfl
@[simp] theorem done_scan (k : Nat) (s : State) : (done k s).scan = s.scan :=
  (done_only _ _).scan rfl
@[simp] theorem done_cam (k : Nat) (s : State) : (done k s).cam = s.cam :=
  (done_only _ _).cam rfl
@[simp] theorem done_mem (k : Nat) (s : State) : (done k s).mem = s.mem :=
  (done_only _ _).mem rfl

/-! ### `doneWith` changes slots, records only -/

theorem doneWith_only (k res : Nat) (s : State) :
    Keeps (fun p => p == .slots || p == .records) s (doneWith k res s) := by
  apply doneWith_keeps <;> first | rfl | exact Keeps.refl _ _

@[simp] theorem doneWith_pending (k res : Nat) (s : State) : (doneWith k res s).pending = s.pending :=
  (doneWith_only _ _ _).pending
@[simp] theorem doneWith_fuse (k res : Nat) (s : State) : (doneWith k res s).fuse = s.fuse :=
  (doneWith_only _ _ _).fuse
@[simp] theorem doneWith_wall (k res : Nat) (s : State) : (doneWith k res s).wall = s.wall :=
  (doneWith_only _ _ _).wall
@[simp] theorem doneWith_uptime (k res : Nat) (s : State) : (doneWith k res s).uptime = s.uptime :=
  (doneWith_only _ _ _).uptime rfl
@[simp] theorem doneWith_free (k res : Nat) (s : State) : (doneWith k res s).free = s.free :=
  (doneWith_only _ _ _).free rfl
@[simp] theorem doneWith_out (k res : Nat) (s : State) : (doneWith k res s).out = s.out :=
  (doneWith_only _ _ _).out rfl
@[simp] theorem doneWith_top (k res : Nat) (s : State) : (doneWith k res s).top = s.top :=
  (doneWith_only _ _ _).top_eq rfl rfl rfl rfl
@[simp] theorem doneWith_cmd_rings (k res : Nat) (s : State) : (doneWith k res s).cmd.rings = s.cmd.rings :=
  ((doneWith_only _ _ _).rings rfl).1
@[simp] theorem doneWith_cmd_rrNext (k res : Nat) (s : State) : (doneWith k res s).cmd.rrNext = s.cmd.rrNext :=
  ((doneWith_only _ _ _).rings rfl).2.1
@[simp] theorem doneWith_cmd_nextId (k res : Nat) (s : State) : (doneWith k res s).cmd.nextId = s.cmd.nextId :=
  ((doneWith_only _ _ _).rings rfl).2.2
@[simp] theorem doneWith_cmd_evt (k res : Nat) (s : State) : (doneWith k res s).cmd.evt = s.cmd.evt :=
  ((doneWith_only _ _ _).events rfl).1
@[simp] theorem doneWith_cmd_backlog (k res : Nat) (s : State) : (doneWith k res s).cmd.backlog = s.cmd.backlog :=
  ((doneWith_only _ _ _).events rfl).2.1
@[simp] theorem doneWith_cmd_evtSeq (k res : Nat) (s : State) : (doneWith k res s).cmd.evtSeq = s.cmd.evtSeq :=
  ((doneWith_only _ _ _).events rfl).2.2.1
@[simp] theorem doneWith_cmd_lostAll (k res : Nat) (s : State) : (doneWith k res s).cmd.lostAll = s.cmd.lostAll :=
  ((doneWith_only _ _ _).events rfl).2.2.2.1
@[simp] theorem doneWith_cmd_lostFrame (k res : Nat) (s : State) :
    (doneWith k res s).cmd.lostFrame = s.cmd.lostFrame := ((doneWith_only _ _ _).events rfl).2.2.2.2
@[simp] theorem doneWith_cmd_masked (k res : Nat) (s : State) : (doneWith k res s).cmd.masked = s.cmd.masked :=
  (doneWith_only _ _ _).masked rfl
@[simp] theorem doneWith_cmd_bufs (k res : Nat) (s : State) : (doneWith k res s).cmd.bufs = s.cmd.bufs :=
  (doneWith_only _ _ _).bufs rfl
@[simp] theorem doneWith_cmd_pulls (k res : Nat) (s : State) : (doneWith k res s).cmd.pulls = s.cmd.pulls :=
  (doneWith_only _ _ _).pulls rfl
@[simp] theorem doneWith_cmd_hostBase (k res : Nat) (s : State) :
    (doneWith k res s).cmd.hostBase = s.cmd.hostBase := ((doneWith_only _ _ _).area rfl).1
@[simp] theorem doneWith_cmd_hostSize (k res : Nat) (s : State) :
    (doneWith k res s).cmd.hostSize = s.cmd.hostSize := ((doneWith_only _ _ _).area rfl).2
@[simp] theorem doneWith_cmd_winDrop (k res : Nat) (s : State) : (doneWith k res s).cmd.winDrop = s.cmd.winDrop :=
  (doneWith_only _ _ _).winDrop rfl
@[simp] theorem doneWith_pcie (k res : Nat) (s : State) : (doneWith k res s).pcie = s.pcie :=
  (doneWith_only _ _ _).pcie_eq rfl rfl rfl rfl rfl rfl
@[simp] theorem doneWith_lcs (k res : Nat) (s : State) : (doneWith k res s).lcs = s.lcs :=
  (doneWith_only _ _ _).lcs rfl
@[simp] theorem doneWith_dram (k res : Nat) (s : State) : (doneWith k res s).dram = s.dram :=
  (doneWith_only _ _ _).dram rfl
@[simp] theorem doneWith_poison (k res : Nat) (s : State) : (doneWith k res s).poison = s.poison :=
  (doneWith_only _ _ _).poison rfl
@[simp] theorem doneWith_hostMem (k res : Nat) (s : State) : (doneWith k res s).hostMem = s.hostMem :=
  (doneWith_only _ _ _).hostMem rfl
@[simp] theorem doneWith_time (k res : Nat) (s : State) : (doneWith k res s).time = s.time :=
  (doneWith_only _ _ _).time rfl
@[simp] theorem doneWith_web (k res : Nat) (s : State) : (doneWith k res s).web = s.web :=
  (doneWith_only _ _ _).web rfl
@[simp] theorem doneWith_axis (k res : Nat) (s : State) : (doneWith k res s).axis = s.axis :=
  (doneWith_only _ _ _).axis rfl
@[simp] theorem doneWith_frames (k res : Nat) (s : State) : (doneWith k res s).frames = s.frames :=
  (doneWith_only _ _ _).frames rfl
@[simp] theorem doneWith_prn (k res : Nat) (s : State) : (doneWith k res s).prn = s.prn :=
  (doneWith_only _ _ _).prn rfl
@[simp] theorem doneWith_fire (k res : Nat) (s : State) : (doneWith k res s).fire = s.fire :=
  (doneWith_only _ _ _).fire rfl
@[simp] theorem doneWith_rein (k res : Nat) (s : State) : (doneWith k res s).rein = s.rein :=
  (doneWith_only _ _ _).rein rfl
@[simp] theorem doneWith_chain (k res : Nat) (s : State) : (doneWith k res s).chain = s.chain :=
  (doneWith_only _ _ _).chain rfl
@[simp] theorem doneWith_tan (k res : Nat) (s : State) : (doneWith k res s).tan = s.tan :=
  (doneWith_only _ _ _).tan rfl
@[simp] theorem doneWith_thm (k res : Nat) (s : State) : (doneWith k res s).thm = s.thm :=
  (doneWith_only _ _ _).thm rfl
@[simp] theorem doneWith_cal (k res : Nat) (s : State) : (doneWith k res s).cal = s.cal :=
  (doneWith_only _ _ _).cal rfl
@[simp] theorem doneWith_scan (k res : Nat) (s : State) : (doneWith k res s).scan = s.scan :=
  (doneWith_only _ _ _).scan rfl
@[simp] theorem doneWith_cam (k res : Nat) (s : State) : (doneWith k res s).cam = s.cam :=
  (doneWith_only _ _ _).cam rfl
@[simp] theorem doneWith_mem (k res : Nat) (s : State) : (doneWith k res s).mem = s.mem :=
  (doneWith_only _ _ _).mem rfl

/-! ### `raiseMsix` changes out, pba only -/

theorem raiseMsix_only (v : Nat) (s : State) :
    Keeps (fun p => p == .out || p == .pba) s (raiseMsix v s) := by
  apply raiseMsix_keeps <;> first | rfl | exact Keeps.refl _ _

@[simp] theorem raiseMsix_pending (v : Nat) (s : State) : (raiseMsix v s).pending = s.pending :=
  (raiseMsix_only _ _).pending
@[simp] theorem raiseMsix_fuse (v : Nat) (s : State) : (raiseMsix v s).fuse = s.fuse :=
  (raiseMsix_only _ _).fuse
@[simp] theorem raiseMsix_wall (v : Nat) (s : State) : (raiseMsix v s).wall = s.wall :=
  (raiseMsix_only _ _).wall
@[simp] theorem raiseMsix_uptime (v : Nat) (s : State) : (raiseMsix v s).uptime = s.uptime :=
  (raiseMsix_only _ _).uptime rfl
@[simp] theorem raiseMsix_free (v : Nat) (s : State) : (raiseMsix v s).free = s.free :=
  (raiseMsix_only _ _).free rfl
@[simp] theorem raiseMsix_top (v : Nat) (s : State) : (raiseMsix v s).top = s.top :=
  (raiseMsix_only _ _).top_eq rfl rfl rfl rfl
@[simp] theorem raiseMsix_cmd_rings (v : Nat) (s : State) : (raiseMsix v s).cmd.rings = s.cmd.rings :=
  ((raiseMsix_only _ _).rings rfl).1
@[simp] theorem raiseMsix_cmd_rrNext (v : Nat) (s : State) : (raiseMsix v s).cmd.rrNext = s.cmd.rrNext :=
  ((raiseMsix_only _ _).rings rfl).2.1
@[simp] theorem raiseMsix_cmd_nextId (v : Nat) (s : State) : (raiseMsix v s).cmd.nextId = s.cmd.nextId :=
  ((raiseMsix_only _ _).rings rfl).2.2
@[simp] theorem raiseMsix_cmd_slots (v : Nat) (s : State) : (raiseMsix v s).cmd.slots = s.cmd.slots :=
  (raiseMsix_only _ _).slots rfl
@[simp] theorem raiseMsix_cmd_cpl (v : Nat) (s : State) : (raiseMsix v s).cmd.cpl = s.cmd.cpl :=
  (raiseMsix_only _ _).records rfl
@[simp] theorem raiseMsix_cmd_evt (v : Nat) (s : State) : (raiseMsix v s).cmd.evt = s.cmd.evt :=
  ((raiseMsix_only _ _).events rfl).1
@[simp] theorem raiseMsix_cmd_backlog (v : Nat) (s : State) : (raiseMsix v s).cmd.backlog = s.cmd.backlog :=
  ((raiseMsix_only _ _).events rfl).2.1
@[simp] theorem raiseMsix_cmd_evtSeq (v : Nat) (s : State) : (raiseMsix v s).cmd.evtSeq = s.cmd.evtSeq :=
  ((raiseMsix_only _ _).events rfl).2.2.1
@[simp] theorem raiseMsix_cmd_lostAll (v : Nat) (s : State) : (raiseMsix v s).cmd.lostAll = s.cmd.lostAll :=
  ((raiseMsix_only _ _).events rfl).2.2.2.1
@[simp] theorem raiseMsix_cmd_lostFrame (v : Nat) (s : State) : (raiseMsix v s).cmd.lostFrame = s.cmd.lostFrame :=
  ((raiseMsix_only _ _).events rfl).2.2.2.2
@[simp] theorem raiseMsix_cmd_masked (v : Nat) (s : State) : (raiseMsix v s).cmd.masked = s.cmd.masked :=
  (raiseMsix_only _ _).masked rfl
@[simp] theorem raiseMsix_cmd_bufs (v : Nat) (s : State) : (raiseMsix v s).cmd.bufs = s.cmd.bufs :=
  (raiseMsix_only _ _).bufs rfl
@[simp] theorem raiseMsix_cmd_pulls (v : Nat) (s : State) : (raiseMsix v s).cmd.pulls = s.cmd.pulls :=
  (raiseMsix_only _ _).pulls rfl
@[simp] theorem raiseMsix_cmd_hostBase (v : Nat) (s : State) : (raiseMsix v s).cmd.hostBase = s.cmd.hostBase :=
  ((raiseMsix_only _ _).area rfl).1
@[simp] theorem raiseMsix_cmd_hostSize (v : Nat) (s : State) : (raiseMsix v s).cmd.hostSize = s.cmd.hostSize :=
  ((raiseMsix_only _ _).area rfl).2
@[simp] theorem raiseMsix_cmd_winDrop (v : Nat) (s : State) : (raiseMsix v s).cmd.winDrop = s.cmd.winDrop :=
  (raiseMsix_only _ _).winDrop rfl
@[simp] theorem raiseMsix_pcie_linkUp (v : Nat) (s : State) : (raiseMsix v s).pcie.linkUp = s.pcie.linkUp :=
  ((raiseMsix_only _ _).link rfl).1
@[simp] theorem raiseMsix_pcie_d3hot (v : Nat) (s : State) : (raiseMsix v s).pcie.d3hot = s.pcie.d3hot :=
  ((raiseMsix_only _ _).link rfl).2.1
@[simp] theorem raiseMsix_pcie_bme (v : Nat) (s : State) : (raiseMsix v s).pcie.bme = s.pcie.bme :=
  ((raiseMsix_only _ _).link rfl).2.2.1
@[simp] theorem raiseMsix_pcie_wiping (v : Nat) (s : State) : (raiseMsix v s).pcie.wiping = s.pcie.wiping :=
  ((raiseMsix_only _ _).link rfl).2.2.2
@[simp] theorem raiseMsix_pcie_maxPayload (v : Nat) (s : State) :
    (raiseMsix v s).pcie.maxPayload = s.pcie.maxPayload := ((raiseMsix_only _ _).limits rfl).1
@[simp] theorem raiseMsix_pcie_maxReadRequest (v : Nat) (s : State) :
    (raiseMsix v s).pcie.maxReadRequest = s.pcie.maxReadRequest := ((raiseMsix_only _ _).limits rfl).2
@[simp] theorem raiseMsix_pcie_reply (v : Nat) (s : State) : (raiseMsix v s).pcie.reply = s.pcie.reply :=
  ((raiseMsix_only _ _).reply rfl).1
@[simp] theorem raiseMsix_pcie_latches (v : Nat) (s : State) : (raiseMsix v s).pcie.latches = s.pcie.latches :=
  ((raiseMsix_only _ _).reply rfl).2
@[simp] theorem raiseMsix_pcie_aerUr (v : Nat) (s : State) : (raiseMsix v s).pcie.aerUr = s.pcie.aerUr :=
  ((raiseMsix_only _ _).aer rfl).1
@[simp] theorem raiseMsix_pcie_aerPoison (v : Nat) (s : State) :
    (raiseMsix v s).pcie.aerPoison = s.pcie.aerPoison := ((raiseMsix_only _ _).aer rfl).2.1
@[simp] theorem raiseMsix_pcie_aerEcrc (v : Nat) (s : State) : (raiseMsix v s).pcie.aerEcrc = s.pcie.aerEcrc :=
  ((raiseMsix_only _ _).aer rfl).2.2.1
@[simp] theorem raiseMsix_pcie_aerTimeout (v : Nat) (s : State) :
    (raiseMsix v s).pcie.aerTimeout = s.pcie.aerTimeout := ((raiseMsix_only _ _).aer rfl).2.2.2
@[simp] theorem raiseMsix_pcie_msix (v : Nat) (s : State) : (raiseMsix v s).pcie.msix = s.pcie.msix :=
  (raiseMsix_only _ _).msix rfl
@[simp] theorem raiseMsix_lcs (v : Nat) (s : State) : (raiseMsix v s).lcs = s.lcs :=
  (raiseMsix_only _ _).lcs rfl
@[simp] theorem raiseMsix_dram (v : Nat) (s : State) : (raiseMsix v s).dram = s.dram :=
  (raiseMsix_only _ _).dram rfl
@[simp] theorem raiseMsix_poison (v : Nat) (s : State) : (raiseMsix v s).poison = s.poison :=
  (raiseMsix_only _ _).poison rfl
@[simp] theorem raiseMsix_hostMem (v : Nat) (s : State) : (raiseMsix v s).hostMem = s.hostMem :=
  (raiseMsix_only _ _).hostMem rfl
@[simp] theorem raiseMsix_time (v : Nat) (s : State) : (raiseMsix v s).time = s.time :=
  (raiseMsix_only _ _).time rfl
@[simp] theorem raiseMsix_web (v : Nat) (s : State) : (raiseMsix v s).web = s.web :=
  (raiseMsix_only _ _).web rfl
@[simp] theorem raiseMsix_axis (v : Nat) (s : State) : (raiseMsix v s).axis = s.axis :=
  (raiseMsix_only _ _).axis rfl
@[simp] theorem raiseMsix_frames (v : Nat) (s : State) : (raiseMsix v s).frames = s.frames :=
  (raiseMsix_only _ _).frames rfl
@[simp] theorem raiseMsix_prn (v : Nat) (s : State) : (raiseMsix v s).prn = s.prn :=
  (raiseMsix_only _ _).prn rfl
@[simp] theorem raiseMsix_fire (v : Nat) (s : State) : (raiseMsix v s).fire = s.fire :=
  (raiseMsix_only _ _).fire rfl
@[simp] theorem raiseMsix_rein (v : Nat) (s : State) : (raiseMsix v s).rein = s.rein :=
  (raiseMsix_only _ _).rein rfl
@[simp] theorem raiseMsix_chain (v : Nat) (s : State) : (raiseMsix v s).chain = s.chain :=
  (raiseMsix_only _ _).chain rfl
@[simp] theorem raiseMsix_tan (v : Nat) (s : State) : (raiseMsix v s).tan = s.tan :=
  (raiseMsix_only _ _).tan rfl
@[simp] theorem raiseMsix_thm (v : Nat) (s : State) : (raiseMsix v s).thm = s.thm :=
  (raiseMsix_only _ _).thm rfl
@[simp] theorem raiseMsix_cal (v : Nat) (s : State) : (raiseMsix v s).cal = s.cal :=
  (raiseMsix_only _ _).cal rfl
@[simp] theorem raiseMsix_scan (v : Nat) (s : State) : (raiseMsix v s).scan = s.scan :=
  (raiseMsix_only _ _).scan rfl
@[simp] theorem raiseMsix_cam (v : Nat) (s : State) : (raiseMsix v s).cam = s.cam :=
  (raiseMsix_only _ _).cam rfl
@[simp] theorem raiseMsix_mem (v : Nat) (s : State) : (raiseMsix v s).mem = s.mem :=
  (raiseMsix_only _ _).mem rfl

/-! ### `writeEvent` changes out, pba, events, hostMem only -/

theorem writeEvent_only (e : EventRec) (s : State) :
    Keeps (fun p => p == .out || p == .pba || p == .events || p == .hostMem) s (writeEvent e s) := by
  apply writeEvent_keeps <;> first | rfl | exact Keeps.refl _ _

@[simp] theorem writeEvent_pending (e : EventRec) (s : State) : (writeEvent e s).pending = s.pending :=
  (writeEvent_only _ _).pending
@[simp] theorem writeEvent_fuse (e : EventRec) (s : State) : (writeEvent e s).fuse = s.fuse :=
  (writeEvent_only _ _).fuse
@[simp] theorem writeEvent_wall (e : EventRec) (s : State) : (writeEvent e s).wall = s.wall :=
  (writeEvent_only _ _).wall
@[simp] theorem writeEvent_uptime (e : EventRec) (s : State) : (writeEvent e s).uptime = s.uptime :=
  (writeEvent_only _ _).uptime rfl
@[simp] theorem writeEvent_free (e : EventRec) (s : State) : (writeEvent e s).free = s.free :=
  (writeEvent_only _ _).free rfl
@[simp] theorem writeEvent_top (e : EventRec) (s : State) : (writeEvent e s).top = s.top :=
  (writeEvent_only _ _).top_eq rfl rfl rfl rfl
@[simp] theorem writeEvent_cmd_rings (e : EventRec) (s : State) : (writeEvent e s).cmd.rings = s.cmd.rings :=
  ((writeEvent_only _ _).rings rfl).1
@[simp] theorem writeEvent_cmd_rrNext (e : EventRec) (s : State) : (writeEvent e s).cmd.rrNext = s.cmd.rrNext :=
  ((writeEvent_only _ _).rings rfl).2.1
@[simp] theorem writeEvent_cmd_nextId (e : EventRec) (s : State) : (writeEvent e s).cmd.nextId = s.cmd.nextId :=
  ((writeEvent_only _ _).rings rfl).2.2
@[simp] theorem writeEvent_cmd_slots (e : EventRec) (s : State) : (writeEvent e s).cmd.slots = s.cmd.slots :=
  (writeEvent_only _ _).slots rfl
@[simp] theorem writeEvent_cmd_cpl (e : EventRec) (s : State) : (writeEvent e s).cmd.cpl = s.cmd.cpl :=
  (writeEvent_only _ _).records rfl
@[simp] theorem writeEvent_cmd_masked (e : EventRec) (s : State) : (writeEvent e s).cmd.masked = s.cmd.masked :=
  (writeEvent_only _ _).masked rfl
@[simp] theorem writeEvent_cmd_bufs (e : EventRec) (s : State) : (writeEvent e s).cmd.bufs = s.cmd.bufs :=
  (writeEvent_only _ _).bufs rfl
@[simp] theorem writeEvent_cmd_pulls (e : EventRec) (s : State) : (writeEvent e s).cmd.pulls = s.cmd.pulls :=
  (writeEvent_only _ _).pulls rfl
@[simp] theorem writeEvent_cmd_hostBase (e : EventRec) (s : State) :
    (writeEvent e s).cmd.hostBase = s.cmd.hostBase := ((writeEvent_only _ _).area rfl).1
@[simp] theorem writeEvent_cmd_hostSize (e : EventRec) (s : State) :
    (writeEvent e s).cmd.hostSize = s.cmd.hostSize := ((writeEvent_only _ _).area rfl).2
@[simp] theorem writeEvent_cmd_winDrop (e : EventRec) (s : State) : (writeEvent e s).cmd.winDrop = s.cmd.winDrop :=
  (writeEvent_only _ _).winDrop rfl
@[simp] theorem writeEvent_pcie_linkUp (e : EventRec) (s : State) : (writeEvent e s).pcie.linkUp = s.pcie.linkUp :=
  ((writeEvent_only _ _).link rfl).1
@[simp] theorem writeEvent_pcie_d3hot (e : EventRec) (s : State) : (writeEvent e s).pcie.d3hot = s.pcie.d3hot :=
  ((writeEvent_only _ _).link rfl).2.1
@[simp] theorem writeEvent_pcie_bme (e : EventRec) (s : State) : (writeEvent e s).pcie.bme = s.pcie.bme :=
  ((writeEvent_only _ _).link rfl).2.2.1
@[simp] theorem writeEvent_pcie_wiping (e : EventRec) (s : State) : (writeEvent e s).pcie.wiping = s.pcie.wiping :=
  ((writeEvent_only _ _).link rfl).2.2.2
@[simp] theorem writeEvent_pcie_maxPayload (e : EventRec) (s : State) :
    (writeEvent e s).pcie.maxPayload = s.pcie.maxPayload := ((writeEvent_only _ _).limits rfl).1
@[simp] theorem writeEvent_pcie_maxReadRequest (e : EventRec) (s : State) :
    (writeEvent e s).pcie.maxReadRequest = s.pcie.maxReadRequest := ((writeEvent_only _ _).limits rfl).2
@[simp] theorem writeEvent_pcie_reply (e : EventRec) (s : State) : (writeEvent e s).pcie.reply = s.pcie.reply :=
  ((writeEvent_only _ _).reply rfl).1
@[simp] theorem writeEvent_pcie_latches (e : EventRec) (s : State) :
    (writeEvent e s).pcie.latches = s.pcie.latches := ((writeEvent_only _ _).reply rfl).2
@[simp] theorem writeEvent_pcie_aerUr (e : EventRec) (s : State) : (writeEvent e s).pcie.aerUr = s.pcie.aerUr :=
  ((writeEvent_only _ _).aer rfl).1
@[simp] theorem writeEvent_pcie_aerPoison (e : EventRec) (s : State) :
    (writeEvent e s).pcie.aerPoison = s.pcie.aerPoison := ((writeEvent_only _ _).aer rfl).2.1
@[simp] theorem writeEvent_pcie_aerEcrc (e : EventRec) (s : State) :
    (writeEvent e s).pcie.aerEcrc = s.pcie.aerEcrc := ((writeEvent_only _ _).aer rfl).2.2.1
@[simp] theorem writeEvent_pcie_aerTimeout (e : EventRec) (s : State) :
    (writeEvent e s).pcie.aerTimeout = s.pcie.aerTimeout := ((writeEvent_only _ _).aer rfl).2.2.2
@[simp] theorem writeEvent_pcie_msix (e : EventRec) (s : State) : (writeEvent e s).pcie.msix = s.pcie.msix :=
  (writeEvent_only _ _).msix rfl
@[simp] theorem writeEvent_lcs (e : EventRec) (s : State) : (writeEvent e s).lcs = s.lcs :=
  (writeEvent_only _ _).lcs rfl
@[simp] theorem writeEvent_dram (e : EventRec) (s : State) : (writeEvent e s).dram = s.dram :=
  (writeEvent_only _ _).dram rfl
@[simp] theorem writeEvent_poison (e : EventRec) (s : State) : (writeEvent e s).poison = s.poison :=
  (writeEvent_only _ _).poison rfl
@[simp] theorem writeEvent_time (e : EventRec) (s : State) : (writeEvent e s).time = s.time :=
  (writeEvent_only _ _).time rfl
@[simp] theorem writeEvent_web (e : EventRec) (s : State) : (writeEvent e s).web = s.web :=
  (writeEvent_only _ _).web rfl
@[simp] theorem writeEvent_axis (e : EventRec) (s : State) : (writeEvent e s).axis = s.axis :=
  (writeEvent_only _ _).axis rfl
@[simp] theorem writeEvent_frames (e : EventRec) (s : State) : (writeEvent e s).frames = s.frames :=
  (writeEvent_only _ _).frames rfl
@[simp] theorem writeEvent_prn (e : EventRec) (s : State) : (writeEvent e s).prn = s.prn :=
  (writeEvent_only _ _).prn rfl
@[simp] theorem writeEvent_fire (e : EventRec) (s : State) : (writeEvent e s).fire = s.fire :=
  (writeEvent_only _ _).fire rfl
@[simp] theorem writeEvent_rein (e : EventRec) (s : State) : (writeEvent e s).rein = s.rein :=
  (writeEvent_only _ _).rein rfl
@[simp] theorem writeEvent_chain (e : EventRec) (s : State) : (writeEvent e s).chain = s.chain :=
  (writeEvent_only _ _).chain rfl
@[simp] theorem writeEvent_tan (e : EventRec) (s : State) : (writeEvent e s).tan = s.tan :=
  (writeEvent_only _ _).tan rfl
@[simp] theorem writeEvent_thm (e : EventRec) (s : State) : (writeEvent e s).thm = s.thm :=
  (writeEvent_only _ _).thm rfl
@[simp] theorem writeEvent_cal (e : EventRec) (s : State) : (writeEvent e s).cal = s.cal :=
  (writeEvent_only _ _).cal rfl
@[simp] theorem writeEvent_scan (e : EventRec) (s : State) : (writeEvent e s).scan = s.scan :=
  (writeEvent_only _ _).scan rfl
@[simp] theorem writeEvent_cam (e : EventRec) (s : State) : (writeEvent e s).cam = s.cam :=
  (writeEvent_only _ _).cam rfl
@[simp] theorem writeEvent_mem (e : EventRec) (s : State) : (writeEvent e s).mem = s.mem :=
  (writeEvent_only _ _).mem rfl

/-! ### `placeEvent` changes out, pba, events, hostMem only -/

theorem placeEvent_only (e : EventRec) (s : State) :
    Keeps (fun p => p == .out || p == .pba || p == .events || p == .hostMem) s (placeEvent e s) := by
  apply placeEvent_keeps <;> first | rfl | exact Keeps.refl _ _

@[simp] theorem placeEvent_pending (e : EventRec) (s : State) : (placeEvent e s).pending = s.pending :=
  (placeEvent_only _ _).pending
@[simp] theorem placeEvent_fuse (e : EventRec) (s : State) : (placeEvent e s).fuse = s.fuse :=
  (placeEvent_only _ _).fuse
@[simp] theorem placeEvent_wall (e : EventRec) (s : State) : (placeEvent e s).wall = s.wall :=
  (placeEvent_only _ _).wall
@[simp] theorem placeEvent_uptime (e : EventRec) (s : State) : (placeEvent e s).uptime = s.uptime :=
  (placeEvent_only _ _).uptime rfl
@[simp] theorem placeEvent_free (e : EventRec) (s : State) : (placeEvent e s).free = s.free :=
  (placeEvent_only _ _).free rfl
@[simp] theorem placeEvent_top (e : EventRec) (s : State) : (placeEvent e s).top = s.top :=
  (placeEvent_only _ _).top_eq rfl rfl rfl rfl
@[simp] theorem placeEvent_cmd_rings (e : EventRec) (s : State) : (placeEvent e s).cmd.rings = s.cmd.rings :=
  ((placeEvent_only _ _).rings rfl).1
@[simp] theorem placeEvent_cmd_rrNext (e : EventRec) (s : State) : (placeEvent e s).cmd.rrNext = s.cmd.rrNext :=
  ((placeEvent_only _ _).rings rfl).2.1
@[simp] theorem placeEvent_cmd_nextId (e : EventRec) (s : State) : (placeEvent e s).cmd.nextId = s.cmd.nextId :=
  ((placeEvent_only _ _).rings rfl).2.2
@[simp] theorem placeEvent_cmd_slots (e : EventRec) (s : State) : (placeEvent e s).cmd.slots = s.cmd.slots :=
  (placeEvent_only _ _).slots rfl
@[simp] theorem placeEvent_cmd_cpl (e : EventRec) (s : State) : (placeEvent e s).cmd.cpl = s.cmd.cpl :=
  (placeEvent_only _ _).records rfl
@[simp] theorem placeEvent_cmd_masked (e : EventRec) (s : State) : (placeEvent e s).cmd.masked = s.cmd.masked :=
  (placeEvent_only _ _).masked rfl
@[simp] theorem placeEvent_cmd_bufs (e : EventRec) (s : State) : (placeEvent e s).cmd.bufs = s.cmd.bufs :=
  (placeEvent_only _ _).bufs rfl
@[simp] theorem placeEvent_cmd_pulls (e : EventRec) (s : State) : (placeEvent e s).cmd.pulls = s.cmd.pulls :=
  (placeEvent_only _ _).pulls rfl
@[simp] theorem placeEvent_cmd_hostBase (e : EventRec) (s : State) :
    (placeEvent e s).cmd.hostBase = s.cmd.hostBase := ((placeEvent_only _ _).area rfl).1
@[simp] theorem placeEvent_cmd_hostSize (e : EventRec) (s : State) :
    (placeEvent e s).cmd.hostSize = s.cmd.hostSize := ((placeEvent_only _ _).area rfl).2
@[simp] theorem placeEvent_cmd_winDrop (e : EventRec) (s : State) : (placeEvent e s).cmd.winDrop = s.cmd.winDrop :=
  (placeEvent_only _ _).winDrop rfl
@[simp] theorem placeEvent_pcie_linkUp (e : EventRec) (s : State) : (placeEvent e s).pcie.linkUp = s.pcie.linkUp :=
  ((placeEvent_only _ _).link rfl).1
@[simp] theorem placeEvent_pcie_d3hot (e : EventRec) (s : State) : (placeEvent e s).pcie.d3hot = s.pcie.d3hot :=
  ((placeEvent_only _ _).link rfl).2.1
@[simp] theorem placeEvent_pcie_bme (e : EventRec) (s : State) : (placeEvent e s).pcie.bme = s.pcie.bme :=
  ((placeEvent_only _ _).link rfl).2.2.1
@[simp] theorem placeEvent_pcie_wiping (e : EventRec) (s : State) : (placeEvent e s).pcie.wiping = s.pcie.wiping :=
  ((placeEvent_only _ _).link rfl).2.2.2
@[simp] theorem placeEvent_pcie_maxPayload (e : EventRec) (s : State) :
    (placeEvent e s).pcie.maxPayload = s.pcie.maxPayload := ((placeEvent_only _ _).limits rfl).1
@[simp] theorem placeEvent_pcie_maxReadRequest (e : EventRec) (s : State) :
    (placeEvent e s).pcie.maxReadRequest = s.pcie.maxReadRequest := ((placeEvent_only _ _).limits rfl).2
@[simp] theorem placeEvent_pcie_reply (e : EventRec) (s : State) : (placeEvent e s).pcie.reply = s.pcie.reply :=
  ((placeEvent_only _ _).reply rfl).1
@[simp] theorem placeEvent_pcie_latches (e : EventRec) (s : State) :
    (placeEvent e s).pcie.latches = s.pcie.latches := ((placeEvent_only _ _).reply rfl).2
@[simp] theorem placeEvent_pcie_aerUr (e : EventRec) (s : State) : (placeEvent e s).pcie.aerUr = s.pcie.aerUr :=
  ((placeEvent_only _ _).aer rfl).1
@[simp] theorem placeEvent_pcie_aerPoison (e : EventRec) (s : State) :
    (placeEvent e s).pcie.aerPoison = s.pcie.aerPoison := ((placeEvent_only _ _).aer rfl).2.1
@[simp] theorem placeEvent_pcie_aerEcrc (e : EventRec) (s : State) :
    (placeEvent e s).pcie.aerEcrc = s.pcie.aerEcrc := ((placeEvent_only _ _).aer rfl).2.2.1
@[simp] theorem placeEvent_pcie_aerTimeout (e : EventRec) (s : State) :
    (placeEvent e s).pcie.aerTimeout = s.pcie.aerTimeout := ((placeEvent_only _ _).aer rfl).2.2.2
@[simp] theorem placeEvent_pcie_msix (e : EventRec) (s : State) : (placeEvent e s).pcie.msix = s.pcie.msix :=
  (placeEvent_only _ _).msix rfl
@[simp] theorem placeEvent_lcs (e : EventRec) (s : State) : (placeEvent e s).lcs = s.lcs :=
  (placeEvent_only _ _).lcs rfl
@[simp] theorem placeEvent_dram (e : EventRec) (s : State) : (placeEvent e s).dram = s.dram :=
  (placeEvent_only _ _).dram rfl
@[simp] theorem placeEvent_poison (e : EventRec) (s : State) : (placeEvent e s).poison = s.poison :=
  (placeEvent_only _ _).poison rfl
@[simp] theorem placeEvent_time (e : EventRec) (s : State) : (placeEvent e s).time = s.time :=
  (placeEvent_only _ _).time rfl
@[simp] theorem placeEvent_web (e : EventRec) (s : State) : (placeEvent e s).web = s.web :=
  (placeEvent_only _ _).web rfl
@[simp] theorem placeEvent_axis (e : EventRec) (s : State) : (placeEvent e s).axis = s.axis :=
  (placeEvent_only _ _).axis rfl
@[simp] theorem placeEvent_frames (e : EventRec) (s : State) : (placeEvent e s).frames = s.frames :=
  (placeEvent_only _ _).frames rfl
@[simp] theorem placeEvent_prn (e : EventRec) (s : State) : (placeEvent e s).prn = s.prn :=
  (placeEvent_only _ _).prn rfl
@[simp] theorem placeEvent_fire (e : EventRec) (s : State) : (placeEvent e s).fire = s.fire :=
  (placeEvent_only _ _).fire rfl
@[simp] theorem placeEvent_rein (e : EventRec) (s : State) : (placeEvent e s).rein = s.rein :=
  (placeEvent_only _ _).rein rfl
@[simp] theorem placeEvent_chain (e : EventRec) (s : State) : (placeEvent e s).chain = s.chain :=
  (placeEvent_only _ _).chain rfl
@[simp] theorem placeEvent_tan (e : EventRec) (s : State) : (placeEvent e s).tan = s.tan :=
  (placeEvent_only _ _).tan rfl
@[simp] theorem placeEvent_thm (e : EventRec) (s : State) : (placeEvent e s).thm = s.thm :=
  (placeEvent_only _ _).thm rfl
@[simp] theorem placeEvent_cal (e : EventRec) (s : State) : (placeEvent e s).cal = s.cal :=
  (placeEvent_only _ _).cal rfl
@[simp] theorem placeEvent_scan (e : EventRec) (s : State) : (placeEvent e s).scan = s.scan :=
  (placeEvent_only _ _).scan rfl
@[simp] theorem placeEvent_cam (e : EventRec) (s : State) : (placeEvent e s).cam = s.cam :=
  (placeEvent_only _ _).cam rfl
@[simp] theorem placeEvent_mem (e : EventRec) (s : State) : (placeEvent e s).mem = s.mem :=
  (placeEvent_only _ _).mem rfl

/-! ### `raiseAfter` changes out, pba, events, hostMem only -/

theorem raiseAfter_only (id src code : Nat) (data : List Byte) (s : State) :
    Keeps (fun p => p == .out || p == .pba || p == .events || p == .hostMem) s (raiseAfter id src code data s) := by
  apply raiseAfter_keeps <;> first | rfl | exact Keeps.refl _ _

@[simp] theorem raiseAfter_pending (id src code : Nat) (data : List Byte) (s : State) :
    (raiseAfter id src code data s).pending = s.pending := (raiseAfter_only _ _ _ _ _).pending
@[simp] theorem raiseAfter_fuse (id src code : Nat) (data : List Byte) (s : State) :
    (raiseAfter id src code data s).fuse = s.fuse := (raiseAfter_only _ _ _ _ _).fuse
@[simp] theorem raiseAfter_wall (id src code : Nat) (data : List Byte) (s : State) :
    (raiseAfter id src code data s).wall = s.wall := (raiseAfter_only _ _ _ _ _).wall
@[simp] theorem raiseAfter_uptime (id src code : Nat) (data : List Byte) (s : State) :
    (raiseAfter id src code data s).uptime = s.uptime := (raiseAfter_only _ _ _ _ _).uptime rfl
@[simp] theorem raiseAfter_free (id src code : Nat) (data : List Byte) (s : State) :
    (raiseAfter id src code data s).free = s.free := (raiseAfter_only _ _ _ _ _).free rfl
@[simp] theorem raiseAfter_top (id src code : Nat) (data : List Byte) (s : State) :
    (raiseAfter id src code data s).top = s.top := (raiseAfter_only _ _ _ _ _).top_eq rfl rfl rfl rfl
@[simp] theorem raiseAfter_cmd_rings (id src code : Nat) (data : List Byte) (s : State) :
    (raiseAfter id src code data s).cmd.rings = s.cmd.rings := ((raiseAfter_only _ _ _ _ _).rings rfl).1
@[simp] theorem raiseAfter_cmd_rrNext (id src code : Nat) (data : List Byte) (s : State) :
    (raiseAfter id src code data s).cmd.rrNext = s.cmd.rrNext := ((raiseAfter_only _ _ _ _ _).rings rfl).2.1
@[simp] theorem raiseAfter_cmd_nextId (id src code : Nat) (data : List Byte) (s : State) :
    (raiseAfter id src code data s).cmd.nextId = s.cmd.nextId := ((raiseAfter_only _ _ _ _ _).rings rfl).2.2
@[simp] theorem raiseAfter_cmd_slots (id src code : Nat) (data : List Byte) (s : State) :
    (raiseAfter id src code data s).cmd.slots = s.cmd.slots := (raiseAfter_only _ _ _ _ _).slots rfl
@[simp] theorem raiseAfter_cmd_cpl (id src code : Nat) (data : List Byte) (s : State) :
    (raiseAfter id src code data s).cmd.cpl = s.cmd.cpl := (raiseAfter_only _ _ _ _ _).records rfl
@[simp] theorem raiseAfter_cmd_masked (id src code : Nat) (data : List Byte) (s : State) :
    (raiseAfter id src code data s).cmd.masked = s.cmd.masked := (raiseAfter_only _ _ _ _ _).masked rfl
@[simp] theorem raiseAfter_cmd_bufs (id src code : Nat) (data : List Byte) (s : State) :
    (raiseAfter id src code data s).cmd.bufs = s.cmd.bufs := (raiseAfter_only _ _ _ _ _).bufs rfl
@[simp] theorem raiseAfter_cmd_pulls (id src code : Nat) (data : List Byte) (s : State) :
    (raiseAfter id src code data s).cmd.pulls = s.cmd.pulls := (raiseAfter_only _ _ _ _ _).pulls rfl
@[simp] theorem raiseAfter_cmd_hostBase (id src code : Nat) (data : List Byte) (s : State) :
    (raiseAfter id src code data s).cmd.hostBase = s.cmd.hostBase := ((raiseAfter_only _ _ _ _ _).area rfl).1
@[simp] theorem raiseAfter_cmd_hostSize (id src code : Nat) (data : List Byte) (s : State) :
    (raiseAfter id src code data s).cmd.hostSize = s.cmd.hostSize := ((raiseAfter_only _ _ _ _ _).area rfl).2
@[simp] theorem raiseAfter_cmd_winDrop (id src code : Nat) (data : List Byte) (s : State) :
    (raiseAfter id src code data s).cmd.winDrop = s.cmd.winDrop := (raiseAfter_only _ _ _ _ _).winDrop rfl
@[simp] theorem raiseAfter_pcie_linkUp (id src code : Nat) (data : List Byte) (s : State) :
    (raiseAfter id src code data s).pcie.linkUp = s.pcie.linkUp := ((raiseAfter_only _ _ _ _ _).link rfl).1
@[simp] theorem raiseAfter_pcie_d3hot (id src code : Nat) (data : List Byte) (s : State) :
    (raiseAfter id src code data s).pcie.d3hot = s.pcie.d3hot := ((raiseAfter_only _ _ _ _ _).link rfl).2.1
@[simp] theorem raiseAfter_pcie_bme (id src code : Nat) (data : List Byte) (s : State) :
    (raiseAfter id src code data s).pcie.bme = s.pcie.bme := ((raiseAfter_only _ _ _ _ _).link rfl).2.2.1
@[simp] theorem raiseAfter_pcie_wiping (id src code : Nat) (data : List Byte) (s : State) :
    (raiseAfter id src code data s).pcie.wiping = s.pcie.wiping := ((raiseAfter_only _ _ _ _ _).link rfl).2.2.2
@[simp] theorem raiseAfter_pcie_maxPayload (id src code : Nat) (data : List Byte) (s : State) :
    (raiseAfter id src code data s).pcie.maxPayload = s.pcie.maxPayload := ((raiseAfter_only _ _ _ _ _).limits rfl).1
@[simp] theorem raiseAfter_pcie_maxReadRequest (id src code : Nat) (data : List Byte) (s : State) :
    (raiseAfter id src code data s).pcie.maxReadRequest = s.pcie.maxReadRequest := ((raiseAfter_only _ _ _ _ _).limits rfl).2
@[simp] theorem raiseAfter_pcie_reply (id src code : Nat) (data : List Byte) (s : State) :
    (raiseAfter id src code data s).pcie.reply = s.pcie.reply := ((raiseAfter_only _ _ _ _ _).reply rfl).1
@[simp] theorem raiseAfter_pcie_latches (id src code : Nat) (data : List Byte) (s : State) :
    (raiseAfter id src code data s).pcie.latches = s.pcie.latches := ((raiseAfter_only _ _ _ _ _).reply rfl).2
@[simp] theorem raiseAfter_pcie_aerUr (id src code : Nat) (data : List Byte) (s : State) :
    (raiseAfter id src code data s).pcie.aerUr = s.pcie.aerUr := ((raiseAfter_only _ _ _ _ _).aer rfl).1
@[simp] theorem raiseAfter_pcie_aerPoison (id src code : Nat) (data : List Byte) (s : State) :
    (raiseAfter id src code data s).pcie.aerPoison = s.pcie.aerPoison := ((raiseAfter_only _ _ _ _ _).aer rfl).2.1
@[simp] theorem raiseAfter_pcie_aerEcrc (id src code : Nat) (data : List Byte) (s : State) :
    (raiseAfter id src code data s).pcie.aerEcrc = s.pcie.aerEcrc := ((raiseAfter_only _ _ _ _ _).aer rfl).2.2.1
@[simp] theorem raiseAfter_pcie_aerTimeout (id src code : Nat) (data : List Byte) (s : State) :
    (raiseAfter id src code data s).pcie.aerTimeout = s.pcie.aerTimeout := ((raiseAfter_only _ _ _ _ _).aer rfl).2.2.2
@[simp] theorem raiseAfter_pcie_msix (id src code : Nat) (data : List Byte) (s : State) :
    (raiseAfter id src code data s).pcie.msix = s.pcie.msix := (raiseAfter_only _ _ _ _ _).msix rfl
@[simp] theorem raiseAfter_lcs (id src code : Nat) (data : List Byte) (s : State) :
    (raiseAfter id src code data s).lcs = s.lcs := (raiseAfter_only _ _ _ _ _).lcs rfl
@[simp] theorem raiseAfter_dram (id src code : Nat) (data : List Byte) (s : State) :
    (raiseAfter id src code data s).dram = s.dram := (raiseAfter_only _ _ _ _ _).dram rfl
@[simp] theorem raiseAfter_poison (id src code : Nat) (data : List Byte) (s : State) :
    (raiseAfter id src code data s).poison = s.poison := (raiseAfter_only _ _ _ _ _).poison rfl
@[simp] theorem raiseAfter_time (id src code : Nat) (data : List Byte) (s : State) :
    (raiseAfter id src code data s).time = s.time := (raiseAfter_only _ _ _ _ _).time rfl
@[simp] theorem raiseAfter_web (id src code : Nat) (data : List Byte) (s : State) :
    (raiseAfter id src code data s).web = s.web := (raiseAfter_only _ _ _ _ _).web rfl
@[simp] theorem raiseAfter_axis (id src code : Nat) (data : List Byte) (s : State) :
    (raiseAfter id src code data s).axis = s.axis := (raiseAfter_only _ _ _ _ _).axis rfl
@[simp] theorem raiseAfter_frames (id src code : Nat) (data : List Byte) (s : State) :
    (raiseAfter id src code data s).frames = s.frames := (raiseAfter_only _ _ _ _ _).frames rfl
@[simp] theorem raiseAfter_prn (id src code : Nat) (data : List Byte) (s : State) :
    (raiseAfter id src code data s).prn = s.prn := (raiseAfter_only _ _ _ _ _).prn rfl
@[simp] theorem raiseAfter_fire (id src code : Nat) (data : List Byte) (s : State) :
    (raiseAfter id src code data s).fire = s.fire := (raiseAfter_only _ _ _ _ _).fire rfl
@[simp] theorem raiseAfter_rein (id src code : Nat) (data : List Byte) (s : State) :
    (raiseAfter id src code data s).rein = s.rein := (raiseAfter_only _ _ _ _ _).rein rfl
@[simp] theorem raiseAfter_chain (id src code : Nat) (data : List Byte) (s : State) :
    (raiseAfter id src code data s).chain = s.chain := (raiseAfter_only _ _ _ _ _).chain rfl
@[simp] theorem raiseAfter_tan (id src code : Nat) (data : List Byte) (s : State) :
    (raiseAfter id src code data s).tan = s.tan := (raiseAfter_only _ _ _ _ _).tan rfl
@[simp] theorem raiseAfter_thm (id src code : Nat) (data : List Byte) (s : State) :
    (raiseAfter id src code data s).thm = s.thm := (raiseAfter_only _ _ _ _ _).thm rfl
@[simp] theorem raiseAfter_cal (id src code : Nat) (data : List Byte) (s : State) :
    (raiseAfter id src code data s).cal = s.cal := (raiseAfter_only _ _ _ _ _).cal rfl
@[simp] theorem raiseAfter_scan (id src code : Nat) (data : List Byte) (s : State) :
    (raiseAfter id src code data s).scan = s.scan := (raiseAfter_only _ _ _ _ _).scan rfl
@[simp] theorem raiseAfter_cam (id src code : Nat) (data : List Byte) (s : State) :
    (raiseAfter id src code data s).cam = s.cam := (raiseAfter_only _ _ _ _ _).cam rfl
@[simp] theorem raiseAfter_mem (id src code : Nat) (data : List Byte) (s : State) :
    (raiseAfter id src code data s).mem = s.mem := (raiseAfter_only _ _ _ _ _).mem rfl

/-! ### `raise` changes out, pba, events, hostMem only -/

theorem raise_only (src code : Nat) (data : List Byte) (s : State) :
    Keeps (fun p => p == .out || p == .pba || p == .events || p == .hostMem) s (raise src code data s) := by
  apply raise_keeps <;> first | rfl | exact Keeps.refl _ _

@[simp] theorem raise_pending (src code : Nat) (data : List Byte) (s : State) :
    (raise src code data s).pending = s.pending := (raise_only _ _ _ _).pending
@[simp] theorem raise_fuse (src code : Nat) (data : List Byte) (s : State) :
    (raise src code data s).fuse = s.fuse := (raise_only _ _ _ _).fuse
@[simp] theorem raise_wall (src code : Nat) (data : List Byte) (s : State) :
    (raise src code data s).wall = s.wall := (raise_only _ _ _ _).wall
@[simp] theorem raise_uptime (src code : Nat) (data : List Byte) (s : State) :
    (raise src code data s).uptime = s.uptime := (raise_only _ _ _ _).uptime rfl
@[simp] theorem raise_free (src code : Nat) (data : List Byte) (s : State) :
    (raise src code data s).free = s.free := (raise_only _ _ _ _).free rfl
@[simp] theorem raise_top (src code : Nat) (data : List Byte) (s : State) : (raise src code data s).top = s.top :=
  (raise_only _ _ _ _).top_eq rfl rfl rfl rfl
@[simp] theorem raise_cmd_rings (src code : Nat) (data : List Byte) (s : State) :
    (raise src code data s).cmd.rings = s.cmd.rings := ((raise_only _ _ _ _).rings rfl).1
@[simp] theorem raise_cmd_rrNext (src code : Nat) (data : List Byte) (s : State) :
    (raise src code data s).cmd.rrNext = s.cmd.rrNext := ((raise_only _ _ _ _).rings rfl).2.1
@[simp] theorem raise_cmd_nextId (src code : Nat) (data : List Byte) (s : State) :
    (raise src code data s).cmd.nextId = s.cmd.nextId := ((raise_only _ _ _ _).rings rfl).2.2
@[simp] theorem raise_cmd_slots (src code : Nat) (data : List Byte) (s : State) :
    (raise src code data s).cmd.slots = s.cmd.slots := (raise_only _ _ _ _).slots rfl
@[simp] theorem raise_cmd_cpl (src code : Nat) (data : List Byte) (s : State) :
    (raise src code data s).cmd.cpl = s.cmd.cpl := (raise_only _ _ _ _).records rfl
@[simp] theorem raise_cmd_masked (src code : Nat) (data : List Byte) (s : State) :
    (raise src code data s).cmd.masked = s.cmd.masked := (raise_only _ _ _ _).masked rfl
@[simp] theorem raise_cmd_bufs (src code : Nat) (data : List Byte) (s : State) :
    (raise src code data s).cmd.bufs = s.cmd.bufs := (raise_only _ _ _ _).bufs rfl
@[simp] theorem raise_cmd_pulls (src code : Nat) (data : List Byte) (s : State) :
    (raise src code data s).cmd.pulls = s.cmd.pulls := (raise_only _ _ _ _).pulls rfl
@[simp] theorem raise_cmd_hostBase (src code : Nat) (data : List Byte) (s : State) :
    (raise src code data s).cmd.hostBase = s.cmd.hostBase := ((raise_only _ _ _ _).area rfl).1
@[simp] theorem raise_cmd_hostSize (src code : Nat) (data : List Byte) (s : State) :
    (raise src code data s).cmd.hostSize = s.cmd.hostSize := ((raise_only _ _ _ _).area rfl).2
@[simp] theorem raise_cmd_winDrop (src code : Nat) (data : List Byte) (s : State) :
    (raise src code data s).cmd.winDrop = s.cmd.winDrop := (raise_only _ _ _ _).winDrop rfl
@[simp] theorem raise_pcie_linkUp (src code : Nat) (data : List Byte) (s : State) :
    (raise src code data s).pcie.linkUp = s.pcie.linkUp := ((raise_only _ _ _ _).link rfl).1
@[simp] theorem raise_pcie_d3hot (src code : Nat) (data : List Byte) (s : State) :
    (raise src code data s).pcie.d3hot = s.pcie.d3hot := ((raise_only _ _ _ _).link rfl).2.1
@[simp] theorem raise_pcie_bme (src code : Nat) (data : List Byte) (s : State) :
    (raise src code data s).pcie.bme = s.pcie.bme := ((raise_only _ _ _ _).link rfl).2.2.1
@[simp] theorem raise_pcie_wiping (src code : Nat) (data : List Byte) (s : State) :
    (raise src code data s).pcie.wiping = s.pcie.wiping := ((raise_only _ _ _ _).link rfl).2.2.2
@[simp] theorem raise_pcie_maxPayload (src code : Nat) (data : List Byte) (s : State) :
    (raise src code data s).pcie.maxPayload = s.pcie.maxPayload := ((raise_only _ _ _ _).limits rfl).1
@[simp] theorem raise_pcie_maxReadRequest (src code : Nat) (data : List Byte) (s : State) :
    (raise src code data s).pcie.maxReadRequest = s.pcie.maxReadRequest := ((raise_only _ _ _ _).limits rfl).2
@[simp] theorem raise_pcie_reply (src code : Nat) (data : List Byte) (s : State) :
    (raise src code data s).pcie.reply = s.pcie.reply := ((raise_only _ _ _ _).reply rfl).1
@[simp] theorem raise_pcie_latches (src code : Nat) (data : List Byte) (s : State) :
    (raise src code data s).pcie.latches = s.pcie.latches := ((raise_only _ _ _ _).reply rfl).2
@[simp] theorem raise_pcie_aerUr (src code : Nat) (data : List Byte) (s : State) :
    (raise src code data s).pcie.aerUr = s.pcie.aerUr := ((raise_only _ _ _ _).aer rfl).1
@[simp] theorem raise_pcie_aerPoison (src code : Nat) (data : List Byte) (s : State) :
    (raise src code data s).pcie.aerPoison = s.pcie.aerPoison := ((raise_only _ _ _ _).aer rfl).2.1
@[simp] theorem raise_pcie_aerEcrc (src code : Nat) (data : List Byte) (s : State) :
    (raise src code data s).pcie.aerEcrc = s.pcie.aerEcrc := ((raise_only _ _ _ _).aer rfl).2.2.1
@[simp] theorem raise_pcie_aerTimeout (src code : Nat) (data : List Byte) (s : State) :
    (raise src code data s).pcie.aerTimeout = s.pcie.aerTimeout := ((raise_only _ _ _ _).aer rfl).2.2.2
@[simp] theorem raise_pcie_msix (src code : Nat) (data : List Byte) (s : State) :
    (raise src code data s).pcie.msix = s.pcie.msix := (raise_only _ _ _ _).msix rfl
@[simp] theorem raise_lcs (src code : Nat) (data : List Byte) (s : State) : (raise src code data s).lcs = s.lcs :=
  (raise_only _ _ _ _).lcs rfl
@[simp] theorem raise_dram (src code : Nat) (data : List Byte) (s : State) :
    (raise src code data s).dram = s.dram := (raise_only _ _ _ _).dram rfl
@[simp] theorem raise_poison (src code : Nat) (data : List Byte) (s : State) :
    (raise src code data s).poison = s.poison := (raise_only _ _ _ _).poison rfl
@[simp] theorem raise_time (src code : Nat) (data : List Byte) (s : State) :
    (raise src code data s).time = s.time := (raise_only _ _ _ _).time rfl
@[simp] theorem raise_web (src code : Nat) (data : List Byte) (s : State) : (raise src code data s).web = s.web :=
  (raise_only _ _ _ _).web rfl
@[simp] theorem raise_axis (src code : Nat) (data : List Byte) (s : State) :
    (raise src code data s).axis = s.axis := (raise_only _ _ _ _).axis rfl
@[simp] theorem raise_frames (src code : Nat) (data : List Byte) (s : State) :
    (raise src code data s).frames = s.frames := (raise_only _ _ _ _).frames rfl
@[simp] theorem raise_prn (src code : Nat) (data : List Byte) (s : State) : (raise src code data s).prn = s.prn :=
  (raise_only _ _ _ _).prn rfl
@[simp] theorem raise_fire (src code : Nat) (data : List Byte) (s : State) :
    (raise src code data s).fire = s.fire := (raise_only _ _ _ _).fire rfl
@[simp] theorem raise_rein (src code : Nat) (data : List Byte) (s : State) :
    (raise src code data s).rein = s.rein := (raise_only _ _ _ _).rein rfl
@[simp] theorem raise_chain (src code : Nat) (data : List Byte) (s : State) :
    (raise src code data s).chain = s.chain := (raise_only _ _ _ _).chain rfl
@[simp] theorem raise_tan (src code : Nat) (data : List Byte) (s : State) : (raise src code data s).tan = s.tan :=
  (raise_only _ _ _ _).tan rfl
@[simp] theorem raise_thm (src code : Nat) (data : List Byte) (s : State) : (raise src code data s).thm = s.thm :=
  (raise_only _ _ _ _).thm rfl
@[simp] theorem raise_cal (src code : Nat) (data : List Byte) (s : State) : (raise src code data s).cal = s.cal :=
  (raise_only _ _ _ _).cal rfl
@[simp] theorem raise_scan (src code : Nat) (data : List Byte) (s : State) :
    (raise src code data s).scan = s.scan := (raise_only _ _ _ _).scan rfl
@[simp] theorem raise_cam (src code : Nat) (data : List Byte) (s : State) : (raise src code data s).cam = s.cam :=
  (raise_only _ _ _ _).cam rfl
@[simp] theorem raise_mem (src code : Nat) (data : List Byte) (s : State) : (raise src code data s).mem = s.mem :=
  (raise_only _ _ _ _).mem rfl

/-! ### `setDevWith` changes out, pba, events, hostMem, dev only -/

theorem setDevWith_only (new : DevState) (c : Cause) (extra : List Byte) (s : State) :
    Keeps (fun p => p == .out || p == .pba || p == .events || p == .hostMem || p == .dev) s (setDevWith new c extra s) := by
  apply setDevWith_keeps <;> first | rfl | exact Keeps.refl _ _

@[simp] theorem setDevWith_pending (new : DevState) (c : Cause) (extra : List Byte) (s : State) :
    (setDevWith new c extra s).pending = s.pending := (setDevWith_only _ _ _ _).pending
@[simp] theorem setDevWith_fuse (new : DevState) (c : Cause) (extra : List Byte) (s : State) :
    (setDevWith new c extra s).fuse = s.fuse := (setDevWith_only _ _ _ _).fuse
@[simp] theorem setDevWith_wall (new : DevState) (c : Cause) (extra : List Byte) (s : State) :
    (setDevWith new c extra s).wall = s.wall := (setDevWith_only _ _ _ _).wall
@[simp] theorem setDevWith_uptime (new : DevState) (c : Cause) (extra : List Byte) (s : State) :
    (setDevWith new c extra s).uptime = s.uptime := (setDevWith_only _ _ _ _).uptime rfl
@[simp] theorem setDevWith_free (new : DevState) (c : Cause) (extra : List Byte) (s : State) :
    (setDevWith new c extra s).free = s.free := (setDevWith_only _ _ _ _).free rfl
@[simp] theorem setDevWith_top_mode (new : DevState) (c : Cause) (extra : List Byte) (s : State) :
    (setDevWith new c extra s).top.mode = s.top.mode := (setDevWith_only _ _ _ _).mode rfl
@[simp] theorem setDevWith_top_conflicts (new : DevState) (c : Cause) (extra : List Byte) (s : State) :
    (setDevWith new c extra s).top.conflicts = s.top.conflicts := ((setDevWith_only _ _ _ _).conflicts rfl).1
@[simp] theorem setDevWith_top_lastDword (new : DevState) (c : Cause) (extra : List Byte) (s : State) :
    (setDevWith new c extra s).top.lastDword = s.top.lastDword := ((setDevWith_only _ _ _ _).conflicts rfl).2
@[simp] theorem setDevWith_top_hpen (new : DevState) (c : Cause) (extra : List Byte) (s : State) :
    (setDevWith new c extra s).top.hpen = s.top.hpen := (setDevWith_only _ _ _ _).hpen rfl
@[simp] theorem setDevWith_cmd_rings (new : DevState) (c : Cause) (extra : List Byte) (s : State) :
    (setDevWith new c extra s).cmd.rings = s.cmd.rings := ((setDevWith_only _ _ _ _).rings rfl).1
@[simp] theorem setDevWith_cmd_rrNext (new : DevState) (c : Cause) (extra : List Byte) (s : State) :
    (setDevWith new c extra s).cmd.rrNext = s.cmd.rrNext := ((setDevWith_only _ _ _ _).rings rfl).2.1
@[simp] theorem setDevWith_cmd_nextId (new : DevState) (c : Cause) (extra : List Byte) (s : State) :
    (setDevWith new c extra s).cmd.nextId = s.cmd.nextId := ((setDevWith_only _ _ _ _).rings rfl).2.2
@[simp] theorem setDevWith_cmd_slots (new : DevState) (c : Cause) (extra : List Byte) (s : State) :
    (setDevWith new c extra s).cmd.slots = s.cmd.slots := (setDevWith_only _ _ _ _).slots rfl
@[simp] theorem setDevWith_cmd_cpl (new : DevState) (c : Cause) (extra : List Byte) (s : State) :
    (setDevWith new c extra s).cmd.cpl = s.cmd.cpl := (setDevWith_only _ _ _ _).records rfl
@[simp] theorem setDevWith_cmd_masked (new : DevState) (c : Cause) (extra : List Byte) (s : State) :
    (setDevWith new c extra s).cmd.masked = s.cmd.masked := (setDevWith_only _ _ _ _).masked rfl
@[simp] theorem setDevWith_cmd_bufs (new : DevState) (c : Cause) (extra : List Byte) (s : State) :
    (setDevWith new c extra s).cmd.bufs = s.cmd.bufs := (setDevWith_only _ _ _ _).bufs rfl
@[simp] theorem setDevWith_cmd_pulls (new : DevState) (c : Cause) (extra : List Byte) (s : State) :
    (setDevWith new c extra s).cmd.pulls = s.cmd.pulls := (setDevWith_only _ _ _ _).pulls rfl
@[simp] theorem setDevWith_cmd_hostBase (new : DevState) (c : Cause) (extra : List Byte) (s : State) :
    (setDevWith new c extra s).cmd.hostBase = s.cmd.hostBase := ((setDevWith_only _ _ _ _).area rfl).1
@[simp] theorem setDevWith_cmd_hostSize (new : DevState) (c : Cause) (extra : List Byte) (s : State) :
    (setDevWith new c extra s).cmd.hostSize = s.cmd.hostSize := ((setDevWith_only _ _ _ _).area rfl).2
@[simp] theorem setDevWith_cmd_winDrop (new : DevState) (c : Cause) (extra : List Byte) (s : State) :
    (setDevWith new c extra s).cmd.winDrop = s.cmd.winDrop := (setDevWith_only _ _ _ _).winDrop rfl
@[simp] theorem setDevWith_pcie_linkUp (new : DevState) (c : Cause) (extra : List Byte) (s : State) :
    (setDevWith new c extra s).pcie.linkUp = s.pcie.linkUp := ((setDevWith_only _ _ _ _).link rfl).1
@[simp] theorem setDevWith_pcie_d3hot (new : DevState) (c : Cause) (extra : List Byte) (s : State) :
    (setDevWith new c extra s).pcie.d3hot = s.pcie.d3hot := ((setDevWith_only _ _ _ _).link rfl).2.1
@[simp] theorem setDevWith_pcie_bme (new : DevState) (c : Cause) (extra : List Byte) (s : State) :
    (setDevWith new c extra s).pcie.bme = s.pcie.bme := ((setDevWith_only _ _ _ _).link rfl).2.2.1
@[simp] theorem setDevWith_pcie_wiping (new : DevState) (c : Cause) (extra : List Byte) (s : State) :
    (setDevWith new c extra s).pcie.wiping = s.pcie.wiping := ((setDevWith_only _ _ _ _).link rfl).2.2.2
@[simp] theorem setDevWith_pcie_maxPayload (new : DevState) (c : Cause) (extra : List Byte) (s : State) :
    (setDevWith new c extra s).pcie.maxPayload = s.pcie.maxPayload := ((setDevWith_only _ _ _ _).limits rfl).1
@[simp] theorem setDevWith_pcie_maxReadRequest (new : DevState) (c : Cause) (extra : List Byte) (s : State) :
    (setDevWith new c extra s).pcie.maxReadRequest = s.pcie.maxReadRequest := ((setDevWith_only _ _ _ _).limits rfl).2
@[simp] theorem setDevWith_pcie_reply (new : DevState) (c : Cause) (extra : List Byte) (s : State) :
    (setDevWith new c extra s).pcie.reply = s.pcie.reply := ((setDevWith_only _ _ _ _).reply rfl).1
@[simp] theorem setDevWith_pcie_latches (new : DevState) (c : Cause) (extra : List Byte) (s : State) :
    (setDevWith new c extra s).pcie.latches = s.pcie.latches := ((setDevWith_only _ _ _ _).reply rfl).2
@[simp] theorem setDevWith_pcie_aerUr (new : DevState) (c : Cause) (extra : List Byte) (s : State) :
    (setDevWith new c extra s).pcie.aerUr = s.pcie.aerUr := ((setDevWith_only _ _ _ _).aer rfl).1
@[simp] theorem setDevWith_pcie_aerPoison (new : DevState) (c : Cause) (extra : List Byte) (s : State) :
    (setDevWith new c extra s).pcie.aerPoison = s.pcie.aerPoison := ((setDevWith_only _ _ _ _).aer rfl).2.1
@[simp] theorem setDevWith_pcie_aerEcrc (new : DevState) (c : Cause) (extra : List Byte) (s : State) :
    (setDevWith new c extra s).pcie.aerEcrc = s.pcie.aerEcrc := ((setDevWith_only _ _ _ _).aer rfl).2.2.1
@[simp] theorem setDevWith_pcie_aerTimeout (new : DevState) (c : Cause) (extra : List Byte) (s : State) :
    (setDevWith new c extra s).pcie.aerTimeout = s.pcie.aerTimeout := ((setDevWith_only _ _ _ _).aer rfl).2.2.2
@[simp] theorem setDevWith_pcie_msix (new : DevState) (c : Cause) (extra : List Byte) (s : State) :
    (setDevWith new c extra s).pcie.msix = s.pcie.msix := (setDevWith_only _ _ _ _).msix rfl
@[simp] theorem setDevWith_lcs (new : DevState) (c : Cause) (extra : List Byte) (s : State) :
    (setDevWith new c extra s).lcs = s.lcs := (setDevWith_only _ _ _ _).lcs rfl
@[simp] theorem setDevWith_dram (new : DevState) (c : Cause) (extra : List Byte) (s : State) :
    (setDevWith new c extra s).dram = s.dram := (setDevWith_only _ _ _ _).dram rfl
@[simp] theorem setDevWith_poison (new : DevState) (c : Cause) (extra : List Byte) (s : State) :
    (setDevWith new c extra s).poison = s.poison := (setDevWith_only _ _ _ _).poison rfl
@[simp] theorem setDevWith_time (new : DevState) (c : Cause) (extra : List Byte) (s : State) :
    (setDevWith new c extra s).time = s.time := (setDevWith_only _ _ _ _).time rfl
@[simp] theorem setDevWith_web (new : DevState) (c : Cause) (extra : List Byte) (s : State) :
    (setDevWith new c extra s).web = s.web := (setDevWith_only _ _ _ _).web rfl
@[simp] theorem setDevWith_axis (new : DevState) (c : Cause) (extra : List Byte) (s : State) :
    (setDevWith new c extra s).axis = s.axis := (setDevWith_only _ _ _ _).axis rfl
@[simp] theorem setDevWith_frames (new : DevState) (c : Cause) (extra : List Byte) (s : State) :
    (setDevWith new c extra s).frames = s.frames := (setDevWith_only _ _ _ _).frames rfl
@[simp] theorem setDevWith_prn (new : DevState) (c : Cause) (extra : List Byte) (s : State) :
    (setDevWith new c extra s).prn = s.prn := (setDevWith_only _ _ _ _).prn rfl
@[simp] theorem setDevWith_fire (new : DevState) (c : Cause) (extra : List Byte) (s : State) :
    (setDevWith new c extra s).fire = s.fire := (setDevWith_only _ _ _ _).fire rfl
@[simp] theorem setDevWith_rein (new : DevState) (c : Cause) (extra : List Byte) (s : State) :
    (setDevWith new c extra s).rein = s.rein := (setDevWith_only _ _ _ _).rein rfl
@[simp] theorem setDevWith_chain (new : DevState) (c : Cause) (extra : List Byte) (s : State) :
    (setDevWith new c extra s).chain = s.chain := (setDevWith_only _ _ _ _).chain rfl
@[simp] theorem setDevWith_tan (new : DevState) (c : Cause) (extra : List Byte) (s : State) :
    (setDevWith new c extra s).tan = s.tan := (setDevWith_only _ _ _ _).tan rfl
@[simp] theorem setDevWith_thm (new : DevState) (c : Cause) (extra : List Byte) (s : State) :
    (setDevWith new c extra s).thm = s.thm := (setDevWith_only _ _ _ _).thm rfl
@[simp] theorem setDevWith_cal (new : DevState) (c : Cause) (extra : List Byte) (s : State) :
    (setDevWith new c extra s).cal = s.cal := (setDevWith_only _ _ _ _).cal rfl
@[simp] theorem setDevWith_scan (new : DevState) (c : Cause) (extra : List Byte) (s : State) :
    (setDevWith new c extra s).scan = s.scan := (setDevWith_only _ _ _ _).scan rfl
@[simp] theorem setDevWith_cam (new : DevState) (c : Cause) (extra : List Byte) (s : State) :
    (setDevWith new c extra s).cam = s.cam := (setDevWith_only _ _ _ _).cam rfl
@[simp] theorem setDevWith_mem (new : DevState) (c : Cause) (extra : List Byte) (s : State) :
    (setDevWith new c extra s).mem = s.mem := (setDevWith_only _ _ _ _).mem rfl

theorem setDevWith_state (new : DevState) (c : Cause) (extra : List Byte) (s : State) :
    (setDevWith new c extra s).top.dev = new ∧ (setDevWith new c extra s).top.prev = s.top.dev ∧
      (setDevWith new c extra s).top.cause = c := by
  unfold setDevWith
  extract_lets
  split
  · exact ⟨rfl, rfl, rfl⟩
  · exact (raise_only _ _ _ _).dev rfl

@[simp] theorem setDevWith_dev (new : DevState) (c : Cause) (extra : List Byte) (s : State) :
    (setDevWith new c extra s).top.dev = new := (setDevWith_state _ _ _ _).1
@[simp] theorem setDevWith_prev (new : DevState) (c : Cause) (extra : List Byte) (s : State) :
    (setDevWith new c extra s).top.prev = s.top.dev := (setDevWith_state _ _ _ _).2.1
@[simp] theorem setDevWith_cause (new : DevState) (c : Cause) (extra : List Byte) (s : State) :
    (setDevWith new c extra s).top.cause = c := (setDevWith_state _ _ _ _).2.2

/-! ### `setDev` changes out, pba, events, hostMem, dev only -/

theorem setDev_only (new : DevState) (c : Cause) (s : State) :
    Keeps (fun p => p == .out || p == .pba || p == .events || p == .hostMem || p == .dev) s (setDev new c s) := by
  apply setDev_keeps <;> first | rfl | exact Keeps.refl _ _

@[simp] theorem setDev_pending (new : DevState) (c : Cause) (s : State) : (setDev new c s).pending = s.pending :=
  (setDev_only _ _ _).pending
@[simp] theorem setDev_fuse (new : DevState) (c : Cause) (s : State) : (setDev new c s).fuse = s.fuse :=
  (setDev_only _ _ _).fuse
@[simp] theorem setDev_wall (new : DevState) (c : Cause) (s : State) : (setDev new c s).wall = s.wall :=
  (setDev_only _ _ _).wall
@[simp] theorem setDev_uptime (new : DevState) (c : Cause) (s : State) : (setDev new c s).uptime = s.uptime :=
  (setDev_only _ _ _).uptime rfl
@[simp] theorem setDev_free (new : DevState) (c : Cause) (s : State) : (setDev new c s).free = s.free :=
  (setDev_only _ _ _).free rfl
@[simp] theorem setDev_top_mode (new : DevState) (c : Cause) (s : State) : (setDev new c s).top.mode = s.top.mode :=
  (setDev_only _ _ _).mode rfl
@[simp] theorem setDev_top_conflicts (new : DevState) (c : Cause) (s : State) :
    (setDev new c s).top.conflicts = s.top.conflicts := ((setDev_only _ _ _).conflicts rfl).1
@[simp] theorem setDev_top_lastDword (new : DevState) (c : Cause) (s : State) :
    (setDev new c s).top.lastDword = s.top.lastDword := ((setDev_only _ _ _).conflicts rfl).2
@[simp] theorem setDev_top_hpen (new : DevState) (c : Cause) (s : State) : (setDev new c s).top.hpen = s.top.hpen :=
  (setDev_only _ _ _).hpen rfl
@[simp] theorem setDev_cmd_rings (new : DevState) (c : Cause) (s : State) :
    (setDev new c s).cmd.rings = s.cmd.rings := ((setDev_only _ _ _).rings rfl).1
@[simp] theorem setDev_cmd_rrNext (new : DevState) (c : Cause) (s : State) :
    (setDev new c s).cmd.rrNext = s.cmd.rrNext := ((setDev_only _ _ _).rings rfl).2.1
@[simp] theorem setDev_cmd_nextId (new : DevState) (c : Cause) (s : State) :
    (setDev new c s).cmd.nextId = s.cmd.nextId := ((setDev_only _ _ _).rings rfl).2.2
@[simp] theorem setDev_cmd_slots (new : DevState) (c : Cause) (s : State) :
    (setDev new c s).cmd.slots = s.cmd.slots := (setDev_only _ _ _).slots rfl
@[simp] theorem setDev_cmd_cpl (new : DevState) (c : Cause) (s : State) : (setDev new c s).cmd.cpl = s.cmd.cpl :=
  (setDev_only _ _ _).records rfl
@[simp] theorem setDev_cmd_masked (new : DevState) (c : Cause) (s : State) :
    (setDev new c s).cmd.masked = s.cmd.masked := (setDev_only _ _ _).masked rfl
@[simp] theorem setDev_cmd_bufs (new : DevState) (c : Cause) (s : State) : (setDev new c s).cmd.bufs = s.cmd.bufs :=
  (setDev_only _ _ _).bufs rfl
@[simp] theorem setDev_cmd_pulls (new : DevState) (c : Cause) (s : State) :
    (setDev new c s).cmd.pulls = s.cmd.pulls := (setDev_only _ _ _).pulls rfl
@[simp] theorem setDev_cmd_hostBase (new : DevState) (c : Cause) (s : State) :
    (setDev new c s).cmd.hostBase = s.cmd.hostBase := ((setDev_only _ _ _).area rfl).1
@[simp] theorem setDev_cmd_hostSize (new : DevState) (c : Cause) (s : State) :
    (setDev new c s).cmd.hostSize = s.cmd.hostSize := ((setDev_only _ _ _).area rfl).2
@[simp] theorem setDev_cmd_winDrop (new : DevState) (c : Cause) (s : State) :
    (setDev new c s).cmd.winDrop = s.cmd.winDrop := (setDev_only _ _ _).winDrop rfl
@[simp] theorem setDev_pcie_linkUp (new : DevState) (c : Cause) (s : State) :
    (setDev new c s).pcie.linkUp = s.pcie.linkUp := ((setDev_only _ _ _).link rfl).1
@[simp] theorem setDev_pcie_d3hot (new : DevState) (c : Cause) (s : State) :
    (setDev new c s).pcie.d3hot = s.pcie.d3hot := ((setDev_only _ _ _).link rfl).2.1
@[simp] theorem setDev_pcie_bme (new : DevState) (c : Cause) (s : State) : (setDev new c s).pcie.bme = s.pcie.bme :=
  ((setDev_only _ _ _).link rfl).2.2.1
@[simp] theorem setDev_pcie_wiping (new : DevState) (c : Cause) (s : State) :
    (setDev new c s).pcie.wiping = s.pcie.wiping := ((setDev_only _ _ _).link rfl).2.2.2
@[simp] theorem setDev_pcie_maxPayload (new : DevState) (c : Cause) (s : State) :
    (setDev new c s).pcie.maxPayload = s.pcie.maxPayload := ((setDev_only _ _ _).limits rfl).1
@[simp] theorem setDev_pcie_maxReadRequest (new : DevState) (c : Cause) (s : State) :
    (setDev new c s).pcie.maxReadRequest = s.pcie.maxReadRequest := ((setDev_only _ _ _).limits rfl).2
@[simp] theorem setDev_pcie_reply (new : DevState) (c : Cause) (s : State) :
    (setDev new c s).pcie.reply = s.pcie.reply := ((setDev_only _ _ _).reply rfl).1
@[simp] theorem setDev_pcie_latches (new : DevState) (c : Cause) (s : State) :
    (setDev new c s).pcie.latches = s.pcie.latches := ((setDev_only _ _ _).reply rfl).2
@[simp] theorem setDev_pcie_aerUr (new : DevState) (c : Cause) (s : State) :
    (setDev new c s).pcie.aerUr = s.pcie.aerUr := ((setDev_only _ _ _).aer rfl).1
@[simp] theorem setDev_pcie_aerPoison (new : DevState) (c : Cause) (s : State) :
    (setDev new c s).pcie.aerPoison = s.pcie.aerPoison := ((setDev_only _ _ _).aer rfl).2.1
@[simp] theorem setDev_pcie_aerEcrc (new : DevState) (c : Cause) (s : State) :
    (setDev new c s).pcie.aerEcrc = s.pcie.aerEcrc := ((setDev_only _ _ _).aer rfl).2.2.1
@[simp] theorem setDev_pcie_aerTimeout (new : DevState) (c : Cause) (s : State) :
    (setDev new c s).pcie.aerTimeout = s.pcie.aerTimeout := ((setDev_only _ _ _).aer rfl).2.2.2
@[simp] theorem setDev_pcie_msix (new : DevState) (c : Cause) (s : State) :
    (setDev new c s).pcie.msix = s.pcie.msix := (setDev_only _ _ _).msix rfl
@[simp] theorem setDev_lcs (new : DevState) (c : Cause) (s : State) : (setDev new c s).lcs = s.lcs :=
  (setDev_only _ _ _).lcs rfl
@[simp] theorem setDev_dram (new : DevState) (c : Cause) (s : State) : (setDev new c s).dram = s.dram :=
  (setDev_only _ _ _).dram rfl
@[simp] theorem setDev_poison (new : DevState) (c : Cause) (s : State) : (setDev new c s).poison = s.poison :=
  (setDev_only _ _ _).poison rfl
@[simp] theorem setDev_time (new : DevState) (c : Cause) (s : State) : (setDev new c s).time = s.time :=
  (setDev_only _ _ _).time rfl
@[simp] theorem setDev_web (new : DevState) (c : Cause) (s : State) : (setDev new c s).web = s.web :=
  (setDev_only _ _ _).web rfl
@[simp] theorem setDev_axis (new : DevState) (c : Cause) (s : State) : (setDev new c s).axis = s.axis :=
  (setDev_only _ _ _).axis rfl
@[simp] theorem setDev_frames (new : DevState) (c : Cause) (s : State) : (setDev new c s).frames = s.frames :=
  (setDev_only _ _ _).frames rfl
@[simp] theorem setDev_prn (new : DevState) (c : Cause) (s : State) : (setDev new c s).prn = s.prn :=
  (setDev_only _ _ _).prn rfl
@[simp] theorem setDev_fire (new : DevState) (c : Cause) (s : State) : (setDev new c s).fire = s.fire :=
  (setDev_only _ _ _).fire rfl
@[simp] theorem setDev_rein (new : DevState) (c : Cause) (s : State) : (setDev new c s).rein = s.rein :=
  (setDev_only _ _ _).rein rfl
@[simp] theorem setDev_chain (new : DevState) (c : Cause) (s : State) : (setDev new c s).chain = s.chain :=
  (setDev_only _ _ _).chain rfl
@[simp] theorem setDev_tan (new : DevState) (c : Cause) (s : State) : (setDev new c s).tan = s.tan :=
  (setDev_only _ _ _).tan rfl
@[simp] theorem setDev_thm (new : DevState) (c : Cause) (s : State) : (setDev new c s).thm = s.thm :=
  (setDev_only _ _ _).thm rfl
@[simp] theorem setDev_cal (new : DevState) (c : Cause) (s : State) : (setDev new c s).cal = s.cal :=
  (setDev_only _ _ _).cal rfl
@[simp] theorem setDev_scan (new : DevState) (c : Cause) (s : State) : (setDev new c s).scan = s.scan :=
  (setDev_only _ _ _).scan rfl
@[simp] theorem setDev_cam (new : DevState) (c : Cause) (s : State) : (setDev new c s).cam = s.cam :=
  (setDev_only _ _ _).cam rfl
@[simp] theorem setDev_mem (new : DevState) (c : Cause) (s : State) : (setDev new c s).mem = s.mem :=
  (setDev_only _ _ _).mem rfl

@[simp] theorem setDev_dev (new : DevState) (c : Cause) (s : State) : (setDev new c s).top.dev = new :=
  setDevWith_dev _ _ _ _
@[simp] theorem setDev_prev (new : DevState) (c : Cause) (s : State) : (setDev new c s).top.prev = s.top.dev :=
  setDevWith_prev _ _ _ _
@[simp] theorem setDev_cause (new : DevState) (c : Cause) (s : State) : (setDev new c s).top.cause = c :=
  setDevWith_cause _ _ _ _

/-! ### `State.begun` changes slots only -/

theorem State.begun_only (k : Nat) (s : State) : Keeps (fun p => p == .slots) s (s.begun k) := by
  apply State.setSlot_keeps <;> first | rfl | exact Keeps.refl _ _

@[simp] theorem State.begun_pending (s : State) (k : Nat) : (s.begun k).pending = s.pending := (rfl)
@[simp] theorem State.begun_fuse (s : State) (k : Nat) : (s.begun k).fuse = s.fuse := (rfl)
@[simp] theorem State.begun_wall (s : State) (k : Nat) : (s.begun k).wall = s.wall := (rfl)
@[simp] theorem State.begun_uptime (s : State) (k : Nat) : (s.begun k).uptime = s.uptime := (rfl)
@[simp] theorem State.begun_free (s : State) (k : Nat) : (s.begun k).free = s.free := (rfl)
@[simp] theorem State.begun_out (s : State) (k : Nat) : (s.begun k).out = s.out := (rfl)
@[simp] theorem State.begun_top (s : State) (k : Nat) : (s.begun k).top = s.top := (rfl)
@[simp] theorem State.begun_cmd_rings (s : State) (k : Nat) : (s.begun k).cmd.rings = s.cmd.rings := (rfl)
@[simp] theorem State.begun_cmd_rrNext (s : State) (k : Nat) : (s.begun k).cmd.rrNext = s.cmd.rrNext := (rfl)
@[simp] theorem State.begun_cmd_nextId (s : State) (k : Nat) : (s.begun k).cmd.nextId = s.cmd.nextId := (rfl)
@[simp] theorem State.begun_cmd_cpl (s : State) (k : Nat) : (s.begun k).cmd.cpl = s.cmd.cpl := (rfl)
@[simp] theorem State.begun_cmd_evt (s : State) (k : Nat) : (s.begun k).cmd.evt = s.cmd.evt := (rfl)
@[simp] theorem State.begun_cmd_backlog (s : State) (k : Nat) : (s.begun k).cmd.backlog = s.cmd.backlog := (rfl)
@[simp] theorem State.begun_cmd_evtSeq (s : State) (k : Nat) : (s.begun k).cmd.evtSeq = s.cmd.evtSeq := (rfl)
@[simp] theorem State.begun_cmd_lostAll (s : State) (k : Nat) : (s.begun k).cmd.lostAll = s.cmd.lostAll := (rfl)
@[simp] theorem State.begun_cmd_lostFrame (s : State) (k : Nat) : (s.begun k).cmd.lostFrame = s.cmd.lostFrame := (rfl)
@[simp] theorem State.begun_cmd_masked (s : State) (k : Nat) : (s.begun k).cmd.masked = s.cmd.masked := (rfl)
@[simp] theorem State.begun_cmd_bufs (s : State) (k : Nat) : (s.begun k).cmd.bufs = s.cmd.bufs := (rfl)
@[simp] theorem State.begun_cmd_pulls (s : State) (k : Nat) : (s.begun k).cmd.pulls = s.cmd.pulls := (rfl)
@[simp] theorem State.begun_cmd_hostBase (s : State) (k : Nat) : (s.begun k).cmd.hostBase = s.cmd.hostBase := (rfl)
@[simp] theorem State.begun_cmd_hostSize (s : State) (k : Nat) : (s.begun k).cmd.hostSize = s.cmd.hostSize := (rfl)
@[simp] theorem State.begun_cmd_winDrop (s : State) (k : Nat) : (s.begun k).cmd.winDrop = s.cmd.winDrop := (rfl)
@[simp] theorem State.begun_pcie (s : State) (k : Nat) : (s.begun k).pcie = s.pcie := (rfl)
@[simp] theorem State.begun_lcs (s : State) (k : Nat) : (s.begun k).lcs = s.lcs := (rfl)
@[simp] theorem State.begun_dram (s : State) (k : Nat) : (s.begun k).dram = s.dram := (rfl)
@[simp] theorem State.begun_poison (s : State) (k : Nat) : (s.begun k).poison = s.poison := (rfl)
@[simp] theorem State.begun_hostMem (s : State) (k : Nat) : (s.begun k).hostMem = s.hostMem := (rfl)
@[simp] theorem State.begun_time (s : State) (k : Nat) : (s.begun k).time = s.time := (rfl)
@[simp] theorem State.begun_web (s : State) (k : Nat) : (s.begun k).web = s.web := (rfl)
@[simp] theorem State.begun_axis (s : State) (k : Nat) : (s.begun k).axis = s.axis := (rfl)
@[simp] theorem State.begun_frames (s : State) (k : Nat) : (s.begun k).frames = s.frames := (rfl)
@[simp] theorem State.begun_prn (s : State) (k : Nat) : (s.begun k).prn = s.prn := (rfl)
@[simp] theorem State.begun_fire (s : State) (k : Nat) : (s.begun k).fire = s.fire := (rfl)
@[simp] theorem State.begun_rein (s : State) (k : Nat) : (s.begun k).rein = s.rein := (rfl)
@[simp] theorem State.begun_chain (s : State) (k : Nat) : (s.begun k).chain = s.chain := (rfl)
@[simp] theorem State.begun_tan (s : State) (k : Nat) : (s.begun k).tan = s.tan := (rfl)
@[simp] theorem State.begun_thm (s : State) (k : Nat) : (s.begun k).thm = s.thm := (rfl)
@[simp] theorem State.begun_cal (s : State) (k : Nat) : (s.begun k).cal = s.cal := (rfl)
@[simp] theorem State.begun_scan (s : State) (k : Nat) : (s.begun k).scan = s.scan := (rfl)
@[simp] theorem State.begun_cam (s : State) (k : Nat) : (s.begun k).cam = s.cam := (rfl)
@[simp] theorem State.begun_mem (s : State) (k : Nat) : (s.begun k).mem = s.mem := (rfl)

/-! ### Commands (R31, R53, R55, R63) -/

/-- A slot that holds no such command ready to start is left alone. -/
theorem runCmd_idle (op k : Nat) (c : Checks) (body : Nat → Slot → State → State) (s : State)
    (h : s.startable op k = false) : runCmd op k c body s = .next s := by
  simp [runCmd, h]

/-- A command that starts and fails a check completes with the status of the first check that fails. -/
theorem runCmd_rejected (op k : Nat) (c : Checks) (body : Nat → Slot → State → State) (s : State) (st det : Nat)
    (h : s.startable op k = true) (hf : firstFailure c (s.slot k) s = some (st, det)) :
    runCmd op k c body s = .next (complete k st det 0 none (s.begun k)) := by
  simp [runCmd, h, hf, State.begun]

/-- An accepted command has its effect. -/
theorem runCmd_accepted (op k : Nat) (c : Checks) (body : Nat → Slot → State → State) (s : State) (h : Accepted op c k s) :
    runCmd op k c body s = .next (body k (s.slot k) (s.begun k)) := by
  simp [runCmd, h.startable, h.checks, h.clean, State.begun]

/-- A read of a slot just written gives what was written. -/
theorem State.slot_setSlot (s : State) (k : Nat) (d : Slot) : (s.setSlot k d).slot k = d := Tab.get_put_same _ _ _ _

/-- The command in a begun slot. -/
theorem State.begun_slot (s : State) (k : Nat) : (s.begun k).slot k = { s.slot k with phase := .executing } := State.slot_setSlot _ _ _

/-- R55: a completion that writes a record adds it to those that wait for the command's ring. -/
theorem completeRaw_record (k st det res : Nat) (f : Option FrameNo) (s : State)
    (h : ((s.slot k).quiet && st == St.ok) = false) :
    ((completeRaw k st det res f s).cplRing ((s.slot k).cplRing % 8)).waiting =
      (s.cplRing ((s.slot k).cplRing % 8)).waiting ++
        [{ slot := k, id := (s.slot k).id, seq := (s.slot k).seq, opcode := (s.slot k).opcode, status := st
           ring := (s.slot k).ring, detail := det, index := (s.slot k).index, frame := f, time := s.time.now
           result := res }] := by
  simp only [completeRaw, h, Bool.false_eq_true, if_false]
  show (Tab.get {} (Tab.put {} s.cmd.cpl _ _) _).waiting = _
  rw [Tab.get_put_same]

/-- Records that wait keep waiting when another command completes. -/
theorem completeRaw_waits (k st det res : Nat) (f : Option FrameNo) (s : State) (n : Nat) (c : CplRec)
    (h : c ∈ (s.cplRing n).waiting) : c ∈ ((completeRaw k st det res f s).cplRing n).waiting := by
  by_cases hq : ((s.slot k).quiet && st == St.ok) = true
  · simp only [completeRaw, hq, if_true]
    exact h
  · by_cases hn : n = (s.slot k).cplRing % 8
    · subst hn
      have e := completeRaw_record k st det res f s (by simpa using hq)
      rw [e]
      exact List.mem_append_left _ h
    · simp only [completeRaw, hq, Bool.false_eq_true, if_false]
      show c ∈ (Tab.get {} (Tab.put {} s.cmd.cpl _ _) _).waiting
      rw [Tab.get_put_ne _ _ _ _ _ hn]
      exact h

theorem sweepBad_waits (i : Nat) (s : State) (n : Nat) (c : CplRec) (h : c ∈ (s.cplRing n).waiting) :
    c ∈ ((sweepBad i s).cplRing n).waiting := by
  induction i generalizing s with
  | zero => exact h
  | succ i ih =>
    simp only [sweepBad]
    split
    · exact h
    · exact ih _ (completeRaw_waits _ _ _ _ _ _ _ _ h)

/-- R55: a completion of the command that stood in slot `k` of `r` and stands in it still. -/
theorem complete_completed (r : State) (k st det res : Nat) (f : Option FrameNo) (s : State)
    (h : s.slot k = { r.slot k with phase := .executing }) : Completed k r (complete k st det res f s) st det res := by
  by_cases hq : ((r.slot k).quiet && st == St.ok) = true
  · simp only [Bool.and_eq_true, beq_iff_eq] at hq
    exact .inl hq
  · refine .inr ⟨{ slot := k, id := (s.slot k).id, seq := (s.slot k).seq, opcode := (s.slot k).opcode, status := st
                   ring := (s.slot k).ring, detail := det, index := (s.slot k).index, frame := f, time := s.time.now
                   result := res }, ?_, ?_⟩
    · have e : (s.slot k).quiet = (r.slot k).quiet := by rw [h]; rfl
      have e' : (s.slot k).cplRing = (r.slot k).cplRing := by rw [h]; rfl
      refine sweepBad_waits _ _ _ _ ?_
      rw [← e', completeRaw_record _ _ _ _ _ _ (by rw [e]; simpa using hq)]
      exact List.mem_append_right _ (List.mem_singleton.mpr rfl)
    · rw [h]
      exact ⟨rfl, rfl, rfl, rfl, rfl, rfl, rfl⟩

/-! ### Checks (R31, R539) -/

@[simp] theorem need_none (b : Bool) (off rsn : Nat) : need b off rsn = none ↔ b = true := by
  unfold need
  split <;> simp_all

@[simp] theorem inR_none (off v lo hi : Nat) : inR off v lo hi = none ↔ lo ≤ v ∧ v ≤ hi := by
  simp [inR]

@[simp] theorem rz_none (off v : Nat) : rz off v = none ↔ v = 0 := by
  simp [rz]

theorem lowest_none (l : List PF) : lowest l = none ↔ ∀ a ∈ l, a = none := by
  induction l with
  | nil => simp [lowest]
  | cons a t ih =>
    cases a with
    | none => simpa [lowest] using ih
    | some x =>
      simp only [lowest]
      split
      · simp
      · split <;> simp

/-- No check of an accepted command finds a fault among its parameters. -/
theorem firstFailure_none (c : Checks) (d : Slot) (s : State) (h : firstFailure c d s = none) :
    c.allowed d s = true ∧ c.selector d s = none ∧ ∀ a ∈ headerFaults d ++ c.params d s, a = none := by
  unfold firstFailure at h
  repeat' first | (split at h) | (cases h; done)
  rename_i ha _ _ e
  cases hs : c.selector d s with
  | some x => simp [firstOf, hs] at e
  | none =>
    cases hl : lowest (headerFaults d ++ c.params d s) with
    | some x => simp [firstOf, hs, hl] at e
    | none => exact ⟨by simpa using ha, rfl, (lowest_none _).mp hl⟩

end Sys2Proof.Machine
end

