-- ==== Sys2Proof/Machine/Pins.lean ====
section
/-! DEFINITION. The levels at the balls in every device state (R460, R520, R524, R525), and the junction temperature (R529). They are
read off the state; no step uses them. -/

namespace Sys2Proof.Machine

/-- R523, R524: what a ball shows: a driven level, the weak pull-down with the output off, or nothing driven. -/
inductive PinLevel where
  | low | high | pullDown | released
  deriving DecidableEq, Repr

/-- A driven level. -/
def pinLevel (up : Bool) : PinLevel := if up then .high else .low

/-- The device states in which the outputs follow their units (R524). -/
def State.pinsLive (s : State) : Bool :=
  match s.top.dev with
  | .idle | .armed | .run | .halter | .fault => true
  | .reset | .boot | .tripped => false

/-- R524: THERM_TRIP_N is open drain. -/
def State.thermTripPin (s : State) : PinLevel := if s.top.dev = .tripped then .low else .released

/-- R91, R447, R524: SLOW_REQ. -/
def State.slowReqPin (s : State) : PinLevel := pinLevel s.slowReq

/-- R450, R524: STOP_REQ. -/
def State.stopReqPin (s : State) : PinLevel := pinLevel s.stopReqLevel

/-- R460, R524: TANDEM_ALIVE_OUT. -/
def State.alivePin (s : State) : PinLevel := pinLevel s.aliveLevel

/-- R520, R524, R525: HPENn. -/
def State.hpenPin (s : State) (n : Nat) : PinLevel :=
  if s.hpenBalls ≤ n then .released
  else if s.top.dev = .reset ∨ s.top.dev = .boot then .pullDown
  else pinLevel (bitAt s.hpenLevel n)

/-- R393, R520, R524: MFIOn: in TRIPPED its output is held inactive. -/
def State.mfioPin (s : State) (n : Nat) : PinLevel :=
  if s.fuse.part.mfio ≤ n then .released
  else if s.top.dev = .tripped then
    match s.thm.tripPins.find? fun e => e.1 == n with
    | some e => pinLevel e.2
    | none => .released
  else if !s.pinsLive then .pullDown
  else
    match s.time.trigs.find? fun e => e.2.pin == n with
    | some e => pinLevel (e.2.level e.2.active)
    | none => .released

/-- R302, R524: STROBEb. -/
def State.strobePin (s : State) (b : Nat) : PinLevel :=
  let x : Strobe := Tab.get {} s.cam.strobes b
  pinLevel (s.pinsLive && s.top.dev != .fault && x.pulses.any fun p => decide (p.1 ≤ s.time.now) && decide (s.time.now < p.2))

/-- The axis that has step output `k`. -/
def State.stepAxis (s : State) (k : Nat) : Option Axis :=
  ((s.axis.axes.find? fun e => e.2.cfg.given && !e.2.cfg.bus && e.2.cfg.index == k)).map (·.2)

/-- R354, R374, R524: a signal of step output `k`: pulled down in RESET and BOOT, low in TRIPPED. -/
def State.stepSignal (s : State) (k : Nat) (f : Axis → Bool) : PinLevel :=
  if s.top.dev = .tripped then .low
  else if !s.pinsLive then .pullDown
  else pinLevel (((s.stepAxis k).map f).getD false)

/-- R354, R524: SDk_STEP. -/
def State.stepPin (s : State) (k : Nat) : PinLevel :=
  s.stepSignal k fun x => match x.stepRise with
    | some r => decide (s.uptime < r + x.cfg.stepWidth)
    | none => false

/-- R354, R524: SDk_DIR. -/
def State.dirPin (s : State) (k : Nat) : PinLevel := s.stepSignal k fun x => x.dirNeg != x.cfg.invert

/-- R354, R524: SDk_EN has no polarity until its axis is configured. -/
def State.enPin (s : State) (k : Nat) : PinLevel :=
  if s.top.dev = .tripped then
    match s.thm.tripEn.find? fun e => e.1 == k with
    | some e => pinLevel e.2
    | none => .pullDown
  else
    match (if s.pinsLive then s.stepAxis k else none) with
    | some x => pinLevel (x.enabled != x.cfg.enLow)
    | none => .pullDown

/-- R356, R524: AXBn_TX while no frame is sent. -/
def State.axbTxIdle (s : State) (n : Nat) : PinLevel := if n < s.fuse.part.axisBuses then .high else .released

/-- R356, R524: AXBn_DE while no frame is sent. -/
def State.axbDeIdle (s : State) (n : Nat) : PinLevel := if n < s.fuse.part.axisBuses then .low else .released

/-- R81, R524: FBn_A: the clock of an SSI read, which idles high and falls first (DESIGN CHOICE, log 73); else an input. -/
def State.fbAPin (s : State) (n : Nat) : PinLevel :=
  let c := s.chan n
  if c.mode ≠ .ssi ∨ s.top.dev = .reset ∨ s.top.dev = .boot then .released
  else if !s.pinsLive || s.top.dev == .fault then .high
  else
    match c.ssiStart with
    | none => .high
    | some t =>
      let halves := (s.time.now - t) * c.ssiClock / 500000
      pinLevel (decide (2 * c.ssiBits ≤ halves) || halves % 2 == 1)

/-- R451, R520, R524: the transmitter of Rein link `l` is not in electrical idle. -/
def State.reinDriven (s : State) (l : Nat) : Bool :=
  s.fuse.part.hasLink l && (s.pinsLive || (s.top.dev == .tripped && decide (s.uptime ≤ 22000)))

/-- R529: the junction temperature Tj: the highest valid reading of on-die sensors 0 to 23, in 1/16 °C. -/
def State.tj (s : State) : Option Int := highest ((List.range 24).filterMap fun n => s.sensorVal (0x100 + n))

end Sys2Proof.Machine
end

