-- ==== Sys2Proof/WellFormed.lean ====
section
/-! DEFINITION. Which commands name things the LZ9 has: execution slots (R51), rings (R47), BAR0 offsets (R39, R40), and the
instances of each block (R26, R27, R33). -/

namespace Sys2Proof

/-- An execution slot (R51). -/
def slotOk (k : Nat) : Bool := decide (k < 128)

/-- A byte offset of a register of BAR0 (R39, R40). -/
def regOk (off : Nat) : Bool := decide (off < 2 ^ 24) && off % 4 == 0

/-- Bytes that lie in the largest exchange window (R45, R504). -/
def windowOk (offset len : Nat) : Bool := decide (offset + len ≤ 4 * 2 ^ 30)

/-- A CSI-2 packet's port, virtual channel and ECC verdict (R300, R304): 0 correct, 1 corrected, 2 uncorrectable. -/
def csiOk (port vc ecc : Nat) : Bool := decide (port < 4) && decide (vc < 16) && decide (ecc < 3)

/-- A CAL_ID of the table of calibrations (R323). -/
def calIdOk (id : Nat) : Bool :=
  (decide (1 ≤ id) && decide (id ≤ 5)) || (id % 256 == 6 && decide (id < 0x400)) || (id % 256 == 7 && decide (id < 0x2200))

/-- A command names an instance the die has, and its operands fit their fields. -/
def Instr.wf : Instr → Bool
  | .powerOn _ | .porstAssert _ | .sysrstAssert | .resetRelease _ | .bootImageVerified _ | .ready | .internalReset => true
  | .watchdogExpiry | .dieTrip _ | .tripHoldExpiry | .flr | .hotReset | .pcieLinkDown | .d3hotEntry | .bar0BadAccess _ => true
  | .clockFault ref => decide (ref < 3)
  | .bootDdrTrained ch _ _ => decide (ch < 4)
  | .bar2Write offset bytes => windowOk offset bytes.length
  | .bar2Read offset len => windowOk offset len
  | .registerWrite off _ | .readClear off | .latchedLoRead off | .w1cWrite off _ => regOk off
  | .hpenCtrlWrite _ | .descriptorFetch | .evtRingEnable _ | .evtRingDisable _ | .evtRingConfig _ | .evtPtrHeadWrite _ => true
  | .eventBacklogDrain => true
  | .capPop c _ => decide (c < 16)
  | .cmdRingEnable n _ | .cmdRingDisable n _ | .cmdRingResize n _ | .crDoorbell n _ => decide (n < 8)
  | .cplRingEnable n _ | .cplRingDisable n _ | .cplRingConfig n _ | .cplPtrHeadWrite n _ => decide (n < 8)
  | .completionRecordWrite n => decide (n < 8)
  | .coalesceTimerExpiry n => decide (n ≤ 8)
  | .sysNop k | .sysQuery k | .sysSetMode k | .sysPull k | .sysHalter k | .sysResume k | .sysBufDefine k => slotOk k
  | .sysBufFree k | .sysEventMask k | .webConfig k | .webBarOffset k | .webLimits k | .webRereference k | .webQuery k => slotOk k
  | .prnJobOpen k | .prnLayerBind k | .prnToneLoad k | .prnScreenLoad k | .prnCommit k | .prnJobClose k | .prnAbort k => slotOk k
  | .fireMapLoad k | .fireMaskLoad k | .fireNozzleState k | .fireTiming k | .fireSpitConfig k => slotOk k
  | .reinLinkState k | .reinEnumerate k | .reinNodeRead k | .reinNodeWrite k => slotOk k
  | .lfrSceneBind k | .lfrRaymapLoad k | .lfrEmitterCalLoad k | .lfrLutLoad k => slotOk k
  | .scanTiming k | .scanCommit k | .scanPowerPolicy k | .scanSplitConfig k => slotOk k
  | .camContext k | .camSettings k | .camOutput k | .camStart k | .camStop k => slotOk k
  | .calTargets k | .calRun k | .calPolicy k | .calQuery k => slotOk k
  | .axisConfig k | .axisHome k | .axisMove k | .axisGroupMove k | .axisStop k => slotOk k
  | .timePortConfig k | .timeTrigger k | .timeCapture k | .timeHitch k => slotOk k
  | .memQos k | .memErrorPolicy k | .memRetrain k | .memQuery k | .thmThresholds k | .thmZoneMap k | .thmAck k => slotOk k
  | .tanConfig k | .tanDrill k | .tanRelease k | .lcsChallenge k | .lcsResponse k | .lcsOtpWrite k | .lcsTransition k => slotOk k
  | .hostReadCompletion k _ _ => slotOk k
  | .enumCollectExpiry k _ _ => slotOk k
  | .encoderEdge ch _ _ _ | .hallEdge ch _ _ _ _ | .indexEvent ch _ _ | .indexMissing ch | .ssiReadDone ch _ => decide (ch < 8)
  | .standstillTimeout ch => decide (ch < 8)
  | .webCheckSpan | .regDoubtEnd | .gaitEval | .frameCutoff => true
  | .purgeDone bar | .bandFetchPoint bar => decide (bar < 16)
  | .bandDispatch engine | .bandRenderEnd engine => decide (engine < 16)
  | .contentCheckDone _ handle => decide (handle < 4096)
  | .frameComplete _ | .frameRecord _ | .splitWaitExpiry _ => true
  | .adaptationDone link _ | .adaptationTimeout link | .blockLockLost link => decide (link < 32)
  | .ctrlRespRx link _ | .statusFrameRx link _ => decide (link < 32)
  | .bankWriteStart node | .lastTickTimeout node | .nodeSilent node | .halterRepeat node => decide (node < 256)
  | .ctrlRetryTimeout node tag => decide (node < 256) && decide (tag < 256)
  | .nodeDownstreamFrame node _ _ | .nodeCtrlReq node _ _ | .nodeTick node _ _ _ | .nodeHalterBlock node _ _ => decide (node < 256)
  | .nodeRunBlock node _ _ | .nodeEcho node _ _ | .nodeLinkLoss node _ => decide (node < 256)
  | .nodeStatusTimer node _ _ _ _ _ _ | .nodeKeepWarmIdle node => decide (node < 256)
  | .rowTick _ | .splitReadyRx _ => true
  | .csiFrameStart port vc ecc _ => csiOk port vc ecc
  | .csiLinePacket port vc dt _ ecc _ => csiOk port vc ecc && decide (dt < 64)
  | .camFrameDone port vc ecc => csiOk port vc ecc
  | .scriptWriteStart port | .scriptWriteDone port _ => decide (port < 4)
  | .strobeEnd band => decide (band < 6)
  | .calRunStart calId | .calPeriodicTimer calId | .calComputeDone calId _ _ _ _ | .calTimeout calId => calIdOk calId
  | .calSettleExpiry calId => calIdOk calId
  | .axisBusReply bus _ _ | .axisReplyWindowEnd bus _ => decide (bus < 2)
  | .switchChange axis input _ => decide (axis < 16) && decide (input < 3)
  | .triggerFire unit _ | .triggerPulseEnd unit => decide (unit < 16)
  | .captureEdge source index _ _ =>
    (source == 1 && decide (index < 64)) || (source == 2 && decide (index < 24))
  | .ptpMessageRx port _ _ | .arpRequestRx port _ _ _ | .announceReceiptTimeout port => decide (port < 2)
  | .ptpTransmitInterval port | .pcsLinkChange port _ => decide (port < 2)
  | .syncTimeout | .hitchHelloTimer | .hitchHelloRx _ | .proposeRx _ | .proposeRepeat | .decideRx _ | .abortRx _ => true
  | .hitchWaitExpiry _ | .hitchCommitTimeout | .webSampleTimer | .webSampleRx _ => true
  | .hitchPresenceTimeout member => decide (member < 16)
  | .memGrant ch _ | .correctedRewrite ch | .patrolScrubRead ch _ | .scrubLate ch | .neighbourRefresh ch => decide (ch < 4)
  | .refreshDue ch _ | .mr4Read ch _ | .feedWindowEnd ch | .trainingStepDone ch _ _ _ | .trainingStepAbandon ch => decide (ch < 4)
  | .rateChangeStart ch | .rateChangeDone ch _ | .refreshWindowEnd ch => decide (ch < 4)
  | .parityAlert ch sub _ passed => decide (ch < 4) && decide (sub < 2) && decide (passed ≤ 32)
  | .levelChange zone threshold => decide (zone < 16) && decide (1 ≤ threshold) && decide (threshold ≤ 3)
  | .rateOver zone | .throttleLevelStep zone => decide (zone < 16)
  | .throttleGraceExpiry bar => decide (bar < 16)
  | .sensorState code => decide (code < 0x600)
  | .orderlyStopTargetHalt target => decide (target < 18)
  | .heartbeatTimer | .heartbeatRx _ | .tandemAliveEdge | .tandemAliveToggle | .drillRx _ | .takeoverCheck _ => true
  | .takeoverBanksWritten | .tandemPartnerLost => true
  | .calMirrorRx _ _ _ => true
  | .drillTimeout node => decide (node < 256)
  | .nonceExpiry | .pushChunk _ | .pushFinalChunk _ | .pushProvisionalRecord _ | .jtagCoreDebug | .jtagLcsMailbox _ => true
  | .pushApertureWrite off _ => decide (off < 0x80000) && off % 4 == 0
  | .jtagBoundaryScan instr => decide (instr < 6)
  | .busMasterEnableWrite _ | .pcieLinkUp | .flrWipeDone => true

end Sys2Proof
end

