-- ==== Sys2Proof/Tests/Slice0.lean ====
section
/-! SUPPORT. Named tests: the smoke test of WellFormed, and for each statement of the obligations states that meet the
hypotheses of its clauses, with what the command does there. -/

namespace Sys2Proof.Tests

set_option Elab.async false

open Sys2Proof Sys2Proof.Machine

/-! ### Small states -/

/-- A descriptor: an opcode and fields as byte offset and value. -/
def desc (op : Nat) (fs : List (Nat × Nat)) : BitVec 512 :=
  BitVec.ofNat 512 (fs.foldl (fun a f => a + f.2 * 2 ^ (8 * f.1)) op)

/-- The state with that descriptor fetched into slot 0 from ring 1. -/
def cmd (op : Nat) (fs : List (Nat × Nat)) (s : State) : State :=
  s.setSlot 0 { phase := .fetched, id := 1, ring := 1, raw := desc op fs }

/-- A part in IDLE with its link up. -/
def idle : State :=
  { State.reset with
    uptime := 1000000000, top := { dev := .idle, prev := .boot }, pcie := { linkUp := true, bme := true }
    lcs := { imageOk := true, slotA := 1 } }

/-- A part in device state `d` with mode `m` selected. -/
def dev (d : DevState) (m : Mode) : State := { idle with top := { dev := d, prev := .idle, mode := m } }

/-- A part in ARMED for print, and for light-field. -/
def prn : State := dev .armed .print
/-- A part in ARMED for light-field. -/
def lf : State := dev .armed .lightfield

/-- The hypothesis `Accepted`, as a test. -/
def acc (op : Nat) (c : Checks) (k : Nat) (s : State) : Bool :=
  s.startable op k && (firstFailure c (s.slot k) s).isNone &&
    !((c.reads (s.slot k) s).any fun r => s.poisoned ((s.buf r.1).base + r.2.1) r.2.2)

theorem accepted_of_acc {op k : Nat} {c : Checks} {s : State} (h : acc op c k s = true) : Accepted op c k s := by
  simp only [acc, Bool.and_eq_true, Option.isNone_iff_eq_none, Bool.not_eq_true'] at h
  exact ⟨h.1.1, h.1.2, h.2⟩

/-- The conclusion `Completed`, as a test. -/
def fin (k : Nat) (s t : State) (st det res : Nat) : Bool :=
  (t.cplRing ((s.slot k).cplRing % 8)).waiting.any fun c =>
    c.slot == k && c.id == (s.slot k).id && c.seq == (s.slot k).seq && c.opcode == (s.slot k).opcode && c.status == st &&
      c.detail == det && c.result == res

/-- The command ends in a next state with this property. -/
def gives (i : Instr) (s : State) (p : State → Bool) : Bool :=
  match exec i s with
  | .next t => p t
  | _ => false

/-- The hypothesis `Queues`, as a test. -/
def que (s : State) (src code : Nat) : Bool :=
  !s.evtMasked src code && !s.beforeReady && !s.cmd.evt.enable && decide (backlogRecords s.cmd.backlog + 4 ≤ 4096)

/-- The conclusion `Waits`, as a test. -/
def waits (t : State) (src code : Nat) (data : List Byte) : Bool :=
  t.cmd.backlog.any fun e => e.source == src && e.code == code && e.data == data

/-- A command with its fields in slot 0 of a state is accepted, meets `h`, and its row gives `p`. -/
def ran (op : Nat) (c : Checks) (i : Instr) (fs : List (Nat × Nat)) (b : State) (h : State → Bool) (p : State → State → Bool) :
    Bool :=
  let s := cmd op fs b
  acc op c 0 s && h s && gives i s (p s)

/-- A state meets `h`, and the command gives `p` there. -/
def met (i : Instr) (s : State) (h : State → Bool) (p : State → State → Bool) : Bool := h s && gives i s (p s)

/-- The states agree in everything but the fuses. -/
def same (s t : State) : Bool :=
  t.pending == s.pending && t.uptime == s.uptime && t.wall == s.wall && t.free == s.free && t.out == s.out && t.top == s.top &&
    t.cmd == s.cmd && t.pcie == s.pcie && t.lcs == s.lcs && t.dram == s.dram && t.poison == s.poison && t.hostMem == s.hostMem &&
    t.time == s.time && t.web == s.web && t.axis == s.axis && t.frames == s.frames && t.prn == s.prn && t.fire == s.fire &&
    t.rein == s.rein && t.chain == s.chain && t.tan == s.tan && t.thm == s.thm && t.cal == s.cal && t.scan == s.scan &&
    t.cam == s.cam && t.mem == s.mem

/-- A state meets `h`, and the command leaves it as it is. -/
def still (i : Instr) (s : State) (h : State → Bool) : Bool := h s && gives i s (same s)

/-- The outcome of a step is a next state with this property. -/
def steps (s : State) (p : State → Bool) : Bool :=
  match step s with
  | .next t => p t
  | _ => false

/-- Every item holds. -/
def all (l : List Bool) : Bool := l.all id

/-! ### WellFormed -/

theorem test_well_formed_refuses :
    [Instr.clockFault 3, .bootDdrTrained 4 [] 0, .bar2Write (4 * 2 ^ 30) [0], .bar2Read (4 * 2 ^ 30) 1, .registerWrite 2 0, .readClear (2 ^ 24),
      .latchedLoRead 1, .w1cWrite 3 0, .capPop 16 0, .cmdRingEnable 8 0, .cplRingDisable 8 0, .completionRecordWrite 8,
      .coalesceTimerExpiry 9, .sysNop 128, .prnCommit 128, .tanRelease 128, .hallEdge 8 false false false 0, .indexEvent 8 true 0, .purgeDone 16,
      .bandRenderEnd 16, .contentCheckDone 0 4096, .blockLockLost 32, .nodeSilent 256, .ctrlRetryTimeout 0 256, .nodeKeepWarmIdle 256,
      .csiFrameStart 4 0 0 false, .csiFrameStart 0 16 0 false, .csiFrameStart 0 0 3 false, .csiLinePacket 0 0 64 [] 0 true, .scriptWriteStart 4, .strobeEnd 6,
      .calRunStart 0, .calTimeout 0x406, .calSettleExpiry 0x2207, .axisReplyWindowEnd 2 0, .switchChange 0 3 false, .triggerPulseEnd 16,
      .captureEdge 1 64 false 0, .captureEdge 2 24 false 0, .captureEdge 3 0 false 0, .ptpTransmitInterval 2, .hitchPresenceTimeout 16,
      .correctedRewrite 4, .parityAlert 0 2 false 0, .parityAlert 0 0 false 33, .levelChange 0 0, .levelChange 0 4, .rateOver 16,
      .throttleGraceExpiry 16, .sensorState 0x600, .orderlyStopTargetHalt 18, .drillTimeout 256, .pushApertureWrite 0x80000 0, .pushApertureWrite 1 0,
      .jtagBoundaryScan 6].all (fun c => !c.wf) = true := by
  decide +kernel

theorem test_well_formed_admits :
    [Instr.clockFault 2, .bar2Write (4 * 2 ^ 30 - 1) [0], .registerWrite (2 ^ 24 - 4) 0, .sysNop 127, .coalesceTimerExpiry 8, .calRunStart 0x2107,
      .calTimeout 0x306, .captureEdge 2 23 true 0, .levelChange 15 3, .parityAlert 3 1 true 32].all Instr.wf = true := by
  decide +kernel

/-- No row of the opcode table gives a command bits. -/
theorem test_no_word_spells_a_command : decodeTableWord 32 0x12345678 = none := by decide

/-! ### The block as a whole -/

theorem test_StepRunsFrontCommand :
    all [steps { idle with pending := [.tandemAliveEdge, .flr] } fun t =>
      t.pending == [.flr] && t.tan.aliveAt == some 1000000000] = true := by
  decide +kernel

theorem test_IdleStepIsOneCycle :
    all [steps idle fun t => t.uptime == 1000000001 && t.wall == 1 && t.time.now == 1,
      steps State.reset fun t => t.uptime == 1 && t.wall == 1 && t.time == State.reset.time,
      steps { idle with time := { rateAdj := -549755814, sub := 5 } } fun t =>
        t.time.now == 0 && t.time.sub == 2 ^ 40 + 5 - 549755814] = true := by
  decide +kernel

theorem test_OtpOnlyGains :
    all [met .nonceExpiry { idle with lcs := { blank := true, secured := true, records := [[1]], rollback := 3 } } (fun _ => true)
      fun s t => t.lcs == s.lcs,
      ran 0x0F02 lcsOtpWriteChecks (.lcsOtpWrite 0) [(8, 2)] { idle with lcs := { rollback := 1, fwRollback := 3 } } (fun _ => true)
        fun _ t => t.lcs.rollback == 3] = true := by
  decide +kernel

theorem test_CommandsKeepQueueAndFuses :
    all [met (.bar2Write 5 [1, 2]) { idle with pending := [.flr], wall := 7 } (fun _ => true) fun s t => t.pending == s.pending && t.wall == 7 &&
      t.fuse.part == s.fuse.part] = true := by
  decide +kernel

theorem test_StepKeepsMemoryCanonical :
    (idle.dram.wf ∧ idle.hostMem.wf) ∧
      steps { idle with pending := [.bar2Write 5 [1, 0, 2]] } (fun t => t.dram == [(5, 1), (7, 2)]) = true := by
  decide +kernel

theorem test_StepKeepsModeLegal :
    (idle.fuse.part.print = true ∧ idle.fuse.part.lightfield = true) ∧
      steps { prn with pending := [.tandemAliveEdge] } (fun t => t.top.mode == .print) = true := by
  decide +kernel

theorem test_FaultLeftByResetAlone :
    all [met (.porstAssert 0) (dev .fault .print) (fun s => s.top.dev == .fault) fun _ t => t.top.dev == .reset,
      met (.dieTrip 2000) (dev .fault .print) (fun s => s.top.dev == .fault) fun _ t => t.top.dev == .tripped,
      met (.sysResume 0) (cmd 0x0105 [] (dev .fault .none)) (fun s => s.startable 0x0105 0) fun s t => fin 0 s t 0x12 6 0,
      met (.sysHalter 0) (cmd 0x0104 [] idle) (fun s => s.startable 0x0104 0) fun s t => fin 0 s t 0x12 2 0,
      met (.sysHalter 0) (cmd 0x0104 [] (dev .boot .none)) (fun s => s.startable 0x0104 0) fun s t => fin 0 s t 0x12 1 0,
      [DevState.boot, .idle, .halter, .fault].all fun d => [Instr.flr, .hotReset, .d3hotEntry, .pcieLinkDown].all fun c =>
        gives c (dev d .none) fun t => t.top.dev == d] = true := by
  decide +kernel

/-! ### Registers, the window, rings and records -/

theorem test_RegistersPinsAndWindow :
    all [met (.registerWrite 0x102080 0x5000) idle (fun s => s.blocksAnswer && !(s.cplRing 2).enable) fun _ t =>
        (t.cplRing 2).base == 0x5000,
      still (.registerWrite 0x300010 7) idle fun _ => true,
      met (.w1cWrite 0x200140 0x10) (idle.setChan 1 { illegal := true, overrate := true }) (fun s => s.blocksAnswer) fun _ t =>
        !(t.chan 1).illegal && (t.chan 1).overrate,
      met (.readClear 0x48) { idle with top := { idle.top with conflicts := 3, lastDword := 9 } } (fun s => s.topAnswers) fun _ t =>
        t.pcie.reply == .bar0 0x48 (3 + 1024 * 9) && t.top.conflicts == 0 && t.top.lastDword == 9,
      met (.latchedLoRead 0xB00008) { idle with time := { now := 2 ^ 40 + 7 } } (fun s => s.blocksAnswer) fun _ t =>
        t.pcie.reply == .bar0 0xB00008 7 && Tab.get 0 t.pcie.latches 0xB0000C == 256,
      exec (.registerWrite (2 ^ 24) 0) idle matches .fault .noAddress, exec (.w1cWrite (2 ^ 24) 0) idle matches .fault .noAddress,
      exec (.readClear (2 ^ 24)) idle matches .fault .noAddress, exec (.latchedLoRead (2 ^ 24)) idle matches .fault .noAddress,
      [Instr.registerWrite 0x102080 0x5000, .w1cWrite 0x200140 0x10, .readClear 0x48, .latchedLoRead 0xB00008, .capPop 15 1, .hpenCtrlWrite 1,
        .bar2Read 0 1, .bar2Write 0 [1]].all fun c => still c (dev .reset .none) fun s => !s.topAnswers && !s.blocksAnswer,
      still (.capPop 15 2) (idle.setCap 15 { fifo := [(1, 2), (3, 4)] }) fun s => s.blocksAnswer,
      still (.hpenCtrlWrite 5) { idle with lcs := { idle.lcs with retired := true } } fun s => s.topAnswers,
      met (.hpenCtrlWrite 0xFFFFF) idle (fun s => s.topAnswers && s.fuse.part.pkgA) fun _ t => t.top.hpen == 0xFFFF,
      met (.capPop 15 1) (idle.setCap 15 { fifo := [(1, 2), (3, 4)] }) (fun s => s.blocksAnswer) fun _ t =>
        (t.cap 15).fifo == [(3, 4)],
      met (.bar2Read 0x1FFFFF 1) { idle with dram := [(0x1FFFFF, 9)] } (fun s => s.blocksAnswer) fun _ t =>
        t.pcie.reply == .bar2 0x1FFFFF [9] false,
      met (.bar2Read 0x240000 2) { idle with dram := [(0x240000, 9)] } (fun s => s.blocksAnswer) fun _ t =>
        t.pcie.reply == .bar2 0x240000 [0, 0] false,
      met (.bar2Read 64 2) { idle with dram := [(65, 9)], poison := [(1, true)] } (fun s => s.poisoned 64 2) fun s t =>
        t.pcie.reply == .bar2 64 [0, 9] true && t.dram == s.dram && t.poison == s.poison,
      met (.bar2Read 0x23FFC0 64) (idle.setBuf 4095 { size := 77 }) (fun s => (s.buf 4095).bytes.getD 8 0 == 77) fun s t =>
        t.pcie.reply == .bar2 0x23FFC0 ((List.range 64).map fun i => ((s.buf 4095).bytes).getD i 0) false,
      met (.bar2Read (2 ^ 31 - 1) 1) idle (fun s => s.blocksAnswer) fun _ t => t.pcie.reply == .bar2 (2 ^ 31 - 1) [0] false,
      exec (.bar2Read (2 ^ 31) 1) idle matches .fault .noAddress, exec (.bar2Write (2 ^ 31) [1]) idle matches .fault .noAddress]
      = true := by
  decide +kernel

theorem test_BadBar0Access :
    all [met (.bar0BadAccess false) idle (fun s => s.pcieAlive && !s.pcie.wiping) fun _ t => t.pcie.aerUr && t.pcie.reply == .unsupported,
      met (.bar0BadAccess true) idle (fun s => s.pcieAlive && !s.pcie.wiping) fun s t => t.pcie.aerUr && t.pcie.reply == s.pcie.reply,
      met (.readClear 0x4A) idle (fun s => s.pcieAlive && !s.pcie.wiping) fun _ t => t.pcie.aerUr && t.pcie.reply == .unsupported,
      met (.registerWrite 1 5) idle (fun s => s.pcieAlive && !s.pcie.wiping) fun s t => t.pcie.aerUr && t.pcie.reply == s.pcie.reply,
      met (.latchedLoRead 0xB0000A) idle (fun s => s.pcieAlive && !s.pcie.wiping) fun _ t => t.pcie.aerUr && t.pcie.reply == .unsupported,
      met (.w1cWrite 3 5) idle (fun s => s.pcieAlive && !s.pcie.wiping) fun s t => t.pcie.aerUr && t.pcie.reply == s.pcie.reply,
      still (.bar0BadAccess false) { idle with pcie := { linkUp := true, wiping := true } } fun s => s.pcie.wiping]
      = true := by
  decide +kernel

theorem test_WindowWrites :
    all [met (.bar2Write 0x1FFFFF [7, 8]) { idle with cmd := { winDrop := 65535 } } (fun s => s.blocksAnswer) fun _ t =>
        t.dram.byte 0x1FFFFF == 7 && t.dram.byte 0x200000 == 0 && t.cmd.winDrop == 65535,
      met (.bar2Write 0x3FFFFF [7, 8]) idle (fun s => s.blocksAnswer) fun _ t =>
        t.dram.byte 0x3FFFFF == 0 && t.dram.byte 0x400000 == 8 && t.cmd.winDrop == 1,
      met (.bar2Write 0x400000 [7]) idle (fun s => s.blocksAnswer) fun _ t => t.dram.byte 0x400000 == 7 && t.cmd.winDrop == 0,
      still (.bar2Write 0x200001 []) idle fun s => s.blocksAnswer] = true := by
  decide +kernel

theorem test_PcieFunction :
    all [met (.busMasterEnableWrite true) { idle with pcie := { linkUp := true } } (fun s => s.pcie.linkUp) fun _ t => t.pcie.bme,
      met (.busMasterEnableWrite false) idle (fun s => s.pcie.linkUp) fun _ t => !t.pcie.bme,
      met .pcieLinkUp { idle with pcie := { d3hot := true } } (fun s => s.pcieAlive) fun _ t => t.pcie.linkUp && !t.pcie.d3hot,
      met .pcieLinkDown prn (fun s => s.pcieAlive) fun _ t => !t.pcie.linkUp && t.top.dev == .halter && t.top.cause == .pcieDown,
      met .d3hotEntry (dev .run .print) (fun s => s.pcieAlive) fun _ t =>
        t.pcie.d3hot && t.top.dev == .halter && t.top.cause == .pcieDown,
      met .flrWipeDone { idle with pcie := { wiping := true } } (fun _ => true) fun _ t => !t.pcie.wiping,
      met .flr { prn with dram := [(5, 1), (2 ^ 31, 2)], cmd := { bufs := [(3, { size := 64 })] } } (fun s => s.blocksAnswer)
        fun _ t => t.dram == [(2 ^ 31, 2)] && t.cmd.bufs == [] && !t.pcie.bme && t.pcie.wiping && t.top.dev == .halter,
      met .hotReset idle (fun s => s.blocksAnswer) fun _ t => t.top.dev == .idle && t.pcie.wiping,
      [Instr.flr, .hotReset].all fun c => met c { (dev .boot .none) with pcie := { linkUp := true, bme := true, msix := [(1, {})] } }
        (fun s => s.top.dev == .boot) fun s t => !t.pcie.bme && !t.pcie.wiping && t.pcie.msix == [] && t.pcie.linkUp &&
          same { t with pcie := s.pcie } s,
      [Instr.pcieLinkUp, .pcieLinkDown, .d3hotEntry, .flr, .hotReset, .busMasterEnableWrite true].all fun c =>
        still c (dev .tripped .none) fun s => !s.pcieAlive,
      still (.busMasterEnableWrite true) { idle with pcie := {} } fun s => !s.pcie.linkUp] = true := by
  decide +kernel

/-- A descriptor of SYS_NOP at entry 0 of ring 1. -/
def rung : State :=
  { (idle.setCmdRing 1 { enable := true, tail := 1 }) with dram := [(0x40001, 1), (0x40002, 1)] } |> fun s =>
    (List.range 8).foldl (fun st n => st.setCpl n { enable := true }) s

theorem test_CommandRingsAndFetch :
    all [met (.cmdRingEnable 7 0xC1) idle (fun s => s.blocksAnswer && !(s.cmdRing 7).enable) fun _ t =>
        (t.cmdRing 7).enable && (t.cmdRing 7).log2 == 12,
      met (.cmdRingDisable 0 0x40) (idle.setCmdRing 0 { enable := true, head := 3 }) (fun s => (s.cmdRing 0).enable) fun _ t =>
        !(t.cmdRing 0).enable && (t.cmdRing 0).head == 3,
      met (.cmdRingResize 1 0x50) idle (fun s => !(s.cmdRing 1).enable) fun _ t => (t.cmdRing 1).log2 == 5,
      met (.crDoorbell 1 15) (idle.setCmdRing 1 { enable := true }) (fun s => (s.cmdRing 1).enable) fun _ t => (t.cmdRing 1).tail == 15,
      met .descriptorFetch rung (fun s => s.nextRing == some 1 && s.freeSlot 1 == some 8 && s.badOpcodeDue == none &&
          knownOpcode (s.dram.num 0x40000 2) && ((List.range 8).all fun m => (s.cplRing m).enable) &&
          s.dram.byte 0x40002 &&& 1 == 1) fun _ t =>
        (t.cmdRing 1).head == 1 && (t.slot 8).phase == .fetched && t.dram == [(0x40001, 1)],
      [Instr.cmdRingEnable 7 0xD1, .cmdRingDisable 7 0xD1, .cmdRingResize 7 0xD1].all fun c => met c { idle with top := { idle.top with conflicts := 1023 } }
        (fun s => s.blocksAnswer) fun s t => t.cmdRing 7 == s.cmdRing 7 && t.top.conflicts == 1023 && t.top.lastDword == (0x101000 + 0x40 * 7) / 4,
      met (.cmdRingEnable 0 0x51) (idle.setCmdRing 0 { enable := true }) (fun s => (s.cmdRing 0).log2 == 4) fun s t =>
        t.cmdRing 0 == s.cmdRing 0 && t.top.conflicts == 1,
      [Instr.cmdRingEnable 0 0x51, .cmdRingDisable 0 0x51, .cmdRingResize 0 0x51, .crDoorbell 0 1].all fun c =>
        still c (dev .boot .none) fun s => !s.blocksAnswer,
      still .descriptorFetch idle fun s => s.nextRing == none,
      met .descriptorFetch { rung with dram := [(0x40001, 1)] } (fun s => s.nextRing == some 1) fun s t =>
        t.cmdRing 1 == { s.cmdRing 1 with waitOwn := true, ownMiss := 1 },
      met .descriptorFetch { (idle.setCmdRing 1 { enable := true, tail := 1 }) with dram := [(0x40001, 1), (0x40002, 1)] }
        (fun s => s.nextRing == some 1 && que s 1 2) fun s t => (t.cmdRing 1).head == 1 && t.cmd.slots == s.cmd.slots &&
          waits t 1 2 (le 1 1 ++ le 2 0 ++ le 2 0x100),
      still .descriptorFetch ((List.range 128).foldl (fun st k => st.setSlot k { phase := .executing }) rung) fun s =>
        s.freeSlot 1 == none && s.nextRing == some 1] = true := by
  decide +kernel

theorem test_DoorbellIgnored :
    all [met (.crDoorbell 1 16) (idle.setCmdRing 1 { enable := true }) (fun s => s.blocksAnswer) fun _ t =>
        t.top.conflicts == 1 && (t.cmdRing 1).tail == 0,
      met (.crDoorbell 7 0) idle (fun s => s.blocksAnswer) fun _ t => t.top.conflicts == 1] = true := by
  decide +kernel

theorem test_RecordRingsAndRecords :
    all [met (.cplRingEnable 7 0x01020B41) idle (fun s => s.blocksAnswer && (s.cplRing 7).waiting == []) fun _ t =>
        t.cplRing 7 == { enable := true, vector := 11, coalCount := 2, coalTime := 1 },
      met (.cplRingDisable 0 0x40) (idle.setCpl 0 { enable := true, tail := 3 }) (fun s => (s.cplRing 0).enable) fun _ t =>
        t.cplRing 0 == { tail := 3 },
      met (.cplRingConfig 0 0x00050041) (idle.setCpl 0 { enable := true, tail := 3 }) (fun s => (s.cplRing 0).enable) fun _ t =>
        t.cplRing 0 == { enable := true, tail := 3, coalCount := 5 },
      met (.evtRingEnable 0x0000E1) idle (fun s => s.cmd.backlog == [] && !s.cmd.evt.enable) fun _ t =>
        t.cmd.evt == { enable := true, log2 := 14 },
      met (.evtRingDisable 0x60) (idle.setEvt { enable := true, log2 := 6, tail := 2 }) (fun s => s.cmd.evt.enable) fun _ t =>
        t.cmd.evt == { log2 := 6, tail := 2 },
      met (.evtRingConfig 0x161) (idle.setEvt { enable := true, log2 := 6, tail := 2 }) (fun s => s.cmd.evt.enable) fun _ t =>
        t.cmd.evt == { enable := true, log2 := 6, tail := 2, vector := 1 },
      met (.cplPtrHeadWrite 1 15) (idle.setCpl 1 { tail := 15 }) (fun s => s.blocksAnswer) fun _ t => (t.cplRing 1).head == 15,
      met (.evtPtrHeadWrite 3) (idle.setEvt { log2 := 6, tail := 5 }) (fun s => s.blocksAnswer) fun _ t => t.cmd.evt.head == 3,
      met (.completionRecordWrite 2) (idle.setCpl 2 { enable := true, base := 4096, head := 1, tail := 15, waiting := [{ seq := 7, status := 3 }] })
        (fun s => s.cplReady 2) fun _ t => t.hostMem.byte (4096 + 480) == 7 && t.hostMem.byte (4096 + 511) == 0x80 &&
          (t.cplRing 2).tail == 0 && !(t.cplRing 2).phase && (t.cplRing 2).waiting == [],
      met .eventBacklogDrain { (idle.setEvt { enable := true, log2 := 6, base := 8192 }) with
          cmd := { (idle.setEvt { enable := true, log2 := 6, base := 8192 }).cmd with
            backlog := [{ time := 9, source := 4, code := 3, seq := 1, data := [] }] } }
        (fun s => s.cmd.backlog.all s.evtReady) fun _ t => t.cmd.backlog == [] && t.hostMem.byte 8192 == 9 && t.cmd.evt.tail == 1,
      met (.coalesceTimerExpiry 3) (idle.setCpl 3 { coalTime := 1, times := [999999000, 999999500], vector := 5 })
        (fun s => (s.cplRing 3).timerDue s.uptime) fun _ t => (t.cplRing 3).times == [] && t.pcie.pba == 2 ^ 5,
      still (.coalesceTimerExpiry 3) (idle.setCpl 3 { coalTime := 1, times := [999999001] }) fun _ => true,
      met (.coalesceTimerExpiry 8) (idle.setEvt { coalTime := 255, times := [999745000], vector := 5 }) (fun s => s.cmd.evt.timerDue s.uptime)
        fun _ t => t.cmd.evt.times == [] && t.pcie.pba == 2 ^ 5,
      still (.coalesceTimerExpiry 8) (idle.setEvt { coalTime := 0, times := [5] }) fun _ => true,
      still (.completionRecordWrite 2) idle fun s => !s.cplReady 2,
      still .eventBacklogDrain { idle with cmd := { backlog := [{ time := 0, source := 4, code := 3, seq := 0, data := [] }] } } fun s => s.cmd.backlog.all fun e => !s.evtReady e,
      met (.cplRingConfig 3 0x60) idle (fun s => !(s.cplRing 3).enable) fun s t => t.cplRing 3 == { s.cplRing 3 with log2 := 6 },
      met (.evtRingConfig 0x80) idle (fun s => !s.cmd.evt.enable) fun s t => t.cmd.evt == { s.cmd.evt with log2 := 8 },
      [Instr.cplRingEnable 3 0xD1, .cplRingDisable 3 0xD1, .cplRingConfig 3 0xD1].all fun c => met c idle (fun s => s.blocksAnswer) fun s t =>
        t.cplRing 3 == s.cplRing 3 && t.top.conflicts == 1,
      [Instr.evtRingEnable 0xF1, .evtRingDisable 0x51, .evtRingConfig 0x51].all fun c => met c idle (fun s => s.blocksAnswer) fun s t =>
        t.cmd.evt == s.cmd.evt && t.top.conflicts == 1,
      met (.cplPtrHeadWrite 1 16) idle (fun s => (s.cplRing 1).log2 == 4) fun s t => t.cmd == s.cmd && t.top.conflicts == 1,
      met (.evtPtrHeadWrite 0x3FFF) idle (fun s => decide (2 ^ s.cmd.evt.log2 ≤ 0x3FFF)) fun s t => t.cmd == s.cmd && t.top.conflicts == 1,
      [Instr.cplRingEnable 3 0x41, .cplRingDisable 3 0x41, .cplRingConfig 3 0x41, .cplPtrHeadWrite 3 0, .evtRingEnable 0x61, .evtRingDisable 0x61,
        .evtRingConfig 0x61, .evtPtrHeadWrite 0].all fun c => still c (dev .boot .none) fun s => !s.blocksAnswer] = true := by
  decide +kernel

/-! ### Every row, and block SYS -/

theorem test_CommandFrames :
    all [met .nonceExpiry idle (fun _ => true) fun s t => t.top == s.top && t.dram == s.dram,
      met (.registerWrite (2 ^ 24 - 4) 7) idle (fun s => s.inReach (.registerWrite (2 ^ 24 - 4) 7)) fun s t => t.top == s.top,
      met (.bar2Write (2 ^ 31 - 1) [1]) idle (fun s => s.inReach (.bar2Write (2 ^ 31 - 1) [1])) fun s t => t.top == s.top && t.cmd.bufs == s.cmd.bufs]
      = true := by
  decide +kernel

theorem test_TurnedAwayCommands :
    all [met (.sysQuery 0) (cmd 0x0101 [(8, 99)] idle) (fun s => s.startable 0x0101 0 &&
          firstFailure sysQueryChecks (s.slot 0) s == some (0x11, 0x0108)) fun s t => fin 0 s t 0x11 0x0108 0,
      met (.sysHalter 0) (cmd 0x0104 [(12, 5)] prn) (fun s => firstFailure sysHalterChecks (s.slot 0) s == some (0x11, 0x020C))
        fun s t => fin 0 s t 0x11 0x020C 0 && t.top == s.top,
      met (.calTargets 0) { (cmd 0x0900 [(8, 1), (10, 5)] prn) with
          poison := [(65536, true)], cmd := { (cmd 0x0900 [(8, 1), (10, 5)] prn).cmd with
            bufs := [(5, { base := 0x400000, size := 0x10000, state := .ready })] } }
        (fun s => s.startable 0x0900 0 && (firstFailure calTargetsChecks (s.slot 0) s).isNone &&
          (calTargetsChecks.reads (s.slot 0) s).any fun r => s.poisoned ((s.buf r.1).base + r.2.1) r.2.2)
        fun s t => fin 0 s t 0x30 0x0C01 0 && t.cal == s.cal] = true := by
  decide +kernel

theorem test_HeldBackCommands :
    all [still (.sysNop 0) ((cmd 0x0100 [] idle).setSlot 9 { phase := .executing, ring := 1, id := 0, raw := desc 0x0101 [] })
        fun s => s.cmd.slots.any fun e => e.2.phase == .executing && decide (e.2.id < (s.slot 0).id) &&
          e.2.block == (s.slot 0).block,
      still (.sysNop 0) ((cmd 0x0100 [(2, 2)] idle).setSlot 9 { phase := .fetched, ring := 1, id := 0, raw := desc 0x0901 [] })
        fun s => (s.slot 0).fence] = true := by
  decide +kernel

theorem test_RefusedByCapabilityModeAndState :
    all [met (.prnCommit 0) { (cmd 0x0304 [] idle) with fuse := { part := .l32 } } (fun s => !s.fuse.part.print) fun s t =>
        fin 0 s t 0x13 0xFF01 0,
      met (.fireTiming 0) { (cmd 0x0403 [] idle) with fuse := { part := .l32 } } (fun s => !s.fuse.part.print) fun s t =>
        fin 0 s t 0x13 0xFF01 0,
      met (.lfrSceneBind 0) { (cmd 0x0600 [] idle) with fuse := { part := .p64 } } (fun s => !s.fuse.part.lightfield) fun s t =>
        fin 0 s t 0x13 0xFF02 0,
      met (.tanDrill 0) { (cmd 0x0E01 [] idle) with fuse := { part := .p64 } } (fun s => !s.fuse.part.tandem) fun s t =>
        fin 0 s t 0x13 0xFF03 0,
      met (.prnCommit 0) (cmd 0x0304 [] idle) (fun s => s.top.mode == .none) fun s t => fin 0 s t 0x12 0x0102 0,
      met (.prnCommit 0) (cmd 0x0304 [] lf) (fun s => s.top.mode == .lightfield) fun s t => fin 0 s t 0x12 0x0203 0,
      met (.sysPull 0) (cmd 0x0103 [] (dev .fault .print)) (fun s => s.top.dev == .fault) fun s t => fin 0 s t 0x12 6 0,
      met (.webLimits 0) ((cmd 0x0202 [] prn).setSlot 0 { phase := .fetched, id := 1, ring := 0, raw := desc 0x0202 [] })
        (fun s => (s.slot 0).ring == 0) fun s t => fin 0 s t 0x11 0x0800 0] = true := by
  decide +kernel

/-- The state with buffer 5 of 128 bytes at 4 MiB in this state. -/
def buffer (st : BufState) (b : State) : State :=
  b.setBuf 5 { base := 0x400000, size := 128, state := st }

theorem test_SysCommandsAndBuffers :
    all [ran 0x0100 noParams (.sysNop 0) [] idle (fun _ => true) fun s t => fin 0 s t 0 0 1,
      ran 0x0101 sysQueryChecks (.sysQuery 0) [(8, 3)] (buffer .ready idle) (fun _ => true) fun s t => fin 0 s t 0 0 4095,
      ran 0x0101 sysQueryChecks (.sysQuery 0) [(8, 5)] idle (fun _ => true) fun s t => fin 0 s t 0 0 2048,
      ran 0x0101 sysQueryChecks (.sysQuery 0) [(8, 1)] idle (fun _ => true) fun s t => fin 0 s t 0 0 0,
      ran 0x0101 sysQueryChecks (.sysQuery 0) [(8, 2)] { idle with lcs := { imageOk := true, rollback := 4 } } (fun _ => true)
        fun s t => fin 0 s t 0 0 4,
      ran 0x0101 sysQueryChecks (.sysQuery 0) [(8, 4)] idle (fun _ => true) fun s t => fin 0 s t 0 0 0,
      ran 0x0102 setModeChecks (.sysSetMode 0) [(8, 2)] idle (fun _ => true) fun s t =>
        fin 0 s t 0 0 0 && t.top.dev == .armed && t.top.mode == .lightfield && t.top.prev == .idle,
      ran 0x0102 setModeChecks (.sysSetMode 0) [(8, 1)] (idle.setSlot 9 { phase := .executing, ring := 2, raw := desc 0x0900 [] })
        (fun s => (s.slot 9).block == 9) fun s t => fin 0 s t 0x14 0x0900 0 && t.top == s.top,
      ran 0x0108 eventMaskChecks (.sysEventMask 0) [(8, 4), (9, 1), (10, 2), (12, 3)]
        { idle with cmd := { masked := [(4, 1, 5)] } } (fun _ => true) fun s t => fin 0 s t 0 0 0 && t.evtMasked 4 1 &&
          !t.evtMasked 4 2 && !t.evtMasked 4 3 && t.evtMasked 4 4,
      ran 0x0108 eventMaskChecks (.sysEventMask 0) [(8, 4), (10, 2), (12, 3)] idle (fun _ => true) fun s t =>
        fin 0 s t 0 0 0 && t.evtMasked 4 2 && t.evtMasked 4 3 && !t.evtMasked 4 4,
      ran 0x0108 eventMaskChecks (.sysEventMask 0) [(8, 3), (10, 2), (12, 0x100)] idle (fun _ => true) fun s t => fin 0 s t 3 1 0,
      ran 0x0108 eventMaskChecks (.sysEventMask 0) [(8, 0), (10, 0), (12, 65535)] idle (fun _ => true) fun _ t => !t.evtMasked 0 7,
      ran 0x0106 bufDefineChecks (.sysBufDefine 0) [(8, 5), (10, 3)] (prn.setBuf 5 { size := 128, state := .ready, pins := 7 })
        (fun s => (s.buf 5).pins == 7) fun s t => fin 0 s t 0x16 7 0 && t.cmd.bufs == s.cmd.bufs,
      ran 0x0103 sysPullChecks (.sysPull 0) [(8, 0x10000), (16, 5), (24, 0), (32, 64)]
        { (buffer .filling prn) with mem := { budget := 40, pullRate := 41 } } (fun _ => true) fun s t =>
          fin 0 s t 0x15 40 0 && t.out == s.out && t.cmd.pulls == s.cmd.pulls,
      ran 0x0103 sysPullChecks (.sysPull 0) [(8, 0x10000), (16, 5), (24, 0), (32, 128)]
        { (buffer .filling { prn with pcie := { prn.pcie with bme := true, maxReadRequest := 128 } }) with mem := { budget := 40 } }
        (fun s => s.canRequest) fun _ t => (t.pull 0).asked && t.out == [.hostRead 0 0x10000 128] && t.mem.held == [(0, 4000000000)],
      ran 0x0106 bufDefineChecks (.sysBufDefine 0) [(8, 5), (10, 1), (16, 0x400000), (24, 256)] prn (fun _ => true) fun s t =>
        fin 0 s t 0 0 0 && t.buf 5 == { base := 0x400000, size := 256, state := .filling },
      ran 0x0106 bufDefineChecks (.sysBufDefine 0) [(8, 5), (10, 2)] (buffer .filling prn) (fun s => s.cmd.pulls == []) fun s t =>
        fin 0 s t 0 0 0 && (t.buf 5).state == .ready && (t.buf 5).gen == 1,
      ran 0x0106 bufDefineChecks (.sysBufDefine 0) [(8, 5), (10, 3)] (buffer .ready prn) (fun s => (s.buf 5).pins == 0) fun s t =>
        fin 0 s t 0 0 0 && (t.buf 5).state == .filling,
      ran 0x0107 bufFreeChecks (.sysBufFree 0) [(8, 5)] (prn.setBuf 5 { size := 128, state := .ready, pins := 2 })
        (fun s => (s.buf 5).pins != 0) fun s t => fin 0 s t 1 0 0 && (t.buf 5).state == .releasePending,
      ran 0x0107 bufFreeChecks (.sysBufFree 0) [(8, 5)] (buffer .filling prn) (fun s => s.cmd.pulls == []) fun s t =>
        fin 0 s t 0 0 0 && (t.buf 5).state == .free,
      ran 0x0103 sysPullChecks (.sysPull 0) [(8, 0x10000), (16, 5), (24, 0), (32, 64)]
        { (buffer .filling prn) with mem := { budget := 40 } } (fun _ => true) fun _ t =>
          (t.pull 0).len == 64 && t.out == [.hostRead 0 0x10000 64],
      (let s := { (buffer .filling prn) with
          cmd := { (buffer .filling prn).cmd with pulls := [(0, { handle := 5, host := 4096, len := 1024, asked := true })] } };
        (s.pull 0).asked && s.canRequest && Nat.min 512 ((s.pull 0).len - (s.pull 0).copied) == 512 &&
          decide ((s.pull 0).copied + 512 < (s.pull 0).len) && s.dram == []),
      met (.hostReadCompletion 0 0 [7, 8]) { ((buffer .filling prn).setSlot 0 { phase := .executing }) with
          cmd := { ((buffer .filling prn).setSlot 0 { phase := .executing }).cmd with
            pulls := [(0, { handle := 5, len := 2, asked := true })] } }
        (fun _ => true) fun s t => fin 0 s t 0 0 0 && t.dram.byte 0x400001 == 8 && t.cmd.bufs == s.cmd.bufs,
      met (.hostReadCompletion 0 0 [7, 8]) { ((buffer .filling prn).setSlot 0 { phase := .executing }) with
          cmd := { ((buffer .filling prn).setSlot 0 { phase := .executing }).cmd with
            pulls := [(0, { handle := 5, len := 2, asked := true, makeReady := true })] } }
        (fun _ => true) fun _ t => (t.buf 5).state == .ready && (t.buf 5).gen == 1,
      met (.hostReadCompletion 0 3 []) { ((buffer .filling prn).setSlot 0 { phase := .executing }) with
          cmd := { ((buffer .filling prn).setSlot 0 { phase := .executing }).cmd with
            pulls := [(0, { handle := 5, len := 2, asked := true })] } }
        (fun _ => true) fun s t => fin 0 s t 0x30 3 0] = true := by
  decide +kernel

theorem test_HalterAndResume :
    all [ran 0x0104 sysHalterChecks (.sysHalter 0) [] prn (fun _ => true) fun s t =>
        fin 0 s t 0 0 0 && t.top.dev == .halter && t.top.cause == .hostHalter && t.top.prev == .armed,
      ran 0x0105 sysResumeChecks (.sysResume 0) [] (dev .halter .print) (fun _ => true) fun s t =>
        fin 0 s t 0 0 0 && t.top.dev == .armed && t.top.cause == .hostResume,
      ran 0x0105 sysResumeChecks (.sysResume 0) [] { (dev .halter .lightfield) with scan := { phase := .scanning } }
        (fun s => s.scanning) fun _ t => t.top.dev == .run,
      ran 0x0104 sysHalterChecks (.sysHalter 0) [] { (dev .halter .print) with tan := { held := true } } (fun _ => true) fun s t =>
        t.top.dev == .halter && t.top.cause == s.top.cause && t.top.prev == s.top.prev && !t.tan.held] = true := by
  decide +kernel

/-! ### Life cycle -/

/-- A customer record with these bytes in front of its checksum. -/
def custRec : List Byte :=
  let r := (le 4 0x47435543 ++ [1#8, 2#8, 0#8, 32#8] ++ List.replicate 244 0).take 252
  r ++ le 4 (crc32 r)

theorem test_Resets :
    all [met (.porstAssert 2) prn (fun s => s.top.dev != .tripped) fun _ t => t.top == {} && t.lcs.cause == 2 && t.lcs.straps == 2 &&
        t.lcs.count == 1,
      met .sysrstAssert { prn with lcs := { straps := 1, count := 65535 }, thm := { trips := 3 } } (fun _ => true) fun _ t =>
        t.lcs.cause == 3 && t.lcs.straps == 1 && t.lcs.count == 65535 && t.thm.trips == 3,
      met (.powerOn 1) prn (fun _ => true) fun _ t => t.lcs.cause == 1 && t.lcs.count == 0 && t.cmd == {},
      still .internalReset prn fun s => s.lcs.pendingReset == 0,
      still .internalReset { (prn.setCpl 1 { waiting := [{ id := 3 }] }) with lcs := { pendingReset := 5, pendingId := 3 } } fun s => s.recordWaits 3,
      still .tripHoldExpiry { (dev .tripped .none) with uptime := 29999999999 } fun _ => true, still .tripHoldExpiry prn fun _ => true,
      still (.porstAssert 1) (dev .tripped .print) fun s => s.top.dev == .tripped,
      still .sysrstAssert (dev .tripped .print) fun s => s.top.dev == .tripped,
      met .internalReset { prn with lcs := { pendingReset := 6, pendingId := 3 } } (fun s => s.cmd.cpl == []) fun _ t =>
        t.top == {} && t.out == [.sysrst] && t.lcs.cause == 6 && t.lcs.opened,
      met .tripHoldExpiry { (dev .tripped .none) with uptime := 30000000000, thm := { trips := 1, hotspot := 1900 } }
        (fun s => decide (30000000000 ≤ s.uptime)) fun _ t => t.top.dev == .reset && t.lcs.cause == 4 && t.lcs.held &&
          t.thm.hotspot == 1900 && t.thm.trips == 1] = true := by
  decide +kernel

/-- A part in BOOT whose image has passed, with its channels in a state. -/
def booting (c : ChanState) : State :=
  { idle with top := { dev := .boot, prev := .reset }, mem := { chans := (List.range 4).map fun i => (i, { state := c }) } }

theorem test_Boot :
    all [met (.resetRelease true) { State.reset with lcs := { straps := 1 } } (fun s => s.lcs.records == []) fun _ t =>
        t.top.dev == .boot && t.lcs.pushReady && t.lcs.recGen == 0,
      met (.resetRelease true) { State.reset with lcs := { records := [custRec] } } (fun s => s.lcs.records.all recordValid) fun _ t =>
        t.lcs.inForce.windowGib == 2 && t.lcs.recGen == 1 && !t.lcs.pushReady,
      met (.resetRelease false) State.reset (fun _ => true) fun _ t => t.top.dev == .fault && t.top.cause == .fatalBlock,
      (let s : State := { State.reset with top := { dev := .boot, prev := .reset } };
        s.lcs.nextSource == some 1 && { s.lcs with slotA := 4 }.nextSource == some 2),
      met (.resetRelease true) { State.reset with lcs := { straps := 2 } } (fun s => s.lcs.records == []) fun _ t =>
        !t.lcs.pushReady && t.out == [.spiSfdp 25000, .spiRead 0 100000],
      still (.resetRelease true) idle fun s => s.top.dev != .reset,
      met (.bootImageVerified []) { State.reset with top := { dev := .boot, prev := .reset } } (fun s => imageResult s.lcs.rollback [] == 2) fun s t =>
        t.lcs.slotA == 2 && t.lcs.slotB == 0 && !t.lcs.imageOk && t.top.dev == .boot && t.out == [.spiRead s.lcs.inForce.slotB 100000],
      met (.bootImageVerified []) { State.reset with top := { dev := .boot, prev := .reset }, lcs := { slotA := 2 } } (fun s => s.lcs.straps == 0)
        fun _ t => t.lcs.slotB == 2 && t.top.dev == .boot && t.lcs.pushReady,
      met (.bootImageVerified []) { State.reset with top := { dev := .boot, prev := .reset }, lcs := { slotA := 2, straps := 2 } } (fun _ => true)
        fun _ t => t.lcs.slotB == 2 && t.top.dev == .fault && t.top.cause == .imageRejected && t.top.prev == .boot,
      met (.bootImageVerified []) { State.reset with top := { dev := .boot, prev := .reset }, lcs := { straps := 1, verifying := true } } (fun _ => true)
        fun _ t => t.lcs.pushed == 2 && t.top.dev == .fault && t.top.cause == .imageRejected,
      still (.bootImageVerified []) idle fun s => s.top.dev != .boot,
      still (.bootImageVerified []) { State.reset with top := { dev := .boot }, lcs := { straps := 1 } } fun s => !s.lcs.verifying,
      still (.bootDdrTrained 0 [400] 0) (booting .online) fun s => (s.ddr 0).state != .training,
      met (.bootDdrTrained 0 [100] 0) { (booting .offline) with mem := { chans := (booting .offline).mem.chans.map fun e => if e.1 = 0 then (0, { state := .training }) else e } }
        (fun s => (s.ddr 0).state == .training && s.mapChans == []) fun _ t => t.top.dev == .fault && t.top.cause == .fatalBlock,
      still .ready (booting .training) fun _ => true, still .ready (booting .offline) fun s => s.mapChans == [],
      still .ready idle fun s => s.top.dev != .boot,
      met (.bootDdrTrained 3 [100] 0) (booting .training) (fun _ => true) fun s t =>
        (t.ddr 3).state == .offline && t.ddr 2 == s.ddr 2 && t.top.dev == .boot,
      met (.bootDdrTrained 0 [400, 100] 0) (booting .training) (fun s => decide ((s.calPolicy (ddrSlot 0)).qualLimit ≤ 400)) fun _ t =>
        (t.ddr 0).state == .online && (t.ddr 0).eye == 400 && [(t.ddr 0).rate] == (bootRates idle.lcs.inForce.rateMax).take 1,
      met .ready { (booting .offline) with dram := [(1, 1)], mem := { chans := [(0, { state := .online, inMap := true })] } }
        (fun s => s.mapChans == [0] && s.cmd.backlog == []) fun s t => t.top.dev == .idle && t.dram == [] &&
          (t.cmd.backlog.head?.map fun e => e.source == 0 && e.code == 2 && e.data == readyData s) == some true] = true := by
  decide +kernel

theorem test_DeviceFaults :
    all [met .watchdogExpiry prn (fun _ => true) fun _ t => t.top.dev == .fault && t.top.cause == .watchdog && t.top.prev == .armed,
      met (.clockFault 0) idle (fun _ => true) fun _ t => t.top.dev == .fault && t.top.cause == .clockLoss,
      met (.clockFault 1) (dev .run .print) (fun _ => true) fun _ t => t.top.dev == .fault && t.top.mode == .print,
      met (.clockFault 2) (dev .run .print) (fun _ => true) fun _ t => t.top.dev == .halter && t.top.cause == .pcieDown && !t.pcie.linkUp,
      met (.dieTrip 2000) { prn with thm := { trips := 255 } } (fun _ => true) fun _ t => t.top.dev == .tripped &&
        t.thm.hotspot == 2000 && t.thm.trips == 255 && t.cmd == {} && t.dram == [] && t.top.prev == .armed,
      met (.dieTrip 2000) { prn with time := { trigs := [(5, { pin := 33 })] } } (fun _ => true) fun _ t =>
        t.out.any fun o => o matches .pin 33 _,
      still .watchdogExpiry (dev .fault .print) fun _ => true,
      still .watchdogExpiry { (dev .boot .none) with lcs := {} } fun s => !s.lcs.imageOk,
      still (.clockFault 0) (dev .fault .print) fun _ => true, still (.clockFault 2) (dev .tripped .none) fun _ => true,
      still (.dieTrip 2000) (dev .tripped .none) fun _ => true,
      met (.clockFault 2) idle (fun _ => true) fun s t => t.top == s.top && !t.pcie.linkUp] = true := by
  decide +kernel

/-! ### The life-cycle block -/

/-- A part in state SECURED, with a debug key. -/
def secured : State := { idle with lcs := { imageOk := true, secured := true, inForce := { debugKey := 7 } } }

theorem test_LcsCommands :
    all [acc 0x0F00 noParams 0 (cmd 0x0F00 [] secured) && secured.lcs.state == 2,
      ran 0x0F00 noParams (.lcsChallenge 0) [] idle (fun s => s.lcs.state != 2) fun s t => fin 0 s t 0x17 1 0 && t.lcs == s.lcs,
      acc 0x0F01 lcsResponseChecks 0 (cmd 0x0F01 [(8, 5)]
        ({ secured with lcs := { secured.lcs with nonce := some [1] } }.setBuf 5 { size := 256, state := .ready })),
      ran 0x0F01 lcsResponseChecks (.lcsResponse 0) [(8, 5)] (secured.setBuf 5 { size := 256, state := .ready })
        (fun s => s.lcs.nonce == none) fun s t => fin 0 s t 0x17 4 0,
      ran 0x0F00 noParams (.lcsChallenge 0) [] { secured with lcs := { secured.lcs with attempts := 8 } } (fun s => s.lcs.state == 2) fun s t =>
        fin 0 s t 0x17 2 0 && t.lcs == s.lcs,
      ran 0x0F00 noParams (.lcsChallenge 0) [] { secured with lcs := { secured.lcs with inForce := {} } } (fun s => s.lcs.state == 2) fun s t =>
        fin 0 s t 0x17 3 0 && t.lcs == s.lcs,
      ran 0x0F01 lcsResponseChecks (.lcsResponse 0) [(8, 5)] ({ secured with uptime := 60000000002, lcs := { secured.lcs with nonce := some [1], nonceTime := 1 } }.setBuf 5
          { size := 256, state := .ready }) (fun s => s.lcs.nonce != none) fun s t => fin 0 s t 0x17 4 0 && t.lcs.nonce == none,
      met .nonceExpiry { secured with uptime := 60000000000, lcs := { nonce := some [1] } } (fun _ => true) fun _ t =>
        t.lcs.nonce == none,
      still .nonceExpiry { secured with uptime := 59999999999, lcs := { nonce := some [1] } } fun _ => true, still .nonceExpiry idle fun _ => true,
      ran 0x0F02 lcsOtpWriteChecks (.lcsOtpWrite 0) [(8, 1), (10, 5)] (secured.setBuf 5 { base := 0x400000, size := 256, state := .ready })
        (fun s => s.lcs.state == 2) fun s t => fin 0 s t 0x17 1 0 && t.lcs == s.lcs,
      ran 0x0F02 lcsOtpWriteChecks (.lcsOtpWrite 0) [(8, 1), (10, 5)] (idle.setBuf 5 { base := 0x400000, size := 256, state := .ready })
        (fun s => custRecordFault (s.bufBytes 5 0 256) == some (1, 0)) fun s t => fin 0 s t 0x11 0x0110 0 && t.lcs == s.lcs,
      ran 0x0F02 lcsOtpWriteChecks (.lcsOtpWrite 0) [(8, 1), (10, 5)] ({ idle with
          dram := Memory.setBytes [] 0x400000 custRec, lcs := { idle.lcs with records := [[], [], [], []] } }.setBuf 5
          { base := 0x400000, size := 256, state := .ready }) (fun _ => true) fun s t => fin 0 s t 0x17 6 0 && t.lcs == s.lcs,
      ran 0x0F03 lcsTransitionChecks (.lcsTransition 0) [(8, 2), (12, 5)] { idle with fuse := { deviceId := 5 } } (fun s => !leavesTo s.lcs.state 2)
        fun s t => fin 0 s t 0x17 1 0 && t.lcs == s.lcs,
      ran 0x0F02 lcsOtpWriteChecks (.lcsOtpWrite 0) [(8, 2)] { idle with lcs := { rollback := 1, fwRollback := 3 } } (fun _ => true)
        fun s t => fin 0 s t 0 0 3 && t.lcs.rollback == 3,
      (let s := cmd 0x0F02 [(8, 1), (10, 5)] ({ idle with dram := (Memory.setBytes [] 0x400000 custRec) }.setBuf 5
          { base := 0x400000, size := 256, state := .ready });
        acc 0x0F02 lcsOtpWriteChecks 0 s && (custRecordFault (s.bufBytes 5 0 256)).isNone && s.lcs.state == 0),
      ran 0x0F03 lcsTransitionChecks (.lcsTransition 0) [(8, 1), (12, 5)] { idle with fuse := { deviceId := 5 } } (fun s => leavesTo s.lcs.state 1) fun s t =>
        fin 0 s t 0 0 0 && t.lcs.blank && t.lcs.pendingReset == 5] = true := by
  decide +kernel

/-- A part in BOOT that waits for a push. -/
def pushing : State :=
  { State.reset with top := { dev := .boot }, lcs := { straps := 1, pushReady := true, aperture := Memory.setBytes [] 0 custRec } }

theorem test_ImagePushAndJtag :
    all [met (.pushApertureWrite 0x7FFFC 0x01020304) pushing (fun s => s.pushOpen) fun _ t => t.lcs.aperture.byte 0x7FFFC == 4,
      met (.pushChunk 64) pushing (fun s => s.pushOpen) fun _ t => t.lcs.image == custRec && t.lcs.pushReady && !t.lcs.verifying,
      met (.pushFinalChunk 1) pushing (fun s => s.pushOpen) fun _ t => t.lcs.image == custRec.take 4 && t.lcs.verifying,
      met (.pushProvisionalRecord 64) pushing (fun s => recordValid (s.lcs.aperture.bytes 0 256) && decide (s.lcs.state ≤ 1)) fun _ t =>
        t.lcs.recProv && t.lcs.inForce.rateMax == 32,
      still (.pushChunk 64) idle fun s => !s.lcs.pushReady, still (.pushFinalChunk 64) idle fun s => !s.lcs.pushReady,
      still (.pushProvisionalRecord 64) idle fun s => !s.lcs.pushReady, still (.pushApertureWrite 0 1) idle fun s => !s.lcs.pushReady,
      [Instr.pushChunk 0, .pushFinalChunk 131073].all fun c =>
        still c { State.reset with top := { dev := .boot }, lcs := { straps := 1, pushReady := true } } fun s => s.pushOpen,
      met (.pushChunk 0x80000040) pushing (fun s => s.pushOpen) fun _ t => !t.lcs.pushReady && t.lcs.verifying,
      met (.pushProvisionalRecord 65) pushing (fun s => s.pushOpen) fun _ t => t.lcs.rejected && !t.lcs.recProv,
      met (.pushChunk 0x40000040) pushing (fun s => s.pushOpen) fun _ t => t.lcs.recProv && t.lcs.image == [],
      met (.pushFinalChunk 0x40000041) pushing (fun s => s.pushOpen) fun _ t => t.lcs.rejected] = true := by
  decide +kernel

theorem test_ImagePushAndJtag_jtag :
    all [met (.jtagBoundaryScan 1) { idle with fuse := { stepping := 0 } } (fun _ => true) fun _ t => t.lcs.tap == 1 && t.out.length == 1 &&
        t.out.all fun o => match o with | .jtag n => Nat.beq n 0x04C39A77 | _ => false,
      met (.jtagBoundaryScan 2) idle (fun _ => true) fun _ t => t.lcs.tap == 2,
      met (.jtagBoundaryScan 7) State.reset (fun _ => true) fun _ t => t.lcs.tap == 0,
      met (.jtagLcsMailbox none) idle (fun s => s.lcs.state == 0) fun _ t => t.out == [.jtag 1],
      met (.jtagLcsMailbox (some [])) secured (fun s => s.lcs.nonce == none) fun _ t => t.out == [.jtag 4],
      (let s := { secured with lcs := { secured.lcs with nonce := some [1] } }; decide (s.uptime ≤ s.lcs.nonceTime + 60000000000)),
      still (.jtagLcsMailbox none) State.reset fun _ => true,
      met (.jtagBoundaryScan 3) idle (fun _ => true) fun _ t => t.lcs.tap == 0,
      met (.jtagBoundaryScan 4) State.reset (fun _ => true) fun _ t => t.lcs.tap == 4,
      met .jtagCoreDebug secured (fun _ => true) fun _ t => t.lcs.tap == 0,
      met .jtagCoreDebug idle (fun _ => true) fun _ t => t.lcs.tap == 5,
      gives (.jtagLcsMailbox none) secured fun t => t.lcs.attempts == 1,
      secured.lcs.state == 2 && decide (secured.lcs.attempts < 8) && secured.lcs.inForce.debugKey != 0] = true := by
  decide +kernel

/-! ### Block WEB -/

/-- A part with a web master in channel 0, one line for 2 counts. -/
def master : State :=
  { (prn.setChan 0 { mode := .quadrature, role := .webMaster, cpr := 10, w := 9, p := 4, standstillMs := 100 }) with
    web := { (prn.setChan 0 { mode := .quadrature, role := .webMaster, cpr := 10, w := 9, p := 4, standstillMs := 100 }).web with
      master := some 0, hwm := 4, linesNum := 1, linesDen := 2 } }

/-- Channel 7 is read by enabled axis 0. -/
def readByAxis : State :=
  { prn with axis := { axes := [(0, { enabled := true, cfg := { feedback := 1, fbCh := 7 } })] } }

theorem test_WebCommands :
    all [ran 0x0200 webConfigChecks (.webConfig 0) [(8, 7), (9, 1), (10, 1), (11, 3), (12, 16), (28, 1), (30, 2)] prn
        (fun s => !s.axisReads 7) fun s t => fin 0 s t 0 0 0 && t.web.master == some 7 && t.web.linesDen == 2 &&
          (t.chan 7).mode == .quadrature && (t.chan 7).filterNs == 3,
      ran 0x0200 webConfigChecks (.webConfig 0) [(8, 1), (9, 1), (10, 2), (12, 16), (38, 3), (40, 5)] master
        (fun s => !s.axisReads 1) fun _ t => t.web.check == some 1 && t.web.checkNum == 3 && t.web.checkDen == 5,
      ran 0x0201 webBarOffsetChecks (.webBarOffset 0) [(8, 15), (9, 1), (12, 2 ^ 32 - 256)] prn (fun _ => true) fun s t =>
        fin 0 s t 0 0 (2 ^ 32 - 256) && (t.webBar 15).offset == -256,
      ran 0x0201 webBarOffsetChecks (.webBarOffset 0) [(8, 0), (9, 2), (10, 64), (12, 512)] prn (fun _ => true) fun s t =>
        fin 0 s t 0 0 0 && (t.webBar 0).offset == 0 && (t.webBar 0).target == 512 && (t.webBar 0).slewing,
      ran 0x0202 webLimitsChecks (.webLimits 0) [(8, 1000), (12, 999), (16, 99), (17, 40), (18, 0x8001)] prn (fun _ => true)
        fun s t => fin 0 s t 0 0 0 && (t.webBar 15).enabled && (t.webBar 0).enabled && !(t.webBar 1).enabled && t.web.slowOff == 40,
      ran 0x0203 webRereferenceChecks (.webRereference 0) [(8, 1), (16, 100)] master (fun s => (s.chan 0).mode != .off) fun s t =>
        fin 0 s t 0 0 0 && (t.chan 0).p == 100 && t.web.hwm == 100,
      ran 0x0203 webRereferenceChecks (.webRereference 0) [(8, 2)] master (fun _ => true) fun _ t => (t.chan 0).realign,
      ran 0x0200 webConfigChecks (.webConfig 0) [(8, 7), (9, 1), (12, 16)] readByAxis
        (fun s => s.axisReads 7 && (s.chan 7).mode.code != (s.slot 0).u 9 1) fun s t =>
        fin 0 s t 0x14 0x0A00 0 && t.web == s.web,
      ran 0x0200 webConfigChecks (.webConfig 0) [(8, 7), (11, 9), (12, 16)] readByAxis
        (fun s => s.axisReads 7 && (s.chan 7).mode.code == 0 && (s.chan 7).role.code == 0)
          fun s t => fin 0 s t 0 0 0 && (t.chan 7).filterNs == 9,
      ran 0x0200 webConfigChecks (.webConfig 0) [(8, 0), (12, 16)] master (fun s => !s.axisReads 0) fun _ t =>
        t.web.master == none && t.web.hwm == 4 && (t.chan 0).p == 4,
      ran 0x0204 webQueryChecks (.webQuery 0) [] { idle with time := { now := 2 ^ 32 + 5 } } (fun _ => true) fun s t =>
        fin 0 s t 0 0 5] = true := by
  decide +kernel

/-- A quadrature channel 7 whose lines are filtered over 3 samples. -/
def quad (c : Channel := {}) : State := prn.setChan 7 { c with mode := .quadrature, filterNs := 3 }

/-- A Hall channel 2 in place 5 of the sequence. -/
def halled (c : Channel := {}) : State := prn.setChan 2 { c with mode := .hall, lineA := true, lineZ := true }

theorem test_PositionMovesByCountingAlone :
    all [met (.encoderEdge 7 true false 4) (quad { p := 2 ^ 63 - 1, invert := true }) (fun s =>
          decide ((s.chan 7).p < 2 ^ 63)) fun _ t => (t.chan 7).p == -2 ^ 63,
      met (.indexEvent 0 true 1) master (fun s => (s.chan 0).p == 4) fun _ t => (t.chan 0).p == 4] = true := by
  decide +kernel

theorem test_FeedbackCounts :
    all [met (.encoderEdge 7 true false 3) (quad {}) (fun s => (s.chan 7).filterNs == (s.chan 7).runA + 3) fun _ t =>
        (t.chan 7).runA == 3 && !(t.chan 7).lineA && (t.chan 7).p == 0,
      met (.encoderEdge 7 false false 3) (quad { runA := 3 }) (fun s => (s.chan 7).runA == 3) fun _ t => (t.chan 7).runA == 0,
      met (.encoderEdge 7 true false 1) (quad { runA := 3 }) (fun s => decide ((s.chan 7).filterNs < (s.chan 7).runA + 1)) fun _ t =>
        (t.chan 7).lineA && (t.chan 7).p == -1 && (t.chan 7).runA == 0,
      met (.encoderEdge 0 false true 1) master (fun s => (s.chan 0).mode == .quadrature) fun _ t =>
        (t.chan 0).p == 5 && (t.chan 0).w == 0 && t.web.hwm == 5,
      met (.encoderEdge 0 true false 1) master (fun s => (s.chan 0).mode == .quadrature) fun _ t => (t.chan 0).p == 3 && t.web.hwm == 4,
      met (.encoderEdge 0 true true 1) master (fun s => (s.chan 0).runA == (s.chan 0).runB) fun _ t => (t.chan 0).p == 4 &&
        (t.chan 0).illegal && (t.chan 0).illegalCount == 1 && t.web.hwm == 4,
      met (.encoderEdge 7 true true 4) (quad { illegalCount := 65535 }) (fun s => (s.chan 7).runA == (s.chan 7).runB) fun _ t =>
        (t.chan 7).illegalCount == 65535 && (t.chan 7).lineA && (t.chan 7).lineB,
      met (.encoderEdge 7 true true 3) (quad { runA := 2, runB := 1 }) (fun s => decide ((s.chan 7).runB < (s.chan 7).runA)) fun _ t =>
        (t.chan 7).p == -2 && (t.chan 7).illegalCount == 0 && (t.chan 7).lineA && (t.chan 7).lineB,
      met (.encoderEdge 7 true true 3) (quad { runA := 1, runB := 2 }) (fun s => decide ((s.chan 7).runA < (s.chan 7).runB)) fun _ t =>
        (t.chan 7).p == 2 && (t.chan 7).illegalCount == 0,
      met (.hallEdge 2 false false true 1) (halled {})
        (fun s => hallPlace (s.chan 2).lineA (s.chan 2).lineB (s.chan 2).lineZ == some 5) fun _ t => (t.chan 2).p == 1,
      met (.hallEdge 2 false false true 1) (halled { invert := true }) (fun _ => true) fun _ t => (t.chan 2).p == -1,
      met (.hallEdge 2 true false false 1) (halled {}) (fun _ => true) fun _ t => (t.chan 2).p == -1 && (t.chan 2).illegalCount == 0,
      met (.hallEdge 2 true false true 1) (halled { runB := 0 }) (fun _ => true) fun s t => t.web == s.web,
      met (.hallEdge 2 false true false 1) (halled {}) (fun _ => hallPlace false true false == some 2) fun _ t => (t.chan 2).p == 0 &&
        (t.chan 2).illegalCount == 1,
      met (.hallEdge 2 true true true 1) (halled {}) (fun _ => hallPlace true true true == none) fun _ t => (t.chan 2).p == 0 &&
        (t.chan 2).illegal && (t.chan 2).lineB,
      met (.hallEdge 2 true false true 1) (prn.setChan 2 { mode := .hall }) (fun _ => hallPlace false false false == none) fun _ t =>
        (t.chan 2).p == 0 && (t.chan 2).illegalCount == 0 && (t.chan 2).lineA,
      met (.ssiReadDone 3 0x1FF) { (prn.setChan 3 { mode := .ssi, ssiBits := 8, ssiClock := 1000, ssiStart := some 0 }) with
        time := { now := 8000 } } (fun _ => true) fun _ t => (t.chan 3).p == 0 && (t.chan 3).ssiWord == some 255,
      met (.ssiReadDone 3 1) { (prn.setChan 3 { mode := .ssi, ssiBits := 8, ssiClock := 1000, ssiStart := some 0, ssiWord := some 255 }) with
        time := { now := 8000 } } (fun _ => true) fun _ t => (t.chan 3).p == 2 && (t.chan 3).ssiStart == none,
      met (.ssiReadDone 3 3) { (prn.setChan 3 { mode := .ssi, ssiBits := 8, ssiClock := 1000, ssiStart := some 0, ssiWord := some 0
                                                ssiGray := true, invert := true }) with
        time := { now := 8000 } } (fun s => (s.chan 3).ssiGray) fun _ t => (t.chan 3).p == -2 && (t.chan 3).ssiWord == some 2,
      still (.ssiReadDone 3 1) { (prn.setChan 3 { mode := .ssi, ssiBits := 8, ssiClock := 1000, ssiStart := some 0 }) with
        time := { now := 7999 } } fun _ => true,
      still (.ssiReadDone 3 1) (prn.setChan 3 { mode := .ssi }) fun s => (s.chan 3).ssiStart == none,
      still (.ssiReadDone 3 1) prn fun s => (s.chan 3).mode != .ssi,
      still (.encoderEdge 2 true false 9) (halled {}) fun s => (s.chan 2).mode != .quadrature,
      still (.hallEdge 7 true false true 9) (quad {}) fun s => (s.chan 7).mode != .hall] = true := by
  decide +kernel

/-- A quadrature channel 1 that checks its index, ten counts a turn. -/
def indexing (c : Channel := {}) : State :=
  prn.setChan 1 { c with mode := .quadrature, indexEn := true, cpr := 10, indexPos := 0, idxTol := 1 }

theorem test_WebSupervision :
    all [met (.indexEvent 1 true 1) (indexing { w := 9, mismatch := true })
        (fun s => (s.chan 1).indexed && decide ((s.chan 1).indexErr.natAbs ≤ 1)) fun _ t => (t.chan 1).w == 0 && !(t.chan 1).mismatch,
      met (.indexEvent 1 true 1) (indexing { w := 7, realign := true }) (fun s => (s.chan 1).realign) fun _ t => (t.chan 1).w == 0 &&
        !(t.chan 1).realign && (t.chan 1).lastErr == -3,
      met (.indexEvent 1 true 1) (indexing { w := 8, p := 77 }) (fun s => (s.chan 1).indexed && decide (1 < (s.chan 1).indexErr.natAbs))
        fun _ t => (t.chan 1).mismatch && (t.chan 1).w == 8 && (t.chan 1).lastIndexPos == 77,
      met (.indexEvent 1 true 1) { (indexing { w := 8 }) with web := { (indexing { w := 8 }).web with master := some 1, doubtSpan := 50 } }
        (fun s => !(s.chan 1).mismatch) fun _ t => t.web.doubtRemain == 50,
      met (.indexEvent 1 true 4) (indexing { filterNs := 4, w := 8 }) (fun s => (s.chan 1).filterNs == 4) fun _ t =>
        (t.chan 1).runZ == 4 && !(t.chan 1).lineZ && !(t.chan 1).mismatch,
      met (.indexEvent 1 false 5) (indexing { lineZ := true, runZ := 2, w := 8 }) (fun _ => true) fun _ t =>
        !(t.chan 1).lineZ && (t.chan 1).w == 8 && !(t.chan 1).mismatch,
      met (.indexEvent 1 true 1) (indexing { indexLow := true, w := 8 }) (fun s => (s.chan 1).indexLow) fun _ t =>
        (t.chan 1).lineZ && (t.chan 1).w == 8 && !(t.chan 1).mismatch,
      still (.indexEvent 2 true 1) (halled {}) fun s => (s.chan 2).mode != .quadrature,
      met (.indexMissing 1) { (indexing { p := -15 }) with web := { (indexing { p := -15 }).web with master := some 1, doubtSpan := 50 } }
        (fun s => (s.chan 1).indexed) fun _ t => (t.chan 1).missing && t.web.doubtRemain == 50,
      still (.indexMissing 1) (indexing { p := -14 }) fun _ => true,
      still (.indexMissing 1) (indexing { p := -15, missing := true }) fun _ => true, still (.indexMissing 1) prn fun s => !(s.chan 1).indexed,
      met .webCheckSpan { prn with web := { check := some 1, master := some 0, checkSpan := 1000, checkWindow := 5, checkNum := 1, dm := -1000, dc := -994, doubtSpan := 9 } }
        (fun s => decide (s.web.checkSpan ≤ s.web.dm.natAbs)) fun _ t => t.web.checkMismatch && t.web.dm == 0 && t.web.doubtRemain == 9,
      met .webCheckSpan { prn with web := { check := some 1, master := some 0, checkSpan := 1000, checkWindow := 5, checkNum := 1, dm := -1000, dc := -995, doubtSpan := 9, checkMismatch := true } }
        (fun s => decide (s.web.checkSpan ≤ s.web.dm.natAbs)) fun _ t => !t.web.checkMismatch && t.web.dc == 0 && t.web.doubtRemain == 0,
      still .webCheckSpan { prn with web := { check := some 1, master := some 0, checkSpan := 1000, dm := 999 } } fun _ => true,
      still .webCheckSpan { prn with web := { check := some 1 } } fun _ => true, still .webCheckSpan master fun _ => true,
      met .regDoubtEnd { prn with web := { doubtOpen := true } } (fun s => s.web.doubtRemain == 0) fun _ t => !t.web.doubtOpen,
      still .regDoubtEnd { prn with web := { doubtOpen := true, doubtRemain := 1 } } fun _ => true, still .regDoubtEnd prn fun _ => true,
      met .gaitEval master (fun s => s.web.master != none) fun s t => t.web.gait == (evalSpeeds s).gaitNow,
      met .gaitEval { (indexing {}) with time := { now := 10 ^ 9 } } (fun s => s.web.master == none) fun s t => same (evalSpeeds s) t,
      met (.standstillTimeout 4) { (prn.setChan 4 { mode := .hall, standstillMs := 100, stopped := false, speed := { num := 5 } }) with
        time := { now := 100000000 } } (fun _ => true) fun _ t => (t.chan 4).stopped && (t.chan 4).speed == {},
      still (.standstillTimeout 4) { (prn.setChan 4 { mode := .hall, standstillMs := 100, stopped := false }) with
        time := { now := 99999999 } } fun _ => true,
      still (.standstillTimeout 4) prn fun s => (s.chan 4).mode != .hall] = true := by
  decide +kernel

/-! ### Block PRN -/

/-- The state with buffer 5 of 1 MiB at 4 MiB, READY. -/
def bigBuffer (b : State) : State := b.setBuf 5 { base := 0x400000, size := 0x100000, state := .ready }

/-- The state with print configuration `c` staged. -/
def staging (c : PrintCfg) (b : State) : State := { b with frames := { b.frames with staged := { prn := c } } }

/-- A job open on bar 0 of `prn`, its first frame 7. -/
def jobbed : State :=
  { (prn.setWebBar 0 { enabled := true }) with
    prn := { job := { isOpen := true, jobId := 9, firstFrame := 7, frameLines := 32, bars := 1, nFirst := 320 } }
    frames := { openFirst := 7, nCut := 4 } }

/-- Thirty-two layers' worth of table loads named `n` on. -/
def loaded (n k : Nat) : Tab Loaded := (List.range k).map fun i => (i, { id := n + i })

/-- A print configuration whose stitch tiles fill the table pool. -/
def fullTables : PrintCfg := { stitch := loaded 1 1792 }

/-- An open job whose commits hold every threshold-array slot. -/
def fullArrays : State :=
  { (bigBuffer jobbed) with
    frames := { openFirst := 7, staged := { prn := { arrays := loaded 1 16 } }
                base := { prn := { arrays := loaded 17 16 } }
                commits := [{ gen := 1, applied := 8, cfg := { prn := { arrays := loaded 33 8 } } }] } }

theorem test_PrintStaging :
    all [ran 0x0301 layerBindChecks (.prnLayerBind 0)
        [(8, 2), (9, 1), (10, 3), (11, 1), (12, 3), (13, 7), (14, 5), (16, 1), (17, 3), (18, 2), (19, 0xFF), (20, 2 ^ 32 - 1), (24, 9), (28, 1),
          (33, 2 ^ 120 - 1)]
        (staging { layers := [(1, { bound := true, z := 3 }), (2, { bound := true, z := 6 })] } (bigBuffer prn))
        (fun s => (Tab.get {} s.staged.layers 1).bound) fun s t => fin 0 s t 0 0 0 && Tab.get {} t.staged.layers 1 == { bound := true, z := 6 } &&
          Tab.get {} t.staged.layers 2 == { bound := true, z := 3, overlay := true, policy := Policy.ofCode 3, allowReduce := true, repeatX := true, repeatY := true, handle := 5, scaleX := 1, scaleY := 4, filter := 2, covChannel := 0xFF, xOrigin := -1, yOrigin := 9, coverage := 1, chMap := (2 ^ 120 - 1) * 256 },
      ran 0x0301 layerBindChecks (.prnLayerBind 0)
        [(8, 2), (9, 1), (10, 3), (14, 5), (16, 2), (17, 2), (28, 1), (33, 2 ^ 120 - 1)]
        (staging { layers := [(1, { bound := true, z := 3 }), (3, { bound := true, z := 4 })] } (bigBuffer prn))
        (fun s => !(Tab.get {} s.staged.layers 2).bound) fun _ t => Tab.get {} t.staged.layers 1 == {} &&
          Tab.get {} t.staged.layers 3 == { bound := true, z := 4 } && (Tab.get {} t.staged.layers 2).scaleX == 2,
      ran 0x0301 layerBindChecks (.prnLayerBind 0) [(8, 7), (9, 2)] (staging { layers := [(7, { bound := true })] } prn)
        (fun _ => true) fun s t => fin 0 s t 0 0 0 && t.staged.layers == [],
      ran 0x0301 layerBindChecks (.prnLayerBind 0) [(8, 0), (9, 3), (14, 5)]
        (staging { layers := [(0, { bound := true, z := 4 })] } (bigBuffer prn)) (fun _ => true) fun s t =>
          fin 0 s t 0 0 0 && t.staged.layers == [(0, { bound := true, z := 4, handle := 5 })],
      ran 0x0302 toneChecks (.prnToneLoad 0) [(8, 1), (9, 7), (10, 15), (12, 1), (14, 5)]
        { (bigBuffer prn) with dram := [(0x400000, 3)] } (fun s => decide (1 ≤ s.tablesFree) &&
          s.bufBytes 5 2050 2 == [0, 0]) fun s t => fin 0 s t 0 0 0 && (Tab.get {} t.staged.pre 127).data.take 2 == [3, 0] &&
          t.staged.post == [] && t.staged.comp == [],
      ran 0x0302 toneChecks (.prnToneLoad 0) [(8, 3), (10, 2), (11, 62), (12, 2), (14, 5)]
        { (bigBuffer prn) with dram := [(0x400804, 3)] } (fun s => decide (2 ≤ s.tablesFree) && s.bufBytes 5 4102 2 == [0, 0]) fun s t =>
        fin 0 s t 0 0 0 && (Tab.get {} t.staged.comp 191).data.take 2 == [3, 0] && (Tab.get {} t.staged.comp 190).data.take 2 == [0, 0] &&
          t.staged.pre == [],
      ran 0x0302 toneChecks (.prnToneLoad 0) [(8, 2), (10, 4), (12, 1), (13, 1)]
        (staging { post := [(4, { id := 1 })] } prn) (fun s => !bitAt s.prn.colourHeld 4) fun s t => fin 0 s t 0 0 0 && t.staged.post == [],
      ran 0x0302 toneChecks (.prnToneLoad 0) [(8, 2), (10, 4), (12, 1), (13, 1)] { prn with prn := { colourHeld := 16 } }
        (fun s => bitAt s.prn.colourHeld 4) fun s t => fin 0 s t 0x14 0x0902 0,
      ran 0x0302 toneChecks (.prnToneLoad 0) [(8, 1), (12, 1), (14, 5)] { (bigBuffer prn) with dram := [(0x400803, 1)] }
        (fun s => s.bufBytes 5 2051 1 != [0] && s.bufBytes 5 2050 1 == [0]) fun s t => fin 0 s t 0x11 0x0210 2051 && t.frames == s.frames,
      ran 0x0303 screenChecks (.prnScreenLoad 0) [(8, 15), (9, 3), (24, 1), (27, 4), (28, 512), (30, 3)] prn (fun _ => true)
        fun s t => fin 0 s t 0 0 0 && Tab.get {} t.staged.screens 15 == { phaseX := 1, stepY := 4, gain := 512, reach := 3 },
      ran 0x0303 screenChecks (.prnScreenLoad 0) [(8, 15), (9, 2)] (staging { arrays := loaded 1 16 } prn) (fun _ => true)
        fun s t => fin 0 s t 0 0 0 && Tab.get {} t.staged.arrays 15 == {} && (Tab.get {} t.staged.arrays 14).id == 15,
      acc 0x0303 screenChecks 0 (cmd 0x0303 [(8, 15), (9, 1), (10, 5)] (bigBuffer prn)) && decide (0 < prn.arraysFree),
      acc 0x0303 screenChecks 0 (cmd 0x0303 [(8, 15), (9, 1), (10, 5)] fullArrays) && fullArrays.arraysFree == 0,
      acc 0x0302 toneChecks 0 (cmd 0x0302 [(8, 1), (12, 1), (14, 5)] (staging fullTables (bigBuffer prn))) &&
        (bigBuffer prn).bufBytes 5 2050 2 == [0, 0]] = true := by
  decide +kernel

theorem eraseDups_range' (n s : Nat) : (List.range' s n).eraseDups = List.range' s n := by
  induction n generalizing s with
  | zero => rfl
  | succ n ih =>
    rw [List.range'_succ, List.eraseDups_cons, List.filter_eq_self.mpr, ih]
    intro a h
    rw [List.mem_range'_1] at h
    simp only [Bool.not_eq_eq_eq_not, Bool.not_true, beq_eq_false_iff_ne]
    omega

theorem loads_loaded (k : Nat) : loads (loaded 1 k) = List.range' 1 k := by
  rw [loads, loaded, List.map_map, List.range_eq_range', List.filter_eq_self.mpr]
  · simp only [Function.comp_def, List.map_add_range', Nat.add_zero]
  · simp

theorem tablesUsed_stitch (s : State) (t : Tab Loaded) (hs : s.staged = { stitch := t }) (hj : s.prn.job.isOpen = false) :
    s.tablesUsed = 2 * (loads t).eraseDups.length := by
  simp [State.tablesUsed, State.liveCfgs, hs, hj, loads]

theorem tablesFree_full (s : State) (hs : s.staged = fullTables) (hj : s.prn.job.isOpen = false) : s.tablesFree = 0 := by
  rw [State.tablesFree, tablesUsed_stitch s _ hs hj, loads_loaded, eraseDups_range', List.length_range']

theorem test_PrintStaging_fullTables : (staging fullTables (bigBuffer prn)).tablesFree = 0 := tablesFree_full _ rfl rfl

theorem bytes_nil (n : Nat) : ∀ a, Memory.bytes [] a n = List.replicate n 0 := by
  induction n with
  | zero => intro a; rfl
  | succ n ih => intro a; simp only [Memory.bytes, List.replicate_succ, ih]; rfl

theorem halfwords_zeros : ∀ n : Nat, halfwords (List.replicate (2 * n) 0) = List.replicate n 0
  | 0 => rfl
  | n + 1 => by
    have e : 2 * (n + 1) = 2 * n + 1 + 1 := by omega
    rw [e, List.replicate_succ, List.replicate_succ, halfwords, halfwords_zeros n, List.replicate_succ]
    rfl

theorem badCell_zeros : ∀ n i : Nat, badCell i (List.replicate (3 * n) 0) = none
  | 0, _ => rfl
  | n + 1, i => by
    have e : 3 * (n + 1) = 3 * n + 1 + 1 + 1 := by omega
    rw [e, List.replicate_succ, List.replicate_succ, List.replicate_succ, badCell, if_pos ⟨Nat.le_refl 0, Nat.le_refl 0⟩]
    exact badCell_zeros n (i + 1)

theorem test_PrintStaging_array (s : State) (hd : s.dram = []) (h off : Nat) :
    badCell 0 (halfwords (s.bufBytes h off 393216)) = none := by
  have e : s.bufBytes h off 393216 = List.replicate (2 * 196608) 0 := by rw [State.bufBytes, hd]; exact bytes_nil 393216 _
  rw [e, halfwords_zeros]
  exact badCell_zeros 65536 0

theorem test_PrintStaging_badArray :
      ran 0x0303 screenChecks (.prnScreenLoad 0) [(8, 15), (9, 1), (10, 5)] { (bigBuffer prn) with dram := [(0x400000, 1)] }
        (fun s => badCell 0 (halfwords (s.bufBytes 5 0 393216)) == some 0) (fun s t => fin 0 s t 0x11 0x0110 0 && t.frames == s.frames) = true :=
  by decide +kernel

theorem test_JobOpens :
    all [ran 0x0300 jobOpenChecks (.prnJobOpen 0) [(8, 9), (12, 7), (24, 32), (28, 2), (32, 1), (44, 5)]
        (prn.setWebBar 0 { enabled := true, lp := 256 }) (fun _ => true) fun s t => fin 0 s t 0 0 (unsigned 32 t.prn.job.nFirst) &&
          t.prn.job.isOpen && t.prn.job.closing && t.prn.job.lastFrame == 11 && t.frames.openFirst == 7 && t.prn.job.nFirst % 32 == 0 &&
          t.prn.job.stripK == 16 && t.frames.nCut == 2,
      ran 0x0300 jobOpenChecks (.prnJobOpen 0) [(8, 9), (12, 7), (16, 3200), (24, 32), (29, 1), (30, 3), (32, 1)]
        (prn.setWebBar 0 { enabled := true }) (fun _ => true) fun _ t => t.prn.job.nFirst == 3200 && t.frames.nCut == 4 &&
          !t.prn.job.closing && t.prn.job.stripK == 3] = true := by
  decide +kernel

/-- That job with frame 8 cut and complete or not, and pending commits at 8 and 12. -/
def cutTo (p : FramePhase) (j : Job) (d : DevState) : State :=
  { jobbed with
    top := { dev := d, prev := .idle, mode := .print }
    prn := { job := { j with isOpen := true, jobId := 9, firstFrame := 7, frameLines := 32, bars := 1 } }
    frames := { openFirst := 9, nCut := 4, recs := [(8, { phase := p })], commits := [{ gen := 1, applied := 8 }, { gen := 2, applied := 12 }] } }

theorem test_JobEnds :
    all [ran 0x0305 jobCloseChecks (.prnJobClose 0) [(8, 9), (12, 8)] (cutTo .cut {} .run)
        (fun s => !FrameNo.later (s.frames.openFirst - 1) 8 && s.phase 8 != .complete)
        fun s t => fin 0 s t 1 1 0 && t.prn.job.closing && t.prn.job.lastFrame == 8 && t.frames.commits.length == 1 && t.prn.job.isOpen,
      ran 0x0305 jobCloseChecks (.prnJobClose 0) [(8, 9), (12, 7)] (cutTo .complete {} .run)
        (fun s => FrameNo.later (s.frames.openFirst - 1) 7 && s.phase 8 == .complete && s.beyond 8 == 1)
        fun s t => fin 0 s t 2 1 0 && !t.prn.job.isOpen && t.top.dev == .armed && t.frames.commits == [],
      ran 0x0305 jobCloseChecks (.prnJobClose 0) [(8, 9), (16, 1)] (cutTo .complete {} .halter)
        (fun s => s.phase 8 == .complete) fun s t => fin 0 s t 1 1 0 && !t.prn.job.isOpen && t.top.dev == .halter,
      ran 0x0305 jobCloseChecks (.prnJobClose 0) [(8, 9), (12, 20)] (cutTo .cut { closing := true, lastFrame := 10, reason := .abort } .armed)
        (fun s => FrameNo.later 20 s.prn.job.lastFrame && s.phase 10 != .complete) fun s t => fin 0 s t 1 1 0 && t.prn.job.lastFrame == 10 &&
          t.prn.job.reason == .abort && t.frames.commits.length == 2,
      ran 0x0305 jobCloseChecks (.prnJobClose 0) [(8, 9), (16, 1)] jobbed (fun s => s.frames.openFirst == s.prn.job.firstFrame)
        fun s t => fin 0 s t 0 0 0 && !t.prn.job.isOpen,
      ran 0x0305 jobCloseChecks (.prnJobClose 0) [(8, 9), (12, 6)] { jobbed with top := { dev := .run, prev := .armed, mode := .print } }
        (fun s => FrameNo.later s.prn.job.firstFrame 6) fun s t => fin 0 s t 0 0 0 && !t.prn.job.isOpen && t.top.dev == .armed,
      ran 0x0306 abortChecks (.prnAbort 0) [(8, 9)] jobbed (fun _ => true) fun s t => fin 0 s t 0 0 0 && !t.prn.job.isOpen,
      ran 0x0306 abortChecks (.prnAbort 0) [(8, 9)] (cutTo .cut {} .run) (fun s => s.phase 8 == .cut) fun s t =>
        fin 0 s t 0 0 0 && t.phase 8 == .complete && t.top.dev == .armed && t.frames.commits == []] = true := by
  decide +kernel

theorem test_PrintCommitAssigns :
    all [ran 0x0304 prnCommitChecks (.prnCommit 0) [(8, 7), (16, 9)] jobbed (fun s => !(s.slot 0).hitch &&
          (s.commitFailure s.newCfg).isNone && s.frames.applied (s.slot 0).nextOpen (s.slot 0).target == 7) fun s t =>
        fin 0 s t 0 0 1 && t.frames.genLast == 1 && t.frames.prevApplied == some 7,
      ran 0x0304 prnCommitChecks (.prnCommit 0) [(12, 1), (16, 9)] { jobbed with frames := { openFirst := 7, prevApplied := some 12 } }
        (fun s => (s.slot 0).nextOpen) fun s t => fin 0 s t 0 0 1 && t.frames.prevApplied == some 12,
      ran 0x0304 prnCommitChecks (.prnCommit 0) [(8, 3), (16, 9)] { jobbed with frames := { openFirst := 7, prevApplied := some 12 } }
        (fun s => (s.commitFailure s.newCfg).isNone) fun s t => fin 0 s t 2 0 1 && t.frames.prevApplied == some 12,
      ran 0x0304 prnCommitChecks (.prnCommit 0) [(8, 30), (12, 2), (16, 9)]
        { jobbed with time := { hitch := { joined := true, member := 1, mask := 6 } } }
        (fun s => (s.slot 0).hitch && (s.commitFailure s.newCfg).isNone && bitAt s.time.hitch.mask 2 && s.time.hitch.proposals.isEmpty)
        fun s t => (t.slot 0).phase == .executing && (t.frames.hitch.map fun h => h.frame) == [30] &&
          t.time.hitch.proposals.contains (s.proposal 30)] = true := by
  decide +kernel

theorem test_PrintCommitRefused :
    ran 0x0304 prnCommitChecks (.prnCommit 0) [(8, 7), (16, 9)]
        (staging { layers := [(0, { bound := true, handle := 6, coverage := 1 })] } jobbed)
        (fun s => s.commitFailure s.newCfg == some (0x11, 0x0400, 6)) (fun s t => fin 0 s t 0x11 0x0400 6) = true := by
  decide +kernel

/-! ### Blocks FIRE and frames -/

/-- The image of a map of one node, 0, with 64 positions. -/
def mapImg : List Byte :=
  le 4 0x4D415042 ++ le 1 1 ++ le 1 1 ++ le 2 1 ++ le 4 64 ++ le 4 64 ++ le 16 0 ++
    (le 1 0 ++ le 1 0 ++ le 1 0 ++ le 1 0 ++ le 4 0 ++ le 2 64 ++ le 2 0 ++ le 2 0 ++ le 2 0) ++
    (le 4 0 ++ le 4 64 ++ le 4 0 ++ le 1 1 ++ le 3 0)

/-- The map of that image. -/
def oneMap : BarMap := readMap mapImg

/-- `prn` with that map staged for bar 0, link 0 claimed and node 0 a head node. -/
def mapped : State :=
  let s := (staging { maps := [(0, oneMap)] } prn).setLink 0 { state := .claimed, claim := 0x1001, nodes := 1 }
  s.setNode 0 { kind := 1, present := true, emitters := 128 }

/-- The state with that image in buffer 5. -/
def withImage (s : State) : State := { (bigBuffer s) with dram := Memory.setBytes [] 0x400000 mapImg }

/-- The image of a map load has no fault. -/
def goodShape (s : State) : Bool :=
  let img := mapImage (s.slot 0) s
  (mapFieldFault img).isNone && decide (mapLength img ≤ img.length) &&
    (mapFault s { s.staged with maps := Tab.put {} s.staged.maps 0 (readMap img) } 0 (readMap img)).isNone

/-- The hypotheses of a map load that has no fault, for a bar of no job. -/
def goodMap (s : State) : Bool := goodShape s && !s.jobBars.contains 0

theorem test_EventsRaised :
    all [que idle 4 3, waits (raise 4 3 [7] idle) 4 3 [7], (raise 4 3 [7] idle).cmd.evtSeq == 1,
      { idle with cmd := { masked := [(4, 3, 3)] } }.evtMasked 4 3,
      State.reset.beforeReady,
      (let s : State := { idle with cmd := { backlog := List.replicate 1024 { time := 0, source := 4, code := 3, seq := 0, data := List.replicate 108 0 } } };
        backlogRecords s.cmd.backlog == 4096 && !s.evtMasked 4 3 && !s.beforeReady && (raise 4 3 [] s).cmd.lostAll == 1 &&
        (raise 4 3 [] s).cmd.lostFrame == 0 && !s.evtMasked 7 0x0100 && (raise 7 0x0100 [] s).cmd.lostFrame == 1)] = true := by
  decide +kernel

theorem test_FireCommands :
    all [ran 0x0400 mapLoadChecks (.fireMapLoad 0) [(8, 0), (12, 5)] (withImage mapped) goodMap fun s t =>
        fin 0 s t 0 0 128 && t.staged.map 0 == oneMap,
      ran 0x0400 mapLoadChecks (.fireMapLoad 0) [(8, 0), (12, 5)]
        (withImage (mapped.stage fun c => { c with maps := [(1, { positions := 1000000 })] })) goodMap fun s t =>
          fin 0 s t 0x11 0x0710 2000128,
      ran 0x0400 mapLoadChecks (.fireMapLoad 0) [(8, 0), (12, 5)] { (withImage mapped) with dram := [] }
        (fun s => (mapFieldFault (mapImage (s.slot 0) s)).isSome) fun s t => fin 0 s t 0x11 0x0110 0,
      ran 0x0400 mapLoadChecks (.fireMapLoad 0) [(8, 0), (12, 5)] ((withImage mapped).setBuf 5 { ((withImage mapped).buf 5) with size := 61 })
        (fun s => let img := mapImage (s.slot 0) s; (mapFieldFault img).isNone && decide (img.length < mapLength img)) fun s t =>
          fin 0 s t 0x11 0x0110 5,
      ran 0x0400 mapLoadChecks (.fireMapLoad 0) [(8, 0), (12, 5)] { (withImage mapped) with dram := Memory.setBytes [] 0x400000 (mapImg.set 32 1) }
        (fun s => let img := mapImage (s.slot 0) s; (mapFieldFault img).isNone && decide (mapLength img ≤ img.length) &&
          (mapFault s { s.staged with maps := Tab.put {} s.staged.maps 0 (readMap img) } 0 (readMap img)).isSome) fun s t =>
            t.staged.map 0 == s.staged.map 0,
      ran 0x0400 mapLoadChecks (.fireMapLoad 0) [(8, 0), (12, 5)]
        (withImage { (staging { maps := [(0, { oneMap with positions := 5 })] } jobbed) with rein := mapped.rein })
        (fun s => s.jobBars.contains 0 && s.staged.hasMap 0 && !(s.staged.map 0).sameShape oneMap &&
          goodShape s) fun s t => fin 0 s t 0x12 s.top.dev.code 0,
      ran 0x0401 maskLoadChecks (.fireMaskLoad 0) [(8, 0), (9, 1), (10, 15), (12, 5)] (withImage mapped)
        (fun s => decide (1 ≤ s.tablesFree)) fun s t => fin 0 s t 0 0 0 &&
          (Tab.get {} t.staged.patterns 15).data.take 2 == [0x42, 0x50],
      ran 0x0401 maskLoadChecks (.fireMaskLoad 0) [(8, 0), (9, 2), (12, 5)] (withImage mapped)
        (fun s => decide (2 ≤ s.tablesFree)) fun s t => fin 0 s t 0 0 0 && (Tab.get {} t.staged.stitch 0).data.take 2 == [0x42, 0x50] &&
          t.staged.patterns == s.staged.patterns,
      ran 0x0401 maskLoadChecks (.fireMaskLoad 0) [(8, 0), (9, 4)] (mapped.stage fun c => { c with stitch := [(0, { id := 4 })] })
        (fun _ => true) fun s t => fin 0 s t 0 0 0 && t.staged.stitch == [],
      ran 0x0402 nozzleChecks (.fireNozzleState 0) [(8, 0), (9, 1), (12, 126), (14, 2), (18, 5)]
        { (withImage mapped) with dram := Memory.setBytes [] 0x400000 [0, 2, 7, 0] } (fun _ => true) fun s t =>
          fin 0 s t 0 0 0 && t.staged.nozzles == [(127, 7)],
      ran 0x0402 nozzleChecks (.fireNozzleState 0) [(8, 0), (9, 1), (12, 126), (14, 2), (18, 5)]
        { (withImage mapped) with dram := Memory.setBytes [] 0x400000 [0, 2, 0, 12] } (fun _ => true) fun s t =>
          fin 0 s t 0x11 0x0118 127,
      ran 0x0402 nozzleChecks (.fireNozzleState 0) [(8, 0), (9, 2), (12, 126), (14, 2), (16, 0x1000)] mapped (fun _ => true) fun s t =>
          fin 0 s t 0x11 0x0210 126 && t.staged.nozzles == [],
      ran 0x0401 maskLoadChecks (.fireMaskLoad 0) [(8, 0), (9, 3), (10, 1)] (mapped.stage fun c => { c with patterns := [(1, { id := 4 })] })
        (fun _ => true) fun s t => fin 0 s t 0 0 0 && t.staged.patterns == [],
      ran 0x0402 nozzleChecks (.fireNozzleState 0) [(8, 0), (9, 2), (12, 126), (14, 2), (16, 9 * 64)] mapped
        (fun s => (recordFault ((s.slot 0).u 16 2)).isNone) fun s t => fin 0 s t 0 0 0 && t.staged.nozzles == [(126, 576), (127, 576)],
      ran 0x0403 timingChecks (.fireTiming 0) [(8, 0), (9, 32), (10, 1), (12, 100), (14, 10), (16, 500), (18, 800), (20, 1000),
          (28, 100), (30, 20000)] mapped (fun _ => true) fun s t => fin 0 s t 0 0 0 && (t.staged.timingOf 0).groups == 32 &&
          (t.staged.timingOf 0).kwRate == 20000,
      ran 0x0404 spitChecks (.fireSpitConfig 0) [(8, 0), (9, 1), (10, 1024), (12, 1), (16, 3)] mapped (fun _ => true) fun s t =>
        fin 0 s t 0 0 0 && (Tab.get {} t.staged.spit 0) == { lines := 1024, idleLines := 1, dot := 3 }] = true := by
  decide +kernel

/-- `mapped` with that configuration in force and a bank write of node 0 on its way. -/
def writing : State :=
  { (mapped.setBanks 0 { writes := [{ bank := 1, content := { timing := [1, 2, 3, 4], pattern := [], nozzles := [] } }] }) with
    frames := { base := { prn := { maps := [(0, oneMap)] } } } }

/-- That write, due once frame 5's last line has fired. -/
def after5 (ticks : List (Int × Int × Nat)) : State :=
  let s := writing.setBanks 0 { writes := [{ bank := 1, after := some 5 }] }
  let n := s.lastLineOf 5
  (s.setWebBar 0 { enabled := true, nl := n + 1 }).setFireBar 0 { ticks := ticks.map fun e => (n, e.2.1, e.2.2) }

theorem test_PurgesAndBankWrites :
    all [ran 0x0404 spitChecks (.fireSpitConfig 0) [(8, 0), (9, 2), (20, 65535), (24, 100), (26, 1)] mapped
        (fun s => !s.jobBars.contains 0 && !(s.fireBar 0).purging) fun s t => fin 0 s t 1 0 0 && (t.fireBar 0).purging &&
          (t.fireBar 0).purgeCount == 65535 && (t.node 0).toHalter,
      ran 0x0404 spitChecks (.fireSpitConfig 0) [(8, 0), (9, 2), (20, 65535), (24, 100), (26, 1)]
        (staging { maps := [(0, oneMap)] } jobbed) (fun s => s.jobBars.contains 0) fun s t => fin 0 s t 0x14 0x0300 0,
      ran 0x0404 spitChecks (.fireSpitConfig 0) [(8, 0), (9, 2), (20, 65535), (24, 100), (26, 1)]
        (mapped.setFireBar 0 { purging := true }) (fun s => (s.fireBar 0).purging) fun s t => fin 0 s t 0x14 0x0404 0,
      still (.purgeDone 0) mapped fun s => !(s.fireBar 0).purging,
      still (.purgeDone 0) (mapped.setFireBar 0 { purging := true, purgeCount := 5, purgeStart := 1000000000 }) fun s =>
        (s.fireBar 0).pulses s.uptime != 5,
      met (.purgeDone 0) (mapped.setFireBar 0 { purging := true, purgeCount := 5, purgeRate := 100 })
        (fun s => (s.fireBar 0).pulses s.uptime == 5 && que s 4 3) fun _ t => !(t.fireBar 0).purging &&
          waits t 4 3 [0, 0, 5, 0, 0, 0],
      met (.purgeDone 0) (mapped.setFireBar 0 { purging := true, purgeCount := 5, purgeRate := 100, purgeAborted := some 3 })
        (fun s => que s 4 3) fun _ t => waits t 4 3 [0, 1, 3, 0, 0, 0],
      met (.bankWriteStart 0) writing (fun s => s.frames.latest.prn.barOf 0 == some 0 && s.claimed 0) fun s t =>
        (t.banks 0).writes.map (fun w => (w.bank, w.started)) == [(1, true)] && t.frames == s.frames,
      met (.bankWriteStart 0) (after5 [(0, 1, 0)]) (fun s => s.lineFired 0 (s.lastLineOf 5) (0, 0) && s.claimed 0) fun _ t =>
        (t.banks 0).writes.map (·.started) == [true],
      still (.bankWriteStart 0) (after5 [(0, 2 * 10 ^ 9, 0)]) fun s => !s.lineFired 0 (s.lastLineOf 5) (0, 0),
      still (.bankWriteStart 0) (writing.setLink 0 {}) fun s => !s.claimed 0,
      still (.bankWriteStart 0) (writing.setBanks 0 { writes := [] }) fun s => (s.banks 0).writes == [],
      still (.bankWriteStart 9) writing fun s => (s.frames.latest.prn.barOf 9).isNone] = true := by
  decide +kernel

/-- `jobbed` with that map in force and node 0's link claimed. -/
def running : State :=
  let c : OutCfg := { prn := { maps := [(0, oneMap)] } }
  { (mapped.setWebBar 0 { enabled := true, nl := 1, lp := 256 }) with
    prn := { job := { jobbed.prn.job with nFirst := 320, isOpen := true } }
    frames := { openFirst := 7, nCut := 4, base := c, staged := c, baseHost := true } }

/-- That job with its bar's line position at the first line of the job. -/
def atFirst (b : State) : State := b.setWebBar 0 { enabled := true, nl := 320, offset := 320 * 256, lp := 320 * 256 }

/-- A layer whose missing buffer skips the frame. -/
def skipper : Layer := { bound := true, handle := 6, coverage := 1, policy := .skipFrame }

theorem test_PrintBandsAndCutoff :
    all [met .frameCutoff (atFirst running) (fun s => s.printCutoffDue 7) fun _ t =>
        t.frames.openFirst == 8 && t.phase 7 == .cut && !(t.frame 7).skipped,
      met .frameCutoff { (atFirst running) with frames := { running.frames with base := { prn := { maps := [(0, oneMap)], layers := [(0, skipper)] } } } }
        (fun s => (s.readiness 7).skip) fun _ t => (t.frame 7).skipped,
      still .frameCutoff running fun s => !s.printCutoffDue 7,
      met (.bandDispatch 15) { running with prn := { running.prn with bandqSlots := 4 }, frames := { running.frames with next := [(0, (7, 0))] } }
        (fun s => s.engineFree 15 && (earliest s.waitingBands).isSome) fun _ t =>
          t.frames.bands.any fun y => y.phase == .rendering && y.engine == 15 && y.frame == 7,
      met (.bandRenderEnd 0) { running with frames := { running.frames with bands := [{ frame := 7, phase := .rendering, gen := running.genOf 7 }] } }
        (fun s => !s.memStalled && s.frames.bands.all fun x => s.renderDue x && s.tagOk x) fun _ t =>
          t.frames.bands.map (·.phase) == [.complete],
      still (.bandDispatch 99) running fun s => !s.engineFree 99,
      still (.bandDispatch 0) idle fun s => !s.prn.job.isOpen && !s.scanning,
      still (.bandDispatch 0) { running with prn := { running.prn with job := { running.prn.job with closing := true, lastFrame := 6 } }, frames := { running.frames with next := [(0, (7, 0))] } }
        fun s => s.engineFree 0 && s.prn.job.isOpen && (earliest s.waitingBands).isNone,
      met (.bandRenderEnd 0) { running with frames := { running.frames with bands := [{ frame := 7, phase := .rendering, gen := 9 }] } }
        (fun s => s.frames.bands.all fun x => s.renderDue x && !s.tagOk x && s.phase 7 == .opened) fun _ t =>
          t.frames.bands.map (·.phase) == [.queued],
      met (.bandRenderEnd 0) { running with frames := { running.frames with bands := [{ frame := 7, phase := .rendering, fetched := true }] } }
        (fun s => s.frames.bands.all fun x => s.renderDue x) fun _ t => t.frames.bands == [],
      still (.bandRenderEnd 0) running fun s => s.frames.bands == [],
      still (.bandFetchPoint 0) running fun s => !s.scanning && !s.fetchDue 0,
      still (.bandRenderEnd 0) { running with frames := { running.frames with bands := [{ frame := 7, phase := .rendering, cost := 10 ^ 12 }] } }
        fun s => s.frames.bands.all fun x => !s.renderDue x,
      met (.bandFetchPoint 0) { (atFirst running) with frames := { running.frames with openFirst := 8, fetch := [(0, (7, 0))], next := [(0, (7, 1))], recs := [(7, { phase := .cut, barsLeft := [0] })] } }
        (fun s => !s.memStalled && s.fetchDue 0 && s.phase 7 == .cut) fun s t =>
          t.phase 7 == .delivering && Tab.get (0, 0) t.frames.fetch 0 == s.bandAfter (7, 0)] = true := by
  decide +kernel

/-- Frame 7 of that job, cut, with the fields given. -/
def withFrame (r : Frame) : State :=
  { running with frames := { running.frames with openFirst := 8, recs := [(7, r)] } }

theorem test_FramesComplete :
    all [met (.frameComplete 7) (withFrame { phase := .delivering }) (fun s => s.printDone 7) fun _ t => t.phase 7 == .complete,
      still (.frameComplete 7) (withFrame { phase := .delivering, barsLeft := [0] }) fun s => !s.printDone 7,
      met (.frameRecord 7) (withFrame { phase := .complete }) (fun s => s.recordDue 7 && !s.recordQuiet 7 && que s 3 0x0100) fun _ t =>
        t.frames.frameLast == 7 && t.frame 7 == {} && t.cmd.backlog.any fun e => e.code == 0x0100 && e.frame && e.data.take 4 == le 4 7,
      still (.frameRecord 7) (withFrame { phase := .complete, checks := [(5, 0)] }) fun s => !s.recordDue 7,
      met (.frameRecord 7) { (withFrame { phase := .complete }) with tan := { skipTo := some 7 } }
        (fun s => s.recordDue 7 && s.recordQuiet 7 && !s.shadow) fun s t => t.frame 7 == {} && t.frames.frameLast == s.frames.frameLast &&
          t.cmd.backlog == [],
      met (.frameRecord 7) { idle with
          top := { dev := .armed, mode := .lightfield }, frames := { openFirst := 8, recs := [(7, { phase := .complete })] } }
        (fun s => s.recordDue 7 && !s.recordQuiet 7 && que s 7 0x0100) fun _ t => t.cmd.backlog.any fun e => e.source == 7 && e.frame,
      still (.contentCheckDone 7 5) (withFrame { phase := .complete }) fun s => (s.frame 7).checks == [],
      met (.contentCheckDone 7 5) { ((withFrame { phase := .complete, checks := [(5, 0)] }).setBuf 5 { size := 64, base := 0 }) with
          poison := [(0, true)] } (fun s => s.poisoned (s.buf 5).base (s.buf 5).size) fun _ t =>
            bitAt (t.frame 7).flags Flag.dataPoisoned.bit && bitAt (t.frame 7).flags Flag.contentChanged.bit && (t.frame 7).changed == 5,
      met (.contentCheckDone 7 5) ((withFrame { phase := .complete, checks := [(5, 0)] }).setBuf 5 { size := 4, crc := crc32 [0, 0, 0, 0] })
        (fun s => !s.poisoned (s.buf 5).base (s.buf 5).size) fun _ t => (t.frame 7).checks == [] && (t.frame 7).flags == 0,
      met (.contentCheckDone 7 5) ((withFrame { phase := .complete, checks := [(5, 0)] }).setBuf 5 { size := 4, crc := 1 })
        (fun s => crc32 (s.dram.bytes 0 4) != 1) fun _ t => bitAt (t.frame 7).flags 5,
      met (.lastTickTimeout 255) (withFrame { phase := .delivering, nodesLeft := [(255, 998000000)] }) (fun _ => true) fun _ t =>
        (t.frame 7).linesBlanked == 1 && bitAt (t.frame 7).flags 1] = true := by
  decide +kernel

/-! ### Block REIN -/

/-- A part in ARMED for print whose link 31 has one node, 248, and this state. -/
def linked (x : LinkState) : State :=
  (prn.setLink 31 { state := x, claim := if x = .claimed then 0x1001 else 0, nodes := 1 }).setNode 248
    { kind := 1, present := true, toHalter := true }

theorem test_LinkStates :
    all [ran 0x0503 linkStateChecks (.reinLinkState 0) [(8, 2 ^ 31), (12, 1), (13, 1)] prn (fun s => (s.link 31).state == .down)
        fun _ t => (t.link 31).state == .adapting && (t.link 31).endB && t.rein.ups.map (·.pendingMask) == [2 ^ 31],
      ran 0x0503 linkStateChecks (.reinLinkState 0) [(8, 2 ^ 31 + 1), (12, 1)] ((linked .claimed).setLink 0 { state := .adapting })
        (fun _ => true) fun s t => t.rein.ups.map (·.pendingMask) == [1] && t.rein.links == s.rein.links,
      ran 0x0503 linkStateChecks (.reinLinkState 0) [(8, 2 ^ 31), (12, 1)] (linked .claimed) (fun _ => true)
        fun s t => fin 0 s t 0 0 0 && t.rein.links == s.rein.links,
      ran 0x0503 linkStateChecks (.reinLinkState 0) [(8, 2 ^ 31 + 1), (12, 3)] (linked .locked) (fun s => (s.link 0).state == .down)
        fun s t => fin 0 s t 3 1 1 && (t.link 31).state == .observing,
      ran 0x0503 linkStateChecks (.reinLinkState 0) [(8, 2 ^ 31), (12, 2)] (linked .claimed)
        (fun s => s.linksHeld (2 ^ 31) == none && (s.calInst 40).waiters == [] && s.rein.ups == []) fun s t =>
          fin 0 s t 0 0 0 && (t.link 31).state == .down,
      ran 0x0503 linkStateChecks (.reinLinkState 0) [(8, 2 ^ 31), (12, 3)] (linked .claimed) (fun s => s.linksHeld (2 ^ 31) == none)
        fun s t => fin 0 s t 0 0 0 && (t.link 31).state == .observing && t.out == [.reinFrame 31 (releaseFrame 0x1001)],
      ran 0x0503 linkStateChecks (.reinLinkState 0) [(8, 2 ^ 31), (12, 2)]
        { (linked .claimed) with tan := { state := .active, linkMask := 2 ^ 31 } } (fun s => s.linksHeld (2 ^ 31) == some 0x0E00)
        fun s t => fin 0 s t 0x14 0x0E00 0,
      met (.adaptationDone 31 300) ((linked .adapting).setLink 31 { state := .adapting, adaptStart := 900000000 })
        (fun s => !eyeTooNarrow (s.calPolicy 40) 300 && decide (s.uptime ≤ (s.link 31).adaptStart + 100000000)) fun _ t =>
        (t.link 31).state == .locked && (t.link 31).eye == 300,
      still (.adaptationDone 31 300) (linked .adapting) fun s => decide ((s.link 31).adaptStart + 100000000 < s.uptime),
      still (.adaptationDone 31 300) (linked .claimed) fun s => (s.link 31).state != .adapting,
      still (.adaptationDone 31 0) ((linked .adapting).setLink 31 { state := .adapting, adaptStart := 900000000 })
        fun s => eyeTooNarrow (s.calPolicy 40) 0,
      still (.adaptationTimeout 31) (linked .locked) fun s => (s.link 31).state != .adapting,
      still (.blockLockLost 31) (linked .adapting) fun _ => true,
      met (.blockLockLost 31) (linked .locked) (fun _ => true) fun s t => (t.link 31).state == .adapting && t.frames == s.frames,
      met (.adaptationTimeout 31) (linked .adapting) (fun s => decide ((s.link 31).adaptStart + 100000000 ≤ s.uptime)) fun _ t =>
        (t.link 31).state == .failed,
      still (.adaptationTimeout 0) { prn with uptime := 99999999 } fun _ => true,
      met (.blockLockLost 0) { running with top := { running.top with dev := .run }, frames := { running.frames with recs := [(6, { phase := .delivering })] } }
        (fun s => s.claimed 0 && s.linkHolder 0 != none) fun _ t => (t.link 0).state == .adapting && (t.link 0).relock &&
          bitAt (t.frame 6).flags 13] = true := by
  decide +kernel

/-- An answer of a head node at hop 0 that holds `held`. -/
def answer (held : Nat) : List Byte :=
  mkFrame FType.enumResp 0 0 0 ([0#8, 0, 0, 0] ++ le 2 held ++ le 2 0 ++ le 4 0 ++ le 1 1 ++ le 19 0)

/-- `linked` with an enumeration of link 31 that has collected for 100 µs. -/
def asking (claim : Bool) : State :=
  let s := linked .locked
  { s with
    cmd := { s.cmd with slots := [(0, { phase := .executing, id := 1 })] }
    rein := { s.rein with enums := [{ slot := 0, id := 1, mask := 2 ^ 31, claim := claim, cls := 2, start := 999900000 }] } }

theorem test_Enumeration :
    all [ran 0x0500 enumerateChecks (.reinEnumerate 0) [(8, 2 ^ 31), (12, 1)] (linked .locked) (fun s => (s.link 31).enumerable &&
          s.linksHeld (2 ^ 31) == none && s.rein.enums == []) fun _ t => t.rein.enums.length == 1 &&
          t.out == [.reinFrame 31 (enumFrame 0 false 31 false 0)],
      met (.enumCollectExpiry 0 [(31, answer 0)] [(31, 0, 10 ^ 6)]) (asking false)
        (fun s => enumFault s.top.mode (respsOf 31 [(31, answer 0)]) == 0 && (respsOf 31 [(31, answer 0)]).length == 1) fun s t =>
          (t.link 31).state == .observing && (t.link 31).nodes == 1 && fin 0 s t 0 1 (2 ^ 31),
      met (.enumCollectExpiry 0 [(31, answer 0x2005)] [(31, 0, 10 ^ 6)]) (asking true)
        (fun s => enumFault s.top.mode (respsOf 31 [(31, answer 0x2005)]) == 0) fun s t =>
          (t.link 31).state == .claimed && (t.link 31).claim == 0x2006 && fin 0 s t 0 1 (2 ^ 31),
      met (.enumCollectExpiry 0 [(31, answer 0x1005)] [(31, 0, 10 ^ 6)]) (asking true) (fun _ => true) fun _ t =>
        (t.link 31).claim == 0x2001,
      met (.enumCollectExpiry 0 [(31, answer 0x3001)] [(31, 0, 10 ^ 6)]) (asking true)
        (fun _ => (respsOf 31 [(31, answer 0x3001)]).any fun r => decide (2 < r.held / 4096)) fun s t => fin 0 s t 0x14 0x0500 0,
      met (.enumCollectExpiry 0 [(31, answer 0x2FFF)] []) (asking true)
        (fun _ => claimEpoch 2 ((respsOf 31 [(31, answer 0x2FFF)]).map (·.held)) == some 4096) fun s t => fin 0 s t 0x11 0x070D 0,
      met (.enumCollectExpiry 0 [(31, answer 0)] []) (asking false)
        (fun s => enumFault s.top.mode (respsOf 31 [(31, answer 0)]) == 0) fun s t =>
          (t.link 31).state == .failed && (t.link 31).enumErr == 5 && fin 0 s t 3 1 0,
      met (.enumCollectExpiry 0 [(31, answer 0), (31, answer 0)] []) (asking true)
        (fun s => enumFault s.top.mode (respsOf 31 [(31, answer 0), (31, answer 0)]) == 2) fun s t =>
          (t.link 31).state == .failed && (t.link 31).enumErr == 2 && fin 0 s t 3 1 0,
      ran 0x0500 enumerateChecks (.reinEnumerate 0) [(8, 2 ^ 31), (12, 2), (13, 1)]
        { (linked .claimed) with tan := { state := .active, linkMask := 2 ^ 31 } } (fun s => s.linksHeld (2 ^ 31) == some 0x0E00)
        fun s t => fin 0 s t 0x14 0x0E00 0 && t.rein.enums == [],
      still (.enumCollectExpiry 1 [] []) (asking true) fun s => (s.rein.enums.find? fun r => r.slot == 1) == none] = true := by
  decide +kernel

/-- `linked .claimed` with a request of tag 3 to node 248 under way since `sent`, made for slot 0. -/
def requesting (tries sent : Nat) : State :=
  let s := (linked .claimed).setNode 248
    { (linked .claimed).node 248 with reqs := [{ tag := 3, sent := sent, tries := tries, onWire := true, owner := 2, words := 1 }] }
  ({ s with cmd := { s.cmd with slots := [(0, { phase := .executing, id := 1 })] } }).setTransfer 0 { id := 1, node := 248, words := 1 }

/-- A status frame of node 248 that holds `held`. -/
def statusFrame (held : Nat) : List Byte := mkFrame FType.status 248 0 0 (le 2 1 ++ le 2 held ++ le 4 9 ++ le 56 0)

theorem test_NodeTransfersAndStatus :
    all [ran 0x0501 (nodeXferChecks false) (.reinNodeRead 0) [(8, 248), (10, 300), (12, 0x200), (16, 5)]
        (buffer .filling (linked .claimed) |>.setBuf 5 { size := 4096, state := .filling }) (fun _ => true) fun _ t =>
          (t.node 248).reqs.any fun q => q.words == 256 && q.addr == 0x200 && q.owner == 2,
      ran 0x0502 (nodeXferChecks true) (.reinNodeWrite 0) [(8, 248), (10, 1), (12, 0x110), (32, 7)] (linked .claimed) (fun _ => true)
        fun _ t => (t.node 248).reqs.any fun q => q.write && q.data == [7, 0, 0, 0],
      met (.ctrlRespRx 31 (mkFrame 4 248 0 0 ([0#8, 3] ++ le 6 0 ++ le 4 77))) (requesting 1 0)
        (fun s => s.running 0 (s.transfer 0).id) fun s t => fin 0 s t 0 0 77,
      still (.ctrlRespRx 31 (mkFrame 4 248 0 0 ([3#8, 3] ++ le 6 0))) (requesting 1 0) fun _ => true,
      still (.ctrlRespRx 31 (mkFrame 4 248 0 0 ([0#8, 4] ++ le 6 0))) (requesting 1 0) fun _ => true,
      met (.ctrlRespRx 31 (mkFrame 4 248 0 0 ([1#8, 3] ++ le 6 0))) (requesting 1 0) (fun s => (s.transfer 0).doneWords == 0)
        fun s t => fin 0 s t 0x11 0x010C 0,
      met (.ctrlRespRx 31 (mkFrame 4 248 0 0 ([2#8, 3] ++ le 6 0))) ((requesting 1 0).setTransfer 0
          { id := 1, node := 248, words := 5, doneWords := 2 }) (fun _ => true) fun s t => fin 0 s t 3 2 2,
      met (.ctrlRespRx 31 (mkFrame 4 248 0 0 ([0#8, 3] ++ le 6 0 ++ le 4 77))) ((requesting 1 0).setTransfer 0
          { id := 1, node := 248, words := 3, doneWords := 2 }) (fun _ => true) fun s t => fin 0 s t 0 0 0 && t.dram.byte 8 == 77,
      met (.ctrlRespRx 31 (mkFrame 4 248 0 0 ([0#8, 3] ++ le 6 0 ++ le 4 77))) ((requesting 1 0).setTransfer 0
          { id := 1, node := 248, words := 300, doneWords := 2, addr := 0x200 }) (fun _ => true) fun _ t =>
            (t.transfer 0).doneWords == 3 && (t.node 248).reqs.map (fun q => (q.addr, q.words)) == [(0x20C, 256)],
      met (.ctrlRespRx 31 [0x78]) (linked .claimed) (fun _ => parseFrame [0x78] == none) fun _ t => (t.link 31).errFrames == 1,
      met (.ctrlRespRx 31 [1]) (linked .claimed) (fun _ => !goodBlock [1]) fun _ t => (t.link 31).errBlocks == 1,
      still (.ctrlRespRx 31 [0x1E]) (linked .claimed) fun _ => parseFrame [0x1E] == none,
      still (.ctrlRetryTimeout 248 4) (requesting 4 0) fun _ => true,
      met (.ctrlRetryTimeout 248 3) { (requesting 1 0) with rein := { (requesting 1 0).rein with links := [(31, { state := .observing })] } }
        (fun s => !s.claimed 31 && s.running 0 (s.transfer 0).id) fun s t => fin 0 s t 0x20 248 0 && (t.node 248).reqs == [],
      met (.statusFrameRx 31 [1]) (linked .claimed) (fun _ => !goodBlock [1]) fun _ t => (t.link 31).errBlocks == 1,
      still (.statusFrameRx 31 [0x1E]) (linked .claimed) fun _ => parseFrame [0x1E] == none,
      still (.statusFrameRx 30 (statusFrame 0x1001)) (linked .claimed) fun _ => (parseFrame (statusFrame 0x1001)).isSome,
      still (.halterRepeat 0) (linked .claimed) fun s => !(s.node 0).present,
      met (.halterRepeat 248) (linked .locked) (fun s => !s.claimed 31) fun _ t => t.out == [],
      met (.ctrlRetryTimeout 248 3) (requesting 3 999980000) (fun _ => true) fun _ t => (t.link 31).ctrlRetry == 1 &&
        (t.node 248).reqs.any fun q => q.tries == 4,
      met (.ctrlRetryTimeout 248 3) (requesting 4 0) (fun s => s.running 0 (s.transfer 0).id) fun s t => fin 0 s t 0x20 248 0 &&
        (t.link 31).ctrlNoResp == 1,
      met (.statusFrameRx 31 (statusFrame 0x1001)) (linked .claimed) (fun _ => (parseFrame (statusFrame 0x1001)).isSome) fun _ t =>
        (t.node 248).held == 0x1001 && (t.node 248).ticksSeen == 9 && (t.node 248).halter,
      met (.statusFrameRx 31 (statusFrame 0x1002)) (linked .claimed) (fun s => s.drillOn 31 == none && !s.tanLink 31) fun _ t =>
        (t.link 31).state == .observing,
      met (.statusFrameRx 31 [0x78]) (linked .claimed) (fun _ => parseFrame [0x78] == none) fun _ t => (t.link 31).errFrames == 1,
      met (.nodeSilent 248) (linked .claimed) (fun s => que s 5 2) fun _ t => (t.node 248).silent &&
        waits t 5 2 (248 :: le 8 0),
      still (.nodeSilent 248) { (linked .claimed) with uptime := 2999999 } fun _ => true,
      met (.halterRepeat 248) (linked .claimed) (fun s => (s.node 248).toHalter) fun _ t =>
        t.out == [.reinBlock 31 (holdBlock 0x2D 0x1001 248 false)]] = true := by
  decide +kernel

/-! ### The nodes of a chain -/

/-- The state whose node 0 is `c`. -/
def chained (c : ChainNode) : State := { idle with wall := 10000000, chain := [(0, c)] }

/-- A head node of four emitters that port A holds under claim 0x1001. -/
def head : ChainNode := { emitters := 4, held := 0x1001, holder := some false, assigned := true }

/-- A frame of type `ty` for every node with this claim, SEAMLESS or not, and data. -/
def toAll (ty claim : Nat) (seamless : Bool) (data : List Byte) : List Byte :=
  mkFrame ty 0 claim (if seamless then 0x18 else 0x10) data

/-- The frame in `bs` passes `p`. -/
def framed (bs : List Byte) (p : RxFrame → Bool) : Bool := (parseFrame bs).any fun f => f.all && p f

/-- A LINE frame and a ROW frame under claim 0x1001. -/
def lineTo (node : Nat) : List Byte := mkFrame 1 node 0x1001 0 (lineHeader 9 5 1 true none ++ List.replicate 8 3)
/-- A ROW frame for node 0 under claim 0x1001. -/
def rowTo : List Byte := mkFrame 2 0 0x1001 0 (rowHeader 9 70 true 0 1 ++ List.replicate 8 3)

theorem test_NodeClaims :
    all [met (.nodeDownstreamFrame 0 true (toAll 7 0x1002 false [2, 31, 1, 1])) (chained { head with run := .run })
        (fun s => framed (toAll 7 0x1002 false [2, 31, 1, 1]) fun f => f.ftype == 7 && byteAt f.data 0 == 2 &&
          decide ((s.cnode 0).held < f.claim) && !f.seamless) fun _ t => (t.cnode 0).held == 0x1002 && (t.cnode 0).holder == some true &&
          (t.cnode 0).assigned && (t.cnode 0).link == 31 && (t.cnode 0).position == 0 && (t.cnode 0).run == .halter,
      met (.nodeDownstreamFrame 0 false (toAll 7 1 true [2, 0, 0, 0])) (chained {}) (fun s => (s.cnode 0).holder == none &&
          framed (toAll 7 1 true [2, 0, 0, 0]) fun f => f.seamless) fun _ t => (t.cnode 0).held == 1,
      met (.nodeDownstreamFrame 0 false (toAll 6 0x1001 false [])) (chained head) (fun _ => parseFrame (toAll 6 0x1001 false []) == none)
        fun _ t => (t.cnode 0).crcErr == 1 && (t.cnode 0).held == 0x1001 && t.out == [.reinOn 0 1 (forwarded (toAll 6 0x1001 false []))],
      met (.nodeDownstreamFrame 0 true (enumFrame 5 false 0 false 0)) (chained head)
        (fun _ => framed (enumFrame 5 false 0 false 0) fun f => f.ftype == 7 && byteAt f.data 0 == 1) fun s t =>
          t.out == [.reinOn 0 0 (forwarded (enumFrame 5 false 0 false 0)), .reinUp 0 0 ((s.cnode 0).enumResp 0 true),
            .reinUp 0 1 ((s.cnode 0).enumResp 0 true)],
      met (.nodeDownstreamFrame 0 true (toAll 7 0x1001 false [2, 0, 0, 0])) (chained { head with run := .run })
        (fun s => framed (toAll 7 0x1001 false [2, 0, 0, 0]) fun f => f.claim == (s.cnode 0).held && !cableWrite f true) fun _ t =>
          (t.cnode 0).claimConflict && (t.cnode 0).holder == some false,
      met (.nodeDownstreamFrame 0 false (toAll 7 0x1001 false [2, 0, 0, 0])) (chained { head with run := .run, holder := some true })
        (fun s => framed (toAll 7 0x1001 false [2, 0, 0, 0]) fun f => f.claim == (s.cnode 0).held) fun _ t =>
          (t.cnode 0).claimConflict && (t.cnode 0).holder == some false,
      met (.nodeDownstreamFrame 0 false (lineTo 0)) (chained { head with run := .run })
        (fun s => (parseFrame (lineTo 0)).any fun f => f.ftype == 1 && f.node == (s.cnode 0).id && f.claim == 0x1001) fun _ t =>
          (t.cnode 0).lines == [{ tickId := 5, bank := 1, lastLine := true, spit := none, frame := 9, payload := List.replicate 8 3 }],
      met (.nodeDownstreamFrame 0 false (lineTo 7)) (chained { head with run := .run })
        (fun s => (parseFrame (lineTo 7)).any fun f => !f.all && f.node != (s.cnode 0).id) fun _ t => (t.cnode 0).lines == [],
      met (.nodeDownstreamFrame 0 false rowTo) (chained { head with run := .run, kind := 2 })
        (fun s => (parseFrame rowTo).any fun f => f.ftype == 2 && f.node == (s.cnode 0).id && f.claim == 0x1001) fun _ t =>
          (t.cnode 0).rows.map (fun r => (r.row, r.lastRow)) == [(70, true)],
      met (.nodeDownstreamFrame 0 false (releaseFrame 0x1001)) (chained { head with run := .run })
        (fun s => framed (releaseFrame 0x1001) fun f => f.ftype == 6 && f.claim == (s.cnode 0).held) fun _ t =>
          (t.cnode 0).held == 0 && (t.cnode 0).holder == none && (t.cnode 0).run == .halter,
      met (.nodeDownstreamFrame 0 false (releaseFrame 0x1000)) (chained { head with claimReject := 65535, run := .run })
        (fun s => framed (releaseFrame 0x1000) fun f => f.ftype != 7 && !cableWrite f false && decide (f.claim < (s.cnode 0).held))
        fun _ t => (t.cnode 0).held == 0x1001 && (t.cnode 0).claimReject == 0 && (t.cnode 0).run == .run,
      met (.nodeHalterBlock 0 false (holdBlock 0x2D 0x1001 0 true))
        { (chained { head with run := .run, lines := [{}] }) with out := [.sequence 0 0 5 10000001 0 [], .sequence 0 0 4 10000000 0 []] }
        (fun s => blockOk 0x2D (holdBlock 0x2D 0x1001 0 true) && (s.cnode 0).addressed false (holdBlock 0x2D 0x1001 0 true)) fun _ t =>
          (t.cnode 0).run == .halter && (t.cnode 0).lines == [] && t.out.take 1 == [.sequence 0 0 4 10000000 0 []] && t.out.length == 2,
      met (.nodeHalterBlock 0 true (holdBlock 0x2D 0x1001 0 true)) (chained { head with run := .run })
        (fun s => !(s.cnode 0).addressed true (holdBlock 0x2D 0x1001 0 true)) fun _ t => (t.cnode 0).run == .run,
      met (.nodeHalterBlock 0 false [0x2D]) (chained { head with run := .run }) (fun _ => !blockOk 0x2D [0x2D]) fun _ t =>
        (t.cnode 0).run == .run && (t.cnode 0).blockErr == 1,
      met (.nodeRunBlock 0 false [0x33]) (chained head) (fun _ => !blockOk 0x33 [0x33]) fun _ t =>
        (t.cnode 0).run == .halter && (t.cnode 0).blockErr == 1,
      met (.nodeRunBlock 0 false (holdBlock 0x33 0x1001 0 true)) (chained { head with run := .run, ticksSeen := 5 })
        (fun s => (s.cnode 0).run != .halter) fun _ t => (t.cnode 0).run == .run && (t.cnode 0).ticksSeen == 0,
      met (.nodeRunBlock 0 true (holdBlock 0x33 0x1001 0 true)) (chained head)
        (fun s => !(s.cnode 0).addressed true (holdBlock 0x33 0x1001 0 true)) fun _ t => (t.cnode 0).run == .halter,
      met (.nodeRunBlock 0 false (holdBlock 0x33 0x1001 0 false)) (chained { head with ticksSeen := 5 })
        (fun s => blockOk 0x33 (holdBlock 0x33 0x1001 0 false) && (s.cnode 0).addressed false (holdBlock 0x33 0x1001 0 false) &&
          (s.cnode 0).run == .halter) fun _ t => (t.cnode 0).run == .run && (t.cnode 0).ticksSeen == 0,
      met (.nodeRunBlock 0 false (holdBlock 0x33 0x1001 0 false)) (chained { head with supplyFault := true })
        (fun s => (s.cnode 0).supplyFault) fun _ t => (t.cnode 0).run == .halter,
      met (.nodeLinkLoss 0 false) (chained { head with run := .run }) (fun s => (s.cnode 0).holder == some false &&
          decide ((s.cnode 0).heardAt + 1000 * (s.cnode 0).linkLossUs ≤ s.wall)) fun _ t =>
        (t.cnode 0).run == .halter && (t.cnode 0).held == 0x1001,
      met (.nodeLinkLoss 0 true) (chained { head with run := .run, heardAt := 10000000 }) (fun s => (s.cnode 0).lockA) fun _ t =>
        (t.cnode 0).run == .halter && !(t.cnode 0).lockA,
      still (.nodeLinkLoss 0 false) (chained { head with run := .run, heardAt := 10000000 }) fun _ => true,
      still (.nodeLinkLoss 0 true) (chained {}) fun s => (s.cnode 0).holder == none] = true := by
  decide +kernel

/-- A CTRL_REQ to node 0 under claim 0x1001: a write or a read of one word with tag 9. -/
def request (write : Bool) (addr v : Nat) : List Byte :=
  mkFrame 3 0 0x1001 0 (ctrlHeader (if write then 2 else 1) 9 1 addr ++ le 4 v)

/-- The request is one that the head node takes. -/
def asked (bs : List Byte) (op addr : Nat) (s : State) : Bool :=
  (parseFrame bs).any fun f => f.ftype == 3 && f.node == (s.cnode 0).id && !cableWrite f false && f.claim == (s.cnode 0).held &&
    byteAt f.data 0 == op && numAt f.data 2 2 == 1 && numAt f.data 4 3 == addr && !(s.cnode 0).badAddr addr

/-- A TICK block for bar 0 or group A. -/
def ticking (k : Nat) (flag row : Bool) : List Byte := tickBlock k flag row 0 0 1000

/-- The panel node of one row, in RUN. -/
def panel : ChainNode := { head with kind := 2, run := .run, activeRows := 1 }

/-- The bank of a head node that keeps warm at once with this rate. -/
def warmBank : Memory := (Memory.setBytes [] 3 [1]).setBytes 26 [1, 0]

theorem test_NodeControlAndTicks :
    all [met (.nodeCtrlReq 0 false (request false 0x008 0)) (chained head) (asked (request false 0x008 0) 1 8) fun s t =>
        (List.range 2).all fun p => t.out.contains (.reinUp 0 p (mkFrame 4 0 0x1001 0 (ctrlHeader 0 9 1 8 ++ le 4 ((s.cnode 0).readWord 8)))),
      met (.nodeCtrlReq 0 false (request true 0x110 0xFFFF0014)) (chained head) (asked (request true 0x110 0xFFFF0014) 2 0x110)
        fun _ t => (t.cnode 0).linkLossUs == 20 && (t.cnode 0).statusUs == 65535 && (t.cnode 0).tags.any fun g => g.1 == 9,
      met (.nodeCtrlReq 0 false (request true 0x110 7)) (chained { head with tags := [(9, [1, 2])] }) (asked (request true 0x110 7) 2 0x110)
        fun _ t => t.out.drop 1 == [.reinUp 0 0 [1, 2], .reinUp 0 1 [1, 2]] && (t.cnode 0).linkLossUs == 20,
      met (.nodeCtrlReq 0 false (request true 0x100000 7)) (chained head) (asked (request true 0x100000 7) 2 0x100000)
        fun _ t => (t.cnode 0).bankNum 0 0 4 == 7 && (t.cnode 0).bank1 == [],
      met (.nodeCtrlReq 0 false (request true 0x180000 7)) (chained head) (asked (request true 0x180000 7) 2 0x180000)
        fun _ t => (t.cnode 0).bankNum 1 0 4 == 7 && (t.cnode 0).bank0 == [],
      met (.nodeCtrlReq 0 false (request true 0x800000 7)) (chained { head with vendorWords := 1 })
        (asked (request true 0x800000 7) 2 0x800000) fun _ t => Tab.get 0 (t.cnode 0).vendor 0x800000 == 7,
      met (.nodeCtrlReq 0 false (request true 0x400 3)) (chained { head with kind := 2 }) (asked (request true 0x400 3) 2 0x400)
        fun _ t => (t.cnode 0).hold && (t.cnode 0).groupB,
      met (.nodeCtrlReq 0 false (request true 0x800000 7)) (chained head)
        (fun s => (s.cnode 0).reqStatus s.wall true 0x800000 1 == 1) fun _ t => t.out.contains (.reinUp 0 0 (mkFrame 4 0 0x1001 0 (ctrlHeader 1 9 1 0x800000))),
      met (.nodeCtrlReq 0 false (request true 0x100000 7)) (chained { head with end0 := 10 ^ 12 })
        (fun s => (s.cnode 0).reqStatus s.wall true 0x100000 1 == 3) fun _ t => (t.cnode 0).tags == [] &&
          t.out.contains (.reinUp 0 1 (mkFrame 4 0 0x1001 0 (ctrlHeader 3 9 1 0x100000))),
      met (.nodeCtrlReq 0 true (request true 0x10C 7)) (chained head)
        (fun _ => (parseFrame (request true 0x10C 7)).any fun f => cableWrite f true) fun _ t => (t.cnode 0).cableB == 7,
      met (.nodeCtrlReq 0 false (releaseFrame 0x1001)) (chained head) (fun _ => framed (releaseFrame 0x1001) fun f => f.ftype != 3)
        fun _ t => (t.cnode 0).held == 0x1001 && t.out.length == 1,
      met (.nodeEcho 0 true (echoBlock 0 255)) (chained head) (fun _ => blockOk 0x55 (echoBlock 0 255) &&
          byteAt (echoBlock 0 255) 1 % 8 == byteAt (echoBlock 0 255) 2 % 8) fun _ t =>
          t.out == [.reinOn 0 0 (forwarded (echoBlock 0 255)), .reinUp 0 1 (echoReplyBlock 0 255)],
      met (.nodeEcho 0 true (echoBlock 3 255)) (chained head) (fun _ => blockOk 0x55 (echoBlock 3 255) &&
          byteAt (echoBlock 3 255) 1 % 8 != byteAt (echoBlock 3 255) 2 % 8) fun _ t => t.out.length == 1,
      met (.nodeEcho 0 true (echoBlock 0 255 ++ [0])) (chained head) (fun _ => !blockOk 0x55 (echoBlock 0 255 ++ [0])) fun _ t =>
        (t.cnode 0).blockErr == 1 && t.out.length == 1,
      met (.nodeTick 0 false (ticking 0 false false) 0) (chained { head with run := .run, lastTick := some 61, ticksSeen := 2 ^ 32 - 1 })
        (fun s => blockOk 0x4B (ticking 0 false false) && (s.cnode 0).obeys false (ticking 0 false false) && !(s.cnode 0).panel)
        fun _ t => (t.cnode 0).lastTick == some 0 && (t.cnode 0).ticksSeen == 2 && t.out.length == 3,
      met (.nodeTick 0 false (ticking 9 false false) 0) (chained { head with run := .run, ticksSeen := 5 })
        (fun s => (s.cnode 0).lastTick == none) fun _ t => (t.cnode 0).lineNo == 9 && (t.cnode 0).ticksSeen == 6,
      met (.nodeTick 0 false [0x4B] 0) (chained head) (fun _ => !blockOk 0x4B [0x4B]) fun _ t => (t.cnode 0).blockErr == 1,
      met (.nodeTick 0 false (ticking 62 true false) 0) (chained { head with run := .run, lastTick := some 61 })
        (fun s => (s.cnode 0).obeys false (ticking 62 true false)) fun _ t => (t.cnode 0).lastTick == some 62 && t.out.length == 1,
      met (.nodeTick 0 false (ticking 62 false false) 0) (chained head) (fun s => (s.cnode 0).run == .halter) fun _ t =>
        t.out.length == 1 && (t.cnode 0).ticksSeen == 0,
      met (.nodeTick 0 false (ticking 5 true true) 0) (chained { panel with rows := [{ tickId := 5, payload := [1, 2] }] })
        (fun s => (s.cnode 0).obeys false (ticking 5 true true) && (s.cnode 0).rowData 5 == some ([1, 2], false)) fun _ t =>
          (t.cnode 0).curRow == 1 && (t.cnode 0).store == [(0, [1, 2])] && t.out.length == 2,
      met (.nodeTick 0 false (ticking 5 false true) 0)
        (chained { panel with activeRows := 3, curRow := 2, frameSeen := true, lastTick := some 4, store := [(2, [9])] })
        (fun s => (s.cnode 0).obeys false (ticking 5 false true) && (s.cnode 0).rowData 5 == none) fun _ t =>
          (t.cnode 0).curRow == 3 && (t.cnode 0).store == [(2, [9])] && t.out.length == 2,
      met (.nodeTick 0 false (ticking 5 true true) 0) (chained { panel with activeRows := 0 }) (fun s => (s.cnode 0).obeys false (ticking 5 true true))
        fun _ t => (t.cnode 0).curRow == 1 && t.out.length == 1,
      still (.nodeKeepWarmIdle 0) (chained panel) fun s => (s.cnode 0).panel,
      met (.nodeKeepWarmIdle 0) { (chained { head with bank0 := warmBank }) with wall := 10 ^ 9 }
        (fun s => (s.cnode 0).bankByte 0 3 == 1 && (s.cnode 0).bankNum 0 26 2 == 1) fun _ t => (t.cnode 0).kwAt == 10 ^ 9 && t.out.length == 2,
      met (.nodeStatusTimer 0 [30] 5 6 7 true false) (chained { head with run := .run, log := [⟨1, 2⟩], statusSeq := 2 ^ 32 - 1 })
        (fun _ => true) fun _ t => (t.cnode 0).overtemp && (t.cnode 0).run == .halter && (t.cnode 0).log == [] &&
          (t.cnode 0).statusSeq == 0 && t.out.length == 2] = true := by
  decide +kernel

/-! ### Blocks LFR and SCAN -/

/-- A ray map image of one column, eight rows and one subpixel with one region. -/
def rayImg : List Byte :=
  le 4 0x50414D52 ++ le 1 1 ++ le 1 1 ++ le 2 1 ++ le 4 1 ++ le 4 8 ++ le 4 64 ++ le 4 0 ++ le 8 112 ++ le 32 0 ++
    (le 8 0 ++ le 4 0x10000 ++ le 24 0 ++ le 1 8 ++ le 1 8 ++ le 10 0) ++ le 32 0

/-- Light-field with that image in buffer 5 of 144 bytes. -/
def rayed : State :=
  { ((bigBuffer lf).setBuf 5 { base := 0x400000, size := 144, state := .ready }) with dram := Memory.setBytes [] 0x400000 rayImg }

/-- The first fault of the ray map in buffer 5 in the order of the checks, if any, and the room in its pool. -/
def rayFault (s : State) : Option (Nat × Nat) :=
  let img := s.bufBytes 5 0 (s.buf 5).size
  let m := readRayMap img 5 0
  firstOf [rayCountFault img, need (decide (m.emitters ≤ s.fuse.part.emitterLimit)) 0 Rsn.limit, rayHeaderFault img m img.length,
    earlierFault (regionFault img) (recordsFault img m)]

/-- The hypotheses of a ray map load that has no fault. -/
def goodRay (s : State) : Bool := !s.cal.lfRun && (rayFault s).isNone && decide (s.regionsUsed < 8)

/-- `rayed` with these bytes at offset `o` of the image. -/
def badRay (o : Nat) (bs : List Byte) : State := { rayed with dram := rayed.dram.setBytes (0x400000 + o) bs }

/-- The state with light-field configuration `c` staged. -/
def lfStaging (c : LfCfg) (b : State) : State := { b with frames := { b.frames with staged := { lf := c } } }

/-- A timing of eight active and eight blank rows in 16 ms, trigger unit 3. -/
def timing : ScanTiming :=
  { given := true, depth := 8, nCut := 4, trigger := 3, frameNs := 16000000, frameFrac := 0, rowsActive := 8, rowsBlank := 8
    fifoBands := 2, panicRows := 4 }

/-- Fields of SCAN_TIMING that name it. -/
def timingFields : List (Nat × Nat) :=
  [(8, 1), (9, 8), (11, 3), (12, 16000000), (20, 8), (22, 8), (28, 999999), (32, 5)]

/-- A panel map image of one column on node 0. -/
def panelImg : List Byte := le 4 0x4E504D50 ++ le 1 1 ++ le 1 1 ++ le 2 1 ++ le 4 1 ++ le 4 0 ++ (le 2 0 ++ le 2 1 ++ le 4 0)

/-- Light-field with that timing, node 0 a panel node on a claimed link, and that image in buffer 5. -/
def paneled : State :=
  let s := { (bigBuffer lf) with scan := { timing := timing }, dram := Memory.setBytes [] 0x400000 panelImg }
  (s.setLink 0 { state := .claimed, claim := 0x1001, nodes := 1 }).setNode 0
    { kind := 2, present := true, holdCap := true, maxRow := 1, emitters := 8 }

/-- Its panel map. -/
def oneStrip : PanelMap := { subpix := 1, cols := 1, nodes := [{ node := 0, cols := 1 }] }

/-- A hitch membership, member 1 of members 1 and 2 on port 0. -/
def member : Hitch := { joined := true, member := 1, mask := 6, hitchId := 77 }

/-- A ray map load that is refused with this fault. -/
def rayRefused (o : Nat) (bs : List Byte) (f : Nat × Nat) : Bool :=
  ran 0x0601 rayMapChecks (.lfrRaymapLoad 0) [(8, 5)] (badRay o bs) (fun s => rayFault s == some f) fun s t =>
    fin 0 s t 0x11 (16 + 256 * f.2) f.1 && t.frames == s.frames

/-- Light-field with an overlay on plane 64 at ORDER 2 and, where `old`, one on plane 65 at ORDER 1. -/
def overlays (old : Bool) : State :=
  lfStaging { planes := [(3, { bound := true, order := 2 }), (64, { bound := true, order := 2 })] ++
    if old then [(65, { bound := true, order := 1 })] else [] } (bigBuffer lf)

theorem test_LightFieldStaging :
    all [ran 0x0600 sceneChecks (.lfrSceneBind 0) [(8, 63), (9, 1), (12, 5), (14, 4), (16, 8), (18, 1), (20, 2 ^ 32 - 1), (44, 7)]
        (bigBuffer lf) (fun _ => true) fun s t => fin 0 s t 0 0 0 &&
          Tab.get {} t.stagedLf.planes 63 == { bound := true, handle := 5, width := 4, height := 8, depth := -1, a12 := 7 },
      ran 0x0600 sceneChecks (.lfrSceneBind 0) [(8, 65), (9, 1), (12, 5), (14, 4), (16, 4), (18, 2), (19, 2)] (overlays true)
        (fun s => (Tab.get {} s.stagedLf.planes 65).bound) fun _ t => (Tab.get {} t.stagedLf.planes 64).order == 1 &&
          (Tab.get {} t.stagedLf.planes 65).order == 2 && (Tab.get {} t.stagedLf.planes 3).order == 2,
      ran 0x0600 sceneChecks (.lfrSceneBind 0) [(8, 65), (9, 1), (12, 5), (14, 4), (16, 4), (18, 2), (19, 2)] (overlays false)
        (fun s => !(Tab.get {} s.stagedLf.planes 65).bound) fun _ t => Tab.get {} t.stagedLf.planes 64 == {} &&
          (Tab.get {} t.stagedLf.planes 3).bound,
      ran 0x0600 sceneChecks (.lfrSceneBind 0) [(8, 64), (9, 2)] (overlays true) (fun _ => true) fun s t => fin 0 s t 0 0 0 &&
        Tab.get {} t.stagedLf.planes 64 == {} && (Tab.get {} t.stagedLf.planes 65).bound,
      ran 0x0600 sceneChecks (.lfrSceneBind 0) [(8, 64), (9, 3), (12, 5)] (overlays true) (fun _ => true) fun s t => fin 0 s t 0 0 0 &&
        Tab.get {} t.stagedLf.planes 64 == { bound := true, order := 2, handle := 5 },
      ran 0x0600 sceneChecks (.lfrSceneBind 0) [(8, 0xFF), (9, 4), (24, 65535), (28, 9), (30, 1), (32, 65535)] lf (fun _ => true)
        fun s t => fin 0 s t 0 0 0 && t.stagedLf == { bgR := 65535, bgB := 9, temporal := true, marginUs := 65535 },
      ran 0x0601 rayMapChecks (.lfrRaymapLoad 0) [(8, 5)] (lfStaging { residuals := [(0, (1, 1))], gain := { load := 4, table := true } } rayed)
        goodRay fun s t => fin 0 s t 0 0 0 && t.stagedLf.map.cols == 1 && t.stagedLf.map.rows == 8 && !t.stagedLf.gain.table &&
          t.stagedLf.residuals == [(0, (1, 1))],
      ran 0x0601 rayMapChecks (.lfrRaymapLoad 0) [(8, 5)] (lfStaging { map := { cols := 8, rows := 1, subpix := 1 }, gain := { load := 4 } } rayed)
        (fun s => goodRay s && s.stagedLf.map.emitters == (readRayMap (s.bufBytes 5 0 144) 5 0).emitters) fun _ t =>
          t.stagedLf.gain == { load := 4 },
      ran 0x0601 rayMapChecks (.lfrRaymapLoad 0) [(8, 5)] { rayed with cal := { lfRun := true } }
        (fun s => s.cal.lfRun) fun s t => fin 0 s t 0x14 0x0901 0,
      rayRefused 0 [0] (0, 1), rayRefused 16 (le 4 60) (16, 1), rayRefused 37 [1] (36, 1), rayRefused 48 [1] (48, 2),
      rayRefused 72 (le 4 0) (72, 1), rayRefused 115 [3] (115, 1), rayRefused 118 [1] (118, 1),
      ran 0x0601 rayMapChecks (.lfrRaymapLoad 0) [(8, 5)] { (badRay 8 (le 4 16384 ++ le 4 8192)) with fuse := { part := .l08 } }
        (fun s => (rayCountFault (s.bufBytes 5 0 144)).isNone) fun s t => fin 0 s t 0x11 0x0710 0,
      ran 0x0601 rayMapChecks (.lfrRaymapLoad 0) [(8, 5)] { rayed with
          frames := { rayed.frames with recs := (List.range 8).map fun i => (i, { map := { load := i + 1 } }) } }
        (fun s => (rayFault s).isNone && s.regionsUsed == 8) fun s t => fin 0 s t 0x14 0x0701 0,
      ran 0x0602 emitterCalChecks (.lfrEmitterCalLoad 0) [(8, 1), (10, 5), (16, 4)]
        (lfStaging { map := { load := 3, cols := 1, rows := 8, subpix := 1 }, gainCal := true } (bigBuffer lf)) (fun s => !s.cal.lfRun)
        fun s t => fin 0 s t 0 0 0 && t.stagedLf.gain.table && t.stagedLf.gain.offset == 4 && t.stagedLf.gain.count == 8 && t.stagedLf.gainCal,
      ran 0x0602 emitterCalChecks (.lfrEmitterCalLoad 0) [(8, 2)] { lf with cal := { lfRun := true } } (fun s => s.cal.lfRun) fun s t =>
        fin 0 s t 0x14 0x0901 0,
      ran 0x0602 emitterCalChecks (.lfrEmitterCalLoad 0) [(8, 2)] (lfStaging { gain := { table := true } } lf) (fun s => !s.cal.lfRun)
        fun s t => fin 0 s t 0 0 0 && !t.stagedLf.gain.table,
      ran 0x0603 lutChecks (.lfrLutLoad 0) [(8, 1), (9, 67), (12, 5)] { (bigBuffer lf) with dram := [(0x400000, 3)] }
        (fun s => decide (s.linUsed < 512)) fun s t => fin 0 s t 0 0 0 &&
          (Tab.get {} t.stagedLf.lin 67).data.take 2 == [3, 0] && (Tab.get {} t.stagedLf.lin 67).id == s.prn.nextLoad,
      ran 0x0603 lutChecks (.lfrLutLoad 0) [(8, 2), (10, 1), (12, 5)] { (bigBuffer lf) with dram := [(0x400000, 3)] }
        (fun s => decide (s.gammaUsed < 48) && (imgZero (s.bufBytes 5 0 2052) 2050 2052).isNone) fun s t => fin 0 s t 0 0 0 &&
          (Tab.get {} t.stagedLf.gamma 1).data.take 2 == [3, 0] && (Tab.get {} t.stagedLf.gamma 1).data.length == 1025,
      ran 0x0603 lutChecks (.lfrLutLoad 0) [(8, 2), (10, 2), (11, 1)] (lfStaging { gamma := [(2, { id := 4 })] } lf) (fun _ => true)
        fun s t => fin 0 s t 0 0 0 && t.stagedLf.gamma == [],
      ran 0x0603 lutChecks (.lfrLutLoad 0) [(8, 1), (9, 2), (11, 1)] (lfStaging { lin := [(2, { id := 4 })], gamma := [(2, { id := 4 })] } lf)
        (fun _ => true) fun s t => fin 0 s t 0 0 0 && t.stagedLf.lin == [] && t.stagedLf.gamma == [(2, { id := 4 })],
      ran 0x0603 lutChecks (.lfrLutLoad 0) [(8, 1), (12, 5)] (lfStaging { lin := loaded 1 512 } (bigBuffer lf))
        (fun s => s.linUsed == 512) fun s t => fin 0 s t 0x14 0x0701 0,
      ran 0x0603 lutChecks (.lfrLutLoad 0) [(8, 2), (12, 5)] { (bigBuffer lf) with dram := [(0x400803, 3)] }
        (fun s => imgZero (s.bufBytes 5 0 2052) 2050 2052 == some (2051, 2)) fun s t => fin 0 s t 0x11 0x0210 2051,
      ran 0x0603 lutChecks (.lfrLutLoad 0) [(8, 2), (12, 5)] (lfStaging { gamma := loaded 1 48 } (bigBuffer lf))
        (fun s => s.gammaUsed == 48) fun s t => fin 0 s t 0x14 0x0701 0] = true := by
  decide +kernel

/-- `paneled` with these bytes at offset `o` of the image. -/
def badPanel (o : Nat) (bs : List Byte) : State := { paneled with dram := paneled.dram.setBytes (0x400000 + o) bs }

/-- A panel map load that is refused so. -/
def panelRefused (s : State) (det res : Nat) : Bool :=
  ran 0x0700 scanTimingChecks (.scanTiming 0) [(8, 2), (12, 5)] s (fun _ => true) fun s t => fin 0 s t 0x11 det res && t.scan == s.scan

theorem test_ScanConfiguration :
    all [ran 0x0700 scanTimingChecks (.scanTiming 0) timingFields lf (fun _ => true) fun s t => fin 0 s t 0 0 0 &&
        t.scan.timing == timing && t.frames.nCut == 4 && t.stagedLf.offsetA == 999999 && t.stagedLf.offsetB == 5,
      ran 0x0700 scanTimingChecks (.scanTiming 0) [(8, 2), (12, 5)] paneled (fun s =>
          let img := s.bufBytes 5 0 24
          (panelFieldFault img).isNone && (stripFault oneStrip).isNone && (panelNodeFault s oneStrip).isNone &&
            panelNodes img == oneStrip.nodes && decide (8 ≤ s.fuse.part.emitterLimit)) fun s t =>
          fin 0 s t 0 0 0 && t.scan.map == oneStrip && t.frames == s.frames,
      (panelFieldFault ((badPanel 12 [1]).bufBytes 5 0 24) == some (12, 2)) && panelRefused (badPanel 12 [1]) 0x0210 12,
      panelRefused ((badPanel 0x10 [0]).setBuf 5 { base := 0x400000, size := 20, state := .ready }) 0x0110 6,
      (stripFault { oneStrip with cols := 2 } == some 1) && panelRefused (badPanel 8 [2]) 0x0110 1,
      (panelNodeFault (paneled.setNode 0 {}) oneStrip == some 0) && panelRefused (paneled.setNode 0 {}) 0x0110 0,
      panelRefused { (paneled.setNode 0 { kind := 2, present := true, holdCap := true, maxRow := 1, emitters := 10 ^ 9 }) with
        fuse := { part := .l08 }, scan := { timing := { timing with given := false, rowsActive := 8388609 } } } 0x0710 0,
      ran 0x0702 powerPolicyChecks (.scanPowerPolicy 0) [(8, 4), (10, 1000)] lf (fun _ => true) fun s t => fin 0 s t 0 0 0 &&
        t.stagedLf.refreshDiv == 4 && t.stagedLf.staticFrames == 1000 && t.scan == s.scan,
      ran 0x0703 splitChecks (.scanSplitConfig 0) [(8, 1), (9, 2), (12, 16)] { lf with time := { hitch := member } } (fun _ => true)
        fun s t => fin 0 s t 0 0 0 && t.scan.split.partner == some 2 && t.scan.split.waitUs == 100 && t.scan.split.miss == 16,
      ran 0x0703 splitChecks (.scanSplitConfig 0) [(8, 2), (10, 10)] { lf with scan := { split := { partner := some 2, repeats := 9, state := .alone } } }
        (fun _ => true) fun s t => fin 0 s t 0 0 0 && t.scan.split.partner == none && t.scan.split.repeats == 9 &&
          t.scan.split.state == .off && t.scan.split.waitUs == 10] = true := by
  decide +kernel

/-- A part that can start that scan. -/
def starting : State := { paneled with scan := { timing := timing, map := oneStrip } }

/-- That scan running since device time 0 with first frame 5. -/
def scanningOn : State :=
  { starting with
    top := { starting.top with dev := .run }
    scan := { starting.scan with phase := .starting, first := 5, start := 50000000, tickA := (5, 0), tickB := (5, 0), order := [0, 1, 2] }
    frames := { openFirst := 5, nCut := 4, fetch := [(0, (5, 0))], next := [(0, (5, 0))] } }

/-- A staged overlay that names a buffer not there. -/
def noBuffer (b : State) : State := lfStaging { planes := [(64, { bound := true, handle := 6 })] } b

theorem test_ScanCommits :
    all [ran 0x0701 scanCommitChecks (.scanCommit 0) [(8, 5), (16, 1), (20, 5), (24, 50000000)] starting
        (fun s => s.trigBusy s.scan.timing.trigger .scan == none && (s.commitFailure s.newCfg).isNone) fun s t =>
          fin 0 s t 0 0 1 && t.scan.phase == .starting && t.scan.first == 5 && t.frames.openFirst == 5 && t.frames.genLast == 1 &&
          (t.trig 3).holder == .scan && (t.trig 3).running && (t.trig 3).sched.t0 == 50000000,
      ran 0x0701 scanCommitChecks (.scanCommit 0) [(8, 5), (16, 1), (20, 5), (24, 50000000)] (starting.setTrig 3 { holder := .camera })
        (fun s => s.trigBusy s.scan.timing.trigger .scan == some TrigHolder.camera.opcode) fun s t =>
          fin 0 s t 0x14 TrigHolder.camera.opcode 0 && t.scan == s.scan && t.frames == s.frames,
      ran 0x0701 scanCommitChecks (.scanCommit 0) [(8, 5), (16, 1), (20, 5), (24, 50000000)] (noBuffer starting)
        (fun s => s.trigBusy s.scan.timing.trigger .scan == none && s.commitFailure s.newCfg == some (0x11, 0x0400, 6)) fun s t =>
          fin 0 s t 0x11 0x0400 6 && t.scan == s.scan && t.frames == s.frames,
      ran 0x0701 scanCommitChecks (.scanCommit 0) [(8, 9)] scanningOn (fun s => !(s.slot 0).hitch && (s.commitFailure s.newCfg).isNone)
        fun s t => fin 0 s t 0 0 1 && t.frames.prevApplied == some 9 && t.scan.phase == .starting,
      ran 0x0701 scanCommitChecks (.scanCommit 0) [(12, 1)] scanningOn (fun s => (s.slot 0).nextOpen) fun s t =>
        fin 0 s t 0 0 1 && t.frames.prevApplied == some 5,
      ran 0x0701 scanCommitChecks (.scanCommit 0) [(8, 2)] scanningOn (fun s => s.frames.applied false (s.slot 0).target == 5)
        fun s t => fin 0 s t 2 0 1 && t.frames.prevApplied == some 5,
      ran 0x0701 scanCommitChecks (.scanCommit 0) [(8, 9)] (noBuffer scanningOn)
        (fun s => s.commitFailure s.newCfg == some (0x11, 0x0400, 6)) fun s t => fin 0 s t 0x11 0x0400 6 && t.frames == s.frames,
      ran 0x0701 scanCommitChecks (.scanCommit 0) [(8, 9), (16, 2)] scanningOn (fun s => s.scan.stop == none) fun s t =>
        fin 0 s t 0 0 0 && t.scan.phase == .stopping && t.scan.stop == some 9,
      ran 0x0701 scanCommitChecks (.scanCommit 0) [(8, 2), (16, 2)] scanningOn (fun s => s.scan.stop == none) fun s t =>
        fin 0 s t 2 0 0 && t.scan.stop == some 5,
      ran 0x0701 scanCommitChecks (.scanCommit 0) [(8, 9), (16, 2)] { scanningOn with scan := { scanningOn.scan with stop := some 7 } }
        (fun s => s.scan.stop == some 7) fun _ t => t.scan.stop == some 7,
      ran 0x0701 scanCommitChecks (.scanCommit 0) [(8, 9), (16, 2)] { scanningOn with scan := { scanningOn.scan with stop := some 11 } }
        (fun s => s.scan.stop == some 11) fun _ t => t.scan.stop == some 9,
      [false, true].all fun stop => ran 0x0701 scanCommitChecks (.scanCommit 0) [(8, 30), (12, 2), (16, if stop then 2 else 0)]
        { scanningOn with time := { hitch := member } }
        (fun s => (s.slot 0).hitch && (s.commitFailure s.newCfg).isNone && bitAt s.time.hitch.mask 2 && s.time.hitch.proposals.isEmpty)
        fun s t => (t.slot 0).phase == .executing && (t.frames.hitch.map fun h => (h.frame, h.stop)) == [(30, stop)] &&
          t.time.hitch.proposals.contains (s.proposal 30) && t.scan.stop == none] = true := by
  decide +kernel

/-- That scan at device time `n`. -/
def scanAt (n : Nat) (b : State) : State := { b with time := { b.time with now := n } }

/-- That scan with its first frame cut. -/
def cutFirst : State :=
  { scanningOn with frames := { scanningOn.frames with openFirst := 6, recs := [(5, { phase := .cut, barsLeft := [0] })] } }

/-- A scan whose frame 5 waits for its partner, member 2, with its own message `own` sent at device time 0. -/
def paired (x : SplitState) (misses : Nat) (own : List Byte) : State :=
  { (scanAt 100000 cutFirst) with
    time := { hitch := member, now := 100000 }
    scan := { cutFirst.scan with split := { partner := some 2, state := x, misses := misses, due := [(5, 0, own)] } } }

/-- A message body of SPLIT_READY for frame 5, ready and in time lock. -/
def ready : List Byte := le 4 5 ++ le 8 100 ++ le 4 0 ++ le 1 5 ++ le 15 7

/-- A hitch message of that type and sender. -/
def envelope (ty sender : Nat) (body : List Byte) : List Byte :=
  le 1 1 ++ le 1 ty ++ le 2 body.length ++ le 4 77 ++ le 1 sender ++ le 11 0 ++ body

/-- A SPLIT_READY body for frame 5 with that verdict, of commit 3. -/
def saying (v : Nat) : List Byte := le 4 5 ++ le 8 100 ++ le 4 3 ++ le 1 v ++ le 15 7

/-- That scan with a band of frame 5 rendering on engine 2. -/
def renderingBand (x : Band) : State :=
  { cutFirst with frames := { cutFirst.frames with bands := [{ x with frame := 5, phase := .rendering, engine := 2 }] } }

/-- The same scan on a whole-frame part. -/
def whole (n : Nat) : State := { (scanAt n cutFirst) with fuse := { part := .l08 } }

theorem test_ScanRuns :
    all [met .frameCutoff (scanAt 40000000 scanningOn) (fun s => s.lfCutoffDue) fun s t => t.frames.openFirst == 6 && t.phase 5 == .cut &&
        t.frames.genCut == s.genOf 5,
      still .frameCutoff (scanAt 1000000 scanningOn) fun s => !s.lfCutoffDue, still .frameCutoff idle fun s => s.top.mode == .none,
      met (.bandDispatch 2) (scanAt 40000000 cutFirst) (fun s => s.engineFree 2 && (earliest s.lfWaiting).any fun e => e.2.frame == 5) fun _ t =>
        t.frames.bands.any fun y => y.phase == .rendering && y.engine == 2 && y.frame == 5,
      still (.bandDispatch 2) { (scanAt 40000000 cutFirst) with scan := { cutFirst.scan with order := [] } } fun s => (earliest s.lfWaiting).isNone &&
        s.engineFree 2,
      met (.bandRenderEnd 2) (renderingBand {}) (fun s => !s.memStalled && s.frames.bands.all fun x => s.renderDue x && s.tagOk x) fun s t =>
        t.frames.bands.any fun y => y.phase == .complete && y.lines == s.zeroBand,
      met (.bandRenderEnd 2) (renderingBand { gen := 9 }) (fun s => s.frames.bands.all fun x => s.renderDue x && !s.tagOk x) fun _ t =>
        t.frames.bands.any fun y => y.phase == .queued,
      met (.bandRenderEnd 2) (renderingBand { fetched := true }) (fun s => s.frames.bands.all fun x => s.renderDue x) fun _ t => t.frames.bands == [],
      met (.rowTick false) (scanAt 50000000 cutFirst) (fun s => s.rowTickDue false) fun s t =>
        t.tickCursor false == s.rowAfter (s.tickCursor false) && t.tickCursor true == s.tickCursor true && t.scan.phase == .scanning,
      met (.rowTick true) (scanAt 50000000 cutFirst) (fun s => s.rowTickDue true) fun s t => t.tickCursor false == s.tickCursor false &&
        t.tickCursor true == ((5, 1) : FrameNo × Nat),
      still (.rowTick false) (scanAt 49999999 cutFirst) fun s => !s.rowTickDue false,
      met (.bandFetchPoint 0) (scanAt 42000000 cutFirst) (fun s => !s.fetchDue 0 && s.readDue && s.phase s.nextRead.1 == .cut)
        fun s t => t.phase 5 == .delivering && Tab.get (0, 0) t.frames.fetch 0 == s.lfBandAfter (5, 0),
      still (.bandFetchPoint 0) (scanAt 41000000 cutFirst) fun s => !s.fetchDue 0 && !s.readDue && !s.fuse.part.wholeFrame,
      met (.bandFetchPoint 0) (whole 34000000) (fun s => !s.readDue && s.fuse.part.wholeFrame && decide (s.prevTime 5 ≤ s.clock)) fun _ t =>
        t.phase 5 == .delivering,
      still (.bandFetchPoint 0) (whole 33999999) fun s => !s.readDue && decide (s.clock < s.prevTime 5) && s.phase 5 == .cut,
      met (.frameComplete 5) { cutFirst with frames := { cutFirst.frames with recs := [(5, { phase := .delivering, pins := [6] })] } }
        (fun s => s.lfDone 5) fun s t => t.phase 5 == .complete && (t.frame 5).pins == [] && (t.frame 5).tEnd == s.time.now,
      still (.frameComplete 5) cutFirst fun s => !s.lfDone 5] = true := by
  decide +kernel

/-- What a partner's message `m` does to a frame in that lock state whose own message is `own`. -/
def splits (x : SplitState) (own m : List Byte) (p : State → Bool) : Bool :=
  met (.splitReadyRx (envelope 0x20 2 m)) (paired x 1 own) (fun s => (s.hitchMsg (envelope 0x20 2 m)).any fun e =>
    e.ty == 0x20 && e.sender == 2 && e.body == m && numAt m 0 4 == 5) fun _ t => p t

theorem test_SplitLock :
    all [sameSplitTiming ready ready && verdict ready 2 && verdict ready 0 && splits .waiting ready ready fun t =>
          t.scan.split.state == .locked && t.scan.split.misses == 0 && t.scan.split.due == [] &&
          t.scan.split.skewPartner == signed 16 (numAt ready 30 2),
      splits .locked (saying 7) (saying 5) fun t => t.scan.split.state == .locked && t.scan.split.due == [] && !(t.frame 5).repeated &&
        !(t.frame 5).lfHeld,
      splits .alone (saying 7) (saying 3) fun t => t.scan.split.state == .alone && t.scan.split.misses == 1 && t.scan.split.due == [],
      splits .locked (saying 7) (saying 4) fun t => t.scan.split.state == .locked && t.scan.split.misses == 1 && (t.frame 5).repeated,
      splits .locked (saying 7) (saying 7) fun t => (t.frame 5).lfHeld && t.scan.split.state == .locked,
      !verdict (saying 3) 2 && splits .locked (saying 7) (saying 3) fun t => t.scan.split.state == .alone && (t.frame 5).repeated &&
        t.scan.split.repeats == 1,
      still (.splitReadyRx []) (paired .off 0 ready) fun s => s.scan.split.state == .off,
      still (.splitReadyRx []) { (paired .waiting 0 ready) with time := {} } fun s => !s.time.hitch.joined,
      still (.splitReadyRx (envelope 0x10 2 (le 12 0))) (paired .waiting 0 ready) fun s => (s.hitchMsg (envelope 0x10 2 (le 12 0))).any fun m => m.ty != 0x20,
      still (.splitReadyRx (envelope 0x20 2 ready)) { (paired .waiting 0 ready) with scan := { (paired .waiting 0 ready).scan with split := { (paired .waiting 0 ready).scan.split with partner := some 3 } } }
        fun s => (s.hitchMsg (envelope 0x20 2 ready)).any fun m => m.sender == 2 && m.sender != s.time.hitch.member,
      met (.splitWaitExpiry 5) (paired .locked 1 ready) (fun s => decide (s.scan.split.misses + 1 < s.scan.split.miss)) fun _ t =>
        (t.frame 5).repeated && t.scan.split.state == .locked && t.scan.split.misses == 2 && t.scan.split.repeats == 1,
      met (.splitWaitExpiry 5) (paired .locked 2 ready) (fun s => decide (s.scan.split.miss ≤ s.scan.split.misses + 1)) fun _ t =>
        t.scan.split.state == .alone,
      met (.splitWaitExpiry 5) (paired .waiting 0 ready) (fun s => s.scan.split.state != .locked) fun s t => t.frames == s.frames &&
        t.scan.split.due == [] && t.scan.split.state == .waiting,
      still (.splitWaitExpiry 5) { (paired .locked 2 ready) with time := { hitch := member, now := 99999 } } fun _ => true,
      still (.splitWaitExpiry 6) (paired .locked 2 ready) fun s => s.scan.split.due.all fun e => e.1 != 6] = true := by
  decide +kernel

/-! ### Block CAM -/

/-- A light-field part with camera port 0, stream 7 of 16 × 8 samples of eight bits on it, and context 0 on that stream. -/
def camera (x : CtxState) : State :=
  { lf with cam := { ports := [(0, { lanes := 2, mbps := 1000 })], streams := [(7, { set := true, maxLineRate := 1000 })]
                     ctxs := [(0, { state := x, stream := 7, band := 0x0F })] } }

/-- Fields of CAM_CONTEXT that describe stream 7, and context 7 on it. -/
def streamFields : List (Nat × Nat) :=
  [(8, 2), (9, 7), (12, 127), (13, 3), (14, 0xFF), (19, 0x2D), (20, 50), (22, 1), (24, 8192), (26, 8), (28, 2 ^ 32 - 1), (32, 1),
    (36, 1), (48, 1)]
/-- Fields of a context. -/
def ctxFields (c : Nat) : List (Nat × Nat) := [(8, 3), (9, c), (10, 7), (11, 0x0F), (12, 7), (13, 1)]

/-- A settings image whose script has one write. -/
def settingsImg : List Byte :=
  le 4 0x53544553 ++ le 1 1 ++ le 1 0x20 ++ le 2 1 ++ le 4 0 ++ le 52 0 ++ List.replicate 2384 0 ++ (le 2 0x3012 ++ le 1 6 ++ le 1 0 ++ le 4 9)

/-- The camera with that image in buffer 5. -/
def imaged (p : Option CamState) : State :=
  let s := bigBuffer (camera .started)
  { s.setStream 7 { (camera .started).stream 7 with pending := p } with dram := Memory.setBytes [] 0x400000 settingsImg }

/-- The hypotheses of a settings image without fault. -/
def goodSettings (s : State) : Bool :=
  let g := fun (off n : Nat) => s.dram.num (0x400000 + off) n
  settingsFault g == none && decide (settingsExtent (g 5 1) (g 6 2) (g 8 4) ≤ (s.buf 5).size)

/-- Its script. -/
def oneWrite : List ScriptEntry := [{ reg := 0x3012, regBytes := 2, data := 9, dataBytes := 1 }]

/-- The fields of CAM_OUTPUT for the frame itself, of 16 × 8 samples, into buffer 5. -/
def outFields : List (Nat × Nat) := [(8, 0), (9, 1), (16, 16), (18, 8), (20, 1), (22, 5)]

/-- That rate is admitted. -/
def rateFits (s : State) : Bool :=
  s.admits (outKey 0 1) (ceilDiv (outSize (s.stream 7) 1 (camOutOf (s.slot 0) {}) * (s.stream 7).maxLineRate) (s.stream 7).height)

/-- Fields of CAM_OUTPUT for one rectangle of buffer 5, into the same buffer. -/
def rectFields : List (Nat × Nat) := [(8, 0), (9, 3), (20, 1), (22, 5), (38, 1), (40, 5)]

/-- A camera with the rectangle 1, 1, 2, `h` in buffer 5, held by calibration or not. -/
def rectified (h : Nat) (held : Bool) : State :=
  { ((bigBuffer (camera .configured)).setCtx 0 { state := .configured, stream := 7, band := 0x0F, calRects := held }) with
    mem := { budget := 1 }, dram := Memory.setBytes [] 0x400000 (le 2 1 ++ le 2 1 ++ le 2 2 ++ le 2 h) }

/-- A camera whose stream is fired by unit 3, which is held so, with a settings state pending. -/
def triggered (h : TrigHolder) : State :=
  ((camera .configured).setStream 7 { set := true, maxLineRate := 1000, trigger := 3, entries := [{}], pending := some { id := 2 } }).setTrig 3 { holder := h }

theorem test_CamCommands :
    all [ran 0x0800 camContextChecks (.camContext 0) [(8, 1), (9, 3), (10, 4), (11, 0xE4), (12, 31), (13, 2), (14, 2500)] (camera .started)
        (fun s => eight.all fun n => !(s.stream n).set || (s.stream n).port != 3) fun s t => fin 0 s t 0 0 0 &&
          (t.camPort 3).lanes == 4 && (t.camPort 3).mbps == 2500 && (t.camPort 3).polarity == 31 && t.cam.streams == s.cam.streams,
      ran 0x0800 camContextChecks (.camContext 0) streamFields (camera .configured) (fun s => !s.streamRuns 7) fun s t => fin 0 s t 0 0 0 &&
        (t.stream 7).format == 0x2D && (t.stream 7).width == 8192 && (t.stream 7).viewOffset == -1 && (t.stream 7).latency == 3,
      ran 0x0800 camContextChecks (.camContext 0) [(8, 1), (9, 0), (10, 4), (11, 0xE4), (12, 31), (13, 2), (14, 2500)] (camera .started)
        (fun s => (s.stream 7).set && (s.stream 7).port == 0 && s.streamRuns 7) fun s t => fin 0 s t 0x14 0x0803 0 && t.cam == s.cam,
      ran 0x0800 camContextChecks (.camContext 0) streamFields (camera .started) (fun s => s.streamRuns 7) fun s t =>
        fin 0 s t 0x14 0x0803 0 && t.cam == s.cam,
      ran 0x0800 camContextChecks (.camContext 0) (ctxFields 0) (camera .configured) (fun s => (s.ctx 0).state != .started) fun s t =>
        fin 0 s t 0 0 0 && (t.ctx 0).state == .configured && (t.ctx 0).priority == 7 && (t.ctx 0).dropCorrupt,
      ran 0x0800 camContextChecks (.camContext 0) (ctxFields 0) (camera .started) (fun s => (s.ctx 0).state == .started) fun s t =>
        fin 0 s t 0x14 0x0803 0 && t.cam == s.cam,
      ran 0x0800 camContextChecks (.camContext 0) [(8, 4), (9, 0), (10, 1)] (camera .configured) (fun s => (s.ctx 0).state != .started)
        fun s t => fin 0 s t 0 0 0 && (t.ctx 0).state == .unconfigured,
      ran 0x0800 camContextChecks (.camContext 0) [(8, 4), (9, 7), (10, 2)] (camera .unconfigured) (fun s => s.ctxsOf 7 == [])
        fun s t => fin 0 s t 0 0 0 && !(t.stream 7).set,
      ran 0x0800 camContextChecks (.camContext 0) [(8, 4), (9, 0), (10, 1)] (camera .started) (fun s => (s.ctx 0).state == .started)
        fun s t => fin 0 s t 0x14 0x0803 0 && t.cam == s.cam,
      ran 0x0800 camContextChecks (.camContext 0) [(8, 4), (9, 7), (10, 2)] (camera .started) (fun s => s.ctxsOf 7 != [] && s.streamRuns 7)
        fun s t => fin 0 s t 0x14 0x0803 0 && t.cam == s.cam,
      ran 0x0800 camContextChecks (.camContext 0) [(8, 4), (9, 7), (10, 2)] (camera .configured) (fun s => s.ctxsOf 7 != [] && !s.streamRuns 7)
        fun s t => fin 0 s t 0x14 0x0800 0 && t.cam == s.cam,
      ran 0x0801 camSettingsChecks (.camSettings 0) [(8, 0), (10, 65535), (12, 5)] (imaged none) (fun s => goodSettings s &&
          (s.stream 7).pending == none) fun s t => fin 0 s t 1 0 0 && (t.stream 7).pending.any fun p =>
            p.id == 65535 && p.script == oneWrite && p.parts == [(0, {})],
      ran 0x0801 camSettingsChecks (.camSettings 0) [(8, 0), (10, 2), (12, 5)]
        (imaged (some { id := 1, script := List.replicate 63 ({} : ScriptEntry), slips := 300 })) (fun s => goodSettings s && que s 8 2 &&
          (s.stream 7).pending.isSome) fun s t => fin 0 s t 1 0 0 && ((t.stream 7).pending.any fun q => q.id == 2 &&
            q.script == List.replicate 63 ({} : ScriptEntry) ++ oneWrite) && waits t 8 2 (le 1 7 ++ le 2 1 ++ le 1 1 ++ le 8 0 ++ le 1 255 ++ le 1 0),
      ran 0x0801 camSettingsChecks (.camSettings 0) [(8, 0), (10, 2), (12, 5)]
        { (imaged none) with dram := (imaged none).dram.setBytes 0x400010 [1] } (fun s => settingsFault (fun off n => s.dram.num (0x400000 + off) n) == some 16)
        fun s t => fin 0 s t 0x11 0x0110 16 && t.cam == s.cam,
      ran 0x0801 camSettingsChecks (.camSettings 0) [(8, 0), (10, 2), (12, 5)]
        ((imaged none).setBuf 5 { base := 0x400000, size := 2455, state := .ready }) (fun s => settingsFault (fun off n => s.dram.num (0x400000 + off) n) == none)
        fun s t => fin 0 s t 0x11 0x0110 0 && t.cam == s.cam,
      ran 0x0801 camSettingsChecks (.camSettings 0) [(8, 0), (10, 2), (12, 5)] (imaged (some { id := 1, script := List.replicate 64 ({} : ScriptEntry) }))
        goodSettings fun s t => fin 0 s t 0x11 0x010C 0 && t.cam == s.cam,
      ran 0x0802 camOutputChecks (.camOutput 0) rectFields (rectified 2 false) (fun s => s.admits (outKey 0 3) (ceilDiv (7168 * 1000) 8))
        fun s t => fin 0 s t 0 0 0 && (t.ctx 0).stagedRects == [(1, 1, 2, 2)] && (Tab.get {} (t.ctx 0).staged 3).handles == [5],
      ran 0x0802 camOutputChecks (.camOutput 0) rectFields (rectified 2 true) (fun s => (s.ctx 0).calRects) fun s t =>
        fin 0 s t 0x14 0x0902 0 && t.cam == s.cam,
      ran 0x0802 camOutputChecks (.camOutput 0) rectFields (rectified 0 false)
        (fun s => rectsAt s 0x400000 1 == [(1, 1, 2, 0)]) fun s t => fin 0 s t 0x11 0x0130 6 && t.cam == s.cam,
      ran 0x0802 camOutputChecks (.camOutput 0) outFields { (bigBuffer (camera .configured)) with mem := { budget := 1 } } rateFits fun s t => fin 0 s t 0 0 0 &&
        Tab.get {} (t.ctx 0).staged 1 == { handles := [5], w := 16, h := 8 } && t.mem.held.any fun e => e.1 == outKey 0 1,
      ran 0x0802 camOutputChecks (.camOutput 0) outFields { (bigBuffer (camera .configured)) with mem := { held := [(0, 10 ^ 15)] } }
        (fun s => !rateFits s) fun s t => fin 0 s t 0x15 s.bulkFree 0 && t.cam == s.cam && t.mem.held == s.mem.held,
      ran 0x0802 camOutputChecks (.camOutput 0) [(8, 0), (9, 1)] { (camera .configured) with mem := { held := [(outKey 0 1, 5), (0, 6)] } }
        (fun _ => true) fun s t => fin 0 s t 0 0 0 && t.mem.held == [(0, 6)],
      ran 0x0803 camStartChecks (.camStart 0) [(8, 1)] (camera .configured) (fun s => decide (s.camLoad [0] ≤ 10 ^ 9)) fun s t =>
        fin 0 s t 0 0 1 && (t.ctx 0).state == .started,
      ran 0x0803 camStartChecks (.camStart 0) [(8, 3)]
        ((camera .configured).setStream 7 { set := true, width := 8192, maxLineRate := 1000000 } |>.setCtx 1 { state := .configured, stream := 7 })
        (fun s => decide (10 ^ 9 < s.camLoad [0, 1])) fun s t => fin 0 s t 0x11 0x0108 (s.camLoad [0, 1] / 10 ^ 6) && t.cam == s.cam,
      ran 0x0803 camStartChecks (.camStart 0) [(8, 1)] (triggered .calibration) (fun s => decide (s.camLoad [0] ≤ 10 ^ 9)) fun s t =>
        fin 0 s t 0x14 TrigHolder.calibration.opcode 0 && t.cam == s.cam,
      ran 0x0803 camStartChecks (.camStart 0) [(8, 1)] (triggered .none) (fun s => (s.trig 3).holder == .none && (s.stream 7).pending.isSome) fun _ t =>
        (t.trig 3).holder == .camera && (t.stream 7).entries == [] && (t.stream 7).pending.any fun p => p.pre && p.tFs == some 0,
      ran 0x0804 camStopChecks (.camStop 0) [(8, 1)] ((triggered .camera).setCtx 0 { state := .started, stream := 7 })
        (fun s => (s.trig 3).holder == .camera) fun _ t => (t.ctx 0).halted && t.trig 3 == {},
      ran 0x0804 camStopChecks (.camStop 0) [(8, 1)] (((triggered .camera).setCtx 0 { state := .started, stream := 7 }).setCtx 1 { state := .started, stream := 7 })
        (fun s => (s.trig 3).holder == .camera) fun _ t => t.streamRuns 7 && (t.trig 3).holder == .camera,
      ran 0x0804 camStopChecks (.camStop 0) [(8, 255)] (camera .started) (fun s => (s.ctx 0).state == .started) fun s t =>
        fin 0 s t 0 0 0 && (t.ctx 0).state == .configured] = true := by
  decide +kernel

/-- The camera at device time 5 ms with its stream changed. -/
def shooting (x : CamStream) : State :=
  { ((camera .started).setStream 7 x) with time := { now := 5000000 } }

/-- The stream, and a frame of context 0 with `n` lines. -/
def camStream : CamStream := { set := true, maxLineRate := 1000 }
/-- A frame in progress. -/
def camFrame (n : Nat) (h : Nat) : CamFrame :=
  { seq := 41, ctx := some 0, id := 6, lines := List.replicate n (List.replicate 16 0), outs := [(1, { handles := [h], w := 16, h := 8 })] }

theorem test_CamFrames :
    all [met (.csiFrameStart 0 0 1 true) (shooting { camStream with seen := true, camSeq := 2 ^ 32 - 1 })
        (fun s => s.streamAt 0 0 == some 7 && (s.stream 7).frame == none && (s.stream 7).entries == []) fun _ t =>
          (t.stream 7).camSeq == 0 && (t.stream 7).frame.any fun f => f.seq == 0 && f.unpaired && f.band == 0x0F && f.tRef == 5000000,
      met (.csiFrameStart 0 0 0 false) (shooting { camStream with entries := [{ band := 3, time := 4999000, hwm := -2 }] })
        (fun s => decide (s.time.now ≤ 4999000 + 1000 * (s.stream 7).sofMaxUs)) fun _ t => (t.stream 7).frame.any fun f =>
          f.seq == 0 && !f.unpaired && f.band == 3 && f.tRef == 4999000 && f.hwm == -2,
      met (.csiLinePacket 0 0 0x2A (List.replicate 15 9) 1 false) (shooting { camStream with frame := some (camFrame 7 5) })
        (fun s => (eight.all fun m => decide ((s.cam.waiting.filter fun e => e.2.1 == m).length < 6)) && rawType 0x2A) fun _ t =>
          (t.stream 7).frame.any fun g => g.lines.length == 8 && g.lines.getD 7 [] == List.replicate 15 9 ++ [0] && g.crc == 1 && g.corrupt,
      met (.csiLinePacket 0 0 0x2A (List.replicate 16 9) 0 true) (shooting { camStream with frame := some (camFrame 0 5) })
        (fun _ => true) fun _ t => (t.stream 7).frame.any fun g => !g.corrupt && g.lines == [List.replicate 16 9],
      met (.csiLinePacket 0 0 0x29 [] 0 true) (shooting camStream) (fun _ => !rawType 0x29) fun _ t => (t.camPort 0).typeDrop == 1,
      met (.camFrameDone 0 0 0) (((shooting { camStream with frame := some (camFrame 7 5) }).setBuf 5 { base := 0x400000, size := 0x1000, state := .filling }).setCtx 0
          { state := .started, stream := 7, dropCorrupt := true, corruptDrop := 65535 }) (fun s => (s.ctx 0).dropCorrupt) fun s t =>
          (t.ctx 0).corruptDrop == 65535 && t.cmd.bufs == s.cmd.bufs && t.dram == s.dram,
      met (.scriptWriteStart 0) (shooting { camStream with pending := some { id := 9, script := oneWrite, tFs := some 5000000, n0 := some 4 }, windowUs := 500 })
        (fun s => (s.scriptNext 0).any fun e => decide (s.time.now + scriptTime (s.camPort 0).i2cSpeed e.2.1.script ≤ e.2.2 + 500000)) fun _ t =>
          (t.stream 7).writing.isSome && (t.stream 7).pending == none && t.out == [],
      met (.scriptWriteStart 0) (shooting { camStream with pending := some { id := 9, script := oneWrite, tFs := some 5000000, n0 := some 4 } })
        (fun s => (s.scriptNext 0).any fun e => !e.2.1.pre && decide (e.2.2 + 50000 < s.time.now + scriptTime 0 e.2.1.script)) fun _ t =>
          ((t.stream 7).pending.any fun p => p.slips == 1 && p.tFs == none) && t.out == [],
      met (.scriptWriteDone 0 none) (shooting { camStream with writing := some { id := 9, tFs := some 4950000, n0 := some (2 ^ 32 - 1), slips := 1 } })
        (fun s => que s 8 2) fun _ t => ((t.stream 7).due.any fun e => e.id == 9 && e.first == 1) &&
          waits t 8 2 (le 1 7 ++ le 2 9 ++ le 1 0 ++ le 4 0 ++ le 4 1 ++ le 1 1 ++ le 1 0),
      met (.scriptWriteDone 0 (some 63)) (shooting { camStream with writing := some { id := 9, tFs := some 4950000, n0 := some 3 } })
        (fun s => que s 8 2) fun _ t => (t.stream 7).writing == none && (t.stream 7).due == [],
      met (.scriptWriteDone 0 (some 0)) (shooting { camStream with writing := some { id := 9, script := oneWrite ++ oneWrite, pre := true } })
        (fun s => que s 8 2) fun _ t => t.out.length == 1 && waits t 8 2 (le 1 7 ++ le 2 9 ++ le 1 2 ++ le 8 0 ++ le 2 0),
      met (.scriptWriteDone 0 none) (shooting { camStream with camSeq := 6, seen := true, writing := some { id := 9, script := oneWrite ++ oneWrite, pre := true } })
        (fun s => que s 8 2) fun _ t => t.out.length == 2 && ((t.stream 7).due.any fun e => e.first == 7),
      met (.scriptWriteDone 0 none) (shooting { camStream with writing := some { id := 9, tFs := some 4900000, n0 := some 3 } })
        (fun s => que s 8 2) fun _ t => (t.stream 7).due.any fun e => e.first == 5,
      still (.scriptWriteDone 0 none) (shooting camStream) fun s => eight.all fun m => (s.stream m).writing == none,
      still (.scriptWriteStart 0) (shooting camStream) fun s => (s.scriptNext 0).isNone,
      still (.scriptWriteStart 0) (shooting { camStream with writing := some {}, pending := some { pre := true, tFs := some 1 } }) fun s => (s.scriptNext 0).isSome,
      met (.scriptWriteStart 0) (shooting { camStream with pending := some { id := 9, script := oneWrite, tFs := some 0, pre := true } })
        (fun s => (s.scriptNext 0).any fun e => e.2.1.pre) fun _ t => (t.stream 7).writing.any fun p => p.id == 9,
      met (.strobeEnd 5) { (shooting camStream) with cam := { strobes := [(5, { pulses := [(1, 5000000), (2, 5000001)] }), (4, { pulses := [(1, 2)] })] } }
        (fun s => decide (5000000 ≤ s.time.now)) fun _ t => (Tab.get (α := Strobe) {} t.cam.strobes 5).pulses == [(2, 5000001)] &&
          t.out == [] && (Tab.get (α := Strobe) {} t.cam.strobes 4).pulses == [(1, 2)],
      met (.strobeEnd 5) { (shooting camStream) with cam := { strobes := [(5, { pulses := [(1, 5000000)] })] } }
        (fun _ => true) fun _ t => t.out == [.strobe 5 5000000 false]] = true := by
  decide +kernel

/-- The camera with an output of that frame that has taken buffer 5 of this base and size. -/
def taking (n base size : Nat) (b : BufEntry) : State :=
  (shooting { camStream with frame := some { camFrame n 5 with taken := [(1, some (5, base, size))] } }).setBuf 5 b

theorem test_CamFrames_ends :
    all [met (.csiFrameStart 0 0 0 false) (shooting { camStream with frame := some { (camFrame 8 5) with outs := [] }, entries := [{ time := 1 }], orphan := 65535 })
        (fun s => decide (1 + 1000 * (s.stream 7).sofMaxUs < s.time.now)) fun _ t => (t.stream 7).orphan == 65535 && (t.stream 7).unpaired == 1 &&
          (t.stream 7).entries == [] && (t.ctx 0).lastSeq == 41,
      met (.csiLinePacket 0 0 0x2A (List.replicate 16 9) 0 true) (shooting { camStream with frame := some { (camFrame 0 5) with abandoned := true } })
        (fun _ => true) fun _ t => (t.stream 7).frame.any fun g => g.abandoned && g.lines == [],
      met (.csiLinePacket 0 0 0x2A (List.replicate 16 9) 0 true) (shooting { camStream with frame := some (camFrame 8 5) })
        (fun _ => true) fun _ t => (t.stream 7).frame.any fun g => g.corrupt && g.lines.length == 8,
      met (.csiLinePacket 0 0 0x2A (List.replicate 16 9) 0 true)
        { (shooting { camStream with frame := some (camFrame 3 5) }) with
          cam := { (shooting { camStream with frame := some (camFrame 3 5) }).cam with
            freeAt := 10 ^ 12, waiting := List.replicate 6 (0, 7, 1, 12) } }
        (fun s => decide (s.uptime < s.cam.freeAt) && s.ctxFrames == [(0, 7)]) fun _ t =>
          ((t.stream 7).frame.any fun g => g.abandoned && g.lines == []) && (t.ctx 0).arbDrop == 1 && (t.ctx 0).dropped == 1,
      [Instr.csiFrameStart 1 0 0 false, .csiLinePacket 1 0 0x2A [] 0 true, .camFrameDone 1 0 0].all fun i =>
        still i (shooting camStream) fun s => (s.camPort 1).lanes == 0,
      met (.csiLinePacket 0 0 0x30 [1] 1 false) (shooting { camStream with frame := some (camFrame 0 5) }) (fun _ => !rawType 0x30) fun s t =>
        (t.camPort 0).typeDrop == 1 && t.cam.ctxs == s.cam.ctxs && (t.stream 7).frame.any fun g => g.ecc == 1 && g.crc == 1 && g.corrupt,
      met (.csiLinePacket 0 0 0x08 [1] 1 false) (shooting { camStream with frame := some (camFrame 0 5) }) (fun _ => !rawType 0x08) fun _ t =>
        (t.camPort 0).typeDrop == 1 && (t.stream 7).frame.any fun g => g.ecc == 1 && g.crc == 0 && !g.corrupt,
      met (.csiLinePacket 0 0 0x2A [1] 1 false) (shooting camStream) (fun s => (s.stream 7).frame == none) fun _ t => (t.camPort 0).typeDrop == 1,
      met (.csiLinePacket 0 0 0x03 [] 1 true) (shooting { camStream with frame := some (camFrame 0 5) }) (fun _ => true) fun _ t =>
        (t.camPort 0).typeDrop == 0 && (t.stream 7).frame.any fun g => g.ecc == 1,
      [Instr.csiFrameStart 0 3 0 false, .csiLinePacket 0 3 0x2A [] 0 true, .camFrameDone 0 3 0].all fun i =>
        met i (shooting camStream) (fun s => s.streamAt 0 3 == none) fun s t => (t.camPort 0).typeDrop == 1 && t.cam.streams == s.cam.streams,
      [Instr.csiFrameStart 0 0 2 false, .csiLinePacket 0 0 0x2A [] 2 true, .camFrameDone 0 0 2].all fun i =>
        (met i (shooting { camStream with frame := some (camFrame 0 5) }) (fun _ => true) fun _ t => (t.camPort 0).typeDrop == 0 &&
          (t.stream 7).frame.any fun g => g.crc == 1 && g.corrupt) &&
        (met i (shooting camStream) (fun _ => true) fun s t => (t.camPort 0).typeDrop == 1 && t.cam.streams == s.cam.streams),
      met (.camFrameDone 0 0 1) (shooting camStream) (fun s => (s.stream 7).frame == none) fun s t => t.cam.streams == s.cam.streams,
      met (.camFrameDone 0 0 1) (shooting { camStream with frame := some { (camFrame 8 5) with ctx := none } }) (fun _ => true) fun s t =>
        (t.stream 7).frame == none && t.cam.ctxs == s.cam.ctxs,
      met (.camFrameDone 0 0 1) (shooting { camStream with frame := some { (camFrame 8 5) with abandoned := true, ecc := 65535, crc := 3 } }) (fun _ => true)
        fun s t => (t.stream 7).frame == none && (t.ctx 0).eccCorr == 65535 && (t.ctx 0).crcErr == 3 && t.cmd == s.cmd,
      met (.camFrameDone 0 0 0) (taking 7 0x400000 0x1000 { base := 0x400000, size := 0x1000, gen := 3, state := .filling })
        (fun s => !(s.ctx 0).dropCorrupt) fun _ t => (t.stream 7).frame == none && (t.ctx 0).lastSeq == 41 && (t.ctx 0).lastId == 6 &&
          (t.ctx 0).corruptSent == 1 && (t.buf 5).state == .ready && (t.buf 5).gen == 4 && t.dram.num 0x400000 4 == 41,
      met (.camFrameDone 0 0 0) (taking 8 0x400000 0x1000 { base := 0x800000, size := 0x1000, gen := 3, state := .filling }) (fun _ => true) fun s t =>
        (t.ctx 0).outLost == 1 && t.cmd.bufs == s.cmd.bufs && t.dram == s.dram && (t.ctx 0).corruptSent == 0,
      met (.camFrameDone 0 0 0) (shooting { camStream with frame := some (camFrame 8 5) }) (fun _ => true) fun s t =>
        (t.ctx 0).outLost == 1 && t.cmd.bufs == s.cmd.bufs] = true := by
  decide +kernel

/-! ### Block CAL -/

/-- A print part with instance `n` and link 0 claimed. -/
def calib (n : Nat) (x : CalInst) : State :=
  { (prn.setLink 0 { state := .claimed, claim := 0x1001, nodes := 1 }) with cal := { insts := [(n, x)] } }

/-- A target record: its type and bytes as offset, width and value. -/
def record (fs : List (Nat × Nat)) : CalRec := BitVec.ofNat 128 (fs.foldl (fun a f => a + f.2 * 2 ^ (8 * f.1)) 0)

/-- A COLOUR image of one patch of channel 0, read in camera colour 1. -/
def colours : CalTargets :=
  { head := desc 0x54475443 [(4, 1), (5, 1), (6, 6), (8, 0), (9, 1), (10, 1), (24, 0), (28, 1), (36, 1), (40, 8)]
    recs := [record [(0, 1), (1, 0), (2, 1), (4, 8), (8, 4), (10, 4), (12, 30000), (14, 500)],
      record [(0, 2), (4, 0), (8, 4), (10, 4)], record [(0, 3), (8, 1), (10, 1)], record [(0, 4), (1, 0)], record [(0, 4), (1, 1)],
      record [(0, 4), (1, 2)]] }

/-- That image in bytes. -/
def coloursImg : List Byte := le 64 colours.head.toNat ++ colours.recs.flatMap fun r => le 16 r.toNat

/-- A state with those bytes in buffer 5. -/
def targeted (s : State) : State := { (bigBuffer s) with dram := Memory.setBytes [] 0x400000 coloursImg }

/-- A part with the image loaded, its stream 0 on trigger unit 2, and its context. -/
def colouring (x : CalInst) : State :=
  { (calib 0 { x with targets := some colours }) with
    cam := { streams := [(0, { set := true, trigger := 2, strobeCount := 1 })], ctxs := [(0, { state := .configured })] } }

/-- The fields of an enabled COLOUR policy with the default values. -/
def enabled : List (Nat × Nat) := [(8, 1), (10, 9)]

/-- A job in which a CAL commit can be made. -/
def withJob (s : State) : State := { s with prn := jobbed.prn, frames := jobbed.frames }

/-- Every place for a commit taken. -/
def crowded (s : State) : State := { s with frames := { s.frames with commits := List.replicate 16 { applied := 9 } } }

/-- A scan with instance `n` and a gantry of three axes whose first position is at 1, 2 and 3 µm. -/
def gantried (n : Nat) (x : CalInst) (a : Axis) : State :=
  { scanningOn with
    cal := { insts := [(n, { x with targets := some { recs := [record [(0, 7), (4, 1), (8, 2), (12, 3)]] } })] }
    axis := { groups := [(0, [0, 1, 2])], axes := [(0, { enabled := true }), (1, { enabled := true }), (2, a)] } }

theorem test_CalCommands :
    all [ran 0x0900 calTargetsChecks (.calTargets 0) [(8, 1), (10, 5)] (targeted (calib 0 { state := .acquiring })) (fun s =>
          (s.calInst 0).state != .idle) fun s t => fin 0 s t 0x14 0x0901 0 && t.cal == s.cal,
      ran 0x0900 calTargetsChecks (.calTargets 0) [(8, 1), (10, 5)] (targeted (calib 0 {})) (fun s => s.targetsAt 5 0 == colours &&
          targetsFault 0 colours (s.stream 0) (s.buf 5).size == none) fun s t => fin 0 s t 0 0 0 && (t.calInst 0).targets == some colours,
      ran 0x0900 calTargetsChecks (.calTargets 0) [(8, 2), (10, 5)] (targeted (calib 1 {})) (fun s =>
          targetsFault 1 colours (s.stream 0) (s.buf 5).size == some (5, 1)) fun s t => fin 0 s t 0x11 0x0110 5 && t.cal == s.cal,
      ran 0x0901 calRunChecks (.calRun 0) [(8, 7), (10, 1)] (calib 9 { state := .acquiring, waiters := [(3, 4)] }) (fun s =>
          (s.calInst 9).state != .idle) fun _ t => (t.slot 0).phase == .executing && (t.calInst 9).waiters == [(3, 4), (0, 1)],
      ran 0x0901 calRunChecks (.calRun 0) [(8, 7), (10, 1)] (calib 9 { pend := some 2 }) (fun s => (s.calInst 9).pend.isSome) fun _ t =>
        (t.slot 0).phase == .executing && (t.calInst 9).pendWaiters == [(0, 1)],
      ran 0x0901 calRunChecks (.calRun 0) [(8, 0x0107), (10, 1)] (calib 9 {}) (fun s => !s.calReady 10) fun s t =>
        fin 0 s t 0x12 s.top.dev.code 0 && t.cal == s.cal,
      ran 0x0901 calRunChecks (.calRun 0) [(8, 7), (10, 1)] (calib 9 {}) (fun s => s.calReady 9 && (s.calInst 9).pend == none) fun s t =>
        (t.slot 0).phase == .executing && (t.calInst 9).state == .acquiring && (t.calInst 9).trig == 1 &&
          (t.calInst 9).waiters == [(0, 1)] && (t.calInst 9).startRef == s.uptime && (t.calInst 9).run == s.calPolicy 9,
      ran 0x0901 calRunChecks (.calRun 0) [(8, 2), (10, 2), (12, 1)] (withJob prn) (fun s => s.commitRoom && s.cal.clears == [] &&
          s.prn.job.isOpen) fun s t => (t.slot 0).phase != .executing && t.frames.genLast == s.frames.genLast + 1 &&
          t.frames.commits.length == 1,
      ran 0x0902 calPolicyChecks (.calPolicy 0) [(8, 0x2107), (10, 1), (12, 1), (16, 1), (18, 0x0600), (20, 1), (24, 200)] (calib 9 {})
        (fun s => (s.slot 0).cal == 42) fun s t => fin 0 s t 0 0 0 && t.calPolicy 42 == policyOf (s.slot 0),
      ran 0x0902 calPolicyChecks (.calPolicy 0) enabled (colouring {}) (fun s => (policyOf (s.slot 0)).enable && !s.standby &&
          !(s.calInst 0).holds && s.enableFault 0 == none) fun s t => fin 0 s t 0 0 0 && (t.calInst 0).holds &&
          (t.trig 2).holder == .calibration && (t.ctx 0).calRects,
      ran 0x0902 calPolicyChecks (.calPolicy 0) enabled { (colouring {}) with tan := { state := .shadow } } (fun s => s.standby)
        fun s t => fin 0 s t 0x12 s.top.dev.code 0 && t.cal == s.cal,
      ran 0x0901 calRunChecks (.calRun 0) [(8, 2), (10, 1)] (calib 1 {}) (fun s => (s.calInst 1).targets == none) fun s t =>
        fin 0 s t 0x12 s.top.dev.code 0 && t.cal == s.cal,
      ran 0x0901 calRunChecks (.calRun 0) [(8, 4), (10, 1)] (gantried 3 { run := { gain := 3 } } { enabled := true })
        (fun s => s.calReady 3 && decide (3 ≤ (s.gantryTargets 3 0).length) && (s.gantryTargets 3 0).all fun e => (s.ax e.1).calFree e.2)
        fun s t => (t.slot 0).phase == .executing && (t.calInst 3).state == .acquiring && (t.calInst 3).stage == .moving &&
          (t.calInst 3).run == s.calPolicy 3,
      ran 0x0901 calRunChecks (.calRun 0) [(8, 4), (10, 1)] (gantried 3 {} {})
        (fun s => s.calReady 3 && (s.gantryTargets 3 0).any fun e => !(s.ax e.1).calFree e.2)
        fun s t => fin 0 s t 0x21 5 0 && (t.calInst 3).state == .idle,
      ran 0x0901 calRunChecks (.calRun 0) [(8, 5), (10, 1)] { (gantried 4 {} {}) with axis := {} }
        (fun s => s.calReady 4 && decide ((s.gantryTargets 4 0).length < 3)) fun s t => fin 0 s t 0x21 5 0,
      ran 0x0901 calRunChecks (.calRun 0) [(8, 2), (10, 2), (12, 1)] { prn with frames := { base := { prn := { maps := [(0, oneMap)], missing := [(3, true), (32768 * 9, true)] } } } }
        (fun s => s.commitRoom && !s.prn.job.isOpen && !s.scanning) fun s t => fin 0 s t 0 0 0 && t.frames.commits == [] &&
          t.frames.base.prn.missing == [(32768 * 9, true)],
      ran 0x0901 calRunChecks (.calRun 0) [(8, 2), (10, 2), (12, 1)] (crowded (withJob prn)) (fun s => !s.commitRoom) fun s t =>
        (t.slot 0).phase == .executing && t.cal.clears == [(0, 1, 1)] && t.frames == s.frames,
      ran 0x0902 calPolicyChecks (.calPolicy 0) enabled (calib 0 {}) (fun s => s.enableFault 0 == some none && !s.standby) fun s t =>
        fin 0 s t 0x12 s.top.dev.code 0 && t.cal == s.cal,
      ran 0x0902 calPolicyChecks (.calPolicy 0) enabled ((colouring {}).setTrig 2 { holder := .scan })
        (fun s => s.enableFault 0 == some (some TrigHolder.scan.opcode)) fun s t =>
        fin 0 s t 0x14 TrigHolder.scan.opcode 0 && t.cal == s.cal,
      ran 0x0902 calPolicyChecks (.calPolicy 0) [(8, 1), (10, 8)]
        ((colouring { state := .acquiring, holds := true, pend := some 1, policy := some { enable := true } }).setTrig 2 { holder := .calibration })
        (fun s => (s.calPolicy 0).enable) fun s t => fin 0 s t 0 0 0 && (t.calInst 0).state == .idle && !(t.calInst 0).holds &&
          (t.calInst 0).pend == none && (t.trig 2).holder == .none,
      ran 0x0903 calQueryChecks (.calQuery 0) [(8, 7)] (calib 9 { pend := some 1, stale := true, goodQuality := 300 }) (fun _ => true)
        fun s t => fin 0 s t 0 9 300 && t.cal == s.cal] = true := by
  decide +kernel

/-- A capture whose left half is white and whose right half is darker. -/
def capture : CalShot :=
  { frame := { lines := List.replicate 8 (List.replicate 8 200 ++ List.replicate 8 100) }, width := 16, height := 8, out := 7 }

/-- An instance in a run since the start of uptime, with one command waiting. -/
def runningCal (n : Nat) (st : RunState) : State :=
  { (calib n { state := st, waiters := [(0, 1)], run := { qualLimit := 300, timeoutMs := 1000 }, startTemp := some 480, goodQuality := 7 }) with
    cmd := { slots := [(0, { phase := .executing, id := 1 })] } }

/-- The result of channel 0 of that COLOUR run. -/
def colourResult (s : State) : Option (List Nat × Nat) :=
  (colourChannel (s.calT 0) (s.calInst 0).run (Tab.get {} (s.shotCfg 0).post 0) (s.calInst 0).shots 0).2

/-- A COLOUR run of that patch that computes. -/
def computingColour (n : Nat) : State :=
  (colouring { state := .computing, shots := [capture], run := { chMask := 1, gain := 128, maxStep := 1024 } }).updCal 0
    fun x => { x with targets := some { colours with recs := colours.recs.take n } }

/-- Its results, as the statement has them. -/
def colourResults (s : State) : List (Nat × Option Nat × Option (List Nat × Nat)) :=
  ((List.range 16).filter fun c => bitAt (s.calInst 0).run.chMask c).map fun c =>
    (c, colourChannel (s.calT 0) (s.calInst 0).run (Tab.get {} (s.shotCfg 0).post c) (s.calInst 0).shots c)

/-- A registration run that computes with one mark and one fabric record at rectangles of that x. -/
def registering (x : Nat) : State :=
  let tg : CalTargets :=
    { head := desc 0 [(20, 65536), (36, 0xFF), (38, 30000), (40, 0xFF)]
      recs := [record [(0, 5), (4, x), (8, 4), (10, 4), (12, 2)], record [(0, 6), (4, 8), (8, 4), (10, 4)]] }
  withJob (calib 2 { state := .computing, shots := [capture], run := { barMask := 1, gain := 255, slewRate := 4 }, targets := some tg })

/-- Its corrections. -/
def fixes (s : State) : Option (List BarFix) :=
  barFixes (s.calT 2) (s.calInst 2).run (s.frameLine (((s.calInst 2).shots.head?.map (·.out)).getD 0)) (s.calInst 2).shots

/-- A scan whose instance `n` computes; one lens seen, and one not; one emitter read, and one whose response falls. -/
def lfComputing (n q : Nat) : State :=
  { scanningOn with cal := { insts := [(n, { state := .computing, run := { qualLimit := q }
                                             targets := some { head := desc 0 [(24, 65535), (26, 10), (28, 20)] } })] } }
/-- One lens seen. -/
def lens : LensObs := { emitters := [0], dx := [3, 5], dy := [3, 5] }
/-- An emitter read. -/
def emitter : EmitterObs := { low := 10, high := 20 }

theorem test_CalibrationRuns_noRun :
    all [calSlot 0 == none, still (.calRunStart 0) prn fun _ => true, still (.calPeriodicTimer 0) prn fun _ => true,
      still (.calTimeout 0) prn fun _ => true, still (.calSettleExpiry 0) prn fun _ => true, still (.calComputeDone 0 1 true [] []) prn fun _ => true,
      still (.calRunStart 7) (calib 9 {}) fun s => (s.calInst 9).pend == none,
      still (.calRunStart 7) (calib 9 { pend := some 1, state := .acquiring }) fun s => (s.calInst 9).state != .idle,
      still (.calRunStart 2) (calib 1 { pend := some 1 }) fun s => (s.calInst 1).targets == none,
      still (.calPeriodicTimer 1) (calib 0 { policy := some { periodic := true, period := 1 } }) fun _ => calSlot 1 == some 0,
      still (.calPeriodicTimer 7) (calib 9 { policy := some { period := 1000 } }) fun s => !(s.calPolicy 9).periodic,
      still (.calPeriodicTimer 7) (calib 9 { policy := some { periodic := true, period := 1001 } }) fun s => decide (s.uptime < 1001 * 10 ^ 6),
      still (.calComputeDone 7 300 true [] []) (runningCal 9 .idle) fun s => (s.calInst 9).state != .acquiring,
      still (.calComputeDone 0x0107 300 true [] []) (runningCal 10 .acquiring) fun s => !s.serdesReady 10,
      still (.calComputeDone 2 300 true [] []) (runningCal 1 .acquiring) fun s => (s.calInst 1).state != .computing,
      still (.calTimeout 7) (runningCal 9 .idle) fun s => (s.calInst 9).state == .idle,
      still (.calTimeout 7) { (runningCal 9 .acquiring) with uptime := 999999999 } fun _ => true,
      still (.calTimeout 0x0107) (runningCal 10 .acquiring) fun s => !s.serdesReady 10,
      still (.calSettleExpiry 4) (calib 3 { state := .acquiring, stage := .showing }) fun s => (s.calInst 3).stage != .settling,
      met (.calRunStart 4) (gantried 3 { pend := some 1 } { enabled := true })
        (fun s => s.calReady 3 && decide (3 ≤ (s.gantryTargets 3 0).length) && (s.gantryTargets 3 0).all fun e => (s.ax e.1).calFree e.2)
        fun _ t => (t.calInst 3).state == .acquiring && (t.calInst 3).trig == 1 && (t.calInst 3).pend == none && (t.calInst 3).stage == .moving]
      = true := by
  decide +kernel

theorem test_CalibrationRuns_fullTables :
    ({ (computingColour 2) with frames := { staged := { prn := fullTables } } } : State).tablesFree = 0 := tablesFree_full _ rfl rfl

theorem test_CalibrationRuns_results :
    all [(colourResults (computingColour 2)).length == 1 && (colourResults (computingColour 2)).all fun e => e.2.2.isSome,
      met (.calComputeDone 1 0 true [] []) (crowded (withJob (computingColour 2))) (fun s => !s.commitRoom && (colourResults s).length == 1 &&
          decide (1 ≤ s.tablesFree) && (colourResults s).all fun e => e.2.2.isSome) fun s t => (t.calInst 0).state == .committing &&
          t.frames == s.frames,
      met (.calComputeDone 1 0 true [] []) (withJob (computingColour 0)) (fun s => (colourResults s).any fun e => e.2.2.isNone) fun s t =>
        (t.calInst 0).state == .idle && (t.calInst 0).lastDetail == 3 && t.frames == s.frames,
      met (.calComputeDone 2 0 true [] []) (withJob (runningCal 1 .computing)) (fun s => s.commitRoom) fun _ t =>
        (t.calInst 1).state == .idle && (t.calInst 1).lastStatus == 0 && (t.calInst 1).goodQuality == (t.calInst 1).quality,
      met (.calComputeDone 3 0 true [] []) (registering 0) (fun s => s.commitRoom && fixes s == none) fun s t =>
        (t.calInst 2).state == .idle && (t.calInst 2).lastDetail == 3 && t.web == s.web,
      met (.calComputeDone 3 0 true [] []) (registering 8) (fun s => s.commitRoom && ((fixes s).map fun l => l.map fun b => (b.bar, b.offset)) == some [(0, -1)] &&
          (s.calT 2).u 40 1 == 0xFF) fun _ t => (t.calInst 2).state == .idle && (t.calInst 2).lastStatus == 0 && (t.webBar 0).target == -1 &&
          (t.webBar 0).slewRate == 4,
      met (.calComputeDone 4 0 true [lens] []) (lfComputing 3 300) (fun s => s.commitRoom && s.scanning && !tooFewLenses [lens] && decide (rayQuality [lens] ≤ 300))
        fun _ t => (t.calInst 3).state == .idle && (t.calInst 3).lastStatus == 0 && (t.frames.commits.map fun c => c.cfg.lf.resCal) == [true],
      met (.calComputeDone 4 0 false [lens] []) (lfComputing 3 300) (fun _ => true) fun _ t => (t.calInst 3).lastDetail == 3,
      met (.calComputeDone 4 0 true [lens, {}] []) (lfComputing 3 300) (fun _ => tooFewLenses [lens, {}]) fun _ t => (t.calInst 3).lastDetail == 2,
      met (.calComputeDone 4 0 true [lens] []) (lfComputing 3 0) (fun _ => decide (0 < rayQuality [lens])) fun s t => (t.calInst 3).lastDetail == 4 &&
        t.frames == s.frames,
      met (.calComputeDone 5 0 true [] [emitter]) (lfComputing 4 65535) (fun s => (photoResult (s.calT 4) [emitter]).any fun r => decide (r.2 ≤ 65535))
        fun _ t => (t.calInst 4).state == .idle && (t.calInst 4).lastStatus == 0 && (t.frames.commits.map fun c => c.cfg.lf.gainCal) == [true],
      met (.calComputeDone 5 0 true [] [{}]) (lfComputing 4 65535) (fun s => (photoResult (s.calT 4) [{}]).isNone) fun _ t => (t.calInst 4).lastDetail == 3,
      met (.calComputeDone 5 0 true [] [emitter, { emitter := 1, low := 10, high := 90 }]) (lfComputing 4 0)
        (fun s => (photoResult (s.calT 4) [emitter, { emitter := 1, low := 10, high := 90 }]).any fun r => decide (0 < r.2)) fun s t =>
          (t.calInst 4).lastDetail == 4 && t.frames == s.frames] = true := by
  decide +kernel

theorem test_CalibrationRuns :
    all [met (.calRunStart 7) (calib 9 { pend := some 3, pendWaiters := [(2, 5)] }) (fun s => s.calReady 9 && calSlot 7 == some 9)
        fun s t => (t.calInst 9).state == .acquiring && (t.calInst 9).trig == 3 && (t.calInst 9).pend == none &&
          (t.calInst 9).waiters == [(2, 5)] && (t.calInst 9).startRef == s.uptime,
      still (.calRunStart 0x0107) (calib 10 { pend := some 3 }) fun s => calSlot 0x0107 == some 10 && !s.calReady 10,
      met (.calPeriodicTimer 7) (calib 9 { policy := some { periodic := true, period := 1000 }, pend := some 1, coalesced := 65535 })
        (fun s => (s.calPolicy 9).periodic) fun _ t => (t.calInst 9).coalesced == 65535 && (t.calInst 9).pend == some 1,
      met (.calPeriodicTimer 7) (calib 9 { policy := some { periodic := true, period := 1000 } })
        (fun s => s.calReady 9 && decide (1000 * 10 ^ 6 ≤ s.uptime)) fun _ t => (t.calInst 9).state == .acquiring && (t.calInst 9).trig == 2,
      met (.calPeriodicTimer 0x0107) (calib 10 { policy := some { periodic := true, period := 1 } }) (fun s => !s.calReady 10) fun _ t =>
        (t.calInst 10).pend == some 2 && (t.calInst 10).state == .idle,
      met (.calComputeDone 7 300 true [] []) (runningCal 9 .acquiring) (fun s => s.serdesReady 9 && s.running 0 1) fun s t =>
        (t.calInst 9).state == .idle && (t.calInst 9).goodQuality == 300 && (t.calInst 9).tGood == some 480 && fin 0 s t 0 0 300,
      met (.calComputeDone 7 299 true [] []) (runningCal 9 .acquiring) (fun s => s.serdesReady 9) fun s t =>
        (t.calInst 9).state == .idle && (t.calInst 9).lastStatus == 0x21 && (t.calInst 9).lastDetail == 4 &&
          (t.calInst 9).goodQuality == 7 && fin 0 s t 0x21 4 0,
      met (.calComputeDone 5 0 false [] []) (runningCal 4 .computing) (fun _ => true) fun s t => (t.calInst 4).state == .idle &&
        (t.calInst 4).lastDetail == 3 && t.frames == s.frames,
      met (.calComputeDone 1 0 true [] [])
        (withJob (computingColour 2))
        (fun s => s.commitRoom && decide (1 ≤ s.tablesFree) && (colourResult s).isSome) fun s t => (t.calInst 0).state == .idle &&
          (t.calInst 0).lastStatus == 0 && t.frames.genLast == s.frames.genLast + 1 &&
          (t.frames.commits.map fun c => (Tab.get {} c.cfg.prn.post 0).data) == [((colourResult s).getD ([], 0)).1],
      met (.calTimeout 7) (runningCal 9 .acquiring) (fun s => s.serdesReady 9) fun s t => (t.calInst 9).state == .idle &&
        (t.calInst 9).lastDetail == 1 && fin 0 s t 0x21 1 0,
      met (.calTimeout 2) (runningCal 1 .committing) (fun s => (s.calInst 1).state != .idle) fun s t => (t.calInst 1).state == .idle &&
        t.frames == s.frames,
      met (.calSettleExpiry 4) (calib 3 { state := .acquiring, stage := .settling, settleAt := 1000000000 }) (fun _ => true) fun _ t =>
        (t.calInst 3).stage == .showing && (t.calInst 3).pattern == 1,
      still (.calSettleExpiry 4) (calib 3 { state := .acquiring, stage := .settling, settleAt := 1000000001 }) fun _ => true] = true := by
  decide +kernel

/-! ### Block AXIS -/

/-- The configuration of a step axis. -/
def stepAxis : AxisCfg :=
  { given := true, fbNum := 0, fbDen := 0, vmax := 100000, amax := 1000000, dmax := 1000000, jerk := 10000000, qstop := 2000000, softMin := -1000000
    softMax := 1000000 }

/-- A part in ARMED for print whose motion engine runs on trigger unit 1 every 1000 µs and whose axis 15 is `x`. -/
def motion (x : Axis) : State :=
  { prn with axis := { trigger := some 1, periodUs := 1000, running := true, axes := [(15, x)] } }

/-- An enabled axis at rest. -/
def resting : Axis := { cfg := stepAxis, enabled := true }

/-- The fields of AXIS_CONFIG for that step axis. -/
def axisFields (flags : Nat) : List (Nat × Nat) :=
  [(8, 2), (9, 15), (10, 1), (14, flags), (16, 1), (18, 1), (24, 100000), (28, 1000000), (32, 1000000), (36, 10000000), (40, 2000000),
    (48, 2 ^ 32 - 1000000), (52, 1000000)]

/-- An axis moving for the command in slot 4, and the state with that command executing. -/
def moving : Axis := { resting with mode := .move, slot := 4, id := 77, target := 65536, cmd := { v := 2000000 * 65536 * 10 ^ 12 } }
/-- That state. -/
def inMotion (x : Axis) : State :=
  { (motion x) with cmd := { slots := [(4, { phase := .executing, id := 77 })] } }

/-- The completion of the command in slot 4. -/
def fin4 (t : State) (st det : Nat) : Bool :=
  (t.cplRing 0).waiting.any fun c => c.slot == 4 && c.id == 77 && c.status == st && c.detail == det && c.result == 0

theorem test_AxisCommands_config :
    all [ran 0x0A00 axisConfigChecks (.axisConfig 0) [(8, 1), (9, 15), (10, 50)] prn (fun s => s.axis.axes.all fun e => !e.2.enabled)
        fun s t => fin 0 s t 0 0 0 && t.axis.trigger == some 15 && t.axis.periodUs == 50,
      ran 0x0A00 axisConfigChecks (.axisConfig 0) [(8, 1), (9, 15), (10, 50)] (motion resting) (fun s => s.axis.axes.any fun e => e.2.enabled)
        fun s t => fin 0 s t 0x14 0x0A00 0 && t.axis == s.axis,
      ran 0x0A00 axisConfigChecks (.axisConfig 0) (axisFields 0) (motion {}) (fun s => (s.ax 15).moverOp == 0 && !(s.ax 15).enabled)
        fun s t => fin 0 s t 0 0 0 && t.ax 15 == { cfg := stepAxis, stepAt := ({ cfg := stepAxis } : Axis).outCount 0 },
      ran 0x0A00 axisConfigChecks (.axisConfig 0) (axisFields 1) (motion {}) (fun s => s.axis.running && !(s.ax 15).enabled)
        fun s t => fin 0 s t 0 0 0 && (t.ax 15).cfg == stepAxis && (t.ax 15).enabled && t.time == s.time,
      ran 0x0A00 axisConfigChecks (.axisConfig 0) [(8, 3), (9, 15), (10, 63), (11, 0xFF), (12, 0), (13, 8), (14, 255)] (motion resting)
        (fun s => [10, 11, 12].all fun o => (s.slot 0).u o 1 == 0xFF || !s.pinDriven 16 ((s.slot 0).u o 1)) fun s t => fin 0 s t 0 0 0 &&
          (t.ax 15).lp.pin == 63 && (t.ax 15).ln.pin == 0xFF && (t.ax 15).hm.pin == 0 && (t.ax 15).revSearch && (t.ax 15).filterUs == 255,
      ran 0x0A00 axisConfigChecks (.axisConfig 0) [(8, 4), (9, 3), (10, 15), (11, 255), (12, 255), (13, 255)] (motion resting)
        (fun s => (Tab.get [] s.axis.groups 3 ++ (s.slot 0).groupAxes).all fun a => (s.ax a).idle) fun s t => fin 0 s t 0 0 0 &&
          Tab.get [] t.axis.groups 3 == [15],
      ran 0x0A00 axisConfigChecks (.axisConfig 0) [(8, 5), (9, 15)] (motion { resting with fault := .limitChatter }) (fun s =>
          !s.chatters (s.ax 15) && que s 10 3) fun s t => fin 0 s t 0 0 0 && (t.ax 15).fault == .none && waits t 10 3 [15, 2, 0]] = true := by
  decide +kernel

/-- A switch that has changed nine times just now. -/
def chattering : SwitchIn := { pin := 3, changes := List.replicate 9 1000000000 }

/-- A command refused with ST_RESOURCE_BUSY and that opcode. -/
def busy (fs : List (Nat × Nat)) (s : State) (op : Nat) : Bool :=
  ran 0x0A00 axisConfigChecks (.axisConfig 0) fs s (fun _ => true) fun s t => fin 0 s t 0x14 op 0 && t.axis == s.axis && t.time == s.time

theorem test_AxisCommands_configForms :
    all [ran 0x0A00 axisConfigChecks (.axisConfig 0) (axisFields 0) (motion resting) (fun s => (s.ax 15).moverOp == 0 && (s.ax 15).enabled)
        fun s t => fin 0 s t 0 0 0 && !(t.ax 15).enabled && (t.ax 15).cfg == stepAxis,
      ran 0x0A00 axisConfigChecks (.axisConfig 0) (axisFields 1) (motion { resting with actual := 7 }) (fun s => (s.ax 15).enabled)
        fun s t => fin 0 s t 0 0 0 && t.ax 15 == { resting with actual := 7, stepAt := resting.outCount 0 },
      ran 0x0A00 axisConfigChecks (.axisConfig 0) (axisFields 1) { (motion {}) with axis := { trigger := some 1, periodUs := 1000 } }
        (fun s => !s.axis.running && s.trigBusy 1 .motion == none) fun s t => fin 0 s t 0 0 0 && (t.ax 15).enabled && t.axis.running &&
          (t.trig 1).holder == .motion,
      ((inMotion moving).ax 15).moverOp == 0x0A02, busy (axisFields 0) (inMotion moving) 0x0A02,
      busy (axisFields 1) ({ (motion {}) with axis := { trigger := some 1, periodUs := 1000 } }.setTrig 1 { holder := .scan }) TrigHolder.scan.opcode,
      busy [(8, 3), (9, 15), (10, 63), (11, 0xFF), (12, 0)] (inMotion moving) 0x0A02,
      (prn.setTrig 4 { pin := 63 }).pinDriven 16 63 && busy [(8, 3), (9, 15), (10, 63), (11, 0xFF), (12, 0)] ((motion resting).setTrig 4 { pin := 63 }) 0x0B01,
      busy [(8, 4), (9, 3), (10, 15), (11, 255), (12, 255), (13, 255)] (inMotion moving) 0x0A02,
      ran 0x0A00 axisConfigChecks (.axisConfig 0) [(8, 5), (9, 15)] (motion resting) (fun s => (s.ax 15).fault == .none) fun s t => fin 0 s t 0 0 0,
      ran 0x0A00 axisConfigChecks (.axisConfig 0) [(8, 5), (9, 15)] (motion { resting with fault := .limitChatter, lp := chattering })
        (fun s => s.chatters (s.ax 15)) fun s t => fin 0 s t 0x30 2 0 && t.axis == s.axis] = true := by
  decide +kernel

/-- The axis in group 3. -/
def grouped (x : Axis) : State := { (motion x) with axis := { (motion x).axis with groups := [(3, [15])] } }

/-- A homing by the home switch in the positive direction does this to an axis that has one. -/
def homes (x : Axis) (p : State → State → Bool) : Bool :=
  ran 0x0A01 axisHomeChecks (.axisHome 0) [(8, 15), (9, 1), (12, 7), (16, 100), (20, 1)]
    (motion { x with homed := true, hm := { x.hm with pin := 3 } }) (fun _ => true) p

theorem test_AxisCommands :
    all [ran 0x0A02 axisMoveChecks (.axisMove 0) [(8, 15), (12, 2 ^ 32 - 5)] (motion { resting with fault := .stall })
        (fun s => (s.ax 15).fault != .none) fun s t => fin 0 s t 0x30 1 0 && t.axis == s.axis,
      ran 0x0A02 axisMoveChecks (.axisMove 0) [(8, 15), (9, 1), (12, 2 ^ 32 - 5)] (motion resting) (fun s => (s.ax 15).moverOp == 0)
        fun _ t => (t.slot 0).phase == .executing && (t.ax 15).mode == .move && (t.ax 15).target == -5 * 65536 && (t.ax 15).legs.length == 1,
      ran 0x0A02 axisMoveChecks (.axisMove 0) [(8, 15), (12, 9), (16, 100000)] (inMotion moving) (fun s => s.running 4 77)
        fun _ t => fin4 t 0x31 0x0A02 && (t.slot 0).phase == .executing && (t.ax 15).slot == 0 && (t.ax 15).target == 9 * 65536,
      ran 0x0A03 axisGroupMoveChecks (.axisGroupMove 0) [(8, 3), (12, 9)]
        { (motion resting) with axis := { (motion resting).axis with groups := [(3, [15])] } } (fun s => (s.ax 15).idle) fun _ t =>
          (t.slot 0).phase == .executing && (t.ax 15).mode == .group && (t.ax 15).group == 3 && (t.move 3).slot == 0,
      ran 0x0A01 axisHomeChecks (.axisHome 0) [(8, 15), (9, 4), (12, 2 ^ 32 - 7)] (motion resting) (fun s => (s.ax 15).moverOp == 0)
        fun _ t => (t.ax 15).homed && (t.ax 15).mode == .home && (t.ax 15).cmd.pos == -7 * 65536 && (t.slot 0).phase == .executing,
      ran 0x0A01 axisHomeChecks (.axisHome 0) [(8, 15), (9, 1), (12, 7), (16, 100), (20, 1)]
        (motion { resting with homed := true, hm := { pin := 3 } }) (fun s => !(s.ax 15).hm.active) fun _ t => !(t.ax 15).homed &&
          (t.ax 15).homing.phase == .search && (t.ax 15).homing.homePos == 7 && (t.slot 0).phase == .executing,
      ran 0x0A02 axisMoveChecks (.axisMove 0) [(8, 15), (12, 9)] (inMotion { moving with mode := .home }) (fun s => (s.ax 15).moverOp == 0x0A01)
        fun s t => fin 0 s t 0x14 0x0A01 0 && t.axis == s.axis,
      ran 0x0A03 axisGroupMoveChecks (.axisGroupMove 0) [(8, 3), (12, 9)] (grouped { resting with fault := .stall }) (fun _ => true) fun s t =>
        fin 0 s t 0x30 1 0 && t.axis == s.axis,
      ran 0x0A03 axisGroupMoveChecks (.axisGroupMove 0) [(8, 3), (12, 9)] (grouped moving) (fun s => !(s.ax 15).idle) fun s t =>
        fin 0 s t 0x14 0x0A02 0 && t.axis == s.axis,
      homes { resting with fault := .stall } fun s t => fin 0 s t 0x30 1 0 && t.axis == s.axis,
      homes moving fun s t => fin 0 s t 0x14 0x0A02 0 && t.axis == s.axis,
      homes { resting with hm := { pin := 3, active := true } } fun _ t => (t.ax 15).homing.phase == .latch && !(t.ax 15).homed,
      homes { resting with hm := { pin := 3 }, lp := { active := true }, revSearch := true } fun _ t => (t.ax 15).homing.phase == .limStop &&
        (t.ax 15).mode == .home,
      homes { resting with hm := { pin := 3 }, lp := { active := true } } fun s t => fin 0 s t 0x30 3 0 && (t.ax 15).fault == .homingLimit,
      ran 0x0A01 axisHomeChecks (.axisHome 0) [(8, 15), (9, 3), (10, 1), (12, 7), (16, 100), (20, 1)]
        (motion { resting with ln := { pin := 3, active := true } }) (fun s => ((s.ax 15).input 1).active) fun _ t => (t.ax 15).homing.phase == .latch,
      ran 0x0A04 axisStopChecks (.axisStop 0) [(8, 2 ^ 15), (10, 1)] (motion { resting with held := true }) (fun s => (s.ax 15).held) fun _ t =>
        t.axis.calLost,
      ran 0x0A04 axisStopChecks (.axisStop 0) [(8, 2 ^ 15), (10, 3)] (inMotion moving) (fun _ => true) fun s t => fin 0 s t 0 0 0 &&
        !(t.ax 15).enabled,
      ran 0x0A04 axisStopChecks (.axisStop 0) [(8, 65535), (10, 1)] (motion resting) (fun s => (s.ax 15).mode == .rest && s.axis.stops == [])
        fun s t => fin 0 s t 0 0 0 && t.axis.axes == s.axis.axes,
      ran 0x0A04 axisStopChecks (.axisStop 0) [(8, 2 ^ 15), (10, 2)] (inMotion moving) (fun s => (s.ax 15).cmd.moves && s.running 4 77)
        fun _ t => fin4 t 0x31 0x0A04 && (t.ax 15).mode == .stopping && t.axis.stops == [(0, 1, [15])] && (t.slot 0).phase == .executing] = true := by
  decide +kernel

/-- A drive's reply from slot 7 for servo period 0, with that position and STATUS and its CRC. -/
def replied (pos st : Nat) : List Byte := let b := le 1 0x52 ++ le 1 0 ++ le 1 7 ++ le 4 pos ++ le 1 st; b ++ le 2 (crc16 b)
/-- A reply without a fault. -/
def reply : List Byte := replied 0 0

/-- A bus axis on slot 7 of bus 1 that owes its reply. -/
def busAxis : Axis := { resting with cfg := { stepAxis with bus := true, index := 15 }, replied := false, missRun := 1 }

/-- The same with drive feedback and no following-error window. -/
def driveFed : Axis := { busAxis with cfg := { busAxis.cfg with feedback := 2, fbNum := 1, fbDen := 1, feWindow := 0 } }

/-- That axis once the reply window of its slot has closed. -/
def windowed (x : Axis) : State := { (motion x) with time := { now := 10 ^ 7 } }

/-- Switch `i` of a resting axis as given, sampled at `level`. -/
def sampling (i : Nat) (level : Bool) (x : Axis) (w : SwitchIn) (p : State → State → Bool) : Bool :=
  met (.switchChange 15 i level) (motion (x.setInput i { w with pin := 3 })) (fun _ => decide (i < 3)) p

theorem test_AxisEvents :
    all [met (.axisBusReply 1 (reply ++ [0]) 65000) (motion busAxis) (fun _ => (reply ++ [0]).length != 10) fun s t =>
        Tab.get 0 t.axis.crcErr 1 == 1 && t.axis.axes == s.axis.axes,
      met (.axisBusReply 1 (reply.set 3 1) 65000) (motion busAxis) (fun _ => numAt (reply.set 3 1) 8 2 != crc16 ((reply.set 3 1).take 8)) fun s t =>
        Tab.get 0 t.axis.crcErr 1 == 1 && t.axis.axes == s.axis.axes,
      met (.axisBusReply 1 reply 66000) (motion busAxis) (fun s => numAt reply 8 2 == crc16 (reply.take 8) && s.slotAxis 1 7 == some 15 &&
          byteAt reply 1 == s.axis.periodNo % 256) fun _ t => t.ax 15 == { busAxis with replied := true, missRun := 0 },
      still (.axisBusReply 0 reply 66000) (motion busAxis) fun s => s.slotAxis 0 7 == none && numAt reply 8 2 == crc16 (reply.take 8),
      still (.axisBusReply 1 reply 66001) (motion busAxis) fun _ => true, still (.axisBusReply 1 reply 63999) (motion busAxis) fun _ => true,
      still (.axisBusReply 1 reply 65000) (motion { busAxis with replied := true }) fun s => (s.ax 15).replied,
      still (.axisBusReply 1 reply 65000) { (motion busAxis) with axis := { (motion busAxis).axis with periodNo := 1 } } fun s => s.axis.periodNo == 1,
      met (.axisBusReply 1 (replied 5 0) 65000) (motion driveFed) (fun s => (s.ax 15).cfg.feedback == 2 && decide (1 ≤ (s.ax 15).cfg.feCount)) fun _ t =>
        (t.ax 15).replied && (t.ax 15).actual == 5 * 65536 && (t.ax 15).fe == -5 * 65536,
      met (.axisBusReply 1 (replied 0 2) 65000) (motion busAxis) (fun s => que s 10 1) fun _ t => (t.ax 15).fault == .driveFault &&
        !(t.ax 15).enabled && waits t 10 1 (le 1 15 ++ le 2 5 ++ le 8 0),
      met (.axisReplyWindowEnd 1 7) (windowed busAxis) (fun s => s.windowOver 1 7 && decide ((s.ax 15).missRun + 1 < 3)) fun _ t =>
        t.ax 15 == { busAxis with replied := true, busMiss := 1, missRun := 2 },
      met (.axisReplyWindowEnd 1 7) (windowed { driveFed with feHold := 4 }) (fun s => !s.inHalter) fun _ t => (t.ax 15).feHold == 3,
      met (.axisReplyWindowEnd 1 7) (windowed { busAxis with missRun := 2 }) (fun s => que s 10 1 && (s.ax 15).fault == .none) fun _ t =>
        (t.ax 15).fault == .driveSilent && !(t.ax 15).enabled && waits t 10 1 (le 1 15 ++ le 2 4 ++ le 8 0),
      still (.axisReplyWindowEnd 0 7) (windowed busAxis) fun s => s.slotAxis 0 7 == none,
      still (.axisReplyWindowEnd 1 7) (motion busAxis) fun s => !s.windowOver 1 7,
      still (.axisReplyWindowEnd 1 7) (windowed { busAxis with replied := true }) fun s => (s.ax 15).replied,
      still (.switchChange 15 3 true) (motion resting) fun _ => true, still (.switchChange 15 1 false) (motion resting) fun s => ((s.ax 15).input 1).pin == 0xFF,
      sampling 1 true resting { sampledAt := some 999999001 } fun s t => same s t,
      sampling 1 false resting { run := 4, sampledAt := some 999999000 } fun s t => t.ax 15 == resting.setInput 1 { pin := 3, sampledAt := some s.uptime },
      sampling 1 true { resting with filterUs := 3 } { run := 1, firstPos := 6 } fun s t => t.ax 15 == { resting with filterUs := 3 }.setInput 1
        { pin := 3, run := 2, firstPos := 6, sampledAt := some s.uptime },
      sampling 2 true { resting with filterUs := 1, cmd := { x := -65537 * (6 * 10 ^ 27) }, prev := -65537 } {} fun s t => que s 10 2 && (t.ax 15).hm.active &&
        (t.ax 15).mode == .rest && waits t 10 2 (le 1 15 ++ le 1 2 ++ le 1 1 ++ le 4 (unsigned 32 (wholeAu (s.axisPos 15)))),
      sampling 2 false { resting with filterUs := 3 } { active := true, run := 2, firstPos := -65537 } fun s t => que s 10 2 && !(t.ax 15).hm.active &&
        waits t 10 2 (le 1 15 ++ le 1 2 ++ le 1 0 ++ le 4 (unsigned 32 (-2))),
      met (.switchChange 15 0 true) (inMotion { moving with filterUs := 1, lp := { pin := 3 } }) (fun s => (s.ax 15).heading == 1 && (s.ax 15).cmd.moves &&
          s.running 4 77) fun _ t => fin4 t 0x30 6 && (t.ax 15).mode == .stopping,
      sampling 0 true { resting with filterUs := 1 } { changes := List.replicate 8 999000000 } fun s t => decide (s.uptime < 999000000 + 100 * 10 ^ 6) &&
        (t.ax 15).fault == .limitChatter && (t.ax 15).mode == .rest && (t.ax 15).enabled] = true := by
  decide +kernel

/-! ### Block TIME -/

/-- A part in ARMED for print with trigger unit 0 and capture unit 0 as given, at device time 5 ms. -/
def timed (u : Trigger) (c : Capture) : State :=
  { prn with time := { now := 5000000, trigs := [(0, u)], caps := [(0, c)] } }

/-- A HOST schedule of unit 0 with one firing left, due now, on pin 63. -/
def lastFiring : Trigger :=
  { holder := .host, running := true, pin := 63, width := 100, sched := { t0 := 5000000, count := 1 } }

/-- The fields of a port of 1 Gbit/s that is an ordinary clock. -/
def portFields (p : Nat) : List (Nat × Nat) :=
  [(8, p), (9, 1), (10, 1), (11, 1), (12, 1), (13, 1), (18, 253), (19, 0), (20, 253), (21, 3)]

/-- The fields of a clock configuration that sets device time to `t`. -/
def clockFields (t : Nat) : List (Nat × Nat) := [(8, 0xFF), (12, 1000), (16, 10), (18, 64), (19, 6), (24, t)]

/-- The fields of JOIN as member 1 on port 0. -/
def joinFields : List (Nat × Nat) := [(8, 1), (9, 1), (10, 0), (12, 6), (16, 77)]

/-- The state with port 0 as given. -/
def ported (x : Port) : State := prn.setPort 0 x

/-- A TIME_TRIGGER refused with ST_RESOURCE_BUSY and that opcode. -/
def trigBusy (fs : List (Nat × Nat)) (s : State) (op : Nat) : Bool :=
  ran 0x0B01 timeTriggerChecks (.timeTrigger 0) fs s (fun _ => true) fun s t => fin 0 s t 0x14 op 0 && t.time == s.time

theorem test_TimeCommands :
    all [ran 0x0B00 timePortChecks (.timePortConfig 0) (clockFields 0) prn (fun _ => true) fun s t => fin 0 s t 0 0 0 &&
        t.time == { s.time with stepNs := 1000, lockNs := 10, tauS := 64, clockClass := 6 },
      ran 0x0B00 timePortChecks (.timePortConfig 0) (clockFields 5) prn (fun s => s.stepAllowed && que s 11 2) fun s t => fin 0 s t 0 0 0 &&
        t.time.now == 5 && waits t 11 2 (le 8 5 ++ le 1 1),
      ran 0x0B00 timePortChecks (.timePortConfig 0) (clockFields 5) (motion resting) (fun s => !s.stepAllowed) fun s t => fin 0 s t 0 0 0 &&
        t.time.now == 0 && t.time.stepBlocked,
      ran 0x0B00 timePortChecks (.timePortConfig 0) (portFields 1) prn (fun s => !s.time.hitch.joined && s.tan.state == .off) fun s t =>
        fin 0 s t 0 0 0 && (t.port 1).cfg == portCfgOf (s.slot 0),
      ran 0x0B00 timePortChecks (.timePortConfig 0) (portFields 0) { prn with time := { hitch := { member with port := 0 } } }
        (fun s => (portCfgOf (s.slot 0)).speed != (s.port 0).cfg.speed) fun s t => fin 0 s t 0x14 0x0B03 0 && t.time == s.time,
      ran 0x0B01 timeTriggerChecks (.timeTrigger 0) [(8, 0), (9, 1), (16, 5001000), (24, 100), (28, 1), (32, 0)] (timed { pin := 9 } {})
        (fun _ => true) fun s t => fin 0 s t 0 0 0 && (t.trig 0).holder == .host && (t.trig 0).running && (t.trig 0).pin == 9 &&
          (t.trig 0).sched == { t0 := 5001000, ns := 100, frac := 1 },
      ran 0x0B01 timeTriggerChecks (.timeTrigger 0) [(8, 0), (9, 1), (16, 5001000), (32, 1)] (timed { holder := .scan } {})
        (fun s => (s.trig 0).holder != .none && (s.trig 0).holder != .host) fun s t => fin 0 s t 0x14 0x0701 0 && t.time == s.time,
      ran 0x0B01 timeTriggerChecks (.timeTrigger 0) [(8, 0), (9, 2)] (timed lastFiring {}) (fun s => (s.trig 0).holder == .host) fun s t =>
        fin 0 s t 0 0 0 && t.trig 0 == { lastFiring with holder := .none, running := false },
      ran 0x0B01 timeTriggerChecks (.timeTrigger 0) [(8, 15), (9, 3), (10, 63), (11, 3), (12, 10)] (timed {} {}) (fun s =>
          !(s.trig 15).running && !s.pinDriven 15 63 && !s.pinRead 63) fun s t => fin 0 s t 0 0 0 && (t.trig 15).pin == 63 &&
          (t.trig 15).activeLow && (t.trig 15).halterHold && (t.trig 15).width == 10,
      trigBusy [(8, 0), (9, 2)] (timed { holder := .scan } {}) 0x0701, trigBusy [(8, 0), (9, 3), (10, 63), (12, 10)] (timed lastFiring {}) 0x0B01,
      trigBusy [(8, 0), (9, 3), (10, 63), (12, 10)] ((timed {} {}).setTrig 4 { pin := 63 }) 0x0B01,
      trigBusy [(8, 0), (9, 3), (10, 63), (12, 10)] { (timed {} {}) with axis := { axes := [(3, { lp := { pin := 63 } })] } } 0x0A00,
      ran 0x0B00 timePortChecks (.timePortConfig 0) (portFields 1) { prn with tan := { state := .alone } }
        (fun s => (portCfgOf (s.slot 0)).speed != (s.port 1).cfg.speed && s.tan.state != .off) fun s t => fin 0 s t 0x14 0x0E00 0 && t.time == s.time,
      ran 0x0B03 timeHitchChecks (.timeHitch 0) [(8, 1), (9, 1), (10, 1), (12, 6), (16, 77)]
        { (prn.setPort 1 { cfg := { speed := 1 } }) with tan := { state := .alone } } (fun s => s.tan.state != .off) fun s t => fin 0 s t 0x14 0x0E00 0 &&
          t.time == s.time,
      ran 0x0B03 timeHitchChecks (.timeHitch 0) [(8, 2)] { prn with
          time := { hitch := member }, cmd := { slots := [(4, { phase := .executing, id := 77 })] }
          frames := { hitch := [{ slot := 4, id := 77, opcode := 0x0304 }] } }
        (fun s => s.running 4 77) fun s t => fin4 t 0x31 0x0B03 && t.frames.hitch == [] && fin 0 s t 0 0 0,
      ran 0x0B02 timeCaptureChecks (.timeCapture 0) [(8, 0), (9, 1), (10, 1), (11, 63), (12, 3), (13, 255), (14, 3)]
        (timed {} { fifo := [(1, 1)], overflow := 4 }) (fun _ => true) fun s t => fin 0 s t 0 0 0 && (t.cap 0).armed && (t.cap 0).index == 63 &&
          (t.cap 0).fifo == [] && (t.cap 0).overflow == 4 && (t.cap 0).level == none,
      ran 0x0B02 timeCaptureChecks (.timeCapture 0) [(8, 0), (9, 2)] (timed {} { armed := true }) (fun _ => true) fun s t =>
        fin 0 s t 0 0 0 && t.cap 0 == {},
      ran 0x0B03 timeHitchChecks (.timeHitch 0) joinFields (ported { cfg := { speed := 1 } }) (fun s => (s.slot 0).u 10 1 != 1) fun s t =>
        fin 0 s t 0 0 0 && t.time.hitch.joined && t.time.hitch.mask == 6 && t.time.hitch.waitUs == 500 && t.time.hitch.leadUs == 1000 &&
          t.time.hitch.present == [1],
      ran 0x0B03 timeHitchChecks (.timeHitch 0) [(8, 2)] { prn with time := { hitch := { member with seen := 9 } } } (fun _ => true)
        fun s t => fin 0 s t 0 0 0 && !t.time.hitch.joined && t.time.hitch.seen == 9] = true := by
  decide +kernel

/-- A running stream 7 whose unit 0 strobes band 3. -/
def strobing : State :=
  (camera .started).setStream 7 { set := true, trigger := 0, strobeCount := 1, strobeSeq := 3, strobeDelay := 10, strobeWidthUs := 2 }

/-- Unit 0 armed for MFIO pin 7, which has been at level 0. -/
def capturing (c : Capture) : Capture :=
  { c with armed := true, source := 1, index := 7, level := if c.level = none ∧ c.run = 9 then none else some (c.level.getD false) }

theorem test_TimeCommands_events :
    all [met (.triggerFire 0 []) (timed lastFiring {}) (fun s => s.fireDue 0 && decide ((s.trig 0).sched.count ≤ (s.trig 0).sched.k + 1) &&
          !(s.trig 0).halterHold) fun _ t => (t.trig 0).count == 1 && (t.trig 0).holder == .none && !(t.trig 0).running &&
          (t.trig 0).active && (t.trig 0).offAt == 5000100 && t.out.contains (.pin 63 true),
      met (.triggerFire 0 []) (timed { lastFiring with sched := { t0 := 5000000, ns := 100 }, count := 2 ^ 32 - 1 } {})
        (fun s => s.fireDue 0 && (s.trig 0).sched.count == 0) fun _ t => (t.trig 0).holder == .host && (t.trig 0).count == 0,
      met (.triggerFire 0 []) { (timed { lastFiring with holder := .motion } {}) with axis := { (motion resting).axis with trigger := some 0 } }
        (fun s => s.fireDue 0 && s.axis.running) fun s t => t.axis.periodNo == 1 && t.axis.lastTrig == s.time.now,
      still (.triggerFire 0 []) (timed { lastFiring with sched := { t0 := 5000001 } } {}) fun s => !s.fireDue 0,
      met (.triggerPulseEnd 0) (timed { pin := 63, active := true, offAt := 5000000 } {}) (fun s => decide ((s.trig 0).offAt ≤ s.time.now))
        fun _ t => t.trig 0 == { pin := 63, offAt := 5000000 } && t.out == [.pin 63 false],
      still (.triggerPulseEnd 0) (timed { pin := 63, active := true, offAt := 5000001 } {}) fun _ => true,
      still (.triggerPulseEnd 0) (timed {} {}) fun s => !(s.trig 0).active,
      met (.triggerFire 0 []) { (timed { lastFiring with holder := .camera } {}) with cam := { strobing.cam with strobes := [] } }
        (fun s => s.fireDue 0 && s.streamRuns 7 && !(s.stream 7).unwritten && !s.outHalted) fun _ t =>
          ((t.stream 7).entries.map fun e => (e.band, e.time)) == [(3, 5000000)] && t.out.contains (.strobe 3 5000010 true) &&
          (Tab.get (α := Strobe) {} t.cam.strobes 3).pulses == [(5000010, 5002010)],
      met (.triggerFire 0 []) { (timed { holder := .calibration } {}) with
          cam := { streams := [(0, { set := true, trigger := 0, strobeCount := 1 })] }
          cal := { insts := [(0, { state := .acquiring, targets := some colours, shot := some (0, 0) })] } }
        (fun s => s.fireDue 0 && s.shotOn 0 == some 0) fun s t => (t.calInst 0).shot == (s.calInst 0).shot.bind (nextShot 0 (s.calT 0)),
      still (.captureEdge 0 7 true 9) (timed {} (capturing {})) fun _ => true,
      still (.captureEdge 1 8 true 9) (timed {} (capturing {})) fun s => s.capsOn 1 8 == [],
      met (.captureEdge 1 7 true 1) (timed {} (capturing { level := none, run := 9 })) (fun s => (s.cap 0).level == none) fun _ t =>
        (t.cap 0).level == some true && (t.cap 0).run == 0 && (t.cap 0).fifo == [],
      met (.captureEdge 1 7 false 1) (timed {} (capturing { run := 8 })) (fun s => (s.cap 0).level == some false) fun _ t => (t.cap 0).run == 0,
      met (.captureEdge 1 7 true 2) (timed {} (capturing { run := 2, filterNs := 4 })) (fun s => decide ((s.cap 0).run + 2 ≤ (s.cap 0).filterNs)) fun _ t =>
        (t.cap 0).run == 4 && (t.cap 0).level == some false,
      met (.captureEdge 1 7 true 3) (timed {} (capturing { edge := 1, oneShot := true, run := 2, filterNs := 4, fifo := List.replicate 15 (1, 1) }))
        (fun s => decide ((s.cap 0).fifo.length < 16)) fun s t => (t.cap 0).fifo == (s.cap 0).fifo ++ [(4999996, 0)] && !(t.cap 0).armed,
      met (.captureEdge 2 7 true 1) { (timed {} { (capturing { edge := 3 }) with source := 2 }) with
          web := { chans := [(2, { filterNs := 0, p := -1 })] } } (fun s => s.capsOn 2 7 == [0]) fun _ t => (t.cap 0).fifo == [(5000000, 2 ^ 32 - 1)],
      met (.captureEdge 1 7 false 1) (timed {} (capturing { level := some true, edge := 2, fifo := List.replicate 16 (1, 1), overflow := 65535 }))
        (fun s => decide (16 ≤ (s.cap 0).fifo.length)) fun s t => (t.cap 0).fifo == (s.cap 0).fifo && (t.cap 0).overflow == 65535 &&
          (t.cap 0).level == some false,
      met (.captureEdge 1 7 true 1) (timed {} (capturing { edge := 2 })) (fun s => (s.cap 0).edge == 2) fun _ t => (t.cap 0).fifo == [] &&
        (t.cap 0).level == some true] = true := by
  decide +kernel

/-- Port 0 up with that role and state. -/
def ptpPort (role : Nat) (x : PortState) : Port :=
  { cfg := { speed := 1, role := role, delay := 2 }, linkUp := true, ptp := some x, gmFrom := (7, 1) }

/-- A message of the clock that port 0 follows. -/
def ptp (b : PtpBody) : PtpMsg := { header := { clock := 7 }, body := b }

/-- The output holds a message with this property on port `p`. -/
def sent (t : State) (p : Nat) (f : PtpMsg → Bool) : Bool :=
  t.out.any fun o => match o with
    | .ptp q m _ => q == p && f m
    | _ => false

/-- A two-step message. -/
def two (b : PtpBody) : PtpMsg := { header := { clock := 7, twoStep := true }, body := b }

/-- Port 0 of a transparent clock with that delay mechanism, which follows another clock. -/
def transparent (d : Nat) : Port := { ptpPort 3 .listening with cfg := { speed := 1, role := 3, delay := d }, gmFrom := (0, 0) }

theorem test_PtpPorts :
    all [(let s := ported (ptpPort 1 .slave); let m := ptp (.sync 5);
        (s.port 0).linkUp && m.header.domain == (s.port 0).cfg.domain && !m.header.twoStep && s.follows 0 m.header),
      met (.ptpMessageRx 0 (ptp .delayReq) 0) (ported (ptpPort 1 .master)) (fun s => (s.port 0).ptp == some .master) fun _ t =>
        t.out.length == 1 && sent t 0 fun m => m.header.seq == 0 && match m.body with | .delayResp _ c n => c == 7 && n == 1 | _ => false,
      met (.ptpMessageRx 0 (ptp .pdelayReq) 0) (ported (ptpPort 1 .slave)) (fun s => (s.port 0).cfg.delay == 2) fun _ t =>
        sent t 0 fun m => match m.body with | .pdelayResp _ c n => c == 7 && n == 1 | _ => false,
      met (.ptpMessageRx 0 (ptp (.announce {})) 0) (ported (ptpPort 3 .slave)) (fun s => (s.port 0).cfg.role == 3) fun _ t =>
        sent t 1 fun m => m == ptp (.announce {}),
      met (.ptpMessageRx 0 (ptp .signaling) 0) (ported { ptpPort 0 .disabled with drop := 65535 }) (fun s => (s.port 0).cfg.role == 0) fun s t =>
        (t.port 0).drop == 65535 && t.out == s.out,
      met (.ptpMessageRx 0 { ptp (.sync 5) with header := { clock := 7, domain := 1 } } 0) (ported (ptpPort 1 .slave)) (fun _ => true) fun _ t => (t.port 0).drop == 1,
      met (.ptpMessageRx 0 (ptp .management) 0) (ported (ptpPort 1 .slave)) (fun _ => true) fun _ t => (t.port 0).drop == 1,
      met (.ptpMessageRx 0 (ptp (.sync 5)) 0) (ported (ptpPort 1 .slave)) (fun s => s.follows 0 { clock := 7 }) fun _ _ => true,
      met (.ptpMessageRx 0 (two (.sync 5)) 0) (ported (ptpPort 1 .slave)) (fun s => s.follows 0 { clock := 7 }) fun _ t => (t.port 0).pend.isSome,
      met (.ptpMessageRx 0 (ptp (.followUp 5)) 0) (ported { ptpPort 1 .slave with pend := some (0, 9, 9) }) (fun s => s.follows 0 { clock := 7 }) fun s t =>
        (t.port 0).syncAt == s.uptime && (t.port 0).pend == none,
      met (.ptpMessageRx 0 (ptp (.delayResp 5 (prn.clockId 0) 1)) 0) (ported { ptpPort 1 .slave with delayTx := some (0, 9), lastSync := some (7, 8) })
        (fun s => s.clockId 0 == prn.clockId 0 && s.follows 0 { clock := 7 }) fun _ t => (t.port 0).delayTx == none && (t.port 0).pathPs == 2496 && t.time.pathDelay == 2,
      met (.ptpMessageRx 0 (ptp (.pdelayResp 5 (prn.clockId 0) 1)) 0) (ported { ptpPort 1 .slave with pdTx := some (0, 9) }) (fun _ => true) fun _ t =>
        (t.port 0).pdTx == none,
      met (.ptpMessageRx 0 (two (.pdelayResp 5 (prn.clockId 0) 1)) 0) (ported { ptpPort 1 .slave with pdTx := some (0, 9) }) (fun _ => true) fun _ t =>
        (t.port 0).pdT.isSome,
      met (.ptpMessageRx 0 (ptp (.pdelayRespFollowUp 5 (prn.clockId 0) 1)) 0) (ported { ptpPort 1 .slave with pdTx := some (0, 9), pdT := some (50009, 4000) })
        (fun _ => true) fun _ t => (t.port 0).pathPs == 24500 && t.time.pathDelay == 24,
      still (.ptpMessageRx 0 (ptp .delayReq) 0) (ported (ptpPort 1 .slave)) fun s => (s.port 0).ptp != some .master,
      met (.ptpMessageRx 0 (ptp (.announce { identity := 9 })) 0) (ported { ptpPort 1 .slave with gm := some { identity := 10 }, gmFrom := (8, 1) })
        (fun s => s.clockId 0 != 9 && gmBetter { identity := 9 } { identity := 10 }) fun s t => (t.port 0).gm == some { identity := 9 } &&
          (t.port 0).gmFrom == (7, 1) && (t.port 0).annAt == s.uptime,
      still (.ptpMessageRx 0 (ptp (.announce { identity := 11 })) 0) (ported { ptpPort 1 .slave with gm := some { identity := 10 }, gmFrom := (8, 1) })
        fun _ => !gmBetter { identity := 11 } { identity := 10 },
      still (.ptpMessageRx 0 (ptp (.announce { identity := prn.clockId 0 })) 0) (ported (ptpPort 1 .slave)) fun s => s.clockId 0 == prn.clockId 0,
      still (.ptpMessageRx 0 { ptp (.sync 5) with header := { clock := 6 } } 0) (ported (ptpPort 1 .slave)) fun s => !s.follows 0 { clock := 6 },
      still (.ptpMessageRx 0 (ptp (.followUp 5)) 0) (ported (ptpPort 1 .slave)) fun s => (s.port 0).pend == none,
      still (.ptpMessageRx 0 (ptp .signaling) 0) (ported (ptpPort 1 .slave)) fun _ => true,
      still (.ptpMessageRx 0 (ptp .pdelayReq) 0) (ported { ptpPort 1 .slave with cfg := { speed := 1, role := 1, delay := 1 } }) fun s => (s.port 0).cfg.delay != 2,
      [PtpBody.delayResp 5 0 1, .pdelayResp 5 0 1, .pdelayRespFollowUp 5 0 1].all fun b =>
        still (.ptpMessageRx 0 (ptp b) 0) (ported (ptpPort 1 .slave)) fun s => s.clockId 0 != 0,
      met (.ptpMessageRx 0 (two (.sync 5)) 0) (ported (transparent 2)) (fun s => !s.follows 0 { clock := 7 }) fun _ t => t.out.length == 1 &&
        (sent t 1 fun m => m == two (.sync 5)) && (t.port 0).residence.length == 1,
      met (.ptpMessageRx 0 (ptp (.sync 5)) 0) (ported (transparent 2)) (fun s => !s.follows 0 { clock := 7 }) fun _ t => t.out.length == 1 &&
        sent t 1 fun m => m.body == .sync 5,
      met (.ptpMessageRx 0 (ptp (.followUp 5)) 0) (ported { transparent 2 with residence := [(0, 1000)] }) (fun _ => true) fun _ t => t.out.length == 1 &&
        sent t 1 fun m => m.header.corr == 65536,
      [PtpBody.delayReq, .pdelayReq, .pdelayResp 5 8 1, .delayResp 5 8 1].all fun b =>
        met (.ptpMessageRx 0 (ptp b) 0) (ported (transparent 1)) (fun s => (s.port 0).cfg.delay == 1) fun _ t => t.out.length == 1 &&
          sent t 1 fun m => m.body == b,
      still .syncTimeout (ported (ptpPort 1 .slave)) fun s => s.time.servo != .locked,
      still .syncTimeout { (ported { ptpPort 1 .slave with syncAt := 10 ^ 9 }) with
        time := { (ported { ptpPort 1 .slave with syncAt := 10 ^ 9 }).time with servo := .locked } } fun s => s.time.servo == .locked,
      still (.announceReceiptTimeout 2) prn fun _ => true, still (.announceReceiptTimeout 0) (ported { ptpPort 1 .slave with annAt := 10 ^ 9 }) fun s =>
        decide (s.uptime < (s.port 0).annAt + (s.port 0).cfg.announceTimeout * logNs (s.port 0).cfg.logAnnounce),
      still (.ptpTransmitInterval 0) (ported { ptpPort 1 .master with sentSync := 10 ^ 9, sentAnn := 10 ^ 9, sentDelay := 10 ^ 9 }) fun s =>
        decide (s.uptime < (s.port 0).sentSync + logNs (s.port 0).cfg.logSync),
      still (.ptpTransmitInterval 2) prn fun _ => true, still (.ptpTransmitInterval 0) (ported (ptpPort 0 .disabled)) fun s => (s.port 0).cfg.role == 0,
      met (.ptpTransmitInterval 0) (ported { ptpPort 1 .master with seqAnn := 65535 }) (fun s => s.bestGm == none) fun s t => (t.port 0).sentAnn == s.uptime &&
        sent t 0 fun m => m.header.seq == 65535 && m.body == .announce (s.ownGm 0),
      met (.ptpTransmitInterval 0) (ported (ptpPort 1 .slave)) (fun s => (s.port 0).cfg.delay == 2) fun s t => (t.port 0).sentDelay == s.uptime &&
        sent t 0 fun m => m.body == .pdelayReq,
      met (.ptpTransmitInterval 0) (ported (transparent 1)) (fun s => (s.port 0).cfg.role == 3) fun _ t => sent t 0 fun m => m.body == .delayReq,
      still (.pcsLinkChange 2 true) prn fun _ => true, still (.pcsLinkChange 0 true) (ported (ptpPort 1 .slave)) fun s => (s.port 0).linkUp,
      still (.pcsLinkChange 0 true) State.reset fun s => s.beforeReady,
      still (.arpRequestRx 0 9 1 2) prn fun s => !(s.port 0).linkUp,
      still (.ptpMessageRx 2 (ptp .signaling) 0) prn fun _ => true,
      still (.ptpMessageRx 0 (ptp .signaling) 0) (ported { ptpPort 1 .slave with linkUp := false }) fun s => !(s.port 0).linkUp,
      met .syncTimeout { (ported (ptpPort 1 .slave)) with time := { (ported (ptpPort 1 .slave)).time with servo := .locked, rates := [5, -2] } }
        (fun s => decide ((s.port 0).syncAt + 3 * logNs (s.port 0).syncLog ≤ s.uptime)) fun s t => t.time.servo == .holdover &&
          t.time.rateAdj == 1 && t.time.ports == s.time.ports,
      met (.announceReceiptTimeout 0) { (ported { ptpPort 1 .slave with gm := some {} }) with uptime := 3000000000 } (fun s => (s.port 0).runs &&
          (s.port 1).gm == none) fun s t => (t.port 0).gm == none && (t.port 0).annAt == s.uptime && (t.port 0).ptp == some .master,
      met (.announceReceiptTimeout 0) { (ported { ptpPort 1 .slave with cfg := { speed := 1, role := 1, pflags := 4 } }) with uptime := 3000000000 }
        (fun s => (s.port 0).runs) fun _ t => (t.port 0).ptp == some .listening,
      met (.ptpTransmitInterval 0) (ported { ptpPort 1 .master with seqSync := 65535 }) (fun s =>
          decide ((s.port 0).sentSync + logNs (s.port 0).cfg.logSync ≤ s.uptime)) fun s t => (t.port 0).seqSync == 0 &&
          (t.port 0).sentSync == s.uptime && sent t 0 fun m => m.body == .sync 0 && m.header.seq == 65535,
      still (.ptpTransmitInterval 0) (ported { ptpPort 1 .master with linkUp := false }) fun s => !(s.port 0).linkUp,
      met (.pcsLinkChange 0 true) (ported { ptpPort 1 .initializing with linkUp := false }) (fun s => !s.beforeReady) fun _ t =>
        (t.port 0).linkUp && (t.port 0).ptp == some .listening,
      met (.pcsLinkChange 0 false) (ported (ptpPort 0 .disabled)) (fun s => !s.beforeReady && (s.port 0).linkUp) fun _ t =>
        !(t.port 0).linkUp && (t.port 0).ptp == some .disabled,
      met (.arpRequestRx 0 9 1 2) (ported { ptpPort 1 .slave with cfg := { speed := 1, transport := 2, ipv4 := 9 } }) (fun s =>
          (s.port 0).cfg.ipv4 == 9) fun _ t => t.out.length == 1,
      met (.arpRequestRx 0 8 1 2) (ported { ptpPort 1 .slave with cfg := { speed := 1, transport := 2, ipv4 := 9 }, drop := 65535 })
        (fun _ => true) fun _ t => t.out == [] && (t.port 0).drop == 65535] = true := by
  decide +kernel

/-! ### The hitch -/

/-- `prn` as that member. -/
def joined (h : Hitch) : State := { prn with time := { hitch := h, now := 5500000 } }

/-- Member 2 where member 1 is present, so not the leader. -/
def follower : Hitch := { member with member := 2, present := [2, 1] }

/-- An open job that waits as that member for the decision of frame 100, for the command in slot 4. -/
def awaiting (h : Hitch) : State :=
  { jobbed with
    time := { hitch := h }
    cmd := { slots := [(4, { phase := .executing, id := 77 })] }
    frames := { jobbed.frames with hitch := [{ slot := 4, id := 77, opcode := 0x0307, frame := 100 }] } }

/-- A HELLO of member 2 with device identity 8 and latest decision 9. -/
def hello : List Byte := envelope 1 2 (le 8 8 ++ le 12 0 ++ le 4 9 ++ le 4 0)

/-- A PROPOSE of member 2 for frame 100, earliest 101, previous 99. -/
def proposed : List Byte := envelope 0x10 2 (le 4 100 ++ le 4 101 ++ le 4 99)

/-- The state that supervises the web against member 2, with that base and own sample at 5 ms. -/
def crossed (b : Option (Int × Int)) (own : Int) : State :=
  { (joined { member with webCheck := true, webSource := 2, base := b, ownSamples := [(5000000, own)] }) with web := { doubtSpan := 640 } }

/-- A WEB_SAMPLE of member 2 at 5 ms and position 50. -/
def sampled : List Byte := envelope 0x30 2 (le 8 5000000 ++ le 8 50 ++ le 1 0)

/-- The frame addresses port 0's hitch. -/
def heard (bs : List Byte) (ty : Nat) (s : State) : Bool :=
  s.time.hitch.joined && !s.hitchMuted && (s.hitchMsg bs).any fun m => m.ty == ty

/-- A DECIDE of frame 100 as that frame, number 8. -/
def decision (a : Nat) : List Byte := envelope 0x11 1 (le 4 100 ++ le 4 a ++ le 4 8)

/-- An ABORT of frame 100 with missing members 4. -/
def abortion : List Byte := envelope 0x12 1 (le 4 100 ++ le 2 4)

/-- An assigned pair of proposals of frame 100 is decided already. -/
def settled (h : Hitch) : State := awaiting { h with decided := [(100, 105, 1)] }

/-- A scan that waits for the decision of the stop at frame 100. -/
def stopAwaiting : State :=
  { scanningOn with
    time := { hitch := follower }
    cmd := { slots := [(4, { phase := .executing, id := 77 })] }
    frames := { scanningOn.frames with hitch := [{ slot := 4, id := 77, opcode := 0x0702, frame := 100, stop := true }] } }

theorem test_HitchProtocol_members :
    all [met .hitchHelloTimer (joined { member with sentSeq := 65535, helloAt := 1000000000 }) (fun s => !s.hitchMuted &&
          decide (s.time.hitch.helloAt ≤ s.uptime)) fun s t => t.out.length == 1 && t.time.hitch == { s.time.hitch with
          sentSeq := 0, helloAt := s.uptime + 1000000 },
      met .hitchHelloTimer { (joined member) with tan := { state := .shadow } } (fun s => s.hitchMuted) fun s t => t.out == s.out &&
        t.time.hitch == { s.time.hitch with helloAt := s.uptime + 1000000 },
      still .hitchHelloTimer (joined { member with helloAt := 1000000001 }) fun s => decide (s.uptime < s.time.hitch.helloAt),
      still .hitchHelloTimer (joined { member with joined := false }) fun s => !s.time.hitch.joined,
      met (.hitchHelloRx hello) (joined member) (fun s => heard hello 1 s && que s 0x0B 0x0010) fun _ t =>
        t.time.hitch.present == [2] && Tab.get 0 t.time.hitch.devIds 2 == 9 && Tab.get 0 t.time.hitch.lastHello 2 == 1000000001 &&
          t.time.hitch.seen == 9 && waits t 0x0B 0x0010 [2, 1],
      met (.hitchHelloRx hello) (joined { member with present := [2], devIds := [(2, 9)], seen := 30 }) (heard hello 1) fun s t =>
        t.time.hitch.present == [2] && t.time.hitch.seen == 30 && t.cmd == s.cmd,
      met (.hitchHelloRx hello) (joined { member with present := [2], devIds := [(2, 8)] }) (fun s => heard hello 1 s && que s 0x0B 0x0010)
        fun s t => t.time.hitch == { s.time.hitch with conflict := true } && waits t 0x0B 0x0010 [2, 2],
      still (.hitchHelloRx hello) (joined { member with member := 2 }) (heard hello 1),
      still (.hitchHelloRx hello) { (joined { member with member := 2, devIds := [(2, 8)] }) with tan := { state := .deposed } } fun s =>
        s.hitchMuted && (s.hitchMsg hello).any fun m => m.ty == 1,
      met (.hitchPresenceTimeout 2) (joined { member with present := [1, 2], lastHello := [(2, 997000001)] }) (fun s => decide
          (Tab.get 0 s.time.hitch.lastHello 2 + 3000000 ≤ s.uptime + 1) && que s 0x0B 0x0010) fun _ t => t.time.hitch.present == [1] &&
          waits t 0x0B 0x0010 [2, 0],
      still (.hitchPresenceTimeout 2) (joined { member with present := [1, 2], lastHello := [(2, 997000002)] }) fun s => decide
          (s.uptime + 1 < Tab.get 0 s.time.hitch.lastHello 2 + 3000000),
      still (.hitchPresenceTimeout 1) (joined { member with present := [1, 2] }) fun s => s.time.hitch.member == 1,
      still (.hitchPresenceTimeout 3) (joined { member with present := [1, 2] }) fun s => !s.time.hitch.present.contains 3] = true := by
  decide +kernel

theorem test_HitchProtocol_messages :
    all ([(Instr.hitchHelloRx, 0x01), (Instr.proposeRx, 0x10), (Instr.decideRx, 0x11), (Instr.abortRx, 0x12),
        (Instr.webSampleRx, 0x30)].flatMap fun r =>
      [still (r.1 hello) (joined { member with joined := false }) fun s => !s.time.hitch.joined,
        met (r.1 (hello.set 4 0)) (joined member) (fun s => (s.hitchMsg (hello.set 4 0)).isNone) fun s t => same (ethDrop 0 s) t,
        still (r.1 (if r.2 == 1 then proposed else hello)) (joined member) fun s =>
          (s.hitchMsg (if r.2 == 1 then proposed else hello)).any fun m => m.ty != r.2]) = true := by
  decide +kernel

theorem test_HitchProtocol_proposals :
    all [met (.proposeRx proposed) (joined { follower with mask := 14 }) (fun s => heard proposed 0x10 s && !s.hitchLeader) fun s t =>
        t.time.hitch.proposals == [{ member := 2, frame := 100, earliest := 101, prev := 99 }] && t.frames == s.frames,
      met (.proposeRx proposed) (joined member) (fun s => heard proposed 0x10 s && s.hitchLeader) fun s t =>
        t.time.hitch.proposals == [{ member := 2, frame := 100, earliest := 101, prev := 99 }] && t.frames == s.frames,
      met (.proposeRx proposed) (awaiting { member with proposals := [{ member := 1, frame := 100, earliest := 50, prev := 105 }] })
        (fun s => heard proposed 0x10 s && s.hitchLeader) fun _ t => t.time.hitch.decided == [(100, 105, 1)] && t.time.hitch.proposals == [],
      met (.proposeRx proposed) (settled member) (fun s => heard proposed 0x10 s && s.hitchLeader) fun s t => t.out.length == 1 &&
        t.time.hitch.decided == s.time.hitch.decided,
      still (.proposeRx proposed) (settled follower) (fun s => heard proposed 0x10 s && !s.hitchLeader),
      met .proposeRepeat (awaiting { follower with mask := 14 }) (fun s => !s.hitchLeader && !s.hitchMuted) fun s t => t.out.length == 1 &&
        t.frames.hitch == s.frames.hitch.map fun c => { c with lastSent := s.uptime },
      met .proposeRepeat (awaiting member) (fun s => s.hitchLeader) fun s t => t.out.length == 1 &&
        t.frames.hitch == s.frames.hitch.map fun c => { c with lastSent := s.uptime },
      still .proposeRepeat { (awaiting follower) with uptime := 99999 } fun s => decide (s.frames.hitch.length = 1),
      still .proposeRepeat (joined member) fun s => s.frames.hitch.isEmpty] = true := by
  decide +kernel

theorem test_HitchProtocol_decisions :
    all [met (.decideRx (decision 100)) (awaiting follower) (fun s => s.running 4 77 && s.placesFull.isNone &&
          s.frames.applied false 100 == 100) fun s t => ((t.cplRing 0).waiting.any fun c => c.status == 0 && c.result == 1) && t.frames.genLast == 1 &&
          t.time.hitch.applied == 8 && t.frames.commits.length == 1 && t.time.hitch.diverge == s.time.hitch.diverge,
      met (.decideRx (decision 5)) (awaiting { follower with diverge := 2 ^ 32 - 1 }) (fun s =>
          s.running 4 77 && s.frames.applied false 5 != 100 && s.frames.applied false 5 != 5) fun _ t =>
          ((t.cplRing 0).waiting.any fun c => c.status == 2) && t.time.hitch.diverge == 2 ^ 32 - 1,
      met (.decideRx (decision 100)) stopAwaiting (fun s => s.running 4 77 && s.scanning && heard (decision 100) 0x11 s &&
          s.frames.applied false 100 == 100) fun s t => fin4 t 0 0 && t.scan.phase == .stopping && t.scan.stop == some 100 &&
          t.time.hitch.applied == 8 && t.frames.commits == s.frames.commits,
      met (.decideRx (decision 100)) { (awaiting follower) with prn := {} } (fun s => s.running 4 77 && !s.scanning) fun s t =>
          fin4 t 0x12 s.top.dev.code && t.frames.commits == s.frames.commits && t.frames.hitch == [],
      met (.decideRx (decision 100)) { (awaiting follower) with frames := { (awaiting follower).frames with
            commits := List.replicate 16 { applied := 9, opcode := 0x0304 } } } (fun s => s.running 4 77 && s.placesFull == some 0x0304) fun s t =>
          fin4 t 0x14 0x0304 && t.frames.commits == s.frames.commits && t.frames.hitch == [],
      met (.decideRx (decision 100)) (joined follower) (heard (decision 100) 0x11) fun s t => t.frames == s.frames &&
          t.time.hitch.seen == 8 && t.time.hitch.diverge == 0,
      met (.decideRx (decision 101)) (joined { follower with timedOut := [100] }) (fun s => heard (decision 101) 0x11 s && que s 0x0B 0x0012)
        fun s t => t.frames == s.frames && t.time.hitch.seen == 8 && t.time.hitch.diverge == 1 &&
          waits t 0x0B 0x0012 (le 4 8 ++ le 4 101 ++ le 4 0),
      met (.abortRx abortion) (awaiting follower) (fun s => s.running 4 77) fun _ t => t.frames.hitch == [] && fin4 t 0x20 4,
      met (.abortRx (envelope 0x12 1 (le 4 101 ++ le 2 4))) (awaiting follower) (fun s => s.running 4 77) fun s t =>
        t.frames.hitch == s.frames.hitch,
      met (.hitchWaitExpiry 100) (awaiting { member with firstAt := [(100, 1)] }) (fun s => s.hitchLeader && s.running 4 77) fun _ t =>
        t.frames.hitch == [] && t.time.hitch.proposals == [] && fin4 t 0x20 6 && Tab.get 0 t.time.hitch.firstAt 100 == 0 && t.out.length == 1,
      still (.hitchWaitExpiry 100) (awaiting { member with firstAt := [(100, 999500002)] }) fun s => s.hitchLeader,
      still (.hitchWaitExpiry 100) (awaiting { follower with firstAt := [(100, 1)] }) fun s => !s.hitchLeader,
      still (.hitchWaitExpiry 100) (awaiting member) fun s => s.hitchLeader,
      met .hitchCommitTimeout (awaiting member) (fun s => s.running 4 77) fun _ t => t.frames.hitch == [] && fin4 t 0x20 0,
      met .hitchCommitTimeout { (awaiting member) with uptime := 2499999 } (fun s => s.running 4 77) fun s t =>
        t.frames.hitch == s.frames.hitch] = true := by
  decide +kernel

theorem test_HitchProtocol :
    all [met .webSampleTimer (joined { member with webCheck := true }) (fun s => !s.hitchMuted && s.time.hitch.sampleAt != 5000000) fun s t =>
        t.time.hitch.sampleAt == 5000000 && t.time.hitch.ownSamples == [(5000000, s.web.hwm)] && t.out.length == 1,
      still .webSampleTimer (joined member) fun s => !s.time.hitch.webCheck,
      still .webSampleTimer (joined { member with webCheck := true, sampleAt := 5000000 }) fun s => s.time.hitch.webCheck,
      still .webSampleTimer { (joined { member with webCheck := true }) with top := lf.top } fun s => s.time.hitch.webCheck,
      still .webSampleTimer (joined { member with webCheck := true, joined := false }) fun s => s.time.hitch.webCheck,
      still (.webSampleRx sampled) (joined { member with webSource := 2 }) (heard sampled 0x30),
      still (.webSampleRx sampled) (joined { member with webCheck := true, webSource := 1 }) (heard sampled 0x30),
      met (.webSampleRx sampled) (joined { member with webCheck := true, webSource := 2 }) (heard sampled 0x30) fun s t =>
        t.time.hitch.srcSamples == [(5000000, 50)] && t.time.hitch.base == none && t.web == s.web,
      met (.webSampleRx sampled) (crossed none 7) (heard sampled 0x30) fun s t => t.time.hitch.base == some (50, 7) && t.web == s.web,
      met (.webSampleRx sampled) (crossed (some (44, 5)) 7) (heard sampled 0x30) fun s t => t.time.hitch.base == some (44, 5) && t.web == s.web,
      met (.webSampleRx sampled) (crossed (some (43, 5)) 7) (fun s => heard sampled 0x30 s && que s 0x0B 0x0013) fun s t =>
        t.web.doubtRemain == s.web.doubtSpan && waits t 0x0B 0x0013 (le 1 2 ++ le 8 5)] = true := by
  decide +kernel

/-! ### Block MEM -/

/-- A channel at work at 4,800 MT/s. -/
def online : MemChan := { state := .online, inMap := true, rate := 48, eye := 200 }

/-- `prn` with channel 1 as given, of two ranks, at most 4,800 MT/s. -/
def mapped1 (x : MemChan) : State :=
  { prn with mem := { budget := 384, chans := [(1, x)] }, lcs := { idle.lcs with inForce := { rateMax := 48, ddrOrg := 8 } } }

/-- The same where a MEM_RETRAIN in slot 0 waits for channel 1. -/
def retraining (x : MemChan) : State :=
  let s := mapped1 x
  { (s.setSlot 0 { phase := .executing, id := 1 }) with mem := { s.mem with retrains := [{ slot := 0, id := 1, mask := 2 }] } }

theorem test_MemCommands :
    all [ran 0x0C00 memQosChecks (.memQos 0) [(8, 384), (10, 384)] (mapped1 online) (fun s => s.mapRaw == 384) fun s t => fin 0 s t 0 0 0 &&
          t.mem == { s.mem with budget := 384, pullRate := 384 },
      ran 0x0C01 memErrorPolicyChecks (.memErrorPolicy 0) [(8, 2), (10, 16384), (12, 50), (14, 0)] prn (fun _ => true) fun s t =>
        fin 0 s t 0 0 0 && t.mem == { s.mem with freezeParity := true, rowThresh := 16384, minEye := 50, scrubHours := 0 },
      ran 0x0C02 memRetrainChecks (.memRetrain 0) [(9, 1)] (mapped1 online) (fun _ => true) fun s t => fin 0 s t 0 0 0 && t.mem == s.mem,
      ran 0x0C02 memRetrainChecks (.memRetrain 0) [(8, 3), (9, 1)] (mapped1 online) (fun s => (s.calInst 6).state == .idle && s.ddrReady 1 &&
          !s.ddrReady 0 && s.mem.retrains == [])
        fun s t => (t.slot 0).phase == .executing && t.ddr 1 == { s.ddr 1 with run := true, gathering := true, stepAt := s.uptime } &&
          (t.calInst 6).state == .acquiring && (t.calInst 6).waiters == [(0, 1)] && t.ddr 0 == s.ddr 0,
      ran 0x0C02 memRetrainChecks (.memRetrain 0) [(8, 3), (9, 1)] (mapped1 { online with state := .training })
        (fun s => (s.calInst 6).state == .idle && !s.ddrReady 1 && !s.ddrReady 0) fun s t => fin 0 s t 3 2 3 && t.mem == s.mem,
      ran 0x0C02 memRetrainChecks (.memRetrain 0) [(8, 2), (9, 1)] ((mapped1 online).updCal 6 fun i => { i with state := .computing, waiters := [(9, 2)] })
        (fun _ => true) fun s t => (t.slot 0).phase == .executing && t.ddr 1 == s.ddr 1 &&
          t.calInst 6 == { s.calInst 6 with waiters := [(9, 2), (0, 1)] },
      ran 0x0C02 memRetrainChecks (.memRetrain 0) [(8, 2), (9, 1)] ((mapped1 online).updCal 6 fun i => { i with pend := some 2 })
        (fun _ => true) fun s t => (t.slot 0).phase == .executing && t.ddr 1 == s.ddr 1 &&
          t.calInst 6 == { s.calInst 6 with pendWaiters := [(0, 1)] },
      ran 0x0C02 memRetrainChecks (.memRetrain 0) [(8, 2), (9, 2), (10, 4400)] (mapped1 online) (fun s => (s.ddr 1).change == none) fun s t =>
        (t.slot 0).phase == .executing && t.ddr 0 == s.ddr 0 && t.ddr 1 == { s.ddr 1 with
          change := some { rate := 44, old := 48, since := s.uptime, slot := 0, id := 1 } },
      ran 0x0C02 memRetrainChecks (.memRetrain 0) [(8, 3), (9, 2), (10, 3200)] (mapped1 { online with change := some {} })
        (fun _ => true) fun s t => fin 0 s t 0x14 0x0C02 0 && t.mem == s.mem,
      ran 0x0C03 memQueryChecks (.memQuery 0) [(8, 1), (10, 255)] (mapped1 online) (fun _ => true) fun s t => fin 0 s t 0 0 16383,
      ran 0x0C03 memQueryChecks (.memQuery 0) [(8, 1), (10, 0)] (mapped1 online) (fun _ => true) fun s t => fin 0 s t 0 0 0,
      ran 0x0C03 memQueryChecks (.memQuery 0) [(8, 2), (10, 1)] (mapped1 online) (fun _ => true) fun s t => fin 0 s t 0 0 4800,
      ran 0x0C03 memQueryChecks (.memQuery 0) [(8, 3), (10, 1)] (mapped1 online) (fun _ => true) fun s t => fin 0 s t 0 0 200,
      ran 0x0C03 memQueryChecks (.memQuery 0) [(8, 4), (10, 0)] (mapped1 online) (fun _ => true) fun s t => fin 0 s t 0 0 2,
      ran 0x0C03 memQueryChecks (.memQuery 0) [(8, 5), (10, 0)] { (mapped1 online) with mem := { (mapped1 online).mem with held := [(1, 100000001)] } }
        (fun _ => true) fun s t => fin 0 s t 0 0 2] = true := by
  decide +kernel

/-- Requests at channel 1: of a render engine, and of the host at port 51 for requester 7. -/
def render : MemReq := { port := 40, addr := 4096, deadline := 5 }
/-- A request of SYS_PULL. -/
def pull : MemReq := { port := 51, addr := 4352, key := 7 }

/-- A state meets `h`, and MEM_GRANT at channel 1 gives `p`. -/
def granted (l : List MemReq) (x : MemChan) (h : State → Bool) (p : State → State → Bool) : Bool := met (.memGrant 1 l) (mapped1 x) h p

theorem test_MemoryAtWork :
    all [still (.memGrant 1 [render]) (mapped1 { online with owed := 4 }) fun s => decide (4 ≤ (s.ddr 1).owed),
      granted [pull, { render with deadline := 6 }, render] online
        (fun s => s.validReq 1 pull && s.paceOk pull && s.validReq 1 render && s.reqBefore 50 render pull &&
          s.reqBefore 50 render { render with deadline := 6 }) fun s t => Tab.get 0 t.mem.grant 40 == 1 && Tab.get 0 t.mem.delay 40 == s.uptime &&
            (t.ddr 1).flight.length == 2 && (t.ddr 1).corrected == 0 && (t.ddr 1).window == 0 && t.poison == s.poison,
      granted [{ render with port := 55 }] online (fun s => !s.validReq 1 { render with port := 55 }) fun s t => t.ddr 1 == s.ddr 1,
      met (.memGrant 1 [pull]) { (mapped1 online) with mem := { (mapped1 online).mem with
          held := [(7, 1)], paces := [(7, (65536 * 10 ^ 9, 1000000000))] } } (fun s => s.validReq 1 pull && !s.paceOk pull) fun s t =>
        same (s.setDdr 1 { s.ddr 1 with flight := [pull] }) t,
      granted [render] { online with owed := 3 } (fun s => s.validReq 1 render && s.reqRank render != 0) fun s t =>
        same (s.setDdr 1 { s.ddr 1 with flight := [render], owed := 0 }) t,
      granted [{ render with bad := [[3]] }] { online with corrected := 65535 } (fun s => s.validReq 1 render) fun s t =>
        (t.ddr 1).corrected == 65535 && (t.ddr 1).rewrites == [64] && t.poison == s.poison,
      granted [{ render with bad := [[3, 4]] }] online (fun s => s.validReq 1 render && que s 12 2) fun _ t => (t.ddr 1).uncorrected == 1 &&
        (t.ddr 1).ueAddr == 4096 && Tab.get false t.poison 64 && waits t 12 2 (le 1 1 ++ le 1 40 ++ le 8 4096 ++ le 1 1),
      met (.patrolScrubRead 1 []) (mapped1 { online with scrubPos := 16383 * 2 ^ 14 - 1 }) (fun s => (s.ddr 1).scrubTurn &&
        s.chanBursts 1 == 16383 * 2 ^ 14) fun s t => (t.ddr 1).scrubPos == 0 && (t.ddr 1).passes == 1 && (t.ddr 1).passStart == s.uptime &&
          (t.ddr 1).corrected == 0 && t.poison == s.poison,
      met (.patrolScrubRead 1 [3]) (mapped1 { online with corrected := 65535 }) (fun s => s.burstAt 1 0 == 0 && que s 12 1) fun _ t =>
        (t.ddr 1).corrected == 65535 && (t.ddr 1).rewrites == [0] && (t.ddr 1).scrubPos == 1 && (t.ddr 1).passes == 0,
      met (.patrolScrubRead 1 [3, 4]) (mapped1 { online with scrubPos := 6 }) (fun s => que s 12 2 && s.burstAt 1 6 == 6) fun _ t =>
        (t.ddr 1).uncorrected == 1 && (t.ddr 1).ueAddr == 384 && Tab.get false t.poison 6 && waits t 12 2 (le 1 1 ++ le 1 53 ++ le 8 384 ++ le 1 2),
      met (.patrolScrubRead 1 [3]) { (mapped1 online) with poison := [(0, true)] } (fun s => Tab.get false s.poison 0) fun _ t =>
        (t.ddr 1).uncorrected == 1 && Tab.get false t.poison 0,
      still (.patrolScrubRead 1 [3]) (mapped1 { online with owed := 1 }) fun s => !(s.ddr 1).scrubTurn,
      still (.patrolScrubRead 1 [3]) (mapped1 { online with inMap := false }) fun _ => true,
      met (.correctedRewrite 1) (mapped1 { online with rewrites := [5, 6] }) (fun s => (s.ddr 1).scrubTurn) fun s t => (t.ddr 1).rewrites == [6] &&
        t.mem.scrubPart == 1 && t.mem.grant == s.mem.grant,
      met (.correctedRewrite 1) { (mapped1 { online with rewrites := [5] }) with mem := { (mapped1 { online with rewrites := [5] }).mem with scrubPart := 3 } }
        (fun s => (s.ddr 1).scrubTurn) fun _ t => t.mem.scrubPart == 0 && Tab.get 0 t.mem.grant 53 == 1,
      still (.correctedRewrite 1) (mapped1 { online with rewrites := [5], flight := [render] }) fun s => !(s.ddr 1).scrubTurn,
      still (.correctedRewrite 1) (mapped1 online) fun s => (s.ddr 1).rewrites == []] = true := by
  decide +kernel

theorem test_MemoryUpkeep :
    all [met (.scrubLate 1) { (mapped1 online) with uptime := 86400000000000 } (fun s => s.scrubOverdue 1 && que s 12 6) fun _ t =>
        (t.ddr 1).lateRaised && waits t 12 6 [1, 0, 0],
      still (.scrubLate 1) { (mapped1 online) with uptime := 86399999999999 } fun s => !s.scrubOverdue 1,
      met (.neighbourRefresh 1) (mapped1 { online with neighbours := [(0, 1, 2)], refreshes := 2 ^ 32 - 1 }) (fun _ => true) fun _ t =>
        (t.ddr 1).neighbours == [] && (t.ddr 1).refreshes == 2 ^ 32 - 1,
      still (.neighbourRefresh 1) (mapped1 { online with neighbours := [(0, 1, 2)], state := .frozen }) fun _ => true,
      met (.refreshDue 1 true) (mapped1 { online with owed := 3 }) (fun _ => true) fun _ t => (t.ddr 1).owed == 4,
      met (.refreshDue 1 true) (mapped1 { online with owed := 4 }) (fun _ => true) fun _ t => (t.ddr 1).owed == 0,
      met (.refreshDue 1 false) (mapped1 { online with owed := 2 }) (fun _ => true) fun _ t => (t.ddr 1).owed == 0,
      still (.refreshDue 1 true) (mapped1 { online with state := .changing }) fun _ => true,
      (let s := mapped1 online
       (s.ddr 1).state == .online && decide ((s.ddr 1).mr4At + 8000000 ≤ s.uptime) && s.ranks == 2 && que s 12 7),
      still (.mr4Read 1 [2, 3]) (mapped1 { online with mr4At := 992000001 }) fun _ => true,
      still (.mr4Read 1 [2]) (mapped1 online) fun s => s.ranks == 2,
      met (.refreshWindowEnd 1) (mapped1 { online with tables := [(0, {})], refAt := 968000000 }) (fun _ => true) fun s t =>
        (t.ddr 1).tables == [] && (t.ddr 1).refAt == s.uptime,
      still (.refreshWindowEnd 1) (mapped1 { online with refAt := 968000001 }) fun _ => true,
      met (.feedWindowEnd 1) (mapped1 { online with window := 153856, windowAt := 5 }) (fun s => que s 12 5 && feedShare 48 153856 10 == 400)
        fun s t => (t.ddr 1).window == 0 && (t.ddr 1).windowAt == s.uptime - 9995 && (t.ddr 1).windows == [153856] && (t.ddr 1).peak == 400 &&
          (t.ddr 1).beyond == 1 && waits t 12 5 (le 1 1 ++ le 2 400),
      met (.feedWindowEnd 1) (mapped1 { online with window := 153600 }) (fun _ => true) fun _ t => (t.ddr 1).beyond == 0,
      still (.feedWindowEnd 1) (mapped1 { online with windowAt := 999990001 }) fun _ => true,
      met (.parityAlert 1 1 true 1) (mapped1 { online with retry := [(1, [(7, 0), (64, 2), (8, 0)])], alerts := 65535 })
        (fun s => !s.mem.freezeParity && que s 12 3) fun _ t => !t.mem.frozen && t.top.dev == .armed && (t.ddr 1).alerts == 65535 &&
          Tab.get [] (t.ddr 1).retry 1 == [(64, 3), (8, 0)] && waits t 12 3 (le 1 1 ++ le 1 1 ++ le 1 0 ++ le 1 3 ++ le 1 2),
      met (.parityAlert 1 1 true 0) (mapped1 { online with retry := [(1, [(64, 3), (8, 0)])] }) (fun s => !s.mem.freezeParity) fun _ t =>
        t.mem.frozen && t.mem.freezeChan == 1 && t.mem.freezeSub == 1 && t.mem.freezeCause == 2 && t.mem.freezeAddr == 64 &&
          t.mem.freezeDepth == 2 && t.top.dev == .fault && (t.ddr 1).state == .frozen && (t.ddr 0).state == .absent,
      met (.parityAlert 1 0 false 0) { (mapped1 { online with retry := [(0, [(64, 0)])] }) with
          mem := { (mapped1 { online with retry := [(0, [(64, 0)])] }).mem with freezeParity := true } } (fun _ => true) fun _ t =>
        t.mem.frozen && t.mem.freezeCause == 1 && t.mem.freezeDepth == 1,
      still (.parityAlert 1 1 true 1) (mapped1 { online with retry := [(1, [(64, 3)])] }) fun _ => true,
      still (.parityAlert 1 1 true 0) (mapped1 { online with state := .frozen, retry := [(1, [(64, 3)])] }) fun _ => true] = true := by
  decide +kernel

/-- A channel whose run gathers data. -/
def training : MemChan := { online with run := true, gathering := true, steps := 3 }

/-- `mapped1` with its run at work in CAL; its limit is 100. -/
def trained (x : MemChan) : State :=
  (mapped1 x).updCal 6 fun i => { i with state := .acquiring, run := { qualLimit := 100 }, policy := some { qualLimit := 100 } }

/-- The same with a feeder in panic. -/
def panicking (x : MemChan) : State := { (trained x) with fire := { feeders := [(31, { fifo := [{ need := [(0, 5)] }] })] } }

/-- A change of rate under way for the MEM_RETRAIN of slot 0. -/
def changing : MemChan :=
  { online with state := .changing, stored := [(48, 180)], change := some { rate := 44, old := 48, begun := true, slot := 0, id := 1 } }

/-- A fallback under way. -/
def falling : MemChan := { training with state := .changing, change := some { rate := 44, old := 48, begun := true, fallback := true } }

theorem test_MemoryTraining :
    all [met (.trainingStepDone 1 false 5 5) (trained training) (fun s => (s.ddr 1).change == none) fun s t =>
          t.ddr 1 == { s.ddr 1 with steps := 4, gathering := true, stepAt := s.uptime },
      met (.trainingStepDone 1 false 5 5) (trained { training with change := some { rate := 32 } }) (fun _ => true) fun _ t => !(t.ddr 1).gathering,
      still (.trainingStepDone 1 true 5 5) (trained { training with gathering := false }) fun _ => true,
      met (.trainingStepDone 1 true 100 5) (trained training) (fun s => (s.calInst (ddrSlot 1)).run.qualLimit == 100) fun _ t =>
        !(t.ddr 1).run && (t.ddr 1).eye == 100 && Tab.get 0 (t.ddr 1).stored 48 == 100 && (t.calInst 6).state == .idle &&
          (t.calInst 6).lastStatus == 0 && (t.calInst 6).lastDetail == 0 && (t.calInst 6).quality == 100,
      met (.trainingStepDone 1 true 99 150) (trained training) (fun s => s.mem.minEye == 150) fun _ t => !(t.ddr 1).run &&
        (t.ddr 1).eye == 200 && (t.calInst 6).state == .idle && (t.calInst 6).lastStatus == 0x21 && (t.calInst 6).lastDetail == 4 &&
          (t.calInst 6).quality == 99,
      met (.trainingStepDone 1 true 99 149) (trained { training with rate := 36 }) (fun _ => true) fun s t => (t.ddr 1).run &&
        (t.ddr 1).change == some { rate := 32, old := 36, fallback := true, since := s.uptime },
      met (.trainingStepDone 1 true 99 149) (trained { training with change := some { rate := 40 } }) (fun _ => true) fun s t => (t.ddr 1).run &&
        !(t.ddr 1).gathering && (t.ddr 1).change == (s.ddr 1).change && (t.calInst 6).state == .acquiring,
      met (.trainingStepDone 1 true 99 149) (trained { training with rate := 32 }) (fun s => decide ((s.ddr 1).rate ≤ 32)) fun _ t =>
        (t.ddr 1).state == .offline,
      met (.trainingStepAbandon 1) (trained training) (fun _ => true) fun s t =>
        t.ddr 1 == { s.ddr 1 with gathering := false, abandonAt := some s.uptime },
      still (.trainingStepAbandon 1) (trained { training with gathering := false }) fun _ => true,
      met (.rateChangeStart 1) (trained { online with change := some { rate := 44 } }) (fun s => que s 12 4) fun s t =>
        t.ddr 1 == { s.ddr 1 with state := .changing, change := some { rate := 44, begun := true, since := s.uptime } } &&
          waits t 12 4 (le 1 1 ++ le 1 2 ++ le 1 3 ++ le 1 44 ++ le 4 0 ++ le 1 1),
      met (.rateChangeStart 1) (trained { online with run := true, change := some { rate := 44, fallback := true, since := 999999999 } })
        (fun s => !s.anyPanic && que s 12 4) fun _ t => waits t 12 4 (le 1 1 ++ le 1 2 ++ le 1 3 ++ le 1 44 ++ le 4 0 ++ le 1 2),
      still (.rateChangeStart 1) (trained { training with change := some { rate := 44 } }) fun s => (s.ddr 1).gathering,
      still (.rateChangeStart 1) (panicking { online with run := true, change := some { rate := 44, fallback := true, since := 999000001 } })
        fun s => s.anyPanic,
      met (.rateChangeStart 1) (panicking { online with run := true, change := some { rate := 44, fallback := true, since := 999000000 } })
        (fun s => s.anyPanic) fun _ t => (t.ddr 1).state == .changing,
      still (.rateChangeStart 1) (trained online) fun s => (s.ddr 1).change == none,
      met (.rateChangeDone 1 100) ((retraining changing).updCal 6 fun i => { i with policy := some { qualLimit := 100 } })
        (fun s => (s.calPolicy (ddrSlot 1)).qualLimit == 100 && s.running 0 1)
        fun s t => (t.ddr 1).state == .online && (t.ddr 1).rate == 44 && (t.ddr 1).eye == 100 && (t.ddr 1).change == none && fin 0 s t 0 0 0,
      met (.rateChangeDone 1 99) ((retraining changing).updCal 6 fun i => { i with policy := some { qualLimit := 100 } }) (fun s => s.running 0 1)
        fun s t => (t.ddr 1).state == .online && (t.ddr 1).rate == 48 && (t.ddr 1).eye == 180 && (t.ddr 1).change == none && fin 0 s t 3 1 2,
      still (.rateChangeDone 1 99) (trained { online with change := some { rate := 44 } }) fun _ => true,
      met (.rateChangeDone 1 100) (trained falling) (fun _ => true) fun _ t => (t.ddr 1).rate == 44 && (t.ddr 1).eye == 100 && !(t.ddr 1).run &&
        (t.ddr 1).change == none && (t.calInst 6).lastStatus == 0 && (t.calInst 6).lastDetail == 0x0100,
      met (.rateChangeDone 1 99) (trained falling) (fun _ => true) fun _ t => (t.ddr 1).state == .offline,
      met (.rateChangeDone 1 99) (mapped1 falling) (fun s => (s.calInst 6).state == .idle) fun _ t => (t.ddr 1).state == .online &&
        (t.ddr 1).rate == 48 && (t.ddr 1).change == none] = true := by
  decide +kernel

/-! ### Block THM -/

/-- `prn` with zone `z` as given, and sensor 0x0100. -/
def zoned (z : Nat) (x : Zone) (c : Sensor) : State := { prn with thm := { zones := [(z, x)], sensors := [(0x100, c)] } }

/-- A zone of the head supply of bar 15 under sensor 0x0100. -/
def headZone : Zone :=
  { defined := true, kind := 3, target := 32768, sensors := [0x100], thr := [some 640, some 720, some 800], rateLimit := 80 }

/-- The fields of a DEFINE of zone 15, kind 3, bar 15, sensors 0x0100 and 0x0500. -/
def zoneFields : List (Nat × Nat) := [(8, 15), (9, 1), (10, 3), (11, 2), (12, 32768), (16, 0x100), (18, 0x500)]

/-- Zone 15 in one state of level and stop with a DEFINE of it in slot 0. -/
def defining (fs : List (Nat × Nat)) (x : Zone) (c : Sensor) (h : State → Bool) (p : State → State → Bool) : Bool :=
  ran 0x0D01 thmZoneMapChecks (.thmZoneMap 0) fs (zoned 15 x c) h p

theorem test_ThermalCommands :
    all [ran 0x0D00 thmThresholdsChecks (.thmThresholds 0) [(8, 255), (10, 4), (12, 10000)] prn (fun s => s.thm.roundMs == 4) fun s t =>
          fin 0 s t 0 0 0 && t.thm == { s.thm with graceMs := 10000 } && t.time == s.time,
      ran 0x0D00 thmThresholdsChecks (.thmThresholds 0) [(8, 255), (10, 100)] prn (fun s => s.thm.roundMs != 100) fun s t => fin 0 s t 0 0 0 &&
        (t.trig 15).holder == .housekeeping && (t.trig 15).running && (t.trig 15).sched.ns == 100000000 &&
        (t.trig 15).sched.t0 == s.time.now + 100000000,
      ran 0x0D00 thmThresholdsChecks (.thmThresholds 0) [(8, 15), (10, 0x7FFF), (12, 700), (14, 701), (16, 9), (18, 320), (20, 64), (21, 20)]
        (zoned 15 { headZone with level := 2, above := [true, true, false] } {}) (fun _ => true) fun s t => fin 0 s t 0 0 0 &&
          (t.zone 15).thr == [none, some 700, some 701] && (t.zone 15).above == [false, true, false] &&
          (t.zone 15).rateLimit == 9 && (t.zone 15).hyst == 320 && (t.zone 15).dwell == 64 && (t.zone 15).margin == 20 && (t.zone 15).level == 2 &&
          t.zone 0 == s.zone 0,
      defining [(8, 15), (9, 2)] { headZone with level := 1 } {} (fun _ => true) fun s t => fin 0 s t 0x14 0x0D01 0 && t.thm == s.thm,
      defining [(8, 15), (9, 2)] { headZone with stopped := true } {} (fun _ => true) fun s t => fin 0 s t 0x14 0x0D01 0 && t.thm == s.thm,
      defining [(8, 15), (9, 2)] headZone {} (fun s => (s.zone 15).level == 0) fun s t =>
        fin 0 s t 0 0 0 && !(t.zone 15).defined && (t.zone 15).thr == headZone.thr && t.zone 1 == s.zone 1,
      defining zoneFields { thr := headZone.thr, above := [true, false, false] } { excluded := true } (fun s => (zoneCodes (s.slot 0)).contains 0x100 &&
          !(s.sensor 0x100).failed) fun s t => fin 0 s t 0 0 0 && (t.zone 15).defined && (t.zone 15).kind == 3 && (t.zone 15).target == 32768 &&
          (t.zone 15).sensors == [0x100, 0x500] && !(t.zone 15).stopped && (t.zone 15).level == 0 && (t.zone 15).above == [false, false, false] &&
          (t.zone 15).thr == headZone.thr && !(t.sensor 0x100).excluded && t.zone 0 == s.zone 0,
      defining [(8, 15), (9, 1), (10, 3), (11, 2), (12, 32768), (16, 0x100), (18, 0x101)] {} { failed := true } (fun s => !(s.sensor 0x101).failed)
        fun _ t => (t.zone 15).holding == [0x100] && !(t.zone 15).stopped,
      defining [(8, 15), (9, 1), (10, 3), (11, 1), (12, 32768), (16, 0x100)] {} { failed := true } (fun s => (zoneCodes (s.slot 0)) == [0x100])
        fun s t => fin 0 s t 0 0 0 && (t.zone 15).defined && (t.zone 15).stopped,
      ran 0x0D02 thmAckChecks (.thmAck 0) [(8, 1), (9, 15), (10, 0x100)] (zoned 15 { headZone with holding := [0x100] } { failed := true, cause := 2 })
        (fun s => (s.sensor 0x100).failed && que s 13 3) fun s t => fin 0 s t 0 0 1 && (t.sensor 0x100).excluded && (t.zone 15).holding == [] &&
          waits t 13 3 (le 2 0x100 ++ le 1 2 ++ le 1 2),
      ran 0x0D02 thmAckChecks (.thmAck 0) [(8, 1), (9, 15), (10, 0x100)] (zoned 15 { headZone with holding := [0x100, 0x500] } {})
        (fun s => !(s.sensor 0x100).failed) fun s t => fin 0 s t 0 0 0 && (t.zone 15).holding == [0x500] && !(t.sensor 0x100).excluded,
      ran 0x0D02 thmAckChecks (.thmAck 0) [(8, 2), (9, 15)] ((zoned 15 { headZone with stopped := true, plans := [{}] } {}).setFireBar 15 { halted := true })
        (fun s => (s.zone 15).stopped) fun s t => fin 0 s t 0 0 0 && !(t.zone 15).stopped && (t.zone 15).plans == [] && !(t.fireBar 15).halted,
      ran 0x0D02 thmAckChecks (.thmAck 0) [(8, 2), (9, 15)] (zoned 15 headZone {}) (fun s => !(s.zone 15).stopped) fun s t => fin 0 s t 0 0 0 &&
        t.thm == s.thm && t.fire == s.fire && t.scan == s.scan] = true := by
  decide +kernel

/-- The data of a LEVEL_CHANGE of zone 15 at 720/16 °C. -/
def crossing (thr up : Nat) (t : State) : Bool := waits t 13 1 (le 1 15 ++ le 1 thr ++ le 1 up ++ le 2 720 ++ le 2 0)

theorem test_ThermalSupervision :
    all [met (.levelChange 15 2) (zoned 15 { headZone with up := [0, 2, 0], temp := 720 } {}) (fun s => que s 13 1) fun _ t =>
          (t.zone 15).above == [false, true, false] && (t.zone 15).level == 0 && crossing 2 1 t,
      met (.levelChange 15 1) (zoned 15 { headZone with above := [true, false, false], dn := [4, 0, 0], temp := 720 } {}) (fun s => que s 13 1) fun _ t =>
        (t.zone 15).above == [false, false, false] && crossing 1 0 t,
      met (.levelChange 15 3) (zoned 15 { headZone with up := [0, 0, 2], temp := 800 } {}) (fun _ => true) fun _ t => (t.zone 15).stopped,
      met (.levelChange 15 3) (zoned 15 { headZone with above := [false, false, true], dn := [0, 0, 4] } {}) (fun _ => true) fun _ t =>
        (t.zone 15).above == [false, false, false],
      still (.levelChange 15 4) (zoned 15 headZone {}) fun _ => true,
      still (.levelChange 15 2) (zoned 15 { headZone with up := [0, 1, 0] } {}) fun _ => true,
      still (.levelChange 15 1) (zoned 15 { headZone with above := [true, false, false], dn := [3, 0, 0] } {}) fun _ => true,
      met (.rateOver 15) (zoned 15 { headZone with rateUp := 2, rateDn := 9, temp := 720 } {}) (fun s => que s 13 1) fun s t =>
        t.zone 15 == { s.zone 15 with rateOver := true, rateDn := 0 } && crossing 4 1 t,
      met (.rateOver 15) (zoned 15 { headZone with rateOver := true, rateDn := 4, temp := 720 } {}) (fun s => que s 13 1) fun s t =>
        t.zone 15 == { s.zone 15 with rateOver := false, rateUp := 0 } && crossing 4 0 t,
      still (.rateOver 15) (zoned 15 { headZone with rateUp := 1 } {}) fun _ => true,
      still (.rateOver 15) (zoned 15 { headZone with rateLimit := 0, rateUp := 2 } {}) fun _ => true,
      still (.rateOver 15) (zoned 15 { headZone with rateOver := true, rateDn := 3 } {}) fun _ => true,
      met (.throttleLevelStep 15) (zoned 15 { headZone with above := [true, true, false], level := 7 } {}) (fun s => (s.zone 15).hot &&
          !s.zonePending (s.zone 15)) fun s t => t.zone 15 == { s.zone 15 with level := 8, levelAt := s.thm.round, calm := 0 } &&
          t.thm.renderStep == t.stepOf fun y => decide (y.kind ≤ 2),
      met (.throttleLevelStep 0) (zoned 0 { headZone with kind := 0, sensors := [], rateOver := true } {}) (fun s => (s.zone 0).hot) fun _ t =>
        (t.zone 0).level == 1 && t.thm.renderStep == 1,
      met (.throttleLevelStep 15) (zoned 15 { headZone with calm := 4, level := 1 } {}) (fun s => !(s.zone 15).hot && !s.zoneHeld 15) fun s t =>
        t.zone 15 == { s.zone 15 with level := 0, levelAt := s.thm.round, calm := 0 },
      still (.throttleLevelStep 15) (zoned 15 { headZone with rateOver := true, level := 8 } {}) fun s => (s.zone 15).hot,
      still (.throttleLevelStep 15) { (zoned 15 { headZone with rateOver := true, level := 2 } {}) with
        thm := { (zoned 15 { headZone with rateOver := true, level := 2 } {}).thm with heads := [(15, { pending := some (3, 0) })] } }
        fun s => s.zonePending (s.zone 15),
      still (.throttleLevelStep 15) (zoned 15 { headZone with calm := 4, level := 1, holding := [0x100] } {}) fun s => s.zoneHeld 15,
      still (.throttleLevelStep 15) (zoned 15 { headZone with calm := 3, level := 1 } {}) fun _ => true,
      still (.throttleLevelStep 15) (zoned 15 { headZone with rateOver := true, levelAt := 1 } {}) fun s => s.thm.round == 0,
      still (.throttleLevelStep 0) (zoned 15 headZone {}) fun s => !(s.zone 0).hot && (s.zone 0).defined,
      met (.throttleGraceExpiry 15) { prn with thm := { heads := [(15, { pending := some (3, 500000000) })] } } (fun s => s.thm.graceMs == 500)
        fun _ t => t.headStep 15 == 3 && (Tab.get {} t.thm.heads 15 : HeadStep).pending == none,
      still (.throttleGraceExpiry 15) { prn with thm := { heads := [(15, { pending := some (3, 500000001) })] } } fun s => s.thm.graceMs == 500,
      still (.throttleGraceExpiry 15) prn fun _ => true,
      met (.sensorState 0x100) (zoned 15 headZone { bad := 2 }) (fun s => que s 13 3) fun s t =>
        t.sensor 0x100 == { s.sensor 0x100 with failed := true, cause := 2 } && waits t 13 3 (le 2 0x100 ++ le 1 1 ++ le 1 2) &&
          (t.zone 15).holding == [0x100] && (t.zone 0).holding == [0x100],
      met (.sensorState 0x100) (zoned 15 headZone { failed := true, good := 16 }) (fun s => que s 13 3) fun s t =>
        t.sensor 0x100 == { s.sensor 0x100 with failed := false } && t.thm.zones == s.thm.zones && waits t 13 3 (le 2 0x100 ++ le 1 0 ++ le 1 0),
      still (.sensorState 0x100) (zoned 15 headZone {}) fun s => (s.sensor 0x100).bad == 0,
      still (.sensorState 0x100) (zoned 15 headZone { failed := true, good := 15 }) fun _ => true,
      met (.orderlyStopTargetHalt 15) (zoned 15 { headZone with stopped := true, plans := [{ target := 15, line := 3 }, { target := 14 }] } {})
        (fun s => s.stopDue { target := 15, line := 3 }) fun _ t => (t.fireBar 15).halted && (t.zone 15).plans == [{ target := 14 }],
      met (.orderlyStopTargetHalt 17) { lf with thm := { zones := [(15, { headZone with kind := 4, target := 3, stopped := true, plans := [{ target := 17 }] })] } }
        (fun s => s.stopDue { target := 17 }) fun _ t => t.scan.haltedB && !t.scan.haltedA && (t.zone 15).plans == [],
      still (.orderlyStopTargetHalt 15) (zoned 15 { headZone with stopped := true, plans := [{ target := 14 }] } {}) fun _ => true] = true := by
  decide +kernel

/-! ### Block TAN -/

/-- A tandem of two: link 31 with one node, in that state, in this tandem state. -/
def tandem (x : LinkState) (t : Tandem) : State := { (linked x) with tan := { t with linkMask := 2 ^ 31, id := 77 } }

/-- The same with a job open on bar 0. -/
def tandemJob (x : LinkState) (t : Tandem) : State :=
  let s := tandem x t
  { s with prn := jobbed.prn, frames := jobbed.frames, web := jobbed.web }

/-- The standby at the B end of link 31 in ARMED, its partner's claim 0x1001. -/
def standby (t : Tandem) : State :=
  let s := tandem .observing { t with state := .shadow, endB := true }
  s.setLink 31 { s.link 31 with endB := true }

/-- A tandem message of type `ty` from `sender`. -/
def beat (ty sender : Nat) (body : List Byte) : List Byte := envelope ty sender body

/-- The body of a heartbeat in tandem state `st` and device state ARMED, with flags `fl`. -/
def beatBody (st fl : Nat) : List Byte := le 1 st ++ le 1 DevState.armed.code ++ le 1 fl ++ le 37 0

/-- The fields of TAN_CONFIG of the holder on link 31. -/
def tanFields : List (Nat × Nat) := [(8, 1), (9, 1), (12, 2 ^ 31), (16, 9), (20, 200), (22, 1990), (24, 65535)]

/-- `linked .claimed` with port 1 on. -/
def portOn : State := (linked .claimed).setPort 1 { cfg := { speed := 1 } }

theorem test_TandemCommands :
    all [ran 0x0E00 tanConfigChecks (.tanConfig 0) tanFields portOn (fun s => (s.port 1).cfg.speed != 0 && !s.time.hitch.joined) fun s t =>
          fin 0 s t 0 0 0 && t.tan.state == .pairing && t.tan.linkMask == 2 ^ 31 && !t.tan.endB && t.tan.autoTakeover && t.tan.id == 9 &&
            t.tan.hbTimeoutUs == 200 && t.tan.passTimeoutUs == 1990 && t.tan.posTol == 65535 && !t.tan.mirrorOk && t.tan.drill == none,
      ran 0x0E00 tanConfigChecks (.tanConfig 0) tanFields (linked .claimed) (fun s => (s.port 1).cfg.speed == 0) fun s t =>
        fin 0 s t 0x14 0x0B03 0 && t.tan == s.tan,
      ran 0x0E00 tanConfigChecks (.tanConfig 0) tanFields { portOn with time := { portOn.time with hitch := { joined := true, port := 1 } } }
        (fun _ => true) fun s t => fin 0 s t 0x14 0x0B03 0 && t.tan == s.tan,
      ran 0x0E01 tanDrillChecks (.tanDrill 0) [(8, 1), (12, 2 ^ 31)] (tandemJob .claimed { state := .active }) (fun s => s.tanClaim == 0x1001)
        fun s t => fin 0 s t 1 0 0 && t.out.length == 1 && t.tan.drill == some { frame := 2 ^ 31, claim := 0x1002 } && t.tan.state == .active,
      ran 0x0E01 tanDrillChecks (.tanDrill 0) [(8, 1), (12, 7)] (tandemJob .claimed { state := .active, drill := some {} }) (fun _ => true)
        fun s t => fin 0 s t 0x14 0x0E01 0 && t.tan == s.tan,
      ran 0x0E01 tanDrillChecks (.tanDrill 0) [(8, 2)] (standby { partnerClaim := 0x1FFF, mirrorOk := true, takeovers := 65535 })
        (fun s => nextClaim s.tan.partnerClaim == some 0x2001 && que s 14 2 && (s.link 31).state == .observing) fun s t =>
          fin 0 s t 0 0 0 && t.tan.state == .takingOver && t.tan.lastClaim == 0x2001 && t.tan.drill == none &&
          t.tan.takeovers == 65535 && !t.tan.resume && (t.link 31).state == .claimed && (t.link 31).claim == 0x2001,
      ran 0x0E01 tanDrillChecks (.tanDrill 0) [(8, 2)] (standby { partnerClaim := 0xFFFF }) (fun s => nextClaim s.tan.partnerClaim == none && que s 14 2)
        fun s t => fin 0 s t 0 0 0 && t.tan == s.tan && t.rein == s.rein,
      ran 0x0E02 tanReleaseChecks (.tanRelease 0) [(8, 1)] (tandem .claimed { state := .active, drill := some {} }) (fun _ => true) fun s t =>
        fin 0 s t 0 0 0 && t.tan.state == .off && t.tan.drill == none && t.out.length == 3 && t.rein == s.rein,
      ran 0x0E02 tanReleaseChecks (.tanRelease 0) [(8, 2)] (tandem .claimed { state := .active }) (fun s => s.tanLink 31) fun s t =>
        fin 0 s t 0 0 0 && t.tan == { s.tan with released := true } && (t.link 31).state == .observing] = true := by
  decide +kernel

/-- A heartbeat with these flags, of tandem state `st`, from `sender`, comes where the tandem is in state `x` at end `b`. -/
def beats (sender st fl : Nat) (l : LinkState) (x : Tandem) (h : State → Bool) (p : State → State → Bool) : Bool :=
  met (.heartbeatRx (beat 0x40 sender (beatBody st fl))) (tandem l x) h p

/-- The heartbeat of another firmware version. -/
def otherFw : List Byte := (beat 0x40 1 (beatBody 1 0)).set 52 1

theorem test_TandemProtocol :
    all [met .heartbeatTimer (tandem .claimed { state := .alone, hbSent := 999900000, sentSeq := 65535 }) (fun _ => true) fun s t =>
          t.out.length == 1 && t.tan == { s.tan with hbSent := s.uptime, sentSeq := 0 },
      still .heartbeatTimer (tandem .claimed { state := .alone, hbSent := 999900001 }) fun _ => true,
      still .heartbeatTimer prn fun _ => true,
      met .tandemAliveToggle (tandem .claimed { aliveSent := 999900000 }) (fun s => s.aliveAllowed) fun s t => t.tan.aliveOut && t.tan.aliveSent == s.uptime,
      still .tandemAliveToggle (tandem .claimed { aliveSent := 999900001 }) fun _ => true,
      still .tandemAliveToggle (dev .fault .print) fun s => !s.aliveAllowed,
      met .tandemAliveEdge prn (fun s => s.fuse.part.tandem) fun s t => t.tan == { s.tan with aliveAt := some s.uptime },
      met .tandemAliveEdge { prn with fuse := { prn.fuse with part := .p32 } } (fun s => !s.fuse.part.tandem) fun s t => t.tan == s.tan,
      still (.heartbeatRx (beat 0x40 1 (beatBody 1 0))) prn fun s => s.tan.state == .off,
      still (.drillRx (beat 0x40 1 (beatBody 1 0))) (tandem .claimed { state := .active }) fun _ => true,
      met (.heartbeatRx ((beat 0x40 1 (beatBody 1 0)).set 4 0)) (tandem .claimed { state := .active }) (fun _ => true) fun s t =>
        same (ethDrop 1 s) t,
      met (.drillRx ((beat 0x42 1 (beatBody 1 0)).take 40)) (tandem .claimed { state := .active }) (fun _ => true) fun s t =>
        same (ethDrop 1 s) t,
      beats 1 1 0 .claimed { state := .pairing } (fun s => s.lcs.fwVersion == 0 &&
          (readBeat 1 (beatBody 1 0)).standby && que s 14 1) fun s t => t.tan.state == .active && t.tan.beat == some (readBeat 1 (beatBody 1 0)) &&
          t.tan.beatAt == some s.uptime && waits t 14 1 [1, 2, 0],
      beats 1 3 0 .claimed { state := .alone } (fun s => que s 14 1) fun _ t => t.tan.state == .active && waits t 14 1 [4, 2, 0],
      beats 1 3 8 .claimed { state := .active } (fun s => que s 14 1) fun _ t => t.tan.state == .alone && waits t 14 1 [2, 4, 2],
      beats 0 2 8 .observing { state := .shadow, endB := true } (fun s => que s 14 1) fun _ t => t.tan.state == .off && waits t 14 1 [3, 0, 2],
      beats 0 2 8 .observing { state := .deposed } (fun _ => true) fun _ t => t.tan.state == .off,
      beats 0 4 0 .observing { state := .pairing, endB := true, nodes := [(31, 1)] } (fun _ => (readBeat 0 (beatBody 4 0)).holder) fun _ t =>
        t.tan.state == .shadow && t.tan.mirrorOk && t.tan.beat == some (readBeat 0 (beatBody 4 0)),
      met (.heartbeatRx otherFw) (tandem .claimed { state := .pairing }) (fun s => que s 14 1) fun _ t => t.tan.state == .pairing &&
        waits t 14 1 [1, 1, 1],
      beats 0 2 0 .observing { state := .shadow, endB := true, nodes := [(31, 1)] } (fun s => s.mirrorFault (readBeat 0 (beatBody 2 0)) == 0)
        fun _ t => t.tan.state == .shadow && t.tan.mirrorOk,
      beats 0 2 0 .claimed { state := .shadow, endB := true, nodes := [(31, 1)], mirrorOk := true }
        (fun s => s.mirrorFault (readBeat 0 (beatBody 2 0)) == 4) fun _ t => t.tan.state == .shadow && !t.tan.mirrorOk,
      met .tandemPartnerLost (tandem .claimed { state := .active, beatAt := some 998500000 }) (fun s => s.partnerLost && que s 14 1) fun s t =>
        t.tan == { s.tan with state := .alone } && waits t 14 1 [2, 4, 3],
      still .tandemPartnerLost (tandem .claimed { state := .active, beatAt := some 998500001 }) fun s => !s.partnerLost] = true := by
  decide +kernel

/-- A mirrored result: the shifts of bar 0, or a slew of it alone. -/
def mirrored : CalImage := { shifts := [(0, 3)] }

theorem test_TandemMirrorAndDrill :
    all [met (.calMirrorRx 5 100 mirrored) (tandemJob .observing { state := .shadow }) (fun s => s.prn.job.isOpen && s.commitRoom && imageCommits mirrored)
        fun s t => t.tan == { s.tan with mirrorNo := 5 } && t.frames.commits.length == s.frames.commits.length + 1 &&
          (t.frames.commits.getLast?.map fun c => c.applied == s.frames.applied false 100 && c.cfg == imageApply mirrored s.prn.nextLoad s.frames.latest) ==
            some true,
      met (.calMirrorRx 5 100 mirrored) (tandem .observing { state := .shadow }) (fun s => s.commitRoom && !s.prn.job.isOpen && !s.scanning)
        fun s t => t.frames.commits == s.frames.commits && t.frames.base == imageApply mirrored s.prn.nextLoad s.frames.base,
      met (.calMirrorRx 5 100 mirrored) { (tandemJob .observing { state := .shadow }) with frames := { jobbed.frames with
          commits := List.replicate 16 { applied := jobbed.frames.openFirst + 5, gen := 1 }, hitch := [] } } (fun s => !s.commitRoom)
        fun s t => t.frames == s.frames && t.tan == { s.tan with mirrorNo := 5, mirrorWait := [(100, mirrored)] },
      met (.calMirrorRx 5 100 { slews := [(0, 5, 1)] }) (tandemJob .observing { state := .shadow }) (fun _ => !imageCommits { slews := [(0, 5, 1)] })
        fun s t => t.tan == { s.tan with mirrorNo := 5 } && t.frames.commits == s.frames.commits,
      still (.calMirrorRx 5 100 {}) prn fun s => s.tan.state != .shadow,
      met (.drillRx (beat 0x42 0 (le 4 100 ++ le 2 0x1002))) (standby {}) (fun s => s.tan.drill == none) fun s t =>
        t.tan == { s.tan with drill := some { frame := 100, claim := 0x1002, standby := true } },
      still (.drillRx (beat 0x42 0 (le 4 100 ++ le 2 0x1002))) (standby { drill := some {} }) fun _ => true,
      still (.drillRx (beat 0x42 0 (le 4 100 ++ le 2 0x1002))) (tandem .claimed { state := .active }) fun _ => true,
      met (.takeoverCheck []) (standby { beat := some { bits := 4 }, aliveAt := some 1000000000, lossSeen := true }) (fun s => s.takeoverCause == 2) fun s t =>
        t.tan.state == .shadow && t.tan.lossSeen && t.rein == s.rein,
      met (.takeoverCheck [(31, 5)]) (standby { lossSeen := true }) (fun _ => true) fun s t => t.tan == { s.tan with lossSeen := false } &&
        (t.link 31).lastFar == some 999999995,
      met (.takeoverCheck []) (standby { partnerClaim := 0x1001 }) (fun s => s.takeoverCause == 1) fun _ t =>
        t.tan.state == .takingOver && t.tan.lossSeen && t.tan.lastClaim == 0x1002,
      met (.takeoverCheck []) (standby { partnerClaim := 0xFFFF }) (fun s => s.takeoverCause == 1) fun s t => t.tan == { s.tan with lossSeen := true },
      met .takeoverBanksWritten { (tandem .claimed { state := .takingOver, resume := true }) with top := { prn.top with dev := .run } }
        (fun s => (s.banks 248).writes == []) fun _ t => t.tan.state == .alone && !t.tan.held && !t.tan.resume,
      met .takeoverBanksWritten (tandem .claimed { state := .takingOver, resume := true }) (fun _ => true) fun _ t => t.tan.state == .alone && t.tan.held,
      still .takeoverBanksWritten ((tandem .claimed { state := .takingOver }).setBanks 248 { writes := [{}] }) fun s => (s.linkNodes 31).contains 248,
      still .takeoverBanksWritten (tandem .claimed { state := .active }) fun _ => true,
      met (.drillTimeout 248) (tandem .claimed { state := .active, drill := some { frame := 7, claim := 0x1002, running := true, sent := [(248, 995000001)] } })
        (fun s => (s.drillOn 31).isSome && (s.node 248).held != 0x1002 && que s 14 3) fun _ t => t.tan.drill.map (·.back) == some 0x1003 &&
          waits t 14 3 (le 1 1 ++ le 4 7 ++ le 4 (2 ^ 31) ++ le 2 0x1002),
      still (.drillTimeout 248) (tandem .claimed { state := .active, drill := some { frame := 7, claim := 0x1002, running := true, sent := [(248, 995000002)] } })
        fun s => (s.drillOn 31).isSome,
      still (.drillTimeout 0) prn fun s => s.drillOn 0 == none] = true := by
  decide +kernel

end Sys2Proof.Tests
end

section
/-! The device state: which commands can take it out of FAULT (R21, R22), and what the losses of the PCIe function do to it
(R43, R44). -/

namespace Sys2Proof.Machine

/-! ### The parts that a command may change -/

/-- A command changes no part of the state that `mayChange` does not list for its row. -/
theorem exec_keeps (c : Instr) (s : State) : OutKeeps (fun p => (mayChange c).contains p) s (exec c s) := by
  have hs := Keeps.refl (fun p => (mayChange c).contains p) s
  cases c with
  | powerOn => apply execPowerOn_keeps <;> trivial
  | porstAssert => apply execPorstAssert_keeps <;> trivial
  | sysrstAssert => apply execSysrstAssert_keeps <;> trivial
  | resetRelease => apply execResetRelease_keeps <;> trivial
  | bootImageVerified => apply execBootImageVerified_keeps <;> trivial
  | bootDdrTrained => apply execBootDdrTrained_keeps <;> trivial
  | ready => apply execReady_keeps <;> trivial
  | internalReset => apply execInternalReset_keeps <;> trivial
  | watchdogExpiry => apply execWatchdogExpiry_keeps <;> trivial
  | clockFault => apply execClockFault_keeps <;> trivial
  | dieTrip => apply execDieTrip_keeps <;> trivial
  | tripHoldExpiry => apply execTripHoldExpiry_keeps <;> trivial
  | flr => apply execFlr_keeps <;> trivial
  | hotReset => apply execHotReset_keeps <;> trivial
  | pcieLinkDown => apply execPcieLinkDown_keeps <;> trivial
  | d3hotEntry => apply execD3hotEntry_keeps <;> trivial
  | bar0BadAccess => apply execBar0BadAccess_keeps <;> trivial
  | bar2Write => apply execBar2Write_keeps <;> trivial
  | bar2Read => apply execBar2Read_keeps <;> trivial
  | registerWrite => apply execRegisterWrite_keeps <;> trivial
  | readClear => apply execReadClear_keeps <;> trivial
  | latchedLoRead => apply execLatchedLoRead_keeps <;> trivial
  | w1cWrite => apply execW1cWrite_keeps <;> trivial
  | hpenCtrlWrite => apply execHpenCtrlWrite_keeps <;> trivial
  | capPop => apply execCapPop_keeps <;> trivial
  | cmdRingEnable => apply execCmdRingEnable_keeps <;> trivial
  | cmdRingDisable => apply execCmdRingDisable_keeps <;> trivial
  | cmdRingResize => apply execCmdRingResize_keeps <;> trivial
  | crDoorbell => apply execCrDoorbell_keeps <;> trivial
  | descriptorFetch => apply execDescriptorFetch_keeps <;> trivial
  | cplRingEnable => apply execCplRingEnable_keeps <;> trivial
  | cplRingDisable => apply execCplRingDisable_keeps <;> trivial
  | cplRingConfig => apply execCplRingConfig_keeps <;> trivial
  | evtRingEnable => apply execEvtRingEnable_keeps <;> trivial
  | evtRingDisable => apply execEvtRingDisable_keeps <;> trivial
  | evtRingConfig => apply execEvtRingConfig_keeps <;> trivial
  | cplPtrHeadWrite => apply execCplPtrHeadWrite_keeps <;> trivial
  | evtPtrHeadWrite => apply execEvtPtrHeadWrite_keeps <;> trivial
  | completionRecordWrite => apply execCompletionRecordWrite_keeps <;> trivial
  | eventBacklogDrain => apply execEventBacklogDrain_keeps <;> trivial
  | coalesceTimerExpiry => apply execCoalesceTimerExpiry_keeps <;> trivial
  | sysNop => apply execSysNop_keeps <;> trivial
  | sysQuery => apply execSysQuery_keeps <;> trivial
  | sysSetMode => apply execSysSetMode_keeps <;> trivial
  | sysPull => apply execSysPull_keeps <;> trivial
  | hostReadCompletion => apply execHostReadCompletion_keeps <;> trivial
  | sysHalter => apply execSysHalter_keeps <;> trivial
  | sysResume => apply execSysResume_keeps <;> trivial
  | sysBufDefine => apply execSysBufDefine_keeps <;> trivial
  | sysBufFree => apply execSysBufFree_keeps <;> trivial
  | sysEventMask => apply execSysEventMask_keeps <;> trivial
  | webConfig => apply execWebConfig_keeps <;> trivial
  | webBarOffset => apply execWebBarOffset_keeps <;> trivial
  | webLimits => apply execWebLimits_keeps <;> trivial
  | webRereference => apply execWebRereference_keeps <;> trivial
  | webQuery => apply execWebQuery_keeps <;> trivial
  | encoderEdge => apply execEncoderEdge_keeps <;> trivial
  | hallEdge => apply execHallEdge_keeps <;> trivial
  | indexEvent => apply execIndexEvent_keeps <;> trivial
  | indexMissing => apply execIndexMissing_keeps <;> trivial
  | webCheckSpan => apply execWebCheckSpan_keeps <;> trivial
  | regDoubtEnd => apply execRegDoubtEnd_keeps <;> trivial
  | ssiReadDone => apply execSsiReadDone_keeps <;> trivial
  | gaitEval => apply execGaitEval_keeps <;> trivial
  | standstillTimeout => apply execStandstillTimeout_keeps <;> trivial
  | prnJobOpen => apply execPrnJobOpen_keeps <;> trivial
  | prnLayerBind => apply execPrnLayerBind_keeps <;> trivial
  | prnToneLoad => apply execPrnToneLoad_keeps <;> trivial
  | prnScreenLoad => apply execPrnScreenLoad_keeps <;> trivial
  | prnCommit => apply execPrnCommit_keeps <;> trivial
  | prnJobClose => apply execPrnJobClose_keeps <;> trivial
  | prnAbort => apply execPrnAbort_keeps <;> trivial
  | fireMapLoad => apply execFireMapLoad_keeps <;> trivial
  | fireMaskLoad => apply execFireMaskLoad_keeps <;> trivial
  | fireNozzleState => apply execFireNozzleState_keeps <;> trivial
  | fireTiming => apply execFireTiming_keeps <;> trivial
  | fireSpitConfig => apply execFireSpitConfig_keeps <;> trivial
  | purgeDone => apply execPurgeDone_keeps <;> trivial
  | frameCutoff => apply execFrameCutoff_keeps <;> trivial
  | bankWriteStart => apply execBankWriteStart_keeps <;> trivial
  | bandDispatch => apply execBandDispatch_keeps <;> trivial
  | bandRenderEnd => apply execBandRenderEnd_keeps <;> trivial
  | bandFetchPoint => apply execBandFetchPoint_keeps <;> trivial
  | contentCheckDone => apply execContentCheckDone_keeps <;> trivial
  | frameComplete => apply execFrameComplete_keeps <;> trivial
  | frameRecord => apply execFrameRecord_keeps <;> trivial
  | lastTickTimeout => apply execLastTickTimeout_keeps <;> trivial
  | reinLinkState => apply execReinLinkState_keeps <;> trivial
  | adaptationDone => apply execAdaptationDone_keeps <;> trivial
  | adaptationTimeout => apply execAdaptationTimeout_keeps <;> trivial
  | blockLockLost => apply execBlockLockLost_keeps <;> trivial
  | reinEnumerate => apply execReinEnumerate_keeps <;> trivial
  | enumCollectExpiry => apply execEnumCollectExpiry_keeps <;> trivial
  | reinNodeRead => apply execReinNodeRead_keeps <;> trivial
  | reinNodeWrite => apply execReinNodeWrite_keeps <;> trivial
  | ctrlRespRx => apply execCtrlRespRx_keeps <;> trivial
  | ctrlRetryTimeout => apply execCtrlRetryTimeout_keeps <;> trivial
  | statusFrameRx => apply execStatusFrameRx_keeps <;> trivial
  | nodeSilent => apply execNodeSilent_keeps <;> trivial
  | halterRepeat => apply execHalterRepeat_keeps <;> trivial
  | nodeDownstreamFrame => apply execNodeDownstreamFrame_keeps <;> trivial
  | nodeCtrlReq => apply execNodeCtrlReq_keeps <;> trivial
  | nodeTick => apply execNodeTick_keeps <;> trivial
  | nodeHalterBlock => apply execNodeHalterBlock_keeps <;> trivial
  | nodeRunBlock => apply execNodeRunBlock_keeps <;> trivial
  | nodeEcho => apply execNodeEcho_keeps <;> trivial
  | nodeLinkLoss => apply execNodeLinkLoss_keeps <;> trivial
  | nodeStatusTimer => apply execNodeStatusTimer_keeps <;> trivial
  | nodeKeepWarmIdle => apply execNodeKeepWarmIdle_keeps <;> trivial
  | lfrSceneBind => apply execLfrSceneBind_keeps <;> trivial
  | lfrRaymapLoad => apply execLfrRaymapLoad_keeps <;> trivial
  | lfrEmitterCalLoad => apply execLfrEmitterCalLoad_keeps <;> trivial
  | lfrLutLoad => apply execLfrLutLoad_keeps <;> trivial
  | scanTiming => apply execScanTiming_keeps <;> trivial
  | scanCommit => apply execScanCommit_keeps <;> trivial
  | scanPowerPolicy => apply execScanPowerPolicy_keeps <;> trivial
  | scanSplitConfig => apply execScanSplitConfig_keeps <;> trivial
  | rowTick => apply execRowTick_keeps <;> trivial
  | splitReadyRx => apply execSplitReadyRx_keeps <;> trivial
  | splitWaitExpiry => apply execSplitWaitExpiry_keeps <;> trivial
  | camContext => apply execCamContext_keeps <;> trivial
  | camSettings => apply execCamSettings_keeps <;> trivial
  | camOutput => apply execCamOutput_keeps <;> trivial
  | camStart => apply execCamStart_keeps <;> trivial
  | camStop => apply execCamStop_keeps <;> trivial
  | csiFrameStart => apply execCsiFrameStart_keeps <;> trivial
  | csiLinePacket => apply execCsiLinePacket_keeps <;> trivial
  | camFrameDone => apply execCamFrameDone_keeps <;> trivial
  | scriptWriteStart => apply execScriptWriteStart_keeps <;> trivial
  | scriptWriteDone => apply execScriptWriteDone_keeps <;> trivial
  | strobeEnd => apply execStrobeEnd_keeps <;> trivial
  | calTargets => apply execCalTargets_keeps <;> trivial
  | calRun => apply execCalRun_keeps <;> trivial
  | calPolicy => apply execCalPolicy_keeps <;> trivial
  | calQuery => apply execCalQuery_keeps <;> trivial
  | calRunStart => apply execCalRunStart_keeps <;> trivial
  | calPeriodicTimer => apply execCalPeriodicTimer_keeps <;> trivial
  | calComputeDone => apply execCalComputeDone_keeps <;> trivial
  | calTimeout => apply execCalTimeout_keeps <;> trivial
  | calSettleExpiry => apply execCalSettleExpiry_keeps <;> trivial
  | axisConfig => apply execAxisConfig_keeps <;> trivial
  | axisHome => apply execAxisHome_keeps <;> trivial
  | axisMove => apply execAxisMove_keeps <;> trivial
  | axisGroupMove => apply execAxisGroupMove_keeps <;> trivial
  | axisStop => apply execAxisStop_keeps <;> trivial
  | axisBusReply => apply execAxisBusReply_keeps <;> trivial
  | axisReplyWindowEnd => apply execAxisReplyWindowEnd_keeps <;> trivial
  | switchChange => apply execSwitchChange_keeps <;> trivial
  | timePortConfig => apply execTimePortConfig_keeps <;> trivial
  | timeTrigger => apply execTimeTrigger_keeps <;> trivial
  | timeCapture => apply execTimeCapture_keeps <;> trivial
  | timeHitch => apply execTimeHitch_keeps <;> trivial
  | triggerFire => apply execTriggerFire_keeps <;> trivial
  | triggerPulseEnd => apply execTriggerPulseEnd_keeps <;> trivial
  | captureEdge => apply execCaptureEdge_keeps <;> trivial
  | ptpMessageRx => apply execPtpMessageRx_keeps <;> trivial
  | syncTimeout => apply execSyncTimeout_keeps <;> trivial
  | arpRequestRx => apply execArpRequestRx_keeps <;> trivial
  | hitchHelloTimer => apply execHitchHelloTimer_keeps <;> trivial
  | hitchHelloRx => apply execHitchHelloRx_keeps <;> trivial
  | hitchPresenceTimeout => apply execHitchPresenceTimeout_keeps <;> trivial
  | proposeRx => apply execProposeRx_keeps <;> trivial
  | proposeRepeat => apply execProposeRepeat_keeps <;> trivial
  | decideRx => apply execDecideRx_keeps <;> trivial
  | abortRx => apply execAbortRx_keeps <;> trivial
  | hitchWaitExpiry => apply execHitchWaitExpiry_keeps <;> trivial
  | hitchCommitTimeout => apply execHitchCommitTimeout_keeps <;> trivial
  | webSampleTimer => apply execWebSampleTimer_keeps <;> trivial
  | webSampleRx => apply execWebSampleRx_keeps <;> trivial
  | memQos => apply execMemQos_keeps <;> trivial
  | memErrorPolicy => apply execMemErrorPolicy_keeps <;> trivial
  | memRetrain => apply execMemRetrain_keeps <;> trivial
  | memQuery => apply execMemQuery_keeps <;> trivial
  | memGrant => apply execMemGrant_keeps <;> trivial
  | correctedRewrite => apply execCorrectedRewrite_keeps <;> trivial
  | patrolScrubRead => apply execPatrolScrubRead_keeps <;> trivial
  | scrubLate => apply execScrubLate_keeps <;> trivial
  | neighbourRefresh => apply execNeighbourRefresh_keeps <;> trivial
  | refreshDue => apply execRefreshDue_keeps <;> trivial
  | mr4Read => apply execMr4Read_keeps <;> trivial
  | parityAlert => apply execParityAlert_keeps <;> trivial
  | feedWindowEnd => apply execFeedWindowEnd_keeps <;> trivial
  | trainingStepDone => apply execTrainingStepDone_keeps <;> trivial
  | trainingStepAbandon => apply execTrainingStepAbandon_keeps <;> trivial
  | rateChangeStart => apply execRateChangeStart_keeps <;> trivial
  | rateChangeDone => apply execRateChangeDone_keeps <;> trivial
  | thmThresholds => apply execThmThresholds_keeps <;> trivial
  | thmZoneMap => apply execThmZoneMap_keeps <;> trivial
  | thmAck => apply execThmAck_keeps <;> trivial
  | levelChange => apply execLevelChange_keeps <;> trivial
  | rateOver => apply execRateOver_keeps <;> trivial
  | throttleLevelStep => apply execThrottleLevelStep_keeps <;> trivial
  | throttleGraceExpiry => apply execThrottleGraceExpiry_keeps <;> trivial
  | sensorState => apply execSensorState_keeps <;> trivial
  | orderlyStopTargetHalt => apply execOrderlyStopTargetHalt_keeps <;> trivial
  | tanConfig => apply execTanConfig_keeps <;> trivial
  | tanDrill => apply execTanDrill_keeps <;> trivial
  | tanRelease => apply execTanRelease_keeps <;> trivial
  | heartbeatTimer => apply execHeartbeatTimer_keeps <;> trivial
  | heartbeatRx => apply execHeartbeatRx_keeps <;> trivial
  | tandemAliveEdge => apply execTandemAliveEdge_keeps <;> trivial
  | tandemAliveToggle => apply execTandemAliveToggle_keeps <;> trivial
  | calMirrorRx => apply execCalMirrorRx_keeps <;> trivial
  | drillRx => apply execDrillRx_keeps <;> trivial
  | takeoverCheck => apply execTakeoverCheck_keeps <;> trivial
  | takeoverBanksWritten => apply execTakeoverBanksWritten_keeps <;> trivial
  | drillTimeout => apply execDrillTimeout_keeps <;> trivial
  | lcsChallenge => apply execLcsChallenge_keeps <;> trivial
  | lcsResponse => apply execLcsResponse_keeps <;> trivial
  | lcsOtpWrite => apply execLcsOtpWrite_keeps <;> trivial
  | lcsTransition => apply execLcsTransition_keeps <;> trivial
  | nonceExpiry => apply execNonceExpiry_keeps <;> trivial
  | pushChunk => apply execPushChunk_keeps <;> trivial
  | pushFinalChunk => apply execPushFinalChunk_keeps <;> trivial
  | pushProvisionalRecord => apply execPushProvisionalRecord_keeps <;> trivial
  | pushApertureWrite => apply execPushApertureWrite_keeps <;> trivial
  | jtagBoundaryScan => apply execJtagBoundaryScan_keeps <;> trivial
  | jtagCoreDebug => apply execJtagCoreDebug_keeps <;> trivial
  | jtagLcsMailbox => apply execJtagLcsMailbox_keeps <;> trivial
  | busMasterEnableWrite => apply execBusMasterEnableWrite_keeps <;> trivial
  | pcieLinkUp => apply execPcieLinkUp_keeps <;> trivial
  | flrWipeDone => apply execFlrWipeDone_keeps <;> trivial
  | announceReceiptTimeout => apply execAnnounceReceiptTimeout_keeps <;> trivial
  | ptpTransmitInterval => apply execPtpTransmitInterval_keeps <;> trivial
  | pcsLinkChange => apply execPcsLinkChange_keeps <;> trivial
  | refreshWindowEnd => apply execRefreshWindowEnd_keeps <;> trivial
  | tandemPartnerLost => apply execTandemPartnerLost_keeps <;> trivial

section

variable {m : Part → Bool} {r s t : State}

/-- An outcome that leaves the state alone keeps all of it. -/
theorem OutKeeps.idle {o : Host.Outcome State Fault Refusal} (h : o = .next s) : OutKeeps m s o :=
  h ▸ .next (Keeps.refl m s)

theorem OutKeeps.dev_eq {o : Host.Outcome State Fault Refusal} (h : OutKeeps m s o) (hm : m .dev = false) (ht : o = .next t) :
    t.top.dev = s.top.dev := ((h.keeps t ht).dev hm).1

/-- Every part but the device state with the one before and the cause. -/
def besideDev : Part → Bool
  | .dev => false
  | _ => true

theorem Keeps.dev_eq (hs : Keeps besideDev r s) : s.top.dev = r.top.dev := (hs.dev rfl).1

/-- R21: no output runs or waits for its first band: the device state is neither ARMED nor RUN. -/
def State.atRest (s : State) : Prop := s.top.dev ≠ .armed ∧ s.top.dev ≠ .run

theorem State.atRest_of_fault (h : s.top.dev = .fault) : s.atRest := by simp [State.atRest, h]

theorem Keeps.atRest (hs : Keeps besideDev r s) (hr : r.atRest) : s.atRest := by
  simpa [State.atRest, hs.dev_eq] using hr

/-! ### Where the device state is set, nothing happens at rest or in FAULT -/

theorem firstRelease_of_atRest (f : FrameNo) (h : s.atRest) : firstRelease f s = s := by
  simp [firstRelease, h.1]

theorem enterHalter_of_atRest (c : Cause) (h : s.atRest) : enterHalter c s = s :=
  if_neg (by simp [h.1, h.2])

theorem enterFault_of_fault (c : Cause) (b : List Byte) (h : s.top.dev = .fault) : enterFault c b s = s :=
  if_neg (by simp [h])

/-- What takes RUN to ARMED leaves a device at rest alone. -/
theorem ite_run_keepsDev (hr : r.atRest) (ht : Keeps besideDev r t) :
    Keeps besideDev r (if t.top.dev = .run then s else t) := by
  rwa [if_neg (ht.atRest hr).2]

/-- A change of the PCIe function alone. -/
theorem pcie_keepsDev (p : Pcie) (hs : Keeps besideDev r s) : Keeps besideDev r { s with pcie := p } := by
  apply State.keeps_mk hs <;> first | rfl | exact .inr rfl | exact .inl ⟨rfl, rfl, rfl⟩ | exact OtpLe.refl _

theorem firstRelease_keepsDev (f : FrameNo) (hr : r.atRest) (hs : Keeps besideDev r s) :
    Keeps besideDev r (firstRelease f s) := by
  rwa [firstRelease_of_atRest f (hs.atRest hr)]

theorem enterHalter_keepsDev (c : Cause) (hr : r.atRest) (hs : Keeps besideDev r s) :
    Keeps besideDev r (enterHalter c s) := by
  rwa [enterHalter_of_atRest c (hs.atRest hr)]

theorem enterFault_keepsDev (c : Cause) (b : List Byte) (hf : r.top.dev = .fault) (hs : Keeps besideDev r s) :
    Keeps besideDev r (enterFault c b s) := by
  rwa [enterFault_of_fault c b (hs.dev_eq.trans hf)]

/-! ### Bands, jobs and scans

Each lemma cites the `Keeps` lemmas of the operations that the definition calls; `besideDev` meets their premises by `rfl`. -/

theorem closeJob_keepsDev (k : Nat) (last : FrameNo) (why : CloseReason) (hr : r.atRest) (hs : Keeps besideDev r s) :
    Keeps besideDev r (closeJob k last why s) := by
  unfold closeJob
  apply ite_run_keepsDev hr
  repeat' first
    | (with_reducible first | assumption | apply raiseAfter_keeps | apply refreshPeriods_keeps | apply State.withFrames_keeps
                            | apply State.keeps_mk)
    | rfl | exact .inr rfl | exact .inl ⟨rfl, rfl, rfl⟩ | exact OtpLe.refl _

theorem closeIfDone_keepsDev (k : Nat) (hr : r.atRest) (hs : Keeps besideDev r s) :
    Keeps besideDev r (closeIfDone k s) :=
  ite_keeps (closeJob_keepsDev _ _ _ hr hs) hs

theorem finishPrintFrame_keepsDev (f : FrameNo) (hr : r.atRest) (hs : Keeps besideDev r s) :
    Keeps besideDev r (finishPrintFrame f s) := by
  unfold finishPrintFrame
  apply closeIfDone_keepsDev 0 hr
  repeat' first
    | (with_reducible first | assumption | apply completeFrame_keeps | apply pruneCommits_keeps | apply State.keeps_mk)
    | rfl | exact .inr rfl | exact .inl ⟨rfl, rfl, rfl⟩ | exact OtpLe.refl _

theorem settleStop_keepsDev (hr : r.atRest) (hs : Keeps besideDev r s) : Keeps besideDev r (settleStop s) := by
  unfold settleStop
  split
  · exact hs
  · apply ite_run_keepsDev hr
    repeat' first | (with_reducible first | assumption | apply raise_keeps | apply scanGone_keeps) | rfl

theorem stopScan_keepsDev (a : FrameNo) (hr : r.atRest) (hs : Keeps besideDev r s) : Keeps besideDev r (stopScan a s) := by
  unfold stopScan
  apply settleStop_keepsDev hr
  repeat' first
    | (with_reducible first | assumption | apply State.withScan_keeps | apply ite_keeps | apply freeTrig_keeps
                            | apply abortFrom_keeps | apply haltPanels_keeps | apply endLfRuns_keeps)
    | rfl

theorem finishLfFrame_keepsDev (f : FrameNo) (hr : r.atRest) (hs : Keeps besideDev r s) :
    Keeps besideDev r (finishLfFrame f s) := by
  unfold finishLfFrame
  apply settleStop_keepsDev hr
  repeat' first
    | (with_reducible first | assumption | apply pruneCommits_keeps | apply completeFrame_keeps | apply noteTerm_keeps)
    | rfl

theorem frameTick_keepsDev (f : FrameNo) (hr : r.atRest) (hs : Keeps besideDev r s) :
    Keeps besideDev r (frameTick f s) := by
  have h1 : Keeps besideDev r (stamp 0x06 0 f.toNat s) := by
    apply stamp_keeps <;> first | rfl | exact hs
  exact ite_keeps (stopScan_keepsDev f hr h1) h1

theorem printFetch_keepsDev (b : Nat) (hr : r.atRest) (hs : Keeps besideDev r s) : Keeps besideDev r (printFetch b s) := by
  unfold printFetch
  apply firstRelease_keepsDev _ hr
  repeat' first
    | (with_reducible first | assumption | apply advanceFetch_keeps | apply takeBand_keeps | apply feedBand_keeps
                            | apply noteSelLate_keeps | apply noteLate_keeps | apply noteBand_keeps | apply runNodes_keeps
                            | apply startDelivery_keeps | apply ite_keeps)
    | rfl | split

theorem lfFetch_keepsDev (hr : r.atRest) (hs : Keeps besideDev r s) : Keeps besideDev r (lfFetch s) := by
  unfold lfFetch
  apply firstRelease_keepsDev _ hr
  repeat' first
    | intro _
    | (with_reducible first | assumption | apply State.withFrames_keeps | apply State.updFrame_keeps | apply shadowLate_keeps
                            | apply takeBuffer_keeps | apply feedLf_keeps | apply feedRepeat_keeps | apply noteDelivered_keeps
                            | apply startLfDelivery_keeps | apply runPanels_keeps | apply noteLfBand_keeps
                            | apply takeLfBand_keeps | apply ite_keeps)
    | rfl | split

theorem execBandFetchPoint_keepsDev (b : Nat) (hr : r.atRest) (hs : Keeps besideDev r s) :
    OutKeeps besideDev r (execBandFetchPoint b s) := by
  have h1 : Keeps besideDev r (openDelivery s) := by
    apply openDelivery_keeps <;> first | rfl | exact hs
  unfold execBandFetchPoint
  split
  · exact .next (printFetch_keepsDev b hr hs)
  · exact ite_outKeeps (.next (lfFetch_keepsDev hr h1)) (.next h1)

theorem execFrameComplete_keepsDev (f : FrameNo) (hr : r.atRest) (hs : Keeps besideDev r s) :
    OutKeeps besideDev r (execFrameComplete f s) := by
  unfold execFrameComplete
  repeat' split
  · exact .next (finishPrintFrame_keepsDev f hr hs)
  · exact .next hs
  · exact .next (finishLfFrame_keepsDev f hr hs)
  · exact .next hs
  · exact .next hs

/-! ### The halts: tandem, thermal, PCIe -/

theorem deposed_keepsDev (hr : r.atRest) (hs : Keeps besideDev r s) : Keeps besideDev r (deposed s) := by
  unfold deposed
  repeat' first
    | intro _
    | (with_reducible first | assumption | apply ite_keeps | apply enterHalter_keepsDev | apply foldl_keeps
                            | apply State.updFrame_keeps | apply State.withTan_keeps)
    | rfl

theorem tanStatus_keepsDev (n : Nat) (before : State) (hr : r.atRest) (hs : Keeps besideDev r s) :
    Keeps besideDev r (tanStatus n before s) := by
  unfold tanStatus
  extract_lets
  split
  · have h1 : ∀ {c : Prop} [Decidable c], Keeps besideDev r (if c then alignTicks n s else s) :=
      ite_keeps (by apply alignTicks_keeps <;> first | rfl | exact hs) hs
    exact ite_keeps (by apply drillStandby_keeps <;> first | rfl | exact h1)
      (by apply drillHolder_keeps <;> first | rfl | exact h1)
  · exact ite_keeps (deposed_keepsDev hr hs) hs

theorem execStatusFrameRx_keepsDev (l : Nat) (bs : List Byte) (hr : r.atRest) (hs : Keeps besideDev r s) :
    OutKeeps besideDev r (execStatusFrameRx l bs s) := by
  unfold execStatusFrameRx
  repeat' first
    | (with_reducible first | assumption | apply OutKeeps.next | apply ite_outKeeps | apply badFrame_keeps
                            | apply tanStatus_keepsDev | apply statusFrame_keeps)
    | rfl | split

theorem haltTargets_keepsDev (bars groups : List Nat) (hr : r.atRest) (hs : Keeps besideDev r s) :
    Keeps besideDev r (haltTargets bars groups s) := by
  unfold haltTargets
  repeat' first
    | intro _
    | (with_reducible first | assumption | apply ite_keeps | apply enterHalter_keepsDev | apply partialHalter_keeps
                            | apply State.withThm_keeps | apply haltNodes_keeps | apply State.withScan_keeps
                            | apply foldl_keeps | apply abortPurge_keeps | apply State.setFireBar_keeps)
    | rfl

theorem stopPrint_keepsDev (z : Nat) (left : Option Nat) (hr : r.atRest) (hs : Keeps besideDev r s) :
    Keeps besideDev r (stopPrint z left s) := by
  unfold stopPrint
  apply haltTargets_keepsDev _ _ hr
  repeat' first | (with_reducible first | assumption | apply orderlyEvent_keeps | apply State.setZone_keeps) | rfl

theorem stopPanels_keepsDev (z : Nat) (left : Option Nat) (hr : r.atRest) (hs : Keeps besideDev r s) :
    Keeps besideDev r (stopPanels z left s) := by
  unfold stopPanels
  apply haltTargets_keepsDev _ _ hr
  repeat' first
    | (with_reducible first | assumption | apply rollback_keeps | apply orderlyEvent_keeps | apply State.withThm_keeps
                            | apply State.setZone_keeps)
    | rfl

theorem startStop_keepsDev (z : Nat) (known : Bool) (hr : r.atRest) (hs : Keeps besideDev r s) :
    Keeps besideDev r (startStop z known s) := by
  have h1 : ∀ x, Keeps besideDev r (s.setZone z x) := fun x => State.setZone_keeps _ _ _ rfl hs
  exact ite_keeps hs (ite_keeps (stopPanels_keepsDev _ _ hr (h1 _)) (stopPrint_keepsDev _ _ hr (h1 _)))

theorem execOrderlyStopTargetHalt_keepsDev (target : Nat) (hr : r.atRest) (hs : Keeps besideDev r s) :
    OutKeeps besideDev r (execOrderlyStopTargetHalt target s) := by
  unfold execOrderlyStopTargetHalt
  split
  · exact .next (ite_keeps (haltTargets_keepsDev _ _ hr hs) (haltTargets_keepsDev _ _ hr hs))
  · exact .next hs

theorem ceilReached_keepsDev (z : Nat) (hr : r.atRest) (hs : Keeps besideDev r s) :
    Keeps besideDev r (ceilReached s z) :=
  ite_keeps hs (haltTargets_keepsDev _ _ hr hs)

theorem execLevelChange_keepsDev (z i : Nat) (hr : r.atRest) (hs : Keeps besideDev r s) :
    OutKeeps besideDev r (execLevelChange z i s) := by
  unfold execLevelChange
  repeat' first
    | (with_reducible first | assumption | apply OutKeeps.next | apply ite_outKeeps | apply ite_keeps
                            | apply startStop_keepsDev | apply levelEvent_keeps | apply State.setZone_keeps)
    | rfl

theorem sensorLost_keepsDev (code z : Nat) (hr : r.atRest) (hs : Keeps besideDev r s) :
    Keeps besideDev r (sensorLost code s z) := by
  unfold sensorLost
  extract_lets x s1
  have h1 : Keeps besideDev r s1 := ite_keeps hs (State.setZone_keeps _ _ _ rfl hs)
  exact ite_keeps hs (ite_keeps (startStop_keepsDev z false hr h1) h1)

theorem execSensorState_keepsDev (code : Nat) (hr : r.atRest) (hs : Keeps besideDev r s) :
    OutKeeps besideDev r (execSensorState code s) := by
  unfold execSensorState
  repeat' first
    | intro _
    | (with_reducible first | assumption | apply OutKeeps.next | apply ite_outKeeps | apply foldl_keeps
                            | apply sensorLost_keepsDev | apply sensorEvent_keeps | apply State.setSensor_keeps)
    | rfl

theorem housekeeping_keepsDev (adc : List AdcReading) (hr : r.atRest) (hs : Keeps besideDev r s) :
    Keeps besideDev r (housekeeping adc s) := by
  unfold housekeeping
  repeat' first
    | intro _
    | (with_reducible first | assumption | apply foldl_keeps | apply ceilReached_keepsDev | apply tryPending_keeps
                            | apply judgeZone_keeps | apply State.withThm_keeps | apply noteRank_keeps | apply noteNode_keeps
                            | apply noteAdc_keeps)
    | rfl

theorem holderAction_keepsDev (u k : Nat) (adc : List AdcReading) (hr : r.atRest) (hs : Keeps besideDev r s) :
    Keeps besideDev r (holderAction u k adc s) := by
  unfold holderAction
  cases (s.trig u).holder with
  | none | host => exact hs
  | scan => exact frameTick_keepsDev _ hr hs
  | camera => apply exposeUnit_keeps <;> first | rfl | exact hs
  | calibration =>
    cases s.shotOn u with
    | none => exact hs
    | some n => repeat' first | (with_reducible first | assumption | apply exposeUnit_keeps | apply takeShot_keeps) | rfl
  | motion => repeat' first | (with_reducible first | assumption | apply gantrySteps_keeps | apply servoPeriod_keeps) | rfl
  | housekeeping => apply temperatureTriggers_keeps <;> first | exact housekeeping_keepsDev adc hr hs | rfl

theorem execTriggerFire_keepsDev (u : Nat) (adc : List AdcReading) (hr : r.atRest) (hs : Keeps besideDev r s) :
    OutKeeps besideDev r (execTriggerFire u adc s) := by
  unfold execTriggerFire
  repeat' first
    | (with_reducible first | assumption | apply OutKeeps.next | apply ite_outKeeps | apply ite_keeps | apply trigDone_keeps
                            | apply holderAction_keepsDev | apply firePin_keeps)
    | rfl

theorem pcieGone_keepsDev (hr : r.atRest) (hs : Keeps besideDev r s) : Keeps besideDev r (pcieGone s) :=
  enterHalter_keepsDev _ hr hs

theorem linkLost_keepsDev (hr : r.atRest) (hs : Keeps besideDev r s) : Keeps besideDev r (linkLost s) :=
  pcieGone_keepsDev hr (pcie_keepsDev _ hs)

theorem flrHalt_keepsDev (hr : r.atRest) (hs : Keeps besideDev r s) : Keeps besideDev r (flrHalt s) := by
  apply ite_keeps (enterHalter_keepsDev _ hr hs)
  apply haltAxes_keeps <;> first | rfl | exact hs

theorem flrClose_keepsDev (hr : r.atRest) (hs : Keeps besideDev r s) : Keeps besideDev r (flrClose s) := by
  unfold flrClose
  repeat' first
    | (with_reducible first | assumption | apply ite_keeps | apply State.useFree_keeps | apply raise_keeps
                            | apply scanGone_keeps | apply endLfRuns_keeps | apply closeJob_keepsDev)
    | rfl

/-- R44: a function-level reset leaves a device state with no output running as it is. -/
theorem functionReset_keepsDev (hr : r.atRest) (hs : Keeps besideDev r s) : Keeps besideDev r (functionReset s) := by
  have hc : ∀ u, Keeps besideDev r u → Keeps besideDev r (flrTriggers (flrClose (flrClear (flrHalt u)))) := fun u hu => by
    repeat' first
      | (with_reducible first | assumption | apply flrTriggers_keeps | apply flrClose_keepsDev | apply flrClear_keeps
                              | apply flrHalt_keepsDev)
      | rfl
  unfold functionReset
  cases s.top.dev with
  | reset | tripped => exact hs
  | boot => exact pcie_keepsDev _ hs
  | idle | armed | run | halter | fault => exact hc _ (pcie_keepsDev _ hs)

/-! ### The faults: memory, clocks, watchdog -/

theorem memFatal_keepsDev (hf : r.top.dev = .fault) (hs : Keeps besideDev r s) : Keeps besideDev r (memFatal s) :=
  enterFault_keepsDev _ _ hf hs

theorem consumePoison_keepsDev (q : MemReq) (j : Nat) (hf : r.top.dev = .fault) (hs : Keeps besideDev r s) :
    Keeps besideDev r (consumePoison q j s) := by
  have h1 : Keeps besideDev r (poisonBurst (q.addr / 64 + j) s) := by
    apply poisonBurst_keeps <;> first | rfl | exact hs
  exact ite_keeps (by apply poisonFeed_keeps <;> first | rfl | exact hs) (ite_keeps (memFatal_keepsDev hf h1) h1)

theorem serveBurst_keepsDev (c : Nat) (q : MemReq) (j : Nat) (hf : r.top.dev = .fault) (hs : Keeps besideDev r s) :
    Keeps besideDev r (serveBurst c q s j) := by
  unfold serveBurst
  extract_lets
  split
  · exact hs
  · apply noteCorrected_keeps <;> first | rfl | exact hs
  · apply consumePoison_keepsDev _ _ hf
    apply noteUncorrectable_keeps <;> first | rfl | exact hs

theorem serveReq_keepsDev (c : Nat) (q : MemReq) (hf : r.top.dev = .fault) (hs : Keeps besideDev r s) :
    Keeps besideDev r (serveReq c q s) := by
  unfold serveReq
  repeat' first
    | intro _
    | (with_reducible first | assumption | apply ite_keeps | apply feedGot_keeps | apply foldl_keeps
                            | apply serveBurst_keepsDev | apply issueCmd_keeps | apply activateRow_keeps
                            | apply countPace_keeps | apply countGrant_keeps)
    | rfl | split

theorem execMemGrant_keepsDev (c : Nat) (reqs : List MemReq) (hf : r.top.dev = .fault) (hs : Keeps besideDev r s) :
    OutKeeps besideDev r (execMemGrant c reqs s) := by
  unfold execMemGrant
  extract_lets
  repeat' first
    | (with_reducible first | assumption | apply OutKeeps.next | apply ite_outKeeps | apply serveReq_keepsDev
                            | apply State.setDdr_keeps)
    | rfl | split

theorem freezeMemory_keepsDev (ch sub cause depth addr : Nat) (hf : r.top.dev = .fault) (hs : Keeps besideDev r s) :
    Keeps besideDev r (freezeMemory ch sub cause depth addr s) := by
  unfold freezeMemory
  apply enterFault_keepsDev _ _ hf
  repeat' first
    | intro _
    | (with_reducible first | assumption | apply foldl_keeps | apply ite_keeps | apply chanEvent_keeps | apply State.keeps_mk)
    | rfl | exact .inr rfl | exact .inl ⟨rfl, rfl, rfl⟩ | exact OtpLe.refl _

theorem execParityAlert_keepsDev (ch sub : Nat) (w : Bool) (passed : Nat) (hf : r.top.dev = .fault)
    (hs : Keeps besideDev r s) : OutKeeps besideDev r (execParityAlert ch sub w passed s) := by
  unfold execParityAlert
  extract_lets x left cause
  clear_value left
  split
  · exact .next hs
  repeat' first
    | (with_reducible first | assumption | apply OutKeeps.next | apply ite_outKeeps | apply ite_keeps
                            | apply freezeMemory_keepsDev | apply raise_keeps | apply State.setDdr_keeps)
    | rfl

theorem loseChannel_keepsDev (c : Nat) (hf : r.top.dev = .fault) (hs : Keeps besideDev r s) :
    Keeps besideDev r (loseChannel c s) := by
  unfold loseChannel
  apply memFatal_keepsDev hf
  repeat' first
    | (with_reducible first | assumption | apply abortRun_keeps | apply chanEvent_keeps | apply State.setDdr_keeps)
    | rfl

theorem judgeDdr_keepsDev (c best stored : Nat) (hf : r.top.dev = .fault) (hs : Keeps besideDev r s) :
    Keeps besideDev r (judgeDdr c best stored s) := by
  unfold judgeDdr
  repeat' first
    | (with_reducible first | assumption | apply ite_keeps | apply loseChannel_keepsDev | apply applyResult_keeps
                            | apply failRun_keeps | apply passTo_keeps | apply endDdr_keeps | apply State.setDdr_keeps)
    | rfl

theorem execTrainingStepDone_keepsDev (ch : Nat) (last : Bool) (best stored : Nat) (hf : r.top.dev = .fault)
    (hs : Keeps besideDev r s) : OutKeeps besideDev r (execTrainingStepDone ch last best stored s) := by
  have h1 : ∀ x, Keeps besideDev r (s.setDdr ch x) := fun x => State.setDdr_keeps _ _ _ rfl hs
  exact ite_outKeeps (.next hs)
    (ite_outKeeps (.next (judgeDdr_keepsDev _ _ _ hf (passTo_keeps _ _ _ rfl (h1 _)))) (.next (h1 _)))

theorem execRateChangeDone_keepsDev (ch eye : Nat) (hf : r.top.dev = .fault) (hs : Keeps besideDev r s) :
    OutKeeps besideDev r (execRateChangeDone ch eye s) := by
  unfold execRateChangeDone
  extract_lets
  repeat' first
    | (with_reducible first | assumption | apply OutKeeps.next | apply ite_outKeeps | apply loseChannel_keepsDev
                            | apply retrainDone_keeps | apply applyResult_keeps | apply endDdr_keeps | apply backOnline_keeps)
    | rfl | split

theorem execClockFault_keepsDev (ref : Nat) (hf : r.top.dev = .fault) (hs : Keeps besideDev r s) :
    OutKeeps besideDev r (execClockFault ref s) := by
  have h1 : Keeps besideDev r (enterFault .clockLoss [] s) := enterFault_keepsDev _ _ hf hs
  have h2 : ∀ o, Keeps besideDev r { enterFault .clockLoss [] s with out := o } := fun o => by
    apply State.keeps_mk h1 <;> first | rfl | exact .inr rfl | exact .inl ⟨rfl, rfl, rfl⟩ | exact OtpLe.refl _
  exact ite_outKeeps (.next hs)
    (ite_outKeeps (.next (linkLost_keepsDev (State.atRest_of_fault hf) hs)) (.next (ite_keeps (h2 _) h1)))

theorem execWatchdogExpiry_keepsDev (hf : r.top.dev = .fault) (hs : Keeps besideDev r s) :
    OutKeeps besideDev r (execWatchdogExpiry s) :=
  ite_outKeeps (.next hs) (.next (enterFault_keepsDev _ _ hf hs))

/-! ### The commands of the catalogue -/

theorem State.startable_opcode {op k : Nat} (h : s.startable op k = true) : (s.slot k).opcode = op := by
  simp only [State.startable, Bool.and_eq_true, beq_iff_eq] at h
  exact h.1.2

/-- R22, R71: in FAULT a check fails of every command that FAULT does not take. -/
theorem firstFailure_of_fault (c : Checks) (d : Slot) (hf : s.top.dev = .fault) (hd : faultOpcode d.opcode = false) :
    ∃ x, firstFailure c d s = some x := by
  unfold firstFailure
  repeat' split
  all_goals first | exact ⟨_, rfl⟩ | simp_all

/-- Every command of the catalogue runs from its slot, under its checks. -/
theorem RingRow.exec_eq {c : Instr} {op k : Nat} {ck : Checks} (h : RingRow c op k ck) (s : State) :
    ∃ body, exec c s = runCmd op k ck body s := by
  cases h <;> (dsimp only [exec]; exact ⟨_, rfl⟩)

/-- R22, R71: a command that FAULT does not take at most completes there. -/
theorem RingRow.keepsDev_of_fault {c : Instr} {op k : Nat} {ck : Checks} (h : RingRow c op k ck)
    (hop : faultOpcode op = false) (hf : s.top.dev = .fault) : OutKeeps besideDev s (exec c s) := by
  obtain ⟨body, he⟩ := h.exec_eq s
  rw [he]
  cases hk : s.startable op k with
  | false => exact .idle (runCmd_idle op k ck body s hk)
  | true =>
    obtain ⟨⟨st, det⟩, hx⟩ := firstFailure_of_fault ck (s.slot k) hf (by rwa [State.startable_opcode hk])
    rw [runCmd_rejected op k ck body s st det hk hx]
    have hb : Keeps besideDev s (s.begun k) := State.setSlot_keeps _ _ _ rfl (Keeps.refl _ _)
    exact .next (complete_keeps _ _ _ _ _ _ rfl rfl hb)

/-- R31: with no capability or mode at issue, the first check to fail is that of the device state. -/
theorem firstFailure_wrongState (c : Checks) (d : Slot) (hm : c.mode d s = .none) (ht : d.opcode / 256 ≠ 0x0E)
    (hu : c.fused d s = none) (ha : c.anyMode = false)
    (hd : s.top.dev = .fault ∧ faultOpcode d.opcode = false ∨ c.allowed d s = false) :
    firstFailure c d s = some (St.wrongState, s.top.dev.code) := by
  unfold firstFailure
  rcases hd with ⟨hf, ho⟩ | hn <;> simp [State.capMissing, State.modeRefusal, *]

/-- R31, R55: a command that fails the check of the device state completes with ST_WRONG_STATE. -/
theorem RingRow.wrongState {c : Instr} {op k : Nat} {ck : Checks} (h : RingRow c op k ck) (hk : s.startable op k = true)
    (hx : firstFailure ck (s.slot k) s = some (St.wrongState, s.top.dev.code)) :
    ∃ t, exec c s = .next t ∧ Completed k s t 0x12 s.top.dev.code 0 := by
  obtain ⟨body, he⟩ := h.exec_eq s
  exact ⟨_, he.trans (runCmd_rejected op k ck body s _ _ hk hx),
    complete_completed s k _ _ _ none _ (State.begun_slot s k)⟩

theorem sysResume_of_fault (k : Nat) (hk : s.startable 0x0105 k = true) (hf : s.top.dev = .fault) :
    ∃ t, exec (.sysResume k) s = .next t ∧ Completed k s t 0x12 s.top.dev.code 0 := by
  have ho := State.startable_opcode hk
  have ha : faultOpcode (s.slot k).opcode = false := by rw [ho]; rfl
  exact (RingRow.sysResume k).wrongState hk
    (firstFailure_wrongState _ _ (by simp [sysResumeChecks, ho, opMode]) (by simp [ho]) rfl rfl (.inl ⟨hf, ha⟩))

theorem sysHalter_of_idle_or_boot (k : Nat) (hk : s.startable 0x0104 k = true) (hd : s.top.dev = .idle ∨ s.top.dev = .boot) :
    ∃ t, exec (.sysHalter k) s = .next t ∧ Completed k s t 0x12 s.top.dev.code 0 := by
  have ho := State.startable_opcode hk
  have ha : sysHalterChecks.allowed (s.slot k) s = false := by
    rcases hd with hd | hd <;> simp [sysHalterChecks, hd]
  exact (RingRow.sysHalter k).wrongState hk
    (firstFailure_wrongState _ _ (by simp [sysHalterChecks, ho, opMode]) (by simp [ho]) rfl rfl (.inr ha))

/-! ### Boot and trip rows do nothing in FAULT -/

theorem execResetRelease_of_fault (b : Bool) (hf : s.top.dev = .fault) : execResetRelease b s = .next s :=
  if_pos (by simp [hf])

theorem execBootImageVerified_of_fault (img : List Byte) (hf : s.top.dev = .fault) :
    execBootImageVerified img s = .next s := by
  simp [execBootImageVerified, hf]

theorem execBootDdrTrained_of_fault (ch : Nat) (eyes : List Nat) (temp : Int) (hf : s.top.dev = .fault) :
    execBootDdrTrained ch eyes temp s = .next s :=
  if_pos (by simp [hf])

theorem execReady_of_fault (hf : s.top.dev = .fault) : execReady s = .next s :=
  if_pos (by simp [hf])

theorem execTripHoldExpiry_of_fault (hf : s.top.dev = .fault) : execTripHoldExpiry s = .next s :=
  if_neg (by simp [hf])

/-! ### Every row -/

/-- R21, R22: the rows that can take the device out of FAULT: the resets, and the die trip. -/
def leavesFault : Instr → Bool
  | .powerOn _ | .porstAssert _ | .sysrstAssert | .internalReset | .dieTrip _ => true
  | _ => false

/-- R22: every other command leaves FAULT as it is. -/
theorem exec_fault_of_not_leavesFault (c : Instr) (hc : leavesFault c = false) (hf : s.top.dev = .fault)
    (ht : exec c s = .next t) : t.top.dev = .fault := by
  refine Eq.trans ?_ hf
  by_cases hm : (mayChange c).contains .dev = false
  · exact (exec_keeps c s).dev_eq hm ht
  have hr := State.atRest_of_fault hf
  have hs := Keeps.refl besideDev s
  refine OutKeeps.dev_eq (m := besideDev) ?_ rfl ht
  cases c with
  | powerOn | porstAssert | sysrstAssert | internalReset | dieTrip => cases hc
  | resetRelease b => exact .idle (execResetRelease_of_fault b hf)
  | bootImageVerified img => exact .idle (execBootImageVerified_of_fault img hf)
  | bootDdrTrained ch eyes temp => exact .idle (execBootDdrTrained_of_fault ch eyes temp hf)
  | ready => exact .idle (execReady_of_fault hf)
  | tripHoldExpiry => exact .idle (execTripHoldExpiry_of_fault hf)
  | sysSetMode k => exact (RingRow.sysSetMode k).keepsDev_of_fault rfl hf
  | sysHalter k => exact (RingRow.sysHalter k).keepsDev_of_fault rfl hf
  | sysResume k => exact (RingRow.sysResume k).keepsDev_of_fault rfl hf
  | prnJobClose k => exact (RingRow.prnJobClose k).keepsDev_of_fault rfl hf
  | prnAbort k => exact (RingRow.prnAbort k).keepsDev_of_fault rfl hf
  | thmZoneMap k => exact (RingRow.thmZoneMap k).keepsDev_of_fault rfl hf
  | flr => exact .next (functionReset_keepsDev hr hs)
  | hotReset => exact .next (functionReset_keepsDev hr hs)
  | pcieLinkDown => exact .next (ite_keeps (linkLost_keepsDev hr hs) hs)
  | d3hotEntry => exact .next (ite_keeps (pcieGone_keepsDev hr (pcie_keepsDev _ hs)) hs)
  | bandFetchPoint b => exact execBandFetchPoint_keepsDev b hr hs
  | frameComplete f => exact execFrameComplete_keepsDev f hr hs
  | statusFrameRx l bs => exact execStatusFrameRx_keepsDev l bs hr hs
  | orderlyStopTargetHalt target => exact execOrderlyStopTargetHalt_keepsDev target hr hs
  | levelChange z i => exact execLevelChange_keepsDev z i hr hs
  | sensorState code => exact execSensorState_keepsDev code hr hs
  | triggerFire u adc => exact execTriggerFire_keepsDev u adc hr hs
  | watchdogExpiry => exact execWatchdogExpiry_keepsDev hf hs
  | clockFault ref => exact execClockFault_keepsDev ref hf hs
  | parityAlert ch sub w passed => exact execParityAlert_keepsDev ch sub w passed hf hs
  | memGrant ch reqs => exact execMemGrant_keepsDev ch reqs hf hs
  | trainingStepDone ch last best stored => exact execTrainingStepDone_keepsDev ch last best stored hf hs
  | rateChangeDone ch eye => exact execRateChangeDone_keepsDev ch eye hf hs
  | _ => exact absurd rfl hm

theorem execDieTrip_dev_of_fault (h : Int) (hf : s.top.dev = .fault) (ht : execDieTrip h s = .next t) :
    t.top.dev = .tripped := by
  rw [execDieTrip, if_neg (by simp [hf])] at ht
  cases ht
  rfl

/-- R21, R22: FAULT is left to RESET by a reset, or to TRIPPED by a die trip. -/
theorem exec_leaves_fault (c : Instr) (hf : s.top.dev = .fault) (ht : exec c s = .next t) (hne : t.top.dev ≠ .fault) :
    (t.top.dev = .reset ∧ (c = .sysrstAssert ∨ c = .internalReset ∨ ∃ st, c = .porstAssert st ∨ c = .powerOn st)) ∨
      (t.top.dev = .tripped ∧ ∃ h, c = .dieTrip h) := by
  cases hc : leavesFault c with
  | false => exact absurd (exec_fault_of_not_leavesFault c hc hf ht) hne
  | true =>
    cases c with
    | powerOn st =>
      cases ht
      exact .inl ⟨rfl, .inr (.inr ⟨st, .inr rfl⟩)⟩
    | porstAssert st =>
      simp only [exec, execPorstAssert, hf, reduceCtorEq, if_false] at ht
      cases ht
      exact .inl ⟨rfl, .inr (.inr ⟨st, .inl rfl⟩)⟩
    | sysrstAssert =>
      simp only [exec, execSysrstAssert, hf, reduceCtorEq, if_false] at ht
      cases ht
      exact .inl ⟨rfl, .inl rfl⟩
    | internalReset =>
      simp only [exec, execInternalReset] at ht
      split at ht
      · cases ht
        exact absurd hf hne
      · cases ht
        exact .inl ⟨rfl, .inr (.inl rfl)⟩
    | dieTrip h => exact .inr ⟨execDieTrip_dev_of_fault h hf ht, h, rfl⟩
    | _ => cases hc

/-- R22, R43, R44: the losses of the PCIe function leave a device state without output as it is. -/
theorem pcie_events_dev (hr : s.atRest) :
    ∃ t u v w, exec .flr s = .next t ∧ exec .hotReset s = .next u ∧ exec .d3hotEntry s = .next v ∧
      exec .pcieLinkDown s = .next w ∧ t.top.dev = s.top.dev ∧ u.top.dev = s.top.dev ∧ v.top.dev = s.top.dev ∧
      w.top.dev = s.top.dev :=
  have hs := Keeps.refl besideDev s
  ⟨_, _, _, _, rfl, rfl, rfl, rfl, (functionReset_keepsDev hr hs).dev_eq, (functionReset_keepsDev hr hs).dev_eq,
    (ite_keeps (pcieGone_keepsDev hr (pcie_keepsDev _ hs)) hs).dev_eq, (ite_keeps (linkLost_keepsDev hr hs) hs).dev_eq⟩

end

/-- Settles O7: every row without the device state in `mayChange` keeps it by its frame, and of the others each either is a
reset or a die trip, or does in FAULT nothing to the device state. -/
theorem faultLeftByResetAlone : Obligations.FaultLeftByResetAlone := by
  refine ⟨fun c s t => exec_leaves_fault c, fun s k => sysResume_of_fault k, fun s k => sysHalter_of_idle_or_boot k,
    fun s hd => pcie_events_dev ?_⟩
  rcases hd with h | h | h | h <;> simp [State.atRest, h]

end Sys2Proof.Machine
end

section
/-! The host's interface: refused accesses of BAR0 (R40), writes through BAR2 (R45, R46) and doorbells that are ignored (R50). -/

namespace Sys2Proof.Machine

/-! ### BAR0 accesses that are refused (R40) -/

section

variable {s : State} {off : Nat}

/-- Where the function answers, the access is logged, and a read is completed with Unsupported Request. -/
theorem execBar0BadAccess_of_alive (w : Bool) (ha : s.pcieAlive = true) (hw : s.pcie.wiping = false) :
    execBar0BadAccess w s =
      .next { s with pcie := { s.pcie with aerUr := true, reply := if w then s.pcie.reply else .unsupported } } := by
  simp [execBar0BadAccess, ha, hw]

theorem execBar0BadAccess_of_silent (w : Bool) (h : s.pcieAlive = false ∨ s.pcie.wiping = true) :
    execBar0BadAccess w s = .next s := by
  rcases h with h | h <;> simp [execBar0BadAccess, h]

theorem readAt_of_misaligned (ho : off < 2 ^ 24) (hm : off % 4 ≠ 0) : readAt off s = execBar0BadAccess false s := by
  rw [readAt, if_neg (Nat.not_le.mpr ho), if_pos hm]

theorem writeAt_of_misaligned (v : Word) (ho : off < 2 ^ 24) (hm : off % 4 ≠ 0) :
    writeAt off v s = execBar0BadAccess true s := by
  rw [writeAt, if_neg (Nat.not_le.mpr ho), if_pos hm]

end

/-! ### Writes through BAR2 (R45, R46) -/

section

variable (s : State) (off : Nat) (bs : List Byte)

@[simp] theorem dramStore_dram : (dramStore off bs s).dram = s.dram.setBytes off bs := rfl

/-- A store of no bytes covers no burst, so it ends no poison either. -/
theorem dramStore_nil : dramStore off [] s = s := by
  have h : (s.poison.filter fun e => !(decide (off ≤ 64 * e.1) && decide (64 * e.1 + 64 ≤ off + 0))) = s.poison :=
    List.filter_eq_self.mpr fun e _ => by simpa using show 64 * e.1 < off ∨ off < 64 * e.1 + 64 by omega
  unfold dramStore
  rw [List.length_nil, h]
  rfl

theorem dramStore_unless_empty : (if bs.isEmpty then s else dramStore off bs s) = dramStore off bs s := by
  cases bs with
  | nil => exact (dramStore_nil s off).symm
  | cons b t => rfl

/-- R45: the state with the writable bytes of a BAR2 write stored, those below the buffer table and those in the data area. -/
def storeWritable : State :=
  dramStore (max off 0x400000) (bs.drop (0x400000 - off)) (dramStore off (bs.take (0x200000 - off)) s)

theorem foldl_writableRuns :
    (writableRuns off bs).foldl (fun st r => if r.2.isEmpty then st else dramStore r.1 r.2 st) s = storeWritable s off bs := by
  simp only [writableRuns, List.foldl_cons, List.foldl_nil, dramStore_unless_empty]
  rfl

theorem storeWritable_byte_written {i : Nat} (hi : i < bs.length) (hw : off + i < 0x200000 ∨ 0x400000 ≤ off + i) :
    (storeWritable s off bs).dram.byte (off + i) = bs[i] := by
  rcases hw with hlo | hhi
  · have hout : off + i < max off 0x400000 := by omega
    have hin : i < (bs.take (0x200000 - off)).length := by rw [List.length_take]; omega
    rw [storeWritable, dramStore_dram, Memory.byte_setBytes_outside _ _ _ _ (.inl hout), dramStore_dram,
      Memory.byte_setBytes_inside _ _ _ _ hin, List.getElem_take]
  · have hsplit : off + i = max off 0x400000 + (i - (0x400000 - off)) := by
      omega
    have hin : i - (0x400000 - off) < (bs.drop (0x400000 - off)).length := by rw [List.length_drop]; omega
    rw [storeWritable, dramStore_dram, hsplit, Memory.byte_setBytes_inside _ _ _ _ hin, List.getElem_drop]
    congr 1
    omega

theorem storeWritable_byte_kept {a : Nat} (ha : a < off ∨ off + bs.length ≤ a ∨ (0x200000 ≤ a ∧ a < 0x400000)) :
    (storeWritable s off bs).dram.byte a = s.dram.byte a := by
  have hhi : a < max off 0x400000 ∨ max off 0x400000 + (bs.drop (0x400000 - off)).length ≤ a := by
    rw [List.length_drop]; omega
  have hlo : a < off ∨ off + (bs.take (0x200000 - off)).length ≤ a := by
    rw [List.length_take]; omega
  rw [storeWritable, dramStore_dram, Memory.byte_setBytes_outside _ _ _ _ hhi, dramStore_dram,
    Memory.byte_setBytes_outside _ _ _ _ hlo]

/-- A write is clipped when it is of some bytes and meets the regions from the buffer table up to the data area: the first
byte there is the write's own first or the buffer table's. -/
theorem any_unwritable_iff : ((List.range bs.length).any fun i => !windowWritable (off + i)) = true ↔
    off < 0x400000 ∧ 0x200000 < off + bs.length ∧ bs ≠ [] := by
  simp only [List.any_eq_true, List.mem_range, windowWritable, Bool.not_eq_true', Bool.or_eq_false_iff,
    decide_eq_false_iff_not, ← List.length_pos_iff]
  constructor
  · rintro ⟨i, hi, hr⟩
    omega
  · rintro ⟨hlt, hgt, hpos⟩
    exact ⟨0x200000 - off, by omega, by omega⟩

/-- R46: a write within the window stores its writable bytes and is counted once if it is clipped. -/
theorem exec_bar2Write_of_within (hb : s.blocksAnswer = true) (hw : off + bs.length ≤ s.lcs.inForce.windowGib * 2 ^ 30) :
    exec (.bar2Write off bs) s = .next { storeWritable s off bs with
      cmd := { s.cmd with
        winDrop := if off < 0x400000 ∧ 0x200000 < off + bs.length ∧ bs ≠ [] then Nat.min 65535 (s.cmd.winDrop + 1)
          else s.cmd.winDrop } } := by
  have hns : ¬ s.windowSize < off + bs.length := Nat.not_lt.mpr hw
  show execBar2Write off bs s = _
  simp only [execBar2Write, hb, Bool.not_true, Bool.false_eq_true, if_false, hns, foldl_writableRuns, any_unwritable_iff]
  split <;> rfl

end

/-! ### Doorbells (R50) -/

/-- A doorbell beyond the ring or of a disabled ring is counted as an ignored register write. -/
theorem exec_crDoorbell_ignored {s : State} {n : Nat} (v : Word) (hn : n < 8) (hb : s.blocksAnswer = true)
    (h : 2 ^ (s.cmdRing n).log2 ≤ v.toNat % 4096 ∨ (s.cmdRing n).enable = false) :
    exec (.crDoorbell n v) s = .next (regConflict (crCfgOff n + 4) s) := by
  have ht : bitsAt v.toNat 0 12 = v.toNat % 4096 := by simp [bitsAt]
  have hns : ¬ 7 < n := by omega
  show execCrDoorbell n v s = _
  rcases h with h | h <;> simp [execCrDoorbell, hb, hns, ht, h]

theorem regConflict_only_counts (off : Nat) (s : State) :
    { regConflict off s with top := { (regConflict off s).top with
        conflicts := s.top.conflicts, lastDword := s.top.lastDword } } = s := rfl

/-- Settles O12: the two runs of writable bytes lie outside each other and outside the regions between them, and some byte of the
write lies in those regions exactly when the write is counted. -/
theorem windowWrites : Obligations.WindowWrites := fun s off bs hb hw =>
  ⟨_, exec_bar2Write_of_within s off bs hb hw, fun _ hi => storeWritable_byte_written s off bs hi,
    fun _ ha => storeWritable_byte_kept s off bs ha, rfl, rfl, rfl, rfl⟩

/-- Settles O15: such a doorbell is an ignored register write. -/
theorem doorbellIgnored : Obligations.DoorbellIgnored := fun s _ v hn hb h =>
  ⟨_, exec_crDoorbell_ignored v hn hb h, rfl, regConflict_only_counts _ s⟩

/-- Settles O11: each misaligned access is a bad access of its kind. -/
theorem badBar0Access : Obligations.BadBar0Access := by
  refine ⟨fun s ha hw => ⟨execBar0BadAccess_of_alive false ha hw, execBar0BadAccess_of_alive true ha hw⟩,
    fun s off v ha hw ho hm => ?_, fun s w => execBar0BadAccess_of_silent w⟩
  have hr := (readAt_of_misaligned ho hm).trans (execBar0BadAccess_of_alive false ha hw)
  have hwr := (writeAt_of_misaligned v ho hm).trans (execBar0BadAccess_of_alive true ha hw)
  exact ⟨hr, hr, hwr, hwr⟩

end Sys2Proof.Machine
end

section
/-! What the print staging commands stage (R145, R146, R150 to R152, R155 to R159): PRN_LAYER_BIND, PRN_TONE_LOAD and
PRN_SCREEN_LOAD. -/

namespace Sys2Proof.Machine

/-! ### Bytes read from memory -/

/-- The bytes read are those of consecutive addresses. -/
theorem Memory.bytes_eq_map (m : Memory) (a n : Nat) : m.bytes a n = (List.range' a n).map m.byte := by
  induction n generalizing a with
  | zero => rfl
  | succ n ih => rw [Memory.bytes, List.range'_succ, List.map_cons, ih]

/-- A part of the bytes read is a read of its own. -/
theorem Memory.bytes_slice (m : Memory) (a : Nat) {n i k : Nat} (h : i + k ≤ n) :
    ((m.bytes a n).drop i).take k = m.bytes (a + i) k := by
  apply List.ext_getElem
  · simp [Memory.bytes_eq_map]
    omega
  · intro j _ _
    simp [Memory.bytes_eq_map, Nat.add_assoc]

theorem Memory.byteAt_bytes (m : Memory) (a : Nat) {n i : Nat} (h : i < n) : byteAt (m.bytes a n) i = (m.byte (a + i)).toNat := by
  simp [byteAt, Memory.bytes_eq_map, h]

/-- A part of the bytes read from a buffer is a read of its own. -/
theorem State.bufBytes_slice (s : State) (hd off : Nat) {n i k : Nat} (h : i + k ≤ n) :
    ((s.bufBytes hd off n).drop i).take k = s.bufBytes hd (off + i) k := by
  rw [State.bufBytes, Memory.bytes_slice _ _ h, Nat.add_assoc, State.bufBytes]

theorem State.bufBytes_one_eq_zero (s : State) (hd off : Nat) {n i : Nat} (h : i < n) :
    s.bufBytes hd (off + i) 1 = [0] ↔ byteAt (s.bufBytes hd off n) i = 0 := by
  simp [State.bufBytes, Memory.byteAt_bytes _ _ h, Memory.bytes, Nat.add_assoc, ← BitVec.toNat_inj]

theorem State.bufBytes_two_eq_zeros (s : State) (hd off : Nat) :
    s.bufBytes hd off 2 = [0, 0] ↔ s.bufBytes hd off 1 = [0] ∧ s.bufBytes hd (off + 1) 1 = [0] := by
  simp [State.bufBytes, Memory.bytes, Nat.add_assoc]

/-! ### The first fault of an image (R541) -/

theorem firstOf_eq_findSome? (l : List PF) : firstOf l = l.findSome? id := by
  induction l with
  | nil => rfl
  | cons a t ih => cases a <;> simp [firstOf, ih]

/-- A span without a non-zero byte has no fault. -/
theorem imgZero_eq_none (img : List Byte) (a b : Nat) : imgZero img a b = none ↔ ∀ c, a ≤ c → c < b → byteAt img c = 0 := by
  simp only [imgZero, Option.map_eq_none_iff, List.find?_range_eq_none, Bool.not_eq_true', bne_eq_false_iff_eq]
  constructor
  · intro h c hac hcb
    simpa [Nat.add_sub_cancel' hac] using h (c - a) (by omega)
  · exact fun h i hi => h (a + i) (by omega) (by omega)

/-- The fault of a span is its first non-zero byte. -/
theorem imgZero_eq_some {img : List Byte} {a b c : Nat} (hac : a ≤ c) (hcb : c < b) (hc : byteAt img c ≠ 0)
    (hlt : ∀ j, a ≤ j → j < c → byteAt img j = 0) : imgZero img a b = some (c, Rsn.reserved) := by
  have hfind : (List.range (b - a)).find? (fun i => byteAt img (a + i) != 0) = some (c - a) := by
    rw [List.find?_range_eq_some]
    refine ⟨by simpa [Nat.add_sub_cancel' hac] using hc, List.mem_range.mpr (by omega), fun j hj => ?_⟩
    simp [hlt (a + j) (by omega) (by omega)]
  rw [imgZero, hfind, Option.map_some, Nat.add_sub_cancel' hac]

/-- R150: images without a reserved byte that is set have no fault. -/
theorem toneReserved_eq_none (bs : List Byte) (n : Nat) :
    toneReserved bs n = none ↔ ∀ c, c < 2052 * n → 2050 ≤ c % 2052 → byteAt bs c = 0 := by
  simp only [toneReserved, firstOf_eq_findSome?, List.findSome?_map, List.findSome?_eq_none_iff, List.mem_range,
    Function.comp_apply, id_eq, imgZero_eq_none]
  constructor
  · exact fun h c hc hr => h (c / 2052) (by omega) c (by omega) (by omega)
  · exact fun h i hi c hac hcb => h c (by omega) (by omega)

/-- R541: the fault of the images is the first reserved byte that is set. -/
theorem toneReserved_eq_some {bs : List Byte} {n c : Nat} (hc : c < 2052 * n) (hr : 2050 ≤ c % 2052) (hb : byteAt bs c ≠ 0)
    (hlt : ∀ j, j < c → 2050 ≤ j % 2052 → byteAt bs j = 0) : toneReserved bs n = some (c, Rsn.reserved) := by
  obtain ⟨r, rfl⟩ : ∃ r, n = c / 2052 + (r + 1) := ⟨n - c / 2052 - 1, by omega⟩
  rw [toneReserved, List.range_add, List.range_succ_eq_map, firstOf_eq_findSome?, List.map_append, List.findSome?_append,
    ← firstOf_eq_findSome?, ← toneReserved, (toneReserved_eq_none _ _).mpr fun j hj => hlt j (by omega)]
  simp [imgZero_eq_some (b := 2052 * (c / 2052) + 2052) (show 2052 * (c / 2052) + 2050 ≤ c by omega) (by omega) hb
    fun j hj hjc => hlt j hjc (by omega)]

/-! ### Layers (R146) -/

theorem get_bindInto_same (n : Nat) (l : Layer) (t : Tab Layer) : Tab.get {} (bindInto n l t) n = l := Tab.get_put_same ..

/-- Another layer, after a layer is bound. -/
theorem get_bindInto_ne {n m : Nat} (l : Layer) (t : Tab Layer) (h : m ≠ n) :
    Tab.get {} (bindInto n l t) m =
      if (Tab.get {} t m).bound = true ∧ (Tab.get {} t m).z = l.z then
        if (Tab.get {} t n).bound = true then { Tab.get {} t m with z := (Tab.get {} t n).z } else {}
      else Tab.get {} t m := by
  rw [bindInto, Tab.get_put_ne _ _ _ _ _ h, Tab.get_mapv _ _ _ _ (by simp)]
  simp [h]

/-! ### Tables put at consecutive keys (R151) -/

/-- Each key of the load has its table, every other key what it had. -/
theorem get_putTables (key n id : Nat) (bs : List Byte) (ident : Bool) (t : Tab Loaded) (m : Nat) :
    Tab.get {} (putTables key n id bs ident t) m =
      if key ≤ m ∧ m < key + n then
        if ident = true then {} else { id := id + (m - key), data := halfwords ((bs.drop (2052 * (m - key))).take 2050) }
      else Tab.get {} t m := by
  induction n with
  | zero => rw [if_neg (by omega)]; rfl
  | succ n ih =>
    rw [putTables, List.range_succ, List.foldl_append, ← putTables]
    by_cases hm : m = key + n
    · subst hm
      simp
    · rw [List.foldl_cons, List.foldl_nil, Tab.get_put_ne _ _ _ _ _ hm, ih]
      simp only [show key ≤ m ∧ m < key + (n + 1) ↔ key ≤ m ∧ m < key + n by omega]

/-- R151: the table read back from a load out of a buffer. -/
theorem data_putTables (key n id : Nat) (s : State) (hd off : Nat) (ident : Bool) (t : Tab Loaded) {i : Nat} (hi : i < n) :
    (Tab.get {} (putTables key n id (s.bufBytes hd off (2052 * n)) ident t) (key + i)).data =
      if ident = true then [] else halfwords (s.bufBytes hd (off + 2052 * i) 2050) := by
  rw [get_putTables, if_pos (by omega), Nat.add_sub_cancel_left]
  split
  · rfl
  · rw [State.bufBytes_slice _ _ _ (by omega)]

/-! ### Commands that stage or are turned away -/

/-- A command turned away with its slot alone begun has its record, and all else is as it was. -/
theorem complete_begun (k st det res : Nat) (s : State) :
    Completed k s (complete k st det res none (s.begun k)) st det res ∧
      Keeps (fun p => p == .slots || p == .records) s (complete k st det res none (s.begun k)) :=
  ⟨complete_completed s k st det res none _ (State.begun_slot s k),
    complete_keeps _ _ _ _ _ _ rfl rfl (State.setSlot_keeps _ _ _ rfl (Keeps.refl _ _))⟩

@[simp] theorem State.begun_bufBytes (s : State) (k hd off n : Nat) : (s.begun k).bufBytes hd off n = s.bufBytes hd off n := rfl

/-- R55, R109: a command that stages has its record, and the staged print configuration is the one thing of the frames it changes. -/
theorem exec_stages {i : Instr} {k : Nat} {s r : State} {f : PrintCfg → PrintCfg} (he : exec i s = .next (done k (r.stage f)))
    (hslot : r.slot k = { s.slot k with phase := .executing }) (hfr : r.frames = s.frames) :
    ∃ t, exec i s = .next t ∧ Completed k s t 0x00 0 0 ∧ t.staged = f s.staged ∧
      t.frames = { s.frames with staged := { s.frames.staged with prn := f s.staged } } ∧ t.prn = r.prn := by
  have hf : (done k (r.stage f)).frames = { s.frames with staged := { s.frames.staged with prn := f s.staged } } :=
    (done_frames _ _).trans (by rw [State.staged, ← hfr]; rfl)
  exact ⟨_, he, complete_completed s k _ _ _ none _ hslot, congrArg (fun x => x.staged.prn) hf, hf, done_prn _ _⟩

/-! ### PRN_LAYER_BIND (R145, R146) -/

/-- The layers after the command: BIND, UNBIND or REBIND by its action. -/
def layersAfter (d : Slot) (t : Tab Layer) : Tab Layer :=
  if d.u 9 1 = 1 then bindInto (d.u 8 1) (bindLayer d) t
  else if d.u 9 1 = 2 then Tab.put {} t (d.u 8 1) {}
  else Tab.upd {} t (d.u 8 1) fun l => { l with handle := d.u 14 2 }

theorem exec_prnLayerBind_of_accepted {k : Nat} {s : State} (h : Accepted 0x0301 layerBindChecks k s) :
    exec (.prnLayerBind k) s =
      .next (done k ((s.begun k).stage fun c => { c with layers := layersAfter (s.slot k) c.layers })) := by
  show execPrnLayerBind k s = _
  rw [execPrnLayerBind, runCmd_accepted _ _ _ _ _ h]
  rfl

theorem prnLayerBind_stages {k : Nat} {s : State} (h : Accepted 0x0301 layerBindChecks k s) :
    ∃ t, exec (.prnLayerBind k) s = .next t ∧ Completed k s t 0x00 0 0 ∧
      t.staged.layers = layersAfter (s.slot k) s.staged.layers ∧
      t.frames = { s.frames with staged := { s.frames.staged with prn := { s.staged with layers := t.staged.layers } } } ∧
      t.prn = s.prn := by
  obtain ⟨t, he, hd, hs, hf, hp⟩ := exec_stages (exec_prnLayerBind_of_accepted h) (State.begun_slot s k) rfl
  exact ⟨t, he, hd, by rw [hs], by rw [hf, hs], hp⟩

/-! ### PRN_TONE_LOAD (R150 to R152, R159) -/

/-- The command sets its tables to IDENTITY. -/
def toneIdent (d : Slot) : Bool := bitAt (d.u 13 1) 0

/-- The images the command names. -/
def toneImages (d : Slot) (s : State) : List Byte := s.bufBytes (d.u 14 2) (d.u 16 8) (2052 * d.u 12 1)

/-- The first reserved byte that is set in the images the command loads. -/
def toneFault (d : Slot) (s : State) : PF := if toneIdent d then none else toneReserved (toneImages d s) (d.u 12 1)

/-- The pool has no room for the tables the command loads. -/
def toneFull (d : Slot) (s : State) : Bool := !toneIdent d && decide (s.tablesFree < d.u 12 1)

/-- Colour keeping holds the table the command loads. -/
def toneHeld (d : Slot) (s : State) : Bool := decide (d.u 8 1 = 2) && bitAt s.prn.colourHeld (d.u 10 1)

/-- The configuration with the command's tables: those of its layer and channel, of its channel, or of its channel and density
classes. -/
def loadTones (d : Slot) (id : Nat) (bs : List Byte) (c : PrintCfg) : PrintCfg :=
  if d.u 8 1 = 1 then { c with pre := putTables (d.u 9 1 * 16 + d.u 10 1) 1 id bs (toneIdent d) c.pre }
  else if d.u 8 1 = 2 then { c with post := putTables (d.u 10 1) 1 id bs (toneIdent d) c.post }
  else { c with comp := putTables (d.u 10 1 * 64 + d.u 11 1) (d.u 12 1) id bs (toneIdent d) c.comp }

section

variable {d : Slot} {s : State} {c : Nat}

/-- No image of the load has a reserved byte that is set. -/
theorem toneFault_eq_none (h : toneIdent d = true ∨ ∀ i, i < d.u 12 1 →
    s.bufBytes (d.u 14 2) (d.u 16 8 + 2052 * i + 2050) 2 = [0, 0]) : toneFault d s = none := by
  rcases h with hi | hz
  · rw [toneFault, if_pos hi]
  · rw [toneFault, (toneReserved_eq_none _ _).mpr, ite_self]
    intro c hc hr
    obtain ⟨h0, h1⟩ := (s.bufBytes_two_eq_zeros _ _).mp (hz (c / 2052) (by omega))
    rw [toneImages, ← s.bufBytes_one_eq_zero _ _ hc]
    obtain hm | hm : c = 2052 * (c / 2052) + 2050 ∨ c = 2052 * (c / 2052) + 2050 + 1 := by omega
    · rw [hm, ← Nat.add_assoc, h0]
    · rw [hm, ← Nat.add_assoc, ← Nat.add_assoc, h1]

/-- The first reserved byte that is set. -/
theorem toneFault_eq_some (hi : toneIdent d = false) (hc : c < 2052 * d.u 12 1) (hr : 2050 ≤ c % 2052)
    (hb : s.bufBytes (d.u 14 2) (d.u 16 8 + c) 1 ≠ [0])
    (hlt : ∀ j, j < c → 2050 ≤ j % 2052 → s.bufBytes (d.u 14 2) (d.u 16 8 + j) 1 = [0]) :
    toneFault d s = some (c, Rsn.reserved) := by
  rw [toneFault, hi, if_neg Bool.false_ne_true]
  exact toneReserved_eq_some hc hr (mt (s.bufBytes_one_eq_zero _ _ hc).mpr hb)
    fun j hj hjr => (s.bufBytes_one_eq_zero _ _ (by omega)).mp (hlt j hj hjr)

theorem toneFull_eq_false (h : toneIdent d = true ∨ d.u 12 1 ≤ s.tablesFree) : toneFull d s = false := by
  rcases h with hi | hp
  · simp [toneFull, hi]
  · simp [toneFull, hp]

variable (d) (id : Nat) (bs : List Byte) (cfg : PrintCfg)

/-- A load changes tables alone. -/
theorem loadTones_eq : loadTones d id bs cfg = { cfg with
    pre := (loadTones d id bs cfg).pre, post := (loadTones d id bs cfg).post, comp := (loadTones d id bs cfg).comp } := by
  unfold loadTones
  split
  · rfl
  · split <;> rfl

/-- A load of another kind leaves the pre-blend tables alone. -/
theorem loadTones_pre (h : d.u 8 1 ≠ 1) : (loadTones d id bs cfg).pre = cfg.pre := by
  rw [loadTones, if_neg h]
  split <;> rfl

/-- A load of another kind leaves the post-blend tables alone. -/
theorem loadTones_post (h : d.u 8 1 ≠ 2) : (loadTones d id bs cfg).post = cfg.post := by
  rw [loadTones, if_neg h]
  split <;> rfl

/-- A load of another kind leaves the compensation curves alone. -/
theorem loadTones_comp (h : d.u 8 1 = 1 ∨ d.u 8 1 = 2) : (loadTones d id bs cfg).comp = cfg.comp := by
  rw [loadTones]
  rcases h with h | h <;> simp [h]

/-- The tables of the load's own kind, from its key on. -/
theorem tab_loadTones {tab : PrintCfg → Tab Loaded} {key : Nat} (hn : d.u 8 1 ≠ 3 → d.u 12 1 = 1)
    (h : (d.u 8 1 = 1 ∧ tab = PrintCfg.pre ∧ key = d.u 9 1 * 16 + d.u 10 1) ∨
      (d.u 8 1 = 2 ∧ tab = PrintCfg.post ∧ key = d.u 10 1) ∨
      (d.u 8 1 = 3 ∧ tab = PrintCfg.comp ∧ key = d.u 10 1 * 64 + d.u 11 1)) :
    tab (loadTones d id bs cfg) = putTables key (d.u 12 1) id bs (toneIdent d) (tab cfg) := by
  rcases h with ⟨hk, rfl, rfl⟩ | ⟨hk, rfl, rfl⟩ | ⟨hk, rfl, rfl⟩
  · rw [loadTones, if_pos hk, hn (by omega)]
  · rw [loadTones, if_neg (by omega), if_pos hk, hn (by omega)]
  · rw [loadTones, if_neg (by omega), if_neg (by omega)]

end

section

variable {k : Nat} {s : State} (h : Accepted 0x0302 toneChecks k s)

include h

/-- R151: KIND is PRE, POST or COMP. -/
theorem toneKind_of_accepted : 1 ≤ (s.slot k).u 8 1 ∧ (s.slot k).u 8 1 ≤ 3 :=
  (inR_none _ _ _ _).mp (firstFailure_none _ _ _ h.checks).2.1

/-- R151: COUNT is 1 but for COMP. -/
theorem toneCount_of_accepted (hk : (s.slot k).u 8 1 ≠ 3) : (s.slot k).u 12 1 = 1 := by
  obtain ⟨_, _, hp⟩ := firstFailure_none _ _ _ h.checks
  have hcount := hp (need ((s.slot k).u 12 1 == 1) 12 Rsn.range) (by simp [toneChecks, toneParams, hk])
  exact beq_iff_eq.mp ((need_none _ _ _).mp hcount)

/-- R152. -/
theorem exec_prnToneLoad_of_held (hh : toneHeld (s.slot k) s = true) :
    exec (.prnToneLoad k) s = .next (resourceBusy k 0x0902 (s.begun k)) := by
  show execPrnToneLoad k s = _
  rw [execPrnToneLoad, runCmd_accepted _ _ _ _ _ h]
  exact congrArg _ (if_pos hh)

variable (hh : toneHeld (s.slot k) s = false)

include hh

/-- R541: a reserved byte is set. -/
theorem exec_prnToneLoad_of_fault {f : Nat × Nat} (hf : toneFault (s.slot k) s = some f) :
    exec (.prnToneLoad k) s = .next (badImage k 16 f.2 f.1 (s.begun k)) := by
  show execPrnToneLoad k s = _
  rw [toneHeld] at hh
  rw [toneFault, toneIdent, toneImages] at hf
  rw [execPrnToneLoad, runCmd_accepted _ _ _ _ _ h]
  simp only [State.begun_prn, State.begun_bufBytes, hh, hf, Bool.false_eq_true, if_false]

/-- R151, R159: without such a byte the tables are staged, if the pool has room for them. -/
theorem exec_prnToneLoad_of_noFault (hf : toneFault (s.slot k) s = none) :
    exec (.prnToneLoad k) s = .next (if toneFull (s.slot k) s = true then resourceBusy k 0x0304 (s.begun k)
      else done k ((newLoads ((s.slot k).u 12 1) (s.begun k)).stage
        (loadTones (s.slot k) s.prn.nextLoad (toneImages (s.slot k) s)))) := by
  show execPrnToneLoad k s = _
  rw [toneHeld] at hh
  rw [toneFault, toneIdent, toneImages] at hf
  rw [execPrnToneLoad, runCmd_accepted _ _ _ _ _ h]
  simp only [State.begun_prn, State.begun_bufBytes, hh, hf, Bool.false_eq_true, if_false]
  rfl

/-- R151: the load takes its place in what is staged. -/
theorem prnToneLoad_stages (hf : toneFault (s.slot k) s = none) (hp : toneFull (s.slot k) s = false) :
    ∃ t, exec (.prnToneLoad k) s = .next t ∧ Completed k s t 0x00 0 0 ∧
      t.staged = loadTones (s.slot k) s.prn.nextLoad (toneImages (s.slot k) s) s.staged ∧
      t.frames = { s.frames with staged := { s.frames.staged with
        prn := loadTones (s.slot k) s.prn.nextLoad (toneImages (s.slot k) s) s.staged } } := by
  have he := exec_prnToneLoad_of_noFault h hh hf
  rw [if_neg (ne_true_of_eq_false hp)] at he
  obtain ⟨t, he, hd, hs, hfr, -⟩ := exec_stages he (State.begun_slot s k) rfl
  exact ⟨t, he, hd, hs, hfr⟩

end

/-! ### PRN_SCREEN_LOAD (R155, R156, R158, R159) -/

section

variable {k : Nat} {s : State} (h : Accepted 0x0303 screenChecks k s)

/-- The cells of the array the command names. -/
def screenCells (d : Slot) (s : State) : List Nat := halfwords (s.bufBytes (d.u 10 2) (d.u 16 8) 393216)

/-- The screen parameters the command gives. -/
def screenParameters (d : Slot) : Screen :=
  { phaseX := d.u 24 1, phaseY := d.u 25 1, stepX := d.u 26 1, stepY := d.u 27 1, gain := d.u 28 2, reach := d.u 30 1 }

include h

/-- R158: a cell breaks t1 ≤ t2 ≤ t3. -/
theorem exec_prnScreenLoad_of_badCell {i : Nat} (ha : (s.slot k).u 9 1 = 1) (hb : badCell 0 (screenCells (s.slot k) s) = some i) :
    exec (.prnScreenLoad k) s = .next (badImage k 16 Rsn.range i (s.begun k)) := by
  show execPrnScreenLoad k s = _
  rw [screenCells] at hb
  rw [execPrnScreenLoad, runCmd_accepted _ _ _ _ _ h]
  simp only [State.begun_bufBytes, ha, hb, if_true]

/-- R158, R159: without such a cell the array is staged, if the pool has room for it. -/
theorem exec_prnScreenLoad_of_noBadCell (ha : (s.slot k).u 9 1 = 1) (hb : badCell 0 (screenCells (s.slot k) s) = none) :
    exec (.prnScreenLoad k) s = .next (if s.arraysFree = 0 then resourceBusy k 0x0304 (s.begun k)
      else done k ((newLoads 1 (s.begun k)).stage fun c =>
        { c with arrays := Tab.put {} c.arrays ((s.slot k).u 8 1) { id := s.prn.nextLoad, data := screenCells (s.slot k) s } })) := by
  show execPrnScreenLoad k s = _
  rw [screenCells] at hb
  rw [execPrnScreenLoad, runCmd_accepted _ _ _ _ _ h]
  simp only [State.begun_bufBytes, ha, hb, if_true]
  rfl

/-- R156: DEFAULT. -/
theorem exec_prnScreenLoad_of_default (ha : (s.slot k).u 9 1 = 2) :
    exec (.prnScreenLoad k) s = .next (done k ((s.begun k).stage fun c =>
      { c with arrays := Tab.put {} c.arrays ((s.slot k).u 8 1) {} })) := by
  show execPrnScreenLoad k s = _
  rw [execPrnScreenLoad, runCmd_accepted _ _ _ _ _ h]
  simp [ha]

/-- R158: PARAMS. -/
theorem exec_prnScreenLoad_of_params (ha : (s.slot k).u 9 1 = 3) :
    exec (.prnScreenLoad k) s = .next (done k ((s.begun k).stage fun c =>
      { c with screens := Tab.put {} c.screens ((s.slot k).u 8 1) (screenParameters (s.slot k)) })) := by
  show execPrnScreenLoad k s = _
  rw [execPrnScreenLoad, runCmd_accepted _ _ _ _ _ h]
  simp [ha, screenParameters]

end

/-- Settles O31: each command stages what its form gives, the bytes being those of the buffer then, or is turned away for the first
reserved byte that is set, for the first bad cell or for the pool. -/
theorem printStaging : Obligations.PrintStaging := by
  refine ⟨fun s k n h ha hn => ?bind, fun s k h ha => ?unbind, fun s k h ha => ?rebind, fun s k key tab h hk hr => ?tables,
    fun s k h hk hc => ?held, fun s k i h hc hi hlt hr hb hz => ?reserved, fun s k h hc hi hp hz => ?noTables,
    fun s k h ha hp hb => ?array, fun s k st det res h ha hr => ?noArray, fun s k h ha => ?default, fun s k h ha => ?params⟩
  case bind =>
    subst hn
    obtain ⟨t, he, hd, hl, hf, hp⟩ := prnLayerBind_stages h
    rw [layersAfter, if_pos ha] at hl
    refine ⟨t, he, hd, by rw [hl, get_bindInto_same]; rfl, fun m hm hz => ?_, fun m hm hb hz => ?_, hf, hp⟩
    · rw [hl, get_bindInto_ne _ _ hm, if_neg]
      rintro ⟨hb, hz'⟩
      exact hz.elim (ne_false_of_eq_true hb) (absurd hz')
    · rw [hl, get_bindInto_ne _ _ hm, if_pos ⟨hb, hz⟩]
  case unbind =>
    obtain ⟨t, he, hd, hl, hf, hp⟩ := prnLayerBind_stages h
    rw [layersAfter, if_neg (by omega), if_pos ha] at hl
    exact ⟨t, he, hd, by rw [hl, Tab.get_put_same], fun m hm => by rw [hl, Tab.get_put_ne _ _ _ _ _ hm], hf, hp⟩
  case rebind =>
    obtain ⟨t, he, hd, hl, hf, hp⟩ := prnLayerBind_stages h
    rw [layersAfter, if_neg (by omega), if_neg (by omega), Tab.upd] at hl
    exact ⟨t, he, hd, by rw [hl, Tab.get_put_same], fun m hm => by rw [hl, Tab.get_put_ne _ _ _ _ _ hm], hf, hp⟩
  case tables =>
    have hh : toneHeld (s.slot k) s = false := by
      rcases hk with ⟨hk, -⟩ | ⟨-, -, -, hc⟩ | ⟨hk, -⟩ <;> simp [toneHeld, *]
    obtain ⟨t, he, hd, hs, hf⟩ :=
      prnToneLoad_stages h hh (toneFault_eq_none (hr.imp_right And.right)) (toneFull_eq_false (hr.imp_right And.left))
    have ht := tab_loadTones (s.slot k) s.prn.nextLoad (toneImages (s.slot k) s) s.staged (toneCount_of_accepted h)
      (hk.imp_right (Or.imp_left fun ⟨hkind, htab, hkey, _⟩ => ⟨hkind, htab, hkey⟩))
    rw [← hs] at ht
    refine ⟨t, he, hd, fun i hi => ?_, fun m hm => ?_, fun hn => ?_, fun hn => ?_, fun hn => ?_, ?_⟩
    · rw [ht, toneImages, data_putTables _ _ _ _ _ _ _ _ hi]
      rfl
    · rw [ht, get_putTables, if_neg (by omega)]
    · rw [hs, loadTones_pre _ _ _ _ hn]
    · rw [hs, loadTones_post _ _ _ _ hn]
    · rw [hs, loadTones_comp _ _ _ _ (by omega)]
    · rw [hf, hs, ← loadTones_eq]
  case held => exact ⟨_, exec_prnToneLoad_of_held h (by simp [toneHeld, hk, hc]), complete_begun _ _ _ _ _⟩
  case reserved =>
    exact ⟨_, exec_prnToneLoad_of_fault h (by simpa [toneHeld] using hc) (toneFault_eq_some hi hlt hr hb hz),
      complete_begun _ _ _ _ _⟩
  case noTables =>
    have he := exec_prnToneLoad_of_noFault h (by simpa [toneHeld] using hc) (toneFault_eq_none (.inr hz))
    rw [if_pos (by simp [toneFull, toneIdent, hi, hp])] at he
    exact ⟨_, he, complete_begun _ _ _ _ _⟩
  case array =>
    have he := exec_prnScreenLoad_of_noBadCell h ha hb
    rw [if_neg (by omega)] at he
    obtain ⟨t, he, hd, hs, hf, -⟩ := exec_stages he (State.begun_slot s k) rfl
    exact ⟨t, he, hd, by rw [hs, Tab.get_put_same]; rfl, fun m hm => by rw [hs, Tab.get_put_ne _ _ _ _ _ hm], by rw [hf, hs]⟩
  case noArray =>
    rcases hr with ⟨hb, rfl, rfl⟩ | ⟨hb, hp, rfl, rfl, rfl⟩
    · exact ⟨_, exec_prnScreenLoad_of_badCell h ha hb, complete_begun _ _ _ _ _⟩
    · have he := exec_prnScreenLoad_of_noBadCell h ha hb
      rw [if_pos hp] at he
      exact ⟨_, he, complete_begun _ _ _ _ _⟩
  case default =>
    obtain ⟨t, he, hd, hs, hf, -⟩ := exec_stages (exec_prnScreenLoad_of_default h ha) (State.begun_slot s k) rfl
    exact ⟨t, he, hd, by rw [hs, Tab.get_put_same], fun m hm => by rw [hs, Tab.get_put_ne _ _ _ _ _ hm], by rw [hf, hs]⟩
  case params =>
    obtain ⟨t, he, hd, hs, hf, -⟩ := exec_stages (exec_prnScreenLoad_of_params h ha) (State.begun_slot s k) rfl
    exact ⟨t, he, hd, by rw [hs, Tab.get_put_same]; rfl, fun m hm => by rw [hs, Tab.get_put_ne _ _ _ _ _ hm], by rw [hf, hs]⟩

end Sys2Proof.Machine
end

section
/-! What the light-field commands stage and how the scan is set (R240, R243 to R255, R265, R272 to R276, R289, R294):
LFR_SCENE_BIND, LFR_RAYMAP_LOAD, LFR_EMITTER_CAL_LOAD, LFR_LUT_LOAD, SCAN_TIMING, SCAN_POWER_POLICY and SCAN_SPLIT_CONFIG. -/

namespace Sys2Proof.Machine

/-! ### Staging the light-field configuration -/

@[simp] theorem State.begun_stagedLf (s : State) (k : Nat) : (s.begun k).stagedLf = s.stagedLf := rfl

@[simp] theorem State.stageLf_stagedLf (s : State) (f : LfCfg → LfCfg) : (s.stageLf f).stagedLf = f s.stagedLf := rfl

@[simp] theorem State.stageLf_scan (s : State) (f : LfCfg → LfCfg) : (s.stageLf f).scan = s.scan := rfl

@[simp] theorem State.withScan_stagedLf (s : State) (f : Scan → Scan) : (s.withScan f).stagedLf = s.stagedLf := rfl

@[simp] theorem newLoads_stagedLf (n : Nat) (s : State) : (newLoads n s).stagedLf = s.stagedLf := rfl

/-- R55: a command that ends with ST_OK has its record, with what it staged, its frames and its scan as it left them. -/
theorem exec_done {i : Instr} {k : Nat} {s r : State} (he : exec i s = .next (done k r))
    (hslot : r.slot k = { s.slot k with phase := .executing }) :
    ∃ t, exec i s = .next t ∧ Completed k s t 0x00 0 0 ∧ t.stagedLf = r.stagedLf ∧ t.frames = r.frames ∧ t.scan = r.scan :=
  ⟨_, he, complete_completed s k _ _ _ none _ hslot, congrArg (fun x => x.staged.lf) (done_frames k r), done_frames k r,
    done_scan k r⟩

/-! ### Refusals of an accepted command -/

/-- The state after a command is refused with this status, DETAIL and RESULT. -/
def turnAway (k : Nat) (s : State) (a : Nat × Nat × Nat) : State := complete k a.1 a.2.1 a.2.2 none (s.begun k)

/-- R541: the status, DETAIL and RESULT for the fault of an image. -/
def imageRefusal (f : Nat × Nat) : Nat × Nat × Nat := (0x11, 16 + 256 * f.2, f.1)

/-- R252: a light-field calibration holds the ray map and the emitter table. -/
def heldRefusal (s : State) : Option (Nat × Nat × Nat) := if s.cal.lfRun = true then some (0x14, 0x0901, 0) else none

section

variable {i : Instr} {k : Nat} {s r : State} {o : Option (Nat × Nat × Nat)}

theorem exec_of_no_refusal (he : exec i s = .next (o.elim r (turnAway k s))) (ho : o = none) : exec i s = .next r := by
  rw [he, ho, Option.elim_none]

/-- A refused command has its record, and all else is as it was. -/
theorem exec_refused {st det res : Nat} (he : exec i s = .next (o.elim r (turnAway k s))) (ho : o = some (st, det, res)) :
    ∃ t, exec i s = .next t ∧ Completed k s t st det res ∧ Keeps (fun p => p == .slots || p == .records) s t :=
  ⟨_, by rw [he, ho, Option.elim_some, turnAway], complete_begun _ _ _ _ _⟩

end

/-! ### LFR_SCENE_BIND (R240, R243, R244) -/

/-- R240: another plane, after a plane is bound: only an overlay displaced from its ORDER by an overlay is changed. -/
theorem get_bindPlaneInto_ne {n m : Nat} (p : Plane) (t : Tab Plane) (h : m ≠ n) :
    Tab.get {} (bindPlaneInto n p t) m =
      if 64 ≤ n ∧ 64 ≤ m ∧ (Tab.get {} t m).bound = true ∧ (Tab.get {} t m).order = p.order then
        if (Tab.get {} t n).bound = true then { Tab.get {} t m with order := (Tab.get {} t n).order } else {}
      else Tab.get {} t m := by
  rw [bindPlaneInto, Tab.get_put_ne _ _ _ _ _ h]
  by_cases hn : n < 64
  · rw [if_pos hn, if_neg (by omega)]
  · rw [if_neg hn, Tab.get_mapv _ _ _ _ (by simp)]
    simp [h, Nat.le_of_not_lt hn, and_assoc]

/-- The configuration after the command: BIND, UNBIND, REBIND or BACKGROUND by its action. -/
def sceneStaged (d : Slot) (c : LfCfg) : LfCfg :=
  if d.u 9 1 = 1 then { c with planes := bindPlaneInto (d.u 8 1) (bindPlane d) c.planes }
  else if d.u 9 1 = 2 then { c with planes := Tab.put {} c.planes (d.u 8 1) {} }
  else if d.u 9 1 = 3 then { c with planes := Tab.upd {} c.planes (d.u 8 1) fun p => { p with handle := d.u 12 2 } }
  else { c with bgR := d.u 24 2, bgG := d.u 26 2, bgB := d.u 28 2, temporal := d.u 30 1 == 1, marginUs := d.u 32 2 }

theorem lfrSceneBind_stages {k : Nat} {s : State} (h : Accepted 0x0600 sceneChecks k s) :
    ∃ t, exec (.lfrSceneBind k) s = .next t ∧ Completed k s t 0x00 0 0 ∧ t.stagedLf = sceneStaged (s.slot k) s.stagedLf ∧
      t.frames.commits = s.frames.commits := by
  have he : exec (.lfrSceneBind k) s = .next (done k ((s.begun k).stageLf (sceneStaged (s.slot k)))) := by
    show execLfrSceneBind k s = _
    rw [execLfrSceneBind, runCmd_accepted _ _ _ _ _ h]
    rfl
  obtain ⟨t, he, hd, hs, hf, -⟩ := exec_done he (State.begun_slot s k)
  exact ⟨t, he, hd, hs, by rw [hf]; rfl⟩

/-! ### LFR_RAYMAP_LOAD (R246, R247, R250, R252, R265) -/

/-- The image the command names, up to the end of its buffer. -/
def rayMapImage (d : Slot) (s : State) : List Byte := s.bufBytes (d.u 8 2) (d.u 16 8) ((s.buf (d.u 8 2)).size - d.u 16 8)

/-- The first reason to refuse a ray map: the calibration that holds it, the fields that count its emitters, their number,
its other fields, the pool. -/
def rayMapRefusal (img : List Byte) (m : RayMap) (s : State) : Option (Nat × Nat × Nat) :=
  (heldRefusal s).or <| ((rayCountFault img).map imageRefusal).or <|
    (if s.fuse.part.emitterLimit < m.emitters then some (0x11, 0x0710, 0) else none).or <|
    ((firstOf [rayHeaderFault img m img.length, earlierFault (regionFault img) (recordsFault img m)]).map imageRefusal).or <|
    if 8 ≤ s.regionsUsed then some (0x14, 0x0701, 0) else none

/-- R250: a ray map of another number of emitters takes the emitter table with it. -/
theorem stageRayMap_stagedLf (m : RayMap) (s : State) :
    (stageRayMap m s).stagedLf = { s.stagedLf with
      map := { m with load := s.scan.mapLoad }
      gain := if s.stagedLf.map.emitters = m.emitters then s.stagedLf.gain else { load := s.scan.mapLoad + 1 } } := by
  rw [stageRayMap, State.stageLf_stagedLf, State.withScan_stagedLf]
  split <;> rfl

theorem exec_lfrRaymapLoad_of_accepted {k : Nat} {s : State} {img : List Byte} {m : RayMap}
    (h : Accepted 0x0601 rayMapChecks k s) (hi : img = rayMapImage (s.slot k) s)
    (hm : m = readRayMap img ((s.slot k).u 8 2) ((s.slot k).u 16 8)) :
    exec (.lfrRaymapLoad k) s =
      .next ((rayMapRefusal img m s).elim (done k (stageRayMap m (s.begun k))) (turnAway k s)) := by
  have hi' : (s.begun k).bufBytes ((s.slot k).u 8 2) ((s.slot k).u 16 8)
    (((s.begun k).buf ((s.slot k).u 8 2)).size - (s.slot k).u 16 8) = img := hi.symm
  show execLfrRaymapLoad k s = _
  rw [execLfrRaymapLoad, runCmd_accepted _ _ _ _ _ h]
  simp only [hi', ← hm, rayMapRefusal, heldRefusal]
  show Host.Outcome.next (if s.cal.lfRun = true then _ else _) = _
  split
  · rfl
  cases rayCountFault img with
  | some f => rfl
  | none =>
    show Host.Outcome.next (if s.fuse.part.emitterLimit < m.emitters then _ else _) = _
    split
    · rfl
    cases firstOf [rayHeaderFault img m img.length, earlierFault (regionFault img) (recordsFault img m)] with
    | some f => rfl
    | none =>
      show Host.Outcome.next (if 8 ≤ s.regionsUsed then _ else _) = _
      split <;> rfl

/-! ### LFR_EMITTER_CAL_LOAD (R249, R252) -/

/-- R249: the emitter table the command stages. -/
def emitterTable (d : Slot) (s : State) : GainTable :=
  if d.u 8 1 = 1 then
    { load := s.scan.mapLoad, table := true, handle := d.u 10 2, offset := d.u 16 8, count := s.stagedLf.map.emitters }
  else { load := s.scan.mapLoad }

theorem exec_lfrEmitterCalLoad_of_accepted {k : Nat} {s : State} (h : Accepted 0x0602 emitterCalChecks k s) :
    exec (.lfrEmitterCalLoad k) s = .next ((heldRefusal s).elim
      (done k (((s.begun k).withScan fun x => { x with mapLoad := s.scan.mapLoad + 1 }).stageLf fun c =>
        { c with gain := emitterTable (s.slot k) s })) (turnAway k s)) := by
  show execLfrEmitterCalLoad k s = _
  rw [execLfrEmitterCalLoad, runCmd_accepted _ _ _ _ _ h, heldRefusal]
  show Host.Outcome.next (if s.cal.lfRun = true then _ else _) = _
  split <;> rfl

/-! ### LFR_LUT_LOAD (R254, R255, R265) -/

/-- The image the command names. -/
def lutImage (d : Slot) (s : State) : List Byte := s.bufBytes (d.u 12 2) (d.u 16 8) (lutBytes (d.u 8 1))

/-- The first reason to refuse a table: a reserved byte that is set in a gamma table, the pool. IDENTITY has none. -/
def lutRefusal (d : Slot) (s : State) : Option (Nat × Nat × Nat) :=
  if bitAt (d.u 11 1) 0 = true then none
  else if d.u 8 1 = 1 then if 512 ≤ s.linUsed then some (0x14, 0x0701, 0) else none
  else ((imgZero (lutImage d s) 2050 2052).map imageRefusal).or <| if 48 ≤ s.gammaUsed then some (0x14, 0x0701, 0) else none

/-- R254: the table the command loads. -/
def lutTable (d : Slot) (s : State) : Loaded :=
  if bitAt (d.u 11 1) 0 = true then {}
  else ⟨s.prn.nextLoad, halfwords (if d.u 8 1 = 1 then lutImage d s else (lutImage d s).take 2050)⟩

/-- R254: the configuration with the command's table, linearising by plane or gamma by channel. -/
def putLut (d : Slot) (t : Loaded) (c : LfCfg) : LfCfg :=
  if d.u 8 1 = 1 then { c with lin := Tab.put {} c.lin (d.u 9 1) t } else { c with gamma := Tab.put {} c.gamma (d.u 10 1) t }

theorem exec_lfrLutLoad_of_accepted {k : Nat} {s : State} (h : Accepted 0x0603 lutChecks k s) :
    exec (.lfrLutLoad k) s = .next ((lutRefusal (s.slot k) s).elim
      (done k ((newLoads 1 (s.begun k)).stageLf fun c => putLut (s.slot k) (lutTable (s.slot k) s) c)) (turnAway k s)) := by
  show execLfrLutLoad k s = _
  rw [execLfrLutLoad, runCmd_accepted _ _ _ _ _ h]
  simp only [State.begun_bufBytes, lutRefusal, lutTable, lutImage, putLut]
  cases bitAt ((s.slot k).u 11 1) 0 with
  | true => simp
  | false =>
    by_cases hk : (s.slot k).u 8 1 = 1
    · simp only [hk, beq_self_eq_true, Bool.or_true, Bool.not_false, Bool.true_and, Bool.false_eq_true, if_true, if_false,
        decide_eq_true_eq]
      show Host.Outcome.next (if 512 ≤ s.linUsed then _ else _) = _
      split <;> rfl
    · simp only [hk, beq_eq_false_iff_ne.mpr hk, Bool.or_false, Bool.not_false, Bool.true_and, Bool.false_eq_true, if_false,
        decide_eq_true_eq]
      cases imgZero (s.bufBytes ((s.slot k).u 12 2) ((s.slot k).u 16 8) (lutBytes ((s.slot k).u 8 1))) 2050 2052 with
      | some f => rfl
      | none =>
        show Host.Outcome.next (if 48 ≤ s.gammaUsed then _ else _) = _
        split <;> rfl

/-- R254: a command that is not refused stages its table. -/
theorem lfrLutLoad_stages {k : Nat} {s : State} (h : Accepted 0x0603 lutChecks k s) (hr : lutRefusal (s.slot k) s = none) :
    ∃ t, exec (.lfrLutLoad k) s = .next t ∧ Completed k s t 0x00 0 0 ∧
      t.stagedLf = putLut (s.slot k) (lutTable (s.slot k) s) s.stagedLf := by
  obtain ⟨t, he, hd, hs, -⟩ := exec_done (exec_of_no_refusal (exec_lfrLutLoad_of_accepted h) hr) (State.begun_slot s k)
  exact ⟨t, he, hd, hs⟩

/-! ### SCAN_TIMING (R272 to R274, R276) -/

/-- R272: the settings of the scan after TIMING. -/
theorem scanTiming_sets {k : Nat} {s : State} (h : Accepted 0x0700 scanTimingChecks k s) (ha : (s.slot k).u 8 1 = 1) :
    ∃ t, exec (.scanTiming k) s = .next t ∧ Completed k s t 0x00 0 0 ∧
      t.stagedLf = { s.stagedLf with offsetA := (s.slot k).u 28 4, offsetB := (s.slot k).u 32 4 } ∧
      t.frames.nCut = (readScanTiming (s.slot k)).nCut ∧ t.scan = { s.scan with timing := readScanTiming (s.slot k) } := by
  have he : exec (.scanTiming k) s = .next (done k ((((s.begun k).withScan fun x =>
      { x with timing := readScanTiming (s.slot k) }).withFrames fun x =>
      { x with nCut := (readScanTiming (s.slot k)).nCut }).stageLf fun c =>
      { c with offsetA := (s.slot k).u 28 4, offsetB := (s.slot k).u 32 4 })) := by
    show execScanTiming k s = _
    rw [execScanTiming, runCmd_accepted _ _ _ _ _ h]
    exact congrArg _ (if_pos ha)
  obtain ⟨t, he, hd, hs, hf, hsc⟩ := exec_done he (State.begun_slot s k)
  exact ⟨t, he, hd, hs, by rw [hf]; rfl, hsc⟩

/-- The panel map image the command names, up to the end of its node table or of its buffer. -/
def panelImage (d : Slot) (s : State) : List Byte :=
  s.bufBytes (d.u 12 2) (d.u 16 8)
    (Nat.min (16 + 8 * numAt (s.bufBytes (d.u 12 2) (d.u 16 8) 16) 6 2) ((s.buf (d.u 12 2)).size - d.u 16 8))

/-- R274: the panel map of an image. -/
def readPanelMap (img : List Byte) : PanelMap := { subpix := byteAt img 5, cols := numAt img 8 4, nodes := panelNodes img }

/-- The first reason to refuse a panel map: its fields, a node table beyond the buffer, a rule of the map, the emitters. -/
def panelRefusal (img : List Byte) (m : PanelMap) (s : State) : Option (Nat × Nat × Nat) :=
  ((panelFieldFault img).map imageRefusal).or <|
    (if img.length < 16 + 8 * numAt img 6 2 then some (0x11, 0x0110, 6) else none).or <|
    ((firstCap [stripFault m, panelNodeFault s m]).map fun r => (0x11, 0x0110, r)).or <|
    if s.fuse.part.emitterLimit < m.cols * m.subpix * s.scan.timing.rowsActive then some (0x11, 0x0710, 0) else none

theorem exec_scanTiming_of_panelMap {k : Nat} {s : State} {img : List Byte} {m : PanelMap}
    (h : Accepted 0x0700 scanTimingChecks k s) (ha : (s.slot k).u 8 1 = 2) (hi : img = panelImage (s.slot k) s)
    (hm : m = readPanelMap img) :
    exec (.scanTiming k) s =
      .next ((panelRefusal img m s).elim (done k ((s.begun k).withScan fun x => { x with map := m })) (turnAway k s)) := by
  have hi' : (s.begun k).bufBytes ((s.slot k).u 12 2) ((s.slot k).u 16 8)
      (Nat.min (16 + 8 * numAt ((s.begun k).bufBytes ((s.slot k).u 12 2) ((s.slot k).u 16 8) 16) 6 2)
        (((s.begun k).buf ((s.slot k).u 12 2)).size - (s.slot k).u 16 8)) = img := hi.symm
  subst hm
  have hm' : { subpix := byteAt img 5, cols := numAt img 8 4, nodes := panelNodes img } = readPanelMap img := rfl
  have hn : panelNodeFault (s.begun k) (readPanelMap img) = panelNodeFault s (readPanelMap img) := rfl
  show execScanTiming k s = _
  rw [execScanTiming, runCmd_accepted _ _ _ _ _ h]
  simp only [ha, hi', hm', hn, panelRefusal, show ¬ (2 = 1) by decide, if_false]
  cases panelFieldFault img with
  | some f => rfl
  | none =>
    simp only
    split
    · rfl
    cases firstCap [stripFault (readPanelMap img), panelNodeFault s (readPanelMap img)] with
    | some r => rfl
    | none =>
      show Host.Outcome.next (if s.fuse.part.emitterLimit <
        (readPanelMap img).cols * (readPanelMap img).subpix * s.scan.timing.rowsActive then _ else _) = _
      split <;> rfl

/-! ### SCAN_POWER_POLICY and SCAN_SPLIT_CONFIG (R289, R294) -/

theorem scanPowerPolicy_stages {k : Nat} {s : State} (h : Accepted 0x0702 powerPolicyChecks k s) :
    ∃ t, exec (.scanPowerPolicy k) s = .next t ∧ Completed k s t 0x00 0 0 ∧
      t.stagedLf = { s.stagedLf with refreshDiv := (s.slot k).u 8 1, staticFrames := (s.slot k).u 10 2 } ∧ t.scan = s.scan := by
  have he : exec (.scanPowerPolicy k) s = .next (done k ((s.begun k).stageLf fun c =>
      { c with refreshDiv := (s.slot k).u 8 1, staticFrames := (s.slot k).u 10 2 })) := by
    show execScanPowerPolicy k s = _
    rw [execScanPowerPolicy, runCmd_accepted _ _ _ _ _ h]
  obtain ⟨t, he, hd, hs, -, hsc⟩ := exec_done he (State.begun_slot s k)
  exact ⟨t, he, hd, hs, hsc⟩

/-- R294: the lock with its partner set, or cleared but for its skews and its count of repeats. -/
def splitPartnered (d : Slot) (x : Split) : Split :=
  if d.u 8 1 = 2 then { skewOwn := x.skewOwn, skewPartner := x.skewPartner, repeats := x.repeats }
  else { x with partner := some (d.u 9 1) }

theorem splitPartnered_repeats (d : Slot) (x : Split) : (splitPartnered d x).repeats = x.repeats := by
  rw [splitPartnered]
  split <;> rfl

theorem scanSplitConfig_sets {k : Nat} {s : State} (h : Accepted 0x0703 splitChecks k s) :
    ∃ t, exec (.scanSplitConfig k) s = .next t ∧ Completed k s t 0x00 0 0 ∧
      t.scan = { s.scan with split := { splitPartnered (s.slot k) s.scan.split with
        waitUs := if (s.slot k).u 10 2 = 0 then 100 else (s.slot k).u 10 2
        miss := if (s.slot k).u 12 1 = 0 then 3 else (s.slot k).u 12 1 } } := by
  have he : exec (.scanSplitConfig k) s = .next (done k ((s.begun k).withScan fun x =>
      { x with split := { splitPartnered (s.slot k) x.split with
        waitUs := if (s.slot k).u 10 2 = 0 then 100 else (s.slot k).u 10 2
        miss := if (s.slot k).u 12 1 = 0 then 3 else (s.slot k).u 12 1 } })) := by
    show execScanSplitConfig k s = _
    rw [execScanSplitConfig, runCmd_accepted _ _ _ _ _ h]
    rfl
  obtain ⟨t, he, hd, -, -, hsc⟩ := exec_done he (State.begun_slot s k)
  exact ⟨t, he, hd, hsc⟩

/-! ### The commands together -/

/-- Settles O44: each command stages or sets what its form gives, or is turned away for the first reason to refuse it. -/
theorem lightFieldStagingAndTiming : Obligations.LightFieldStagingAndTiming := by
  refine ⟨fun s k n p h hn hp => ⟨fun ha => ?bind, fun ha => ?unbind, fun ha => ?rebind, fun ha => ?background⟩,
    fun s k hd off img m h hh ho hi hm => ⟨fun hc hcount hlim hhead htab hpool => ?rayMap, fun st det res hr => ?noRayMap⟩,
    fun s k h => ⟨fun hc => ?emitterTable, fun hc => ?held⟩,
    fun s k kind bs h hk hb => ⟨fun hl hi hp => ?lin, fun hg hi hz hp => ?gamma, fun hi => ?identity,
      fun hi st det res hr => ?noLut⟩,
    fun s k h ha => ?timing,
    fun s k img m h ha hi hm => ⟨fun hf hlen hs hn hlim => ?panelMap, fun det res hr => ?noPanelMap⟩,
    fun s k h => scanPowerPolicy_stages h, fun s k h => ?split⟩
  case bind =>
    subst hn hp
    obtain ⟨t, he, hd, hs, hf⟩ := lfrSceneBind_stages h
    rw [sceneStaged, if_pos ha] at hs
    exact ⟨t, he, hd, by rw [hs]; exact Tab.get_put_same .., fun m hm => by rw [hs]; exact get_bindPlaneInto_ne _ _ hm, hf⟩
  case unbind =>
    subst hn
    obtain ⟨t, he, hd, hs, -⟩ := lfrSceneBind_stages h
    rw [sceneStaged, if_neg (by omega), if_pos ha] at hs
    exact ⟨t, he, hd, by rw [hs, Tab.get_put_same], fun m hm => by rw [hs, Tab.get_put_ne _ _ _ _ _ hm]⟩
  case rebind =>
    subst hn
    obtain ⟨t, he, hd, hs, -⟩ := lfrSceneBind_stages h
    rw [sceneStaged, if_neg (by omega), if_neg (by omega), if_pos ha, Tab.upd] at hs
    exact ⟨t, he, hd, by rw [hs, Tab.get_put_same], fun m hm => by rw [hs, Tab.get_put_ne _ _ _ _ _ hm]⟩
  case background =>
    obtain ⟨t, he, hd, hs, -⟩ := lfrSceneBind_stages h
    rw [sceneStaged, if_neg (by omega), if_neg (by omega), if_neg (by omega)] at hs
    exact ⟨t, he, hd, hs⟩
  case rayMap =>
    subst hh ho
    have hr : rayMapRefusal img m s = none := by
      simp [rayMapRefusal, heldRefusal, firstOf, hc, hcount, hlim, hhead, htab, hpool]
    obtain ⟨t, he, hd, hs, -⟩ :=
      exec_done (exec_of_no_refusal (exec_lfrRaymapLoad_of_accepted h hi hm) hr) (State.begun_slot s k)
    rw [stageRayMap_stagedLf] at hs
    refine ⟨t, he, hd, hs, ?_⟩
    rw [hs, hm]
    exact ⟨rfl, rfl, rfl, rfl, rfl⟩
  case noRayMap =>
    subst hh ho
    refine exec_refused (exec_lfrRaymapLoad_of_accepted h hi hm) ?_
    rw [rayMapRefusal, heldRefusal]
    rcases hr with ⟨hc, rfl, rfl, rfl⟩ | ⟨hc, f, hf, rfl, rfl, rfl⟩ | ⟨hc, hcount, hlim, rfl, rfl, rfl⟩ |
      ⟨hc, hcount, hlim, f, hf, rfl, rfl, rfl⟩ | ⟨hc, hcount, hlim, hhead, htab, hpool, rfl, rfl, rfl⟩
    · simp [hc]
    · simp [hc, hf, imageRefusal]
    · simp [hc, hcount, hlim]
    · simp [hc, hcount, if_neg (Nat.not_lt.mpr hlim), hf, imageRefusal]
    · simp [hc, hcount, if_neg (Nat.not_lt.mpr hlim), firstOf, hhead, htab, hpool]
  case emitterTable =>
    obtain ⟨t, he, hd, hs, -⟩ := exec_done
      (exec_of_no_refusal (exec_lfrEmitterCalLoad_of_accepted h) (by simp [heldRefusal, hc])) (State.begun_slot s k)
    refine ⟨t, he, hd, fun ha => ?_, fun ha => ?_⟩
    · rw [hs, State.stageLf_stagedLf, emitterTable, if_pos ha]
      rfl
    · rw [hs, State.stageLf_stagedLf, emitterTable, if_neg (by omega)]
      rfl
  case held => exact exec_refused (exec_lfrEmitterCalLoad_of_accepted h) (by simp [heldRefusal, hc])
  case lin =>
    subst hk hb
    obtain ⟨t, he, hd, hs⟩ := lfrLutLoad_stages h (by simp [lutRefusal, hi, hl, hp])
    rw [putLut, if_pos hl, lutTable, hi, if_neg Bool.false_ne_true, if_pos hl] at hs
    refine ⟨t, he, hd, ?_, fun m hm => by rw [hs, Tab.get_put_ne _ _ _ _ _ hm], by rw [hs]⟩
    rw [hs, Tab.get_put_same]
    rfl
  case gamma =>
    subst hk hb
    have hl : (s.slot k).u 8 1 ≠ 1 := by omega
    have hz' : imgZero (lutImage (s.slot k) s) 2050 2052 = none := hz
    obtain ⟨t, he, hd, hs⟩ := lfrLutLoad_stages h (by simp [lutRefusal, hi, hl, hz', hp])
    rw [putLut, if_neg hl, lutTable, hi, if_neg Bool.false_ne_true, if_neg hl] at hs
    refine ⟨t, he, hd, ?_, fun m hm => by rw [hs, Tab.get_put_ne _ _ _ _ _ hm], by rw [hs]⟩
    rw [hs, Tab.get_put_same]
    rfl
  case identity =>
    subst hk
    obtain ⟨t, he, hd, hs⟩ := lfrLutLoad_stages h (by simp [lutRefusal, hi])
    rw [lutTable, if_pos hi, putLut] at hs
    refine ⟨t, he, hd, fun ha => ?_, fun ha => ?_⟩
    · rw [hs, if_pos ha, Tab.get_put_same]
      exact ⟨rfl, rfl⟩
    · rw [hs, if_neg (by omega), Tab.get_put_same]
      exact ⟨rfl, rfl⟩
  case noLut =>
    subst hk
    refine exec_refused (exec_lfrLutLoad_of_accepted h) ?_
    have hb' : lutImage (s.slot k) s = bs := hb.symm
    rw [lutRefusal, hb', hi, if_neg Bool.false_ne_true]
    rcases hr with ⟨hl, hp, rfl, rfl, rfl⟩ | ⟨hg, f, hf, rfl, rfl, rfl⟩ | ⟨hg, hz, hp, rfl, rfl, rfl⟩
    · rw [if_pos hl, if_pos hp]
    · simp [hg, hf, imageRefusal]
    · simp [hg, hz, hp]
  case timing =>
    obtain ⟨t, he, hd, hs, hn, hsc⟩ := scanTiming_sets h ha
    exact ⟨t, he, hd, by rw [hsc]; rfl, hn, hs, by rw [hsc]⟩
  case panelMap =>
    have hr : panelRefusal img m s = none := by simp [panelRefusal, firstCap, hf, hlen, hs, hn, hlim]
    obtain ⟨t, he, hd, -, hfr, hsc⟩ :=
      exec_done (exec_of_no_refusal (exec_scanTiming_of_panelMap h ha hi hm) hr) (State.begun_slot s k)
    exact ⟨t, he, hd, hsc, hfr⟩
  case noPanelMap =>
    refine exec_refused (exec_scanTiming_of_panelMap h ha hi hm) ?_
    rw [panelRefusal]
    rcases hr with ⟨f, hf, rfl, rfl⟩ | ⟨hf, hlen, rfl, rfl⟩ | ⟨hf, hlen, hs, rfl⟩ | ⟨hf, hlen, hs, hn, rfl⟩ |
      ⟨hf, hlen, hs, hn, hlim, rfl, rfl⟩
    · simp [hf, imageRefusal]
    · simp [hf, hlen]
    · simp [hf, if_neg (Nat.not_lt.mpr hlen), firstCap, hs]
    · simp [hf, if_neg (Nat.not_lt.mpr hlen), firstCap, hs, hn]
    · simp [hf, if_neg (Nat.not_lt.mpr hlen), firstCap, hs, hn, hlim]
  case split =>
    obtain ⟨t, he, hd, hsc⟩ := scanSplitConfig_sets h
    refine ⟨t, he, hd, ?_⟩
    rw [hsc]
    refine ⟨rfl, rfl, fun ha => ?_, fun ha => ?_, splitPartnered_repeats _ _, rfl⟩
    · simp [splitPartnered, ha]
    · simp [splitPartnered, ha]

end Sys2Proof.Machine
end

section
/-! What each command leaves of OTP (R500, R506, R510, R511): the frame of every row but LCS_OTP_WRITE and LCS_TRANSITION keeps
it, and of these two LCS_OTP_WRITE item ROLLBACK_COMMIT alone changes the rollback count. -/

namespace Sys2Proof.Machine

variable {s t : State} {k : Nat}

/-! ### The life-cycle block under a command of the catalogue -/

@[simp] theorem locked_lcs (k detail result : Nat) (s : State) : (locked k detail result s).lcs = s.lcs :=
  complete_lcs ..

@[simp] theorem badImage_lcs (k off reason result : Nat) (s : State) : (badImage k off reason result s).lcs = s.lcs :=
  complete_lcs ..

/-- R510, R511: a burned record adds one generation, and the rest of the life-cycle block is as before. -/
theorem burnRecord_lcs (k : Nat) (r : List Byte) (s : State) :
    (burnRecord k r s).lcs = { s.lcs with records := s.lcs.records ++ [if s.freeNat 1 == 1 then r else []] } := by
  rw [burnRecord]
  split <;> simp

/-- R31, R63: a command of the catalogue leaves the life-cycle block alone or has its effect. -/
theorem runCmd_lcs_or_body {op : Nat} {c : Checks} {body : Nat → Slot → State → State} (ht : runCmd op k c body s = .next t) :
    t.lcs = s.lcs ∨ t = body k (s.slot k) (s.begun k) := by
  unfold runCmd at ht
  split at ht
  · extract_lets d s1 at ht
    split at ht
    · cases ht
      exact .inl (by simp [s1])
    · split at ht
      · cases ht
        exact .inl (by simp [s1])
      · cases ht
        exact .inr rfl
  · cases ht
    exact .inl rfl

/-! ### The rollback count -/

/-- R506: a transition leaves the rollback count as it is. -/
theorem execLcsTransition_rollback (ht : execLcsTransition k s = .next t) : t.lcs.rollback = s.lcs.rollback := by
  rcases runCmd_lcs_or_body ht with h | rfl
  · rw [h]
  · extract_lets target
    split <;> simp

/-- R500: ROLLBACK_COMMIT raises the rollback count to the ROLLBACK of the running image, unless it is as high already. -/
def Lcs.committed (x : Lcs) : Lcs := { x with rollback := Nat.max x.rollback x.fwRollback }

theorem Lcs.committed_rollback (x : Lcs) :
    x.committed.rollback = if x.rollback < x.fwRollback then x.fwRollback else x.rollback := by
  split
  next hlt => exact Nat.max_eq_right (Nat.le_of_lt hlt)
  next hge => exact Nat.max_eq_left (Nat.le_of_not_lt hge)

/-- R500, R510: LCS_OTP_WRITE leaves the rollback count as it is, but for item ROLLBACK_COMMIT. -/
theorem execLcsOtpWrite_rollback (ht : execLcsOtpWrite k s = .next t) :
    t.lcs.rollback = s.lcs.rollback ∨ ((s.slot k).u 8 1 = 2 ∧ t.lcs = s.lcs.committed) := by
  rcases runCmd_lcs_or_body ht with h | rfl
  · exact .inl (by rw [h])
  · split
    next hitem => exact .inr ⟨hitem, doneWith_lcs ..⟩
    · left
      split
      · simp
      · extract_lets r
        split
        · simp
        · split
          · simp
          · simp [burnRecord_lcs]

/-- R500: an accepted ROLLBACK_COMMIT completes and commits. -/
theorem exec_rollbackCommit_of_accepted (h : Accepted 0x0F02 lcsOtpWriteChecks k s) (hitem : (s.slot k).u 8 1 = 2) :
    ∃ t, exec (.lcsOtpWrite k) s = .next t ∧ t.lcs = s.lcs.committed := by
  show ∃ t, execLcsOtpWrite k s = .next t ∧ t.lcs = s.lcs.committed
  rw [execLcsOtpWrite, runCmd_accepted _ _ _ _ _ h, if_pos hitem]
  exact ⟨_, rfl, doneWith_lcs ..⟩

/-- R500: a command that changes the rollback count is LCS_OTP_WRITE with item ROLLBACK_COMMIT. -/
theorem exec_rollback_changed (c : Instr) (ht : exec c s = .next t) (hne : t.lcs.rollback ≠ s.lcs.rollback) :
    ∃ k, c = .lcsOtpWrite k ∧ (s.slot k).u 8 1 = 2 ∧ t.lcs = s.lcs.committed := by
  by_cases hm : (mayChange c).contains .otp = false
  · obtain ⟨-, -, -, -, hroll⟩ := ((exec_keeps c s).keeps t ht).otp hm
    exact absurd hroll hne
  · cases c with
    | lcsOtpWrite k =>
      obtain ⟨hitem, hlcs⟩ := (execLcsOtpWrite_rollback ht).resolve_left hne
      exact ⟨k, rfl, hitem, hlcs⟩
    | lcsTransition k => exact absurd (execLcsTransition_rollback ht) hne
    | _ => exact absurd rfl hm

/-- Settles O4: every row burns OTP further at most, by its frame; a count that a ROLLBACK_COMMIT changed is that of the running
image. -/
theorem otpOnlyGains : Obligations.OtpOnlyGains := by
  refine ⟨fun c s t ht => ?_, fun s k h hitem => ?_⟩
  · obtain ⟨hblank, hsecured, hretired, hrecords, hrollback⟩ := ((exec_keeps c s).keeps t ht).otpLe
    refine ⟨hblank, hsecured, hretired, hrecords, hrollback, fun hne => ?_⟩
    obtain ⟨k, hc, hitem, hlcs⟩ := exec_rollback_changed c ht hne
    refine ⟨k, hc, hitem, ?_⟩
    rw [hlcs, Lcs.committed_rollback] at hne ⊢
    exact if_pos (Classical.byContradiction fun hlt => hne (if_neg hlt))
  · obtain ⟨t, he, hlcs⟩ := exec_rollbackCommit_of_accepted h hitem
    exact ⟨t, he, by rw [hlcs, Lcs.committed_rollback]⟩

end Sys2Proof.Machine
end
